-- ==== Sys2Proof/Word.lean ====
section
/-! DEFINITION. The machine words of the MZT-6400 and the one container its sparse state is held in.
Registers are 32 bits (R5), data-path registers of a flow core 64 bits (R273). -/
namespace Sys2Proof

/-- A 32-bit register word. -/
abbrev Word := BitVec 32
/-- A 64-bit word. -/
abbrev DWord := BitVec 64
/-- A byte. -/
abbrev Byte := BitVec 8
/-- Sparse data by key, kept sorted with strictly rising keys. -/
abbrev Map (α : Type) := List (Nat × α)

end Sys2Proof
end

