-- ==== Sys2Proof/Types.lean ====
section
/-! DEFINITION. The operand types of the commands: port and core numbers, submission entries, the event catalogue
of R420, the completion status codes of R131, and what the outside hands to the block. -/

namespace Sys2Proof

/-- Host ports H0 to H7 (R12). -/
abbrev HostPort := Fin 8
/-- Network ports 0 to 31 (R11). -/
abbrev NetPort := Fin 32
/-- Logical cores 0 to 191 (R16). -/
abbrev CoreId := Fin 192
/-- Hardware threads of a core (R16). -/
abbrev ThreadId := Fin 16
/-- Tenant indices (R59). -/
abbrev TenantId := Fin 4096
/-- The eight classes of a port. -/
abbrev ClassId := Fin 8

/-- The two functions of a host port (R71). -/
inductive Fn where
  | pf0 | pf1
  deriving DecidableEq, Repr

/-- A register space that a host reaches (R48, R49, R55): PF0 BAR0, the tenant pages of PF1 BAR0, PF1 BAR4. -/
inductive Space where
  | unit | tenant | msix
  deriving DecidableEq, Repr

/-- A submission entry of 16 words (R102). A word beyond the list reads zero. -/
structure Entry where
  dw : List Word
  deriving DecidableEq, Repr

/-- What a host-memory read returns: its data, or how it failed (R395). -/
inductive HostData where
  | ok (bytes : List Byte)
  | error
  | timeout
  deriving DecidableEq, Repr

/-- What an outstanding host-memory read is for (R82). -/
inductive ReadRef where
  /-- A DMA read, found under its tag. -/
  | dma
  /-- A doorbell record, a ring, and a head record of a CQ or an EQ, by queue index. -/
  | doorbell (sq : Nat)
  | ring (sq : Nat)
  | head (isEq : Bool) (queue : Nat)
  /-- The rule-set image of a slot and the attach record of a port's NS_ATTACH. -/
  | image (slot : Fin 4)
  | attach (port : HostPort)
  /-- The head record of a dump ring: 0 the device ring, else tenant + 1. -/
  | dump (ring : Nat)
  /-- The flow-core image that a port's IMAGE_LOAD names (R426). -/
  | fcImage (port : HostPort)
  deriving DecidableEq, Repr

/-- Attributes of a memory request: Relaxed Ordering, ID-Based Ordering, No Snoop (R68, R70). -/
structure TlpAttr where
  ro : Bool := false
  ido : Bool := false
  ns : Bool := false
  deriving DecidableEq, Repr

/-- The errors of AER (R75, R82 to R85): first the correctable ones, then the uncorrectable ones. -/
inductive AerErr where
  | receiverError | badTlp | badDllp | replayRollover | replayTimeout | advisoryNonFatal | correctedInternal
  | headerOverflow
  | dlProtocol | poisonedTlp | flowControl | cplTimeout | unexpectedCpl | receiverOverflow | malformedTlp
  | unsupportedRequest | uncorrectableInternal
  deriving DecidableEq, Repr

/-- The three error messages: ERR_COR, ERR_NONFATAL, ERR_FATAL (R83, R85). -/
inductive Sev where
  | cor | nonFatal | fatal
  deriving DecidableEq, Repr

/-- What a configuration request to a function reads, or changes beside the bits that have a command of their own (R48,
R68, R71, R73, R81, R84, R85, R87, R92, R93). -/
inductive CfgWrite where
  /-- A read of the word at a byte offset of the function's configuration space. -/
  | read (off : Fin 4096)
  /-- A BAR register, 0 to 5. -/
  | bar (k : Fin 6) (value : Word)
  /-- Relaxed Ordering, No Snoop, ID-Based Ordering and LTR enables; L1.1 enable. -/
  | relaxed (on : Bool)
  | snoop (on : Bool)
  | idOrder (on : Bool)
  | ltr (on : Bool)
  | l11 (on : Bool)
  /-- The LTR maximum latencies (PF0). -/
  | ltrMax (value : Word)
  /-- The AER registers: statuses written 1 to clear, masks, severity. -/
  | uncStatus (clear : Word)
  | uncMask (value : Word)
  | uncSeverity (value : Word)
  | corStatus (clear : Word)
  | corMask (value : Word)
  /-- Bus Master Enable set. -/
  | busMaster
  /-- Memory Space Enable. -/
  | memSpace (on : Bool)
  /-- PASID Enable set. -/
  | pasid
  /-- Completion Timeout Value of Device Control 2. -/
  | cplTimeout (v : Fin 16)
  /-- Max_Payload_Size and Max_Read_Request_Size codes: 128 bytes shifted left. -/
  | mps (code : Fin 4)
  | mrrs (code : Fin 6)
  | pmeEn (on : Bool)
  /-- PTM Enable of the PTM Control register (R31). -/
  | ptm (on : Bool)
  /-- PME_Status written 1. -/
  | pmeClear
  /-- AER severity of Uncorrectable Internal Error. -/
  | severity (fatal : Bool)
  /-- MSI-X Enable of PF1, Function Mask set, and the mask bit of a vector set. -/
  | msix (on : Bool)
  | funcMask
  | vecMask (vec : Fin 2048)
  deriving DecidableEq, Repr

/-- What a host link does without going down, and the errors that the port finds on it, with the function that the failing
request targeted, if any (R68, R84, R92, R95, R115). -/
inductive LinkChange where
  | error (err : AerErr) (fn : Option Fn)
  | enterL0p (width : Fin 17)
  | leaveL0p
  /-- Into L1, or with `sub` into L1.1. -/
  | enterL1 (sub : Bool)
  | leaveL1
  /-- A retraining in place to a width and a speed code. -/
  | retrain (width : Fin 17) (speed : Fin 8)
  deriving DecidableEq, Repr

/-- What a 1588 message with an ORGANIZATION_EXTENSION TLV carries (R29): the origin time, corrections included, in
2^-16 ns, and the fields of the TLV. -/
structure Beacon where
  origin : Nat
  org : BitVec 24
  orgSub : BitVec 24
  quality : Nat
  epoch : Nat := 0
  node : Nat := 0
  err : Nat := 0
  seq : Nat := 0
  deriving DecidableEq, Repr

/-- A frame as it crosses the MDI of a port, with what its PCS and MAC merge sublayer found (R155, R158, R166). -/
structure WireFrame where
  /-- Destination address to the last byte before the FCS. -/
  bytes : List Byte
  fcsOk : Bool := true
  pcsErr : Bool := false
  /-- Number of fragments through the preemptable MAC; 0: through the express MAC. -/
  frags : Nat := 0
  /-- MAC merge error: 0 none, 1 reassembly, 2 SMD. -/
  mmErr : Fin 3 := 0
  /-- Codewords corrected and uncorrectable, and symbols corrected, since the last frame. -/
  fec : Nat × Nat × Nat := (0, 0, 0)
  /-- Time since the first symbol after its delimiter crossed the MDI, in 2^-16 ns (R37). -/
  age : Nat := 0
  deriving DecidableEq, Repr

/-- What the codes of the Mere find in one read (R234, R241): the 64-byte blocks, from the read's first as 0, that the
end-to-end code corrects, those that a stack's on-die code corrects, and the first that cannot be corrected. -/
structure Ecc where
  corr : List Nat := []
  onDie : List Nat := []
  lost : Option Nat := none
  deriving DecidableEq, Repr

/-- What the code of a core's local memory finds in an access (R266, R435). -/
inductive LmErr where
  | ok
  | corrected
  | lost
  deriving DecidableEq, Repr

/-- What the tables suffer in a lookup, from outside the block: entries whose parity or ECC fails, and whether the
caches serve it at once (R193, R201, R216, R217). -/
structure Upset where
  /-- Rules of the searched set whose parity fails. -/
  tcam : List Nat := []
  /-- The lookup has to wait for a miss service or an LPM slot. -/
  wait : Bool := false
  /-- The route-cache entry is gone by replacement. -/
  rcGone : Bool := false
  /-- The parity of the cache entry fails: of the exact-match search, of the route or destination search, and of the source
  lookup. -/
  emParity : Bool := false
  cacheParity : Bool := false
  srcParity : Bool := false
  /-- LPM positions whose parity fails; the next hop's parity fails. -/
  lpm : List Nat := []
  nh : Bool := false
  /-- Positions with an uncorrectable error: of the exact-match search, and of the learning table in the destination search and
  in the source lookup. -/
  ecc : List Nat := []
  eccL2 : List Nat := []
  eccSrc : List Nat := []
  /-- Errors corrected in the blocks of the system region that the command reads, by number of the block in the region
  (R220, R234). -/
  sys : Ecc := {}
  /-- What the codes find in the packet that is read from its buffer to be classified (R234). -/
  frame : Ecc := {}
  deriving DecidableEq, Repr

/-- The event codes of the catalogue (R420). -/
inductive Ev where
  | ftRefLost
  | ftInbandLost
  | ftHoldoverEnter
  | ftHoldoverLong
  | ftRelocked
  | ftEventCancelled
  | ftPtmFail
  | ftDistFault
  | hlNoFlit
  | hlLinkDown
  | hlCplTimeout
  | hlLateCpl
  | hlPeerRefused
  | hlWinCommitErr
  | qmAqNoAbi
  | qmDbStale
  | qmDbRange
  | qmFetchErr
  | qmPushDiscard
  | qmScanDemote
  | qmCqOverrun
  | qmCqHeadRange
  | qmEqFull
  | tnFenceTimeout
  | tnPortDisable
  | maLinkUp
  | maLinkDown
  | maEgFlush
  | maPauseStorm
  | maPauseTxStorm
  | maPreemptVerifyFail
  | paNoRuleset
  | paRsActivated
  | paRsDrainTimeout
  | paRsRetiredPkt
  | paTcamParity
  | moveConflict
  | fwLearnFull
  | fwLookupOverrun
  | fwTableEcc
  | fwParity
  | msDoubleFree
  | msForeignFree
  | msQuarantine
  | msPoolLow
  | msEccCorr
  | msEccUncorr
  | mcTemp2x
  | mcTempHot
  | mcNeighbourStorm
  | mcTrainFail
  | mcMigStart
  | mcMigDone
  | mcMigAborted
  | mutualWait
  | fcThreadFault
  | fcCoreRestart
  | fcCoreOffline
  | fcStopTimeout
  | fcRingFull
  | tpConnFailed
  | tpVersionReject
  | tpPathSuspend
  | tpNoRoute
  | tpAuthFail
  | egAdmitDrop
  | egGateOverrun
  | egCalSwapped
  | slStomped
  | slHostBad
  | slParity
  | lsKeySealed
  | lsKeyRolled
  | lsOpExpired
  | lsEntropyFail
  | sxAttachFail
  | sxSessionDown
  | sxProtocolErr
  | sxCmdTimeout
  | dxBusErr
  | dxEngOffline
  | tlDumpSkipped
  | tlDumpLate
  | lkMbProtocol
  | lkImageReject
  | lkBootCfgReject
  | lkThermalWarn
  | lkThermalTrip
  | lkRailFault
  | lkClockFault
  | lkNocFault
  | lkCtrlEcc
  | lkSramCorr
  | lkDeviceReset
  | mdSubstituted
  | mdSpareExhausted
  | mdLedgerFull
  | dbAuthFail
  | dbSessionOpen
  deriving DecidableEq, Repr

/-- What the target answers while a storage session is set up (R375, R377): the status of Connect for the admin and the I/O
queue, the controller it gives, IOCCSZ and MAXH2CDATA; the status of Identify Namespace, NSZE, log2 of the LBA size, the
metadata bytes of an LBA; and, for TCP, its initial sequence number, its window and the scale of it, the segment size and the
options agreed, and whether a C2HData with the SUCCESS flag ends Identify. -/
structure SessUp where
  admin : Nat
  io : Nat
  cntlid : Nat
  ioccsz : Nat
  maxh2c : Nat
  idSt : Nat
  nsze : Nat
  lba : Nat
  mdBytes : Nat
  irs : Nat
  wnd : Nat
  scale : Nat
  mss : Nat
  ts : Bool
  sack : Bool
  success : Bool
  deriving DecidableEq, Repr

/-- How the setup of a storage session ends (R375): with the answers of the target, or TCP refused. -/
inductive SessEnd where
  | up (x : SessUp)
  | refused
  deriving DecidableEq, Repr

/-- BOOT_CFG as decoded (R457): MGMT_PORT, PORT_WIDTH, OCTET_CFG, OCTET_EN, four subsystem IDs, carve-out sizes in GiB,
HC_HALVES, CLUSTER_GATE, and whether its reserved fields are zero. -/
structure BootCfg where
  mgmt : Nat
  width : Nat
  octets : Nat
  octetEn : Nat
  ids : List Nat
  carve : List Nat
  hcHalves : Nat
  clGate : Bool
  resvZero : Bool
  deriving DecidableEq, Repr

/-- SIGNED_CFG as decoded (R355, R426, R435, R445, R465, R470): root keys by number, likeness level, LS_SC, LK_WEAR_0 to
LK_WEAR_2, TRIP_C and WARN_C, and the hash of the debug key. -/
structure SignedCfg where
  roots : List (Nat × List Byte)
  level : Option Nat
  sc : Nat
  wear : List Nat
  trip : Nat
  warn : Nat
  debugKey : Option (List Byte)
  deriving DecidableEq, Repr

/-- What an image's body means, for the types whose body this model reads (R452). -/
inductive ImgBody where
  | other
  | bootCfg (c : BootCfg)
  | signedCfg (c : SignedCfg)
  deriving DecidableEq, Repr

/-- A signed image (R453): its bytes from the header on, the meaning of its body, and whether its key's hash matches the
fuse hash of its key slot and its signature verifies (R454). -/
structure SignedImg where
  bytes : List Byte
  body : ImgBody
  sigOk : Bool
  deriving DecidableEq, Repr

/-- An entry of the flash directory (R452): type, bank (0 A, 1 B), image slot, and its image. -/
structure FlashEnt where
  typ : Nat
  bank : Nat
  slot : Nat
  img : SignedImg
  deriving DecidableEq, Repr

/-- A directory copy whose CRC is valid (R452). -/
structure FlashDir where
  seq : Nat
  ents : List FlashEnt
  deriving DecidableEq, Repr

/-- What a boot stage finds (R240, R437, R452): the two directory copies; the stacks that pass training at first and at
the retry, as bits; the parts that fail their self-test, by ledger kind. The other stages find nothing new. -/
inductive StageIn where
  | flash (a b : Option FlashDir)
  | train (first retry : Fin 16)
  | selfTest (bad : List (Nat × Nat))
  | plain
  deriving DecidableEq, Repr

/-- The wear monitors (R435). -/
inductive Monitor where
  | coreUncorr | coreCorr | pcCorr | pcUncorr | pcOnDie | lpmParity | aesKat | gfKat | sramRow | tcamRow
  deriving DecidableEq, Repr

/-- The completion status codes (R131). -/
inductive Status where
  | success
  | invalidOpcode
  | invalidField
  | invalidHandle
  | staleHandle
  | chainInvalid
  | notPermitted
  | noResource
  | inUse
  | allowanceExceeded
  | scanBudget
  | pasidDisabled
  | ftNotValid
  | ftInstantPast
  | ftInstantFar
  | hostReadTimeout
  | hostReadError
  | bufDoubleFree
  | bufForeignFree
  | quotaExceeded
  | requesterQuarantined
  | keyExhausted
  | lengthLimit
  | rulesetLimit
  | mftNoCommonVersion
  | mftPeerUnreachable
  | nvmeError
  | storageTimeout
  | workDiscarded
  deriving DecidableEq, Repr

end Sys2Proof
end

