-- ==== Sys2Proof/Syntax.lean ====
section
/-! DEFINITION. The commands of the MZT-6400: one constructor per row of spec/opcode_table.json, with the row's
operands. A command is one indivisible step (95_what_each_step_holds.md). -/
namespace Sys2Proof

/-- The commands (spec/opcode_table.json). -/
inductive Instr where
  /-- REG_WRITE (R51): A write to a register that has no row of its own is checked against its form, its port and its field ranges, and is then applied or discarded. -/
  | regWrite (port : HostPort) (sp : Space) (off : Fin 268435456) (wide : Bool) (lowFull : Bool) (highFull : Bool) (value : DWord)
  /-- REG_ACCESS_OVERSIZE (R51): A register-space request longer than 8 bytes completes with Unsupported Request and touches no register. -/
  | regAccessOversize (port : HostPort) (write : Bool)
  /-- REG64_LOW_READ (R53): A read of the low word of a 64-bit register loads the function's read latch with the register's high word. -/
  | reg64LowRead (port : HostPort) (sp : Space) (off : Fin 268435456) (wide : Bool)
  /-- FT_NOW_READ (R46): A read of FT_NOW_0 latches all four words of the full timestamp in the PCLK in which the read reaches the FT unit. -/
  | ftNowRead (port : HostPort)
  /-- FT_EPOCH_READ (R46): A read of FT_EPOCH_LO latches FT_EPOCH_HI. -/
  | ftEpochRead (port : HostPort)
  /-- FT_ENABLE (R33): Setting FT_CTRL.ENABLE lets the FT unit leave UNSET for ACQUIRE once a selected source is valid. -/
  | ftEnable (port : HostPort)
  /-- FT_ENABLE_CLEAR (R33): Clearing FT_CTRL.ENABLE returns the FT unit to UNSET and cancels every armed event. -/
  | ftEnableClear (port : HostPort)
  /-- RESTART (R33): Writing FT_CTRL.RESTART returns the FT unit to UNSET, cancels every armed event, and re-enters ACQUIRE at once if a source is valid. -/
  | restart (port : HostPort)
  /-- TOD_ARM (R46): Writing FT_CTRL.TOD_ARM arms loading of FT_TOD at the next PPS edge in UNSET or ACQUIRE; in any other state it sets TOD_IGN. -/
  | todArm (port : HostPort)
  /-- PPS_EDGE (R33): A rising edge on FT_PPS_IN gives a servo sample, which may load a pending TOD, step, slew, lock or relock the count. -/
  | ppsEdge (refOk : Bool)
  /-- SYNC_RX (R28): A received 1588 Sync message of the configured domain is taken, and gives a beacon sample in one-step mode. -/
  | syncRx (port : NetPort) (domain : Nat) (seq : Nat) (age : Nat) (tlv : Option Beacon)
  /-- FOLLOW_UP_RX (R29): A received Follow_Up carrying the epoch-beacon TLV gives a beacon sample in two-step mode. -/
  | followUpRx (port : NetPort) (domain : Nat) (seq : Nat) (tlv : Beacon)
  /-- DELAY_REQ_RX (R28): A received Delay_Req message is taken under the delay request-response mechanism. -/
  | delayReqRx (port : NetPort) (domain : Nat) (seq : Nat) (age : Nat)
  /-- DELAY_RESP_RX (R28): A received Delay_Resp message gives the path delay under the delay request-response mechanism. -/
  | delayRespRx (port : NetPort) (domain : Nat) (seq : Nat) (t4 : Nat)
  /-- PDELAY_REQ_RX (R28): A received Pdelay_Req message is taken under the peer delay mechanism. -/
  | pdelayReqRx (port : NetPort) (domain : Nat) (seq : Nat) (age : Nat)
  /-- PDELAY_RESP_RX (R28): A received Pdelay_Resp message is taken under the peer delay mechanism. -/
  | pdelayRespRx (port : NetPort) (domain : Nat) (seq : Nat) (age : Nat) (t2 : Nat) (turn : Option Nat)
  /-- PDELAY_RESP_FOLLOW_UP_RX (R28): A received Pdelay_Resp_Follow_Up message completes a peer delay measurement. -/
  | pdelayRespFollowUpRx (port : NetPort) (domain : Nat) (seq : Nat) (t3 : Nat)
  /-- SIGNALING_RX (R28): A received Signaling message carrying the epoch-beacon TLV is taken as a beacon. -/
  | signalingRx (port : NetPort) (domain : Nat) (age : Nat) (tlv : Beacon)
  /-- REF_LOSS_EXPIRE (R34): FT_REF_IN shows no edge for REF_LOSS periods, so the external source is lost, FT_REF_LOST is raised and the FT state may change. -/
  | refLossExpire
  /-- PPS_LOSS_EXPIRE (R34): No PPS edge arrives within PPS_LOSS, so the external source is lost and the FT state may change. -/
  | ppsLossExpire
  /-- BEACON_LOSS_EXPIRE (R34): No valid beacon arrives for BEACON_LOSS epochs, so the in-band source is lost, FT_INBAND_LOST is raised and the FT state may change. -/
  | beaconLossExpire
  /-- FT_HOLDOVER_LONG (R33): FT_HOLD_TIME reaching HOLD_LIMIT in HOLDOVER or RELOCK raises FT_HOLDOVER_LONG, at most once between visits to LOCKED. -/
  | ftHoldoverLong
  /-- EPOCH_PULSE (R39): The count reaches an epoch start by counting or slewing, and the epoch pulse is asserted to every unit in the same PCLK. -/
  | epochPulse (distFault : Bool)
  /-- PTM_DIALOGUE_END (R32): A finished PTM dialogue writes the correlation record with its SEQ protocol, or raises FT_PTM_FAIL and writes none. -/
  | ptmDialogueEnd (port : HostPort) (result : Option (Nat × Nat))
  /-- PEER_WRITE (R75): A posted write to the BAR2 peer aperture is translated through the active window set and checked with Cooper, and is written or refused. -/
  | peerWrite (port : HostPort) (rid : Fin 65536) (addr : Fin 68719476736) (poisoned : Bool) (bytes : List Byte)
  /-- PEER_READ (R75): A read of the BAR2 peer aperture is translated and checked, and is served or completed with Unsupported Request. -/
  | peerRead (port : HostPort) (rid : Fin 65536) (addr : Fin 68719476736) (len : Fin 4097) (ecc : Ecc)
  /-- WIN_COMMIT (R78): Writing HL_WIN_CTRL.WIN_COMMIT starts the window commit, setting COMMIT_PEND and entering CHECK. -/
  | winCommit (port : HostPort)
  /-- WIN_CHECK_END (R80): CHECK ends, either passing into HOLD or failing with COMMIT_ERR, ERR_WIN and ERR_CODE set and HL_WIN_COMMIT_ERR raised. -/
  | winCheckEnd (port : HostPort)
  /-- WIN_SWAP (R79): Once every accepted request has finished translation, the window sets swap in one PCLK, changed windows' generations advance and held requests are released. -/
  | winSwap (port : HostPort)
  /-- WIN_COPY_END (R78): The new active window set has been copied into the shadow set, and the commit returns to IDLE. -/
  | winCopyEnd (port : HostPort)
  /-- TENANT_WINDOWS_CLEAR (R76): After a tenant reset or disable, the device clears EN of the tenant's windows in both sets, in IDLE or at the end of COPY. -/
  | tenantWindowsClear (port : HostPort)
  /-- PERST_ASSERT (R87): Assertion of a host port's PERST_N resets both functions, ends their objects, disables the port's tenants and clears the negotiated versions. -/
  | perstAssert (port : HostPort)
  /-- PERST_RELEASE (R89): Release of PERST_N starts link training within 20 ms, with configuration requests retried until the port is ready. -/
  | perstRelease (port : HostPort)
  /-- HOT_RESET (R87): A hot reset received on a host port has the effects of PERST_N on that port. -/
  | hotReset (port : HostPort)
  /-- LINK_DOWN (R87): An unrequested link down from L0 or L0p is treated as a hot reset and raises HL_LINK_DOWN. -/
  | linkDown (port : HostPort)
  /-- HOST_LINK_TRAINED (R69): Link training of a host port ends, entering L0 with Flit Mode, or returning to Detect with NO_FLIT set and HL_NO_FLIT raised. -/
  | hostLinkTrained (port : HostPort) (flit : Bool) (width : Fin 17) (speed : Fin 8)
  /-- NO_FLIT_RETRY (R69): 100 ms after a training that ended without Flit Mode, the port retries training. -/
  | noFlitRetry (port : HostPort)
  /-- PORT_READY (R89): After PERST_N release or Hot Reset the port becomes ready and stops answering with Configuration Request Retry Status. -/
  | portReady (port : HostPort)
  /-- FLR_PF0 (R87): A Function Level Reset of PF0 resets PF0 and its own-port registers, ends its queues, disables the port's tenants and clears the negotiated versions. -/
  | flrPf0 (port : HostPort)
  /-- FLR_PF1 (R87): A Function Level Reset of PF1 resets the tenants homed on the port, which stay configured and enabled, and ends their queues and windows. -/
  | flrPf1 (port : HostPort)
  /-- FLR_COMPLETE (R89): A Function Level Reset completes, within 20 ms, and the function answers configuration requests normally again. -/
  | flrComplete (port : HostPort) (fn : Fn)
  /-- BME_CLEAR (R87): Clearing Bus Master Enable on a function ends that function's objects and stops its memory requests within 1 µs. -/
  | bmeClear (port : HostPort) (fn : Fn)
  /-- PASID_ENABLE_CLEAR (R73): A configuration write that clears PASID Enable disables every enabled tenant homed on the port. -/
  | pasidEnableClear (port : HostPort)
  /-- FUNCTION_DRAIN_END (R88): The discarded work of a reset or disabled function has drained, and HL_DISABLE_STATUS clears. -/
  | functionDrainEnd (port : HostPort) (fn : Fn)
  /-- FUNCTION_DRAIN_TIMEOUT (R88): 10 ms after a reset or disable, the function's work still outstanding is cancelled in place. -/
  | functionDrainTimeout (port : HostPort) (fn : Fn)
  /-- D3HOT_ENTRY (R91): A function enters D3hot: fetch and scanning stop and memory requests other than PME are held. -/
  | d3hotEntry (port : HostPort) (fn : Fn)
  /-- D0_RETURN (R91): A function returns to D0: held memory requests are issued, head records are re-read, waiting completions move and held interrupts are sent. -/
  | d0Return (port : HostPort) (fn : Fn)
  /-- CPL_TIMEOUT (R82): A non-posted request reaches its completion timeout, is reported as Completion Timeout, raises HL_CPL_TIMEOUT and fails its read. -/
  | cplTimeout (port : HostPort) (tag : Fin 16384) (what : ReadRef)
  /-- LATE_CPL (R83): A completion for a timed-out tag arrives within 4 × the timeout and is logged as an Unexpected Completion, with its data discarded. -/
  | lateCpl (port : HostPort) (tag : Fin 16384)
  /-- TAG_RELEASE (R83): 4 × the device timeout after a timeout, the tag of the timed-out request may be issued again. -/
  | tagRelease (port : HostPort) (tag : Fin 16384)
  /-- MSIX_UNMASK (R93): Unmasking a vector, or clearing Function Mask, sends the message for a set pending bit once. -/
  | msixUnmask (port : HostPort) (fn : Fn) (vec : Option (Fin 2048))
  /-- INTERRUPT_CONTROL_WRITE (R94): A change of MSI-X Enable or Interrupt Disable on PF0 switches between MSI-X and emulated INTA, sending Assert_INTA or Deassert_INTA as required. -/
  | interruptControlWrite (port : HostPort) (msixEn : Bool) (intDis : Bool)
  /-- LK_ALERT_CLEAR (R424): A W1C write to LK_MB_ALERT.PENDING that clears every bit ends the alert source and may deassert INTA. -/
  | lkAlertClear (port : HostPort) (value : Word)
  /-- AQ_ENABLE (R97): Setting QM_AQ_CTRL.ENABLE negotiates or checks the ABI major and enters ACTIVE with zeroed admin indices, or fails with an ERR code. -/
  | aqEnable (port : HostPort)
  /-- AQ_DISABLE (R97): Clearing QM_AQ_CTRL.ENABLE lets the executing admin command finish and discards fetched entries not yet started. -/
  | aqDisable (port : HostPort)
  /-- NOP (R101): The admin NOP command completes with no effect. -/
  | nop (port : HostPort)
  /-- CREATE_SQ (R108): CREATE_SQ checks its handles, fields, allowance, scan budget, resources and PASID, and creates an ACTIVE, WARM SQ. -/
  | createSq (port : HostPort)
  /-- DESTROY_SQ (R110): DESTROY_SQ ends the SQ's incarnation and discards its work, completing after the drain or 10 ms. -/
  | destroySq (port : HostPort)
  /-- CREATE_CQ (R108): CREATE_CQ checks its fields and creates a CQ, reserving its overflow list. -/
  | createCq (port : HostPort)
  /-- DESTROY_CQ (R110): DESTROY_CQ frees a CQ, or fails with IN_USE while an SQ is bound to it. -/
  | destroyCq (port : HostPort)
  /-- CREATE_EQ (R108): CREATE_EQ checks its fields and creates an event queue bound to an MSI-X vector. -/
  | createEq (port : HostPort)
  /-- DESTROY_EQ (R110): DESTROY_EQ frees an EQ, or fails with IN_USE while a CQ or AQ_BIND_EQ names it. -/
  | destroyEq (port : HostPort)
  /-- QUEUE_QUERY (R112): QUEUE_QUERY writes a 64-byte record of a queue's state to host memory. -/
  | queueQuery (port : HostPort)
  /-- SET_SCAN (R108): SET_SCAN pins or unpins an SQ as HOT, subject to the HOT cap. -/
  | setScan (port : HostPort)
  /-- AQ_BIND_EQ (R136): AQ_BIND_EQ names the PF0 EQ to which the admin CQ posts, or none. -/
  | aqBindEq (port : HostPort)
  /-- TENANT_CREATE (R143): TENANT_CREATE allocates a tenant index, requested or lowest free, in state DISABLED with reset configuration. -/
  | tenantCreate (port : HostPort)
  /-- TENANT_CONFIG (R146): TENANT_CONFIG checks and applies the field groups set in MASK, refusing non-live groups on an ENABLED tenant. -/
  | tenantConfig (port : HostPort)
  /-- TENANT_ENABLE (R144): TENANT_ENABLE makes a DISABLED tenant ENABLED and its page live, or fails on PASID or credit configuration. -/
  | tenantEnable (port : HostPort)
  /-- TENANT_DISABLE (R144): TENANT_DISABLE advances the tenant's generation and starts a fence whose target is DISABLED. -/
  | tenantDisable (port : HostPort)
  /-- TENANT_RESET (R144): TENANT_RESET advances the tenant's generation and starts a fence whose target is ENABLED. -/
  | tenantReset (port : HostPort)
  /-- TENANT_DESTROY (R145): TENANT_DESTROY frees a DISABLED tenant and releases its configuration, quotas, attachments, buffer lists and dump ring. -/
  | tenantDestroy (port : HostPort)
  /-- TENANT_FENCE_END (R147): The last old-generation operation of a fencing tenant has been discarded, so the tenant enters its target state and waiting commands run. -/
  | tenantFenceEnd (tenant : TenantId)
  /-- TN_FENCE_TIMEOUT (R147): The 10 ms fence timer expires, remaining operations are cancelled in place and the tenant enters its target state. -/
  | tnFenceTimeout (tenant : TenantId)
  /-- POOL_QUOTA_SET (R227): POOL_QUOTA_SET applies LIMIT and RESERVE, ends quarantine or both, and returns the requester's USED. -/
  | poolQuotaSet (port : HostPort)
  /-- PEER_BUF_ALLOC (R109): PEER_BUF_ALLOC allocates COUNT buffers all or nothing and writes their handle list in the system region. -/
  | peerBufAlloc (port : HostPort)
  /-- PEER_BUF_FREE (R109): PEER_BUF_FREE returns every buffer of a list, or fails with IN_USE while an enabled window names it. -/
  | peerBufFree (port : HostPort)
  /-- KEY_CTX_CREATE (R359): KEY_CTX_CREATE checks and creates an ACTIVE key context with USED 0 at the lowest free index. -/
  | keyCtxCreate (port : HostPort)
  /-- KEY_ROLLOVER (R367): KEY_ROLLOVER applies a new LABEL at once, with EPOCH 0, or arms it for an epoch after deriving and holding the new key. -/
  | keyRollover (port : HostPort)
  /-- KEY_CTX_DESTROY (R361): KEY_CTX_DESTROY frees a context once its accepted requests complete, or fails with IN_USE while a connection names it. -/
  | keyCtxDestroy (port : HostPort)
  /-- RULESET_LOAD (R189): RULESET_LOAD checks its slot and starts reading a rule-set image into a slot, advancing the slot's generation. -/
  | rulesetLoad (port : HostPort)
  /-- RULESET_IMAGE_READ_END (R185): The image read of a loading slot ends: the slot becomes LOADED, or returns FREE with an error status. -/
  | rulesetImageReadEnd (slot : Fin 4) (data : HostData)
  /-- RULESET_ACTIVATE (R191): RULESET_ACTIVATE arms a LOADED slot for an epoch, or makes it ACTIVE at once with IMMEDIATE. -/
  | rulesetActivate (port : HostPort)
  /-- RULESET_RELEASE (R192): RULESET_RELEASE frees a LOADED slot, or fails with IN_USE in any other state. -/
  | rulesetRelease (port : HostPort)
  /-- MFT_CONN_OPEN (R301): MFT_CONN_OPEN checks and creates an OPENING connection, which sends OPEN at once. -/
  | mftConnOpen (port : HostPort)
  /-- MFT_CONN_CLOSE (R303): MFT_CONN_CLOSE moves a connection to CLOSING, or frees a FAILED one. -/
  | mftConnClose (port : HostPort)
  /-- DUMP_RING_CREATE (R407): DUMP_RING_CREATE creates a tenant dump ring or the device dump ring. -/
  | dumpRingCreate (port : HostPort)
  /-- DUMP_RING_DESTROY (R408): DUMP_RING_DESTROY removes a dump ring once any snapshot being written to it has finished. -/
  | dumpRingDestroy (port : HostPort)
  /-- SNAPSHOT_ARM (R404): SNAPSHOT_ARM arms a change of the snapshot schedule for an epoch. -/
  | snapshotArm (port : HostPort)
  /-- NS_ATTACH (R373): NS_ATTACH checks its handles and slot, reads the attach record and creates a CONNECTING attachment. -/
  | nsAttach (port : HostPort)
  /-- NS_DETACH (R376): NS_DETACH stops new commands on a slot, drains outstanding ones and then frees the attachment. -/
  | nsDetach (port : HostPort)
  /-- DNOP (R101): The data-path DNOP job completes with no effect. -/
  | dnop (uid : Nat)
  /-- TX (R334): A TX job reads a frame from host memory and sends it through an ingress pipe (PIPE) or straight to a class queue (DIRECT). -/
  | tx (uid : Nat) (upset : Upset)
  /-- RX_POST (R149): An RX_POST job posts one receive buffer to a host receive queue, where it stays in flight until a frame fills it. -/
  | rxPost (uid : Nat)
  /-- MFT_SEND (R304): An MFT_SEND job reads a message into retransmit copies and sends it on a connection. -/
  | mftSend (uid : Nat)
  /-- MFT_RECV_POST (R305): An MFT_RECV_POST job posts a receive buffer for a connection's messages. -/
  | mftRecvPost (uid : Nat)
  /-- NVME (R380): An NVME job checks its opcode and length and sends an NVMe I/O command to a namespace slot. -/
  | nvme (uid : Nat)
  /-- CORE_JOB (R259): A CORE_JOB reads its segments into one buffer and queues a descriptor at an input ring that accepts jobs. -/
  | coreJob (uid : Nat)
  /-- COPY (R399): A COPY job moves its segments to one destination: a host address, a peer window or a Mere buffer. -/
  | copy (uid : Nat)
  /-- DOORBELL_SCAN_DUE (R116): An SQ's scan period elapses and the scanner reads its doorbell record, within the port's budget. -/
  | doorbellScanDue (sq : Nat)
  /-- DOORBELL_RECORD_READ (R114): A doorbell record read returns, and the device checks GEN and range and advances P_DEV or stops the SQ with DB_RANGE. -/
  | doorbellRecordRead (sq : Nat) (data : HostData)
  /-- HOT_IDLE_EXPIRE (R116): A HOT SQ that finds no new work for HOT_IDLE becomes WARM. -/
  | hotIdleExpire (sq : Nat)
  /-- WARM_IDLE_EXPIRE (R116): A WARM SQ that finds no new work for WARM_IDLE becomes COLD. -/
  | warmIdleExpire (sq : Nat)
  /-- STRETCH_COMPUTE (R117): Every 16 µs the scanner computes the stretch factor and demotes WARM queues to COLD while f exceeds 16. -/
  | stretchCompute (port : HostPort)
  /-- SQ_FETCH (R124): The queue engine reads up to 16 ring entries of an SQ that has new work and may start jobs. -/
  | sqFetch (sq : Nat)
  /-- SQ_RING_READ_END (R111): A ring read returns entries for decoding, or stops the SQ with FETCH_ERROR and raises QM_FETCH_ERR. -/
  | sqRingReadEnd (sq : Nat) (data : HostData)
  /-- JOB_START (R104): A decoded job is started once INFLIGHT_MAX, FENCE and any CQ stall allow it, after the checks of R104. -/
  | jobStart (sq : Nat)
  /-- PUSH_SLOT_WRITE (R120): A write to a push-window slot is stored, refused beyond credit, or counted as NOT_LIVE. -/
  | pushSlotWrite (port : HostPort) (tenant : TenantId) (slot : Fin 32) (offset : Fin 512) (bytes : List Byte)
  /-- PUSH_VALIDATE (R121): A complete push record is validated and its entries taken with P_DEV advanced, or the record is discarded as INVALID. -/
  | pushValidate (tenant : TenantId) (slot : Fin 32)
  /-- PUSH_ASM_TIMEOUT (R120): ASM_TIMEOUT passes with a push record incomplete, which is discarded as TORN and its credit returned. -/
  | pushAsmTimeout (tenant : TenantId) (slot : Fin 32)
  /-- PUSH_REFUSED_TIMEOUT (R120): ASM_TIMEOUT passes with no write to a REFUSED slot, which returns to IDLE. -/
  | pushRefusedTimeout (tenant : TenantId) (slot : Fin 32)
  /-- CREDIT_WORD_WRITE (R122): Within 1 µs of a change, the device writes the tenant's credit word with RETURNED and DISCARDED. -/
  | creditWordWrite (tenant : TenantId)
  /-- COMPLETION_WRITE (R133): A finished job's completion is written to its CQ ring, or spilled to the overflow list when the ring is full. -/
  | completionWrite (cq : Nat)
  /-- HEAD_RECORD_READ (R130): A CQ or EQ head record read returns, and an accepted HEAD moves spilled entries or pending notifications. -/
  | headRecordRead (isEq : Bool) (queue : Nat) (data : HostData)
  /-- HEAD_POLL_TICK (R130): Every HEAD_POLL, the head record of a CQ with a non-empty overflow list or of an EQ with pending entries is read. -/
  | headPollTick (isEq : Bool) (queue : Nat)
  /-- CQ_OVERFLOW_TIMEOUT (R133): The overflow timer reaches OVF_TIMEOUT: the CQ enters OVERRUN, its list is discarded and its bound SQs are stopped. -/
  | cqOverflowTimeout (cq : Nat)
  /-- EQ_MOD_TIMER_EXPIRE (R138): The EQ moderation timer reaches MOD_TIMER × 0.5 µs, and the round becomes DUE. -/
  | eqModTimerExpire (eq : Nat)
  /-- EQ_HOLD_EXPIRE (R138): The EQ hold clock reaches 2 ms, and the round becomes DUE. -/
  | eqHoldExpire (eq : Nat)
  /-- EQ_MESSAGE_SEND (R138): A DUE EQ in D0 with its link in L0 sends its MSI-X message, sets the pending bit or makes INTA pending, and the round ends. -/
  | eqMessageSend (eq : Nat)
  /-- QUEUE_DRAIN_END (R110): The work of a destroyed or disabled queue has drained, its index is freed and any DESTROY_SQ completes. -/
  | queueDrainEnd (queue : Nat)
  /-- QUEUE_DRAIN_TIMEOUT (R110): 10 ms after a destroy or disable, the queue's outstanding work is cancelled in place and its index freed. -/
  | queueDrainTimeout (queue : Nat)
  /-- PORT_ENABLE (R157): Setting MA_PCFG_p.EN starts training of a network port. -/
  | portEnable (port : HostPort) (net : NetPort) (value : Word)
  /-- PORT_DISABLE (R157): Clearing MA_PCFG_p.EN makes the transmitter idle, cuts any frame short and starts the down timer. -/
  | portDisable (port : HostPort) (net : NetPort) (value : Word)
  /-- NET_LINK_LOCK (R157): Training achieves lock, alignment and deskew with no fault; the port is UP and MA_LINK_UP is raised. -/
  | netLinkLock (net : NetPort)
  /-- TRAINING_TIMEOUT (R157): A port in TRAINING without lock for 500 ms restarts training. -/
  | trainingTimeout (net : NetPort)
  /-- NET_LINK_FAULT (R157): A local fault, remote fault or loss of lock takes the port to FAULT, raising MA_LINK_DOWN and starting the down timer. -/
  | netLinkFault (net : NetPort) (kind : Fin 3)
  /-- NET_LINK_FAULT_CLEAR (R157): The port's faults clear, and the port returns to UP or to TRAINING. -/
  | netLinkFaultClear (net : NetPort)
  /-- DOWN_HOLD_EXPIRE (R157): The down timer reaches DOWN_HOLD: waiting egress frames are flushed and MA_EG_FLUSH is raised. -/
  | downHoldExpire (net : NetPort)
  /-- FRAME_RX (R158): A received frame is checked by the MAC and then consumed, dropped, taken by the Sluice or parsed, classified, forwarded and stored. -/
  | frameRx (net : NetPort) (frame : WireFrame) (upset : Upset)
  /-- PAUSE_EFFECT (R162): 40 ns after a PAUSE or PFC frame's last byte, its pause takes effect for its classes, or ends for a time of 0. -/
  | pauseEffect (net : NetPort)
  /-- PAUSE_EXPIRE (R162): The pause time of a class runs out and the class may start frames again. -/
  | pauseExpire (net : NetPort) (cls : ClassId)
  /-- XOFF_REFRESH (R163): Every QUANTA ÷ 2 quanta while the held count stays above XON, the port resends XOFF. -/
  | xoffRefresh (net : NetPort) (cls : ClassId)
  /-- PAUSE_WD_TIMEOUT (R164): A class stays PAUSED for TIMEOUT with EN 1 and enters RECOVER, raising MA_PAUSE_STORM or MA_PAUSE_TX_STORM. -/
  | pauseWdTimeout (net : NetPort) (cls : ClassId) (tx : Bool)
  /-- PAUSE_WD_RECOVER_END (R164): RECOVER elapses and the class returns to NORMAL. -/
  | pauseWdRecoverEnd (net : NetPort) (cls : ClassId) (tx : Bool)
  /-- PAUSE_WD_ENABLE (R495): Setting MA_PAUSE_WD_p.EN moves a class that is PAUSED beyond TIMEOUT into RECOVER at once. -/
  | pauseWdEnable (port : HostPort) (net : NetPort) (value : Word)
  /-- PREEMPT_VERIFY_END (R165): MAC merge verification ends, enabling preemption or failing with MA_PREEMPT_VERIFY_FAIL. -/
  | preemptVerifyEnd (net : NetPort) (pass : Bool)
  /-- FW_LOOKUP_DONE (R201): A lookup that awaited a flow-cache miss service or an LPM slot completes, and the frame is placed in order. -/
  | fwLookupDone (id : Nat) (upset : Upset)
  /-- HOST_RX_DELIVER (R179): A frame for a host receive queue is checked and written into the oldest posted buffer, and its RX_POST completes. -/
  | hostRxDeliver (tenant : TenantId) (sq : Fin 1048576)
  /-- RULESET_ACTIVATION_EDGE (R185): At the acting edge of the target epoch the ARMED slot becomes ACTIVE, the previous slot DRAINING, and PA_RS_ACTIVATED is raised. -/
  | rulesetActivationEdge (slot : Fin 4)
  /-- PA_RS_DRAIN_TIMEOUT (R185): DRAIN_LIMIT epochs after entering DRAINING, a slot becomes RETIRING with its references orphaned. -/
  | paRsDrainTimeout (slot : Fin 4)
  /-- TCAM_SWEEP (R193): Every 10 ms a background sweep checks the parity of all TCAM entries. -/
  | tcamSweep (bad : List (Nat × Nat))
  /-- TCAM_ENTRY_REWRITE (R193): Within 1 µs of a parity failure, a TCAM entry is rewritten from its system-region copy. -/
  | tcamEntryRewrite (slot : Fin 4) (rule : Fin 65536)
  /-- FW_LOOKUP (R213): FW_CMD with OP LOOKUP finds an entry by key, or reads the entry at FW_INDEX for NH and INST. -/
  | fwLookup (port : HostPort) (value : Word) (ecc : List Nat)
  /-- FW_INSERT (R213): FW_CMD with OP INSERT adds an entry, possibly moving LPM entries or evicting. -/
  | fwInsert (port : HostPort) (value : Word) (ecc : List Nat)
  /-- FW_UPDATE (R213): FW_CMD with OP UPDATE replaces DEST and STATIC, the NH of a route, or an NH or INST entry. -/
  | fwUpdate (port : HostPort) (value : Word) (ecc : List Nat)
  /-- FW_DELETE (R213): FW_CMD with OP DELETE removes an entry by key. -/
  | fwDelete (port : HostPort) (value : Word) (ecc : List Nat)
  /-- FW_WALK (R213): FW_CMD with OP WALK returns the entry at position FW_INDEX. -/
  | fwWalk (port : HostPort) (value : Word) (ecc : List Nat)
  /-- FW_FLUSH (R213): FW_CMD with OP FLUSH removes every entry matching its filter, or every route of a VRF. -/
  | fwFlush (port : HostPort) (value : Word)
  /-- FW_CMD_END (R212): A forwarding command finishes and posts its result, clearing BUSY. -/
  | fwCmdEnd
  /-- LEARN_EVENT (R209): A bank takes a queued learn event and installs, refreshes, moves or refuses the learning entry. -/
  | learnEvent (bank : Fin 16) (ecc : List Nat)
  /-- AGE_VISIT (R210): The ager visits a position and test-and-clears HIT, setting IDLE or removing the entry. -/
  | ageVisit (l2 : Bool)
  /-- FW_ENTRY_REWRITE (R217): Within 1 µs of a parity error, an LPM slot or next-hop entry is rewritten from its copy. -/
  | fwEntryRewrite (nh : Bool) (pos : Fin 262144)
  /-- CACHE_REFILL (R229): Cooper refills a requester's allocation cache that has fallen below half its depth, within quota. -/
  | cacheRefill (req : Fin 4146) (pool : Fin 6)
  /-- CACHE_CFG_WRITE (R229): A write of MS_CACHE_CFG returns every cached buffer, and the caches refill to the new depths. -/
  | cacheCfgWrite (port : HostPort) (value : Word)
  /-- STACK_TEMP_SAMPLE (R238): Every 1 ms each stack temperature is read, doubling or restoring refresh and raising MC_TEMP_2X or MC_TEMP_HOT. -/
  | stackTempSample (stack : Fin 4) (temp : Byte)
  /-- BANK_REFRESH (R238): A per-bank refresh interval elapses and the bank is refreshed. -/
  | bankRefresh (pc : Fin 264) (bank : Fin 16)
  /-- REFRESH_WINDOW_START (R239): At the start of each refresh window the activate tables are cleared. -/
  | refreshWindowStart (stack : Fin 4)
  /-- NEIGHBOUR_REFRESH (R239): An activate count reaching THRESH refreshes the neighbouring rows within 1 µs, and may raise MC_NEIGHBOUR_STORM. -/
  | neighbourRefresh (pc : Fin 264) (group : Fin 4) (row : Nat) (n : Nat)
  /-- SCRUB_VISIT (R241): The patrol scrubber reads a block, correcting and counting any error. -/
  | scrubVisit (pc : Fin 264) (found : Fin 3) (onDie : Bool)
  /-- TRAIN_PATTERN_RUN (R240): Lockkeeper firmware writes MC_TRN_CTRL.START to run the pattern and compare helpers on one pseudo-channel and lane group. -/
  | trainPatternRun (pc : Fin 264) (lanes : Fin 16) (pattern : Word) (mismatch : Word)
  /-- MIG_START (R242): Mender selects a logical pseudo-channel and a free spare, and the Lockkeeper opens a ledger entry, raising MC_MIG_START. -/
  | migStart
  /-- MIG_OPEN_END (R242): The open entry's valid fuse is blown, and COPY begins with B = 0. -/
  | migOpenEnd
  /-- MIG_COPY_UNIT (R242): Every 64 ns one 1 KiB unit is copied to the spare; at 557,056 units the migration enters COMMIT. -/
  | migCopyUnit
  /-- MIG_COMMIT_END (R242): The commit fuse is blown and the migration is DONE. -/
  | migCommitEnd
  /-- MC_MIG_DONE (R242): Within 100 µs of DONE, the failing pseudo-channel leaves refresh and scrub, MC_MIG_DONE is raised and the migration returns to IDLE. -/
  | mcMigDone
  /-- CORE_SUBSTITUTE (R248): Mender freezes a core, copies its architectural state to the spare and resumes it within 50 µs. -/
  | coreSubstitute
  /-- CORE_START (R269): FC_CTRL.START loads a stopped core from its image and makes its entry threads RUNNING, or sets ERR_CODE. -/
  | coreStart (port : HostPort) (value : Word) (bad : List Nat)
  /-- CORE_STOP (R269): FC_CTRL.STOP stops deliveries and puts the core in DRAINING, or stops an OFFLINE core. -/
  | coreStop (port : HostPort) (value : Word)
  /-- CORE_DRAIN_END (R269): Every thread of a draining core is EMPTY or idle on bit 16, and the core is STOPPED. -/
  | coreDrainEnd (core : CoreId)
  /-- FC_STOP_TIMEOUT (R269): FC_STOP_TIMEOUT passes in DRAINING: inbox entries are discarded or returned, buffers released and the core STOPPED. -/
  | fcStopTimeout (core : CoreId)
  /-- CORE_RELOAD_END (R269): The reload of a restarting core completes and the core is RUNNING. -/
  | coreReloadEnd (core : CoreId) (bad : List Nat)
  /-- RING_ENABLE (R255): Setting FC_RING_CFG.EN enables an input ring, or is refused with ERR when the total depth would be exceeded. -/
  | ringEnable (port : HostPort) (value : Word)
  /-- RING_DISABLE (R255): Clearing FC_RING_CFG.EN discards the ring's queued descriptors under R258. -/
  | ringDisable (port : HostPort) (value : Word)
  /-- INBOX_DELIVER (R257): The dispatcher moves a ring's head descriptor into a qualifying thread's inbox and makes event bit 16 pending. -/
  | inboxDeliver (ring : Fin 4096)
  /-- MUTUAL_WAIT (R261): After 1,024 consecutive CCLK in mutual wait the core halts with MUTUAL_WAIT and restarts. -/
  | mutualWait (core : CoreId)
  /-- WATCHDOG (R263): A thread's progress watchdog reaches FC_WDOG.LIMIT and the thread faults with WATCHDOG. -/
  | watchdog (core : CoreId) (thread : ThreadId)
  /-- TIMER_EXPIRE (R278): A thread's timer expires and sets event bit 17 once. -/
  | timerExpire (core : CoreId) (thread : ThreadId)
  /-- THREAD_RESTART (R267): Within 2 µs of a fault under POLICY THREAD, the thread's slot, inbox and buffers are released and it restarts at its entry. -/
  | threadRestart (core : CoreId) (thread : ThreadId)
  /-- ADD (R275): ADD writes rs1 + rs2 to rd. -/
  | add (core : CoreId) (thread : ThreadId)
  /-- SUB (R275): SUB writes rs1 − rs2 to rd. -/
  | sub (core : CoreId) (thread : ThreadId)
  /-- AND (R275): AND writes the bitwise AND of rs1 and rs2 to rd. -/
  | and (core : CoreId) (thread : ThreadId)
  /-- OR (R275): OR writes the bitwise OR of rs1 and rs2 to rd. -/
  | or (core : CoreId) (thread : ThreadId)
  /-- XOR (R275): XOR writes the bitwise XOR of rs1 and rs2 to rd. -/
  | xor (core : CoreId) (thread : ThreadId)
  /-- SLL (R275): SLL shifts rs1 left by rs2 [5:0]. -/
  | sll (core : CoreId) (thread : ThreadId)
  /-- SRL (R275): SRL shifts rs1 right logically by rs2 [5:0]. -/
  | srl (core : CoreId) (thread : ThreadId)
  /-- SRA (R275): SRA shifts rs1 right arithmetically by rs2 [5:0]. -/
  | sra (core : CoreId) (thread : ThreadId)
  /-- SLT (R275): SLT writes 1 to rd if rs1 < rs2 signed, else 0. -/
  | slt (core : CoreId) (thread : ThreadId)
  /-- SLTU (R275): SLTU writes 1 to rd if rs1 < rs2 unsigned, else 0. -/
  | sltu (core : CoreId) (thread : ThreadId)
  /-- MUL (R275): MUL writes the low 64 bits of the product to rd. -/
  | mul (core : CoreId) (thread : ThreadId)
  /-- MULHU (R275): MULHU writes the unsigned high 64 bits of the product to rd. -/
  | mulhu (core : CoreId) (thread : ThreadId)
  /-- DIVU (R275): DIVU writes the unsigned quotient, or all ones for a zero divisor. -/
  | divu (core : CoreId) (thread : ThreadId)
  /-- REMU (R275): REMU writes the unsigned remainder, or rs1 for a zero divisor. -/
  | remu (core : CoreId) (thread : ThreadId)
  /-- CLZ (R275): CLZ writes the count of leading zeros of rs1. -/
  | clz (core : CoreId) (thread : ThreadId)
  /-- POPC (R275): POPC writes the count of set bits of rs1. -/
  | popc (core : CoreId) (thread : ThreadId)
  /-- ADDI (R275): ADDI writes rs1 + sign-extended IMM16 to rd. -/
  | addi (core : CoreId) (thread : ThreadId)
  /-- EXTU (R275): EXTU extracts an unsigned bit field of rs1 into rd. -/
  | extu (core : CoreId) (thread : ThreadId)
  /-- ANDI (R275): ANDI writes rs1 AND the zero-extended IMM16 to rd. -/
  | andi (core : CoreId) (thread : ThreadId)
  /-- ORI (R275): ORI writes rs1 OR the zero-extended IMM16 to rd. -/
  | ori (core : CoreId) (thread : ThreadId)
  /-- XORI (R275): XORI writes rs1 XOR the zero-extended IMM16 to rd. -/
  | xori (core : CoreId) (thread : ThreadId)
  /-- SHI (R275): SHI shifts rs1 by an immediate amount in the direction that IMM16 [7:6] selects. -/
  | shi (core : CoreId) (thread : ThreadId)
  /-- HWSET (R275): HWSET sets one halfword of rd to IMM16 with the others zero or sign copies. -/
  | hwset (core : CoreId) (thread : ThreadId)
  /-- HWINS (R275): HWINS inserts IMM16 into one halfword of rd, keeping the others. -/
  | hwins (core : CoreId) (thread : ThreadId)
  /-- BEQ (R275): BEQ branches by OFF16 if rs1 equals rs2. -/
  | beq (core : CoreId) (thread : ThreadId)
  /-- BNE (R275): BNE branches by OFF16 if rs1 differs from rs2. -/
  | bne (core : CoreId) (thread : ThreadId)
  /-- BLT (R275): BLT branches by OFF16 if rs1 < rs2 signed. -/
  | blt (core : CoreId) (thread : ThreadId)
  /-- BGE (R275): BGE branches by OFF16 if rs1 ≥ rs2 signed. -/
  | bge (core : CoreId) (thread : ThreadId)
  /-- BLTU (R275): BLTU branches by OFF16 if rs1 < rs2 unsigned. -/
  | bltu (core : CoreId) (thread : ThreadId)
  /-- BGEU (R275): BGEU branches by OFF16 if rs1 ≥ rs2 unsigned. -/
  | bgeu (core : CoreId) (thread : ThreadId)
  /-- J (R275): J jumps by OFF26. -/
  | j (core : CoreId) (thread : ThreadId)
  /-- JAL (R275): JAL jumps by OFF26 and writes PC + 1 to w31. -/
  | jal (core : CoreId) (thread : ThreadId)
  /-- JALR (R275): JALR writes PC + 1 to rd and jumps to (rs1 + IMM16) [23:0]. -/
  | jalr (core : CoreId) (thread : ThreadId)
  /-- MFSR (R279): MFSR reads a special register into rd. -/
  | mfsr (core : CoreId) (thread : ThreadId)
  /-- FTREAD (R275): FTREAD writes the short timestamp of the issuing CCLK to rd. -/
  | ftread (core : CoreId) (thread : ThreadId)
  /-- LDB (R276): LDB loads 1 byte from local memory, zero-extended. -/
  | ldb (core : CoreId) (thread : ThreadId) (lm : LmErr)
  /-- LDH (R276): LDH loads 2 bytes from local memory, little-endian. -/
  | ldh (core : CoreId) (thread : ThreadId) (lm : LmErr)
  /-- LDW (R276): LDW loads 4 bytes from local memory, little-endian. -/
  | ldw (core : CoreId) (thread : ThreadId) (lm : LmErr)
  /-- LDD (R276): LDD loads 8 bytes from local memory, little-endian. -/
  | ldd (core : CoreId) (thread : ThreadId) (lm : LmErr)
  /-- LDHS (R276): LDHS loads 2 bytes most significant byte first. -/
  | ldhs (core : CoreId) (thread : ThreadId) (lm : LmErr)
  /-- LDWS (R276): LDWS loads 4 bytes most significant byte first. -/
  | ldws (core : CoreId) (thread : ThreadId) (lm : LmErr)
  /-- LDDS (R276): LDDS loads 8 bytes most significant byte first. -/
  | ldds (core : CoreId) (thread : ThreadId) (lm : LmErr)
  /-- STB (R276): STB stores 1 byte from rd to local memory. -/
  | stb (core : CoreId) (thread : ThreadId) (lm : LmErr)
  /-- STH (R276): STH stores 2 bytes from rd, little-endian. -/
  | sth (core : CoreId) (thread : ThreadId) (lm : LmErr)
  /-- STW (R276): STW stores 4 bytes from rd, little-endian. -/
  | stw (core : CoreId) (thread : ThreadId) (lm : LmErr)
  /-- STD (R276): STD stores 8 bytes from rd, little-endian. -/
  | std (core : CoreId) (thread : ThreadId) (lm : LmErr)
  /-- STHS (R276): STHS stores 2 bytes most significant byte first. -/
  | sths (core : CoreId) (thread : ThreadId) (lm : LmErr)
  /-- STWS (R276): STWS stores 4 bytes most significant byte first. -/
  | stws (core : CoreId) (thread : ThreadId) (lm : LmErr)
  /-- EVWAIT (R278): EVWAIT returns the matched pending bits of its mask, or puts the thread in WAITING. -/
  | evwait (core : CoreId) (thread : ThreadId)
  /-- EVSEND (R278): EVSEND sets an event bit on a thread of the same or another core, or sets nothing if the target cannot take it. -/
  | evsend (core : CoreId) (thread : ThreadId)
  /-- TMSET (R278): TMSET arms or disarms the thread's one-shot timer. -/
  | tmset (core : CoreId) (thread : ThreadId)
  /-- HMAP (R280): HMAP copies up to 512 bytes of a held buffer into a header window, stalling the thread. -/
  | hmap (core : CoreId) (thread : ThreadId)
  /-- HPUT (R280): HPUT writes the first LEN bytes of a header window back to a held buffer. -/
  | hput (core : CoreId) (thread : ThreadId)
  /-- CRYPT (R283): CRYPT hands a raw AES request of 1–64 blocks to Locksmith, holding its local bytes until the reply. -/
  | crypt (core : CoreId) (thread : ThreadId)
  /-- GFMUL (R283): GFMUL hands a GF(2^128) multiply-accumulate request to a field-multiply lane. -/
  | gfmul (core : CoreId) (thread : ThreadId)
  /-- TBL (R284): TBL hands a table operation in the FW_CMD encoding to the tables. -/
  | tbl (core : CoreId) (thread : ThreadId)
  /-- BALLOC (R285): BALLOC allocates a buffer for the core's cluster under R228 and adds it to the held-buffer table. -/
  | balloc (core : CoreId) (thread : ThreadId)
  /-- BFREE (R285): BFREE asks Cooper to free a buffer, which decides under R230 and R231. -/
  | bfree (core : CoreId) (thread : ThreadId)
  /-- BXFER (R285): BXFER asks Cooper to transfer a buffer to another requester within its quota. -/
  | bxfer (core : CoreId) (thread : ThreadId)
  /-- CSUM (R286): CSUM forms the RFC 1071 one's-complement sum of up to 4,096 local bytes. -/
  | csum (core : CoreId) (thread : ThreadId) (lm : LmErr)
  /-- CHW (R288): CHW writes one word of the thread's staging slot. -/
  | chw (core : CoreId) (thread : ThreadId)
  /-- POST (R288): POST checks the staged message and sends it to its unit, waiting for credit or for an earlier reply. -/
  | post (core : CoreId) (thread : ThreadId) (credit : Bool)
  /-- LOCKSMITH_REQUEST_TAKE (R363): A free block unit or lane takes the oldest queued request, checks it, derives any missing key and counts its usage. -/
  | locksmithRequestTake (gf : Bool)
  /-- LOCKSMITH_REPLY (R287): The thread's last outstanding CRYPT or GFMUL completes, reply record 0 is written and event bit 18 set. -/
  | locksmithReply (core : CoreId) (thread : ThreadId) (ecc : Ecc)
  /-- TBL_REPLY (R287): A TBL operation completes, its entry replaces the request bytes, reply record 1 is written and event bit 19 set. -/
  | tblReply (core : CoreId) (thread : ThreadId) (ecc : List Nat)
  /-- ENQUEUE (R289): An ENQUEUE message places a held frame in an egress queue, a host receive queue or a ring, making its buffer HANDED. -/
  | enqueue (core : CoreId) (thread : ThreadId)
  /-- RECIRC (R290): A RECIRC message returns a buffer to an ingress pipe for another pass under its original stamp. -/
  | recirc (core : CoreId) (thread : ThreadId) (upset : Upset)
  /-- CORE_JOB_COMPLETION (R291): A QM message carries a CORE_JOB's status and result, and the job completes. -/
  | coreJobCompletion (core : CoreId) (thread : ThreadId)
  /-- RX_PKT (R314): An RX_PKT message passes a received MFT packet to the transport engine, dropping it if authentication fails. -/
  | rxPkt (core : CoreId) (thread : ThreadId) (ecc : Ecc)
  /-- TX_SEALED (R314): A TX_SEALED message returns a sealed packet for release, or fails the connection on a non-SUCCESS status. -/
  | txSealed (core : CoreId) (thread : ThreadId)
  /-- SEND (R314): A SEND message sends a held buffer as one MFT message, with an optional reply at acknowledgement. -/
  | send (core : CoreId) (thread : ThreadId)
  /-- QUERY (R314): A QUERY message returns a connection's state, rate, delay and peer in reply record 3. -/
  | query (core : CoreId) (thread : ThreadId)
  /-- XTS_DONE (R386): An XTS_DONE message returns a staging buffer after XTS, letting the storage command go on or fail. -/
  | xtsDone (core : CoreId) (thread : ThreadId)
  /-- RX_SEG (R386): An RX_SEG message passes a received TCP segment to the storage engine. -/
  | rxSeg (core : CoreId) (thread : ThreadId) (ecc : Ecc)
  /-- WRITE_HOST (R398): A WRITE_HOST message moves bytes of a held buffer to host memory through Carters, with a reply in record 5. -/
  | writeHost (core : CoreId) (thread : ThreadId)
  /-- READ_HOST (R398): A READ_HOST message moves bytes of host memory into a held buffer through Carters, with a reply in record 5. -/
  | readHost (core : CoreId) (thread : ThreadId)
  /-- ACK_DELAY_EXPIRE (R308): ACK_DELAY passes since the first unacknowledged DATA packet, and the receiver sends an ACK. -/
  | ackDelayExpire (conn : Fin 1048576)
  /-- OPEN_RETRY (R303): Every OPEN_RETRY an OPENING connection sends OPEN again. -/
  | openRetry (conn : Fin 1048576)
  /-- OPEN_TIMEOUT (R303): The setup timer reaches OPEN_TIMEOUT, failing the connection and raising TP_CONN_FAILED. -/
  | openTimeout (conn : Fin 1048576)
  /-- RTO_EXPIRE (R309): The retransmit timer expires, marking the oldest unacknowledged packet lost, doubling RTO and possibly failing the connection. -/
  | rtoExpire (conn : Fin 1048576)
  /-- RNR_WAIT_END (R310): RNR_WAIT after an RNR ACK ends and the sender may send DATA again. -/
  | rnrWaitEnd (conn : Fin 1048576)
  /-- PATH_HOLD_END (R311): PATH_HOLD epochs after a path's suspension, the path is resumed. -/
  | pathHoldEnd (conn : Fin 1048576) (path : Fin 32)
  /-- PACING_INSTANT (R316): At the acting edge of a packet's pacing instant the packet enters its egress class queue with TX_TS recorded. -/
  | pacingInstant (conn : Fin 1048576)
  /-- DROVER_UPDATE (R317): Once per max(SRTT, 1 µs) Drover updates a connection's rate and window from the interval's smallest q. -/
  | droverUpdate (conn : Fin 1048576)
  /-- CONN_CLOSE_DRAIN_END (R303): Every started send of a CLOSING connection is acknowledged, so CLOSE is sent, the connection freed and the command completed. -/
  | connCloseDrainEnd (conn : Fin 1048576)
  /-- CONN_CLOSE_TIMEOUT (R303): 10 ms after MFT_CONN_CLOSE, the connection is freed with remaining jobs failed. -/
  | connCloseTimeout (conn : Fin 1048576)
  /-- TP_NODE_DISABLE (R303): Clearing TP_NODE.EN ends every connection, sending CLOSE once each. -/
  | tpNodeDisable (port : HostPort) (value : Word)
  /-- GATE_CHANGE (R326): At the acting edge of a calendar entry boundary, gate states and HOLD change. -/
  | gateChange (port : NetPort)
  /-- CAL_ARM (R329): A write of EG_CAL_ARM_HI arms a calendar swap for an epoch, or records ARM_ERR. -/
  | calArm (port : HostPort) (value : Word)
  /-- CAL_SWAP (R329): At the acting edge of the target epoch the calendar sets swap, a new cycle begins and EG_CAL_SWAPPED is raised. -/
  | calSwap (port : NetPort)
  /-- CAL_COPY_END (R329): The new active calendar has been copied into the shadow and the swap returns to IDLE. -/
  | calCopyEnd (port : NetPort)
  /-- FRAME_TX_START (R323): The scheduler starts an eligible frame at a port, under strict priority and deficit round robin. -/
  | frameTxStart (port : NetPort) (ecc : Ecc)
  /-- FRAME_TX_END (R321): A frame's last byte leaves the MAC: HELD falls, its buffer is freed, and a DIRECT TX completes. -/
  | frameTxEnd (port : NetPort)
  /-- SLUICE_CANDIDATE (R339): At the 64th byte a candidate frame is looked up in the Sluice table and either committed or diverted. -/
  | sluiceCandidate (net : NetPort) (head : List Byte) (expressMac : Bool) (parity : Bool) (age : Nat)
  /-- SLUICE_START (R342): At start PCLK S a committed frame's first byte is presented at the egress MAC, or its host writes begin. -/
  | sluiceStart (net : NetPort) (arrived : List Byte)
  /-- SL_READ (R347): SL_CMD with OP READ loads a Sluice table entry into SL_ENT_0–SL_ENT_3. -/
  | slRead (port : HostPort) (value : Word)
  /-- SL_WRITE (R347): SL_CMD with OP WRITE replaces a whole Sluice table entry, or fails with DUPLICATE or INVALID. -/
  | slWrite (port : HostPort) (value : Word)
  /-- SL_CLEAR (R347): SL_CMD with OP CLEAR clears a Sluice table entry's VALID. -/
  | slClear (port : HostPort) (value : Word)
  /-- SL_ENTRY_REWRITE (R348): Within 1 µs of a parity failure, a Sluice entry is rewritten from its copy. -/
  | slEntryRewrite (entry : Fin 4096)
  /-- KEY_ROLLOVER_EDGE (R368): At the acting edge of an armed rollover the new LABEL and key take effect for new operations, USED returns to 0 and LS_KEY_ROLLED is raised. -/
  | keyRolloverEdge (ctx : Fin 4194304)
  /-- ROLLOVER_GRACE_END (R368): GRACE epochs after a rollover edge, the old key is erased and later requests of old operations fail. -/
  | rolloverGraceEnd (ctx : Fin 4194304)
  /-- KAT_RUN (R436): At least every 10 ms an idle AES unit or multiply lane runs a known-answer test, and one that fails takes no further request. -/
  | katRun (gf : Bool) (unit : Fin 68) (pass : Bool)
  /-- LS_ENTROPY_FAIL (R354): The entropy source fails its health tests, Locksmith stops taking requests and raises LS_ENTROPY_FAIL. -/
  | lsEntropyFail
  /-- ENTROPY_RESTORE (R354): The entropy source passes again and Locksmith resumes taking requests. -/
  | entropyRestore
  /-- ATTACH_RECORD_READ (R373): The attach record read of NS_ATTACH returns, or fails the command with a host-read status. -/
  | attachRecordRead (port : HostPort) (data : HostData)
  /-- SESSION_UP (R375): A storage session completes setup and Identify, and the attachment becomes READY or FAILED. -/
  | sessionUp (att : Fin 65536) (result : SessEnd)
  /-- CONNECT_TIMEOUT (R375): CONNECT_TIMEOUT passes while CONNECTING, and the attachment moves to RECONNECTING. -/
  | connectTimeout (att : Fin 65536)
  /-- RECONNECT (R375): RECONNECT passes in RECONNECTING, and a new session is started. -/
  | reconnect (att : Fin 65536)
  /-- KEEP_ALIVE_SEND (R375): Every KATO ÷ 2 the engine sends Keep Alive on the attachment's admin queue. -/
  | keepAliveSend (att : Fin 65536)
  /-- KATO_EXPIRE (R375): A keep-alive unanswered for KATO resets the session and raises SX_SESSION_DOWN. -/
  | katoExpire (att : Fin 65536)
  /-- STAGE_ALLOC (R381): A waiting storage command obtains its pool-5 staging buffer. -/
  | stageAlloc (uid : Nat)
  /-- STAGE_WAIT_EXPIRE (R381): A command waiting for a staging buffer beyond STAGE_WAIT fails with NO_RESOURCE. -/
  | stageWaitExpire (uid : Nat)
  /-- IO_TIMEOUT (R384): A storage command's timer reaches IO_TIMEOUT, completing it with STORAGE_TIMEOUT and possibly resetting the session. -/
  | ioTimeout (uid : Nat)
  /-- NS_DETACH_TIMEOUT (R376): 10 ms after NS_DETACH, outstanding commands are cancelled and the attachment is closed and freed. -/
  | nsDetachTimeout (att : Fin 65536)
  /-- DMA_BURST (R391): A channel hands one burst of requests of its active descriptor to the transaction layer, moving the shadow in at the boundary. -/
  | dmaBurst (eng : Fin 16) (ch : Fin 64) (ecc : Ecc)
  /-- DMA_READ_COMPLETION (R395): A completion for a DMA read is taken in and its data placed in the Mere, or the request error fails the job. -/
  | dmaReadCompletion (port : HostPort) (tag : Fin 16384) (data : HostData) (astray : Bool)
  /-- DMA_WRITE_LEAVE (R397): A DMA write request leaving the transaction layer is checked against withdrawal and generations, and sent or dropped. -/
  | dmaWriteLeave
  /-- DX_BUS_ERR (R396): A bus error halts the engine, ends its descriptors and raises DX_BUS_ERR. -/
  | dxBusErr (eng : Fin 16)
  /-- ENGINE_RECOVER (R394): After every tag of a HALTED engine clears and the datapath is reinitialised, the engine runs again or goes OFFLINE. -/
  | engineRecover (eng : Fin 16)
  /-- DX_ENGINE_STOP (R394): DX_ENG_CTRL.STOP makes an engine STOPPING, with channels stopping at descriptor boundaries. -/
  | dxEngineStop (port : HostPort)
  /-- DX_ENGINE_RESUME (R394): DX_ENG_CTRL.RESUME returns a stopped engine to RUNNING. -/
  | dxEngineResume (port : HostPort)
  /-- SNAPSHOT_SCHEDULE_EDGE (R404): At the acting edge of an armed schedule change BASE and PERIOD change, with a snapshot if EN is 1. -/
  | snapshotScheduleEdge
  /-- DUMP_WRITE (R412): After a latch the Tallyman writes the snapshot to each ring in turn, or skips and accumulates it. -/
  | dumpWrite (ring : Fin 4097) (head : HostData)
  /-- EVENT_RAISE (R418): A unit raises a non-fatal or correctable event to the Lockkeeper's intake queue, or it is dropped when the queue is full. -/
  | eventRaise (ev : Ev) (inst : Word)
  /-- EVENT_LOG (R418): The Lockkeeper logs an event or merges it into REPEAT, applies the AER mapping and sets alert PENDING bits. -/
  | eventLog
  /-- FATAL_EVENT (R428): A fatal event stops memory requests, discards all work, stops the ports, latches the event, asserts FAULT_N and starts the fatal timer. -/
  | fatalEvent (noc : Bool)
  /-- FATAL_TIMER_EXPIRE (R430): The fatal timer reaches FATAL_DELAY, and the Lockkeeper resets the device or holds it as LK_POLICY directs. -/
  | fatalTimerExpire
  /-- RESET_PROCEED (R430): A deferred device reset proceeds once the migration is IDLE and the device has cooled, entering RESETTING. -/
  | resetProceed
  /-- LOCKSTEP_MISMATCH (R416): The Lockkeeper cores' outputs differ and the last-resort sequencer starts within 2 LCLK. -/
  | lockstepMismatch
  /-- LK_WATCHDOG_EXPIRE (R416): No watchdog service for 312,500 oscillator periods starts the last-resort sequencer. -/
  | lkWatchdogExpire (sramError : Bool)
  /-- LK_REF_LOSS (R416): The reference monitor finds LK_REF_IN missing or out of frequency and starts the last-resort sequencer. -/
  | lkRefLoss
  /-- MB_GO (R423): Writing LK_MB_CTRL.GO submits the mailbox request, or is ignored with BUSY_ERR while BUSY. -/
  | mbGo (port : HostPort) (value : Word)
  /-- MB_ACK (R423): Writing LK_MB_CTRL.ACK returns a DONE mailbox to IDLE. -/
  | mbAck (port : HostPort)
  /-- VERSION (R425): The VERSION mailbox command chooses the highest common mailbox version. -/
  | version (port : HostPort)
  /-- INFO (R426): The INFO mailbox command returns the stepping, likeness level, serial number, image versions and anti-rollback counters. -/
  | info (port : HostPort)
  /-- LEDGER_READ (R426): The LEDGER_READ mailbox command returns repair-ledger entries. -/
  | ledgerRead (port : HostPort)
  /-- IMAGE_LOAD (R426): The IMAGE_LOAD mailbox command reads, verifies and stores a signed flow-core image in an image slot. -/
  | imageLoad (port : HostPort) (img : Option SignedImg)
  /-- CONFIG_LOAD (R426): The CONFIG_LOAD mailbox command verifies and stores signed configuration for the next device reset. -/
  | configLoad (port : HostPort) (img : SignedImg)
  /-- DEVICE_RESET (R431): The DEVICE_RESET mailbox command starts a device reset that returns every unit outside PD00 to its POR_N state. -/
  | deviceReset (port : HostPort)
  /-- POLICY_SET (R426): The POLICY_SET mailbox command writes LK_POLICY. -/
  | policySet (port : HostPort) (value : Word)
  /-- ALERT_FILTER (R426): The ALERT_FILTER mailbox command suppresses PENDING per event group on the PF0 for non-fatal and correctable events. -/
  | alertFilter (port : HostPort) (groups : DWord)
  /-- ROLLBACK_COMMIT (R456): The ROLLBACK_COMMIT mailbox command blows anti-rollback fuses up to the ROLLBACK of the image in use. -/
  | rollbackCommit (port : HostPort)
  /-- FLASH_WRITE (R456): The FLASH_WRITE mailbox command checks a payload image and writes it to the unused bank or slot region, updating a directory copy. -/
  | flashWrite (port : HostPort) (img : SignedImg)
  /-- FLASH_SELECT (R456): The FLASH_SELECT mailbox command sets the preferred bank per image type for the next boot. -/
  | flashSelect (port : HostPort) (typ : Fin 8) (bankB : Bool)
  /-- BOOT_REPORT (R456): The BOOT_REPORT mailbox command returns the boot status, time, banks and rejected images. -/
  | bootReport (port : HostPort)
  /-- POR_N_ASSERT (R451): Assertion of POR_N stops every unit at once, aborts a migration and erases the root keys. -/
  | porNAssert
  /-- POR_N_RELEASE (R459): Release of POR_N starts boot in stage ROM with a check of every rail. -/
  | porNRelease (railsOk : Bool)
  /-- BOOT_STAGE_END (R459): A boot stage completes and boot moves to the next stage, or holds or enters recovery on failure. -/
  | bootStageEnd (inp : StageIn)
  /-- FC_IMAGE_VERIFY (R460): After READY the Lockkeeper verifies a flash FC_IMAGE and sets its slot VALID. -/
  | fcImageVerify
  /-- RAIL_FAULT (R451): A rail leaving its range after boot raises the fatal LK_RAIL_FAULT. -/
  | railFault
  /-- CLOCK_FAULT (R420): Loss of lock of the PCLK and CCLK PLL raises the fatal LK_CLOCK_FAULT. -/
  | clockFault
  /-- CLUSTER_POWER_OFF (R464): With CLUSTER_GATE 1, a cluster whose cores have all been STOPPED or OFFLINE for 1 ms is switched off. -/
  | clusterPowerOff (cluster : Fin 16)
  /-- JUNCTION_SAMPLE (R465): Every 1 ms the junction sensors are read and the thermal state moves to NORMAL, THROTTLED or TRIPPED. -/
  | junctionSample (temps : List Byte)
  /-- TRIP_POWER_OFF (R465): 1 ms after thermal-trip containment PD01–PD63 are switched off, aborting a migration in OPEN or COPY. -/
  | tripPowerOff
  /-- WEAR_THRESHOLD_CROSS (R435): A wear monitor crosses its threshold and Mender substitutes the part, queues it, or leaves it degraded. -/
  | wearThresholdCross (mon : Monitor) (part : Word) (count : Word)
  /-- LPM_BANK_SUBSTITUTE (R438): Mender copies an LPM bank's slots to a spare bank, which then takes the bank's place within 1 ms. -/
  | lpmBankSubstitute
  /-- CIPHER_UNIT_SUBSTITUTE (R350): Mender brings a spare AES or field-multiply unit in between two requests of the unit it replaces. -/
  | cipherUnitSubstitute
  /-- ROW_REMAP (R438): A failing SRAM or TCAM row is rewritten into a spare row, and the remap applies from the next access. -/
  | rowRemap
  /-- LEDGER_WRITE (R440): Within 5 ms of a substitution other than a migration its ledger entry is written, or held in the volatile table. -/
  | ledgerWrite
  /-- TAP_RESET (R467): TRST_N or five TCK with TMS high resets the TAP controller and closes any debug session. -/
  | tapReset
  /-- BYPASS (R467): The BYPASS instruction selects the 1-bit bypass register. -/
  | bypass
  /-- IDCODE (R467): The IDCODE instruction selects the 32-bit IDCODE register. -/
  | idcode
  /-- SAMPLE_PRELOAD (R467): The SAMPLE/PRELOAD instruction selects the boundary register. -/
  | samplePreload (preload : DWord)
  /-- EXTEST (R467): The EXTEST instruction drives the boundary register, or selects BYPASS while POR_N is high. -/
  | extest
  /-- GYGAR_WORD (R468): An Update-DR of GYGAR moves one 36-bit word each way and assembles or answers a Gygar frame. -/
  | gygarWord (word : BitVec 36)
  /-- CHALLENGE (R470): The CHALLENGE command returns a fresh NONCE and makes the session CHALLENGED, or answers LOCKED_OUT or DENIED. -/
  | challenge
  /-- AUTH (R470): The AUTH command verifies the signed NONCE and opens a session with its RIGHTS, or fails with NOT_AUTHORISED. -/
  | auth (sigOk : Bool)
  /-- CLOSE (R474): The CLOSE command closes the session, clearing breakpoints and watchpoints and resuming halted threads. -/
  | close
  /-- STATUS (R470): The STATUS command returns the debug session status. -/
  | status
  /-- HALT (R472): The HALT command halts the named threads at their next instruction boundary. -/
  | halt
  /-- RESUME (R472): The RESUME command returns the named halted threads to their previous state. -/
  | resume
  /-- STEP (R472): The STEP command lets one halted thread issue one instruction and halt again. -/
  | step
  /-- THREAD_RESET (R472): The THREAD_RESET command restarts the named halted threads at their entry, still halted. -/
  | threadReset
  /-- BP_SET (R475): The BP_SET command sets or clears a breakpoint of a core. -/
  | bpSet
  /-- WP_SET (R475): The WP_SET command sets or clears a watchpoint of a core. -/
  | wpSet
  /-- READ (R476): The READ command reads words of a debug space. -/
  | read
  /-- WRITE (R476): The WRITE command writes words of a debug space where permitted. -/
  | write
  /-- SESSION_IDLE_TIMEOUT (R474): 60 s without a frame closes the debug session. -/
  | sessionIdleTimeout
  /-- LOCKOUT_END (R470): 60 s after the fourth consecutive AUTH failure the lockout ends and CHALLENGE is served again. -/
  | lockoutEnd
  /-- REG64_HIGH_READ (R53): A read of the high word of a 64-bit register returns and empties the function's read latch, or returns the live high word when the latch is empty. -/
  | reg64HighRead (port : HostPort) (sp : Space) (off : Fin 268435456)
  /-- CONFIGURATION_WRITE (R87): A configuration write to a function sets Bus Master Enable, PASID Enable or Memory Space Enable, or changes Device Control 2, with the effects the manual gives for each. -/
  | configurationWrite (port : HostPort) (fn : Fn) (what : CfgWrite)
  /-- LINK_POWER_STATE_CHANGE (R115): A host link enters or leaves L0p or L1, or changes width or speed; the scan budget B is recomputed and DUE interrupts and Sluice host eligibility follow the new link state. -/
  | linkPowerStateChange (port : HostPort) (change : LinkChange)
  /-- STALLED_INSTRUCTION_END (R250): An HMAP, HPUT or BALLOC that stalled its thread after issue completes, writes rd and lets the thread issue again, or halt if a debugger halt is pending. -/
  | stalledInstructionEnd (core : CoreId) (thread : ThreadId) (ecc : Ecc) (lm : LmErr)
  /-- TCP_RETRANSMISSION_TIMEOUT (R377): The storage engine's TCP retransmission timer for a session expires, retransmitting unacknowledged segments or declaring the TCP connection lost, which moves the attachment to RECONNECTING. -/
  | tcpRetransmissionTimeout (att : Fin 65536)
  /-- UNSCHEDULED_TRANSMISSION (R318): In HOLDOVER or RELOCK with MFT_DEMOTE 1, the token bucket and the window allow an MFT packet, which is released with TX_TS of the release time and FTQ 0. -/
  | unscheduledTransmission (conn : Fin 1048576)
  deriving DecidableEq, Repr

end Sys2Proof
end

