-- ==== Sys2Proof/Decode.lean ====
section
/-! DEFINITION. The command a word of the table spells. No row of spec/opcode_table.json gives bits (every "fields" list
is empty), so no word spells a command (log entry 10). The machine's own program, a flow-core image, is decoded in
Machine/FlowCode.lean. -/
namespace Sys2Proof

/-- The command that the `nbits` low bits of `w` spell: none, for the table gives no row any bits. -/
def decodeTableWord (nbits w : Nat) : Option Instr :=
  match nbits, w with
  | _, _ => none

end Sys2Proof
end

