-- ==== Sys2Proof/Config.lean ====
section
/-! DEFINITION. What the spec leaves open: free values (log entry 3) and what is fixed at manufacture (log entry 5).
Each free value is an opaque constant with no body, applied to State.free or to the operands it depends on, so that no
proof can lean on its value. -/
namespace Sys2Proof.Config

/-- Where Cooper's find-first-set starts in a pool (R229: a rotating position; R228: the order is not specified). -/
opaque poolStart : Nat → BitVec 32
/-- Where the device looks first for a free queue index (R63: any free index may be given) and for room in the peer
buffer list area, and where that area lies (R220: placement is internal). -/
opaque queueStart : Nat → BitVec 20
opaque listStart : Nat → BitVec 20
opaque listBase : BitVec 32
/-- The pseudo-channel hash, of 256 cells at a time, and the unit of a pseudo-channel that a cell is in (R219, R242); the
system-region block of an entry of a table (R220). -/
opaque pcHash : Nat → BitVec 8
opaque pcUnit : Nat → BitVec 20
opaque tabBlock : Bool → Nat → BitVec 27
/-- The servo's step of a tick and its frequency correction after a sample (R33: the servo trims the step). -/
opaque servoStep : Nat → BitVec 8
opaque servoFreq : Nat → BitVec 32
/-- organizationId and organizationSubType, fixed at manufacture (R29). -/
opaque orgId : BitVec 24
opaque orgSubtype : BitVec 24
/-- Draverroth's PCI Vendor ID and the device number (R48, R64). -/
opaque vendorId : BitVec 16
opaque serial : BitVec 64
/-- The header of a TLP that fails, which no command carries (R84). -/
opaque tlpHeader : Nat → BitVec 128
/-- How a mailbox response lays out what it returns: opcode and values in a fixed order to bytes. No rule gives INFO and
BOOT_REPORT a layout (log entry 60). -/
opaque mbLayout : Nat → List Nat → List Byte
/-- Where the payload of IMAGE_LOAD says that the image lies in host memory, and its length: no rule lays the payload out (log
entry 60). -/
opaque imgAddr : List Byte → BitVec 64
opaque imgLen : List Byte → BitVec 24
/-- Picoseconds by which a period of the Lockkeeper's oscillator of 25 MHz ± 20% exceeds the shortest (R414). -/
opaque oscOver : BitVec 16
/-- Draverroth's manufacturer identity in the IDCODE (R467), and the low-speed pins as the boundary register samples them. -/
opaque jtagMfr : BitVec 11
opaque pins : Nat → BitVec 64
/-- Characterised latencies of a port at a rate of R156's table, RX by the decoding mode, above the table's minimum
(R155, R156, R169). -/
opaque rxLat : Nat → Nat → Bool → BitVec 16
opaque txLat : Nat → Nat → BitVec 16
/-- Numbers of the entropy source: salts, initial sequence numbers, nonces (R354, R470). -/
opaque entropy : Nat → BitVec 64
/-- A value that the spec gives no rule for, and the dummy rounds a request draws (R353). -/
opaque openWord : Nat → DWord
opaque dummyRounds : Nat → BitVec 16
/-- Spare rows of an SRAM or TCAM array (R438), and the number of its k-th spare row. -/
opaque rowSpares : Nat → BitVec 8
opaque rowSpare : Nat → Nat → BitVec 16
/-- A row of an array holds an entry of a table: part number of the row; 0 the TCAM of a rule-set slot, 1 the Sluice's, 2 LPM
slots, 3 next hops; the entry. -/
opaque rowHolds : Nat → Nat → Nat → Bool
/-- Placement of exact-match and learning entries: candidate positions and the bank of a key (R202, R207, R211); the
first slots of the LPM entries, in the order of R204, where they keep it (R200). -/
opaque emCand : List Nat → List (BitVec 26)
opaque l2Cand : List Nat → List (BitVec 18)
opaque l2Bank : List Nat → BitVec 4
opaque lpmPlace : List (List Nat) → List (BitVec 18)
/-- The fields of an MFT packet's IPv6 header that the spec does not give: Traffic Class and Flow Label, Hop Limit
(R297, R378). -/
opaque ip6Class : BitVec 28
opaque hopLimit : BitVec 8
/-- The receive window that the storage engine's TCP advertises (R377). -/
opaque tcpWindow : BitVec 16
/-- Its window scale, and the entries of a session's admin queue (R377, R372). -/
opaque tcpScale : BitVec 4
opaque adminDepth : BitVec 12

/-- What holds a slot of a RUNNING thread that does not issue in it, by CCLK and core: the instruction cache, with the start
of a miss; the local-memory port (R250, R406); CCLK of an epoch in which a RUNNING thread is front-starved (R252). -/
opaque icFill : Nat → Nat → Bool
opaque icMiss : Nat → Nat → Bool
opaque lmBusy : Nat → Nat → Bool
opaque frontCclk : Nat → Nat → Nat → BitVec 32
/-- The order of the entries of a rebuilt slot table, as a permutation of what it is given (R252). -/
opaque slotPlace : Nat → List Nat → List Nat

end Sys2Proof.Config
end

