-- ==== Sys2Proof/Machine/Catalogue.lean ====
section
/-! DEFINITION. The catalogues of the spec as functions: event codes and classes (R420), completion status codes (R131). -/

namespace Sys2Proof.Machine

/-- The 16-bit code of an event (R420). -/
def evCode : Ev → Nat
  | .ftRefLost => 0x0401
  | .ftInbandLost => 0x0402
  | .ftHoldoverEnter => 0x0403
  | .ftHoldoverLong => 0x0404
  | .ftRelocked => 0x0405
  | .ftEventCancelled => 0x0406
  | .ftPtmFail => 0x0407
  | .ftDistFault => 0x0408
  | .hlNoFlit => 0x0801
  | .hlLinkDown => 0x0802
  | .hlCplTimeout => 0x0803
  | .hlLateCpl => 0x0804
  | .hlPeerRefused => 0x0805
  | .hlWinCommitErr => 0x0806
  | .qmAqNoAbi => 0x0C01
  | .qmDbStale => 0x0C02
  | .qmDbRange => 0x0C03
  | .qmFetchErr => 0x0C04
  | .qmPushDiscard => 0x0C05
  | .qmScanDemote => 0x0C06
  | .qmCqOverrun => 0x0C07
  | .qmCqHeadRange => 0x0C08
  | .qmEqFull => 0x0C09
  | .tnFenceTimeout => 0x1001
  | .tnPortDisable => 0x1002
  | .maLinkUp => 0x1401
  | .maLinkDown => 0x1402
  | .maEgFlush => 0x1403
  | .maPauseStorm => 0x1404
  | .maPauseTxStorm => 0x1405
  | .maPreemptVerifyFail => 0x1406
  | .paNoRuleset => 0x1801
  | .paRsActivated => 0x1802
  | .paRsDrainTimeout => 0x1803
  | .paRsRetiredPkt => 0x1804
  | .paTcamParity => 0x1805
  | .moveConflict => 0x1C01
  | .fwLearnFull => 0x1C02
  | .fwLookupOverrun => 0x1C03
  | .fwTableEcc => 0x1C04
  | .fwParity => 0x1C05
  | .msDoubleFree => 0x2001
  | .msForeignFree => 0x2002
  | .msQuarantine => 0x2003
  | .msPoolLow => 0x2004
  | .msEccCorr => 0x2005
  | .msEccUncorr => 0x2006
  | .mcTemp2x => 0x2401
  | .mcTempHot => 0x2402
  | .mcNeighbourStorm => 0x2403
  | .mcTrainFail => 0x2404
  | .mcMigStart => 0x2405
  | .mcMigDone => 0x2406
  | .mcMigAborted => 0x2407
  | .mutualWait => 0x2801
  | .fcThreadFault => 0x2802
  | .fcCoreRestart => 0x2803
  | .fcCoreOffline => 0x2804
  | .fcStopTimeout => 0x2805
  | .fcRingFull => 0x2806
  | .tpConnFailed => 0x2C01
  | .tpVersionReject => 0x2C02
  | .tpPathSuspend => 0x2C03
  | .tpNoRoute => 0x2C04
  | .tpAuthFail => 0x2C05
  | .egAdmitDrop => 0x3001
  | .egGateOverrun => 0x3002
  | .egCalSwapped => 0x3003
  | .slStomped => 0x3401
  | .slHostBad => 0x3402
  | .slParity => 0x3403
  | .lsKeySealed => 0x3801
  | .lsKeyRolled => 0x3802
  | .lsOpExpired => 0x3803
  | .lsEntropyFail => 0x3804
  | .sxAttachFail => 0x3C01
  | .sxSessionDown => 0x3C02
  | .sxProtocolErr => 0x3C03
  | .sxCmdTimeout => 0x3C04
  | .dxBusErr => 0x4001
  | .dxEngOffline => 0x4002
  | .tlDumpSkipped => 0x4401
  | .tlDumpLate => 0x4402
  | .lkMbProtocol => 0x4801
  | .lkImageReject => 0x4802
  | .lkBootCfgReject => 0x4803
  | .lkThermalWarn => 0x4804
  | .lkThermalTrip => 0x4805
  | .lkRailFault => 0x4806
  | .lkClockFault => 0x4807
  | .lkNocFault => 0x4808
  | .lkCtrlEcc => 0x4809
  | .lkSramCorr => 0x480A
  | .lkDeviceReset => 0x480B
  | .mdSubstituted => 0x4810
  | .mdSpareExhausted => 0x4811
  | .mdLedgerFull => 0x4812
  | .dbAuthFail => 0x4C01
  | .dbSessionOpen => 0x4C02

/-- The class of an event: 0 correctable, 1 non-fatal, 2 fatal (R417). -/
def evClass : Ev → Nat
  | .ftHoldoverEnter | .ftHoldoverLong | .ftEventCancelled | .hlNoFlit | .hlLinkDown | .hlCplTimeout | .hlPeerRefused | .qmDbRange | .qmFetchErr | .qmPushDiscard | .qmCqOverrun | .tnFenceTimeout | .tnPortDisable | .maLinkDown | .maEgFlush | .maPauseStorm | .maPauseTxStorm | .maPreemptVerifyFail | .paNoRuleset | .paRsDrainTimeout | .paRsRetiredPkt | .fwLearnFull | .fwLookupOverrun | .fwTableEcc | .msDoubleFree | .msForeignFree | .msQuarantine | .msEccUncorr | .mcTempHot | .mcTrainFail | .mcMigAborted | .mutualWait | .fcThreadFault | .fcCoreRestart | .fcCoreOffline | .fcStopTimeout | .fcRingFull | .tpConnFailed | .tpVersionReject | .tpAuthFail | .egAdmitDrop | .slStomped | .slHostBad | .lsKeySealed | .lsOpExpired | .lsEntropyFail | .sxAttachFail | .sxSessionDown | .sxProtocolErr | .sxCmdTimeout | .dxBusErr | .dxEngOffline | .lkImageReject | .lkBootCfgReject | .lkThermalWarn | .mdSpareExhausted | .mdLedgerFull => 1
  | .ftDistFault | .lkThermalTrip | .lkRailFault | .lkClockFault | .lkNocFault | .lkCtrlEcc => 2
  | _ => 0

/-- The event group, bits [15:10] of the code (R417). -/
def evGroup (e : Ev) : Nat := evCode e / 1024

/-- The event codes that likeness level 1 leaves out (R446). -/
def evLevel1Excluded (e : Ev) : Bool :=
  evCode e = 0x0C06 || evCode e = 0x0C09 || evCode e = 0x1405 || evCode e = 0x2403 ||
  evCode e = 0x3803 || evCode e = 0x4402

/-- The status code written in a completion entry (R131). -/
def statusCode : Status → Nat
  | .success => 0x00
  | .invalidOpcode => 0x01
  | .invalidField => 0x02
  | .invalidHandle => 0x03
  | .staleHandle => 0x04
  | .chainInvalid => 0x05
  | .notPermitted => 0x06
  | .noResource => 0x07
  | .inUse => 0x08
  | .allowanceExceeded => 0x09
  | .scanBudget => 0x0A
  | .pasidDisabled => 0x0B
  | .ftNotValid => 0x10
  | .ftInstantPast => 0x11
  | .ftInstantFar => 0x12
  | .hostReadTimeout => 0x20
  | .hostReadError => 0x21
  | .bufDoubleFree => 0x28
  | .bufForeignFree => 0x29
  | .quotaExceeded => 0x2A
  | .requesterQuarantined => 0x2B
  | .keyExhausted => 0x30
  | .lengthLimit => 0x31
  | .rulesetLimit => 0x38
  | .mftNoCommonVersion => 0x40
  | .mftPeerUnreachable => 0x41
  | .nvmeError => 0x48
  | .storageTimeout => 0x49
  | .workDiscarded => 0x50

end Sys2Proof.Machine
end

