-- ==== Sys2Proof/Machine/RegTable.lean ====
section
/-! DEFINITION. The register map: every field of the register tables of the spec with its place, access code, reset
value and range (R6 to R9, and the register tables at the end of each chapter). Written from those tables. Counters
that the Tallyman clears are not here: they live in State.cnt (R410). -/
namespace Sys2Proof.Machine

/-- Access codes (R6). -/
inductive Acc where
  | ro | rw | w1c | rc | wo | lkw
  deriving DecidableEq, Repr

/-- What chooses the instance of a register: none, the host port of the access (R50), the selected window and set,
flow core, ring, egress port, class queue or calendar set, or the core selected in the Tallyman. -/
inductive Sel where
  | global | port | win | core | ring | egPort | egQueue | egCal | tlCore
  deriving DecidableEq, Repr

/-- A field: its bits, access code, reset value, and the least and greatest value and step a write may store (R9). -/
structure RField where
  (hi lo : Nat) (acc : Acc) (rst mn mx step : Nat)
  deriving DecidableEq, Repr

/-- A register, or an array of `cnt` of them `stride` bytes apart. -/
structure RDef where
  (off cnt stride : Nat) (sel : Sel) (flds : List RField)
  deriving DecidableEq, Repr

/-- The place of one field, for reading and writing it by name. -/
structure Fd where
  (off stride hi lo : Nat)
  deriving DecidableEq, Repr

/-- The registers of the FT block. -/
def regsFT : List RDef := [
  -- FT_CTRL (R46)
  ⟨0x100000, 1, 0, .global, [⟨3,3,.wo,0,0,1,1⟩, ⟨2,2,.wo,0,0,1,1⟩, ⟨1,1,.rw,0,0,1,1⟩, ⟨0,0,.rw,0,0,1,1⟩]⟩,
  -- FT_STATUS (R46)
  ⟨0x100004, 1, 0, .global, [⟨10,10,.w1c,0,0,1,1⟩, ⟨9,9,.ro,0,0,1,1⟩, ⟨8,8,.ro,0,0,1,1⟩, ⟨7,7,.ro,0,0,1,1⟩, ⟨6,5,.ro,0,0,3,1⟩, ⟨4,3,.ro,2,0,3,1⟩, ⟨2,0,.ro,0,0,7,1⟩]⟩,
  -- FT_SRC_CTRL (R46)
  ⟨0x100008, 1, 0, .global, [⟨30,24,.rw,0,0,127,1⟩, ⟨21,21,.rw,0,0,1,1⟩, ⟨20,16,.rw,0,0,31,1⟩, ⟨8,4,.rw,0,0,31,1⟩, ⟨2,2,.rw,0,0,1,1⟩, ⟨1,0,.rw,0,0,3,1⟩]⟩,
  -- FT_LOOP (R46)
  ⟨0x10000C, 1, 0, .global, [⟨31,24,.rw,10,1,100,1⟩, ⟨23,16,.rw,16,4,255,1⟩, ⟨15,8,.rw,100,10,250,1⟩, ⟨7,0,.rw,10,1,255,1⟩]⟩,
  -- FT_LOSS (R46)
  ⟨0x100010, 1, 0, .global, [⟨25,16,.rw,64,4,1023,1⟩, ⟨15,8,.rw,15,11,40,1⟩, ⟨7,0,.rw,8,2,255,1⟩]⟩,
  -- FT_HOLD_POLICY (R46)
  ⟨0x100014, 1, 0, .global, [⟨23,8,.rw,60,1,3600,1⟩, ⟨1,1,.rw,1,0,1,1⟩, ⟨0,0,.rw,0,0,1,1⟩]⟩,
  -- FT_ARM_LEAD (R46)
  ⟨0x100018, 1, 0, .global, [⟨20,0,.rw,1024,0,1048576,64⟩]⟩,
  -- FT_BEACON (R46)
  ⟨0x10001C, 1, 0, .global, [⟨6,6,.rw,0,0,1,1⟩, ⟨5,5,.rw,0,0,1,1⟩, ⟨4,4,.rw,0,0,1,1⟩, ⟨3,0,.rw,0,0,10,1⟩]⟩,
  -- FT_BEACON_PORTS (R46)
  ⟨0x100020, 1, 0, .global, [⟨31,0,.rw,0,0,4294967295,1⟩]⟩,
  -- FT_PPS_DELAY (R46)
  ⟨0x100024, 1, 0, .global, [⟨31,0,.rw,0,0,4294967295,1⟩]⟩,
  -- FT_ASYM (R46)
  ⟨0x100028, 1, 0, .global, [⟨31,0,.rw,0,0,4294967295,1⟩]⟩,
  -- FT_HOLD_TIME (R46)
  ⟨0x10002C, 1, 0, .global, [⟨31,0,.ro,0,0,4294967295,1⟩]⟩,
  -- FT_NOW_0 (R46)
  ⟨0x100030, 4, 4, .global, [⟨31,0,.ro,0,0,4294967295,1⟩]⟩,
  -- FT_EPOCH_LO (R46)
  ⟨0x100040, 1, 0, .global, [⟨31,0,.ro,0,0,4294967295,1⟩]⟩,
  -- FT_EPOCH_HI (R46)
  ⟨0x100044, 1, 0, .global, [⟨31,0,.ro,0,0,4294967295,1⟩]⟩,
  -- FT_TOD_LO (R46)
  ⟨0x100048, 1, 0, .global, [⟨31,0,.rw,0,0,4294967295,1⟩]⟩,
  -- FT_TOD_HI (R46)
  ⟨0x10004C, 1, 0, .global, [⟨15,0,.rw,0,0,65535,1⟩]⟩,
  -- FT_SERVO_OFFSET (R46)
  ⟨0x100050, 1, 0, .global, [⟨31,0,.ro,0,0,4294967295,1⟩]⟩,
  -- FT_FREQ_ADJ (R46)
  ⟨0x100054, 1, 0, .global, [⟨31,0,.ro,0,0,4294967295,1⟩]⟩,
  -- FT_BEACON_ID_0 (R46)
  ⟨0x100058, 1, 0, .global, [⟨23,0,.ro,0,0,16777215,1⟩]⟩,
  -- FT_BEACON_ID_1 (R46)
  ⟨0x10005C, 1, 0, .global, [⟨23,0,.ro,0,0,16777215,1⟩]⟩,
  -- FT_PTM_LO_n (R46)
  ⟨0x100060, 8, 8, .global, [⟨31,5,.rw,0,0,134217727,1⟩, ⟨0,0,.rw,0,0,1,1⟩]⟩,
  -- FT_PTM_HI_n (R46)
  ⟨0x100064, 8, 8, .global, [⟨31,0,.rw,0,0,4294967295,1⟩]⟩,
  -- FT_PTM_INTERVAL (R46)
  ⟨0x1000A0, 1, 0, .global, [⟨3,0,.rw,0,0,10,1⟩]⟩]

/-- The registers of the GL block. -/
def regsGL : List RDef := [
  -- GL_ID (R64)
  ⟨0x0, 1, 0, .global, [⟨31,16,.ro,25600,0,65535,1⟩, ⟨15,0,.ro,0,0,65535,1⟩]⟩,
  -- GL_STEP (R64)
  ⟨0x4, 1, 0, .global, [⟨15,8,.ro,2,0,255,1⟩, ⟨7,0,.ro,1,0,255,1⟩]⟩,
  -- GL_LIKENESS (R64)
  ⟨0x8, 1, 0, .global, [⟨7,0,.lkw,2,0,255,1⟩]⟩,
  -- GL_VERSIONS (R64)
  ⟨0xC, 1, 0, .global, [⟨23,16,.lkw,2,0,255,1⟩, ⟨15,8,.lkw,2,0,255,1⟩, ⟨7,0,.lkw,3,0,255,1⟩]⟩,
  -- GL_CONFIG (R64)
  ⟨0x10, 1, 0, .global, [⟨26,24,.lkw,0,0,7,1⟩, ⟨23,16,.lkw,0,0,255,1⟩, ⟨15,0,.lkw,0,0,65535,1⟩]⟩,
  -- GL_THIS_PORT (R64)
  ⟨0x14, 1, 0, .port, [⟨2,0,.ro,0,0,7,1⟩]⟩,
  -- GL_SERIAL_LO (R64)
  ⟨0x18, 1, 0, .global, [⟨31,0,.ro,0,0,4294967295,1⟩]⟩,
  -- GL_SERIAL_HI (R64)
  ⟨0x1C, 1, 0, .global, [⟨31,0,.ro,0,0,4294967295,1⟩]⟩,
  -- GL_SCRATCH (R64)
  ⟨0x20, 1, 0, .port, [⟨31,0,.rw,0,0,4294967295,1⟩]⟩,
  -- GL_ACC_STATUS (R64)
  ⟨0x24, 1, 0, .port, [⟨31,16,.ro,0,0,65535,1⟩, ⟨1,1,.w1c,0,0,1,1⟩, ⟨0,0,.w1c,0,0,1,1⟩]⟩]

/-- The registers of the HL block. -/
def regsHL : List RDef := [
  -- HL_LINK_STATUS (R95)
  ⟨0x200000, 1, 0, .port, [⟨31,31,.ro,0,0,1,1⟩, ⟨30,30,.ro,0,0,1,1⟩, ⟨23,20,.ro,0,0,15,1⟩, ⟨19,15,.ro,0,0,31,1⟩, ⟨14,10,.ro,0,0,31,1⟩, ⟨3,0,.ro,0,0,15,1⟩]⟩,
  -- HL_RESET_CAUSE (R95)
  ⟨0x200004, 1, 0, .port, [⟨5,5,.w1c,0,0,1,1⟩, ⟨4,4,.w1c,0,0,1,1⟩, ⟨3,3,.w1c,0,0,1,1⟩, ⟨2,2,.w1c,0,0,1,1⟩, ⟨1,1,.w1c,0,0,1,1⟩, ⟨0,0,.w1c,0,0,1,1⟩]⟩,
  -- HL_DISABLE_STATUS (R95)
  ⟨0x200008, 1, 0, .port, [⟨1,1,.ro,0,0,1,1⟩, ⟨0,0,.ro,0,0,1,1⟩]⟩,
  -- HL_CPL_STATUS (R95)
  ⟨0x20000C, 1, 0, .port, [⟨31,16,.rc,0,0,65535,1⟩, ⟨15,0,.rc,0,0,65535,1⟩]⟩,
  -- HL_PEER_STATUS (R95)
  ⟨0x200010, 1, 0, .port, [⟨31,16,.rc,0,0,65535,1⟩, ⟨6,0,.ro,0,0,127,1⟩]⟩,
  -- HL_INTX_SRC (R95)
  ⟨0x200014, 1, 0, .port, [⟨1,1,.ro,0,0,1,1⟩, ⟨0,0,.ro,0,0,1,1⟩]⟩,
  -- HL_WIN_SEL (R95)
  ⟨0x200100, 1, 0, .port, [⟨31,31,.rw,0,0,1,1⟩, ⟨7,0,.rw,0,0,255,1⟩]⟩,
  -- HL_WIN_BASE_LO (R95)
  ⟨0x200104, 1, 0, .win, [⟨31,12,.rw,0,0,1048575,1⟩]⟩,
  -- HL_WIN_BASE_HI (R95)
  ⟨0x200108, 1, 0, .win, [⟨3,0,.rw,0,0,15,1⟩]⟩,
  -- HL_WIN_LEN (R95)
  ⟨0x20010C, 1, 0, .win, [⟨16,0,.rw,1,1,65536,1⟩]⟩,
  -- HL_WIN_CFG (R95)
  ⟨0x200110, 1, 0, .win, [⟨31,31,.rw,0,0,1,1⟩, ⟨30,30,.rw,0,0,1,1⟩, ⟨29,29,.rw,0,0,1,1⟩, ⟨28,28,.rw,0,0,1,1⟩, ⟨26,24,.rw,5,0,7,1⟩, ⟨11,0,.rw,0,0,4095,1⟩]⟩,
  -- HL_WIN_LIST_LO (R95)
  ⟨0x200114, 1, 0, .win, [⟨31,6,.rw,0,0,67108863,1⟩]⟩,
  -- HL_WIN_LIST_HI (R95)
  ⟨0x200118, 1, 0, .win, [⟨0,0,.rw,0,0,1,1⟩]⟩,
  -- HL_WIN_RID (R95)
  ⟨0x20011C, 1, 0, .win, [⟨15,0,.rw,0,0,65535,1⟩]⟩,
  -- HL_WIN_HANDLE (R95)
  ⟨0x200120, 1, 0, .win, [⟨31,0,.ro,0,0,4294967295,1⟩]⟩,
  -- HL_WIN_CTRL (R95)
  ⟨0x200124, 1, 0, .port, [⟨23,16,.ro,0,0,255,1⟩, ⟨11,8,.ro,0,0,15,1⟩, ⟨3,3,.w1c,0,0,1,1⟩, ⟨2,2,.w1c,0,0,1,1⟩, ⟨1,1,.ro,0,0,1,1⟩, ⟨0,0,.wo,0,0,1,1⟩]⟩,
  -- HL_AER_MAP_PF0_k (R95)
  ⟨0x200200, 4, 4, .port, [⟨1,0,.rw,2,0,2,1⟩, ⟨3,2,.rw,2,0,2,1⟩, ⟨5,4,.rw,2,0,2,1⟩, ⟨7,6,.rw,2,0,2,1⟩, ⟨9,8,.rw,2,0,2,1⟩, ⟨11,10,.rw,2,0,2,1⟩, ⟨13,12,.rw,2,0,2,1⟩, ⟨15,14,.rw,2,0,2,1⟩, ⟨17,16,.rw,2,0,2,1⟩, ⟨19,18,.rw,2,0,2,1⟩, ⟨21,20,.rw,2,0,2,1⟩, ⟨23,22,.rw,2,0,2,1⟩, ⟨25,24,.rw,2,0,2,1⟩, ⟨27,26,.rw,2,0,2,1⟩, ⟨29,28,.rw,2,0,2,1⟩, ⟨31,30,.rw,2,0,2,1⟩]⟩,
  -- HL_AER_MAP_PF1_k (R95)
  ⟨0x200210, 4, 4, .port, [⟨1,0,.rw,0,0,2,1⟩, ⟨3,2,.rw,0,0,2,1⟩, ⟨5,4,.rw,0,0,2,1⟩, ⟨7,6,.rw,0,0,2,1⟩, ⟨9,8,.rw,0,0,2,1⟩, ⟨11,10,.rw,0,0,2,1⟩, ⟨13,12,.rw,0,0,2,1⟩, ⟨15,14,.rw,0,0,2,1⟩, ⟨17,16,.rw,0,0,2,1⟩, ⟨19,18,.rw,0,0,2,1⟩, ⟨21,20,.rw,0,0,2,1⟩, ⟨23,22,.rw,0,0,2,1⟩, ⟨25,24,.rw,0,0,2,1⟩, ⟨27,26,.rw,0,0,2,1⟩, ⟨29,28,.rw,0,0,2,1⟩, ⟨31,30,.rw,0,0,2,1⟩]⟩]

/-- The registers of the QM block. -/
def regsQM : List RDef := [
  -- QM_AQ_SQ_LO (R125)
  ⟨0x300000, 1, 0, .port, [⟨31,6,.rw,0,0,67108863,1⟩]⟩,
  -- QM_AQ_SQ_HI (R125)
  ⟨0x300004, 1, 0, .port, [⟨31,0,.rw,0,0,4294967295,1⟩]⟩,
  -- QM_AQ_CQ_LO (R125)
  ⟨0x300008, 1, 0, .port, [⟨31,6,.rw,0,0,67108863,1⟩]⟩,
  -- QM_AQ_CQ_HI (R125)
  ⟨0x30000C, 1, 0, .port, [⟨31,0,.rw,0,0,4294967295,1⟩]⟩,
  -- QM_AQ_DB_LO (R125)
  ⟨0x300010, 1, 0, .port, [⟨31,3,.rw,0,0,536870911,1⟩]⟩,
  -- QM_AQ_DB_HI (R125)
  ⟨0x300014, 1, 0, .port, [⟨31,0,.rw,0,0,4294967295,1⟩]⟩,
  -- QM_AQ_CFG (R125)
  ⟨0x300018, 1, 0, .port, [⟨31,28,.rw,2,1,15,1⟩, ⟨27,24,.rw,1,1,15,1⟩, ⟨12,8,.rw,4,4,12,1⟩, ⟨4,0,.rw,4,4,12,1⟩]⟩,
  -- QM_AQ_CTRL (R125)
  ⟨0x30001C, 1, 0, .port, [⟨0,0,.rw,0,0,1,1⟩]⟩,
  -- QM_AQ_STATUS (R125)
  ⟨0x300020, 1, 0, .port, [⟨15,12,.ro,0,0,15,1⟩, ⟨10,8,.ro,0,0,7,1⟩, ⟨0,0,.ro,0,0,1,1⟩]⟩,
  -- QM_SCAN_CFG (R125)
  ⟨0x300030, 1, 0, .port, [⟨20,16,.rw,4,1,16,1⟩, ⟨15,8,.rw,50,10,90,1⟩, ⟨7,0,.rw,20,5,100,1⟩]⟩,
  -- QM_SCAN_IDLE (R125)
  ⟨0x300034, 1, 0, .port, [⟨26,16,.rw,16,1,1024,1⟩, ⟨8,0,.rw,16,1,256,1⟩]⟩,
  -- QM_SCAN_STATUS (R125)
  ⟨0x300038, 1, 0, .port, [⟨19,0,.ro,256,0,1048575,1⟩]⟩,
  -- QM_SCAN_HOT (R125)
  ⟨0x30003C, 1, 0, .port, [⟨20,0,.ro,0,0,2097151,1⟩]⟩,
  -- QM_SCAN_WARM (R125)
  ⟨0x300040, 1, 0, .port, [⟨20,0,.ro,0,0,2097151,1⟩]⟩,
  -- QM_SCAN_COLD (R125)
  ⟨0x300044, 1, 0, .port, [⟨20,0,.ro,0,0,2097151,1⟩]⟩,
  -- QM_SCAN_EVT (R125)
  ⟨0x300048, 1, 0, .port, [⟨31,16,.rc,0,0,65535,1⟩, ⟨15,0,.rc,0,0,65535,1⟩]⟩,
  -- QM_PUSH_CFG (R125)
  ⟨0x300050, 1, 0, .port, [⟨6,0,.rw,10,1,100,1⟩]⟩,
  -- QM_CPL_CFG (R140)
  ⟨0x300060, 1, 0, .port, [⟨25,16,.rw,100,1,1000,1⟩, ⟨5,0,.rw,2,1,32,1⟩]⟩,
  -- QM_CPL_STATUS (R140)
  ⟨0x300064, 1, 0, .port, [⟨31,16,.rc,0,0,65535,1⟩, ⟨15,0,.rc,0,0,65535,1⟩]⟩,
  -- QM_CPL_SPILL (R140)
  ⟨0x300068, 1, 0, .port, [⟨20,0,.ro,0,0,2097151,1⟩]⟩]

/-- The registers of the TN block. -/
def regsTN : List RDef := [
  -- TN_SEL (R151)
  ⟨0x400000, 1, 0, .port, [⟨11,0,.rw,0,0,4095,1⟩]⟩,
  -- TN_STATUS (R151)
  ⟨0x400004, 1, 0, .port, [⟨31,31,.ro,0,0,1,1⟩, ⟨3,3,.ro,0,0,1,1⟩, ⟨2,0,.ro,0,0,7,1⟩]⟩,
  -- TN_HANDLE (R151)
  ⟨0x400008, 1, 0, .port, [⟨31,0,.ro,0,0,4294967295,1⟩]⟩,
  -- TN_FENCE (R151)
  ⟨0x40000C, 1, 0, .port, [⟨31,16,.ro,0,0,65535,1⟩, ⟨15,0,.ro,0,0,65535,1⟩]⟩,
  -- TN_HOMED (R151)
  ⟨0x400010, 1, 0, .port, [⟨12,0,.ro,0,0,8191,1⟩]⟩]

/-- The registers of the MA block. -/
def regsMA : List RDef := [
  -- MA_GLINK (R169)
  ⟨0x500000, 1, 0, .global, [⟨31,0,.ro,0,0,4294967295,1⟩]⟩,
  -- MA_PCFG_p (R169)
  ⟨0x501000, 32, 256, .global, [⟨31,31,.rw,0,0,1,1⟩, ⟨27,26,.rw,0,0,2,1⟩, ⟨25,25,.rw,1,0,1,1⟩, ⟨24,24,.rw,0,0,1,1⟩, ⟨23,22,.rw,0,0,2,1⟩]⟩,
  -- MA_PSTATUS_p (R169)
  ⟨0x501004, 32, 256, .global, [⟨31,31,.ro,0,0,1,1⟩, ⟨30,30,.ro,0,0,1,1⟩, ⟨29,29,.ro,0,0,1,1⟩, ⟨28,28,.ro,0,0,1,1⟩, ⟨23,16,.ro,0,0,255,1⟩, ⟨15,8,.ro,0,0,255,1⟩, ⟨2,0,.ro,0,0,7,1⟩]⟩,
  -- MA_FRAME_p (R169)
  ⟨0x501008, 32, 256, .global, [⟨29,16,.rw,1518,1518,16383,1⟩]⟩,
  -- MA_TAG_p (R169)
  ⟨0x50100C, 32, 256, .global, [⟨31,31,.rw,0,0,1,1⟩, ⟨30,29,.rw,0,0,2,1⟩, ⟨28,28,.rw,0,0,1,1⟩, ⟨27,27,.rw,0,0,1,1⟩, ⟨15,13,.rw,0,0,7,1⟩, ⟨12,12,.rw,0,0,1,1⟩, ⟨11,0,.rw,1,1,4094,1⟩]⟩,
  -- MA_FC_p (R169)
  ⟨0x501010, 32, 256, .global, [⟨31,30,.rw,0,0,2,1⟩, ⟨29,29,.rw,1,0,1,1⟩, ⟨28,28,.rw,1,0,1,1⟩, ⟨23,16,.rw,255,0,255,1⟩, ⟨15,0,.rw,65535,2,65535,1⟩]⟩,
  -- MA_FC_THRESH_p (R169)
  ⟨0x501014, 32, 256, .global, [⟨31,16,.rw,1024,1,65535,1⟩, ⟨15,0,.rw,768,0,65534,1⟩]⟩,
  -- MA_PAUSE_WD_p (R169)
  ⟨0x501018, 32, 256, .global, [⟨31,31,.rw,1,0,1,1⟩, ⟨27,14,.rw,100,1,10000,1⟩, ⟨13,0,.rw,1000,1,10000,1⟩]⟩,
  -- MA_PREEMPT_p (R169)
  ⟨0x50101C, 32, 256, .global, [⟨31,31,.rw,0,0,1,1⟩, ⟨30,30,.rw,0,0,1,1⟩, ⟨29,28,.rw,0,0,3,1⟩, ⟨19,12,.rw,10,1,128,1⟩, ⟨7,0,.rw,128,0,255,1⟩]⟩,
  -- MA_PREEMPT_STATUS_p (R169)
  ⟨0x501020, 32, 256, .global, [⟨2,0,.ro,0,0,7,1⟩]⟩,
  -- MA_LAT_p (R169)
  ⟨0x501024, 32, 256, .global, [⟨31,16,.ro,0,0,65535,1⟩, ⟨15,0,.ro,0,0,65535,1⟩]⟩,
  -- MA_DOWN_p (R169)
  ⟨0x501028, 32, 256, .global, [⟨15,0,.rw,1000,0,65535,1⟩]⟩]

/-- The registers of the PA block. -/
def regsPA : List RDef := [
  -- PA_RS_STATUS (R194)
  ⟨0x600000, 1, 0, .global, [⟨11,0,.ro,0,0,4095,1⟩]⟩,
  -- PA_RS_HANDLE_s (R194)
  ⟨0x600010, 4, 4, .global, [⟨31,0,.ro,0,0,4294967295,1⟩]⟩,
  -- PA_RS_REFS_s (R194)
  ⟨0x600020, 4, 4, .global, [⟨31,0,.ro,0,0,4294967295,1⟩]⟩,
  -- PA_RS_ARM_LO (R194)
  ⟨0x600030, 1, 0, .global, [⟨31,0,.ro,0,0,4294967295,1⟩]⟩,
  -- PA_RS_ARM_HI (R194)
  ⟨0x600034, 1, 0, .global, [⟨31,0,.ro,0,0,4294967295,1⟩]⟩,
  -- PA_RS_CFG (R194)
  ⟨0x600040, 1, 0, .global, [⟨19,16,.rw,4,2,8,1⟩, ⟨15,0,.rw,1024,16,65535,1⟩]⟩,
  -- PA_RS_RULES (R194)
  ⟨0x600044, 1, 0, .global, [⟨16,0,.ro,65536,0,131071,1⟩]⟩,
  -- PA_DEF_p (R194)
  ⟨0x600100, 32, 8, .global, [⟨31,0,.rw,0,0,4294967295,1⟩]⟩,
  -- PA_DEF_p_hi (R194)
  ⟨0x600104, 32, 8, .global, [⟨31,0,.rw,2147483647,0,4294967295,1⟩]⟩,
  -- PA_DEF_HOST (R194)
  ⟨0x600200, 1, 0, .global, [⟨31,0,.rw,0,0,4294967295,1⟩]⟩,
  -- PA_DEF_HOST_hi (R194)
  ⟨0x600204, 1, 0, .global, [⟨31,0,.rw,2147483647,0,4294967295,1⟩]⟩]

/-- The registers of the FW block. -/
def regsFW : List RDef := [
  -- FW_CMD (R218)
  ⟨0x700000, 1, 0, .global, [⟨31,31,.wo,0,0,1,1⟩, ⟨11,11,.rw,0,0,1,1⟩, ⟨10,8,.rw,0,0,4,1⟩, ⟨3,0,.rw,0,0,5,1⟩]⟩,
  -- FW_STATUS (R218)
  ⟨0x700004, 1, 0, .global, [⟨31,31,.ro,0,0,1,1⟩, ⟨30,30,.w1c,0,0,1,1⟩, ⟨3,0,.ro,0,0,15,1⟩]⟩,
  -- FW_INDEX (R218)
  ⟨0x700008, 1, 0, .global, [⟨25,0,.rw,0,0,67108863,1⟩]⟩,
  -- FW_RESULT_INDEX (R218)
  ⟨0x70000C, 1, 0, .global, [⟨25,0,.ro,0,0,67108863,1⟩]⟩,
  -- FW_DATA_0 (R218)
  ⟨0x700010, 16, 4, .global, [⟨31,0,.rw,0,0,4294967295,1⟩]⟩,
  -- FW_L2_CFG (R218)
  ⟨0x700080, 1, 0, .global, [⟨17,16,.rw,2,0,2,1⟩, ⟨15,0,.rw,1000,1,65535,1⟩]⟩,
  -- FW_EM_CFG (R218)
  ⟨0x700084, 1, 0, .global, [⟨1,0,.rw,0,0,2,1⟩]⟩,
  -- FW_AGE_EM (R218)
  ⟨0x700088, 1, 0, .global, [⟨15,0,.rw,0,0,65535,1⟩]⟩,
  -- FW_AGE_L2 (R218)
  ⟨0x70008C, 1, 0, .global, [⟨15,0,.rw,10000,0,65535,1⟩]⟩,
  -- FW_USED_EM (R218)
  ⟨0x700090, 1, 0, .global, [⟨26,0,.ro,0,0,134217727,1⟩]⟩,
  -- FW_USED_L2 (R218)
  ⟨0x700094, 1, 0, .global, [⟨22,0,.ro,0,0,8388607,1⟩]⟩,
  -- FW_USED_LPM (R218)
  ⟨0x700098, 1, 0, .global, [⟨18,0,.ro,0,0,524287,1⟩]⟩]

/-- The registers of the MS block. -/
def regsMS : List RDef := [
  -- MS_STATUS (R235)
  ⟨0x800000, 1, 0, .global, [⟨0,0,.ro,0,0,1,1⟩]⟩,
  -- MS_CARVE_p (R235)
  ⟨0x800010, 6, 4, .global, [⟨7,0,.lkw,0,0,255,1⟩]⟩,
  -- MS_ALLOC_CFG (R235)
  ⟨0x800040, 1, 0, .global, [⟨2,0,.rw,2,0,4,1⟩]⟩,
  -- MS_QUAR_CFG (R235)
  ⟨0x800044, 1, 0, .global, [⟨15,0,.rw,64,1,65535,1⟩]⟩,
  -- MS_CACHE_CFG (R235)
  ⟨0x800048, 1, 0, .global, [⟨4,0,.rw,16,0,16,1⟩, ⟨9,5,.rw,16,0,16,1⟩, ⟨14,10,.rw,16,0,16,1⟩, ⟨19,15,.rw,16,0,16,1⟩, ⟨24,20,.rw,4,0,16,1⟩, ⟨29,25,.rw,0,0,16,1⟩]⟩,
  -- MS_FREE_p (R235)
  ⟨0x800050, 6, 4, .global, [⟨29,0,.ro,0,0,1073741823,1⟩]⟩,
  -- MS_LOW_WM_p (R235)
  ⟨0x800080, 6, 4, .global, [⟨29,0,.rw,0,0,1073741823,1⟩]⟩,
  -- MS_REQ_SEL (R235)
  ⟨0x8000A0, 1, 0, .global, [⟨18,16,.rw,0,0,5,1⟩, ⟨12,0,.rw,0,0,4145,1⟩]⟩,
  -- MS_REQ_LIMIT (R235)
  ⟨0x8000A4, 1, 0, .global, [⟨29,0,.ro,0,0,1073741823,1⟩]⟩,
  -- MS_REQ_RESERVE (R235)
  ⟨0x8000A8, 1, 0, .global, [⟨29,0,.ro,0,0,1073741823,1⟩]⟩,
  -- MS_REQ_USED (R235)
  ⟨0x8000AC, 1, 0, .global, [⟨29,0,.ro,0,0,1073741823,1⟩]⟩,
  -- MS_REQ_STATUS (R235)
  ⟨0x8000B0, 1, 0, .global, [⟨31,31,.ro,0,0,1,1⟩, ⟨15,0,.ro,0,0,65535,1⟩]⟩,
  -- MS_REQ_CELLS (R235)
  ⟨0x8000B4, 1, 0, .global, [⟨29,0,.ro,0,0,1073741823,1⟩]⟩,
  -- MS_HC_STATUS (R235)
  ⟨0x8000C0, 1, 0, .global, [⟨31,30,.lkw,3,0,3,1⟩, ⟨19,0,.ro,0,0,1048575,1⟩]⟩]

/-- The registers of the MC block. -/
def regsMC : List RDef := [
  -- MC_STATUS (R246)
  ⟨0x900000, 1, 0, .global, [⟨4,4,.ro,0,0,1,1⟩, ⟨3,0,.ro,0,0,15,1⟩]⟩,
  -- MC_SCHED (R246)
  ⟨0x900010, 1, 0, .global, [⟨15,10,.rw,24,8,32,1⟩, ⟨9,4,.rw,8,0,31,1⟩, ⟨3,0,.rw,4,1,15,1⟩]⟩,
  -- MC_ACT_CFG (R246)
  ⟨0x900014, 1, 0, .global, [⟨31,16,.rw,4096,512,65535,1⟩, ⟨1,0,.rw,1,1,2,1⟩]⟩,
  -- MC_SCRUB (R246)
  ⟨0x900018, 1, 0, .global, [⟨7,0,.rw,24,0,168,1⟩]⟩,
  -- MC_TEMP_s (R246)
  ⟨0x900020, 4, 4, .global, [⟨23,16,.ro,0,0,255,1⟩, ⟨15,15,.ro,0,0,1,1⟩, ⟨7,0,.ro,0,0,255,1⟩]⟩,
  -- MC_PC_SEL (R246)
  ⟨0x900040, 1, 0, .global, [⟨7,0,.rw,0,0,255,1⟩]⟩,
  -- MC_MIG_STATUS (R246)
  ⟨0x900050, 1, 0, .global, [⟨31,29,.ro,0,0,7,1⟩, ⟨28,21,.ro,0,0,255,1⟩, ⟨19,0,.ro,0,0,1048575,1⟩]⟩,
  -- MC_SPARES (R246)
  ⟨0x900054, 1, 0, .global, [⟨7,0,.ro,170,0,255,1⟩]⟩,
  -- MC_TRN_CTRL (R246)
  ⟨0x900080, 1, 0, .global, [⟨31,31,.lkw,0,0,1,1⟩, ⟨16,8,.lkw,0,0,511,1⟩, ⟨7,4,.lkw,0,0,15,1⟩]⟩,
  -- MC_TRN_PAT (R246)
  ⟨0x900084, 1, 0, .global, [⟨31,0,.lkw,0,0,4294967295,1⟩]⟩,
  -- MC_TRN_RESULT (R246)
  ⟨0x900088, 1, 0, .global, [⟨31,0,.ro,0,0,4294967295,1⟩]⟩]

/-- The registers of the FC block. -/
def regsFC : List RDef := [
  -- FC_SEL (R271)
  ⟨0xA00000, 1, 0, .global, [⟨7,0,.rw,0,0,191,1⟩]⟩,
  -- FC_CTRL (R271)
  ⟨0xA00004, 1, 0, .core, [⟨31,31,.wo,0,0,1,1⟩, ⟨30,30,.wo,0,0,1,1⟩, ⟨3,0,.rw,0,0,15,1⟩]⟩,
  -- FC_STATUS (R271)
  ⟨0xA00008, 1, 0, .core, [⟨31,29,.ro,0,0,7,1⟩, ⟨28,28,.w1c,0,0,1,1⟩, ⟨27,24,.ro,0,0,15,1⟩, ⟨23,16,.ro,0,0,255,1⟩, ⟨15,0,.ro,0,0,65535,1⟩]⟩,
  -- FC_THREADS (R271)
  ⟨0xA0000C, 1, 0, .core, [⟨31,16,.ro,0,0,65535,1⟩, ⟨15,0,.ro,0,0,65535,1⟩]⟩,
  -- FC_THREADS_X (R271)
  ⟨0xA00010, 1, 0, .core, [⟨31,16,.ro,0,0,65535,1⟩, ⟨15,0,.ro,0,0,65535,1⟩]⟩,
  -- FC_SLICE_t (R271)
  ⟨0xA00020, 16, 4, .core, [⟨14,8,.rw,4,0,64,1⟩, ⟨5,0,.rw,0,0,63,1⟩]⟩,
  -- FC_SLOT_j (R271)
  ⟨0xA00060, 8, 4, .core, [⟨7,7,.rw,1,0,1,1⟩, ⟨3,0,.rw,0,0,15,1⟩, ⟨15,15,.rw,1,0,1,1⟩, ⟨11,8,.rw,0,0,15,1⟩, ⟨23,23,.rw,1,0,1,1⟩, ⟨19,16,.rw,0,0,15,1⟩, ⟨31,31,.rw,1,0,1,1⟩, ⟨27,24,.rw,0,0,15,1⟩]⟩,
  -- FC_ADAPT (R271)
  ⟨0xA00080, 1, 0, .core, [⟨31,31,.rw,1,0,1,1⟩, ⟨1,0,.rw,1,0,2,1⟩]⟩,
  -- FC_WDOG (R271)
  ⟨0xA00084, 1, 0, .core, [⟨31,31,.rw,1,0,1,1⟩, ⟨16,0,.rw,1000,100,100000,1⟩]⟩,
  -- FC_FAULT_POLICY (R271)
  ⟨0xA00088, 1, 0, .core, [⟨31,30,.rw,0,0,2,1⟩, ⟨7,0,.rw,8,1,255,1⟩]⟩,
  -- FC_FAULT_INFO (R271)
  ⟨0xA0008C, 1, 0, .core, [⟨31,28,.ro,0,0,15,1⟩, ⟨27,24,.ro,0,0,15,1⟩, ⟨23,0,.ro,0,0,16777215,1⟩]⟩,
  -- FC_STOP_TIMEOUT (R271)
  ⟨0xA00090, 1, 0, .core, [⟨13,0,.rw,100,1,10000,1⟩]⟩,
  -- FC_RING_SEL (R271)
  ⟨0xA00100, 1, 0, .global, [⟨11,0,.rw,0,0,4095,1⟩]⟩,
  -- FC_RING_CFG (R271)
  ⟨0xA00104, 1, 0, .ring, [⟨31,31,.rw,0,0,1,1⟩, ⟨30,29,.rw,0,0,2,1⟩, ⟨28,24,.rw,10,6,16,1⟩, ⟨23,16,.rw,0,0,191,1⟩, ⟨15,0,.rw,65535,0,65535,1⟩]⟩,
  -- FC_RING_CFG2 (R271)
  ⟨0xA00108, 1, 0, .ring, [⟨11,0,.rw,0,0,4095,1⟩]⟩,
  -- FC_RING_STATUS (R271)
  ⟨0xA0010C, 1, 0, .ring, [⟨31,31,.w1c,0,0,1,1⟩, ⟨16,0,.ro,0,0,131071,1⟩]⟩,
  -- FC_IMG_i (R271)
  ⟨0xA00200, 16, 4, .global, [⟨31,31,.lkw,0,0,1,1⟩, ⟨30,30,.ro,0,0,1,1⟩, ⟨23,0,.lkw,0,0,16777215,1⟩]⟩]

/-- The registers of the TP block. -/
def regsTP : List RDef := [
  -- TP_NODE (R319)
  ⟨0xB00000, 1, 0, .global, [⟨31,31,.rw,0,0,1,1⟩, ⟨15,0,.rw,0,0,65535,1⟩]⟩,
  -- TP_PREFIX_0 (R319)
  ⟨0xB00010, 3, 4, .global, [⟨31,0,.rw,0,0,4294967295,1⟩]⟩,
  -- TP_PREFIX_3 (R319)
  ⟨0xB0001C, 1, 0, .global, [⟨31,16,.rw,0,0,65535,1⟩]⟩,
  -- TP_UDP (R319)
  ⟨0xB00020, 1, 0, .global, [⟨15,0,.rw,19782,1,65535,1⟩]⟩,
  -- TP_SRC_MAC_LO (R319)
  ⟨0xB00024, 1, 0, .global, [⟨31,0,.rw,0,0,4294967295,1⟩]⟩,
  -- TP_SRC_MAC_HI (R319)
  ⟨0xB00028, 1, 0, .global, [⟨15,0,.rw,0,0,65535,1⟩]⟩,
  -- TP_CFG (R319)
  ⟨0xB00030, 1, 0, .global, [⟨31,20,.rw,0,0,4095,1⟩, ⟨19,8,.rw,0,0,4095,1⟩, ⟨7,5,.rw,7,0,7,1⟩]⟩,
  -- TP_PAYLOAD (R319)
  ⟨0xB00034, 1, 0, .global, [⟨13,0,.rw,4096,1024,8192,64⟩]⟩,
  -- TP_OPEN (R319)
  ⟨0xB00038, 1, 0, .global, [⟨31,16,.rw,1000,10,10000,1⟩, ⟨15,0,.rw,1000,10,10000,1⟩]⟩,
  -- TP_RTO (R319)
  ⟨0xB0003C, 1, 0, .global, [⟨31,28,.rw,7,1,15,1⟩, ⟨27,16,.rw,64,1,1000,1⟩, ⟨13,0,.rw,50,5,10000,1⟩]⟩,
  -- TP_ACK (R319)
  ⟨0xB00040, 1, 0, .global, [⟨23,16,.rw,8,1,64,1⟩, ⟨15,0,.rw,2000,100,50000,100⟩]⟩,
  -- TP_PATH (R319)
  ⟨0xB00044, 1, 0, .global, [⟨19,16,.rw,1,1,15,1⟩, ⟨15,8,.rw,4,1,255,1⟩, ⟨7,0,.rw,16,1,255,1⟩]⟩,
  -- TP_RNR (R319)
  ⟨0xB00048, 1, 0, .global, [⟨31,16,.rw,100,1,65535,1⟩, ⟨15,0,.rw,256,1,65535,1⟩]⟩,
  -- TP_DROVER_0 (R319)
  ⟨0xB00050, 1, 0, .global, [⟨27,24,.rw,10,4,15,1⟩, ⟨16,0,.rw,2000,100,100000,100⟩]⟩,
  -- TP_DROVER_1 (R319)
  ⟨0xB00054, 1, 0, .global, [⟨31,24,.rw,80,1,100,1⟩, ⟨23,16,.rw,50,1,99,1⟩, ⟨15,0,.rw,2000,1,65535,1⟩]⟩,
  -- TP_DROVER_2 (R319)
  ⟨0xB00058, 1, 0, .global, [⟨31,16,.rw,100,1,1600,1⟩, ⟨15,0,.rw,1000,10,65535,1⟩]⟩,
  -- TP_STATUS (R319)
  ⟨0xB00060, 1, 0, .global, [⟨31,31,.w1c,0,0,1,1⟩, ⟨20,0,.ro,0,0,2097151,1⟩]⟩,
  -- TP_CONN_SEL (R319)
  ⟨0xB00070, 1, 0, .global, [⟨19,0,.rw,0,0,1048575,1⟩]⟩,
  -- TP_CONN_STATUS (R319)
  ⟨0xB00074, 1, 0, .global, [⟨31,29,.ro,0,0,7,1⟩, ⟨28,25,.ro,0,0,15,1⟩, ⟨24,19,.ro,0,0,63,1⟩]⟩,
  -- TP_CONN_HANDLE (R319)
  ⟨0xB00078, 1, 0, .global, [⟨31,0,.ro,0,0,4294967295,1⟩]⟩,
  -- TP_CONN_PEER (R319)
  ⟨0xB0007C, 1, 0, .global, [⟨27,16,.ro,0,0,4095,1⟩, ⟨15,0,.ro,0,0,65535,1⟩]⟩,
  -- TP_CONN_RATE (R319)
  ⟨0xB00080, 1, 0, .global, [⟨31,0,.ro,0,0,4294967295,1⟩]⟩,
  -- TP_CONN_QDELAY (R319)
  ⟨0xB00084, 1, 0, .global, [⟨31,0,.ro,0,0,4294967295,1⟩]⟩,
  -- TP_NH_MAC_LO_p (R319)
  ⟨0xB00100, 32, 8, .global, [⟨31,0,.rw,0,0,4294967295,1⟩]⟩,
  -- TP_NH_MAC_HI_p (R319)
  ⟨0xB00104, 32, 8, .global, [⟨15,0,.rw,0,0,65535,1⟩]⟩]

/-- The registers of the EG block. -/
def regsEG : List RDef := [
  -- EG_SEL (R336)
  ⟨0xC00000, 1, 0, .global, [⟨31,31,.rw,0,0,1,1⟩, ⟨12,8,.rw,0,0,31,1⟩, ⟨2,0,.rw,0,0,7,1⟩]⟩,
  -- EG_PORT_CFG (R336)
  ⟨0xC00010, 1, 0, .egPort, [⟨31,31,.rw,0,0,1,1⟩, ⟨30,30,.rw,1,0,1,1⟩]⟩,
  -- EG_SCHED (R336)
  ⟨0xC00014, 1, 0, .egPort, [⟨7,0,.rw,128,0,255,1⟩]⟩,
  -- EG_QUANTUM (R336)
  ⟨0xC00020, 1, 0, .egQueue, [⟨15,0,.rw,9216,64,65535,1⟩]⟩,
  -- EG_SHAPE_RATE (R336)
  ⟨0xC00024, 1, 0, .egQueue, [⟨31,31,.rw,0,0,1,1⟩, ⟨20,0,.rw,1600000,1,1600000,1⟩]⟩,
  -- EG_SHAPE_BURST (R336)
  ⟨0xC00028, 1, 0, .egQueue, [⟨15,0,.rw,64,1,65535,1⟩]⟩,
  -- EG_ADM_GY (R336)
  ⟨0xC0002C, 1, 0, .egQueue, [⟨31,16,.rw,16384,0,65535,1⟩, ⟨15,0,.rw,8192,0,65535,1⟩]⟩,
  -- EG_ADM_R (R336)
  ⟨0xC00030, 1, 0, .egQueue, [⟨15,0,.rw,0,0,65535,1⟩]⟩,
  -- EG_QHELD (R336)
  ⟨0xC00034, 1, 0, .egQueue, [⟨31,0,.ro,0,0,4294967295,1⟩]⟩,
  -- EG_QFRAMES (R336)
  ⟨0xC00038, 1, 0, .egQueue, [⟨31,0,.ro,0,0,4294967295,1⟩]⟩,
  -- EG_CAL_CTRL (R336)
  ⟨0xC00040, 1, 0, .egPort, [⟨10,8,.ro,0,0,7,1⟩, ⟨5,5,.w1c,0,0,1,1⟩, ⟨3,2,.ro,0,0,3,1⟩]⟩,
  -- EG_CAL_LEN (R336)
  ⟨0xC00044, 1, 0, .egCal, [⟨8,0,.rw,1,1,256,1⟩]⟩,
  -- EG_CAL_ARM_LO (R336)
  ⟨0xC00048, 1, 0, .egPort, [⟨31,0,.rw,0,0,4294967295,1⟩]⟩,
  -- EG_CAL_ARM_HI (R336)
  ⟨0xC0004C, 1, 0, .egPort, [⟨31,0,.rw,0,0,4294967295,1⟩]⟩,
  -- EG_CAL_CYCLE (R336)
  ⟨0xC00050, 1, 0, .egCal, [⟨18,0,.ro,1,0,524287,1⟩]⟩,
  -- EG_GATE (R336)
  ⟨0xC00058, 1, 0, .egPort, [⟨23,16,.ro,0,0,255,1⟩, ⟨8,8,.ro,0,0,1,1⟩, ⟨7,0,.ro,255,0,255,1⟩]⟩,
  -- EG_CAL_ENT_e (R336)
  ⟨0xC00400, 256, 4, .egCal, [⟨31,24,.rw,255,0,255,1⟩, ⟨23,23,.rw,0,0,1,1⟩, ⟨15,0,.rw,1,1,65535,1⟩]⟩]

/-- The registers of the SL block. -/
def regsSL : List RDef := [
  -- SL_CFG (R349)
  ⟨0xD00000, 1, 0, .global, [⟨31,31,.rw,0,0,1,1⟩, ⟨26,24,.rw,7,0,7,1⟩, ⟨7,0,.rw,32,0,255,1⟩]⟩,
  -- SL_GUARD (R349)
  ⟨0xD00004, 1, 0, .global, [⟨13,0,.rw,1518,60,16383,1⟩]⟩,
  -- SL_SEL (R349)
  ⟨0xD00010, 1, 0, .global, [⟨11,0,.rw,0,0,4095,1⟩]⟩,
  -- SL_ENT_0 (R349)
  ⟨0xD00014, 4, 4, .global, [⟨31,0,.rw,0,0,4294967295,1⟩]⟩,
  -- SL_CMD (R349)
  ⟨0xD00024, 1, 0, .global, [⟨31,31,.wo,0,0,1,1⟩, ⟨1,0,.rw,0,0,2,1⟩]⟩,
  -- SL_STATUS (R349)
  ⟨0xD00028, 1, 0, .global, [⟨31,29,.ro,0,0,7,1⟩, ⟨12,0,.ro,0,0,8191,1⟩]⟩]

/-- The registers of the LS block. -/
def regsLS : List RDef := [
  -- LS_UNITS (R371)
  ⟨0xE00000, 1, 0, .global, [⟨23,16,.ro,64,0,255,1⟩, ⟨15,12,.ro,4,0,15,1⟩, ⟨7,2,.ro,32,0,63,1⟩, ⟨1,0,.ro,2,0,3,1⟩]⟩,
  -- LS_ROOT (R371)
  ⟨0xE00004, 1, 0, .global, [⟨15,0,.lkw,0,0,65535,1⟩]⟩,
  -- LS_SC (R371)
  ⟨0xE00008, 1, 0, .global, [⟨2,2,.lkw,1,0,1,1⟩, ⟨1,0,.lkw,3,0,3,1⟩]⟩,
  -- LS_OP_CFG (R371)
  ⟨0xE0000C, 1, 0, .global, [⟨4,0,.rw,1,1,16,1⟩]⟩,
  -- LS_CTX_SEL (R371)
  ⟨0xE00010, 1, 0, .global, [⟨21,0,.rw,0,0,4194303,1⟩]⟩,
  -- LS_CTX_STATUS (R371)
  ⟨0xE00014, 1, 0, .global, [⟨31,30,.ro,0,0,3,1⟩, ⟨29,29,.ro,0,0,1,1⟩, ⟨28,25,.ro,0,0,15,1⟩, ⟨24,22,.ro,0,0,7,1⟩, ⟨21,21,.ro,0,0,1,1⟩, ⟨20,20,.ro,0,0,1,1⟩, ⟨12,0,.ro,0,0,8191,1⟩]⟩,
  -- LS_CTX_HANDLE (R371)
  ⟨0xE00018, 1, 0, .global, [⟨31,0,.ro,0,0,4294967295,1⟩]⟩,
  -- LS_CTX_USED_LO (R371)
  ⟨0xE0001C, 1, 0, .global, [⟨31,0,.ro,0,0,4294967295,1⟩]⟩,
  -- LS_CTX_USED_HI (R371)
  ⟨0xE00020, 1, 0, .global, [⟨15,0,.ro,0,0,65535,1⟩]⟩,
  -- LS_CTX_LIMIT (R371)
  ⟨0xE00024, 1, 0, .global, [⟨31,0,.ro,0,0,4294967295,1⟩]⟩,
  -- LS_CTX_ARM_LO (R371)
  ⟨0xE00028, 1, 0, .global, [⟨31,0,.ro,0,0,4294967295,1⟩]⟩,
  -- LS_CTX_ARM_HI (R371)
  ⟨0xE0002C, 1, 0, .global, [⟨31,0,.ro,0,0,4294967295,1⟩]⟩,
  -- LS_CACHE (R371)
  ⟨0xE00030, 1, 0, .global, [⟨14,0,.ro,0,0,32767,1⟩]⟩]

/-- The registers of the SX block. -/
def regsSX : List RDef := [
  -- SX_CFG (R387)
  ⟨0xF00000, 1, 0, .global, [⟨31,31,.rw,0,0,1,1⟩, ⟨26,24,.rw,3,0,7,1⟩, ⟨11,0,.rw,0,0,4095,1⟩]⟩,
  -- SX_FWD (R387)
  ⟨0xF00004, 1, 0, .global, [⟨27,16,.rw,0,0,4095,1⟩, ⟨11,0,.rw,0,0,4095,1⟩]⟩,
  -- SX_TIMER (R387)
  ⟨0xF00008, 1, 0, .global, [⟨31,16,.rw,30000,10,65535,1⟩, ⟨15,0,.rw,1000,10,65535,1⟩]⟩,
  -- SX_SESS (R387)
  ⟨0xF0000C, 1, 0, .global, [⟨23,16,.rw,4,1,255,1⟩, ⟨15,0,.rw,3000,10,65535,1⟩]⟩,
  -- SX_STAGE (R387)
  ⟨0xF00010, 1, 0, .global, [⟨15,0,.rw,1000,1,65535,1⟩]⟩,
  -- SX_SRC_IP4 (R387)
  ⟨0xF00014, 1, 0, .global, [⟨31,0,.rw,0,0,4294967295,1⟩]⟩,
  -- SX_SRC_IP6_0 (R387)
  ⟨0xF00018, 4, 4, .global, [⟨31,0,.rw,0,0,4294967295,1⟩]⟩,
  -- SX_STATUS (R387)
  ⟨0xF00030, 1, 0, .global, [⟨31,31,.w1c,0,0,1,1⟩, ⟨16,0,.ro,0,0,131071,1⟩]⟩,
  -- SX_NS_SEL (R387)
  ⟨0xF00040, 1, 0, .global, [⟨20,12,.rw,1,1,256,1⟩, ⟨11,0,.rw,0,0,4095,1⟩]⟩,
  -- SX_NS_STATUS (R387)
  ⟨0xF00044, 1, 0, .global, [⟨31,29,.ro,0,0,7,1⟩, ⟨28,26,.ro,0,0,7,1⟩, ⟨10,0,.ro,0,0,2047,1⟩]⟩,
  -- SX_NS_NSZE_LO (R387)
  ⟨0xF00048, 1, 0, .global, [⟨31,0,.ro,0,0,4294967295,1⟩]⟩,
  -- SX_NS_NSZE_HI (R387)
  ⟨0xF0004C, 1, 0, .global, [⟨31,0,.ro,0,0,4294967295,1⟩]⟩]

/-- The registers of the DX block. -/
def regsDX : List RDef := [
  -- DX_CFG (R400)
  ⟨0x1000000, 1, 0, .port, [⟨13,8,.rw,4,1,63,1⟩, ⟨2,0,.rw,3,0,3,1⟩]⟩,
  -- DX_ENG_SEL (R400)
  ⟨0x1000004, 1, 0, .port, [⟨1,0,.rw,0,0,3,1⟩]⟩,
  -- DX_ENG_CTRL (R400)
  ⟨0x1000008, 1, 0, .port, [⟨1,1,.wo,0,0,1,1⟩, ⟨0,0,.wo,0,0,1,1⟩]⟩,
  -- DX_ENG_STATUS (R400)
  ⟨0x100000C, 1, 0, .port, [⟨31,29,.ro,1,0,7,1⟩, ⟨23,16,.ro,0,0,255,1⟩, ⟨6,0,.ro,0,0,127,1⟩]⟩,
  -- DX_CH_SEL (R400)
  ⟨0x1000010, 1, 0, .port, [⟨5,0,.rw,0,0,63,1⟩]⟩,
  -- DX_CH_STATUS (R400)
  ⟨0x1000014, 1, 0, .port, [⟨31,30,.ro,0,0,3,1⟩, ⟨29,29,.ro,0,0,1,1⟩, ⟨28,27,.ro,0,0,3,1⟩, ⟨26,26,.ro,0,0,1,1⟩, ⟨23,0,.ro,0,0,16777215,1⟩]⟩,
  -- DX_CH_OWNER (R400)
  ⟨0x1000018, 1, 0, .port, [⟨31,0,.ro,0,0,4294967295,1⟩]⟩]

/-- The registers of the TL block. -/
def regsTL : List RDef := [
  -- TL_CTRL (R413)
  ⟨0x1100000, 1, 0, .global, [⟨0,0,.rw,1,0,1,1⟩]⟩,
  -- TL_SCHED (R413)
  ⟨0x1100004, 1, 0, .global, [⟨31,31,.ro,0,0,1,1⟩, ⟨15,0,.ro,1,0,65535,1⟩]⟩,
  -- TL_BASE_LO (R413)
  ⟨0x1100008, 1, 0, .global, [⟨31,0,.ro,0,0,4294967295,1⟩]⟩,
  -- TL_BASE_HI (R413)
  ⟨0x110000C, 1, 0, .global, [⟨31,0,.ro,0,0,4294967295,1⟩]⟩,
  -- TL_LAST_LO (R413)
  ⟨0x1100010, 1, 0, .global, [⟨31,0,.ro,0,0,4294967295,1⟩]⟩,
  -- TL_LAST_HI (R413)
  ⟨0x1100014, 1, 0, .global, [⟨31,0,.ro,0,0,4294967295,1⟩]⟩,
  -- TL_STATUS (R413)
  ⟨0x1100018, 1, 0, .global, [⟨15,0,.ro,0,0,65535,1⟩]⟩,
  -- TL_CORE_SEL (R413)
  ⟨0x1100040, 1, 0, .global, [⟨7,0,.rw,0,0,191,1⟩]⟩,
  -- TL_PMC_k (R413)
  ⟨0x1100044, 6, 4, .tlCore, [⟨31,16,.rw,65535,0,65535,1⟩, ⟨7,0,.rw,0,0,255,1⟩]⟩]

/-- The registers of the LK block. -/
def regsLK : List RDef := [
  -- LK_MB_CTRL (R422)
  ⟨0x2000000, 1, 0, .port, [⟨1,1,.wo,0,0,1,1⟩, ⟨0,0,.wo,0,0,1,1⟩]⟩,
  -- LK_MB_STATUS (R422)
  ⟨0x2000004, 1, 0, .port, [⟨31,29,.ro,0,0,7,1⟩, ⟨15,12,.ro,0,0,15,1⟩, ⟨0,0,.w1c,0,0,1,1⟩]⟩,
  -- LK_MB_ALERT (R422)
  ⟨0x2000008, 1, 0, .port, [⟨2,0,.w1c,0,0,7,1⟩]⟩,
  -- LK_MB_ALERT_EN (R422)
  ⟨0x200000C, 1, 0, .port, [⟨2,0,.rw,6,0,7,1⟩]⟩,
  -- LK_STATUS (R434)
  ⟨0x1200000, 1, 0, .global, [⟨31,29,.lkw,0,0,7,1⟩, ⟨28,27,.lkw,0,0,3,1⟩, ⟨26,26,.lkw,0,0,1,1⟩, ⟨7,0,.lkw,0,0,255,1⟩]⟩,
  -- LK_POLICY (R434)
  ⟨0x1200004, 1, 0, .global, [⟨31,31,.lkw,0,0,1,1⟩, ⟨9,0,.lkw,10,0,1023,1⟩]⟩,
  -- LK_LOG_TAIL (R434)
  ⟨0x1200008, 1, 0, .global, [⟨31,0,.lkw,0,0,4294967295,1⟩]⟩,
  -- LK_LOG_LOST (R434)
  ⟨0x120000C, 1, 0, .global, [⟨31,0,.lkw,0,0,4294967295,1⟩]⟩,
  -- LK_FATAL_0 (R434)
  ⟨0x1200010, 4, 4, .global, [⟨31,0,.lkw,0,0,4294967295,1⟩]⟩,
  -- LK_FATAL_COUNT (R434)
  ⟨0x1200020, 1, 0, .global, [⟨15,0,.lkw,0,0,65535,1⟩]⟩,
  -- LK_MENDER (R449)
  ⟨0x1200030, 1, 0, .global, [⟨25,16,.lkw,0,0,1023,1⟩, ⟨15,8,.lkw,0,0,255,1⟩, ⟨7,0,.lkw,0,0,255,1⟩]⟩,
  -- LK_SPARE_CORE (R449)
  ⟨0x1200034, 1, 0, .global, [⟨31,16,.lkw,0,0,65535,1⟩, ⟨15,0,.lkw,0,0,65535,1⟩]⟩,
  -- LK_SPARE_LPM (R449)
  ⟨0x1200038, 1, 0, .global, [⟨1,0,.lkw,0,0,3,1⟩]⟩,
  -- LK_WEAR_0 (R449)
  ⟨0x1200040, 1, 0, .global, [⟨31,28,.lkw,2,0,15,1⟩, ⟨15,0,.lkw,1024,0,65535,1⟩]⟩,
  -- LK_WEAR_1 (R449)
  ⟨0x1200044, 1, 0, .global, [⟨31,16,.lkw,4096,0,65535,1⟩, ⟨15,0,.lkw,65535,0,65535,1⟩]⟩,
  -- LK_WEAR_2 (R449)
  ⟨0x1200048, 1, 0, .global, [⟨31,28,.lkw,2,0,15,1⟩, ⟨11,4,.lkw,16,0,255,1⟩, ⟨3,0,.lkw,2,0,15,1⟩]⟩,
  -- LK_BOOT (R466)
  ⟨0x1200060, 1, 0, .global, [⟨31,28,.lkw,0,0,15,1⟩, ⟨27,24,.lkw,0,0,15,1⟩, ⟨23,23,.lkw,0,0,1,1⟩, ⟨2,0,.lkw,0,0,7,1⟩]⟩,
  -- LK_BOOT_TIME (R466)
  ⟨0x1200064, 1, 0, .global, [⟨15,0,.lkw,0,0,65535,1⟩]⟩,
  -- LK_PD_ON_LO (R466)
  ⟨0x1200068, 1, 0, .global, [⟨31,0,.lkw,1,0,4294967295,1⟩]⟩,
  -- LK_PD_ON_HI (R466)
  ⟨0x120006C, 1, 0, .global, [⟨31,0,.lkw,0,0,4294967295,1⟩]⟩,
  -- LK_THERMAL (R466)
  ⟨0x1200070, 1, 0, .global, [⟨23,16,.lkw,110,0,255,1⟩, ⟨15,8,.lkw,100,0,255,1⟩, ⟨1,0,.lkw,0,0,3,1⟩]⟩,
  -- LK_TEMP (R466)
  ⟨0x1200074, 1, 0, .global, [⟨23,16,.lkw,0,0,255,1⟩, ⟨15,8,.lkw,0,0,255,1⟩, ⟨7,0,.lkw,0,0,255,1⟩]⟩]

/-- The registers of the DB block. -/
def regsDB : List RDef := [
  -- DB_SESSION (R478)
  ⟨0x1300000, 1, 0, .global, [⟨31,30,.ro,0,0,3,1⟩, ⟨29,26,.ro,0,0,15,1⟩, ⟨15,0,.ro,0,0,65535,1⟩]⟩,
  -- DB_HALTED (R478)
  ⟨0x1300004, 1, 0, .global, [⟨11,0,.ro,0,0,4095,1⟩]⟩,
  -- DB_AUTH (R478)
  ⟨0x1300008, 1, 0, .global, [⟨31,16,.ro,0,0,65535,1⟩, ⟨5,0,.ro,0,0,63,1⟩]⟩,
  -- DB_IDCODE (R478)
  ⟨0x130000C, 1, 0, .global, [⟨31,0,.ro,0,0,4294967295,1⟩]⟩]

/-- The register map of PF0 BAR0. -/
def regTable : List RDef :=
  regsFT ++ regsGL ++ regsHL ++ regsQM ++ regsTN ++ regsMA ++ regsPA ++ regsFW ++ regsMS ++ regsMC ++ regsFC ++ regsTP ++ regsEG ++ regsSL ++ regsLS ++ regsSX ++ regsDX ++ regsTL ++ regsLK ++ regsDB

end Sys2Proof.Machine

namespace Sys2Proof.Machine.F

abbrev FT_CTRL_TOD_ARM : Fd := ⟨0x100000, 0, 3, 3⟩
abbrev FT_CTRL_RESTART : Fd := ⟨0x100000, 0, 2, 2⟩
abbrev FT_CTRL_PTM_EN : Fd := ⟨0x100000, 0, 1, 1⟩
abbrev FT_CTRL_ENABLE : Fd := ⟨0x100000, 0, 0, 0⟩
abbrev FT_STATUS_TOD_IGN : Fd := ⟨0x100004, 0, 10, 10⟩
abbrev FT_STATUS_PPS_OK : Fd := ⟨0x100004, 0, 9, 9⟩
abbrev FT_STATUS_REF_OK : Fd := ⟨0x100004, 0, 8, 8⟩
abbrev FT_STATUS_INBAND_OK : Fd := ⟨0x100004, 0, 7, 7⟩
abbrev FT_STATUS_ACTIVE_SRC : Fd := ⟨0x100004, 0, 6, 5⟩
abbrev FT_STATUS_QUALITY : Fd := ⟨0x100004, 0, 4, 3⟩
abbrev FT_STATUS_STATE : Fd := ⟨0x100004, 0, 2, 0⟩
abbrev FT_SRC_CTRL_PTP_DOMAIN : Fd := ⟨0x100008, 0, 30, 24⟩
abbrev FT_SRC_CTRL_BACKUP_PORT_EN : Fd := ⟨0x100008, 0, 21, 21⟩
abbrev FT_SRC_CTRL_BACKUP_PORT : Fd := ⟨0x100008, 0, 20, 16⟩
abbrev FT_SRC_CTRL_INBAND_PORT : Fd := ⟨0x100008, 0, 8, 4⟩
abbrev FT_SRC_CTRL_REF_FREQ : Fd := ⟨0x100008, 0, 2, 2⟩
abbrev FT_SRC_CTRL_MODE : Fd := ⟨0x100008, 0, 1, 0⟩
abbrev FT_LOOP_SLEW_MAX : Fd := ⟨0x10000C, 0, 31, 24⟩
abbrev FT_LOOP_LOCK_COUNT : Fd := ⟨0x10000C, 0, 23, 16⟩
abbrev FT_LOOP_LOCK_THRESH : Fd := ⟨0x10000C, 0, 15, 8⟩
abbrev FT_LOOP_BW : Fd := ⟨0x10000C, 0, 7, 0⟩
abbrev FT_LOSS_BEACON_LOSS : Fd := ⟨0x100010, 0, 25, 16⟩
abbrev FT_LOSS_PPS_LOSS : Fd := ⟨0x100010, 0, 15, 8⟩
abbrev FT_LOSS_REF_LOSS : Fd := ⟨0x100010, 0, 7, 0⟩
abbrev FT_HOLD_POLICY_HOLD_LIMIT : Fd := ⟨0x100014, 0, 23, 8⟩
abbrev FT_HOLD_POLICY_BEACON_IN_HOLD : Fd := ⟨0x100014, 0, 1, 1⟩
abbrev FT_HOLD_POLICY_MFT_DEMOTE : Fd := ⟨0x100014, 0, 0, 0⟩
abbrev FT_ARM_LEAD_LEAD : Fd := ⟨0x100018, 0, 20, 0⟩
abbrev FT_BEACON_DELAY_MECH : Fd := ⟨0x10001C, 0, 6, 6⟩
abbrev FT_BEACON_ONE_STEP : Fd := ⟨0x10001C, 0, 5, 5⟩
abbrev FT_BEACON_TX_EN : Fd := ⟨0x10001C, 0, 4, 4⟩
abbrev FT_BEACON_INTERVAL : Fd := ⟨0x10001C, 0, 3, 0⟩
abbrev FT_BEACON_PORTS_PORTS : Fd := ⟨0x100020, 0, 31, 0⟩
abbrev FT_PPS_DELAY_DELAY : Fd := ⟨0x100024, 0, 31, 0⟩
abbrev FT_ASYM_ASYM : Fd := ⟨0x100028, 0, 31, 0⟩
abbrev FT_HOLD_TIME_SECONDS : Fd := ⟨0x10002C, 0, 31, 0⟩
abbrev FT_NOW_W : Fd := ⟨0x100030, 4, 31, 0⟩
abbrev FT_EPOCH_LO_EPOCH : Fd := ⟨0x100040, 0, 31, 0⟩
abbrev FT_EPOCH_HI_EPOCH : Fd := ⟨0x100044, 0, 31, 0⟩
abbrev FT_TOD_LO_SEC_LO : Fd := ⟨0x100048, 0, 31, 0⟩
abbrev FT_TOD_HI_SEC_HI : Fd := ⟨0x10004C, 0, 15, 0⟩
abbrev FT_SERVO_OFFSET_OFFSET : Fd := ⟨0x100050, 0, 31, 0⟩
abbrev FT_FREQ_ADJ_ADJ : Fd := ⟨0x100054, 0, 31, 0⟩
abbrev FT_BEACON_ID_0_ORG_ID : Fd := ⟨0x100058, 0, 23, 0⟩
abbrev FT_BEACON_ID_1_SUBTYPE : Fd := ⟨0x10005C, 0, 23, 0⟩
abbrev FT_PTM_LO_ADDR_LO : Fd := ⟨0x100060, 8, 31, 5⟩
abbrev FT_PTM_LO_EN : Fd := ⟨0x100060, 8, 0, 0⟩
abbrev FT_PTM_HI_ADDR_HI : Fd := ⟨0x100064, 8, 31, 0⟩
abbrev FT_PTM_INTERVAL_INTERVAL : Fd := ⟨0x1000A0, 0, 3, 0⟩
abbrev GL_ID_DEVICE_ID : Fd := ⟨0x0, 0, 31, 16⟩
abbrev GL_ID_VENDOR_ID : Fd := ⟨0x0, 0, 15, 0⟩
abbrev GL_STEP_LETTER : Fd := ⟨0x4, 0, 15, 8⟩
abbrev GL_STEP_NUMBER : Fd := ⟨0x4, 0, 7, 0⟩
abbrev GL_LIKENESS_LEVEL : Fd := ⟨0x8, 0, 7, 0⟩
abbrev GL_VERSIONS_MAILBOX_MAX : Fd := ⟨0xC, 0, 23, 16⟩
abbrev GL_VERSIONS_QABI_MAX : Fd := ⟨0xC, 0, 15, 8⟩
abbrev GL_VERSIONS_MFT_MAX : Fd := ⟨0xC, 0, 7, 0⟩
abbrev GL_CONFIG_MGMT_PORT : Fd := ⟨0x10, 0, 26, 24⟩
abbrev GL_CONFIG_OCTET_CFG : Fd := ⟨0x10, 0, 23, 16⟩
abbrev GL_CONFIG_PORT_WIDTH : Fd := ⟨0x10, 0, 15, 0⟩
abbrev GL_THIS_PORT_PORT : Fd := ⟨0x14, 0, 2, 0⟩
abbrev GL_SERIAL_LO_SERIAL : Fd := ⟨0x18, 0, 31, 0⟩
abbrev GL_SERIAL_HI_SERIAL : Fd := ⟨0x1C, 0, 31, 0⟩
abbrev GL_SCRATCH_VALUE : Fd := ⟨0x20, 0, 31, 0⟩
abbrev GL_ACC_STATUS_DENIED_CNT : Fd := ⟨0x24, 0, 31, 16⟩
abbrev GL_ACC_STATUS_PARTIAL : Fd := ⟨0x24, 0, 1, 1⟩
abbrev GL_ACC_STATUS_DENIED : Fd := ⟨0x24, 0, 0, 0⟩
abbrev HL_LINK_STATUS_DL_ACTIVE : Fd := ⟨0x200000, 0, 31, 31⟩
abbrev HL_LINK_STATUS_NO_FLIT : Fd := ⟨0x200000, 0, 30, 30⟩
abbrev HL_LINK_STATUS_SPEED : Fd := ⟨0x200000, 0, 23, 20⟩
abbrev HL_LINK_STATUS_WIDTH : Fd := ⟨0x200000, 0, 19, 15⟩
abbrev HL_LINK_STATUS_L0P_WIDTH : Fd := ⟨0x200000, 0, 14, 10⟩
abbrev HL_LINK_STATUS_LTSSM : Fd := ⟨0x200000, 0, 3, 0⟩
abbrev HL_RESET_CAUSE_LINK_DOWN : Fd := ⟨0x200004, 0, 5, 5⟩
abbrev HL_RESET_CAUSE_PERST : Fd := ⟨0x200004, 0, 4, 4⟩
abbrev HL_RESET_CAUSE_HOT : Fd := ⟨0x200004, 0, 3, 3⟩
abbrev HL_RESET_CAUSE_FLR_PF0 : Fd := ⟨0x200004, 0, 2, 2⟩
abbrev HL_RESET_CAUSE_FLR_PF1 : Fd := ⟨0x200004, 0, 1, 1⟩
abbrev HL_RESET_CAUSE_BME : Fd := ⟨0x200004, 0, 0, 0⟩
abbrev HL_DISABLE_STATUS_PF1_DRAIN : Fd := ⟨0x200008, 0, 1, 1⟩
abbrev HL_DISABLE_STATUS_PF0_DRAIN : Fd := ⟨0x200008, 0, 0, 0⟩
abbrev HL_CPL_STATUS_TIMEOUT_CNT : Fd := ⟨0x20000C, 0, 31, 16⟩
abbrev HL_CPL_STATUS_LATE_CNT : Fd := ⟨0x20000C, 0, 15, 0⟩
abbrev HL_PEER_STATUS_REFUSED_CNT : Fd := ⟨0x200010, 0, 31, 16⟩
abbrev HL_PEER_STATUS_HOLD_MAX : Fd := ⟨0x200010, 0, 6, 0⟩
abbrev HL_INTX_SRC_LK_ALERT : Fd := ⟨0x200014, 0, 1, 1⟩
abbrev HL_INTX_SRC_EVQ : Fd := ⟨0x200014, 0, 0, 0⟩
abbrev HL_WIN_SEL_SET : Fd := ⟨0x200100, 0, 31, 31⟩
abbrev HL_WIN_SEL_WIN : Fd := ⟨0x200100, 0, 7, 0⟩
abbrev HL_WIN_BASE_LO_OFFSET_LO : Fd := ⟨0x200104, 0, 31, 12⟩
abbrev HL_WIN_BASE_HI_OFFSET_HI : Fd := ⟨0x200108, 0, 3, 0⟩
abbrev HL_WIN_LEN_COUNT : Fd := ⟨0x20010C, 0, 16, 0⟩
abbrev HL_WIN_CFG_EN : Fd := ⟨0x200110, 0, 31, 31⟩
abbrev HL_WIN_CFG_WR : Fd := ⟨0x200110, 0, 30, 30⟩
abbrev HL_WIN_CFG_RD : Fd := ⟨0x200110, 0, 29, 29⟩
abbrev HL_WIN_CFG_RID_CHECK : Fd := ⟨0x200110, 0, 28, 28⟩
abbrev HL_WIN_CFG_POOL : Fd := ⟨0x200110, 0, 26, 24⟩
abbrev HL_WIN_CFG_TENANT : Fd := ⟨0x200110, 0, 11, 0⟩
abbrev HL_WIN_LIST_LO_LIST_LO : Fd := ⟨0x200114, 0, 31, 6⟩
abbrev HL_WIN_LIST_HI_LIST_HI : Fd := ⟨0x200118, 0, 0, 0⟩
abbrev HL_WIN_RID_RID : Fd := ⟨0x20011C, 0, 15, 0⟩
abbrev HL_WIN_HANDLE_HANDLE : Fd := ⟨0x200120, 0, 31, 0⟩
abbrev HL_WIN_CTRL_ERR_WIN : Fd := ⟨0x200124, 0, 23, 16⟩
abbrev HL_WIN_CTRL_ERR_CODE : Fd := ⟨0x200124, 0, 11, 8⟩
abbrev HL_WIN_CTRL_BUSY : Fd := ⟨0x200124, 0, 3, 3⟩
abbrev HL_WIN_CTRL_COMMIT_ERR : Fd := ⟨0x200124, 0, 2, 2⟩
abbrev HL_WIN_CTRL_COMMIT_PEND : Fd := ⟨0x200124, 0, 1, 1⟩
abbrev HL_WIN_CTRL_WIN_COMMIT : Fd := ⟨0x200124, 0, 0, 0⟩
abbrev HL_AER_MAP_PF0_ENTRY_0 : Fd := ⟨0x200200, 4, 1, 0⟩
abbrev HL_AER_MAP_PF0_ENTRY_1 : Fd := ⟨0x200200, 4, 3, 2⟩
abbrev HL_AER_MAP_PF0_ENTRY_2 : Fd := ⟨0x200200, 4, 5, 4⟩
abbrev HL_AER_MAP_PF0_ENTRY_3 : Fd := ⟨0x200200, 4, 7, 6⟩
abbrev HL_AER_MAP_PF0_ENTRY_4 : Fd := ⟨0x200200, 4, 9, 8⟩
abbrev HL_AER_MAP_PF0_ENTRY_5 : Fd := ⟨0x200200, 4, 11, 10⟩
abbrev HL_AER_MAP_PF0_ENTRY_6 : Fd := ⟨0x200200, 4, 13, 12⟩
abbrev HL_AER_MAP_PF0_ENTRY_7 : Fd := ⟨0x200200, 4, 15, 14⟩
abbrev HL_AER_MAP_PF0_ENTRY_8 : Fd := ⟨0x200200, 4, 17, 16⟩
abbrev HL_AER_MAP_PF0_ENTRY_9 : Fd := ⟨0x200200, 4, 19, 18⟩
abbrev HL_AER_MAP_PF0_ENTRY_10 : Fd := ⟨0x200200, 4, 21, 20⟩
abbrev HL_AER_MAP_PF0_ENTRY_11 : Fd := ⟨0x200200, 4, 23, 22⟩
abbrev HL_AER_MAP_PF0_ENTRY_12 : Fd := ⟨0x200200, 4, 25, 24⟩
abbrev HL_AER_MAP_PF0_ENTRY_13 : Fd := ⟨0x200200, 4, 27, 26⟩
abbrev HL_AER_MAP_PF0_ENTRY_14 : Fd := ⟨0x200200, 4, 29, 28⟩
abbrev HL_AER_MAP_PF0_ENTRY_15 : Fd := ⟨0x200200, 4, 31, 30⟩
abbrev HL_AER_MAP_PF1_ENTRY_0 : Fd := ⟨0x200210, 4, 1, 0⟩
abbrev HL_AER_MAP_PF1_ENTRY_1 : Fd := ⟨0x200210, 4, 3, 2⟩
abbrev HL_AER_MAP_PF1_ENTRY_2 : Fd := ⟨0x200210, 4, 5, 4⟩
abbrev HL_AER_MAP_PF1_ENTRY_3 : Fd := ⟨0x200210, 4, 7, 6⟩
abbrev HL_AER_MAP_PF1_ENTRY_4 : Fd := ⟨0x200210, 4, 9, 8⟩
abbrev HL_AER_MAP_PF1_ENTRY_5 : Fd := ⟨0x200210, 4, 11, 10⟩
abbrev HL_AER_MAP_PF1_ENTRY_6 : Fd := ⟨0x200210, 4, 13, 12⟩
abbrev HL_AER_MAP_PF1_ENTRY_7 : Fd := ⟨0x200210, 4, 15, 14⟩
abbrev HL_AER_MAP_PF1_ENTRY_8 : Fd := ⟨0x200210, 4, 17, 16⟩
abbrev HL_AER_MAP_PF1_ENTRY_9 : Fd := ⟨0x200210, 4, 19, 18⟩
abbrev HL_AER_MAP_PF1_ENTRY_10 : Fd := ⟨0x200210, 4, 21, 20⟩
abbrev HL_AER_MAP_PF1_ENTRY_11 : Fd := ⟨0x200210, 4, 23, 22⟩
abbrev HL_AER_MAP_PF1_ENTRY_12 : Fd := ⟨0x200210, 4, 25, 24⟩
abbrev HL_AER_MAP_PF1_ENTRY_13 : Fd := ⟨0x200210, 4, 27, 26⟩
abbrev HL_AER_MAP_PF1_ENTRY_14 : Fd := ⟨0x200210, 4, 29, 28⟩
abbrev HL_AER_MAP_PF1_ENTRY_15 : Fd := ⟨0x200210, 4, 31, 30⟩
abbrev QM_AQ_SQ_LO_ADDR_LO : Fd := ⟨0x300000, 0, 31, 6⟩
abbrev QM_AQ_SQ_HI_ADDR_HI : Fd := ⟨0x300004, 0, 31, 0⟩
abbrev QM_AQ_CQ_LO_ADDR_LO : Fd := ⟨0x300008, 0, 31, 6⟩
abbrev QM_AQ_CQ_HI_ADDR_HI : Fd := ⟨0x30000C, 0, 31, 0⟩
abbrev QM_AQ_DB_LO_ADDR_LO : Fd := ⟨0x300010, 0, 31, 3⟩
abbrev QM_AQ_DB_HI_ADDR_HI : Fd := ⟨0x300014, 0, 31, 0⟩
abbrev QM_AQ_CFG_ABI_MAX : Fd := ⟨0x300018, 0, 31, 28⟩
abbrev QM_AQ_CFG_ABI_MIN : Fd := ⟨0x300018, 0, 27, 24⟩
abbrev QM_AQ_CFG_CQ_LOG2 : Fd := ⟨0x300018, 0, 12, 8⟩
abbrev QM_AQ_CFG_SQ_LOG2 : Fd := ⟨0x300018, 0, 4, 0⟩
abbrev QM_AQ_CTRL_ENABLE : Fd := ⟨0x30001C, 0, 0, 0⟩
abbrev QM_AQ_STATUS_ABI : Fd := ⟨0x300020, 0, 15, 12⟩
abbrev QM_AQ_STATUS_ERR : Fd := ⟨0x300020, 0, 10, 8⟩
abbrev QM_AQ_STATUS_ACTIVE : Fd := ⟨0x300020, 0, 0, 0⟩
abbrev QM_SCAN_CFG_HOT_PERIOD : Fd := ⟨0x300030, 0, 20, 16⟩
abbrev QM_SCAN_CFG_HOT_SHARE : Fd := ⟨0x300030, 0, 15, 8⟩
abbrev QM_SCAN_CFG_BUDGET : Fd := ⟨0x300030, 0, 7, 0⟩
abbrev QM_SCAN_IDLE_WARM_IDLE : Fd := ⟨0x300034, 0, 26, 16⟩
abbrev QM_SCAN_IDLE_HOT_IDLE : Fd := ⟨0x300034, 0, 8, 0⟩
abbrev QM_SCAN_STATUS_STRETCH : Fd := ⟨0x300038, 0, 19, 0⟩
abbrev QM_SCAN_HOT_COUNT : Fd := ⟨0x30003C, 0, 20, 0⟩
abbrev QM_SCAN_WARM_COUNT : Fd := ⟨0x300040, 0, 20, 0⟩
abbrev QM_SCAN_COLD_COUNT : Fd := ⟨0x300044, 0, 20, 0⟩
abbrev QM_SCAN_EVT_DEMOTE_CNT : Fd := ⟨0x300048, 0, 31, 16⟩
abbrev QM_SCAN_EVT_DB_STALE_CNT : Fd := ⟨0x300048, 0, 15, 0⟩
abbrev QM_PUSH_CFG_ASM_TIMEOUT : Fd := ⟨0x300050, 0, 6, 0⟩
abbrev QM_CPL_CFG_OVF_TIMEOUT : Fd := ⟨0x300060, 0, 25, 16⟩
abbrev QM_CPL_CFG_HEAD_POLL : Fd := ⟨0x300060, 0, 5, 0⟩
abbrev QM_CPL_STATUS_OVERRUN_CNT : Fd := ⟨0x300064, 0, 31, 16⟩
abbrev QM_CPL_STATUS_HEAD_RANGE_CNT : Fd := ⟨0x300064, 0, 15, 0⟩
abbrev QM_CPL_SPILL_CQS : Fd := ⟨0x300068, 0, 20, 0⟩
abbrev TN_SEL_TENANT : Fd := ⟨0x400000, 0, 11, 0⟩
abbrev TN_STATUS_HOMED : Fd := ⟨0x400004, 0, 31, 31⟩
abbrev TN_STATUS_TARGET_DIS : Fd := ⟨0x400004, 0, 3, 3⟩
abbrev TN_STATUS_STATE : Fd := ⟨0x400004, 0, 2, 0⟩
abbrev TN_HANDLE_HANDLE : Fd := ⟨0x400008, 0, 31, 0⟩
abbrev TN_FENCE_DRAIN_US : Fd := ⟨0x40000C, 0, 31, 16⟩
abbrev TN_FENCE_CANCELLED : Fd := ⟨0x40000C, 0, 15, 0⟩
abbrev TN_HOMED_COUNT : Fd := ⟨0x400010, 0, 12, 0⟩
abbrev MA_GLINK_LINK_UP : Fd := ⟨0x500000, 0, 31, 0⟩
abbrev MA_PCFG_EN : Fd := ⟨0x501000, 256, 31, 31⟩
abbrev MA_PCFG_MEDIA : Fd := ⟨0x501000, 256, 27, 26⟩
abbrev MA_PCFG_AN_EN : Fd := ⟨0x501000, 256, 25, 25⟩
abbrev MA_PCFG_FEC_EARLY : Fd := ⟨0x501000, 256, 24, 24⟩
abbrev MA_PCFG_LOOPBACK : Fd := ⟨0x501000, 256, 23, 22⟩
abbrev MA_PSTATUS_LINK_UP : Fd := ⟨0x501004, 256, 31, 31⟩
abbrev MA_PSTATUS_LOCAL_FAULT : Fd := ⟨0x501004, 256, 30, 30⟩
abbrev MA_PSTATUS_REMOTE_FAULT : Fd := ⟨0x501004, 256, 29, 29⟩
abbrev MA_PSTATUS_PREEMPT_ACTIVE : Fd := ⟨0x501004, 256, 28, 28⟩
abbrev MA_PSTATUS_PAUSED : Fd := ⟨0x501004, 256, 23, 16⟩
abbrev MA_PSTATUS_WD_RECOVER : Fd := ⟨0x501004, 256, 15, 8⟩
abbrev MA_PSTATUS_STATE : Fd := ⟨0x501004, 256, 2, 0⟩
abbrev MA_FRAME_MAX_LEN : Fd := ⟨0x501008, 256, 29, 16⟩
abbrev MA_TAG_IN_STRIP : Fd := ⟨0x50100C, 256, 31, 31⟩
abbrev MA_TAG_IN_ACCEPT : Fd := ⟨0x50100C, 256, 30, 29⟩
abbrev MA_TAG_EG_INSERT : Fd := ⟨0x50100C, 256, 28, 28⟩
abbrev MA_TAG_EG_TPID : Fd := ⟨0x50100C, 256, 27, 27⟩
abbrev MA_TAG_PCP : Fd := ⟨0x50100C, 256, 15, 13⟩
abbrev MA_TAG_DEI : Fd := ⟨0x50100C, 256, 12, 12⟩
abbrev MA_TAG_PVID : Fd := ⟨0x50100C, 256, 11, 0⟩
abbrev MA_FC_MODE : Fd := ⟨0x501010, 256, 31, 30⟩
abbrev MA_FC_RX_EN : Fd := ⟨0x501010, 256, 29, 29⟩
abbrev MA_FC_TX_EN : Fd := ⟨0x501010, 256, 28, 28⟩
abbrev MA_FC_PFC_ENABLE : Fd := ⟨0x501010, 256, 23, 16⟩
abbrev MA_FC_QUANTA : Fd := ⟨0x501010, 256, 15, 0⟩
abbrev MA_FC_THRESH_XOFF : Fd := ⟨0x501014, 256, 31, 16⟩
abbrev MA_FC_THRESH_XON : Fd := ⟨0x501014, 256, 15, 0⟩
abbrev MA_PAUSE_WD_EN : Fd := ⟨0x501018, 256, 31, 31⟩
abbrev MA_PAUSE_WD_TIMEOUT : Fd := ⟨0x501018, 256, 27, 14⟩
abbrev MA_PAUSE_WD_RECOVER : Fd := ⟨0x501018, 256, 13, 0⟩
abbrev MA_PREEMPT_EN : Fd := ⟨0x50101C, 256, 31, 31⟩
abbrev MA_PREEMPT_VERIFY_DIS : Fd := ⟨0x50101C, 256, 30, 30⟩
abbrev MA_PREEMPT_ADD_FRAG : Fd := ⟨0x50101C, 256, 29, 28⟩
abbrev MA_PREEMPT_VERIFY_TIME : Fd := ⟨0x50101C, 256, 19, 12⟩
abbrev MA_PREEMPT_EXPRESS : Fd := ⟨0x50101C, 256, 7, 0⟩
abbrev MA_PREEMPT_STATUS_VERIFY : Fd := ⟨0x501020, 256, 2, 0⟩
abbrev MA_LAT_RX_LAT : Fd := ⟨0x501024, 256, 31, 16⟩
abbrev MA_LAT_TX_LAT : Fd := ⟨0x501024, 256, 15, 0⟩
abbrev MA_DOWN_DOWN_HOLD : Fd := ⟨0x501028, 256, 15, 0⟩
abbrev PA_RS_STATUS_STATE : Fd := ⟨0x600000, 0, 11, 0⟩
abbrev PA_RS_HANDLE_HANDLE : Fd := ⟨0x600010, 4, 31, 0⟩
abbrev PA_RS_REFS_REFS : Fd := ⟨0x600020, 4, 31, 0⟩
abbrev PA_RS_ARM_LO_EPOCH_LO : Fd := ⟨0x600030, 0, 31, 0⟩
abbrev PA_RS_ARM_HI_EPOCH_HI : Fd := ⟨0x600034, 0, 31, 0⟩
abbrev PA_RS_CFG_MAX_PASS : Fd := ⟨0x600040, 0, 19, 16⟩
abbrev PA_RS_CFG_DRAIN_LIMIT : Fd := ⟨0x600040, 0, 15, 0⟩
abbrev PA_RS_RULES_FREE_ENTRIES : Fd := ⟨0x600044, 0, 16, 0⟩
abbrev PA_DEF_ACTION : Fd := ⟨0x600100, 8, 31, 0⟩
abbrev PA_DEF_p_hi_ACTION_HI : Fd := ⟨0x600104, 8, 31, 0⟩
abbrev PA_DEF_HOST_ACTION : Fd := ⟨0x600200, 0, 31, 0⟩
abbrev PA_DEF_HOST_hi_ACTION_HI : Fd := ⟨0x600204, 0, 31, 0⟩
abbrev FW_CMD_START : Fd := ⟨0x700000, 0, 31, 31⟩
abbrev FW_CMD_EVICT_OK : Fd := ⟨0x700000, 0, 11, 11⟩
abbrev FW_CMD_TABLE : Fd := ⟨0x700000, 0, 10, 8⟩
abbrev FW_CMD_OP : Fd := ⟨0x700000, 0, 3, 0⟩
abbrev FW_STATUS_BUSY : Fd := ⟨0x700004, 0, 31, 31⟩
abbrev FW_STATUS_BUSY_ERR : Fd := ⟨0x700004, 0, 30, 30⟩
abbrev FW_STATUS_RESULT : Fd := ⟨0x700004, 0, 3, 0⟩
abbrev FW_INDEX_INDEX : Fd := ⟨0x700008, 0, 25, 0⟩
abbrev FW_RESULT_INDEX_INDEX : Fd := ⟨0x70000C, 0, 25, 0⟩
abbrev FW_DATA_W : Fd := ⟨0x700010, 4, 31, 0⟩
abbrev FW_L2_CFG_EVICT : Fd := ⟨0x700080, 0, 17, 16⟩
abbrev FW_L2_CFG_HOLD : Fd := ⟨0x700080, 0, 15, 0⟩
abbrev FW_EM_CFG_EVICT : Fd := ⟨0x700084, 0, 1, 0⟩
abbrev FW_AGE_EM_PERIOD : Fd := ⟨0x700088, 0, 15, 0⟩
abbrev FW_AGE_L2_PERIOD : Fd := ⟨0x70008C, 0, 15, 0⟩
abbrev FW_USED_EM_COUNT : Fd := ⟨0x700090, 0, 26, 0⟩
abbrev FW_USED_L2_COUNT : Fd := ⟨0x700094, 0, 22, 0⟩
abbrev FW_USED_LPM_COUNT : Fd := ⟨0x700098, 0, 18, 0⟩
abbrev MS_STATUS_READY : Fd := ⟨0x800000, 0, 0, 0⟩
abbrev MS_CARVE_GIB : Fd := ⟨0x800010, 4, 7, 0⟩
abbrev MS_ALLOC_CFG_MAX_UP : Fd := ⟨0x800040, 0, 2, 0⟩
abbrev MS_QUAR_CFG_THRESH : Fd := ⟨0x800044, 0, 15, 0⟩
abbrev MS_CACHE_CFG_DEPTH_0 : Fd := ⟨0x800048, 0, 4, 0⟩
abbrev MS_CACHE_CFG_DEPTH_1 : Fd := ⟨0x800048, 0, 9, 5⟩
abbrev MS_CACHE_CFG_DEPTH_2 : Fd := ⟨0x800048, 0, 14, 10⟩
abbrev MS_CACHE_CFG_DEPTH_3 : Fd := ⟨0x800048, 0, 19, 15⟩
abbrev MS_CACHE_CFG_DEPTH_4 : Fd := ⟨0x800048, 0, 24, 20⟩
abbrev MS_CACHE_CFG_DEPTH_5 : Fd := ⟨0x800048, 0, 29, 25⟩
abbrev MS_FREE_COUNT : Fd := ⟨0x800050, 4, 29, 0⟩
abbrev MS_LOW_WM_WM : Fd := ⟨0x800080, 4, 29, 0⟩
abbrev MS_REQ_SEL_POOL : Fd := ⟨0x8000A0, 0, 18, 16⟩
abbrev MS_REQ_SEL_REQ : Fd := ⟨0x8000A0, 0, 12, 0⟩
abbrev MS_REQ_LIMIT_LIMIT : Fd := ⟨0x8000A4, 0, 29, 0⟩
abbrev MS_REQ_RESERVE_RESERVE : Fd := ⟨0x8000A8, 0, 29, 0⟩
abbrev MS_REQ_USED_USED : Fd := ⟨0x8000AC, 0, 29, 0⟩
abbrev MS_REQ_STATUS_QUARANTINED : Fd := ⟨0x8000B0, 0, 31, 31⟩
abbrev MS_REQ_STATUS_ERR_CNT : Fd := ⟨0x8000B0, 0, 15, 0⟩
abbrev MS_REQ_CELLS_CELLS : Fd := ⟨0x8000B4, 0, 29, 0⟩
abbrev MS_HC_STATUS_HALVES : Fd := ⟨0x8000C0, 0, 31, 30⟩
abbrev MS_HC_STATUS_OLDEST_US : Fd := ⟨0x8000C0, 0, 19, 0⟩
abbrev MC_STATUS_MIG_ACTIVE : Fd := ⟨0x900000, 0, 4, 4⟩
abbrev MC_STATUS_TRAINED : Fd := ⟨0x900000, 0, 3, 0⟩
abbrev MC_SCHED_WR_HI : Fd := ⟨0x900010, 0, 15, 10⟩
abbrev MC_SCHED_WR_LO : Fd := ⟨0x900010, 0, 9, 4⟩
abbrev MC_SCHED_HIT_CAP : Fd := ⟨0x900010, 0, 3, 0⟩
abbrev MC_ACT_CFG_THRESH : Fd := ⟨0x900014, 0, 31, 16⟩
abbrev MC_ACT_CFG_RADIUS : Fd := ⟨0x900014, 0, 1, 0⟩
abbrev MC_SCRUB_PERIOD : Fd := ⟨0x900018, 0, 7, 0⟩
abbrev MC_TEMP_MAX_C : Fd := ⟨0x900020, 4, 23, 16⟩
abbrev MC_TEMP_REF_2X : Fd := ⟨0x900020, 4, 15, 15⟩
abbrev MC_TEMP_TEMP_C : Fd := ⟨0x900020, 4, 7, 0⟩
abbrev MC_PC_SEL_PC : Fd := ⟨0x900040, 0, 7, 0⟩
abbrev MC_MIG_STATUS_STATE : Fd := ⟨0x900050, 0, 31, 29⟩
abbrev MC_MIG_STATUS_PC : Fd := ⟨0x900050, 0, 28, 21⟩
abbrev MC_MIG_STATUS_UNITS : Fd := ⟨0x900050, 0, 19, 0⟩
abbrev MC_SPARES_FREE : Fd := ⟨0x900054, 0, 7, 0⟩
abbrev MC_TRN_CTRL_START : Fd := ⟨0x900080, 0, 31, 31⟩
abbrev MC_TRN_CTRL_PC : Fd := ⟨0x900080, 0, 16, 8⟩
abbrev MC_TRN_CTRL_LANES : Fd := ⟨0x900080, 0, 7, 4⟩
abbrev MC_TRN_PAT_PATTERN : Fd := ⟨0x900084, 0, 31, 0⟩
abbrev MC_TRN_RESULT_MISMATCH : Fd := ⟨0x900088, 0, 31, 0⟩
abbrev FC_SEL_CORE : Fd := ⟨0xA00000, 0, 7, 0⟩
abbrev FC_CTRL_START : Fd := ⟨0xA00004, 0, 31, 31⟩
abbrev FC_CTRL_STOP : Fd := ⟨0xA00004, 0, 30, 30⟩
abbrev FC_CTRL_IMAGE : Fd := ⟨0xA00004, 0, 3, 0⟩
abbrev FC_STATUS_STATE : Fd := ⟨0xA00008, 0, 31, 29⟩
abbrev FC_STATUS_SLOT_IGN : Fd := ⟨0xA00008, 0, 28, 28⟩
abbrev FC_STATUS_ERR_CODE : Fd := ⟨0xA00008, 0, 27, 24⟩
abbrev FC_STATUS_RESTARTS : Fd := ⟨0xA00008, 0, 23, 16⟩
abbrev FC_STATUS_BAD_CPL : Fd := ⟨0xA00008, 0, 15, 0⟩
abbrev FC_THREADS_WAITING : Fd := ⟨0xA0000C, 0, 31, 16⟩
abbrev FC_THREADS_RUNNING : Fd := ⟨0xA0000C, 0, 15, 0⟩
abbrev FC_THREADS_X_FAULTED : Fd := ⟨0xA00010, 0, 31, 16⟩
abbrev FC_THREADS_X_HALTED : Fd := ⟨0xA00010, 0, 15, 0⟩
abbrev FC_SLICE_SIZE : Fd := ⟨0xA00020, 4, 14, 8⟩
abbrev FC_SLICE_BASE : Fd := ⟨0xA00020, 4, 5, 0⟩
abbrev FC_SLOT_V_0 : Fd := ⟨0xA00060, 4, 7, 7⟩
abbrev FC_SLOT_THREAD_0 : Fd := ⟨0xA00060, 4, 3, 0⟩
abbrev FC_SLOT_V_1 : Fd := ⟨0xA00060, 4, 15, 15⟩
abbrev FC_SLOT_THREAD_1 : Fd := ⟨0xA00060, 4, 11, 8⟩
abbrev FC_SLOT_V_2 : Fd := ⟨0xA00060, 4, 23, 23⟩
abbrev FC_SLOT_THREAD_2 : Fd := ⟨0xA00060, 4, 19, 16⟩
abbrev FC_SLOT_V_3 : Fd := ⟨0xA00060, 4, 31, 31⟩
abbrev FC_SLOT_THREAD_3 : Fd := ⟨0xA00060, 4, 27, 24⟩
abbrev FC_ADAPT_EN : Fd := ⟨0xA00080, 0, 31, 31⟩
abbrev FC_ADAPT_MIN_SLOTS : Fd := ⟨0xA00080, 0, 1, 0⟩
abbrev FC_WDOG_EN : Fd := ⟨0xA00084, 0, 31, 31⟩
abbrev FC_WDOG_LIMIT : Fd := ⟨0xA00084, 0, 16, 0⟩
abbrev FC_FAULT_POLICY_POLICY : Fd := ⟨0xA00088, 0, 31, 30⟩
abbrev FC_FAULT_POLICY_RESTART_MAX : Fd := ⟨0xA00088, 0, 7, 0⟩
abbrev FC_FAULT_INFO_CODE : Fd := ⟨0xA0008C, 0, 31, 28⟩
abbrev FC_FAULT_INFO_THREAD : Fd := ⟨0xA0008C, 0, 27, 24⟩
abbrev FC_FAULT_INFO_PC : Fd := ⟨0xA0008C, 0, 23, 0⟩
abbrev FC_STOP_TIMEOUT_TIMEOUT : Fd := ⟨0xA00090, 0, 13, 0⟩
abbrev FC_RING_SEL_RING : Fd := ⟨0xA00100, 0, 11, 0⟩
abbrev FC_RING_CFG_EN : Fd := ⟨0xA00104, 0, 31, 31⟩
abbrev FC_RING_CFG_JOB : Fd := ⟨0xA00104, 0, 30, 29⟩
abbrev FC_RING_CFG_LOG2_DEPTH : Fd := ⟨0xA00104, 0, 28, 24⟩
abbrev FC_RING_CFG_CORE : Fd := ⟨0xA00104, 0, 23, 16⟩
abbrev FC_RING_CFG_THREADS : Fd := ⟨0xA00104, 0, 15, 0⟩
abbrev FC_RING_CFG2_TENANT : Fd := ⟨0xA00108, 0, 11, 0⟩
abbrev FC_RING_STATUS_ERR : Fd := ⟨0xA0010C, 0, 31, 31⟩
abbrev FC_RING_STATUS_FILL : Fd := ⟨0xA0010C, 0, 16, 0⟩
abbrev FC_IMG_VALID : Fd := ⟨0xA00200, 4, 31, 31⟩
abbrev FC_IMG_IN_USE : Fd := ⟨0xA00200, 4, 30, 30⟩
abbrev FC_IMG_VERSION : Fd := ⟨0xA00200, 4, 23, 0⟩
abbrev TP_NODE_EN : Fd := ⟨0xB00000, 0, 31, 31⟩
abbrev TP_NODE_NODE_ID : Fd := ⟨0xB00000, 0, 15, 0⟩
abbrev TP_PREFIX_PREFIX : Fd := ⟨0xB00010, 4, 31, 0⟩
abbrev TP_PREFIX_3_PREFIX : Fd := ⟨0xB0001C, 0, 31, 16⟩
abbrev TP_UDP_PORT : Fd := ⟨0xB00020, 0, 15, 0⟩
abbrev TP_SRC_MAC_LO_MAC_LO : Fd := ⟨0xB00024, 0, 31, 0⟩
abbrev TP_SRC_MAC_HI_MAC_HI : Fd := ⟨0xB00028, 0, 15, 0⟩
abbrev TP_CFG_FWD_INST : Fd := ⟨0xB00030, 0, 31, 20⟩
abbrev TP_CFG_SEAL_RING : Fd := ⟨0xB00030, 0, 19, 8⟩
abbrev TP_CFG_ACK_CLASS : Fd := ⟨0xB00030, 0, 7, 5⟩
abbrev TP_PAYLOAD_PAYLOAD : Fd := ⟨0xB00034, 0, 13, 0⟩
abbrev TP_OPEN_OPEN_TIMEOUT : Fd := ⟨0xB00038, 0, 31, 16⟩
abbrev TP_OPEN_OPEN_RETRY : Fd := ⟨0xB00038, 0, 15, 0⟩
abbrev TP_RTO_RETRY_MAX : Fd := ⟨0xB0003C, 0, 31, 28⟩
abbrev TP_RTO_RTO_MAX : Fd := ⟨0xB0003C, 0, 27, 16⟩
abbrev TP_RTO_RTO_MIN : Fd := ⟨0xB0003C, 0, 13, 0⟩
abbrev TP_ACK_ACK_COUNT : Fd := ⟨0xB00040, 0, 23, 16⟩
abbrev TP_ACK_ACK_DELAY : Fd := ⟨0xB00040, 0, 15, 0⟩
abbrev TP_PATH_REORDER_PKTS : Fd := ⟨0xB00044, 0, 19, 16⟩
abbrev TP_PATH_LOSS_THRESH : Fd := ⟨0xB00044, 0, 15, 8⟩
abbrev TP_PATH_PATH_HOLD : Fd := ⟨0xB00044, 0, 7, 0⟩
abbrev TP_RNR_RNR_WAIT : Fd := ⟨0xB00048, 0, 31, 16⟩
abbrev TP_RNR_RX_HOLD : Fd := ⟨0xB00048, 0, 15, 0⟩
abbrev TP_DROVER_0_BASE_LOG2 : Fd := ⟨0xB00050, 0, 27, 24⟩
abbrev TP_DROVER_0_TARGET : Fd := ⟨0xB00050, 0, 16, 0⟩
abbrev TP_DROVER_1_BETA : Fd := ⟨0xB00054, 0, 31, 24⟩
abbrev TP_DROVER_1_MD_MAX : Fd := ⟨0xB00054, 0, 23, 16⟩
abbrev TP_DROVER_1_AI : Fd := ⟨0xB00054, 0, 15, 0⟩
abbrev TP_DROVER_2_R_INIT : Fd := ⟨0xB00058, 0, 31, 16⟩
abbrev TP_DROVER_2_R_MIN : Fd := ⟨0xB00058, 0, 15, 0⟩
abbrev TP_STATUS_CFG_IGN : Fd := ⟨0xB00060, 0, 31, 31⟩
abbrev TP_STATUS_CONNS : Fd := ⟨0xB00060, 0, 20, 0⟩
abbrev TP_CONN_SEL_INDEX : Fd := ⟨0xB00070, 0, 19, 0⟩
abbrev TP_CONN_STATUS_STATE : Fd := ⟨0xB00074, 0, 31, 29⟩
abbrev TP_CONN_STATUS_VERSION : Fd := ⟨0xB00074, 0, 28, 25⟩
abbrev TP_CONN_STATUS_PATHS_UP : Fd := ⟨0xB00074, 0, 24, 19⟩
abbrev TP_CONN_HANDLE_HANDLE : Fd := ⟨0xB00078, 0, 31, 0⟩
abbrev TP_CONN_PEER_TENANT : Fd := ⟨0xB0007C, 0, 27, 16⟩
abbrev TP_CONN_PEER_NODE : Fd := ⟨0xB0007C, 0, 15, 0⟩
abbrev TP_CONN_RATE_RATE : Fd := ⟨0xB00080, 0, 31, 0⟩
abbrev TP_CONN_QDELAY_Q : Fd := ⟨0xB00084, 0, 31, 0⟩
abbrev TP_NH_MAC_LO_MAC_LO : Fd := ⟨0xB00100, 8, 31, 0⟩
abbrev TP_NH_MAC_HI_MAC_HI : Fd := ⟨0xB00104, 8, 15, 0⟩
abbrev EG_SEL_SET : Fd := ⟨0xC00000, 0, 31, 31⟩
abbrev EG_SEL_PORT : Fd := ⟨0xC00000, 0, 12, 8⟩
abbrev EG_SEL_CLASS : Fd := ⟨0xC00000, 0, 2, 0⟩
abbrev EG_PORT_CFG_CAL_EN : Fd := ⟨0xC00010, 0, 31, 31⟩
abbrev EG_PORT_CFG_GUARD : Fd := ⟨0xC00010, 0, 30, 30⟩
abbrev EG_SCHED_STRICT : Fd := ⟨0xC00014, 0, 7, 0⟩
abbrev EG_QUANTUM_QUANTUM : Fd := ⟨0xC00020, 0, 15, 0⟩
abbrev EG_SHAPE_RATE_EN : Fd := ⟨0xC00024, 0, 31, 31⟩
abbrev EG_SHAPE_RATE_RATE : Fd := ⟨0xC00024, 0, 20, 0⟩
abbrev EG_SHAPE_BURST_BURST : Fd := ⟨0xC00028, 0, 15, 0⟩
abbrev EG_ADM_GY_GREEN : Fd := ⟨0xC0002C, 0, 31, 16⟩
abbrev EG_ADM_GY_YELLOW : Fd := ⟨0xC0002C, 0, 15, 0⟩
abbrev EG_ADM_R_RED : Fd := ⟨0xC00030, 0, 15, 0⟩
abbrev EG_QHELD_HELD : Fd := ⟨0xC00034, 0, 31, 0⟩
abbrev EG_QFRAMES_FRAMES : Fd := ⟨0xC00038, 0, 31, 0⟩
abbrev EG_CAL_CTRL_ARM_ERR : Fd := ⟨0xC00040, 0, 10, 8⟩
abbrev EG_CAL_CTRL_BUSY : Fd := ⟨0xC00040, 0, 5, 5⟩
abbrev EG_CAL_CTRL_STATE : Fd := ⟨0xC00040, 0, 3, 2⟩
abbrev EG_CAL_LEN_LEN : Fd := ⟨0xC00044, 0, 8, 0⟩
abbrev EG_CAL_ARM_LO_EPOCH_LO : Fd := ⟨0xC00048, 0, 31, 0⟩
abbrev EG_CAL_ARM_HI_EPOCH_HI : Fd := ⟨0xC0004C, 0, 31, 0⟩
abbrev EG_CAL_CYCLE_SLOTS : Fd := ⟨0xC00050, 0, 18, 0⟩
abbrev EG_GATE_ENTRY : Fd := ⟨0xC00058, 0, 23, 16⟩
abbrev EG_GATE_HOLD : Fd := ⟨0xC00058, 0, 8, 8⟩
abbrev EG_GATE_GATES : Fd := ⟨0xC00058, 0, 7, 0⟩
abbrev EG_CAL_ENT_GATES : Fd := ⟨0xC00400, 4, 31, 24⟩
abbrev EG_CAL_ENT_HOLD : Fd := ⟨0xC00400, 4, 23, 23⟩
abbrev EG_CAL_ENT_SLOTS : Fd := ⟨0xC00400, 4, 15, 0⟩
abbrev SL_CFG_EN : Fd := ⟨0xD00000, 0, 31, 31⟩
abbrev SL_CFG_CLASS : Fd := ⟨0xD00000, 0, 26, 24⟩
abbrev SL_CFG_WAIT_MAX : Fd := ⟨0xD00000, 0, 7, 0⟩
abbrev SL_GUARD_GUARD_LEN : Fd := ⟨0xD00004, 0, 13, 0⟩
abbrev SL_SEL_INDEX : Fd := ⟨0xD00010, 0, 11, 0⟩
abbrev SL_ENT_W : Fd := ⟨0xD00014, 4, 31, 0⟩
abbrev SL_CMD_START : Fd := ⟨0xD00024, 0, 31, 31⟩
abbrev SL_CMD_OP : Fd := ⟨0xD00024, 0, 1, 0⟩
abbrev SL_STATUS_RESULT : Fd := ⟨0xD00028, 0, 31, 29⟩
abbrev SL_STATUS_USED : Fd := ⟨0xD00028, 0, 12, 0⟩
abbrev LS_UNITS_AES_ACTIVE : Fd := ⟨0xE00000, 0, 23, 16⟩
abbrev LS_UNITS_AES_SPARE : Fd := ⟨0xE00000, 0, 15, 12⟩
abbrev LS_UNITS_GF_ACTIVE : Fd := ⟨0xE00000, 0, 7, 2⟩
abbrev LS_UNITS_GF_SPARE : Fd := ⟨0xE00000, 0, 1, 0⟩
abbrev LS_ROOT_LOADED : Fd := ⟨0xE00004, 0, 15, 0⟩
abbrev LS_SC_SHUFFLE : Fd := ⟨0xE00008, 0, 2, 2⟩
abbrev LS_SC_DUMMY_MAX : Fd := ⟨0xE00008, 0, 1, 0⟩
abbrev LS_OP_CFG_GRACE : Fd := ⟨0xE0000C, 0, 4, 0⟩
abbrev LS_CTX_SEL_INDEX : Fd := ⟨0xE00010, 0, 21, 0⟩
abbrev LS_CTX_STATUS_STATE : Fd := ⟨0xE00014, 0, 31, 30⟩
abbrev LS_CTX_STATUS_ARMED : Fd := ⟨0xE00014, 0, 29, 29⟩
abbrev LS_CTX_STATUS_ROOT : Fd := ⟨0xE00014, 0, 28, 25⟩
abbrev LS_CTX_STATUS_KTYPE : Fd := ⟨0xE00014, 0, 24, 22⟩
abbrev LS_CTX_STATUS_ENC_OK : Fd := ⟨0xE00014, 0, 21, 21⟩
abbrev LS_CTX_STATUS_DEC_OK : Fd := ⟨0xE00014, 0, 20, 20⟩
abbrev LS_CTX_STATUS_OWNER : Fd := ⟨0xE00014, 0, 12, 0⟩
abbrev LS_CTX_HANDLE_HANDLE : Fd := ⟨0xE00018, 0, 31, 0⟩
abbrev LS_CTX_USED_LO_USED_LO : Fd := ⟨0xE0001C, 0, 31, 0⟩
abbrev LS_CTX_USED_HI_USED_HI : Fd := ⟨0xE00020, 0, 15, 0⟩
abbrev LS_CTX_LIMIT_LIMIT : Fd := ⟨0xE00024, 0, 31, 0⟩
abbrev LS_CTX_ARM_LO_EPOCH_LO : Fd := ⟨0xE00028, 0, 31, 0⟩
abbrev LS_CTX_ARM_HI_EPOCH_HI : Fd := ⟨0xE0002C, 0, 31, 0⟩
abbrev LS_CACHE_VALID : Fd := ⟨0xE00030, 0, 14, 0⟩
abbrev SX_CFG_EN : Fd := ⟨0xF00000, 0, 31, 31⟩
abbrev SX_CFG_CLASS : Fd := ⟨0xF00000, 0, 26, 24⟩
abbrev SX_CFG_XTS_RING : Fd := ⟨0xF00000, 0, 11, 0⟩
abbrev SX_FWD_INST6 : Fd := ⟨0xF00004, 0, 27, 16⟩
abbrev SX_FWD_INST4 : Fd := ⟨0xF00004, 0, 11, 0⟩
abbrev SX_TIMER_IO_TIMEOUT : Fd := ⟨0xF00008, 0, 31, 16⟩
abbrev SX_TIMER_RECONNECT : Fd := ⟨0xF00008, 0, 15, 0⟩
abbrev SX_SESS_TMO_RESET : Fd := ⟨0xF0000C, 0, 23, 16⟩
abbrev SX_SESS_CONNECT_TIMEOUT : Fd := ⟨0xF0000C, 0, 15, 0⟩
abbrev SX_STAGE_STAGE_WAIT : Fd := ⟨0xF00010, 0, 15, 0⟩
abbrev SX_SRC_IP4_ADDR : Fd := ⟨0xF00014, 0, 31, 0⟩
abbrev SX_SRC_IP6_ADDR : Fd := ⟨0xF00018, 4, 31, 0⟩
abbrev SX_STATUS_CFG_IGN : Fd := ⟨0xF00030, 0, 31, 31⟩
abbrev SX_STATUS_ATTACHED : Fd := ⟨0xF00030, 0, 16, 0⟩
abbrev SX_NS_SEL_SLOT : Fd := ⟨0xF00040, 0, 20, 12⟩
abbrev SX_NS_SEL_TENANT : Fd := ⟨0xF00040, 0, 11, 0⟩
abbrev SX_NS_STATUS_STATE : Fd := ⟨0xF00044, 0, 31, 29⟩
abbrev SX_NS_STATUS_REASON : Fd := ⟨0xF00044, 0, 28, 26⟩
abbrev SX_NS_STATUS_OUTSTANDING : Fd := ⟨0xF00044, 0, 10, 0⟩
abbrev SX_NS_NSZE_LO_NSZE : Fd := ⟨0xF00048, 0, 31, 0⟩
abbrev SX_NS_NSZE_HI_NSZE : Fd := ⟨0xF0004C, 0, 31, 0⟩
abbrev DX_CFG_HALT_MAX : Fd := ⟨0x1000000, 0, 13, 8⟩
abbrev DX_CFG_BURST : Fd := ⟨0x1000000, 0, 2, 0⟩
abbrev DX_ENG_SEL_ENG : Fd := ⟨0x1000004, 0, 1, 0⟩
abbrev DX_ENG_CTRL_RESUME : Fd := ⟨0x1000008, 0, 1, 1⟩
abbrev DX_ENG_CTRL_STOP : Fd := ⟨0x1000008, 0, 0, 0⟩
abbrev DX_ENG_STATUS_STATE : Fd := ⟨0x100000C, 0, 31, 29⟩
abbrev DX_ENG_STATUS_HALTS : Fd := ⟨0x100000C, 0, 23, 16⟩
abbrev DX_ENG_STATUS_ACTIVE : Fd := ⟨0x100000C, 0, 6, 0⟩
abbrev DX_CH_SEL_CH : Fd := ⟨0x1000010, 0, 5, 0⟩
abbrev DX_CH_STATUS_STATE : Fd := ⟨0x1000014, 0, 31, 30⟩
abbrev DX_CH_STATUS_SHADOW_VALID : Fd := ⟨0x1000014, 0, 29, 29⟩
abbrev DX_CH_STATUS_UNIT : Fd := ⟨0x1000014, 0, 28, 27⟩
abbrev DX_CH_STATUS_DIR : Fd := ⟨0x1000014, 0, 26, 26⟩
abbrev DX_CH_STATUS_REMAIN : Fd := ⟨0x1000014, 0, 23, 0⟩
abbrev DX_CH_OWNER_HANDLE : Fd := ⟨0x1000018, 0, 31, 0⟩
abbrev TL_CTRL_EN : Fd := ⟨0x1100000, 0, 0, 0⟩
abbrev TL_SCHED_ARMED : Fd := ⟨0x1100004, 0, 31, 31⟩
abbrev TL_SCHED_PERIOD : Fd := ⟨0x1100004, 0, 15, 0⟩
abbrev TL_BASE_LO_BASE : Fd := ⟨0x1100008, 0, 31, 0⟩
abbrev TL_BASE_HI_BASE : Fd := ⟨0x110000C, 0, 31, 0⟩
abbrev TL_LAST_LO_EPOCH : Fd := ⟨0x1100010, 0, 31, 0⟩
abbrev TL_LAST_HI_EPOCH : Fd := ⟨0x1100014, 0, 31, 0⟩
abbrev TL_STATUS_RECORDS : Fd := ⟨0x1100018, 0, 15, 0⟩
abbrev TL_CORE_SEL_CORE : Fd := ⟨0x1100040, 0, 7, 0⟩
abbrev TL_PMC_THREADS : Fd := ⟨0x1100044, 4, 31, 16⟩
abbrev TL_PMC_EVENT : Fd := ⟨0x1100044, 4, 7, 0⟩
abbrev LK_MB_CTRL_ACK : Fd := ⟨0x2000000, 0, 1, 1⟩
abbrev LK_MB_CTRL_GO : Fd := ⟨0x2000000, 0, 0, 0⟩
abbrev LK_MB_STATUS_STATE : Fd := ⟨0x2000004, 0, 31, 29⟩
abbrev LK_MB_STATUS_VERSION : Fd := ⟨0x2000004, 0, 15, 12⟩
abbrev LK_MB_STATUS_BUSY_ERR : Fd := ⟨0x2000004, 0, 0, 0⟩
abbrev LK_MB_ALERT_PENDING : Fd := ⟨0x2000008, 0, 2, 0⟩
abbrev LK_MB_ALERT_EN_EN : Fd := ⟨0x200000C, 0, 2, 0⟩
abbrev LK_STATUS_STATE : Fd := ⟨0x1200000, 0, 31, 29⟩
abbrev LK_STATUS_LRS_CAUSE : Fd := ⟨0x1200000, 0, 28, 27⟩
abbrev LK_STATUS_FAULT : Fd := ⟨0x1200000, 0, 26, 26⟩
abbrev LK_STATUS_DEV_RESETS : Fd := ⟨0x1200000, 0, 7, 0⟩
abbrev LK_POLICY_ACTION : Fd := ⟨0x1200004, 0, 31, 31⟩
abbrev LK_POLICY_FATAL_DELAY : Fd := ⟨0x1200004, 0, 9, 0⟩
abbrev LK_LOG_TAIL_TAIL : Fd := ⟨0x1200008, 0, 31, 0⟩
abbrev LK_LOG_LOST_LOST : Fd := ⟨0x120000C, 0, 31, 0⟩
abbrev LK_FATAL_W : Fd := ⟨0x1200010, 4, 31, 0⟩
abbrev LK_FATAL_COUNT_COUNT : Fd := ⟨0x1200020, 0, 15, 0⟩
abbrev LK_MENDER_LEDGER_USED : Fd := ⟨0x1200030, 0, 25, 16⟩
abbrev LK_MENDER_VOLATILE : Fd := ⟨0x1200030, 0, 15, 8⟩
abbrev LK_MENDER_DEGRADED : Fd := ⟨0x1200030, 0, 7, 0⟩
abbrev LK_SPARE_CORE_OFFLINE : Fd := ⟨0x1200034, 0, 31, 16⟩
abbrev LK_SPARE_CORE_USED : Fd := ⟨0x1200034, 0, 15, 0⟩
abbrev LK_SPARE_LPM_FREE : Fd := ⟨0x1200038, 0, 1, 0⟩
abbrev LK_WEAR_0_CORE_UNCORR : Fd := ⟨0x1200040, 0, 31, 28⟩
abbrev LK_WEAR_0_CORE_CORR : Fd := ⟨0x1200040, 0, 15, 0⟩
abbrev LK_WEAR_1_PC_CORR : Fd := ⟨0x1200044, 0, 31, 16⟩
abbrev LK_WEAR_1_PC_ODECC : Fd := ⟨0x1200044, 0, 15, 0⟩
abbrev LK_WEAR_2_PC_UNCORR : Fd := ⟨0x1200048, 0, 31, 28⟩
abbrev LK_WEAR_2_LPM_PARITY : Fd := ⟨0x1200048, 0, 11, 4⟩
abbrev LK_WEAR_2_ROW : Fd := ⟨0x1200048, 0, 3, 0⟩
abbrev LK_BOOT_STAGE : Fd := ⟨0x1200060, 0, 31, 28⟩
abbrev LK_BOOT_ERR : Fd := ⟨0x1200060, 0, 27, 24⟩
abbrev LK_BOOT_RECOVERY : Fd := ⟨0x1200060, 0, 23, 23⟩
abbrev LK_BOOT_BANK : Fd := ⟨0x1200060, 0, 2, 0⟩
abbrev LK_BOOT_TIME_MS : Fd := ⟨0x1200064, 0, 15, 0⟩
abbrev LK_PD_ON_LO_ON : Fd := ⟨0x1200068, 0, 31, 0⟩
abbrev LK_PD_ON_HI_ON : Fd := ⟨0x120006C, 0, 31, 0⟩
abbrev LK_THERMAL_TRIP_C : Fd := ⟨0x1200070, 0, 23, 16⟩
abbrev LK_THERMAL_WARN_C : Fd := ⟨0x1200070, 0, 15, 8⟩
abbrev LK_THERMAL_STATE : Fd := ⟨0x1200070, 0, 1, 0⟩
abbrev LK_TEMP_MAX_C : Fd := ⟨0x1200074, 0, 23, 16⟩
abbrev LK_TEMP_HOTTEST : Fd := ⟨0x1200074, 0, 15, 8⟩
abbrev LK_TEMP_TEMP_C : Fd := ⟨0x1200074, 0, 7, 0⟩
abbrev DB_SESSION_STATE : Fd := ⟨0x1300000, 0, 31, 30⟩
abbrev DB_SESSION_RIGHTS : Fd := ⟨0x1300000, 0, 29, 26⟩
abbrev DB_SESSION_SESSIONS : Fd := ⟨0x1300000, 0, 15, 0⟩
abbrev DB_HALTED_THREADS : Fd := ⟨0x1300004, 0, 11, 0⟩
abbrev DB_AUTH_FAILS : Fd := ⟨0x1300008, 0, 31, 16⟩
abbrev DB_AUTH_LOCKOUT_S : Fd := ⟨0x1300008, 0, 5, 0⟩
abbrev DB_IDCODE_IDCODE : Fd := ⟨0x130000C, 0, 31, 0⟩

end Sys2Proof.Machine.F
end

