-- ==== Sys2Proof/Machine/State.lean ====
section
/-! DEFINITION. The state of the MZT-6400, as plain data, and the state after reset. Every default value given here is
the value at State.reset; where the spec gives none the assumption log names it (entries 5 and 6). -/
namespace Sys2Proof.Machine

/-- Why a command stops the model. No command of this block does: the spec gives every row an effect, so no value of
this type exists. -/
inductive Fault where
  deriving DecidableEq, Repr

/-- Why a command has no meaning. -/
inductive Refusal where
  /-- Raised by an arm of Dispatch whose command has no meaning yet. Safe: nothing is said of the command. -/
  | notModelled (mnemonic : String)
  deriving DecidableEq, Repr

/-- What the block sends out, one constructor per kind of output (log entry 8). -/
inductive Out where
  /-- A memory write request of a function: port, PASID if any, host address, bytes, attributes. -/
  | hostWrite (port : HostPort) (pasid : Option Nat) (addr : Nat) (bytes : List Byte) (attr : TlpAttr := {})
  /-- A memory read request of a function: what it is for, port, PASID, address, length, attributes. -/
  | hostRead (what : ReadRef) (port : HostPort) (pasid : Option Nat) (addr len : Nat) (attr : TlpAttr := {})
  /-- An MSI-X message: vector, and the address and data words of its table entry (R93). -/
  | msix (port : HostPort) (fn : Fn) (vec addr data : Nat)
  /-- Assert_INTA or Deassert_INTA (R94). -/
  | inta (port : HostPort) (assert : Bool)
  /-- PM_PME (R92). -/
  | pme (port : HostPort) (fn : Fn)
  /-- An error message of a function: ERR_COR, ERR_NONFATAL or ERR_FATAL, for an error of AER (R84, R85). -/
  | errMsg (port : HostPort) (fn : Fn) (sev : Sev) (err : AerErr)
  /-- The data of a completed read of a register or of the peer aperture. -/
  | readData (port : HostPort) (data : List Nat)
  /-- A completion with Unsupported Request or Completer Abort. -/
  | cplErr (port : HostPort) (ur : Bool)
  /-- A configuration request completed with Configuration Request Retry Status (R89). -/
  | retry (port : HostPort) (fn : Fn)
  /-- A frame, or the end of one, on a network port: port, class, bytes, whether its FCS was inverted. -/
  | frame (port : NetPort) (cls : Nat) (bytes : List Byte) (bad : Bool)
  /-- A PAUSE or PFC frame: port, classes, time in quanta (R163). -/
  | pause (port : NetPort) (classes : Nat) (time : Nat)
  /-- A 1588 message sent on a network port: kind, domain and fields, bytes of its TLV (R28, R29). -/
  | ptp (port : NetPort) (kind : String) (fields : List Nat) (tlv : List Byte)
  /-- FAULT_N asserted or released (R428, R430, R488). -/
  | faultN (asserted : Bool)
  /-- A boundary-register, TAP or Gygar word shifted out (R467, R468). -/
  | tap (bits : Nat) (value : Nat)
  /-- A write to the boot flash: directory copy, SEQ, type, bank or slot; the image (R456). -/
  | flash (fields : List Nat) (bytes : List Byte)
  /-- A PCIe link or power action on a port: what. -/
  | link (port : HostPort) (what : String)
  deriving DecidableEq, Repr

/-- States of the FT unit (R33). -/
inductive FtSt where
  | unset | acquire | locked | holdover | relock
  deriving DecidableEq, Repr

/-- The path delay of a port and the timestamps it comes from, in 2^-16 ns (R28). -/
structure PathDelay where
  /-- The delay last measured. -/
  delay : Int := 0
  /-- Delay request-response: t1 and t2 of the last beacon marked LOCKED, and sequence and t3 of the Delay_Req sent. -/
  sync : Option (Int × Int) := none
  req : Option (Nat × Int) := none
  /-- Peer delay: sequence and t1 of the Pdelay_Req sent, and t2 and t4 of its two-step answer. -/
  preq : Option (Nat × Int) := none
  presp : Option (Int × Int) := none
  deriving DecidableEq, Repr

/-- The Fabric Time unit (R20 to R47). Counts and offsets are in 2^-16 ns. -/
structure Ft where
  /-- R33 -/
  st : FtSt := .unset
  /-- The FT count with its fraction, 80 bits (R21). -/
  count : Nat := 0
  /-- Source in use, as SRC of the full timestamp: 0 none, 1 external, 2 in-band (R23, R26). -/
  src : Nat := 0
  /-- PPS valid (FT_STATUS.PPS_OK). -/
  ppsOk : Bool := false
  /-- FT_REF_IN valid (FT_STATUS.REF_OK). -/
  refOk : Bool := false
  /-- Beacons marked LOCKED valid (FT_STATUS.INBAND_OK). -/
  inbandOk : Bool := false
  /-- Last measured offset, source minus local (FT_SERVO_OFFSET). -/
  offset : Int := 0
  /-- Offset still to be removed by slewing. -/
  slew : Int := 0
  /-- Consecutive samples within LOCK_THRESH (R33). -/
  good : Nat := 0
  /-- Current frequency correction, 2^-16 ppm (FT_FREQ_ADJ). -/
  freq : BitVec 32 := 0
  /-- Local time of the last source sample the servo accepted (R25). -/
  lastSample : Nat := 0
  /-- Local time of the last PPS edge and of the last valid beacon, and of the last FT_REF_IN edge (R34). -/
  lastPps : Nat := 0
  lastBeacon : Nat := 0
  lastRef : Nat := 0
  /-- A TOD_ARM waits for the next PPS edge (R33, R46). -/
  todPending : Bool := false
  /-- A TOD_ARM has been acted on since the unit left UNSET (R33). -/
  todDone : Bool := false
  /-- FT_HOLDOVER_LONG was raised since the last visit to LOCKED (R33). -/
  longRaised : Bool := false
  /-- The count has reached an epoch start whose pulse is not yet asserted (R39). -/
  pulseDue : Option Nat := none
  /-- Words 1 to 3 latched by a read of FT_NOW_0 (R46). -/
  nowLatch : List Nat := [0, 0, 0]
  /-- FT_EPOCH_HI latched by a read of FT_EPOCH_LO (R46). -/
  epochLatch : Option Nat := none
  /-- Frequency corrections of the last samples the servo accepted, newest first (R33). -/
  freqs : List (BitVec 32) := []
  /-- The copies in force of FT_SRC_CTRL, FT_LOOP, FT_LOSS and FT_PPS_DELAY, taken at a servo sample, and of FT_ASYM, taken
  at a beacon; before the first one, the reset words (R47). -/
  effSrc : Nat := 0
  effLoop : Nat := 0x0A10640A
  effLoss : Nat := 0x00400F08
  effPpsDelay : Nat := 0
  effAsym : Nat := 0
  /-- Path delay measurements of the beacon ports (R28). -/
  paths : Map PathDelay := []
  /-- The Syncs of two-step beacons waiting for their Follow_Ups, by port: sequence, arrival (R29). -/
  syncWait : Map (Nat × Nat) := []
  /-- BEACON_SEQ of the last beacon sent (R29). -/
  beaconSeq : Nat := 0
  /-- Host ports with a PTM dialogue in progress, with the full timestamp of its t1, and the last SEQ word of each
  (R31, R32). -/
  ptmOpen : Map (List Nat) := []
  ptmSeq : Map Nat := []
  /-- Addresses in force of the correlation records: FT_PTM_LO_n taken on the write of FT_PTM_HI_n (R46). -/
  ptmAddr : Map Nat := []
  deriving DecidableEq, Repr

/-- A scheduled event that has been armed (R43, R44): a calendar swap of a network port, a rule-set activation of a slot, a key
rollover of a context, or a snapshot schedule change. -/
inductive ArmKind where
  | cal (port : Nat)
  | rs (slot : Nat)
  | key (ctx : Nat)
  | snap
  deriving DecidableEq, Repr
/-- LK_STATUS.STATE (R428, R434). -/
inductive LkSt where
  | boot | running | fatal | resetting | lrs
  deriving DecidableEq, Repr

/-- An event on its way to the log, or in it (R418, R419). -/
structure Event where
  code : Nat
  cls : Nat
  inst : Nat
  /-- Short timestamp of the first occurrence (R24). -/
  time : Nat
  rep : Nat := 0
  /-- Epoch in which it was raised, for merging (R418). -/
  epoch : Nat := 0
  deriving DecidableEq, Repr

/-- Mailbox states (R423). -/
inductive MbSt where
  | idle | busy | done
  deriving DecidableEq, Repr

/-- The mailbox of one PF0 (R422 to R427). -/
structure Mailbox where
  st : MbSt := .idle
  /-- Chosen mailbox version, 0 none (R425). -/
  version : Nat := 0
  /-- Request and response areas, byte by offset (R422). -/
  area : Map Byte := []
  /-- Commands that go on after a reset of the port took their responses away, oldest first: opcode, payload DW0 and the payload
  (R423). -/
  orphans : List (Nat × Nat × List Byte) := []
  /-- Event groups suppressed by ALERT_FILTER (R426). -/
  filter : List Nat := []
  deriving DecidableEq, Repr

/-- The Lockkeeper (R414 to R434). -/
structure Lk where
  st : LkSt := .boot
  /-- Local time of the last release of POR_N (R405). -/
  porAt : Nat := 0
  /-- LRS_CAUSE (R416). -/
  lrsCause : Nat := 0
  /-- FAULT_N asserted. -/
  fault : Bool := false
  /-- DEV_RESETS. -/
  devResets : Nat := 0
  /-- Events waiting in the intake queue, oldest first (R418). -/
  intake : List Event := []
  /-- LK_LOG_LOST. -/
  lost : Nat := 0
  /-- LK_LOG_TAIL. -/
  tail : Nat := 0
  /-- The log ring by slot (R419). -/
  log : Map Event := []
  /-- LK_FATAL_0 to LK_FATAL_3 (R434). -/
  first : Option Event := none
  /-- LK_FATAL_COUNT (R429). -/
  fatalCount : Nat := 0
  /-- Local time at which the device entered FATAL (R430). -/
  fatalStart : Option Nat := none
  /-- A device reset that waits for the migration, and for cooling (R430, R465): its cause, 1 fatal event, 2 mailbox. -/
  resetWait : Option Nat := none
  /-- The cause of the reset in progress (R420). -/
  resetCause : Nat := 0
  /-- Events already raised in this epoch, under the once-per-epoch rules: code and instance. -/
  once : List (Nat × Nat) := []
  /-- Mailboxes by host port (R422). -/
  mb : Map Mailbox := []
  /-- The port at which the round robin over the mailboxes goes on (R423). -/
  mbNext : Nat := 0
  /-- Local time of the last service of the watchdog (R416). -/
  wdAt : Nat := 0
  /-- An uncorrectable error of the partition's SRAM has halted both cores (R416). -/
  halted : Bool := false
  deriving DecidableEq, Repr
/-- States of a pseudo-channel migration (R242). -/
inductive MigSt where
  | idle | open_ | copy | commit | done
  deriving DecidableEq, Repr

/-- A stack (R238): temperatures in °C, refresh doubling, the start of its refresh window, and the words of MC_SCHED and
MC_ACT_CFG in force since then (R246). -/
structure Stack where
  temp : Nat := 0
  maxC : Nat := 0
  sampled : Nat := 0
  twoX : Bool := false
  trained : Bool := false
  winAt : Nat := 0
  sched : Nat := 0
  act : Nat := 0
  deriving DecidableEq, Repr

/-- The activate table of a bank group (R239): rows with their counts, neighbour refreshes in the window, and whether the
storm has been raised. -/
structure ActTab where
  rows : List (Nat × Nat) := []
  refs : Nat := 0
  storm : Bool := false
  /-- Rows refreshed by the last neighbour refresh (R239). -/
  near : List Nat := []
  deriving DecidableEq, Repr

/-- The patrol scrubber on a physical pseudo-channel (R241): the next block, when the last was read, and MC_SCRUB.PERIOD
in force for the pass (R246). -/
structure ScrubPos where
  block : Nat := 0
  at_ : Nat := 0
  period : Nat := 24
  deriving DecidableEq, Repr

/-- The HBM controller (R236 to R246). -/
structure Hbm where
  /-- Stacks 0 to 3. -/
  stks : Map Stack := []
  /-- Logical pseudo-channels that live on a spare, and physical ones out of service (R236, R242). -/
  map : Map Nat := []
  out : List Nat := []
  /-- Time of the last refresh by physical pseudo-channel x 16 + bank (R238). -/
  refAt : Map Nat := []
  /-- Activate tables by physical pseudo-channel x 4 + bank group (R239). -/
  acts : Map ActTab := []
  scrub : Map ScrubPos := []
  /-- The migration (R242): its logical pseudo-channel, the failing one, the spare, boundary B, the time of its state. -/
  mig : MigSt := .idle
  pc : Nat := 0
  old : Nat := 0
  spare : Nat := 0
  units : Nat := 0
  since : Nat := 0
  /-- Its ledger REASON, and the seconds of its opening (R441). -/
  reason : Nat := 0
  sec : Nat := 0
  deriving DecidableEq, Repr
/-- A repair-ledger entry (R441); an entry held in the volatile table reads COMMITTED 0 (R443). -/
structure LEntry where
  committed : Bool
  void : Bool := false
  kind : Nat
  reason : Nat
  /-- FROM and TO: array number x 2^16 + physical number. -/
  frm : Nat
  to_ : Nat
  /-- Seconds of Fabric Time (R441). -/
  sec : Nat
  deriving DecidableEq, Repr

/-- A part that has crossed a threshold and waits for its substitution (R439). -/
structure Worn where
  kind : Nat
  part : Nat
  reason : Nat
  /-- Local time at which it crossed its threshold (R439). -/
  at_ : Nat := 0
  deriving DecidableEq, Repr

/-- Mender: the ledger and the substitutions in force (R435 to R444). -/
structure Mender where
  /-- Fuse entries in order, and the volatile table (R441, R443). -/
  ledger : List LEntry := []
  volat : List LEntry := []
  /-- Substitutions made whose entries are still to be written, oldest first, with the time of each (R440). -/
  unwritten : List (LEntry × Nat) := []
  /-- Worn parts waiting, oldest first (R439). -/
  queue : List Worn := []
  /-- Parts running degraded, by kind and part (R444). -/
  degraded : List (Nat × Nat) := []
  /-- Parts replaced by a spare, and by which, by kind and part (R438). -/
  subs : List (Nat × Nat × Nat) := []
  /-- Spare units that failed a known-answer test before they were used. -/
  dead : List (Nat × Nat) := []
  /-- MD_LEDGER_FULL has been raised in this boot (R443). -/
  full : Bool := false
  /-- Wear monitors (R435): the times of the errors of a physical part in the last 24 h, oldest first, by number of the
  monitor x 2^32 + part. -/
  wear : Map (List Nat) := []
  deriving DecidableEq, Repr
/-- LK_THERMAL.STATE (R465). -/
inductive Therm where
  | normal | throttled | tripped
  deriving DecidableEq, Repr

/-- An image rejected at the last boot: type, bank or slot, RESULT code (R456). -/
structure Reject where
  typ : Nat
  bank : Nat
  why : Nat
  deriving DecidableEq, Repr

/-- Boot, power and temperature (R450 to R466). -/
structure Boot where
  /-- POR_N is high; the rails were in range when it was released (R451). -/
  por : Bool := true
  railOk : Bool := true
  /-- LK_BOOT: STAGE, ERR, RECOVERY, BANK bits (R466). -/
  stage : Nat := 0
  err : Nat := 0
  recovery : Bool := false
  bank : Nat := 0
  /-- When boot started, and LK_BOOT_TIME.MS. -/
  startAt : Nat := 0
  ms : Nat := 0
  /-- The directory in use, and SEQ + 1 of either copy, 0 for an invalid one (R452). -/
  dir : List FlashEnt := []
  seqs : List Nat := [0, 0]
  rejects : List Reject := []
  /-- The FC_IMAGE entries still to be verified (R460). -/
  fcLeft : List FlashEnt := []
  /-- The signed configuration in force: root keys for LOAD, debug-key hash (R355, R470). -/
  cfg : Option SignedCfg := none
  /-- CLUSTER_GATE, OCTET_EN, HC_HALVES, subsystem IDs (R457). -/
  clGate : Bool := false
  octetEn : Nat := 15
  hcHalves : Nat := 3
  ids : List Nat := [0, 0, 0, 0]
  /-- What the first boot configuration since POR_N fixed until the next POR_N (R12, R152, R222, R224). -/
  held : Option BootCfg := none
  /-- Powered domains as bits; PD00 always (R462). -/
  pd : Nat := 1
  /-- Junction: state, last sample, highest reading, sensor, maximum since POR_N, time of the sample (R465). -/
  therm : Therm := .normal
  temp : Nat := 0
  hottest : Nat := 0
  maxC : Nat := 0
  sampled : Nat := 0
  /-- Containment after a trip began (R465). -/
  tripAt : Option Nat := none
  deriving DecidableEq, Repr

/-- What outlives every reset: fuses and stored configuration (R426, R441, R454 to R456). -/
structure Fuses where
  /-- Revoke fuses of the key slots 0 to 3 (R454). -/
  revoked : List Bool := [false, false, false, false]
  /-- Anti-rollback counters of image types 1 to 4 (R454). -/
  rollback : List Nat := [0, 0, 0, 0]
  /-- Preferred banks of types 1 to 3: true B (R455, R456). -/
  pref : List Bool := [false, false, false]
  /-- The configuration stored by CONFIG_LOAD (R426, R445), with its ROLLBACK and VERSION. -/
  stored : Option (SignedCfg × Nat × Nat) := none
  /-- ROLLBACK of the image in use of types 1 to 3, and the highest of a loaded FC_IMAGE (R456). -/
  inUse : List Nat := [0, 0, 0, 0]
  deriving DecidableEq, Repr
/-- State of a buffer that is not FREE (R230). -/
inductive BufSt where
  | cached | owned | handed
  deriving DecidableEq, Repr

/-- A buffer's state word (R230). -/
structure Buf where
  st : BufSt
  owner : Nat
  deriving DecidableEq, Repr

/-- Cooper and the head cache (R219 to R235). -/
structure Coop where
  /-- Buffers that are not FREE, by buffer handle (R223). -/
  bufs : Map Buf := []
  /-- LIMIT and RESERVE by requester x 8 + pool, where they differ from R226's initial ones. -/
  lim : Map Nat := []
  rsv : Map Nat := []
  /-- Error counts of the current epoch by requester (R232). -/
  err : Map Nat := []
  /-- Quarantined requesters (R233). -/
  quar : List Nat := []
  /-- Allocation caches, by requester x 8 + pool: handles in the cache (R229). -/
  cache : Map (List Nat) := []
  /-- MS_STATUS.READY (R224). -/
  ready : Bool := false
  /-- Cells in the head cache in the order in which they were first written, with the time of that (R221). -/
  hc : List (Nat × Nat) := []
  /-- Blocks of 64 bytes of the store found uncorrectable and not written whole since: every reader meets them, on a spare
  pseudo-channel too (R234, R243). -/
  lost : List Nat := []
  deriving DecidableEq, Repr
/-- LTSSM states of a host link (R95). -/
inductive Ltssm where
  | detect | polling | configuration | l0 | recovery | l1 | l2 | hotReset | disabled | loopback
  deriving DecidableEq, Repr

/-- The AER registers of a function (R84): status, mask and severity of uncorrectable errors, status and mask of
correctable ones, the bit of the error whose header the log holds, and the header log. The bits and the reset values of
masks and severities are PCIe's (PRESUMED, log entry 105). -/
structure Aer where
  uncSta : Word := 0
  uncMask : Word := 0x00400000
  uncSev : Word := 0x00462010
  corSta : Word := 0
  corMask : Word := 0x0000E000
  first : Option Nat := none
  hdr : List Word := [0, 0, 0, 0]
  deriving DecidableEq, Repr

/-- One function of a host port (R71, R87 to R93). -/
structure FnState where
  bme : Bool := false
  mse : Bool := false
  /-- PTM Enable of the port (PF0 only, R31). -/
  ptmEn : Bool := false
  /-- PASID Enable (PF1 only, R73). -/
  pasidEn : Bool := false
  /-- Power state: true in D3hot (R91). -/
  d3 : Bool := false
  /-- MSI-X Enable and Function Mask (R93). -/
  msixEn : Bool := false
  fmask : Bool := false
  /-- Interrupt Disable and Interrupt Status (PF0, R94). -/
  intDis : Bool := false
  intStatus : Bool := false
  /-- PME_En and PME_Status (R92). -/
  pmeEn : Bool := false
  pmeStatus : Bool := false
  /-- Completion Timeout Value of Device Control 2 (R81). -/
  cplTo : Nat := 0
  /-- Vectors whose mask bit is clear and the pending-bit array (R93): a vector absent from vopen is masked. -/
  vopen : List Nat := []
  vpend : List Nat := []
  /-- Address and data words of the MSI-X table, by vector x 4 + word (R93). -/
  mtab : Map Word := []
  /-- An FLR in progress: configuration requests are retried (R89). -/
  flr : Option Nat := none
  /-- Discarded work still drains: when it started (R88). -/
  drain : Option Nat := none
  /-- Max_Payload_Size and Max_Read_Request_Size in bytes (R68). -/
  mps : Nat := 128
  mrrs : Nat := 512
  /-- The writable bits of the BAR registers, by register (R48). -/
  bars : Map Word := []
  /-- Enables of Relaxed Ordering, No Snoop, ID-Based Ordering, LTR and L1.1, and the LTR maximum latencies (R68). -/
  roEn : Bool := true
  nsEn : Bool := true
  idoEn : Bool := false
  ltrEn : Bool := false
  l11En : Bool := false
  ltrMax : Word := 0
  /-- Advanced Error Reporting (R84). -/
  aer : Aer := {}
  deriving DecidableEq, Repr

/-- An outstanding host read that is no DMA read, under its tag: its function, what it is for, when it was issued, and
whether its data is discarded when it arrives (R68, R81, R83, R88). -/
structure SysRead where
  port : Nat
  fn : Fn
  what : ReadRef
  since : Nat
  drop : Bool := false
  deriving DecidableEq, Repr

/-- The window commit state machine (R78). -/
inductive WinSt where
  | idle | check | hold | copy
  deriving DecidableEq, Repr

/-- A BAR2 request held at the receive stage during HOLD (R78). -/
structure PeerReq where
  write : Bool
  addr : Nat
  len : Nat
  data : List Byte
  rid : Nat
  poisoned : Bool
  /-- What the codes find where it reads (R234). -/
  ecc : Ecc := {}
  deriving DecidableEq, Repr

/-- Admin queue of a PF0 besides its rings (R96 to R99). -/
structure AdminQ where
  active : Bool := false
  /-- Chosen ABI major, 0 none (R97). -/
  abi : Nat := 0
  /-- QM_AQ_STATUS.ERR. -/
  err : Nat := 0
  /-- The command being executed: its entry. -/
  cur : Option Entry := none
  /-- No completion is written for the command being executed (R97, R144). -/
  mute : Bool := false
  /-- What an accepted command that ends later waits for. -/
  wait : Option (String × Nat) := none
  /-- The PF0 event queue named by AQ_BIND_EQ (R136). -/
  eq : Option Nat := none
  deriving DecidableEq, Repr

/-- A host port (R65 to R95). -/
structure Hp where
  ltssm : Ltssm := .detect
  /-- L0p: the active lanes when narrower than the link (R68, R95); in L1, the substate is L1.1 (R68). -/
  l0p : Option Nat := none
  l11 : Bool := false
  /-- Negotiated width and speed code, and NO_FLIT (R69, R95). -/
  width : Nat := 0
  speed : Nat := 0
  noFlit : Bool := false
  /-- When the last training ended under R69. -/
  noFlitAt : Nat := 0
  /-- PERST_N asserted, and the port not yet ready for configuration requests (R89). -/
  perst : Bool := true
  ready : Bool := false
  /-- The two functions of the port (R71). -/
  f0 : FnState := {}
  f1 : FnState := {}
  /-- Windows (R74 to R80). -/
  winSt : WinSt := .idle
  /-- false: set 0 of the store is the shadow set; the swap flips it (R78). -/
  winFlip : Bool := false
  /-- PCLKs since HOLD began and the longest hold (HOLD_MAX). -/
  holdStart : Nat := 0
  /-- Requests that wait in HOLD (R78). -/
  held : List PeerReq := []
  /-- Peer requests accepted and not yet finished with translation (R78). -/
  winErr : Nat := 0
  winErrCode : Nat := 0
  /-- The longest hold in PCLK (R95). -/
  holdMax : Nat := 0
  /-- Tenants whose windows are refused until EN of those windows is cleared (R76). -/
  winClear : List Nat := []
  /-- INTx: the last INTA message was an assert; the alert source is pending; sources (R94). -/
  intaOn : Bool := false
  alert : Bool := false
  /-- A Lockkeeper alert message waits for the return to D0 or for the link (R92). -/
  alertHeld : Bool := false
  /-- Timed-out tags: tag, the time from which it may be issued again, and the function that had issued it (R83). -/
  lateTags : List (Nat × Nat × Fn) := []
  /-- The admin queue pair (R97). -/
  aq : AdminQ := {}
  /-- QM_SCAN_STATUS.STRETCH in 1/256 units (R117). -/
  stretch : Nat := 256
  /-- When STRETCH was last computed (R117). -/
  stretchAt : Nat := 0
  /-- Times of the doorbell-record reads of the last 1 ms (R115). -/
  scanReads : List Nat := []
  /-- QM event counters of the port: DEMOTE_CNT, DB_STALE_CNT, OVERRUN_CNT, HEAD_RANGE_CNT; HL: TIMEOUT_CNT, LATE_CNT,
  REFUSED_CNT (saturating, R95, R125, R140). -/
  demoteCnt : Nat := 0
  staleCnt : Nat := 0
  overrunCnt : Nat := 0
  headCnt : Nat := 0
  toCnt : Nat := 0
  lateCnt : Nat := 0
  refusedCnt : Nat := 0
  /-- DENIED_CNT of GL_ACC_STATUS (R64). -/
  deniedCnt : Nat := 0
  deriving DecidableEq, Repr
/-- Why a queue is STOPPED (R111, R112). -/
inductive QReason where
  | none | dbRange | fetchError | cqOverrun | disabled
  deriving DecidableEq, Repr

/-- Scan states (R116). -/
inductive Scan where
  | hot | warm | cold
  deriving DecidableEq, Repr

/-- A job decoded from its entries and not yet started (R105). -/
structure Decoded where
  ents : List Entry
  /-- The chain is malformed: it fails with CHAIN_INVALID when started. -/
  bad : Bool
  deriving DecidableEq, Repr

/-- A submission queue; an admin SQ has key 2^20 + host port (R96, R107, R111). -/
structure Sq where
  port : Nat
  /-- Owning tenant; none for a PF0 (R101). -/
  owner : Option Nat
  /-- Ring address, doorbell record, CQ, LOG2_SIZE, INFLIGHT_MAX and flags of CREATE_SQ (R107). -/
  ring : Nat
  db : Nat
  cq : Nat
  log2 : Nat
  inflMax : Nat
  noSnoop : Bool := false
  pushEn : Bool := false
  pin : Bool := false
  /-- STOPPED, and its reason (R112, R113). -/
  stopped : Bool := false
  reason : QReason := .none
  /-- Consumer index, device producer index and next index to read from the ring (R108, R124). -/
  ci : Nat := 0
  pdev : Nat := 0
  rd : Nat := 0
  /-- A ring read in flight: first index and count (R124). -/
  reading : Option (Nat × Nat) := none
  /-- A doorbell-record read in flight (R114). -/
  dbReading : Bool := false
  /-- Entries read or pushed and not yet decoded, in ring order. -/
  ents : List Entry := []
  /-- Entries of a failed chain still to be dropped up to the next LAST (R105). -/
  skip : Nat := 0
  /-- Jobs decoded and not yet started (R105). -/
  decoded : List Decoded := []
  /-- Jobs started and not finished: uids (R124). -/
  started : List Nat := []
  /-- The scan state (R116). -/
  scan : Scan := .warm
  /-- Local time of the last scan and of the last new work (R116). -/
  lastScan : Nat := 0
  lastWork : Nat := 0
  /-- Idle time gathered up to `idleAt`, while the SQ could start a job (R116, R118). -/
  idle : Nat := 0
  idleAt : Nat := 0
  /-- Entries taken from pushes whose ring index has not been reached, by index (R119, R123). -/
  pushed : Map Entry := []
  /-- SEQ word most recently read (R112). -/
  seq : Nat := 0
  /-- QM_DB_STALE has been raised for this incarnation (R114). -/
  told : Bool := false
  /-- The drain of a destroyed or disabled queue: when it started; the admin port whose DESTROY_SQ waits (R110, R111). -/
  drain : Option Nat := none
  destroyer : Option Nat := none
  deriving DecidableEq, Repr

/-- A finished job's completion, before it is written (R127). -/
structure Cpl where
  sq : Nat
  uid : Nat
  status : Status
  cid : Nat
  op : Nat
  result : Nat
  /-- Nothing is written: a success with NO_CPL (R102). -/
  silent : Bool := false
  /-- Its short timestamp (R127). -/
  time : Nat := 0
  /-- Gens at the issue of the job: a changed generation discards it (R62). -/
  sqGen : Nat := 0
  tenGen : Nat := 0
  sqCi : Nat := 0
  deriving DecidableEq, Repr

/-- A completion queue; an admin CQ has key 2^20 + host port (R107, R128 to R134). -/
structure Cq where
  port : Nat
  owner : Option Nat
  ring : Nat
  log2 : Nat
  eq : Option Nat
  allow : Nat
  noSnoop : Bool := false
  tail : Nat := 0
  hdev : Nat := 0
  /-- Overflow list, oldest first (R133). -/
  spill : List Cpl := []
  /-- Time from which the overflow timer runs; ticks kept while in D3hot (R133). -/
  timer : Option Nat := none
  timerKept : Nat := 0
  /-- OVERRUN and STOPPED (R133). -/
  overrun : Bool := false
  stopped : Bool := false
  /-- Finished jobs whose completion waits to be written, oldest first. -/
  fin : List Cpl := []
  /-- The head record has been read again for the completion at the front (R130). -/
  reread : Bool := false
  /-- A head-record read is in flight, and when the last one was issued (R130). -/
  hdReading : Bool := false
  polled : Nat := 0
  /-- The head record is being read again after the return to D0: the EQ's held message waits (R139). -/
  back : Bool := false
  /-- QM_CQ_HEAD_RANGE has been raised for this incarnation (R130). -/
  told : Bool := false
  /-- When the drain of its end began (R110). -/
  drain : Option Nat := none
  deriving DecidableEq, Repr

/-- Moderation states (R138). -/
inductive ModSt where
  | idle | counting | due
  deriving DecidableEq, Repr

/-- An EQ entry before it is written: type, source handle, reason (R135). -/
structure EqEnt where
  typ : Nat
  src : Nat
  reason : Nat
  deriving DecidableEq, Repr

/-- An event queue (R107, R135 to R139). -/
structure EvQ where
  port : Nat
  owner : Option Nat
  ring : Nat
  log2 : Nat
  vec : Nat
  modCount : Nat
  modTimer : Nat
  tail : Nat := 0
  hdev : Nat := 0
  /-- Entries held while the EQ is full (R137). -/
  pend : List EqEnt := []
  /-- State of its moderation, and entries counted (R136). -/
  st : ModSt := .idle
  count : Nat := 0
  /-- When the round began (R138). -/
  start : Nat := 0
  /-- CQs that have posted a CQ_NOTIFY in the round: key and generation (R136). -/
  noted : List (Nat × Nat) := []
  /-- The INTA source of this EQ is pending (R94). -/
  intx : Bool := false
  /-- An entry waits for the head re-read that tells whether the EQ is full (R130, R137). -/
  fresh : Bool := false
  /-- STOPPED; a head read in flight, and when the last one was issued (R130, R137). -/
  stopped : Bool := false
  hdReading : Bool := false
  polled : Nat := 0
  /-- The head record is being read again after the return to D0 (R139). -/
  back : Bool := false
  /-- QM_CQ_HEAD_RANGE has been raised for this incarnation (R130). -/
  told : Bool := false
  /-- When the drain of its end began (R110). -/
  drain : Option Nat := none
  deriving DecidableEq, Repr

/-- A data-path job that has been started and has not finished (R104, R124). -/
structure Job where
  sq : Nat
  port : Nat
  owner : Option Nat
  sqGen : Nat
  tenGen : Nat
  op : Nat
  cid : Nat
  noCpl : Bool
  ents : List Entry
  /-- Started and not yet executed by its opcode's command. -/
  fresh : Bool := true
  /-- Buffers the job holds. -/
  bufs : List Nat := []
  /-- The channel its descriptors are placed on, once one is: engine x 64 + channel (R390). -/
  chan : Option Nat := none
  /-- Bytes read or moved so far. -/
  moved : Nat := 0
  /-- Opcode fields kept for the continuation. -/
  x : List Nat := []
  /-- What the tables suffer when the frame of a TX job is classified. -/
  upset : Upset := {}
  deriving DecidableEq, Repr
/-- States of a tenant that is not FREE (R144). -/
inductive TenSt where
  | disabled | enabled | fencing
  deriving DecidableEq, Repr

/-- A tenant (R142 to R151). A FREE index has no record. -/
structure Tenant where
  home : Nat
  st : TenSt := .disabled
  /-- In FENCING: the target is DISABLED (R144). -/
  toDisabled : Bool := false
  /-- PASID, CREDITS, credit page and limits of its configuration (R143). -/
  pasid : Nat := 0
  credits : Nat := 0
  creditAddr : Nat := 0
  queueMax : Nat := 0
  keyMax : Nat := 0
  connMax : Nat := 0
  winMax : Nat := 0
  /-- When the fence began (R147). -/
  fenceStart : Nat := 0
  /-- TN_FENCE of the last completed fence (R151). -/
  drainUs : Nat := 0
  cancelled : Nat := 0
  /-- The admin port whose TENANT_RESET or TENANT_DISABLE waits for the fence (R144). -/
  waiter : Option Nat := none
  /-- Peer buffer lists: address and handles (R109). -/
  lists : List (Nat × List Nat) := []
  /-- Credit page counters (R126) and the credit word's DISCARDED (R122). -/
  returned : Nat := 0
  overCr : Nat := 0
  torn : Nat := 0
  invalid : Nat := 0
  notLive : Nat := 0
  discarded : Nat := 0
  /-- The credit word has changed since it was last written (R122). -/
  creditDirty : Bool := false
  deriving DecidableEq, Repr

/-- States of a push slot (R120). -/
inductive SlotSt where
  | idle | assembling | validating | refused
  deriving DecidableEq, Repr

/-- A push slot that is not IDLE (R119, R120). -/
structure PushSlot where
  st : SlotSt
  bytes : Map Byte := []
  /-- When assembly, or the last refused write, began. -/
  start : Nat := 0
  /-- When the record was complete: the pushes of an SQ are handled in that order (R123). -/
  since : Nat := 0
  deriving DecidableEq, Repr
/-- States of a DMA engine (R394). -/
inductive EngSt where
  | running | stopping | stopped | halted | offline
  deriving DecidableEq, Repr

/-- States of a channel (R393). -/
inductive ChanSt where
  | idle | active | stopped | halted
  deriving DecidableEq, Repr

/-- A DMA descriptor (R390). -/
structure Desc where
  /-- The transfer it belongs to. -/
  xid : Nat
  /-- Host address; for a copy inside the Mere (R399), the store offset of the other range. -/
  host : Nat
  /-- Store offset of the Mere range (R223). -/
  mere : Nat
  len : Nat
  toHost : Bool
  inside : Bool := false
  pasid : Option Nat := none
  /-- Bytes already handed to the transaction layer (R391). -/
  handed : Nat := 0
  deriving DecidableEq, Repr

/-- A channel (R391, R393). -/
structure Chan where
  st : ChanSt := .idle
  act : Option Desc := none
  shadow : Option Desc := none
  deriving DecidableEq, Repr

/-- A DMA engine (R388, R394). -/
structure Eng where
  st : EngSt := .running
  /-- State held before a bus error. -/
  prev : EngSt := .running
  /-- Times of halts (R394). -/
  halts : List Nat := []
  chans : Map Chan := []
  deriving DecidableEq, Repr

/-- What a DMA transfer serves, and so what its end does (R389). -/
inductive XKind where
  /-- A queue-engine job. -/
  | job (uid : Nat)
  /-- A channel message of DEST 0x06: core, thread, TAG, bytes (R398). -/
  | core (core thread tag len : Nat)
  /-- A storage command's staging. -/
  | stor (uid : Nat)
  /-- A packet of a message that is written to a posted buffer: connection, receive job, PSN, its buffer, its bytes. -/
  | msg (conn uid psn buf len : Nat)
  /-- Delivery of a frame to a host receive buffer: job, buffer. -/
  | rx (uid : Nat)
  deriving DecidableEq, Repr

/-- A DMA transfer: the descriptors of one job (R390). -/
structure Xfer where
  kind : XKind
  port : Nat
  /-- 0 queue engine, 1 transport, 2 storage, 3 flow cores (R389). -/
  unit : Nat
  /-- Owning tenant, none for a PF0. -/
  tenant : Option Nat := none
  /-- Descriptors not yet loaded into a channel. -/
  todo : List Desc := []
  /-- Channel: engine x 64 + channel; none while it waits for one. -/
  chan : Option Nat := none
  /-- Bytes of the transfer not yet read in or handed out. -/
  left : Nat := 0
  /-- Queue of the generations to hold: (generation key, generation) (R62). -/
  gens : List (Nat × Nat) := []
  /-- Handle of the job's SQ, or the OWNER of a flow-core transfer (DX_CH_OWNER). -/
  owner : Nat := 0
  /-- No Snoop asked for (R107, R390, R398). -/
  ns : Bool := false
  deriving DecidableEq, Repr

/-- A read request outstanding under a tag (R68, R391). -/
structure RdReq where
  port : Nat
  fn : Fn
  eng : Nat
  ch : Nat
  xid : Nat
  host : Nat
  mere : Nat
  len : Nat
  since : Nat
  /-- The generations its transfer was issued under (R62, R63). -/
  gens : List (Nat × Nat) := []
  /-- Its data is discarded when it arrives (R397). -/
  drop : Bool := false
  deriving DecidableEq, Repr

/-- A write request handed to the transaction layer (R391, R397). -/
structure WrReq where
  port : Nat
  eng : Nat
  /-- Its channel (R392); 64 for a write of the device's own. -/
  ch : Nat := 64
  xid : Nat
  host : Nat
  bytes : List Byte
  pasid : Option Nat
  gens : List (Nat × Nat) := []
  attr : TlpAttr := {}
  /-- Withdrawn: dropped when it would leave (R397). -/
  drop : Bool := false
  deriving DecidableEq, Repr
/-- Link states of a network port (R157). -/
inductive MacSt where
  | disabled | training | up | fault
  deriving DecidableEq, Repr

/-- Pause watchdog states (R164). -/
inductive WdSt where
  | normal | paused | recover
  deriving DecidableEq, Repr

/-- One watchdog: its state and when it entered it (R164). -/
structure Wd where
  st : WdSt := .normal
  since : Nat := 0
  deriving DecidableEq, Repr

/-- MAC merge verification (R165, MA_PREEMPT_STATUS). -/
inductive VerSt where
  | disabled | initial | verifying | succeeded | failed
  deriving DecidableEq, Repr

/-- A network port's MAC (R152 to R169). -/
structure Mac where
  st : MacSt := .disabled
  localFault : Bool := false
  remoteFault : Bool := false
  /-- When TRAINING was last entered or restarted (R157). -/
  trainAt : Nat := 0
  /-- The down timer's start, while it runs (R157). -/
  downAt : Option Nat := none
  /-- The down timer has reached DOWN_HOLD: frames placed here are flushed at once (R157). -/
  flushing : Bool := false
  /-- Received pauses not yet at their effect point: class, time in quanta, effect instant (R162). -/
  pauseWait : List (Nat × Nat × Nat) := []
  /-- Classes paused by a received frame, with the end of the pause (R162). -/
  pausedTill : Map Nat := []
  /-- Watchdogs of the receive and the transmit side by class (R164). -/
  wdRx : Map Wd := []
  wdTx : Map Wd := []
  /-- Classes (or class 0 alone under PAUSE) for which XOFF has been sent, with the time of the last XOFF (R163). -/
  xoff : Map Nat := []
  /-- Held buffers of frames received on the port: buffer handle, priority, size (R163). -/
  held : List (Nat × Nat × Nat) := []
  /-- Verification (R165). -/
  ver : VerSt := .disabled
  /-- When verification last started (R165). -/
  verAt : Nat := 0
  /-- Media settings in force since TRAINING was entered: the word of MA_PCFG (R157). -/
  cfg : Nat := 0
  /-- The pipe that takes the next frame of a 1.6TbE port (R153). -/
  alt : Bool := false
  deriving DecidableEq, Repr
/-- What the device keeps with a stored packet (R183, R184, R290). -/
structure Pkt where
  /-- Rule-set stamp: slot and generation, none where no set was ACTIVE (R183). -/
  stamp : Option (Nat × Nat) := none
  /-- The packet holds a reference on its slot (R184). -/
  ref : Bool := false
  src : Nat := 0
  srcHost : Bool := false
  pass : Nat := 0
  len : Nat := 0
  /-- Arrival: the FT count when the frame's first byte came, and its port's priority (R37, R163). -/
  time : Nat := 0
  /-- TCI and UNTAGGED with which the frame arrived (R175). -/
  tci : Nat := 0
  untagged : Bool := true
  deriving DecidableEq, Repr
/-- What becomes of a frame's buffer and job when the frame has left (R321, R335). -/
inductive FrKind where
  /-- The device frees the buffer in its owner's name. -/
  | plain
  /-- A DIRECT TX job: uid, and whether the transmit timestamp is returned. -/
  | tx (uid : Nat) (ts : Bool)
  /-- An MFT packet of a connection: its PSN if it is DATA. -/
  | mft (conn : Nat) (psn : Option Nat)
  /-- A Sluice frame, by its commitment (R342). -/
  | sluice (commit : Nat)
  deriving DecidableEq, Repr

/-- A frame in a class queue (R320): header bytes the engine put before it, and its part of a buffer. -/
structure EFrame where
  kind : FrKind := .plain
  hdr : List Byte := []
  buf : Nat := 0
  off : Nat := 0
  len : Nat
  colour : Nat := 0
  /-- The device frees the buffer when the frame ends; not so for a retransmit copy, or where there is none. -/
  own : Bool := true
  /-- Tag to insert: TPID bit and TCI (R160). -/
  tag : Option (Nat × Nat) := none
  /-- Rank of its source among placements of one PCLK: an ingress pipe, 8 + a cluster, 24 the transport engine, 25 the queue
  engine; and when it was placed (R320). -/
  rank : Nat := 24
  at_ : Nat := 0
  deriving DecidableEq, Repr

/-- A class of a port: its frames, oldest first, its round-robin credit, and its token bucket with the time of the last
filling; none before the first frame, when the bucket is full (R320, R324, R325). -/
structure EgCls where
  q : List EFrame := []
  credit : Nat := 0
  tok : Option (Int × Nat) := none
  deriving DecidableEq, Repr

/-- A frame in transmission (R323, R328). -/
structure TxRun where
  f : EFrame
  cls : Nat
  /-- Wire time still to be sent, in ps, and since when the frame is on the wire; none while preempted. -/
  left : Nat
  since : Option Nat
  /-- When the fragment on the wire began. -/
  frag : Nat
  /-- The overrun of its gate has been counted (R327). -/
  overran : Bool := false
  /-- Transmit timestamp (R37). -/
  ts : Nat := 0
  /-- A block of its data could not be corrected: it ends with the inverse of its FCS (R159, R234). -/
  bad : Bool := false
  deriving DecidableEq, Repr

/-- The egress side of a network port (R320 to R336). -/
structure EgPort where
  cls : Map EgCls := []
  /-- The class the round robin last served. -/
  rr : Nat := 7
  /-- Frames in transmission on the express and on the preemptable MAC. -/
  run : Option TxRun := none
  runP : Option TxRun := none
  /-- Time before which no frame starts: a fragment boundary that a hold waits for. -/
  freeAt : Nat := 0
  /-- Entries of the active calendar, its set's entries beyond LEN, and its origin, a count in 2^-16 ns (R326, R329). -/
  cal : List Nat := [0xFF000001]
  /-- Entries of the active set beyond LEN (R329). -/
  rest : List Nat := []
  origin : Nat := 0
  /-- The swap is in COPY; ARM_ERR (R329). -/
  copying : Bool := false
  armErr : Nat := 0
  /-- Entry in force since the last gate change. -/
  entry : Nat := 0
  deriving DecidableEq, Repr

/-- A Sluice commitment (R342 to R345). -/
structure Commit where
  /-- Ingress port and pipe, and when it was granted (R343). -/
  ing : Nat
  pipe : Nat
  since : Nat
  /-- The key buffer: the frame's first 64 bytes (R342). -/
  head : List Byte
  /-- SL_CFG.CLASS and SL_GUARD.GUARD_LEN as they applied to the candidate (R349). -/
  cls : Nat
  guard : Nat
  entry : Nat
  /-- Egress port; none for a host receive queue. -/
  egress : Option Nat
  /-- The RX_POST job taken, for a host. -/
  uid : Nat := 0
  /-- Start time S, and the arrival of the frame's first byte. -/
  at_ : Nat
  time : Nat
  started : Bool := false
  /-- Bytes already written to the host. -/
  sent : Nat := 0
  /-- The egress port left UP: nothing is sent (R345). -/
  dead : Bool := false
  /-- The frame's bytes and whether it proved bad, once it is complete. -/
  done : Option (List Byte × Bool) := none
  deriving DecidableEq, Repr

/-- Slot states of a rule set that is not FREE (R185); a LOADED slot in State.armed is ARMED. -/
inductive RsSt where
  | loading | loaded | active | draining | retiring
  deriving DecidableEq, Repr

/-- A rule-set slot that is not FREE (R183 to R192). -/
structure RsSlot where
  st : RsSt
  /-- The image, as R190 lays it out. -/
  img : List Byte := []
  /-- LOADING: length to read, and the admin port whose RULESET_LOAD waits. -/
  want : Nat := 0
  port : Nat := 0
  /-- Epoch at which DRAINING was entered, and its DRAIN_LIMIT. -/
  since : Nat := 0
  limit : Nat := 0
  /-- An epoch pulse found it so many epochs in DRAINING with references left. -/
  late : Bool := false
  deriving DecidableEq, Repr

/-- Parser and classifier beside their registers (R170 to R194). -/
structure Classifier where
  slots : Map RsSlot := []
  /-- TCAM entries whose parity has failed: slot and rule (R193). -/
  bad : List (Nat × Nat) := []
  deriving DecidableEq, Repr

/-- A frame between its arrival and its placement (R13, R173, R201). -/
structure Arr where
  /-- Its bytes, while it is not stored. -/
  bytes : List Byte := []
  /-- Its buffer and the offset of its first byte there, once it is stored. -/
  buf : Option Nat := none
  off : Nat := 0
  /-- Length; whether its source is a host, and the source. -/
  len : Nat
  srcHost : Bool := false
  src : Nat := 0
  /-- Number of the source for ordering: a network port, or an SQ + 2^20 (R153, R334). -/
  flow : Nat := 0
  /-- Its ingress pipe (R153), or 8 + the cluster of an ENQUEUE (R320), and the TCI and UNTAGGED with which it arrived (R160, R175). -/
  pipe : Nat := 0
  tci : Nat := 0
  untagged : Bool := true
  /-- Priority, arrival time, timestamp, pass, colour, class, REASON, path and tag. -/
  pri : Nat := 0
  time : Nat := 0
  stamp : Option (Nat × Nat) := none
  pass : Nat := 0
  colour : Nat := 0
  cls : Nat := 0
  reason : Nat := 0
  path : Nat := 0
  tag : Option (Nat × Nat) := none
  /-- The Sluice entry it hit when it was diverted (R341). -/
  div : Option Nat := none
  deriving DecidableEq, Repr

/-- How far the Sluice has come with a frame (R337, R339, R342). -/
inductive SlSt where
  /-- Its first 64 bytes are in; PCLK 1 is still to come. -/
  | fresh
  /-- A candidate, with SL_CFG.CLASS, WAIT_MAX and SL_GUARD.GUARD_LEN as they apply to it (R349). -/
  | cand (cls wait guard : Nat)
  /-- It hit an entry, with the entry's words; it waits for its commitment. -/
  | hit (cls wait guard entry : Nat) (words : List Nat)
  /-- No candidate, or a miss: it takes the ordinary path. -/
  | plain
  /-- Diverted; the entry it hit (R341). -/
  | diverted (entry : Nat)
  deriving DecidableEq, Repr

/-- A frame received behind others of its port whose path is not decided yet: what it is to the ordinary path, and whether the
MAC accepts it (R158). -/
structure SlGot where
  frame : WireFrame
  a : Arr
  upset : Upset
  ok : Bool
  deriving DecidableEq, Repr

/-- A frame of a port on its way through the Sluice: when PCLK 0 was, its pipe, its first 64 bytes, whether it came through the
express MAC, whether the entry that it hits fails its parity, its timestamp, and the frame once it is complete. -/
structure SlArr where
  id : Nat
  at_ : Nat
  pipe : Nat
  head : List Byte := []
  viaExpress : Bool := true
  parity : Bool := false
  time : Nat := 0
  st : SlSt := .fresh
  got : Option SlGot := none
  deriving DecidableEq, Repr

/-- The Sluice (R337 to R348). -/
structure Sluice where
  /-- Entries written, four words each; an absent one is all zero (R338). -/
  ents : Map (List Nat) := []
  /-- Entries whose parity has failed and that are not yet rewritten (R348). -/
  bad : List Nat := []
  /-- Frames of a port that it has not decided on, and those received behind them, oldest first (R153, R341). -/
  arr : Map (List SlArr) := []
  /-- Commitments by number. -/
  commits : Map Commit := []
  /-- RESULT of the last command. -/
  result : Nat := 0
  deriving DecidableEq, Repr

/-- What a lookup takes from the key (R175, R198): the key's low 624 bits suffice. -/
structure FwKey where
  inst : Nat
  slots : Nat
  valid : Nat
  deriving DecidableEq, Repr

/-- A lookup under way or waiting for its turn, with its ingress pipe; its destination once it is found (R201). -/
structure PendFw where
  id : Nat
  pipe : Nat
  a : Arr
  key : FwKey
  dest : Option Nat := none
  deriving DecidableEq, Repr

/-- An exact-match or learning entry (R202, R207): its key, (instance, key words) or (bridge domain, MAC). -/
structure FEnt where
  key : List Nat
  stat : Bool := false
  hit : Bool := false
  idle : Bool := false
  insEp : Nat := 0
  /-- FT count [63:10] of the last install or station move (R207). -/
  stamp : Nat := 0
  /-- Destination (R202). -/
  dest : Nat := 0
  deriving DecidableEq, Repr

/-- An LPM entry (R203). -/
structure LpmEnt where
  vrf : Nat
  v6 : Bool
  len : Nat
  pfx : Nat
  nh : Nat
  deriving DecidableEq, Repr

/-- A learn event in a bank's queue (R209). -/
structure LearnEv where
  bd : Nat
  mac : Nat
  port : Nat
  /-- The FT count when it was generated, in ns; the PCLK and the ingress pipe of its source lookup (R209). -/
  ns : Nat
  clk : Nat
  pipe : Nat
  deriving DecidableEq, Repr

/-- A route-cache entry: key, next-hop index, version (R206). -/
structure RcEnt where
  vrf : Nat
  v6 : Bool
  addr : Nat
  nh : Nat
  ver : Nat
  deriving DecidableEq, Repr

/-- A command in progress on the tables (R212, R214): table, operation, EVICT_OK, how many learn events reached its banks
before it, by bank, whether it has taken effect, where a FLUSH goes on, and the positions at which it meets uncorrectable
errors. -/
structure FwCmd where
  table : Nat
  op : Nat
  evict : Bool
  ahead : Map Nat := []
  done : Bool := false
  cursor : Nat := 0
  ecc : List Nat := []
  deriving DecidableEq, Repr

/-- The tables of the forwarding stage as they stood before the PCLK of a change, for the lookups of that PCLK, and the positions
that the ager has visited in it with their entries (R199, R210). -/
structure FwSeen where
  at_ : Nat
  insts : Map (List Nat)
  em : Map FEnt
  l2 : Map FEnt
  lpm : List LpmEnt
  nhs : Map Nat
  vers : Map Nat
  aged : List ((Bool × Nat) × FEnt) := []
  deriving DecidableEq, Repr

/-- The forwarding stage (R195 to R218). -/
structure Fwd where
  /-- Instances written, as their four words; an absent one is OFF with MISS the null egress queue (R195). -/
  insts : Map (List Nat) := []
  /-- Exact-match and learning entries by position. -/
  em : Map FEnt := []
  l2 : Map FEnt := []
  /-- LPM entries in slot order: IPv6 by descending length, then IPv4 (R204). -/
  lpm : List LpmEnt := []
  /-- Next hops written; an absent one names the null egress queue (R205). -/
  nhs : Map Nat := []
  vers : Map Nat := []
  rc : List RcEnt := []
  /-- Learn events by bank. -/
  banks : Map (List LearnEv) := []
  /-- Lookups not yet placed, oldest first. -/
  pend : List PendFw := []
  /-- The command in progress (R212). -/
  busy : Option FwCmd := none
  /-- RESULT and RESULT_INDEX of the last command (R212). -/
  result : Nat := 0
  resIdx : Nat := 0
  /-- Result of the command in progress: code, position, words. -/
  res : Nat × Nat × List Nat := (0, 0, [])
  /-- Sweeps: next position, start of the sweep, PERIOD in force (R210). -/
  ageEm : Nat × Nat × Nat := (0, 0, 0)
  ageL2 : Nat × Nat × Nat := (0, 0, 10000)
  /-- LPM slots and next hops whose parity has failed and that are not yet rewritten (R217). -/
  badLpm : List Nat := []
  badNh : List Nat := []
  /-- The tables before the PCLK of the last change (R199). -/
  seen : Option FwSeen := none
  deriving DecidableEq, Repr

/-- A frame that waits in a host receive queue (R149, R179). -/
structure HostFrame where
  tenant : Nat
  sq : Nat
  buf : Nat
  off : Nat
  len : Nat
  colour : Nat
  cls : Nat
  time : Nat
  deriving DecidableEq, Repr
/-- A ring descriptor (R256), with the identity of its job for KIND 2. -/
structure FDesc where
  buf : Nat
  len : Nat
  reason : Nat := 0
  kind : Nat := 0
  srcHost : Bool := false
  src : Nat := 0
  slot : Nat := 0
  slotGen : Nat := 0
  colour : Nat := 0
  cls : Nat := 0
  path : Nat := 0
  time : Nat := 0
  sq : Nat := 0
  cid : Nat := 0
  word : Nat := 0
  uid : Nat := 0
  deriving DecidableEq, Repr

/-- An input ring: descriptors in arrival order and the thread that received the last delivery (R255, R257). -/
structure Ring where
  q : List FDesc := []
  last : Nat := 15
  deriving DecidableEq, Repr

/-- Thread states (R251). -/
inductive ThSt where
  | empty | running | waiting | halted | faulted
  deriving DecidableEq, Repr

/-- An inbox entry that the dispatcher has filled: its ring, its descriptor, and whether the thread has taken it (R254,
R267). -/
structure Inbox where
  ring : Nat
  d : FDesc
  taken : Bool := false
  /-- Its place in the order of the core's deliveries (R257, R267). -/
  seq : Nat := 0
  /-- Its buffer has left the held-buffer table since (R265). -/
  gone : Bool := false
  deriving DecidableEq, Repr

/-- A hardware thread (R251, R272). -/
structure Thr where
  st : ThSt := .empty
  /-- The state a HALTED thread returns to. -/
  prev : ThSt := .running
  /-- w1 to w31; an absent register is 0 (R272). -/
  regs : Map DWord := []
  /-- The program counter, a word index (R272). -/
  pc : Nat := 0
  /-- Pending event bits (R260). -/
  ev : Nat := 0
  /-- Mask and destination of the EVWAIT the thread waits at (R251). -/
  wait : Option (Nat × Nat) := none
  /-- Local time at which the timer expires (R278). -/
  timer : Option Nat := none
  /-- Staging slot: words written by CHW since the last POST (R262). -/
  slot : Map DWord := []
  /-- The instruction word the thread is stalled inside (R250). -/
  stall : Option Nat := none
  /-- A debugger halt waits for the stalled instruction to complete (R472). -/
  haltPend : Bool := false
  /-- Stalled at POST for credit (R262). -/
  postWait : Bool := false
  /-- The next instruction is a debugger's STEP (R472). -/
  stepping : Bool := false
  /-- Start of the progress watchdog's count, on the clock that stops while a thread is HALTED (R263, R264). -/
  wd : Option Nat := none
  /-- Inbox entries 0 to 3 that hold a descriptor (R254). -/
  inbox : Map Inbox := []
  /-- Locksmith requests outstanding; what the next record 0 reports: blocks, the first failure, the last TAG (R281,
  R287). -/
  lsOut : Nat := 0
  lsBlocks : Nat := 0
  lsFail : Option (Nat × Status) := none
  lsTag : Nat := 0
  /-- A TBL is outstanding (R281). -/
  tblOut : Bool := false
  /-- Reply-requesting messages outstanding: reply record 3 to 5 and TAG (R288). -/
  chOut : Map Nat := []
  /-- Local bytes held by unit requests: request, first address, length (R282). -/
  holds : List (Nat × Nat × Nat) := []
  /-- A restart under POLICY 0 is due (R267). -/
  restart : Bool := false
  /-- RUNNING time in ps gathered in this epoch, and when the present run began (R252). -/
  runAcc : Nat := 0
  runAt : Nat := 0
  deriving DecidableEq, Repr

/-- States of a logical core (R269). -/
inductive CoreSt where
  | stopped | running | draining | restarting | offline
  deriving DecidableEq, Repr

/-- A logical core (R247 to R271). -/
structure Core where
  st : CoreSt := .stopped
  /-- Image slot in use. -/
  image : Nat := 0
  /-- ERR_CODE of the last failed start; BAD_CPL (R271). -/
  err : Nat := 0
  badCpl : Nat := 0
  /-- Times of restarts (R269). -/
  restarts : List Nat := []
  /-- FC_FAULT_INFO: code, thread, PC. -/
  fCode : Nat := 0
  fThread : Nat := 0
  fPc : Nat := 0
  /-- Threads by number (R251). -/
  threads : Map Thr := []
  /-- RUNNING time in ps that threads had gathered in this epoch when the core was cleared (R252). -/
  accs : Map Nat := []
  /-- Blocks of 64 bytes of the image whose code cannot be corrected when it is fetched (R266). -/
  badCode : List Nat := []
  /-- Held-buffer table: handle and thread (R265). -/
  held : List (Nat × Nat) := []
  /-- Slices in force: start and size in bytes, by thread (R253). -/
  slices : List (Nat × Nat) := []
  /-- The slot table rebuilt under adaptive weighting: 32 entries, a thread or 16 for invalid (R252). -/
  slots : Option (List Nat) := none
  /-- Instructions charged Issued, by thread, whose slot has not yet passed (R250). -/
  owed : Map Nat := []
  /-- Deliveries made (R257). -/
  seq : Nat := 0
  /-- Last change of a thread of the core that did not leave it in mutual wait throughout (R261). -/
  lastAct : Nat := 0
  /-- When DRAINING began, and when the core last became STOPPED or OFFLINE (R269, R464). -/
  drainAt : Nat := 0
  stopAt : Nat := 0
  /-- Words of TL_PMC_k in force since the last snapshot edge (R406). -/
  pmc : Map Nat := []
  deriving DecidableEq, Repr

/-- A channel message that has been posted and not yet taken by its unit (R262, R288): words W0 to W7, with the buffer
it hands over. -/
structure Msg where
  core : Nat
  thread : Nat
  words : List Nat
  deriving DecidableEq, Repr
/-- A superseded key, kept while operations opened before the edge hold it (R368). -/
structure OldKey where
  kid : Nat
  label : List Byte
  used : Nat
  limit : Nat
  /-- Epoch at which its GRACE ends. -/
  graceEnd : Nat
  deriving DecidableEq, Repr

/-- A key context that is not FREE (R358 to R368). -/
structure Ctx where
  /-- Owning tenant; none for the PF0 of `port`. -/
  owner : Option Nat
  port : Nat
  label : List Byte
  root : Nat
  ktype : Nat
  encOk : Bool
  decOk : Bool
  /-- LIMIT in units of 65,536 blocks, and blocks used (R365). -/
  limit : Nat
  used : Nat := 0
  /-- SEALED (R365). -/
  sealed : Bool := false
  /-- An armed rollover: the new LABEL and the target epoch (R367). -/
  armed : Option (List Byte × Nat) := none
  /-- Number of the key in force, and the keys before it that operations hold (R368). -/
  kid : Nat := 0
  olds : List OldKey := []
  deriving DecidableEq, Repr

/-- A thread's open CRYPT operation (R362). -/
structure CrOp where
  ctx : Nat
  kid : Nat
  blocks : Nat
  deriving DecidableEq, Repr

/-- A CRYPT or GFMUL request in its queue (R283, R351). -/
structure LsReq where
  id : Nat
  core : Nat
  thread : Nat
  gf : Bool
  addr : Nat
  /-- When it arrived (R351). -/
  at_ : Nat := 0
  deriving DecidableEq, Repr

/-- A request that a unit has taken (R363): how it failed, or the key it runs under. -/
structure LsBusy where
  req : LsReq
  fail : Option Status
  ctx : Nat := 0
  key : List Byte := []
  /-- The tweak block of an XTS operation (R366). -/
  tweak : Bool := false
  /-- The physical unit that serves it (R350, R351). -/
  unit : Nat := 0
  deriving DecidableEq, Repr

/-- Locksmith (R350 to R371). -/
structure Locksmith where
  ctxs : Map Ctx := []
  /-- Root keys loaded (R355). -/
  roots : Map (List Byte) := []
  /-- Requests waiting and requests taken, oldest first. -/
  queue : List LsReq := []
  busy : List LsBusy := []
  /-- Open operations by core x 16 + thread. -/
  ops : Map CrOp := []
  /-- Derived-key cache: contexts, most recently used first (R357). -/
  cache : List Nat := []
  /-- The entropy source passes its tests (R354). -/
  entropyOk : Bool := true
  /-- Units and lanes that failed a known-answer test and take nothing (R436). -/
  badAes : List Nat := []
  badGf : List Nat := []
  deriving DecidableEq, Repr

/-- A TBL operation that a thread waits for (R284): table, operation, EVICT_OK, FW_INDEX, address of the 64 bytes. -/
structure TblReq where
  id : Nat
  core : Nat
  thread : Nat
  table : Nat
  op : Nat
  evict : Bool
  index : Nat
  addr : Nat
  /-- Its 16 words, and whether they lie in the fixed areas of a slice (R277, R284). -/
  ws : List Nat := []
  fixed : Bool := false
  /-- Learn events that reached its banks before it, by bank, and where a FLUSH goes on (R214). -/
  ahead : Map Nat := []
  cursor : Nat := 0
  deriving DecidableEq, Repr
/-- DB_SESSION.STATE (R470, R478). -/
inductive DbSt where
  | closed | challenged | open | lockedOut
  deriving DecidableEq, Repr

/-- A breakpoint: PC, threads, ALL (R475). -/
structure Bp where
  pc : Nat
  mask : Nat
  all : Bool
  deriving DecidableEq, Repr

/-- A watchpoint: range, threads, READ, WRITE, ALL (R475). -/
structure Wp where
  base : Nat
  len : Nat
  mask : Nat
  rd : Bool
  wr : Bool
  all : Bool
  deriving DecidableEq, Repr

/-- The debug port and its session (R467 to R478). -/
structure Dbg where
  st : DbSt := .closed
  rights : Nat := 0
  /-- The NONCE of the last CHALLENGE, while unspent (R470). -/
  nonce : Option (List Nat) := none
  /-- SESSIONS and FAILS (R478). -/
  sessions : Nat := 0
  fails : Nat := 0
  /-- Consecutive failures, and the end of the lockout (R470). -/
  row : Nat := 0
  lockTill : Nat := 0
  /-- Local time of the last frame (R474). -/
  lastFrame : Nat := 0
  /-- Breakpoints by core x 8 + index, watchpoints by core x 4 + index (R475). -/
  bps : Map Bp := []
  wps : Map Wp := []
  /-- STATUS of the last STEP: 0, or 10 STEP_WAIT (R472). -/
  stepRes : Nat := 0
  /-- Local time spent with a thread HALTED, and since when one is (R264). -/
  haltAcc : Nat := 0
  haltSince : Option Nat := none
  /-- TAP instruction register, and the boundary register's driven word (R467). -/
  ir : Nat := 1
  boundary : Nat := 0
  /-- Words of the request frame received so far (R468). -/
  frameIn : List Nat := []
  /-- Requests accepted and not yet executed: opcode, SEQ, payload, and whether their response is still wanted (R468). -/
  reqs : List (Nat × Nat × List Nat × Bool) := []
  /-- The request whose response waits for its threads (R472): opcode, SEQ, core, thread mask. -/
  waiting : Option (Nat × Nat × Nat × Nat) := none
  /-- Response words not yet shifted out, and whether the next one is the first of its frame (R468). -/
  frameOut : List Nat := []
  outFirst : Bool := false
  deriving DecidableEq, Repr
/-- States of a connection (R303). -/
inductive ConnSt where
  | opening | open_ | closing | failed
  deriving DecidableEq, Repr

/-- Who sends a message (R304, R314, R379). -/
inductive Sender where
  | job (uid : Nat)
  /-- A SEND message of a thread; the TAG of the reply wanted, if any. -/
  | core (core thread : Nat) (tag : Option Nat)
  /-- A storage command by its uid, or a session exchange (0). -/
  | stor (uid : Nat)
  deriving DecidableEq, Repr

/-- A message being sent (R304): its buffers of payload, its PSNs. -/
structure Snd where
  who : Sender
  len : Nat
  imm : Nat
  /-- MSN and first PSN, given in order when the message's packets are made. -/
  msn : Nat := 0
  psn : Nat := 0
  pkts : Nat := 0
  /-- Copy buffers with the offset of the data: one per packet, or one for all. -/
  bufs : List Nat := []
  /-- The host data is in the copies. -/
  ready : Bool := false
  /-- Packets have been made. -/
  cut : Bool := false
  deriving DecidableEq, Repr

/-- Sealing of a packet of an encrypted connection: with the flow cores, or returned; with its egress port (R313). -/
inductive Seal where
  | plain
  | sealing (port buf : Nat)
  | done (port buf off len : Nat)
  /-- No network port led to the peer when it was to be sealed: it is dropped at its release (R295). -/
  | nowhere
  deriving DecidableEq, Repr

/-- A DATA packet that is not yet acknowledged (R307, R309). -/
structure TxPkt where
  psn : Nat
  buf : Nat
  off : Nat
  len : Nat
  first : Bool
  last : Bool
  msn : Nat
  msgLen : Nat
  imm : Nat
  /-- Path and number in the order of sending; 0 before the first release. -/
  path : Nat := 0
  ord : Nat := 0
  /-- Release in Fabric Time. -/
  at_ : Nat := 0
  /-- Acknowledged; declared lost (R309). -/
  acked : Bool := false
  lost : Bool := false
  /-- It has been released again. -/
  again : Bool := false
  /-- Packets sent after it on its path that have been acknowledged (R309). -/
  after : Nat := 0
  /-- It has been sealed (R313). -/
  sealed : Seal := .plain
  deriving DecidableEq, Repr

/-- A DATA packet held by the receiver (R305, R307). -/
structure RxPkt where
  psn : Nat
  buf : Nat
  off : Nat
  len : Nat
  first : Bool
  last : Bool
  msn : Nat
  msgLen : Nat
  imm : Nat
  deriving DecidableEq, Repr

/-- A message being delivered (R305): the receive job (0: the storage engine), PSN of its FIRST packet, what is left to
take and to write. -/
structure RxMsg where
  uid : Nat
  psn : Nat
  len : Nat
  imm : Nat
  left : Nat
  toWrite : Nat
  /-- The receive buffer of the storage engine that takes it (R379). -/
  buf : Option Nat := none
  deriving DecidableEq, Repr

/-- An ACK or CLOSE with the flow cores for sealing: buffer, connection and its generation, class, egress port (R313). -/
structure SealCtl where
  buf : Nat
  conn : Nat
  gen : Nat
  cls : Nat
  port : Nat
  /-- Where the sealed frame lies in the buffer, once it is back (R314). -/
  off : Nat := 0
  len : Nat := 0
  /-- Instant of release of one whose connection has ended (R316). -/
  rel : Option Nat := none
  deriving DecidableEq, Repr

/-- A connection (R300 to R318). -/
structure Conn where
  tenant : Nat
  node : Nat
  cls : Nat
  peerTenant : Nat
  paths : Nat
  verMin : Nat
  verMax : Nat
  /-- Local key-context handle, 0 for none. -/
  key : Nat
  /-- Words in force since it opened: TP_CFG, TP_OPEN, TP_RTO, TP_RNR, the source MAC, the next-hop MACs (R319). -/
  cfg : List Nat
  /-- State of the connection (R303). -/
  st : ConnSt := .opening
  /-- Status with which jobs of a FAILED connection fail. -/
  why : Status := .mftPeerUnreachable
  /-- Negotiated version, payload, SALT, ISNs, and the peer's connection and key context (R302, R303, R313). -/
  version : Nat := 0
  payload : Nat := 0
  salt : Nat := 0
  isn : Nat := 0
  peerConn : Nat := 0
  peerIsn : Nat := 0
  peerKey : Nat := 0
  /-- When setup, the last OPEN, and CLOSING began. -/
  openedAt : Nat := 0
  lastOpen : Nat := 0
  closeAt : Nat := 0
  /-- The admin port whose MFT_CONN_CLOSE waits. -/
  closer : Option Nat := none
  /-- The attachment that names the connection, plus 1 (R373). -/
  att : Nat := 0
  /-- Sender: next PSN, MSN, order number and path; messages in order; packets not acknowledged. -/
  sndNxt : Nat := 0
  msn : Nat := 0
  ord : Nat := 1
  nextPath : Nat := 0
  sends : List Snd := []
  tx : List TxPkt := []
  /-- Suspended paths with the epoch in which each resumes, the earliest begun first, and losses charged in this epoch. -/
  susp : List (Nat × Nat) := []
  charges : Map Nat := []
  /-- Retransmit timer: when it was started on the local clock, and the number of expiries in a row. -/
  timer : Option Nat := none
  expiries : Nat := 0
  /-- RNR: no DATA before this local time. -/
  rnrTill : Option Nat := none
  /-- Round trip, ns: SRTT and RTTVAR, and whether a sample exists. -/
  rtt : Option (Nat × Nat) := none
  /-- Least one-way delays and round trips by epoch, ns. -/
  owds : List (Nat × Int) := []
  rtts : List (Nat × Nat) := []
  /-- Drover: R in Mb/s, last q, samples of the interval, expiry in it, start of it. -/
  rate : Nat := 0
  lastQ : Int := 0
  qmin : Option Int := none
  expired : Bool := false
  updAt : Nat := 0
  /-- Egress port of the last release, for the rate's bound. -/
  port : Option Nat := none
  /-- Pacing: previous instant, the instant planned (both counts), and whether the last packet has still to start. -/
  tPrev : Nat := 0
  tNext : Option Nat := none
  waitStart : Bool := false
  /-- Sealed ACK and CLOSE packets that wait for their instants (R313, R316). -/
  ctl : List SealCtl := []
  /-- TARGET and BASE_LOG2 since the last update, TP_ACK since the last ACK (R319). -/
  drv : Nat × Nat := (2000, 10)
  ackCfg : Nat := 0
  /-- Token bucket of unscheduled transmission: bits, and when filled. -/
  tok : Nat × Nat := (0, 0)
  /-- Receiver: CUM_PSN, packets beyond it, packets in order and not yet handed out, messages being written. -/
  cum : Nat := 0
  held : List RxPkt := []
  rxq : List RxPkt := []
  msgs : List RxMsg := []
  /-- Receive jobs posted, oldest first; receive buffers that the storage engine has posted; the MSN of the next message to
  begin (R305, R379). -/
  posts : List Nat := []
  srx : List Nat := []
  begun : Nat := 0
  /-- DATA packets since the last ACK, when the first of them came, and path, ECHO_TS, RX_TS of the last. -/
  ackCnt : Nat := 0
  ackFrom : Option Nat := none
  trig : Nat × Nat × Nat := (0, 0, 0)
  deriving DecidableEq, Repr
/-- States of an attachment (R375). -/
inductive AttSt where
  | connecting | ready | reconnecting | failed
  deriving DecidableEq, Repr

/-- The TCP connection of an NVMe/TCP session (R377). -/
structure Tcp where
  /-- Local port. -/
  port : Nat
  /-- The connection is being set up: SYN has been sent (RFC 9293). -/
  syn : Bool := false
  /-- Oldest unacknowledged and next sequence number; bytes from the oldest on, sent or not. -/
  una : Nat
  nxt : Nat
  out : List Byte := []
  /-- Next sequence number expected; segments beyond it; stream bytes not yet read as PDUs. -/
  rcv : Nat
  ooo : List (Nat × List Byte) := []
  inb : List Byte := []
  /-- Peer's window, its scale, and the segment size. -/
  wnd : Nat
  scale : Nat := 0
  mss : Nat
  /-- Congestion window and threshold, duplicate ACKs, recovery point, ranges the peer has (RFC 5681, RFC 6675). -/
  cwnd : Nat
  ssthresh : Nat := 2 ^ 30
  dup : Nat := 0
  recover : Option Nat := none
  sacked : List (Nat × Nat) := []
  /-- HighRxt; whether the recovery follows a timeout; whether it has had its rescue retransmission (RFC 6675). -/
  high : Nat := 0
  rto : Bool := false
  rescued : Bool := false
  /-- Options in use: timestamps and SACK; the last timestamp received (RFC 7323, RFC 2018). -/
  tsOn : Bool := false
  sackOn : Bool := false
  tsRecent : Nat := 0
  /-- SRTT and RTTVAR in us, the timer's start and its expiries in a row. -/
  rtt : Option (Nat × Nat) := none
  timer : Option Nat := none
  tries : Nat := 0
  deriving DecidableEq, Repr

/-- An attachment (R372 to R376). -/
structure Att where
  tenant : Nat
  slot : Nat
  /-- The attach record (R374). -/
  rcd : List Byte
  /-- State and REASON (R375). -/
  st : AttSt := .connecting
  reason : Nat := 0
  /-- When the state was entered. -/
  since : Nat
  /-- SX_SESS and SX_TIMER in force for the session (R387). -/
  sess : Nat
  tmr : Nat
  nsze : Nat := 0
  /-- The target's IOCCSZ and MAXH2CDATA (R377). -/
  ioccsz : Nat := 4
  maxh2c : Nat := 0
  /-- The TCP connection of the session (R377). -/
  tcp : Option Tcp := none
  /-- Tags that stay reserved for an answer to a timed-out or discarded command, with the data still to come (R384). -/
  lateTags : List Nat := []
  /-- Consecutive timeouts (R384). -/
  row : Nat := 0
  /-- When the last Keep Alive was sent, and since when one is unanswered (R375). -/
  kaAt : Nat := 0
  kaFrom : Option Nat := none
  /-- NS_DETACH accepted: when, and the admin port that waits (R376). -/
  detach : Option (Nat × Nat) := none
  deriving DecidableEq, Repr

/-- Stages of a storage command (R375, R380 to R383). -/
inductive CmdSt where
  /-- It waits for the session. -/
  | queued
  /-- It waits for a staging buffer. -/
  | staging
  /-- Carters read its data. -/
  | filling
  /-- Its buffer is with the flow cores. -/
  | xts
  /-- It waits for its turn or for a tag. -/
  | unsent
  /-- It is outstanding at the target. -/
  | target
  /-- It is outstanding at the target, and discarded (R385). -/
  | late
  /-- It is discarded, and its buffer is still with the flow cores (R147). -/
  | dead
  /-- Carters write its data to the host. -/
  | emptying
  deriving DecidableEq, Repr

/-- A storage command (R380 to R384). -/
structure SxCmd where
  att : Nat
  opc : Nat
  /-- Data bytes, and whether they come from the target. -/
  len : Nat
  read : Bool
  /-- State of the command (R380). -/
  st : CmdSt := .queued
  /-- Acceptance, and IO_TIMEOUT in force, ms. -/
  since : Nat
  tmo : Nat
  /-- When it began to wait for a staging buffer, and STAGE_WAIT in force, us. -/
  stageAt : Nat := 0
  stageMax : Nat := 0
  /-- The staging buffer held (R381). -/
  buf : Option Nat := none
  /-- The staging buffer awaits XTS_DONE. -/
  xts : Bool := false
  /-- Its CID on the session (R381). -/
  tag : Nat := 0
  /-- Data bytes received. -/
  got : Nat := 0
  /-- The CQE received: status field and DW0. -/
  cqe : Option (Nat × Nat) := none
  deriving DecidableEq, Repr

/-- The storage engine (R372 to R387). -/
structure Sx where
  atts : Map Att := []
  /-- Storage commands by the uid of their jobs, which rise in the order of acceptance. -/
  cmds : Map SxCmd := []
  /-- Messages received on the MFT connections of attachments: attachment, IMM, bytes (R379). -/
  inbox : List (Nat × Nat × List Byte) := []
  deriving DecidableEq, Repr
/-- A dump record before it is written (R409): unit, instance, first counter, values. -/
structure DRec where
  unit : Nat
  inst : Nat
  first : Nat
  vals : List Nat
  deriving DecidableEq, Repr

/-- A snapshot that waits to be written to a ring (R412): epoch, short timestamp of its edge, epochs covered, records. -/
structure Snap where
  epoch : Nat
  time : Nat
  span : Nat
  recs : List DRec
  /-- The head record has been read again for it. -/
  reread : Bool := false
  deriving DecidableEq, Repr

/-- A dump ring (R407). -/
structure DumpRing where
  port : Nat
  ring : Nat
  log2 : Nat
  noSnoop : Bool
  tail : Nat := 0
  hdev : Nat := 0
  pend : Option Snap := none
  /-- Epoch of the last snapshot written to it. -/
  last : Option Nat := none
  /-- The admin port whose DUMP_RING_DESTROY waits (R408). -/
  destroyer : Option Nat := none
  /-- QM_CQ_HEAD_RANGE has been raised for this ring (R130). -/
  told : Bool := false
  deriving DecidableEq, Repr

/-- The Tallyman (R401 to R413). -/
structure Tally where
  /-- Schedule in force, and the PERIOD of the armed change (R403, R404). -/
  base : Nat := 0
  period : Nat := 1
  nextPeriod : Nat := 1
  /-- Epoch of the last snapshot (TL_LAST). -/
  last : Nat := 0
  /-- Rings: 0 the device ring, tenant + 1 a tenant's (R407). -/
  rings : Map DumpRing := []
  /-- Accumulators by counter key (R402), and the epoch up to which the device ring has been given values. -/
  acc : Map Nat := []
  accFrom : Option Nat := none
  /-- CCLK of the cores at the last latch, or at the reset (R405). -/
  latchAt : Nat := 0
  deriving DecidableEq, Repr
/-- The whole block. The fields `clk`, `free`, `uid` and `out` are the model's own (log entries 2, 3, 8). -/
structure State where
  /-- Local device time in ps (log entry 2). -/
  clk : Nat := 0
  /-- How many free values have been used (log entry 3). -/
  free : Nat := 0
  /-- The next identity of a job, transfer or operation (model's own numbering). -/
  uid : Nat := 1
  /-- What the block has sent, newest first (log entry 8). -/
  out : List Out := []
  /-- The commands waiting, first in first out. -/
  pending : List Instr := []
  /-- Register fields that software or a unit has written, keyed instance x 2^26 + BAR0 offset; an absent register
  holds its reset value from the register table (R46 to R478). -/
  regs : Map Word := []
  /-- 64-bit counters (R410): key unit x 2^32 + instance x 2^8 + index. -/
  cnt : Map Nat := []
  /-- Generations, absent 0x01 (R60). -/
  gens : Map Byte := []
  /-- 64-bit register write latches and read latches of a function, keyed function x 2^59 + the offset of the low word (R53). -/
  wlatch : Map Word := []
  rlatch : Map Word := []
  /-- Fabric Time (R20 to R47). -/
  ft : Ft := {}
  /-- Armed events and their targets in ns (R43, R44). -/
  armed : List (ArmKind × Nat) := []
  /-- The Lockkeeper (R414 to R434). -/
  lk : Lk := {}
  /-- HBM controller (R236 to R246). -/
  hbm : Hbm := {}
  /-- Mender (R435 to R444). -/
  md : Mender := {}
  /-- Boot, power and temperature (R450 to R466). -/
  boot : Boot := {}
  /-- Fuses and stored configuration. -/
  fuses : Fuses := {}
  /-- Cooper and the head cache (R219 to R235). -/
  coop : Coop := {}
  /-- Bytes of the buffer store by store offset (R219). -/
  mere : Map Byte := []
  /-- Bytes of the system region by address (R219). -/
  sysmem : Map Byte := []
  /-- Host ports by number; an absent port record is the reset one (R65 to R95). -/
  hp : Map Hp := []
  /-- Outstanding host reads that are no DMA reads, by port x 16,384 + tag (R68, R81). -/
  sreads : Map SysRead := []
  /-- Submission, completion and event queues by index; the admin pair of port p at 2^20 + p (R96 to R140). -/
  sqs : Map Sq := []
  cqs : Map Cq := []
  eqs : Map EvQ := []
  /-- Started data-path jobs by uid (R124). -/
  jobs : Map Job := []
  /-- Tenants that are not FREE (R144). -/
  tens : Map Tenant := []
  /-- Push slots that are not IDLE: tenant x 32 + slot (R120). -/
  slots : Map PushSlot := []
  /-- DMA engines 0 to 15 (R388 to R396). -/
  engs : Map Eng := []
  /-- DMA transfers by xid (R390). -/
  xfers : Map Xfer := []
  /-- Read requests outstanding by tag, and write requests handed, oldest first (R391, R397). -/
  reads : Map RdReq := []
  wreqs : List WrReq := []
  /-- Network ports' MACs (R152 to R169). -/
  macs : Map Mac := []
  /-- What is kept with stored packets, by buffer handle (R290). -/
  pkts : Map Pkt := []
  /-- Egress side of the network ports (R320 to R336). -/
  eg : Map EgPort := []
  /-- The Sluice (R337 to R348). -/
  sl : Sluice := {}
  /-- Parser and classifier (R170 to R194). -/
  pa : Classifier := {}
  /-- Forwarding stage (R195 to R218). -/
  fw : Fwd := {}
  /-- Frames in host receive queues, oldest first (R179). -/
  hostq : List HostFrame := []
  /-- Logical cores and input rings (R247 to R271). -/
  cores : Map Core := []
  /-- An epoch pulse has rebuilt the slot tables of the cores with adaptive weighting since the reset (R252). -/
  fcPulse : Bool := false
  rings : Map Ring := []
  /-- Local memory: core x 2^18 + byte address (R253). -/
  lmem : Map Byte := []
  /-- Image slots: slot x 2^23 + byte of the image (R268). -/
  fwmem : Map Byte := []
  /-- Channel messages waiting for their units, oldest first (R262). -/
  msgs : List Msg := []
  /-- Clusters whose power domain is switched off (R464). -/
  clOff : List Nat := []
  /-- Locksmith (R350 to R371). -/
  ls : Locksmith := {}
  /-- TBL operations under way, oldest first (R284). -/
  tblq : List TblReq := []
  /-- Serial debug port (R467 to R478). -/
  dbg : Dbg := {}
  /-- Connections by index (R300 to R318). -/
  conns : Map Conn := []
  /-- Peer connections answered with CLOSE of REASON 4 in this epoch: node x 2^20 + index (R303). -/
  unk : List Nat := []
  /-- ACKs and CLOSEs with the flow cores for sealing (R313). -/
  seals : List SealCtl := []
  /-- Storage engine (R372 to R387). -/
  sx : Sx := {}
  /-- The Tallyman (R401 to R413). -/
  tl : Tally := {}
  deriving DecidableEq, Repr

/-- The block right after POR_N is released and before boot has run: every field at its reset value. The values the
spec gives are in the register table and in the field defaults; the others are named in log entries 5 and 6. -/
def State.reset : State := {}

end Sys2Proof.Machine
end

