-- ==== Sys2Proof/Machine/Ops.lean ====
section
/-! DEFINITION. The named operations every family shares: maps and memories, bit fields and byte order, registers,
counters, generations and handles, Fabric Time as a value, events, outputs, the gates of register accesses, and the end
of a job. -/
namespace Sys2Proof.Machine

/-! ### Maps -/

/-- The value under a key, if any. -/
def mget? {α : Type} : Map α → Nat → Option α
  | [], _ => none
  | (a, v) :: t, k => if a = k then some v else mget? t k

/-- The value under a key, or a default. -/
def mget {α : Type} (d : α) (m : Map α) (k : Nat) : α := (mget? m k).getD d

/-- Put a value under a key, keeping the keys rising. -/
def mset {α : Type} : Map α → Nat → α → Map α
  | [], k, v => [(k, v)]
  | (a, w) :: t, k, v =>
    if k = a then (k, v) :: t else if k < a then (k, v) :: (a, w) :: t else (a, w) :: mset t k v

/-- Take a key out. -/
def mdel {α : Type} : Map α → Nat → Map α
  | [], _ => []
  | (a, w) :: t, k => if a = k then mdel t k else (a, w) :: mdel t k

/-- Put a value under a key, or take the key out when the value is the one an absent key reads as. -/
def msetD {α : Type} [DecidableEq α] (d : α) (m : Map α) (k : Nat) (v : α) : Map α :=
  if v = d then mdel m k else mset m k v

/-- Change the value under a key, if there is one. -/
def mmod {α : Type} (m : Map α) (k : Nat) (f : α → α) : Map α :=
  match mget? m k with
  | some v => mset m k (f v)
  | none => m

/-- Keep the entries a test accepts. -/
def mfilter {α : Type} (p : Nat → α → Bool) : Map α → Map α
  | [] => []
  | (a, v) :: t => if p a v then (a, v) :: mfilter p t else mfilter p t

/-- Change every value. -/
def mmap {α : Type} (f : Nat → α → α) : Map α → Map α
  | [] => []
  | (a, v) :: t => (a, f a v) :: mmap f t

/-! ### Bit fields, byte order -/

/-- Bits hi..lo of a number. -/
def bitsOf (w hi lo : Nat) : Nat := (w / 2 ^ lo) % 2 ^ (hi + 1 - lo)

/-- A number with bits hi..lo replaced. -/
def setBits (w hi lo v : Nat) : Nat := w - bitsOf w hi lo * 2 ^ lo + (v % 2 ^ (hi + 1 - lo)) * 2 ^ lo

/-- Bit b of a number. -/
def bitOf (w b : Nat) : Bool := bitsOf w b b = 1

/-- A flag as a number. -/
def b2n (b : Bool) : Nat := if b then 1 else 0

/-- n bytes of a number, least significant first (R5). -/
def leBytes : Nat → Nat → List Byte
  | 0, _ => []
  | n + 1, v => BitVec.ofNat 8 v :: leBytes n (v / 256)

/-- n bytes of a number, most significant first (wire order, R5). -/
def beBytes (n v : Nat) : List Byte := (leBytes n v).reverse

/-- The number of a little-endian byte list. -/
def leNat : List Byte → Nat
  | [] => 0
  | b :: t => b.toNat + 256 * leNat t

/-- The number of a most-significant-first byte list. -/
def beNat (l : List Byte) : Nat := leNat l.reverse

/-- The number of the n bytes of a list from offset o, least significant first; bytes beyond the list read 0. -/
def leAt (l : List Byte) (o n : Nat) : Nat := leNat ((l.drop o).take n)

/-- The number of the n bytes of a list from offset o, most significant first. -/
def beAt (l : List Byte) (o n : Nat) : Nat :=
  let x := (l.drop o).take n
  beNat x * 256 ^ (n - x.length)

/-- Word i of an entry (R102); a word beyond the list reads zero. -/
def dw (e : Entry) (i : Nat) : Nat := (e.dw.getD i 0).toNat

/-- Two words as a 64-bit number, low word first. -/
def dw2 (e : Entry) (i : Nat) : Nat := dw e i + dw e (i + 1) * 2 ^ 32

/-- Saturating increment. -/
def satInc (mx n : Nat) : Nat := if n < mx then n + 1 else n

/-- Upwards-rounded quotient. -/
def ceilDiv (a b : Nat) : Nat := (a + b - 1) / b

/-! ### Memories -/

/-- The byte at an address; an unlisted byte reads 0 (log entry 4). -/
def readByte (m : Map Byte) (a : Nat) : Byte := mget 0 m a

/-- Write a byte, keeping the canonical form. -/
def writeByte (m : Map Byte) (a : Nat) (b : Byte) : Map Byte := msetD 0 m a b

/-- n bytes from an address. -/
def readMem (m : Map Byte) (a : Nat) : Nat → List Byte
  | 0 => []
  | n + 1 => readByte m a :: readMem m (a + 1) n

/-- Write bytes from an address on. -/
def writeMem (m : Map Byte) (a : Nat) : List Byte → Map Byte
  | [] => m
  | b :: t => writeMem (writeByte m a b) (a + 1) t

/-- The canonical form: addresses strictly rising, and no entry equal to what an unlisted byte reads as. -/
def memWfFrom : Nat → Map Byte → Bool
  | _, [] => true
  | lo, (a, b) :: t => decide (lo ≤ a) && decide (b ≠ 0) && memWfFrom (a + 1) t

/-- The canonical form of a memory. -/
def memWf (m : Map Byte) : Bool := memWfFrom 0 m

/-! ### Free values -/

/-- One more free value has been used (log entry 3). -/
def bumpFree (s : State) : State := { s with free := s.free + 1 }

/-! ### Registers -/

/-- The register a BAR0 offset lies in, and its place in an array. -/
def findReg : List RDef → Nat → Option (RDef × Nat)
  | [], _ => none
  | r :: t, a =>
    let i := if r.stride = 0 then 0 else (a - r.off) / r.stride
    if r.off ≤ a ∧ r.off + i * r.stride = a ∧ i < r.cnt then some (r, i) else findReg t a

/-- The part of the register table that holds a unit's block (R50). -/
def blockRegs (off : Nat) : List RDef :=
  match off / 0x100000 with
  | 0 => regsGL | 1 => regsFT | 2 => regsHL | 3 => regsQM | 4 => regsTN | 5 => regsMA | 6 => regsPA | 7 => regsFW
  | 8 => regsMS | 9 => regsMC | 10 => regsFC | 11 => regsTP | 12 => regsEG | 13 => regsSL | 14 => regsLS | 15 => regsSX
  | 16 => regsDX | 17 => regsTL | 18 => regsLK | 19 => regsDB | 32 => regsLK | _ => []

/-- The word of the fields' reset values. -/
def fieldsReset : List RField → Nat
  | [] => 0
  | f :: t => f.rst * 2 ^ f.lo + fieldsReset t

/-- Default carve-out of pool p in GiB (R224), used until a boot configuration is loaded (log entry 5). -/
def defaultCarve (p : Nat) : Nat := [8, 16, 32, 32, 24, 16].getD p 0

/-- The reset value of a register at likeness level `lvl`, where it differs from the sum of its fields' reset values:
level 1 values (R446), the slice and slot defaults of a core (R271), the carve-out (R224). -/
def resetSpecial (lvl : Nat) (r : RDef) (i : Nat) : Option Nat :=
  if r.off = 0xA00020 then some (4 * 2 ^ 8 + 4 * i)
  else if r.off = 0xA00060 then
    some ((List.range 4).foldl (fun w k => w + (2 ^ 7 + (4 * i + k) % 16) * 2 ^ (8 * k)) 0)
  else if r.off = 0x800010 then some (defaultCarve i)
  else if lvl = 1 then
    if r.off = 0x300030 then some (8 * 2 ^ 16 + 50 * 2 ^ 8 + 20)
    else if r.off = 0xA00080 then some 1
    else if r.off = 0x600040 then some (2 * 2 ^ 16 + 1024)
    else if r.off = 0x700080 then some 1000
    else if r.off = 0xD00000 then some (7 * 2 ^ 24)
    else if r.off = 0x800048 then some (8 + 8 * 2 ^ 5 + 8 * 2 ^ 10 + 8 * 2 ^ 15)
    else none
  else none

/-- The word a register holds that nothing has written since its reset. -/
def resetWord (lvl off : Nat) : Nat :=
  match findReg (blockRegs off) off with
  | some (r, i) => (resetSpecial lvl r i).getD (fieldsReset r.flds)
  | none => 0

/-- Key of GL_LIKENESS in the register store. -/
def likenessKey : Nat := 8

/-- The likeness level in force (R446): GL_LIKENESS, level 2 until a signed configuration is loaded (log entry 5). -/
def level (s : State) : Nat :=
  match mget? s.regs likenessKey with
  | some w => w.toNat
  | none => 2

/-- Key of a register instance. -/
def rkey (off inst : Nat) : Nat := inst * 2 ^ 26 + off

/-- The stored word of a register. -/
def rget (s : State) (off : Nat) (inst : Nat := 0) : Nat :=
  match mget? s.regs (rkey off inst) with
  | some w => w.toNat
  | none => resetWord (level s) off

/-- Store a register word. -/
def rset (s : State) (off inst v : Nat) : State :=
  { s with regs := mset s.regs (rkey off inst) (BitVec.ofNat 32 v) }

/-- Read a field: element i of an array, of one instance. -/
def rd (s : State) (f : Fd) (i : Nat := 0) (inst : Nat := 0) : Nat :=
  bitsOf (rget s (f.off + i * f.stride) inst) f.hi f.lo

/-- Write a field. -/
def wr (s : State) (f : Fd) (i inst v : Nat) : State :=
  rset s (f.off + i * f.stride) inst (setBits (rget s (f.off + i * f.stride) inst) f.hi f.lo v)

/-- The management port (R50); H0 in recovery, when H0 alone works (R458). -/
def mgmtPort (s : State) : Nat := if s.boot.recovery then 0 else rd s F.GL_CONFIG_MGMT_PORT

/-- Width code of a host port in the boot configuration: 0 absent, 1 x8, 2 x16 (R12, R64); in recovery H0 alone, as x8
(R458). -/
def portWidth (s : State) (p : Nat) : Nat :=
  if s.boot.recovery then (if p = 0 then 1 else 0) else bitsOf (rd s F.GL_CONFIG_PORT_WIDTH) (2 * p + 1) (2 * p)

/-- Reset the registers of one unit block and instance (R54). -/
def resetBlock (s : State) (block inst : Nat) : State :=
  { s with regs := mfilter (fun k _ => !(k / 2 ^ 26 = inst && k % 2 ^ 26 / 0x100000 = block)) s.regs }

/-! ### Counters -/

/-- Key of a counter: unit block of R50, instance, index (R410). -/
def ckey (unit inst idx : Nat) : Nat := unit * 2 ^ 40 + inst * 2 ^ 8 + idx

/-- A counter's value. -/
def cget (s : State) (unit inst idx : Nat) : Nat := mget 0 s.cnt (ckey unit inst idx)

/-- Add to a 64-bit counter. -/
def cadd (s : State) (unit inst idx n : Nat) : State :=
  { s with cnt := mset s.cnt (ckey unit inst idx) ((cget s unit inst idx + n) % 2 ^ 64) }

/-! ### Generations and handles -/

/-- Key of a generation: class and index. Classes: 1 the shared queue space, 4 tenants and their pool requesters,
6 peer windows, 7 connections, 8 rule sets, 12 key contexts (R59, R60). -/
def gkey (cls idx : Nat) : Nat := cls * 2 ^ 23 + idx

/-- The current generation of an index. -/
def gen (s : State) (cls idx : Nat) : Nat := (mget (1 : Byte) s.gens (gkey cls idx)).toNat

/-- Insert into a list sorted by `le`. -/
def insertBy {α : Type} (le : α → α → Bool) (x : α) : List α → List α
  | [] => [x]
  | y :: t => if le x y then x :: y :: t else y :: insertBy le x t

/-- Advance a generation: 0xFF goes to 0x01, and 0x00 is never issued (R60). -/
def nextGen (g : Nat) : Nat := if g = 255 then 1 else g + 1

/-- End an incarnation (R60). -/
def advGen (s : State) (cls idx : Nat) : State :=
  { s with gens := mset s.gens (gkey cls idx) (BitVec.ofNat 8 (nextGen (gen s cls idx))) }

/-- A handle word (R58). -/
def mkHandle (kind g idx : Nat) : Nat := kind * 2 ^ 28 + g * 2 ^ 20 + idx

/-- KIND, GEN and INDEX of a handle (R58). -/
def hKind (h : Nat) : Nat := bitsOf h 31 28
def hGen (h : Nat) : Nat := bitsOf h 27 20
def hIdx (h : Nat) : Nat := bitsOf h 19 0

/-- Handles of the objects by index. -/
def sqHandle (s : State) (i : Nat) : Nat := mkHandle 1 (gen s 1 i) i
def cqHandle (s : State) (i : Nat) : Nat := mkHandle 2 (gen s 1 i) i
def eqHandle (s : State) (i : Nat) : Nat := mkHandle 3 (gen s 1 i) i
def tenHandle (s : State) (i : Nat) : Nat := mkHandle 4 (gen s 4 i) i
def winHandle (s : State) (i : Nat) : Nat := mkHandle 6 (gen s 6 i) i
def connHandle (s : State) (i : Nat) : Nat := mkHandle 7 (gen s 7 i) i
def rsHandle (s : State) (i : Nat) : Nat := mkHandle 8 (gen s 8 i) i
def keyHandle (s : State) (i : Nat) : Nat := mkHandle (12 + i / 2 ^ 20) (gen s 12 i) (i % 2 ^ 20)

/-- The four checks of R61 in their order: `kindOk`, `idxOk`, the generation, `inUse`. -/
def checkHandle (kindOk idxOk genOk inUse : Bool) : Option Status :=
  if !kindOk then some .invalidHandle
  else if !idxOk then some .invalidHandle
  else if !genOk then some .staleHandle
  else if !inUse then some .invalidHandle
  else none

/-! ### Fabric Time as a value -/

/-- The FT count in ns (R21). -/
def ftNs (s : State) : Nat := s.ft.count / 65536

/-- The epoch number (R21). -/
def epochNo (s : State) : Nat := ftNs s / 2 ^ 20

/-- QUALITY: 0 LOCKED, 1 HOLDOVER, 2 UNSET (R23, R25). -/
def ftQuality (s : State) : Nat :=
  match s.ft.st with
  | .unset | .acquire => 2
  | .locked => 0
  | .holdover | .relock => 1

/-- ERR_BOUND (R25). -/
def errBound (s : State) : Nat :=
  let v := match s.ft.st with
    | .unset | .acquire => 65535
    | .locked => 1
    | .holdover => 1 + ceilDiv (50 * (s.clk - s.ft.lastSample)) 1000000000000
    | .relock => ceilDiv s.ft.slew.natAbs 65536 + 1
  min v 65535

/-- The short timestamp of a count (R24). -/
def shortTsOf (q count : Nat) : Nat := q * 2 ^ 62 + (count / 65536 % 2 ^ 46) * 2 ^ 16 + count % 65536

/-- The short timestamp of now (R24). -/
def shortTs (s : State) : Nat := shortTsOf (ftQuality s) s.ft.count

/-- The four words of the full timestamp (R23). -/
def fullTs (s : State) : List Nat :=
  let ns := ftNs s
  let sec := ns / 1000000000
  [ns % 1000000000, sec % 2 ^ 32, (s.ft.count % 65536) * 2 ^ 16 + sec / 2 ^ 32 % 2 ^ 16,
   ftQuality s * 2 ^ 30 + s.ft.src * 2 ^ 28 + errBound s]

/-- Durations in ps. -/
def usec (n : Nat) : Nat := n * 1000000
def msec (n : Nat) : Nat := n * 1000000000

/-- An armed event is due: the count has reached its target (R39, R44). -/
def armedDue (s : State) (k : ArmKind) : Bool := s.armed.any fun a => decide (a.1 = k ∧ a.2 ≤ ftNs s)

/-- The arming check of R43 for a target in ns: the status it is refused with. -/
def armCheck (s : State) (target : Nat) : Option Status :=
  if s.ft.st = .unset ∨ s.ft.st = .acquire then some .ftNotValid
  else if target * 65536 < s.ft.count + rd s F.FT_ARM_LEAD_LEAD * 65536 then some .ftInstantPast
  else if target * 65536 > s.ft.count + 2 ^ 46 * 65536 then some .ftInstantFar
  else none

/-! ### Outputs and events -/

/-- Add to the output log (log entry 8). -/
def emit (s : State) (o : Out) : State := { s with out := o :: s.out }

/-- An event with its time (R419). -/
def mkEvent (s : State) (e : Ev) (inst : Nat) : Event :=
  { code := evCode e, cls := evClass e, inst := inst, time := shortTs s, epoch := epochNo s }

/-- Raise a non-fatal or correctable event to the intake queue of 256 entries (R418). Once the last-resort sequencer has run the
LK block is frozen (R433). -/
def raise (s : State) (e : Ev) (inst : Nat) : State :=
  if s.lk.st = .lrs then s
  else if s.lk.intake.length < 256 then
    { s with lk := { s.lk with intake := s.lk.intake ++ [mkEvent s e inst] } }
  else { s with lk := { s.lk with lost := satInc (2 ^ 32 - 1) s.lk.lost } }

/-- Raise an event at most once per instance and epoch. -/
def raiseOnce (s : State) (e : Ev) (inst : Nat) : State :=
  if (evCode e, inst) ∈ s.lk.once then s
  else
    let s := raise s e inst
    { s with lk := { s.lk with once := (evCode e, inst) :: s.lk.once } }

/-- Raise an event at most once per epoch for a thing that its INSTANCE does not tell apart, named by `key` (R419). -/
def raiseOnceFor (s : State) (e : Ev) (inst key : Nat) : State :=
  if (evCode e, key) ∈ s.lk.once then s
  else
    let s := raise s e inst
    { s with lk := { s.lk with once := (evCode e, key) :: s.lk.once } }

/-! ### 64-bit latches (R53) -/

/-- Key of a latch of a function for a register by the offset of its low word. -/
def latchKey (p : Nat) (f : Fn) (off : Nat) : Nat := (p * 2 + (match f with | .pf0 => 0 | .pf1 => 1)) * 2 ^ 59 + off

/-- The word in a latch; zero where it holds none. -/
def latchGet (m : Map Word) (p : Nat) (f : Fn) (off : Nat) : Nat := (mget 0 m (latchKey p f off)).toNat

/-! ### Ports, functions and the gates of an access -/

/-- The record of a host port. -/
def hpOf (s : State) (p : Nat) : Hp := mget {} s.hp p

/-- Change the record of a host port. -/
def modHp (s : State) (p : Nat) (f : Hp → Hp) : State := { s with hp := mset s.hp p (f (hpOf s p)) }

/-- A function of a host port. -/
def fnOf (s : State) (p : Nat) (f : Fn) : FnState :=
  match f with
  | .pf0 => (hpOf s p).f0
  | .pf1 => (hpOf s p).f1

/-- Change a function. -/
def modFn (s : State) (p : Nat) (f : Fn) (g : FnState → FnState) : State :=
  match f with
  | .pf0 => modHp s p fun h => { h with f0 := g h.f0 }
  | .pf1 => modHp s p fun h => { h with f1 := g h.f1 }

/-- The device works: boot is over and no fatal event, reset or sequencer holds it (R428, R433). -/
def running (s : State) : Bool := s.lk.st = .running

/-- The link of a port is in L0 or L0p (R138). -/
def linkUp (s : State) (p : Nat) : Bool := (hpOf s p).ltssm = .l0

/-- The function may issue memory requests: the device runs, Bus Master Enable is set, the function is in D0 and no
reset holds the port (R88, R91, R428). -/
def canReq (s : State) (p : Nat) (f : Fn) : Bool :=
  running s && (fnOf s p f).bme && !(fnOf s p f).d3 && !(hpOf s p).perst

/-! ### AER (R84 to R86) -/

/-- The error is a correctable one. -/
def aerCor : AerErr → Bool
  | .receiverError | .badTlp | .badDllp | .replayRollover | .replayTimeout | .advisoryNonFatal | .correctedInternal
  | .headerOverflow => true
  | _ => false

/-- The bit of an error in its status, mask and severity registers (R84; PCIe's numbering, log entry 105). -/
def aerBit : AerErr → Nat
  | .receiverError => 0 | .badTlp => 6 | .badDllp => 7 | .replayRollover => 8 | .replayTimeout => 12
  | .advisoryNonFatal => 13 | .correctedInternal => 14 | .headerOverflow => 15
  | .dlProtocol => 4 | .poisonedTlp => 12 | .flowControl => 13 | .cplTimeout => 14 | .unexpectedCpl => 16
  | .receiverOverflow => 17 | .malformedTlp => 18 | .unsupportedRequest => 20 | .uncorrectableInternal => 22

/-- A register with a bit set. -/
def setBit (w : Word) (b : Nat) : Word := w ||| BitVec.ofNat 32 (2 ^ b)

/-- Change the AER registers of a function. -/
def modAer (s : State) (p : Nat) (f : Fn) (g : Aer → Aer) : State := modFn s p f fun x => { x with aer := g x.aer }

/-- A correctable error: its status, and ERR_COR unless masked (R84). -/
def aerCorrectable (s : State) (p : Nat) (f : Fn) (e : AerErr) : State :=
  let s' := modAer s p f fun a => { a with corSta := setBit a.corSta (aerBit e) }
  if (fnOf s p f).aer.corMask.getLsbD (aerBit e) then s' else emit s' (.errMsg (Fin.ofNat 8 p) f .cor e)

/-- The status of an uncorrectable error. Unmasked, it takes the header log when the log is free; when another error still
holds the log, a header is lost, which is Header Log Overflow (R84). -/
def aerRecord (s : State) (p : Nat) (f : Fn) (e : AerErr) (masked : Bool) (hdr : Option (List Word)) : State :=
  let s' := modAer s p f fun a => { a with uncSta := setBit a.uncSta (aerBit e) }
  if masked then s'
  else if (fnOf s p f).aer.first.isNone then
    modAer s' p f fun a => { a with first := some (aerBit e), hdr := hdr.getD [0, 0, 0, 0] }
  else if hdr.isSome then aerCorrectable s' p f .headerOverflow
  else s'

/-- The header log of a corrected internal error, where no uncorrectable error holds the log (R86). -/
def corHeader (s : State) (p : Nat) (f : Fn) (hdr : Option (List Word)) : State :=
  let a := (fnOf s p f).aer
  match hdr with
  | some h =>
    if a.first.isNone ∧ !a.corMask.getLsbD (aerBit .correctedInternal) then modAer s p f fun a => { a with hdr := h } else s
  | none => s

/-- An error is logged on a function with its header, and signalled unless masked: ERR_FATAL or ERR_NONFATAL by the severity
bit. An Unexpected Completion at the non-fatal severity is an Advisory Non-Fatal Error (R83 to R85). -/
def aerLog (s : State) (p : Nat) (f : Fn) (e : AerErr) (hdr : Option (List Word)) : State :=
  let a := (fnOf s p f).aer
  if e = .correctedInternal then aerCorrectable (corHeader s p f hdr) p f e
  else if aerCor e then aerCorrectable s p f e
  else
    let fatal := a.uncSev.getLsbD (aerBit e)
    let masked := a.uncMask.getLsbD (aerBit e)
    if e = .unexpectedCpl ∧ !fatal then
      let s := aerCorrectable s p f .advisoryNonFatal
      if a.corMask.getLsbD (aerBit .advisoryNonFatal) then s else aerRecord s p f e masked hdr
    else
      let s := aerRecord s p f e masked hdr
      if masked then s else emit s (.errMsg (Fin.ofNat 8 p) f (if fatal then .fatal else .nonFatal) e)

/-- The header of a failing TLP, which no command carries: a free value (log entries 3, 105). -/
def tlpHeader (s : State) : List Word :=
  (List.range 4).map fun i => ((Config.tlpHeader s.free) >>> (32 * i)).setWidth 32

/-- Log an error of the link or of a transaction on a function (R84): the errors of a TLP have its header. -/
def aer (s : State) (p : HostPort) (f : Fn) (e : AerErr) : State :=
  if e ∈ [.poisonedTlp, .unexpectedCpl, .malformedTlp, .unsupportedRequest] then
    aerLog (bumpFree s) p.val f e (some (tlpHeader s))
  else aerLog s p.val f e none

/-- A memory access to a BAR of a function: it needs the link, and is an Unsupported Request while Memory Space Enable
is clear (R87); a read is then completed as one. -/
def barGate (s : State) (p : HostPort) (f : Fn) (eff : State → State) (read : Bool := false) : State :=
  if !linkUp s p then s
  else if !(fnOf s p f).mse then
    let s := aer s p f .unsupportedRequest
    if read then emit s (.cplErr p true) else s
  else eff s

/-- A configuration request to a function: it needs the link, and is completed with Configuration Request Retry Status while
the port is not ready or an FLR of the function runs (R89). -/
def cfgGate (s : State) (p : HostPort) (f : Fn) (eff : State → State) : State :=
  if !linkUp s p then s
  else if !(hpOf s p).ready || (fnOf s p f).flr.isSome then emit s (.retry p f)
  else eff s

/-- A write that R50 excludes (R51). -/
def denied (s : State) (p : HostPort) : State :=
  let s := wr s F.GL_ACC_STATUS_DENIED 0 p.val 1
  modHp s p.val fun h => { h with deniedCnt := satInc 65535 h.deniedCnt }

/-- A write to a register of PF0 BAR0: discarded while the device is FATAL or held by the sequencer (R429, R433),
denied from a port that R50 excludes (R51), else its effect. -/
def regGate (s : State) (p : HostPort) (mgmtOnly : Bool) (eff : State → State) : State :=
  barGate s p .pf0 fun s =>
    if s.lk.st = .fatal ∨ s.lk.st = .lrs then s
    else if s.boot.recovery then aer s p .pf0 .unsupportedRequest
    else if mgmtOnly && p.val ≠ mgmtPort s then denied s p
    else eff s

/-- A read of PF0 BAR0: Completer Abort once the sequencer has run, and UR in recovery, but for the LK block (R433,
R458). -/
def readGate (s : State) (p : HostPort) (lkBlock : Bool) (eff : State → State) : State :=
  barGate (read := true) s p .pf0 fun s =>
    if s.lk.st = .lrs ∧ !lkBlock then emit s (.cplErr p false)
    else if s.boot.recovery ∧ !lkBlock then emit (aer s p .pf0 .unsupportedRequest) (.cplErr p true)
    else eff s

/-! ### Addresses of queue owners -/

/-- The function that an owner's requests are made by (R72). -/
def ownerFn (owner : Option Nat) : Fn := if owner.isSome then .pf1 else .pf0

/-- The PASID of an owner's requests: a tenant's own, none for a PF0 (R72). -/
def ownerPasid (s : State) (owner : Option Nat) : Option Nat :=
  match owner with
  | some t => (mget? s.tens t).map (·.pasid)
  | none => none

/-- A host port as the type of outputs. -/
def asPort (p : Nat) : HostPort := Fin.ofNat 8 p

/-- An owner may issue requests on its port now (R73, R88, R91). -/
def ownerCanReq (s : State) (p : Nat) (owner : Option Nat) : Bool :=
  canReq s p (ownerFn owner) && (owner.isNone || (hpOf s p).f1.pasidEn)

/-- Attributes of a data write of a function, with No Snoop where it is asked for: Relaxed Ordering and ID-Based Ordering
when enabled (R68). Every other request carries at most No Snoop (R70). -/
def dataAttr (s : State) (p : Nat) (f : Fn) (ns : Bool) : TlpAttr :=
  { ro := (fnOf s p f).roEn, ido := (fnOf s p f).idoEn, ns := ns && (fnOf s p f).nsEn }
def ctrlAttr (s : State) (p : Nat) (f : Fn) (ns : Bool) : TlpAttr := { ns := ns && (fnOf s p f).nsEn }

/-- Write host memory for an owner, as a structure of the device's own: no Relaxed Ordering (R70). -/
def hostWrite (s : State) (p : Nat) (owner : Option Nat) (addr : Nat) (bytes : List Byte) (ns : Bool := false) :
    State :=
  emit s (.hostWrite (asPort p) (ownerPasid s owner) addr bytes (ctrlAttr s p (ownerFn owner) ns))

/-- The generations of a transfer still hold (R62). -/
def gensOk (s : State) (g : List (Nat × Nat)) : Bool :=
  g.all fun x => (mget (1 : Byte) s.gens x.1).toNat = x.2

/-- A write request that a Carter handed leaves, or is dropped when it was withdrawn or a generation has advanced
(R397). -/
def writeLeave (s : State) (w : WrReq) : State :=
  if w.drop || !gensOk s w.gens then cadd s 16 w.eng 4 1
  else cadd (emit s (.hostWrite (asPort w.port) w.pasid w.host w.bytes w.attr)) 16 w.eng 1 w.bytes.length

/-- Write requests handed that leave, in order, and those that stay: one that a test leaves out or that may not leave stays, and
behind it every one of its channel (R88, R392). One that is to be dropped may always leave (R397). -/
def leaveSplit (s : State) (mine : WrReq → Bool) : List (Nat × Nat) → List WrReq → List WrReq × List WrReq
  | _, [] => ([], [])
  | held, w :: t =>
    let free := w.drop || !gensOk s w.gens || canReq s w.port (if w.pasid.isSome then .pf1 else .pf0)
    if mine w && free && !(decide (w.ch < 64 ∧ (w.eng, w.ch) ∈ held)) then
      let r := leaveSplit s mine held t
      (w :: r.1, r.2)
    else
      let r := leaveSplit s mine ((w.eng, w.ch) :: held) t
      (r.1, w :: r.2)

/-- The write requests handed for a port leave, in order, as far as they may (R70, R392). -/
def leaveWrites (s : State) (p : Nat) : State :=
  let r := leaveSplit s (fun w => decide (w.port = p)) [] s.wreqs
  r.1.foldl writeLeave { s with wreqs := r.2 }

/-- Write requests of a function and PASID stay behind when those of its port leave: a completion that reports them waits
(R392). -/
def writesStay (s : State) (p : Nat) (pasid : Option Nat) : Bool :=
  (leaveSplit s (fun w => decide (w.port = p)) [] s.wreqs).2.any fun w => decide (w.port = p ∧ w.pasid = pasid)

/-! ### Host reads that are no DMA reads (R68, R81, R83) -/

/-- Non-posted requests outstanding on a port. -/
def readsOut (s : State) (p : Nat) : Nat :=
  (s.reads.filter fun r => decide (r.2.port = p)).length + (s.sreads.filter fun r => decide (r.2.port = p)).length

/-- The first tag from one on that no outstanding or timed-out read of the port holds. -/
def scanTag (s : State) (p : Nat) : Nat → Nat → Option Nat
  | 0, _ => none
  | n + 1, t =>
    if (mget? s.sreads (p * 16384 + t)).isNone ∧ !(hpOf s p).lateTags.any (·.1 = t) then some t else scanTag s p n (t + 1)

/-- A tag for a read that is no DMA read: one above the 8,192 of the engines (log entry 106); at most 8,192 requests are
outstanding on a port (R68). -/
def sysTag (s : State) (p : Nat) : Option Nat :=
  if readsOut s p < 8192 then scanTag s p (min 8192 (s.sreads.length + (hpOf s p).lateTags.length + 1)) 8192 else none

/-- An owner may issue a read on its port now, and a tag is free. -/
def mayRead (s : State) (p : Nat) (owner : Option Nat) : Bool := ownerCanReq s p owner && (sysTag s p).isSome

/-- Issue a host-memory read for an owner, under a free tag (R81). -/
def hostRead (s : State) (what : ReadRef) (p : Nat) (owner : Option Nat) (addr len : Nat) (ns : Bool := false) : State :=
  match sysTag s p with
  | some t =>
    emit { s with sreads := mset s.sreads (p * 16384 + t) { port := p, fn := ownerFn owner, what := what, since := s.clk } }
      (.hostRead what (asPort p) (ownerPasid s owner) addr len (ctrlAttr s p (ownerFn owner) ns))
  | none => s

/-- The outstanding read of a kind that was issued first: completions of one kind return in the order of their reads (log
entry 106). -/
def oldestRead (s : State) (w : ReadRef) : Option (Nat × SysRead) :=
  (s.sreads.filter fun r => decide (r.2.what = w)).foldl (fun b r =>
    match b with
    | some x => if r.2.since < x.2.since then some r else some x
    | none => some r) none

/-- A completion of a kind of read is taken in: its tag is free again, and its data goes to the reader, unless it is
discarded (R88). -/
def takeRead (s : State) (w : ReadRef) (eff : State → State) : State :=
  match oldestRead s w with
  | some (k, r) =>
    let s := { s with sreads := mdel s.sreads k }
    if r.drop then s else eff s
  | none => s

/-- The data of outstanding reads that a test accepts will be discarded (R88). -/
def dropSys (s : State) (t : SysRead → Bool) : State :=
  { s with sreads := mmap (fun _ r => if t r then { r with drop := true } else r) s.sreads }

/-- The read serves a queue. -/
def ofQueue (i : Nat) (r : SysRead) : Bool :=
  decide (r.what = .doorbell i ∨ r.what = .ring i ∨ r.what = .head true i ∨ r.what = .head false i)

/-! ### The end of a job -/

/-- Key of the admin SQ and CQ of a port. -/
def admKey (p : Nat) : Nat := 2 ^ 20 + p

/-- The generation of a tenant owner, 0 for a PF0. -/
def ownerGen (s : State) (owner : Option Nat) : Nat :=
  match owner with
  | some t => gen s 4 t
  | none => 0

/-- A job's generations are still the current ones (R62). -/
def jobCurrent (s : State) (j : Job) : Bool :=
  gen s 1 j.sq = j.sqGen && ownerGen s j.owner = j.tenGen

/-- Put a finished job's completion in line for its CQ. -/
def pushCpl (s : State) (cq : Nat) (c : Cpl) : State :=
  { s with cqs := mmod s.cqs cq fun q => { q with fin := q.fin ++ [c] } }

/-- A job finishes with a status and a result: its completion is put in line, unless a generation it was issued under
has advanced, when nothing is written (R62, R127, R132). A success with NO_CPL writes nothing (R102). -/
def finishJob (s : State) (uid : Nat) (st : Status) (result : Nat) : State :=
  match mget? s.jobs uid with
  | none => s
  | some j =>
    let s' := { s with jobs := mdel s.jobs uid }
    match mget? s.sqs j.sq with
    | none => s'
    | some q =>
      if jobCurrent s j then
        pushCpl s' q.cq
          { sq := j.sq, uid := uid, status := st, cid := j.cid, op := j.op, result := result % 2 ^ 64,
            silent := j.noCpl && decide (st = .success), time := shortTs s, sqGen := j.sqGen, tenGen := j.tenGen,
            sqCi := q.ci }
      else s'

/-- The admin command being executed on a port finishes (R99). When the admin queue has ended under it, no completion
is written (R97). -/
def finishAdmin (s : State) (p : Nat) (st : Status) (result : Nat) : State :=
  let aq := (hpOf s p).aq
  match aq.cur with
  | none => s
  | some e =>
    let s' := modHp s p fun h => { h with aq := { h.aq with cur := none, wait := none, mute := false } }
    if aq.mute then s'
    else
      match mget? s.sqs (admKey p) with
      | none => s'
      | some q =>
        pushCpl s' (admKey p)
          { sq := admKey p, uid := 0, status := st, cid := bitsOf (dw e 0) 31 16, op := bitsOf (dw e 0) 7 0,
            result := result % 2 ^ 64, time := shortTs s, sqCi := q.ci }

end Sys2Proof.Machine

namespace Sys2Proof.Machine

/-! ### Network ports -/

/-- The record of a network port. -/
def macOf (s : State) (p : Nat) : Mac := mget {} s.macs p

/-- Change the record of a network port. -/
def modMac (s : State) (p : Nat) (f : Mac → Mac) : State := { s with macs := mset s.macs p (f (macOf s p)) }

/-- The configuration of the octet of a port number: 0 1.6TbE, 1 800GbE, 2 400GbE, 3 200GbE (R64). -/
def octetCfg (s : State) (p : Nat) : Nat :=
  bitsOf (rd s F.GL_CONFIG_OCTET_CFG) (2 * (p / 8) + 1) (2 * (p / 8))

/-- The number names a port of the boot configuration (R152), on an enabled octet (R463); none does in recovery (R458). -/
def netPortExists (s : State) (p : Nat) : Bool :=
  decide (p % 2 ^ (3 - octetCfg s p) = 0) && bitOf s.boot.octetEn (p / 8) && !s.boot.recovery

/-- The port is UP (R157). -/
def netUp (s : State) (p : Nat) : Bool := netPortExists s p && decide ((macOf s p).st = .up)

/-- Rate of a port in Gb/s (R11). -/
def netRate (s : State) (p : Nat) : Nat := 1600 / 2 ^ octetCfg s p

/-- Least latencies of a port in 1/16 ns, for 1.6TbE, 800GbE, 400GbE and 200GbE (R156). -/
def rxLatMin (early : Bool) (k : Nat) : Nat :=
  if early then [840, 904, 1032, 1160].getD k 0 else [1544, 1608, 1736, 1864].getD k 0
def txLatMin (k : Nat) : Nat := [480, 496, 528, 560].getD k 0

/-- Characterised latencies of a port in its current mode, 1/16 ns: a value between the bounds of R156. -/
def rxLat (s : State) (p : Nat) : Nat :=
  let k := octetCfg s p
  let early := bitOf (macOf s p).cfg 24
  let lo := rxLatMin early k
  lo + (Config.rxLat p k early).toNat % ([1592, 1656, 1784, 1912].getD k 0 - lo + 1)
def txLat (s : State) (p : Nat) : Nat :=
  let k := octetCfg s p
  txLatMin k + (Config.txLat p k).toNat % 33

/-- The instant at which what is presented now crosses the MDI of a port (R37). -/
def txTime (s : State) (p : Nat) : Nat := s.ft.count + txLat s p * 4096

end Sys2Proof.Machine

namespace Sys2Proof.Machine

/-! ### Admin commands and written registers -/

/-- OPCODE of an entry (R102). -/
def opOf (e : Entry) : Nat := bitsOf (dw e 0) 7 0

/-- Words a..b of an entry are zero. -/
def dwZero (e : Entry) (a b : Nat) : Bool := (List.range (b + 1 - a)).all fun i => dw e (a + i) = 0

/-- The generation that a handle has to carry, where it names an object with one (R59, R61). -/
def genOf (s : State) (h : Nat) : Nat :=
  match hKind h with
  | 1 | 2 | 3 => gen s 1 (hIdx h)
  | 4 => gen s 4 (hIdx h)
  | 5 => if hIdx h < 4096 then gen s 4 (hIdx h) else 1
  | 6 => gen s 6 (hIdx h)
  | 7 => gen s 7 (hIdx h)
  | 8 => gen s 8 (hIdx h)
  | _ => if 12 ≤ hKind h then gen s 12 ((hKind h - 12) * 2 ^ 20 + hIdx h) else hGen h

/-- DW1 is no handle that R61 judges: it is 0, or the opcode has its own treatment of it (R101, R143, R189). -/
def dw1Free (e : Entry) : Bool := decide (dw e 1 = 0) || decide (opOf e ∈ [0x00, 0x10, 0x28, 0x3A])

/-- The handle in DW1 has gone stale since it was checked (R61). -/
def objStale (s : State) (e : Entry) : Bool := !dw1Free e && decide (hGen (dw e 1) ≠ genOf s (dw e 1))

/-- The entry names, as its object and by its current generation, a tenant whose fence runs: the command waits for its end
(R144). -/
def fenced (s : State) (e : Entry) : Bool :=
  !dw1Free e && decide (hKind (dw e 1) = 4) &&
    decide (((mget? s.tens (hIdx (dw e 1))).map (·.st)) = some .fencing)

/-- Run the body of an admin command on the entry its port is executing, if it has that opcode and the command is not
already waiting for something (R99), such as the fence of the tenant it names (R144). A handle whose generation has advanced
since the command was checked is stale (R61). -/
def adminRun (s : State) (p : Nat) (op : Nat) (body : State → Entry → State) : State :=
  match (hpOf s p).aq.cur with
  | some e =>
    if opOf e = op ∧ (hpOf s p).aq.wait = none ∧ running s then
      if objStale s e then finishAdmin s p .staleHandle 0
      else if fenced s e then s
      else body s e
    else s
  | none => s

/-- Note what the executing admin command of a port waits for. -/
def adminWait (s : State) (p : Nat) (what : String) (n : Nat) : State :=
  modHp s p fun h => { h with aq := { h.aq with wait := some (what, n) } }

/-- Run a job's opcode command: the job has been started, has that opcode and has not been executed yet (R104). -/
def jobRun (s : State) (uid op : Nat) (body : State → Job → State) : State :=
  match mget? s.jobs uid with
  | some j =>
    if j.op = op ∧ j.fresh ∧ running s then
      body { s with jobs := mset s.jobs uid { j with fresh := false } } { j with fresh := false }
    else s
  | none => s

/-- The first entry of a job. -/
def jobHead (j : Job) : Entry := j.ents.getD 0 ⟨[]⟩

/-- A value may be stored in an RW field (R9). -/
def fieldOk (f : RField) (w : Nat) : Bool :=
  let v := bitsOf w f.hi f.lo
  decide (f.acc ≠ .rw) || (decide (f.mn ≤ v ∧ v ≤ f.mx) && (v - f.mn) % f.step = 0)

/-- A write applied field by field: RW takes the new bits, W1C clears where a 1 is written, the others keep (R6). -/
def applyFields (flds : List RField) (old new : Nat) : Nat :=
  flds.foldl (fun w f =>
    match f.acc with
    | .rw => setBits w f.hi f.lo (bitsOf new f.hi f.lo)
    | .w1c => setBits w f.hi f.lo (bitsOf old f.hi f.lo - Nat.land (bitsOf old f.hi f.lo) (bitsOf new f.hi f.lo))
    | _ => w) old

/-- Write a register by its table entry: the whole register stays when a field is out of range (R9). The answer says
whether the write was taken. -/
def regStore (s : State) (off inst w : Nat) : State × Bool :=
  match findReg (blockRegs off) off with
  | some (r, _) =>
    if r.flds.all (fieldOk · w) then (rset s off inst (applyFields r.flds (rget s off inst) w), true) else (s, false)
  | none => (s, false)

/-- The image of a LOADING slot is read once the function may issue the read (R91, R185). -/
def imageIssue (s : State) (p i : Nat) : State :=
  match (hpOf s p).aq.cur with
  | some e =>
    if (oldestRead s (.image (Fin.ofNat 4 i))).isSome ∨ !mayRead s p none then s
    else hostRead s (.image (Fin.ofNat 4 i)) p none (dw2 e 4) (dw e 6)
  | none => s

/-- A rule-set load that waits for its read goes on (R91). -/
def imageResume (s : State) (p : Nat) : State :=
  match (hpOf s p).aq.wait with
  | some ("image", i) => imageIssue s p i
  | _ => s

end Sys2Proof.Machine
end

