-- ==== Sys2Proof/Machine/Completions.lean ====
section
/-! DEFINITION. Completion queues, event queues, moderation and delivery (06_completions.md). -/
namespace Sys2Proof.Machine

/-- Change a completion queue, an event queue, a submission queue. -/
def modCq (s : State) (i : Nat) (f : Cq → Cq) : State := { s with cqs := mmod s.cqs i f }
def modEq (s : State) (i : Nat) (f : EvQ → EvQ) : State := { s with eqs := mmod s.eqs i f }
def modSq (s : State) (i : Nat) (f : Sq → Sq) : State := { s with sqs := mmod s.sqs i f }

/-! ### Idle time of the submission queues (R116, R118) -/

/-- Fetch from the SQ is stalled by its CQ's overflow (R133). -/
def stalled (s : State) (q : Sq) : Bool :=
  match mget? s.cqs q.cq with
  | some c => c.spill ≠ []
  | none => false

/-- The SQ cannot start a job: INFLIGHT_MAX, a stalled fetch, or D3hot (R118). -/
def scanPaused (s : State) (q : Sq) : Bool :=
  decide (q.started.length ≥ q.inflMax) || stalled s q || (fnOf s q.port (ownerFn q.owner)).d3

/-- The idle time of an SQ now: none is added while the SQ is paused (R118). -/
def idleNow (s : State) (q : Sq) : Nat := q.idle + (if scanPaused s q then 0 else s.clk - q.idleAt)

/-- The idle time of the SQs that a test accepts is brought up to the present, before what pauses them changes (R118). -/
def settleIdle (s : State) (t : Nat → Sq → Bool) : State :=
  { s with sqs := mmap (fun i q => if t i q then { q with idle := idleNow s q, idleAt := s.clk } else q) s.sqs }

/-- The same for the SQs bound to a CQ, and for one SQ. -/
def settleCq (s : State) (c : Nat) : State := settleIdle s fun _ q => decide (q.cq = c)
def settleSq (s : State) (i : Nat) : State := settleIdle s fun k _ => decide (k = i)

/-! ### Rings -/

/-- Entries a ring holds that have not been consumed (R130). -/
def ringFill (tail hdev : Nat) : Nat := (tail + 2 ^ 32 - hdev) % 2 ^ 32

/-- PHASE of entry T of a ring of 2^log2 entries (R128). -/
def phaseOf (tail log2 : Nat) : Nat := 1 - tail / 2 ^ log2 % 2

/-- The eight words of a completion entry (R127). DW1 is 0 for the admin SQ, which has no handle (DESIGN CHOICE, log entry
119). -/
def cplBytes (c : Cpl) (phase : Nat) (spilled : Bool) : List Byte :=
  let h := if c.sq < 2 ^ 20 then mkHandle 1 c.sqGen c.sq else 0
  leBytes 4 (phase * 2 ^ 31 + b2n spilled * 2 ^ 30 + statusCode c.status * 2 ^ 16 + c.cid) ++ leBytes 4 h ++
  leBytes 4 c.sqCi ++ leBytes 4 (c.op * 2 ^ 24) ++ leBytes 8 c.result ++ leBytes 8 c.time

/-! ### INTx (R94) -/

/-- Some PF0 EQ of the port has a round open under INTx. -/
def intxPending (s : State) (p : Nat) : Bool :=
  s.eqs.any fun q => decide (q.2.port = p ∧ q.2.owner = none) && q.2.intx

/-- PME for a function in D3hot: PME_Status, and PM_PME if PME_En (R92). While PME_Status is 1
no other PM_PME is sent (DESIGN CHOICE, log entry 119). -/
def sendPme (s : State) (p : Nat) (f : Fn) : State :=
  let fn := fnOf s p f
  let s := modFn s p f fun g => { g with pmeStatus := true }
  if fn.pmeEn ∧ !fn.pmeStatus then emit s (.pme (asPort p) f) else s

/-- The port leaves L1 by itself (R92). -/
def leaveL1 (s : State) (p : Nat) : State :=
  emit (modHp s p fun h => { h with ltssm := .l0, l11 := false }) (.link (asPort p) "leave L1")

/-- Send Assert_INTA or Deassert_INTA when the sources, MSI-X Enable or Interrupt Disable ask for it; never two of a
kind in a row (R94). In D3hot an assert is held, with a PME; in L1 the port leaves L1 itself (R92). -/
def intaUpdate (s : State) (p : Nat) : State :=
  let h := hpOf s p
  let src := (h.alert || intxPending s p) && !h.f0.msixEn
  let want := src && !h.f0.intDis
  let s := modFn s p .pf0 fun f => { f with intStatus := src }
  if want = h.intaOn then s
  else if want && h.f0.d3 then sendPme s p .pf0
  else
    let s := if h.ltssm = .l1 then leaveL1 s p else s
    if linkUp s p then emit (modHp s p fun h => { h with intaOn := want }) (.inta (asPort p) want) else s

/-- A message of a function may leave now: the function is in D0 with Bus Master Enable set and the link up; in FATAL only
the alert's may (R88, R92, R428). -/
def mayMsix (s : State) (p : Nat) (f : Fn) (v : Nat) : Bool :=
  linkUp s p && !(fnOf s p f).d3 && (fnOf s p f).bme && (running s || (s.lk.st = .fatal && f = .pf0 && v = 0))

/-- The message of a vector: the words of its table entry (R93). -/
def msixMsg (s : State) (p : Nat) (f : Fn) (v : Nat) : Out :=
  let w (k : Nat) : Nat := (mget 0 (fnOf s p f).mtab (4 * v + k)).toNat
  .msix (asPort p) f v (w 0 + w 1 * 2 ^ 32) (w 2)

/-- Send it, or set the vector's pending bit (R93). A message due while MSI-X Enable is 0, which R93 does not speak of, is
treated as one for a masked vector (DESIGN CHOICE, log entry 107). -/
def sendMsix (s : State) (p : Nat) (f : Fn) (v : Nat) : State :=
  let fn := fnOf s p f
  if !fn.msixEn ∨ fn.fmask ∨ v ∉ fn.vopen then
    modFn s p f fun g => { g with vpend := if v ∈ g.vpend then g.vpend else v :: g.vpend }
  else emit s (msixMsg s p f v)

/-! ### Event queues -/

/-- A reportable event of an EQ (R138). -/
def eqReport (s : State) (i : Nat) : State :=
  modEq s i fun q =>
    match q.st with
    | .idle => { q with st := if q.modCount ≤ 1 then .due else .counting, count := 1, start := s.clk }
    | .counting => { q with count := q.count + 1, st := if q.count + 1 ≥ q.modCount then .due else .counting }
    | .due => { q with count := q.count + 1 }

/-- Write one EQ entry at the tail (R135), and count types 0x02 and 0x03 (R138). -/
def eqWrite (s : State) (i : Nat) (e : EqEnt) : State :=
  match mget? s.eqs i with
  | none => s
  | some q =>
    let b := leBytes 4 (phaseOf q.tail q.log2 * 2 ^ 31 + e.typ * 2 ^ 16) ++ leBytes 4 e.src ++ leBytes 4 e.reason ++
      leBytes 4 0
    let s := hostWrite s q.port q.owner (q.ring + q.tail % 2 ^ q.log2 * 16) b
    let s := modEq s i fun q => { q with tail := (q.tail + 1) % 2 ^ 32 }
    if e.typ = 1 then s else eqReport s i

/-- Read an EQ's head record, if the function may and no such read is in flight (R129, R130). -/
def eqHeadRead (s : State) (i : Nat) : State :=
  match mget? s.eqs i with
  | none => s
  | some q =>
    if q.hdReading ∨ q.stopped ∨ !mayRead s q.port q.owner then s
    else
      hostRead (modEq s i fun q => { q with hdReading := true, polled := s.clk }) (.head true i) q.port q.owner
        (q.ring + 2 ^ q.log2 * 16) 8

/-- Post an entry to an EQ. An entry that finds the ring full by the last accepted HEAD waits for the head record to be read
again; one that finds others waiting, or the function unable to write, waits behind them (R130, R136, R137). -/
def eqPost (s : State) (i : Nat) (e : EqEnt) : State :=
  match mget? s.eqs i with
  | none => s
  | some q =>
    if q.stopped then s
    else if ringFill q.tail q.hdev ≥ 2 ^ q.log2 then
      let s' := modEq s i fun q => { q with pend := q.pend ++ [e], fresh := true }
      if q.pend = [] then eqHeadRead s' i else s'
    else if q.pend ≠ [] ∨ !ownerCanReq s q.port q.owner then modEq s i fun q => { q with pend := q.pend ++ [e] }
    else eqWrite s i e

/-- Post pending entries of an EQ as far as room allows (R137), while the function may write (R91). -/
def eqDrain (s : State) (i : Nat) : Nat → State
  | 0 => s
  | n + 1 =>
    match mget? s.eqs i with
    | none => s
    | some q =>
      match q.pend with
      | e :: r =>
        if ringFill q.tail q.hdev < 2 ^ q.log2 ∧ ownerCanReq s q.port q.owner then
          eqDrain (eqWrite (modEq s i fun q => { q with pend := r }) i e) i n
        else s
      | [] => s

/-- The EQ of a CQ: its own, or for an admin CQ the one AQ_BIND_EQ names (R136). -/
def cqEq (s : State) (i : Nat) (q : Cq) : Option Nat :=
  if i ≥ 2 ^ 20 then (hpOf s q.port).aq.eq else q.eq

/-- The end of an EQ's moderation round: its CQs may notify again (R136). -/
def endRound (s : State) (i : Nat) : State :=
  modEq s i fun q => { q with st := .idle, count := 0, noted := [] }

/-! ### Completion queues -/

/-- Write a completion at the tail of a CQ's ring, after the writes of its function that still wait (R70, R392); note it
in the EQ (R127, R136, R138). SOURCE is 0 for the admin CQ, which has no handle (DESIGN CHOICE, log entry 119). -/
def cqWrite (s : State) (i : Nat) (c : Cpl) (spilled : Bool) : State :=
  match mget? s.cqs i with
  | none => s
  | some q =>
    let s := leaveWrites s q.port
    let s := hostWrite s q.port q.owner (q.ring + q.tail % 2 ^ q.log2 * 32) (cplBytes c (phaseOf q.tail q.log2) spilled)
      q.noSnoop
    let s := modCq s i fun q => { q with tail := (q.tail + 1) % 2 ^ 32 }
    match cqEq s i q with
    | none => s
    | some e =>
      let n := (i, if i < 2 ^ 20 then gen s 1 i else 0)
      let s := if ((mget? s.eqs e).map (·.noted)).any (n ∈ ·) then s
        else modEq (eqPost s e ⟨1, if i < 2 ^ 20 then cqHandle s i else 0, 0⟩) e fun q => { q with noted := n :: q.noted }
      eqReport s e

/-- A job's completion has been written, spilled or found needless: it is no longer in flight (R124). -/
def retire (s : State) (c : Cpl) : State :=
  modSq (settleSq s c.sq) c.sq fun q => { q with started := q.started.filter (· ≠ c.uid) }

/-- Append a completion to the overflow list; the overflow timer starts with the first (R133). -/
def cqSpill (s : State) (i : Nat) (c : Cpl) : State :=
  modCq (settleCq s i) i fun q =>
    { q with
      spill := q.spill ++ [c],
      timer := if q.spill = [] ∧ i < 2 ^ 20 then
          (if (fnOf s q.port (ownerFn q.owner)).d3 then none
           else some (s.clk + msec (rd s F.QM_CPL_CFG_OVF_TIMEOUT 0 q.port)))
        else q.timer,
      timerKept := if q.spill = [] then msec (rd s F.QM_CPL_CFG_OVF_TIMEOUT 0 q.port) else q.timerKept }

/-- The generations of a completion still hold (R62). -/
def cplCurrent (s : State) (q : Cq) (c : Cpl) : Bool :=
  decide (c.sq ≥ 2 ^ 20) || (gen s 1 c.sq = c.sqGen && ownerGen s q.owner = c.tenGen)

/-- Read a CQ's head record (R129, R130). -/
def cqHeadRead (s : State) (i : Nat) (q : Cq) : State :=
  hostRead (modCq s i fun q => { q with hdReading := true, polled := s.clk }) (.head false i) q.port q.owner
    (q.ring + 2 ^ q.log2 * 32) 8

/-- The oldest finished job of a CQ: its completion is written, or spilled, or dropped (R62, R132, R133). When the ring
is full the head record is read first (R130). -/
def completionWrite (s : State) (i : Nat) : State :=
  match mget? s.cqs i with
  | none => s
  | some q =>
    match q.fin with
    | [] => s
    | c :: r =>
      let done := retire (modCq s i fun q => { q with fin := r, reread := false }) c
      if !running s then s
      else if q.stopped ∨ q.overrun ∨ !cplCurrent s q c ∨ c.silent then done
      else if q.spill ≠ [] ∨ (fnOf s q.port (ownerFn q.owner)).d3 then cqSpill done i c
      else if !ownerCanReq s q.port q.owner ∨ writesStay s q.port (ownerPasid s q.owner) then s
      else if ringFill q.tail q.hdev < 2 ^ q.log2 then cqWrite done i c false
      else if q.reread then cqSpill done i c
      else if q.hdReading ∨ !mayRead s q.port q.owner then s
      else cqHeadRead s i q

/-- COMPLETION_WRITE (R127, R133). -/
def execCompletionWrite (cq : Nat) (s : State) : Host.Outcome State Fault Refusal := .next (completionWrite s cq)

/-- Move spilled entries to the ring in order, with SPILLED, as far as room allows (R133). -/
def cqDrain (s : State) (i : Nat) : Nat → State
  | 0 => s
  | n + 1 =>
    match mget? s.cqs i with
    | none => s
    | some q =>
      match q.spill with
      | c :: r =>
        if ringFill q.tail q.hdev < 2 ^ q.log2 ∧ ownerCanReq s q.port q.owner ∧
            !writesStay s q.port (ownerPasid s q.owner) then
          let t := if r = [] ∨ i ≥ 2 ^ 20 then none
            else some (s.clk + msec (rd s F.QM_CPL_CFG_OVF_TIMEOUT 0 q.port))
          cqDrain (cqWrite (modCq (settleCq s i) i fun q => { q with spill := r, timer := t }) i c true) i n
        else s
      | [] => s

/-- The conditions under which a HEAD is accepted (R130). -/
def headOk (tail hdev log2 head : Nat) (genOk : Bool) : Bool :=
  decide (ringFill tail head ≤ 2 ^ log2) && decide (ringFill head hdev < 2 ^ 31) && genOk

/-- Waiting entries that an EQ's message has to follow have not been moved since the return to D0 (R139). -/
def movesWait (s : State) (i : Nat) (q : EvQ) : Bool := q.back || s.cqs.any fun c => c.2.back && decide (cqEq s c.1 c.2 = some i)

/-- A DUE EQ: in D0 with the link up the message goes out and the round ends, once the entries that waited in D3hot have
been moved; on a PF0 without MSI-X the INTA source becomes pending; in L1 the port leaves L1; in D3hot a PME is sent (R92,
R94, R138, R139). -/
def eqSend (s : State) (i : Nat) : State :=
  match mget? s.eqs i with
  | none => s
  | some q =>
    let f := ownerFn q.owner
    if q.st ≠ .due ∨ q.intx ∨ q.stopped ∨ !running s ∨ (hpOf s q.port).perst then s
    else if (fnOf s q.port f).d3 then sendPme s q.port f
    else if (hpOf s q.port).ltssm = .l1 then leaveL1 s q.port
    else if !linkUp s q.port ∨ !(fnOf s q.port f).bme ∨ movesWait s i q then s
    else if f = .pf0 ∧ !(fnOf s q.port .pf0).msixEn then
      intaUpdate (modEq s i fun q => { q with intx := true }) q.port
    else endRound (sendMsix s q.port f q.vec) i

/-- A head record that fails its checks is ignored and counted (R130). -/
def headBad (s : State) (p : Nat) : State := modHp s p fun x => { x with headCnt := satInc 65535 x.headCnt }

/-- A CQ's head record that fails: QM_CQ_HEAD_RANGE once per incarnation (R130). -/
def cqHeadBad (s : State) (i : Nat) (q : Cq) : State :=
  let s := headBad s q.port
  if q.told then s
  else raise (modCq s i fun q => { q with told := true }) .qmCqHeadRange (if i < 2 ^ 20 then cqHandle s i else q.port)

/-- The same of an EQ. -/
def eqHeadBad (s : State) (i : Nat) (q : EvQ) : State :=
  let s := headBad s q.port
  if q.told then s else raise (modEq s i fun q => { q with told := true }) .qmCqHeadRange (eqHandle s i)

/-- The message that an EQ held in D3hot follows the entries moved (R139). -/
def heldSend (s : State) (back : Bool) : Option Nat → State
  | some e => if back then eqSend s e else s
  | none => s

/-- A CQ's head record has been read (R129, R130, R133). A read made for a completion that found the ring full tells about
that completion alone. -/
def cqHead (s : State) (i : Nat) (d : HostData) : State :=
  match mget? s.cqs i with
  | none => s
  | some q =>
    if !q.hdReading ∨ q.stopped then s
    else
      let s := modCq s i fun q => { q with hdReading := false, back := false, reread := decide (q.spill = [] ∧ q.fin ≠ []) }
      let s := match d with
        | .ok b =>
          let head := leAt b 0 4
          let genOk := i ≥ 2 ^ 20 || (hpOf s q.port).aq.abi ≠ 2 || leAt b 7 1 = gen s 1 i
          if headOk q.tail q.hdev q.log2 head genOk then
            cqDrain (modCq s i fun q => { q with hdev := head }) i q.spill.length
          else cqHeadBad s i q
        | _ => s
      heldSend s q.back (cqEq s i q)

/-- What an EQ's head record leaves: pending entries are posted as far as room allows, an INTx round whose entries have all
been consumed ends, and an entry for which the ring is still full is held with QM_EQ_FULL, once per epoch (R94, R130,
R137). -/
def eqHead (s : State) (i : Nat) (d : HostData) : State :=
  match mget? s.eqs i with
  | none => s
  | some q =>
    if !q.hdReading ∨ q.stopped then s
    else
      let s := modEq s i fun q => { q with hdReading := false, back := false, fresh := false }
      let s := match d with
        | .ok b =>
          let head := leAt b 0 4
          let genOk := (hpOf s q.port).aq.abi ≠ 2 || leAt b 7 1 = gen s 1 i
          if headOk q.tail q.hdev q.log2 head genOk then
            let s := eqDrain (modEq s i fun q => { q with hdev := head }) i q.pend.length
            if q.intx ∧ head = q.tail ∧ q.pend = [] then
              intaUpdate (endRound (modEq s i fun q => { q with intx := false }) i) q.port
            else s
          else eqHeadBad s i q
        | _ => s
      let full := match mget? s.eqs i with
        | some q => decide (q.pend ≠ [] ∧ ringFill q.tail q.hdev ≥ 2 ^ q.log2)
        | none => false
      heldSend (if q.fresh && full then raiseOnce s .qmEqFull (eqHandle s i) else s) q.back (some i)

/-- A head record has been read (R130). -/
def headRead (s : State) (isEq : Bool) (queue : Nat) (d : HostData) : State :=
  if isEq then eqHead s queue d else cqHead s queue d

/-- HEAD_RECORD_READ (R130). A read that times out ends with CPL_TIMEOUT. -/
def execHeadRecordRead (isEq : Bool) (queue : Nat) (data : HostData) (s : State) : Host.Outcome State Fault Refusal :=
  if running s ∧ data ≠ .timeout then .next (takeRead s (.head isEq queue) fun s => headRead s isEq queue data) else .next s

/-- HEAD_POLL of a port in ps. -/
def headPoll (s : State) (p : Nat) : Nat := usec (rd s F.QM_CPL_CFG_HEAD_POLL 0 p)

/-- HEAD_POLL_TICK: the head record is read every HEAD_POLL while the overflow list is non-empty, or the EQ holds pending
entries or an open INTx round (R94, R130). -/
def execHeadPollTick (isEq : Bool) (queue : Nat) (s : State) : Host.Outcome State Fault Refusal :=
  if isEq then
    match mget? s.eqs queue with
    | some q =>
      if (q.pend ≠ [] ∨ q.intx) ∧ s.clk ≥ q.polled + headPoll s q.port then .next (eqHeadRead s queue) else .next s
    | none => .next s
  else
    match mget? s.cqs queue with
    | some q =>
      if q.spill ≠ [] ∧ !q.hdReading ∧ !q.stopped ∧ !q.overrun ∧ s.clk ≥ q.polled + headPoll s q.port ∧
          mayRead s q.port q.owner then .next (cqHeadRead s queue q)
      else .next s
    | none => .next s

/-- An SQ goes to STOPPED for a reason: fetch and scanning stop; what is started finishes (R111). -/
def stopSq (s : State) (i : Nat) (r : QReason) : State :=
  modSq s i fun q => if q.stopped then q else { q with stopped := true, reason := r, ents := [], decoded := [] }

/-- REASON of the query record (R112). -/
def reasonCode : QReason → Nat
  | .none => 0 | .dbRange => 1 | .fetchError => 2 | .cqOverrun => 3 | .disabled => 4

/-- CQ_OVERFLOW_TIMEOUT: once the PCLK of the timer's end has passed, since a move from the list in it comes first, the CQ enters
OVERRUN, its list is discarded and its SQs are stopped (R133). -/
def execCqOverflowTimeout (cq : Nat) (s : State) : Host.Outcome State Fault Refusal :=
  match mget? s.cqs cq with
  | none => .next s
  | some q =>
    match q.timer with
    | some t =>
      if q.spill ≠ [] ∧ s.clk > t ∧ cq < 2 ^ 20 ∧ !q.stopped ∧ running s then
        let s := modCq (settleCq s cq) cq fun q => { q with overrun := true, spill := [], timer := none, back := false }
        let s := (s.sqs.filter fun x => decide (x.2.cq = cq)).foldl (fun s x => stopSq s x.1 .cqOverrun) s
        let s := raise (modHp s q.port fun h => { h with overrunCnt := satInc 65535 h.overrunCnt }) .qmCqOverrun
          (cqHandle s cq)
        .next (match q.eq with
          | some e => eqPost s e ⟨2, cqHandle s cq, 0⟩
          | none => s)
      else .next s
    | none => .next s

/-- EQ_MOD_TIMER_EXPIRE: the timer reaches MOD_TIMER x 0.5 µs; MOD_TIMER 0 turns it off (R138). -/
def execEqModTimerExpire (eq : Nat) (s : State) : Host.Outcome State Fault Refusal :=
  match mget? s.eqs eq with
  | some q =>
    if q.st = .counting ∧ q.modTimer ≠ 0 ∧ s.clk ≥ q.start + q.modTimer * 500000 then
      .next (modEq s eq fun q => { q with st := .due })
    else .next s
  | none => .next s

/-- EQ_HOLD_EXPIRE: the hold clock reaches 2 ms (R138). -/
def execEqHoldExpire (eq : Nat) (s : State) : Host.Outcome State Fault Refusal :=
  match mget? s.eqs eq with
  | some q =>
    if q.st = .counting ∧ s.clk ≥ q.start + msec 2 then .next (modEq s eq fun q => { q with st := .due })
    else .next s
  | none => .next s

/-- EQ_MESSAGE_SEND (R138). -/
def execEqMessageSend (eq : Nat) (s : State) : Host.Outcome State Fault Refusal := .next (eqSend s eq)

end Sys2Proof.Machine
end

