-- ==== Sys2Proof/Machine/ConfigSpace.lean ====
section
/-! DEFINITION. Configuration space of the two functions of a host port, as a configuration read returns it (R48, R68, R71,
R81, R84, R86, R91 to R93). The spec gives what each item holds; the places of the registers are those of the PCI Express
Base Specification, and the places of the capabilities in the space are the model's (log entry 105). -/
namespace Sys2Proof.Machine

/-- Place values of a word: shift and value. -/
def cfgBits (l : List (Nat × Nat)) : Nat := l.foldl (fun n x => n + x.2 * 2 ^ x.1) 0

/-- log2 of the size of the memory BAR that a pair of BAR registers holds (R48); none where no BAR is implemented. -/
def barLog2 : Fn → Nat → Option Nat
  | .pf0, 0 => some 26
  | .pf1, 0 => some 28
  | .pf1, 1 => some 36
  | .pf1, 2 => some 16
  | _, _ => none

/-- The BAR is prefetchable (R48). -/
def barPrefetch : Fn → Nat → Bool
  | .pf1, 0 | .pf1, 1 => true
  | _, _ => false

/-- A write of BAR register k: the address bits above the size of its BAR take it (R48). -/
def barWrite (f : Fn) (k : Nat) (v : Word) : Word :=
  match barLog2 f (k / 2) with
  | none => 0
  | some n =>
    let low := if k % 2 = 0 then min n 32 else n - 32
    BitVec.ofNat 32 (v.toNat / 2 ^ low * 2 ^ low)

/-- BAR register k: its address bits, and in the low register of a pair the bits of a 64-bit memory BAR (R48). -/
def barWord (g : FnState) (f : Fn) (k : Nat) : Nat :=
  match barLog2 f (k / 2) with
  | none => 0
  | some _ =>
    (mget 0 g.bars k).toNat + (if k % 2 = 0 then 4 + (if barPrefetch f (k / 2) then 8 else 0) else 0)

/-- Class codes (R71). -/
def classCode : Fn → Nat
  | .pf0 => 0x028000
  | .pf1 => 0x020000

/-- Device IDs (R48, R71). -/
def deviceId : Fn → Nat
  | .pf0 => 0x6400
  | .pf1 => 0x6401

/-- Subsystem Vendor ID and Subsystem ID of a function, from the boot configuration (R71, R457). -/
def subsystem (s : State) (f : Fn) : Nat × Nat :=
  let k := match f with | .pf0 => 0 | .pf1 => 2
  (s.boot.ids.getD k 0, s.boot.ids.getD (k + 1) 0)

/-- Code of a payload or request size: 128 bytes shifted left. -/
def sizeCode (n : Nat) : Nat := ((List.range 6).find? fun c => decide (128 * 2 ^ c = n)).getD 0

/-- The header (R48, R71, R87, R94). -/
def cfgHeader (s : State) (p : Nat) (f : Fn) (off : Nat) : Nat :=
  let g := fnOf s p f
  match off with
  | 0x00 => cfgBits [(16, deviceId f), (0, Config.vendorId.toNat)]
  | 0x04 => cfgBits [(20, 1), (19, b2n g.intStatus), (10, b2n g.intDis), (2, b2n g.bme), (1, b2n g.mse)]
  | 0x08 => cfgBits [(8, classCode f)]
  | 0x0C => cfgBits [(23, 1)]
  | 0x2C => cfgBits [(16, (subsystem s f).2), (0, (subsystem s f).1)]
  | 0x34 => 0x40
  | 0x3C => match f with | .pf0 => cfgBits [(8, 1)] | .pf1 => 0
  | _ => if 0x10 ≤ off ∧ off < 0x28 then barWord g f ((off - 0x10) / 4) else 0

/-- Power Management, MSI-X and PCI Express (R68, R81, R91 to R93). -/
def cfgCaps (s : State) (p : Nat) (f : Fn) (off : Nat) : Nat :=
  let g := fnOf s p f
  let h := hpOf s p
  match off with
  | 0x40 => cfgBits [(30, 1), (16, 3), (8, 0x50), (0, 0x01)]
  | 0x44 => cfgBits [(15, b2n g.pmeStatus), (8, b2n g.pmeEn), (3, 1), (0, if g.d3 then 3 else 0)]
  | 0x50 => cfgBits [(31, b2n g.msixEn), (30, b2n g.fmask), (16, match f with | .pf0 => 7 | .pf1 => 2047), (8, 0x70), (0, 0x11)]
  | 0x54 => match f with | .pf0 => 0x03000000 | .pf1 => 4
  | 0x58 => match f with | .pf0 => 0x03001000 | .pf1 => 0x8004
  | 0x70 => cfgBits [(16, 2), (0, 0x10)]
  | 0x74 => cfgBits [(28, 1), (15, 1), (5, 1), (0, 3)]
  | 0x78 => cfgBits [(12, sizeCode g.mrrs), (11, b2n g.nsEn), (8, 1), (5, sizeCode g.mps), (4, b2n g.roEn)]
  | 0x7C => cfgBits [(10, 2), (4, if portWidth s p = 2 then 16 else 8), (0, 7)]
  | 0x80 => cfgBits [(20, h.width), (16, h.speed)]
  | 0x94 => cfgBits [(11, 1), (0, 15)]
  | 0x98 => cfgBits [(10, b2n g.ltrEn), (8, b2n g.idoEn), (0, g.cplTo)]
  | _ => 0

/-- The extended capabilities: AER on both functions (R84), LTR, L1 PM Substates and PTM on PF0, PASID on PF1 (R68, R71,
R73). The list of each function is chained through its own capabilities. -/
def cfgExt (s : State) (p : Nat) (f : Fn) (off : Nat) : Nat :=
  let g := fnOf s p f
  let a := g.aer
  let head (next id : Nat) : Nat := cfgBits [(20, next), (16, 1), (0, id)]
  match off, f with
  | 0x100, .pf0 => head 0x150 1
  | 0x100, .pf1 => head 0x160 1
  | 0x104, _ => a.uncSta.toNat
  | 0x108, _ => a.uncMask.toNat
  | 0x10C, _ => a.uncSev.toNat
  | 0x110, _ => a.corSta.toNat
  | 0x114, _ => a.corMask.toNat
  | 0x118, _ => a.first.getD 0
  | 0x150, .pf0 => head 0x170 0x18
  | 0x154, .pf0 => g.ltrMax.toNat
  | 0x160, .pf1 => head 0 0x1B
  | 0x164, .pf1 => cfgBits [(16, b2n g.pasidEn), (8, 20)]
  | 0x170, .pf0 => head 0x180 0x1E
  | 0x174, .pf0 => cfgBits [(4, 1), (3, 1), (1, 1)]
  | 0x178, .pf0 => cfgBits [(3, b2n g.l11En), (1, b2n g.l11En)]
  | 0x180, .pf0 => head 0 0x1F
  | 0x184, .pf0 => 1
  | 0x188, .pf0 => b2n g.ptmEn
  | _, _ => if 0x11C ≤ off ∧ off < 0x12C then (a.hdr.getD ((off - 0x11C) / 4) 0).toNat else 0

/-- A word of a function's configuration space; a feature that is not implemented is absent and reads zero (R68). -/
def cfgWord (s : State) (p : Nat) (f : Fn) (off : Nat) : Nat :=
  if off < 0x40 then cfgHeader s p f off else if off < 0x100 then cfgCaps s p f off else cfgExt s p f off

/-! ### Writes of the AER registers (R84) -/

/-- Bits of the errors that a register holds. -/
def aerBits (cor : Bool) : Word :=
  if cor then 0x0000F1C1 else 0x00577010

/-- Uncorrectable statuses written 1 to clear; the header log is free once its error is cleared. -/
def aerClear (a : Aer) (v : Word) : Aer :=
  { a with
    uncSta := a.uncSta &&& ~~~v
    first := a.first.filter fun b => !v.getLsbD b }

end Sys2Proof.Machine
end

