-- ==== Sys2Proof/Machine/Mere.lean ====
section
/-! DEFINITION. The Mere and Cooper: the buffer store and its head cache, requesters, quotas, allocation, freeing,
transfer and quarantine (11_mere_store.md), and the held counts of the ports whose frames the buffers hold (R163). -/
namespace Sys2Proof.Machine

/-- Change Cooper. -/
def modCoop (s : State) (f : Coop → Coop) : State := { s with coop := f s.coop }

/-- Buffer size of a pool in bytes (R224). -/
def poolSize (p : Nat) : Nat := [256, 1024, 4096, 16384, 65536, 2097152].getD p 0

/-- Buffers of a pool under the carve-out in force (R224). -/
def poolCount (s : State) (p : Nat) : Nat := if p < 6 then rd s F.MS_CARVE_GIB p * 2 ^ 30 / poolSize p else 0

/-- Store offset at which a pool begins (R223). -/
def poolBase (s : State) (p : Nat) : Nat :=
  (List.range p).foldl (fun a i => a + rd s F.MS_CARVE_GIB i * 2 ^ 30) 0

/-- Pool and index of a buffer handle (R223). -/
def bPool (h : Nat) : Nat := bitsOf h 31 29
def bIdx (h : Nat) : Nat := bitsOf h 28 0

/-- A buffer handle (R223). -/
def mkBuf (p i : Nat) : Nat := p * 2 ^ 29 + i

/-- The handle names a buffer (R230). -/
def bufValid (s : State) (h : Nat) : Bool := decide (bPool h < 6) && decide (bIdx h < poolCount s (bPool h))

/-- Store offset of byte b of a buffer (R223). -/
def bufAddr (s : State) (h b : Nat) : Nat := poolBase s (bPool h) + bIdx h * poolSize (bPool h) + b

/-- Requesters: network port, core cluster, transport engine, storage engine (R59). -/
def reqPort (p : Nat) : Nat := 4096 + p
def reqCluster (c : Nat) : Nat := 4128 + c
def reqTp : Nat := 4144
def reqSx : Nat := 4145

/-- Handle of a pool requester, which shares a tenant's generation (R142). -/
def reqHandle (s : State) (r : Nat) : Nat := mkHandle 5 (gen s 4 r) r

/-- LIMIT of a requester in a pool (R226). -/
def limOf (s : State) (r p : Nat) : Nat :=
  match mget? s.coop.lim (r * 8 + p) with
  | some v => v
  | none => if r < 4096 then 0 else if p < 5 ∨ r = reqSx then poolCount s p else 0

/-- RESERVE of a requester in a pool (R226). -/
def rsvOf (s : State) (r p : Nat) : Nat := mget 0 s.coop.rsv (r * 8 + p)

/-- USED: buffers charged to the requester in the pool, cached ones included (R225). -/
def usedOf (s : State) (r p : Nat) : Nat :=
  s.coop.bufs.foldl (fun n b => if bPool b.1 = p ∧ b.2.owner = r then n + 1 else n) 0

/-- Held size of a requester in 256-byte cells, all pools (R225). -/
def cellsOf (s : State) (r : Nat) : Nat :=
  s.coop.bufs.foldl (fun n b => if b.2.owner = r then n + poolSize (bPool b.1) / 256 else n) 0

/-- Buffers of a pool that are not FREE. -/
def busyOf (s : State) (p : Nat) : Nat :=
  s.coop.bufs.foldl (fun n b => if bPool b.1 = p then n + 1 else n) 0

/-- FREE buffers of a pool. -/
def freeOf (s : State) (p : Nat) : Nat := poolCount s p - busyOf s p

/-- The shared free count: FREE minus the unused part of every requester's RESERVE (R226). -/
def sharedFree (s : State) (p : Nat) : Nat :=
  freeOf s p - s.coop.rsv.foldl
    (fun n e => if e.1 % 8 = p then n + (e.2 - usedOf s (e.1 / 8) p) else n) 0

/-- An allocation is within quota (R226). -/
def inQuota (s : State) (r p : Nat) : Bool :=
  decide (usedOf s r p < rsvOf s r p) ||
  (decide (usedOf s r p < limOf s r p) && decide (1 ≤ sharedFree s p))

/-- The first FREE buffer from an index on, with wrap-around, within `fuel` tries. -/
def scanFree (s : State) (p n i : Nat) : Nat → Option Nat
  | 0 => none
  | fuel + 1 =>
    if (mget? s.coop.bufs (mkBuf p (i % n))).isNone then some (mkBuf p (i % n)) else scanFree s p n (i + 1) fuel

/-- A FREE buffer of a pool. The order is not specified (R228): the search starts at a free value (log entry 3). -/
def pickFree (s : State) (p : Nat) : Option Nat :=
  let n := poolCount s p
  if busyOf s p < n then scanFree s p n (Config.poolStart s.free).toNat (s.coop.bufs.length + 1) else none

/-- Set a buffer's state word. -/
def setBuf (s : State) (h : Nat) (b : Buf) : State := modCoop s fun c => { c with bufs := mset c.bufs h b }

/-- MS_POOL_LOW when the FREE count has fallen below the watermark (11_mere_store.md, event codes). -/
def poolLow (s : State) (p : Nat) : State :=
  if freeOf s p < rd s F.MS_LOW_WM_WM p then raiseOnceFor s .msPoolLow 0 p else s

/-- The cached buffers of a requester and pool (R229). -/
def cacheOf (s : State) (r p : Nat) : List Nat := mget [] s.coop.cache (r * 8 + p)

/-- Cache depth of a pool (R229). -/
def cacheDepth (s : State) (p : Nat) : Nat := bitsOf (rget s F.MS_CACHE_CFG_DEPTH_0.off) (5 * p + 4) (5 * p)

/-- Take one buffer of pool p for requester r: from its cache, else a FREE one within quota (R228 to R230). -/
def tryPool (s : State) (r p : Nat) : Option (Nat × State) :=
  match cacheOf s r p with
  | h :: t =>
    some (h, setBuf (modCoop s fun c => { c with cache := msetD [] c.cache (r * 8 + p) t }) h ⟨.owned, r⟩)
  | [] =>
    if inQuota s r p then
      match pickFree s p with
      | some h => some (h, poolLow (bumpFree (setBuf s h ⟨.owned, r⟩)) p)
      | none => none
    else none

/-- Try pools in order. -/
def tryPools (s : State) (r : Nat) : List Nat → Option (Nat × State)
  | [] => none
  | p :: t =>
    match tryPool s r p with
    | some x => some x
    | none => tryPools s r t

/-- The pools a size is tried in: the smallest that covers it, then up to MAX_UP larger ones; pool 5 only as the first
(R228). -/
def poolsFor (s : State) (size : Nat) : List Nat :=
  let ok := (List.range 6).filter fun p => decide (size ≤ poolSize p)
  match ok with
  | [] => []
  | p :: t => if p = 5 then [5] else p :: (t.filter (· < 5)).take (rd s F.MS_ALLOC_CFG_MAX_UP)

/-- Count an allocation that failed (R233, R235). -/
def allocFailed (s : State) (st : Status) : State :=
  cadd s 8 0 (if st = .requesterQuarantined then 4 else if st = .quotaExceeded then 2 else 3) 1

/-- Allocate a buffer from a list of pools for a requester: the buffer, or the status of the failure (R228, R233). -/
def allocFrom (s : State) (r : Nat) (ps : List Nat) : (Except Status Nat) × State :=
  if r ∈ s.coop.quar then (.error .requesterQuarantined, allocFailed s .requesterQuarantined)
  else
    match tryPools s r ps with
    | some (h, s') =>
      let s' := cadd s' 8 0 0 1
      (.ok h, if ps.head? = some (bPool h) then s' else cadd s' 8 0 1 1)
    | none =>
      if ps.all fun p => !inQuota s r p then (.error .quotaExceeded, allocFailed s .quotaExceeded)
      else (.error .noResource, allocFailed s .noResource)

/-- Allocate by size (R228). -/
def alloc (s : State) (r size : Nat) : (Except Status Nat) × State := allocFrom s r (poolsFor s size)

/-- OWNED becomes HANDED: a buffer is placed in a queue or in a unit's work; the charge stays with the owner (R230). -/
def bufHand (s : State) (h : Nat) : State :=
  match mget? s.coop.bufs h with
  | some b => setBuf s h { b with st := .handed }
  | none => s

/-- Allocate by size for a unit's own work: the buffer is HANDED from the start (R230). -/
def allocWork (s : State) (r size : Nat) : (Except Status Nat) × State :=
  match alloc s r size with
  | (.ok h, s) => (.ok h, bufHand s h)
  | x => x

/-! ### The head cache and the store -/

/-- Lines of the head cache (R222). -/
def hcLines (s : State) : Nat :=
  let h := rd s F.MS_HC_STATUS_HALVES
  (h % 2 + h / 2) * 196608

/-- Write one cell through the head cache (R221). -/
def hcWrite (s : State) (cell : Nat) : State :=
  let cap := hcLines s
  if cap = 0 then s
  else if s.coop.hc.any (·.1 = cell) then s
  else if s.coop.hc.length < cap then modCoop s fun c => { c with hc := c.hc ++ [(cell, s.clk)] }
  else cadd (modCoop s fun c => { c with hc := c.hc.drop 1 ++ [(cell, s.clk)] }) 8 0 13 1

/-- The cells of a range of the store. -/
def cellsIn (a n : Nat) : List Nat :=
  if n = 0 then [] else (List.range ((a + n - 1) / 256 + 1 - a / 256)).map (· + a / 256)

/-! ### Parts and wear (R236, R247, R435) -/

/-- The stack of a physical pseudo-channel (R236). -/
def pcStack (p : Nat) : Nat := if p < 256 then p / 64 else (p - 256) / 2

/-- The physical pseudo-channel of a logical one. -/
def physPc (s : State) (n : Nat) : Nat := mget n s.hbm.map n

/-- The logical pseudo-channel whose data a physical one holds: in COPY the spare holds units of it too (R242, R243). -/
def logPc (s : State) (p : Nat) : Option Nat :=
  if s.hbm.mig = .copy ∧ s.hbm.spare = p then some s.hbm.pc
  else (List.range 256).find? fun n => physPc s n = p

/-- The part that now does the work of a part of a kind: the substitutions in their order, a spare itself replaced among them
(R438, R442). -/
def standIn (s : State) (k p : Nat) : Nat :=
  s.md.subs.foldl (fun q x => if x.1 = k ∧ x.2.1 = q then x.2.2 else q) p

/-- The physical core of a logical core (R247, R248). -/
def physCore (s : State) (l : Nat) : Nat := standIn s 1 (l / 12 * 13 + l % 12)

/-- The number of a wear monitor (R435). -/
def monCode : Monitor → Nat
  | .coreUncorr => 0 | .coreCorr => 1 | .pcCorr => 2 | .pcUncorr => 3 | .pcOnDie => 4 | .lpmParity => 5
  | .aesKat => 6 | .gfKat => 7 | .sramRow => 8 | .tcamRow => 9

/-- The window of a monitor in ps (R435). -/
def monWindow : Monitor → Nat
  | .coreCorr | .pcCorr | .pcOnDie | .lpmParity => 3600 * 10 ^ 12
  | _ => 24 * 3600 * 10 ^ 12

/-- An error of a physical part comes to its monitor (R435). -/
def wearNote (s : State) (m : Monitor) (part : Nat) : State :=
  let k := monCode m * 2 ^ 32 + part
  let old := (mget [] s.md.wear k).filter fun t => decide (s.clk < t + monWindow m)
  { s with md := { s.md with wear := mset s.md.wear k (old ++ [s.clk]) } }

/-- Errors of a part in the window that ends now (R435). -/
def wearCount (s : State) (m : Monitor) (part : Nat) : Nat :=
  ((mget [] s.md.wear (monCode m * 2 ^ 32 + part)).filter fun t => decide (s.clk < t + monWindow m)).length

/-- An error of a core's local memory or code comes to its monitor (R435). -/
def coreWear (s : State) (m : Monitor) (c : Nat) : State := wearNote s m (physCore s c)

/-! ### What the codes find in a read (R234, R241) -/

/-- The logical pseudo-channel of a cell of the raw capacity: the store's cells first, then those of the system region.
The hash is a free value under which consecutive cells lie on different pseudo-channels (R219, log entry 3). -/
def cellPc (c : Nat) : Nat := (c + 2 * (Config.pcHash (c / 256)).toNat) % 256

/-- The physical pseudo-channel that serves a cell: in COPY, the units copied are on the spare, and a request to the unit being
copied waits and goes there (R242, R243). -/
def cellPart (s : State) (c : Nat) : Nat :=
  let n := cellPc c
  if s.hbm.mig = .copy ∧ s.hbm.pc = n ∧ (Config.pcUnit c).toNat % 557056 ≤ s.hbm.units then s.hbm.spare
  else physPc s n

/-- The end-to-end code corrects a block of a cell: it is counted, MS_ECC_CORR raised once per epoch, and the location
passed to Mender; a block of a line of the head cache is not a pseudo-channel's (R221, R234, R246, R435). -/
def eccCorr (s : State) (c : Nat) : State :=
  let s := raiseOnce (cadd s 8 0 15 1) .msEccCorr 0
  if s.coop.hc.any (·.1 = c) then s else wearNote (cadd s 9 (cellPc c) 3 1) .pcCorr (cellPart s c)

/-- A stack's on-die code corrects a block of a cell (R241). -/
def eccOnDie (s : State) (c : Nat) : State :=
  if s.coop.hc.any (·.1 = c) then s else wearNote (cadd s 9 (cellPc c) 2 1) .pcOnDie (cellPart s c)

/-- A block of a cell cannot be corrected (R234, R246, R435). -/
def eccUncorr (s : State) (c : Nat) : State :=
  let s := raise (cadd s 8 0 16 1) .msEccUncorr 0
  if s.coop.hc.any (·.1 = c) then s else wearNote (cadd s 9 (cellPc c) 4 1) .pcUncorr (cellPart s c)

/-- Blocks of a read of n bytes at a that are known to be uncorrectable. -/
def lostIn (s : State) (a n : Nat) : List Nat :=
  s.coop.lost.filter fun b => decide (a / 64 ≤ b ∧ 64 * b < a + n)

/-- Read cells: hits and misses of the head cache are counted, and blocks that cannot be corrected (R221, R234, R235). -/
def storeTouch (s : State) (a n : Nat) : State :=
  let s := (cellsIn a n).foldl (fun s c => cadd s 8 0 (if s.coop.hc.any (·.1 = c) then 11 else 12) 1) s
  ((lostIn s a n).map (· / 4)).foldl eccUncorr s

/-- A block of the store is found uncorrectable. -/
def loseBlock (s : State) (b : Nat) : State :=
  if b ∈ s.coop.lost then s
  else eccUncorr { s with coop := { s.coop with lost := b :: s.coop.lost } } (b / 4)

/-- What the codes find in a read of n bytes at a of the store; blocks beyond the read are none of it. -/
def storeEcc (s : State) (a n : Nat) (e : Ecc) : State :=
  let blk (l : List Nat) : List Nat := (l.filter fun b => decide (64 * b < a % 64 + n)).map fun b => a / 64 + b
  let s := (blk e.onDie).foldl (fun s b => eccOnDie s (b / 4)) s
  let s := (blk e.corr).foldl (fun s b => eccCorr s (b / 4)) s
  (blk e.lost.toList).foldl loseBlock s

/-- A read of the store: what the codes find, the head cache, and blocks known to be uncorrectable (R221, R234). -/
def storeMeet (s : State) (a n : Nat) (e : Ecc) : State := storeEcc (storeTouch s a n) a n e

/-- Where in a read of n bytes at a of the store the first block begins that cannot be corrected (R234). -/
def lostAt (s : State) (a n : Nat) (e : Ecc) : Option Nat :=
  let bs := (e.lost.toList.filter fun b => decide (64 * b < a % 64 + n)) ++ (lostIn s a n).map (· - a / 64)
  (bs.foldl (fun m b => match m with | some x => some (min x b) | none => some b) none).map fun b => 64 * b - a % 64

/-- What the codes find beyond the first k blocks of a read. -/
def eccAfter (e : Ecc) (k : Nat) : Ecc :=
  { corr := (e.corr.filter (k ≤ ·)).map (· - k), onDie := (e.onDie.filter (k ≤ ·)).map (· - k)
    lost := (e.lost.filter fun b => decide (k ≤ b)).map (· - k) }

/-- The cell number of a block of the system region. -/
def sysCell (b : Nat) : Nat := 2 ^ 29 + b % 2 ^ 27 / 4

/-- Errors corrected in blocks of the system region (R234, R241). -/
def sysEcc (s : State) (e : Ecc) : State :=
  (e.corr.map sysCell).foldl eccCorr ((e.onDie.map sysCell).foldl eccOnDie s)

/-- Write bytes into the store (R221); a block written whole has a new code (R234). -/
def storeWrite (s : State) (a : Nat) (bytes : List Byte) : State :=
  let s := (cellsIn a bytes.length).foldl hcWrite s
  { s with
    mere := writeMem s.mere a bytes
    coop := { s.coop with lost := s.coop.lost.filter fun b => !decide (a ≤ 64 * b ∧ 64 * b + 64 ≤ a + bytes.length) } }

/-- Bytes of the store. -/
def storeRead (s : State) (a n : Nat) : List Byte := readMem s.mere a n

/-- Drop the lines of a freed buffer without write-back (R221). -/
def hcDrop (s : State) (h : Nat) : State :=
  let a := bufAddr s h 0 / 256
  let n := poolSize (bPool h) / 256
  let gone := s.coop.hc.filter fun l => decide (a ≤ l.1 ∧ l.1 < a + n)
  cadd (modCoop s fun c => { c with hc := c.hc.filter fun l => !decide (a ≤ l.1 ∧ l.1 < a + n) }) 8 0 14 gone.length

/-! ### Held counts and XON (R163) -/

/-- The class a port's flow control uses for a priority: all one under PAUSE, so that the transmit watchdog
runs as class 0 alone there (R164; DESIGN CHOICE, log entry 119). -/
def fcClass (s : State) (p pri : Nat) : Nat := if rd s F.MA_FC_MODE p = 2 then pri else 0

/-- The held count of a class in bytes (R163). -/
def heldCount (s : State) (p c : Nat) : Nat :=
  (macOf s p).held.foldl (fun n h => if fcClass s p h.2.1 = c then n + h.2.2 else n) 0

/-- Send a PAUSE or PFC frame for a class (R163) and count it. No frame starts on a port that is not UP, nor in FATAL or
after the last-resort sequencer (R157, R428, R432). -/
def sendPause (s : State) (p c time : Nat) : State :=
  if !netUp s p || !running s then s
  else
    let mask := if rd s F.MA_FC_MODE p = 2 then 2 ^ c else 255
    let s := emit s (.pause (Fin.ofNat 32 p) mask time)
    let s := cadd (cadd (cadd (cadd s 5 p 16 1) 5 p 12 1) 5 p 13 64) 5 p 14 1
    if rd s F.MA_FC_MODE p = 2 then cadd s 5 p (32 + c) 1 else cadd s 5 p 17 1

/-- The held count of a class is at or below XON: a time of 0 is sent, and the transmit watchdog returns to NORMAL
(R163, R164). -/
def xonCheck (s : State) (p c : Nat) : State :=
  if (mget? (macOf s p).xoff c).isSome ∧ heldCount s p c ≤ rd s F.MA_FC_THRESH_XON p * 2 ^ 20 then
    let s := modMac s p fun m => { m with
      xoff := mdel m.xoff c,
      wdTx := mmod m.wdTx c fun w => if w.st = .paused then { w with st := .normal } else w }
    sendPause s p c 0
  else s

/-- A watchdog of a port is in RECOVER: once RECOVER has elapsed, a pause of the same PCLK finds NORMAL (R164). -/
def recovering (s : State) (p : Nat) (w : Map Wd) (c : Nat) : Bool :=
  decide ((mget {} w c).st = .recover) && decide (s.clk < (mget {} w c).since + msec (rd s F.MA_PAUSE_WD_RECOVER p))

/-- The port sends pauses for a class (R161, R163). -/
def fcSends (s : State) (p c : Nat) : Bool :=
  let mode := rd s F.MA_FC_MODE p
  decide (rd s F.MA_FC_TX_EN p = 1) &&
    (decide (mode = 1) || (decide (mode = 2) && bitOf (rd s F.MA_FC_PFC_ENABLE p) c))

/-- XOFF is sent for a class whose held count exceeds XOFF (R163, R164). -/
def xoffCheck (s : State) (p c : Nat) : State :=
  if fcSends s p c ∧ (mget? (macOf s p).xoff c).isNone ∧ !recovering s p (macOf s p).wdTx c ∧ netUp s p ∧ running s ∧
      heldCount s p c > rd s F.MA_FC_THRESH_XOFF p * 2 ^ 20 then
    let s := sendPause s p c (rd s F.MA_FC_QUANTA p)
    modMac s p fun m => { m with xoff := mset m.xoff c s.clk, wdTx := mset m.wdTx c ⟨.paused, s.clk⟩ }
  else s

/-- What decides on a port's pauses changed: they are sent or ended by it (R163). -/
def fcRecheck (s : State) (n : Nat) : State := (List.range 8).foldl (fun s c => xonCheck (xoffCheck s n c) n c) s

/-- A buffer no longer holds a received frame: the port's held count falls (R163). -/
def unheld (s : State) (h : Nat) : State :=
  match s.macs.find? fun m => m.2.held.any (·.1 = h) with
  | some (p, m) =>
    let pri := ((m.held.find? (·.1 = h)).map (·.2.1)).getD 0
    let s := modMac s p fun m => { m with held := m.held.filter (·.1 ≠ h) }
    xonCheck s p (fcClass s p pri)
  | none => s

/-! ### Freeing and transfer -/

/-- The transport and storage engines no longer have a buffer that is with the flow cores and is freed there (R258,
R265). -/
def forget (s : State) (h : Nat) : State :=
  { s with
    seals := s.seals.filter (·.buf ≠ h)
    conns := mmap (fun _ c => { c with tx := c.tx.map fun k =>
      match k.sealed with
      | .sealing _ b => if b = h then { k with sealed := .plain } else k
      | _ => k }) s.conns
    sx := { s.sx with cmds := mmap (fun _ c =>
      if c.buf = some h then { c with buf := none, xts := false } else c) s.sx.cmds } }

/-- A buffer becomes FREE; what is kept with its packet goes, and with it the reference on a rule-set slot (R184,
R230). -/
def setFree (s : State) (h : Nat) : State :=
  let s := { modCoop s fun c => { c with bufs := mdel c.bufs h } with pkts := mdel s.pkts h }
  unheld (hcDrop (forget s h) h) h

/-- The device frees a buffer in its owner's name, in whatever state it holds (R230). -/
def devFree (s : State) (h : Nat) : State :=
  if (mget? s.coop.bufs h).isSome then cadd (setFree s h) 8 0 5 1 else s

/-- Return a requester's cached buffers of a pool (R229). -/
def cacheReturn (s : State) (r p : Nat) : State :=
  let s := (cacheOf s r p).foldl setFree s
  modCoop s fun c => { c with cache := mdel c.cache (r * 8 + p) }

/-- Fill a requester's cache towards its depth, within quota (R229). -/
def cacheFill (s : State) (r p : Nat) : Nat → State
  | 0 => s
  | n + 1 =>
    if (cacheOf s r p).length < cacheDepth s p ∧ inQuota s r p then
      match pickFree s p with
      | some h =>
        let s := bumpFree (setBuf s h ⟨.cached, r⟩)
        cacheFill (poolLow (modCoop s fun c => { c with cache := mset c.cache (r * 8 + p) (cacheOf s r p ++ [h]) }) p)
          r p n
      | none => s
    else s

/-- A refused free: the issuer's error count, and quarantine at the threshold (R232, R233). -/
def refuseFree (s : State) (r : Nat) : State :=
  let n := mget 0 s.coop.err r + 1
  let s := modCoop s fun c => { c with err := mset c.err r n }
  if n ≥ rd s F.MS_QUAR_CFG_THRESH ∧ r ∉ s.coop.quar then
    let s := modCoop s fun c => { c with quar := r :: c.quar }
    raise ((List.range 6).foldl (fun s p => cacheReturn s r p) s) .msQuarantine (reqHandle s r)
  else s

/-- FREE of a buffer by a requester: none when it is freed, else the refusal (R230, R231). -/
def bufFree (s : State) (h r : Nat) : Option Status × State :=
  if !bufValid s h then (some .invalidField, refuseFree (cadd s 8 0 8 1) r)
  else
    match mget? s.coop.bufs h with
    | none => (some .bufDoubleFree, refuseFree (raiseOnce (cadd s 8 0 6 1) .msDoubleFree (reqHandle s r)) r)
    | some b =>
      if b.st = .cached then
        (some .bufDoubleFree, refuseFree (raiseOnce (cadd s 8 0 6 1) .msDoubleFree (reqHandle s r)) r)
      else if b.st = .owned ∧ b.owner = r then (none, cadd (setFree s h) 8 0 5 1)
      else (some .bufForeignFree, refuseFree (raiseOnce (cadd s 8 0 7 1) .msForeignFree (reqHandle s r)) r)

/-- TRANSFER of a buffer by a requester to another, within the other's quota (R230, R233). -/
def bufTransfer (s : State) (h r to_ : Nat) : Option Status × State :=
  if !bufValid s h then (some .invalidField, s)
  else
    match mget? s.coop.bufs h with
    | none => (some .bufDoubleFree, s)
    | some b =>
      if b.st = .cached then (some .bufDoubleFree, s)
      else if b.st = .handed ∨ b.owner ≠ r then (some .bufForeignFree, s)
      else if to_ ∈ s.coop.quar then (some .requesterQuarantined, cadd s 8 0 4 1)
      else if inQuota s to_ (bPool h) then (none, cadd (setBuf s h ⟨.owned, to_⟩) 8 0 9 1)
      else (some .quotaExceeded, s)

/-- A buffer comes to the flow cores of a cluster: one of the cluster's own is OWNED again, another's stays in their work,
HANDED (R230, R265, log entry 22). -/
def bufBack (s : State) (h cl : Nat) : State :=
  match mget? s.coop.bufs h with
  | some b => setBuf s h { b with st := if b.owner = 4128 + cl then .owned else .handed }
  | none => s

/-- The buffer is OWNED by a requester. -/
def ownedBy (s : State) (h r : Nat) : Bool := mget? s.coop.bufs h = some ⟨.owned, r⟩

/-! ### Commands -/

/-- POOL_QUOTA_SET (R227). The handle in DW1 has passed R61. -/
def quotaSet (s : State) (p : Nat) (e : Entry) : State :=
  let r := hIdx (dw e 1)
  let pool := bitsOf (dw e 4) 2 0
  let set := bitOf (dw e 4) 9
  let unq := bitOf (dw e 4) 8
  let lim := dw e 5
  let rsv := dw e 6
  let others := s.coop.rsv.foldl (fun n x => if x.1 % 8 = pool ∧ x.1 / 8 ≠ r then n + x.2 else n) 0
  if bitsOf (dw e 4) 31 10 ≠ 0 ∨ bitsOf (dw e 4) 7 3 ≠ 0 ∨ pool > 5 ∨ !dwZero e 7 15 ∨ (!set ∧ !unq) ∨
      (!set ∧ (lim ≠ 0 ∨ rsv ≠ 0)) ∨ lim > poolCount s pool ∨ rsv > lim then
    finishAdmin s p .invalidField 0
  else if set ∧ others + rsv > poolCount s pool then finishAdmin s p .noResource 0
  else
    let s := if set then
        let s := modCoop s fun c => { c with
          lim := mset c.lim (r * 8 + pool) lim, rsv := msetD 0 c.rsv (r * 8 + pool) rsv }
        let s := cacheReturn s r pool
        if r ∉ s.coop.quar then cacheFill s r pool 16 else if cacheDepth s pool = 0 then s else cadd s 8 0 4 1
      else s
    let s := if unq then
        modCoop s fun c => { c with quar := c.quar.filter (· ≠ r), err := mdel c.err r }
      else s
    finishAdmin s p .success (usedOf s r pool)

/-- POOL_QUOTA_SET (R227). -/
def execPoolQuotaSet (port : HostPort) (s : State) : Host.Outcome State Fault Refusal :=
  .next (adminRun s port.val 0x18 fun s e => quotaSet s port.val e)

/-- CACHE_REFILL: a cache below half its depth is filled within quota; refused in quarantine (R229, R233). -/
def execCacheRefill (req : Fin 4146) (pool : Fin 6) (s : State) : Host.Outcome State Fault Refusal :=
  if running s ∧ s.coop.ready ∧ 2 * (cacheOf s req.val pool.val).length < cacheDepth s pool.val then
    if req.val ∈ s.coop.quar then .next (cadd s 8 0 4 1)
    else .next (cacheFill s req.val pool.val 16)
  else .next s

/-- Return every cached buffer of every requester (R229). -/
def cacheReturnAll (s : State) : State :=
  s.coop.cache.foldl (fun s e => cacheReturn s (e.1 / 8) (e.1 % 8)) s

/-- The effect of a write of MS_CACHE_CFG with values in range (R9, R229). -/
def cacheCfgWrite (s : State) (v : Nat) : State :=
  if (List.range 6).all fun p => decide (bitsOf v (5 * p + 4) (5 * p) ≤ 16) then
    cacheReturnAll (rset s F.MS_CACHE_CFG_DEPTH_0.off 0 (v % 2 ^ 30))
  else s

/-- CACHE_CFG_WRITE (R229). -/
def execCacheCfgWrite (port : HostPort) (value : Word) (s : State) : Host.Outcome State Fault Refusal :=
  .next (regGate s port true fun s => cacheCfgWrite s value.toNat)

end Sys2Proof.Machine
end

