-- ==== Sys2Proof/Machine/Carters.lean ====
section
/-! DEFINITION. Carters: engines, channels, descriptors and transfers, withdrawal, and the engine commands
(20_dma.md). What the end of a transfer means to its unit stands in DmaEnd.lean. -/
namespace Sys2Proof.Machine

/-- The record of an engine. -/
def engOf (s : State) (e : Nat) : Eng := mget {} s.engs e

/-- Change an engine. -/
def modEng (s : State) (e : Nat) (f : Eng → Eng) : State := { s with engs := mset s.engs e (f (engOf s e)) }

/-- A channel that has held nothing since its engine entered the state it is in (R393). -/
def restChan (g : Eng) : Chan :=
  match g.st with
  | .running | .offline => {}
  | .stopping | .stopped => { st := .stopped }
  | .halted => { st := .halted }

/-- A channel of an engine. -/
def chanOf (s : State) (e c : Nat) : Chan := mget (restChan (engOf s e)) (engOf s e).chans c

/-- Change a channel. -/
def modChan (s : State) (e c : Nat) (f : Chan → Chan) : State :=
  modEng s e fun g => { g with chans := mset g.chans c (f (mget (restChan g) g.chans c)) }

/-- The engines that serve a port (R388). -/
def portEngines (s : State) (p : Nat) : List Nat :=
  match portWidth s p with
  | 1 => [2 * p, 2 * p + 1]
  | 2 => [2 * p, 2 * p + 1, 2 * p + 2, 2 * p + 3]
  | _ => []

/-- The host port an engine serves: its own, or the ×16 port that takes the place of it (R388). -/
def engPort (s : State) (e : Nat) : Nat :=
  if portWidth s (e / 2) = 0 ∧ portWidth s (e / 2 - 1) = 2 then e / 2 - 1 else e / 2

/-- First channel and number of channels of a unit (R389). -/
def unitChans (u : Nat) : Nat × Nat :=
  match u with
  | 0 => (0, 40)
  | 1 => (40, 12)
  | 2 => (52, 8)
  | _ => (60, 4)

/-- Descriptors queued on an engine. -/
def engLoad (s : State) (e : Nat) : Nat :=
  s.xfers.foldl (fun n x =>
    match x.2.chan with
    | some c =>
      if c / 64 = e then
        n + x.2.todo.length + b2n (chanOf s e (c % 64)).act.isSome + b2n (chanOf s e (c % 64)).shadow.isSome
      else n
    | none => n) 0

/-- The RUNNING engine with the fewest descriptors, the lower one on a tie (R390). -/
def pickEngine (s : State) (p : Nat) : Option Nat :=
  (portEngines s p).foldl (fun b e =>
    if (engOf s e).st = .running then
      match b with
      | none => some e
      | some x => if engLoad s e < engLoad s x then some e else b
    else b) none

/-- Some engine of the port is not HALTED or OFFLINE, so a job can be placed or can wait (R394). -/
def xferPossible (s : State) (p : Nat) : Bool :=
  (portEngines s p).any fun e => decide ((engOf s e).st ≠ .halted ∧ (engOf s e).st ≠ .offline)

/-- Load the next descriptor of a transfer into its channel's shadow set (R391). -/
def loadShadow (s : State) (e c x : Nat) : State :=
  match mget? s.xfers x with
  | some t =>
    match t.todo with
    | d :: r =>
      if (chanOf s e c).shadow.isNone then
        cadd (modChan { s with xfers := mset s.xfers x { t with todo := r } } e c
          fun k => { k with shadow := some d }) 16 e 2 1
      else s
    | [] => s
  | none => s

/-- The job that a transfer serves; none for a flow-core transfer. -/
def XKind.uid? : XKind → Option Nat
  | .job u | .rx u | .stor u | .msg _ u _ _ _ => some u
  | .core _ _ _ _ => none

/-- Start a transfer on a channel: its first descriptor becomes active, its second the shadow (R391, R393). The job keeps the
channel (R390). -/
def startOn (s : State) (e c x : Nat) : State :=
  match mget? s.xfers x with
  | some t =>
    match t.todo with
    | d :: r =>
      let s := { s with
        xfers := mset s.xfers x { t with todo := r, chan := some (e * 64 + c) }
        jobs := match t.kind.uid? with
          | some u => mmod s.jobs u fun j => { j with chan := some (e * 64 + c) }
          | none => s.jobs }
      loadShadow (cadd (modChan s e c fun k => { k with st := .active, act := some d }) 16 e 2 1) e c x
    | [] => s
  | none => s

/-- The channel that the job of a transfer has, unless its engine is HALTED or OFFLINE (R390, R396). -/
def jobChan (s : State) (t : Xfer) : Option Nat :=
  match (t.kind.uid?.bind (mget? s.jobs)).bind (·.chan) with
  | some k =>
    if (engOf s (k / 64)).st = .halted ∨ (engOf s (k / 64)).st = .offline ∨ engPort s (k / 64) ≠ t.port then none else some k
  | none => none

/-- Place a waiting transfer on the channel of its job once that is IDLE; the first of a job on the lowest IDLE channel of its
unit on the engine of R390. It goes on waiting when there is none. -/
def placeXfer (s : State) (x : Nat) : State :=
  match mget? s.xfers x with
  | some t =>
    if t.chan.isSome ∨ t.todo = [] then s
    else
      match jobChan s t with
      | some k => if (chanOf s (k / 64) (k % 64)).st = .idle ∧ (engOf s (k / 64)).st = .running then startOn s (k / 64) (k % 64) x else s
      | none =>
      match pickEngine s t.port with
      | some e =>
        let (lo, n) := unitChans t.unit
        match ((List.range n).map (· + lo)).find? fun c => decide ((chanOf s e c).st = .idle) with
        | some c => startOn s e c x
        | none => s
      | none => s
  | none => s

/-- A transfer of a job that has no channel yet waits in its unit for one. -/
def xferWaits (s : State) (x : Nat) : Bool :=
  match mget? s.xfers x with
  | some t => t.chan.isNone && t.todo != [] && (jobChan s t).isNone
  | none => false

/-- Place waiting transfers of a port, those of a unit in order of arrival: behind one that goes on waiting no other of its
unit is placed (R390). -/
def placeWaiting (s : State) (p : Nat) : State :=
  ((s.xfers.filter fun x => decide (x.2.port = p)).foldl (fun (a : State × List Nat) x =>
    if x.2.unit ∈ a.2 then a
    else
      let s := placeXfer a.1 x.1
      (s, if xferWaits s x.1 then x.2.unit :: a.2 else a.2)) (s, [])).1

/-- Start a transfer. Its identity is the uid before the call. -/
def startXfer (s : State) (t : Xfer) : State :=
  let x := s.uid
  let t := { t with
    todo := t.todo.map fun d => { d with xid := x }, left := t.todo.foldl (fun n d => n + d.len) 0 }
  placeWaiting { s with uid := x + 1, xfers := mset s.xfers x t } t.port

/-- A descriptor of a copy inside the Mere: from or to the range `other` (R399). -/
def mereDesc (toOther : Bool) (other mere len : Nat) : Desc :=
  { xid := 0, host := other, mere := mere, len := len, toHost := toOther, inside := true }

/-- A descriptor from or to host memory. -/
def mkDesc (toHost : Bool) (host mere len : Nat) (pasid : Option Nat) : Desc :=
  { xid := 0, host := host, mere := mere, len := len, toHost := toHost, pasid := pasid }

/-- The generations a job was issued under: its queue's, its tenant's, and a message's connection's (R62, R63). -/
def jobGens (j : Job) : List (Nat × Nat) :=
  (gkey 1 j.sq, j.sqGen) :: (match j.owner with | some t => [(gkey 4 t, j.tenGen)] | none => []) ++
    (if j.op = 0x83 ∨ j.op = 0x84 then [(gkey 7 (hIdx (dw (jobHead j) 1)), hGen (dw (jobHead j) 1))] else [])

/-- The end of the active descriptor of a channel: the shadow follows, or the channel goes idle, or it stops at the
boundary of a STOPPING engine (R391, R393). -/
def boundary (s : State) (e c : Nat) : State :=
  let k := chanOf s e c
  let x := (k.act.map (·.xid)).getD 0
  if (engOf s e).st = .stopping then
    let s := modChan s e c fun k => { k with act := none, st := .stopped }
    if k.shadow.isSome then s else { s with xfers := mmod s.xfers x fun t => { t with chan := none } }
  else
    match k.shadow with
    | some d => loadShadow (modChan s e c fun k => { k with act := some d, shadow := none }) e c d.xid
    | none =>
      let s := modChan s e c fun k => { k with act := none, st := .idle }
      placeWaiting { s with xfers := mmod s.xfers x fun t => { t with chan := none } } (engPort s e)

/-- An engine whose channels have all stopped is STOPPED (R394). Channels never used count as stopped. -/
def stopCheck (s : State) (e : Nat) : State :=
  if (engOf s e).st = .stopping ∧ (engOf s e).chans.all fun c => decide (c.2.st ≠ .active) then
    modEng s e fun g => { g with st := .stopped }
  else s

/-- Withdraw a transfer (R397): queued descriptors are removed, the channel goes on, outstanding reads are taken in and
discarded, and writes not yet left are dropped. -/
def withdraw (s : State) (x : Nat) : State :=
  match mget? s.xfers x with
  | none => s
  | some t =>
    let s := { s with
      xfers := mdel s.xfers x,
      reads := mmap (fun _ r => if r.xid = x then { r with drop := true } else r) s.reads,
      wreqs := s.wreqs.map fun w => if w.xid = x then { w with drop := true } else w }
    match t.chan with
    | none => s
    | some ec =>
      let e := ec / 64
      let c := ec % 64
      let cut := match (chanOf s e c).act with
        | some d => s.reads.any fun r => decide (r.2.xid = x ∧ d.mere ≤ r.2.mere ∧ r.2.mere < d.mere + d.handed)
        | none => false
      let s := if cut then cadd s 16 e 3 1 else s
      let s := modChan s e c fun k => { k with shadow := none }
      if (chanOf s e c).st = .active then stopCheck (boundary s e c) e else s

/-- Transfers that serve a kind of work. -/
def xfersOf (s : State) (p : XKind → Bool) : List Nat := (s.xfers.filter fun x => p x.2.kind).map (·.1)

/-- Withdraw a transfer; the buffer of a packet that it was writing is freed. -/
def withdrawX (s : State) (x : Nat) : State :=
  match mget? s.xfers x with
  | some t =>
    match t.kind with
    | .msg _ _ _ b _ => devFree (withdraw s x) b
    | _ => withdraw s x
  | none => s

/-- The transfers of a job. -/
def jobXfers (s : State) (uid : Nat) : List Nat := xfersOf s fun k => decide (k.uid? = some uid)

/-- Withdraw every transfer of a job. -/
def withdrawJob (s : State) (uid : Nat) : State := (jobXfers s uid).foldl withdrawX s

/-- Cut a host range into requests of at most `m` bytes that do not cross a 4 KiB boundary (R391): (offset, length). -/
def cutReqs (host m : Nat) : Nat → Nat → Nat → List (Nat × Nat)
  | 0, _, _ => []
  | fuel + 1, off, n =>
    if n = 0 then []
    else
      let k := min n (min m (4096 - (host + off) % 4096))
      (off, k) :: cutReqs host m fuel (off + k) (n - k)

/-- Burst size in bytes (R400). -/
def burstBytes (s : State) (p : Nat) : Nat := 512 * 2 ^ rd s F.DX_CFG_BURST 0 p

/-- The lowest free tag of an engine: the port's tags are divided equally among its engines (R388). -/
def freeTag (s : State) (p e : Nat) : Option Nat :=
  let es := portEngines s p
  let n := 8192 / es.length
  let lo := es.idxOf e * n
  (List.range n).map (· + lo) |>.find? fun t =>
    (mget? s.reads (p * 16384 + t)).isNone && !(hpOf s p).lateTags.any (·.1 = t)

/-- Attributes of a transfer's requests: No Snoop on the segment reads of a queue that asks for it, and on both directions of
a flow-core transfer that does (R68, R107, R398). -/
def xferAttr (s : State) (t : Xfer) (write : Bool) : TlpAttr :=
  let f := ownerFn t.tenant
  let ns := t.ns && (!write || match t.kind with | .core _ _ _ _ => true | _ => false)
  if write then dataAttr s t.port f ns else ctrlAttr s t.port f ns

/-- Read requests that an engine may issue now: its own free tags, and at most 8,192 requests outstanding on the port (R68,
R388). A tag that timed out is not free (R83). -/
def freeTags (s : State) (p e : Nat) : Nat :=
  let es := portEngines s p
  let n := 8192 / es.length
  let lo := es.idxOf e * n
  let late := ((hpOf s p).lateTags.filter fun x => decide (lo ≤ x.1 ∧ x.1 < lo + n)).length
  min (n - (s.reads.filter fun r => decide (r.2.eng = e)).length - late) (8192 - readsOut s p)

/-- Hand one read request to the transaction layer under a free tag (R391). -/
def handRead (s : State) (p e c : Nat) (d : Desc) (t : Xfer) (off n : Nat) : State :=
  match freeTag s p e with
  | some tag =>
    let r : RdReq :=
      { port := p, fn := ownerFn t.tenant, eng := e, ch := c, xid := d.xid, host := d.host + off, mere := d.mere + off,
        len := n, since := s.clk, gens := t.gens }
    emit { s with reads := mset s.reads (p * 16384 + tag) r }
      (.hostRead .dma (asPort p) (ownerPasid s t.tenant) (d.host + off) n (xferAttr s t false))
  | none => s

/-- Hand one write request to the transaction layer (R391). -/
def handWrite (s : State) (p e c : Nat) (d : Desc) (t : Xfer) (off n : Nat) : State :=
  let s := storeTouch s (d.mere + off) n
  { s with wreqs := s.wreqs ++ [{
      port := p, eng := e, ch := c, xid := d.xid, host := d.host + off, bytes := storeRead s (d.mere + off) n,
      pasid := d.pasid, gens := t.gens, attr := xferAttr s t true }] }

/-- What a burst leads to: nothing more, the end of a transfer whose last write has been handed, or the failure of one
whose data could not be corrected. -/
inductive BurstEnd where
  | on
  | done (x : Nat)
  | failed (x : Nat)

/-- One burst of a copy inside the Mere (R399): the data, or where a block of it cannot be corrected. -/
def mereBurst (s : State) (d : Desc) (n : Nat) (ecc : Ecc) : Option Nat × State :=
  let near := d.mere + d.handed
  let far := d.host + d.handed
  let src := if d.toHost then near else far
  let s := storeMeet s src n ecc
  let lost := lostAt s src n ecc
  (lost, storeWrite s (if d.toHost then far else near) (storeRead s src (lost.getD n)))

/-- Hand one burst of a channel's active descriptor (R391). Nothing comes about unless the channel is ACTIVE on an engine that
issues and the function may request. `ecc`: what the codes find in the blocks of a write burst; no request is
issued for a block that cannot be corrected or after it (R234). -/
def burst (s : State) (e c : Nat) (ecc : Ecc) : State × BurstEnd :=
  let k := chanOf s e c
  match k.act with
  | none => (s, .on)
  | some d =>
    match mget? s.xfers d.xid with
    | none => (s, .on)
    | some t =>
      let p := t.port
      let g := (engOf s e).st
      if k.st ≠ .active ∨ ¬ (g = .running ∨ g = .stopping) ∨ !running s ∨ (!d.inside ∧ !ownerCanReq s p t.tenant) then
        (s, .on)
      else
        let n := min (burstBytes s p) (d.len - d.handed)
        let fn := fnOf s p (ownerFn t.tenant)
        let d' := { d with handed := d.handed + n }
        let step (s : State) : State :=
          let s := modChan s e c fun k => { k with act := some d' }
          if d'.handed = d.len then stopCheck (boundary s e c) e else s
        if d.inside then
          match mereBurst s d n ecc with
          | (some _, s) => (s, .failed d.xid)
          | (none, s) =>
            let s := { s with xfers := mset s.xfers d.xid { t with left := t.left - n } }
            (step s, if t.left ≤ n then .done d.xid else .on)
        else if d.toHost then
          let reqs := cutReqs d.host fn.mps n d.handed n
          let s := storeEcc s (d.mere + d.handed) n ecc
          match lostAt s (d.mere + d.handed) n ecc with
          | some b =>
            let good := reqs.filter fun r => decide (r.1 + r.2 ≤ d.handed + b)
            (good.foldl (fun s r => handWrite s p e c d t r.1 r.2) s, .failed d.xid)
          | none =>
            let s := reqs.foldl (fun s r => handWrite s p e c d t r.1 r.2) s
            let s := { s with xfers := mset s.xfers d.xid { t with left := t.left - n } }
            (step s, if t.left ≤ n then .done d.xid else .on)
        else
          let reqs := cutReqs d.host fn.mrrs n d.handed n
          if freeTags s p e < reqs.length then (s, .on)
          else (step (reqs.foldl (fun s r => handRead s p e c d t r.1 r.2) s), .on)

/-- DMA_WRITE_LEAVE: the oldest write request handed that may leave does, or is dropped when it has been withdrawn or a generation
has advanced (R397). None passes an earlier one of its channel (R392). Nothing leaves while the device is FATAL (R428) or the
function may not request (R88). -/
def execDmaWriteLeave (s : State) : Host.Outcome State Fault Refusal :=
  match (leaveSplit s (fun _ => true) [] s.wreqs).1 with
  | w :: _ => .next (writeLeave { s with wreqs := s.wreqs.erase w } w)
  | [] => .next s

/-- The engine DX_ENG_SEL names on a port (R400). -/
def selEngine (s : State) (p : Nat) : Option Nat := (portEngines s p)[rd s F.DX_ENG_SEL_ENG 0 p]?

/-- DX_ENG_CTRL.STOP: a RUNNING engine is STOPPING; idle channels are STOPPED (R393, R394). -/
def engStop (s : State) (p : Nat) : State :=
  match selEngine s p with
  | some e =>
    if (engOf s e).st = .running then
      stopCheck (modEng s e fun g => { g with
        st := .stopping,
        chans := mmap (fun _ k => if k.st = .idle then { k with st := .stopped } else k) g.chans }) e
    else s
  | none => s

/-- A stopped channel goes on: ACTIVE with its shadow, else IDLE (R393). -/
def chanResume (s : State) (e c : Nat) : State :=
  let k := chanOf s e c
  if k.st = .stopped then
    match k.shadow with
    | some d => loadShadow (modChan s e c fun k => { k with st := .active, act := some d, shadow := none }) e c d.xid
    | none => modChan s e c fun k => { k with st := .idle }
  else s

/-- DX_ENG_CTRL.RESUME: a STOPPING or STOPPED engine is RUNNING (R394). -/
def engResume (s : State) (p : Nat) : State :=
  match selEngine s p with
  | some e =>
    if (engOf s e).st = .stopping ∨ (engOf s e).st = .stopped then
      let s := modEng s e fun g => { g with st := .running }
      placeWaiting ((engOf s e).chans.foldl (fun s k => chanResume s e k.1) s) p
    else s
  | none => s

/-- A port's reset gives the state and the HALTS that DX_ENG_STATUS shows their reset values (R54, R400): a stopped engine runs
again, and a HALTED one once it has recovered; OFFLINE stays (DESIGN CHOICE, log entry 117). -/
def engReset (s : State) (e : Nat) : State :=
  let g := engOf s e
  let s := modEng s e fun g => { g with halts := [], prev := .running }
  if g.st = .stopping ∨ g.st = .stopped then
    let s := modEng s e fun g => { g with st := .running }
    placeWaiting (g.chans.foldl (fun s k => chanResume s e k.1) s) (engPort s e)
  else s

/-- DX_ENGINE_STOP (R394). -/
def execDxEngineStop (port : HostPort) (s : State) : Host.Outcome State Fault Refusal :=
  .next (regGate s port false fun s => engStop s port.val)

/-- DX_ENGINE_RESUME (R394). -/
def execDxEngineResume (port : HostPort) (s : State) : Host.Outcome State Fault Refusal :=
  .next (regGate s port false fun s => engResume s port.val)

/-- The halts of an engine within the last second exceed HALT_MAX (R394). -/
def haltsOver (s : State) (e : Nat) : Bool :=
  decide (((engOf s e).halts.filter fun t => decide (s.clk - t < 1000000000000)).length >
    rd s F.DX_CFG_HALT_MAX 0 (engPort s e))

/-- A HALTED engine that has halted too often is OFFLINE (R394). -/
def offCheck (s : State) (e : Nat) : State :=
  if haltsOver s e then raise (modEng s e fun g => { g with st := .offline, chans := [] }) .dxEngOffline e else s

/-- ENGINE_RECOVER: every tag of a HALTED engine has cleared; it goes back to the state it held, or OFFLINE when it has
halted more than HALT_MAX times within 1 s (R394). -/
def execEngineRecover (eng : Fin 16) (s : State) : Host.Outcome State Fault Refusal :=
  let e := eng.val
  let g := engOf s e
  if g.st = .halted ∧ !(s.reads.any fun r => decide (r.2.eng = e)) then
    let p := engPort s e
    let recent := g.halts.filter fun t => decide (s.clk - t < 1000000000000)
    if haltsOver s e then .next (offCheck s e)
    else
      let s := modEng s e fun g => { g with
        st := g.prev, halts := recent, chans := [] }
      .next (placeWaiting (stopCheck s e) p)
  else .next s

end Sys2Proof.Machine
end

