-- ==== Sys2Proof/Machine/Queues.lean ====
section
/-! DEFINITION. The queue engine: admin queue, rings and their decoding, the doorbell scanner, push windows, and the
commands that create, query and destroy queues (05_queues.md). -/
namespace Sys2Proof.Machine

/-! ### The doorbell scanner -/

/-- Raw bandwidth of a port per direction in bytes/s, at the active width (R115). -/
def rawBandwidth (s : State) (p : Nat) : Nat :=
  let h := hpOf s p
  let gt := [0, 25, 50, 80, 160, 320, 640, 1280].getD h.speed 0
  gt * 100000000 * (h.l0p.getD h.width) / 8

/-- The scan budget B in reads per 64,000 s, which is whole (R115). -/
def scanBudget (s : State) (p : Nat) : Nat := rd s F.QM_SCAN_CFG_BUDGET 0 p * rawBandwidth s p

/-- SQs of a port in a scan state; the admin SQ counts as HOT while the admin queue is ACTIVE (R98, R125). -/
def scanCount (s : State) (p : Nat) (c : Scan) : Nat :=
  s.sqs.foldl (fun n x =>
    if x.2.port = p ∧ !x.2.stopped ∧ x.2.scan = c ∧ (x.1 < 2 ^ 20 ∨ (hpOf s p).aq.active) then n + 1 else n) 0

/-- HOT_PERIOD in µs. -/
def hotPeriod (s : State) (p : Nat) : Nat := rd s F.QM_SCAN_CFG_HOT_PERIOD 0 p

/-- n HOT queues, each read once per HOT_PERIOD, fit HOT_SHARE percent of B (R108, R116); both sides in reads per
64,000 s and multiplied by the period. -/
def hotFits (s : State) (p n : Nat) : Bool :=
  n * 1000000 * 64000 * 100 ≤ rd s F.QM_SCAN_CFG_HOT_SHARE 0 p * scanBudget s p * hotPeriod s p

/-- The queue among `l` whose last new work lies furthest back; the lower index on a tie. -/
def leastRecent (l : List (Nat × Sq)) : Option Nat :=
  (l.foldl (fun b x =>
    match b with
    | none => some (x.1, x.2.lastWork)
    | some (i, w) => if x.2.lastWork < w then some (x.1, x.2.lastWork) else some (i, w)) none).map (·.1)

/-- Demote to WARM the unpinned HOT queue whose last new work lies furthest in the past (R116). -/
def demoteHot (s : State) (p : Nat) : Option State :=
  match leastRecent (s.sqs.filter fun x =>
      decide (x.2.port = p ∧ x.2.scan = .hot ∧ x.1 < 2 ^ 20) && !x.2.pin && !x.2.stopped) with
  | some v =>
    let s := modSq s v fun q => { q with scan := .warm, idle := 0, idleAt := s.clk }
    some (raise (modHp s p fun h => { h with demoteCnt := satInc 65535 h.demoteCnt }) .qmScanDemote (sqHandle s v))
  | none => none

/-- Make room for one more HOT queue under the cap of a port: unpinned HOT queues are demoted until it fits, or none is left
(R116). The answer says whether it fits. -/
def makeRoom (s : State) (p : Nat) : Nat → State × Bool
  | 0 => (s, hotFits s p (scanCount s p .hot + 1))
  | n + 1 =>
    if hotFits s p (scanCount s p .hot + 1) then (s, true)
    else
      match demoteHot s p with
      | some s => makeRoom s p n
      | none => (s, false)

/-- New work was found: the SQ becomes HOT if the HOT cap allows, demoting the least recently active unpinned HOT queues
when it does not; if every HOT queue is pinned it becomes WARM (R116). -/
def promote (s : State) (i : Nat) : State :=
  match mget? s.sqs i with
  | none => s
  | some q =>
    let s := modSq s i fun q => { q with lastWork := s.clk, idle := 0, idleAt := s.clk }
    if q.scan = .hot then s
    else
      let r := makeRoom s q.port (scanCount s q.port .hot)
      modSq r.1 i fun q => { q with scan := if r.2 then .hot else .warm }

/-- An SQ is pinned, and so HOT, whatever the cap: the cap then demotes unpinned HOT queues (R116). -/
def pinHot (s : State) (i : Nat) (p : Nat) : State :=
  if ((mget? s.sqs i).map (·.scan)) = some .hot then s
  else modSq (makeRoom s p (scanCount s p .hot)).1 i fun q => { q with scan := .hot, idle := 0, idleAt := s.clk }

/-- The admin SQ exists only while the admin queue is ACTIVE (R98). -/
def sqLive (s : State) (i : Nat) (q : Sq) : Bool :=
  !q.stopped && q.drain.isNone && (decide (i < 2 ^ 20) || (hpOf s q.port).aq.active)

/-- Scan period of an SQ in ps (R116, R117). -/
def scanPeriod (s : State) (q : Sq) : Nat :=
  match q.scan with
  | .hot => usec (rd s F.QM_SCAN_CFG_HOT_PERIOD 0 q.port)
  | .warm => usec 64 * (hpOf s q.port).stretch / 256
  | .cold => msec 1 * (hpOf s q.port).stretch / 256

/-- Doorbell-record reads of a port in the last 1 ms. -/
def recentReads (s : State) (p : Nat) : List Nat := (hpOf s p).scanReads.filter fun t => decide (s.clk < t + msec 1)

/-- The scanner may make one more read on a port: it makes no more than B x 1 ms in any 1 ms (R115). -/
def scanRoom (s : State) (p : Nat) : Bool := decide (((recentReads s p).length + 1) * 1000 * 64000 ≤ scanBudget s p)

/-- DOORBELL_SCAN_DUE: the period has passed and the budget allows one more read in this 1 ms (R115, R116, R118). -/
def execDoorbellScanDue (sq : Nat) (s : State) : Host.Outcome State Fault Refusal :=
  match mget? s.sqs sq with
  | none => .next s
  | some q =>
    if sqLive s sq q ∧ !scanPaused s q ∧ !q.dbReading ∧ s.clk ≥ q.lastScan + scanPeriod s q ∧
        mayRead s q.port q.owner ∧ scanRoom s q.port then
      let s := modSq s sq fun q => { q with dbReading := true, lastScan := s.clk }
      let s := modHp s q.port fun h => { h with scanReads := s.clk :: recentReads s q.port }
      .next (hostRead s (.doorbell sq) q.port q.owner q.db 8)
    else .next s

/-- Stop an SQ for its own error: the event, and SQ_STOPPED in the EQ of its CQ (R111, R136). SOURCE is 0 for
the admin SQ, which has no handle (DESIGN CHOICE, log entry 119). -/
def sqError (s : State) (i : Nat) (q : Sq) (r : QReason) (e : Ev) : State :=
  let h := if i < 2 ^ 20 then sqHandle s i else 0
  let s := raise (stopSq s i r) e (if i < 2 ^ 20 then h else q.port)
  match mget? s.cqs q.cq with
  | some c =>
    match cqEq s q.cq c with
    | some eq => eqPost s eq ⟨3, h, reasonCode r⟩
    | none => s
  | none => s

/-- A doorbell record: the generation at major 2, then d = PI - P_DEV (R114). The admin record has no generation check
(R98). -/
def doorbell (s : State) (i : Nat) (q : Sq) (pi seq : Nat) : State :=
  let s := modSq s i fun q => { q with seq := seq }
  let d := ringFill pi q.pdev
  if i < 2 ^ 20 ∧ (hpOf s q.port).aq.abi = 2 ∧ bitsOf seq 31 24 ≠ gen s 1 i then
    let s := modHp s q.port fun h => { h with staleCnt := satInc 65535 h.staleCnt }
    if q.told then s else raise (modSq s i fun q => { q with told := true }) .qmDbStale (sqHandle s i)
  else if d = 0 ∨ d ≥ 2 ^ 31 then s
  else if ringFill pi q.ci ≤ 2 ^ q.log2 then promote (modSq s i fun q => { q with pdev := pi }) i
  else sqError s i q .dbRange .qmDbRange

/-! ### Pushed records (R120, R121, R123) -/

/-- Key of a push slot. -/
def slotKey (t k : Nat) : Nat := t * 32 + k

/-- Change a tenant. -/
def modTen (s : State) (t : Nat) (f : Tenant → Tenant) : State := { s with tens := mmod s.tens t f }

/-- A credit comes back, with or without the record having been discarded (R120, R122). -/
def creditBack (s : State) (t : Nat) (f : Tenant → Tenant) : State :=
  modTen s t fun x => { f x with returned := (x.returned + 1) % 2 ^ 32, creditDirty := true }

/-- A record is discarded: the event at most once per tenant and epoch, whatever the tenant's generation (R120). -/
def pushDiscard (s : State) (t : Nat) : State :=
  raiseOnceFor (modTen s t fun x => { x with discarded := (x.discarded + 1) % 2 ^ 32, creditDirty := true })
    .qmPushDiscard (tenHandle s t) t

/-- Cut bytes into n entries of 64 bytes. -/
def bytesToEntries (b : List Byte) (n : Nat) : List Entry :=
  (List.range n).map fun i => ⟨(List.range 16).map fun j => BitVec.ofNat 32 (leAt b (64 * i + 4 * j) 4)⟩

/-- The checks of R121 on a complete record against its tenant: the SQ and its entries when all pass. -/
def pushCheck (s : State) (t : Nat) (b : Map Byte) : Option (Nat × Nat × List Entry) :=
  let byte (a : Nat) : Byte := mget 0 b a
  let bytes := (List.range 512).map byte
  let h := leAt bytes 0 4
  let start := leAt bytes 4 4
  let w2 := leAt bytes 8 4
  let n := w2 % 8
  let i := hIdx h
  if hKind h = 1 ∧ hGen h = gen s 1 i then
    match mget? s.sqs i with
    | some q =>
      if q.owner = some t ∧ !q.stopped ∧ q.drain.isNone ∧ q.pushEn ∧ 1 ≤ n ∧ n ≤ 4 ∧ w2 < 8 ∧
          (bytes.drop 12).take 52 = List.replicate 52 0 ∧ (bytes.drop 320).all (· = 0) ∧ start = q.pdev ∧
          ringFill ((start + n) % 2 ^ 32) q.ci ≤ 2 ^ q.log2 then
        some (i, n, bytesToEntries (bytes.drop 64) n)
      else none
    | none => none
  else none

/-- Take the entries of a push at P_DEV. -/
def pushTake (s : State) (i : Nat) (es : List Entry) : State :=
  modSq s i fun q =>
    es.foldl (fun q e => { q with pushed := mset q.pushed q.pdev e, pdev := (q.pdev + 1) % 2 ^ 32 }) q

/-- The SQ index a complete record names. -/
def pushSq (sl : PushSlot) : Nat := hIdx (leAt ((List.range 4).map (mget 0 sl.bytes)) 0 4)

/-- Of two complete records, the first was complete before the other; in one PCLK the lower slot is (R123;
DESIGN CHOICE, log entry 123). -/
def pushFirst (a b : Nat × PushSlot) : Bool :=
  decide (a.2.since < b.2.since ∨ (a.2.since = b.2.since ∧ a.1 < b.1))

/-- The validation of a slot's record ends: its entries are taken, or it is discarded (R120, R121). -/
def pushEnd (s : State) (k : Nat) : State :=
  let t := k / 32
  match mget? s.slots k with
  | none => s
  | some sl =>
    let s := { s with slots := mdel s.slots k }
    match pushCheck s t sl.bytes with
    | some (i, _, es) => creditBack (promote (pushTake s i es) i) t id
    | none => pushDiscard (creditBack s t fun x => { x with invalid := (x.invalid + 1) % 2 ^ 32 }) t

/-- The complete records for an SQ that a test accepts are validated in order, before what comes behind them (R123). -/
def pushesTaken (s : State) (i : Nat) (mine : Nat × PushSlot → Bool) : State :=
  let ks := s.slots.filter fun x => decide (x.2.st = .validating ∧ pushSq x.2 = i) && mine x
  (ks.foldr (insertBy pushFirst) []).foldl (fun s x => pushEnd s x.1) s

/-- A doorbell record has been read; the pushes for the SQ are handled first (R123). A failed read leaves P_DEV unchanged (R82,
R114). -/
def doorbellRead (s : State) (sq : Nat) (data : HostData) : State :=
  match mget? s.sqs sq with
  | none => s
  | some q =>
    if !q.dbReading then s
    else
      let s := pushesTaken (modSq s sq fun q => { q with dbReading := false }) sq fun _ => true
      match data, mget? s.sqs sq with
      | .ok b, some q => if sqLive s sq q then doorbell s sq q (leAt b 0 4) (leAt b 4 4) else s
      | _, _ => s

/-- DOORBELL_RECORD_READ (R114). A read that times out ends with CPL_TIMEOUT. -/
def execDoorbellRecordRead (sq : Nat) (data : HostData) (s : State) : Host.Outcome State Fault Refusal :=
  if running s ∧ data ≠ .timeout then .next (takeRead s (.doorbell sq) fun s => doorbellRead s sq data) else .next s

/-- HOT_IDLE_EXPIRE (R116, R118). -/
def execHotIdleExpire (sq : Nat) (s : State) : Host.Outcome State Fault Refusal :=
  match mget? s.sqs sq with
  | some q =>
    if q.scan = .hot ∧ !q.pin ∧ sq < 2 ^ 20 ∧ idleNow s q ≥ usec (16 * rd s F.QM_SCAN_IDLE_HOT_IDLE 0 q.port) then
      .next (modSq s sq fun q => { q with scan := .warm, idle := 0, idleAt := s.clk })
    else .next s
  | none => .next s

/-- WARM_IDLE_EXPIRE (R116, R118). -/
def execWarmIdleExpire (sq : Nat) (s : State) : Host.Outcome State Fault Refusal :=
  match mget? s.sqs sq with
  | some q =>
    if q.scan = .warm ∧ idleNow s q ≥ msec (rd s F.QM_SCAN_IDLE_WARM_IDLE 0 q.port) then
      .next (modSq s sq fun q => { q with scan := .cold, idle := 0, idleAt := s.clk })
    else .next s
  | none => .next s

/-- The stretch factor in 1/256 units, rounded up (R117), both terms of the quotient in reads per 64,000 s times the HOT
period. Where the HOT reads leave no budget the quotient has no value: then f is a free value of at least 1. A value that the
field of STRETCH cannot hold shows as its greatest (log entry 13). -/
def stretchOf (s : State) (p : Nat) : Nat :=
  let demand := (scanCount s p .warm * 15625 + scanCount s p .cold * 1000) * 64000 * hotPeriod s p
  let hr := scanCount s p .hot * 1000000 * 64000
  let b := scanBudget s p * hotPeriod s p
  if demand = 0 then 256
  else if b ≤ hr then max 256 ((Config.openWord s.free).toNat % 2 ^ 20)
  else min (2 ^ 20 - 1) (max 256 (ceilDiv (demand * 256) (b - hr)))

/-- Demote WARM queues to COLD, the least recently active first, until f is at most 16 (R117). -/
def stretchDemote (s : State) (p : Nat) : Nat → State
  | 0 => s
  | n + 1 =>
    if stretchOf s p > 16 * 256 then
      match leastRecent (s.sqs.filter fun x => decide (x.2.port = p ∧ x.2.scan = .warm) && !x.2.stopped) with
      | some v => stretchDemote (modSq s v fun q => { q with scan := .cold, idle := 0, idleAt := s.clk }) p n
      | none => s
    else s

/-- STRETCH_COMPUTE, every 16 µs (R117). -/
def execStretchCompute (port : HostPort) (s : State) : Host.Outcome State Fault Refusal :=
  if running s ∧ s.clk ≥ (hpOf s port.val).stretchAt + usec 16 then
    let s := stretchDemote s port.val (scanCount s port.val .warm)
    .next (bumpFree (modHp s port.val fun h => { h with stretch := stretchOf s port.val, stretchAt := s.clk }))
  else .next s

/-! ### Decoding a ring (R105) -/

/-- Header fields of an entry (R102). -/
def eFirst (e : Entry) : Bool := bitOf (dw e 0) 14
def eLast (e : Entry) : Bool := bitOf (dw e 0) 15
def eCid (e : Entry) : Nat := bitsOf (dw e 0) 31 16
def eCnt (e : Entry) : Nat := bitsOf (dw e 2) 31 24

/-- Longest chain at an ABI major (R106). -/
def chainMax (abi : Nat) : Nat := if abi = 1 then 4 else 16

/-- What the decoder makes of an open chain. -/
inductive ChainEnd where
  | wait
  | done (ents : List Entry) (bad : Bool) (rest : List Entry) (skip : Nat)

/-- Walk an open chain: `got` its entries so far, `l` the entries that follow (R105). An entry that differs or is one too many
after CHAIN_CNT entries have been taken is still consumed with the chain, which the rule does not settle (DESIGN CHOICE, log
entry 108). -/
def walkChain (first : Entry) (mx : Nat) (got : List Entry) : List Entry → ChainEnd
  | [] => .wait
  | e :: t =>
    if eFirst e then .done got true (e :: t) 0
    else if opOf e ≠ opOf first ∨ eCid e ≠ eCid first ∨ got.length + 1 > mx then
      .done got true (e :: t) (max 1 (eCnt first - got.length))
    else if eLast e then .done (got ++ [e]) (decide (got.length + 1 ≠ eCnt first)) t 0
    else walkChain first mx (got ++ [e]) t

/-- Decode the entries read from a ring into jobs; CI advances over the entries of each (R105, R124). An entry with FIRST set
among the rest of a failed chain ends the consuming and opens a job, which the rule does not settle (DESIGN CHOICE, log entry
108). -/
def decodeRing (mx : Nat) (admin : Bool) : Nat → Sq → Sq
  | 0, q => q
  | n + 1, q =>
    match q.ents with
    | [] => q
    | e :: t =>
      let ci' := (q.ci + 1) % 2 ^ 32
      if q.skip > 0 ∧ !eFirst e then
        decodeRing mx admin n { q with ents := t, ci := ci', skip := if eLast e then 0 else q.skip - 1 }
      else if q.skip > 0 then decodeRing mx admin n { q with skip := 0 }
      else if !eFirst e ∨ (admin ∧ !eLast e) then
        decodeRing mx admin n { q with ents := t, ci := ci', decoded := q.decoded ++ [⟨[e], true⟩] }
      else if eLast e then
        decodeRing mx admin n { q with
          ents := t, ci := ci', decoded := q.decoded ++ [⟨[e], decide (eCnt e ≠ 1)⟩] }
      else
        match walkChain e mx [e] t with
        | .wait => q
        | .done g bad r k =>
          decodeRing mx admin n { q with
            ents := r, ci := (q.ci + g.length) % 2 ^ 32, skip := k, decoded := q.decoded ++ [⟨g, bad⟩] }

/-- Decode what an SQ has read. -/
def decodeSq (s : State) (i : Nat) : State :=
  modSq s i fun q =>
    decodeRing (chainMax (hpOf s q.port).aq.abi) (decide (i ≥ 2 ^ 20)) (2 * q.ents.length + 1) q

/-- Take pushed entries whose index the fetch has reached (R119, R123). -/
def takePushed : Nat → Sq → Sq
  | 0, q => q
  | n + 1, q =>
    match mget? q.pushed q.rd with
    | some e =>
      takePushed n { q with ents := q.ents ++ [e], pushed := mdel q.pushed q.rd, rd := (q.rd + 1) % 2 ^ 32 }
    | none => q

/-- How many entries the next ring read takes: at most 16, not across the end of the ring, not beyond P_DEV, and not a
pushed entry (R119, R124). -/
def fetchLen (q : Sq) : Nat :=
  let size := 2 ^ q.log2
  let n := min (min 16 (ringFill q.pdev q.rd)) (size - q.rd % size)
  ((List.range n).takeWhile fun k => (mget? q.pushed ((q.rd + k) % 2 ^ 32)).isNone).length

/-- SQ_FETCH (R124). -/
def execSqFetch (sq : Nat) (s : State) : Host.Outcome State Fault Refusal :=
  match mget? s.sqs sq with
  | none => .next s
  | some q =>
    if !sqLive s sq q ∨ q.reading.isSome ∨ q.rd = q.pdev ∨ stalled s q ∨ !mayRead s q.port q.owner then .next s
    else
      let s := decodeSq (modSq s sq (takePushed q.pushed.length)) sq
      match mget? s.sqs sq with
      | none => .next s
      | some q =>
        let n := fetchLen q
        if n = 0 then .next s
        else
          .next (hostRead (modSq s sq fun q => { q with reading := some (q.rd, n) }) (.ring sq) q.port q.owner
            (q.ring + q.rd % 2 ^ q.log2 * 64) (64 * n) q.noSnoop)

/-- Ring entries have been read: they are decoded, or the SQ is STOPPED with FETCH_ERROR (R105, R111). -/
def ringRead (s : State) (sq : Nat) (data : HostData) : State :=
  match mget? s.sqs sq with
  | none => s
  | some q =>
    match q.reading with
    | none => s
    | some (i, n) =>
      let s := modSq s sq fun q => { q with reading := none }
      if !sqLive s sq q then s
      else
        match data with
        | .ok b =>
          let s := modSq s sq fun q => { q with rd := (i + n) % 2 ^ 32, ents := q.ents ++ bytesToEntries b n }
          decodeSq (modSq s sq fun q => takePushed q.pushed.length q) sq
        | _ => sqError s sq q .fetchError .qmFetchErr

/-- SQ_RING_READ_END (R105, R111). A read that times out ends with CPL_TIMEOUT. -/
def execSqRingReadEnd (sq : Nat) (data : HostData) (s : State) : Host.Outcome State Fault Refusal :=
  if running s ∧ data ≠ .timeout then .next (takeRead s (.ring sq) fun s => ringRead s sq data) else .next s

/-! ### Push windows (R119 to R123) -/

/-- Page t is live on a port (R56). -/
def pageLive (s : State) (p t : Nat) : Bool :=
  match mget? s.tens t with
  | some x => x.home = p && (decide (x.st = .enabled) || decide (x.st = .fencing))
  | none => false

/-- Slots of a tenant that are not IDLE. -/
def busySlots (s : State) (t : Nat) : Nat := (s.slots.filter fun x => x.1 / 32 = t).length

/-- The header and all COUNT entries are present. -/
def pushComplete (b : Map Byte) : Bool :=
  let have_ (a n : Nat) := (List.range n).all fun i => (mget? b (a + i)).isSome
  have_ 0 64 && have_ 64 (64 * min 4 ((mget 0 b 8).toNat % 8))

/-- Store bytes in an assembling slot; none when a byte is written twice. -/
def pushStore (b : Map Byte) (o : Nat) : List Byte → Option (Map Byte)
  | [] => some b
  | x :: t => if o ≥ 512 then some b else if (mget? b o).isSome then none else pushStore (mset b o x) (o + 1) t

/-- A write into an assembling slot (R120). -/
def pushAssemble (s : State) (t k o : Nat) (bytes : List Byte) (sl : PushSlot) : State :=
  match pushStore sl.bytes o bytes with
  | none =>
    let s := { s with slots := mdel s.slots (slotKey t k) }
    pushDiscard (creditBack s t fun x => { x with torn := (x.torn + 1) % 2 ^ 32 }) t
  | some b =>
    let st : SlotSt := if pushComplete b then .validating else .assembling
    let sl' := { sl with bytes := b, st := st, since := s.clk }
    { s with slots := mset s.slots (slotKey t k) sl' }

/-- Count a write beyond credit. -/
def overCredit (s : State) (t : Nat) : State := modTen s t fun x => { x with overCr := (x.overCr + 1) % 2 ^ 32 }

/-- A write to a slot of a live page (R120). -/
def slotWrite (s : State) (t k o : Nat) (bytes : List Byte) : State :=
  match mget? s.slots (slotKey t k) with
  | none =>
    if busySlots s t < ((mget? s.tens t).map (·.credits)).getD 0 then
      pushAssemble s t k o bytes { st := .assembling, start := s.clk }
    else
      pushDiscard (overCredit { s with slots := mset s.slots (slotKey t k) { st := .refused, start := s.clk } } t) t
  | some sl =>
    match sl.st with
    | .assembling => pushAssemble s t k o bytes sl
    | .validating => overCredit s t
    | .refused => { s with slots := mset s.slots (slotKey t k) { sl with start := s.clk } }
    | .idle => s

/-- PUSH_SLOT_WRITE (R56, R120). -/
def execPushSlotWrite (port : HostPort) (tenant : TenantId) (slot : Fin 32) (offset : Fin 512) (bytes : List Byte)
    (s : State) : Host.Outcome State Fault Refusal :=
  .next (barGate s port .pf1 fun s =>
    if !running s then s
    else if pageLive s port.val tenant.val then slotWrite s tenant.val slot.val offset.val bytes
    else modTen s tenant.val fun x => { x with notLive := (x.notLive + 1) % 2 ^ 32 })

/-- PUSH_VALIDATE (R121, R123). -/
def execPushValidate (tenant : TenantId) (slot : Fin 32) (s : State) : Host.Outcome State Fault Refusal :=
  let k := slotKey tenant.val slot.val
  match mget? s.slots k with
  | none => .next s
  | some sl =>
    if sl.st ≠ .validating ∨ !running s then .next s
    else .next (pushEnd (pushesTaken s (pushSq sl) fun x => pushFirst x (k, sl)) k)

/-- Assembly timeout of the tenant's port (R120). -/
def asmTimeout (s : State) (t : Nat) : Nat :=
  usec (rd s F.QM_PUSH_CFG_ASM_TIMEOUT 0 (((mget? s.tens t).map (·.home)).getD 0))

/-- PUSH_ASM_TIMEOUT: an incomplete record is discarded as TORN (R120). -/
def execPushAsmTimeout (tenant : TenantId) (slot : Fin 32) (s : State) : Host.Outcome State Fault Refusal :=
  let t := tenant.val
  match mget? s.slots (slotKey t slot.val) with
  | some sl =>
    if sl.st = .assembling ∧ s.clk ≥ sl.start + asmTimeout s t ∧ running s then
      let s := { s with slots := mdel s.slots (slotKey t slot.val) }
      .next (pushDiscard (creditBack s t fun x => { x with torn := (x.torn + 1) % 2 ^ 32 }) t)
    else .next s
  | none => .next s

/-- PUSH_REFUSED_TIMEOUT: a REFUSED slot without a write returns to IDLE (R120). -/
def execPushRefusedTimeout (tenant : TenantId) (slot : Fin 32) (s : State) : Host.Outcome State Fault Refusal :=
  let t := tenant.val
  match mget? s.slots (slotKey t slot.val) with
  | some sl =>
    if sl.st = .refused ∧ s.clk ≥ sl.start + asmTimeout s t ∧ running s then
      .next { s with slots := mdel s.slots (slotKey t slot.val) }
    else .next s
  | none => .next s

/-- CREDIT_WORD_WRITE (R122). -/
def execCreditWordWrite (tenant : TenantId) (s : State) : Host.Outcome State Fault Refusal :=
  match mget? s.tens tenant.val with
  | some x =>
    if x.creditDirty ∧ x.creditAddr ≠ 0 ∧ ownerCanReq s x.home (some tenant.val) then
      let s := hostWrite s x.home (some tenant.val) x.creditAddr (leBytes 4 x.returned ++ leBytes 4 x.discarded)
      .next (modTen s tenant.val fun x => { x with creditDirty := false })
    else .next s
  | none => .next s

/-! ### The admin queue (R96 to R99, R493) -/

/-- Highest queue ABI major the device offers (R17, R446). -/
def qabiMax (s : State) : Nat := if level s = 1 then 1 else 2

/-- The major that meets the conditions of R97. -/
def chooseAbi (s : State) (lo hi : Nat) : Option Nat :=
  if lo ≤ 2 ∧ 2 ≤ hi ∧ 2 ≤ qabiMax s then some 2 else if lo ≤ 1 ∧ 1 ≤ hi then some 1 else none

/-- A 64-bit address in a low and a high register of a port. -/
def reg64 (s : State) (lo hi p : Nat) : Nat := rget s lo p + rget s hi p * 2 ^ 32

/-- ENABLE is refused: ERR, and ENABLE returns to 0 (R97). -/
def aqRefuse (s : State) (p err : Nat) : State :=
  modHp (wr s F.QM_AQ_CTRL_ENABLE 0 p 0) p fun h => { h with aq := { h.aq with err := err } }

/-- Entry into ACTIVE: the rings are taken from the registers, all indices 0 (R96, R493). A completion that waits from before
the last ENABLE was cleared goes to the new ring, and ERR returns to 0 (DESIGN CHOICE, log entry 109). -/
def aqStart (s : State) (p abi : Nat) : State :=
  let sq : Sq := {
    port := p, owner := none, ring := reg64 s F.QM_AQ_SQ_LO_ADDR_LO.off F.QM_AQ_SQ_HI_ADDR_HI.off p,
    db := reg64 s F.QM_AQ_DB_LO_ADDR_LO.off F.QM_AQ_DB_HI_ADDR_HI.off p, cq := admKey p,
    log2 := rd s F.QM_AQ_CFG_SQ_LOG2 0 p, inflMax := 1, scan := .hot, lastScan := s.clk, idleAt := s.clk }
  let cq : Cq := {
    port := p, owner := none, ring := reg64 s F.QM_AQ_CQ_LO_ADDR_LO.off F.QM_AQ_CQ_HI_ADDR_HI.off p,
    log2 := rd s F.QM_AQ_CFG_CQ_LOG2 0 p, eq := none, allow := 1
    fin := match mget? s.cqs (admKey p) with | some q => q.spill ++ q.fin | none => [] }
  let s := wr (dropSys s (ofQueue (admKey p))) F.QM_AQ_CTRL_ENABLE 0 p 1
  let s := (makeRoom { s with sqs := mdel s.sqs (admKey p) } p (scanCount s p .hot)).1
  modHp { s with sqs := mset s.sqs (admKey p) sq, cqs := mset s.cqs (admKey p) cq } p
    fun h => { h with aq := { h.aq with active := true, abi := abi, err := 0 } }

/-- ENABLE set (R97). -/
def aqEnable (s : State) (p : Nat) : State :=
  let aq := (hpOf s p).aq
  let lo := rd s F.QM_AQ_CFG_ABI_MIN 0 p
  let hi := rd s F.QM_AQ_CFG_ABI_MAX 0 p
  if aq.active then s
  else if !(hpOf s p).f0.bme then aqRefuse s p 3
  else if aq.abi = 0 then
    match chooseAbi s lo hi with
    | some a => aqStart s p a
    | none => raise (aqRefuse s p 1) .qmAqNoAbi p
  else if lo ≤ aq.abi ∧ aq.abi ≤ hi then aqStart s p aq.abi
  else aqRefuse s p 2

/-- ENABLE cleared: entries not started are discarded; the executing command goes on (R97). -/
def aqDisable (s : State) (p : Nat) : State :=
  let s := wr s F.QM_AQ_CTRL_ENABLE 0 p 0
  let s := modHp s p fun h => { h with aq := { h.aq with active := false } }
  let s := dropSys s fun r => decide (r.what = .doorbell (admKey p) ∨ r.what = .ring (admKey p))
  modSq s (admKey p) fun q => { q with ents := [], decoded := [], pushed := [], reading := none, dbReading := false }

/-- AQ_ENABLE (R97). -/
def execAqEnable (port : HostPort) (s : State) : Host.Outcome State Fault Refusal :=
  .next (regGate s port false fun s => if running s then aqEnable s port.val else s)

/-- AQ_DISABLE (R97). -/
def execAqDisable (port : HostPort) (s : State) : Host.Outcome State Fault Refusal :=
  .next (regGate s port false fun s => aqDisable s port.val)

/-- NOP (R101). -/
def execNop (port : HostPort) (s : State) : Host.Outcome State Fault Refusal :=
  .next (adminRun s port.val 0x00 fun s e =>
    if dwZero e 4 15 then finishAdmin s port.val .success 0 else finishAdmin s port.val .invalidField 0)

/-- DNOP (R101). -/
def execDnop (uid : Nat) (s : State) : Host.Outcome State Fault Refusal :=
  .next (jobRun s uid 0x80 fun s j =>
    if j.ents.all fun e => dwZero e 4 15 then finishJob s uid .success 0
    else finishJob s uid .invalidField 0)

/-! ### Creating and destroying queues (R107 to R112) -/

/-- The owner DW1 names: a tenant, or none for the PF0 itself (R101). -/
def ownerOf (e : Entry) : Option Nat := if dw e 1 = 0 then none else some (hIdx (dw e 1))

/-- Queues a tenant owns (R146). -/
def queuesOf (s : State) (t : Nat) : Nat :=
  (s.sqs.filter fun x => x.2.owner = some t).length + (s.cqs.filter fun x => x.2.owner = some t).length +
  (s.eqs.filter fun x => x.2.owner = some t).length

/-- The index is free in the shared space (R59), and no host read of an earlier queue at it is outstanding (R63). -/
def queueFree (s : State) (i : Nat) : Bool :=
  (mget? s.sqs i).isNone && (mget? s.cqs i).isNone && (mget? s.eqs i).isNone && !s.sreads.any fun r => ofQueue i r.2

/-- A free index from a start on. -/
def scanQueue (s : State) (i : Nat) : Nat → Option Nat
  | 0 => none
  | n + 1 => if queueFree s (i % 2 ^ 20) then some (i % 2 ^ 20) else scanQueue s (i + 1) n

/-- A free index of the shared space; which one is a free value (R63, log entry 3). -/
def pickQueue (s : State) : Option Nat :=
  scanQueue s (Config.queueStart s.free).toNat (s.sqs.length + s.cqs.length + s.eqs.length + s.sreads.length + 1)

/-- Checks 5 and 6 of R108: a free index within the owner's quota, and PASID Enable. -/
def createRoom (s : State) (p : Nat) (owner : Option Nat) : Except Status Nat :=
  match pickQueue s with
  | none => .error .noResource
  | some i =>
    match owner with
    | none => .ok i
    | some t =>
      if queuesOf s t ≥ ((mget? s.tens t).map (·.queueMax)).getD 0 then .error .noResource
      else if !(hpOf s p).f1.pasidEn then .error .pasidDisabled
      else .ok i

/-- A queue handle of one kind against R61 for an owner: the owner must be the same (R108). -/
def checkQueue (s : State) (kind h : Nat) (inUse : Nat → Bool) : Option Status :=
  checkHandle (hKind h = kind) true (hGen h = gen s 1 (hIdx h)) (inUse (hIdx h))

/-- A CQ or EQ in use by an owner. -/
def cqUse (s : State) (owner : Option Nat) (p i : Nat) : Bool :=
  match mget? s.cqs i with
  | some q => q.owner = owner && q.port = p && q.drain.isNone
  | none => false
def eqUse (s : State) (owner : Option Nat) (p i : Nat) : Bool :=
  match mget? s.eqs i with
  | some q => q.owner = owner && q.port = p && q.drain.isNone
  | none => false

/-- Pinned SQs of a port, STOPPED ones among them, and the admin SQ (R108). -/
def pinnedCount (s : State) (p : Nat) : Nat := (s.sqs.filter fun x => decide (x.2.port = p) && x.2.pin).length + 1

/-- CREATE_SQ (R107, R108). -/
def createSq (s : State) (p : Nat) (e : Entry) : State :=
  let owner := ownerOf e
  let cq := hIdx (dw e 8)
  let log2 := bitsOf (dw e 9) 20 16
  let infl := bitsOf (dw e 9) 12 0
  let pin := bitOf (dw e 10) 0
  let push := bitOf (dw e 10) 1
  match checkQueue s 2 (dw e 8) (cqUse s owner p) with
  | some st => finishAdmin s p st 0
  | none =>
    if dw2 e 4 % 64 ≠ 0 ∨ dw2 e 6 % 8 ≠ 0 ∨ log2 < 4 ∨ log2 > 16 ∨ infl < 1 ∨ infl > 4096 ∨
        bitsOf (dw e 9) 31 21 ≠ 0 ∨ bitsOf (dw e 9) 15 13 ≠ 0 ∨ bitsOf (dw e 10) 31 3 ≠ 0 ∨ !dwZero e 11 15 ∨
        (push ∧ owner = none) then
      finishAdmin s p .invalidField 0
    else if (s.sqs.filter fun x => decide (x.2.cq = cq)).foldl (fun n x => n + x.2.inflMax) infl >
        ((mget? s.cqs cq).map (·.allow)).getD 0 then
      finishAdmin s p .allowanceExceeded 0
    else if pin ∧ !hotFits s p (pinnedCount s p + 1) then finishAdmin s p .scanBudget 0
    else
      match createRoom s p owner with
      | .error st => finishAdmin s p st 0
      | .ok i =>
        let q : Sq := {
          port := p, owner := owner, ring := dw2 e 4, db := dw2 e 6, cq := cq, log2 := log2, inflMax := infl,
          noSnoop := bitOf (dw e 10) 2, pushEn := push, pin := pin, lastScan := s.clk, lastWork := s.clk
          idleAt := s.clk }
        let s := bumpFree { s with sqs := mset s.sqs i q }
        finishAdmin (if pin then pinHot s i p else s) p .success (sqHandle s i)

/-- CREATE_CQ (R107, R108). Its overflow list is reserved: 33,554,432 completions in all (R220). -/
def createCq (s : State) (p : Nat) (e : Entry) : State :=
  let owner := ownerOf e
  let log2 := bitsOf (dw e 7) 20 16
  let allow := if bitsOf (dw e 7) 15 0 = 0 then 4096 else bitsOf (dw e 7) 15 0 * 16
  match (if dw e 6 = 0 then none else checkQueue s 3 (dw e 6) (eqUse s owner p)) with
  | some st => finishAdmin s p st 0
  | none =>
    if dw2 e 4 % 64 ≠ 0 ∨ log2 < 4 ∨ log2 > 20 ∨ bitsOf (dw e 7) 31 21 ≠ 0 ∨
        (bitsOf (dw e 7) 15 0 ≠ 0 ∧ (bitsOf (dw e 7) 15 0 < 4 ∨ bitsOf (dw e 7) 15 0 > 4096)) ∨
        bitsOf (dw e 8) 31 1 ≠ 0 ∨ !dwZero e 9 15 then
      finishAdmin s p .invalidField 0
    else if s.cqs.foldl (fun n x => n + x.2.allow) allow > 33554432 then finishAdmin s p .noResource 0
    else
      match createRoom s p owner with
      | .error st => finishAdmin s p st 0
      | .ok i =>
        let q : Cq := {
          port := p, owner := owner, ring := dw2 e 4, log2 := log2, allow := allow,
          eq := if dw e 6 = 0 then none else some (hIdx (dw e 6)), noSnoop := bitOf (dw e 8) 0 }
        let s := bumpFree { s with cqs := mset s.cqs i q }
        finishAdmin s p .success (cqHandle s i)

/-- CREATE_EQ (R107, R108). -/
def createEq (s : State) (p : Nat) (e : Entry) : State :=
  let owner := ownerOf e
  let log2 := bitsOf (dw e 6) 20 16
  let vec := bitsOf (dw e 6) 10 0
  if dw2 e 4 % 64 ≠ 0 ∨ log2 < 4 ∨ log2 > 16 ∨ bitsOf (dw e 6) 31 21 ≠ 0 ∨ bitsOf (dw e 6) 15 11 ≠ 0 ∨
      (owner = none ∧ (vec < 1 ∨ vec > 7)) ∨ dw e 7 < 1 ∨ dw e 7 > 4096 ∨ dw e 8 > 2000 ∨ !dwZero e 9 15 then
    finishAdmin s p .invalidField 0
  else
    match createRoom s p owner with
    | .error st => finishAdmin s p st 0
    | .ok i =>
      let q : EvQ := {
        port := p, owner := owner, ring := dw2 e 4, log2 := log2, vec := vec, modCount := dw e 7, modTimer := dw e 8 }
      let s := bumpFree { s with eqs := mset s.eqs i q }
      finishAdmin s p .success (eqHandle s i)

/-- Jobs in flight from an SQ. -/
def jobsOfSq (s : State) (i : Nat) : List Nat := (s.jobs.filter fun x => decide (x.2.sq = i)).map (·.1)

/-- A storage command goes: its staging buffer is freed, and at the target its tag stays reserved (R381, R384). -/
def sxDrop (s : State) (uid : Nat) : State :=
  match mget? s.sx.cmds uid with
  | none => s
  | some c =>
    let s := { s with sx := { s.sx with
      cmds := mdel s.sx.cmds uid
      atts := if c.st = .target then mmod s.sx.atts c.att fun a => { a with lateTags := c.tag :: a.lateTags }
        else s.sx.atts } }
    match c.buf with
    | some b => devFree s b
    | none => s

/-- A storage command whose generation has advanced stays at the target: its tag is reserved, its answer will be dropped, and
it holds its buffer until then (R384, R385). One whose buffer is with the flow cores is discarded when that comes back
(R147). -/
def sxLate (s : State) (uid : Nat) : State :=
  match mget? s.sx.cmds uid with
  | none => s
  | some c =>
    match c.st with
    | .target => { s with sx := { s.sx with
        cmds := mset s.sx.cmds uid { c with st := .late }
        atts := mmod s.sx.atts c.att fun a => { a with lateTags := c.tag :: a.lateTags } } }
    | .xts => { s with sx := { s.sx with cmds := mset s.sx.cmds uid { c with st := .dead } } }
    | _ => s

/-- A transport job goes: a message of which nothing has been sent goes with it, and so does a posted buffer (R62). -/
def tpDrop (s : State) (uid : Nat) : State :=
  s.conns.foldl (fun s x =>
    let gone := x.2.sends.filter fun d => decide (d.who = .job uid) && !d.ready
    gone.foldl (fun s d => d.bufs.foldl devFree s) { s with conns := mmod s.conns x.1 fun c => { c with
      sends := c.sends.filter fun d => !(decide (d.who = .job uid) && !d.ready)
      posts := c.posts.filter (· ≠ uid) } }) s

/-- Cancel a job in place: no host write, no completion, its buffers return (R110, R147). -/
def cancelJob (s : State) (uid : Nat) : State :=
  match mget? s.jobs uid with
  | none => s
  | some j =>
    let s := tpDrop (sxDrop (withdrawJob s uid) uid) uid
    j.bufs.foldl devFree { s with jobs := mdel s.jobs uid }

/-- Work is discarded with no completion while its queue goes on (R62, R303). -/
def dropJob (s : State) (uid : Nat) : State :=
  match mget? s.jobs uid with
  | some j => modSq (settleSq (cancelJob s uid) j.sq) j.sq fun q => { q with started := q.started.filter (· ≠ uid) }
  | none => s

/-- No unit has an operation of the job: it has not been executed, it is a receive posting that nothing fills yet, nothing of
its message has been sent, or its storage command is neither at the target nor with the flow cores. -/
def jobWaits (s : State) (uid : Nat) (j : Job) : Bool :=
  j.fresh || match j.op with
    | 0x82 | 0x87 => true
    | 0x83 => !s.conns.any fun c => c.2.sends.any fun d => decide (d.who = .job uid) && d.ready
    | 0x84 => s.conns.any fun c => decide (uid ∈ c.2.posts)
    | 0x85 => (mget? s.sx.cmds uid).all fun c => decide (c.st ≠ .target ∧ c.st ≠ .late ∧ c.st ≠ .xts ∧ c.st ≠ .dead)
    | _ => false

/-- A job whose generation has advanced (R62, R147). What waits is discarded, and so is what moves data, whose descriptors are
withdrawn: the requests already handed stay outstanding (R397). An operation that a unit has runs on, and its result is
discarded when it finishes: a frame in a class queue, a job with the flow cores, a message under way, a storage command at its
target (R385) or in an XTS pass. -/
def quitJob (s : State) (uid : Nat) : State :=
  match mget? s.jobs uid with
  | none => s
  | some j => if jobWaits s uid j || decide (jobXfers s uid ≠ []) then cancelJob s uid else sxLate s uid

/-- An SQ's incarnation ends: the generation advances, its transfers are withdrawn, and it drains (R60, R110, R111). -/
def endSq (s : State) (i : Nat) : State :=
  match mget? s.sqs i with
  | none => s
  | some q =>
    if q.drain.isSome then s
    else
      let s := advGen s 1 i
      let s := modSq (dropSys s (ofQueue i)) i fun q => { q with
        stopped := true, reason := .disabled, drain := some s.clk, ents := [], decoded := [], pushed := [],
        reading := none, dbReading := false }
      (jobsOfSq s i).foldl quitJob s

/-- A CQ's or EQ's incarnation ends (R111, R133). -/
def endCq (s : State) (i : Nat) : State :=
  match mget? s.cqs i with
  | none => s
  | some q =>
    if q.drain.isSome then s
    else modCq (advGen (dropSys s (ofQueue i)) 1 i) i fun q => { q with
      stopped := true, drain := some s.clk, spill := [], fin := [], timer := none, hdReading := false, back := false }
def endEq (s : State) (i : Nat) : State :=
  match mget? s.eqs i with
  | none => s
  | some q =>
    if q.drain.isSome then s
    else intaUpdate (modEq (advGen (dropSys s (ofQueue i)) 1 i) i fun q => { q with
      stopped := true, drain := some s.clk, pend := [], intx := false, st := .idle, hdReading := false, back := false
      fresh := false }) q.port

/-- DESTROY_SQ: completes once drained, or after 10 ms (R110). -/
def execDestroySq (port : HostPort) (s : State) : Host.Outcome State Fault Refusal :=
  .next (adminRun s port.val 0x02 fun s e =>
    if !dwZero e 4 15 then finishAdmin s port.val .invalidField 0
    else
      let i := hIdx (dw e 1)
      let s := endSq s i
      adminWait (modSq s i fun q => { q with destroyer := some port.val }) port.val "drain" i)

/-- DESTROY_CQ: IN_USE while an SQ is bound (R110). -/
def execDestroyCq (port : HostPort) (s : State) : Host.Outcome State Fault Refusal :=
  .next (adminRun s port.val 0x04 fun s e =>
    let i := hIdx (dw e 1)
    if !dwZero e 4 15 then finishAdmin s port.val .invalidField 0
    else if s.sqs.any fun x => decide (x.2.cq = i) then finishAdmin s port.val .inUse 0
    else
      let s := advGen (dropSys s (ofQueue i)) 1 i
      finishAdmin { s with cqs := mdel s.cqs i } port.val .success 0)

/-- DESTROY_EQ: IN_USE while a CQ or AQ_BIND_EQ names it (R110, R136). -/
def execDestroyEq (port : HostPort) (s : State) : Host.Outcome State Fault Refusal :=
  .next (adminRun s port.val 0x06 fun s e =>
    let i := hIdx (dw e 1)
    if !dwZero e 4 15 then finishAdmin s port.val .invalidField 0
    else if (s.cqs.any fun x => decide (x.2.eq = some i ∧ !x.2.stopped)) ∨ (hpOf s port.val).aq.eq = some i then
      finishAdmin s port.val .inUse 0
    else
      let s := advGen (dropSys s (ofQueue i)) 1 i
      finishAdmin (intaUpdate { s with eqs := mdel s.eqs i } port.val) port.val .success 0)

/-- The 64-byte query record of a queue (R112, R494). REASON of a CQ in OVERRUN, which no rule gives, reads CQ_OVERRUN (DESIGN
CHOICE, log entry 110). -/
def queryRecord (s : State) (i : Nat) : List Byte :=
  let r (w0 ci pd fl sq : Nat) : List Byte :=
    leBytes 4 w0 ++ leBytes 4 ci ++ leBytes 4 pd ++ leBytes 4 fl ++ leBytes 4 sq ++ leBytes 44 0
  match mget? s.sqs i with
  | some q =>
    let sc := match q.scan with | .hot => 0 | .warm => 1 | .cold => 2
    r (b2n q.pin * 2 ^ 10 + sc * 2 ^ 8 + reasonCode q.reason * 2 ^ 4 + b2n q.stopped) q.ci q.pdev q.started.length q.seq
  | none =>
    match mget? s.cqs i with
    | some q =>
      r (if q.overrun then 3 * 2 ^ 4 + 2 else if q.stopped then 4 * 2 ^ 4 + 1 else 0) q.hdev q.tail q.spill.length 0
    | none =>
      match mget? s.eqs i with
      | some q => r (if q.stopped then 4 * 2 ^ 4 + 1 else 0) q.hdev q.tail q.pend.length 0
      | none => r 0 0 0 0 0

/-- QUEUE_QUERY writes the record to DEST with PF0's requests (R72, R112), and waits for D0 to do so (R91). -/
def execQueueQuery (port : HostPort) (s : State) : Host.Outcome State Fault Refusal :=
  .next (adminRun s port.val 0x07 fun s e =>
    let p := port.val
    if !dwZero e 6 15 then finishAdmin s p .invalidField 0
    else if (fnOf s p .pf0).d3 then s
    else
      let s' := if ownerCanReq s p none then hostWrite s p none (dw2 e 4) (queryRecord s (hIdx (dw e 1))) else s
      finishAdmin s' p .success 0)

/-- SET_SCAN: pins an SQ as HOT subject to the cap, or unpins it (R107, R108). -/
def execSetScan (port : HostPort) (s : State) : Host.Outcome State Fault Refusal :=
  .next (adminRun s port.val 0x08 fun s e =>
    let i := hIdx (dw e 1)
    let pin := bitOf (dw e 4) 0
    match mget? s.sqs i with
    | none => finishAdmin s port.val .invalidHandle 0
    | some q =>
      if bitsOf (dw e 4) 31 1 ≠ 0 ∨ !dwZero e 5 15 then finishAdmin s port.val .invalidField 0
      else if pin ∧ !q.pin ∧ !hotFits s port.val (pinnedCount s port.val + 1) then
        finishAdmin s port.val .scanBudget 0
      else
        let s := modSq s i fun q => { q with pin := pin }
        finishAdmin (if pin then pinHot s i q.port else s) port.val .success 0)

/-- AQ_BIND_EQ names the PF0 EQ of the admin CQ, or none (R136). -/
def execAqBindEq (port : HostPort) (s : State) : Host.Outcome State Fault Refusal :=
  .next (adminRun s port.val 0x09 fun s e =>
    if !dwZero e 4 15 then finishAdmin s port.val .invalidField 0
    else
      let eq := if dw e 1 = 0 then none else some (hIdx (dw e 1))
      finishAdmin (modHp s port.val fun h => { h with aq := { h.aq with eq := eq } }) port.val .success 0)

/-! ### Peer buffer lists (R109) -/

/-- Allocate n buffers of a pool for a requester, all or nothing: the buffers, or why one failed (R228, R233). -/
def allocMany (s : State) (r p : Nat) : Nat → List Nat → Except Status (List Nat × State)
  | 0, acc => .ok (acc.reverse, s)
  | n + 1, acc =>
    match allocFrom s r [p] with
    | (.ok h, s') => allocMany s' r p n (h :: acc)
    | (.error st, _) => .error st

/-- Where the peer buffer list area of 64 MiB lies in the system region of 8 GiB (R219, R220); a free value, log entry 3. -/
def listBase : Nat := Config.listBase.toNat % (2 ^ 27 - 2 ^ 20 + 1) * 64

/-- Lists in the area: offset and bytes. -/
def listRanges (s : State) : List (Nat × Nat) :=
  s.tens.flatMap fun t => t.2.lists.map fun l => (l.1 - listBase, 4 * l.2.length)

/-- Room for n bytes in the peer buffer list area of 64 MiB; where is a free value (R220, log entry 3). -/
def pickList (s : State) (n : Nat) : Option Nat :=
  let used := listRanges s
  let fits (o : Nat) : Bool :=
    decide (o + n ≤ 2 ^ 26) && used.all fun u => decide (o + n ≤ u.1 ∨ u.1 + u.2 ≤ o)
  (((Config.listStart s.free).toNat * 64) :: (used.map fun (u : Nat × Nat) => (u.1 + u.2 + 63) / 64 * 64) ++ [0]).find? fits

/-- PEER_BUF_ALLOC (R109). -/
def execPeerBufAlloc (port : HostPort) (s : State) : Host.Outcome State Fault Refusal :=
  .next (adminRun s port.val 0x19 fun s e =>
    let t := hIdx (dw e 1)
    let pool := dw e 4
    let n := dw e 5
    if pool < 2 ∨ pool > 5 ∨ n < 1 ∨ n > 65536 ∨ !dwZero e 6 15 then finishAdmin s port.val .invalidField 0
    else
      match pickList s (4 * n) with
      | none => finishAdmin s port.val .noResource 0
      | some o =>
        match allocMany s t pool n [] with
        | .ok (hs, s') =>
          let a := listBase + o
          let s' := bumpFree { s' with sysmem := writeMem s'.sysmem a (hs.flatMap fun h => leBytes 4 h) }
          finishAdmin (modTen s' t fun x => { x with lists := (a, hs) :: x.lists }) port.val .success a
        | .error st => finishAdmin (allocFailed s st) port.val .noResource 0)

/-- Instance of a window of a port: physical set `k` (R77). -/
def winInst (p k w : Nat) : Nat := (p * 2 + k) * 256 + w

/-- The list address of a window of a physical set. -/
def winList (s : State) (i : Nat) : Nat :=
  rget s F.HL_WIN_LIST_LO_LIST_LO.off i + rd s F.HL_WIN_LIST_HI_LIST_HI 0 i * 2 ^ 32

/-- An enabled window of either set of a port names a list. -/
def listNamed (s : State) (p a : Nat) : Bool :=
  s.regs.any fun x =>
    let i := x.1 / 2 ^ 26
    decide (x.1 % 2 ^ 26 = F.HL_WIN_CFG_EN.off ∧ i / 512 = p) && rd s F.HL_WIN_CFG_EN 0 i = 1 && winList s i = a

/-- PEER_BUF_FREE: IN_USE while an enabled window names the list (R109). -/
def execPeerBufFree (port : HostPort) (s : State) : Host.Outcome State Fault Refusal :=
  .next (adminRun s port.val 0x1A fun s e =>
    let t := hIdx (dw e 1)
    let a := dw2 e 4
    match ((mget? s.tens t).map (·.lists)).getD [] |>.find? (·.1 = a) with
    | none => finishAdmin s port.val .invalidField 0
    | some l =>
      if !dwZero e 6 15 then finishAdmin s port.val .invalidField 0
      else if listNamed s port.val a then finishAdmin s port.val .inUse 0
      else
        let s := l.2.foldl devFree s
        finishAdmin (modTen s t fun x => { x with lists := x.lists.filter (·.1 ≠ a) }) port.val .success 0)

/-! ### Draining (R110, R111) -/

/-- Work that could still report through a queue: jobs of the SQ, of the SQs bound to the CQ, or of those bound to a CQ of the
EQ. -/
def reportsTo (s : State) (sq i : Nat) : Bool :=
  decide (sq = i) ||
    match mget? s.sqs sq with
    | some q => decide (q.cq = i) || ((mget? s.cqs q.cq).map (·.eq)).getD none = some i
    | none => false

/-- The requests of a transfer were issued under an SQ that reports through a queue. -/
def gensReport (s : State) (i : Nat) (g : List (Nat × Nat)) : Bool :=
  g.any fun x => decide (x.1 / 2 ^ 23 = 1) && reportsTo s (x.1 % 2 ^ 23) i

/-- An operation issued under a queue's incarnation is outstanding: a job, a host read of the queue that holds its tag, or
requests of a transfer withdrawn since (R63, R110, R111). -/
def queueBusy (s : State) (i : Nat) : Bool :=
  s.jobs.any (fun j => reportsTo s j.2.sq i) || s.sreads.any (fun r => ofQueue i r.2) ||
    s.reads.any (fun r => gensReport s i r.2.gens) || s.wreqs.any fun w => gensReport s i w.gens

/-- When the drain of a queue began. -/
def drainStart (s : State) (i : Nat) : Option Nat :=
  match mget? s.sqs i with
  | some q => q.drain
  | none =>
    match mget? s.cqs i with
    | some q => q.drain
    | none => (mget? s.eqs i).bind (·.drain)

/-- Free the index of a drained queue; a waiting DESTROY_SQ completes (R110). -/
def freeQueue (s : State) (i : Nat) : State :=
  let d := (mget? s.sqs i).bind (·.destroyer)
  let s := { s with sqs := mdel s.sqs i, cqs := mdel s.cqs i, eqs := mdel s.eqs i }
  match d with
  | some p => finishAdmin s p .success 0
  | none => s

/-- QUEUE_DRAIN_END (R110, R111). -/
def execQueueDrainEnd (queue : Nat) (s : State) : Host.Outcome State Fault Refusal :=
  if (drainStart s queue).isSome ∧ !queueBusy s queue then .next (freeQueue s queue) else .next s

/-- Outstanding requests of withdrawn transfers that a test accepts are cancelled in place: they are no longer counted as
operations of an incarnation, their tags are held until they complete or time out, and their data is discarded (R110,
R147). -/
def cancelReqs (s : State) (t : List (Nat × Nat) → Bool) : State :=
  { s with
    reads := mmap (fun _ r => if t r.gens then { r with drop := true, gens := [] } else r) s.reads
    wreqs := s.wreqs.map fun w => if t w.gens then { w with drop := true, gens := [] } else w }

/-- QUEUE_DRAIN_TIMEOUT: 10 ms after the start, what is outstanding is cancelled in place (R110, R111). -/
def execQueueDrainTimeout (queue : Nat) (s : State) : Host.Outcome State Fault Refusal :=
  match drainStart s queue with
  | some t =>
    if s.clk ≥ t + msec 10 then
      .next (freeQueue (cancelReqs ((jobsOfSq s queue).foldl cancelJob s) (gensReport s queue)) queue)
    else .next s
  | none => .next s

/-- CREATE_SQ, CREATE_CQ, CREATE_EQ (R108). -/
def execCreateSq (port : HostPort) (s : State) : Host.Outcome State Fault Refusal :=
  .next (adminRun s port.val 0x01 fun s e => createSq s port.val e)
def execCreateCq (port : HostPort) (s : State) : Host.Outcome State Fault Refusal :=
  .next (adminRun s port.val 0x03 fun s e => createCq s port.val e)
def execCreateEq (port : HostPort) (s : State) : Host.Outcome State Fault Refusal :=
  .next (adminRun s port.val 0x05 fun s e => createEq s port.val e)

end Sys2Proof.Machine
end

