-- ==== Sys2Proof/Machine/HostPort.lean ====
section
/-! DEFINITION. Host ports: peer windows and their commit, links, power states, interrupts and configuration
(04_host_links.md). Resets and function disables stand in Teardown.lean. -/
namespace Sys2Proof.Machine

/-! ### Peer windows (R74 to R80) -/

/-- The physical set that is active (R77, R78). -/
def actSet (s : State) (p : Nat) : Nat := if (hpOf s p).winFlip then 0 else 1

/-- Offset in the aperture, granule and size of a window instance (R74). -/
def winOffset (s : State) (i : Nat) : Nat :=
  rget s F.HL_WIN_BASE_LO_OFFSET_LO.off i + rd s F.HL_WIN_BASE_HI_OFFSET_HI 0 i * 2 ^ 32
def winGranule (s : State) (i : Nat) : Nat := poolSize (rd s F.HL_WIN_CFG_POOL 0 i)
def winSize (s : State) (i : Nat) : Nat := rd s F.HL_WIN_LEN_COUNT 0 i * winGranule s i
def winEn (s : State) (i : Nat) : Bool := rd s F.HL_WIN_CFG_EN 0 i = 1
def winTenant (s : State) (i : Nat) : Nat := rd s F.HL_WIN_CFG_TENANT 0 i

/-- The enabled windows of a physical set, ascending. -/
def enabledWins (s : State) (p k : Nat) : List Nat := (List.range 256).filter fun w => winEn s (winInst p k w)

/-- Cut an aperture range of a window at its buffer boundaries: (entry of the list, byte in the buffer, length). -/
def winPieces (g o : Nat) : Nat → Nat → List (Nat × Nat × Nat)
  | 0, _ => []
  | fuel + 1, n =>
    if n = 0 ∨ g = 0 then []
    else
      let k := min n (g - o % g)
      (o / g, o % g, k) :: winPieces g (o + k) fuel (n - k)

/-- Translate a peer request on the active set: the store ranges it covers, or none where it is refused (R57, R75,
R76). -/
def peerTranslate (s : State) (p rid addr len : Nat) (write : Bool) : Option (List (Nat × Nat)) :=
  let k := actSet s p
  match (enabledWins s p k).find? fun w =>
      let i := winInst p k w
      decide (winOffset s i ≤ addr ∧ addr + len ≤ winOffset s i + winSize s i) with
  | none => none
  | some w =>
    let i := winInst p k w
    let t := winTenant s i
    if t ∈ (hpOf s p).winClear ∨ (write ∧ rd s F.HL_WIN_CFG_WR 0 i = 0) ∨ (!write ∧ rd s F.HL_WIN_CFG_RD 0 i = 0) ∨
        (rd s F.HL_WIN_CFG_RID_CHECK 0 i = 1 ∧ rd s F.HL_WIN_RID_RID 0 i ≠ rid) then none
    else
      (winPieces (winGranule s i) (addr - winOffset s i) (len + 1) len).mapM fun x =>
        let h := leNat (readMem s.sysmem (winList s i + 4 * x.1) 4)
        match mget? s.coop.bufs h with
        | some b =>
          if bufValid s h ∧ b.st ≠ .cached ∧ b.owner = t then some (bufAddr s h x.2.1, x.2.2) else none
        | none => none

/-- A refused peer request (R57, R75). -/
def peerRefuse (s : State) (p : Nat) (write : Bool) : State :=
  let s := raise (modHp s p fun h => { h with refusedCnt := satInc 65535 h.refusedCnt }) .hlPeerRefused p
  let s := aer s (asPort p) .pf1 .unsupportedRequest
  if write then s else emit s (.cplErr (asPort p) true)

/-- Serve one peer request (R75). -/
def peerServe (s : State) (p : Nat) (r : PeerReq) : State :=
  if r.write ∧ r.poisoned then aer s (asPort p) .pf1 .poisonedTlp
  else if !running s then peerRefuse s p r.write
  else
    match peerTranslate s p r.rid r.addr r.len r.write with
    | none => peerRefuse s p r.write
    | some l =>
      if r.write then
        (l.foldl (fun (x : State × List Byte) q => (storeWrite x.1 q.1 (x.2.take q.2), x.2.drop q.2)) (s, r.data)).1
      else
        let s' := (l.foldl (fun (x : State × Ecc) q =>
          (storeMeet x.1 q.1 q.2 x.2, eccAfter x.2 ((q.1 % 64 + q.2 + 63) / 64))) (s, r.ecc)).1
        emit s' (.readData (asPort p) ((l.flatMap fun q => storeRead s q.1 q.2).map (·.toNat)))

/-- A peer request arrives: it is held while the commit is in HOLD (R78), else served. -/
def peerArrive (s : State) (p : HostPort) (r : PeerReq) : State :=
  barGate (read := !r.write) s p .pf1 fun s =>
    if s.lk.st = .lrs then (if r.write then s else emit s (.cplErr p false))
    else if (hpOf s p.val).winSt = .hold then modHp s p.val fun h => { h with held := h.held ++ [r] }
    else peerServe s p.val r

/-- PEER_WRITE (R57, R75). -/
def execPeerWrite (port : HostPort) (rid : Fin 65536) (addr : Fin 68719476736) (poisoned : Bool) (bytes : List Byte)
    (s : State) : Host.Outcome State Fault Refusal :=
  .next (peerArrive s port ⟨true, addr.val, bytes.length, bytes, rid.val, poisoned, {}⟩)

/-- PEER_READ (R57, R75). -/
def execPeerRead (port : HostPort) (rid : Fin 65536) (addr : Fin 68719476736) (len : Fin 4097) (ecc : Ecc) (s : State) :
    Host.Outcome State Fault Refusal :=
  .next (peerArrive s port ⟨false, addr.val, len.val, [], rid.val, false, ecc⟩)

/-- The effect of HL_WIN_CTRL.WIN_COMMIT (R78); ignored while COMMIT_PEND is 1 (R95). -/
def winCommit (s : State) (p : Nat) : State :=
  if (hpOf s p).winSt = .idle then modHp s p fun h => { h with winSt := .check } else s

/-- WIN_COMMIT (R78). -/
def execWinCommit (port : HostPort) (s : State) : Host.Outcome State Fault Refusal :=
  .next (regGate s port false fun s => winCommit s port.val)

/-- The first condition of R80 that an enabled shadow window fails, as ERR_CODE; 0 for none. -/
def winFault (s : State) (p k w : Nat) (wins : List Nat) : Nat :=
  let i := winInst p k w
  let o := winOffset s i
  let pool := rd s F.HL_WIN_CFG_POOL 0 i
  let t := winTenant s i
  if winGranule s i ≠ 0 ∧ o % winGranule s i ≠ 0 then 1
  else if o + winSize s i > 2 ^ 36 then 2
  else if (wins.filter (· < w)).any fun v =>
      let j := winInst p k v
      decide (o < winOffset s j + winSize s j ∧ winOffset s j < o + winSize s i) then 3
  else if (mget? s.tens t).all fun x => decide (x.st ≠ .enabled ∨ x.home ≠ p) then 4
  else if winList s i + 4 * rd s F.HL_WIN_LEN_COUNT 0 i > 2 ^ 33 then 5
  else if pool < 2 ∨ pool > 5 then 6
  else if (wins.filter fun v => decide (v ≤ w) && decide (winTenant s (winInst p k v) = t)).length >
      ((mget? s.tens t).map (·.winMax)).getD 0 then 7
  else 0

/-- WIN_CHECK_END (R80). -/
def execWinCheckEnd (port : HostPort) (s : State) : Host.Outcome State Fault Refusal :=
  let p := port.val
  if (hpOf s p).winSt ≠ .check then .next s
  else
    let k := 1 - actSet s p
    let wins := enabledWins s p k
    match wins.find? fun w => decide (winFault s p k w wins ≠ 0) with
    | none => .next (modHp s p fun h => { h with winSt := .hold, holdStart := s.clk })
    | some w =>
      let c := winFault s p k w wins
      let s := modHp s p fun h => { h with winSt := .idle, winErr := w, winErrCode := c }
      .next (raise (wr s F.HL_WIN_CTRL_COMMIT_ERR 0 p 1) .hlWinCommitErr p)

/-- The offsets of the window registers that a write can change. A write of HL_WIN_HANDLE, which is read-only, is ignored
as any such write is and sets no BUSY: R77 does not say whether it counts (DESIGN CHOICE, log entry 107). -/
def winOffs : List Nat :=
  [F.HL_WIN_BASE_LO_OFFSET_LO.off, F.HL_WIN_BASE_HI_OFFSET_HI.off, F.HL_WIN_LEN_COUNT.off, F.HL_WIN_CFG_EN.off,
   F.HL_WIN_LIST_LO_LIST_LO.off, F.HL_WIN_LIST_HI_LIST_HI.off, F.HL_WIN_RID_RID.off]

/-- WIN_SWAP: the sets swap, changed windows' generations advance, held requests are served on the new set (R78,
R79). HOLD_MAX records how long HOLD lasted, which bounds every request's hold: R95 does not say which of the two it shows
(DESIGN CHOICE, log entry 107). -/
def execWinSwap (port : HostPort) (s : State) : Host.Outcome State Fault Refusal :=
  let p := port.val
  let h := hpOf s p
  if h.winSt ≠ .hold then .next s
  else
    let changed := (List.range 256).filter fun w =>
      winOffs.any fun o => decide (rget s o (winInst p 0 w) ≠ rget s o (winInst p 1 w))
    let s' := changed.foldl (fun s w => advGen s 6 (p * 256 + w)) s
    let held := min 64 ((s.clk - h.holdStart) / 625)
    let s' := modHp s' p fun h => { h with
      winSt := .copy, winFlip := !h.winFlip, held := [], holdMax := max h.holdMax held }
    .next (h.held.foldl (fun s r => peerServe s p r) s')

/-- Clear EN of the windows of ended tenants in both sets (R76). -/
def clearWindows (s : State) (p : Nat) : State :=
  let ts := (hpOf s p).winClear
  let s := ([0, 1].flatMap fun k => (enabledWins s p k).map (winInst p k)).foldl
    (fun s i => if winTenant s i ∈ ts then wr s F.HL_WIN_CFG_EN 0 i 0 else s) s
  modHp s p fun h => { h with winClear := [] }

/-- WIN_COPY_END: the shadow set becomes a copy of the active one; the windows of ended tenants are cleared (R76,
R78). -/
def execWinCopyEnd (port : HostPort) (s : State) : Host.Outcome State Fault Refusal :=
  let p := port.val
  if (hpOf s p).winSt ≠ .copy then .next s
  else
    let k := actSet s p
    let s' := (List.range 256).foldl (fun s w => winOffs.foldl (fun s o =>
      if rget s o (winInst p (1 - k) w) = rget s o (winInst p k w) then s
      else rset s o (winInst p (1 - k) w) (rget s o (winInst p k w))) s) s
    .next (clearWindows (modHp s' p fun h => { h with winSt := .idle }) p)

/-- TENANT_WINDOWS_CLEAR, in IDLE (R76). -/
def execTenantWindowsClear (port : HostPort) (s : State) : Host.Outcome State Fault Refusal :=
  if (hpOf s port.val).winSt = .idle then .next (clearWindows s port.val) else .next s

/-! ### Held interrupts (R92 to R94) -/

/-- The Lockkeeper's alert message, on vector 0 (R94): in L1 the port leaves L1 (R92); in D3hot, or while PF0 may send none,
it is held (R88, R92). -/
def alertSend (s : State) (p : Nat) : State :=
  if (fnOf s p .pf0).d3 then sendPme (modHp s p fun h => { h with alertHeld := true }) p .pf0
  else
    let s := if (hpOf s p).ltssm = .l1 then leaveL1 s p else s
    if mayMsix s p .pf0 0 then sendMsix s p .pf0 0 else modHp s p fun h => { h with alertHeld := true }

/-- The message of one pending unmasked vector is sent once (R93). -/
def msixFlush (s : State) (p : Nat) (f : Fn) (v : Nat) : State :=
  let g := fnOf s p f
  if v ∈ g.vpend ∧ v ∈ g.vopen ∧ !g.fmask ∧ g.msixEn ∧ mayMsix s p f v then
    emit (modFn s p f fun g => { g with vpend := g.vpend.filter (· ≠ v) }) (msixMsg s p f v)
  else s

/-- What was held for a function is sent, as far as it may be now: pending messages, the alert and INTA (R92 to R94). -/
def heldOut (s : State) (p : Nat) (f : Fn) : State :=
  let s := (fnOf s p f).vpend.reverse.foldl (fun s v => msixFlush s p f v) s
  match f with
  | .pf0 =>
    let s := if (hpOf s p).alertHeld ∧ !(fnOf s p .pf0).d3 ∧ mayMsix s p .pf0 0 then
        alertSend (modHp s p fun h => { h with alertHeld := false }) p
      else s
    intaUpdate s p
  | .pf1 => s

/-! ### Links (R65 to R69, R87 to R89) -/

/-- PERST_RELEASE: training starts (R89), during boot at the end of stage PORTS (R461). -/
def execPerstRelease (port : HostPort) (s : State) : Host.Outcome State Fault Refusal :=
  let p := port.val
  if (hpOf s p).perst ∧ s.boot.stage ≤ 3 ∧ !s.boot.recovery then
    .next (modHp s p fun h => { h with perst := false })
  else if (hpOf s p).perst ∧ portWidth s p ≠ 0 then
    .next (emit (modHp s p fun h => { h with perst := false, ltssm := .polling, noFlit := false })
      (.link port "training"))
  else .next s

/-- The port is training. -/
def training (s : State) (p : Nat) : Bool :=
  let h := hpOf s p
  !h.perst && decide (h.ltssm = .polling ∨ h.ltssm = .configuration ∨ h.ltssm = .recovery ∨ h.ltssm = .hotReset)

/-- A link width a port can train to (R65, R66). -/
def widthOk (s : State) (p w : Nat) : Bool :=
  w ∈ [1, 2, 4, 8] || (decide (w = 16) && decide (portWidth s p = 2))

/-- HOST_LINK_TRAINED: L0 in Flit Mode, or back to Detect with NO_FLIT (R69, R95). -/
def execHostLinkTrained (port : HostPort) (flit : Bool) (width : Fin 17) (speed : Fin 8) (s : State) :
    Host.Outcome State Fault Refusal :=
  let p := port.val
  if !training s p then .next s
  else if flit then
    if widthOk s p width.val ∧ speed.val ≠ 0 then
      let s := modHp s p fun h => { h with
        ltssm := .l0, l0p := none, width := width.val, speed := speed.val, noFlit := false }
      .next (heldOut (heldOut s p .pf0) p .pf1)
    else .next s
  else
    .next (raise (modHp s p fun h => { h with
      ltssm := .detect, width := 0, speed := 0, noFlit := true, noFlitAt := s.clk }) .hlNoFlit p)

/-- NO_FLIT_RETRY: 100 ms after (R69). -/
def execNoFlitRetry (port : HostPort) (s : State) : Host.Outcome State Fault Refusal :=
  let h := hpOf s port.val
  if h.noFlit ∧ h.ltssm = .detect ∧ !h.perst ∧ s.clk ≥ h.noFlitAt + msec 100 then
    .next (modHp s port.val fun h => { h with ltssm := .polling })
  else .next s

/-- PORT_READY (R89); during boot not before READY, or recovery (R458, R461). -/
def execPortReady (port : HostPort) (s : State) : Host.Outcome State Fault Refusal :=
  if !(hpOf s port.val).perst ∧ (hpOf s port.val).ltssm ≠ .hotReset ∧ (running s ∨ s.boot.recovery) then
    .next (modHp s port.val fun h => { h with ready := true })
  else .next s

/-- FLR_COMPLETE (R89). -/
def execFlrComplete (port : HostPort) (fn : Fn) (s : State) : Host.Outcome State Fault Refusal :=
  .next (modFn s port.val fn fun f => { f with flr := none })

/-- Discarded work of a function still outstanding: jobs of an ended incarnation, and reads that still hold tags
(R62, R88). -/
def fnDraining (s : State) (p : Nat) (f : Fn) : Bool :=
  s.jobs.any (fun j => decide (j.2.port = p ∧ ownerFn j.2.owner = f) && !jobCurrent s j.2) ||
  s.reads.any (fun r => decide (r.2.port = p ∧ r.2.fn = f) && r.2.drop) ||
  s.sreads.any (fun r => decide (r.2.port = p ∧ r.2.fn = f) && r.2.drop)

/-- FUNCTION_DRAIN_END (R88). -/
def execFunctionDrainEnd (port : HostPort) (fn : Fn) (s : State) : Host.Outcome State Fault Refusal :=
  if (fnOf s port.val fn).drain.isSome ∧ !fnDraining s port.val fn then
    .next (modFn s port.val fn fun f => { f with drain := none })
  else .next s

/-! ### Power states (R91, R92) -/

/-- The queue belongs to a function of a port. -/
def ofFn (p : Nat) (f : Fn) (port : Nat) (owner : Option Nat) : Bool := decide (port = p ∧ ownerFn owner = f)

/-- D3HOT_ENTRY: overflow timers stop and keep their values (R91, R133), and the idle time of the function's SQs stands
(R118). -/
def execD3hotEntry (port : HostPort) (fn : Fn) (s : State) : Host.Outcome State Fault Refusal :=
  let p := port.val
  .next (cfgGate s port fn fun s =>
    if (fnOf s p fn).d3 then s
    else
      let stop (q : Cq) : Cq :=
        match q.timer with
        | some t => if ofFn p fn q.port q.owner then { q with timer := none, timerKept := t - s.clk } else q
        | none => q
      let s := settleIdle s fun _ q => ofFn p fn q.port q.owner
      modFn { s with cqs := mmap (fun _ q => stop q) s.cqs } p fn fun f => { f with d3 := true })

/-- The head records of a function's CQs with spilled entries and of its EQs with pending ones are read again on the return
to D0 (R133, R139). -/
def headsAgain (s : State) (p : Nat) (fn : Fn) : State :=
  let cs := s.cqs.filter fun x => ofFn p fn x.2.port x.2.owner && x.2.back && !x.2.hdReading
  let es := s.eqs.filter fun x => ofFn p fn x.2.port x.2.owner && x.2.back
  let s := cs.foldl (fun s x => if mayRead s p x.2.owner then cqHeadRead s x.1 x.2 else s) s
  es.foldl (fun s x => eqHeadRead s x.1) s

/-- D0_RETURN: timers go on, head records are read again, and held interrupts are sent: an EQ's message once the entries
that waited have been moved (R91, R92, R118, R133, R139). -/
def execD0Return (port : HostPort) (fn : Fn) (s : State) : Host.Outcome State Fault Refusal :=
  let p := port.val
  .next (cfgGate s port fn fun s =>
    if !(fnOf s p fn).d3 then s
    else
      let s := settleIdle s fun _ q => ofFn p fn q.port q.owner
      let s := modFn s p fn fun f => { f with d3 := false }
      let back (k : Nat) (q : Cq) : Cq :=
        if ofFn p fn q.port q.owner ∧ q.spill ≠ [] ∧ !q.stopped ∧ !q.overrun then
          { q with timer := if k < 2 ^ 20 then some (s.clk + q.timerKept) else none, back := true }
        else q
      let backE (q : EvQ) : EvQ := if ofFn p fn q.port q.owner ∧ q.pend ≠ [] ∧ !q.stopped then { q with back := true } else q
      let s := headsAgain { s with cqs := mmap back s.cqs, eqs := mmap (fun _ q => backE q) s.eqs } p fn
      let s := (s.eqs.filter fun x => ofFn p fn x.2.port x.2.owner).foldl (fun s x => eqSend s x.1) s
      heldOut (match fn with | .pf0 => imageResume s p | .pf1 => s) p fn)

/-- Errors that the port itself finds on its link and in its transactions (R84). The other errors of AER follow from the
commands that cause them. -/
def linkError (e : AerErr) : Bool :=
  e ∈ [.receiverError, .badTlp, .badDllp, .replayTimeout, .replayRollover, .dlProtocol, .flowControl, .malformedTlp,
    .receiverOverflow, .unsupportedRequest, .poisonedTlp]

/-- L0 is reached from L1: DUE interrupts and whatever was held are sent (R92, R93, R138). -/
def l0Reached (s : State) (p : Nat) : State :=
  let s := modHp s p fun h => { h with ltssm := .l0, l11 := false }
  let s := (s.eqs.filter fun x => decide (x.2.port = p)).foldl (fun s x => eqSend s x.1) s
  heldOut (heldOut s p .pf0) p .pf1

/-- LINK_POWER_STATE_CHANGE: L0p, L1 or a retraining in place; DUE interrupts are sent once L0 is reached (R92, R95,
R115, R138), or an error found on the link, logged on the function its request targeted, on PF0 where there is none (R84).
The scan budget follows the width and speed (`rawBandwidth`). -/
def execLinkPowerStateChange (port : HostPort) (change : LinkChange) (s : State) : Host.Outcome State Fault Refusal :=
  let p := port.val
  let h := hpOf s p
  match change with
  | .error e fn => if h.ltssm = .l0 ∧ linkError e then .next (aer s port (fn.getD .pf0) e) else .next s
  | .enterL0p w =>
    if h.ltssm = .l0 ∧ 2 ≤ w.val ∧ w.val < h.width ∧ w.val ∈ [2, 4, 8] then
      .next (modHp s p fun h => { h with l0p := some w.val })
    else .next s
  | .leaveL0p => if h.ltssm = .l0 then .next (modHp s p fun h => { h with l0p := none }) else .next s
  | .enterL1 sub =>
    if h.ltssm = .l0 ∧ (sub = false ∨ h.f0.l11En) then
      .next (modHp s p fun h => { h with ltssm := .l1, l11 := sub, l0p := none })
    else .next s
  | .leaveL1 => if h.ltssm = .l1 then .next (l0Reached s p) else .next s
  | .retrain w v =>
    if h.ltssm = .l0 ∧ widthOk s p w.val ∧ v.val ≠ 0 then
      .next (modHp s p fun h => { h with width := w.val, speed := v.val, l0p := none })
    else .next s

/-! ### Completion timeouts (R81 to R83) -/

/-- The device's completion timeout for a value of Device Control 2, in ps (R81). -/
def timeoutOf (v : Nat) : Nat :=
  match v with
  | 1 => usec 80
  | 2 => msec 8
  | 6 => msec 180
  | 9 => msec 800
  | 10 => msec 3000
  | 13 => msec 12000
  | 14 => msec 60000
  | _ => msec 50

/-- LATE_CPL: an Unexpected Completion for the function that had issued the tag (R83). -/
def execLateCpl (port : HostPort) (tag : Fin 16384) (s : State) : Host.Outcome State Fault Refusal :=
  let p := port.val
  match (hpOf s p).lateTags.find? (·.1 = tag.val) with
  | some x =>
    if s.clk < x.2.1 then
      let s := modHp s p fun h => { h with lateCnt := satInc 65535 h.lateCnt }
      .next (raise (aer s port x.2.2 .unexpectedCpl) .hlLateCpl p)
    else .next s
  | none => .next s

/-- TAG_RELEASE (R83). -/
def execTagRelease (port : HostPort) (tag : Fin 16384) (s : State) : Host.Outcome State Fault Refusal :=
  .next (modHp s port.val fun h => { h with
    lateTags := h.lateTags.filter fun x => !(decide (x.1 = tag.val) && decide (x.2.1 ≤ s.clk)) })

/-! ### Interrupts and configuration (R87, R93, R94) -/

/-- MSIX_UNMASK of one vector, or of the function (R93). The write of a vector is one to BAR0, discarded while the device is FATAL
(R429). -/
def execMsixUnmask (port : HostPort) (fn : Fn) (vec : Option (Fin 2048)) (s : State) :
    Host.Outcome State Fault Refusal :=
  let p := port.val
  match vec with
  | some v =>
    .next (barGate s port fn fun s =>
      if s.lk.st = .lrs ∨ s.lk.st = .fatal then s
      else
        msixFlush (modFn s p fn fun g => { g with vopen := if v.val ∈ g.vopen then g.vopen else v.val :: g.vopen }) p fn
          v.val)
  | none => .next (cfgGate s port fn fun s => heldOut (modFn s p fn fun g => { g with fmask := false }) p fn)

/-- INTERRUPT_CONTROL_WRITE (R94). -/
def execInterruptControlWrite (port : HostPort) (msixEn intDis : Bool) (s : State) :
    Host.Outcome State Fault Refusal :=
  .next (cfgGate s port .pf0 fun s =>
    heldOut (modFn s port.val .pf0 fun f => { f with msixEn := msixEn, intDis := intDis }) port.val .pf0)

/-- The effect of a write of ones to LK_MB_ALERT.PENDING: the source ends when every bit is clear (R94, R424). -/
def alertClear (s : State) (p v : Nat) : State :=
  let f := F.LK_MB_ALERT_PENDING
  let old := rd s f 0 p
  let new := old - Nat.land old (v % 8)
  let s := wr s f 0 p new
  if new = 0 then intaUpdate (modHp s p fun h => { h with alert := false, alertHeld := false }) p else s

/-- LK_ALERT_CLEAR (R424); served while FATAL (R429). -/
def execLkAlertClear (port : HostPort) (value : Word) (s : State) : Host.Outcome State Fault Refusal :=
  .next (barGate s port .pf0 fun s => if s.lk.st = .lrs then s else alertClear s port.val value.toNat)

/-- What a configuration write leaves in a function beside what it sends (R48, R68, R81, R84, R85, R92, R93). A reserved
completion timeout value is not stored (R9, R81). -/
def cfgStore (fn : Fn) (what : CfgWrite) (f : FnState) : FnState :=
  let a := f.aer
  match what with
  | .read _ => f
  | .bar k v => { f with bars := msetD 0 f.bars k.val (barWrite fn k.val v) }
  | .relaxed on => { f with roEn := on }
  | .snoop on => { f with nsEn := on }
  | .idOrder on => { f with idoEn := on }
  | .ltr on => if fn = .pf0 then { f with ltrEn := on } else f
  | .l11 on => if fn = .pf0 then { f with l11En := on } else f
  | .ltrMax v => if fn = .pf0 then { f with ltrMax := v &&& 0x1FFF1FFF } else f
  | .uncStatus v => { f with aer := aerClear a v }
  | .uncMask v => { f with aer := { a with uncMask := v &&& aerBits false } }
  | .uncSeverity v => { f with aer := { a with uncSev := v &&& aerBits false } }
  | .corStatus v => { f with aer := { a with corSta := a.corSta &&& ~~~v } }
  | .corMask v => { f with aer := { a with corMask := v &&& aerBits true } }
  | .busMaster => { f with bme := true }
  | .memSpace on => { f with mse := on }
  | .pasid => if fn = .pf1 then { f with pasidEn := true } else f
  | .cplTimeout v => if v.val ∈ [0, 1, 2, 5, 6, 9, 10, 13, 14] then { f with cplTo := v.val } else f
  | .mps c => { f with mps := 128 * 2 ^ c.val }
  | .mrrs c => { f with mrrs := 128 * 2 ^ c.val }
  | .ptm on => if fn = .pf0 then { f with ptmEn := on } else f
  | .pmeEn on => { f with pmeEn := on }
  | .pmeClear => { f with pmeStatus := false }
  | .severity b =>
    let k : Word := BitVec.ofNat 32 (2 ^ aerBit .uncorrectableInternal)
    { f with aer := { a with uncSev := if b then a.uncSev ||| k else a.uncSev &&& ~~~k } }
  | .msix on => if fn = .pf1 then { f with msixEn := on } else f
  | .funcMask => { f with fmask := true }
  | .vecMask v => { f with vopen := f.vopen.filter (· ≠ v.val) }

/-- CONFIGURATION_WRITE (R48, R68, R71, R73, R81, R84 to R87, R89, R92, R93): a read returns the word, and a write leaves its
bits; interrupts that it sets free are sent. The clears of Bus Master Enable and PASID Enable and MSI-X Enable of PF0 have
commands of their own; the mask bit of a vector is a word of the MSI-X table, behind the BAR (R93). -/
def execConfigurationWrite (port : HostPort) (fn : Fn) (what : CfgWrite) (s : State) :
    Host.Outcome State Fault Refusal :=
  let p := port.val
  match what with
  | .read off => .next (cfgGate s port fn fun s => emit s (.readData port [cfgWord s p fn (off.val / 4 * 4)]))
  | .vecMask _ => .next (barGate s port fn fun s =>
      if s.lk.st = .lrs ∨ s.lk.st = .fatal then s else modFn s p fn (cfgStore fn what))
  | _ => .next (cfgGate s port fn fun s => heldOut (modFn s p fn (cfgStore fn what)) p fn)

end Sys2Proof.Machine
end

