-- ==== Sys2Proof/Machine/Aes.lean ====
section
/-! DEFINITION. The block arithmetic Locksmith performs (R283, R355, R356): AES by its published definition, the CMAC of
SP 800-38B, the counter-mode key derivation of SP 800-108 with the parameters of R356, and multiplication in GF(2^128)
in the bit order of GCM (PRESUMED, log entry 23). -/
namespace Sys2Proof.Machine

/-- Doubling in the field of AES. -/
def xtime (b : Byte) : Byte := (b <<< 1) ^^^ (if b.getLsbD 7 then 0x1B else 0)

/-- Multiplication in the field of AES. -/
def gmul (a b : Byte) : Byte :=
  ((List.range 8).foldl (fun (x : Byte × Byte) i => (if b.getLsbD i then x.1 ^^^ x.2 else x.1, xtime x.2))
    ((0 : Byte), a)).1

/-- The inverse in the field of AES, a to the power 254. -/
def ginv (a : Byte) : Byte :=
  let a2 := gmul a a
  let a4 := gmul a2 a2
  let a8 := gmul a4 a4
  let a16 := gmul a8 a8
  let a32 := gmul a16 a16
  let a64 := gmul a32 a32
  let a128 := gmul a64 a64
  gmul a2 (gmul a4 (gmul a8 (gmul a16 (gmul a32 (gmul a64 a128)))))

/-- Rotation of a byte to the left. -/
def rotb (b : Byte) (n : Nat) : Byte := (b <<< n) ||| (b >>> (8 - n))

/-- The substitution box and its inverse. -/
def sbox (b : Byte) : Byte :=
  let x := ginv b
  x ^^^ rotb x 1 ^^^ rotb x 2 ^^^ rotb x 3 ^^^ rotb x 4 ^^^ 0x63
def invSbox (b : Byte) : Byte :=
  ginv (rotb b 1 ^^^ rotb b 3 ^^^ rotb b 6 ^^^ 0x05)

/-- Bytewise exclusive or. -/
def xorBytes (a b : List Byte) : List Byte := List.zipWith (· ^^^ ·) a b

/-- Key expansion: words of four bytes, `n` more of them from a key of `nk` words. -/
def expandKey (nk : Nat) : Nat → List (List Byte) → Byte → List (List Byte)
  | 0, ws, _ => ws
  | n + 1, ws, rc =>
    let i := ws.length
    let prev := ws.getD (i - 1) []
    let t := if i % nk = 0 then xorBytes ((prev.drop 1 ++ prev.take 1).map sbox) [rc, 0, 0, 0]
      else if nk > 6 ∧ i % nk = 4 then prev.map sbox else prev
    expandKey nk n (ws ++ [xorBytes (ws.getD (i - nk) []) t]) (if i % nk = 0 then xtime rc else rc)

/-- Cut a list into groups of n. -/
def chunks {α : Type} (n : Nat) : Nat → List α → List (List α)
  | 0, _ => []
  | k + 1, l => if l = [] ∨ n = 0 then [] else l.take n :: chunks n k (l.drop n)

/-- The round keys of a key of 16, 24 or 32 bytes. -/
def roundKeys (key : List Byte) : List (List Byte) :=
  let nk := key.length / 4
  let ws := expandKey nk (4 * (nk + 7) - nk) (chunks 4 nk key) 1
  (chunks 4 (nk + 7) ws).map List.flatten

/-- The row shift of a state of 16 bytes, by columns; its inverse. -/
def shiftRows (x : List Byte) : List Byte := (List.range 16).map fun i => x.getD ((i + 4 * (i % 4)) % 16) 0
def invShiftRows (x : List Byte) : List Byte := (List.range 16).map fun i => x.getD ((i + 12 * (i % 4)) % 16) 0

/-- One column times a circulant row. -/
def mixColumn (m c : List Byte) : List Byte :=
  (List.range 4).map fun i =>
    (List.range 4).foldl (fun a j => a ^^^ gmul (m.getD ((j + 4 - i) % 4) 0) (c.getD j 0)) 0
def mixWith (m x : List Byte) : List Byte := (chunks 4 4 x).flatMap (mixColumn m)

/-- AES of one block of 16 bytes. -/
def aesEnc (key block : List Byte) : List Byte :=
  let rk := roundKeys key
  let n := rk.length - 1
  let x := (List.range (n - 1)).foldl
    (fun x i => xorBytes (mixWith [2, 3, 1, 1] (shiftRows (x.map sbox))) (rk.getD (i + 1) []))
    (xorBytes block (rk.getD 0 []))
  xorBytes (shiftRows (x.map sbox)) (rk.getD n [])

/-- The inverse of AES of one block. -/
def aesDec (key block : List Byte) : List Byte :=
  let rk := roundKeys key
  let n := rk.length - 1
  let x := (List.range (n - 1)).foldl
    (fun x i => mixWith [14, 11, 13, 9] (xorBytes ((invShiftRows x).map invSbox) (rk.getD (n - 1 - i) [])))
    (xorBytes block (rk.getD n []))
  xorBytes ((invShiftRows x).map invSbox) (rk.getD 0 [])

/-- Doubling of a 128-bit number, most significant bit first, for the CMAC subkeys. -/
def dbl (b : List Byte) : List Byte :=
  let n := beNat b
  beBytes 16 (Nat.xor (n * 2 % 2 ^ 128) (if n ≥ 2 ^ 127 then 0x87 else 0))

/-- CMAC of a message (SP 800-38B). -/
def cmac (key msg : List Byte) : List Byte :=
  let k1 := dbl (aesEnc key (List.replicate 16 0))
  let bs := chunks 16 (msg.length / 16 + 1) msg
  let last := bs.getLastD []
  let lastX := if last.length = 16 then xorBytes last k1
    else xorBytes ((last ++ [0x80] ++ List.replicate 16 0).take 16) (dbl k1)
  let x := bs.dropLast.foldl (fun x b => aesEnc key (xorBytes x b)) (List.replicate 16 0)
  aesEnc key (xorBytes x lastX)

/-- Output length in bits of a key type (R358). -/
def keyBits (ktype : Nat) : Nat := [128, 192, 256, 256, 512].getD ktype 0

/-- A context's key from its root key, label and type (R356): K(1), K(2), ... cut to L bits. -/
def deriveKey (root label : List Byte) (ktype : Nat) : List Byte :=
  let l := keyBits ktype
  let n := (l + 127) / 128
  let fixed : List Byte := [0x4D, 0x5A, 0x4B, 0x44] ++ [0x00] ++ label ++ [BitVec.ofNat 8 ktype] ++
    List.replicate 23 0 ++ beBytes 2 l
  ((List.range n).flatMap fun i => cmac root (BitVec.ofNat 8 (i + 1) :: fixed)).take (l / 8)

/-- Multiplication in GF(2^128) in GCM's bit order: the first bit of a block is the coefficient of x^0. -/
def ghMul (x y : List Byte) : List Byte :=
  let xn := beNat x
  let r := (List.range 128).foldl (fun (a : Nat × Nat) i =>
    let z := if bitOf xn (127 - i) then Nat.xor a.1 a.2 else a.1
    let v := if a.2 % 2 = 1 then Nat.xor (a.2 / 2) (0xE1 * 2 ^ 120) else a.2 / 2
    (z, v)) (0, beNat y)
  beBytes 16 r.1

end Sys2Proof.Machine
end

