-- ==== Sys2Proof/Machine/FlowCode.lean ====
section
/-! DEFINITION. The encoding of flow-core instructions (R274 to R288): which instruction a 32-bit code word is, and the
word of an instruction. -/
namespace Sys2Proof.Machine

/-- The flow-core instructions (14_flow_core_isa.md). -/
inductive FcOp where
  | add | sub | and | or | xor | sll | srl | sra | slt | sltu | mul | mulhu | divu | remu | clz | popc
  | addi | extu | andi | ori | xori | shi | hwset | hwins
  | ldb | ldh | ldw | ldd | ldhs | ldws | ldds | stb | sth | stw | std | sths | stws
  | beq | bne | blt | bge | bltu | bgeu | j | jal | jalr
  | evwait | evsend | tmset | mfsr | csum | hmap | hput | ftread | chw | post
  | crypt | gfmul | tbl | balloc | bfree | bxfer
  deriving DecidableEq, Repr

/-- An instruction with its raw fields: `a` bits 25 to 21, `b` bits 20 to 16, `c` bits 15 to 11, `lo` bits 10 to 0
(R274). -/
structure FcI where
  op : FcOp
  a : Fin 32
  b : Fin 32
  c : Fin 32
  lo : Fin 2048
  deriving DecidableEq, Repr

/-- IMM16 or OFF16 of an instruction (R274). -/
def FcI.imm (i : FcI) : Nat := i.c.val * 2048 + i.lo.val

/-- OP of an instruction (R275, R276, R278 to R288). -/
def fcCode : FcOp → Nat
  | .add | .sub | .and | .or | .xor | .sll | .srl | .sra | .slt | .sltu | .mul | .mulhu | .divu | .remu | .clz
  | .popc => 0x00
  | .addi => 0x01
  | .extu => 0x02
  | .andi => 0x03
  | .ori => 0x04
  | .xori => 0x05
  | .shi => 0x06
  | .hwset => 0x08
  | .hwins => 0x09
  | .ldb => 0x10
  | .ldh => 0x11
  | .ldw => 0x12
  | .ldd => 0x13
  | .ldhs => 0x14
  | .ldws => 0x15
  | .ldds => 0x16
  | .stb => 0x18
  | .sth => 0x19
  | .stw => 0x1A
  | .std => 0x1B
  | .sths => 0x1C
  | .stws => 0x1D
  | .beq => 0x20
  | .bne => 0x21
  | .blt => 0x22
  | .bge => 0x23
  | .bltu => 0x24
  | .bgeu => 0x25
  | .j => 0x28
  | .jal => 0x29
  | .jalr => 0x2A
  | .evwait => 0x30
  | .evsend => 0x31
  | .tmset => 0x32
  | .mfsr => 0x33
  | .csum => 0x34
  | .hmap => 0x35
  | .hput => 0x36
  | .ftread => 0x37
  | .chw => 0x38
  | .post => 0x39
  | .crypt => 0x3A
  | .gfmul => 0x3B
  | .tbl => 0x3C
  | .balloc => 0x3D
  | .bfree | .bxfer => 0x3E

/-- FUNC of an instruction that one value of FUNC selects (R275, R285). -/
def fcFunc : FcOp → Option Nat
  | .add => some 0
  | .sub => some 1
  | .and => some 2
  | .or => some 3
  | .xor => some 4
  | .sll => some 5
  | .srl => some 6
  | .sra => some 7
  | .slt => some 8
  | .sltu => some 9
  | .mul => some 10
  | .mulhu => some 11
  | .divu => some 12
  | .remu => some 13
  | .clz => some 14
  | .popc => some 15
  | .bfree => some 0
  | .bxfer => some 1
  | _ => none

/-- The instruction that OP and FUNC select; none is an undefined encoding (R274). -/
def fcSelect (o f : Nat) : Option FcOp :=
  match o with
  | 0x00 =>
    match f with
    | 0 => some .add
    | 1 => some .sub
    | 2 => some .and
    | 3 => some .or
    | 4 => some .xor
    | 5 => some .sll
    | 6 => some .srl
    | 7 => some .sra
    | 8 => some .slt
    | 9 => some .sltu
    | 10 => some .mul
    | 11 => some .mulhu
    | 12 => some .divu
    | 13 => some .remu
    | 14 => some .clz
    | 15 => some .popc
    | _ => none
  | 0x01 => some .addi
  | 0x02 => some .extu
  | 0x03 => some .andi
  | 0x04 => some .ori
  | 0x05 => some .xori
  | 0x06 => some .shi
  | 0x08 => some .hwset
  | 0x09 => some .hwins
  | 0x10 => some .ldb
  | 0x11 => some .ldh
  | 0x12 => some .ldw
  | 0x13 => some .ldd
  | 0x14 => some .ldhs
  | 0x15 => some .ldws
  | 0x16 => some .ldds
  | 0x18 => some .stb
  | 0x19 => some .sth
  | 0x1A => some .stw
  | 0x1B => some .std
  | 0x1C => some .sths
  | 0x1D => some .stws
  | 0x20 => some .beq
  | 0x21 => some .bne
  | 0x22 => some .blt
  | 0x23 => some .bge
  | 0x24 => some .bltu
  | 0x25 => some .bgeu
  | 0x28 => some .j
  | 0x29 => some .jal
  | 0x2A => some .jalr
  | 0x30 => some .evwait
  | 0x31 => some .evsend
  | 0x32 => some .tmset
  | 0x33 => some .mfsr
  | 0x34 => some .csum
  | 0x35 => some .hmap
  | 0x36 => some .hput
  | 0x37 => some .ftread
  | 0x38 => some .chw
  | 0x39 => some .post
  | 0x3A => some .crypt
  | 0x3B => some .gfmul
  | 0x3C => some .tbl
  | 0x3D => some .balloc
  | 0x3E =>
    match f with
    | 0 => some .bfree
    | 1 => some .bxfer
    | _ => none
  | _ => none

/-- The reserved fields are zero and no operand combination is one that a table calls ILLEGAL (R274 to R288). Bits that
the row of an instruction gives no meaning and does not reserve are ignored (log entry 20). -/
def fcFieldsOk (i : FcI) : Bool :=
  let imm := i.imm
  match i.op with
  | .clz | .popc => i.c.val = 0
  | .extu => imm / 2 ^ 12 = 0
  | .shi => decide (imm / 2 ^ 8 = 0) && decide (imm / 64 % 4 ≠ 3)
  | .hwset => i.b.val / 8 = 0
  | .hwins => i.b.val / 4 = 0
  | .mfsr => decide (i.b.val = 0) && decide (imm ≤ 5)
  | .ftread => decide (i.b.val = 0) && decide (imm = 0)
  | .evwait => imm = 0
  | .evsend => i.a.val = 0
  | .hmap | .csum => i.lo.val / 2 = 0
  | .crypt | .gfmul => decide (i.a.val = 0) && decide (i.c.val = 0) && decide (i.lo.val = 0)
  | .tbl => decide (i.lo.val / 2 % 8 = 0) && decide (i.lo.val / 256 ≤ 4) && decide (i.lo.val / 16 % 16 ≤ 5)
  | .balloc => decide (imm / 2 ^ 15 = 0) && decide (imm / 8 % 2 ^ 11 = 0) && !(decide (imm / 2 ^ 14 = 1) && decide (imm % 8 ≥ 6))
  | .bfree => i.c.val = 0
  | .chw => decide (i.a.val = 0) && decide (imm / 8 = 0)
  | .post => decide (i.a.val = 0) && decide (i.b.val = 0) && decide (imm = 0)
  | _ => true

/-- The instruction a code word holds; none is an undefined encoding, which faults ILLEGAL (R274). -/
def fcDecode (w : BitVec 32) : Option FcI :=
  let n := w.toNat
  match fcSelect (n / 2 ^ 26) (n % 2048) with
  | none => none
  | some op =>
    let i : FcI := {
      op := op, a := Fin.ofNat 32 (n / 2 ^ 21), b := Fin.ofNat 32 (n / 2 ^ 16), c := Fin.ofNat 32 (n / 2 ^ 11)
      lo := Fin.ofNat 2048 n }
    if fcFieldsOk i then some i else none

/-- The code word of an instruction (R274). -/
def fcEncode (i : FcI) : BitVec 32 :=
  BitVec.ofNat 32 (fcCode i.op * 2 ^ 26 + i.a.val * 2 ^ 21 + i.b.val * 2 ^ 16 + i.c.val * 2 ^ 11 + i.lo.val)

/-- An instruction whose FUNC is its own and whose fields the tables allow. -/
def FcI.wf (i : FcI) : Bool :=
  fcFieldsOk i && (match fcFunc i.op with | some f => decide (i.lo.val = f) | none => true)

end Sys2Proof.Machine
end

