-- ==== Sys2Proof/Machine/Operands.lean ====
section
/-! DEFINITION. The operand forms: general registers, immediates and offsets of flow-core instructions (R272 to R274),
status results (R273), and the data segments of a submission entry (R103). -/
namespace Sys2Proof.Machine

/-- Sign extension of an n-bit number to 64 bits. -/
def sext (n v : Nat) : DWord := BitVec.signExtend 64 (BitVec.ofNat n v)

/-- Sign-extended IMM16 (R274). -/
def FcI.simm (i : FcI) : DWord := sext 16 i.imm

/-- Zero-extended IMM16 (R274). -/
def FcI.zimm (i : FcI) : DWord := BitVec.ofNat 64 i.imm

/-- OFF26 of format J (R274). -/
def FcI.off26 (i : FcI) : Nat := i.a.val * 2 ^ 21 + i.b.val * 2 ^ 16 + i.c.val * 2 ^ 11 + i.lo.val

/-- A target word index: PC plus a signed offset of n bits. Modulo 2^32 a target before word 0 lies beyond every CODE_LEN
(R268, R275, log entry 115). -/
def pcPlus (pc n off : Nat) : Nat :=
  ((BitVec.ofNat 32 pc + (BitVec.signExtend 32 (BitVec.ofNat n off))).toNat)

/-- A general register; w0 reads zero (R272). -/
def wget (t : Thr) (r : Nat) : DWord := if r = 0 then 0 else mget 0 t.regs r

/-- Write a general register; a write to w0 is discarded (R272). -/
def wset (t : Thr) (r : Nat) (v : DWord) : Thr := if r = 0 then t else { t with regs := mset t.regs r v }

/-- A failing status result: bit 63 and [62:16] ones, the detail code, the status code (R273). -/
def statusFail (st : Status) (detail : Nat := 0) : DWord :=
  BitVec.ofNat 64 ((2 ^ 48 - 1) * 2 ^ 16 + detail * 2 ^ 8 + statusCode st)

/-- A data segment (R103): address or handle, offset, length, IN_MERE. -/
structure Seg where
  lo : Nat
  hi : Nat
  len : Nat
  inMere : Bool
  deriving DecidableEq, Repr

/-- The segment at word w of an entry. -/
def segAt (e : Entry) (w : Nat) : Seg :=
  { lo := dw e w, hi := dw e (w + 1), len := dw e (w + 2) % 2 ^ 24, inMere := bitOf (dw e (w + 3)) 31 }

/-- The segment words of a job: one in its FIRST entry, three in each other (R102). -/
def segWords (es : List Entry) : List (Entry × Nat) :=
  match es with
  | [] => []
  | e :: r => (e, 4) :: r.flatMap fun x => [(x, 4), (x, 8), (x, 12)]

/-- The used segments of a job, in order (R103). -/
def segsOf (es : List Entry) : List Seg :=
  ((segWords es).map fun x => segAt x.1 x.2).filter fun g => decide (g.len ≠ 0)

/-- Host address of a segment. -/
def Seg.addr (g : Seg) : Nat := g.lo + g.hi * 2 ^ 32

/-- Bytes of all segments. -/
def segBytes (gs : List Seg) : Nat := gs.foldl (fun n g => n + g.len) 0

/-- Reserved fields of the segments are zero and no used segment follows an unused one (R103, R104). -/
def segsOk (es : List Entry) : Bool :=
  let l := (segWords es).map fun x => (segAt x.1 x.2, dw x.1 (x.2 + 2) / 2 ^ 24, dw x.1 (x.2 + 3) % 2 ^ 31)
  (l.all fun x => decide (x.2.1 = 0) && decide (x.2.2 = 0)) &&
  ((l.map fun x => decide (x.1.len ≠ 0)).foldl
    (fun (a : Bool × Bool) u => (a.1 && (a.2 || !u), u)) (true, true)).1

/-- Every Mere segment lies in a buffer owned by the queue's owner (R103). -/
def segsOwned (s : State) (r : Nat) (gs : List Seg) : Bool :=
  gs.all fun g => !g.inMere || (ownedBy s g.lo r && bufValid s g.lo && decide (g.hi + g.len ≤ poolSize (bPool g.lo)))

end Sys2Proof.Machine
end

