-- ==== Sys2Proof/Machine/FlowCore.lean ====
section
/-! DEFINITION. Flow cores: threads, events, rings, inboxes, faults, restarts and core states (13_flow_cores.md). -/
namespace Sys2Proof.Machine

/-! ### Cores, threads and their clocks -/

/-- The record of a core, of a thread. -/
def coreOf (s : State) (c : Nat) : Core := mget {} s.cores c
def thrOf (s : State) (c t : Nat) : Thr := mget {} (coreOf s c).threads t

/-- Change a core. -/
def modCore (s : State) (c : Nat) (f : Core → Core) : State := { s with cores := mset s.cores c (f (coreOf s c)) }

/-- Pool requester of a core's cluster (R247). -/
def clusterReq (c : Nat) : Nat := reqCluster (c / 12)

/-- Some thread of the device is HALTED. -/
def anyHalted (s : State) : Bool := s.cores.any fun c => c.2.threads.any fun t => decide (t.2.st = .halted)

/-- Keep the clock that stops while a thread is HALTED (R264). -/
def haltClock (s : State) : State :=
  match s.dbg.haltSince, anyHalted s with
  | none, true => { s with dbg := { s.dbg with haltSince := some s.clk } }
  | some t, false => { s with dbg := { s.dbg with haltSince := none, haltAcc := s.dbg.haltAcc + (s.clk - t) } }
  | _, _ => s

/-- Local time less the time spent with a thread HALTED (R264). -/
def wdClock (s : State) : Nat :=
  s.clk - s.dbg.haltAcc - (match s.dbg.haltSince with | some t => s.clk - t | none => 0)

/-- A thread that is RUNNING, WAITING or HALTED (R252). -/
def Thr.live (t : Thr) : Bool := t.st = .running || t.st = .waiting || t.st = .halted

/-- The core is in mutual wait (R261). -/
def mutualWait (k : Core) : Bool :=
  k.threads.any (fun t => t.2.live) &&
  k.threads.all fun t =>
    !t.2.live || (t.2.st = .waiting && (match t.2.wait with | some (m, _) => decide (m < 65536) | none => false))

/-- RUNNING time in ps of a thread in this epoch, up to now (R252). -/
def runTime (s : State) (th : Thr) : Nat := th.runAcc + (if th.st = .running then s.clk - th.runAt else 0)

/-- A core without its threads: what they ran in this epoch is kept for the next rebuild (R251, R252). -/
def dropThreads (s : State) (k : Core) : Core :=
  { k with threads := [], accs := k.threads.foldl (fun m t => mset m t.1 (mget 0 m t.1 + runTime s t.2)) k.accs }

/-- Store a thread: its run time is kept (R252), and the last CCLK in which the core was not in mutual wait (R261). -/
def putThr (s : State) (c t : Nat) (th : Thr) : State :=
  let old := thrOf s c t
  let th := if old.st = .running ∧ th.st ≠ .running then { th with runAcc := th.runAcc + (s.clk - th.runAt) }
    else if old.st ≠ .running ∧ th.st = .running then { th with runAt := s.clk } else th
  let s' := modCore s c fun k =>
    let ts := mset k.threads t th
    { k with
      threads := ts, lastAct := if mutualWait k ∧ mutualWait { k with threads := ts } then k.lastAct else s.clk }
  if decide (old.st = .halted) = decide (th.st = .halted) then s' else haltClock s'

/-- Change a thread. -/
def modThr (s : State) (c t : Nat) (f : Thr → Thr) : State := putThr s c t (f (thrOf s c t))

/-- Count an event of the selectable counters of a core for a thread (R405, R406). -/
def pmc (s : State) (c t code n : Nat) : State :=
  (List.range 6).foldl (fun s k =>
    let w := mget 0 (coreOf s c).pmc k
    if w % 256 = code ∧ bitOf w (16 + t) then cadd s 10 c (5 + k) n else s) s

/-! ### Code and the slot table -/

/-- Byte address of an image slot (R268). -/
def imgBase (i : Nat) : Nat := i * 2 ^ 23

/-- Word of an image header (R268). -/
def imgWord (s : State) (i k : Nat) : Nat := leNat (readMem s.fwmem (imgBase i + 4 * k) 4)

/-- CODE_LEN and DATA_LEN of an image (R268). -/
def codeLen (s : State) (i : Nat) : Nat := imgWord s i 1
def dataLen (s : State) (i : Nat) : Nat := imgWord s i 2

/-- ENTRY_t of an image; none leaves the thread EMPTY (R268). -/
def imgEntry (s : State) (i t : Nat) : Option Nat :=
  let e := imgWord s i (4 + t)
  if e = 0xFFFFFFFF then none else some e

/-- Code follows the header, and the initial data the code (DEDUCED, log entry 21). -/
def codeWord (s : State) (i pc : Nat) : BitVec 32 :=
  BitVec.ofNat 32 (leNat (readMem s.fwmem (imgBase i + 128 + 4 * pc) 4))
def imgData (s : State) (i off n : Nat) : List Byte := readMem s.fwmem (imgBase i + 128 + codeLen s i + off) n

/-- The table that FC_SLOT_0 to FC_SLOT_7 were written with: 32 entries, 16 standing for an invalid one (R249). -/
def slotRegs (s : State) (c : Nat) : List Nat :=
  (List.range 8).flatMap fun j =>
    let w := rget s (F.FC_SLOT_V_0.off + 4 * j) c
    (List.range 4).map fun k => if bitOf w (8 * k + 7) then bitsOf w (8 * k + 3) (8 * k) else 16

/-- The slot table in force (R249, R252): with adaptive weighting the one last rebuilt; a core without a record had no live
thread at the last pulse. -/
def slotTable (s : State) (c : Nat) : List Nat :=
  if rd s F.FC_ADAPT_EN 0 c = 1 then
    ((coreOf s c).slots).getD (if s.fcPulse then List.replicate 32 16 else slotRegs s c)
  else slotRegs s c

/-- A thread's weight (R249). -/
def weight (s : State) (c t : Nat) : Nat := ((slotTable s c).filter (· = t)).length

/-! ### Events (R260) -/

/-- A thread whose mask has a pending bit leaves its wait: the matched bits are cleared and written to rd (R251,
R278). -/
def wake (t : Thr) : Thr :=
  match t.wait with
  | some (m, r) =>
    let hit := Nat.land t.ev m
    if t.st = .waiting ∧ hit ≠ 0 then
      { wset t r (BitVec.ofNat 64 hit) with
        st := .running, wait := none, ev := t.ev - hit, pc := t.pc + 1, wd := none }
    else t
  | none => t

/-- Make event bits pending on a thread (R260). -/
def setEvent (s : State) (c t bits : Nat) : State := modThr s c t fun th => wake { th with ev := Nat.lor th.ev bits }

/-- Reset a thread to its entry (R251, R267); what it has run in this epoch counts on (R252). -/
def freshThr (s : State) (pc ran : Nat) : Thr := { st := .running, pc := pc, runAcc := ran, runAt := s.clk }

/-! ### Rings and descriptors (R255 to R259) -/

/-- The record of a ring and a change of it. -/
def ringOf (s : State) (r : Nat) : Ring := mget {} s.rings r
def modRing (s : State) (r : Nat) (f : Ring → Ring) : State := { s with rings := mset s.rings r (f (ringOf s r)) }

/-- Configuration of a ring. -/
def ringEn (s : State) (r : Nat) : Bool := rd s F.FC_RING_CFG_EN 0 r = 1
def ringCore (s : State) (r : Nat) : Nat := rd s F.FC_RING_CFG_CORE 0 r
def ringDepth (s : State) (r : Nat) : Nat := 2 ^ rd s F.FC_RING_CFG_LOG2_DEPTH 0 r

/-- Discard a descriptor (R258): a frame's buffer is freed and counted; a job completes with a status. -/
def discardDesc (s : State) (r : Nat) (d : FDesc) (st : Status) (gone : Bool := false) : State :=
  if d.kind = 2 then
    if (mget? s.jobs d.uid).isSome then finishJob (if gone then s else devFree s d.buf) d.uid st 0 else s
  else cadd (devFree s d.buf) 10 (0x1000 + r) 0 1

/-- A descriptor arrives at a ring (R256, R258). In those of the transport and storage engines the fields that are not named are
zero, TIME among them (R313, R382). -/
def ringArrive (s : State) (r : Nat) (d : FDesc) (untimed : Bool := false) : State :=
  if !ringEn s r then discardDesc s r d .invalidField
  else if (coreOf s (ringCore s r)).st = .offline then discardDesc s r d .workDiscarded
  else if (ringOf s r).q.length ≥ ringDepth s r then
    discardDesc (raiseOnce s .fcRingFull (0x1000 + r)) r d .noResource
  else modRing s r fun k => { k with q := k.q ++ [{ d with time := if untimed then 0 else shortTs s }] }

/-- A frame arrives at a ring with what is kept with its buffer (R256, R289). -/
def frameDesc (s : State) (buf len reason colour cls path : Nat) : FDesc :=
  let p := mget {} s.pkts buf
  { buf := buf, len := len, reason := reason, kind := b2n p.srcHost, srcHost := p.srcHost, src := p.src,
    slot := (p.stamp.map (·.1)).getD 0, slotGen := (p.stamp.map (·.2)).getD 0, colour := colour, cls := cls,
    path := path }

/-- The 32 bytes of a descriptor with VALID set (R256). -/
def descBytes (d : FDesc) : List Byte :=
  leBytes 4 d.buf ++ leBytes 4 (d.len % 2 ^ 24) ++
  leBytes 4 (2 ^ 31 + d.reason * 2 ^ 25 + d.kind * 2 ^ 23 + b2n d.srcHost * 2 ^ 22 + d.src * 2 ^ 10 + d.slot * 2 ^ 8 +
    d.colour * 8 + d.cls) ++
  leBytes 4 (d.slotGen * 2 ^ 24 + d.path * 2 ^ 16) ++ leBytes 8 d.time ++ leBytes 4 d.sq ++
  leBytes 4 (d.cid * 2 ^ 16 + d.word)

/-- Rings bound to a core. -/
def ringsOf (s : State) (c : Nat) : List Nat := (s.rings.filter fun r => decide (ringCore s r.1 = c)).map (·.1)

/-! ### Held buffers (R265) -/

/-- The device frees a held buffer in the cluster's name; one that is FREE or HANDED is passed over (R265). -/
def heldFree (s : State) (c h : Nat) : State :=
  match mget? s.coop.bufs h with
  | some b => if b.st = .handed then s else (bufFree s h (clusterReq c)).2
  | none => s

/-- The device releases the held buffers of some threads of a core (R265). -/
def releaseHeld (s : State) (c : Nat) (p : Nat → Bool) : State :=
  let gone := (coreOf s c).held.filter fun h => p h.2
  let s := modCore s c fun k => { k with held := k.held.filter fun h => !p h.2 }
  gone.foldl (fun s h => heldFree s c h.1) s

/-- Inbox entries whose buffer leaves the held-buffer table. -/
def Core.drop (k : Core) (h : Nat) : Core :=
  { k with
    held := k.held.filter (·.1 ≠ h)
    threads := mmap (fun _ t => { t with
      inbox := mmap (fun _ x => if x.d.buf = h then { x with gone := true } else x) t.inbox }) k.threads }

/-- Take a buffer out of the held table of whichever core of a cluster holds it (R285). -/
def unhold (s : State) (cl h : Nat) : State :=
  { s with cores := mmap (fun c k => if c / 12 = cl ∧ k.held.any (·.1 = h) then k.drop h else k) s.cores }

/-- The core holds a buffer. -/
def holds (s : State) (c h : Nat) : Bool := (coreOf s c).held.any (·.1 = h)

/-! ### Discarding inboxes (R267, R269, R270) -/

/-- Discard an inbox entry that the thread has taken (R258): a frame whose buffer has not left the held table since, or a job
still outstanding, whose buffer is freed only if it has not left the table either (log entry 22). -/
def discardTaken (s : State) (x : Inbox) : State :=
  if x.d.kind = 2 ∨ !x.gone then discardDesc s x.ring x.d .workDiscarded x.gone else s

/-- Return descriptors to the front of their rings in their order (R267); their buffers are no longer held. -/
def returnDescs (s : State) (c : Nat) (xs : List Inbox) : State :=
  let s := modCore s c fun k => { k with held := k.held.filter fun h => !xs.any fun x => decide (x.d.buf = h.1) }
  xs.reverse.foldl (fun s x => modRing s x.ring fun k => { k with q := x.d :: k.q }) s

/-- The inbox entries of some threads that are not taken, in the order of delivery. -/
def untaken (ts : List Thr) : List Inbox :=
  (ts.flatMap fun t => (t.inbox.filter fun x => !x.2.taken).map (·.2)).mergeSort fun a b => decide (a.seq ≤ b.seq)

/-! ### Core start, stop and restart (R253, R268 to R270) -/

/-- Slices as the registers give them: start and size in bytes. -/
def sliceRegs (s : State) (c : Nat) : List (Nat × Nat) :=
  (List.range 16).map fun t => (rd s F.FC_SLICE_BASE t c * 4096, rd s F.FC_SLICE_SIZE t c * 4096)

/-- The failing check of a start as ERR_CODE; 0 for none (R253, R269). -/
def startErr (s : State) (c i : Nat) : Nat :=
  let sl := sliceRegs s c
  if rd s F.FC_IMG_VALID i = 0 then 1
  else if (sl.any fun x => decide (x.1 + x.2 > 2 ^ 18)) ||
      (List.range 16).any fun a => (List.range a).any fun b =>
        let x := sl.getD a (0, 0)
        let y := sl.getD b (0, 0)
        decide (x.2 ≠ 0 ∧ y.2 ≠ 0 ∧ x.1 < y.1 + y.2 ∧ y.1 < x.1 + x.2) then 2
  else if (List.range 16).any fun t => (imgEntry s i t).isSome && decide ((sl.getD t (0, 0)).2 = 0) then 3
  else 0

/-- Local address of a core's byte in the store of local memories. -/
def lmAddr (c a : Nat) : Nat := c * 2 ^ 18 + a

/-- Load a core from its image, clear all inboxes, and make its entry threads RUNNING (R251, R269). `bad`: blocks of the code
that cannot be corrected (R266). -/
def loadCore (s : State) (c i : Nat) (bad : List Nat) : State :=
  let sl := sliceRegs s c
  let n := dataLen s i
  let s := { s with lmem := writeMem s.lmem (lmAddr c 0) (imgData s i 0 n) }
  let s := (List.range 16).foldl (fun s t =>
    if (sl.getD t (0, 0)).2 ≠ 0 then
      { s with lmem := writeMem s.lmem (lmAddr c (sl.getD t (0, 0)).1) (List.replicate 128 0) } else s) s
  let ts := (List.range 16).filterMap fun t => (imgEntry s i t).map fun e => (t, freshThr s e 0)
  haltClock (modCore s c fun k => { dropThreads s k with
    st := .running, image := i, threads := ts, slices := sl, lastAct := s.clk, badCode := bad })

/-- The core is STOPPED: its threads are EMPTY (R251, R269). -/
def coreStopped (s : State) (c : Nat) : State :=
  haltClock (modCore s c fun k => { dropThreads s k with
    st := .stopped, stopAt := s.clk, lastAct := s.clk })

/-- Steps 1 to 3 of R270: threads stop, descriptors are discarded, the held table is released. -/
def clearCore (s : State) (c : Nat) (st : Status) : State :=
  let ths := (coreOf s c).threads
  let boxes := ths.flatMap fun t => t.2.inbox.map (·.2)
  let s := modCore s c fun k => { k with threads := mmap (fun _ t => { t with inbox := [], slot := [] }) k.threads }
  let s := boxes.foldl (fun s x =>
    if x.taken then discardTaken s x else discardDesc s x.ring x.d st) s
  let s := (ringsOf s c).foldl (fun s r =>
    let q := (ringOf s r).q
    q.foldl (fun s d => discardDesc s r d st) (modRing s r fun k => { k with q := [] })) s
  releaseHeld s c fun _ => true

/-- A core restart (R270); beyond RESTART_MAX restarts within 1 s the core goes OFFLINE (R269). -/
def restartCore (s : State) (c : Nat) (mw : Bool) : State :=
  let s := clearCore s c .workDiscarded
  let times := s.clk :: (coreOf s c).restarts.filter fun t => decide (s.clk - t < 1000000000000)
  let off := times.length > rd s F.FC_FAULT_POLICY_RESTART_MAX 0 c
  let s := haltClock (modCore s c fun k => { dropThreads s k with
    st := if off then .offline else .restarting, restarts := times, lastAct := s.clk, stopAt := s.clk })
  let s := raise s .fcCoreRestart c
  let s := if mw then raise s .mutualWait c else s
  if off then raise s .fcCoreOffline c else s

/-- A word of code lies in a block that cannot be corrected: the fetch faults (R266, R435). -/
def badFetch (s : State) (c pc : Nat) : Bool := decide (4 * pc / 64 ∈ (coreOf s c).badCode)

/-- A thread fault (R266, R267): the staging slot goes, FC_FAULT_INFO records it, and FC_FAULT_POLICY decides. -/
def thrFault (s : State) (c t code : Nat) : State :=
  let s := modCore s c fun k => { k with fCode := code, fThread := t, fPc := (thrOf s c t).pc % 2 ^ 24 }
  let s := modThr s c t fun th => { th with
    st := .faulted, slot := [], stall := none, postWait := false, haltPend := false, stepping := false, wait := none,
    wd := none }
  let s := pmc (raise s .fcThreadFault c) c t 16 1
  match rd s F.FC_FAULT_POLICY_POLICY 0 c with
  | 0 => modThr s c t fun th => { th with restart := true }
  | 1 => restartCore s c false
  | _ => s

/-- The release and restart of one thread (R267, POLICY 0). -/
def restartThr (s : State) (c t : Nat) (halted : Bool) : State :=
  let th := thrOf s c t
  let k := coreOf s c
  let i := k.image
  let sl := k.slices.getD t (0, 0)
  let s := (th.inbox.filter (·.2.taken)).foldl (fun s x => discardTaken s x.2) s
  let s := returnDescs s c (untaken [th])
  let s := releaseHeld s c (· = t)
  let n := dataLen s i
  let s := { s with lmem := writeMem s.lmem (lmAddr c sl.1) (imgData s i sl.1 (min sl.2 (n - sl.1))) }
  let s := { s with lmem := writeMem s.lmem (lmAddr c sl.1) (List.replicate (min 128 sl.2) 0) }
  let f := freshThr s ((imgEntry s i t).getD 0) (runTime s th)
  putThr s c t (if halted then { f with st := .halted, prev := .running } else f)

/-- CORE_START (R269, R464): a START of a core in a cluster that is switched off switches it on first. -/
def coreStart (s : State) (c : Nat) (bad : List Nat := []) : State :=
  if (coreOf s c).st ≠ .stopped then s
  else
    let s := { s with clOff := s.clOff.filter (· ≠ c / 12) }
    let i := rd s F.FC_CTRL_IMAGE 0 c
    let e := startErr s c i
    if e = 0 then loadCore s c i bad else modCore s c fun k => { k with err := e }

/-- The core FC_SEL names (R271). -/
def selCore (s : State) : Nat := rd s F.FC_SEL_CORE

/-- CORE_START (R269). The image is FC_CTRL.IMAGE, which the same write sets. -/
def execCoreStart (port : HostPort) (value : Word) (bad : List Nat) (s : State) : Host.Outcome State Fault Refusal :=
  .next (regGate s port true fun s =>
    let c := selCore s
    coreStart (wr s F.FC_CTRL_IMAGE 0 c (value.toNat % 16)) c bad)

/-- Stop a core (R269). -/
def coreStop (s : State) (c : Nat) : State :=
  match (coreOf s c).st with
  | .running => modCore s c fun k => { k with st := .draining, drainAt := s.clk }
  | .offline => coreStopped s c
  | _ => s

/-- CORE_STOP (R269). -/
def execCoreStop (port : HostPort) (value : Word) (s : State) : Host.Outcome State Fault Refusal :=
  .next (regGate s port true fun s =>
    let c := selCore s
    coreStop (wr s F.FC_CTRL_IMAGE 0 c (value.toNat % 16)) c)

/-- A thread of a draining core is idle: EMPTY, or WAITING on bit 16 with an empty inbox (R269). -/
def idleThr (t : Thr) : Bool :=
  t.st = .empty ||
  (t.st = .waiting && (match t.wait with | some (m, _) => bitOf m 16 | none => false) &&
    t.inbox.all fun x => x.2.taken)

/-- CORE_DRAIN_END (R269). -/
def execCoreDrainEnd (core : CoreId) (s : State) : Host.Outcome State Fault Refusal :=
  let k := coreOf s core.val
  if k.st = .draining ∧ k.threads.all (fun t => idleThr t.2) then .next (coreStopped s core.val) else .next s

/-- FC_STOP_TIMEOUT (R269). -/
def execFcStopTimeout (core : CoreId) (s : State) : Host.Outcome State Fault Refusal :=
  let c := core.val
  let k := coreOf s c
  if k.st = .draining ∧ s.clk ≥ k.drainAt + usec (rd s F.FC_STOP_TIMEOUT_TIMEOUT 0 c) then
    let s := (k.threads.flatMap fun t => t.2.inbox.filter (·.2.taken)).foldl (fun s x => discardTaken s x.2) s
    let s := returnDescs s c (untaken (k.threads.map (·.2)))
    .next (raise (coreStopped (releaseHeld s c fun _ => true) c) .fcStopTimeout c)
  else .next s

/-- CORE_RELOAD_END (R269). -/
def execCoreReloadEnd (core : CoreId) (bad : List Nat) (s : State) : Host.Outcome State Fault Refusal :=
  let c := core.val
  let k := coreOf s c
  if k.st = .restarting ∧ running s then
    let e := startErr s c k.image
    if e = 0 then .next (loadCore s c k.image bad)
    else .next (modCore (coreStopped s c) c fun k => { k with err := e })
  else .next s

/-- THREAD_RESTART under POLICY 0 (R267). -/
def execThreadRestart (core : CoreId) (thread : ThreadId) (s : State) : Host.Outcome State Fault Refusal :=
  let t := thrOf s core.val thread.val
  if t.st = .faulted ∧ t.restart then .next (restartThr s core.val thread.val false) else .next s

/-! ### Rings: enabling and delivery -/

/-- Descriptors of all enabled rings together (R255). -/
def totalDepth (s : State) : Nat :=
  s.regs.foldl (fun n x =>
    if x.1 % 2 ^ 26 = F.FC_RING_CFG_EN.off ∧ bitOf x.2.toNat 31 then n + 2 ^ bitsOf x.2.toNat 28 24 else n) 0

/-- A write of FC_RING_CFG: enabling, disabling, or the fields that change while EN is 0 (R255). -/
def ringCfgWrite (s : State) (r w : Nat) : State :=
  let off := F.FC_RING_CFG_EN.off
  if bitsOf w 30 29 = 3 ∨ bitsOf w 28 24 < 6 ∨ bitsOf w 28 24 > 16 ∨ bitsOf w 23 16 > 191 then s
  else if ringEn s r then
    if bitOf w 31 then s
    else
      let q := (ringOf s r).q
      let s := wr s F.FC_RING_CFG_EN 0 r 0
      q.foldl (fun s d => discardDesc s r d .workDiscarded) (modRing s r fun k => { k with q := [] })
  else if bitOf w 31 ∧ totalDepth s + 2 ^ bitsOf w 28 24 > 4194304 then
    wr (rset s off r (w % 2 ^ 31)) F.FC_RING_STATUS_ERR 0 r 1
  else rset s off r w

/-- The ring FC_RING_SEL names (R271). -/
def selRing (s : State) : Nat := rd s F.FC_RING_SEL_RING

/-- RING_ENABLE: a write of FC_RING_CFG with EN 1 to a disabled ring (R255). -/
def execRingEnable (port : HostPort) (value : Word) (s : State) : Host.Outcome State Fault Refusal :=
  .next (regGate s port true fun s =>
    if bitOf value.toNat 31 ∧ !ringEn s (selRing s) then ringCfgWrite s (selRing s) value.toNat else s)

/-- RING_DISABLE: a write of FC_RING_CFG with EN 0 to an enabled ring (R255, R258). -/
def execRingDisable (port : HostPort) (value : Word) (s : State) : Host.Outcome State Fault Refusal :=
  .next (regGate s port true fun s =>
    if !bitOf value.toNat 31 ∧ ringEn s (selRing s) then ringCfgWrite s (selRing s) value.toNat else s)

/-- A free inbox entry of a thread. -/
def freeBox (t : Thr) : Option Nat :=
  (List.range 4).find? fun k => match mget? t.inbox k with | some x => x.taken | none => true

/-- A thread may receive a delivery (R257, R265). -/
def canReceive (s : State) (c t : Nat) : Bool :=
  let th := thrOf s c t
  let h := (coreOf s c).held
  (th.st = .running || th.st = .waiting) && (freeBox th).isSome && decide (h.length < 1024) &&
  decide ((h.filter (·.2 = t)).length < 64)

/-- INBOX_DELIVER: the head descriptor of a ring goes to a qualifying thread, in round-robin order (R257). -/
def execInboxDeliver (ring : Fin 4096) (s : State) : Host.Outcome State Fault Refusal :=
  let r := ring.val
  let k := ringOf s r
  let c := ringCore s r
  match k.q with
  | [] => .next s
  | d :: rest =>
    if !running s ∨ (coreOf s c).st ≠ .running ∨ !ringEn s r then .next s
    else
      let order := (List.range 16).map fun i => (k.last + 1 + i) % 16
      match order.find? fun t => bitOf (rd s F.FC_RING_CFG_THREADS 0 r) t && canReceive s c t with
      | none => .next s
      | some t =>
        let th := thrOf s c t
        let e := (freeBox th).getD 0
        let s := modRing s r fun k => { k with q := rest, last := t }
        let s := { s with
          lmem := writeMem s.lmem (lmAddr c (((coreOf s c).slices.getD t (0, 0)).1 + 32 * e)) (descBytes d) }
        let n := (coreOf s c).seq
        let s := modCore s c fun k => { k with held := k.held ++ [(d.buf, t)], seq := n + 1 }
        let s := modThr s c t fun th => { th with inbox := mset th.inbox e { ring := r, d := d, seq := n } }
        .next (setEvent (pmc s c t 14 1) c t (2 ^ 16))

/-! ### Mutual wait, watchdog, timer -/

/-- MUTUAL_WAIT: after 1,024 CCLK of 0.5 ns in mutual wait (R261). -/
def execMutualWait (core : CoreId) (s : State) : Host.Outcome State Fault Refusal :=
  let c := core.val
  let k := coreOf s c
  if (k.st = .running ∨ k.st = .draining) ∧ mutualWait k ∧ s.clk ≥ k.lastAct + 512000 then
    .next (restartCore (modCore s c fun k => { k with fCode := 9 }) c true)
  else .next s

/-- A watched wait (R263): WAITING with neither bit 16 nor bit 17 in the mask, or stalled at POST for credit. -/
def watched (t : Thr) : Bool :=
  (t.st = .waiting && (match t.wait with | some (m, _) => !bitOf m 16 && !bitOf m 17 | none => false)) ||
  (t.st = .running && t.postWait)

/-- WATCHDOG (R263). -/
def execWatchdog (core : CoreId) (thread : ThreadId) (s : State) : Host.Outcome State Fault Refusal :=
  let c := core.val
  let t := thrOf s c thread.val
  match t.wd with
  | some w =>
    if rd s F.FC_WDOG_EN 0 c = 1 ∧ watched t ∧ wdClock s ≥ w + usec (rd s F.FC_WDOG_LIMIT 0 c) then
      .next (thrFault s c thread.val 7)
    else .next s
  | none => .next s

/-- TIMER_EXPIRE (R278). -/
def execTimerExpire (core : CoreId) (thread : ThreadId) (s : State) : Host.Outcome State Fault Refusal :=
  let t := thrOf s core.val thread.val
  match t.timer with
  | some d =>
    if s.clk ≥ d ∧ t.st ≠ .empty then
      .next (setEvent (modThr s core.val thread.val fun th => { th with timer := none }) core.val thread.val (2 ^ 17))
    else .next s
  | none => .next s

end Sys2Proof.Machine
end

