-- ==== Sys2Proof/Machine/FlowIsa.lean ====
section
/-! DEFINITION. The flow-core instructions but POST (14_flow_core_isa.md). A command lets one thread issue the word at
its PC; it has its effect when that word is the command's instruction. -/
namespace Sys2Proof.Machine

/-! ### Issue (R249, R250, R266, R274, R472, R475) -/

/-- What an instruction does at issue. -/
inductive Iss where
  /-- It completes: the next state, and the local-memory accesses a watchpoint may match (first byte, length, write). -/
  | done (s : State) (acc : List (Nat × Nat × Bool))
  /-- The thread faults with a code of R266. -/
  | fault (code : Nat)
  /-- The thread faults with LM_ECC, and the error comes to its monitor (R266, R435). -/
  | lmLost
  /-- It does not issue now (R250). -/
  | hold
  /-- It issues and does not retire: the next state. -/
  | wait (s : State)

/-- A thread halts: RUNNING or WAITING becomes HALTED, and one stalled inside an instruction halts when that completes
(R251, R472). -/
def haltThr (t : Thr) : Thr :=
  if t.stall.isSome then { t with haltPend := true }
  else if t.st = .running ∨ t.st = .waiting then { t with st := .halted, prev := t.st, postWait := false, stepping := false }
  else t

/-- Halt the threads of a mask of a core. -/
def haltMask (s : State) (c mask : Nat) : State :=
  (List.range 16).foldl (fun s t => if bitOf mask t ∧ (mget? (coreOf s c).threads t).isSome then modThr s c t haltThr else s) s

/-- The breakpoint a thread is at, if any: whether it halts the whole core (R475). -/
def bpHit (s : State) (c t : Nat) : Option Bool :=
  let pc := (thrOf s c t).pc
  let hits := s.dbg.bps.filter fun b => decide (b.1 / 8 = c ∧ b.2.pc = pc) && bitOf b.2.mask t
  if hits = [] then none else some (hits.any (·.2.all))

/-- The watchpoints that accesses of a thread touch halt it, or the core (R475). -/
def wpApply (s : State) (c t : Nat) (acc : List (Nat × Nat × Bool)) : State :=
  let hits := s.dbg.wps.filter fun w =>
    decide (w.1 / 4 = c) && bitOf w.2.mask t &&
    acc.any fun a => (if a.2.2 then w.2.wr else w.2.rd) && decide (a.1 < w.2.base + w.2.len ∧ w.2.base < a.1 + a.2.1)
  if hits = [] then s
  else if hits.any (·.2.all) then haltMask s c 65535
  else modThr s c t haltThr

/-- An instruction issues: its slot is charged Issued (R250, R405, R406). -/
def issued (s : State) (c t : Nat) : State :=
  pmc (modCore (cadd s 10 c 1 1) c fun k => { k with owed := mset k.owed t (mget 0 k.owed t + 1) }) c t 1 1

/-- An instruction has retired: the watchdog returns to 0, the slot is charged Issued, and a STEP or a pending halt
ends in HALTED (R250, R263, R472). -/
def retired (s : State) (c t : Nat) : State :=
  let s := modThr s c t fun th =>
    let th := { th with wd := none, postWait := false }
    if th.stepping ∨ th.haltPend then { th with st := .halted, prev := .running, stepping := false, haltPend := false }
    else th
  issued s c t

/-- A thread with a request that waits while the entropy source fails: its slots are back-starved (R354). -/
def lsStarved (s : State) (c t : Nat) : Bool :=
  !s.ls.entropyOk && s.ls.queue.any fun q => decide (q.core = c ∧ q.thread = t) && (thrOf s c t).holds.any (·.1 = q.id)

/-- A thread may issue: its core runs, it is RUNNING and not stalled, it has a slot, and its cluster has power. -/
def mayIssue (s : State) (c t : Nat) : Bool :=
  let k := coreOf s c
  let th := thrOf s c t
  running s && (k.st = .running || k.st = .draining) && decide (th.st = .running) && th.stall.isNone &&
  decide (weight s c t ≠ 0) && decide (c / 12 ∉ s.clOff) && !lsStarved s c t

/-- One thread issues the word at its PC (R249, R266, R274). The command that is not this word's instruction has no
effect; a word that is no instruction faults ILLEGAL whichever command it is. -/
def issue (s : State) (c t : Nat) (want : FcOp) (body : State → Thr → FcI → Iss) : State :=
  if !mayIssue s c t then s
  else
    let th := thrOf s c t
    let img := (coreOf s c).image
    match (if th.stepping then none else bpHit s c t) with
    | some all => if all then haltMask s c 65535 else modThr s c t haltThr
    | none =>
      if 4 * th.pc + 4 > codeLen s img then thrFault s c t 6
      else if badFetch s c th.pc then thrFault (coreWear (raise (cadd s 8 0 16 1) .msEccUncorr 0) .coreUncorr c) c t 6
      else
        match fcDecode (codeWord s img th.pc) with
        | none => thrFault (issued s c t) c t 2
        | some i =>
          if i.op ≠ want then s
          else
            match body s th i with
            | .done s' acc => wpApply (retired s' c t) c t acc
            | .fault code => thrFault (issued s c t) c t code
            | .lmLost => thrFault (issued (coreWear s .coreUncorr c) c t) c t 4
            | .hold => s
            | .wait s' => s'

/-- What an access of a thread to local memory comes to: an uncorrectable error faults LM_ECC, a corrected one comes to its
monitor (R266, R435). -/
def lmCheck (s : State) (c : Nat) (lm : LmErr) (f : State → Iss) : Iss :=
  match lm with
  | .ok => f s
  | .corrected => f (coreWear s .coreCorr c)
  | .lost => .lmLost

/-- Store a thread with its PC moved on. -/
def next1 (s : State) (c t : Nat) (th : Thr) : State := putThr s c t { th with pc := th.pc + 1 }

/-- The same after a buffer has left the held table: the inbox keeps what that noted in it (R265, R267). -/
def nextHeld (s : State) (c t : Nat) (th : Thr) : State := next1 s c t { th with inbox := (thrOf s c t).inbox }

/-! ### Arithmetic (R275) -/

/-- An instruction of format A over two registers. -/
def alu (s : State) (core : CoreId) (thread : ThreadId) (op : FcOp) (f : DWord → DWord → DWord) : State :=
  issue s core.val thread.val op fun s th i =>
    .done (next1 s core.val thread.val (wset th i.a.val (f (wget th i.b.val) (wget th i.c.val)))) []

/-- An instruction of format B: a register and the instruction give rd. -/
def aluB (s : State) (core : CoreId) (thread : ThreadId) (op : FcOp) (f : DWord → FcI → DWord) : State :=
  issue s core.val thread.val op fun s th i =>
    .done (next1 s core.val thread.val (wset th i.a.val (f (wget th i.b.val) i))) []

/-- The shift distance of rs2 [5:0]. -/
def shamt (v : DWord) : Nat := v.toNat % 64

/-- Arithmetic shift right. -/
def sra64 (v : DWord) (n : Nat) : DWord := BitVec.sshiftRight v n

/-- Unsigned high half of a product. -/
def mulhu64 (a b : DWord) : DWord := BitVec.ofNat 64 (a.toNat * b.toNat / 2 ^ 64)

/-- Leading zeros, and set bits. -/
def clz64 (v : DWord) : DWord :=
  BitVec.ofNat 64 (((List.range 64).find? fun i => v.getLsbD (63 - i)).getD 64)
def popc64 (v : DWord) : DWord := BitVec.ofNat 64 ((List.range 64).filter fun i => v.getLsbD i).length

/-- A flag as a register value. -/
def boolW (b : Bool) : DWord := if b then 1 else 0

/-- ADD, SUB, AND, OR, XOR (R275). -/
def execAdd (core : CoreId) (thread : ThreadId) (s : State) : Host.Outcome State Fault Refusal :=
  .next (alu s core thread .add fun a b => a + b)
def execSub (core : CoreId) (thread : ThreadId) (s : State) : Host.Outcome State Fault Refusal :=
  .next (alu s core thread .sub fun a b => a - b)
def execAnd (core : CoreId) (thread : ThreadId) (s : State) : Host.Outcome State Fault Refusal :=
  .next (alu s core thread .and fun a b => a &&& b)
def execOr (core : CoreId) (thread : ThreadId) (s : State) : Host.Outcome State Fault Refusal :=
  .next (alu s core thread .or fun a b => a ||| b)
def execXor (core : CoreId) (thread : ThreadId) (s : State) : Host.Outcome State Fault Refusal :=
  .next (alu s core thread .xor fun a b => a ^^^ b)

/-- SLL, SRL, SRA by rs2 [5:0] (R275). -/
def execSll (core : CoreId) (thread : ThreadId) (s : State) : Host.Outcome State Fault Refusal :=
  .next (alu s core thread .sll fun a b => a <<< shamt b)
def execSrl (core : CoreId) (thread : ThreadId) (s : State) : Host.Outcome State Fault Refusal :=
  .next (alu s core thread .srl fun a b => a >>> shamt b)
def execSra (core : CoreId) (thread : ThreadId) (s : State) : Host.Outcome State Fault Refusal :=
  .next (alu s core thread .sra fun a b => sra64 a (shamt b))

/-- SLT, SLTU (R275). -/
def execSlt (core : CoreId) (thread : ThreadId) (s : State) : Host.Outcome State Fault Refusal :=
  .next (alu s core thread .slt fun a b => boolW (a.slt b))
def execSltu (core : CoreId) (thread : ThreadId) (s : State) : Host.Outcome State Fault Refusal :=
  .next (alu s core thread .sltu fun a b => boolW (a.ult b))

/-- MUL, MULHU, DIVU, REMU; a divisor of 0 gives all ones, and rs1 (R275). -/
def execMul (core : CoreId) (thread : ThreadId) (s : State) : Host.Outcome State Fault Refusal :=
  .next (alu s core thread .mul fun a b => a * b)
def execMulhu (core : CoreId) (thread : ThreadId) (s : State) : Host.Outcome State Fault Refusal :=
  .next (alu s core thread .mulhu mulhu64)
def execDivu (core : CoreId) (thread : ThreadId) (s : State) : Host.Outcome State Fault Refusal :=
  .next (alu s core thread .divu fun a b => if b = 0 then BitVec.allOnes 64 else a.udiv b)
def execRemu (core : CoreId) (thread : ThreadId) (s : State) : Host.Outcome State Fault Refusal :=
  .next (alu s core thread .remu fun a b => if b = 0 then a else a.umod b)

/-- CLZ, POPC (R275). -/
def execClz (core : CoreId) (thread : ThreadId) (s : State) : Host.Outcome State Fault Refusal :=
  .next (alu s core thread .clz fun a _ => clz64 a)
def execPopc (core : CoreId) (thread : ThreadId) (s : State) : Host.Outcome State Fault Refusal :=
  .next (alu s core thread .popc fun a _ => popc64 a)

/-- ADDI (R275). -/
def execAddi (core : CoreId) (thread : ThreadId) (s : State) : Host.Outcome State Fault Refusal :=
  .next (aluB s core thread .addi fun a i => a + i.simm)

/-- EXTU: rs1 shifted right by IMM16 [11:6], IMM16 [5:0] + 1 bits of it (R275). -/
def execExtu (core : CoreId) (thread : ThreadId) (s : State) : Host.Outcome State Fault Refusal :=
  .next (aluB s core thread .extu fun a i =>
    BitVec.ofNat 64 (a.toNat / 2 ^ (i.imm / 64 % 64) % 2 ^ (i.imm % 64 + 1)))

/-- ANDI, ORI, XORI with the zero-extended immediate (R274, R275). -/
def execAndi (core : CoreId) (thread : ThreadId) (s : State) : Host.Outcome State Fault Refusal :=
  .next (aluB s core thread .andi fun a i => a &&& i.zimm)
def execOri (core : CoreId) (thread : ThreadId) (s : State) : Host.Outcome State Fault Refusal :=
  .next (aluB s core thread .ori fun a i => a ||| i.zimm)
def execXori (core : CoreId) (thread : ThreadId) (s : State) : Host.Outcome State Fault Refusal :=
  .next (aluB s core thread .xori fun a i => a ^^^ i.zimm)

/-- SHI (R275). -/
def execShi (core : CoreId) (thread : ThreadId) (s : State) : Host.Outcome State Fault Refusal :=
  .next (aluB s core thread .shi fun a i =>
    match i.imm / 64 % 4 with
    | 0 => a <<< (i.imm % 64)
    | 1 => a >>> (i.imm % 64)
    | _ => sra64 a (i.imm % 64))

/-- HWSET: halfword HW is IMM16; with SX the bits above it are copies of IMM16 [15] (R275). -/
def hwset (i : FcI) : DWord :=
  let n := 16 * (i.b.val % 4)
  if i.b.val / 4 % 2 = 1 then (i.simm) <<< n else (i.zimm) <<< n

/-- HWSET (R275). -/
def execHwset (core : CoreId) (thread : ThreadId) (s : State) : Host.Outcome State Fault Refusal :=
  .next (aluB s core thread .hwset fun _ i => hwset i)

/-- HWINS: halfword HW of rd is IMM16, the others stay (R275). -/
def execHwins (core : CoreId) (thread : ThreadId) (s : State) : Host.Outcome State Fault Refusal :=
  .next (issue s core.val thread.val .hwins fun s th i =>
    let n := 16 * (i.b.val % 4)
    let v := BitVec.ofNat 64 (setBits (wget th i.a.val).toNat (n + 15) n i.imm)
    .done (next1 s core.val thread.val (wset th i.a.val v)) [])

/-! ### Branches and jumps (R275) -/

/-- A branch of format C: rs1 is in bits 25 to 21, rs2 in bits 20 to 16. -/
def branch (s : State) (core : CoreId) (thread : ThreadId) (op : FcOp) (p : DWord → DWord → Bool) : State :=
  issue s core.val thread.val op fun s th i =>
    let pc := if p (wget th i.a.val) (wget th i.b.val) then pcPlus th.pc 16 i.imm else th.pc + 1
    .done (putThr s core.val thread.val { th with pc := pc }) []

/-- BEQ, BNE, BLT, BGE, BLTU, BGEU (R275). -/
def execBeq (core : CoreId) (thread : ThreadId) (s : State) : Host.Outcome State Fault Refusal :=
  .next (branch s core thread .beq fun a b => a == b)
def execBne (core : CoreId) (thread : ThreadId) (s : State) : Host.Outcome State Fault Refusal :=
  .next (branch s core thread .bne fun a b => a != b)
def execBlt (core : CoreId) (thread : ThreadId) (s : State) : Host.Outcome State Fault Refusal :=
  .next (branch s core thread .blt fun a b => a.slt b)
def execBge (core : CoreId) (thread : ThreadId) (s : State) : Host.Outcome State Fault Refusal :=
  .next (branch s core thread .bge fun a b => !a.slt b)
def execBltu (core : CoreId) (thread : ThreadId) (s : State) : Host.Outcome State Fault Refusal :=
  .next (branch s core thread .bltu fun a b => a.ult b)
def execBgeu (core : CoreId) (thread : ThreadId) (s : State) : Host.Outcome State Fault Refusal :=
  .next (branch s core thread .bgeu fun a b => !a.ult b)

/-- J (R275). -/
def execJ (core : CoreId) (thread : ThreadId) (s : State) : Host.Outcome State Fault Refusal :=
  .next (issue s core.val thread.val .j fun s th i =>
    .done (putThr s core.val thread.val { th with pc := pcPlus th.pc 26 i.off26 }) [])

/-- JAL writes PC + 1 to w31 (R275). -/
def execJal (core : CoreId) (thread : ThreadId) (s : State) : Host.Outcome State Fault Refusal :=
  .next (issue s core.val thread.val .jal fun s th i =>
    let th' := wset th 31 (BitVec.ofNat 64 (th.pc + 1))
    .done (putThr s core.val thread.val { th' with pc := pcPlus th.pc 26 i.off26 }) [])

/-- JALR: rd is PC + 1, PC is (rs1 + IMM16) [23:0] (R275). -/
def execJalr (core : CoreId) (thread : ThreadId) (s : State) : Host.Outcome State Fault Refusal :=
  .next (issue s core.val thread.val .jalr fun s th i =>
    let pc := (wget th i.b.val + i.simm).toNat % 2 ^ 24
    let th' := wset th i.a.val (BitVec.ofNat 64 (th.pc + 1))
    .done (putThr s core.val thread.val { th' with pc := pc }) [])

/-! ### Special registers (R275, R279) -/

/-- Special register n of a thread (R279); the tables allow 0 to 5. -/
def specialReg (s : State) (c t : Nat) (th : Thr) (n : Nat) : DWord :=
  let sl := (coreOf s c).slices.getD t (0, 0)
  let out (u : Nat) : Nat := b2n (mget? th.chOut u).isSome
  BitVec.ofNat 64 (match n with
    | 0 => c * 256 + t
    | 1 => sl.1 * 2 ^ 32 + sl.2
    | 2 => th.ev
    | 3 => (s.clk - s.lk.porAt) / 500
    | 4 => th.lsOut + b2n th.tblOut * 2 ^ 8 + out 3 * 2 ^ 9 + out 4 * 2 ^ 10 + out 5 * 2 ^ 11
    | _ => match th.timer with | some d => (d - s.clk + 999) / 1000 | none => 0)

/-- MFSR (R279). -/
def execMfsr (core : CoreId) (thread : ThreadId) (s : State) : Host.Outcome State Fault Refusal :=
  .next (issue s core.val thread.val .mfsr fun s th i =>
    .done (next1 s core.val thread.val (wset th i.a.val (specialReg s core.val thread.val th i.imm))) [])

/-- FTREAD (R24, R275). -/
def execFtread (core : CoreId) (thread : ThreadId) (s : State) : Host.Outcome State Fault Refusal :=
  .next (issue s core.val thread.val .ftread fun s th i =>
    .done (next1 s core.val thread.val (wset th i.a.val (BitVec.ofNat 64 (shortTs s)))) [])

/-! ### Local memory (R253, R254, R276, R277, R282) -/

/-- A byte range lies inside a thread's slice (R253). -/
def inSlice (s : State) (c t a n : Nat) : Bool :=
  let sl := (coreOf s c).slices.getD t (0, 0)
  decide (sl.1 ≤ a ∧ a + n ≤ sl.1 + sl.2)

/-- A byte range touches bytes that a unit request holds (R282). -/
def heldBytes (th : Thr) (a n : Nat) : Bool := th.holds.any fun h => decide (a < h.2.1 + h.2.2 ∧ h.2.1 < a + n)

/-- Read and write bytes of a core's local memory. -/
def lmRead (s : State) (c a n : Nat) : List Byte := readMem s.lmem (lmAddr c a) n
def lmWrite (s : State) (c a : Nat) (b : List Byte) : State := { s with lmem := writeMem s.lmem (lmAddr c a) b }

/-- Inbox entries whose VALID bit a store has cleared are taken (R254). -/
def takeInbox (s : State) (c t : Nat) : State :=
  let lo := ((coreOf s c).slices.getD t (0, 0)).1
  let th := thrOf s c t
  if th.inbox.any fun x => !x.2.taken && !bitOf (leNat (lmRead s c (lo + 32 * x.1 + 8) 4)) 31 then
    modThr s c t fun th => { th with
      inbox := mmap (fun k x => if bitOf (leNat (lmRead s c (lo + 32 * k + 8) 4)) 31 then x else { x with taken := true })
        th.inbox }
  else s

/-- A load of n bytes, most significant first when `be`; `lm` says what the code of the local memory finds (R276). -/
def load (s : State) (core : CoreId) (thread : ThreadId) (op : FcOp) (n : Nat) (be : Bool) (lm : LmErr) : State :=
  issue s core.val thread.val op fun s th i =>
    let a := (wget th i.b.val + i.simm).toNat
    if !inSlice s core.val thread.val a n then .fault 1
    else if heldBytes th a n then .hold
    else
      lmCheck s core.val lm fun s =>
        let b := lmRead s core.val a n
        let v := BitVec.ofNat 64 (if be then beNat b else leNat b)
        .done (next1 s core.val thread.val (wset th i.a.val v)) [(a, n, false)]

/-- A store of the low n bytes of rd (R276). -/
def store (s : State) (core : CoreId) (thread : ThreadId) (op : FcOp) (n : Nat) (be : Bool) (lm : LmErr) : State :=
  issue s core.val thread.val op fun s th i =>
    let a := (wget th i.b.val + i.simm).toNat
    if !inSlice s core.val thread.val a n then .fault 1
    else if heldBytes th a n then .hold
    else
      lmCheck s core.val lm fun s =>
        let v := (wget th i.a.val).toNat
        let s := lmWrite (next1 s core.val thread.val th) core.val a (if be then beBytes n v else leBytes n v)
        .done (takeInbox s core.val thread.val) [(a, n, true)]

/-- LDB, LDH, LDW, LDD, and LDHS, LDWS, LDDS most significant byte first (R276). -/
def execLdb (core : CoreId) (thread : ThreadId) (lm : LmErr) (s : State) : Host.Outcome State Fault Refusal :=
  .next (load s core thread .ldb 1 false lm)
def execLdh (core : CoreId) (thread : ThreadId) (lm : LmErr) (s : State) : Host.Outcome State Fault Refusal :=
  .next (load s core thread .ldh 2 false lm)
def execLdw (core : CoreId) (thread : ThreadId) (lm : LmErr) (s : State) : Host.Outcome State Fault Refusal :=
  .next (load s core thread .ldw 4 false lm)
def execLdd (core : CoreId) (thread : ThreadId) (lm : LmErr) (s : State) : Host.Outcome State Fault Refusal :=
  .next (load s core thread .ldd 8 false lm)
def execLdhs (core : CoreId) (thread : ThreadId) (lm : LmErr) (s : State) : Host.Outcome State Fault Refusal :=
  .next (load s core thread .ldhs 2 true lm)
def execLdws (core : CoreId) (thread : ThreadId) (lm : LmErr) (s : State) : Host.Outcome State Fault Refusal :=
  .next (load s core thread .ldws 4 true lm)
def execLdds (core : CoreId) (thread : ThreadId) (lm : LmErr) (s : State) : Host.Outcome State Fault Refusal :=
  .next (load s core thread .ldds 8 true lm)

/-- STB, STH, STW, STD, and STHS, STWS most significant byte first (R276). -/
def execStb (core : CoreId) (thread : ThreadId) (lm : LmErr) (s : State) : Host.Outcome State Fault Refusal :=
  .next (store s core thread .stb 1 false lm)
def execSth (core : CoreId) (thread : ThreadId) (lm : LmErr) (s : State) : Host.Outcome State Fault Refusal :=
  .next (store s core thread .sth 2 false lm)
def execStw (core : CoreId) (thread : ThreadId) (lm : LmErr) (s : State) : Host.Outcome State Fault Refusal :=
  .next (store s core thread .stw 4 false lm)
def execStd (core : CoreId) (thread : ThreadId) (lm : LmErr) (s : State) : Host.Outcome State Fault Refusal :=
  .next (store s core thread .std 8 false lm)
def execSths (core : CoreId) (thread : ThreadId) (lm : LmErr) (s : State) : Host.Outcome State Fault Refusal :=
  .next (store s core thread .sths 2 true lm)
def execStws (core : CoreId) (thread : ThreadId) (lm : LmErr) (s : State) : Host.Outcome State Fault Refusal :=
  .next (store s core thread .stws 4 true lm)

/-! ### Events and the timer (R251, R278) -/

/-- EVWAIT: the matched bits, or WAITING; under STEP with nothing to match, STEP_WAIT (R472). A mask of 0 is ILLEGAL. -/
def execEvwait (core : CoreId) (thread : ThreadId) (s : State) : Host.Outcome State Fault Refusal :=
  .next (issue s core.val thread.val .evwait fun s th i =>
    let m := (wget th i.b.val).toNat % 2 ^ 32
    let hit := Nat.land th.ev m
    if m = 0 then .fault 2
    else if hit ≠ 0 then
      let th' := wset th i.a.val (BitVec.ofNat 64 hit)
      .done (next1 s core.val thread.val { th' with ev := th.ev - hit }) []
    else if th.stepping then
      let s := { s with dbg := { s.dbg with stepRes := 10 } }
      .wait (putThr s core.val thread.val { th with st := .halted, stepping := false })
    else
      let w := if bitOf m 16 ∨ bitOf m 17 then none else some (th.wd.getD (wdClock s))
      .wait (putThr (issued s core.val thread.val) core.val thread.val { th with
        st := .waiting, wait := some (m, i.a.val), wd := w }))

/-- EVSEND: bits 0 to 15 to the own core, 24 to 31 to another; a target that cannot take it is counted (R278). -/
def execEvsend (core : CoreId) (thread : ThreadId) (s : State) : Host.Outcome State Fault Refusal :=
  .next (issue s core.val thread.val .evsend fun s th i =>
    let v := (wget th i.b.val).toNat
    let x := bitsOf v 23 16
    let c := if x = 255 then core.val else x
    let t := v % 16
    let b := i.imm % 32
    if (c = core.val ∧ b > 15) ∨ (c ≠ core.val ∧ b < 24) then .fault 2
    else
      let s := next1 s core.val thread.val th
      let tg := thrOf s c t
      if (coreOf s c).st ≠ .running ∨ tg.st = .empty ∨ tg.st = .faulted then .done (pmc s core.val thread.val 15 1) []
      else .done (setEvent s c t (2 ^ b)) [])

/-- TMSET: the timer is due rs1 [31:0] ns after issue; 0 disarms it (R278). -/
def execTmset (core : CoreId) (thread : ThreadId) (s : State) : Host.Outcome State Fault Refusal :=
  .next (issue s core.val thread.val .tmset fun s th i =>
    let n := (wget th i.b.val).toNat % 2 ^ 32
    .done (next1 s core.val thread.val { th with timer := if n = 0 then none else some (s.clk + n * 1000) }) [])

/-! ### Instructions that stall their thread: HMAP, HPUT, BALLOC (R250, R280, R285) -/

/-- The instruction issues and stalls its thread; the slot is charged Issued once (R250). -/
def stallOn (s : State) (core : CoreId) (thread : ThreadId) (op : FcOp) : State :=
  issue s core.val thread.val op fun s th i =>
    .wait (putThr (issued s core.val thread.val) core.val thread.val { th with stall := some (fcEncode i).toNat })

/-- HMAP, HPUT, BALLOC at issue (R280, R285). -/
def execHmap (core : CoreId) (thread : ThreadId) (s : State) : Host.Outcome State Fault Refusal :=
  .next (stallOn s core thread .hmap)
def execHput (core : CoreId) (thread : ThreadId) (s : State) : Host.Outcome State Fault Refusal :=
  .next (stallOn s core thread .hput)
def execBalloc (core : CoreId) (thread : ThreadId) (s : State) : Host.Outcome State Fault Refusal :=
  .next (stallOn s core thread .balloc)

/-- Address of a header window (R277). -/
def winAddr (s : State) (c t w : Nat) : Nat := ((coreOf s c).slices.getD t (0, 0)).1 + 0x200 + 512 * w

/-- What a copy comes to: the value of rd, or a fault with a code of R266; and the state. -/
abbrev CopyEnd := Except Nat DWord × State

/-- The copy of HMAP (R234, R280). -/
def hmapCopy (s : State) (c t : Nat) (th : Thr) (i : FcI) (ecc : Ecc) : CopyEnd :=
  let h := (wget th i.b.val).toNat
  let o := (wget th i.c.val).toNat
  if !holds s c h then (.ok (statusFail .invalidHandle), s)
  else
    let size := poolSize (bPool h)
    if o > size then (.ok (statusFail .invalidField), s)
    else
      let n := min 512 (size - o)
      let a := bufAddr s h o
      let hot := (cellsIn a n).all fun x => s.coop.hc.any (·.1 = x)
      let s := storeEcc (pmc (storeTouch s a n) c t (if hot then 3 else 4) 1) a n ecc
      if (lostAt s a n ecc).isSome then (.error 5, s)
      else
        (.ok (BitVec.ofNat 64 n),
          lmWrite s c (winAddr s c t (i.lo.val % 2)) (storeRead s a n ++ List.replicate (512 - n) 0))

/-- The copy of HPUT (R234, R266, R280): the window is read from local memory; blocks written in part are read from the
Mere. -/
def hputCopy (s : State) (c t : Nat) (th : Thr) (i : FcI) (ecc : Ecc) (lm : LmErr) : CopyEnd :=
  let h := (wget th i.b.val).toNat
  let o := (wget th i.c.val).toNat
  let n := i.lo.val / 2 + 1
  if !holds s c h then (.ok (statusFail .invalidHandle), s)
  else if o + n > poolSize (bPool h) then (.ok (statusFail .invalidField), s)
  else if lm = .lost then (.error 4, coreWear s .coreUncorr c)
  else
    let a := bufAddr s h o
    let s := storeEcc (if lm = .corrected then coreWear s .coreCorr c else s) a n ecc
    if (lostAt s a n ecc).isSome then (.error 5, s)
    else (.ok (BitVec.ofNat 64 n), storeWrite s a (lmRead s c (winAddr s c t (i.lo.val % 2)) n))

/-- BALLOC: the value of rd and the state (R228, R265, R285). -/
def ballocRun (s : State) (c t : Nat) (th : Thr) (i : FcI) : State × DWord :=
  let held := (coreOf s c).held
  let n := (wget th i.b.val).toNat
  let explicit := i.imm / 2 ^ 14 = 1
  if (held.filter (·.2 = t)).length ≥ 64 ∨ held.length ≥ 1024 then (pmc s c t 12 1, statusFail .noResource 1)
  else if !explicit ∧ (n = 0 ∨ n > 65536) then (pmc s c t 12 1, statusFail .invalidField)
  else
    match (if explicit then allocFrom s (clusterReq c) [i.imm % 8] else alloc s (clusterReq c) n) with
    | (.ok h, s) =>
      (pmc (modCore s c fun k => { k with held := k.held ++ [(h, t)] }) c t 11 1, BitVec.ofNat 64 h)
    | (.error st, s) => (pmc s c t 12 1, statusFail st)

/-- STALLED_INSTRUCTION_END: the copy or allocation is done, rd is written, and the thread issues again, or halts if a
halt is pending (R250, R280, R285, R472). `ecc`: what the codes find in the blocks of the Mere that the copy reads; `lm`: in
the local memory that HPUT reads (R234, R266). -/
def execStalledInstructionEnd (core : CoreId) (thread : ThreadId) (ecc : Ecc) (lm : LmErr) (s : State) :
    Host.Outcome State Fault Refusal :=
  let c := core.val
  let t := thread.val
  let th := thrOf s c t
  match th.stall with
  | none => .next s
  | some w =>
    match fcDecode (BitVec.ofNat 32 w) with
    | none => .next s
    | some i =>
      if !running s then .next s
      else
        let e : CopyEnd := match i.op with
          | .hmap => hmapCopy s c t th i ecc
          | .hput => hputCopy s c t th i ecc lm
          | _ => let r := ballocRun s c t th i; (.ok r.2, r.1)
        match e with
        | (.error code, s) => .next (thrFault s c t code)
        | (.ok v, s) =>
          let acc := if i.op = .hmap then [(winAddr s c t (i.lo.val % 2), 512, true)]
            else if i.op = .hput then [(winAddr s c t (i.lo.val % 2), i.lo.val / 2 + 1, false)] else []
          let s := modThr s c t fun th => { wset th i.a.val v with pc := th.pc + 1, stall := none }
          let s := modThr s c t fun th =>
            let th := { th with wd := none }
            if th.stepping ∨ th.haltPend then
              { th with st := .halted, prev := .running, stepping := false, haltPend := false }
            else th
          .next (wpApply s c t acc)

/-! ### Buffers and checksum (R285, R286) -/

/-- A buffer handle of a register: one beyond 32 bits names no buffer. -/
def regHandle (v : DWord) : Nat := if v.toNat < 2 ^ 32 then v.toNat else 2 ^ 32 - 1

/-- BFREE (R230, R231, R285). -/
def execBfree (core : CoreId) (thread : ThreadId) (s : State) : Host.Outcome State Fault Refusal :=
  let c := core.val
  .next (issue s c thread.val .bfree fun s th i =>
    let h := regHandle (wget th i.b.val)
    match bufFree s h (clusterReq c) with
    | (none, s) => .done (nextHeld (unhold s (c / 12) h) c thread.val (wset th i.a.val 0)) []
    | (some st, s) =>
      .done (next1 (pmc s c thread.val 12 1) c thread.val (wset th i.a.val (statusFail st))) [])

/-- A thread's entry of the held-buffer table would be one too many, the buffer's own entry apart (R265). -/
def heldFull (s : State) (c t h : Nat) : Bool :=
  let held := (coreOf s c).held.filter (·.1 ≠ h)
  decide ((held.filter (·.2 = t)).length ≥ 64 ∨ held.length ≥ 1024)

/-- BXFER (R230, R285). A requester index beyond 4,145 names none. A transfer to the own cluster that would overfill the
held-buffer table fails as BALLOC does (DESIGN CHOICE, log entry 115). -/
def execBxfer (core : CoreId) (thread : ThreadId) (s : State) : Host.Outcome State Fault Refusal :=
  let c := core.val
  .next (issue s c thread.val .bxfer fun s th i =>
    let h := regHandle (wget th i.b.val)
    let r := (wget th i.c.val).toNat
    let fail (s : State) (v : DWord) : Iss := .done (next1 (pmc s c thread.val 12 1) c thread.val (wset th i.a.val v)) []
    match (if r > 4145 then (some Status.invalidField, s) else bufTransfer s h (clusterReq c) r) with
    | (none, s') =>
      if r = clusterReq c ∧ heldFull s c thread.val h then fail s (statusFail .noResource 1)
      else
        let s := unhold s' (c / 12) h
        let s := if r = clusterReq c then modCore s c fun k => { k with held := k.held ++ [(h, thread.val)] } else s
        .done (nextHeld s c thread.val (wset th i.a.val 0)) []
    | (some st, s') => fail s' (statusFail st))

/-- One's-complement sum of 16-bit words, most significant byte first, an odd last byte padded (RFC 1071). -/
def onesSum : List Byte → Nat → Nat
  | [], a => a
  | [b], a => a + b.toNat * 256
  | b :: d :: t, a => onesSum t (a + b.toNat * 256 + d.toNat)

/-- Fold a sum into 16 bits with end-around carry. -/
def foldSum (n : Nat) : Nat :=
  let a := n % 65536 + n / 65536
  let b := a % 65536 + a / 65536
  b % 65536 + b / 65536

/-- CSUM of rs2 bytes from local address rs1; a length beyond 4,096 has no stated sum (R286, log entry 3). -/
def execCsum (core : CoreId) (thread : ThreadId) (lm : LmErr) (s : State) : Host.Outcome State Fault Refusal :=
  let c := core.val
  .next (issue s c thread.val .csum fun s th i =>
    let a := (wget th i.b.val).toNat
    let n := (wget th i.c.val).toNat
    if n ≠ 0 ∧ !inSlice s c thread.val a n then .fault 1
    else if heldBytes th a n then .hold
    else
      lmCheck s c (if n = 0 then .ok else lm) fun s =>
        if n > 4096 then
          let v := BitVec.ofNat 64 ((Config.openWord s.free).toNat % 65536)
          .done (next1 (bumpFree s) c thread.val (wset th i.a.val v)) [(a, n, false)]
        else
          let seed := if i.lo.val % 2 = 1 then (wget th i.a.val).toNat % 65536 else 0
          let v := BitVec.ofNat 64 (foldSum (onesSum (lmRead s c a n) seed))
          .done (next1 s c thread.val (wset th i.a.val v)) [(a, n, false)])

/-- CHW writes a word of the staging slot (R288). -/
def execChw (core : CoreId) (thread : ThreadId) (s : State) : Host.Outcome State Fault Refusal :=
  .next (issue s core.val thread.val .chw fun s th i =>
    .done (next1 s core.val thread.val { th with slot := mset th.slot i.imm (wget th i.b.val) }) [])

/-! ### Unit requests (R281 to R284) -/

/-- Address of reply record u (R287). -/
def recAddr (s : State) (c t u : Nat) : Nat := ((coreOf s c).slices.getD t (0, 0)).1 + 0x80 + 32 * u

/-- Clear DONE of reply record u when its unit accepts a request (R287). -/
def clearDone (s : State) (c t u : Nat) : State :=
  let a := recAddr s c t u
  lmWrite s c a (leBytes 4 (leNat (lmRead s c a 4) % 2 ^ 31))

/-- Write reply record u and set its event bit (R287): status, TAG, DW2 to DW7. -/
def replyRec (s : State) (c t u : Nat) (st : Status) (tag : Nat) (ds : List Nat) : State :=
  let b := leBytes 4 (2 ^ 31 + statusCode st * 2 ^ 16) ++ leBytes 4 tag ++
    (List.range 6).flatMap fun k => leBytes 4 (ds.getD k 0)
  setEvent (lmWrite s c (recAddr s c t u) b) c t (2 ^ (18 + u))

/-- Word k of a request block in local memory. -/
def reqWord (s : State) (c a k : Nat) : Nat := leNat (lmRead s c (a + 4 * k) 4)

/-- The local byte ranges that a CRYPT or GFMUL request names, its block included (R282, R283). -/
def lsRanges (s : State) (c a : Nat) (gf : Bool) : List (Nat × Nat) :=
  let w := reqWord s c a
  let d6 := w 6
  let part := if gf then 0 else bitsOf d6 11 8
  let n := 16 * (d6 % 128 + 1)
  let len := if part = 0 then n else n - 16 + part
  (a, 32) :: ((if bitOf d6 13 then [] else [(w 1, len)]) ++
    (if gf then [(w 0, 16), (w 3, 16)] else if bitOf d6 14 then [] else [(w 3, len)]))

/-- Requests that arrive at one time are queued by core and then thread, behind earlier ones (R351). -/
def lsQueue (q : LsReq) : List LsReq → List LsReq
  | [] => [q]
  | r :: t => if r.at_ = q.at_ ∧ q.core * 16 + q.thread < r.core * 16 + r.thread then q :: r :: t else r :: lsQueue q t

/-- CRYPT and GFMUL at issue: the request is queued, holding every local byte it names; SLICE and ALIGN faults; a ninth
waits (R281, R282). -/
def lsIssue (s : State) (core : CoreId) (thread : ThreadId) (op : FcOp) (gf : Bool) : State :=
  let c := core.val
  let t := thread.val
  issue s c t op fun s th i =>
    let a := (wget th i.b.val).toNat
    if !inSlice s c t a 32 then .fault 1
    else if a % 16 ≠ 0 then .fault 3
    else if th.lsOut ≥ 8 then .hold
    else
      let id := s.uid
      let s := clearDone { s with uid := id + 1 } c t 0
      let s := next1 s c t { th with
        lsOut := th.lsOut + 1, holds := th.holds ++ (lsRanges s c a gf).map fun r => (id, r.1, r.2) }
      let q : LsReq := { id := id, core := c, thread := t, gf := gf, addr := a, at_ := s.clk }
      let s := { s with ls := { s.ls with queue := lsQueue q s.ls.queue } }
      .done (pmc s c t (if gf then 9 else 8) 1) []

/-- CRYPT, GFMUL (R283). -/
def execCrypt (core : CoreId) (thread : ThreadId) (s : State) : Host.Outcome State Fault Refusal :=
  .next (lsIssue s core thread .crypt false)
def execGfmul (core : CoreId) (thread : ThreadId) (s : State) : Host.Outcome State Fault Refusal :=
  .next (lsIssue s core thread .gfmul true)

/-- The bank of a learning key (R207). -/
def bankOf (key : List Nat) : Nat := (Config.l2Bank key).toNat

/-- The learning key of the words of an entry (R207). -/
def l2Key (w : Nat → Nat) : List Nat := [bitsOf (w 0) 11 0, w 2 % 65536 * 2 ^ 32 + w 3]

/-- Learn events that have reached the banks of an operation before it (R214): those of the key's bank, of the position's in a
WALK, of every bank in a FLUSH. -/
def learnAhead (s : State) (table op : Nat) (w : Nat → Nat) (index : Nat) : Map Nat :=
  let of (b : Nat) : Map Nat := match mget [] s.fw.banks b with | [] => [] | q => [(b, q.length)]
  if table ≠ 1 then []
  else if op = 5 then s.fw.banks.flatMap fun x => of x.1
  else of (if op = 4 then index / 262144 else bankOf (l2Key w))

/-- TBL at issue (R281, R284). -/
def execTbl (core : CoreId) (thread : ThreadId) (s : State) : Host.Outcome State Fault Refusal :=
  let c := core.val
  let t := thread.val
  .next (issue s c t .tbl fun s th i =>
    let a := (wget th i.b.val).toNat
    if !inSlice s c t a 64 then .fault 1
    else if a % 64 ≠ 0 then .fault 3
    else if th.tblOut then .hold
    else
      let id := s.uid
      let s := clearDone { s with uid := id + 1 } c t 1
      let s := next1 s c t { th with tblOut := true, holds := th.holds ++ [(id, a, 64)] }
      let q : TblReq := {
        id := id, core := c, thread := t, table := i.lo.val / 256, op := i.lo.val / 16 % 16,
        evict := i.lo.val % 2 = 1, index := (wget th i.c.val).toNat, addr := a
        ws := (List.range 16).map (reqWord s c a), fixed := decide (a < ((coreOf s c).slices.getD t (0, 0)).1 + 0x140)
        ahead := learnAhead s (i.lo.val / 256) (i.lo.val / 16 % 16) (reqWord s c a) (wget th i.c.val).toNat }
      .done (pmc { s with tblq := s.tblq ++ [q] } c t 10 1) [])

end Sys2Proof.Machine
end

