-- ==== Sys2Proof/Machine/Locksmith.lean ====
section
/-! DEFINITION. Locksmith: key contexts, requests, rollover, health (18_locksmith.md). KEY_CTX_DESTROY, which looks at
connections, stands in Transport.lean. -/
namespace Sys2Proof.Machine

/-- Change Locksmith; change a context. -/
def modLs (s : State) (f : Locksmith → Locksmith) : State := { s with ls := f s.ls }
def modCtx (s : State) (i : Nat) (f : Ctx → Ctx) : State := modLs s fun l => { l with ctxs := mmod l.ctxs i f }

/-- The lowest key from n on that a map does not list. -/
def mlow {α : Type} : Map α → Nat → Nat
  | [], n => n
  | (a, _) :: t, n => if a = n then mlow t (n + 1) else if a < n then mlow t n else n

/-- The lowest free context index from n on under which no request of an ended incarnation is still being carried out
(R63). -/
def lowCtx (s : State) : Nat → Nat → Nat
  | 0, n => mlow s.ls.ctxs n
  | k + 1, n =>
    let i := mlow s.ls.ctxs n
    if s.ls.busy.any fun b => decide (b.fail = none ∧ !b.req.gf ∧ b.ctx = i) then lowCtx s k (i + 1) else i

/-- Index of a key-context handle (R59). -/
def ctxIdx (h : Nat) : Nat := (hKind h - 12) * 2 ^ 20 + hIdx h

/-- Bytes of words a to b of an entry. -/
def entryBytes (e : Entry) (a n : Nat) : List Byte := (List.range n).flatMap fun i => leBytes 4 (dw e (a + i))

/-- KEY_CTX_CREATE (R359). -/
def execKeyCtxCreate (port : HostPort) (s : State) : Host.Outcome State Fault Refusal :=
  .next (adminRun s port.val 0x20 fun s e =>
    let w := dw e 14
    let owner := ownerOf e
    let root := bitsOf w 23 20
    let i := lowCtx s s.ls.busy.length 0
    let mine := (s.ls.ctxs.filter fun x => decide (x.2.owner = owner)).length
    let past : Bool := match owner with
      | some t => decide (mine ≥ ((mget? s.tens t).map (·.keyMax)).getD 0)
      | none => false
    if bitsOf w 31 24 ≠ 0 ∨ bitsOf w 19 11 ≠ 0 ∨ bitsOf w 7 2 ≠ 0 ∨ bitsOf w 10 8 > 4 ∨ w % 4 = 0 ∨ dw e 15 = 0 ∨
        (mget? s.ls.roots root).isNone then finishAdmin s port.val .invalidField 0
    else if i ≥ 4194304 ∨ past then finishAdmin s port.val .noResource 0
    else
      let x : Ctx := {
        owner := owner, port := port.val, label := entryBytes e 4 10, root := root, ktype := bitsOf w 10 8,
        encOk := bitOf w 0, decOk := bitOf w 1, limit := dw e 15 }
      finishAdmin (modLs s fun l => { l with ctxs := mset l.ctxs i x }) port.val .success (keyHandle s i))

/-- The context is ARMED (R360). -/
def keyArmed (s : State) (i : Nat) : Bool := s.armed.any fun a => decide (a.1 = .key i)

/-- Erase a context's key from the derived-key cache (R357). -/
def uncache (s : State) (i : Nat) : State := modLs s fun l => { l with cache := l.cache.filter (· ≠ i) }

/-- The operations open under a key of a context end, and an old key is erased with them (R368). -/
def endOld (s : State) (i kid : Nat) : State :=
  modCtx (modLs s fun l => { l with ops := mfilter (fun _ o => !decide (o.ctx = i ∧ o.kid = kid)) l.ops }) i fun x =>
    { x with olds := x.olds.filter (·.kid ≠ kid) }

/-- A new LABEL comes into force (R360, R368): operations open under the key before keep it until their GRACE ends; those of a
sealed key end. -/
def rollover (s : State) (i : Nat) (label : List Byte) : State :=
  match mget? s.ls.ctxs i with
  | none => s
  | some x =>
    let s := if x.sealed then endOld s i x.kid else s
    let open_ := s.ls.ops.any fun o => decide (o.2.ctx = i ∧ o.2.kid = x.kid)
    let old : OldKey := {
      kid := x.kid, label := x.label, used := x.used, limit := x.limit,
      graceEnd := epochNo s + rd s F.LS_OP_CFG_GRACE }
    let s := modCtx s i fun x => { x with
      label := label, used := 0, sealed := false, armed := none, kid := x.kid + 1,
      olds := if open_ then x.olds ++ [old] else x.olds }
    raise (cadd (uncache s i) 14 0 12 1) .lsKeyRolled (keyHandle s i)

/-- KEY_ROLLOVER (R367): EPOCH 0 applies at once, else the change is armed and the new key derived and held. -/
def execKeyRollover (port : HostPort) (s : State) : Host.Outcome State Fault Refusal :=
  .next (adminRun s port.val 0x21 fun s e =>
    let i := ctxIdx (dw e 1)
    let label := entryBytes e 4 10
    let epoch := dw2 e 14
    if keyArmed s i then finishAdmin s port.val .inUse 0
    else if epoch = 0 then finishAdmin (rollover s i label) port.val .success 0
    else
      match armCheck s (epoch * 2 ^ 20) with
      | some st => finishAdmin s port.val st 0
      | none =>
        let s := cadd (modCtx s i fun x => { x with armed := some (label, epoch) }) 14 0 10 1
        finishAdmin { s with armed := s.armed ++ [(.key i, epoch * 2 ^ 20)] } port.val .success 0)

/-- The armed rollover of a context takes effect, if it is due (R368). -/
def keyEdge (s : State) (i : Nat) : State :=
  match mget? s.ls.ctxs i with
  | some x =>
    if armedDue s (.key i) then
      let s := { s with armed := s.armed.filter (·.1 ≠ .key i) }
      let s := rollover s i ((x.armed.map (·.1)).getD [])
      modLs s fun l => { l with cache := (i :: l.cache).take 16384 }
    else s
  | none => s

/-- ROLLOVER_GRACE_END: the old keys whose GRACE has ended are erased (R368). -/
def execRolloverGraceEnd (ctx : Fin 4194304) (s : State) : Host.Outcome State Fault Refusal :=
  .next (modCtx s ctx.val fun x => { x with olds := x.olds.filter fun o => decide (epochNo s < o.graceEnd) })

/-! ### Requests (R351, R362 to R366) -/

/-- The key of a context in force, and the key before it. -/
def ctxKey (s : State) (x : Ctx) (label : List Byte) : List Byte := deriveKey (mget [] s.ls.roots x.root) label x.ktype

/-- Use a context's cached key, deriving it when it is absent (R357). -/
def touchKey (s : State) (i : Nat) : State :=
  let s := if i ∈ s.ls.cache then cadd s 14 0 8 1 else cadd (cadd s 14 0 9 1) 14 0 10 1
  modLs s fun l => { l with cache := (i :: l.cache.filter (· ≠ i)).take 16384 }

/-- Seal a context (R360, R365). -/
def sealCtx (s : State) (i : Nat) : State :=
  match mget? s.ls.ctxs i with
  | some x =>
    if x.sealed then s
    else raise (uncache (modCtx s i fun x => { x with sealed := true }) i) .lsKeySealed (keyHandle s i)
  | none => s

/-- A local byte range that a request may name: in the thread's slice, beyond the fixed areas (R277, R363). -/
def localOk (s : State) (c t a n : Nat) : Bool :=
  inSlice s c t a n && decide (((coreOf s c).slices.getD t (0, 0)).1 + 0x140 ≤ a)

/-- Bytes by which a Mere source extent ends beyond its buffer. -/
def overrun (off n h : Nat) : Nat := off + n - poolSize (bPool h)

/-- Count a refused request (R371). -/
def lsFailed (s : State) (st : Status) : State :=
  cadd s 14 0 (match st with | .keyExhausted => 5 | .lengthLimit => 6 | _ => 7) 1

/-- Check a GFMUL request (R283, R363). -/
def gfCheck (s : State) (r : LsReq) : Option Status :=
  let w := reqWord s r.core r.addr
  let n := 16 * (w 6 % 128 + 1)
  let mere := bitOf (w 6) 13
  if mere ∧ !holds s r.core (w 2) then some .invalidHandle
  else if w 4 ≠ 0 ∨ bitsOf (w 6) 12 8 ≠ 0 ∨ bitsOf (w 6) 31 14 ≠ 0 ∨ w 7 ≠ 0 ∨ (!mere ∧ w 2 ≠ 0) ∨
      w 0 % 16 ≠ 0 ∨ w 3 % 16 ≠ 0 ∨ w 6 % 128 > 63 ∨ !localOk s r.core r.thread r.addr 32 ∨
      !localOk s r.core r.thread (w 0) 16 ∨ !localOk s r.core r.thread (w 3) 16 ∨
      (!mere ∧ !localOk s r.core r.thread (w 1) n) ∨ (mere ∧ overrun (w 1) n (w 2) > 15) then some .invalidField
  else if mere ∧ overrun (w 1) n (w 2) > 0 then some .lengthLimit
  else none

/-- Checks 1 to 4 of R363 for a CRYPT request. -/
def cryptCheck (s : State) (r : LsReq) : Option Status :=
  let w := reqWord s r.core r.addr
  let h := w 0
  let b := w 6 % 128 + 1
  let part := bitsOf (w 6) 11 8
  let len := if part = 0 then 16 * b else 16 * (b - 1) + part
  let srcM := bitOf (w 6) 13
  let dstM := bitOf (w 6) 14
  let first := bitOf (w 6) 15
  let op := mget? s.ls.ops (r.core * 16 + r.thread)
  let opening := first || op.isNone
  let spill := if srcM then overrun (w 1) (16 * b) (w 2) else 0
  if hKind h < 12 then some .invalidHandle
  else if hGen h ≠ gen s 12 (ctxIdx h) then some .staleHandle
  else
    match mget? s.ls.ctxs (ctxIdx h) with
    | none => some .invalidHandle
    | some x =>
      if (srcM ∧ !holds s r.core (w 2)) ∨ (dstM ∧ !holds s r.core (w 4)) then some .invalidHandle
      else if bitsOf (w 6) 31 17 ≠ 0 ∨ w 7 ≠ 0 ∨ (!srcM ∧ w 2 ≠ 0) ∨ (!dstM ∧ w 4 ≠ 0) ∨ b > 64 ∨
          (bitOf (w 6) 12 ∧ !x.decOk) ∨ (!bitOf (w 6) 12 ∧ !x.encOk) ∨
          (!opening ∧ (op.map (·.ctx)) ≠ some (ctxIdx h)) ∨ (x.ktype ≥ 3 ∧ first ∧ b ≠ 1) ∨
          !localOk s r.core r.thread r.addr 32 ∨ (!srcM ∧ !localOk s r.core r.thread (w 1) len) ∨
          (!dstM ∧ !localOk s r.core r.thread (w 3) len) ∨ (dstM ∧ w 3 + len > poolSize (bPool (w 4))) ∨ spill > 15 then
        some .invalidField
      else if (part ≠ 0 ∧ !bitOf (w 6) 16) ∨ (if opening then 0 else (op.map (·.blocks)).getD 0) + b > 2 ^ 20 ∨
          (spill > 0 ∧ part ≠ 16 - spill) then some .lengthLimit
      else none

/-- The part of a key that serves a request (R358, R366). -/
def keyPart (ktype : Nat) (key : List Byte) (tweak : Bool) : List Byte :=
  if ktype < 3 then key else if tweak then key.drop (key.length / 2) else key.take (key.length / 2)

/-- An operation that ends may leave an old key unused: it is erased (R368). -/
def dropOld (s : State) (i : Nat) : State :=
  modCtx s i fun x => { x with
    olds := x.olds.filter fun o => s.ls.ops.any fun p => decide (p.2.ctx = i ∧ p.2.kid = o.kid) }

/-- Change an old key of a context. -/
def modOld (s : State) (i kid : Nat) (f : OldKey → OldKey) : State :=
  modCtx s i fun x => { x with olds := x.olds.map fun o => if o.kid = kid then f o else o }

/-- Check 5 of R363 and the acceptance of a CRYPT request that passed the others: usage is counted and the operation
moves on (R362, R365, R368). -/
def cryptAccept (s : State) (r : LsReq) : State × LsBusy :=
  let w := reqWord s r.core r.addr
  let i := ctxIdx (w 0)
  let b := w 6 % 128 + 1
  let key := r.core * 16 + r.thread
  let first := bitOf (w 6) 15
  let fail (s : State) : State × LsBusy := (lsFailed s .keyExhausted, { req := r, fail := some .keyExhausted })
  match mget? s.ls.ctxs i with
  | none => fail s
  | some x =>
    let prev := mget? s.ls.ops key
    let op := if first then none else prev
    let blocks := (op.map (·.blocks)).getD 0 + b
    let kid := (op.map (·.kid)).getD x.kid
    let close (s : State) : State :=
      let s := modLs s fun l => { l with
        ops := if bitOf (w 6) 16 then mdel l.ops key else mset l.ops key { ctx := i, kid := kid, blocks := blocks } }
      dropOld (match prev with | some o => dropOld s o.ctx | none => s) i
    let busy (label : List Byte) (s : State) : State × LsBusy :=
      let s := cadd (cadd s 14 0 2 b) 14 0 4 ((Config.dummyRounds s.free).toNat % (rd s F.LS_SC_DUMMY_MAX * b + 1))
      (bumpFree s, { req := r, fail := none, ctx := i,
                     key := keyPart x.ktype (ctxKey s x label) (decide (x.ktype ≥ 3) && first),
                     tweak := decide (x.ktype ≥ 3) && first })
    if kid = x.kid then
      if x.sealed then fail s
      else if x.used + b > x.limit * 65536 then fail (sealCtx s i)
      else
        let s := modCtx (touchKey s i) i fun x => { x with used := x.used + b }
        let s := close s
        busy x.label (if x.used + b = x.limit * 65536 then sealCtx s i else s)
    else
      match x.olds.find? (·.kid = kid) with
      | some o =>
        let last := decide (o.used + b = o.limit * 65536)
        let done (s : State) : State := raise (endOld s i kid) .lsKeySealed (keyHandle s i)
        if epochNo s ≥ o.graceEnd then fail (raiseOnce (cadd s 14 0 11 1) .lsOpExpired 0)
        else if o.used + b > o.limit * 65536 then fail (done s)
        else
          let s := modOld s i kid fun o => { o with used := o.used + b }
          busy o.label (if last then done (close s) else close s)
      | none => fail (raiseOnce (cadd s 14 0 11 1) .lsOpExpired 0)

/-- Block units, or field-multiply units, that take requests, lowest first: not replaced, a spare only where it stands in, and
none that failed a test, waits for its spare or runs degraded (R350, R371, R436, R444). -/
def lsParts (s : State) (gf : Bool) : List Nat :=
  let k := if gf then 5 else 4
  (List.range (if gf then 34 else 68)).filter fun p =>
    (!(if gf then decide (p ≥ 32) else decide (p % 17 = 16)) || s.md.subs.any fun x => decide (x.1 = k ∧ x.2.2 = p)) &&
    !(s.md.subs.any fun x => decide (x.1 = k ∧ x.2.1 = p)) && !(s.md.degraded.any (· = (k, p))) &&
    !(s.md.queue.any fun w => decide (w.kind = k ∧ w.part = p)) &&
    !decide (p ∈ (if gf then s.ls.badGf else s.ls.badAes))

/-- Requests that a unit holds, and those it can hold: one, or one in each lane of a field-multiply unit (R351). -/
def lsHeld (s : State) (gf : Bool) (u : Nat) : Nat := (s.ls.busy.filter fun b => decide (b.req.gf = gf ∧ b.unit = u)).length
def lsRoom (gf : Bool) : Nat := if gf then 2 else 1

/-- The unit that takes the next request: the lowest free one (R351; log entry 120). -/
def lsFree (s : State) (gf : Bool) : Option Nat := (lsParts s gf).find? fun u => decide (lsHeld s gf u < lsRoom gf)

/-- LOCKSMITH_REQUEST_TAKE: a free unit or lane takes the oldest queued request of its kind (R351, R363). -/
def execLocksmithRequestTake (gf : Bool) (s : State) : Host.Outcome State Fault Refusal :=
  match s.ls.queue.find? (·.gf = gf), lsFree s gf with
  | some r, some u =>
    if !running s ∨ !s.ls.entropyOk then .next s
    else
      let s := modLs s fun l => { l with queue := l.queue.filter (·.id ≠ r.id) }
      let s := cadd s 14 0 (if gf then 1 else 0) 1
      let (s, b) : State × LsBusy := match (if gf then gfCheck s r else cryptCheck s r) with
        | some st => (lsFailed s st, { req := r, fail := some st })
        | none =>
          if gf then (cadd s 14 0 3 (reqWord s r.core r.addr 6 % 128 + 1), { req := r, fail := none })
          else cryptAccept s r
      .next (modLs s fun l => { l with busy := l.busy ++ [{ b with unit := u }] })
  | _, _ => .next s

/-- The source bytes of a request. -/
def lsSource (s : State) (r : LsReq) (n : Nat) : List Byte :=
  let w := reqWord s r.core r.addr
  if bitOf (w 6) 13 then storeRead s (bufAddr s (w 2) (w 1)) n else lmRead s r.core (w 1) n

/-- A source in the Mere is read through the head cache, and its blocks' codes are checked (R221, R234). -/
def lsTouch (s : State) (r : LsReq) (n : Nat) (ecc : Ecc) : State :=
  let w := reqWord s r.core r.addr
  if bitOf (w 6) 13 then storeMeet s (bufAddr s (w 2) (w 1)) n ecc else s

/-- The data effect of a request that succeeds (R283, R364, R366). -/
def lsCompute (s : State) (b : LsBusy) (ecc : Ecc) : State :=
  let r := b.req
  let w := reqWord s r.core r.addr
  let n := w 6 % 128 + 1
  let s := lsTouch s r (16 * n) ecc
  if r.gf then
    let h := lmRead s r.core (w 3) 16
    let y := (chunks 16 n (lsSource s r (16 * n))).foldl (fun y x => ghMul (xorBytes y x) h) (lmRead s r.core (w 0) 16)
    lmWrite s r.core (w 0) y
  else
    let part := bitsOf (w 6) 11 8
    let len := if part = 0 then 16 * n else 16 * (n - 1) + part
    let src := lsSource s r len ++ List.replicate (16 * n - len) 0
    let dec := bitOf (w 6) 12 && !b.tweak
    let out := ((chunks 16 n src).flatMap fun x => if dec then aesDec b.key x else aesEnc b.key x).take len
    if bitOf (w 6) 14 then storeWrite s (bufAddr s (w 4) (w 3)) out else lmWrite s r.core (w 3) out

/-- Free a context: its generation advances and its key is erased (R360, R361). -/
def freeCtx (s : State) (i : Nat) : State :=
  let s := advGen (uncache s i) 12 i
  let s := { s with armed := s.armed.filter (·.1 ≠ .key i) }
  modLs s fun l => { l with ctxs := mdel l.ctxs i, ops := mfilter (fun _ o => decide (o.ctx ≠ i)) l.ops }

/-- A KEY_CTX_DESTROY completes once the requests accepted under the context's keys have (R361). -/
def keyDestroyCheck (s : State) (i : Nat) : State :=
  if s.ls.busy.any fun b => decide (b.ctx = i ∧ b.fail = none ∧ !b.req.gf) then s
  else
    (List.range 8).foldl (fun s p =>
      if (hpOf s p).aq.wait = some ("keyctx", i) then finishAdmin s p .success 0 else s) s

/-- LOCKSMITH_REPLY: the oldest taken request of a thread completes; with the thread's last one outstanding, record 0
is written and bit 18 set (R287); the bytes its requests name are held until then (R282). -/
def execLocksmithReply (core : CoreId) (thread : ThreadId) (ecc : Ecc) (s : State) : Host.Outcome State Fault Refusal :=
  let c := core.val
  let t := thread.val
  match s.ls.busy.find? fun b => decide (b.req.core = c ∧ b.req.thread = t) with
  | none => .next s
  | some b =>
    if !running s then .next s
    else
      let id := b.req.id
      let tag := reqWord s c b.req.addr 5
      let n := reqWord s c b.req.addr 6 % 128 + 1
      let s := if b.fail = none then lsCompute s b ecc else s
      let s := modLs s fun l => { l with busy := l.busy.filter (·.req.id ≠ id) }
      let s := keyDestroyCheck s b.ctx
      if !(thrOf s c t).holds.any (·.1 = id) then .next s
      else
        let s := modThr s c t fun th => { th with
          lsOut := th.lsOut - 1, lsTag := tag,
          lsBlocks := if b.fail = none then th.lsBlocks + n else th.lsBlocks,
          lsFail := if th.lsFail.isSome then th.lsFail else b.fail.map fun st => (tag, st) }
        let th := thrOf s c t
        if th.lsOut = 0 then
          let (tag, st) := (th.lsFail).getD (th.lsTag, .success)
          let tbl (h : Nat × Nat × Nat) : Bool := s.tblq.any fun q => decide (q.id = h.1)
          let s := modThr s c t fun th => { th with lsBlocks := 0, lsFail := none, holds := th.holds.filter tbl }
          .next (replyRec s c t 0 st tag [th.lsBlocks])
        else .next s

/-! ### Health (R354, R436) -/

/-- LS_ENTROPY_FAIL and ENTROPY_RESTORE (R354). -/
def execLsEntropyFail (s : State) : Host.Outcome State Fault Refusal :=
  if s.ls.entropyOk then .next (raise (modLs s fun l => { l with entropyOk := false }) .lsEntropyFail 0) else .next s
def execEntropyRestore (s : State) : Host.Outcome State Fault Refusal :=
  .next (modLs s fun l => { l with entropyOk := true })

end Sys2Proof.Machine
end

