-- ==== Sys2Proof/Machine/Forward.lean ====
section
/-! DEFINITION. Forwarding: instances, the exact-match, learning, LPM and next-hop tables, lookups, learning, aging and
the command interface (10_forwarding.md). -/
namespace Sys2Proof.Machine

/-- Change the forwarding stage. -/
def modFw (s : State) (f : Fwd → Fwd) : State := { s with fw := f s.fw }

/-! ### Destinations and instances -/

/-- The null egress queue as an action word (R178, R194). -/
def nullDest : Nat := 0x7FFFFFFF00000000

/-- Fields of an action word (R178). -/
def actTarget (a : Nat) : Nat := bitsOf a 63 32
def actKind (a : Nat) : Nat := bitsOf a 6 5
def actColour (a : Nat) : Nat := bitsOf a 4 3
def actClass (a : Nat) : Nat := bitsOf a 2 0

/-- An action word has no reserved encoding (R178). -/
def actOk (a : Nat) : Bool :=
  let t := actTarget a
  decide (bitsOf a 31 7 = 0 ∧ actColour a ≠ 3) &&
  match actKind a with
  | 0 => decide (t < 32 ∨ t = 0x7FFFFFFF ∨ (2 ^ 31 ≤ t ∧ t < 2 ^ 31 + 4096))
  | 1 => true
  | 2 => decide (t < 4096)
  | _ => false

/-- A destination of a table: a network port it names is a port of the boot configuration (R152, R197). -/
def destOk (s : State) (a : Nat) : Bool :=
  decide (a % 32 = 0) && actOk a && (decide (actKind a = 1) || (decide (actKind a = 0 ∧ actTarget a < 2 ^ 31) &&
    (decide (32 ≤ actTarget a) || netPortExists s (actTarget a))))

/-- The destination that names a network port (R178). -/
def portDest (p : Nat) : Nat := p * 2 ^ 32

/-- The words of an instance (R195). -/
def instWords (s : State) (i : Nat) : List Nat := mget [0, 0, 0, 0x7FFFFFFF] s.fw.insts i

/-- Its fields. -/
def instW (s : State) (i k : Nat) : Nat := (instWords s i).getD k 0
def instMode (s : State) (i : Nat) : Nat := bitsOf (instW s i 0) 31 30
def instScope (s : State) (i : Nat) : Nat := bitsOf (instW s i 0) 11 0
def instMiss (s : State) (i : Nat) : Nat := instW s i 2 + instW s i 3 * 2 ^ 32

/-- Set bits of a mask of 16. -/
def setBits16 (m : Nat) : List Nat := (List.range 16).filter fun i => bitOf m i

/-- The words of an INST write are valid (R195). A slot is held to its limit only in the MODE that uses it (DESIGN CHOICE, log
entry 119). -/
def instOk (s : State) (w0 w1 miss : Nat) : Bool :=
  decide (bitsOf w0 26 12 = 0 ∧ bitsOf w1 7 0 = 0) && decide ((setBits16 (bitsOf w1 31 16)).length ≤ 8) && destOk s miss &&
  (!(bitsOf w0 31 30 == 1 && bitOf w0 27) || decide (bitsOf w1 15 12 ≤ 12)) &&
  (bitsOf w0 31 30 != 2 || decide (bitsOf w1 15 12 ≤ 14 ∧ bitsOf w1 11 8 ≤ 14)) &&
  (!bitOf w0 28 || decide (bitsOf w0 31 30 = 2))

/-! ### Keys -/

/-- Value of a key slot; whether slots a to a + n - 1 are valid (R175). -/
def slotVal (k : FwKey) (i : Nat) : Nat := bitsOf k.slots (32 * i + 31) (32 * i)
def slotsValid (k : FwKey) (a n : Nat) : Bool := (List.range n).all fun i => bitOf k.valid (a + i)

/-- The exact-match key of a frame (R202); none when a slot is not valid (R198). -/
def emKey (s : State) (k : FwKey) : Option (List Nat) :=
  let sl := setBits16 (bitsOf (instW s k.inst 1) 31 16)
  if sl.all fun i => bitOf k.valid i then
    let v := (sl.map (slotVal k)).take 8
    some (k.inst :: (v ++ List.replicate (8 - v.length) 0))
  else none

/-- A MAC address from a slot and the next one (R195). -/
def macAt (k : FwKey) (i : Nat) : Option Nat :=
  if slotsValid k i 2 then some (slotVal k i % 65536 * 2 ^ 32 + slotVal k (i + 1)) else none

/-- The destination address of an L3 instance (R195). -/
def addrAt (k : FwKey) (i : Nat) (v6 : Bool) : Option Nat :=
  if v6 then
    if slotsValid k i 4 then some ((List.range 4).foldl (fun n j => n * 2 ^ 32 + slotVal k (i + j)) 0) else none
  else if slotsValid k i 1 then some (slotVal k i) else none

/-! ### Tables -/

/-- Find an entry and its position. -/
def findEnt (m : Map FEnt) (key : List Nat) : Option (Nat × FEnt) := m.find? fun x => decide (x.2.key = key)

/-- The tables as a lookup sees them: as they stood before the changes of this PCLK (R199). -/
def fwSeen (s : State) : State :=
  match s.fw.seen with
  | some x =>
    if x.at_ = s.clk then
      modFw s fun f => { f with insts := x.insts, em := x.em, l2 := x.l2, lpm := x.lpm, nhs := x.nhs, vers := x.vers }
    else s
  | none => s

/-- Before the first change of a PCLK the tables are kept as they stand (R199). -/
def fwKeep (s : State) : State :=
  if s.fw.seen.any fun x => decide (x.at_ = s.clk) then s
  else
    modFw s fun f => { f with seen := some {
      at_ := s.clk, insts := f.insts, em := f.em, l2 := f.l2, lpm := f.lpm, nhs := f.nhs, vers := f.vers } }

/-- Which table, exact match or learning. -/
def tabOf (s : State) (l2 : Bool) : Map FEnt := if l2 then s.fw.l2 else s.fw.em
def setTab (s : State) (l2 : Bool) (m : Map FEnt) : State :=
  modFw s fun f => if l2 then { f with l2 := m } else { f with em := m }

/-- Change one. -/
def putTab (s : State) (l2 : Bool) (m : Map FEnt) : State := setTab (fwKeep s) l2 m

/-- A lookup hits an entry and sets its HIT. Where the ager has visited the position in this PCLK, the lookup comes first: the
visit then finds HIT set, clears it with IDLE and removes nothing (R199, R202, R208, R210). -/
def hitEnt (s : State) (l2 : Bool) (p : Nat) (e : FEnt) : State :=
  let now := mget? (tabOf s l2) p
  let clear (x : FEnt) : State := setTab s l2 (mset (tabOf s l2) p { x with hit := false, idle := false })
  match (s.fw.seen.bind fun x => if x.at_ = s.clk then x.aged.find? fun y => decide (y.1 = (l2, p)) else none), now with
  | some (_, old), some x => if x.key = old.key then clear x else s
  | some (k, old), none =>
    if old.idle ∧ !old.hit then
      let s := modFw (clear old) fun f => { f with seen := f.seen.map fun x => { x with
        aged := (k, { old with hit := true }) :: x.aged } }
      cadd s 7 0 (if l2 then 15 else 14) (2 ^ 64 - 1)
    else s
  | none, some x => if x.key = e.key then setTab s l2 (mset (tabOf s l2) p { x with hit := true }) else s
  | none, none => s

/-- Epoch number [15:0] (R202). -/
def epoch16 (s : State) : Nat := epochNo s % 65536

/-- Candidate positions of a key (R211), those of a learning key in its bank of 262,144 (R200, R207); placement is internal
(log entry 3). -/
def candidates (l2 : Bool) (key : List Nat) : List Nat :=
  if l2 then (Config.l2Cand key).map (fun p => bankOf key * 262144 + p.toNat) else (Config.emCand key).map (·.toNat)

/-- The older of two entries under policy 2 (R211): IDLE set, then HIT clear, then the earlier INS_EPOCH, then the lower
position. -/
def older (now : Nat) (a b : Nat × FEnt) : Bool :=
  let age (x : Nat × FEnt) : Nat := (now + 65536 - x.2.insEp) % 65536
  if a.2.idle ≠ b.2.idle then a.2.idle
  else if a.2.hit ≠ b.2.hit then !a.2.hit
  else if age a ≠ age b then decide (age a > age b)
  else decide (a.1 < b.1)

/-- The candidate that a policy evicts (R211). -/
def victim (s : State) (policy : Nat) (cand : List (Nat × FEnt)) : Option Nat :=
  let cand := cand.filter fun x => !x.2.stat
  match policy, cand with
  | 1, _ :: _ => (cand[(Config.entropy s.free).toNat % cand.length]?).map (·.1)
  | 2, x :: t => some (t.foldl (fun b y => if older (epoch16 s) y b then y else b) x).1
  | _, _ => none

/-- Place an entry: its position, evicting under a policy where every candidate position is taken (R211). -/
def placeEnt (s : State) (l2 : Bool) (policy : Nat) (e : FEnt) : Option (Nat × State) :=
  let c := candidates l2 e.key
  match c.find? fun p => (mget? (tabOf s l2) p).isNone with
  | some p => some (p, putTab s l2 (mset (tabOf s l2) p e))
  | none =>
    match victim s policy (c.filterMap fun p => (mget? (tabOf s l2) p).map fun e => (p, e)) with
    | some p => some (p, cadd (bumpFree (putTab s l2 (mset (tabOf s l2) p e))) 7 0 16 1)
    | none => none

/-- FT count [63:10] (R207). -/
def stampOf (ns : Nat) : Nat := ns / 1024 % 2 ^ 54

/-- The 16 words of an entry (R202, R207). -/
def entWords (l2 valid : Bool) (e : FEnt) : List Nat :=
  let f := b2n valid * 2 ^ 31 + b2n e.stat * 2 ^ 30 + b2n e.hit * 2 ^ 29 + b2n e.idle * 2 ^ 28
  let k := e.key
  if l2 then
    let mac := k.getD 1 0
    [f + k.getD 0 0, e.insEp, mac / 2 ^ 32, mac % 2 ^ 32, e.stamp % 2 ^ 32, e.stamp / 2 ^ 32, e.dest % 2 ^ 32,
      e.dest / 2 ^ 32] ++ List.replicate 8 0
  else [f + k.getD 0 0, e.insEp] ++ (k.drop 1).take 8 ++ [e.dest % 2 ^ 32, e.dest / 2 ^ 32] ++ List.replicate 4 0

/-- The number of slots an LPM entry takes, and the slots in use (R200). -/
def lpmSlots (e : LpmEnt) : Nat := if e.v6 then 4 else 1
def lpmUsed (s : State) : Nat := s.fw.lpm.foldl (fun n e => n + lpmSlots e) 0

/-- An entry comes before another in slot order: families apart, within one by descending length (R204). -/
def lpmBefore (a b : LpmEnt) : Bool := (a.v6 && !b.v6) || (a.v6 == b.v6 && decide (a.len > b.len))

/-- Add an entry in slot order (R204). -/
def lpmAdd (e : LpmEnt) : List LpmEnt → List LpmEnt
  | [] => [e]
  | x :: t => if lpmBefore e x then e :: x :: t else x :: lpmAdd e t

/-- Entries in slots one after the other; those of IPv6 come first and so are aligned. -/
def lpmPack : Nat → List LpmEnt → List (Nat × LpmEnt)
  | _, [] => []
  | p, e :: t => (p, e) :: lpmPack (p + lpmSlots e) t

/-- A placement keeps R200 and R204: within the slots, IPv6 entries aligned, no slot used twice, and slots rising in slot order
within a family. -/
def lpmFits (l : List (Nat × LpmEnt)) : Bool :=
  (l.all fun x => decide (x.1 + lpmSlots x.2 ≤ 262144) && (!x.2.v6 || decide (x.1 % 4 = 0))) &&
  ((l.zip (l.drop 1)).all fun x => x.1.2.v6 != x.2.2.v6 || decide (x.1.1 + lpmSlots x.1.2 ≤ x.2.1)) &&
  (l.filter (·.2.v6)).all fun a => (l.filter (!·.2.v6)).all fun b => decide (b.1 < a.1 ∨ a.1 + 4 ≤ b.1)

/-- The LPM entries with their first slots: any placement that keeps R200 and R204 (log entry 3). -/
def lpmPlaced (s : State) : List (Nat × LpmEnt) :=
  let l := s.fw.lpm
  let c := ((Config.lpmPlace (l.map fun e => [b2n e.v6, e.len, e.vrf, e.pfx])).map (·.toNat)).zip l
  if c.length = l.length ∧ lpmFits c then c else lpmPack 0 l

/-- The first slot of an LPM entry. -/
def lpmPos (s : State) (e : LpmEnt) : Nat := (((lpmPlaced s).find? fun x => decide (x.2 = e)).map (·.1)).getD 0

/-- The words of an LPM entry (R203). -/
def lpmWords (valid : Bool) (e : LpmEnt) : List Nat :=
  let p := if e.v6 then [e.pfx / 2 ^ 96, e.pfx / 2 ^ 64 % 2 ^ 32, e.pfx / 2 ^ 32 % 2 ^ 32, e.pfx % 2 ^ 32]
    else [e.pfx, 0, 0, 0]
  [b2n valid * 2 ^ 31 + b2n e.v6 * 2 ^ 27 + e.len * 2 ^ 16 + e.vrf, e.nh, 0, 0] ++ p ++ List.replicate 8 0

/-- Address bits of a family. -/
def addrBits (v6 : Bool) : Nat := if v6 then 128 else 32

/-- An LPM entry matches an address (R203). -/
def lpmMatch (e : LpmEnt) (vrf : Nat) (v6 : Bool) (a : Nat) : Bool :=
  decide (e.vrf = vrf ∧ e.v6 = v6 ∧ e.pfx / 2 ^ (addrBits v6 - e.len) = a / 2 ^ (addrBits v6 - e.len))

/-- The longest match among entries (R204). -/
def lpmBest (l : List LpmEnt) : Option LpmEnt :=
  l.foldl (fun b e => match b with | none => some e | some x => if x.len < e.len then some e else b) none

/-- Destination of a next hop (R205). -/
def nhDest (s : State) (i : Nat) : Nat := mget nullDest s.fw.nhs i

/-- Route version of a VRF, and its advance: a version that would wrap first empties the cache of the VRF (R206). -/
def vrfVer (s : State) (v : Nat) : Nat := mget 0 s.fw.vers v
def bumpVer (s : State) (v : Nat) : State :=
  modFw (fwKeep s) fun f =>
    if mget 0 f.vers v = 65535 then { f with vers := mset f.vers v 0, rc := f.rc.filter fun x => decide (x.vrf ≠ v) }
    else { f with vers := mset f.vers v (mget 0 f.vers v + 1) }

/-! ### Lookups (R198, R216, R217) -/

/-- The physical bank of an LPM slot (R438, R441). -/
def lpmBank (s : State) (slot : Nat) : Nat := standIn s 3 (slot / 8192)

/-- Parity errors are counted and raised, each of them (R217). -/
def fwParity (s : State) : Nat → State
  | 0 => s
  | n + 1 => fwParity (raise (cadd s 7 0 17 1) .fwParity 0) n

/-- Uncorrectable errors at positions of a table remove the entries there (R216). -/
def eccLoss (s : State) (l2 : Bool) (pos : List Nat) : State :=
  if pos = [] then s
  else
    let gone := (tabOf s l2).filter fun x => decide (x.1 ∈ pos)
    let s := pos.foldl (fun s k => eccUncorr s (sysCell (Config.tabBlock l2 k).toNat)) s
    raise (cadd (putTab s l2 (mfilter (fun k _ => decide (k ∉ pos)) (tabOf s l2))) 7 0 18 gone.length) .fwTableEcc 0

/-- The exact-match search: a hit sets HIT (R202). -/
def emSearch (s : State) (k : FwKey) (u : Upset) : Option Nat × State :=
  let s := eccLoss (fwParity s (b2n u.emParity)) false u.ecc
  let miss : Option Nat × State := (none, cadd s 7 0 1 1)
  if u.ecc ≠ [] then miss
  else
    let v := fwSeen s
    match emKey v k with
    | none => miss
    | some key =>
      match findEnt v.fw.em key with
      | some (p, e) => (some e.dest, cadd (hitEnt s false p e) 7 0 0 1)
      | none => miss

/-- The learning-table search by destination: HIT is not set (R208). -/
def l2Search (s : State) (k : FwKey) (u : Upset) : Option Nat × State :=
  let s := eccLoss (fwParity s (b2n u.cacheParity)) true u.eccL2
  let miss : Option Nat × State := (none, cadd s 7 0 6 1)
  if u.eccL2 ≠ [] then miss
  else
    let v := fwSeen s
    match macAt k (bitsOf (instW v k.inst 1) 15 12) with
    | none => miss
    | some mac =>
      match findEnt v.fw.l2 [instScope v k.inst, mac] with
      | some (_, e) => (some e.dest, cadd s 7 0 5 1)
      | none => miss

/-- Fill the route cache; a full one loses an entry by replacement (R206). -/
def rcFill (s : State) (e : RcEnt) : State :=
  let rest := s.fw.rc.filter fun x => !decide (x.vrf = e.vrf ∧ x.v6 = e.v6 ∧ x.addr = e.addr)
  if rest.length < 262144 then modFw s fun f => { f with rc := e :: rest }
  else bumpFree (modFw s fun f => { f with rc := e :: rest.eraseIdx ((Config.entropy s.free).toNat % rest.length) })

/-- The next hop of a route; a parity error there counts as an LPM miss (R205, R217). -/
def nhLookup (s : State) (nh : Nat) (u : Upset) : Option Nat × State :=
  let s := if u.nh then fwParity (modFw s fun f => { f with badNh := nh :: f.badNh }) 1 else s
  if nh ∈ s.fw.badNh then (none, cadd s 7 0 4 1) else (some (nhDest (fwSeen s) nh), s)

/-- A slot of an entry fails and has not been rewritten (R217). -/
def lpmBad (s : State) (x : Nat × LpmEnt) : Bool := (List.range (lpmSlots x.2)).any fun i => decide (x.1 + i ∈ s.fw.badLpm)

/-- The LPM search for an address (R203, R204, R217): the result of a search that met a parity error, in a slot of a route of
the address or in the next hop, is not cached. -/
def lpmSearch (s : State) (vrf : Nat) (v6 : Bool) (a : Nat) (u : Upset) : Option Nat × State :=
  let s := fwParity (modFw s fun f => { f with badLpm := u.lpm ++ f.badLpm }) u.lpm.length
  let s := u.lpm.foldl (fun s k => wearNote s .lpmParity (lpmBank s k)) s
  let all := (lpmPlaced (fwSeen s)).filter fun x => lpmMatch x.2 vrf v6 a
  match lpmBest ((all.filter fun x => !lpmBad s x).map (·.2)) with
  | none => (none, cadd s 7 0 4 1)
  | some e =>
    match nhLookup s e.nh u with
    | (some d, s') =>
      (some d, if u.lpm = [] ∧ !all.any (lpmBad s) then
          rcFill s' { vrf := vrf, v6 := v6, addr := a, nh := e.nh, ver := vrfVer (fwSeen s) vrf } else s')
    | (none, s') => (none, s')

/-- A route-cache entry whose parity fails is invalidated and fetched again (R217). -/
def rcDrop (s : State) (vrf : Nat) (v6 : Bool) (a : Nat) : State :=
  modFw s fun f => { f with rc := f.rc.filter fun x => !decide (x.vrf = vrf ∧ x.v6 = v6 ∧ x.addr = a) }

/-- The route search for an address: the route cache, then the LPM (R198, R206). -/
def routeAddr (s : State) (vrf : Nat) (v6 : Bool) (a : Nat) (u : Upset) : Option Nat × State :=
  let s := if u.cacheParity then rcDrop (fwParity s 1) vrf v6 a else if u.rcGone then rcDrop s vrf v6 a else s
  match s.fw.rc.find? fun x => decide (x.vrf = vrf ∧ x.v6 = v6 ∧ x.addr = a ∧ x.ver = vrfVer (fwSeen s) vrf) with
  | some x => nhLookup (cadd s 7 0 2 1) x.nh u
  | none => lpmSearch (cadd s 7 0 3 1) vrf v6 a u

/-- The route search of a frame (R198). -/
def routeSearch (s : State) (k : FwKey) (u : Upset) : Option Nat × State :=
  let v := fwSeen s
  let v6 := bitOf (instW v k.inst 0) 27
  match addrAt k (bitsOf (instW v k.inst 1) 15 12) v6 with
  | none => (none, cadd (cadd s 7 0 3 1) 7 0 4 1)
  | some a => routeAddr s (instScope v k.inst) v6 a u

/-- The network port that an engine's own packet to an address leaves by: a lookup in an instance of MODE L3 of the
address's family (R295, R378). -/
def portFor (s : State) (inst : Nat) (v6 : Bool) (a : Nat) : Option Nat × State :=
  let v := fwSeen s
  if instMode v inst ≠ 1 ∨ bitOf (instW v inst 0) 27 ≠ v6 then (none, s)
  else
    let (d, s) := routeAddr s (instScope v inst) v6 a {}
    let d := d.getD (instMiss v inst)
    (if actKind d = 0 ∧ actTarget d < 32 ∧ netPortExists s (actTarget d) then some (actTarget d) else none, s)

/-- A lookup: its destination (R196, R198). -/
def fwLookup (s : State) (k : FwKey) (u : Upset) : Nat × State :=
  let v := fwSeen s
  let miss := instMiss v k.inst
  let mode := instMode v k.inst
  if mode = 0 then (miss, s)
  else
    let s := sysEcc s u.sys
    let (d, s) := if mode = 3 ∨ bitOf (instW v k.inst 0) 29 then emSearch s k u else (none, s)
    match d with
    | some d => (d, s)
    | none =>
      let (d, s) := match mode with
        | 1 => routeSearch s k u
        | 2 => l2Search s k u
        | _ => (none, s)
      (d.getD miss, s)

/-! ### Learning (R208, R209) -/

/-- Put a learn event in line: PCLKs in order, and within one by ascending ingress pipe (R209). -/
def learnPut (v : LearnEv) : List LearnEv → List LearnEv
  | [] => [v]
  | x :: t => if x.clk = v.clk ∧ v.pipe < x.pipe then v :: x :: t else x :: learnPut v t

/-- A learn event goes to its bank, which queues 64: one that finds the queue full is discarded (R209). -/
def learnQueue (s : State) (v : LearnEv) : State :=
  let b := bankOf [v.bd, v.mac]
  let q := learnPut v (mget [] s.fw.banks b)
  let s' := modFw s fun f => { f with banks := mset f.banks b (q.take 64) }
  if 64 < q.length then cadd s' 7 0 12 1 else s'

/-- The source lookup of a frame from a network port (R208); an uncorrectable error there makes it a miss (R216). -/
def learnSrc (s : State) (k : FwKey) (port pipe : Nat) (u : Upset) : State :=
  let v := fwSeen s
  if instMode v k.inst ≠ 2 ∨ !bitOf (instW v k.inst 0) 28 then s
  else
    match macAt k (bitsOf (instW v k.inst 1) 11 8) with
    | none => s
    | some mac =>
      let bd := instScope v k.inst
      let event (s : State) : State :=
        learnQueue s { bd := bd, mac := mac, port := port, ns := ftNs s, clk := s.clk, pipe := pipe }
      if bitOf (mac / 2 ^ 40) 0 then cadd s 7 0 11 1
      else
        let s := eccLoss (fwParity s (b2n u.srcParity)) true u.eccSrc
        match findEnt (fwSeen s).fw.l2 [bd, mac] with
        | some (p, e) =>
          if u.eccSrc ≠ [] then event s
          else if e.dest = portDest port then hitEnt s true p e
          else if e.stat then cadd s 7 0 10 1
          else event s
        | none => event s

/-- A bank takes a learn event (R209). -/
def learnTake (s : State) (v : LearnEv) : State :=
  match findEnt s.fw.l2 [v.bd, v.mac] with
  | none =>
    let e : FEnt := {
      key := [v.bd, v.mac], hit := true, insEp := epoch16 s, stamp := stampOf v.ns, dest := portDest v.port }
    match placeEnt s true (rd s F.FW_L2_CFG_EVICT) e with
    | some (_, s) => cadd s 7 0 7 1
    | none => raiseOnce (cadd s 7 0 13 1) .fwLearnFull 0
  | some (p, e) =>
    if e.dest = portDest v.port then putTab s true (mset s.fw.l2 p { e with hit := true })
    else if e.stat then cadd s 7 0 10 1
    else if v.ns - e.stamp * 1024 < rd s F.FW_L2_CFG_HOLD * 1000 then raiseOnce (cadd s 7 0 9 1) .moveConflict 0
    else
      cadd (putTab s true (mset s.fw.l2 p { e with
        dest := portDest v.port, stamp := stampOf v.ns, hit := true, idle := false })) 7 0 8 1

/-! ### Aging (R210) -/

/-- Positions of a table (R200). -/
def tabSize (l2 : Bool) : Nat := if l2 then 4194304 else 67108864

/-- The test-and-clear of HIT at a position (R210). A lookup of the same PCLK still comes before it. -/
def ageEntry (s : State) (l2 : Bool) (pos : Nat) : State :=
  match mget? (tabOf s l2) pos with
  | none => s
  | some e =>
    let s := modFw (fwKeep s) fun f => { f with seen := f.seen.map fun x => { x with aged := ((l2, pos), e) :: x.aged } }
    if e.stat then s
    else if e.hit then putTab s l2 (mset (tabOf s l2) pos { e with hit := false, idle := false })
    else if e.idle then cadd (putTab s l2 (mdel (tabOf s l2) pos)) 7 0 (if l2 then 15 else 14) 1
    else putTab s l2 (mset (tabOf s l2) pos { e with idle := true })

/-- AGE_VISIT: the next position of a sweep; the period is taken at the sweep's first position (R210, R218). A visit to a bank
of the learning table takes its turn behind the learn events that have reached the bank (R214). -/
def execAgeVisit (l2 : Bool) (s : State) : Host.Outcome State Fault Refusal :=
  let (pos, start, per) := if l2 then s.fw.ageL2 else s.fw.ageEm
  let per := if pos = 0 then (if l2 then rd s F.FW_AGE_L2_PERIOD else rd s F.FW_AGE_EM_PERIOD) else per
  let n := tabSize l2
  if per = 0 ∨ s.clk < start + msec (10 * per) * pos / n ∨ (l2 ∧ mget [] s.fw.banks (pos / 262144) ≠ []) then .next s
  else
    let start := if pos = 0 ∧ start + msec 10 < s.clk then s.clk else start
    let nxt := if pos + 1 = n then (0, start + msec (10 * per), per) else (pos + 1, start, per)
    .next (ageEntry (modFw s fun f => if l2 then { f with ageL2 := nxt } else { f with ageEm := nxt }) l2 pos)

/-! ### Operations on the tables (R211 to R215) -/

/-- Reserved fields of a table's format that are not zero (R202, R203, R207). -/
def fwReserved (table : Nat) (w : Nat → Nat) : Bool :=
  match table with
  | 0 => decide (bitsOf (w 0) 27 12 ≠ 0 ∨ bitsOf (w 1) 31 16 ≠ 0) || [12, 13, 14, 15].any fun i => decide (w i ≠ 0)
  | 1 => decide (bitsOf (w 0) 27 12 ≠ 0 ∨ bitsOf (w 1) 31 16 ≠ 0 ∨ bitsOf (w 2) 31 16 ≠ 0 ∨ bitsOf (w 5) 31 22 ≠ 0)
  | 2 => decide (bitsOf (w 0) 30 28 ≠ 0 ∨ bitsOf (w 0) 26 24 ≠ 0 ∨ bitsOf (w 0) 15 12 ≠ 0 ∨ bitsOf (w 1) 31 16 ≠ 0 ∨
      w 2 ≠ 0 ∨ w 3 ≠ 0)
  | 4 => decide (bitsOf (w 0) 26 12 ≠ 0 ∨ bitsOf (w 1) 7 0 ≠ 0)
  | _ => false

/-- Two words as a destination. -/
def destAt (w : Nat → Nat) (i : Nat) : Nat := w i + w (i + 1) * 2 ^ 32

/-- The result of an operation: R213 code, position, words, and the state. -/
abbrev FwRes := Nat × Nat × List Nat × State

/-- The key of the words of an entry (R202, R207). -/
def entKey (l2 : Bool) (w : Nat → Nat) : List Nat :=
  if l2 then l2Key w else bitsOf (w 0) 11 0 :: (List.range 8).map fun i => w (2 + i)

/-- Operations on the exact-match and learning tables (R213). What a FLUSH removes is removed one by one, in `flushStep`. -/
def entOp (s : State) (l2 : Bool) (op : Nat) (w : Nat → Nat) (ws : List Nat) (index : Nat) (evictOk : Bool) : FwRes :=
  let key := entKey l2 w
  let dest := destAt w (if l2 then 6 else 10)
  let found := findEnt (tabOf s l2) key
  let rix := s.fw.resIdx
  match op with
  | 0 => match found with
    | some (p, e) => (0, p, entWords l2 true e, s)
    | none => (1, rix, ws, s)
  | 1 =>
    if !destOk s dest then (4, rix, ws, s)
    else
      match found with
      | some (p, e) => (2, p, entWords l2 true e, s)
      | none =>
        let e : FEnt := {
          key := key, stat := bitOf (w 0) 30, hit := true, insEp := epoch16 s,
          stamp := if l2 then stampOf (ftNs s) else 0, dest := dest }
        match placeEnt s l2 (if !l2 ∧ evictOk then rd s F.FW_EM_CFG_EVICT else 0) e with
        | some (p, s) => (0, p, entWords l2 true e, s)
        | none => (3, rix, ws, s)
  | 2 =>
    if !destOk s dest then (4, rix, ws, s)
    else
      match found with
      | some (p, e) =>
        let e := { e with dest := dest, stat := bitOf (w 0) 30 }
        (0, p, entWords l2 true e, putTab s l2 (mset (tabOf s l2) p e))
      | none => (1, rix, ws, s)
  | 3 => match found with
    | some (p, e) => (0, p, entWords l2 false e, putTab s l2 (mdel (tabOf s l2) p))
    | none => (1, rix, ws, s)
  | 4 => match mget? (tabOf s l2) index with
    | some e => (0, index, entWords l2 true e, s)
    | none => (0, index, List.replicate 16 0, s)
  | _ => (0, rix, ws, s)

/-- The LPM entry of the words of a command (R203). DW5 to DW7 of an IPv4 command are ignored (DESIGN CHOICE, log entry
119). -/
def lpmEnt (w : Nat → Nat) : LpmEnt :=
  let v6 := bitOf (w 0) 27
  { vrf := bitsOf (w 0) 11 0, v6 := v6, len := bitsOf (w 0) 23 16
    pfx := if v6 then w 4 * 2 ^ 96 + w 5 * 2 ^ 64 + w 6 * 2 ^ 32 + w 7 else w 4
    nh := w 1 % 65536 }

/-- Two LPM entries have the same key (R203). -/
def lpmSame (a b : LpmEnt) : Bool := decide (a.vrf = b.vrf ∧ a.v6 = b.v6 ∧ a.len = b.len ∧ a.pfx = b.pfx)

/-- Operations on the LPM (R203, R204, R213), a FLUSH apart. -/
def lpmOp (s : State) (op : Nat) (w : Nat → Nat) (ws : List Nat) (index : Nat) : FwRes :=
  let e := lpmEnt w
  let vrf := e.vrf
  let same (x : LpmEnt) : Bool := lpmSame x e
  let found := s.fw.lpm.find? same
  let rix := s.fw.resIdx
  let bad := e.len > addrBits e.v6 ∨ e.pfx % 2 ^ (addrBits e.v6 - e.len) ≠ 0
  match op with
  | 4 => match (lpmPlaced s).find? fun x => decide (x.1 = index) with
    | some x => (0, index, lpmWords true x.2, s)
    | none => (0, index, List.replicate 16 0, s)
  | 5 => (0, rix, ws, s)
  | 0 =>
    if bad then (4, rix, ws, s)
    else match found with
      | some x => (0, lpmPos s x, lpmWords true x, s)
      | none => (1, rix, ws, s)
  | 1 =>
    if bad then (4, rix, ws, s)
    else match found with
      | some x => (2, lpmPos s x, lpmWords true x, s)
      | none =>
        if 262144 - lpmUsed s < lpmSlots e then (3, rix, ws, s)
        else
          let s := bumpVer (modFw (fwKeep s) fun f => { f with lpm := lpmAdd e f.lpm }) vrf
          (0, lpmPos s e, lpmWords true e, s)
  | 2 =>
    if bad then (4, rix, ws, s)
    else match found with
      | some _ =>
        let s := bumpVer (modFw (fwKeep s) fun f => { f with lpm := f.lpm.map fun x => if same x then e else x }) vrf
        (0, lpmPos s e, lpmWords true e, s)
      | none => (1, rix, ws, s)
  | _ =>
    if bad then (4, rix, ws, s)
    else match found with
      | some x =>
        (0, lpmPos s x, lpmWords false x, bumpVer (modFw (fwKeep s) fun f => { f with lpm := f.lpm.filter fun y => !same y }) vrf)
      | none => (1, rix, ws, s)

/-- The words of a next hop or an instance (R195, R205). -/
def idxWords (s : State) (inst : Bool) (index : Nat) : List Nat :=
  if inst then instWords s index ++ List.replicate 12 0
  else [0, 0, nhDest s index % 2 ^ 32, nhDest s index / 2 ^ 32] ++ List.replicate 12 0

/-- Operations on next hops and instances (R195, R205, R213). -/
def idxOp (s : State) (inst : Bool) (op : Nat) (w : Nat → Nat) (ws : List Nat) (index : Nat) : FwRes :=
  let rix := s.fw.resIdx
  let n := if inst then 4096 else 65536
  if index ≥ n ∨ (op ≠ 0 ∧ op ≠ 2) then (4, rix, ws, s)
  else if op = 0 then (0, index, idxWords s inst index, s)
  else if inst then
    if !instOk s (w 0) (w 1) (destAt w 2) then (4, rix, ws, s)
    else
      let s := modFw (fwKeep s) fun f => { f with insts := mset f.insts index [w 0, w 1, w 2, w 3] }
      (0, index, idxWords s inst index, s)
  else if !destOk s (destAt w 2) then (4, rix, ws, s)
  else
    let s := modFw (fwKeep s) fun f => { f with nhs := mset f.nhs index (destAt w 2) }
    (0, index, idxWords s inst index, s)

/-- One operation on a table (R212, R213). -/
def tableOp (s : State) (table op : Nat) (ws : List Nat) (index : Nat) (evictOk : Bool) : FwRes :=
  let w (i : Nat) : Nat := ws.getD i 0
  if op > 5 ∨ table > 4 ∨ fwReserved table w then (4, s.fw.resIdx, ws, s)
  else
    match table with
    | 0 => entOp s false op w ws index evictOk
    | 1 => entOp s true op w ws index false
    | 2 => lpmOp s op w ws index
    | 3 => idxOp s false op w ws index
    | _ => idxOp s true op w ws index

/-! ### The command interface (R212) -/

/-- FW_DATA as 16 words. -/
def fwData (s : State) : List Nat := (List.range 16).map fun i => rget s (F.FW_DATA_W.off + 4 * i)

/-- The FLUSH filter takes an entry (R213). -/
def flushHit (w : Nat → Nat) (e : FEnt) : Bool :=
  (!bitOf (w 0) 31 || decide (e.key.getD 0 0 = bitsOf (w 0) 11 0)) &&
  (!bitOf (w 0) 30 || decide (e.dest = portDest (w 1 % 32))) && (bitOf (w 0) 29 || !e.stat)

/-- The next position that a FLUSH has to clear, from where it stands; 0 for the LPM, whose entries it takes in slot order. -/
def flushNext (s : State) (table : Nat) (w : Nat → Nat) (from_ : Nat) : Option Nat :=
  if table = 2 then if s.fw.lpm.any fun e => decide (e.vrf = bitsOf (w 0) 11 0) then some 0 else none
  else ((tabOf s (table = 1)).find? fun x => decide (from_ ≤ x.1) && flushHit w x.2).map (·.1)

/-- One PCLK of a FLUSH: the next entry goes, whole, once the learn events that reached its bank before the FLUSH have been
taken (R213, R214). The answer holds where the FLUSH stands. -/
def flushStep (s : State) (table : Nat) (w : Nat → Nat) (from_ : Nat) (ahead : Map Nat) : State × Nat :=
  match flushNext s table w from_ with
  | none => (s, from_)
  | some p =>
    if table = 2 then (modFw (fwKeep s) fun f => { f with lpm := f.lpm.eraseP fun e => decide (e.vrf = bitsOf (w 0) 11 0) }, 0)
    else if ahead.any fun b => decide (b.1 ≤ p / 262144) then (s, from_)
    else (putTab s (table = 1) (mdel (tabOf s (table = 1)) p), p + 1)

/-- Nothing is left for a FLUSH to remove. -/
def flushDone (s : State) (table : Nat) (w : Nat → Nat) (from_ : Nat) (ahead : Map Nat) : Bool :=
  (flushNext s table w from_).isNone && decide (ahead = [])

/-- A FLUSH that has ended advances the route version of its VRF (R206). -/
def flushEnd (s : State) (table : Nat) (w : Nat → Nat) : State := if table = 2 then bumpVer s (bitsOf (w 0) 11 0) else s

/-- A whole FLUSH, for accesses made while the units are halted. -/
def flushAll (s : State) (table : Nat) (w : Nat → Nat) : State :=
  let n := if table = 2 then s.fw.lpm.length else (tabOf s (table = 1)).length
  flushEnd ((List.range n).foldl (fun s _ => (flushStep s table w 0 []).1) s) table w

/-- FW_DATA as a function of the word's number. -/
def fwW (s : State) (i : Nat) : Nat := (fwData s).getD i 0

/-- The command takes effect on its table (R213); what it cannot read is lost (R216). -/
def fwPerform (s : State) (c : FwCmd) : State :=
  let s := if c.table < 2 then eccLoss s (c.table = 1) c.ecc else s
  let (code, ix, ws, s) := tableOp s c.table c.op (fwData s) (rd s F.FW_INDEX_INDEX) c.evict
  modFw s fun f => { f with busy := some { c with done := decide (c.op ≠ 5 ∨ code ≠ 0) }, res := (code, ix, ws) }

/-- A write of FW_CMD: with START 1 the command takes effect once the learn events that reached its bank before it have been
taken, and its result is posted by FW_CMD_END (R212, R214). -/
def fwCmdWrite (s : State) (w : Nat) (ecc : List Nat := []) : State :=
  if s.fw.busy.isSome then wr s F.FW_STATUS_BUSY_ERR 0 0 1
  else
    match regStore s F.FW_CMD_OP.off 0 w with
    | (s, false) => s
    | (s, true) =>
      if bitOf w 31 then
        let table := bitsOf w 10 8
        let op := bitsOf w 3 0
        let c : FwCmd := {
          table := table, op := op, evict := bitOf w 11, ecc := ecc
          ahead := learnAhead s table op (fwW s) (rd s F.FW_INDEX_INDEX) }
        if c.ahead = [] ∨ op = 5 then fwPerform s c
        else modFw s fun f => { f with busy := some c, res := (0, 0, []) }
      else s

/-- A learn event of a bank has been taken: what it was ahead of comes nearer, and a command that waited for it alone takes
effect (R214). -/
def aheadTaken (m : Map Nat) (b : Nat) : Map Nat := msetD 0 m b (mget 0 m b - 1)
def learnTaken (s : State) (b : Nat) : State :=
  let s := { s with tblq := s.tblq.map fun (q : TblReq) => { q with ahead := aheadTaken q.ahead b } }
  match s.fw.busy with
  | some c =>
    let c := { c with ahead := aheadTaken c.ahead b }
    if c.ahead = [] ∧ !c.done ∧ c.op ≠ 5 then fwPerform s c else modFw s fun f => { f with busy := some c }
  | none => s

/-- LEARN_EVENT (R209); positions that it cannot read lose their entries (R216). -/
def execLearnEvent (bank : Fin 16) (ecc : List Nat) (s : State) : Host.Outcome State Fault Refusal :=
  match mget [] s.fw.banks bank.val with
  | [] => .next s
  | v :: t =>
    let s := eccLoss (modFw s fun f => { f with banks := msetD [] f.banks bank.val t }) true ecc
    .next (learnTaken (learnTake s v) bank.val)

/-- A TBL that is a FLUSH with valid words outside the fixed areas (R215, R277). It runs on when its thread restarts. -/
def tblFlush (s : State) (q : TblReq) : Bool := decide (q.op = 5 ∧ (tableOp s q.table 5 q.ws 0 false).1 = 0) && !q.fixed

/-- One PCLK of the FLUSHes in progress (R213). -/
def fwTick (s : State) : State :=
  let s := match s.fw.busy with
    | some c =>
      if c.op = 5 ∧ !c.done then
        let (s, n) := flushStep s c.table (fwW s) c.cursor c.ahead
        modFw s fun f => { f with busy := some { c with cursor := n } }
      else s
    | none => s
  (s.tblq.filter (tblFlush s)).foldl (fun s q =>
    let (s, n) := flushStep s q.table (fun i => q.ws.getD i 0) q.cursor q.ahead
    { s with tblq := s.tblq.map fun x => if x.id = q.id then { x with cursor := n } else x }) s

/-- Position and words of the entry of an operation as it now stands; VALID is 0 where there is none any more (R212). -/
def entNow (s : State) (table op : Nat) (w : Nat → Nat) (index ix : Nat) (ws : List Nat) : Nat × List Nat :=
  let gone := (ix, (ws.getD 0 0 % 2 ^ 31) :: ws.drop 1)
  match table with
  | 0 | 1 =>
    let l2 : Bool := table = 1
    match (if op = 4 then (mget? (tabOf s l2) index).map fun e => (index, e) else findEnt (tabOf s l2) (entKey l2 w)) with
    | some (p, e) => (p, entWords l2 true e)
    | none => gone
  | 2 =>
    match (lpmPlaced s).find? fun x => if op = 4 then decide (x.1 = index) else lpmSame x.2 (lpmEnt w) with
    | some x => (x.1, lpmWords true x.2)
    | none => gone
  | _ => (ix, idxWords s (table = 4) index)

/-- A write of FW_CMD whose OP is the command's. -/
def fwCmd (s : State) (port : HostPort) (value : Word) (op : Nat) (ecc : List Nat) : State :=
  regGate s port true fun s =>
    if bitsOf value.toNat 3 0 = op ∧ bitOf value.toNat 31 then fwCmdWrite s value.toNat ecc else s

/-- FW_LOOKUP, FW_INSERT, FW_UPDATE, FW_DELETE, FW_WALK, FW_FLUSH (R213). -/
def execFwLookup (port : HostPort) (value : Word) (ecc : List Nat) (s : State) : Host.Outcome State Fault Refusal :=
  .next (fwCmd s port value 0 ecc)
def execFwInsert (port : HostPort) (value : Word) (ecc : List Nat) (s : State) : Host.Outcome State Fault Refusal :=
  .next (fwCmd s port value 1 ecc)
def execFwUpdate (port : HostPort) (value : Word) (ecc : List Nat) (s : State) : Host.Outcome State Fault Refusal :=
  .next (fwCmd s port value 2 ecc)
def execFwDelete (port : HostPort) (value : Word) (ecc : List Nat) (s : State) : Host.Outcome State Fault Refusal :=
  .next (fwCmd s port value 3 ecc)
def execFwWalk (port : HostPort) (value : Word) (ecc : List Nat) (s : State) : Host.Outcome State Fault Refusal :=
  .next (fwCmd s port value 4 ecc)
def execFwFlush (port : HostPort) (value : Word) (s : State) : Host.Outcome State Fault Refusal :=
  .next (fwCmd s port value 5 [])

/-- The result of a command that has taken effect (R212). -/
def fwPost (s : State) (c : FwCmd) : State :=
  let (code, ix, ws) := s.fw.res
  let s := if c.op = 5 ∧ code = 0 then flushEnd s c.table (fwW s) else s
  let (ix, ws) := if (code = 0 ∨ code = 2) ∧ c.op ≠ 5 then entNow s c.table c.op (fwW s) (rd s F.FW_INDEX_INDEX) ix ws
    else (ix, ws)
  let s := (List.range 16).foldl (fun s i => rset s (F.FW_DATA_W.off + 4 * i) 0 (ws.getD i 0)) s
  modFw s fun f => { f with busy := none, result := code, resIdx := ix, res := (0, 0, []) }

/-- FW_CMD_END: the result of a command that has taken effect, of a FLUSH that has nothing left to remove, is posted, with the
entry as it now stands (R212, R213). -/
def execFwCmdEnd (s : State) : Host.Outcome State Fault Refusal :=
  match s.fw.busy with
  | none => .next s
  | some c =>
    if c.done ∨ (c.op = 5 ∧ flushDone s c.table (fwW s) c.cursor c.ahead) then .next (fwPost s c) else .next s

/-- FW_ENTRY_REWRITE: an LPM slot or a next hop is rewritten from its copy (R217). -/
def execFwEntryRewrite (nh : Bool) (pos : Fin 262144) (s : State) : Host.Outcome State Fault Refusal :=
  .next (modFw s fun f =>
    if nh then { f with badNh := f.badNh.filter (· ≠ pos.val) } else { f with badLpm := f.badLpm.filter (· ≠ pos.val) })

/-- TBL_REPLY: the oldest TBL of a thread completes (R284, R287); a block in the fixed areas of the slice is refused
(R277). An operation on the learning table takes its turn behind the learn events that reached its bank before it, and a FLUSH
replies when nothing is left to remove (R214, R215). -/
def execTblReply (core : CoreId) (thread : ThreadId) (ecc : List Nat) (s : State) : Host.Outcome State Fault Refusal :=
  let c := core.val
  let t := thread.val
  match s.tblq.find? fun q => decide (q.core = c ∧ q.thread = t) with
  | none => .next s
  | some q =>
    let w (i : Nat) : Nat := q.ws.getD i 0
    let held := (thrOf s c t).holds.any (·.1 = q.id)
    let flush := tblFlush s q
    if !running s ∨ (held ∧ !q.fixed ∧ q.ahead ≠ []) ∨ (flush ∧ !flushDone s q.table w q.cursor q.ahead) then .next s
    else
      let s := { s with tblq := s.tblq.filter fun x => decide (x.id ≠ q.id) }
      let s := if flush then flushEnd s q.table w else s
      let done (s : State) : State :=
        modThr s c t fun th => { th with tblOut := false, holds := th.holds.filter (·.1 ≠ q.id) }
      if !held then .next s
      else if q.fixed then .next (replyRec (done s) c t 1 .invalidField 0 [4, 0])
      else
        let s := if !flush ∧ q.table < 2 then eccLoss s (q.table = 1) ecc else s
        let (code, ix, ws, s) := tableOp s q.table q.op q.ws q.index q.evict
        let s := lmWrite s c q.addr (ws.flatMap (leBytes 4))
        .next (replyRec (done s) c t 1 .success 0 [code, ix])

end Sys2Proof.Machine
end

