-- ==== Sys2Proof/Machine/Egress.lean ====
section
/-! DEFINITION. Egress: class queues, admission, eligibility and scheduling, calendars and their swaps
(16_egress_calendar.md), and what becomes of a frame at the egress MAC (R157, R159, R160, R165). -/
namespace Sys2Proof.Machine

/-! ### Ports, classes, frames -/

/-- The egress side of a port and a change of it; a class of it and a change of it. -/
def egOf (s : State) (p : Nat) : EgPort := mget {} s.eg p
def modEg (s : State) (p : Nat) (f : EgPort → EgPort) : State := { s with eg := mset s.eg p (f (egOf s p)) }
def clsOf (s : State) (p c : Nat) : EgCls := mget {} (egOf s p).cls c
def modCls (s : State) (p c : Nat) (f : EgCls → EgCls) : State :=
  modEg s p fun e => { e with cls := mset e.cls c (f (mget {} e.cls c)) }

/-- Instance of the registers and counters of a class (R336). -/
def egInst (p c : Nat) : Nat := p * 8 + c

/-- Add to counter i of a class (R336). -/
def egCount (s : State) (p c i n : Nat) : State := cadd s 12 (egInst p c) i n

/-- A frame of the Sluice. -/
def isSluice (k : FrKind) : Bool := match k with | .sluice _ => true | _ => false

/-- Frames of a class in transmission. -/
def runsOf (e : EgPort) (c : Nat) : List TxRun := (e.run.toList ++ e.runP.toList).filter fun r => decide (r.cls = c)

/-- HELD of a class (R321). -/
def egHeld (s : State) (p c : Nat) : Nat :=
  (clsOf s p c).q.foldl (fun n f => n + f.len) 0 + (runsOf (egOf s p) c).foldl (fun n r => n + r.f.len) 0

/-- Frames a class queue holds (R336): those of the Sluice are none of them. -/
def egFrames (s : State) (p c : Nat) : Nat :=
  (clsOf s p c).q.length + ((runsOf (egOf s p) c).filter fun r => !isSluice r.f.kind).length

/-- A frame's bytes without its FCS, before the tag rule. -/
def frameBytes (s : State) (f : EFrame) : List Byte :=
  f.hdr ++ storeRead s (bufAddr s f.buf f.off) (f.len - f.hdr.length)

/-- A frame carries an outer tag (R160). -/
def outerTag (b : List Byte) : Bool := decide (beAt b 12 2 = 0x8100 ∨ beAt b 12 2 = 0x88A8)

/-- The tag that R160 inserts on a port: TPID and TCI. -/
def tagFor (s : State) (p : Nat) (b : List Byte) (t : Option (Nat × Nat)) : Option (Nat × Nat) :=
  match t with
  | some (k, tci) => some (if k = 0 then 0x8100 else 0x88A8, tci)
  | none =>
    if rd s F.MA_TAG_EG_INSERT p = 1 ∧ !outerTag b then
      some (if rd s F.MA_TAG_EG_TPID p = 0 then 0x8100 else 0x88A8, rget s (F.MA_TAG_EG_TPID.off + 256 * p) % 65536)
    else none

/-- The frame as it leaves, without its FCS (R160). -/
def tagged (s : State) (p : Nat) (b : List Byte) (t : Option (Nat × Nat)) : List Byte :=
  match tagFor s p b t with
  | some (k, tci) => b.take 12 ++ beBytes 2 k ++ beBytes 2 tci ++ b.drop 12
  | none => b

/-- Wire bits of a frame of a length with so many tags inserted (R325). -/
def wireBits (len tags : Nat) : Nat := (len + 4 * tags + 24) * 8

/-- Wire bits of a queued frame. -/
def frameBits (s : State) (p : Nat) (f : EFrame) : Nat :=
  wireBits f.len (b2n (tagFor s p (frameBytes s { f with len := min f.len (f.hdr.length + 14) }) f.tag).isSome)

/-- Wire time in ps at a port's rate (R325). -/
def wirePs (s : State) (p bits : Nat) : Nat := bits * 1000 / netRate s p

/-- A time in ps as a difference of counts in 2^-16 ns, a part of a step taken as one. -/
def psCount (t : Nat) : Nat := ceilDiv (t * 65536) 1000

/-! ### Preemption, gates and calendars -/

/-- Preemption is in use on a port that is UP (MA_PSTATUS.PREEMPT_ACTIVE, R165). -/
def preemptActive (s : State) (p : Nat) : Bool :=
  netUp s p && decide (rd s F.MA_PREEMPT_EN p = 1) && (decide (rd s F.MA_PREEMPT_VERIFY_DIS p = 1) || decide ((macOf s p).ver = .succeeded))

/-- The class goes through the express MAC (R165). -/
def express (s : State) (p c : Nat) : Bool := !preemptActive s p || bitOf (rd s F.MA_PREEMPT_EXPRESS p) c

/-- Fields of a calendar entry (R326). -/
def entGates (w : Nat) : Nat := bitsOf w 31 24
def entHold (w : Nat) : Bool := bitOf w 23
def entSlots (w : Nat) : Nat := w % 65536

/-- Slots of a calendar's cycle (R326). -/
def calCycle (cal : List Nat) : Nat := cal.foldl (fun n w => n + entSlots w) 0

/-- The entry that a place in the cycle falls in, and the time left of it. -/
def entAt : List Nat → Nat → Nat → Nat × Nat
  | [], _, i => (i, 0)
  | w :: t, pos, i =>
    let n := entSlots w * 64 * 65536
    if pos < n then (i, n - pos) else entAt t (pos - n) (i + 1)

/-- The place of a count in the active calendar's cycle, in 2^-16 ns (R326). -/
def calPos (e : EgPort) (count : Nat) : Nat :=
  ((Int.ofNat count - Int.ofNat e.origin) % Int.ofNat (calCycle e.cal * 64 * 65536)).toNat

/-- The calendar drives the gates of the port (R326). -/
def calOn (s : State) (p : Nat) : Bool := rd s F.EG_PORT_CFG_CAL_EN 0 p = 1

/-- Gates in force (R326). -/
def gatesNow (s : State) (p : Nat) : Nat :=
  if calOn s p then entGates ((egOf s p).cal.getD (egOf s p).entry 0) else 255

/-- HOLD in force (R326, R328). -/
def holdNow (s : State) (p : Nat) : Bool :=
  calOn s p && preemptActive s p && entHold ((egOf s p).cal.getD (egOf s p).entry 0)

/-- Time for which entries from i on keep a class open, over at most n entries. -/
def openRun (cal : List Nat) (c i : Nat) : Nat → Nat
  | 0 => 0
  | n + 1 =>
    let w := cal.getD (i % cal.length) 0
    if bitOf (entGates w) c then entSlots w * 64 * 65536 + openRun cal c (i + 1) n else 0

/-- Time from a count to the close of a class's gate under a calendar, in 2^-16 ns; none when it never closes. -/
def openIn (e : EgPort) (c count : Nat) : Option Nat :=
  if e.cal.all fun w => bitOf (entGates w) c then none
  else
    let (i, rest) := entAt e.cal (calPos e count) 0
    if bitOf (entGates (e.cal.getD i 0)) c then some (rest + openRun e.cal c (i + 1) e.cal.length) else some 0

/-- The same for a port's active calendar (R327). -/
def openFor (s : State) (p c count : Nat) : Option Nat := if calOn s p then openIn (egOf s p) c count else none

/-- The longest open interval of a class in the active calendar; none when its gate never closes (R327). -/
def longestOpen (e : EgPort) (c : Nat) : Option Nat :=
  if e.cal.all fun w => bitOf (entGates w) c then none
  else some ((List.range e.cal.length).foldl (fun m i => max m (openRun e.cal c i e.cal.length)) 0)

/-- The guard applies to a class (R327, R328). -/
def guarded (s : State) (p c : Nat) : Bool :=
  calOn s p && decide (rd s F.EG_PORT_CFG_GUARD 0 p = 1) && express s p c

/-! ### Ends of frames and discards -/

/-- The connection's last packet starts or goes: the next instant may be computed (R316). -/
def mftStart (s : State) (k : FrKind) (count : Option Nat) : State :=
  match k with
  | .mft i _ => { s with conns := mmod s.conns i fun c => { c with
      waitStart := false, tPrev := match count with | some t => max c.tPrev t | none => c.tPrev } }
  | _ => s

/-- A frame is discarded: its buffer is freed, a TX job for it completes with WORK_DISCARDED (R327, R335). -/
def frameGone (s : State) (f : EFrame) : State :=
  let s := if f.own then devFree s f.buf else s
  let s := mftStart s f.kind none
  match f.kind with
  | .tx uid _ => finishJob s uid .workDiscarded 0
  | _ => s

/-- Class queues that have emptied lose their credit (R324). -/
def creditCheck (s : State) (p c : Nat) : State :=
  modCls s p c fun k => if k.q = [] then { k with credit := 0 } else k

/-- A frame that can never fit its open interval is discarded at the head of its queue (R327). -/
def headCheck (s : State) (p c : Nat) : Nat → State
  | 0 => s
  | n + 1 =>
    match (clsOf s p c).q with
    | [] => s
    | f :: t =>
      match longestOpen (egOf s p) c with
      | some m =>
        if guarded s p c ∧ psCount (wirePs s p (frameBits s p f)) > m then
          headCheck (frameGone (egCount (creditCheck (modCls s p c fun k => { k with q := t }) p c) p c 5 1) f) p c n
        else s
      | none => s

/-- Admission of a frame (R321): whether it is admitted; a refusal is counted. -/
def egAdmit (s : State) (p c colour len : Nat) : Bool × State :=
  let i := egInst p c
  let t := match colour with
    | 0 => rd s F.EG_ADM_GY_GREEN 0 i
    | 1 => rd s F.EG_ADM_GY_YELLOW 0 i
    | _ => rd s F.EG_ADM_R_RED 0 i
  if t ≠ 0 ∧ egHeld s p c + len ≤ t * 65536 then (true, s)
  else (false, raiseOnceFor (egCount s p c (2 + min colour 2) 1) .egAdmitDrop i p)

/-- Placements of one PCLK stand in the order of their sources' ranks; else the last is the newest (R320). -/
def egInsert (f : EFrame) : List EFrame → List EFrame
  | [] => [f]
  | g :: t => if g.at_ = f.at_ ∧ f.rank < g.rank then f :: g :: t else g :: egInsert f t

/-- Place an admitted frame in a class queue; on a port that flushes it is discarded at once (R157, R320). -/
def egEnqueue (s : State) (p c : Nat) (f : EFrame) : State :=
  if (macOf s p).flushing then frameGone (cadd s 5 p 20 1) f
  else
    let s := modCls (bufHand s f.buf) p c fun k => { k with q := egInsert { f with at_ := s.clk } k.q }
    let s := egCount (egCount s p c 0 1) p c 1 f.len
    headCheck s p c ((clsOf s p c).q.length)

/-- Discard every frame that waits in a port's egress classes (R157). -/
def egFlush (s : State) (p : Nat) : State :=
  (List.range 8).foldl (fun s c =>
    let q := (clsOf s p c).q
    q.foldl (fun s f => frameGone (cadd s 5 p 20 1) f) (modCls s p c fun k => { k with q := [], credit := 0 })) s

/-- The frames that wait in a port's egress classes go with a fatal event (R428). -/
def egDrop (s : State) (p : Nat) : State :=
  (List.range 8).foldl (fun s c =>
    (clsOf s p c).q.foldl frameGone (modCls s p c fun k => { k with q := [], credit := 0 })) s

/-- A commitment whose egress port has left UP: it is over, or its frame is still to come and not sent (R345). -/
def commitDead (s : State) (i : Nat) : State :=
  match mget? s.sl.commits i with
  | some k =>
    { s with sl := { s.sl with commits :=
        if k.done.isSome then mdel s.sl.commits i else mset s.sl.commits i { k with dead := true } } }
  | none => s

/-- The egress MAC ends a committed frame with a bad FCS, or writing to the host stops (R159, R345). -/
def sluiceBad (s : State) (i : Nat) (k : Commit) (b : List Byte) : State :=
  match k.egress with
  | some _ => { s with sl := { s.sl with commits := mset s.sl.commits i { k with done := some (b, true) } } }
  | none => raiseOnce (cadd { s with sl := { s.sl with commits := mdel s.sl.commits i } } 13 0 11 1) .slHostBad 0

/-- Frames of the Sluice that a port is receiving when it leaves UP are errored, and one not yet committed is gone (R345). -/
def ingressCut (s : State) (p : Nat) : State :=
  let s := { s with sl := { s.sl with arr := mmod s.sl.arr p fun l => l.filter fun x => x.got.isSome } }
  (s.sl.commits.filter fun k => decide (k.2.ing = p) && k.2.done.isNone).foldl (fun s k =>
    if k.2.dead then { s with sl := { s.sl with commits := mdel s.sl.commits k.1 } }
    else sluiceBad s k.1 k.2 k.2.head) s

/-- The port stops sending: a frame in transmission is cut short, a committed Sluice frame is not sent (R157, R345). -/
def egCut (s : State) (p : Nat) : State :=
  let e := egOf s p
  let cut (s : State) (r : TxRun) : State :=
    let s := cadd s 5 p 19 1
    match r.f.kind with
    | .sluice i => commitDead s i
    | _ => frameGone s r.f
  let s := modEg s p fun e => { e with run := none, runP := none }
  let s := (e.run.toList ++ e.runP.toList).foldl cut s
  let waiting := s.sl.commits.filter fun k => decide (k.2.egress = some p) && !k.2.started && !k.2.dead
  waiting.foldl (fun s k => cadd (commitDead s k.1) 5 p 19 1) s

/-! ### Starting a frame (R323 to R325) -/

/-- A class is paused by a received frame (R162, R164). -/
def paused (s : State) (p c : Nat) : Bool :=
  (mget? (macOf s p).pausedTill c).isSome && decide ((mget {} (macOf s p).wdRx c).st ≠ .recover)

/-- The token bucket now, in 10^-6 bits (R325). -/
def tokensNow (s : State) (p c : Nat) : Int :=
  let i := egInst p c
  let cap : Int := (rd s F.EG_SHAPE_BURST_BURST 0 i * 8192 * 1000000 : Nat)
  match (clsOf s p c).tok with
  | none => cap
  | some (t, at_) => min cap (t + (rd s F.EG_SHAPE_RATE_RATE 0 i * (s.clk - at_) : Nat))

/-- The shaper allows a frame (R325). -/
def shaperOk (s : State) (p c : Nat) : Bool :=
  rd s F.EG_SHAPE_RATE_EN 0 (egInst p c) = 0 || decide (0 ≤ tokensNow s p c)

/-- Time of n bytes on the wire. -/
def bytePs (s : State) (p n : Nat) : Nat := wirePs s p (n * 8)

/-- The permitted fragment boundary of the preemptable frame on the wire: the time of it, or none when what is left
then is too short to be cut off (R165: the minimum non-final fragment; 64 bytes remain in the last one). -/
def fragBoundary (s : State) (p : Nat) (r : TxRun) : Option Nat :=
  match r.since with
  | none => some 0
  | some t =>
    let b := max s.clk (r.frag + bytePs s p ((rd s F.MA_PREEMPT_ADD_FRAG p + 1) * 64))
    if b + bytePs s p 64 ≤ t + r.left then some b else none

/-- Preempt the frame on the wire at a time. -/
def preemptAt (r : TxRun) (t : Nat) : TxRun :=
  match r.since with
  | some b => { r with left := r.left - (t - b), since := none }
  | none => r

/-- The MAC that a class uses may start a frame (R323, R328, R342). -/
def macFree (s : State) (p c : Nat) : Bool :=
  let e := egOf s p
  decide (e.freeAt ≤ s.clk) && e.run.isNone &&
  if express s p c then
    (match e.runP with | some r => decide (fragBoundary s p r = some s.clk) || r.since.isNone | none => true) &&
    !(s.sl.commits.any fun k => decide (k.2.egress = some p) && !k.2.started && !k.2.dead)
  else e.runP.isNone && !holdNow s p

/-- The head frame of a class is eligible (R323). -/
def eligible (s : State) (p c : Nat) : Bool :=
  match (clsOf s p c).q with
  | [] => false
  | f :: _ =>
    bitOf (gatesNow s p) c &&
    (!guarded s p c ||
      (match openFor s p c s.ft.count with
        | some t => decide (psCount (wirePs s p (frameBits s p f)) ≤ t)
        | none => true)) &&
    !paused s p c && shaperOk s p c && netUp s p && running s && macFree s p c

/-- The round robin over the eligible classes: the class that sends, with the credits as they then stand (R324). -/
def drr (s : State) (p : Nat) (el : List Nat) : Nat → Nat → List Nat → Option (Nat × List Nat)
  | 0, _, _ => none
  | n + 1, c, cr =>
    let len := (((clsOf s p c).q.head?).map (·.len)).getD 0
    if c ∈ el ∧ len ≤ cr.getD c 0 then some (c, cr.set c (cr.getD c 0 - len))
    else
      match ((List.range 8).map fun i => (c + 1 + i) % 8).find? (· ∈ el) with
      | some d => drr s p el n d (cr.set d (cr.getD d 0 + rd s F.EG_QUANTUM_QUANTUM 0 (egInst p d)))
      | none => none

/-- The class that the scheduler chooses, with the state of its round robin (R324). -/
def schedule (s : State) (p : Nat) : Option (Nat × State) :=
  let el := (List.range 8).filter fun c => eligible s p c
  let strict := rd s F.EG_SCHED_STRICT 0 p
  match el.reverse.find? fun c => bitOf strict c with
  | some c => some (c, s)
  | none =>
    let e := egOf s p
    match drr s p el 4096 e.rr ((List.range 8).map fun c => (clsOf s p c).credit) with
    | some (c, cr) =>
      some (c, modEg s p fun e => { e with
        rr := c, cls := mmap (fun k v => { v with credit := cr.getD k 0 }) e.cls })
    | none => none

/-- Transmit timestamp of a frame whose first byte is presented now (R37). -/
def txStamp (s : State) (p : Nat) : Nat := shortTsOf (ftQuality s) (txTime s p)

/-- A frame starts on the wire (R323, R325, R328): a preemptable frame there is preempted. -/
def startFrame (s : State) (p c : Nat) (f : EFrame) (bits : Nat) (ecc : Bool) : State :=
  let r : TxRun := {
    f := f, cls := c, left := wirePs s p bits, since := some s.clk, frag := s.clk, ts := txStamp s p, bad := ecc }
  if express s p c then modEg s p fun e => { e with run := some r, runP := e.runP.map fun x => preemptAt x s.clk }
  else modEg s p fun e => { e with runP := some r }

/-- Express traffic waits to start on a port: an eligible frame, or one that the Sluice has committed (R166, R342). -/
def expressWaits (s : State) (p : Nat) : Bool :=
  ((List.range 8).any fun c => express s p c && eligible s p c) ||
    s.sl.commits.any fun k => decide (k.2.egress = some p) && !k.2.started && !k.2.dead

/-- A preempted frame goes on after the express traffic, when nothing else is on the wire and no hold stands (R166, R328). -/
def resumeP (s : State) (p : Nat) : State :=
  let e := egOf s p
  match e.runP with
  | some r =>
    if r.since.isNone ∧ e.run.isNone ∧ !holdNow s p ∧ !expressWaits s p then
      let t := max s.clk e.freeAt
      cadd (modEg s p fun e => { e with runP := some { r with since := some t, frag := t } }) 5 p 44 1
    else s
  | none => s

/-- Heads that never fit go, then the scheduler starts one eligible frame, or a preempted one goes on (R166, R323 to R327).
With `ecc` a block of its data
cannot be corrected (R234). -/
def txStart (s : State) (p : Nat) (ecc : Ecc) : State :=
  let s := (List.range 8).foldl (fun s c => headCheck s p c (clsOf s p c).q.length) s
  match schedule s p with
  | none => resumeP s p
  | some (c, s) =>
    match (clsOf s p c).q with
    | [] => s
    | f :: t =>
      let bits := frameBits s p f
      let tok : Int := tokensNow s p c - (bits * 1000000 : Nat)
      let on := rd s F.EG_SHAPE_RATE_EN 0 (egInst p c) = 1
      let s := modCls s p c fun k => { k with q := t, tok := if on then some (tok, s.clk) else k.tok }
      let a := bufAddr s f.buf f.off
      let n := f.len - f.hdr.length
      let s := storeMeet s a n ecc
      let s := mftStart (creditCheck (startFrame s p c f bits (lostAt s a n ecc).isSome) p c) f.kind (some s.ft.count)
      headCheck s p c t.length

/-! ### The end of a frame -/

/-- Count a transmitted frame of n bytes with its FCS (R168). -/
def countTx (s : State) (p : Nat) (b : List Byte) : State :=
  let s := cadd (cadd s 5 p 12 1) 5 p 13 (b.length + 4)
  if b.take 6 = List.replicate 6 0xFF then cadd s 5 p 15 1
  else if bitOf (b.headD 0).toNat 0 then cadd s 5 p 14 1 else s

/-- The last byte of a frame has left the MAC (R321, R335, R346): it is counted, its buffer freed, a DIRECT TX
completes. -/
def frameEnd (s : State) (p : Nat) (r : TxRun) : State :=
  let f := r.f
  match f.kind with
  | .sluice i =>
    match mget? s.sl.commits i with
    | some k =>
      let (b, bad) := (k.done).getD ([], true)
      let out := tagged s p b none
      let s := emit { s with sl := { s.sl with commits := mdel s.sl.commits i } } (.frame (Fin.ofNat 32 p) r.cls out bad)
      let s := if r.overran ∧ b.length > k.guard then cadd s 13 0 12 1 else s
      if bad then raiseOnce (cadd (cadd s 5 p 18 1) 13 0 10 1) .slStomped 0
      else cadd (countTx s p out) 13 0 0 1
    | none => s
  | _ =>
    let out := tagged s p (frameBytes s f) f.tag
    let s := emit s (.frame (Fin.ofNat 32 p) r.cls out r.bad)
    let s := if r.bad then cadd s 5 p 18 1 else countTx s p out
    let s := egCount (egCount s p r.cls 7 1) p r.cls 8 f.len
    let s := match mget? s.pkts f.buf with
      | some k => if f.own ∧ k.srcHost then cadd (cadd s 4 k.src 2 1) 4 k.src 3 f.len else s
      | none => s
    let s := if f.own then devFree s f.buf else s
    match f.kind with
    | .tx uid ts => finishJob s uid .success (if ts then r.ts else 0)
    | _ => s

/-- A frame in transmission has ended: its wire time has passed, and a Sluice frame is complete. -/
def runOver (s : State) (r : TxRun) : Bool :=
  (match r.since with | some t => decide (t + r.left ≤ s.clk) | none => false) &&
  (match r.f.kind with | .sluice i => ((mget? s.sl.commits i).bind (·.done)).isSome | _ => true)

/-- FRAME_TX_END (R321). -/
def txEnd (s : State) (p : Nat) : State :=
  let e := egOf s p
  match e.run, e.runP with
  | some r, _ => if runOver s r then resumeP (frameEnd (modEg s p fun e => { e with run := none }) p r) p else s
  | none, some r => if runOver s r then frameEnd (modEg s p fun e => { e with runP := none }) p r else s
  | none, none => s

/-! ### Gates and calendars -/

/-- Mark and count a frame whose gate has closed over it (R327). -/
def overrunMark (s : State) (p : Nat) (closed : Nat) : State :=
  let mark (s : State) (r : Option TxRun) (put : TxRun → EgPort → EgPort) : State :=
    match r with
    | some r =>
      if bitOf closed r.cls ∧ !r.overran ∧ !runOver s r then
        raiseOnceFor (egCount (modEg s p (put { r with overran := true })) p r.cls 6 1) .egGateOverrun
          (egInst p r.cls) p
      else s
    | none => s
  let s := mark s (egOf s p).run fun r e => { e with run := some r }
  mark s (egOf s p).runP fun r e => { e with runP := some r }

/-- Gates or HOLD have changed from what they were (R327, R328). -/
def gateEffects (s : State) (p oldGates : Nat) (oldHold : Bool) : State :=
  let g := gatesNow s p
  let s := overrunMark s p (oldGates - Nat.land oldGates g)
  if holdNow s p ∧ !oldHold then
    let s := cadd s 5 p 45 1
    match (egOf s p).runP with
    | some r =>
      match r.since, fragBoundary s p r with
      | some _, some b => modEg s p fun e => { e with runP := some (preemptAt r b), freeAt := b }
      | _, _ => s
    | none => s
  else if oldHold ∧ !holdNow s p then resumeP s p
  else s

/-- Change what a port's gates depend on, with the effects of the change (R326 to R328). -/
def withGates (s : State) (p : Nat) (f : State → State) : State := gateEffects (f s) p (gatesNow s p) (holdNow s p)

/-- The entry of a port's calendar that the count selects comes into force (R326). -/
def gateEdge (s : State) (p : Nat) : State :=
  withGates s p fun s => modEg s p fun e => { e with entry := (entAt e.cal (calPos e s.ft.count) 0).1 }

/-- GATE_CHANGE: the entry that the count selects comes into force (R326). -/
def execGateChange (port : NetPort) (s : State) : Host.Outcome State Fault Refusal := .next (gateEdge s port.val)

/-- The shadow calendar of a port (R329). -/
def shadowCal (s : State) (p : Nat) : List Nat :=
  (List.range (rd s F.EG_CAL_LEN_LEN 0 p)).map fun i => rget s (F.EG_CAL_ENT_GATES.off + 4 * i) p

/-- The shadow calendar is valid (R329). -/
def calValid (cal : List Nat) : Bool :=
  decide (1 ≤ cal.length ∧ cal.length ≤ 256) && cal.all (fun w => decide (1 ≤ entSlots w ∧ bitsOf w 22 16 = 0)) &&
  decide (calCycle cal ≤ 262144)

/-- The 256 entries of the active and of the shadow set. -/
def activeSet (e : EgPort) : List Nat := (List.range 256).map fun i => (e.cal ++ e.rest).getD i 0xFF000001
def shadowSet (s : State) (p : Nat) : List Nat := (List.range 256).map fun i => rget s (F.EG_CAL_ENT_GATES.off + 4 * i) p

/-- Write a set into the shadow registers: its LEN and its entries. -/
def putShadow (s : State) (p len : Nat) (set : List Nat) : State :=
  (set.zipIdx).foldl (fun s x => rset s (F.EG_CAL_ENT_GATES.off + 4 * x.2) p x.1) (wr s F.EG_CAL_LEN_LEN 0 p len)

/-- STATE of the swap: 0 IDLE, 1 ARMED, 2 COPY (R329). -/
def calState (s : State) (p : Nat) : Nat :=
  if (egOf s p).copying then 2 else if s.armed.any fun a => decide (a.1 = .cal p) then 1 else 0

/-- Code of an arming failure (R329). -/
def armErrCode (st : Status) : Nat :=
  match st with
  | .ftNotValid => 1
  | .ftInstantPast => 2
  | _ => 3

/-- The write of EG_CAL_ARM_HI, with the low word of the write latch (R53, R329). -/
def calArm (s : State) (lo w : Nat) : State :=
  let p := rd s F.EG_SEL_PORT
  if rd s F.EG_SEL_SET = 1 ∨ calState s p ≠ 0 then wr s F.EG_CAL_CTRL_BUSY 0 p 1
  else
    let s := rset (rset s F.EG_CAL_ARM_LO_EPOCH_LO.off p lo) F.EG_CAL_ARM_HI_EPOCH_HI.off p w
    let ns := (lo + w * 2 ^ 32) * 2 ^ 20
    if !calValid (shadowCal s p) then modEg s p fun e => { e with armErr := 4 }
    else
      match armCheck s ns with
      | some st => modEg s p fun e => { e with armErr := armErrCode st }
      | none => modEg { s with armed := s.armed ++ [(.cal p, ns)] } p fun e => { e with armErr := 0 }

/-- CAL_ARM (R329). -/
def execCalArm (port : HostPort) (value : Word) (s : State) : Host.Outcome State Fault Refusal :=
  .next (regGate s port true fun s =>
    calArm s (latchGet s.wlatch port.val .pf0 F.EG_CAL_ARM_LO_EPOCH_LO.off) value.toNat)

/-- The armed swap of a port's calendars takes effect, if it is due (R329, R330). -/
def calEdge (s : State) (p : Nat) : State :=
  match s.armed.find? fun a => decide (a.1 = .cal p) with
  | some a =>
    if ftNs s ≥ a.2 then
      let s := { s with armed := s.armed.filter fun a => decide (a.1 ≠ .cal p) }
      let new := shadowSet s p
      let len := rd s F.EG_CAL_LEN_LEN 0 p
      let old := egOf s p
      let s := withGates s p fun s => modEg s p fun e =>
        let e := { e with cal := new.take len, rest := new.drop len, origin := a.2 * 65536, copying := true }
        { e with entry := (entAt e.cal (calPos e s.ft.count) 0).1 }
      raise (putShadow s p old.cal.length (activeSet old)) .egCalSwapped (egInst p 0)
    else s
  | none => s

/-- CAL_COPY_END (R329). -/
def execCalCopyEnd (port : NetPort) (s : State) : Host.Outcome State Fault Refusal :=
  let p := port.val
  if (egOf s p).copying then
    let e := egOf s p
    .next (modEg (putShadow s p e.cal.length (activeSet e)) p fun e => { e with copying := false })
  else .next s

end Sys2Proof.Machine
end

