-- ==== Sys2Proof/Machine/Mac.lean ====
section
/-! DEFINITION. Network ports: link states, pauses received and sent, the pause watchdog, preemption
(08_network_ports.md). Frame reception stands in Receive.lean. -/
namespace Sys2Proof.Machine

/-! ### Link state (R157) -/

/-- The word of MA_PCFG of a port. -/
def pcfgWord (s : State) (p : Nat) : Nat := rget s (F.MA_PCFG_EN.off + 256 * p)

/-- Entry into TRAINING: the media settings written come into force (R157). -/
def enterTraining (s : State) (p : Nat) : State :=
  modMac s p fun m => { m with st := .training, trainAt := s.clk, cfg := pcfgWord s p }

/-- Verification starts afresh (R165): at once on a port that is UP. -/
def verifyStart (s : State) (p : Nat) : State :=
  modMac s p fun m => { m with
    verAt := s.clk
    ver := if rd s F.MA_PREEMPT_EN p = 0 ∨ rd s F.MA_PREEMPT_VERIFY_DIS p = 1 then .disabled
      else if m.st = .up then .verifying else .initial }

/-- Entry into UP (R157), with a pause for what is held beyond XOFF already (R163). -/
def enterUp (s : State) (p : Nat) : State :=
  let s := modMac s p fun m => { m with
    st := .up, localFault := false, remoteFault := false, downAt := none, flushing := false }
  fcRecheck (raise (verifyStart s p) .maLinkUp p) p

/-- The port stops sending, and the down timer starts unless it runs (R157). -/
def goDown (s : State) (p : Nat) (st : MacSt) : State :=
  let s := modMac (egCut (ingressCut s p) p) p fun m => { m with
    st := st, downAt := if m.downAt.isSome then m.downAt else some s.clk }
  verifyStart s p

/-- A write of MA_PCFG of a port (R152, R157). -/
def pcfgWrite (s : State) (p w : Nat) : State :=
  if !netPortExists s p then s
  else
    let was := rd s F.MA_PCFG_EN p
    match regStore s (F.MA_PCFG_EN.off + 256 * p) 0 w with
    | (s, false) => s
    | (s, true) =>
      if was = 0 ∧ bitOf w 31 then enterTraining s p
      else if was = 1 ∧ !bitOf w 31 then goDown s p .disabled
      else s

/-- PORT_ENABLE: a write of MA_PCFG_p with EN 1 (R157). -/
def execPortEnable (port : HostPort) (net : NetPort) (value : Word) (s : State) : Host.Outcome State Fault Refusal :=
  .next (regGate s port true fun s => if bitOf value.toNat 31 then pcfgWrite s net.val value.toNat else s)

/-- PORT_DISABLE: a write of MA_PCFG_p with EN 0 (R157). -/
def execPortDisable (port : HostPort) (net : NetPort) (value : Word) (s : State) : Host.Outcome State Fault Refusal :=
  .next (regGate s port true fun s => if bitOf value.toNat 31 then s else pcfgWrite s net.val value.toNat)

/-- NET_LINK_LOCK: lock, alignment and deskew with no fault (R157). -/
def execNetLinkLock (net : NetPort) (s : State) : Host.Outcome State Fault Refusal :=
  let m := macOf s net.val
  if m.st = .training ∧ !m.localFault ∧ !m.remoteFault ∧ netPortExists s net.val ∧ s.lk.st ≠ .lrs then .next (enterUp s net.val) else .next s

/-- TRAINING_TIMEOUT: 500 ms without lock (R157). -/
def execTrainingTimeout (net : NetPort) (s : State) : Host.Outcome State Fault Refusal :=
  let m := macOf s net.val
  if m.st = .training ∧ s.clk ≥ m.trainAt + msec 500 then .next (enterTraining s net.val) else .next s

/-- NET_LINK_FAULT: a local fault, a remote fault, or a loss of lock (R157). -/
def execNetLinkFault (net : NetPort) (kind : Fin 3) (s : State) : Host.Outcome State Fault Refusal :=
  let p := net.val
  let up := (macOf s p).st = .up
  let s := modMac s p fun m => { m with
    localFault := m.localFault || decide (kind = 0), remoteFault := m.remoteFault || decide (kind = 1) }
  if up then .next (raise (goDown s p .fault) .maLinkDown p) else .next s

/-- NET_LINK_FAULT_CLEAR (R157). -/
def execNetLinkFaultClear (net : NetPort) (s : State) : Host.Outcome State Fault Refusal :=
  let p := net.val
  let s' := modMac s p fun m => { m with localFault := false, remoteFault := false }
  if (macOf s p).st = .fault then .next (if bitOf (macOf s p).cfg 25 then enterTraining s' p else enterUp s' p)
  else .next s'

/-- DOWN_HOLD_EXPIRE (R157). -/
def execDownHoldExpire (net : NetPort) (s : State) : Host.Outcome State Fault Refusal :=
  let p := net.val
  let m := macOf s p
  let hold := rd s F.MA_DOWN_DOWN_HOLD p
  match m.downAt with
  | some t =>
    if (m.st = .fault ∨ m.st = .disabled) ∧ !m.flushing ∧ hold ≠ 65535 ∧ s.clk ≥ t + msec hold then
      .next (raise (modMac (egFlush s p) p fun m => { m with flushing := true }) .maEgFlush p)
    else .next s
  | none => .next s

/-! ### PAUSE and PFC (R161 to R163) -/

/-- A time in quanta of 512 bit times as ps at the port's rate (R161). -/
def quantaPs (s : State) (p n : Nat) : Nat := wirePs s p (512 * n)

/-- Note a received pause of a class until its effect point, 40 ns on (R162); one in RECOVER is ignored (R164). -/
def pauseNote (s : State) (p c time : Nat) : State :=
  if recovering s p (macOf s p).wdRx c then s
  else modMac s p fun m => { m with pauseWait := m.pauseWait ++ [(c, time, s.clk + 40000)] }

/-- A MAC Control frame is consumed (R158, R161). -/
def ctrlRx (s : State) (p : Nat) (b : List Byte) : State :=
  let s := cadd s 5 p 7 1
  let mode := rd s F.MA_FC_MODE p
  let on := rd s F.MA_FC_RX_EN p = 1
  match beAt b 14 2 with
  | 0x0001 =>
    let s := cadd s 5 p 8 1
    if on ∧ mode = 1 then (List.range 8).foldl (fun s c => pauseNote s p c (beAt b 16 2)) s else s
  | 0x0101 =>
    (List.range 8).foldl (fun s c =>
      if bitOf (beAt b 16 2) c then
        let s := cadd s 5 p (24 + c) 1
        if on ∧ mode = 2 ∧ bitOf (rd s F.MA_FC_PFC_ENABLE p) c then pauseNote s p c (beAt b (18 + 2 * c) 2) else s
      else s) s
  | _ => cadd s 5 p 9 1

/-- A pause takes effect (R162, R164). -/
def pauseApply (s : State) (p c time at_ : Nat) : State :=
  if recovering s p (macOf s p).wdRx c then s
  else if time = 0 then
    modMac s p fun m => { m with pausedTill := mdel m.pausedTill c, wdRx := mset m.wdRx c {} }
  else
    modMac s p fun m => { m with
      pausedTill := mset m.pausedTill c (at_ + quantaPs s p time),
      wdRx := if (mget {} m.wdRx c).st ≠ .paused then mset m.wdRx c ⟨.paused, at_⟩ else m.wdRx }

/-- PAUSE_EFFECT: the pauses whose effect point has come (R162). -/
def execPauseEffect (net : NetPort) (s : State) : Host.Outcome State Fault Refusal :=
  let p := net.val
  let due := (macOf s p).pauseWait.filter fun x => decide (x.2.2 ≤ s.clk)
  let s := modMac s p fun m => { m with pauseWait := m.pauseWait.filter fun x => decide (s.clk < x.2.2) }
  .next (due.foldl (fun s x => pauseApply s p x.1 x.2.1 x.2.2) s)

/-- PAUSE_EXPIRE (R162). -/
def execPauseExpire (net : NetPort) (cls : ClassId) (s : State) : Host.Outcome State Fault Refusal :=
  match mget? (macOf s net.val).pausedTill cls.val with
  | some t =>
    if t ≤ s.clk then
      .next (modMac s net.val fun m => { m with
        pausedTill := mdel m.pausedTill cls.val,
        wdRx := if (mget {} m.wdRx cls.val).st = .paused then mset m.wdRx cls.val {} else m.wdRx })
    else .next s
  | none => .next s

/-- XOFF_REFRESH: every QUANTA / 2 quanta while the count stays above XON and the port sends pauses for the class (R163). -/
def execXoffRefresh (net : NetPort) (cls : ClassId) (s : State) : Host.Outcome State Fault Refusal :=
  let p := net.val
  let c := cls.val
  match mget? (macOf s p).xoff c with
  | some t =>
    let q := rd s F.MA_FC_QUANTA p
    if netUp s p ∧ running s ∧ fcSends s p c ∧ s.clk ≥ t + quantaPs s p q / 2 ∧ heldCount s p c > rd s F.MA_FC_THRESH_XON p * 2 ^ 20 then
      .next (modMac (sendPause s p c q) p fun m => { m with xoff := mset m.xoff c s.clk })
    else .next s
  | none => .next s

/-! ### Pause watchdog (R164, R495) -/

/-- The watchdog of a class and side. -/
def wdOf (s : State) (p c : Nat) (tx : Bool) : Wd := mget {} (if tx then (macOf s p).wdTx else (macOf s p).wdRx) c

/-- The timer of a PAUSED class is at or beyond TIMEOUT. -/
def wdLate (s : State) (p c : Nat) (tx : Bool) : Bool :=
  let w := wdOf s p c tx
  decide (w.st = .paused) && decide (s.clk ≥ w.since + msec (rd s F.MA_PAUSE_WD_TIMEOUT p))

/-- Entry into RECOVER (R164). -/
def wdRecover (s : State) (p c : Nat) (tx : Bool) : State :=
  if tx then
    let s := modMac s p fun m => { m with wdTx := mset m.wdTx c ⟨.recover, s.clk⟩, xoff := mdel m.xoff c }
    cadd (raise (sendPause s p c 0) .maPauseTxStorm p) 5 p 47 1
  else
    let s := modMac s p fun m => { m with wdRx := mset m.wdRx c ⟨.recover, s.clk⟩, pausedTill := mdel m.pausedTill c }
    cadd (raise s .maPauseStorm p) 5 p 46 1

/-- PAUSE_WD_TIMEOUT (R164). -/
def execPauseWdTimeout (net : NetPort) (cls : ClassId) (tx : Bool) (s : State) : Host.Outcome State Fault Refusal :=
  if rd s F.MA_PAUSE_WD_EN net.val = 1 ∧ wdLate s net.val cls.val tx then .next (wdRecover s net.val cls.val tx)
  else .next s

/-- PAUSE_WD_RECOVER_END: RECOVER has elapsed; pauses are honoured, or sent, again (R164). -/
def execPauseWdRecoverEnd (net : NetPort) (cls : ClassId) (tx : Bool) (s : State) : Host.Outcome State Fault Refusal :=
  let p := net.val
  let c := cls.val
  let w := wdOf s p c tx
  if w.st = .recover ∧ s.clk ≥ w.since + msec (rd s F.MA_PAUSE_WD_RECOVER p) then
    if tx then .next (xoffCheck (modMac s p fun m => { m with wdTx := mset m.wdTx c {} }) p c)
    else .next (modMac s p fun m => { m with wdRx := mset m.wdRx c {} })
  else .next s

/-- A write of MA_PAUSE_WD of a port: with EN newly 1 every class that is late enters RECOVER at once (R495). -/
def pauseWdWrite (s : State) (p w : Nat) : State :=
  if !netPortExists s p then s
  else
    match regStore s (F.MA_PAUSE_WD_EN.off + 256 * p) 0 w with
    | (s, false) => s
    | (s, true) =>
      if bitOf w 31 then
        (List.range 8).foldl (fun s c => [false, true].foldl (fun s tx =>
          if wdLate s p c tx then wdRecover s p c tx else s) s) s
      else s

/-- PAUSE_WD_ENABLE: a write of MA_PAUSE_WD_p with EN 1 (R495). -/
def execPauseWdEnable (port : HostPort) (net : NetPort) (value : Word) (s : State) : Host.Outcome State Fault Refusal :=
  .next (regGate s port true fun s => if bitOf value.toNat 31 then pauseWdWrite s net.val value.toNat else s)

/-! ### Preemption (R165) -/

/-- A write of MA_PREEMPT of a port: verification starts afresh when EN or VERIFY_DIS changes (R165). -/
def preemptWrite (s : State) (p w : Nat) : State :=
  if !netPortExists s p then s
  else
    let old := bitsOf (rget s (F.MA_PREEMPT_EN.off + 256 * p)) 31 30
    withGates s p fun s =>
      match regStore s (F.MA_PREEMPT_EN.off + 256 * p) 0 w with
      | (s, true) => if bitsOf w 31 30 = old then s else verifyStart s p
      | (s, false) => s

/-- PREEMPT_VERIFY_END: it fails when three verify frames, VERIFY_TIME apart, have had no answer (R165; Clause 99, log
entry 104). -/
def execPreemptVerifyEnd (net : NetPort) (pass : Bool) (s : State) : Host.Outcome State Fault Refusal :=
  let p := net.val
  let m := macOf s p
  if m.ver = .verifying then
    if pass then .next (withGates s p fun s => modMac s p fun m => { m with ver := .succeeded })
    else if s.clk < m.verAt + msec (3 * rd s F.MA_PREEMPT_VERIFY_TIME p) then .next s
    else .next (raise (modMac s p fun m => { m with ver := .failed }) .maPreemptVerifyFail p)
  else .next s

end Sys2Proof.Machine
end

