-- ==== Sys2Proof/Machine/Segments.lean ====
section
/-! DEFINITION. Moving data between the segments of a job and the Mere (R103, R390). -/
namespace Sys2Proof.Machine

/-- A segment from byte o on. -/
def Seg.adv (g : Seg) (o n : Nat) : Seg :=
  if g.inMere then { g with hi := g.hi + o, len := n }
  else { g with lo := (g.addr + o) % 2 ^ 32, hi := (g.addr + o) / 2 ^ 32, len := n }

/-- Bytes o to o + n - 1 of a list of segments. -/
def segCut : List Seg → Nat → Nat → List Seg
  | [], _, _ => []
  | g :: t, o, n =>
    if n = 0 then []
    else if o ≥ g.len then segCut t (o - g.len) n
    else g.adv o (min n (g.len - o)) :: segCut t 0 (n - min n (g.len - o))

/-- Copy between a Mere segment and a store address. -/
def copySeg (s : State) (toSegs : Bool) (g : Seg) (mere : Nat) : State :=
  let a := bufAddr s g.lo g.hi
  if toSegs then storeWrite (storeTouch s mere g.len) a (storeRead s mere g.len)
  else storeWrite (storeTouch s a g.len) mere (storeRead s a g.len)

/-- Move data between segments and a range of the store: Mere segments are copied, and the host segments become the
descriptors of one transfer (R390). The answer says whether there is a transfer to wait for. -/
def moveSegs (s : State) (x : Xfer) (toSegs : Bool) (gs : List Seg) (mere : Nat) : Bool × State :=
  let pasid := ownerPasid s x.tenant
  let (s, ds, _) := gs.foldl (fun (a : State × List Desc × Nat) g =>
    if g.inMere then (copySeg a.1 toSegs g a.2.2, a.2.1, a.2.2 + g.len)
    else (a.1, a.2.1 ++ [mkDesc toSegs g.addr a.2.2 g.len pasid], a.2.2 + g.len)) (s, [], mere)
  if ds = [] then (false, s) else (true, startXfer s { x with todo := ds })

/-- Data of these segments can move: there is no host segment, or an engine of the port can take it (R394). -/
def movePossible (s : State) (p : Nat) (gs : List Seg) : Bool := gs.all (·.inMere) || xferPossible s p

/-- A transfer for a job. -/
def jobXfer (s : State) (j : Job) (k : XKind) (unit : Nat) : Xfer :=
  { kind := k, port := j.port, unit := unit, tenant := j.owner, gens := jobGens j, owner := sqHandle s j.sq
    ns := ((mget? s.sqs j.sq).map (·.noSnoop)).getD false }

/-- Requester charged for data of a job's owner (R225). -/
def ownerReq (owner : Option Nat) : Nat := owner.getD reqTp

end Sys2Proof.Machine
end

