-- ==== Sys2Proof/Machine/Sluice.lean ====
section
/-! DEFINITION. The Sluice, the express path: candidates, commitments, starts and ends, and its table (17_sluice.md). -/
namespace Sys2Proof.Machine

/-- Change the Sluice. -/
def modSl (s : State) (f : Sluice → Sluice) : State := { s with sl := f s.sl }

/-- A PCLK in ps (R20). -/
def pclkPs : Nat := 625

/-! ### Tags of a received frame, host queues -/

/-- TCI and UNTAGGED of a frame from a port (R160, R175). -/
def tciOf (s : State) (p : Nat) (b : List Byte) : Nat × Bool :=
  if outerTag b then (beAt b 14 2, false) else (rget s (F.MA_TAG_PVID.off + 256 * p) % 65536, true)

/-- The frame as the MAC presents it: its outer tag stripped under IN_STRIP (R160). -/
def stripped (s : State) (p : Nat) (b : List Byte) : List Byte :=
  if rd s F.MA_TAG_IN_STRIP p = 1 ∧ outerTag b then b.take 12 ++ b.drop 16 else b

/-- The tagging of a frame fails IN_ACCEPT (R158, R160). -/
def acceptFails (s : State) (p : Nat) (b : List Byte) : Bool :=
  let acc := rd s F.MA_TAG_IN_ACCEPT p
  (decide (acc = 1) && !outerTag b) || (decide (acc = 2) && outerTag b)

/-- Number of 802.1Q tags, up to two (R158). -/
def tagCount (b : List Byte) : Nat := if outerTag b then (if outerTag (b.drop 4) then 2 else 1) else 0

/-- The SQ at an index is ACTIVE, owned by the tenant, and the tenant is ENABLED (R179). -/
def rxQueueOk (s : State) (t sq : Nat) : Bool :=
  (match mget? s.sqs sq with
    | some q => decide (sq < 2 ^ 20 ∧ q.owner = some t) && !q.stopped && q.drain.isNone
    | none => false) &&
  decide ((mget? s.tens t).map (·.st) = some .enabled)

/-- The oldest RX_POST job of an SQ that no frame has taken. -/
def oldestPost (s : State) (sq : Nat) : Option (Nat × Job) :=
  s.jobs.find? fun x => decide (x.2.sq = sq ∧ x.2.op = 0x82 ∧ x.2.x = []) && !x.2.fresh &&
    !(s.sl.commits.any fun k => decide (k.2.egress = none ∧ k.2.uid = x.1))

/-! ### The table (R338, R347, R348) -/

/-- Word k of an entry. -/
def slDw (s : State) (i k : Nat) : Nat := (mget [] s.sl.ents i).getD k 0

/-- An entry is valid. -/
def slValid (s : State) (i : Nat) : Bool := bitOf (slDw s i 0) 31

/-- The key of an entry's words: port, VID, destination MAC (R338). -/
def slKey (w : Nat → Nat) : Nat × Nat × Nat := (bitsOf (w 0) 16 12, bitsOf (w 0) 11 0, w 1 + w 2 % 65536 * 2 ^ 32)

/-- The valid entry with a key (R338). -/
def slFind (s : State) (key : Nat × Nat × Nat) : Option Nat :=
  (s.sl.ents.map (·.1)).find? fun i => slValid s i && decide (slKey (slDw s i) = key)

/-- The words in SL_ENT (R347). -/
def slEnt (s : State) (k : Nat) : Nat := rd s F.SL_ENT_W k

/-- WRITE is INVALID (R347). -/
def slInvalid (s : State) : Bool :=
  decide (bitsOf (slEnt s 0) 29 17 ≠ 0 ∨ bitsOf (slEnt s 2) 31 16 ≠ 0) || !netPortExists s (bitsOf (slEnt s 0) 16 12) ||
  (!bitOf (slEnt s 0) 30 && (decide (slEnt s 3 / 32 ≠ 0) || !netPortExists s (slEnt s 3)))

/-- A command on the table: its RESULT and the state after it (R347). -/
def slOp (s : State) (op : Nat) : Nat × State :=
  let i := rd s F.SL_SEL_INDEX
  match op with
  | 0 => (0, (List.range 4).foldl (fun s k => wr s F.SL_ENT_W k 0 (slDw s i k)) s)
  | 1 =>
    if slInvalid s then (2, s)
    else if (slFind s (slKey (slEnt s))).any (· ≠ i) then (1, s)
    else (0, modSl s fun l => { l with
      ents := msetD [0, 0, 0, 0] l.ents i ((List.range 4).map (slEnt s)), bad := l.bad.filter (· ≠ i) })
  | _ =>
    (0, modSl s fun l => { l with
      ents := msetD [0, 0, 0, 0] l.ents i [setBits (slDw s i 0) 31 31 0, slDw s i 1, slDw s i 2, slDw s i 3] })

/-- A write of SL_CMD (R347, R349). -/
def slCmdWrite (s : State) (w : Nat) : State :=
  match regStore s F.SL_CMD_OP.off 0 w with
  | (s, false) => s
  | (s, true) =>
    if bitOf w 31 ∧ bitsOf w 1 0 < 3 then
      let (r, s) := slOp s (bitsOf w 1 0)
      modSl s fun l => { l with result := r }
    else s

/-- A write of SL_CMD whose OP is the command's. -/
def slCmd (s : State) (port : HostPort) (value : Word) (op : Nat) : State :=
  regGate s port true fun s => if bitsOf value.toNat 1 0 = op ∧ bitOf value.toNat 31 then slCmdWrite s value.toNat else s

/-- SL_READ, SL_WRITE, SL_CLEAR (R347). -/
def execSlRead (port : HostPort) (value : Word) (s : State) : Host.Outcome State Fault Refusal :=
  .next (slCmd s port value 0)
def execSlWrite (port : HostPort) (value : Word) (s : State) : Host.Outcome State Fault Refusal :=
  .next (slCmd s port value 1)
def execSlClear (port : HostPort) (value : Word) (s : State) : Host.Outcome State Fault Refusal :=
  .next (slCmd s port value 2)

/-- SL_ENTRY_REWRITE: an entry is rewritten from its copy (R348). -/
def execSlEntryRewrite (entry : Fin 4096) (s : State) : Host.Outcome State Fault Refusal :=
  .next (modSl s fun l => { l with bad := l.bad.filter (· ≠ entry.val) })

/-! ### Candidates (R337 to R343) -/

/-- PCLK from a frame's 64th byte to the first byte at the egress MAC, and to the first host write, at the level in force
(R342, R344, R446). -/
def slNetPclk (s : State) : Nat := if level s = 1 then 22 else 18
def slHostPclk (s : State) : Nat := if level s = 1 then 46 else 40

/-- Time until the frame on the wire of a port lets a frame of the express class start, in PCLK from a time: F (R342). A Sluice
frame on the wire that is not complete has no end that could be computed (DESIGN CHOICE, log entry 116). -/
def freePclk (s : State) (p t0 : Nat) : Nat :=
  let e := egOf s p
  let tail (r : TxRun) : Nat := match r.since with | some t => t + r.left | none => 0
  let endless (r : TxRun) : Bool := match r.f.kind with
    | .sluice i => ((mget? s.sl.commits i).bind (·.done)).isNone
    | _ => false
  let at_ := match e.run, e.runP with
    | some r, _ => if endless r then t0 + 1048576 * pclkPs else max e.freeAt (tail r)
    | none, some r => if r.since.isNone then e.freeAt else max e.freeAt ((fragBoundary s p r).getD (tail r))
    | none, none => e.freeAt
  if at_ ≤ s.clk then 0 else ceilDiv (at_ - t0) pclkPs

/-- The class is paused at a port by a received frame, each counted from its last byte on (R339, row 6). -/
def pausedSoon (s : State) (p c : Nat) : Bool :=
  if recovering s p (macOf s p).wdRx c then false
  else
    match ((macOf s p).pauseWait.filter (·.1 = c)).getLast? with
    | some w => decide (w.2.1 ≠ 0)
    | none => paused s p c

/-- The calendar that will be in force on a port at a count (R339). -/
def calAt (s : State) (p count : Nat) : EgPort :=
  match s.armed.find? fun a => decide (a.1 = .cal p) with
  | some a => if a.2 * 65536 ≤ count then { egOf s p with cal := shadowCal s p, origin := a.2 * 65536 } else egOf s p
  | none => egOf s p

/-- The gate of the express class is open at the start, and stays so for GUARD_LEN bytes under GUARD 1 (row 8). -/
def gateAt (s : State) (p c guard count : Nat) : Bool :=
  !calOn s p ||
  match openIn (calAt s p count) c count with
  | none => true
  | some t =>
    decide (0 < t) &&
    (!guarded s p c || decide (psCount (wirePs s p (wireBits guard 0)) ≤ t))

/-- Commitments that hold the egress MAC of a port. -/
def holders (s : State) (p : Nat) : List (Nat × Commit) :=
  s.sl.commits.filter fun k => decide (k.2.egress = some p) && !k.2.started && !k.2.dead

/-- The ingress pipe that serves the next frame of a port: a port's own, the two of a 1.6TbE port in turn (R153). -/
def pipeNext (s : State) (p : Nat) : Nat := if octetCfg s p = 0 then p / 4 + b2n (macOf s p).alt else p / 4

/-- A received frame has been dealt to its pipe (R153). -/
def pipeDealt (s : State) (p : Nat) : State :=
  if octetCfg s p = 0 then modMac s p fun m => { m with alt := !m.alt } else s

/-- Change the frames of a port in the Sluice. -/
def modArr (s : State) (p : Nat) (f : List SlArr → List SlArr) : State :=
  modSl s fun l =>
    let x := f (mget [] l.arr p)
    { l with arr := if x = [] then mdel l.arr p else mset l.arr p x }

/-- Note how far a frame has come. -/
def slSt (s : State) (p id : Nat) (st : SlSt) : State :=
  modArr s p fun l => l.map fun x => if x.id = id then { x with st := st } else x

/-- An earlier frame that hit an entry has been diverted and still awaits placement (R341). -/
def slHeld (s : State) (i : Nat) : Bool :=
  (s.sl.arr.any fun x => x.2.any fun y => decide (y.st = .diverted i)) || s.fw.pend.any fun x => decide (x.a.div = some i)

/-- PCLK of start S of a candidate for a network port, counted from its PCLK 0 (R342). -/
def slStart (s : State) (e t0 : Nat) : Nat := max (slNetPclk s) (freePclk s e t0)

/-- The first condition of R339 that a candidate fails for its entry, with the words of it, as the counter's index; none when
it is committed. A commitment of the same PCLK holds the MAC like an earlier one: the lower pipe has it (R343). -/
def slFails (s : State) (net t0 c wait guard i : Nat) (w : Nat → Nat) : Option Nat :=
  let d := w 3
  if slHeld s i then some 3
  else if !bitOf (w 0) 30 then
    let e := d % 32
    let n := slStart s e t0
    if !netUp s e ∨ (clsOf s e c).q ≠ [] then some 3
    else if netRate s e > netRate s net then some 4
    else if !express s e c then some 5
    else if pausedSoon s e c then some 6
    else if n > slNetPclk s + wait ∨ holders s e ≠ [] then some 7
    else if !gateAt s e c guard (s.ft.count + psCount (t0 + n * pclkPs - s.clk)) then some 8
    else none
  else
    let t := d / 2 ^ 20
    let sq := d % 2 ^ 20
    let port := ((mget? s.tens t).map (·.home)).getD 0
    let fits := match oldestPost s sq with
      | some (_, j) => decide (
          rd s F.MA_FRAME_MAX_LEN net + (if bitOf (dw (jobHead j) 8) 0 then 8 else 0) ≤ segBytes (segsOf j.ents))
      | none => false
    if rxQueueOk s t sq && linkUp s port && ownerCanReq s port (some t) && fits then none else some 9

/-- Commit a frame by the words of its entry (R342, R344). -/
def commitFrame (s : State) (net : Nat) (x : SlArr) (c guard i : Nat) (w : Nat → Nat) : State :=
  let net_ := !bitOf (w 0) 30
  let e := w 3 % 32
  let k : Commit := {
    ing := net, pipe := x.pipe, since := s.clk, head := x.head, entry := i, cls := c, guard := guard
    egress := if net_ then some e else none,
    uid := if net_ then 0 else ((oldestPost s (w 3 % 2 ^ 20)).map (·.1)).getD 0,
    at_ := x.at_ + (if net_ then slStart s e x.at_ else slHostPclk s) * pclkPs, time := x.time }
  { modSl s fun l => { l with commits := mset l.commits s.uid k } with uid := s.uid + 1 }

/-- A frame of a port whose reception is not over: it waits for its decision, or it has been committed. -/
def slInFlight (s : State) (p : Nat) : Bool :=
  ((mget [] s.sl.arr p).any fun x => x.got.isNone) || s.sl.commits.any fun k => decide (k.2.ing = p) && k.2.done.isNone

/-- SLUICE_CANDIDATE: the first 64 bytes of a frame, latched in PCLK 0, whether it comes through the express MAC, whether the
entry that it hits fails its parity, and the time since its first byte in 2^-16 ns (R342, R348). What follows is the work of
the edges of PCLK 1 to 6. -/
def execSluiceCandidate (net : NetPort) (head : List Byte) (expressMac parity : Bool) (age : Nat) (s : State) :
    Host.Outcome State Fault Refusal :=
  let p := net.val
  if !running s ∨ !netUp s p ∨ slInFlight s p then .next s
  else
    let x : SlArr := {
      id := s.uid, at_ := s.clk, pipe := pipeNext s p, head := head.take 64, viaExpress := expressMac, parity := parity
      time := shortTsOf (ftQuality s) (s.ft.count - age) }
    .next (modArr { s with uid := s.uid + 1 } p fun l => l ++ [x])

/-- PCLK 1: the candidate test, for a frame that the MAC does not drop for its tagging (R158, R337). -/
def slTest (s : State) (p : Nat) (x : SlArr) : SlSt :=
  let c := rd s F.SL_CFG_CLASS
  if rd s F.SL_CFG_EN = 0 ∨ (tciOf s p x.head).1 / 2 ^ 13 ≠ c ∨ (preemptActive s p ∧ !x.viaExpress) ∨
      beAt x.head 12 2 = 0x8808 ∨ acceptFails s p x.head then .plain
  else .cand c (rd s F.SL_CFG_WAIT_MAX) (rd s F.SL_GUARD_GUARD_LEN)

/-- PCLK 2: the table as it stood before is looked up (R338, R347, R348). -/
def slLookup (s : State) (p : Nat) (x : SlArr) (c wait guard : Nat) : State :=
  match slFind s (p, (tciOf s p (stripped s p x.head)).1 % 4096, beAt x.head 0 6) with
  | none => slSt (cadd s 13 0 2 1) p x.id .plain
  | some i =>
    if x.parity ∨ i ∈ s.sl.bad then
      let s := modSl s fun l => { l with bad := if i ∈ l.bad then l.bad else i :: l.bad }
      raise (cadd (cadd (slSt s p x.id .plain) 13 0 2 1) 13 0 13 1) .slParity 0
    else slSt s p x.id (.hit c wait guard i ((List.range 4).map (slDw s i)))

/-! ### Starts and ends (R342 to R346) -/

/-- Wire time still to go of a Sluice frame that is on the wire, once its length is known. -/
def sluiceLeft (s : State) (i : Nat) (b : List Byte) : State :=
  match (mget? s.sl.commits i).bind (·.egress) with
  | some p =>
    modEg s p fun e => { e with run := e.run.map fun r =>
      if r.f.kind = FrKind.sluice i then { r with left := wirePs s p (wireBits (tagged s p b none).length 0) } else r }
  | none => s

/-- Write bytes into the buffer of an RX_POST job from offset o on, in requests of up to Max_Payload_Size (R344, R391). -/
def postWrite (s : State) (j : Job) (o : Nat) (bytes : List Byte) : State :=
  ((segCut (segsOf j.ents) o bytes.length).foldl (fun (x : State × List Byte) g =>
    (if g.inMere then storeWrite x.1 (bufAddr x.1 g.lo g.hi) (x.2.take g.len)
     else (cutReqs g.addr (fnOf x.1 j.port (ownerFn j.owner)).mps g.len 0 g.len).foldl (fun y r =>
       emit y (.hostWrite (asPort j.port) (ownerPasid y j.owner) (g.addr + r.1) ((x.2.drop r.1).take r.2)
         (dataAttr y j.port (ownerFn j.owner) false))) x.1, x.2.drop g.len)) (s, bytes)).1

/-- What a Sluice frame puts into a posted buffer: the timestamp when it is asked for, and its bytes (R149, R344). -/
def postBytes (j : Job) (k : Commit) (b : List Byte) : List Byte :=
  (if bitOf (dw (jobHead j) 8) 0 then leBytes 8 k.time else []) ++ b

/-- Bytes of the first write to a host: the timestamp and the frame's bytes, up to 128 in all (R344). -/
def slFirst (k : Commit) : Nat := if k.sent = 0 then 128 else 0

/-- A frame for a host is complete and its writes have begun: the rest is written and the job completes (R344). -/
def sluiceHostEnd (s : State) (i : Nat) (k : Commit) (b : List Byte) : State :=
  let s := modSl s fun l => { l with commits := mdel l.commits i }
  match mget? s.jobs k.uid with
  | none => s
  | some j =>
    let bytes := postBytes j k b
    let t := j.owner.getD 0
    let n := k.sent + slFirst k
    let s := postWrite s j k.sent ((bytes.take n).drop k.sent)
    let s := postWrite s j n (bytes.drop n)
    let s := cadd (cadd (cadd s 13 0 1 1) 4 t 0 1) 4 t 1 b.length
    finishJob s k.uid .success (bytes.length + k.cls * 2 ^ 32)

/-- Bytes of a frame for a host that have arrived are written: the first write of up to 128 bytes, then whole writes of
Max_Payload_Size (R344). -/
def sluiceHostMore (s : State) (i : Nat) (k : Commit) (arrived : List Byte) : State :=
  match mget? s.jobs k.uid with
  | none => modSl s fun l => { l with commits := mdel l.commits i }
  | some j =>
    let bytes := postBytes j k (stripped s k.ing arrived)
    let n := if k.started then k.sent + (bytes.length - k.sent) / (fnOf s j.port (ownerFn j.owner)).mps *
        (fnOf s j.port (ownerFn j.owner)).mps else min 128 bytes.length
    let s := modSl s fun l => { l with commits := mset l.commits i { k with started := true, sent := n } }
    postWrite s j k.sent ((bytes.take n).drop k.sent)

/-- A frame that the Sluice has committed is complete at ingress (R345). -/
def sluiceTake (s : State) (i : Nat) (k : Commit) (f : WireFrame) : State :=
  let bad := f.pcsErr || !f.fcsOk || decide (f.bytes.length + 4 > rd s F.MA_FRAME_MAX_LEN k.ing + 4 * tagCount f.bytes)
  let b := stripped s k.ing f.bytes
  if k.dead then modSl s fun l => { l with commits := mdel l.commits i }
  else if bad then sluiceLeft (sluiceBad s i k b) i b
  else if k.egress.isNone ∧ k.started then sluiceHostEnd s i k b
  else sluiceLeft (modSl s fun l => { l with commits := mset l.commits i { k with done := some (b, false) } }) i b

/-- A committed frame may start on the MAC of its port (R342). -/
def sluiceMayStart (s : State) (p : Nat) : Bool :=
  let e := egOf s p
  decide (e.freeAt ≤ s.clk) && e.run.isNone &&
  match e.runP with
  | some r => r.since.isNone || decide (fragBoundary s p r = some s.clk)
  | none => true

/-- A commitment that SLUICE_START acts on: one at its S that has not started, or one for a host whose bytes still arrive. -/
def sluiceTurn (s : State) (net : Nat) : Option (Nat × Commit) :=
  s.sl.commits.find? fun k => decide (k.2.ing = net ∧ k.2.at_ ≤ s.clk) && !k.2.dead &&
    (!k.2.started || (k.2.egress.isNone && k.2.done.isNone))

/-- SLUICE_START: at S the first byte is presented at the egress MAC, or the first host write of up to 128 bytes is
issued from the bytes that have arrived, and with a later command the writes of those that have arrived since; no frame of a
paused class starts (R162, R342, R344; log entry 104). -/
def execSluiceStart (net : NetPort) (arrived : List Byte) (s : State) : Host.Outcome State Fault Refusal :=
  match sluiceTurn s net.val with
  | none => .next s
  | some (i, k) =>
    let c := k.cls
    match k.egress with
    | some p =>
      if sluiceMayStart s p && !paused s p c then
        let s := startFrame s p c { kind := .sluice i, len := 0, own := false } 0 false
        let s := modSl s fun l => { l with commits := mset l.commits i { k with started := true } }
        .next (match k.done with | some (b, _) => sluiceLeft s i b | none => s)
      else .next s
    | none =>
      match k.done with
      | some (b, _) => .next (sluiceHostEnd s i k b)
      | none => .next (sluiceHostMore s i k arrived)

/-! ### PCLK 6 (R339, R342, R343) -/

/-- The decision on a frame that hit: it is diverted, or committed, with what has arrived of it. -/
def slDecide (s : State) (p : Nat) (x : SlArr) (c wait guard i : Nat) (ws : List Nat) : State :=
  let w (k : Nat) : Nat := ws.getD k 0
  match slFails s p x.at_ c wait guard i w with
  | some n => slSt (cadd s 13 0 n 1) p x.id (.diverted i)
  | none =>
    let u := s.uid
    let s := modArr (commitFrame s p x c guard i w) p fun l => l.filter fun y => y.id ≠ x.id
    match x.got, mget? s.sl.commits u with
    | some g, some k => sluiceTake s u k g.frame
    | _, _ => s

/-- What a PCLK brings a frame in the Sluice. -/
def slStage (s : State) (p : Nat) (x : SlArr) : State :=
  let n := (s.clk - x.at_) / pclkPs
  match x.st with
  | .fresh => if 1 ≤ n then slSt s p x.id (slTest s p x) else s
  | .cand c wait guard => if 2 ≤ n then slLookup s p x c wait guard else s
  | .hit c wait guard i ws => if 6 ≤ n then slDecide s p x c wait guard i ws else s
  | _ => s

/-- The frames in the Sluice, in the order of their pipes, then of their ports (R343; DESIGN CHOICE for two ports of one pipe,
log entry 116). -/
def slFrames (s : State) : List (Nat × SlArr) :=
  (s.sl.arr.flatMap fun x => x.2.map fun y => (x.1, y)).foldr
    (insertBy fun a b => decide (a.2.pipe < b.2.pipe ∨ (a.2.pipe = b.2.pipe ∧ a.1 ≤ b.1))) []

end Sys2Proof.Machine
end

