-- ==== Sys2Proof/Machine/Receive.lean ====
section
/-! DEFINITION. Reception: the MAC's checks (08_network_ports.md), parser, classifier and rule sets
(09_parse_classify.md), placement in queues, and delivery to hosts (07_tenants.md, R148, R149). -/
namespace Sys2Proof.Machine

/-- Change the classifier. -/
def modPa (s : State) (f : Classifier → Classifier) : State := { s with pa := f s.pa }

/-! ### Rule-set images (R172, R176, R177, R190) -/

/-- Header fields of an image (R190). -/
def imDw (im : List Byte) (k : Nat) : Nat := leAt im (4 * k) 4
def imRoot (im : List Byte) : Nat := bitsOf (imDw im 0) 31 24
def imTables (im : List Byte) : Nat := bitsOf (imDw im 0) 20 16
def imNodes (im : List Byte) : Nat := bitsOf (imDw im 0) 15 8
def imRules (im : List Byte) : Nat := bitsOf (imDw im 1) 16 0

/-- Rules of table t. -/
def tabRules (im : List Byte) (t : Nat) : Nat := leAt im (8 + 2 * t) 2

/-- Number of the first rule of table t in the image. -/
def tabFirst (im : List Byte) (t : Nat) : Nat := (List.range t).foldl (fun n i => n + tabRules im i) 0

/-- Offsets of a node, a comparator and a rule. -/
def nodeOff (n : Nat) : Nat := 64 + 64 * n
def cmpOff (im : List Byte) (t r : Nat) : Nat := 64 + 64 * imNodes im + 512 * t + 8 * r
def ruleOff (im : List Byte) (r : Nat) : Nat := 64 + 64 * imNodes im + 512 * imTables im + 176 * r

/-- Word k of node n. -/
def nodeDw (im : List Byte) (n k : Nat) : Nat := leAt im (nodeOff n + 4 * k) 4

/-- Size that a header implies (R190). -/
def imSize (im : List Byte) : Nat := 64 + 64 * imNodes im + 512 * imTables im + 176 * imRules im

/-- Check 1 of R190. -/
def imHeaderOk (im : List Byte) (len : Nat) : Bool :=
  let w := imDw im 0
  decide (bitsOf w 7 0 = 1 ∧ 1 ≤ imNodes im ∧ 1 ≤ imTables im ∧ imTables im ≤ 16 ∧ bitsOf w 23 21 = 0 ∧
    bitsOf (imDw im 1) 31 17 = 0 ∧ imRules im ≤ 65536 ∧ tabFirst im 16 = imRules im ∧ len = imSize im) &&
  ((List.range 16).all fun t => decide (t < imTables im ∨ tabRules im t = 0)) &&
  (List.range 6).all fun k => decide (imDw im (10 + k) = 0)

/-- Check 3 of R190 for a node. A node with FIXED_LEN 0 and MIN_LEN 0 fails this check (DESIGN CHOICE, log entry 119). -/
def nodeOk (im : List Byte) (n : Nat) : Bool :=
  let w := nodeDw im n
  let next (v : Nat) : Bool := decide (v < imNodes im ∨ v = 255)
  decide (bitsOf (w 0) 31 28 < imTables im ∧ bitsOf (w 0) 27 24 = 0 ∧ bitsOf (w 1) 1 0 = 0 ∧ bitsOf (w 2) 3 0 = 0 ∧
    bitsOf (w 3) 28 24 = 0 ∧ bitsOf (w 3) 31 30 ≠ 3 ∧ (bitsOf (w 0) 7 0 ≠ 0 ∨ bitsOf (w 0) 15 8 ≠ 0)) &&
  next (bitsOf (w 3) 7 0) &&
  ((List.range 4).all fun k => decide (bitsOf (w (4 + k)) 24 8 = 0 ∧ bitsOf (w (4 + k)) 30 29 ≠ 3)) &&
  (List.range 8).all fun k => decide (bitsOf (w (8 + k)) 30 24 = 0) && next (bitsOf (w (8 + k)) 23 16)

/-- FIXED_LEN, or MIN_LEN where it is 0 (R173). -/
def nodeMin (w0 : Nat) : Nat := if bitsOf w0 7 0 = 0 then bitsOf w0 15 8 else bitsOf w0 7 0

/-- Check 4 of R190 for a node. -/
def nodeReads (im : List Byte) (n : Nat) : Bool :=
  let w := nodeDw im n
  let l := nodeMin (w 0)
  decide ((bitsOf (w 0) 7 0 ≠ 0 ∨ bitsOf (w 1) 15 8 + 2 ≤ l) ∧ bitsOf (w 2) 15 8 + 2 ≤ l ∧
    (bitsOf (w 3) 31 30 = 0 ∨ bitsOf (w 3) 23 16 + 2 ≤ l)) &&
  (List.range 4).all fun k =>
    !bitOf (w (4 + k)) 31 || decide (bitsOf (w (4 + k)) 7 0 + 2 ^ bitsOf (w (4 + k)) 30 29 ≤ l)

/-- The first failing structure of an image: its offset and the check (R190). -/
def imFail (im : List Byte) (len : Nat) : Option (Nat × Nat) :=
  if !imHeaderOk im len then some (0, 1)
  else if imRoot im ≥ imNodes im then some (0, 2)
  else
    match (List.range (imNodes im)).find? fun n => !nodeOk im n || !nodeReads im n with
    | some n => some (nodeOff n, if nodeOk im n then 4 else 3)
    | none =>
      match (List.range (64 * imTables im)).find? fun r => decide (leAt im (cmpOff im 0 r) 8 % 2 ^ 26 ≠ 0) with
      | some r => some (cmpOff im 0 r, 5)
      | none =>
        match (List.range (imRules im)).find? fun r =>
            !actOk (leAt im (ruleOff im r + 160) 8) || decide (leAt im (ruleOff im r + 168) 8 ≠ 0) with
        | some r => some (ruleOff im r, 6)
        | none => none

/-! ### The parser (R173, R496) -/

/-- How a parse ends: the node, the key slots and their valid bits, and the failing reason of R181 (0 for none). -/
structure Parsed where
  node : Nat
  slots : Nat := 0
  valid : Nat := 0
  reason : Nat := 0
  deriving DecidableEq, Repr

/-- Length of a header at `start` (R173). -/
def headerLen (im b : List Byte) (n start : Nat) : Nat :=
  let w := nodeDw im n
  if bitsOf (w 0) 7 0 ≠ 0 then bitsOf (w 0) 7 0
  else
    Nat.land (beAt b (start + bitsOf (w 1) 15 8) 2) (bitsOf (w 1) 31 16) / 2 ^ bitsOf (w 1) 7 4 * 2 ^ bitsOf (w 1) 3 2 +
      bitsOf (w 0) 23 16

/-- Step 4: the enabled extractions, in order (R173). -/
def extracts (im b : List Byte) (n start : Nat) (p : Parsed) : Parsed :=
  (List.range 4).foldl (fun p k =>
    let e := nodeDw im n (4 + k)
    if bitOf e 31 then
      let sl := bitsOf e 28 25
      let v := beAt b (start + bitsOf e 7 0) (2 ^ bitsOf e 30 29)
      { p with slots := setBits p.slots (32 * sl + 31) (32 * sl) v, valid := Nat.lor p.valid (2 ^ sl) }
    else p) p

/-- Step 5: the next node (R173). -/
def nextNode (im b : List Byte) (n start : Nat) : Nat :=
  let w := nodeDw im n
  let nv := Nat.land (beAt b (start + bitsOf (w 2) 15 8) 2) (bitsOf (w 2) 31 16) / 2 ^ bitsOf (w 2) 7 4
  match (List.range 8).find? fun k => bitOf (w (8 + k)) 31 && decide (bitsOf (w (8 + k)) 15 0 = nv) with
  | some k => bitsOf (w (8 + k)) 23 16
  | none => bitsOf (w 3) 7 0

/-- The walk of the parse graph over bytes that begin at the start of the parse, with so many headers left (R173). -/
def parseFrom (im b : List Byte) : Nat → Nat → Nat → Nat → Parsed → Parsed
  | 0, n, _, _, p => { p with node := n, reason := 2 }
  | fuel + 1, n, start, bound, p =>
    let w := nodeDw im n
    let p := { p with node := n }
    let least := nodeMin (w 0)
    let len := headerLen im b n start
    let dl := beAt b (start + bitsOf (w 3) 23 16) 2 + bitsOf (w 3) 15 8
    let lchk := bitsOf (w 3) 31 30
    if start + least > 512 then { p with reason := 2 }
    else if start + least > bound then { p with reason := 3 }
    else if start + len > 512 then { p with reason := 2 }
    else if (bitsOf (w 0) 7 0 = 0 ∧ len < bitsOf (w 0) 15 8) ∨ start + len > bound then { p with reason := 3 }
    else if lchk ≠ 0 ∧ (dl < len ∨ start + dl > bound ∨ (lchk = 2 ∧ start + dl ≠ bound)) then { p with reason := 3 }
    else
      let bound := if lchk ≠ 0 ∧ bitOf (w 3) 29 then start + dl else bound
      let p := extracts im b n start p
      let nx := nextNode im b n start
      if nx = 255 then p else parseFrom im b fuel nx (start + len) bound p

/-- A parse from a node over a frame of a length (R173). -/
def parse (im b : List Byte) (node len : Nat) : Parsed := parseFrom im (b.take 512) 16 node 0 len { node := node }

/-! ### The classifier (R175 to R177) -/

/-- RANGE bits of table t (R176). -/
def rangeBits (im : List Byte) (t slots valid : Nat) : Nat :=
  (List.range 64).foldl (fun n r =>
    let c := leAt im (cmpOff im t r) 8
    let sl := bitsOf c 29 26
    let v := if bitOf c 30 then bitsOf slots (32 * sl + 31) (32 * sl + 16) else bitsOf slots (32 * sl + 15) (32 * sl)
    if bitOf c 31 ∧ bitOf valid sl ∧ bitsOf c 47 32 ≤ v ∧ v ≤ bitsOf c 63 48 then n + 2 ^ r else n) 0

/-- The key (R175). -/
def keyBits640 (a : Arr) (p : Parsed) (tag range : Nat) : Nat :=
  a.tci * 2 ^ 624 + b2n a.untagged * 2 ^ 623 + a.pass * 2 ^ 620 + b2n a.srcHost * 2 ^ 619 + a.src * 2 ^ 607 + p.node * 2 ^ 599 +
    p.valid * 2 ^ 583 + tag * 2 ^ 576 + range * 2 ^ 512 + p.slots

/-- The action of the winning rule of a table, entries that fail left out (R177, R193). -/
def findRule (im : List Byte) (key t : Nat) (bad : List Nat) : Option Nat :=
  let f := tabFirst im t
  match (List.range (tabRules im t)).find? fun i =>
      let o := ruleOff im (f + i)
      let m := leAt im (o + 80) 80
      decide (f + i ∉ bad) && decide (Nat.land key m = Nat.land (leAt im o 80) m) with
  | some i => some (leAt im (ruleOff im (f + i) + 160) 8)
  | none => none

/-- The ACTIVE slot (R183). -/
def activeSlot (s : State) : Option Nat :=
  (List.range 4).find? fun i => decide (((mget? s.pa.slots i).map (·.st)) = some .active)

/-- The default action of a source (R180). -/
def defAction (s : State) (srcHost : Bool) (src : Nat) : Nat :=
  if srcHost then rget s F.PA_DEF_HOST_ACTION.off + rget s F.PA_DEF_HOST_hi_ACTION_HI.off * 2 ^ 32
  else rget s (F.PA_DEF_ACTION.off + 8 * src) + rget s (F.PA_DEF_p_hi_ACTION_HI.off + 8 * src) * 2 ^ 32

/-- What classification gives: the action, the frame with its class, colour, reason and path, and the lookup key. -/
structure Verdict where
  act : Nat
  a : Arr
  key : FwKey
  deriving DecidableEq, Repr

/-- The default action with a reason (R181). -/
def byDefault (s : State) (a : Arr) (reason path : Nat) (k : FwKey) : Verdict × State :=
  let act := defAction s a.srcHost a.src
  ({ act := act, key := { k with inst := actTarget act % 4096 },
     a := { a with reason := reason, path := path, cls := actClass act, colour := actColour act } },
   cadd s 6 0 reason 1)

/-- Entries of a slot that fail their parity (R193). -/
def tcamFail (s : State) (slot : Nat) (rules : List Nat) : State :=
  rules.foldl (fun s r =>
    raise (modPa s fun p => { p with bad := if (slot, r) ∈ p.bad then p.bad else (slot, r) :: p.bad }) .paTcamParity slot) s

/-- Parse and classify a frame under a slot's rule set (R173 to R177). -/
def classify (s : State) (a : Arr) (slot node tag : Nat) (b : List Byte) (u : Upset) :
    Verdict × State :=
  let im := ((mget? s.pa.slots slot).map (·.img)).getD []
  let p := parse im b node b.length
  let k : FwKey := { inst := 0, slots := p.slots, valid := p.valid }
  if p.reason ≠ 0 then byDefault s a p.reason p.node k
  else
    let s := tcamFail s slot u.tcam
    let t := bitsOf (nodeDw im p.node 0) 31 28
    let key := keyBits640 a p tag (rangeBits im t p.slots p.valid)
    match findRule im key t ((s.pa.bad.filter (·.1 = slot)).map (·.2)) with
    | some act =>
      ({ act := act, key := { k with inst := actTarget act % 4096 },
         a := { a with path := p.node, cls := actClass act, colour := actColour act } }, s)
    | none => byDefault s a 1 p.node k

/-- A first pass: the stamp, and classification under the ACTIVE set (R183). -/
def firstPass (s : State) (a : Arr) (b : List Byte) (u : Upset) : Verdict × State :=
  match activeSlot s with
  | none => byDefault (raiseOnce s .paNoRuleset 0) a 6 0 ⟨0, 0, 0⟩
  | some i =>
    let a := { a with stamp := some (i, gen s 8 i) }
    let im := ((mget? s.pa.slots i).map (·.img)).getD []
    classify (cadd s 6 0 (8 + i) 1) a i (imRoot im) 0 b u

/-! ### Storing and placing a frame -/

/-- What the device keeps with a stored frame (R290). -/
def keepPkt (s : State) (h : Nat) (a : Arr) : State :=
  { s with pkts := mset s.pkts h {
      stamp := a.stamp, ref := a.stamp.isSome, src := a.src, srcHost := a.srcHost, pass := a.pass, len := a.len
      time := a.time, tci := a.tci, untagged := a.untagged } }

/-- Release a stored packet's reference (R184). -/
def dropRef (s : State) (h : Nat) : State := { s with pkts := mmod s.pkts h fun k => { k with ref := false } }

/-- References on a slot (R184). -/
def refsOf (s : State) (slot : Nat) : Nat :=
  let g := some (slot, gen s 8 slot)
  s.pkts.foldl (fun n k => if k.2.ref ∧ k.2.stamp = g then n + 1 else n) 0 +
  (s.fw.pend.filter fun x => decide (x.a.buf = none ∧ x.a.stamp = g)).length

/-- Store a frame for a requester: its buffer, or nothing where Cooper refuses it, which is counted (R229). -/
def storeArr (s : State) (a : Arr) (req : Nat) : Option Nat × State :=
  match a.buf with
  | some h => (some h, s)
  | none =>
    match alloc s req a.len with
    | (.ok h, s) =>
      let s := keepPkt (storeWrite s (bufAddr s h 0) a.bytes) h a
      let s := modMac s a.src fun m => { m with held := m.held ++ [(h, a.pri, poolSize (bPool h))] }
      (some h, xoffCheck s a.src (fcClass s a.src a.pri))
    | (.error _, s) => (none, (let s := cadd s 8 0 10 1; if req < 4096 then cadd s 4 req 6 1 else s))

/-- A frame goes to the null egress queue: it is counted and freed (R178, R320). -/
def toNull (s : State) (a : Arr) : State :=
  match storeArr s a (reqPort a.src) with
  | (some h, s) => devFree (cadd s 6 0 0 1) h
  | (none, s) => s

/-- A frame that is not kept: its buffer, if any, is freed. -/
def arrGone (s : State) (a : Arr) : State := match a.buf with | some h => devFree s h | none => s

/-- Place a frame by a destination action (R178, R289): a class queue, a host receive queue, a ring, or the null queue.
The number of a port that is not in the boot configuration names nothing: the frame goes as to the null queue. -/
def place (s : State) (a : Arr) (act : Nat) : State :=
  let t := actTarget act
  match actKind act with
  | 0 =>
    if t ≥ 32 ∨ !netPortExists s t then toNull s a
    else
      match egAdmit s t a.cls a.colour a.len with
      | (false, s) => arrGone s a
      | (true, s) =>
        match storeArr s a (reqPort a.src) with
        | (some h, s) =>
          egEnqueue (dropRef s h) t a.cls {
            buf := h, off := a.off, len := a.len, colour := a.colour, tag := a.tag
            rank := if a.buf.isNone ∧ !a.srcHost then a.src / 4 else a.pipe }
        | (none, s) => s
  | 1 =>
    match storeArr s a (t / 2 ^ 20) with
    | (some h, s) =>
      let f : HostFrame := {
        tenant := t / 2 ^ 20, sq := t % 2 ^ 20, buf := h, off := a.off, len := a.len, colour := a.colour, cls := a.cls,
        time := a.time }
      { bufHand (dropRef s h) h with hostq := s.hostq ++ [f] }
    | (none, s) => s
  | _ =>
    match storeArr s a (clusterReq (ringCore s (t % 4096))) with
    | (some h, s) => ringArrive (bufBack s h (ringCore s (t % 4096) / 12)) (t % 4096) (frameDesc s h a.len a.reason a.colour a.cls a.path)
    | (none, s) => s

/-- Place every frame whose destination is known and that no earlier frame of its source still waits before (R153,
R201). -/
def drainPend (s : State) : State :=
  let l := s.fw.pend
  (l.foldl (fun (x : State × List Nat) e =>
    match e.dest with
    | some d =>
      if e.a.flow ∈ x.2 then x
      else (place (modFw x.1 fun f => { f with pend := f.pend.filter (·.id ≠ e.id) }) e.a d, x.2)
    | none => (x.1, e.a.flow :: x.2)) (s, [])).1

/-- Act on a verdict: a forwarding instance is looked up, at once or once its turn comes, and one in MODE OFF searches nothing
and so waits for nothing (R196); every other action places the
frame (R178, R198, R201). The source lookup comes before the test of FW_LOOKUP_OVERRUN (DESIGN CHOICE, log entry 119). -/
def actOn (s : State) (v : Verdict) (u : Upset) : State :=
  let inst := actKind v.act = 0 ∧ 2 ^ 31 ≤ actTarget v.act
  let s := if inst ∧ !v.a.srcHost then learnSrc s v.key v.a.src v.a.pipe u else s
  let push (s : State) (d : Option Nat) : State :=
    let e : PendFw := { id := s.uid, pipe := v.a.pipe, a := v.a, key := v.key, dest := d }
    modFw { s with uid := s.uid + 1 } fun f => { f with pend := f.pend ++ [e] }
  if inst ∧ u.wait ∧ instMode (fwSeen s) v.key.inst ≠ 0 then
    if (s.fw.pend.filter fun e => decide (e.pipe = v.a.pipe ∧ e.dest = none)).length ≥ 64 then
      raiseOnce (cadd (arrGone s v.a) 7 0 19 1) .fwLookupOverrun 0
    else push s none
  else
    let (d, s) := if inst then fwLookup s v.key u else (v.act, s)
    drainPend (push s (some d))

/-- FW_LOOKUP_DONE: a lookup that waited completes, and frames are placed in order (R201). -/
def execFwLookupDone (id : Nat) (upset : Upset) (s : State) : Host.Outcome State Fault Refusal :=
  match s.fw.pend.find? fun e => decide (e.id = id ∧ e.dest = none) with
  | some e =>
    let (d, s) := fwLookup s e.key upset
    .next (drainPend (modFw s fun f => { f with pend := f.pend.map fun x => if x.id = id then { x with dest := some d } else x }))
  | none => .next s

/-! ### Reception (R158 to R160) -/

/-- The MAC's check of a frame: the counter of the first failing one (R158). -/
def macCheck (s : State) (p : Nat) (f : WireFrame) : Option Nat :=
  let n := f.bytes.length + 4
  if f.pcsErr then some 11
  else if !f.fcsOk then some 2
  else if n < 64 then some 4
  else if n > rd s F.MA_FRAME_MAX_LEN p + 4 * tagCount f.bytes then some 3
  else if beAt f.bytes 12 2 ≠ 0x8808 ∧ acceptFails s p f.bytes then some 10
  else none

/-- Count a good received frame (R168). -/
def countRx (s : State) (p : Nat) (b : List Byte) : State :=
  let s := cadd (cadd s 5 p 0 1) 5 p 1 (b.length + 4)
  if b.take 6 = List.replicate 6 0xFF then cadd s 5 p 6 1
  else if bitOf (b.headD 0).toNat 0 then cadd s 5 p 5 1 else s

/-- What a frame received on a port is to the ordinary path (R153, R160). -/
def arrOf (s : State) (p : Nat) (f : WireFrame) : Arr :=
  let (tci, untagged) := tciOf s p f.bytes
  let b := stripped s p f.bytes
  { bytes := b, len := b.length, src := p, flow := p, pipe := pipeNext s p, pri := tci / 2 ^ 13, tci := tci
    untagged := untagged, time := shortTsOf (ftQuality s) (s.ft.count - f.age) }

/-- A frame takes the ordinary path (R13, R183). -/
def ordinary (s : State) (a : Arr) (u : Upset) : State :=
  let (v, s) := firstPass s a a.bytes u
  actOn s v u

/-- The oldest frames of a port that are decided and complete take the ordinary path, if the MAC accepts them (R153, R340). -/
def slDrain (s : State) (p : Nat) : Nat → State
  | 0 => s
  | n + 1 =>
    match mget [] s.sl.arr p with
    | [] => s
    | x :: t =>
      let go (g : SlGot) (div : Option Nat) : State :=
        let s := modArr s p fun _ => t
        slDrain (if g.ok then ordinary s { g.a with div := div } g.upset else s) p n
      match x.st, x.got with
      | .plain, some g => go g none
      | .diverted i, some g => go g (some i)
      | _, _ => s

/-- A received frame that the Sluice has not committed: it waits behind frames of its port that are not decided (R153). -/
def slBehind (s : State) (p : Nat) (g : SlGot) : State :=
  match mget [] s.sl.arr p with
  | [] => if g.ok then ordinary s g.a g.upset else s
  | l =>
    let s := if l.any fun x => x.got.isNone then
        modArr s p fun l => l.map fun x => if x.got.isNone then { x with got := some g } else x
      else
        modArr { s with uid := s.uid + 1 } p fun l => l ++ [{
          id := s.uid, at_ := s.clk, pipe := g.a.pipe, st := .plain, got := some g }]
    slDrain s p (mget [] s.sl.arr p).length

/-- The frame that a port is receiving is dropped before its end: the Sluice forgets it. -/
def slForget (s : State) (p : Nat) : State := modArr s p fun l => l.filter fun x => x.got.isSome

/-- What the edge of a PCLK brings the Sluice (R339, R342). -/
def slEdge (s : State) : State :=
  if s.sl.arr = [] then s
  else
    let s := (slFrames s).foldl (fun s x => slStage s x.1 x.2) s
    (s.sl.arr.map (·.1)).foldl (fun s p => slDrain s p (mget [] s.sl.arr p).length) s

/-- FRAME_RX (R158); the tagging of a frame that the Sluice has committed was judged with its first bytes. -/
def frameRx (s : State) (p : Nat) (f : WireFrame) (u : Upset) : State :=
  if !netUp s p ∨ !running s then s
  else
    let s := cadd (cadd (cadd s 5 p 21 f.fec.1) 5 p 22 f.fec.2.1) 5 p 23 f.fec.2.2
    let s := cadd s 5 p 43 (f.frags - 1)
    if f.mmErr ≠ 0 then slForget (cadd s 5 p (39 + f.mmErr.val) 1) p
    else
      let s := if f.frags > 1 then cadd s 5 p 42 1 else s
      let taken := s.sl.commits.find? fun k => decide (k.2.ing = p) && k.2.done.isNone
      let chk := (macCheck s p f).filter fun i => decide (i ≠ 10) || taken.isNone
      let s := match chk with | some i => cadd s 5 p i 1 | none => countRx s p f.bytes
      match taken with
      | some (i, k) => sluiceTake (pipeDealt s p) i k f
      | none =>
        if chk.isNone ∧ beAt f.bytes 12 2 = 0x8808 then ctrlRx (slForget s p) p f.bytes
        else
          let g : SlGot := { frame := f, a := arrOf s p f, upset := u, ok := chk.isNone }
          slBehind (if chk.isNone then pipeDealt s p else s) p g

/-- FRAME_RX (R158). -/
def execFrameRx (net : NetPort) (frame : WireFrame) (upset : Upset) (s : State) : Host.Outcome State Fault Refusal :=
  .next (frameRx s net.val frame upset)

/-! ### Recirculation (R182, R186) -/

/-- RECIRC of a stored packet: its LEN, START, START_NODE and RECIRC_TAG (R290). The pipe it returns to is a free value (log
entry 3). MAX_PASS is tested before the residence of the generation (R182; DESIGN CHOICE, log entry 119). -/
def recirc (s : State) (h len start node tag : Nat) (u : Upset) : State :=
  let k := mget {} s.pkts h
  let pass := k.pass + 1
  let a : Arr := {
    buf := some h, len := len, srcHost := k.srcHost, src := k.src, flow := if k.srcHost then 2 ^ 21 + k.src else k.src,
    time := k.time, stamp := k.stamp, pass := pass, tci := k.tci, untagged := k.untagged
    pipe := (Config.openWord s.free).toNat % 8 }
  let s := { bumpFree s with pkts := mset s.pkts h { k with pass := pass, len := len } }
  let none_ : FwKey := ⟨0, 0, 0⟩
  let b := storeRead s (bufAddr s h start) (len - start)
  let s := storeMeet s (bufAddr s h start) (len - start) u.frame
  let (v, s) :=
    if pass ≥ rd s F.PA_RS_CFG_MAX_PASS then byDefault s a 4 0 none_
    else
      match k.stamp with
      | none => byDefault (raiseOnce s .paRsRetiredPkt 0) a 5 0 none_
      | some (slot, g) =>
        match mget? s.pa.slots slot with
        | none => byDefault (raiseOnce s .paRsRetiredPkt 0) a 5 0 none_
        | some r =>
          if gen s 8 slot ≠ g then byDefault (raiseOnce s .paRsRetiredPkt 0) a 5 0 none_
          else if node ≥ imNodes r.img then byDefault s a 3 node none_
          else
            classify s a slot node tag b u
  actOn s v u

/-! ### Host frames through a pipe (R334) -/

/-- A PIPE TX frame is in its buffer: it is classified, and the job completes (R334, R335). -/
def txPipe (s : State) (uid : Nat) (j : Job) (h len : Nat) (u : Upset) : State :=
  let e := jobHead j
  let t := j.owner.getD 0
  let b := storeRead s (bufAddr s h 0) len
  let a : Arr := {
    buf := some h, len := len, srcHost := true, src := t, flow := 2 ^ 20 + j.sq, time := shortTs s
    pipe := (Config.openWord s.free).toNat % 8
    tci := if outerTag b then beAt b 14 2 else (Config.openWord (s.free + 1)).toNat % 65536
    untagged := !outerTag b
    tag := if bitOf (dw e 8) 28 then some (b2n (bitOf (dw e 8) 27), bitsOf (dw e 8) 15 0) else none }
  let s := storeMeet s (bufAddr s h 0) len u.frame
  let (v, s) := firstPass (bumpFree (bumpFree s)) a b u
  actOn (finishJob (keepPkt s h v.a) uid .success 0) v u

/-- A DIRECT TX frame is in its buffer: it is admitted to its class queue (R334, R335). -/
def txDirect (s : State) (uid : Nat) (j : Job) (h len : Nat) : State :=
  let e := jobHead j
  let p := bitsOf (dw e 9) 12 8
  let c := bitsOf (dw e 9) 2 0
  match egAdmit s p c (bitsOf (dw e 9) 4 3) len with
  | (false, s) => finishJob (devFree s h) uid .noResource 0
  | (true, s) =>
    egEnqueue s p c {
      kind := .tx uid (bitOf (dw e 8) 29), buf := h, len := len, colour := bitsOf (dw e 9) 4 3, rank := 25
      tag := if bitOf (dw e 8) 28 then some (b2n (bitOf (dw e 8) 27), bitsOf (dw e 8) 15 0) else none }

/-! ### Delivery to host receive queues (R148, R149, R179) -/


/-- An RX_POST whose data has been written completes (R149). -/
def rxDone (s : State) (uid : Nat) : State :=
  match mget? s.jobs uid with
  | none => s
  | some j =>
    let n := j.x.getD 0 0
    let h := j.x.getD 2 0
    let t := j.owner.getD 0
    let s := cadd (cadd (devFree s h) 4 t 0 1) 4 t 1 (j.x.getD 3 0)
    finishJob s uid .success (n + j.x.getD 1 0 * 2 ^ 32)

/-- Write a frame into a posted buffer: the timestamp first when it is asked for (R149). -/
def rxFill (s : State) (uid : Nat) (j : Job) (f : HostFrame) : State :=
  let ts := if bitOf (dw (jobHead j) 8) 0 then 8 else 0
  let gs := segsOf j.ents
  let j := { j with x := [f.len + ts, f.colour * 8 + f.cls, f.buf, f.len], bufs := [f.buf] }
  let s := { s with jobs := mset s.jobs uid j }
  let s := (segCut gs 0 ts).foldl (fun (x : State × List Byte) g =>
    (if g.inMere then storeWrite x.1 (bufAddr x.1 g.lo g.hi) (x.2.take g.len)
     else { x.1 with wreqs := x.1.wreqs ++ [{
        port := j.port, eng := (portEngines s j.port).headD 0, xid := 0, host := g.addr, bytes := x.2.take g.len,
        pasid := ownerPasid s j.owner, gens := jobGens j
        attr := dataAttr s j.port (ownerFn j.owner) false }] }, x.2.drop g.len)) (s, leBytes 8 f.time) |>.1
  match moveSegs s (jobXfer s j (.rx uid) 0) true (segCut gs ts f.len) (bufAddr s f.buf f.off) with
  | (true, s) => s
  | (false, s) => rxDone s uid

/-- HOST_RX_DELIVER: the oldest frame of a host receive queue (R148, R149, R179). -/
def execHostRxDeliver (tenant : TenantId) (sq : Fin 1048576) (s : State) : Host.Outcome State Fault Refusal :=
  let t := tenant.val
  let isIt (f : HostFrame) : Bool := decide (f.tenant = t ∧ f.sq = sq.val)
  match s.hostq.find? isIt with
  | none => .next s
  | some f =>
    let s' := { s with hostq := s.hostq.eraseP isIt }
    if !running s then .next s
    else if !rxQueueOk s t sq.val then .next (cadd (devFree s' f.buf) 4 t 4 1)
    else
      match oldestPost s sq.val with
      | none => .next s
      | some (uid, j) =>
        let n := f.len + if bitOf (dw (jobHead j) 8) 0 then 8 else 0
        if n > segBytes (segsOf j.ents) then .next (cadd (devFree s' f.buf) 4 t 5 1)
        else if !xferPossible s j.port then .next (finishJob (devFree s' f.buf) uid .noResource 0)
        else .next (rxFill s' uid j f)

/-! ### Rule-set commands (R189 to R192) -/

/-- A slot is ARMED (R185). -/
def rsArmed (s : State) (i : Nat) : Bool := s.armed.any fun a => decide (a.1 = .rs i)

/-- Change a slot; free it. -/
def modSlot (s : State) (i : Nat) (f : RsSlot → RsSlot) : State := modPa s fun p => { p with slots := mmod p.slots i f }
def freeSlot (s : State) (i : Nat) : State :=
  modPa s fun p => { p with slots := mdel p.slots i, bad := p.bad.filter fun x => decide (x.1 ≠ i) }

/-- TCAM entries not used by any slot (R188). -/
def tcamFree (s : State) : Nat := 65536 - s.pa.slots.foldl (fun n x => n + imRules x.2.img) 0

/-- RULESET_LOAD (R189): checks 1 to 3, then the slot is LOADING and the image is read. -/
def rulesetLoad (s : State) (p : Nat) (e : Entry) : State :=
  let h := dw e 1
  let any := hIdx h = 0xFFFFF
  if hKind h ≠ 8 ∨ hGen h ≠ 0 ∨ (hIdx h > 3 ∧ !any) ∨ dw e 4 % 64 ≠ 0 ∨ !dwZero e 7 15 then
    finishAdmin s p .invalidField 0
  else if !any ∧ (mget? s.pa.slots (hIdx h)).isSome then finishAdmin s p .inUse 0
  else
    match (if any then (List.range 4).find? fun i => (mget? s.pa.slots i).isNone else some (hIdx h)) with
    | none => finishAdmin s p .rulesetLimit 0
    | some i =>
      let s := advGen s 8 i
      let s := { s with cnt := mdel s.cnt (ckey 6 0 (8 + i)) }
      let s := modPa s fun c => { c with slots := mset c.slots i { st := .loading, want := dw e 6, port := p } }
      imageIssue (adminWait s p "image" i) p i

/-- RULESET_LOAD (R189). While the command waits for its read, it issues the read (R91). -/
def execRulesetLoad (port : HostPort) (s : State) : Host.Outcome State Fault Refusal :=
  .next (if running s ∧ ((hpOf s port.val).aq.wait.map (·.1)) = some "image" then imageResume s port.val
    else adminRun s port.val 0x28 fun s e => rulesetLoad s port.val e)

/-- A rule-set image has been read, or could not be: checks 4 and 5 (R185, R188 to R190). -/
def imageRead (s : State) (i : Nat) (data : HostData) : State :=
  match mget? s.pa.slots i with
  | none => s
  | some r =>
    if r.st ≠ .loading then s
    else
      match data with
      | .error => finishAdmin (freeSlot s i) r.port .hostReadError 0
      | .timeout => finishAdmin (freeSlot s i) r.port .hostReadTimeout 0
      | .ok b =>
        let im := b.take r.want
        match imFail im r.want with
        | some (o, c) => finishAdmin (freeSlot s i) r.port .invalidField (o + c * 2 ^ 32)
        | none =>
          if imRules im > tcamFree s then finishAdmin (freeSlot s i) r.port .noResource 0
          else
            let s := modSlot s i fun r => { r with st := .loaded, img := im }
            finishAdmin s r.port .success (rsHandle s i + tcamFree s * 2 ^ 32)

/-- RULESET_IMAGE_READ_END (R189). A read that times out ends with CPL_TIMEOUT. -/
def execRulesetImageReadEnd (slot : Fin 4) (data : HostData) (s : State) : Host.Outcome State Fault Refusal :=
  if running s ∧ data ≠ .timeout then .next (takeRead s (.image slot) fun s => imageRead s slot.val data) else .next s

/-- The ACTIVE slot becomes DRAINING (R185, R194). -/
def drainActive (s : State) : State :=
  match activeSlot s with
  | some i => modSlot s i fun r => { r with
      st := .draining, since := epochNo s, limit := rd s F.PA_RS_CFG_DRAIN_LIMIT }
  | none => s

/-- RULESET_ACTIVATE (R191). -/
def execRulesetActivate (port : HostPort) (s : State) : Host.Outcome State Fault Refusal :=
  .next (adminRun s port.val 0x29 fun s e =>
    let p := port.val
    let i := hIdx (dw e 1)
    let imm := bitOf (dw e 6) 0
    let others := (List.range 4).any fun k => k ≠ i && rsArmed s k
    let anyUp := (activeSlot s).isSome || (List.range 4).any fun k => rsArmed s k
    if dw e 6 / 2 ≠ 0 ∨ !dwZero e 7 15 ∨ (imm ∧ anyUp) then finishAdmin s p .invalidField 0
    else if ((mget? s.pa.slots i).map (·.st)) ≠ some .loaded ∨ rsArmed s i ∨ others then finishAdmin s p .inUse 0
    else if imm then finishAdmin (modSlot s i fun r => { r with st := .active }) p .success 0
    else
      let ns := dw2 e 4 * 2 ^ 20
      match armCheck s ns with
      | some st => finishAdmin s p st 0
      | none => finishAdmin { s with armed := s.armed ++ [(.rs i, ns)] } p .success 0)

/-- RULESET_RELEASE (R192). -/
def execRulesetRelease (port : HostPort) (s : State) : Host.Outcome State Fault Refusal :=
  .next (adminRun s port.val 0x2A fun s e =>
    let i := hIdx (dw e 1)
    if !dwZero e 4 15 then finishAdmin s port.val .invalidField 0
    else if ((mget? s.pa.slots i).map (·.st)) = some .loaded ∧ !rsArmed s i then
      finishAdmin (freeSlot s i) port.val .success 0
    else finishAdmin s port.val .inUse 0)

/-- The armed activation of a slot takes effect, if it is due (R185). -/
def rsEdge (s : State) (i : Nat) : State :=
  if armedDue s (.rs i) then
    let s := { s with armed := s.armed.filter fun a => decide (a.1 ≠ .rs i) }
    let s := modSlot (drainActive s) i fun r => { r with st := .active }
    raise s .paRsActivated (rsHandle s i)
  else s

/-- PA_RS_DRAIN_TIMEOUT: an epoch pulse found the slot DRAIN_LIMIT epochs in DRAINING, and the references that remain are
orphaned (R185). -/
def execPaRsDrainTimeout (slot : Fin 4) (s : State) : Host.Outcome State Fault Refusal :=
  let i := slot.val
  match mget? s.pa.slots i with
  | some r =>
    if r.st = .draining ∧ r.late then
      let g := some (i, gen s 8 i)
      let s := { s with pkts := mmap (fun _ k => if k.stamp = g then { k with ref := false } else k) s.pkts }
      .next (raise (modSlot s i fun r => { r with st := .retiring }) .paRsDrainTimeout (rsHandle s i))
    else .next s
  | none => .next s

/-- TCAM_SWEEP: the entries of resident sets that the sweep finds failing (R193). -/
def execTcamSweep (bad : List (Nat × Nat)) (s : State) : Host.Outcome State Fault Refusal :=
  .next (bad.foldl (fun s x =>
    match mget? s.pa.slots x.1 with
    | some r => if x.2 < imRules r.img then tcamFail s x.1 [x.2] else s
    | none => s) s)

/-- TCAM_ENTRY_REWRITE (R193). -/
def execTcamEntryRewrite (slot : Fin 4) (rule : Fin 65536) (s : State) : Host.Outcome State Fault Refusal :=
  .next (modPa s fun p => { p with bad := p.bad.filter fun x => decide (x ≠ (slot.val, rule.val)) })

end Sys2Proof.Machine
end

