-- ==== Sys2Proof/Machine/Channel.lean ====
section
/-! DEFINITION. Channel messages: POST with its checks (R262, R288), and the messages that place a frame, recirculate it
or complete a CORE_JOB (R289 to R291). The messages of the transport engine, the storage engine and Carters are taken in
their own files. -/
namespace Sys2Proof.Machine

/-! ### A message's words -/

/-- DEST, TYPE, REPLY and TAG of a message header (R288). -/
def msgDest (w0 : Nat) : Nat := bitsOf w0 63 56
def msgType (w0 : Nat) : Nat := bitsOf w0 55 48
def msgReply (w0 : Nat) : Bool := bitOf w0 47
def msgTag (w0 : Nat) : Nat := bitsOf w0 31 0

/-- Word k of a message. -/
def Msg.w (m : Msg) (k : Nat) : Nat := m.words.getD k 0

/-- BUF and LEN of W1, in the place they have in every message that names a buffer. -/
def Msg.buf (m : Msg) : Nat := bitsOf (m.w 1) 63 32
def Msg.len (m : Msg) : Nat := bitsOf (m.w 1) 23 0

/-- The CORE_JOB job that a QM message names (R291). -/
def qmJob (s : State) (sq buf : Nat) : Option (Nat × Job) :=
  s.jobs.find? fun j => decide (j.2.op = 0x86 ∧ mkHandle 1 j.2.sqGen j.2.sq = sq ∧ j.2.bufs = [buf])

/-- Words a to 7 of a message are zero. -/
def msgZero (m : Msg) (a : Nat) : Bool := (List.range (8 - a)).all fun i => decide (m.w (a + i) = 0)

/-- A frame's range lies in its buffer. -/
def msgFits (m : Msg) (off : Nat) : Bool := decide (off + m.len ≤ poolSize (bPool m.buf))

/-- A staging buffer awaits XTS (R382, R386). The storage engine's ring entries carry SRC_HOST and its requester. -/
def xtsWaits (s : State) (h : Nat) : Bool := s.sx.cmds.any fun c => decide (c.2.buf = some h) && c.2.xts

/-- The checks of a message's own table, and that the core holds the buffers it names (R288 to R291, R314, R386,
R398). -/
def msgOk (s : State) (m : Msg) : Bool :=
  let w0 := m.w 0
  let held := holds s m.core m.buf
  decide (bitsOf w0 46 32 = 0) &&
  match msgDest w0, msgType w0, msgReply w0 with
  | 0x01, 0, false =>
    held && decide (bitsOf (m.w 2) 23 0 < m.len) && msgFits m 0 && msgZero m 3
  | 0x02, 0, false =>
    let a := m.w 2
    let net := actKind a = 0 ∧ actTarget a < 32
    held && actOk a && decide (¬(actKind a = 0 ∧ 2 ^ 31 ≤ actTarget a)) && decide ((if net then 60 else 14) ≤ m.len) &&
    decide (m.len ≤ 16383) && msgFits m (bitsOf (m.w 3) 23 0) && msgZero m 4
  | 0x03, 0, false => (qmJob s m.buf (bitsOf (m.w 3) 31 0)).isSome && msgZero m 4
  | 0x04, 0x01, _ => held && msgZero m 4
  | 0x04, 0x02, _ => held && msgZero m 4
  | 0x04, 0x03, _ => held && decide (1 ≤ m.len ∧ m.len ≤ 65536) && msgZero m 4
  | 0x04, 0x04, true => decide (m.w 1 = 0) && msgZero m 3
  | 0x05, 0x01, _ => held && xtsWaits s m.buf && decide (m.w 2 = 0) && msgZero m 4
  | 0x05, 0x02, _ => held && msgZero m 3
  | 0x06, 0x01, true | 0x06, 0x02, true =>
    held && decide (1 ≤ m.len) && msgFits m (bitsOf (m.w 3) 23 0) &&
    decide (m.w 3 / 2 ^ 32 = 0 ∨ bitsOf (m.w 4) 2 0 = 0) && msgZero m 5
  | _, _, _ => false

/-- The message takes its buffer: it becomes HANDED and leaves the held-buffer table (R230, R265). -/
def msgHands (m : Msg) : Bool :=
  match msgDest (m.w 0), msgType (m.w 0) with
  | 0x01, _ | 0x02, _ | 0x05, _ => true
  | 0x04, t => decide (t ≠ 4)
  | _, _ => false

/-- Reply record of a DEST (R287). -/
def msgRec (dest : Nat) : Nat := dest - 1

/-- POST: the message goes whole to its unit, or waits for credit or for an earlier reply; a malformed one faults CHANNEL.
Under STEP with no credit, STEP_WAIT (R262, R288, R472). -/
def execPost (core : CoreId) (thread : ThreadId) (credit : Bool) (s : State) : Host.Outcome State Fault Refusal :=
  let c := core.val
  let t := thread.val
  .next (issue s c t .post fun s th _ =>
    let m : Msg := { core := c, thread := t, words := (List.range 8).map fun k => (mget 0 th.slot k).toNat }
    let w0 := m.w 0
    let u := msgRec (msgDest w0)
    if !msgOk s m then .fault 8
    else if msgReply w0 ∧ (mget? th.chOut u).isSome then .hold
    else if !credit then
      if th.stepping then
        let s := { s with dbg := { s.dbg with stepRes := 10 } }
        .wait (putThr s c t { th with st := .halted, prev := .running, stepping := false })
      else .wait (putThr s c t { th with postWait := true, wd := some (th.wd.getD (wdClock s)) })
    else
      let s := if msgHands m then bufHand (unhold s (c / 12) m.buf) m.buf else s
      let s := if msgReply w0 then clearDone s c t u else s
      let th := { th with
        slot := [], postWait := false, chOut := if msgReply w0 then mset th.chOut u (msgTag w0) else th.chOut }
      .done (pmc { nextHeld s c t th with msgs := s.msgs ++ [m] } c t 13 1) [])

/-! ### Taking and answering messages -/

/-- The oldest message of a thread for a DEST and TYPE, taken by its unit. -/
def msgTake (s : State) (c t dest typ : Nat) : Option (Msg × State) :=
  let isIt (m : Msg) : Bool :=
    decide (m.core = c ∧ m.thread = t ∧ msgDest (m.w 0) = dest ∧ msgType (m.w 0) = typ)
  match s.msgs.find? isIt with
  | some m => if running s then some (m, { s with msgs := s.msgs.eraseP isIt }) else none
  | none => none

/-- Write the reply record of a reply-requesting message (R287); a thread that has restarted since awaits none. -/
def chReply (s : State) (c t u tag : Nat) (st : Status) (ds : List Nat) : State :=
  if mget? (thrOf s c t).chOut u = some tag then
    replyRec (modThr s c t fun th => { th with chOut := mdel th.chOut u }) c t u st tag ds
  else s

/-- Answer a message when it asked for a reply. -/
def msgAnswer (s : State) (m : Msg) (st : Status) (ds : List Nat) : State :=
  if msgReply (m.w 0) then chReply s m.core m.thread (msgRec (msgDest (m.w 0))) (msgTag (m.w 0)) st ds else s

/-- Run a message row. -/
def msgRun (s : State) (core : CoreId) (thread : ThreadId) (dest typ : Nat) (body : State → Msg → State) : State :=
  match msgTake s core.val thread.val dest typ with
  | some (m, s) => body s m
  | none => s

/-- ENQUEUE: the frame is placed by its action (R289). -/
def execEnqueue (core : CoreId) (thread : ThreadId) (s : State) : Host.Outcome State Fault Refusal :=
  .next (msgRun s core thread 0x02 0 fun s m =>
    let act := m.w 2
    let k := mget {} s.pkts m.buf
    let a : Arr := {
      buf := some m.buf, off := bitsOf (m.w 3) 23 0, len := m.len, srcHost := k.srcHost, src := k.src, time := k.time,
      stamp := k.stamp, pass := k.pass, colour := actColour act, cls := actClass act, pipe := 8 + m.core / 12
      tag := if bitOf (m.w 3) 49 then some (b2n (bitOf (m.w 3) 48), bitsOf (m.w 3) 47 32) else none }
    if actKind act = 2 then
      ringArrive (bufBack s m.buf (ringCore s (actTarget act % 4096) / 12)) (actTarget act % 4096) { frameDesc s m.buf m.len 0 a.colour a.cls 0 with kind := 0 }
    else place s a act)

/-- RECIRC: the packet goes through an ingress pipe again (R182, R290). -/
def execRecirc (core : CoreId) (thread : ThreadId) (upset : Upset) (s : State) : Host.Outcome State Fault Refusal :=
  .next (msgRun s core thread 0x01 0 fun s m =>
    recirc s m.buf m.len (bitsOf (m.w 2) 23 0) (bitsOf (m.w 2) 31 24) (bitsOf (m.w 2) 38 32) upset)

/-- The status a CORE_JOB completes with: SUCCESS and the codes used by "All", else none (R131, R259). -/
def coreJobStatus (code : Nat) : Option Status :=
  [Status.success, .invalidField, .invalidHandle, .staleHandle, .noResource, .inUse].find? (statusCode · = code)

/-- CORE_JOB_COMPLETION: the job that the message names finishes, and its buffer, unless it has been placed, is freed
(R259, R291). -/
def execCoreJobCompletion (core : CoreId) (thread : ThreadId) (s : State) : Host.Outcome State Fault Refusal :=
  .next (msgRun s core thread 0x03 0 fun s m =>
    let h := bitsOf (m.w 3) 31 0
    match qmJob s m.buf h with
    | none => s
    | some (uid, _) =>
      let s := if s.cores.any fun k => k.2.held.any (·.1 = h) then
          devFree { s with cores := mmap (fun _ k => if k.held.any (·.1 = h) then k.drop h else k) s.cores } h
        else s
      match coreJobStatus (bitsOf (m.w 1) 7 0) with
      | some st => finishJob s uid st (m.w 2)
      | none =>
        finishJob (modCore s core.val fun k => { k with badCpl := satInc 65535 k.badCpl }) uid .invalidField (m.w 2))

end Sys2Proof.Machine
end

