-- ==== Sys2Proof/Machine/StorageBase.lean ====
section
/-! DEFINITION. What the storage engine shares with the transport engine: attachments, commands and their ends
(19_storage.md). -/
namespace Sys2Proof.Machine

/-- Change the storage engine, an attachment, a command. -/
def modSx (s : State) (f : Sx → Sx) : State := { s with sx := f s.sx }
def modAtt (s : State) (a : Nat) (f : Att → Att) : State := modSx s fun x => { x with atts := mmod x.atts a f }
def modCmd (s : State) (uid : Nat) (f : SxCmd → SxCmd) : State := modSx s fun x => { x with cmds := mmod x.cmds uid f }

/-- Commands of an attachment, oldest first. -/
def cmdsOf (s : State) (a : Nat) : List (Nat × SxCmd) := s.sx.cmds.filter fun c => decide (c.2.att = a)

/-- A storage command's job completes, and its staging buffer is freed (R381). -/
def cmdEnd (s : State) (uid : Nat) (st : Status) (result : Nat) : State :=
  match mget? s.sx.cmds uid with
  | none => s
  | some c =>
    let s := (xfersOf s fun k => decide (k = .stor uid)).foldl withdraw s
    let s := modSx s fun x => { x with cmds := mdel x.cmds uid }
    let s := match c.buf with | some b => devFree s b | none => s
    finishJob s uid st result

/-- What the engine was receiving on a connection goes; with `posted`, its posted receive buffers too (R376, R379). -/
def sxDropRx (s : State) (i : Nat) (posted : Bool) : State :=
  match mget? s.conns i with
  | none => s
  | some c =>
    let mine := c.msgs.filter fun m => decide (m.uid = 0)
    let s := (mine.filterMap (·.buf) ++ (if posted then c.srx else [])).foldl devFree s
    { s with conns := mmod s.conns i fun c => { c with
      msgs := c.msgs.filter fun m => decide (m.uid ≠ 0), srx := if posted then [] else c.srx } }

/-- Field of an attach record: n bytes from offset o, least significant first (R374). -/
def rcdN (t : Att) (o n : Nat) : Nat := leAt t.rcd o n

/-- The attachment carries its commands over MFT (R374, R379); its connection. -/
def overMft (t : Att) : Bool := rcdN t 1 1 = 1
def attConn (t : Att) : Nat := hIdx (rcdN t 12 4)

/-- An attachment goes to FAILED; its commands complete with STORAGE_TIMEOUT and the REASON (R375). -/
def attFail (s : State) (a reason : Nat) : State :=
  let s := modAtt s a fun t => { t with
    st := .failed, reason := reason, since := s.clk, tcp := none, lateTags := [], row := 0, kaFrom := none }
  let s := match mget? s.sx.atts a with
    | some t => if overMft t then sxDropRx s (attConn t) true else s
    | none => s
  ((cmdsOf s a).filter fun c => decide (c.2.st ≠ .dead)).foldl
    (fun s c => cmdEnd s c.1 .storageTimeout (reason * 2 ^ 32)) s

end Sys2Proof.Machine
end

