-- ==== Sys2Proof/Machine/Transport.lean ====
section
/-! DEFINITION. Melzia Fabric Transport: packets on the wire, connections, messages, sequencing, acknowledgement,
retransmission, encryption (15_fabric_transport.md). Drover stands in Drover.lean. -/
namespace Sys2Proof.Machine

/-! ### Connections and their configuration -/

/-- Change a connection. -/
def modConn (s : State) (i : Nat) (f : Conn → Conn) : State := { s with conns := mmod s.conns i f }

/-- The node takes part in MFT; its ID (R294). -/
def tpOn (s : State) : Bool := rd s F.TP_NODE_EN = 1
def myNode (s : State) : Nat := rd s F.TP_NODE_NODE_ID

/-- The words that a connection takes over when it opens (R319). -/
def tpCfg (s : State) : List Nat :=
  [rget s F.TP_CFG_FWD_INST.off, rget s F.TP_OPEN_OPEN_TIMEOUT.off, rget s F.TP_RTO_RETRY_MAX.off,
   rget s F.TP_RNR_RNR_WAIT.off, rget s F.TP_SRC_MAC_LO_MAC_LO.off, rget s F.TP_SRC_MAC_HI_MAC_HI.off] ++
  (List.range 32).flatMap fun p =>
    [rget s (F.TP_NH_MAC_LO_MAC_LO.off + 8 * p), rget s (F.TP_NH_MAC_HI_MAC_HI.off + 8 * p)]

/-- A field of those words. -/
def cfgF (g : List Nat) (k hi lo : Nat) : Nat := bitsOf (g.getD k 0) hi lo

/-- FWD_INST, SEAL_RING, ACK_CLASS; the source MAC and the next-hop MAC of a port. -/
def cfgInst (g : List Nat) : Nat := cfgF g 0 31 20
def cfgSealRing (g : List Nat) : Nat := cfgF g 0 19 8
def cfgAckClass (g : List Nat) : Nat := cfgF g 0 7 5
def cfgMac (g : List Nat) : Nat := cfgF g 4 31 0 + cfgF g 5 15 0 * 2 ^ 32
def cfgNh (g : List Nat) (p : Nat) : Nat := cfgF g (6 + 2 * p) 31 0 + cfgF g (7 + 2 * p) 15 0 * 2 ^ 32

/-- The address of a node (R294). -/
def nodeAddr (s : State) (n : Nat) : Nat :=
  rget s F.TP_PREFIX_PREFIX.off * 2 ^ 96 + rget s (F.TP_PREFIX_PREFIX.off + 4) * 2 ^ 64 +
    rget s (F.TP_PREFIX_PREFIX.off + 8) * 2 ^ 32 + rd s F.TP_PREFIX_3_PREFIX * 65536 + n

/-- GL_VERSIONS.MFT_MAX at the likeness level (R447). -/
def mftMax (s : State) : Nat := if level s = 1 then 2 else 3

/-- Paths, SACK bits and the delay signal of a wire version (R299). -/
def pathsOf (c : Conn) : Nat := if c.version < 3 then min c.paths 8 else c.paths
def sackBits (c : Conn) : Nat := if c.version < 2 then 64 else 256

/-- a - b modulo 2^32. -/
def psnSub (a b : Nat) : Nat := (a + 2 ^ 32 - b % 2 ^ 32) % 2 ^ 32

/-! ### Packets (R295 to R298) -/

/-- The MFT header (R297). -/
structure MftHdr where
  ver : Nat := 0
  typ : Nat
  first : Bool := false
  last : Bool := false
  enc : Bool := false
  ftq : Bool := false
  rnr : Bool := false
  path : Nat := 0
  cls : Nat
  dstNode : Nat
  dstConn : Nat := 0
  psn : Nat := 0
  msn : Nat := 0
  ts : Nat := 0
  key : Nat := 0
  msgLen : Nat := 0
  imm : Nat := 0
  deriving DecidableEq, Repr

/-- Its 40 bytes (R297). -/
def mftBytes (s : State) (h : MftHdr) : List Byte :=
  beBytes 1 (h.ver * 16 + h.typ) ++
  beBytes 1 (b2n h.first * 128 + b2n h.last * 64 + b2n h.enc * 32 + b2n h.ftq * 16 + b2n h.rnr * 8) ++
  beBytes 1 (h.path * 8 + h.cls) ++ beBytes 1 0 ++ beBytes 2 (myNode s) ++ beBytes 2 h.dstNode ++ beBytes 4 h.dstConn ++
  beBytes 4 h.psn ++ beBytes 3 h.msn ++ beBytes 1 0 ++ beBytes 8 h.ts ++ beBytes 4 h.key ++ beBytes 4 h.msgLen ++
  beBytes 4 h.imm

/-- An Ethernet header to an IPv4 or IPv6 packet (R295, R378). -/
def ethHdr (g : List Nat) (p : Nat) (typ : Nat) : List Byte :=
  beBytes 6 (cfgNh g p) ++ beBytes 6 (cfgMac g) ++ beBytes 2 typ

/-- An IPv6 header; Traffic Class, Flow Label and Hop Limit are not given by the spec (log entry 3). -/
def ip6Hdr (src dst next len : Nat) : List Byte :=
  beBytes 4 (6 * 2 ^ 28 + Config.ip6Class.toNat) ++ beBytes 2 len ++ beBytes 1 next ++ beBytes 1 Config.hopLimit.toNat ++
    beBytes 16 src ++ beBytes 16 dst

/-- The checksum of UDP or TCP over IPv6 (PRESUMED, log entry 23). -/
def ip6Sum (src dst next : Nat) (b : List Byte) : Nat :=
  65535 - foldSum (onesSum (beBytes 16 src ++ beBytes 16 dst ++ beBytes 4 b.length ++ beBytes 4 next) (onesSum b 0))

/-- UDP source port of a path (R296). -/
def pathPort (salt path : Nat) : Nat := 49152 + (salt + 509 * path) % 16384

/-- An MFT packet as a frame, without its FCS; a sealed one leaves room for its tag in the lengths (R295, R297). -/
def mftFrame (s : State) (g : List Nat) (p salt : Nat) (h : MftHdr) (body : List Byte) : List Byte :=
  let m := mftBytes s h ++ body
  let tag := if h.enc ∧ h.typ ∉ [2, 3, 4] then 16 else 0
  let n := 8 + m.length + tag
  let src := nodeAddr s (myNode s)
  let dst := nodeAddr s h.dstNode
  let udp (sum : Nat) : List Byte :=
    beBytes 2 (pathPort salt h.path) ++ beBytes 2 (rd s F.TP_UDP_PORT) ++ beBytes 2 n ++ beBytes 2 sum
  let sum := ip6Sum src dst 17 (udp 0 ++ m)
  ethHdr g p 0x86DD ++ ip6Hdr src dst 17 n ++ udp (if sum = 0 then 65535 else sum) ++ m

/-- Bytes before the MFT header in a frame, and before the body. -/
def mftOff : Nat := 62
def bodyOff : Nat := 102

/-- The egress port of a packet to a node (R295). -/
def mftRoute (s : State) (g : List Nat) (node : Nat) : Option Nat × State :=
  portFor s (cfgInst g) true (nodeAddr s node)

/-- No network port leads to a node (R295). -/
def noRoute (s : State) : State := raiseOnce (cadd s 11 0 11 1) .tpNoRoute 0

/-- A frame whose bytes the engine holds enters a class queue; it is always admitted (R322). -/
def sendFrame (s : State) (p cls : Nat) (b : List Byte) : State :=
  egEnqueue s p cls { hdr := b, len := b.length, own := false }

/-- Place a packet in the seal ring: a buffer with the sideband and the frame (R313). -/
def toSeal (s : State) (c : Conn) (h : MftHdr) (f : List Byte) : Option Nat × State :=
  match allocWork s reqTp (32 + f.length) with
  | (.error _, s) => (none, s)
  | (.ok b, s) =>
    let side := leBytes 4 c.key ++ beBytes 2 (myNode s) ++ beBytes 2 h.dstNode ++ beBytes 4 h.dstConn ++ beBytes 4 h.psn
    let s := storeWrite s (bufAddr s b 0) (side ++ f)
    let s := ringArrive s (cfgSealRing c.cfg) {
      buf := b, len := 16 + f.length, kind := 1, srcHost := true, src := c.tenant, cls := c.cls } true
    (if (mget? s.coop.bufs b).isSome then some b else none, s)

/-- Send an ACK or control packet of a connection at once, or have it sealed (R308, R313). -/
def ctlSend (s : State) (i : Nat) (c : Conn) (h : MftHdr) (body : List Byte) : State :=
  let h := { h with cls := c.cls, dstNode := c.node, enc := decide (c.key ≠ 0) }
  match mftRoute s c.cfg c.node with
  | (none, s) => noRoute s
  | (some p, s) =>
    let s := modConn s i fun c => { c with port := some p }
    let f := mftFrame s c.cfg p c.salt h body
    if c.key ≠ 0 ∧ (h.typ = 1 ∨ h.typ = 5) then
      match toSeal s c h f with
      | (some b, s) =>
        let k : SealCtl := { buf := b, conn := i, gen := gen s 7 i, cls := cfgAckClass c.cfg, port := p }
        { s with seals := s.seals ++ [k] }
      | (none, s) => s
    else sendFrame s p (cfgAckClass c.cfg) f

/-- A control body (R298). -/
def ctlBody (s : State) (i : Nat) (c : Conn) (lo hi reason : Nat) : List Byte :=
  beBytes 1 (hi * 16 + lo) ++ beBytes 1 (rd s F.TP_PAYLOAD_PAYLOAD / 64) ++ beBytes 2 0 ++
  beBytes 3 (c.tenant * 4096 + c.peerTenant) ++ beBytes 1 0 ++ beBytes 4 i ++ beBytes 4 c.isn ++ beBytes 4 c.key ++
  beBytes 1 reason ++ List.replicate 11 0

/-- The short timestamp a packet carries when it is released at a count (R297, R299). -/
def txTs (s : State) (c : Conn) (count : Nat) : Nat := if c.version = 1 then 0 else shortTsOf (ftQuality s) count
def ftqOf (s : State) (c : Conn) : Bool := decide (s.ft.st = .locked) && decide (c.version ≠ 1)

/-- OPEN, ACCEPT, REJECT and CLOSE of a connection (R298, R302, R303). -/
def sendOpen (s : State) (i : Nat) : State :=
  match mget? s.conns i with
  | some c =>
    let s := ctlSend s i c { typ := 2, cls := 0, dstNode := 0, ts := shortTs s, ftq := decide (s.ft.st = .locked) }
      (ctlBody s i c c.verMin (min c.verMax (mftMax s)) 0)
    modConn s i fun c => { c with lastOpen := s.clk }
  | none => s
def sendAccept (s : State) (i : Nat) : State :=
  match mget? s.conns i with
  | some c =>
    ctlSend s i c {
      typ := 3, cls := 0, dstNode := 0, dstConn := c.peerConn, ts := txTs s c s.ft.count, ftq := ftqOf s c
      key := if c.key = 0 then 0 else c.peerKey }
      (ctlBody s i c c.version c.version 0)
  | none => s
def sendReject (s : State) (i reason dst key : Nat) : State :=
  match mget? s.conns i with
  | some c =>
    ctlSend s i c {
      typ := 4, cls := 0, dstNode := 0, dstConn := dst, ts := shortTs s, ftq := decide (s.ft.st = .locked)
      key := if c.key = 0 then 0 else key }
      (ctlBody s i c c.verMin (min c.verMax (mftMax s)) reason)
  | none => s
def sendClose (s : State) (i : Nat) (c : Conn) (reason : Nat) : State :=
  ctlSend s i c {
    ver := c.version, typ := 5, cls := 0, dstNode := 0, dstConn := c.peerConn, ts := txTs s c s.ft.count,
    ftq := ftqOf s c, key := c.peerKey } (ctlBody s i c c.verMin (min c.verMax (mftMax s)) reason)

/-! ### Copies (R304, R309) -/

/-- The last frame among some that sends from a copy becomes its owner. -/
def ownLast (b : Nat) : List EFrame → List EFrame
  | [] => []
  | f :: t => if f.buf = b ∧ !f.own ∧ !t.any (fun g => decide (g.buf = b)) then { f with own := true } :: t
    else f :: ownLast b t

/-- A retransmit copy is free: it is freed now, or by the last frame that still sends from it. -/
def copyFree (s : State) (b : Nat) : State :=
  let uses (f : EFrame) : Bool := decide (f.buf = b ∧ f.len > f.hdr.length) && !f.own
  let port := s.eg.find? fun e =>
    e.2.cls.any (fun k => k.2.q.any uses) || (e.2.run.toList ++ e.2.runP.toList).any fun r => uses r.f
  match port with
  | none => devFree s b
  | some (p, e) =>
    match e.cls.find? fun k => k.2.q.any uses with
    | some (c, _) => modCls s p c fun k => { k with q := ownLast b k.q }
    | none => modEg s p fun e => { e with
        run := e.run.map fun r => if uses r.f then { r with f := { r.f with own := true } } else r
        runP := e.runP.map fun r => if uses r.f then { r with f := { r.f with own := true } } else r }

/-- The copies of a connection's packets and messages. -/
def copiesOf (c : Conn) : List Nat :=
  (((c.tx.filter fun k => !k.acked).map (·.buf)) ++ (c.sends.filter fun d => !d.cut).flatMap (·.bufs)).eraseDups

/-- Buffers of a connection's packets with the flow cores or back from them. -/
def sealBufs (c : Conn) : List Nat :=
  c.tx.filterMap fun k => match k.sealed with | .done _ b _ _ => some b | _ => none

/-! ### Ends of messages and connections (R303, R304) -/

/-- A send ends with a status. -/
def sendEnd (s : State) (d : Snd) (st : Status) : State :=
  match d.who with
  | .job uid => finishJob (withdrawJob s uid) uid st (if st = .success then d.msn else 0)
  | .core c t (some tag) => chReply s c t 3 tag st [if st = .success then d.msn else 0]
  | _ => s

/-- Every send and receive of a connection ends with a status, or is discarded without a completion; buffers return. -/
def connClear (s : State) (i : Nat) (c : Conn) (st : Option Status) : State :=
  let s := (copiesOf c ++ sealBufs c ++ (c.held ++ c.rxq).map (·.buf)).foldl copyFree s
  let s := (c.msgs.filterMap (·.buf) ++ c.srx).foldl devFree s
  let s := modConn s i fun c => { c with
    sends := [], tx := [], held := [], rxq := [], msgs := [], posts := [], srx := [], timer := none, rnrTill := none, tNext := none,
    waitStart := false, ackFrom := none }
  let s := c.sends.foldl (fun s d =>
    match st with
    | some st => sendEnd s d st
    | none => match d.who with | .job uid => dropJob s uid | _ => sendEnd s d .mftPeerUnreachable) s
  ((c.msgs.map (·.uid)) ++ c.posts).foldl (fun s u =>
    match st with
    | some st => finishJob (withdrawJob s u) u st 0
    | none => dropJob s u) s

/-- A connection becomes FAILED (R303): its jobs end with a status. One that is CLOSING goes on to be freed. -/
def connFail (s : State) (i : Nat) (why : Status) : State :=
  match mget? s.conns i with
  | none => s
  | some c =>
    let s := modConn s i fun c => { c with st := if c.st = .closing then .closing else .failed, why := why }
    let s := cadd (connClear s i c (some why)) 11 0 13 1
    if c.att = 0 then s else attFail s (c.att - 1) 3

/-- The first 64 ns boundary after this PCLK, as a count (R316). -/
def nextSlot (s : State) : Nat := (s.ft.count / (64 * 65536) + 1) * (64 * 65536)

/-- A connection is freed: its generation advances (R303). Sealed packets of it that wait for release still go (R316). -/
def connFree (s : State) (i : Nat) (c : Conn) (st : Option Status) : State :=
  let s := connClear s i c st
  let left := ((mget? s.conns i).map (·.ctl)).getD []
  let s := { s with seals := s.seals ++ left.map (fun k : SealCtl => { k with rel := some (nextSlot s) }) }
  let s := advGen { s with conns := mdel s.conns i } 7 i
  if c.att = 0 then s else attFail s (c.att - 1) 3

/-- The adapter gives up an OPEN connection (R303). -/
def connGiveUp (s : State) (i : Nat) : State :=
  match mget? s.conns i with
  | some c => raise (connFail (sendClose s i c 5) i .mftPeerUnreachable) .tpConnFailed (connHandle s i)
  | none => s

/-- A packet of an OPEN or CLOSING connection could not be sealed: CLOSE with REASON 5, and the connection is FAILED
(R314). -/
def sealFail (s : State) (i : Nat) : State :=
  match mget? s.conns i with
  | some c => if c.st = .open_ ∨ c.st = .closing then connFail (sendClose s i c 5) i .mftPeerUnreachable else s
  | none => s

/-! ### Sending (R304, R307, R311, R313) -/

/-- The base interval in epochs (R315), as of the connection's last update (R319). -/
def baseSpan (c : Conn) : Nat := 2 ^ c.drv.2

/-- TARGET and BASE_LOG2 as they stand, taken over at an update (R317, R319). -/
def drvNow (s : State) : Nat × Nat := (rd s F.TP_DROVER_0_TARGET, rd s F.TP_DROVER_0_BASE_LOG2)

/-- Bytes of a full frame of the connection, its tag and FCS included (R297). -/
def fullFrame (c : Conn) : Nat := bodyOff + c.payload + (if c.key = 0 then 0 else 16) + 4

/-- Window in bytes: R x (RTT_base + TARGET), at least two frames (R317). Where the base interval has no sample, the last
ones stand (log entry 51). -/
def windowOf (s : State) (c : Conn) : Nat :=
  let now := c.rtts.filter fun x => decide (epochNo s < x.1 + baseSpan c)
  let base := ((if now = [] then c.rtts else now).foldl
    (fun (m : Option Nat) x => some (match m with | some y => min y x.2 | none => x.2)) none).getD 0
  max (c.rate * (base + c.drv.1) / 8000) (2 * fullFrame c)

/-- Bytes sent and not acknowledged. -/
def outBytes (c : Conn) : Nat :=
  c.tx.foldl (fun n k => if k.ord ≠ 0 ∧ !k.acked then n + k.len else n) 0

/-- The oldest PSN not acknowledged. -/
def oldestPsn (c : Conn) : Nat := match c.tx.find? fun k => !k.acked with | some k => k.psn | none => c.sndNxt

/-- A packet may go next: the connection sends, the packet lies within 4,096 of the oldest, and a new one lies within the
window (R307). -/
def inWindow (s : State) (c : Conn) (k : TxPkt) : Bool :=
  decide (c.st = .open_ ∨ c.st = .closing) && c.rnrTill.isNone && decide (psnSub k.psn (oldestPsn c) < 4096) &&
  (decide (k.ord ≠ 0) || decide (outBytes c + k.len ≤ windowOf s c))

/-- The packet needs no sealing, is back from it, or has no way to go. -/
def sealReady (c : Conn) (k : TxPkt) : Bool :=
  decide (c.key = 0) || (match k.sealed with | .done _ _ _ _ | .nowhere => true | _ => false)

/-- The next packet to release: a lost one before new ones (R309). -/
def nextPkt (s : State) (c : Conn) : Option TxPkt :=
  let k := match c.tx.find? fun k => k.lost && sealReady c k with
    | some k => some k
    | none => c.tx.find? fun k => decide (k.ord = 0) && sealReady c k
  k.bind fun k => if inWindow s c k then some k else none

/-- The next path that is not suspended, and the one after it (R311). -/
def pickPath (c : Conn) : Nat × Nat :=
  let n := max 1 (pathsOf c)
  let p := (((List.range n).map fun k => (c.nextPath + k) % n).find? fun p => !c.susp.any (·.1 = p)).getD
    (c.nextPath % n)
  (p, (p + 1) % n)

/-- Change a packet of a connection. -/
def modPkt (c : Conn) (psn : Nat) (f : TxPkt → TxPkt) : Conn :=
  { c with tx := c.tx.map fun k => if k.psn = psn then f k else k }

/-- Header of a DATA packet (R297). -/
def dataHdr (s : State) (c : Conn) (k : TxPkt) (path : Nat) (count : Nat) (ftq : Bool) : MftHdr :=
  { ver := c.version, typ := 0, first := k.first, last := k.last, enc := decide (c.key ≠ 0), ftq := ftq, path := path,
    cls := c.cls, dstNode := c.node, dstConn := c.peerConn, psn := k.psn, msn := k.msn, ts := txTs s c count,
    key := c.peerKey, msgLen := if k.first then k.msgLen else 0, imm := if k.first then k.imm else 0 }

/-- Bytes of a packet's copy. -/
def pktBody (s : State) (k : TxPkt) : List Byte := storeRead s (bufAddr s k.buf k.off) k.len

/-- The PSN lies 2^31 or more beyond ISN, where an encrypted connection sends nothing (R303). -/
def psnOver (c : Conn) (k : TxPkt) : Bool := decide (c.key ≠ 0 ∧ 2 ^ 31 ≤ psnSub k.psn c.isn)

/-- The next PSN of an encrypted connection would lie 2^31 beyond ISN: every earlier one has been sent (R303). -/
def psnEnd (c : Conn) : Bool := (c.tx.find? fun k => decide (k.ord = 0)).any (psnOver c)

/-- Send packets that may go soon to the seal ring: a buffer lost on the way is sent again (R313). One that no network port
leads away is not sealed, and is dropped when its turn to be released comes (R295). -/
def sealNext (s : State) (i : Nat) : State :=
  match mget? s.conns i with
  | none => s
  | some c0 =>
    if c0.key = 0 ∨ c0.st = .opening ∨ c0.st = .failed then s
    else
      let due := c0.tx.filter fun k => (decide (k.ord = 0) || k.lost) && decide (psnSub k.psn (oldestPsn c0) < 4096) &&
        !psnOver c0 k && (match k.sealed with
          | .plain => true
          | .sealing _ b => (mget? s.coop.bufs b).isNone
          | .done _ _ _ _ | .nowhere => false)
      due.foldl (fun s k =>
        match mget? s.conns i with
        | none => s
        | some c =>
          let (path, nx) := pickPath c
          match mftRoute s c.cfg c.node with
          | (none, s) => modConn s i fun c =>
              modPkt { c with nextPath := nx } k.psn fun k => { k with path := path, sealed := .nowhere }
          | (some p, s) =>
            let h := dataHdr s c k path s.ft.count (ftqOf s c)
            match toSeal (storeTouch s (bufAddr s k.buf k.off) k.len) c h (mftFrame s c.cfg p c.salt h (pktBody s k)) with
            | (some b, s) => modConn s i fun c =>
                modPkt { c with nextPath := nx } k.psn fun k => { k with path := path, sealed := .sealing p b }
            | (none, s) => s) s

/-- Length of a packet's frame in bits, its FCS included (R316). -/
def pktBits (c : Conn) (k : TxPkt) : Nat :=
  (match k.sealed with | .done _ _ _ n => n + 4 | _ => bodyOff + k.len + (if c.key = 0 then 0 else 16) + 4) * 8

/-- Transmission is unscheduled (R318). -/
def unscheduled (s : State) : Bool :=
  decide (s.ft.st = .holdover ∨ s.ft.st = .relock) && decide (rd s F.FT_HOLD_POLICY_MFT_DEMOTE = 1)

/-- Messages whose data is there become packets, in their order (R304, R307). -/
def cutSends (s : State) (i : Nat) : Nat → State
  | 0 => s
  | n + 1 =>
    match mget? s.conns i with
    | none => s
    | some c =>
      if (c.st ≠ .open_ ∧ c.st ≠ .closing) ∨ c.version = 0 then s
      else
        match c.sends.find? fun d => !d.cut with
        | none => s
        | some d =>
          if !d.ready then s
          else
            let k := max 1 (ceilDiv d.len c.payload)
            let pkt (j : Nat) : TxPkt := {
              psn := (c.sndNxt + j) % 2 ^ 32
              buf := if d.bufs.length = 1 then d.bufs.headD 0 else d.bufs.getD j 0
              off := if d.bufs.length = 1 then j * c.payload else 0
              len := min c.payload (d.len - j * c.payload), first := j == 0, last := j + 1 == k
              msn := c.msn, msgLen := d.len, imm := d.imm }
            let d' := { d with msn := c.msn, psn := c.sndNxt, pkts := k, cut := true }
            let s := modConn s i fun c => { c with
              sends := c.sends.map fun x => if x.who = d.who ∧ !x.cut then d' else x
              tx := c.tx ++ (List.range k).map pkt, sndNxt := (c.sndNxt + k) % 2 ^ 32, msn := (c.msn + 1) % 2 ^ 24 }
            cutSends s i n

/-- Length in bits of the packet that goes next: an ACK or CLOSE that is back from sealing, or a DATA packet (R313, R316). -/
def relBits (s : State) (c : Conn) : Option Nat :=
  match c.ctl with
  | k :: _ => some ((k.len + 4) * 8)
  | [] => (nextPkt s c).map (pktBits c)

/-- What a connection can do next is done: messages become packets, packets are sealed, and the next pacing instant is
computed once the previous packet has started (R313, R316). An encrypted connection whose next PSN would lie 2^31 beyond ISN
fails (R303). -/
def plan (s : State) (i : Nat) : State :=
  let s := sealNext (cutSends s i (match mget? s.conns i with | some c => c.sends.length | none => 0)) i
  match mget? s.conns i with
  | none => s
  | some c =>
    if (c.st = .open_ ∨ c.st = .closing) ∧ psnEnd c then connGiveUp s i
    else if c.tNext.isSome ∨ c.waitStart ∨ unscheduled s then s
    else
      match relBits s c with
      | none => s
      | some bits =>
        let gap := bits * 1000 * 65536 / max 1 c.rate
        modConn s i fun c => { c with tNext := some (max (c.tPrev + gap) (nextSlot s)) }

/-- TX_TS and FTQ of a sealed frame are those of its release (R313, R316). -/
def restamp (s : State) (b off ts : Nat) (ftq : Bool) : State :=
  let a := bufAddr s b (off + mftOff + 1)
  let f := beAt (storeRead s a 1) 0 1
  let s := storeWrite s a (beBytes 1 (f - 16 * b2n (bitOf f 4) + 16 * b2n ftq))
  storeWrite s (bufAddr s b (off + mftOff + 20)) (beBytes 8 ts)

/-- A sealed ACK or CLOSE enters its class queue (R313, R316). -/
def ctlOut (s : State) (k : SealCtl) (count : Nat) (ftq : Bool) : State :=
  egEnqueue (restamp s k.buf k.off (shortTsOf (ftQuality s) count) ftq) k.port k.cls {
    kind := .mft k.conn none, buf := k.buf, off := k.off, len := k.len }

/-- At the acting edge: packets back from sealing whose connection has ended (R303, R316). -/
def sealEdge (s : State) : State :=
  let due (k : SealCtl) : Bool := k.rel.any fun t => decide (t ≤ s.ft.count)
  if !running s then s
  else
    (s.seals.filter due).foldl (fun s k => egEnqueue
        (restamp s k.buf k.off (shortTsOf (ftQuality s) (k.rel.getD 0)) (decide (s.ft.st = .locked))) k.port k.cls {
          buf := k.buf, off := k.off, len := k.len })
      { s with seals := s.seals.filter fun k => !due k }

/-- Release a packet: it enters its class queue, always admitted, with TX_TS of the release (R295, R313, R316, R322). -/
def release (s : State) (i count : Nat) (ftq : Bool) : State :=
  match mget? s.conns i with
  | none => s
  | some c =>
    match c.ctl, nextPkt s c with
    | k :: rest, _ =>
      ctlOut (modConn s i fun c => { c with ctl := rest, tPrev := count, tNext := none, waitStart := true }) k count ftq
    | [], none => modConn s i fun c => { c with tNext := none }
    | [], some k =>
      let fresh := decide (k.ord = 0)
      let (path, nx) := if c.key = 0 then pickPath c else (k.path, c.nextPath)
      let s := cadd s 11 0 (if fresh then 0 else 2) 1
      let s := modConn s i fun c =>
        { modPkt c k.psn fun k => { k with
            path := path, ord := c.ord, at_ := count, lost := false, again := !fresh, after := 0, sealed := .plain } with
          ord := c.ord + 1, nextPath := nx, tPrev := count, tNext := none, waitStart := true
          timer := if c.timer.isSome then c.timer else some s.clk }
      let lost (s : State) : State := modConn s i fun c => { c with waitStart := false }
      match k.sealed with
      | .done p b off n =>
        let s := restamp s b off (txTs s c count) ftq
        let s := modConn s i fun c => { c with port := some p }
        egEnqueue s p c.cls { kind := .mft i (some k.psn), buf := b, off := off, len := n }
      | .nowhere => lost (noRoute s)
      | _ =>
        match mftRoute s c.cfg c.node with
        | (none, s) => lost (noRoute s)
        | (some p, s) =>
          let f := mftFrame s c.cfg p c.salt (dataHdr s c k path count ftq) (pktBody s k)
          let s := modConn s i fun c => { c with port := some p }
          egEnqueue s p c.cls {
            kind := .mft i (some k.psn), hdr := f.take bodyOff, buf := k.buf, off := k.off, len := f.length, own := false }

/-- Allocate the packet buffers of a message; a failure returns those already given (R225, R304). -/
def copyBufs (s : State) : List Nat → List Nat → Except Status (List Nat) × State
  | [], got => (.ok got, s)
  | n :: t, got =>
    match allocWork s reqTp n with
    | (.ok b, s) => copyBufs s t (got ++ [b])
    | (.error st, s) => (.error st, got.foldl devFree s)

/-- Sizes of the packets of a message. -/
def pktSizes (len payload : Nat) : List Nat :=
  (List.range (ceilDiv len payload)).map fun j => min payload (len - j * payload)

/-- Change a message of a connection that is not yet cut. -/
def modSnd (s : State) (i : Nat) (who : Sender) (f : Snd → Snd) : State :=
  modConn s i fun c => { c with sends := c.sends.map fun d => if d.who = who ∧ !d.cut then f d else d }

/-- A message leaves a connection before it is cut. -/
def delSnd (s : State) (i : Nat) (who : Sender) : State :=
  modConn s i fun c => { c with sends := c.sends.filter fun d => d.cut || decide (d.who ≠ who) }

/-- The data of a MFT_SEND job is in its copies, or could not be read (R304). -/
def sendRead (s : State) (uid : Nat) (err : Option Status) : State :=
  match s.conns.find? fun x => x.2.sends.any fun d => decide (d.who = .job uid) && !d.cut with
  | none => s
  | some (i, c) =>
    match err with
    | none => plan (modSnd s i (.job uid) fun d => { d with ready := true }) i
    | some st =>
      let bufs := (c.sends.filter fun d => decide (d.who = .job uid)).flatMap (·.bufs)
      plan (finishJob (bufs.foldl devFree (delSnd s i (.job uid))) uid st 0) i

/-- Carters read a message into packet buffers once its connection is OPEN (R304). -/
def startSend (s : State) (i : Nat) (d : Snd) : State :=
  match d.who, mget? s.conns i with
  | .job uid, some c =>
    match mget? s.jobs uid with
    | none => delSnd s i d.who
    | some j =>
      if !xferPossible s j.port then finishJob (delSnd s i d.who) uid .noResource 0
      else
        match copyBufs s (pktSizes d.len c.payload) [] with
        | (.error st, s) => finishJob (delSnd s i d.who) uid st 0
        | (.ok bufs, s) =>
          let s := modSnd s i d.who fun d => { d with bufs := bufs }
          let gs := segsOf j.ents
          let pasid := ownerPasid s j.owner
          let (s, ds) := (bufs.zipIdx).foldl (fun (a : State × List Desc) x =>
            (segCut gs (x.2 * c.payload) (min c.payload (d.len - x.2 * c.payload))).foldl
              (fun (y : State × List Desc × Nat) g =>
                let m := bufAddr y.1 x.1 y.2.2
                if g.inMere then (copySeg y.1 false g m, y.2.1, y.2.2 + g.len)
                else (y.1, y.2.1 ++ [mkDesc false g.addr m g.len pasid], y.2.2 + g.len))
              (a.1, a.2, 0) |> fun y => (y.1, y.2.1)) (s, [])
          if ds = [] then sendRead s uid none
          else startXfer s { jobXfer s j (.job uid) 1 with todo := ds }
  | _, _ => s

/-- Sends that waited for the connection to open (R304). -/
def startSends (s : State) (i : Nat) : State :=
  match mget? s.conns i with
  | some c => plan ((c.sends.filter fun d => !d.ready && d.bufs == []).foldl (fun s d => startSend s i d) s) i
  | none => s

/-- Add a message to a connection (R304). -/
def addSend (s : State) (i : Nat) (d : Snd) : State :=
  let s := modConn s i fun c => { c with sends := c.sends ++ [d] }
  match mget? s.conns i with
  | some c => if c.st ≠ .open_ then s else if d.ready then plan s i else plan (startSend s i d) i
  | none => s

/-! ### Receiving DATA (R305 to R308, R310) -/

/-- A packet of a message that has no receive buffer: neither begun nor among the next ones, for which buffers are posted
(R305, R310). -/
def waitsBuf (c : Conn) (k : RxPkt) : Bool :=
  let d := (k.msn + 2 ^ 24 - c.begun) % 2 ^ 24
  decide (d < 2 ^ 23 ∧ (if c.att = 0 then c.posts.length else c.srx.length) ≤ d)

/-- The bytes of complete and partial messages that wait for receive buffers exceed RX_HOLD (R310). -/
def rnrNow (c : Conn) : Bool :=
  decide (((c.rxq ++ c.held).filter (waitsBuf c)).foldl (fun n k => n + k.len) 0 > cfgF c.cfg 3 15 0 * 65536)

/-- Send an ACK on the path of the packet that triggered it (R298, R308, R310). -/
def sendAck (s : State) (i : Nat) : State :=
  match mget? s.conns i with
  | none => s
  | some c =>
    let rnr := rnrNow c
    let sack := c.held.foldl (fun n k =>
      let b := psnSub k.psn (c.cum + 1)
      if b < sackBits c then Nat.lor n (2 ^ b) else n) 0
    let body := beBytes 4 c.cum ++ beBytes 4 (if rnr then cfgF c.cfg 3 31 16 else 0) ++ beBytes 8 c.trig.2.1 ++
      beBytes 8 c.trig.2.2 ++ beBytes 32 sack ++ List.replicate 8 0
    let h : MftHdr := {
      ver := c.version, typ := 1, rnr := rnr, path := c.trig.1, cls := 0, dstNode := 0, dstConn := c.peerConn,
      ts := txTs s c s.ft.count, ftq := ftqOf s c, key := c.peerKey }
    let s := cadd (cadd s 11 0 6 1) 11 0 8 (b2n rnr)
    let s := modConn s i fun c => { c with ackCnt := 0, ackFrom := none, ackCfg := rget s F.TP_ACK_ACK_DELAY.off }
    ctlSend s i c h body

/-- Packets that have come into order move on, and CUM_PSN with them (R307). -/
def advance (c : Conn) : Nat → Conn
  | 0 => c
  | n + 1 =>
    match c.held.find? (·.psn = c.cum) with
    | some k =>
      advance { c with cum := (c.cum + 1) % 2 ^ 32, rxq := c.rxq ++ [k], held := c.held.filter (·.psn ≠ k.psn) } n
    | none => c

/-- The receive job's result (R305). -/
def recvDone (s : State) (i : Nat) (m : RxMsg) : State :=
  let s := modConn s i fun c => { c with msgs := c.msgs.filter (·.psn ≠ m.psn) }
  finishJob s m.uid .success (m.len + m.imm * 2 ^ 32)

/-- A packet of a message has been written to the host, or failed to be (R305, R395). -/
def packetWritten (s : State) (i uid buf len : Nat) (err : Option Status) : State :=
  let s := devFree s buf
  match (mget? s.conns i).bind fun c => c.msgs.find? fun m => decide (m.uid = uid) with
  | none => s
  | some m =>
    let m' := { m with toWrite := m.toWrite - len }
    let s := modConn s i fun c => { c with msgs := c.msgs.map fun x => if x.psn = m.psn then m' else x }
    match err with
    | some st => finishJob (withdrawJob s uid) uid st 0
    | none => if m'.left = 0 ∧ m'.toWrite = 0 then recvDone s i m' else s

/-- Write one packet of a message into the posted buffer (R305). -/
def writePkt (s : State) (i : Nat) (c : Conn) (m : RxMsg) (k : RxPkt) : State :=
  match mget? s.jobs m.uid with
  | none => packetWritten s i m.uid k.buf k.len none
  | some j =>
    let gs := segCut (segsOf j.ents) (psnSub k.psn m.psn * c.payload) k.len
    if !movePossible s j.port gs then packetWritten s i m.uid k.buf k.len (some .noResource)
    else match moveSegs s (jobXfer s j (.msg i m.uid k.psn k.buf k.len) 1) true gs (bufAddr s k.buf k.off) with
    | (true, s) => s
    | (false, s) => packetWritten s i m.uid k.buf k.len none

/-- The storage engine posts a receive buffer on the connection of an attachment where it has none there (R379, log entry
118). -/
def postRx (s : State) (i : Nat) : State :=
  match mget? s.conns i with
  | none => s
  | some c =>
    if c.att = 0 ∨ c.srx ≠ [] ∨ !(mget? s.sx.atts (c.att - 1)).any (fun t => decide (t.st ≠ .failed)) then s
    else
      match allocFrom s reqSx [5] with
      | (.ok b, s) => modConn (bufHand s b) i fun c => { c with srx := [b] }
      | (.error _, s) => s

/-- Hand packets in order to the posted buffers, or to the storage engine (R305, R306, R373). -/
def deliver (s : State) (i : Nat) : Nat → State
  | 0 => s
  | n + 1 =>
    match mget? s.conns i with
    | none => s
    | some c =>
      match c.rxq with
      | [] => s
      | k :: rest =>
        let pop (f : Conn → Conn) (s : State) : State := modConn s i fun c => f { c with rxq := rest }
        let cur := c.msgs.find? (fun m => decide (m.left ≠ 0))
        match cur with
        | some m =>
          if m.uid = 0 then
            let s := storeTouch s (bufAddr s k.buf k.off) k.len
            let s := match m.buf with
              | some b => storeWrite s (bufAddr s b (psnSub k.psn m.psn * c.payload)) (storeRead s (bufAddr s k.buf k.off) k.len)
              | none => s
            let m' := { m with left := m.left - k.len }
            let s := devFree (pop (fun c => { c with
              msgs := if m'.left = 0 then c.msgs.filter (·.psn ≠ m.psn)
                else c.msgs.map fun x => if x.psn = m.psn then m' else x }) s) k.buf
            let s := if m'.left = 0 then
                let b := match m.buf with | some b => storeRead s (bufAddr s b 0) m.len | none => []
                let s := { s with sx := { s.sx with inbox := s.sx.inbox ++ [(c.att - 1, m.imm, b)] } }
                postRx (match m.buf with | some b => devFree s b | none => s) i
              else s
            deliver s i n
          else
            let m' := { m with left := m.left - k.len }
            let s := pop (fun c => { c with msgs := c.msgs.map fun x => if x.psn = m.psn then m' else x }) s
            deliver (writePkt s i c m' k) i n
        | none =>
          let begin_ (s : State) (m : RxMsg) : State :=
            modConn s i fun c => { c with msgs := c.msgs ++ [m], begun := (k.msn + 1) % 2 ^ 24 }
          if !k.first ∨ k.msgLen = 0 then deliver (devFree (pop id s) k.buf) i n
          else if c.att ≠ 0 then
            match c.srx with
            | [] => s
            | b :: more =>
              let fits := decide (k.msgLen ≤ poolSize 5)
              let m : RxMsg := {
                uid := 0, psn := k.psn, len := k.msgLen, imm := k.imm, left := k.msgLen, toWrite := 0
                buf := if fits then some b else none }
              deliver (begin_ (modConn s i fun c => { c with srx := if fits then more else c.srx }) m) i n
          else
            match c.posts with
            | [] => s
            | u :: more =>
              match mget? s.jobs u with
              | none => deliver (modConn s i fun c => { c with posts := more }) i n
              | some j =>
                let s := modConn s i fun c => { c with posts := more }
                if k.msgLen > segBytes (segsOf j.ents) then deliver (finishJob s u .invalidField k.msgLen) i n
                else
                  let m : RxMsg := {
                    uid := u, psn := k.psn, len := k.msgLen, imm := k.imm, left := k.msgLen, toWrite := k.msgLen }
                  deliver (begin_ s m) i n

/-- Fuel for the delivery of what a connection holds. -/
def deliverAll (s : State) (i : Nat) : State :=
  let s := postRx s i
  match mget? s.conns i with
  | some c => deliver s i (2 * c.rxq.length + c.posts.length + 2)
  | none => s

/-- A received MFT packet, parsed (R297, R298). -/
structure RxHdr where
  h : MftHdr
  srcNode : Nat
  dstNode : Nat
  body : List Byte
  deriving DecidableEq, Repr

/-- Read an MFT packet from its header on. -/
def parseMft (b : List Byte) : RxHdr :=
  let f := beAt b 1 1
  { h := {
      ver := beAt b 0 1 / 16, typ := beAt b 0 1 % 16, first := bitOf f 7, last := bitOf f 6, enc := bitOf f 5,
      ftq := bitOf f 4, rnr := bitOf f 3, path := beAt b 2 1 / 8, cls := beAt b 2 1 % 8, dstNode := beAt b 6 2,
      dstConn := beAt b 8 4 % 2 ^ 20, psn := beAt b 12 4, msn := beAt b 16 3, ts := beAt b 20 8, key := beAt b 28 4,
      msgLen := beAt b 32 4, imm := beAt b 36 4 }
    srcNode := beAt b 4 2, dstNode := beAt b 6 2, body := b.drop 40 }

/-- The connection a DATA or ACK packet belongs to (R303). -/
def connFor (s : State) (x : RxHdr) : Option Conn :=
  match mget? s.conns x.h.dstConn with
  | some c =>
    if (c.st = .open_ ∨ c.st = .closing) ∧ c.node = x.srcNode ∧ x.dstNode = myNode s then some c
    else none
  | none => none

/-- A DATA packet (R307, R308, R310): whether its buffer is kept. -/
def dataRx (s : State) (i : Nat) (c : Conn) (x : RxHdr) (buf off rxTs : Nat) : Bool × State :=
  let s := cadd s 11 0 1 1
  let d := psnSub x.h.psn c.cum
  let note (c : Conn) : Conn := { c with trig := (x.h.path, x.h.ts, rxTs) }
  if d ≥ 2 ^ 31 ∨ c.held.any (·.psn = x.h.psn) then
    (false, sendAck (modConn (cadd s 11 0 3 1) i note) i)
  else if d ≥ 4096 then (false, s)
  else if rnrNow c then (false, sendAck (modConn s i note) i)
  else
    let k : RxPkt := {
      psn := x.h.psn, buf := buf, off := off, len := x.body.length, first := x.h.first, last := x.h.last, msn := x.h.msn,
      msgLen := x.h.msgLen, imm := x.h.imm }
    let s := setBuf s buf ⟨.handed, reqTp⟩
    let s := modConn s i fun c => advance (note { c with held := c.held ++ [k] }) 4096
    let s := modConn s i fun c => { c with
      ackCnt := c.ackCnt + 1, ackFrom := if c.ackFrom.isSome then c.ackFrom else some s.clk }
    let now := d ≠ 0 ∨ x.h.last ∨ c.ackCnt + 1 ≥ bitsOf c.ackCfg 23 16
    let s := deliverAll s i
    (true, if now then sendAck s i else s)

/-! ### Receiving ACKs (R309 to R311) -/

/-- Losses charge the packet's path, which may be suspended (R311). -/
def chargePath (s : State) (i path : Nat) : State :=
  match mget? s.conns i with
  | none => s
  | some c =>
    let n := mget 0 c.charges path + 1
    let s := modConn s i fun c => { c with charges := mset c.charges path n }
    if n ≥ rd s F.TP_PATH_LOSS_THRESH ∧ !c.susp.any (·.1 = path) then
      let s := modConn s i fun c =>
        let susp := c.susp ++ [(path, epochNo s + rd s F.TP_PATH_PATH_HOLD)]
        let full := (List.range (pathsOf c)).all fun p => susp.any (·.1 = p)
        { c with susp := if full then susp.tail else susp }
      raiseOnce (cadd s 11 0 14 1) .tpPathSuspend (connHandle s i)
    else s

/-- Mark a packet lost. -/
def markLost (s : State) (i psn : Nat) : State :=
  match (mget? s.conns i).bind fun c => c.tx.find? (·.psn = psn) with
  | some k => chargePath (modConn s i fun c => modPkt c psn fun k => { k with lost := true }) i k.path
  | none => s

/-- Messages whose packets, and all earlier ones, are acknowledged complete in order (R304). -/
def finishSends (s : State) (i : Nat) : Nat → State
  | 0 => s
  | n + 1 =>
    match mget? s.conns i with
    | none => s
    | some c =>
      match c.sends with
      | d :: rest =>
        if d.cut ∧ c.tx.all fun k => k.acked || decide (k.msn ≠ d.msn) then
          finishSends (sendEnd (modConn s i fun c => { c with sends := rest }) d .success) i n
        else s
      | [] => s

/-- Packets newly acknowledged: their copies are freed, later losses on their paths are counted (R309). -/
def ackPkts (s : State) (i : Nat) (psns : List Nat) : State :=
  psns.foldl (fun s psn =>
    match mget? s.conns i with
    | none => s
    | some c =>
      match c.tx.find? fun k => decide (k.psn = psn) && !k.acked with
      | none => s
      | some k =>
        let s := modConn s i fun c =>
          let c := modPkt c psn fun k => { k with acked := true, lost := false }
          { c with tx := c.tx.map fun x =>
              if !x.acked ∧ x.ord ≠ 0 ∧ x.path = k.path ∧ x.ord < k.ord then { x with after := x.after + 1 } else x }
        let shared := c.tx.any fun x => decide (x.buf = k.buf ∧ x.psn ≠ psn) && !x.acked
        let s := if shared then s else copyFree s k.buf
        match k.sealed with | .done _ b _ _ => devFree s b | _ => s) s

/-- The PSNs that an ACK acknowledges among those sent. -/
def ackedBy (c : Conn) (cum sack : Nat) : List Nat :=
  (c.tx.filter fun k => decide (k.ord ≠ 0) && !k.acked &&
    (decide (psnSub k.psn cum ≥ 2 ^ 31) ||
      (let b := psnSub k.psn (cum + 1)
       decide (b < sackBits c) && bitOf sack b))).map (·.psn)

/-- Retransmission timeout in ps after so many expiries (R309). -/
def rtoPs (c : Conn) : Nat :=
  let base := max (cfgF c.cfg 2 13 0 * 1000) (match c.rtt with | some (a, v) => a + 4 * v | none => 0)
  min (base * 2 ^ c.expiries) (cfgF c.cfg 2 27 16 * 1000000) * 1000

/-- Line rate in Mb/s that bounds R: that of the connection's egress port (R317). -/
def rateCap (s : State) (c : Conn) : Nat := match c.port with | some p => netRate s p * 1000 | none => 1600000

/-- R within R_MIN and the line rate (R317). -/
def heldRate (s : State) (c : Conn) (r : Nat) : Nat := min (max (rd s F.TP_DROVER_2_R_MIN) r) (rateCap s c)

/-! ### Setup (R301 to R303) -/

/-- The local version range (R302). -/
def localRange (s : State) (c : Conn) : Nat × Nat := (c.verMin, min c.verMax (mftMax s))

/-- A matching OPEN or ACCEPT on an OPENING connection (R302, R303): `conn`, `isn`, `key`, payload in 64 bytes, range,
ENC, whether it was an OPEN. -/
def openMatch (s : State) (i : Nat) (x : RxHdr) (isOpen : Bool) (sample : State → Nat → Nat → State) : State :=
  match mget? s.conns i with
  | none => s
  | some c =>
    let (lo, hi) := localRange s c
    let v := min hi (beAt x.body 0 1 / 16)
    let peer := beAt x.body 8 4 % 2 ^ 20
    let rejected (s : State) (reason : Nat) (why : Status) : State :=
      connFail (cadd (sendReject s i reason peer (beAt x.body 16 4)) 11 0 12 1) i why
    if v < max lo (beAt x.body 0 1 % 16) ∨ (c.key ≠ 0 ∧ v < 2) then
      raise (rejected s 1 .mftNoCommonVersion) .tpVersionReject (connHandle s i)
    else if x.h.enc ≠ decide (c.key ≠ 0) then rejected s 2 .mftPeerUnreachable
    else
      let isn := beAt x.body 12 4
      let s := modConn s i fun c => { c with
        st := .open_, version := v, peerConn := peer, peerIsn := isn, peerKey := beAt x.body 16 4, cum := isn,
        payload := min (rd s F.TP_PAYLOAD_PAYLOAD) (beAt x.body 1 1 * 64), rate := heldRate s c (rd s F.TP_DROVER_2_R_INIT * 1000),
        updAt := s.clk, drv := drvNow s, ackCfg := rget s F.TP_ACK_ACK_DELAY.off }
      let s := sample s i ((s.clk - c.lastOpen) / 1000)
      startSends (if isOpen then sendAccept s i else s) i

/-- A received OPEN (R302, R303). -/
def openRx (s : State) (x : RxHdr) (sample : State → Nat → Nat → State) : State :=
  let src := beAt x.body 4 3 / 4096
  let dst := beAt x.body 4 3 % 4096
  let peer := beAt x.body 8 4 % 2 ^ 20
  let isIt (c : Conn) : Bool := decide (
    c.tenant = dst ∧ c.node = x.srcNode ∧ c.cls = x.h.cls ∧ c.peerTenant = src ∧ (c.st = .opening ∨ c.st = .open_))
  match s.conns.find? fun k => isIt k.2 with
  | none => cadd s 11 0 10 1
  | some (i, c) =>
    if c.st = .opening then openMatch s i x true sample
    else if c.peerConn = peer then sendAccept s i
    else if c.key ≠ 0 then cadd s 11 0 10 1
    else connFail (sendClose s i c 5) i .mftPeerUnreachable

/-- The OPENING connection an ACCEPT or REJECT belongs to. -/
def openingFor (s : State) (x : RxHdr) : Option Conn :=
  match mget? s.conns x.h.dstConn with
  | some c =>
    if c.st = .opening ∧ c.node = x.srcNode ∧ x.dstNode = myNode s ∧ c.tenant = beAt x.body 4 3 % 4096 ∧
        c.peerTenant = beAt x.body 4 3 / 4096 then some c
    else none
  | none => none

/-- A received ACCEPT, REJECT and CLOSE (R303). -/
def acceptRx (s : State) (x : RxHdr) (sample : State → Nat → Nat → State) : State :=
  match openingFor s x with
  | some _ => openMatch s x.h.dstConn x false sample
  | none => s
def rejectRx (s : State) (x : RxHdr) : State :=
  match openingFor s x with
  | some _ =>
    connFail (cadd s 11 0 12 1) x.h.dstConn
      (if beAt x.body 20 1 = 1 then .mftNoCommonVersion else .mftPeerUnreachable)
  | none => s
def closeRx (s : State) (x : RxHdr) (auth : Conn → Bool) : State :=
  let peer := beAt x.body 8 4 % 2 ^ 20
  let isIt (c : Conn) : Bool := decide (
    c.st = .open_ ∧ c.node = x.srcNode ∧ c.peerConn = peer ∧ x.dstNode = myNode s)
  match s.conns.find? fun k => isIt k.2 with
  | some (i, c) =>
    if auth c then connFail s i .mftPeerUnreachable
    else raiseOnce (cadd s 11 0 9 1) .tpAuthFail 0
  | none => s

/-- A packet of a connection that is not OPEN: counted, and answered with a CLOSE of REASON 4 (R303). One of an unsupported
version is answered with the versions of the device (DESIGN CHOICE, log entry 123). -/
def unknownRx (s : State) (x : RxHdr) : State :=
  let s := cadd s 11 0 10 1
  let key := x.srcNode * 2 ^ 20 + x.h.dstConn
  if key ∈ s.unk ∨ x.dstNode ≠ myNode s then s
  else
    let s := { s with unk := key :: s.unk }
    let g := tpCfg s
    match mftRoute s g x.srcNode with
    | (none, s) => noRoute s
    | (some p, s) =>
      let old := decide (x.h.ver = 1)
      let h : MftHdr := { ver := x.h.ver, typ := 5, cls := x.h.cls, dstNode := x.srcNode, ts := if old then 0 else shortTs s,
                          ftq := decide (s.ft.st = .locked) && !old }
      let body := beBytes 1 (mftMax s * 16 + 1) ++ beBytes 1 (rd s F.TP_PAYLOAD_PAYLOAD / 64) ++ List.replicate 6 0 ++ beBytes 4 x.h.dstConn ++ List.replicate 8 0 ++ [4] ++ List.replicate 11 0
      bumpFree (sendFrame s p (cfgAckClass g)
        (mftFrame s g p ((Config.entropy s.free).toNat % 16384) h body))

end Sys2Proof.Machine
end

