-- ==== Sys2Proof/Machine/Drover.lean ====
section
/-! DEFINITION. Drover, and the commands of the transport engine (15_fabric_transport.md). -/
namespace Sys2Proof.Machine

/-! ### Delay samples and rates (R315, R317) -/

/-- Least value by epoch: the new value enters this epoch's, and epochs beyond the base interval leave (R315). -/
def keepLeast {α : Type} (le : α → α → Bool) (span now : Nat) (v : α) (l : List (Nat × α)) : List (Nat × α) :=
  let l := l.filter fun x => decide (now < x.1 + span)
  match l.find? (·.1 = now) with
  | some x => if le v x.2 then (now, v) :: l.filter (·.1 ≠ now) else l
  | none => (now, v) :: l

/-- A round-trip sample in ns: SRTT and RTTVAR follow it as RFC 6298 has it (R315; PRESUMED, log entry 23). -/
def rttSample (s : State) (i n : Nat) : State :=
  modConn s i fun c => { c with
    rtt := match c.rtt with
      | none => some (n, n / 2)
      | some (a, v) => some ((7 * a + n) / 8, (3 * v + (if a < n then n - a else a - n)) / 4)
    rtts := keepLeast (fun a b => decide (a ≤ b)) (baseSpan c) (epochNo s) n c.rtts }

/-- A delay sample q in ns (R315, R317). -/
def qSample (s : State) (i : Nat) (q : Int) : State :=
  modConn s i fun c => { c with
    lastQ := q, qmin := some (match c.qmin with | some m => min m q | none => q) }

/-- Least value of a list. -/
def leastI (l : List (Nat × Int)) (d : Int) : Int := l.foldl (fun m x => min m x.2) d
def leastN (l : List (Nat × Nat)) (d : Nat) : Nat := l.foldl (fun m x => min m x.2) d

/-- One-way delay in ns between two short timestamps (R24, R315). -/
def owdOf (rx tx : Nat) : Int :=
  let d : Nat := (rx % 2 ^ 62 + 2 ^ 62 - tx % 2 ^ 62) % 2 ^ 62
  (if d < 2 ^ 61 then (d : Int) else (d : Int) - 2 ^ 62) / 65536

/-- The samples of an ACK: ECHO_TS and RX_TS, and the round trip in ns where it can be told (R315). -/
def ackSample (s : State) (i echo rx : Nat) (rtt : Option Nat) : State :=
  let s := match rtt with | some n => rttSample s i n | none => s
  match mget? s.conns i with
  | none => s
  | some c =>
    if c.version ≥ 2 ∧ echo / 2 ^ 62 = 0 ∧ rx / 2 ^ 62 = 0 ∧ s.ft.st = .locked then
      let d := owdOf rx echo
      let owds := keepLeast (fun a b => decide (a ≤ b)) (baseSpan c) (epochNo s) d c.owds
      qSample (modConn s i fun c => { c with owds := owds }) i (d - leastI owds d)
    else
      match rtt with
      | some n => qSample s i (((n - leastN c.rtts n) / 2 : Nat) : Int)
      | none => s

/-- The round trip in ns of the packet whose release ECHO_TS gives, to the arrival of its ACK (R298, R315). -/
def echoRtt (s : State) (echo : Nat) : Option Nat :=
  let n := (s.ft.count % 2 ^ 62 + 2 ^ 62 - echo % 2 ^ 62) % 2 ^ 62
  if n < 2 ^ 61 then some (n / 65536) else none

/-- The new rate of an update (R317), in Mb/s. -/
def newRate (s : State) (c : Conn) : Nat :=
  let target : Int := rd s F.TP_DROVER_0_TARGET
  let r := if c.expired then max (rd s F.TP_DROVER_2_R_MIN) (c.rate / 4)
    else
      match c.qmin with
      | none => c.rate
      | some q =>
        if q ≤ target then c.rate + rd s F.TP_DROVER_1_AI
        else
          let cut := rd s F.TP_DROVER_1_BETA * (q - target).toNat
          let most := rd s F.TP_DROVER_1_MD_MAX * q.toNat
          c.rate * (100 * q.toNat - min cut most) / (100 * q.toNat)
  heldRate s c r

/-- DROVER_UPDATE: once per max(SRTT, 1 us) (R317). -/
def execDroverUpdate (conn : Fin 1048576) (s : State) : Host.Outcome State Fault Refusal :=
  match mget? s.conns conn.val with
  | some c =>
    let span := max ((c.rtt.map (·.1)).getD 0) 1000 * 1000
    if (c.st = .open_ ∨ c.st = .closing) ∧ s.clk ≥ c.updAt + span then
      .next (plan (modConn s conn.val fun c => { c with
        rate := newRate s c, updAt := s.clk, qmin := none, expired := false, drv := drvNow s }) conn.val)
    else .next s
  | none => .next s

/-! ### Releases (R316, R318) -/

/-- At the acting edge of its instant a packet of a connection is released (R316). -/
def paceEdge (s : State) (i : Nat) : State :=
  match (mget? s.conns i).bind (fun c => c.tNext.map fun t => (c.version, t)) with
  | some (v, t) =>
    if running s ∧ !unscheduled s ∧ t ≤ s.ft.count then
      plan (release s i t (decide (s.ft.st = .locked) && decide (v ≠ 1))) i
    else s
  | none => s

/-- PACING_INSTANT: at the acting edge of its instant a packet is released; with no instant computed yet, what the
connection can do is done first (R316). -/
def execPacingInstant (conn : Fin 1048576) (s : State) : Host.Outcome State Fault Refusal :=
  let i := conn.val
  match mget? s.conns i with
  | some c =>
    if !running s ∨ unscheduled s then .next s
    else .next (if c.tNext.isSome then paceEdge s i else plan s i)
  | none => .next s

/-- Tokens of unscheduled transmission in 10^-6 bits: two full frames' depth, filled at R on the local clock (R318). -/
def tokNow (s : State) (c : Conn) : Nat := min (2 * fullFrame c * 8 * 1000000) (c.tok.1 + c.rate * (s.clk - c.tok.2))

/-- UNSCHEDULED_TRANSMISSION (R318). -/
def execUnscheduledTransmission (conn : Fin 1048576) (s : State) : Host.Outcome State Fault Refusal :=
  let i := conn.val
  if !running s ∨ !unscheduled s then .next s
  else
    let s := plan (modConn s i fun c => { c with tNext := none, waitStart := false }) i
    match mget? s.conns i with
    | some c =>
      match relBits s c with
      | some bits =>
        let t := tokNow s c
        if t ≥ bits * 1000000 then
          .next (plan (release (modConn s i fun c => { c with tok := (t - bits * 1000000, s.clk) }) i s.ft.count false) i)
        else .next s
      | none => .next s
    | none => .next s

/-! ### Received packets (R302, R303, R307, R309, R314) -/

/-- A received ACK (R309, R310, R315). -/
def ackRx (s : State) (i : Nat) (c : Conn) (x : RxHdr) : State :=
  let s := cadd s 11 0 7 1
  let cum := beAt x.body 0 4
  let sack := beAt x.body 24 32
  let old := oldestPsn c
  if psnSub c.sndNxt cum ≥ 2 ^ 31 then s
  else
    let psns := ackedBy c cum sack
    let echo := beAt x.body 8 8
    let rtt := if c.version ≥ 2 then echoRtt s echo
      else ((c.tx.filter fun k => decide (k.psn ∈ psns) && !k.again).getLast?).map fun k => (s.ft.count - k.at_) / 65536
    let s := ackPkts s i psns
    let s := ackSample s i echo (beAt x.body 16 8) rtt
    let reorder := rd s F.TP_PATH_REORDER_PKTS
    let due (k : TxPkt) : Bool := decide (k.ord ≠ 0 ∧ reorder ≤ k.after) && !k.acked && !k.lost
    let lost : List Nat := match mget? s.conns i with
      | some c => (c.tx.filter due).map (fun k : TxPkt => k.psn)
      | none => []
    let s := lost.foldl (fun (t : State) psn => markLost (cadd t 11 0 4 1) i psn) s
    let adv := decide (psnSub cum old ≠ 0 ∧ psnSub cum old < 2 ^ 31)
    let s := modConn s i fun c =>
      let tx := c.tx.filter fun k => !(k.acked && decide (psnSub k.psn cum ≥ 2 ^ 31))
      let open_ := tx.any fun k => decide (k.ord ≠ 0) && !k.acked
      { c with
        tx := tx, expiries := if adv then 0 else c.expiries
        timer := if !open_ then none else if adv then some s.clk else c.timer }
    let s := if x.h.rnr then
        modConn s i fun c => { c with rnrTill := some (s.clk + usec (beAt x.body 4 4)), timer := none, tNext := none }
      else s
    plan (finishSends s i (c.sends.length + 1)) i

/-- Authentication of a packet of an encrypted connection (R314). -/
def authOk (key auth : Nat) (c : Conn) : Bool := decide (c.key = 0) || decide (auth = 1 ∧ key = c.key)

/-- A received MFT packet in a buffer: what it does, and whether the engine keeps the buffer (R302, R303, R307, R309,
R314). -/
def mftRx (s : State) (buf off len key auth : Nat) (ecc : Ecc) : Bool × State :=
  if off + len > poolSize (bPool buf) ∨ len < 40 ∨ !tpOn s then (false, s)
  else
    let x := parseMft (storeRead s (bufAddr s buf off) len)
    let s := storeMeet s (bufAddr s buf off) len ecc
    let rxTs := (mget {} s.pkts buf).time
    match x.h.typ with
    | 0 | 1 =>
      match connFor s x with
      | none => (false, unknownRx s x)
      | some c =>
        if !authOk key auth c then (false, raiseOnce (cadd s 11 0 9 1) .tpAuthFail 0)
        else if x.h.typ = 0 then dataRx s x.h.dstConn c x buf (off + 40) rxTs
        else (false, ackRx s x.h.dstConn c x)
    | 2 => (false, if x.dstNode = myNode s then openRx s x rttSample else cadd s 11 0 10 1)
    | 3 => (false, acceptRx s x rttSample)
    | 4 => (false, rejectRx s x)
    | 5 => (false, closeRx s x (authOk key auth))
    | _ => (false, s)

/-- TX_SEALED: a sealed packet comes back for release (R313, R314). -/
def txSealed (s : State) (m : Msg) : State :=
  let b := m.buf
  let off := bitsOf (m.w 2) 23 0
  let ok := bitsOf (m.w 3) 7 0 = 0
  let isIt (k : TxPkt) : Bool := match k.sealed with | .sealing _ x => decide (x = b) | _ => false
  match s.seals.find? fun k => decide (k.buf = b) && k.rel.isNone with
  | some k =>
    let s := { s with seals := s.seals.filter (·.buf ≠ b) }
    let k := { k with off := off, len := m.len }
    let lives := gen s 7 k.conn = k.gen ∧ (mget? s.conns k.conn).isSome
    if ok then
      if lives then plan (modConn s k.conn fun c => { c with ctl := c.ctl ++ [k] }) k.conn
      else { s with seals := s.seals ++ [{ k with rel := some (nextSlot s) }] }
    else if lives then sealFail (devFree s b) k.conn
    else devFree s b
  | none =>
    match s.conns.find? fun x => x.2.tx.any isIt with
    | none => devFree s b
    | some (i, _) =>
      if ok then
        plan (modConn s i fun c => { c with tx := c.tx.map fun k =>
          match k.sealed with
          | .sealing p x => if x = b then { k with sealed := .done p b off m.len } else k
          | _ => k }) i
      else sealFail (devFree s b) i

/-- The check of a connection handle of a flow-core message (R61). -/
def connCheck (s : State) (h : Nat) : Option Status :=
  checkHandle (hKind h = 7) true (hGen h = gen s 7 (hIdx h)) (mget? s.conns (hIdx h)).isSome

/-- SEND: a held buffer as one message (R314). -/
def coreSend (s : State) (m : Msg) : State :=
  let h := bitsOf (m.w 2) 31 0
  let i := hIdx h
  let fail (st : Status) : State := msgAnswer (devFree s m.buf) m st []
  match connCheck s h, mget? s.conns i with
  | some st, _ => fail st
  | none, none => fail .invalidHandle
  | none, some c =>
    if c.att ≠ 0 then fail .inUse
    else if m.len > poolSize (bPool m.buf) then fail .invalidField
    else
      match c.st with
      | .failed => fail c.why
      | .closing => fail .mftPeerUnreachable
      | _ =>
        addSend s i {
          who := .core m.core m.thread (if msgReply (m.w 0) then some (msgTag (m.w 0)) else none), len := m.len
          imm := bitsOf (m.w 3) 31 0, bufs := [m.buf], ready := true }

/-- STATE of TP_CONN_STATUS (R319). -/
def connState : ConnSt → Nat
  | .opening => 1 | .open_ => 2 | .closing => 3 | .failed => 4

/-- A signed number in 32 bits. -/
def word32 (v : Int) : Nat := (v % 2 ^ 32).toNat

/-- QUERY (R314). -/
def connQuery (s : State) (m : Msg) : State :=
  let h := bitsOf (m.w 2) 31 0
  match connCheck s h, mget? s.conns (hIdx h) with
  | none, some c =>
    msgAnswer s m .success [connState c.st + c.version * 16, c.rate, word32 c.lastQ, (c.rtt.map (·.1)).getD 0,
      c.peerTenant * 65536 + c.node, outBytes c]
  | some st, _ => msgAnswer s m st []
  | none, none => msgAnswer s m .invalidHandle []

/-- TX_SEALED, SEND, QUERY (R314). -/
def execTxSealed (core : CoreId) (thread : ThreadId) (s : State) : Host.Outcome State Fault Refusal :=
  .next (msgRun s core thread 0x04 0x02 fun s m => msgAnswer (txSealed s m) m .success [])
def execSend (core : CoreId) (thread : ThreadId) (s : State) : Host.Outcome State Fault Refusal :=
  .next (msgRun s core thread 0x04 0x03 coreSend)
def execQuery (core : CoreId) (thread : ThreadId) (s : State) : Host.Outcome State Fault Refusal :=
  .next (msgRun s core thread 0x04 0x04 connQuery)

/-! ### Timers (R303, R308 to R311) -/

/-- ACK_DELAY_EXPIRE (R308). -/
def execAckDelayExpire (conn : Fin 1048576) (s : State) : Host.Outcome State Fault Refusal :=
  match (mget? s.conns conn.val).bind (·.ackFrom) with
  | some t =>
    if s.clk ≥ t + bitsOf (((mget? s.conns conn.val).map (·.ackCfg)).getD 0) 15 0 * 1000 ∧ running s then
      .next (sendAck s conn.val)
    else .next s
  | none => .next s

/-- OPEN_RETRY (R303). -/
def execOpenRetry (conn : Fin 1048576) (s : State) : Host.Outcome State Fault Refusal :=
  match mget? s.conns conn.val with
  | some c =>
    if c.st = .opening ∧ s.clk ≥ c.lastOpen + usec (cfgF c.cfg 1 15 0) ∧ running s then .next (sendOpen s conn.val)
    else .next s
  | none => .next s

/-- OPEN_TIMEOUT (R303). -/
def execOpenTimeout (conn : Fin 1048576) (s : State) : Host.Outcome State Fault Refusal :=
  match mget? s.conns conn.val with
  | some c =>
    if c.st = .opening ∧ s.clk ≥ c.openedAt + msec (cfgF c.cfg 1 31 16) ∧ running s then
      .next (raise (connFail s conn.val .mftPeerUnreachable) .tpConnFailed (connHandle s conn.val))
    else .next s
  | none => .next s

/-- RTO_EXPIRE: the oldest unacknowledged packet is lost; RETRY_MAX expiries in a row end an OPEN connection (R303,
R309). It acts once the PCLK of the expiry is over: an ACK of that PCLK is taken first (R309). -/
def execRtoExpire (conn : Fin 1048576) (s : State) : Host.Outcome State Fault Refusal :=
  let i := conn.val
  match mget? s.conns i with
  | some c =>
    match c.timer with
    | some t =>
      if s.clk ≤ t + rtoPs c ∨ c.rnrTill.isSome ∨ !running s then .next s
      else
        let s := cadd s 11 0 5 1
        let s := modConn s i fun c => { c with expiries := c.expiries + 1, expired := true, timer := some s.clk }
        if c.st = .open_ ∧ c.expiries + 1 ≥ cfgF c.cfg 2 31 28 then .next (connGiveUp s i)
        else
          match c.tx.find? fun k => decide (k.ord ≠ 0) && !k.acked with
          | some k => .next (plan (if k.lost then s else markLost s i k.psn) i)
          | none => .next (modConn s i fun c => { c with timer := none })
    | none => .next s
  | none => .next s

/-- RNR_WAIT_END (R310). -/
def execRnrWaitEnd (conn : Fin 1048576) (s : State) : Host.Outcome State Fault Refusal :=
  match mget? s.conns conn.val with
  | some c =>
    match c.rnrTill with
    | some t =>
      if s.clk ≥ t then
        .next (plan (modConn s conn.val fun c => { c with
          rnrTill := none
          timer := if c.tx.any fun k => decide (k.ord ≠ 0) && !k.acked then some s.clk else none }) conn.val)
      else .next s
    | none => .next s
  | none => .next s

/-- PATH_HOLD_END (R311). -/
def execPathHoldEnd (conn : Fin 1048576) (path : Fin 32) (s : State) : Host.Outcome State Fault Refusal :=
  match (mget? s.conns conn.val).bind fun c => c.susp.find? (·.1 = path.val) with
  | some (_, e) =>
    if epochNo s ≥ e then
      .next (plan (modConn s conn.val fun c => { c with susp := c.susp.filter (·.1 ≠ path.val) }) conn.val)
    else .next s
  | none => .next s

/-! ### Opening and closing (R301, R303) -/

/-- Nothing issued under an earlier connection at an index is outstanding: no packet of it is being sealed, and no request of
its messages remains (R63). -/
def connIdle (s : State) (i : Nat) : Bool :=
  let mine (g : List (Nat × Nat)) : Bool := g.any fun x => decide (x.1 = gkey 7 i)
  !(s.seals.any fun k => decide (k.conn = i)) && !(s.reads.any fun r => mine r.2.gens) && !s.wreqs.any fun w => mine w.gens

/-- The lowest free connection index under which nothing of an ended connection is outstanding (R63). -/
def lowConn (s : State) : Option Nat :=
  (List.range (s.conns.length + s.seals.length + s.reads.length + s.wreqs.length + 1)).find? fun i =>
    (mget? s.conns i).isNone && connIdle s i

/-- MFT_CONN_OPEN (R301). DW1 has passed R61. -/
def connOpen (s : State) (p : Nat) (e : Entry) : State :=
  let t := hIdx (dw e 1)
  let cls := bitsOf (dw e 4) 30 28
  let node := bitsOf (dw e 4) 15 0
  let paths := bitsOf (dw e 5) 13 8
  let hi := bitsOf (dw e 5) 7 4
  let lo := bitsOf (dw e 5) 3 0
  let key := dw e 6
  let keyBad := if key = 0 then none
    else checkHandle (hKind key ≥ 12) (ctxIdx key < 4194304) (hGen key = gen s 12 (ctxIdx key))
      (decide ((mget? s.ls.ctxs (ctxIdx key)).map (·.owner) = some (some t)))
  match keyBad with
  | some st => finishAdmin s p st 0
  | none =>
    if bitOf (dw e 4) 31 ∨ dw e 5 / 2 ^ 14 ≠ 0 ∨ !dwZero e 7 15 ∨ node = myNode s ∨ paths < 1 ∨ paths > 32 ∨ lo < 1 ∨
        hi < lo ∨ !tpOn s then finishAdmin s p .invalidField 0
    else if s.conns.any fun c => decide (c.2.tenant = t ∧ c.2.node = node ∧ c.2.cls = cls) then finishAdmin s p .inUse 0
    else
      let used := (s.conns.filter fun c => decide (c.2.tenant = t)).length
      match lowConn s with
      | none => finishAdmin s p .noResource 0
      | some i =>
        if i ≥ 1048576 ∨ used ≥ ((mget? s.tens t).map (·.connMax)).getD 0 then finishAdmin s p .noResource 0
        else if lo > mftMax s ∨ (key ≠ 0 ∧ min hi (mftMax s) < 2) then finishAdmin s p .mftNoCommonVersion 0
        else
          let isn := (Config.entropy (s.free + 1)).toNat % 2 ^ 32
          let c : Conn := {
            tenant := t, node := node, cls := cls, peerTenant := bitsOf (dw e 4) 27 16, paths := paths, verMin := lo
            verMax := hi, key := key, cfg := tpCfg s, salt := (Config.entropy s.free).toNat % 16384, isn := isn
            openedAt := s.clk, lastOpen := s.clk, sndNxt := isn }
          let s := { bumpFree (bumpFree s) with conns := mset s.conns i c }
          finishAdmin (sendOpen s i) p .success (connHandle s i)

/-- MFT_CONN_OPEN (R301). -/
def execMftConnOpen (port : HostPort) (s : State) : Host.Outcome State Fault Refusal :=
  .next (adminRun s port.val 0x30 fun s e => connOpen s port.val e)

/-- The MFT_CONN_CLOSE that waits for a connection completes. -/
def closerDone (s : State) (c : Conn) : State :=
  match c.closer with
  | some p => finishAdmin s p .success 0
  | none => s

/-- MFT_CONN_CLOSE (R303). -/
def execMftConnClose (port : HostPort) (s : State) : Host.Outcome State Fault Refusal :=
  .next (adminRun s port.val 0x31 fun s e =>
    let p := port.val
    let i := hIdx (dw e 1)
    match mget? s.conns i with
    | none => finishAdmin s p .invalidHandle 0
    | some c =>
      if !dwZero e 4 15 then finishAdmin s p .invalidField 0
      else if c.st = .failed then finishAdmin (connFree s i c (some c.why)) p .success 0
      else
        adminWait (modConn s i fun c => { c with st := .closing, closeAt := s.clk, closer := some p }) p "conn" i)

/-- The end of CLOSING (R303). -/
def closeEnd (s : State) (i : Nat) (c : Conn) : State :=
  closerDone (connFree (sendClose s i c 3) i c (some .mftPeerUnreachable)) c

/-- CONN_CLOSE_DRAIN_END: every started send is acknowledged (R303). -/
def execConnCloseDrainEnd (conn : Fin 1048576) (s : State) : Host.Outcome State Fault Refusal :=
  match mget? s.conns conn.val with
  | some c =>
    if c.st = .closing ∧ !(decide (c.version ≠ 0) && c.sends.any fun d => d.cut || d.ready || d.bufs != []) ∧
        running s then
      .next (closeEnd s conn.val c)
    else .next s
  | none => .next s

/-- CONN_CLOSE_TIMEOUT: 10 ms since the command (R303). -/
def execConnCloseTimeout (conn : Fin 1048576) (s : State) : Host.Outcome State Fault Refusal :=
  match mget? s.conns conn.val with
  | some c =>
    if c.st = .closing ∧ s.clk ≥ c.closeAt + msec 10 ∧ running s then .next (closeEnd s conn.val c) else .next s
  | none => .next s

/-- A connection ends with its tenant or with TP_NODE.EN: CLOSE is sent once, its work is discarded (R303). -/
def connEnd (s : State) (i : Nat) : State :=
  match mget? s.conns i with
  | some c =>
    closerDone (connFree (sendClose s i c 3) i c none) c
  | none => s

/-- A write of TP_NODE (R303, R319): while EN is 1, NODE_ID stays; a clear of EN ends every connection. -/
def nodeWrite (s : State) (w : Nat) : State :=
  if tpOn s then
    let s := wr s F.TP_STATUS_CFG_IGN 0 0 1
    if bitOf w 31 then s
    else
      let s := (s.conns.map (·.1)).foldl connEnd s
      wr s F.TP_NODE_EN 0 0 0
  else (regStore s F.TP_NODE_EN.off 0 w).1

/-- TP_NODE_DISABLE: a write of TP_NODE with EN 0 (R303). -/
def execTpNodeDisable (port : HostPort) (value : Word) (s : State) : Host.Outcome State Fault Refusal :=
  .next (regGate s port true fun s => if bitOf value.toNat 31 then s else nodeWrite s value.toNat)

/-! ### Jobs (R304, R305) -/

/-- The check of the connection a job names in DW1 (R61, R304, R373). -/
def jobConn (s : State) (j : Job) : Except Status (Nat × Conn) :=
  let h := dw (jobHead j) 1
  let i := hIdx h
  let inUse := match mget? s.conns i with | some c => decide (some c.tenant = j.owner) | none => false
  match checkHandle (hKind h = 7) true (hGen h = gen s 7 i) inUse, mget? s.conns i with
  | some st, _ => .error st
  | none, none => .error .invalidHandle
  | none, some c =>
    if c.att ≠ 0 then .error .inUse
    else
      match c.st with
      | .failed => .error c.why
      | .closing => .error .mftPeerUnreachable
      | _ => .ok (i, c)

/-- MFT_SEND (R304). -/
def execMftSend (uid : Nat) (s : State) : Host.Outcome State Fault Refusal :=
  .next (jobRun s uid 0x83 fun s j =>
    match jobConn s j with
    | .error st => finishJob s uid st 0
    | .ok (i, _) =>
      let gs := segsOf j.ents
      let n := segBytes gs
      if n = 0 ∨ n > 16777215 ∨ !dwZero (jobHead j) 9 15 ∨ !segsOwned s (ownerReq j.owner) gs then
        finishJob s uid .invalidField 0
      else addSend s i { who := .job uid, len := n, imm := dw (jobHead j) 8 })

/-- MFT_RECV_POST (R305). -/
def execMftRecvPost (uid : Nat) (s : State) : Host.Outcome State Fault Refusal :=
  .next (jobRun s uid 0x84 fun s j =>
    match jobConn s j with
    | .error st => finishJob s uid st 0
    | .ok (i, _) =>
      if !dwZero (jobHead j) 8 15 ∨ !segsOwned s (ownerReq j.owner) (segsOf j.ents) then finishJob s uid .invalidField 0
      else deliverAll (modConn s i fun c => { c with posts := c.posts ++ [uid] }) i)

/-- KEY_CTX_DESTROY: the context is free at once, and the command completes when the requests accepted have (R361). -/
def execKeyCtxDestroy (port : HostPort) (s : State) : Host.Outcome State Fault Refusal :=
  .next (adminRun s port.val 0x22 fun s e =>
    let p := port.val
    let i := ctxIdx (dw e 1)
    if !dwZero e 4 15 then finishAdmin s p .invalidField 0
    else if s.conns.any fun c => decide (c.2.key ≠ 0 ∧ ctxIdx c.2.key = i ∧ hGen c.2.key = gen s 12 i) then
      finishAdmin s p .inUse 0
    else keyDestroyCheck (adminWait (freeCtx s i) p "keyctx" i) i)

end Sys2Proof.Machine
end

