-- ==== Sys2Proof/Machine/Storage.lean ====
section
/-! DEFINITION. The storage engine: attachments and sessions, TCP and NVMe/TCP, NVMe over MFT, storage commands and
their timeouts (19_storage.md). What the spec takes over from the NVMe/TCP specification and the RFCs is PRESUMED (log
entry 23). -/
namespace Sys2Proof.Machine

/-! ### Digests and headers (R377, R378) -/

/-- A reflected CRC over a polynomial, one bit at a time. -/
def crcBits (poly : Nat) : Nat → Nat → Nat
  | 0, c => c
  | n + 1, c => crcBits poly n (if c % 2 = 1 then Nat.xor (c / 2) poly else c / 2)

/-- The 32-bit CRC of bytes. -/
def crcOf (poly : Nat) (b : List Byte) : Nat :=
  Nat.xor (b.foldl (fun c x => crcBits poly 8 (Nat.xor c x.toNat)) 0xFFFFFFFF) 0xFFFFFFFF

/-- CRC32C of bytes: a header or data digest. -/
def crc32c (b : List Byte) : Nat := crcOf 0x82F63B78 b

/-- A digest as it is sent. -/
def digest (on : Bool) (b : List Byte) : List Byte := if on then leBytes 4 (crc32c b) else []

/-- Digests of an attachment, and whether it speaks IPv6 (R374). -/
def hdgst (t : Att) : Bool := bitOf (rcdN t 2 1) 0
def ddgst (t : Att) : Bool := bitOf (rcdN t 2 1) 1
def attV6 (t : Att) : Bool := bitOf (rcdN t 2 1) 2

/-- Its key, queue depth, keep-alive time in ps, LBA shift (R374). -/
def attKey (t : Att) : Nat := rcdN t 8 4
def attDepth (t : Att) : Nat := rcdN t 16 2
def attKato (t : Att) : Nat := msec (100 * rcdN t 18 2)
def attShift (t : Att) : Nat := rcdN t 3 1

/-- Target and source addresses of an attachment (R374, R378). -/
def attAddr (t : Att) : Nat := if attV6 t then beAt t.rcd 20 16 else beAt t.rcd 32 4
def sxAddr (s : State) (v6 : Bool) : Nat :=
  if v6 then (List.range 4).foldl (fun a i => a * 2 ^ 32 + rd s F.SX_SRC_IP6_ADDR i) 0 else rd s F.SX_SRC_IP4_ADDR

/-- The checksum of TCP over either IP. -/
def tcpSum (v6 : Bool) (src dst : Nat) (b : List Byte) : Nat :=
  if v6 then ip6Sum src dst 6 b
  else 65535 - foldSum (onesSum (beBytes 4 src ++ beBytes 4 dst ++ beBytes 2 6 ++ beBytes 2 b.length) (onesSum b 0))

/-- An IPv4 header; its Hop Limit is not given by the spec (log entry 3). -/
def ip4Hdr (src dst len : Nat) : List Byte :=
  let h (sum : Nat) : List Byte :=
    beBytes 2 0x4500 ++ beBytes 2 (20 + len) ++ beBytes 2 0 ++ beBytes 2 0x4000 ++ beBytes 1 Config.hopLimit.toNat ++
      beBytes 1 6 ++ beBytes 2 sum ++ beBytes 4 src ++ beBytes 4 dst
  h (65535 - foldSum (onesSum (h 0) 0))

/-! ### TCP (R377, R378) -/

/-- Change the TCP connection of an attachment. -/
def modTcp (s : State) (a : Nat) (f : Tcp → Tcp) : State := modAtt s a fun t => { t with tcp := t.tcp.map f }

/-- The TCP connection of an attachment. -/
def tcpOf (s : State) (a : Nat) : Option Tcp := (mget? s.sx.atts a).bind (·.tcp)

/-- Local milliseconds, the clock of the timestamp option. -/
def tcpMs (s : State) : Nat := s.clk / 1000000000 % 2 ^ 32

/-- Options of a segment: timestamps, and the ranges received beyond a gap. -/
def tcpOpts (s : State) (c : Tcp) : List Byte :=
  let ts := if c.tsOn then beBytes 4 0x0101080A ++ beBytes 4 (tcpMs s) ++ beBytes 4 c.tsRecent else []
  let rs := if c.sackOn then c.ooo.take 3 else []
  let sk := if rs = [] then [] else
    beBytes 2 0x0101 ++ beBytes 1 5 ++ beBytes 1 (2 + 8 * rs.length) ++
      rs.flatMap fun x => beBytes 4 x.1 ++ beBytes 4 (x.1 + x.2.length)
  ts ++ sk

/-- Options of a SYN: segment size, SACK permitted, timestamps, window scale (RFC 9293, RFC 2018, RFC 7323). -/
def synOpts (s : State) (c : Tcp) : List Byte :=
  beBytes 2 0x0204 ++ beBytes 2 c.mss ++ beBytes 2 0x0402 ++ beBytes 2 0x080A ++ beBytes 4 (tcpMs s) ++ beBytes 4 0 ++
    beBytes 3 0x010303 ++ beBytes 1 (Config.tcpScale.toNat % 15)

/-- Send one segment: sequence number, flags, payload (R378). -/
def segSend (s : State) (a : Nat) (seq flags : Nat) (data : List Byte) : State :=
  match mget? s.sx.atts a, tcpOf s a with
  | some t, some c =>
    let v6 := attV6 t
    let src := sxAddr s v6
    let dst := attAddr t
    let op := if bitOf flags 1 then synOpts s c else tcpOpts s c
    let seg (sum : Nat) : List Byte :=
      beBytes 2 c.port ++ beBytes 2 (rcdN t 36 2) ++ beBytes 4 seq ++ beBytes 4 c.rcv ++
        beBytes 2 ((5 + op.length / 4) * 4096 + flags) ++ beBytes 2 Config.tcpWindow.toNat ++ beBytes 2 sum ++
        beBytes 2 0 ++ op ++ data
    let b := seg (tcpSum v6 src dst (seg 0))
    match portFor s (if v6 then rd s F.SX_FWD_INST6 else rd s F.SX_FWD_INST4) v6 dst with
    | (none, s) => s
    | (some p, s) =>
      let ip := if v6 then ip6Hdr src dst 6 b.length else ip4Hdr src dst b.length
      sendFrame s p (rd s F.SX_CFG_CLASS) (ethHdr (tpCfg s) p (if v6 then 0x86DD else 0x0800) ++ ip ++ b)
  | _, _ => s

/-- Bytes sent and not acknowledged. -/
def flight (c : Tcp) : Nat := psnSub c.nxt c.una

/-- A range joins the last one where they touch; the list is reversed. -/
def joinRange (acc : List (Nat × Nat)) (r : Nat × Nat) : List (Nat × Nat) :=
  match acc with
  | x :: t => if r.1 ≤ x.2 then (x.1, max x.2 r.2) :: t else r :: x :: t
  | [] => [r]

/-- The ranges that the peer has, as offsets from the oldest unacknowledged byte, rising and apart. -/
def sackOffs (c : Tcp) : List (Nat × Nat) :=
  let l := c.sacked.filterMap fun r =>
    let a := psnSub r.1 c.una
    let b := psnSub r.2 c.una
    if a < b ∧ b ≤ flight c then some (a, b) else none
  ((l.foldr (insertBy fun a b => decide (a.1 ≤ b.1)) []).foldl joinRange []).reverse

/-- What lies between ranges, from an offset to the end. -/
def holesOf (f : Nat) : Nat → List (Nat × Nat) → List (Nat × Nat)
  | p, [] => if p < f then [(p, f)] else []
  | p, (a, b) :: t => (if p < a then [(p, a)] else []) ++ holesOf f b t

/-- Bytes sent that the peer is not known to have. -/
def holes (c : Tcp) : List (Nat × Nat) := holesOf (flight c) 0 (sackOffs c)

/-- The bytes of a hole are lost: three ranges, or more than two segments, beyond it have arrived; after a timeout all are (RFC
6675 IsLost, RFC 5681). -/
def holeLost (c : Tcp) (g : Nat × Nat) : Bool :=
  let above := (sackOffs c).filter fun r => decide (g.2 ≤ r.1)
  c.rto || decide (3 ≤ above.length ∨ 2 * c.mss < above.foldl (fun n r => n + (r.2 - r.1)) 0)

/-- HighRxt as an offset (RFC 6675). -/
def highOff (c : Tcp) : Nat :=
  if c.recover.isSome ∧ psnSub c.high c.una ≤ flight c then psnSub c.high c.una else 0

/-- The recovery goes by the ranges that the peer reports, or follows a timeout. -/
def byHoles (c : Tcp) : Bool := c.recover.isSome && (c.sackOn || c.rto)

/-- Bytes that are on their way (RFC 6675 Pipe). -/
def tcpPipe (c : Tcp) : Nat :=
  if c.sackOn ∨ c.rto then
    (holes c).foldl (fun n g => n + (if holeLost c g then 0 else g.2 - g.1) + (min g.2 (highOff c) - g.1)) 0
  else flight c

/-- What a segment carries: new bytes, lost or missing ones again, or the rescue retransmission. -/
inductive SegKind where
  | fresh
  | again
  | rescue
  deriving DecidableEq, Repr

/-- The bytes to send next, as offset and length (RFC 6675 NextSeg). -/
def nextSeg (c : Tcp) : Option (Nat × Nat × SegKind) :=
  let f := flight c
  let h := highOff c
  let top := if c.rto then f else ((sackOffs c).getLast?.map (·.2)).getD 0
  let miss := (holes c).filter fun g => decide (max g.1 h < g.2 ∧ g.1 < top)
  let again (g : Nat × Nat) : Nat × Nat × SegKind := (max g.1 h, min c.mss (g.2 - max g.1 h), .again)
  let new := min c.mss (min (c.out.length - f) (c.wnd - f))
  if !byHoles c then (if new = 0 then none else some (f, new, .fresh))
  else
    match miss.find? (holeLost c) with
    | some g => some (again g)
    | none =>
      if new ≠ 0 then some (f, new, .fresh)
      else
        match miss.head?, (holes c).getLast? with
        | some g, _ => some (again g)
        | none, some g => if c.rescued ∨ c.rto then none else some (g.2 - min c.mss (g.2 - g.1), min c.mss (g.2 - g.1), .rescue)
        | none, none => none

/-- Segments that the windows allow (RFC 5681, RFC 6675). -/
def tcpPush (s : State) (a : Nat) : Nat → State
  | 0 => s
  | n + 1 =>
    match tcpOf s a with
    | none => s
    | some c =>
      let room := c.cwnd - tcpPipe c
      match nextSeg c with
      | none => s
      | some (o, k, kind) =>
        let k := if byHoles c then k else min k room
        if k = 0 ∨ c.syn ∨ (byHoles c ∧ room < c.mss) then s
        else
          let s := segSend s a ((c.una + o) % 2 ^ 32) 0x018 ((c.out.drop o).take k)
          tcpPush (modTcp s a fun c => { c with
            nxt := if kind = .fresh then (c.nxt + k) % 2 ^ 32 else c.nxt
            high := if kind = .again then (c.una + o + k) % 2 ^ 32 else c.high
            rescued := c.rescued || decide (kind = .rescue)
            timer := if c.timer.isSome then c.timer else some s.clk }) a n

/-- Fuel for a push: the segments the bytes make. -/
def tcpPushAll (s : State) (a : Nat) : State :=
  match tcpOf s a with
  | some c => tcpPush s a (2 * c.out.length + 2)
  | none => s

/-- Put bytes into the stream. -/
def tcpWrite (s : State) (a : Nat) (b : List Byte) : State :=
  tcpPushAll (modTcp s a fun c => { c with out := c.out ++ b }) a

/-- Send the oldest unacknowledged segment again. -/
def tcpAgain (s : State) (a : Nat) : State :=
  match tcpOf s a with
  | some c =>
    if c.syn then segSend s a c.una 0x002 []
    else
      let k := match (holes c).head? with | some g => min c.mss g.2 | none => 0
      modTcp (segSend s a c.una 0x018 (c.out.take k)) a fun c => { c with high := (c.una + k) % 2 ^ 32 }
  | none => s

/-- A round-trip sample in us (RFC 6298). -/
def tcpRtt (c : Tcp) (n : Nat) : Tcp :=
  { c with rtt := match c.rtt with
      | none => some (n, n / 2)
      | some (a, v) => some ((7 * a + n) / 8, (3 * v + (if a < n then n - a else a - n)) / 4) }

/-- Retransmission timeout in ps: at least 1 s, doubled at each expiry, at most 60 s (RFC 6298). -/
def tcpRto (c : Tcp) : Nat :=
  let base := match c.rtt with | some (a, v) => max 1000000 (a + 4 * v) | none => 1000000
  usec (min (base * 2 ^ c.tries) 60000000)

/-! ### The end of a session (R375) -/

/-- A session that was up ends: commands at the target complete with STORAGE_TIMEOUT, and a new one is due. -/
def sessDown (s : State) (a : Nat) : State :=
  match mget? s.sx.atts a with
  | none => s
  | some t =>
    if t.st ≠ .ready then s
    else
      let s := match t.tcp with | some c => segSend s a c.nxt 0x014 [] | none => s
      let s := modAtt s a fun t => { t with
        st := .reconnecting, since := s.clk, tcp := none, lateTags := [], row := 0, kaFrom := none }
      let s := if overMft t then sxDropRx s (attConn t) false else s
      let s := raise (cadd s 15 0 5 1) .sxSessionDown 0
      let s := ((cmdsOf s a).filter fun c => decide (c.2.st = .late)).foldl (fun s c => dropJob s c.1) s
      ((cmdsOf s a).filter fun c => decide (c.2.st = .target)).foldl (fun s c => cmdEnd s c.1 .storageTimeout 0) s

/-- A common header of an NVMe/TCP PDU. -/
def pduHdr (typ flags hlen pdo plen : Nat) : List Byte :=
  leBytes 1 typ ++ leBytes 1 flags ++ leBytes 1 hlen ++ leBytes 1 pdo ++ leBytes 4 plen

/-- A protocol error (R377): counted, answered with H2CTermReq, and the session resets. -/
def protoErr (s : State) (a : Nat) (dig : Bool) (pdu : List Byte) : State :=
  match mget? s.sx.atts a with
  | none => s
  | some t =>
    let s := raise (cadd s 15 0 (if dig then 7 else 6) 1) .sxProtocolErr 0
    let h := pdu.take 24
    let s := if overMft t then s else
      tcpWrite s a (pduHdr 2 0 24 0 (24 + h.length) ++ leBytes 2 (if dig then 3 else 1) ++ leBytes 14 0 ++ h)
    sessDown s a

/-! ### Capsules and data (R377, R379, R380) -/

/-- A PDU with its digests. -/
def pdu (t : Att) (typ flags : Nat) (body data : List Byte) : List Byte :=
  let hl := 8 + body.length
  let hd := if hdgst t then 4 else 0
  let dd := if ddgst t ∧ data ≠ [] then 4 else 0
  let fl := flags + b2n (hdgst t) + 2 * b2n (decide (ddgst t ∧ data ≠ []))
  let pdo := if data = [] then 0 else hl + hd
  let h := pduHdr typ fl hl pdo (hl + hd + data.length + dd) ++ body
  h ++ digest (hdgst t) h ++ data ++ digest (decide (ddgst t ∧ data ≠ [])) data

/-- The submission entry of a command (R380): opcode, tag, NSID, data pointer, CDW10 to CDW15. -/
def sqe (op tag nsid len : Nat) (inCap : Bool) (cdw : List Nat) : List Byte :=
  leBytes 1 op ++ leBytes 1 0x40 ++ leBytes 2 tag ++ leBytes 4 nsid ++ leBytes 16 0 ++ leBytes 8 0 ++ leBytes 4 len ++
    leBytes 3 0 ++ leBytes 1 (if inCap then 0x01 else 0x5A) ++ cdw.flatMap fun w => leBytes 4 w

/-- The data of a command in its staging buffer. -/
def stageData (s : State) (c : SxCmd) (o n : Nat) : List Byte :=
  match c.buf with | some b => storeRead s (bufAddr s b (4096 + o)) n | none => []

/-- Data of a command leave the staging buffer: the cells are read (R221). -/
def stageTouch (s : State) (c : SxCmd) (o n : Nat) : State :=
  match c.buf with | some b => storeTouch s (bufAddr s b (4096 + o)) n | none => s

/-- Send a message on an attachment's MFT connection: false when no packet buffer is free. -/
def capsule (s : State) (t : Att) (uid typ tag : Nat) (b : List Byte) : Bool × State :=
  let i := attConn t
  match mget? s.conns i with
  | none => (false, s)
  | some c =>
    let sizes := pktSizes b.length (max 1 c.payload)
    match copyBufs s sizes [] with
    | (.error _, s) => (false, s)
    | (.ok bufs, s) =>
      let s := (bufs.zipIdx).foldl (fun s x =>
        storeWrite s (bufAddr s x.1 0) ((b.drop (x.2 * c.payload)).take c.payload)) s
      (true, addSend s i {
        who := .stor uid, len := b.length, imm := typ * 2 ^ 24 + tag, bufs := bufs, ready := true })

/-- CDW10 to CDW15 of a command's job. -/
def cdws (j : Job) : List Nat := (List.range 6).map fun i => dw (jobHead j) (10 + i)

/-- The lowest tag that is neither at the target nor reserved (R384). -/
def freeCid (s : State) (a : Nat) (t : Att) : Option Nat :=
  (List.range (attDepth t)).find? fun k =>
    !t.lateTags.any (· = k) && !(cmdsOf s a).any fun c => decide (c.2.st = .target ∧ c.2.tag = k)

/-- A command starts at the target (R377, R379). -/
def sendCmd (s : State) (uid : Nat) (c : SxCmd) (t : Att) (j : Job) (tag : Nat) : State :=
  let n := if c.read then 0 else c.len
  let go (s : State) : State := modCmd (cadd s 15 0 0 1) uid fun c => { c with st := .target, tag := tag }
  if overMft t then
    match capsule (stageTouch s c 0 n) t uid 1 tag (sqe c.opc tag (rcdN t 4 4) c.len false (cdws j) ++ stageData s c 0 n) with
    | (true, s) => go s
    | (false, s) => s
  else
    let inCap := decide (0 < n ∧ n ≤ t.ioccsz * 16 - 64)
    let data := if inCap then stageData s c 0 n else []
    tcpWrite (go (if inCap then stageTouch s c 0 n else s)) c.att (pdu t 4 0 (sqe c.opc tag (rcdN t 4 4) c.len inCap (cdws j)) data)

/-- An earlier command of the same SQ has not started (R380). -/
def behind (s : State) (uid : Nat) (sq : Nat) : Bool :=
  s.sx.cmds.any fun x => decide (x.1 < uid ∧ (mget? s.jobs x.1).map (·.sq) = some sq) &&
    (match x.2.st with
      | .queued | .staging | .filling | .unsent => true
      | .xts => !x.2.read
      | _ => false)

/-- Commands that may start do, in their order (R380, R384). -/
def startCmds (s : State) : State :=
  s.sx.cmds.foldl (fun s x =>
    match mget? s.sx.cmds x.1, mget? s.sx.atts x.2.att, mget? s.jobs x.1 with
    | some c, some t, some j =>
      if c.st = .unsent ∧ t.st = .ready ∧ t.detach = none ∧ !behind s x.1 j.sq then
        match freeCid s c.att t with
        | some tag => sendCmd s x.1 c t j tag
        | none => s
      else s
    | _, _, _ => s) s

/-- Place a staging buffer in the XTS ring (R382). -/
def xtsStart (s : State) (uid : Nat) : State :=
  match mget? s.sx.cmds uid, mget? s.jobs uid with
  | some c, some j =>
    match c.buf, mget? s.sx.atts c.att with
    | some b, some t =>
      let tag := (Config.openWord s.free).toNat % 2 ^ 32
      let cd := cdws j
      let side := leBytes 4 (attKey t) ++ leBytes 4 (b2n c.read + attShift t * 2 ^ 8) ++ leBytes 4 (cd.getD 0 0) ++
        leBytes 4 (cd.getD 1 0) ++ leBytes 4 (cd.getD 2 0 % 65536 + 1) ++ leBytes 4 tag ++ leBytes 8 0
      let s := storeWrite (bumpFree s) (bufAddr s b 0) side
      let s := modCmd s uid fun c => { c with st := .xts, xts := true }
      ringArrive s (rd s F.SX_CFG_XTS_RING) {
        buf := b, len := 4096 + c.len, kind := 1, srcHost := true, src := t.tenant } true
    | _, _ => s
  | _, _ => s

/-- The host data of a write is staged, or the deciphered data of a read is there: go on (R381, R382). -/
def unsent (s : State) (uid : Nat) : State :=
  match mget? s.sx.cmds uid with
  | some _ => startCmds (modCmd s uid fun c => { c with st := .unsent })
  | none => s

/-- The command reads or writes enciphered data (R382). -/
def enciphered (s : State) (c : SxCmd) : Bool :=
  (match mget? s.sx.atts c.att with | some t => decide (attKey t ≠ 0) | none => false) &&
    decide (c.opc = 1 ∨ c.opc = 2)

/-- The data of a command has moved between the host and its staging buffer, or could not be read (R381, R383). -/
def storEnd (s : State) (uid : Nat) (err : Option Status) : State :=
  match mget? s.sx.cmds uid with
  | none => s
  | some c =>
    match err with
    | some st => startCmds (cmdEnd s uid st 0)
    | none =>
      match c.st with
      | .filling => if enciphered s c then xtsStart s uid else unsent s uid
      | .emptying => startCmds (cmdEnd (cadd s 15 0 1 c.len) uid .success ((c.cqe.map (·.2)).getD 0 * 2 ^ 32))
      | _ => s

/-- Carters move a command's data (R381). -/
def stageMove (s : State) (uid : Nat) (c : SxCmd) (st : CmdSt) : State :=
  match mget? s.jobs uid, c.buf with
  | some j, some b =>
    let s := modCmd s uid fun c => { c with st := st }
    if !movePossible s j.port (segsOf j.ents) then storEnd s uid (some .noResource)
    else match moveSegs s (jobXfer s j (.stor uid) 2) (decide (st = .emptying)) (segsOf j.ents) (bufAddr s b 4096) with
    | (true, s) => s
    | (false, s) => storEnd s uid none
  | _, _ => s

/-- A waiting command tries to obtain its pool-5 buffer, behind earlier ones of its SQ (R381). -/
def stageTry (s : State) (uid : Nat) : State :=
  match mget? s.sx.cmds uid, mget? s.jobs uid with
  | some c, some j =>
    let earlier := s.sx.cmds.any fun x =>
      decide (x.1 < uid ∧ x.2.st = .staging ∧ (mget? s.jobs x.1).map (·.sq) = some j.sq)
    if c.st ≠ .staging ∨ c.buf.isSome ∨ earlier then s
    else
      match allocFrom s reqSx [5] with
      | (.error _, s) => s
      | (.ok b, s) =>
        let s := bufHand s b
        let c := { c with buf := some b }
        let s := modCmd s uid fun _ => c
        if c.read then unsent s uid else stageMove s uid c .filling
  | _, _ => s

/-- A command goes on once its session is up (R375, R381). -/
def cmdStart (s : State) (uid : Nat) : State :=
  match mget? s.sx.cmds uid with
  | some c =>
    if c.len = 0 then unsent s uid
    else
      stageTry (modCmd s uid fun c => { c with
        st := .staging, stageAt := s.clk, stageMax := rd s F.SX_STAGE_STAGE_WAIT }) uid
  | none => s

/-! ### Answers of the target (R379, R383, R384) -/

/-- The data of a read is complete and a CQE of status zero is there (R382, R383). -/
def readBack (s : State) (uid : Nat) : State :=
  match mget? s.sx.cmds uid with
  | some c =>
    if c.cqe.isNone ∨ c.got < c.len then s
    else
      let s := modCmd s uid fun c => { c with st := .emptying }
      if enciphered s c then xtsStart s uid else stageMove s uid c .emptying
  | none => s

/-- The discarded command that holds a tag of an attachment. -/
def lateCmds (s : State) (a tag : Nat) : List Nat :=
  ((cmdsOf s a).filter fun c => decide (c.2.st = .late ∧ c.2.tag = tag)).map (·.1)

/-- A CQE for a tag of an attachment: `st` its status field, `d0` its DW0 (R383, R384). -/
def cqeIn (s : State) (a : Nat) (t : Att) (tag st d0 : Nat) (raw : List Byte) : State :=
  let code := st - st % 2
  match (cmdsOf s a).find? fun c => decide (c.2.st = .target ∧ c.2.tag = tag) with
  | some (uid, c) =>
    let s := modAtt s a fun t => { t with row := 0 }
    let s :=
      if code ≠ 0 then cmdEnd s uid .nvmeError (code + d0 * 2 ^ 32)
      else if c.read then readBack (modCmd s uid fun c => { c with cqe := some (0, d0) }) uid
      else cmdEnd (cadd s 15 0 2 (if c.opc = 1 then c.len else 0)) uid .success (d0 * 2 ^ 32)
    startCmds s
  | none =>
    if tag ∈ t.lateTags then
      let s := (lateCmds s a tag).foldl dropJob (cadd s 15 0 4 1)
      startCmds (modAtt s a fun t => { t with lateTags := t.lateTags.filter (· ≠ tag), row := 0 })
    else if tag = attDepth t ∧ t.kaFrom.isSome then modAtt s a fun t => { t with kaFrom := none }
    else protoErr s a false raw

/-- Data of a read arrives (R377): what the command has not asked for is a protocol error. -/
def c2hData (s : State) (a : Nat) (t : Att) (tag off : Nat) (data : List Byte) (last : Bool) (raw : List Byte) : State :=
  match (cmdsOf s a).find? fun c => decide (c.2.st = .target ∧ c.2.tag = tag) with
  | some (uid, c) =>
    if !c.read ∨ off + data.length > c.len then protoErr s a false raw
    else
      let s := match c.buf with | some b => storeWrite s (bufAddr s b (4096 + off)) data | none => s
      let s := modCmd s uid fun c => { c with got := c.got + data.length }
      if last then cqeIn s a t tag 0 0 raw else readBack s uid
  | none =>
    if tag ∈ t.lateTags then (if last then cqeIn s a t tag 0 0 raw else s) else protoErr s a false raw

/-- The H2CData PDUs that answer an R2T (R377). -/
def h2cPdus (s : State) (t : Att) (c : SxCmd) (ttag : Nat) (m : Nat) : Nat → Nat → Nat → List Byte
  | 0, _, _ => []
  | k + 1, o, n =>
    if n = 0 then []
    else
      let x := min n m
      pdu t 6 (if x = n then 4 else 0)
        (leBytes 2 c.tag ++ leBytes 2 ttag ++ leBytes 4 o ++ leBytes 4 x ++ leBytes 4 0) (stageData s c o x) ++
        h2cPdus s t c ttag m k (o + x) (n - x)

/-- An R2T (R377). -/
def r2tIn (s : State) (a : Nat) (t : Att) (tag ttag off n : Nat) (raw : List Byte) : State :=
  match (cmdsOf s a).find? fun c => decide (c.2.st = .target ∧ c.2.tag = tag) with
  | some (_, c) =>
    if c.read ∨ off + n > c.len then protoErr s a false raw
    else tcpWrite (stageTouch s c off n) a (h2cPdus s t c ttag (max 1 t.maxh2c) (n + 1) off n)
  | none => if tag ∈ t.lateTags then s else protoErr s a false raw

/-- Header lengths of the PDUs a target sends. -/
def pduHlen (typ : Nat) : Option Nat := if typ = 3 ∨ typ = 5 ∨ typ = 7 ∨ typ = 9 then some 24 else none

/-- One whole PDU (R377). -/
def pduIn (s : State) (a : Nat) (t : Att) (b : List Byte) : State :=
  let typ := leAt b 0 1
  let fl := leAt b 1 1
  let plen := b.length
  let hd := if hdgst t ∧ typ ≠ 3 then 4 else 0
  let pdo := leAt b 3 1
  let dl := leAt b 16 4
  let dd := if ddgst t ∧ typ = 7 ∧ dl ≠ 0 then 4 else 0
  let bad := match typ with
    | 5 | 9 => decide (plen ≠ 24 + hd)
    | 7 => decide (pdo < 24 + hd ∨ plen ≠ pdo + dl + dd)
    | _ => false
  if bad then protoErr s a false b
  else if hd = 4 ∧ leAt b 24 4 ≠ crc32c (b.take 24) then protoErr s a true b
  else if dd = 4 ∧ leAt b (pdo + dl) 4 ≠ crc32c ((b.drop pdo).take dl) then protoErr s a true b
  else
    match typ with
    | 5 => cqeIn s a t (leAt b 20 2) (leAt b 22 2) (leAt b 8 4) b
    | 7 => c2hData s a t (leAt b 8 2) (leAt b 12 4) ((b.drop pdo).take dl) (bitOf fl 3 && bitOf fl 2) b
    | 9 => r2tIn s a t (leAt b 8 2) (leAt b 10 2) (leAt b 12 4) (leAt b 16 4) b
    | _ => sessDown s a

/-- Read whole PDUs from the stream (R377). -/
def pdusIn (s : State) (a : Nat) : Nat → State
  | 0 => s
  | n + 1 =>
    match mget? s.sx.atts a, tcpOf s a with
    | some t, some c =>
      if c.inb.length < 8 then s
      else
        let typ := leAt c.inb 0 1
        let plen := leAt c.inb 4 4
        if pduHlen typ ≠ some (leAt c.inb 2 1) ∨ plen < 24 then protoErr s a false c.inb
        else if c.inb.length < plen then s
        else
          let b := c.inb.take plen
          pdusIn (pduIn (modTcp s a fun c => { c with inb := c.inb.drop plen }) a t b) a n
    | _, _ => s

/-! ### Segments received (R377, R386) -/

/-- The TCP header of a received segment, after its IP header. -/
structure Seg4 where
  v6 : Bool
  src : Nat
  dst : Nat
  sport : Nat
  dport : Nat
  seq : Nat
  ack : Nat
  flags : Nat
  wnd : Nat
  opts : List Byte
  data : List Byte
  ok : Bool

/-- Parse a segment from its IP header on. -/
def parseSeg (b : List Byte) : Seg4 :=
  let v6 := beAt b 0 1 / 16 = 6
  let hl := if v6 then 40 else beAt b 0 1 % 16 * 4
  let total := if v6 then 40 + beAt b 4 2 else beAt b 2 2
  let proto := if v6 then beAt b 6 1 else beAt b 9 1
  let src := if v6 then beAt b 8 16 else beAt b 12 4
  let dst := if v6 then beAt b 24 16 else beAt b 16 4
  let g := (b.take total).drop hl
  let off := beAt g 12 1 / 16 * 4
  let sum := beAt g 16 2
  { v6 := v6, src := src, dst := dst, sport := beAt g 0 2, dport := beAt g 2 2, seq := beAt g 4 4, ack := beAt g 8 4
    flags := beAt g 13 1, wnd := beAt g 14 2, opts := (g.take off).drop 20, data := g.drop off
    ok := decide (proto = 6 ∧ 20 ≤ off ∧ off ≤ g.length ∧ total ≤ b.length ∧ 20 ≤ hl) &&
      decide (sum = tcpSum v6 src dst (g.take 16 ++ [0, 0] ++ g.drop 18)) }

/-- An option of a segment: the bytes after its kind and length. -/
def tcpOpt (kind : Nat) : Nat → List Byte → Option (List Byte)
  | 0, _ => none
  | n + 1, l =>
    let k := leAt l 0 1
    let len := leAt l 1 1
    if l = [] ∨ k = 0 then none
    else if k = 1 then tcpOpt kind n (l.drop 1)
    else if len < 2 then none
    else if k = kind then some ((l.take len).drop 2)
    else tcpOpt kind n (l.drop len)

/-- The SACK ranges of a segment (RFC 2018). -/
def sackRanges (b : List Byte) : List (Nat × Nat) :=
  (List.range (b.length / 8)).map fun i => (beAt b (8 * i) 4, beAt b (8 * i + 4) 4)

/-- The window after an acknowledgement of `n` new bytes (RFC 5681): none while a loss is recovered, the threshold at the end of
it. -/
def cwndAfter (c : Tcp) (n : Nat) (done : Bool) : Nat :=
  if c.recover.isSome ∧ !c.rto then (if done then c.ssthresh else c.cwnd)
  else if c.cwnd < c.ssthresh then c.cwnd + min n c.mss
  else c.cwnd + max 1 (c.mss * c.mss / max 1 c.cwnd)

/-- New bytes are acknowledged: they leave, the window follows, and what is still missing is sent again (RFC 5681, RFC
6675). -/
def tcpAcked (s : State) (a : Nat) (c : Tcp) (g : Seg4) (n wnd : Nat) (sk : List (Nat × Nat)) : State :=
  let c := match (tcpOpt 8 40 g.opts).map fun b => beAt b 4 4 with
    | some e => if c.tsOn then tcpRtt c (psnSub (tcpMs s) e * 1000) else c
    | none => c
  let done := c.recover.all fun r => decide (psnSub r g.ack = 0 ∨ 2 ^ 31 ≤ psnSub r g.ack)
  let c' : Tcp := { c with
    una := g.ack, out := c.out.drop n, wnd := wnd, cwnd := cwndAfter c n done, dup := 0, tries := 0
    recover := if done then none else c.recover, rto := c.rto && !done, rescued := c.rescued && !done
    sacked := (c.sacked ++ sk).eraseDups.filter fun r => decide (psnSub r.1 g.ack < 2 ^ 31)
    timer := if n = flight c then none else some s.clk }
  let s := modTcp s a fun _ => c'
  tcpPushAll (if c'.recover.isSome ∧ !byHoles c' then tcpAgain s a else s) a

/-- A segment that acknowledges nothing new: the third duplicate, or ranges that show the first hole lost, begins the recovery
(RFC 5681, RFC 6675). -/
def tcpDup (s : State) (a : Nat) (c : Tcp) (g : Seg4) (wnd : Nat) (sk : List (Nat × Nat)) : State :=
  let f := flight c
  let new := if c.sackOn then sk.any fun r => !c.sacked.any (· = r) else decide (g.data = [] ∧ wnd = c.wnd)
  let isDup := decide (f > 0) && new
  let c : Tcp := { c with wnd := wnd, dup := c.dup + b2n isDup, sacked := (c.sacked ++ sk).eraseDups }
  let first := c.sackOn && (holes c).head?.any (holeLost c)
  if isDup ∧ c.recover.isNone ∧ (c.dup ≥ 3 ∨ first) then
    let th := max (f / 2) (2 * c.mss)
    tcpPushAll (tcpAgain (modTcp s a fun _ => { c with
      ssthresh := th, cwnd := if c.sackOn then th else th + 3 * c.mss, recover := some c.nxt, rescued := false }) a) a
  else
    tcpPushAll (modTcp s a fun _ =>
      if isDup ∧ c.recover.isSome ∧ !byHoles c then { c with cwnd := c.cwnd + c.mss } else c) a

/-- The acknowledgement of a segment. -/
def tcpAck (s : State) (a : Nat) (c : Tcp) (g : Seg4) : State :=
  let n := psnSub g.ack c.una
  let wnd := g.wnd * 2 ^ c.scale
  let sk := if c.sackOn then sackRanges ((tcpOpt 5 40 g.opts).getD []) else []
  if n > flight c then s else if n > 0 then tcpAcked s a c g n wnd sk else tcpDup s a c g wnd sk

/-- Segments held beyond a gap that now follow on. -/
def tcpJoin : Nat → Tcp → Tcp
  | 0, c => c
  | n + 1, c =>
    match c.ooo.find? fun x => decide (psnSub c.rcv x.1 < 2 ^ 31) with
    | some x =>
      let k := psnSub c.rcv x.1
      let d := x.2.drop k
      tcpJoin n { c with
        rcv := (c.rcv + d.length) % 2 ^ 32, inb := c.inb ++ d, ooo := c.ooo.filter fun y => decide (y.1 ≠ x.1) }
    | none => c

/-- The data of a segment: in order, or held beyond a gap; it is acknowledged. -/
def tcpData (s : State) (a : Nat) (c : Tcp) (g : Seg4) : State :=
  if g.data = [] then s
  else
    let c := match tcpOpt 8 40 g.opts with
      | some b => if c.tsOn ∧ psnSub c.rcv g.seq < 2 ^ 31 then { c with tsRecent := beAt b 0 4 } else c
      | none => c
    let ahead := psnSub g.seq c.rcv
    let c' := if ahead = 0 ∨ ahead ≥ 2 ^ 31 then
        tcpJoin (c.ooo.length + 1) { c with ooo := (g.seq, g.data) :: c.ooo.filter fun x => decide (x.1 ≠ g.seq) }
      else if ahead < 65536 * 2 ^ 14 ∧ !c.ooo.any fun x => decide (x.1 = g.seq ∧ x.2.length ≥ g.data.length) then
        { c with ooo := (g.seq, g.data) :: c.ooo.filter fun x => decide (x.1 ≠ g.seq) }
      else c
    let s := modTcp s a fun _ => c'
    let s := segSend s a c'.nxt 0x010 []
    pdusIn s a (c'.inb.length / 8 + 1)

/-- A segment of a session. The answers of one that is being set up come as the operand of SESSION_UP (R375). -/
def tcpSeg (s : State) (a : Nat) (c : Tcp) (g : Seg4) : State :=
  if c.syn then s
  else if bitOf g.flags 2 then (if g.seq = c.rcv then sessDown s a else s)
  else
    let s := if bitOf g.flags 4 then tcpAck s a c g else s
    match tcpOf s a with
    | none => s
    | some c =>
      let s := tcpData s a c g
      let fin := decide (psnSub (g.seq + g.data.length) ((tcpOf s a).map (·.rcv) |>.getD 0) = 0)
      if bitOf g.flags 0 && fin then sessDown s a else s

/-- RX_SEG: the segment passes to its session (R386). -/
def execRxSeg (core : CoreId) (thread : ThreadId) (ecc : Ecc) (s : State) : Host.Outcome State Fault Refusal :=
  .next (msgRun s core thread 0x05 0x02 fun s m =>
    let off := bitsOf (m.w 2) 23 0
    let g := parseSeg (if off + m.len ≤ poolSize (bPool m.buf) then storeRead s (bufAddr s m.buf off) m.len else [])
    let s := if off + m.len ≤ poolSize (bPool m.buf) then storeMeet s (bufAddr s m.buf off) m.len ecc else s
    let s := msgAnswer (devFree s m.buf) m .success []
    let isIt (t : Att) : Bool :=
      (match t.tcp with | some c => decide (c.port = g.dport) | none => false) &&
        decide (attV6 t = g.v6 ∧ attAddr t = g.src ∧ sxAddr s g.v6 = g.dst ∧ rcdN t 36 2 = g.sport)
    match s.sx.atts.find? fun x => isIt x.2 with
    | none => cadd s 15 0 9 1
    | some (a, _) =>
      match tcpOf s a with
      | some c => if g.ok then tcpSeg s a c g else s
      | none => s)

/-- XTS_DONE: the staging buffer is back (R382, R386). A command that has been discarded meanwhile ends here (R147); one that
has ended has no buffer any more. -/
def execXtsDone (core : CoreId) (thread : ThreadId) (s : State) : Host.Outcome State Fault Refusal :=
  .next (msgRun s core thread 0x05 0x01 fun s m =>
    let s := msgAnswer s m .success []
    match s.sx.cmds.find? fun c => decide (c.2.buf = some m.buf) && c.2.xts with
    | none => s
    | some (uid, c) =>
      let st := bitsOf (m.w 3) 7 0
      let s := modCmd (setBuf s m.buf ⟨.handed, reqSx⟩) uid fun c => { c with xts := false }
      if c.st = .dead then startCmds (dropJob s uid)
      else if st ≠ 0 then startCmds (cmdEnd s uid .workDiscarded (st * 2 ^ 32))
      else if c.read then stageMove s uid { c with xts := false } .emptying
      else unsent s uid)

/-- At an edge: a discarded command whose buffer the flow cores have dropped ends too, and commands behind one that has ended
start (R147, R380). -/
def sxEdge (s : State) : State :=
  if !running s then s
  else startCmds ((s.sx.cmds.filter fun c => decide (c.2.st = .dead) && !c.2.xts).foldl (fun s c => dropJob s c.1) s)

/-- Messages received on the connections of attachments (R379). -/
def takeMsgs (s : State) : State :=
  let l := s.sx.inbox
  l.foldl (fun s x =>
    match mget? s.sx.atts x.1 with
    | none => s
    | some t =>
      if t.st ≠ .ready then s
      else
        let b := x.2.2
        let tag := x.2.1 % 65536
        let want := match (cmdsOf s x.1).find? fun c => decide (c.2.st = .target ∧ c.2.tag = tag) with
          | some (_, c) => some (16 + (if c.read then c.len else 0))
          | none => none
        if x.2.1 / 2 ^ 16 ≠ 0x0200 ∨ b.length < 16 ∨ !(want.all fun n => decide (b.length = n)) then protoErr s x.1 false b
        else
          let s := match (cmdsOf s x.1).find? fun c => decide (c.2.st = .target ∧ c.2.tag = tag) with
            | some (uid, c) =>
              let s := match c.buf with
                | some h => if c.read then storeWrite s (bufAddr s h 4096) (b.drop 16) else s
                | none => s
              modCmd s uid fun c => { c with got := b.length - 16 }
            | none => s
          cqeIn s x.1 t tag (leAt b 14 2) (leAt b 0 4) b) (modSx s fun y => { y with inbox := [] })

/-- RX_PKT: a received MFT packet passes to the transport engine (R314). -/
def execRxPkt (core : CoreId) (thread : ThreadId) (ecc : Ecc) (s : State) : Host.Outcome State Fault Refusal :=
  .next (msgRun s core thread 0x04 0x01 fun s m =>
    let (kept, s) := mftRx s m.buf (bitsOf (m.w 2) 23 0) m.len (bitsOf (m.w 3) 31 0) (bitsOf (m.w 3) 32 32) ecc
    let s := if kept then s else devFree s m.buf
    takeMsgs (msgAnswer s m .success []))

/-! ### Attaching and detaching (R373 to R376) -/

/-- NS_ATTACH: the attach record is read with PF0's requests, once the function may issue the read (R91, R373). -/
def execNsAttach (port : HostPort) (s : State) : Host.Outcome State Fault Refusal :=
  .next (adminRun s port.val 0x40 fun s e =>
    let a := dw2 e 4
    if a % 64 ≠ 0 then finishAdmin s port.val .invalidField 0
    else if !mayRead s port.val none then s
    else hostRead (adminWait s port.val "attach" 0) (.attach port) port.val none a 576)

/-- A name field: at most 223 bytes, zero-padded (R374). -/
def nqnOk (b : List Byte) : Bool :=
  let n := b.takeWhile (· ≠ 0)
  decide (n.length ≤ 223) && (b.drop n.length).all (· = 0)

/-- The fields of an attach record are in range (R374). -/
def rcdOk (b : List Byte) : Bool :=
  let n (o k : Nat) : Nat := leAt b o k
  decide (n 0 1 = 1 ∧ n 1 1 ≤ 1 ∧ n 2 1 < 8 ∧ 9 ≤ n 3 1 ∧ n 3 1 ≤ 14 ∧ 1 ≤ n 4 4 ∧ n 4 4 ≤ 0xFFFFFFFE) &&
  decide ((n 1 1 = 1 ∨ n 12 4 = 0) ∧ 2 ≤ n 16 2 ∧ n 16 2 ≤ 1024 ∧ 1 ≤ n 18 2 ∧ 1 ≤ n 36 2 ∧ n 38 10 = 0) &&
  decide (bitOf (n 2 1) 2 ∨ n 20 12 = 0) && nqnOk ((b.drop 64).take 256) && nqnOk ((b.drop 320).take 256)

/-- The key named by an attach record may serve (R373). -/
def attKeyOk (s : State) (t h : Nat) : Bool :=
  let i := ctxIdx h
  decide (h = 0) ||
  (decide (hKind h ≥ 12 ∧ hGen h = gen s 12 i) &&
    (match mget? s.ls.ctxs i with
      | some x => decide (x.owner = some t ∧ (x.ktype = 3 ∨ x.ktype = 4)) && x.encOk && x.decOk
      | none => false))

/-- The attachment of a tenant's slot. -/
def attOf (s : State) (t slot : Nat) : Option (Nat × Att) :=
  s.sx.atts.find? fun x => decide (x.2.tenant = t ∧ x.2.slot = slot)

/-- The R61 check of the connection an attach record names (R373). -/
def rcdConn (s : State) (t : Nat) (b : List Byte) : Option Status :=
  if leAt b 1 1 ≠ 1 then none
  else
    let h := leAt b 12 4
    checkHandle (hKind h = 7) true (hGen h = gen s 7 (hIdx h))
      (match mget? s.conns (hIdx h) with | some c => decide (c.tenant = t) | none => false)

/-- The largest segment that the egress port of an attachment carries: its MAX_LEN less the Ethernet header and FCS, the IP
and the TCP header (R158, R377). -/
def portMss (s : State) (t : Att) : Option Nat :=
  let v6 := attV6 t
  (portFor s (if v6 then rd s F.SX_FWD_INST6 else rd s F.SX_FWD_INST4) v6 (attAddr t)).1.map fun p =>
    rd s F.MA_FRAME_MAX_LEN p - 18 - (if v6 then 40 else 20) - 20

/-- A session begins to be set up (R375): over TCP, SYN is sent from a local port and with a sequence number that are open;
over MFT, the engine posts a receive buffer (R379). -/
def connectStart (s : State) (a : Nat) : State :=
  match mget? s.sx.atts a with
  | none => s
  | some t =>
    if overMft t then postRx s (attConn t)
    else
      let iss := (Config.entropy (s.free + 1)).toNat % 2 ^ 32
      let mss := (portMss s t).getD 536
      let c : Tcp := {
        port := 49152 + (Config.entropy s.free).toNat % 16384, syn := true, una := iss, nxt := iss, rcv := 0, wnd := 0
        mss := mss, cwnd := mss, timer := some s.clk }
      segSend (modAtt (bumpFree (bumpFree s)) a fun t => { t with tcp := some c }) a iss 0x002 []

/-- The checks of NS_ATTACH in their order, and a CONNECTING attachment (R373). -/
def attach (s : State) (p : Nat) (e : Entry) (b : List Byte) : State :=
  let t := hIdx (dw e 1)
  let slot := dw e 6
  let i := hIdx (leAt b 12 4)
  let mft := leAt b 1 1 = 1
  match rcdConn s t b with
  | some st => finishAdmin s p st 0
  | none =>
    if slot < 1 ∨ slot > 256 ∨ !dwZero e 7 15 ∨ !rcdOk b ∨ rd s F.SX_CFG_EN = 0 ∨ !attKeyOk s t (leAt b 8 4) then
      finishAdmin s p .invalidField 0
    else if (attOf s t slot).isSome ∨ (mft ∧ ((mget? s.conns i).map (·.att)).getD 0 ≠ 0) then finishAdmin s p .inUse 0
    else if s.sx.atts.length ≥ 65536 then finishAdmin s p .noResource 0
    else
      let a := mlow s.sx.atts 0
      let x : Att := {
        tenant := t, slot := slot, rcd := b, since := s.clk, sess := rget s F.SX_SESS_TMO_RESET.off
        tmr := rget s F.SX_TIMER_IO_TIMEOUT.off }
      let s := modSx s fun y => { y with atts := mset y.atts a x }
      let s := if mft then modConn s i fun c => { c with att := a + 1 } else s
      let dead := mft ∧ (mget? s.conns i).any fun c => decide (c.st = .failed)
      finishAdmin (if dead then attFail s a 3 else connectStart s a) p .success 0

/-- The attach record arrives, or could not be read (R373). A tenant whose generation has advanced meanwhile is stale
(R61). -/
def attachRead (s : State) (p : Nat) (data : HostData) : State :=
  let aq := (hpOf s p).aq
  match aq.wait, aq.cur with
  | some w, some e =>
    if w ≠ ("attach", 0) then s
    else if objStale s e then finishAdmin s p .staleHandle 0
    else
      match data with
      | .timeout => finishAdmin s p .hostReadTimeout 0
      | .error => finishAdmin s p .hostReadError 0
      | .ok b => attach s p e (b.take 576 ++ List.replicate (576 - b.length) 0)
  | _, _ => s

/-- ATTACH_RECORD_READ (R373). A read that times out ends with CPL_TIMEOUT. -/
def execAttachRecordRead (port : HostPort) (data : HostData) (s : State) : Host.Outcome State Fault Refusal :=
  if running s ∧ data ≠ .timeout then .next (takeRead s (.attach port) fun s => attachRead s port.val data) else .next s

/-- An attachment is freed: Disconnect on TCP, the session closes, an MFT connection returns to the tenant (R376). -/
def attFree (s : State) (a : Nat) : State :=
  match mget? s.sx.atts a with
  | none => s
  | some t =>
    let s := match t.tcp with
      | some _ =>
        let s := tcpWrite s a (pdu t 4 0 (leBytes 1 0x7F ++ leBytes 1 0x40 ++ leBytes 2 (attDepth t) ++ leBytes 1 8 ++
          leBytes 59 0) [])
        match tcpOf s a with | some c => segSend s a c.nxt 0x011 [] | none => s
      | none => s
    let s := if overMft t then sxDropRx s (attConn t) true else s
    let s := modSx s fun y => { y with atts := mdel y.atts a }
    let s := if overMft t then modConn s (attConn t) fun c => if c.att = a + 1 then { c with att := 0 } else c else s
    match t.detach with
    | some (_, p) => finishAdmin s p .success 0
    | none => s

/-- NS_DETACH: commands that have not started are discarded, those at the target drain (R62, R376). -/
def execNsDetach (port : HostPort) (s : State) : Host.Outcome State Fault Refusal :=
  .next (adminRun s port.val 0x41 fun s e =>
    let p := port.val
    match attOf s (hIdx (dw e 1)) (dw e 4) with
    | none => finishAdmin s p .invalidField 0
    | some (a, t) =>
      if !dwZero e 5 15 then finishAdmin s p .invalidField 0
      else if t.detach.isSome then finishAdmin s p .invalidField 0
      else
        let s := adminWait (modAtt s a fun t => { t with detach := some (s.clk, p) }) p "detach" a
        let s := (cmdsOf s a).foldl (fun s c =>
          match c.2.st with
          | .target | .late | .dead | .emptying => s
          | .xts => if c.2.read then s else sxLate s c.1
          | _ => dropJob s c.1) s
        let s := startCmds s
        if cmdsOf s a = [] then attFree s a else s)

/-- NS_DETACH_TIMEOUT: nothing is outstanding any more, or 10 ms have passed, when what is left is cancelled in place
(R376). -/
def execNsDetachTimeout (att : Fin 65536) (s : State) : Host.Outcome State Fault Refusal :=
  match (mget? s.sx.atts att.val).bind (·.detach) with
  | some (t, _) =>
    if (s.clk ≥ t + msec 10 ∨ cmdsOf s att.val = []) ∧ running s then
      .next (startCmds (attFree ((cmdsOf s att.val).foldl (fun s c => dropJob s c.1) s) att.val))
    else .next s
  | none => .next s

/-! ### Sessions (R375) -/

/-- Connect for the admin queue or the I/O queue (R375, R377): a Fabrics command with 1,024 bytes of data. -/
def connectSqe (t : Att) (io : Bool) : List Byte :=
  leBytes 1 0x7F ++ leBytes 1 0x40 ++ leBytes 2 (attDepth t) ++ leBytes 1 1 ++ leBytes 19 0 ++
    leBytes 8 0 ++ leBytes 4 1024 ++ leBytes 3 0 ++ leBytes 1 0x01 ++
    leBytes 2 0 ++ leBytes 2 (b2n io) ++ leBytes 2 (if io then attDepth t - 1 else Config.adminDepth.toNat) ++
    leBytes 2 0 ++ leBytes 4 (if io then 0 else 100 * rcdN t 18 2) ++ leBytes 12 0
def connectData (t : Att) (cntlid : Nat) : List Byte :=
  (t.rcd.drop 48).take 16 ++ leBytes 2 cntlid ++ leBytes 238 0 ++ (t.rcd.drop 64).take 512 ++ leBytes 256 0

/-- The commands of the setup that the engine sends, each with its data, as far as the target's answers take it. -/
def setupCmds (t : Att) (x : SessUp) : List (List Byte × List Byte) :=
  let con (io : Bool) (c : Nat) : List Byte × List Byte := (connectSqe t io, connectData t c)
  con false 0xFFFF :: (if x.admin ≠ 0 then [] else con true x.cntlid :: (if x.io ≠ 0 then [] else
    [(sqe 0x06 (attDepth t) (rcdN t 4 4) 4096 false [0, 0, 0, 0, 0, 0], [])]))

/-- ICReq: PFV 0, HPDA 0, the digests that the record asks for (R377). -/
def icReq (t : Att) : List Byte :=
  pduHdr 0 0 128 0 128 ++ leBytes 2 0 ++ leBytes 1 0 ++ leBytes 1 (b2n (hdgst t) + 2 * b2n (ddgst t)) ++ leBytes 116 0

/-- Send bytes that the target acknowledges and answers with so many bytes of its own. -/
def setupSend (s : State) (a : Nat) (ans : Nat) : Nat → List Byte → State
  | 0, _ => s
  | n + 1, b =>
    match tcpOf s a with
    | none => s
    | some c =>
      if b = [] then modTcp s a fun c => { c with rcv := (c.rcv + ans) % 2 ^ 32 }
      else
        let k := min b.length (max 1 c.mss)
        let s := modTcp (segSend s a c.nxt 0x018 (b.take k)) a fun c => { c with
          una := (c.nxt + k) % 2 ^ 32, nxt := (c.nxt + k) % 2 ^ 32 }
        setupSend s a ans n (b.drop k)

/-- Bytes of the answers to the commands of the setup. -/
def setupAnswer (t : Att) (x : SessUp) (last : Bool) : Nat :=
  let rsp := 24 + 4 * b2n (hdgst t)
  if last ∧ x.admin = 0 ∧ x.io = 0 ∧ x.idSt = 0 then rsp + 4096 + 4 * b2n (ddgst t) + (if x.success then 0 else rsp) else rsp

/-- What the engine sends while the session is set up (R375, R377): over TCP the acknowledgement of the target's SYN, ICReq, and
the commands as capsules; over MFT the commands as messages (R379). The whole exchange is emitted when the answers arrive (DESIGN CHOICE, log entry
123). -/
def setupRun (s : State) (a : Nat) (t : Att) (x : SessUp) : State :=
  let cs := setupCmds t x
  if overMft t then
    cs.foldl (fun s c => (capsule s t 0 1 (attDepth t) (c.1 ++ c.2)).2) s
  else
    let s := modTcp s a fun c => { c with
      syn := false, una := (c.una + 1) % 2 ^ 32, nxt := (c.una + 1) % 2 ^ 32, rcv := (x.irs + 1) % 2 ^ 32, wnd := x.wnd
      scale := min x.scale 14, mss := max 1 (min x.mss c.mss), tsOn := x.ts, sackOn := x.sack, timer := none, tries := 0 }
    let ack (s : State) : State := match tcpOf s a with | some c => segSend s a c.nxt 0x010 [] | none => s
    let s := setupSend (ack s) a 128 130 (icReq t)
    ack (cs.zipIdx.foldl (fun s c =>
      let b := pdu t 4 0 c.1.1 c.1.2
      setupSend s a (setupAnswer t x (decide (c.2 = 2))) (b.length + 1) b) s)

/-- The REASON for which the target's answers make the attachment FAILED (R375). -/
def setupBad (t : Att) (x : SessUp) : Option Nat :=
  if x.admin ≠ 0 ∨ x.io ≠ 0 then some 2
  else if x.idSt ≠ 0 ∨ x.nsze = 0 then some 4
  else if x.lba ≠ attShift t ∨ x.mdBytes ≠ 0 then some 1
  else none

/-- The first congestion window (RFC 5681). -/
def firstCwnd (mss : Nat) : Nat := if 2190 < mss then 2 * mss else if 1095 < mss then 3 * mss else 4 * mss

/-- SESSION_UP: the setup of a CONNECTING attachment's session ends with the target's answers (R375). -/
def execSessionUp (att : Fin 65536) (result : SessEnd) (s : State) : Host.Outcome State Fault Refusal :=
  let a := att.val
  match mget? s.sx.atts a with
  | none => .next s
  | some t =>
    let connUp := !overMft t || (mget? s.conns (attConn t)).any fun c => decide (c.st = .open_)
    if t.st ≠ .connecting ∨ !running s then .next s
    else
      match result with
      | .refused =>
        if overMft t then .next s
        else .next (modAtt s a fun t => { t with st := .reconnecting, since := s.clk, tcp := none })
      | .up x =>
        if !connUp then .next s
        else
          let s := setupRun s a t x
          match setupBad t x with
          | some r =>
            let s := match tcpOf s a with | some c => segSend s a c.nxt 0x014 [] | none => s
            .next (raise (attFail s a r) .sxAttachFail 0)
          | none =>
            let s := modTcp s a fun c => { c with cwnd := firstCwnd c.mss }
            let s := modAtt s a fun t => { t with
              st := .ready, since := s.clk, nsze := x.nsze, ioccsz := x.ioccsz, maxh2c := x.maxh2c, row := 0, kaAt := s.clk }
            let s := ((cmdsOf s a).filter fun c => decide (c.2.st = .queued)).foldl (fun s c => cmdStart s c.1) s
            .next (startCmds s)

/-- CONNECT_TIMEOUT (R375, R387). -/
def execConnectTimeout (att : Fin 65536) (s : State) : Host.Outcome State Fault Refusal :=
  match mget? s.sx.atts att.val with
  | some t =>
    if t.st = .connecting ∧ s.clk ≥ t.since + msec (bitsOf t.sess 15 0) ∧ running s then
      .next (modAtt s att.val fun t => { t with st := .reconnecting, since := s.clk, tcp := none })
    else .next s
  | none => .next s

/-- RECONNECT: a new session starts, under the registers as they stand (R375, R387). -/
def execReconnect (att : Fin 65536) (s : State) : Host.Outcome State Fault Refusal :=
  match mget? s.sx.atts att.val with
  | some t =>
    if t.st = .reconnecting ∧ s.clk ≥ t.since + msec (bitsOf t.tmr 15 0) ∧ running s then
      .next (connectStart (modAtt s att.val fun t => { t with
        st := .connecting, since := s.clk, lateTags := [], sess := rget s F.SX_SESS_TMO_RESET.off
        tmr := rget s F.SX_TIMER_IO_TIMEOUT.off }) att.val)
    else .next s
  | none => .next s

/-- KEEP_ALIVE_SEND: every KATO / 2 on the admin queue (R375). -/
def execKeepAliveSend (att : Fin 65536) (s : State) : Host.Outcome State Fault Refusal :=
  let a := att.val
  match mget? s.sx.atts a with
  | some t =>
    if t.st = .ready ∧ s.clk ≥ t.kaAt + attKato t / 2 ∧ running s then
      let s := modAtt s a fun t => { t with kaAt := s.clk, kaFrom := some (t.kaFrom.getD s.clk) }
      let b := sqe 0x18 (attDepth t) 0 0 false [0, 0, 0, 0, 0, 0]
      if overMft t then .next (capsule s t 0 1 (attDepth t) b).2 else .next (tcpWrite s a (pdu t 4 0 b []))
    else .next s
  | none => .next s

/-- KATO_EXPIRE (R375). -/
def execKatoExpire (att : Fin 65536) (s : State) : Host.Outcome State Fault Refusal :=
  match mget? s.sx.atts att.val with
  | some t =>
    match t.kaFrom with
    | some k => if t.st = .ready ∧ s.clk ≥ k + attKato t ∧ running s then .next (sessDown s att.val) else .next s
    | none => .next s
  | none => .next s

/-- TCP_RETRANSMISSION_TIMEOUT: the oldest segment is sent again; after 15 expiries in a row the connection is lost
(R375, R377). -/
def execTcpRetransmissionTimeout (att : Fin 65536) (s : State) : Host.Outcome State Fault Refusal :=
  let a := att.val
  match tcpOf s a with
  | some c =>
    match c.timer with
    | some t =>
      if s.clk < t + tcpRto c ∨ !running s then .next s
      else if c.tries ≥ 15 then .next (sessDown s a)
      else
        let s := modTcp s a fun c => { c with
          tries := c.tries + 1, timer := some s.clk, ssthresh := max (flight c / 2) (2 * c.mss), cwnd := c.mss
          recover := some c.nxt, rto := true, rescued := false, dup := 0, sacked := [] }
        .next (tcpAgain s a)
    | none => .next s
  | none => .next s

/-! ### Commands (R380, R381, R384) -/

/-- The checks of an NVME job (R380). -/
def nvmeOk (t : Att) (j : Job) : Bool :=
  let e := jobHead j
  let op := dw e 8
  let n := segBytes (segsOf j.ents)
  match op with
  | 1 | 2 => decide (n = (dw e 12 % 65536 + 1) * 2 ^ attShift t ∧ n ≤ 2093056)
  | 9 => decide (n = (dw e 10 % 256 + 1) * 16)
  | 0 => decide (n = 0)
  | 8 => decide (n = 0 ∧ attKey t = 0)
  | _ => false

/-- NVME (R380). -/
def execNvme (uid : Nat) (s : State) : Host.Outcome State Fault Refusal :=
  .next (jobRun s uid 0x85 fun s j =>
    let e := jobHead j
    match j.owner.bind fun t => attOf s t (dw e 9) with
    | none => finishJob s uid .invalidField 0
    | some (a, t) =>
      if t.st = .failed then finishJob s uid .storageTimeout (t.reason * 2 ^ 32)
      else if t.detach.isSome ∨ !nvmeOk t j ∨ !segsOwned s (ownerReq j.owner) (segsOf j.ents) then
        finishJob s uid .invalidField 0
      else if (segsOf j.ents).any (fun g => !g.inMere) ∧ !xferPossible s j.port then finishJob s uid .noResource 0
      else
        let c : SxCmd := {
          att := a, opc := dw e 8, len := segBytes (segsOf j.ents), read := dw e 8 == 2, since := s.clk
          tmo := rd s F.SX_TIMER_IO_TIMEOUT }
        let s := modSx s fun x => { x with cmds := mset x.cmds uid c }
        if t.st = .ready then cmdStart s uid else s)

/-- STAGE_ALLOC (R381). -/
def execStageAlloc (uid : Nat) (s : State) : Host.Outcome State Fault Refusal :=
  if running s then .next (stageTry s uid) else .next s

/-- STAGE_WAIT_EXPIRE (R381). -/
def execStageWaitExpire (uid : Nat) (s : State) : Host.Outcome State Fault Refusal :=
  match mget? s.sx.cmds uid with
  | some c =>
    if c.st = .staging ∧ c.buf = none ∧ s.clk ≥ c.stageAt + usec c.stageMax ∧ running s then
      .next (startCmds (cmdEnd (cadd s 15 0 8 1) uid .noResource 0))
    else .next s
  | none => .next s

/-- SX_CMD_TIMEOUT at most once per attachment and epoch (R384). -/
def cmdTimeoutEv (s : State) (a : Nat) : State :=
  let k := (evCode .sxCmdTimeout, 2 ^ 32 + a)
  if k ∈ s.lk.once then s
  else
    let s := raise s .sxCmdTimeout 0
    { s with lk := { s.lk with once := k :: s.lk.once } }

/-- IO_TIMEOUT (R384). It acts once the PCLK of the expiry is over: an answer of that PCLK is taken first. -/
def execIoTimeout (uid : Nat) (s : State) : Host.Outcome State Fault Refusal :=
  match mget? s.sx.cmds uid with
  | some c =>
    if s.clk ≤ c.since + msec c.tmo ∨ c.st = .late ∨ c.st = .dead ∨ !running s then .next s
    else
      let a := c.att
      let s := cmdTimeoutEv (cadd s 15 0 3 1) a
      let s := modAtt s a fun t => { t with
        row := t.row + 1, lateTags := if c.st = .target then c.tag :: t.lateTags else t.lateTags }
      let s := cmdEnd s uid .storageTimeout 0
      match mget? s.sx.atts a with
      | some t => .next (startCmds (if t.row ≥ bitsOf t.sess 23 16 then sessDown s a else s))
      | none => .next s
  | none => .next s

end Sys2Proof.Machine
end

