-- ==== Sys2Proof/Machine/Contain.lean ====
section
/-! DEFINITION. Events on their way to the log, AER and the alerts; fatal containment; the thermal state; device reset and
the last-resort sequencer (R85, R86, R417 to R433, R465). -/
namespace Sys2Proof.Machine

/-- Change the Lockkeeper, the boot record, Mender. -/
def modLk (s : State) (f : Lk → Lk) : State := { s with lk := f s.lk }
def modBoot (s : State) (f : Boot → Boot) : State := { s with boot := f s.boot }
def modMd (s : State) (f : Mender → Mender) : State := { s with md := f s.md }

/-- The Lockkeeper partition works: POR_N is high and the sequencer has not run (R433, R451). -/
def lkAlive (s : State) : Bool := s.boot.por && decide (s.lk.st ≠ .lrs)

/-- Boot holds in stage ROM until POR_N (R451, R458). -/
def bootHeld (s : State) : Bool := decide (s.boot.err = 1 ∨ s.boot.err = 2)

/-- Lockkeeper firmware runs: neither halted nor held in stage ROM (R416, R451, R458). -/
def lkRuns (s : State) : Bool := lkAlive s && !s.lk.halted && !bootHeld s

/-- Firmware services the watchdog (R416; log entry 122). -/
def wdService (s : State) : State := modLk s fun l => { l with wdAt := s.clk }

/-! ### The log (R418, R419, R421) -/

/-- Codes that level 1 does not include (R446). -/
def excludedCodes : List Nat := [0x0C06, 0x0C09, 0x1405, 0x2403, 0x3803, 0x4402]

/-- The code is neither logged nor reported at the level in force (R421). -/
def excluded (s : State) (code : Nat) : Bool := decide (level s = 1) && decide (code ∈ excludedCodes)

/-- Write an event to the log, or merge it with the newest entry (R418, R419). -/
def logEvent (s : State) (e : Event) : State :=
  let k := (s.lk.tail + 1023) % 1024
  match mget? s.lk.log k with
  | some n =>
    if s.lk.tail ≠ 0 ∧ n.code = e.code ∧ n.inst = e.inst ∧ n.epoch = e.epoch then
      modLk s fun l => { l with log := mset l.log k { n with rep := satInc 255 n.rep } }
    else modLk s fun l => { l with log := mset l.log (l.tail % 1024) e, tail := (l.tail + 1) % 2 ^ 32 }
  | none => modLk s fun l => { l with log := mset l.log (l.tail % 1024) e, tail := (l.tail + 1) % 2 ^ 32 }

/-- The host port on which an event's INSTANCE lies (R424). -/
def evPort (s : State) (e : Event) : Option Nat :=
  let i := hIdx e.inst
  if 2 ^ 28 ≤ e.inst then
    match hKind e.inst with
    | 1 => (mget? s.sqs i).map (·.port)
    | 2 => (mget? s.cqs i).map (·.port)
    | 3 => (mget? s.eqs i).map (·.port)
    | 4 | 5 => (mget? s.tens i).map (·.home)
    | 6 => some (i / 256)
    | _ => none
  else if e.code / 1024 = 2 ∨ e.code / 1024 = 3 ∨ e.code = 0x4801 then some e.inst
  else if e.code / 1024 = 16 then some (engPort s e.inst)
  else none

/-- The header log of an internal error (R86). -/
def evHeader (e : Event) : List Word :=
  [e.code + e.cls * 2 ^ 16, e.time % 2 ^ 32, e.time / 2 ^ 32, 0].map (BitVec.ofNat 32)

/-- A fatal event on a PF0: Uncorrectable Internal Error with ERR_FATAL, whatever the mask and severity say (R85). -/
def aerFatal (s : State) (p : Nat) (e : Event) : State :=
  emit (aerRecord s p .pf0 .uncorrectableInternal false (some (evHeader e)))
    (.errMsg (asPort p) .pf0 .fatal .uncorrectableInternal)

/-- An event of another class on a function: through the function's table, an entry of a correctable event never as
uncorrectable (R85). -/
def aerEvent (s : State) (p : Nat) (f : Fn) (e : Event) : State :=
  let off := match f with | .pf0 => F.HL_AER_MAP_PF0_ENTRY_0.off | .pf1 => F.HL_AER_MAP_PF1_ENTRY_0.off
  let g := e.code / 1024
  let v := bitsOf (rget s (off + 4 * (g / 16)) p) (2 * (g % 16) + 1) (2 * (g % 16))
  if v = 1 ∨ (v = 2 ∧ e.cls = 0) then aerLog s p f .correctedInternal (some (evHeader e))
  else if v = 2 then aerLog s p f .uncorrectableInternal (some (evHeader e))
  else s

/-- An event reaches AER of the existing ports, of those not held in reset by PERST_N (R85, R86). -/
def aerReport (s : State) (e : Event) : State :=
  (List.range 8).foldl (fun s p =>
    if portWidth s p = 0 ∨ (hpOf s p).perst then s
    else if e.cls = 2 then aerFatal s p e
    else aerEvent (aerEvent s p .pf0 e) p .pf1 e) s

/-- An event becomes pending for a PF0; PENDING going from zero makes the alert (R94, R424). -/
def pendAlert (s : State) (p cls : Nat) : State :=
  if !bitOf (rd s F.LK_MB_ALERT_EN_EN 0 p) cls then s
  else
    let old := rd s F.LK_MB_ALERT_PENDING 0 p
    let s := wr s F.LK_MB_ALERT_PENDING 0 p (Nat.lor old (2 ^ cls))
    if old ≠ 0 then s
    else
      let s := modHp s p fun h => { h with alert := true }
      if (fnOf s p .pf0).msixEn then alertSend s p else intaUpdate s p

/-- The alerts of an event (R424, R426). -/
def alertAll (s : State) (e : Event) : State :=
  (List.range 8).foldl (fun s p =>
    let all := decide (p = mgmtPort s ∨ e.cls = 2 ∨ evPort s e = some p)
    let off := decide (e.cls ≠ 2) && (mget {} s.lk.mb p).filter.any (· = e.code / 1024)
    if portWidth s p ≠ 0 ∧ all ∧ !off then pendAlert s p e.cls else s) s

/-- Log an event, map it to AER and set the alerts (R418). -/
def takeEvent (s : State) (e : Event) : State :=
  if excluded s e.code then s else alertAll (aerReport (logEvent s e) e) e

/-- EVENT_RAISE: a unit raises a non-fatal or correctable event (R418). -/
def execEventRaise (ev : Ev) (inst : Word) (s : State) : Host.Outcome State Fault Refusal :=
  if evClass ev = 2 ∨ s.lk.st = .lrs ∨ !s.boot.por then .next s else .next (raise s ev inst.toNat)

/-- EVENT_LOG: the oldest event of the intake queue (R418). During a device reset it waits behind LK_DEVICE_RESET (R420), which
boot or recovery logs. -/
def execEventLog (s : State) : Host.Outcome State Fault Refusal :=
  match s.lk.intake with
  | [] => .next s
  | e :: t =>
    if !lkRuns s ∨ (s.lk.st = .resetting ∧ !s.boot.recovery) then .next s
    else .next (takeEvent (modLk (wdService s) fun l => { l with intake := t }) e)

/-! ### Fatal containment (R428) -/

/-- FAULT_N (R488). -/
def setFault (s : State) (b : Bool) : State :=
  if s.lk.fault = b then s else emit (modLk s fun l => { l with fault := b }) (.faultN b)

/-- Queues and jobs lose all work in flight: nothing is completed (R18, R132, R428). -/
def stopQueues (s : State) : State :=
  let s := (s.jobs.map (·.1)).foldl cancelJob (dropSys (settleIdle s fun _ _ => true) fun _ => true)
  { s with
    sqs := mmap (fun _ q => { q with
      started := [], ents := [], decoded := [], pushed := [], reading := none, dbReading := false, skip := 0 }) s.sqs
    cqs := mmap (fun _ q => { q with fin := [], spill := [], timer := none, hdReading := false, back := false }) s.cqs
    eqs := mmap (fun _ q => { q with hdReading := false, back := false, fresh := false }) s.eqs
    slots := []
    hp := mmap (fun _ h => { h with aq := { h.aq with cur := none, wait := none, mute := false }, held := [] }) s.hp }

/-- DMA stops: requests not yet sent are dropped, completions that come later are discarded (R428). -/
def stopDma (s : State) : State :=
  let s := (s.xfers.map (·.1)).foldl withdrawX s
  { s with
    wreqs := []
    reads := mmap (fun _ r => { r with drop := true }) s.reads
    engs := mmap (fun _ g => { g with chans := [] }) s.engs }

/-- Flow cores and their units stop: every core is STOPPED (R267, R428). -/
def stopCores (s : State) : State :=
  let s := (s.cores.map (·.1)).foldl (fun s c => coreStopped (clearCore s c .workDiscarded) c) s
  { s with
    msgs := [], tblq := [], rings := mmap (fun _ r => { r with q := [] }) s.rings
    ls := { s.ls with queue := [], busy := [], ops := [] } }

/-- Transport and storage engines lose their work (R385, R428). -/
def stopEngines (s : State) : State :=
  let s := s.conns.foldl (fun s c => modConn ((c.2.ctl.map (·.buf)).foldl devFree (connClear s c.1 c.2 none)) c.1 fun c =>
    { c with ctl := [] }) s
  let s := s.seals.foldl (fun s k => devFree s k.buf) s
  { s with
    seals := []
    sx := { s.sx with
      inbox := []
      atts := mmap (fun _ t => if t.st = .failed then t else { t with
        st := .reconnecting, since := s.clk, tcp := none, lateTags := [], row := 0, kaFrom := none, detach := none })
        s.sx.atts } }

/-- Network ports: no frame starts, one in transmission ends, those that wait and received ones go (R18, R428). -/
def stopPorts (s : State) : State :=
  let s := (List.range 32).foldl (fun s p => egDrop (egCut (ingressCut s p) p) p) s
  let s := s.hostq.foldl (fun s f => devFree s f.buf) (s.fw.pend.foldl (fun s x => arrGone s x.a) s)
  { modFw s fun f => { f with pend := [] } with sl := { s.sl with commits := [], arr := [] }, hostq := [] }

/-- Every unit that runs loses its work; write requests already handed are sent (R428). -/
def stopWork (s : State) : State :=
  let r := leaveSplit s (fun _ => true) [] s.wreqs
  stopPorts (stopEngines (stopCores (stopDma (stopQueues (r.1.foldl writeLeave s)))))

/-- A fatal event (R428, R430): containment and entry into FATAL, or one more while FATAL (R429). A boot that holds in stage ROM
holds until POR_N (R451, R458). -/
def contain (s : State) (ev : Ev) (inst : Nat) : State :=
  let e := mkEvent s ev inst
  if !s.boot.por ∨ bootHeld s then s
  else
    match s.lk.st with
    | .lrs => s
    | .fatal => logEvent (modLk s fun l => { l with fatalCount := min 65535 (l.fatalCount + 1) }) e
    | _ =>
      let s := modLk (stopWork s) fun l => { l with
        st := .fatal, first := some e, fatalCount := 1, fatalStart := some s.clk }
      setFault (takeEvent s e) true

/-- FATAL_EVENT: the fatal causes that have no row of their own (R420). -/
def execFatalEvent (noc : Bool) (s : State) : Host.Outcome State Fault Refusal :=
  .next (contain s (if noc then .lkNocFault else .lkCtrlEcc) 0)

/-- RAIL_FAULT (R451). -/
def execRailFault (s : State) : Host.Outcome State Fault Refusal := .next (contain s .lkRailFault 0)

/-- CLOCK_FAULT (R420). -/
def execClockFault (s : State) : Host.Outcome State Fault Refusal := .next (contain s .lkClockFault 0)

/-! ### Temperature (R465) -/

/-- Readings that trip, that warn, and that let the device recover. -/
def stackTemps (s : State) : List Nat := s.hbm.stks.map (·.2.temp)
def thermTrip (s : State) : Bool :=
  decide (rd s F.LK_THERMAL_TRIP_C ≤ s.boot.temp) || (stackTemps s).any (fun t => decide (100 ≤ t))
def thermWarn (s : State) : Bool :=
  decide (rd s F.LK_THERMAL_WARN_C ≤ s.boot.temp) || (stackTemps s).any (fun t => decide (95 < t))
def thermCool (s : State) : Bool :=
  decide (s.boot.temp + 5 < rd s F.LK_THERMAL_WARN_C) && (stackTemps s).all (fun t => decide (t ≤ 90))

/-- The thermal state after a reading of a junction or a stack (R465). -/
def thermStep (s : State) : State :=
  match s.boot.therm with
  | .tripped => s
  | _ =>
    if thermTrip s then
      contain (modBoot s fun b => { b with therm := .tripped, tripAt := some s.clk }) .lkThermalTrip 0
    else if s.boot.therm = .normal ∧ thermWarn s then
      raise (modBoot s fun b => { b with therm := .throttled }) .lkThermalWarn 0
    else if s.boot.therm = .throttled ∧ thermCool s then modBoot s fun b => { b with therm := .normal }
    else s

/-- JUNCTION_SAMPLE: sixteen sensors every 1 ms (R465). -/
def execJunctionSample (temps : List Byte) (s : State) : Host.Outcome State Fault Refusal :=
  let ts := (temps.take 16).map (·.toNat)
  if s.clk < s.boot.sampled + msec 1 ∨ !lkRuns s ∨ ts = [] then .next s
  else
    let hi := ts.foldl max 0
    .next (thermStep (modBoot (wdService s) fun b => { b with
      temp := hi, hottest := ts.idxOf hi, maxC := max b.maxC hi, sampled := s.clk }))

/-- TRIP_POWER_OFF: 1 ms after the containment of a trip, PD01 to PD63 go off, and a migration in OPEN or COPY is aborted
(R244, R465). -/
def execTripPowerOff (s : State) : Host.Outcome State Fault Refusal :=
  match s.boot.tripAt with
  | some t =>
    if s.clk ≥ t + msec 1 ∧ s.lk.st ≠ .lrs ∧ s.boot.por then
      let s := modBoot s fun b => { b with tripAt := none, pd := 1 }
      .next (if s.hbm.mig = .open_ ∨ s.hbm.mig = .copy then { s with hbm := { s.hbm with mig := .idle } } else s)
    else .next s
  | none => .next s

/-! ### Device reset (R430, R431) -/

/-- Registers that a device reset keeps: LK_POLICY and the wear thresholds (R434, R449), and what the boot configuration
fixes until POR_N (R12, R152, R222, R224). -/
def keptRegs (s : State) : Map Word :=
  mfilter (fun k _ =>
    let o := k % 2 ^ 26
    o = F.LK_POLICY_ACTION.off || o = F.LK_WEAR_0_CORE_UNCORR.off || o = F.LK_WEAR_1_PC_CORR.off ||
      o = F.LK_WEAR_2_PC_UNCORR.off || o = F.GL_CONFIG_MGMT_PORT.off || o = F.MS_HC_STATUS_HALVES.off ||
      decide (F.MS_CARVE_GIB.off ≤ o ∧ o < F.MS_CARVE_GIB.off + 24)) s.regs

/-- What every reset of the device leaves: time, outputs, the queue, the pins of the host ports, fuses and stored
configuration (R431, R441, R456). -/
def resetBase (s : State) : State :=
  { State.reset with
    clk := s.clk, free := s.free, uid := s.uid, out := s.out, pending := s.pending, fuses := s.fuses
    hp := mmap (fun _ h => { perst := h.perst }) s.hp
    hbm := { map := s.hbm.map, out := s.hbm.out } }

/-- The device reset (R431): every unit outside PD00 is as after POR_N; boot starts in stage ROM. -/
def deviceReset (s : State) (cause : Nat) : State :=
  { resetBase s with
    regs := keptRegs s
    tl := { latchAt := (s.clk - s.lk.porAt + 499) / 500 }
    md := { s.md with full := false }
    boot := {
      startAt := s.clk, maxC := s.boot.maxC, held := s.boot.held
      hcHalves := (s.boot.held.map fun h => h.hcHalves % 4).getD 3 }
    dbg := {
      st := if s.dbg.st = .lockedOut then .lockedOut else .closed, sessions := s.dbg.sessions, fails := s.dbg.fails
      row := s.dbg.row, lockTill := s.dbg.lockTill, ir := s.dbg.ir, boundary := s.dbg.boundary }
    lk := { s.lk with
      st := .resetting, devResets := satInc 255 s.lk.devResets, first := none, fatalCount := 0, fatalStart := none
      resetWait := none, resetCause := cause, mb := [] } }

/-- A substitution or a migration holds the reset back; so does heat after a trip (R244, R430, R440, R465). -/
def resetHeld (s : State) : Bool :=
  decide (s.hbm.mig ≠ .idle) || decide (s.md.unwritten ≠ []) ||
  (decide (s.boot.therm = .tripped) &&
    (s.boot.tripAt.isSome || decide (95 ≤ s.boot.temp) || (stackTemps s).any fun t => decide (85 ≤ t)))

/-- A device reset that is wanted proceeds, or waits (R430). -/
def wantReset (s : State) (cause : Nat) : State :=
  if resetHeld s then modLk s fun l => { l with resetWait := some cause } else deviceReset s cause

/-- FATAL_TIMER_EXPIRE (R430). -/
def execFatalTimerExpire (s : State) : Host.Outcome State Fault Refusal :=
  match s.lk.fatalStart with
  | some t =>
    if s.lk.st = .fatal ∧ lkRuns s ∧ s.clk ≥ t + msec (rd s F.LK_POLICY_FATAL_DELAY) then
      let s := modLk s fun l => { l with fatalStart := none }
      .next (if rd s F.LK_POLICY_ACTION = 1 then s else wantReset s 1)
    else .next s
  | none => .next s

/-- RESET_PROCEED (R430). -/
def execResetProceed (s : State) : Host.Outcome State Fault Refusal :=
  match s.lk.resetWait with
  | some cause =>
    if lkRuns s ∧ !resetHeld s then .next (deviceReset s cause) else .next s
  | none => .next s

/-! ### The last-resort sequencer (R416, R432, R433) -/

/-- The sequencer runs, once (R432). -/
def lrs (s : State) (cause : Nat) : State :=
  if s.lk.st = .lrs ∨ !s.boot.por then s
  else
    let s := (List.range 32).foldl (fun s p => egCut (ingressCut s p) p) s
    let s := { s with
      macs := mmap (fun _ m => if m.st = .up ∨ m.st = .fault then { m with st := .training } else m) s.macs
      hp := mmap (fun _ h => { h with f0 := { h.f0 with bme := false }, f1 := { h.f1 with bme := false } }) s.hp
      wreqs := [] }
    let s := (List.range 8).foldl (fun s p =>
      if (hpOf s p).ltssm = .l0 then emit s (.errMsg (asPort p) .pf0 .fatal .uncorrectableInternal) else s) s
    modLk (setFault (modLs s fun l => { l with roots := [] }) true) fun l => { l with st := .lrs, lrsCause := cause }

/-- The oscillator's period in ps: 33.334 to 50 ns; the watchdog's time (R414, R416). -/
def oscPs : Nat := 33334 + Config.oscOver.toNat % 16667
def wdPs : Nat := 312500 * oscPs

/-- LOCKSTEP_MISMATCH, LK_REF_LOSS (R416). -/
def execLockstepMismatch (s : State) : Host.Outcome State Fault Refusal := .next (lrs s 1)
def execLkRefLoss (s : State) : Host.Outcome State Fault Refusal := .next (lrs s 3)

/-- LK_WATCHDOG_EXPIRE: no service for 312,500 periods of the oscillator; or the uncorrectable error of the SRAM that halts both
cores, after which no service comes (R416). -/
def execLkWatchdogExpire (sramError : Bool) (s : State) : Host.Outcome State Fault Refusal :=
  if sramError then .next (if lkAlive s then modLk s fun l => { l with halted := true } else s)
  else if s.lk.wdAt + wdPs ≤ s.clk then .next (lrs s 2)
  else .next s

end Sys2Proof.Machine
end

