-- ==== Sys2Proof/Machine/Spares.lean ====
section
/-! DEFINITION. Mender: wear, spares, substitutions, the repair ledger and degraded operation (23_spares_likeness.md). -/
namespace Sys2Proof.Machine

/-! ### Parts and spares (R438, R441) -/

/-- A part has been replaced; a spare stands in for one; a spare is not free. -/
def replaced (s : State) (k p : Nat) : Bool := s.md.subs.any fun x => decide (x.1 = k ∧ x.2.1 = p)
def spareIn (s : State) (k p : Nat) : Bool := s.md.subs.any fun x => decide (x.1 = k ∧ x.2.2 = p)
def spareUsed (s : State) (k p : Nat) : Bool := spareIn s k p || s.md.dead.any fun x => decide (x = (k, p))

/-- The parts that share spares with a part: a cluster, a stack, a quarter, an array. -/
def wearGroup (k p : Nat) : Nat :=
  match k with
  | 1 => p / 13
  | 2 => pcStack p
  | 4 => p / 17
  | 6 | 7 => p / 65536
  | _ => 0

/-- The number is that of a spare, as far as numbers tell. -/
def isSpare (k p : Nat) : Bool :=
  match k with
  | 1 => decide (p % 13 = 12)
  | 2 => decide (p ≥ 256)
  | 3 | 5 => decide (p ≥ 32)
  | 4 => decide (p % 17 = 16)
  | _ => false

/-- Spares of a group, lowest first. -/
def groupSpares (k g : Nat) : List Nat :=
  match k with
  | 1 => [g * 13 + 12]
  | 2 => [256 + 2 * g, 257 + 2 * g]
  | 3 | 5 => [32, 33]
  | 4 => [g * 17 + 16]
  | _ => (List.range (Config.rowSpares g).toNat).map fun i => g * 65536 + (Config.rowSpare g i).toNat

/-- Spares of a group that are free. -/
def freeSpares (s : State) (k g : Nat) : List Nat :=
  (groupSpares k g).filter fun p =>
    if k = 2 then (logPc s p).isNone && !s.hbm.out.any (· = p) && !decide (s.hbm.mig ≠ .idle ∧ s.hbm.spare = p)
    else !spareUsed s k p

/-- Parts of a kind. -/
def partCount (k : Nat) : Nat := [0, 208, 264, 34, 68, 34].getD k (2 ^ 32)

/-- A part that carries work: in range, not replaced, and a spare only when it stands in (R435). -/
def inService (s : State) (k p : Nat) : Bool :=
  decide (1 ≤ k ∧ k ≤ 7 ∧ p < partCount k) &&
    (if k = 2 then (logPc s p).isSome else !replaced s k p && (!isSpare k p || spareIn s k p))

/-- The seconds of Fabric Time for a ledger entry (R441). -/
def ledgerSec (s : State) : Nat :=
  if s.ft.st = .unset ∨ s.ft.st = .acquire then 0 else ftNs s / 1000000000 % 2 ^ 32

/-- Fuse entries that a migration still keeps for itself: its own, and that of a remap (R245, R443). -/
def fuseKept (m : MigSt) : Nat :=
  match m with | .open_ => 2 | .copy | .commit => 1 | .idle | .done => 0

/-- Ledger entries free (R443). -/
def fuseFree (s : State) : Nat :=
  512 - s.md.ledger.length - (s.md.unwritten.filter (·.1.committed)).length - fuseKept s.hbm.mig

/-- The volatile table has room for another substitution (R443). -/
def volatRoom (s : State) : Bool :=
  decide (s.md.volat.length + (s.md.unwritten.filter fun x => !x.1.committed).length < 255)

/-- MD_LEDGER_FULL, once per boot (R443). -/
def ledgerFull (s : State) : State :=
  if s.md.full then s else raise (modMd s fun m => { m with full := true }) .mdLedgerFull 0

/-! ### Substitution and degradation (R438, R440, R444) -/

/-- The logical cores that a core part leaves OFFLINE (R444). -/
def coreOffline (s : State) (part : Nat) : State :=
  match (List.range 192).find? fun l => physCore s l = part with
  | some l =>
    let s := clearCore s l .workDiscarded
    haltClock (modCore s l fun k => { dropThreads s k with
      st := .offline, stopAt := s.clk })
  | none => s

/-- A part runs degraded (R444). -/
def degrade (s : State) (k part : Nat) : State :=
  let s := modMd s fun m => { m with degraded := m.degraded ++ [(k, part)] }
  if k = 1 then coreOffline s part else s

/-- No spare is left for a part: it runs degraded and MD_SPARE_EXHAUSTED is raised once for it (R444). -/
def exhausted (s : State) (k part : Nat) : State := raise (degrade s k part) .mdSpareExhausted 0

/-- A spare takes a part's place; the entry goes to the fuses or, with none free, to the volatile table (R438, R440, R443). -/
def substitute (s : State) (w : Worn) (spare : Nat) : State :=
  let e : LEntry := {
    committed := decide (fuseFree s ≠ 0), kind := w.kind, reason := w.reason, frm := w.part, to_ := spare, sec := ledgerSec s }
  let s := modMd s fun m => { m with
    subs := m.subs ++ [(w.kind, w.part, spare)], unwritten := m.unwritten ++ [(e, s.clk)] }
  let s := if w.kind = 4 then modLs s fun l => { l with badAes := l.badAes.filter (· ≠ w.part) }
    else if w.kind = 5 then modLs s fun l => { l with badGf := l.badGf.filter (· ≠ w.part) }
    else s
  raise (if e.committed then s else ledgerFull s) .mdSubstituted 0

/-- Worn parts of a group that wait. -/
def queuedIn (s : State) (k g : Nat) : List Worn := s.md.queue.filter fun w => decide (w.kind = k ∧ wearGroup k w.part = g)

/-- Put a worn part in the queue: in the order of crossing, ties to the lower number (R439). -/
def queueWorn (w : Worn) : List Worn → List Worn
  | [] => [w]
  | x :: t => if x.kind = w.kind ∧ x.at_ = w.at_ ∧ w.part < x.part then w :: x :: t else x :: queueWorn w t

/-- A part has crossed a threshold: it waits for a spare; the last of those that wait for more spares than are left runs
degraded (R439, R444). -/
def partWorn (s : State) (w : Worn) : State :=
  let g := wearGroup w.kind w.part
  let s := modMd s fun m => { m with queue := queueWorn w m.queue }
  let q := queuedIn s w.kind g
  if (freeSpares s w.kind g).length < q.length then
    match q.getLast? with
    | some x => exhausted (modMd s fun m => { m with queue := m.queue.erase x }) x.kind x.part
    | none => s
  else s

/-- Kind, REASON and threshold of a monitor (R435, R441). -/
def monitorOf (s : State) : Monitor → Nat × Nat × Nat
  | .coreUncorr => (1, 2, rd s F.LK_WEAR_0_CORE_UNCORR)
  | .coreCorr => (1, 1, rd s F.LK_WEAR_0_CORE_CORR)
  | .pcCorr => (2, 1, rd s F.LK_WEAR_1_PC_CORR)
  | .pcUncorr => (2, 2, rd s F.LK_WEAR_2_PC_UNCORR)
  | .pcOnDie => (2, 1, rd s F.LK_WEAR_1_PC_ODECC)
  | .lpmParity => (3, 1, rd s F.LK_WEAR_2_LPM_PARITY)
  | .aesKat => (4, 3, 1)
  | .gfKat => (5, 3, 1)
  | .sramRow => (6, 1, rd s F.LK_WEAR_2_ROW)
  | .tcamRow => (7, 1, rd s F.LK_WEAR_2_ROW)

/-- The part of a cipher monitor has failed its known-answer test (R436). -/
def katFailed (s : State) (k p : Nat) : Bool :=
  match k with
  | 4 => s.ls.badAes.any (· = p)
  | 5 => s.ls.badGf.any (· = p)
  | _ => true

/-- KAT_RUN: an idle unit that fails its known-answer test takes no further request (R436); a spare that fails before its use
is no spare any more. -/
def execKatRun (gf : Bool) (unit : Fin 68) (pass : Bool) (s : State) : Host.Outcome State Fault Refusal :=
  let k := if gf then 5 else 4
  let add (l : List Nat) : List Nat := if unit.val ∈ l then l else unit.val :: l
  if pass ∨ !lkRuns s ∨ partCount k ≤ unit.val ∨ replaced s k unit.val ∨ lsRoom gf ≤ lsHeld s gf unit.val then .next s
  else if inService s k unit.val then
    .next (modLs s fun l => if gf then { l with badGf := add l.badGf } else { l with badAes := add l.badAes })
  else if s.md.dead.any (· = (k, unit.val)) then .next s
  else .next (modMd s fun m => { m with dead := (k, unit.val) :: m.dead })

/-- The errors of a row of an array come from the command, since no rule says what finds them (log entry 63); no threshold is
beyond 15, so more of them at once make no difference. -/
def rowErrors (s : State) (mon : Monitor) (part count : Nat) : State :=
  match mon with
  | .sramRow | .tcamRow => (List.replicate (min 15 count) ()).foldl (fun s _ => wearNote s mon part) s
  | _ => s

/-- Errors of a part in its monitor's window (R241, R435), or its known-answer test (R436). -/
def monitorCount (s : State) (mon : Monitor) (part : Nat) : Nat :=
  match mon with
  | .aesKat | .gfKat => b2n (katFailed s (monitorOf s mon).1 part)
  | _ => wearCount s mon part

/-- WEAR_THRESHOLD_CROSS: a part's count in a monitor's window, with what follows once it reaches the threshold (R435,
R439, R443, R444). -/
def execWearThresholdCross (mon : Monitor) (part count : Word) (s : State) : Host.Outcome State Fault Refusal :=
  let (k, reason, thr) := monitorOf s mon
  let p := part.toNat
  if !lkRuns s then .next s
  else
    let s := rowErrors s mon p count.toNat
    if thr ≤ monitorCount s mon p ∧ inService s k p ∧ !(s.md.degraded.any (· = (k, p))) ∧
        !(s.md.queue.any fun w => decide (w.kind = k ∧ w.part = p)) ∧
        !decide (k = 2 ∧ s.hbm.mig ≠ .idle ∧ s.hbm.old = p) then
      .next (partWorn s { kind := k, part := p, reason := reason, at_ := s.clk })
    else .next s

/-- A worn part leaves the queue for its spare; with no ledger entry and no room in the volatile table it runs degraded
(R439, R443, R444). -/
def takeSpare (s : State) (w : Worn) : State :=
  let s := modMd s fun m => { m with queue := m.queue.erase w }
  match freeSpares s w.kind (wearGroup w.kind w.part) with
  | p :: _ => if fuseFree s = 0 ∧ !volatRoom s then degrade (ledgerFull s) w.kind w.part else substitute s w p
  | [] => exhausted s w.kind w.part

/-- The worn part of some kinds that is next: the oldest of its kind, if `ok` lets it (R439). -/
def nextWorn (s : State) (ks : List Nat) (ok : Worn → Bool) : Option Worn :=
  s.md.queue.find? fun w => decide (w.kind ∈ ks) && (s.md.queue.find? fun x => decide (x.kind = w.kind)) == some w && ok w

/-- The next worn part of some kinds takes its spare (R439). -/
def serveWorn (s : State) (ks : List Nat) (ok : Worn → Bool) : State :=
  match nextWorn s ks ok with
  | some w => if lkRuns s then takeSpare s w else s
  | none => s

/-- CORE_SUBSTITUTE: the logical core goes on unchanged on the spare; a cluster that is off waits (R248, R464). -/
def execCoreSubstitute (s : State) : Host.Outcome State Fault Refusal :=
  .next (serveWorn s [1] fun w => !s.clOff.any (· = w.part / 13))

/-- LPM_BANK_SUBSTITUTE (R438). -/
def execLpmBankSubstitute (s : State) : Host.Outcome State Fault Refusal := .next (serveWorn s [3] fun _ => true)

/-- CIPHER_UNIT_SUBSTITUTE: between two requests of the unit (R350, R438). -/
def execCipherUnitSubstitute (s : State) : Host.Outcome State Fault Refusal :=
  .next (serveWorn s [4, 5] fun w => decide (lsHeld s (decide (w.kind = 5)) w.part = 0))

/-- The entries of a row whose codes have failed are written anew with it (R193, R217, R438). -/
def rowFresh (s : State) (p : Nat) : State :=
  { s with
    pa := { s.pa with bad := s.pa.bad.filter fun x => !Config.rowHolds p 0 (x.1 * 2 ^ 16 + x.2) }
    sl := { s.sl with bad := s.sl.bad.filter fun i => !Config.rowHolds p 1 i }
    fw := { s.fw with
      badLpm := s.fw.badLpm.filter fun i => !Config.rowHolds p 2 i
      badNh := s.fw.badNh.filter fun i => !Config.rowHolds p 3 i } }

/-- ROW_REMAP (R438). -/
def execRowRemap (s : State) : Host.Outcome State Fault Refusal :=
  match nextWorn s [6, 7] fun _ => true with
  | some w =>
    let t := serveWorn s [6, 7] fun _ => true
    .next (if t.md.subs ≠ s.md.subs then rowFresh t w.part else t)
  | none => .next s

/-- LEDGER_WRITE: one entry at a time, in fuses or in the volatile table (R439, R440, R443). -/
def execLedgerWrite (s : State) : Host.Outcome State Fault Refusal :=
  match s.md.unwritten with
  | [] => .next s
  | (e, _) :: t =>
    if !lkRuns s then .next s
    else .next (modMd s fun m =>
      if e.committed then { m with unwritten := t, ledger := m.ledger ++ [e] }
      else { m with unwritten := t, volat := m.volat ++ [e] })

/-- An entry as LEDGER_READ returns it (R441). -/
def entryWords (e : LEntry) : List Byte :=
  leBytes 4 (2 ^ 31 + b2n e.committed * 2 ^ 30 + b2n e.void * 2 ^ 29 + e.kind * 2 ^ 24 + e.reason * 2 ^ 20) ++
    leBytes 4 e.frm ++ leBytes 4 e.to_ ++ leBytes 4 e.sec

end Sys2Proof.Machine
end

