-- ==== Sys2Proof/Machine/Hbm.lean ====
section
/-! DEFINITION. The HBM controller: temperature, refresh, activate counting, training, scrub and migration
(12_hbm_controller.md). -/
namespace Sys2Proof.Machine

/-- Change the controller, a stack. -/
def modHbm (s : State) (f : Hbm → Hbm) : State := { s with hbm := f s.hbm }
def stackOf (s : State) (k : Nat) : Stack := mget {} s.hbm.stks k
def modStack (s : State) (k : Nat) (f : Stack → Stack) : State :=
  modHbm s fun h => { h with stks := mset h.stks k (f (stackOf s k)) }

/-- The clocks and the HBM domains are on (R432, R462). -/
def hbmOn (s : State) : Bool := lkAlive s && bitOf s.boot.pd 17

/-- A counter of the logical pseudo-channel that a physical one carries (R246). -/
def pcCount (s : State) (p i n : Nat) : State :=
  match logPc s p with
  | some l => cadd s 9 l i n
  | none => s

/-- INSTANCE of an event of a physical pseudo-channel. -/
def pcInst (s : State) (p : Nat) : Nat := (logPc s p).getD 0

/-- STACK_TEMP_SAMPLE: every 1 ms (R238, R465). -/
def execStackTempSample (stack : Fin 4) (temp : Byte) (s : State) : Host.Outcome State Fault Refusal :=
  let k := stack.val
  let t := temp.toNat
  let x := stackOf s k
  if s.clk < x.sampled + msec 1 ∨ !lkAlive s then .next s
  else
    let s := modStack s k fun x => { x with
      temp := t, maxC := max x.maxC t, sampled := s.clk
      twoX := if t > 85 then true else if t < 82 then false else x.twoX }
    let s := if t > 85 ∧ !x.twoX then raise s .mcTemp2x 0 else s
    let s := if t > 95 then raise s .mcTempHot 0 else s
    .next (thermStep s)

/-- Refresh interval per bank, and refresh window, in ps (R238). -/
def refPs (x : Stack) : Nat := if x.twoX then 1950000 else 3900000
def winPs (x : Stack) : Nat := if x.twoX then msec 16 else msec 32

/-- A physical pseudo-channel is trained, refreshed and scrubbed (R236, R242). -/
def pcLive (s : State) (p : Nat) : Bool := hbmOn s && (stackOf s (pcStack p)).trained && !s.hbm.out.any (· = p)

/-- BANK_REFRESH (R238). -/
def execBankRefresh (pc : Fin 264) (bank : Fin 16) (s : State) : Host.Outcome State Fault Refusal :=
  let k := pc.val * 16 + bank.val
  if pcLive s pc.val ∧ s.clk ≥ mget 0 s.hbm.refAt k + refPs (stackOf s (pcStack pc.val)) then
    .next (pcCount (modHbm s fun h => { h with refAt := mset h.refAt k s.clk }) pc.val 6 1)
  else .next s

/-- REFRESH_WINDOW_START: the tables are cleared, and MC_SCHED and MC_ACT_CFG come into force (R239, R246). -/
def execRefreshWindowStart (stack : Fin 4) (s : State) : Host.Outcome State Fault Refusal :=
  let k := stack.val
  if hbmOn s ∧ s.clk ≥ (stackOf s k).winAt + winPs (stackOf s k) then
    let s := modHbm s fun h => { h with acts := mfilter (fun a _ => decide (pcStack (a / 4) ≠ k)) h.acts }
    .next (modStack s k fun x => { x with
      winAt := s.clk, sched := rget s F.MC_SCHED_HIT_CAP.off, act := rget s F.MC_ACT_CFG_THRESH.off })
  else .next s

/-- MC_ACT_CFG.THRESH in force on a stack: the reset value until the first window (R246). -/
def actThresh (s : State) (k : Nat) : Nat :=
  let w := (stackOf s k).act
  bitsOf (if w = 0 then resetWord (level s) F.MC_ACT_CFG_THRESH.off else w) 31 16

/-- MC_ACT_CFG.RADIUS in force on a stack (R239, R246). -/
def actRadius (s : State) (k : Nat) : Nat :=
  let w := (stackOf s k).act
  bitsOf (if w = 0 then resetWord (level s) F.MC_ACT_CFG_THRESH.off else w) 1 0

/-- The rows within a radius of a row, on both sides (R239). -/
def nearRows (row radius : Nat) : List Nat :=
  (List.range radius).flatMap fun i => (if i < row then [row - 1 - i] else []) ++ [row + 1 + i]

/-- The least count of a full table's entries. -/
def leastCount : List (Nat × Nat) → Option (Nat × Nat)
  | [] => none
  | x :: t => match leastCount t with
    | some y => if y.2 < x.2 then some y else some x
    | none => some x

/-- n activates of a row in a table of 256 entries: the rows, and the count before they are compared with THRESH
(R239). -/
def actCount (l : List (Nat × Nat)) (row n : Nat) : List (Nat × Nat) × Nat :=
  match l.find? (·.1 = row) with
  | some x => (l.erase x, x.2 + n)
  | none =>
    if l.length < 256 then (l, n)
    else match leastCount l with
      | some y => (l.erase y, y.2 + n)
      | none => (l, n)

/-- NEIGHBOUR_REFRESH: n activates of a row are counted, and at each THRESH its neighbours are refreshed (R239). -/
def execNeighbourRefresh (pc : Fin 264) (group : Fin 4) (row n : Nat) (s : State) : Host.Outcome State Fault Refusal :=
  let p := pc.val
  let k := p * 4 + group.val
  if !pcLive s p ∨ n = 0 then .next s
  else
    let t := mget {} s.hbm.acts k
    let thr := max 1 (actThresh s (pcStack p))
    let (rows, c) := actCount t.rows row n
    let refs := t.refs + c / thr
    let storm := decide (refs > 1024)
    let t' : ActTab := {
      rows := rows ++ [(row, c % thr)], refs := refs, storm := t.storm || storm
      near := if c / thr = 0 then t.near else nearRows row (actRadius s (pcStack p)) }
    let s := pcCount (pcCount (modHbm s fun h => { h with acts := mset h.acts k t' }) p 0 n) p 1 (c / thr)
    .next (if storm && !t.storm then raise s .mcNeighbourStorm (pcInst s p) else s)

/-- Blocks of 64 bytes behind a physical pseudo-channel (R236, R241). -/
def pcBlocks (p : Nat) : Nat := if p < 256 then 8912896 else 16777216

/-- SCRUB_VISIT: the next block of a pseudo-channel is read; `found` 0 nothing, 1 a correctable, 2 an uncorrectable error
(R241, R444). -/
def execScrubVisit (pc : Fin 264) (found : Fin 3) (onDie : Bool) (s : State) : Host.Outcome State Fault Refusal :=
  let p := pc.val
  let x := mget {} s.hbm.scrub p
  let worn := s.md.degraded.any (· = (2, p))
  let h := if worn then 1 else if x.block = 0 then rd s F.MC_SCRUB_PERIOD else x.period
  if !pcLive s p ∨ h = 0 ∨ s.clk < x.at_ + h * 3600 * 10 ^ 12 / pcBlocks p then .next s
  else
    let x' : ScrubPos := { block := (x.block + 1) % pcBlocks p, at_ := s.clk, period := h }
    let s := modHbm s fun b => { b with scrub := mset b.scrub p x' }
    let s := if onDie then wearNote (pcCount s p 2 1) .pcOnDie p else s
    match found.val with
    | 1 => .next (wearNote (pcCount s p 5 1) .pcCorr p)
    | 2 => .next (wearNote (raise (cadd (pcCount s p 4 1) 8 0 16 1) .msEccUncorr 0) .pcUncorr p)
    | _ => .next s

/-- TRAIN_PATTERN_RUN: Lockkeeper firmware runs the helpers in stage TRAIN (R240, R459). Mismatches accumulate over the runs
of one lane group; the first run of another begins anew (log entry 114). -/
def execTrainPatternRun (pc : Fin 264) (lanes : Fin 16) (pattern mismatch : Word) (s : State) :
    Host.Outcome State Fault Refusal :=
  if lkRuns s ∧ s.boot.stage = 5 then
    let ctrl := 2 ^ 31 + pc.val * 2 ^ 8 + lanes.val * 2 ^ 4
    let old := if rget s F.MC_TRN_CTRL_START.off = ctrl then rget s F.MC_TRN_RESULT_MISMATCH.off else 0
    let s := rset (rset s F.MC_TRN_CTRL_START.off 0 ctrl) F.MC_TRN_PAT_PATTERN.off 0 pattern.toNat
    .next (rset s F.MC_TRN_RESULT_MISMATCH.off 0 (old ||| mismatch.toNat))
  else .next s

/-! ### Migration (R242 to R245) -/

/-- Units of 1 KiB in a logical pseudo-channel (R242). -/
def pcUnits : Nat := 557056

/-- MIG_START: the oldest worn pseudo-channel (R242, R443). -/
def execMigStart (s : State) : Host.Outcome State Fault Refusal :=
  match s.md.queue.find? fun w => decide (w.kind = 2) with
  | some w =>
    if s.hbm.mig ≠ .idle ∨ !hbmOn s ∨ !lkRuns s then .next s
    else
      let s := modMd s fun m => { m with queue := m.queue.erase w }
      match freeSpares s 2 (pcStack w.part), logPc s w.part with
      | sp :: _, some n =>
        if fuseFree s < 2 then .next (degrade (ledgerFull s) 2 w.part)
        else
          .next (raise (modHbm s fun h => { h with
            mig := .open_, pc := n, old := w.part, spare := sp, units := 0, since := s.clk, reason := w.reason
            sec := ledgerSec s }) .mcMigStart n)
      | _, some _ => .next (exhausted s 2 w.part)
      | _, none => .next s
  | none => .next s

/-- MIG_OPEN_END: the open entry is valid, and COPY begins (R242). -/
def execMigOpenEnd (s : State) : Host.Outcome State Fault Refusal :=
  if s.hbm.mig = .open_ ∧ hbmOn s ∧ lkRuns s then
    let h := s.hbm
    let e : LEntry := { committed := false, kind := 2, reason := h.reason, frm := h.old, to_ := h.spare, sec := h.sec }
    .next (modHbm (modMd s fun m => { m with ledger := m.ledger ++ [e] }) fun h => { h with
      mig := .copy, units := 0, since := s.clk })
  else .next s

/-- MIG_COPY_UNIT: one unit every 64 ns; after the last, every access goes to the spare (R242). -/
def execMigCopyUnit (s : State) : Host.Outcome State Fault Refusal :=
  let h := s.hbm
  if h.mig = .copy ∧ hbmOn s ∧ s.clk ≥ h.since + 64000 * (h.units + 1) then
    if h.units + 1 = pcUnits then
      .next (modHbm s fun h => { h with mig := .commit, units := pcUnits, since := s.clk, map := mset h.map h.pc h.spare })
    else .next (modHbm s fun h => { h with units := h.units + 1 })
  else .next s

/-- MIG_COMMIT_END: the commit fuse is blown (R242); it needs no HBM traffic (R244). -/
def execMigCommitEnd (s : State) : Host.Outcome State Fault Refusal :=
  if s.hbm.mig = .commit ∧ lkRuns s then
    let isIt (e : LEntry) : Bool := decide (e.kind = 2 ∧ e.frm = s.hbm.old ∧ e.to_ = s.hbm.spare) && !e.committed && !e.void
    .next (modHbm (modMd s fun m => { m with
      ledger := m.ledger.map fun e => if isIt e then { e with committed := true } else e }) fun h => { h with
      mig := .done, since := s.clk })
  else .next s

/-- MC_MIG_DONE: the failing pseudo-channel leaves refresh and scrub (R242). -/
def execMcMigDone (s : State) : Host.Outcome State Fault Refusal :=
  if s.hbm.mig = .done ∧ lkRuns s then
    .next (raise (modHbm s fun h => { h with mig := .idle, out := h.old :: h.out }) .mcMigDone s.hbm.pc)
  else .next s

/-- Logical pseudo-channels as the committed entries give them, in ledger order (R442). -/
def ledgerMap (l : List LEntry) : Map Nat :=
  l.foldl (fun m e =>
    if e.kind = 2 ∧ e.committed ∧ !e.void then
      match (List.range 256).find? fun n => mget n m n = e.frm with
      | some n => mset m n e.to_
      | none => m
    else m) []

/-- Physical pseudo-channels that committed entries have left. -/
def ledgerOut (l : List LEntry) : List Nat :=
  (l.filter fun e => decide (e.kind = 2) && e.committed && !e.void).map (·.frm)

/-- An aborted migration at boot: a fresh remap with no copy, or the pseudo-channel stays, degraded (R245). -/
def remapAborted (s : State) (e : LEntry) : State :=
  match logPc s e.frm with
  | none => s
  | some n =>
    let s := raise s .mcMigAborted n
    let s := if s.md.ledger.length < 512 then s else ledgerFull s
    match (if s.md.ledger.length < 512 then freeSpares s 2 (pcStack e.frm) else []) with
    | sp :: _ =>
      let e' : LEntry := { committed := true, kind := 2, reason := 5, frm := e.frm, to_ := sp, sec := ledgerSec s }
      let s := modMd s fun m => { m with
        ledger := (m.ledger.map fun x => if x = e then { x with void := true } else x) ++ [e'] }
      modHbm s fun h => { h with map := mset h.map n sp, out := e.frm :: h.out }
    | [] => modMd s fun m => { m with
        degraded := if m.degraded.any (· = (2, e.frm)) then m.degraded else m.degraded ++ [(2, e.frm)] }

/-- The ledger is applied at boot (R442 to R445); worn parts that a device reset has found waiting go on waiting. -/
def applyLedger (s : State) : State :=
  let l := s.md.ledger
  let s := modMd s fun m => { m with
    subs := ((l.filter fun e => decide (e.kind ≠ 2) && e.committed && !e.void) ++ m.volat).map fun e => (e.kind, e.frm, e.to_) }
  let s := modHbm s fun h => { h with map := ledgerMap l, out := ledgerOut l }
  let s := (l.filter fun e => decide (e.kind = 2) && !e.committed && !e.void).foldl remapAborted s
  (s.md.degraded.filter fun x => decide (x.1 = 1)).foldl (fun s x => coreOffline s x.2) s

end Sys2Proof.Machine
end

