-- ==== Sys2Proof/Machine/Mailbox.lean ====
section
/-! DEFINITION. The mailboxes of the PF0s and their commands (R422 to R427, R456), and the checks of signed images (R453,
R454). -/
namespace Sys2Proof.Machine

/-! ### Signed images -/

/-- The checks of R454 for an image of a type: 0 accepted, else RESULT 4 BAD_SIGNATURE or 5 ROLLBACK. -/
def imgCheck (s : State) (typ : Nat) (i : SignedImg) : Nat :=
  let b := i.bytes
  if s.fuses.revoked.getD (leAt b 7 1) true ∨ b.take 4 ≠ [0x44, 0x4D, 0x5A, 0x54] ∨ leAt b 4 1 ≠ typ ∨ !((b.drop 16).take 48).all (· = 0) ∨ b.length < 256 ∨
      !i.sigOk then 4
  else if leAt b 6 1 < s.fuses.rollback.getD (typ - 1) 0 then 5
  else 0

/-- TYPE, SLOT, ROLLBACK and VERSION of an image header (R453). -/
def imgType (i : SignedImg) : Nat := leAt i.bytes 4 1
def imgSlot (i : SignedImg) : Nat := leAt i.bytes 5 1
def imgRollback (i : SignedImg) : Nat := leAt i.bytes 6 1
def imgVersion (i : SignedImg) : Nat := leAt i.bytes 8 4

/-- A core that is neither STOPPED nor OFFLINE uses the image slot (R269, R271). -/
def imgInUse (s : State) (k : Nat) : Bool :=
  s.cores.any fun c => decide (c.2.image = k ∧ c.2.st ≠ .stopped ∧ c.2.st ≠ .offline)

/-- Note the ROLLBACK of an image in use, or the highest of a loaded FC_IMAGE (R456). -/
def noteInUse (s : State) (typ rb : Nat) : State :=
  let old := s.fuses.inUse.getD (typ - 1) 0
  { s with fuses := { s.fuses with inUse := s.fuses.inUse.set (typ - 1) (if typ = 4 then max old rb else rb) } }

/-- An accepted flow-core image fills its slot and becomes VALID (R268, R271, R460). -/
def imgStore (s : State) (k : Nat) (i : SignedImg) : State :=
  let base := imgBase k
  let kept := mfilter (fun a _ => decide (a < base ∨ base + 2 ^ 23 ≤ a)) s.fwmem
  let s := { s with fwmem := writeMem kept base ((i.bytes.drop 256).take (2 ^ 23)) }
  noteInUse (wr (wr s F.FC_IMG_VALID k 0 1) F.FC_IMG_VERSION k 0 (imgVersion i)) 4 (imgRollback i)

/-! ### The mailbox (R422, R423) -/

/-- The mailbox of a port. -/
def mbOf (s : State) (p : Nat) : Mailbox := mget {} s.lk.mb p
def modMb (s : State) (p : Nat) (f : Mailbox → Mailbox) : State :=
  modLk s fun l => { l with mb := mset l.mb p (f (mbOf s p)) }

/-- A word of the request header or of the request payload. -/
def mbWord (m : Mailbox) (off : Nat) : Nat := leNat (readMem m.area off 4)

/-- The Lockkeeper finishes the command: the response is written, then STATE (R422, R423). -/
def mbFinish (s : State) (p res : Nat) (payload : List Byte) : State :=
  let s := if res = 1 ∨ res = 2 then raiseOnce s .lkMbProtocol p else s
  modMb (wdService s) p fun m => { m with
    st := .done
    area := writeMem (writeMem m.area 0x200
      (leBytes 4 (res + payload.length * 256) ++ leBytes 4 (mbWord m 0x104) ++ List.replicate 56 0)) 0x8000
      (payload.take 0x8000) }

/-- The mailbox commands, with the lowest version that has them (R426, R456). -/
def mbVersionOf (op : Nat) : Option Nat :=
  if op ≤ 5 ∨ (0x20 ≤ op ∧ op ≤ 0x23) then some 1
  else if op = 0x10 ∨ op = 0x11 then some 2
  else none

/-- Commands served in recovery (R458). -/
def mbRecovery : List Nat := [0x00, 0x01, 0x05, 0x21, 0x22, 0x23]

/-- The header of the request makes the command fail at once: RESULT (R425, R427). -/
def mbRefuse (s : State) (m : Mailbox) : Option Nat :=
  let d := mbWord m 0x100
  let op := bitsOf d 7 0
  if d / 256 > 28672 ∨ !(readMem m.area 0x108 56).all (· = 0) then some 2
  else if op = 0 then none
  else if m.version = 0 then some 1
  else
    match mbVersionOf op with
    | none => some 2
    | some v => if m.version < v ∨ (s.boot.recovery ∧ op ∉ mbRecovery) then some 2 else none

/-- The port has a command for the Lockkeeper: its mailbox is BUSY, or a reset of the port has cut one off (R423). -/
def mbWaits (s : State) (p : Nat) : Bool := decide ((mbOf s p).st = .busy) || decide ((mbOf s p).orphans ≠ [])

/-- The port that the round robin over the eight has come to: none before it has a command (R423). -/
def mbNow (s : State) : Option Nat := ((List.range 8).map fun k => (s.lk.mbNext + k) % 8).find? (mbWaits s ·)

/-- The round robin goes on after the port (R423). -/
def mbServed (s : State) (p : Nat) : State := modLk s fun l => { l with mbNext := (p + 1) % 8 }

/-- The Lockkeeper serves the mailboxes: its firmware runs, and the device is in no reset, unless boot ended in recovery
(R423, R458). -/
def mbOpen (s : State) : Bool := lkRuns s && (decide (s.lk.st ≠ .resetting) || s.boot.recovery)

/-- Requests whose header makes them fail are finished as their turns come (R423, R425, R427). -/
def mbServe (s : State) : Nat → State
  | 0 => s
  | k + 1 =>
    match mbNow s with
    | some p =>
      let m := mbOf s p
      match (if mbOpen s ∧ m.orphans = [] then mbRefuse s m else none) with
      | some r => mbServe (mbFinish (mbServed s p) p r []) k
      | none => s
    | none => s

/-- A write of LK_MB_CTRL (R423). -/
def mbCtrl (s : State) (p value : Nat) : State :=
  let m := mbOf s p
  if bitOf value 0 then
    if m.st = .busy then raiseOnce (wr s F.LK_MB_STATUS_BUSY_ERR 0 p 1) .lkMbProtocol p
    else mbServe (modMb s p fun m => { m with st := .busy }) 8
  else if bitOf value 1 ∧ m.st = .done then modMb s p fun m => { m with st := .idle }
  else s

/-- Mailbox writes are served while FATAL (R429) and discarded once the sequencer has run (R433). -/
def mbGate (s : State) (p : HostPort) (eff : State → State) : State :=
  barGate s p .pf0 fun s => if s.lk.st = .lrs then s else eff s

/-- MB_GO (R423). -/
def execMbGo (port : HostPort) (value : Word) (s : State) : Host.Outcome State Fault Refusal :=
  .next (mbGate s port fun s => if bitOf value.toNat 0 then mbCtrl s port.val value.toNat else s)

/-- MB_ACK (R423). -/
def execMbAck (port : HostPort) (s : State) : Host.Outcome State Fault Refusal :=
  .next (mbGate s port fun s => mbCtrl s port.val 2)

/-- A command's outcome: the state, RESULT, the response payload. -/
abbrev MbOut := State × Nat × List Byte

/-- It is the turn of a command of the port. -/
def mbReady (s : State) (p op : Nat) : Bool :=
  let m := mbOf s p
  mbOpen s && mbNow s == some p &&
    (match m.orphans with
     | x :: _ => decide (x.1 = op)
     | [] => decide (m.st = .busy ∧ bitsOf (mbWord m 0x100) 7 0 = op) && (mbRefuse s m).isNone)

/-- The payload of the port's command. -/
def mbPayload (s : State) (p : Nat) : List Byte :=
  match (mbOf s p).orphans with
  | x :: _ => x.2.2
  | [] => readMem (mbOf s p).area 0x1000 (min 28672 (mbWord (mbOf s p) 0x100 / 256))

/-- The Lockkeeper runs the command of a BUSY mailbox, or one that a reset of the port has cut off, which ends with no
response (R423). It serves the ports in round-robin order. The body gets payload DW0. -/
def mbRun (s : State) (p op : Nat) (mgmt : Bool) (body : State → Nat → MbOut) : State :=
  let m := mbOf s p
  let go (s : State) (d : Nat) : MbOut := if mgmt && p ≠ mgmtPort s then (s, 3, []) else body s d
  if !mbReady s p op then s
  else
    match m.orphans with
    | x :: _ => mbServe (go (modMb (mbServed s p) p fun m => { m with orphans := m.orphans.drop 1 }) x.2.1).1 8
    | [] =>
      let r := go (mbServed s p) (mbWord m 0x1000)
      mbServe (mbFinish r.1 p r.2.1 r.2.2) 8

/-- VERSION: the highest version within MIN to MAX, 1 to 2 and GL_VERSIONS (R425); a version chosen before stays (R17; log
entry 103). -/
def execVersion (port : HostPort) (s : State) : Host.Outcome State Fault Refusal :=
  .next (mbRun s port.val 0x00 false fun s d =>
    let v := (mbOf s port.val).version
    let top := if v = 0 then min (bitsOf d 7 4) (if level s = 1 then 1 else 2) else v
    if top = 0 ∨ top < bitsOf d 3 0 ∨ bitsOf d 7 4 < top then (s, 1, [])
    else (modMb s port.val fun m => { m with version := top }, 0, leBytes 4 top))

/-- INFO: stepping, level, serial number, anti-rollback counters, and the images of the flash with their versions (R426);
no rule lays the response out (log entry 60). -/
def execInfo (port : HostPort) (s : State) : Host.Outcome State Fault Refusal :=
  .next (mbRun s port.val 0x01 false fun s _ =>
    (s, 0, Config.mbLayout 0x01 ([rget s 0x4, level s, Config.serial.toNat] ++ s.fuses.rollback ++
      s.boot.dir.flatMap fun e => [e.typ, e.bank, e.slot, imgVersion e.img])))

/-- LEDGER_READ: the fuse entries, then those of the volatile table (R441, R443). -/
def execLedgerRead (port : HostPort) (s : State) : Host.Outcome State Fault Refusal :=
  .next (mbRun s port.val 0x02 false fun s _ => (s, 0, (s.md.ledger ++ s.md.volat).flatMap entryWords))

/-- A rejected image (R426); an image has no handle and the LK group no numbering, so INSTANCE is 0 (R419). -/
def imgReject (s : State) (res : Nat) : MbOut := (raise s .lkImageReject 0, res, [])

/-- The image that IMAGE_LOAD has read, or `none` when the read failed (R268, R269, R426). -/
def imageLoaded (s : State) (img : Option SignedImg) : MbOut :=
  match img with
  | none => (s, 7, [])
  | some i =>
    let r := imgCheck s 4 i
    if r ≠ 0 then imgReject s r
    else if 16 ≤ imgSlot i then imgReject s 4
    else if imgInUse s (imgSlot i) then (s, 6, [])
    else (imgStore s (imgSlot i) i, 0, [])

/-- IMAGE_LOAD: the first time the image is read with PF0's requests, which waits in D3hot (R91); the second time the read has
returned, and `img` is what it gave (R426). -/
def execImageLoad (port : HostPort) (img : Option SignedImg) (s : State) : Host.Outcome State Fault Refusal :=
  let p := port.val
  if !mbReady s p 0x03 then .next s
  else
    match oldestRead s (.fcImage port) with
    | some (k, r) =>
      .next (mbRun { s with sreads := mdel s.sreads k } p 0x03 true fun s _ =>
        if r.drop then (s, 7, []) else imageLoaded s img)
    | none =>
      if p = mgmtPort s ∧ (fnOf s p .pf0).d3 then .next s
      else if p = mgmtPort s ∧ canReq s p .pf0 then
        let b := mbPayload s p
        .next (hostRead s (.fcImage port) p none (Config.imgAddr b).toNat (Config.imgLen b).toNat)
      else .next (mbRun s p 0x03 true fun s _ => (s, 7, []))

/-- CONFIG_LOAD: the payload's configuration is stored for the next device reset (R426, R445). -/
def execConfigLoad (port : HostPort) (img : SignedImg) (s : State) : Host.Outcome State Fault Refusal :=
  if img.bytes ≠ mbPayload s port.val then .next s
  else .next (mbRun s port.val 0x04 true fun s _ =>
    let r := imgCheck s 3 img
    match img.body with
    | .signedCfg c =>
      if r ≠ 0 then imgReject s r
      else ({ s with fuses := { s.fuses with stored := some (c, imgRollback img, imgVersion img) } }, 0, [])
    | _ => imgReject s 4)

/-- DEVICE_RESET (R430, R431). -/
def execDeviceReset (port : HostPort) (s : State) : Host.Outcome State Fault Refusal :=
  let s' := mbRun s port.val 0x05 true fun s _ => (modLk s fun l => { l with resetWait := some 2 }, 0, [])
  if s'.lk.resetWait = some 2 ∧ s.lk.resetWait ≠ some 2 then .next (wantReset s' 2) else .next s'

/-- POLICY_SET (R426, R434). -/
def execPolicySet (port : HostPort) (value : Word) (s : State) : Host.Outcome State Fault Refusal :=
  .next (mbRun s port.val 0x10 true fun s _ =>
    let v := value.toNat
    if bitsOf v 9 0 = 0 ∨ 1000 < bitsOf v 9 0 ∨ bitsOf v 30 10 ≠ 0 then (s, 2, [])
    else (rset s F.LK_POLICY_ACTION.off 0 v, 0, []))

/-- ALERT_FILTER (R426). -/
def execAlertFilter (port : HostPort) (groups : DWord) (s : State) : Host.Outcome State Fault Refusal :=
  .next (mbRun s port.val 0x11 false fun s _ =>
    (modMb s port.val fun m => { m with filter := (List.range 64).filter fun g => groups.getLsbD g }, 0, []))

/-- ROLLBACK_COMMIT: a counter of 64 fuses only rises (R454, R456). -/
def execRollbackCommit (port : HostPort) (s : State) : Host.Outcome State Fault Refusal :=
  .next (mbRun s port.val 0x20 true fun s d =>
    let t := bitsOf d 2 0
    if t = 0 ∨ 4 < t then (s, 2, [])
    else
      let v := max (s.fuses.rollback.getD (t - 1) 0) (min 64 (s.fuses.inUse.getD (t - 1) 0))
      ({ s with fuses := { s.fuses with rollback := s.fuses.rollback.set (t - 1) v } }, 0, []))

/-- FLASH_WRITE of the payload's image: the bank or slot region not in use, then the directory copy with the lower SEQ (R452, R456). -/
def execFlashWrite (port : HostPort) (img : SignedImg) (s : State) : Host.Outcome State Fault Refusal :=
  if img.bytes ≠ mbPayload s port.val then .next s
  else .next (mbRun s port.val 0x21 true fun s _ =>
    let t := imgType img
    let r := if t = 0 ∨ 4 < t then 4 else imgCheck s t img
    if r ≠ 0 then imgReject s r
    else if t = 4 ∧ 16 ≤ imgSlot img then imgReject s 4
    else
      let bank := if t = 4 then 0 else 1 - bitsOf s.boot.bank (t - 1) (t - 1)
      let slot := if t = 4 then imgSlot img else 0
      let copy := if s.boot.seqs.getD 0 0 < s.boot.seqs.getD 1 0 then 0 else 1
      let seq := max (s.boot.seqs.getD 0 0) (s.boot.seqs.getD 1 0) + 1
      let dir := (s.boot.dir.filter fun e => !decide (e.typ = t ∧ e.bank = bank ∧ e.slot = slot)) ++
        [{ typ := t, bank := bank, slot := slot, img := img }]
      (emit (modBoot s fun b => { b with dir := dir, seqs := b.seqs.set copy seq })
        (.flash [copy, (seq - 1) % 2 ^ 32, t, bank, slot] img.bytes), 0, []))

/-- FLASH_SELECT (R455, R456). -/
def execFlashSelect (port : HostPort) (typ : Fin 8) (bankB : Bool) (s : State) : Host.Outcome State Fault Refusal :=
  .next (mbRun s port.val 0x22 true fun s _ =>
    if typ.val = 0 ∨ 3 < typ.val then (s, 2, [])
    else ({ s with fuses := { s.fuses with pref := s.fuses.pref.set (typ.val - 1) bankB } }, 0, []))

/-- LK_BOOT (R466). -/
def bootWord (s : State) : Nat :=
  s.boot.stage * 2 ^ 28 + s.boot.err * 2 ^ 24 + b2n s.boot.recovery * 2 ^ 23 + s.boot.bank

/-- BOOT_REPORT: LK_BOOT, LK_BOOT_TIME, the banks used, and each rejected image (R456); no rule lays it out (log
entry 60). -/
def execBootReport (port : HostPort) (s : State) : Host.Outcome State Fault Refusal :=
  .next (mbRun s port.val 0x23 true fun s _ =>
    (s, 0, Config.mbLayout 0x23 ([bootWord s, s.boot.ms, s.boot.bank] ++
      s.boot.rejects.flatMap fun r => [r.typ, r.bank, r.why])))

end Sys2Proof.Machine
end

