-- ==== Sys2Proof/Machine/Boot.lean ====
section
/-! DEFINITION. POR_N, the boot sequence, recovery and the power domains (24_boot_power.md, R437, R442). -/
namespace Sys2Proof.Machine

/-- POR_N_ASSERT: every unit stops, a migration ends, the root keys go; fuses and the ledger stay (R431, R440, R451). -/
def execPorNAssert (s : State) : Host.Outcome State Fault Refusal :=
  .next (setFault { resetBase s with
    hbm := {}
    md := { ledger := s.md.ledger }
    boot := { por := false }
    lk := { fault := s.lk.fault } } false)

/-- POR_N_RELEASE: boot starts in stage ROM; a rail out of range holds it there with ERR 1 (R405, R451, R459). -/
def execPorNRelease (railsOk : Bool) (s : State) : Host.Outcome State Fault Refusal :=
  if s.boot.por then .next s
  else .next (modLk (modBoot s fun b => { b with
    por := true, railOk := railsOk, err := if railsOk then 0 else 1, startAt := s.clk }) fun l => { l with
    porAt := s.clk, wdAt := s.clk })

/-! ### The images of the flash (R454 to R458) -/

/-- The rules of R457 that a boot configuration breaks. -/
def bootCfgBad (c : BootCfg) : Bool :=
  let w (p : Nat) : Nat := bitsOf c.width (2 * p + 1) (2 * p)
  ((List.range 8).any fun p =>
    decide (w p = 3) || (decide (p % 2 = 1) && (decide (w p = 2) || (decide (w p ≠ 0) && decide (w (p - 1) = 2))))) ||
  decide (8 ≤ c.mgmt) || decide (w c.mgmt = 0) ||
  (!decide (c.carve = []) && !decide (c.carve.length = 6 ∧ c.carve.foldl (· + ·) 0 = 128)) || !c.resvZero

/-- Note an image rejected at boot (R456): RESULT code, or 8 for a boot configuration that breaks R457. -/
def reject (s : State) (t bank why : Nat) : State :=
  modBoot s fun b => { b with rejects := b.rejects ++ [{ typ := t, bank := bank, why := why }] }

/-- Try the banks of an image type in turn: the first image accepted, its bank, and the state with the rejections
(R455, R457). -/
def tryBanks (s : State) (t : Nat) : List Nat → State × Option (SignedImg × Nat)
  | [] => (s, none)
  | k :: rest =>
    match s.boot.dir.find? fun e => decide (e.typ = t ∧ e.bank = k) with
    | none => tryBanks s t rest
    | some e =>
      let r := imgCheck s t e.img
      if r ≠ 0 then tryBanks (reject s t k r) t rest
      else
        match t, e.img.body with
        | 1, _ => (s, some (e.img, k))
        | 2, .bootCfg c =>
          if bootCfgBad c then tryBanks (raise (reject s t k 8) .lkBootCfgReject 0) t rest else (s, some (e.img, k))
        | 3, .signedCfg _ => (s, some (e.img, k))
        | _, _ => tryBanks (reject s t k 4) t rest

/-- The image of a type that boot uses: the preferred bank first (R455). -/
def pick (s : State) (t : Nat) : State × Option SignedImg :=
  let b := s.fuses.pref.getD (t - 1) false
  match tryBanks s t (if b then [1, 0] else [0, 1]) with
  | (s, some (i, k)) =>
    (noteInUse (modBoot s fun b => { b with bank := setBits b.bank (t - 1) (t - 1) k }) t (imgRollback i), some i)
  | (s, none) => (s, none)

/-- Recovery with an ERR: H0 alone trains (R458). After a device reset LK_DEVICE_RESET is logged now, since boot does not end
(R420). -/
def recovery (s : State) (err : Nat) : State :=
  let s := modBoot s fun b => { b with recovery := true, err := err }
  let s := if s.lk.st = .resetting then takeEvent s (mkEvent s .lkDeviceReset s.lk.resetCause) else s
  { s with hp := mmap (fun p h => { h with
      ltssm := if p = 0 ∧ !h.perst then .polling else .detect, width := 0, speed := 0 }) s.hp }

/-- Boot goes on to the next stage. -/
def nextStage (s : State) : State := modBoot s fun b => { b with stage := b.stage + 1 }

/-! ### The stages (R459) -/

/-- Stage ROM: the directory copy with a valid CRC and the higher SEQ; on a tie the first (R452). -/
def romStage (s : State) (a b : Option FlashDir) : State :=
  let sa : Nat := (a.map fun x => x.seq + 1).getD 0
  let sb : Nat := (b.map fun x => x.seq + 1).getD 0
  let d := if sa < sb then b else a
  nextStage (modBoot { s with fuses := { s.fuses with inUse := [0, 0, 0, 0] } } fun x => { x with
    dir := (d.map (·.ents)).getD [], seqs := [sa, sb], rejects := [] })

/-- Stage LK_FW (R458). -/
def fwStage (s : State) : State :=
  match pick s 1 with
  | (s, some _) => nextStage s
  | (s, none) => modBoot s fun b => { b with stage := 0, err := 2 }

/-- What the first boot configuration since POR_N fixed stays in force under a later one: the grouping of the host lanes and
of the octets, the halves of the head cache, the carve-out, and MGMT_PORT where the later one names a port that the
grouping lacks (R12, R152, R222, R224; log entry 103). -/
def holdCfg (h c : BootCfg) : BootCfg :=
  { c with
    width := h.width, octets := h.octets, hcHalves := h.hcHalves, carve := h.carve
    mgmt := if bitsOf h.width (2 * c.mgmt + 1) (2 * c.mgmt) = 0 then h.mgmt else c.mgmt }

/-- What a boot configuration sets (R64, R222, R224, R457, R464). -/
def applyBootCfg (s : State) (c0 : BootCfg) : State :=
  let c := match s.boot.held with | some h => holdCfg h c0 | none => c0
  let s := rset s F.GL_CONFIG_MGMT_PORT.off 0 (c.mgmt * 2 ^ 24 + c.octets % 256 * 2 ^ 16 + c.width % 65536)
  let s := (List.range c.carve.length).foldl (fun s i => rset s (F.MS_CARVE_GIB.off + 4 * i) 0 (c.carve.getD i 0)) s
  let s := wr s F.MS_HC_STATUS_HALVES 0 0 c.hcHalves
  modBoot s fun b => { b with
    clGate := c.clGate, octetEn := c.octetEn % 16, hcHalves := c.hcHalves % 4, ids := c.ids, held := some c }

/-- A threshold of signed configuration within its range, else its default (R435; log entry 121). -/
def wearField (w hi lo least dflt : Nat) : Nat := if least ≤ bitsOf w hi lo then bitsOf w hi lo else dflt

/-- LK_WEAR_0 to LK_WEAR_2 from signed configuration (R435, R449). -/
def wearWord (c : SignedCfg) (i : Nat) : Nat :=
  let w := c.wear.getD i 0
  match i with
  | 0 => wearField w 31 28 1 2 * 2 ^ 28 + wearField w 15 0 64 1024
  | 1 => wearField w 31 16 256 4096 * 2 ^ 16 + wearField w 15 0 1024 65535
  | _ => wearField w 31 28 1 2 * 2 ^ 28 + wearField w 11 4 1 16 * 2 ^ 4 + wearField w 3 0 1 2

/-- What a signed configuration sets (R353, R435, R445, R465). -/
def applySignedCfg (s : State) (c : SignedCfg) : State :=
  let s := rset s likenessKey 0 (if c.level = some 1 then 1 else 2)
  let s := rset s F.LS_SC_SHUFFLE.off 0 (c.sc % 8)
  let s := rset s F.LK_WEAR_0_CORE_UNCORR.off 0 (wearWord c 0)
  let s := rset s F.LK_WEAR_1_PC_CORR.off 0 (wearWord c 1)
  let s := rset s F.LK_WEAR_2_PC_UNCORR.off 0 (wearWord c 2)
  let s := rset s F.LK_THERMAL_TRIP_C.off 0 (c.trip % 256 * 2 ^ 16 + c.warn % 256 * 2 ^ 8)
  modBoot s fun b => { b with cfg := some c }

/-- Stage CONFIG: the configuration stored by CONFIG_LOAD stands before that of the flash (R445, R457, R458). -/
def cfgStage (s : State) : State :=
  match pick s 2 with
  | (s, none) => recovery s 3
  | (s, some i) =>
    let s := match i.body with
      | .bootCfg c => applyBootCfg s c
      | _ => s
    match s.fuses.stored with
    | some (c, rb, _) =>
      if s.fuses.rollback.getD 2 0 ≤ rb then nextStage (applySignedCfg (noteInUse s 3 rb) c)
      else fromFlash s
    | none => fromFlash s
where
  fromFlash (s : State) : State :=
    match pick s 3 with
    | (s, some i) =>
      match i.body with
      | .signedCfg c => nextStage (applySignedCfg s c)
      | _ => recovery s 4
    | (s, none) => recovery s 4

/-- A power domain is switched on in stage PORTS (R463). -/
def portsDomain (s : State) (d : Nat) : Bool :=
  if d = 0 then true
  else if 17 ≤ d ∧ d ≤ 20 then false
  else if 21 ≤ d ∧ d ≤ 28 then bitOf s.boot.octetEn ((d - 21) / 2)
  else if 29 ≤ d ∧ d ≤ 44 then
    let h := (d - 29) / 2
    decide (portWidth s h ≠ 0) || (decide (h % 2 = 1) && decide (portWidth s (h - 1) = 2))
  else if 45 ≤ d ∧ d ≤ 52 then bitOf s.boot.octetEn ((d - 45) % 4)
  else if d = 59 then bitOf s.boot.hcHalves 0
  else if d = 60 then bitOf s.boot.hcHalves 1
  else true

/-- Stage PORTS: the domains, and training of the ports whose PERST_N is released (R461, R463). -/
def portsStage (s : State) : State :=
  let s := modBoot s fun b => { b with
    pd := (List.range 64).foldl (fun w d => w + b2n (portsDomain s d) * 2 ^ d) 0 }
  nextStage ((List.range 8).foldl (fun s p =>
    if portWidth s p ≠ 0 ∧ !(hpOf s p).perst then
      emit (modHp s p fun h => { h with ltssm := .polling }) (.link (asPort p) "training")
    else s) s)

/-- Stage LEDGER (R442, R463). -/
def ledgerStage (s : State) : State :=
  nextStage (modBoot (applyLedger s) fun b => { b with pd := Nat.lor b.pd (15 * 2 ^ 17) })

/-- Stage TRAIN: a stack that fails is trained once more (R240, R458). -/
def trainStage (s : State) (first retry : Nat) : State :=
  let ok (k : Nat) : Bool := bitOf first k || bitOf retry k
  let s := (List.range 4).foldl (fun s k => modStack s k fun x => { x with trained := ok k, winAt := s.clk }) s
  let bad := (List.range 4).filter fun k => !ok k
  let s := bad.foldl (fun s _ => raise s .mcTrainFail 0) s
  if bad = [] then nextStage s else recovery s 5

/-- A part that fails its self-test is substituted with REASON 4, or runs degraded (R437, R444). -/
def selfTestFail (s : State) (x : Nat × Nat) : State :=
  let (k, p) := x
  if k = 2 ∨ k = 0 ∨ 7 < k then s
  else if inService s k p then
    if s.md.degraded.any (· = (k, p)) then s
    else
      let w : Worn := { kind := k, part := p, reason := 4, at_ := s.clk }
      let s := modMd s fun m => { m with queue := m.queue.filter fun v => !decide (v.kind = k ∧ v.part = p) }
      let s := partWorn s w
      if w ∈ s.md.queue then takeSpare s w else s
  else if isSpare k p ∧ p < partCount k ∧ !spareUsed s k p then modMd s fun m => { m with dead := (k, p) :: m.dead }
  else s

/-- Stage LOAD, and READY (R355, R224, R430, R459): after a device reset LK_DEVICE_RESET is the first entry of the
log (R420). -/
def loadStage (s : State) : State :=
  let roots := match s.boot.cfg with
    | some c => c.roots.foldl (fun m r => if r.1 < 16 ∧ r.2.length = 32 then mset m r.1 r.2 else m) []
    | none => []
  let s := modLs { s with coop := { s.coop with ready := true } } fun l => { l with roots := roots }
  let s := modBoot s fun b => { b with
    stage := 8, ms := (s.clk - b.startAt) / 10 ^ 9 % 65536
    fcLeft := (List.range 16).flatMap fun k => b.dir.filter fun e => decide (e.typ = 4 ∧ e.slot = k) }
  if s.lk.st = .resetting then
    modLk (setFault (takeEvent s (mkEvent s .lkDeviceReset s.lk.resetCause)) false) fun l => { l with st := .running }
  else modLk s fun l => { l with st := .running }

/-- BOOT_STAGE_END: the stage in progress ends with what it found (R459). -/
def execBootStageEnd (inp : StageIn) (s : State) : Host.Outcome State Fault Refusal :=
  let busy := s.boot.por && decide (s.lk.st = .boot ∨ s.lk.st = .resetting) && decide (s.boot.err = 0) && !s.lk.halted
  if !busy then .next s
  else
    let s := wdService s
    match s.boot.stage, inp with
    | 0, .flash a b => .next (romStage s a b)
    | 1, .plain => .next (fwStage s)
    | 2, .plain => .next (cfgStage s)
    | 3, .plain => .next (portsStage s)
    | 4, .plain => .next (ledgerStage s)
    | 5, .train first retry => .next (trainStage s first.val retry.val)
    | 6, .selfTest bad => .next (nextStage (bad.foldl selfTestFail s))
    | 7, .plain => .next (loadStage s)
    | _, _ => .next s

/-- FC_IMAGE_VERIFY: the next FC_IMAGE of the flash, in slot order (R460). -/
def execFcImageVerify (s : State) : Host.Outcome State Fault Refusal :=
  match s.boot.fcLeft with
  | [] => .next s
  | e :: t =>
    if s.lk.st ≠ .running ∨ s.lk.halted then .next s
    else
      let s := modBoot s fun b => { b with fcLeft := t }
      let r := imgCheck s 4 e.img
      if r ≠ 0 then .next (reject s 4 e.slot r)
      else if 16 ≤ e.slot ∨ imgInUse s e.slot then .next s
      else .next (imgStore s e.slot e.img)

/-- CLUSTER_POWER_OFF (R464). -/
def execClusterPowerOff (cluster : Fin 16) (s : State) : Host.Outcome State Fault Refusal :=
  let c := cluster.val
  let idle := (List.range 12).all fun i =>
    let k := coreOf s (c * 12 + i)
    decide (k.st = .stopped ∨ k.st = .offline) && decide (k.stopAt + msec 1 ≤ s.clk)
  if running s ∧ s.boot.clGate ∧ c ∉ s.clOff ∧ idle then .next { s with clOff := c :: s.clOff } else .next s

end Sys2Proof.Machine
end

