-- ==== Sys2Proof/Machine/FabricTime.lean ====
section
/-! DEFINITION. Fabric Time: the count, the sources, the servo's states and the commands that act on them
(02_fabric_time.md). -/
namespace Sys2Proof.Machine

/-- A 32-bit two's complement number. -/
def signed32 (v : Nat) : Int := if v < 2 ^ 31 then v else (v : Int) - 2 ^ 32

/-- Change the FT unit. -/
def modFt (s : State) (f : Ft → Ft) : State := { s with ft := f s.ft }

/-- A servo sample takes the settings written since the last one (R47). -/
def takeServoCfg (s : State) : State :=
  modFt s fun f => { f with
    effSrc := rget s F.FT_SRC_CTRL_MODE.off, effLoop := rget s F.FT_LOOP_BW.off
    effLoss := rget s F.FT_LOSS_REF_LOSS.off, effPpsDelay := rget s F.FT_PPS_DELAY_DELAY.off }

/-- The external inputs are valid: PPS and FT_REF_IN (R34). -/
def extValid (s : State) : Bool := s.ft.ppsOk && s.ft.refOk

/-- The source that the MODE in force selects among the valid ones: 0 none, 1 external, 2 in-band (R26). A preferred source
that is valid again is used again at once (log entry 12). -/
def chooseSrc (s : State) : Nat :=
  match bitsOf s.ft.effSrc 1 0 with
  | 0 => if extValid s then 1 else 0
  | 1 => if s.ft.inbandOk then 2 else 0
  | 2 => if extValid s then 1 else if s.ft.inbandOk then 2 else 0
  | _ => if s.ft.inbandOk then 2 else if extValid s then 1 else 0

/-- LOCK_COUNT in force. -/
def lockCount (s : State) : Nat := bitsOf s.ft.effLoop 23 16

/-- The mean of frequency corrections, rounded down (log entry 12). -/
def freqMean (fs : List (BitVec 32)) : BitVec 32 :=
  BitVec.ofInt 32 (fs.foldl (fun (m : Int) f => m + f.toInt) 0 / fs.length)

/-- HOLDOVER: the frequency is frozen at the mean of the last LOCK_COUNT samples, and nothing is slewed (R33). -/
def holdover (s : State) : State :=
  modFt s fun f => { f with
    st := .holdover, src := 0, slew := 0, freq := freqMean (f.freqs.take (lockCount s)) }

/-- Move between the states of R33 after a change of a source's validity. Under external inputs nothing is slewed before
the first TOD_ARM. -/
def evalSrc (s : State) : State :=
  let n := chooseSrc s
  if rd s F.FT_CTRL_ENABLE = 0 then s
  else
    match s.ft.st with
    | .unset =>
      if n = 0 then s else modFt s fun f => { f with st := .acquire, src := n, good := 0, todDone := false, slew := 0 }
    | .acquire => modFt s fun f => { f with
        src := n, st := if n = 0 then .unset else .acquire, slew := if n = 1 ∧ !f.todDone then 0 else f.slew }
    | .locked =>
      if n = 0 then raise (holdover s) .ftHoldoverEnter 0
      else modFt s fun f => { f with src := n }
    | .holdover => if n = 0 then s else modFt s fun f => { f with st := .relock, src := n, good := 0 }
    | .relock => if n = 0 then holdover s else modFt s fun f => { f with src := n }

/-- Return to UNSET and cancel every armed event, with the key that an armed rollover holds; FT_EVENT_CANCELLED once if there
was one (R33, R360). -/
def ftToUnset (s : State) : State :=
  let any := s.armed ≠ []
  let s := { s with armed := [], ls := { s.ls with ctxs := mmap (fun _ x => { x with armed := none }) s.ls.ctxs } }
  let s := modFt s fun f => { f with st := .unset, src := 0, good := 0, slew := 0, todDone := false }
  if any then raise s .ftEventCancelled 0 else s

/-- The offset limits: LOCK_THRESH in ps, and 1 µs. -/
def withinThresh (s : State) (off : Int) : Bool :=
  off.natAbs * 1000 ≤ bitsOf s.ft.effLoop 15 8 * 65536

/-- A sample within or beyond LOCK_THRESH in ACQUIRE or RELOCK: the count of good samples, and LOCKED after LOCK_COUNT
of them (R33). -/
def lockSample (s : State) (off : Int) : State :=
  if withinThresh s off then
    if s.ft.good + 1 ≥ lockCount s then
      let was := s.ft.st
      let s := modFt s fun f => { f with st := .locked, good := 0, longRaised := false, slew := off }
      if was = .relock then raise s .ftRelocked 0 else s
    else modFt s fun f => { f with good := f.good + 1, slew := off }
  else modFt s fun f => { f with good := 0, slew := off }

/-- The path delay record of a port, and a change of it. -/
def pathOf (s : State) (p : Nat) : PathDelay := mget {} s.ft.paths p
def modPath (s : State) (p : Nat) (f : PathDelay → PathDelay) : State :=
  modFt s fun t => { t with paths := mset t.paths p (f (mget {} t.paths p)) }

/-- The times that the device noted for an exchange move with a step of the count by `d`, so that no path delay holds times
of both counts (R28, R33; log entry 12). -/
def shiftPath (d : Int) (x : PathDelay) : PathDelay :=
  { x with
    sync := x.sync.map fun a => (a.1, a.2 + d), req := x.req.map fun a => (a.1, a.2 + d)
    preq := x.preq.map fun a => (a.1, a.2 + d), presp := x.presp.map fun a => (a.1, a.2 + d) }

/-- Step the count to a new value (R33). -/
def stepCount (s : State) (dst : Nat) : State :=
  let d : Int := (dst : Int) - s.ft.count
  modFt s fun f => { f with
    count := dst, good := 0, slew := 0, paths := mmap (fun _ x => shiftPath d x) f.paths
    syncWait := mmap (fun _ x => (x.1, ((x.2 : Int) + d).toNat)) f.syncWait }

/-- A sample the servo accepts: offset = source minus local, in 2^-16 ns; `stepTo` is the count a step would set
(R33). The frequency correction it leaves is a free value (log entry 3). -/
def servoSample (s : State) (off : Int) (stepTo : Nat) : State :=
  let s := modFt s fun f => { f with
    offset := off, lastSample := s.clk, freq := Config.servoFreq s.free
    freqs := (Config.servoFreq s.free :: f.freqs).take 255 }
  let s := bumpFree s
  match s.ft.st with
  | .acquire =>
    if s.ft.src = 1 && !s.ft.todDone then s
    else if off.natAbs > 1000 * 65536 then stepCount s stepTo
    else lockSample s off
  | .relock => lockSample s off
  | .locked => modFt s fun f => { f with slew := off }
  | _ => s

/-- The nearest whole second of a count, in 2^-16 ns. -/
def nearestSecond (c : Int) : Int :=
  let u : Int := 65536 * 1000000000
  (c + u / 2) / u * u

/-- A PPS edge as a servo sample under external inputs (R33): a pending TOD_ARM loads FT_TOD, and the edge is taken
FT_PPS_DELAY earlier than it arrives (log entry 12). -/
def ppsSample (s : State) : State :=
  let delay := signed32 s.ft.effPpsDelay
  if s.ft.todPending && decide (s.ft.st = .acquire) then
    let tod := rget s F.FT_TOD_LO_SEC_LO.off + bitsOf (rget s F.FT_TOD_HI_SEC_HI.off) 15 0 * 2 ^ 32
    let c := ((tod * 1000000000 * 65536 : Nat) : Int) + delay
    modFt (stepCount s c.toNat) fun f => { f with todPending := false, todDone := true, offset := 0, lastSample := s.clk }
  else
    let c := (s.ft.count : Int) - delay
    let t := nearestSecond c
    servoSample s (t - c) (t + delay).toNat

/-- PPS_EDGE: PPS becomes valid, and FT_REF_IN where the operand says that it shows edges; one that does not is lost after
REF_LOSS of its periods only. The edge is a sample, which takes the settings written, and acts on the count when the
external inputs are the source in use (R33, R34, R47). -/
def execPpsEdge (refOk : Bool) (s : State) : Host.Outcome State Fault Refusal :=
  if s.lk.st = .lrs then .next s
  else
    let s := modFt s fun f => { f with
      ppsOk := true, refOk := f.refOk || refOk, lastPps := s.clk, lastRef := if refOk then s.clk else f.lastRef }
    let s := evalSrc (takeServoCfg s)
    .next (if s.ft.src = 1 then ppsSample s else s)

/-! ### 1588 messages (R28, R29) -/

/-- A word of FT_SRC_CTRL selects the port for beacons (R26). -/
def selectsPort (w p : Nat) : Bool := p = bitsOf w 8 4 || (bitOf w 21 && decide (p = bitsOf w 20 16))

/-- 1588 messages reach the FT unit: the port is UP, and the last-resort sequencer has not run. -/
def ptpUp (s : State) (p : Nat) : Bool := decide (s.lk.st ≠ .lrs) && netUp s p

/-- The port carries beacons for the servo by the FT_SRC_CTRL in force (R26, R47). -/
def beaconPort (s : State) (p : Nat) : Bool := selectsPort s.ft.effSrc p

/-- A 1588 message is taken: the domain is the configured one (R28). -/
def ptpTaken (s : State) (p domain : Nat) : Bool := ptpUp s p && decide (domain = bitsOf s.ft.effSrc 30 24)

/-- A beacon of the port and domain is a servo sample: by the FT_SRC_CTRL in force, or by the one written, which a sample
puts in force (R47; log entry 12). -/
def ptpSample (s : State) (p domain : Nat) : Bool :=
  ptpUp s p && [s.ft.effSrc, rget s F.FT_SRC_CTRL_MODE.off].any fun w =>
    selectsPort w p && decide (domain = bitsOf w 30 24)

/-- The epoch-beacon TLV of the domain, marked LOCKED (R27, R29). -/
def beaconLocked (b : Beacon) : Bool :=
  decide (b.org = Config.orgId) && decide (b.orgSub = Config.orgSubtype) && decide (b.quality = 0)

/-- A beacon that arrived when the count was `rx`: only one marked LOCKED counts (R27); the offset is the origin time plus
path delay and FT_ASYM, minus the arrival (R33, R47). -/
def beaconSample (s : State) (p domain : Nat) (b : Beacon) (rx : Int) : State :=
  if !ptpSample s p domain || !beaconLocked b then s
  else
    let s := modPath s p fun x => { x with sync := some (b.origin, rx) }
    let s := modFt s fun f => { f with inbandOk := true, lastBeacon := s.clk, effAsym := rget s F.FT_ASYM_ASYM.off }
    let s := evalSrc (takeServoCfg s)
    if s.ft.src = 2 then
      let off := (b.origin : Int) + (pathOf s p).delay + signed32 s.ft.effAsym - rx
      servoSample s off ((s.ft.count : Int) + off).toNat
    else s

/-- The instant at which a message's first symbol crossed the MDI, `age` before now in 2^-16 ns (R37). -/
def rxTime (s : State) (age : Nat) : Int := (s.ft.count : Int) - age

/-- A time as a 1588 message carries it: seconds, nanoseconds, and the fraction of its correctionField. -/
def ptpTime (c : Int) : List Nat :=
  let n := c.toNat
  [n / 65536 / 1000000000, n / 65536 % 1000000000, n % 65536]

/-- The length of the Ethernet frame of a 1588 message, with its FCS (R28; the message lengths are IEEE 1588's, log entry
23). -/
def ptpLen (kind : String) (tlv : List Byte) : Nat :=
  max 64 (14 + (if kind = "Sync" ∨ kind = "Follow_Up" ∨ kind = "Delay_Req" then 44 else 54) + tlv.length + 4)

/-- A 1588 message goes out on a port that is UP while the device runs, and counts as the multicast frame that carries it
(R28, R168). -/
def sendPtp (s : State) (p : NetPort) (kind : String) (domain : Nat) (fields : List Nat) (tlv : List Byte) : State :=
  if running s && netUp s p.val then
    let s := emit s (.ptp p kind (domain :: fields) tlv)
    cadd (cadd (cadd s 5 p.val 12 1) 5 p.val 13 (ptpLen kind tlv)) 5 p.val 14 1
  else s

/-- The request of the delay mechanism that follows a Sync on a beacon port (R28; log entry 12). -/
def delayReq (s : State) (p : NetPort) (domain seq : Nat) : State :=
  if !ptpTaken s p.val domain || !beaconPort s p.val then s
  else if rd s F.FT_BEACON_DELAY_MECH = 0 then
    sendPtp (modPath s p.val fun x => { x with req := some (seq, txTime s p.val) }) p "Delay_Req" domain [seq] []
  else
    sendPtp (modPath s p.val fun x => { x with preq := some (seq, txTime s p.val), presp := none }) p "Pdelay_Req" domain
      [seq] []

/-- SYNC_RX: one-step mode carries the TLV and is a sample; two-step mode waits for the Follow_Up (R28, R29). A
Delay_Req or a Pdelay_Req follows it, by the delay mechanism (log entry 12). -/
def execSyncRx (port : NetPort) (domain seq age : Nat) (tlv : Option Beacon) (s : State) :
    Host.Outcome State Fault Refusal :=
  if !ptpTaken s port.val domain && !ptpSample s port.val domain then .next s
  else
    let rx := rxTime s age
    let s := match tlv with
      | some b => beaconSample s port.val domain b rx
      | none => modFt s fun f => { f with syncWait := mset f.syncWait port.val (seq, rx.toNat) }
    .next (delayReq s port domain seq)

/-- FOLLOW_UP_RX: completes the two-step Sync of the same port and sequence (R29). -/
def execFollowUpRx (port : NetPort) (domain seq : Nat) (tlv : Beacon) (s : State) :
    Host.Outcome State Fault Refusal :=
  if !ptpSample s port.val domain then .next s
  else
    match mget? s.ft.syncWait port.val with
    | some (q, rx) =>
      if q = seq then
        .next (beaconSample (modFt s fun f => { f with syncWait := mdel f.syncWait port.val }) port.val domain tlv rx)
      else .next s
    | none => .next s

/-- DELAY_REQ_RX: an adapter that sends beacons on the port answers with the arrival time (R28). -/
def execDelayReqRx (port : NetPort) (domain seq age : Nat) (s : State) : Host.Outcome State Fault Refusal :=
  if ptpTaken s port.val domain && rd s F.FT_BEACON_TX_EN = 1 &&
      bitOf (rd s F.FT_BEACON_PORTS_PORTS) port.val && rd s F.FT_BEACON_DELAY_MECH = 0 then
    .next (sendPtp s port "Delay_Resp" domain (seq :: ptpTime (rxTime s age)) [])
  else .next s

/-- DELAY_RESP_RX: half the round trip, (t2 - t1 + t4 - t3) / 2, is the path delay (R28); the sequence is that of the port's
Delay_Req. -/
def execDelayRespRx (port : NetPort) (domain seq t4 : Nat) (s : State) : Host.Outcome State Fault Refusal :=
  if ptpTaken s port.val domain && beaconPort s port.val && rd s F.FT_BEACON_DELAY_MECH = 0 then
    match (pathOf s port.val).sync, (pathOf s port.val).req with
    | some (t1, t2), some (q, t3) =>
      if q = seq then
        .next (modPath s port.val fun x => { x with delay := (t2 - t1 + ((t4 : Int) - t3)) / 2, req := none })
      else .next s
    | _, _ => .next s
  else .next s

/-- PDELAY_REQ_RX: with one-step transmit answered with the turnaround time; else with the arrival time, and with the
departure time in the Follow_Up (R28). -/
def execPdelayReqRx (port : NetPort) (domain seq age : Nat) (s : State) : Host.Outcome State Fault Refusal :=
  if ptpTaken s port.val domain && rd s F.FT_BEACON_DELAY_MECH = 1 then
    let t2 := rxTime s age
    let t3 := txTime s port.val
    if rd s F.FT_BEACON_ONE_STEP = 1 then .next (sendPtp s port "Pdelay_Resp" domain [seq, ((t3 : Int) - t2).toNat] [])
    else
      let s := sendPtp s port "Pdelay_Resp" domain (seq :: ptpTime t2) []
      .next (sendPtp s port "Pdelay_Resp_Follow_Up" domain (seq :: ptpTime t3) [])
  else .next s

/-- The neighbour answers the Pdelay_Req of a sequence: with the turnaround time `turn` the path delay is
((t4 - t1) - turn) / 2 (R28). -/
def pdelayOf (t1 t4 turn : Int) : Int := (t4 - t1 - turn) / 2

/-- PDELAY_RESP_RX: a one-step answer carries the turnaround and gives the path delay; a two-step one notes the neighbour's
arrival time t2 and the local arrival t4 (R28). -/
def execPdelayRespRx (port : NetPort) (domain seq age t2 : Nat) (turn : Option Nat) (s : State) :
    Host.Outcome State Fault Refusal :=
  if ptpTaken s port.val domain && beaconPort s port.val && rd s F.FT_BEACON_DELAY_MECH = 1 then
    match (pathOf s port.val).preq with
    | some (q, t1) =>
      if q ≠ seq then .next s
      else
        match turn with
        | some d => .next (modPath s port.val fun x => { x with delay := pdelayOf t1 (rxTime s age) d, preq := none })
        | none => .next (modPath s port.val fun x => { x with presp := some ((t2 : Int), rxTime s age) })
    | none => .next s
  else .next s

/-- PDELAY_RESP_FOLLOW_UP_RX: ((t4 - t1) - (t3 - t2)) / 2 is the path delay (R28). -/
def execPdelayRespFollowUpRx (port : NetPort) (domain seq t3 : Nat) (s : State) : Host.Outcome State Fault Refusal :=
  if ptpTaken s port.val domain && beaconPort s port.val && rd s F.FT_BEACON_DELAY_MECH = 1 then
    match (pathOf s port.val).preq, (pathOf s port.val).presp with
    | some (q, t1), some (t2, t4) =>
      if q = seq then
        .next (modPath s port.val fun x => { x with
          delay := pdelayOf t1 t4 ((t3 : Int) - t2), preq := none, presp := none })
      else .next s
    | _, _ => .next s
  else .next s

/-- SIGNALING_RX: a Signaling message with the TLV is taken as a beacon (R28). -/
def execSignalingRx (port : NetPort) (domain age : Nat) (tlv : Beacon) (s : State) : Host.Outcome State Fault Refusal :=
  .next (beaconSample s port.val domain tlv (rxTime s age))

/-! ### Losses (R34) -/

/-- The external inputs are lost: FT_REF_LOST if they were valid, and the states of R33 (R34). -/
def extLost (s : State) (f : Ft → Ft) : State :=
  let was := extValid s
  let s := modFt s f
  let s := if was then raise s .ftRefLost 0 else s
  evalSrc s

/-- The period of FT_REF_IN in ps (REF_FREQ). -/
def refPeriod (s : State) : Nat := if bitOf s.ft.effSrc 2 then 6400 else 100000

/-- REF_LOSS_EXPIRE: REF_LOSS periods of FT_REF_IN without an edge (R34). -/
def execRefLossExpire (s : State) : Host.Outcome State Fault Refusal :=
  if s.ft.refOk ∧ s.clk ≥ s.ft.lastRef + bitsOf s.ft.effLoss 7 0 * refPeriod s ∧ s.lk.st ≠ .lrs then
    .next (extLost s fun f => { f with refOk := false })
  else .next s

/-- PPS_LOSS_EXPIRE: PPS_LOSS tenths of a second without an edge (R34). -/
def execPpsLossExpire (s : State) : Host.Outcome State Fault Refusal :=
  if s.ft.ppsOk ∧ s.clk ≥ s.ft.lastPps + msec (100 * bitsOf s.ft.effLoss 15 8) ∧ s.lk.st ≠ .lrs then
    .next (extLost s fun f => { f with ppsOk := false })
  else .next s

/-- BEACON_LOSS_EXPIRE: BEACON_LOSS epochs without a valid beacon; FT_INBAND_LOST (R34). -/
def execBeaconLossExpire (s : State) : Host.Outcome State Fault Refusal :=
  if s.ft.inbandOk ∧ s.clk ≥ s.ft.lastBeacon + bitsOf s.ft.effLoss 25 16 * 1048576000 ∧ s.lk.st ≠ .lrs then
    .next (evalSrc (raise (modFt s fun f => { f with inbandOk := false }) .ftInbandLost 0))
  else .next s

/-- Whole seconds since the last accepted sample while in HOLDOVER or RELOCK (FT_HOLD_TIME). -/
def holdTime (s : State) : Nat :=
  if s.ft.st = .holdover ∨ s.ft.st = .relock then (s.clk - s.ft.lastSample) / 1000000000000 else 0

/-- FT_HOLDOVER_LONG: FT_HOLD_TIME reaches HOLD_LIMIT; raised at most once between two visits to LOCKED (R33). -/
def execFtHoldoverLong (s : State) : Host.Outcome State Fault Refusal :=
  if (s.ft.st = .holdover ∨ s.ft.st = .relock) ∧ !s.ft.longRaised ∧
      holdTime s ≥ rd s F.FT_HOLD_POLICY_HOLD_LIMIT then
    .next (raise (modFt s fun f => { f with longRaised := true }) .ftHoldoverLong 0)
  else .next s

/-- Setting ENABLE lets the unit leave UNSET once a selected source is valid (R33). -/
def ftEnable (s : State) : State := evalSrc (wr s F.FT_CTRL_ENABLE 0 0 1)

/-- Clearing ENABLE (R33). -/
def ftDisable (s : State) : State := ftToUnset (wr s F.FT_CTRL_ENABLE 0 0 0)

/-- RESTART: UNSET, and ACQUIRE again at once with a valid source (R33). -/
def ftRestart (s : State) : State := evalSrc (ftToUnset s)

/-- TOD_ARM acts in UNSET and ACQUIRE, and sets TOD_IGN otherwise (R46). -/
def ftTodArm (s : State) : State :=
  if s.ft.st = .unset ∨ s.ft.st = .acquire then modFt s fun f => { f with todPending := true }
  else wr s F.FT_STATUS_TOD_IGN 0 0 1

/-- FT_ENABLE (R33). -/
def execFtEnable (port : HostPort) (s : State) : Host.Outcome State Fault Refusal :=
  .next (regGate s port true ftEnable)

/-- FT_ENABLE_CLEAR (R33). -/
def execFtEnableClear (port : HostPort) (s : State) : Host.Outcome State Fault Refusal :=
  .next (regGate s port true ftDisable)

/-- RESTART (R33). -/
def execRestart (port : HostPort) (s : State) : Host.Outcome State Fault Refusal :=
  .next (regGate s port true ftRestart)

/-- TOD_ARM (R46). -/
def execTodArm (port : HostPort) (s : State) : Host.Outcome State Fault Refusal :=
  .next (regGate s port true ftTodArm)

/-- FT_NOW_READ: all four words of the full timestamp are latched; word 0 is returned (R46). -/
def execFtNowRead (port : HostPort) (s : State) : Host.Outcome State Fault Refusal :=
  .next (readGate s port false fun s =>
    let w := fullTs s
    emit (modFt s fun f => { f with nowLatch := w.drop 1 }) (.readData port (w.take 1)))

/-- FT_EPOCH_READ: the low word of the epoch number is returned and the high word latched (R46). -/
def execFtEpochRead (port : HostPort) (s : State) : Host.Outcome State Fault Refusal :=
  .next (readGate s port false fun s =>
    emit (modFt s fun f => { f with epochLatch := some (epochNo s / 2 ^ 32) })
      (.readData port [epochNo s % 2 ^ 32]))

/-- PTM_DIALOGUE_END: a dialogue that succeeded with a master time and a propagation delay writes the record between an
odd and an even SEQ; one that failed raises FT_PTM_FAIL (R31, R32). -/
def execPtmDialogueEnd (port : HostPort) (result : Option (Nat × Nat)) (s : State) :
    Host.Outcome State Fault Refusal :=
  match mget? s.ft.ptmOpen port.val with
  | none => .next s
  | some ts =>
    let s := modFt s fun f => { f with ptmOpen := mdel f.ptmOpen port.val }
    match result with
    | none => .next (raise s .ftPtmFail 0)
    | some (t, delay) =>
      let a := mget 0 s.ft.ptmAddr port.val
      if a % 2 = 0 || !canReq s port.val .pf0 then .next s
      else
        let addr := a / 32 * 32
        let q := mget 0 s.ft.ptmSeq port.val
        let rec8 := leBytes 8 t ++ (ts.flatMap fun w => leBytes 4 w) ++ leBytes 4 delay
        let s := hostWrite s port.val none (addr + 28) (leBytes 4 (q + 1))
        let s := hostWrite s port.val none addr rec8
        let s := hostWrite s port.val none (addr + 28) (leBytes 4 (q + 2))
        .next (modFt s fun f => { f with ptmSeq := mset f.ptmSeq port.val ((q + 2) % 2 ^ 32) })

/-- The servo's trim of a PCLK in 2^-16 ns: at the frozen frequency in HOLDOVER, carried over from PCLK to PCLK (R33); else a
free value (log entry 3). -/
def servoTrim (s : State) : Int :=
  if s.ft.st = .holdover then
    let per (k : Nat) : Int := 40960 * s.ft.freq.toInt * k / (65536 * 1000000)
    per (s.clk / 625 + 1) - per (s.clk / 625)
  else (Config.servoStep s.free).toInt

/-- One PCLK of local time: the clock, and the count by the servo's step and the slew in progress, at most SLEW_MAX ppm
(R33). In UNSET the count stands (log entry 2). Reaching an epoch start makes its pulse due (R39). -/
def advanceTime (s : State) : State :=
  let clk' := s.clk + 625
  if s.ft.st = .unset ∨ s.lk.st = .lrs then { s with clk := clk' }
  else
    let rate := 40960 * bitsOf s.ft.effLoop 31 24
    let most := clk' / 625 * rate / 1000000 - s.clk / 625 * rate / 1000000
    let slew : Int :=
      if s.ft.slew ≥ 0 then min s.ft.slew most else max s.ft.slew (-(most : Int))
    let c := ((s.ft.count : Int) + 40960 + servoTrim s + slew).toNat
    let due := if c / 65536 / 2 ^ 20 > epochNo s then some (c / 65536 / 2 ^ 20) else s.ft.pulseDue
    bumpFree (modFt { s with clk := clk' } fun f => { f with count := c, slew := f.slew - slew, pulseDue := due })

end Sys2Proof.Machine
end

