-- ==== Sys2Proof/Machine/Tallyman.lean ====
section
/-! DEFINITION. Snapshots and dump rings (21_counters.md). -/
namespace Sys2Proof.Machine

/-- Change the Tallyman, a dump ring. -/
def modTl (s : State) (f : Tally → Tally) : State := { s with tl := f s.tl }
def modRingD (s : State) (r : Nat) (f : DumpRing → DumpRing) : State :=
  modTl s fun t => { t with rings := mmod t.rings r f }

/-- CYCLE: CCLK since POR_N (R405). -/
def cycleCount (s : State) : Nat := (s.clk - s.lk.porAt) / 500 % 2 ^ 64

/-! ### The counters of the device (R410) -/

/-- The records of an instance of a unit with `n` counters in one run from index `a`: first indices and lengths. -/
def runs (a n : Nat) : List (Nat × Nat) := (List.range ((n + 3) / 4)).map fun k => (a + 4 * k, min 4 (n - 4 * k))

/-- Units, their instances, and the records of an instance (R410). -/
def devShape (s : State) : List (Nat × List Nat × List (Nat × Nat)) :=
  let hosts := (List.range 8).filter fun p => portWidth s p ≠ 0
  let nets := (List.range 32).filter (netPortExists s)
  [(2, hosts, runs 0 2), (3, hosts, runs 0 2), (5, nets, runs 0 48), (6, [0], runs 0 7 ++ runs 8 4), (7, [0], runs 0 20),
   (8, [0], runs 0 17), (9, List.range 256, runs 0 7), (10, List.range 192, runs 0 11),
   (10, ((List.range 4096).filter (ringEn s)).map (0x1000 + ·), runs 0 1), (11, [0], runs 0 15),
   (12, nets.flatMap fun p => (List.range 8).map (8 * p + ·), runs 0 9), (13, [0], runs 0 14), (14, [0], runs 0 13),
   (15, [0], runs 0 10), (16, (List.range 16).filter fun e => portWidth s (engPort s e) ≠ 0, runs 0 8)]

/-- Records of a device-ring snapshot (TL_STATUS.RECORDS). -/
def devRecords (s : State) : Nat := (devShape s).foldl (fun n x => n + x.2.1.length * x.2.2.length) 0

/-- The words of the host-port counters, HL and QM (R410): unit, port, index, value. -/
def hostCounters (s : State) : List (Nat × Nat × Nat × Nat) :=
  s.hp.flatMap fun (p, h) =>
    [(2, p, 0, h.toCnt * 65536 + h.lateCnt), (2, p, 1, h.refusedCnt * 65536),
     (3, p, 0, h.demoteCnt * 65536 + h.staleCnt), (3, p, 1, h.overrunCnt * 65536 + h.headCnt)]

/-- The CCLK that the slot account has reached: whole slots of the PCLK that has passed (R405). -/
def cclkNow (s : State) : Nat := (s.clk - s.lk.porAt + 499) / 500

/-- WASTED of a logical core since the last latch: every CCLK is one slot, so it is what the other classes leave (R250,
R405). -/
def wasted (s : State) (c : Nat) : Nat :=
  cclkNow s - s.tl.latchAt - (cget s 10 c 1 + cget s 10 c 3 + cget s 10 c 4)

/-- Every interval counter is added to the accumulators and cleared; the tenant counters stay (R401, R402). -/
def latchAll (s : State) : State :=
  let add (m : Map Nat) (k v : Nat) : Map Nat := if v = 0 then m else mset m k ((mget 0 m k + v) % 2 ^ 64)
  let interval (k : Nat) : Bool := k / 2 ^ 40 ≠ 4 && k / 2 ^ 40 ≠ 17
  let acc := s.cnt.foldl (fun m x => if interval x.1 then add m x.1 x.2 else m) s.tl.acc
  let acc := (hostCounters s).foldl (fun m x => add m (ckey x.1 x.2.1 x.2.2.1) x.2.2.2) acc
  let acc := (List.range 192).foldl (fun m c => add m (ckey 10 c 2) (wasted s c)) acc
  { s with
    tl := { s.tl with acc := acc, latchAt := cclkNow s }
    cnt := mfilter (fun k _ => !interval k) s.cnt
    hp := mmap (fun _ h => { h with
      toCnt := 0, lateCnt := 0, refusedCnt := 0, demoteCnt := 0, staleCnt := 0, overrunCnt := 0, headCnt := 0 }) s.hp }

/-- The latched value of a counter: CYCLE is free-running (R401). -/
def latched (s : State) (u i k : Nat) : Nat :=
  if u = 10 ∧ i < 0x1000 ∧ k = 0 then cycleCount s else mget 0 s.tl.acc (ckey u i k)

/-- The records of a device-ring snapshot (R410). -/
def devSnap (s : State) : List DRec :=
  (devShape s).flatMap fun (u, is, rs) => is.flatMap fun i => rs.map fun (a, n) =>
    { unit := u, inst := i, first := a, vals := (List.range n).map fun k => latched s u i (a + k) }

/-- The records of a tenant-ring snapshot (R411). -/
def tenSnap (s : State) (t : Nat) : List DRec :=
  [0, 4].map fun a => { unit := 4, inst := t, first := a, vals := (List.range 4).map fun k => cget s 4 t (a + k) }

/-- A snapshot is skipped for a ring: counted and reported; the device ring's values stay accumulated (R402, R412). -/
def dumpSkip (s : State) (r : Nat) (recs : List DRec) : State :=
  let back (m : Map Nat) (d : DRec) : Map Nat :=
    (List.range d.vals.length).foldl (fun m k =>
      let key := ckey d.unit d.inst (d.first + k)
      let v := d.vals.getD k 0
      if v = 0 ∨ (d.unit = 10 ∧ d.inst < 0x1000 ∧ d.first + k = 0) then m
      else mset m key ((mget 0 m key + v) % 2 ^ 64)) m
  let s := if r = 0 then modTl s fun t => { t with acc := recs.foldl back t.acc } else s
  raiseOnce (cadd s 17 0 (if r = 0 then 2 else 3) 1) .tlDumpSkipped (if r = 0 then 0 else tenHandle s (r - 1))

/-- A ring receives records: a tenant ring only while its tenant is ENABLED (R145, R411). -/
def dumpLive (s : State) (r : Nat) : Bool :=
  decide (r = 0) || decide (((mget? s.tens (r - 1)).map (·.st)) = some .enabled)

/-- A ring gets a snapshot to write, or skips it because the last one is still being written (R411, R412). -/
def dumpGive (s : State) (n r : Nat) (d : DumpRing) : State :=
  if d.destroyer.isSome ∨ !dumpLive s r then s
  else if d.pend.isSome then
    let s := raise (cadd s 17 0 4 1) .tlDumpLate (if r = 0 then 0 else tenHandle s (r - 1))
    dumpSkip s r []
  else
    let recs := if r = 0 then devSnap s else tenSnap s (r - 1)
    let from? := if r = 0 then s.tl.accFrom else d.last
    let span := ((n + 2 ^ 48 - from?.getD (n + 2 ^ 48 - s.tl.period)) % 2 ^ 32)
    let s := modRingD s r fun d => { d with pend := some { epoch := n, time := shortTs s, span := span, recs := recs } }
    if r ≠ 0 then s
    else
      let gone := recs.flatMap fun d => (List.range d.vals.length).map fun k => ckey d.unit d.inst (d.first + k)
      modTl s fun t => { t with acc := gone.foldl mdel t.acc }

/-- TL_PMC_k takes effect (R406). -/
def pmcLoad (s : State) : State :=
  s.regs.foldl (fun s x =>
    let off := x.1 % 2 ^ 26
    if F.TL_PMC_EVENT.off ≤ off ∧ off < F.TL_PMC_EVENT.off + 24 then
      modCore s (x.1 / 2 ^ 26) fun k => { k with pmc := mset k.pmc ((off - F.TL_PMC_EVENT.off) / 4) x.2.toNat }
    else s) s

/-- The snapshot of epoch n (R401, R412). -/
def snapshot (s : State) (n : Nat) : State :=
  let s := latchAll s
  let s := modTl s fun t => { t with last := n, accFrom := some (t.accFrom.getD (n - t.period)) }
  let s := s.tl.rings.foldl (fun s x => dumpGive s n x.1 x.2) (cadd s 17 0 0 1)
  pmcLoad s

/-- The schedule names the epoch (R403). -/
def snapDue (s : State) (n : Nat) : Bool :=
  decide (rd s F.TL_CTRL_EN = 1) && decide (((n : Int) - s.tl.base) % s.tl.period = 0)

/-- The target of the armed schedule change, if any. -/
def snapArmed (s : State) : Option Nat := (s.armed.find? fun a => decide (a.1 = .snap)).map (·.2)

/-- SNAPSHOT_ARM (R404). -/
def execSnapshotArm (port : HostPort) (s : State) : Host.Outcome State Fault Refusal :=
  .next (adminRun s port.val 0x3A fun s e =>
    let p := port.val
    if dw e 1 ≠ 0 ∨ dw e 6 = 0 ∨ 65536 ≤ dw e 6 ∨ !dwZero e 7 15 then finishAdmin s p .invalidField 0
    else if (snapArmed s).isSome then finishAdmin s p .inUse 0
    else
      match armCheck s (dw2 e 4 * 2 ^ 20) with
      | some st => finishAdmin s p st 0
      | none =>
        let s := { s with armed := s.armed ++ [(.snap, dw2 e 4 * 2 ^ 20)] }
        finishAdmin (modTl s fun t => { t with nextPeriod := dw e 6 }) p .success 0)

/-- The armed schedule change is due; it stays armed in the last-resort state. -/
def snapEdgeDue (s : State) : Bool := armedDue s .snap && decide (s.lk.st ≠ .lrs)

/-- The armed schedule change takes effect, if it is due, with the snapshot of its epoch (R404). -/
def snapEdge (s : State) : State :=
  match snapArmed s with
  | some ns =>
    if snapEdgeDue s then
      let n := ns / 2 ^ 20
      let s := { s with armed := s.armed.filter fun a => !decide (a.1 = .snap) }
      let s := modTl s fun t => { t with base := n, period := t.nextPeriod }
      if rd s F.TL_CTRL_EN = 1 then snapshot s n else s
    else s
  | none => s

/-! ### Dump rings (R407, R408) -/

/-- The ring an entry names: 0, or tenant + 1. -/
def dumpRingOf (e : Entry) : Nat := if dw e 1 = 0 then 0 else hIdx (dw e 1) + 1

/-- DUMP_RING_CREATE (R407). -/
def execDumpRingCreate (port : HostPort) (s : State) : Host.Outcome State Fault Refusal :=
  .next (adminRun s port.val 0x38 fun s e =>
    let p := port.val
    let r := dumpRingOf e
    let l := bitsOf (dw e 6) 20 16
    let least := if r = 0 then devRecords s else 2
    if dw e 4 % 64 ≠ 0 ∨ l < 4 ∨ 20 < l ∨ 2 ^ 21 ≤ dw e 6 ∨ bitsOf (dw e 6) 15 1 ≠ 0 ∨ !dwZero e 7 15 ∨ 2 ^ l < least then
      finishAdmin s p .invalidField 0
    else if (mget? s.tl.rings r).isSome then finishAdmin s p .inUse 0
    else
      let d : DumpRing := { port := p, ring := dw2 e 4, log2 := l, noSnoop := bitOf (dw e 6) 0 }
      finishAdmin (modTl s fun t => { t with rings := mset t.rings r d }) p .success 0)

/-- A ring ends (R87, R145, R408); a device-ring snapshot not written returns to the accumulators (R412). -/
def dumpEnd (s : State) (r : Nat) : State :=
  match mget? s.tl.rings r with
  | none => s
  | some d =>
    let s := match d.pend with
      | some x => if r = 0 then dumpSkip s r x.recs else s
      | none => s
    modTl (dropSys s fun x => decide (x.what = .dump r)) fun t => { t with rings := mdel t.rings r }

/-- DUMP_RING_DESTROY: it ends once the snapshot being written has been finished (R408). -/
def execDumpRingDestroy (port : HostPort) (s : State) : Host.Outcome State Fault Refusal :=
  .next (adminRun s port.val 0x39 fun s e =>
    let p := port.val
    let r := dumpRingOf e
    if !dwZero e 4 15 then finishAdmin s p .invalidField 0
    else
      match mget? s.tl.rings r with
      | none => finishAdmin s p .invalidField 0
      | some d =>
        if d.pend.isSome then adminWait (modRingD s r fun d => { d with destroyer := some p }) p "dump" r
        else finishAdmin (dumpEnd s r) p .success 0)

/-! ### Writing a snapshot (R412) -/

/-- The bytes of a record (R409). -/
def recBytes (d : DRec) (x : Snap) (phase seq n : Nat) : List Byte :=
  leBytes 4 (phase * 2 ^ 31 + b2n (seq = 0) * 2 ^ 30 + b2n (seq + 1 = n) * 2 ^ 29 + d.unit * 2 ^ 16 + seq % 65536) ++
  leBytes 4 (d.inst * 2 ^ 16 + d.vals.length * 2 ^ 8 + d.first) ++ leBytes 8 x.epoch ++ leBytes 8 x.time ++
  leBytes 4 x.span ++ leBytes 4 0 ++ (d.vals ++ List.replicate (4 - d.vals.length) 0).flatMap (leBytes 8)

/-- The owner of a ring: PF0 or a tenant. -/
def dumpOwner (r : Nat) : Option Nat := if r = 0 then none else some (r - 1)

/-- The records of a snapshot are written (R412). -/
def dumpRecords (s : State) (r : Nat) (d : DumpRing) (x : Snap) (n : Nat) : Nat → List DRec → State
  | _, [] => s
  | seq, c :: t =>
    let owner := dumpOwner r
    let at_ := (d.tail + seq) % 2 ^ 32
    let s := hostWrite s d.port owner (d.ring + at_ % 2 ^ d.log2 * 64) (recBytes c x (phaseOf at_ d.log2) seq n)
      d.noSnoop
    dumpRecords s r d x n (seq + 1) t

/-- The owner's function may write the ring (R73, R412). -/
def dumpAllowed (s : State) (r : Nat) (d : DumpRing) : Bool :=
  let f := if r = 0 then Fn.pf0 else Fn.pf1
  running s && (fnOf s d.port f).bme && !(fnOf s d.port f).d3 && (decide (r = 0) || (hpOf s d.port).f1.pasidEn)

/-- The snapshot of a ring is done with; a DUMP_RING_DESTROY that waits completes (R408). -/
def dumpDone (s : State) (r : Nat) : State :=
  let s := modRingD (dropSys s fun x => decide (x.what = .dump r)) r fun d => { d with pend := none }
  match (mget? s.tl.rings r).bind (·.destroyer) with
  | some p => finishAdmin (dumpEnd s r) p .success 0
  | none => s

/-- A HEAD as the ring's head record gives it is accepted under R130. -/
def dumpHead (s : State) (r : Nat) (d : DumpRing) (b : List Byte) : State :=
  let g := if r = 0 then 0 else gen s 4 (r - 1)
  let genOk := (hpOf s d.port).aq.abi ≠ 2 || leAt b 7 1 = g
  if headOk d.tail d.hdev d.log2 (leAt b 0 4) genOk then modRingD s r fun d => { d with hdev := leAt b 0 4 }
  else
    let s := headBad s d.port
    if d.told then s
    else raise (modRingD s r fun d => { d with told := true }) .qmCqHeadRange (if r = 0 then d.port else tenHandle s (r - 1))

/-- The snapshot has room in the ring. -/
def dumpRoom (d : DumpRing) (x : Snap) : Bool := decide (ringFill d.tail d.hdev + x.recs.length ≤ 2 ^ d.log2)

/-- The snapshot is written if the ring has room for all of it, else skipped; a link in L1 is left (R412). -/
def dumpPut (s : State) (r : Nat) (x : Snap) : State :=
  match mget? s.tl.rings r with
  | none => s
  | some d =>
    if dumpRoom d x then
      let s := if (hpOf s d.port).ltssm = .l1 then leaveL1 s d.port else s
      let s := dumpRecords s r d x x.recs.length 0 x.recs
      let s := cadd s 17 0 1 x.recs.length
      let s := modRingD s r fun d => { d with tail := (d.tail + x.recs.length) % 2 ^ 32, last := some x.epoch }
      dumpDone (if r = 0 then modTl s fun t => { t with accFrom := some x.epoch } else s) r
    else dumpDone (dumpSkip s r x.recs) r

/-- DUMP_WRITE: the snapshot of a ring is written or skipped; without room the head record is read first, and `head` is
what that read returns (R412). A snapshot of a tenant that is no longer ENABLED is dropped, without
counting as skipped (R411; DESIGN CHOICE, log entry 123). With `timeout` the read stays outstanding, and CPL_TIMEOUT ends it. -/
def execDumpWrite (ring : Fin 4097) (head : HostData) (s : State) : Host.Outcome State Fault Refusal :=
  let r := ring.val
  let data (s : State) (d : DumpRing) (x : Snap) : State :=
    takeRead s (.dump r) fun s => dumpPut (match head with | .ok b => dumpHead s r d b | _ => s) r x
  match mget? s.tl.rings r with
  | none => .next s
  | some d =>
    match d.pend with
    | none => .next s
    | some x =>
      if s.lk.st = .lrs ∨ s.lk.st = .resetting then .next s
      else if !dumpLive s r then .next (dumpDone s r)
      else if !dumpAllowed s r d then .next (dumpDone (dumpSkip s r x.recs) r)
      else if (oldestRead s (.dump r)).isSome then .next (if head = .timeout then s else data s d x)
      else if dumpRoom d x then .next (dumpPut s r x)
      else if !mayRead s d.port (dumpOwner r) then .next s
      else
        let s := if (hpOf s d.port).ltssm = .l1 then leaveL1 s d.port else s
        let s := hostRead s (.dump r) d.port (dumpOwner r) (d.ring + 2 ^ d.log2 * 64) 8
        .next (if head = .timeout then s else data s d x)

end Sys2Proof.Machine
end

