-- ==== Sys2Proof/Machine/Epoch.lean ====
section
/-! DEFINITION. The epoch pulse and what every unit does on it (R29, R31, R39, R42, R45, R185, R232, R252, R311,
R401). -/
namespace Sys2Proof.Machine

/-- Epoch numbers at which work that runs once every 2^k epochs is due. -/
def everyLog2 (n k : Nat) : Bool := decide (n % 2 ^ k = 0)

/-- The epoch-beacon TLV (R29): ORGANIZATION_EXTENSION (0x0003 in IEEE 1588, log entry 102), its length, and its fields, most
significant byte first. `origin` is the originTimestamp, a count in 2^-16 ns. -/
def beaconTlv (s : State) (origin seq : Nat) : List Byte :=
  beBytes 2 3 ++ beBytes 2 21 ++ beBytes 3 Config.orgId.toNat ++ beBytes 3 Config.orgSubtype.toNat ++
  beBytes 8 (origin / 65536 / 2 ^ 20) ++ beBytes 2 (myNode s) ++ beBytes 1 (ftQuality s) ++ beBytes 2 (errBound s) ++
  beBytes 2 seq

/-- A beacon goes out on a port (R29): Sync with the origin time and the TLV in one-step mode, Sync and Follow_Up with them
in two-step mode. -/
def beaconOn (s : State) (seq p : Nat) : State :=
  let at_ := txTime s p
  let port : NetPort := Fin.ofNat 32 p
  let domain := bitsOf s.ft.effSrc 30 24
  if rd s F.FT_BEACON_ONE_STEP = 1 then sendPtp s port "Sync" domain (seq :: ptpTime at_) (beaconTlv s at_ seq)
  else sendPtp (sendPtp s port "Sync" domain [seq] []) port "Follow_Up" domain (seq :: ptpTime at_) (beaconTlv s at_ seq)

/-- Beacons of the epoch (R29, R45). BEACON_SEQ is one number for all ports, and its first value is 1 (DESIGN CHOICE, log entry
119). -/
def beacons (s : State) (n : Nat) : State :=
  let held := s.ft.st = .holdover ∨ s.ft.st = .relock
  if rd s F.FT_BEACON_TX_EN = 1 ∧ everyLog2 n (rd s F.FT_BEACON_INTERVAL) ∧
      (!held ∨ rd s F.FT_HOLD_POLICY_BEACON_IN_HOLD = 1) then
    let seq := (s.ft.beaconSeq + 1) % 65536
    ((List.range 32).filter fun p => bitOf (rd s F.FT_BEACON_PORTS_PORTS) p).foldl (fun s p => beaconOn s seq p)
      (modFt s fun f => { f with beaconSeq := seq })
  else s

/-- PTM dialogues that start at the epoch boundary (R31). -/
def ptmStart (s : State) (n : Nat) : State :=
  if rd s F.FT_CTRL_PTM_EN = 1 ∧ everyLog2 n (rd s F.FT_PTM_INTERVAL_INTERVAL) then
    (List.range 8).foldl (fun s p =>
      if linkUp s p ∧ (hpOf s p).f0.ptmEn ∧ (mget? s.ft.ptmOpen p).isNone then
        modFt s fun f => { f with ptmOpen := mset f.ptmOpen p (fullTs s) }
      else s) s
  else s

/-- Rule-set slots at the pulse of epoch n (R185). -/
def slotStep (s : State) (n : Nat) : State :=
  s.pa.slots.foldl (fun s x =>
    match x.2.st with
    | .draining =>
      if refsOf s x.1 = 0 then modSlot s x.1 fun r => { r with st := .retiring }
      else if n ≥ x.2.since + x.2.limit then modSlot s x.1 fun r => { r with late := true }
      else s
    | .retiring => freeSlot s x.1
    | _ => s) s

/-! ### Adaptive slot tables (R252) -/

/-- Divide n entries in proportion to demands, by largest remainder with ties to the lower thread; in turn to all where
every demand is 0. Answers the extra entries of each. -/
def share (n : Nat) (ds : List (Nat × Nat)) : List (Nat × Nat) :=
  let tot := ds.foldl (fun m d => m + d.2) 0
  if ds = [] then []
  else if tot = 0 then ds.zipIdx.map fun x => (x.1.1, n / ds.length + b2n (decide (x.2 < n % ds.length)))
  else
    let base := ds.map fun d => (d.1, n * d.2 / tot)
    let left := n - base.foldl (fun m d => m + d.2) 0
    let rem (d : Nat × Nat) : Nat := n * d.2 % tot
    let top := ((ds.foldr (insertBy fun a b => decide (rem b < rem a ∨ (rem b = rem a ∧ a.1 ≤ b.1))) []).take left).map (·.1)
    base.map fun b => (b.1, b.2 + b2n (decide (b.1 ∈ top)))

/-- CCLK of the epoch in which a thread was RUNNING and not front-starved (R252); how long it was that is a free value (log
entry 3). -/
def demand (s : State) (c t : Nat) (th : Thr) : Nat :=
  let n := (runTime s th + mget 0 (coreOf s c).accs t) / 500
  n - (Config.frontCclk s.clk c t).toNat % (n + 1)

/-- A core rebuilds its slot table (R252); the order of the entries is open. -/
def rebuild (s : State) (c : Nat) (k : Core) : State :=
  let live := k.threads.filter fun x => x.2.live
  let mn := rd s F.FC_ADAPT_MIN_SLOTS 0 c
  let extra := share (32 - live.length * mn) (live.map fun x => (x.1, demand s c x.1 x.2))
  let want := extra.flatMap fun x => List.replicate (mn + x.2) x.1
  let tab := want ++ List.replicate (32 - want.length) 16
  let placed := Config.slotPlace s.free tab
  bumpFree (modCore s c fun k => { k with slots := some (if placed.isPerm tab then placed else tab) })

/-- Every core's demand counts start again, after the rebuild of those with adaptive weighting (R252); the table of a core
without a record holds no valid entry. -/
def rebuildAll (s : State) : State :=
  let s := s.cores.foldl (fun s x => if rd s F.FC_ADAPT_EN 0 x.1 = 1 then rebuild s x.1 x.2 else s) s
  { s with fcPulse := true, cores := mmap (fun _ k => { k with
      accs := []
      threads := mmap (fun _ t => { t with runAcc := 0, runAt := s.clk }) k.threads }) s.cores }

/-! ### The pulse -/

/-- What starts afresh with an epoch: limits of once per epoch, error counts, losses charged, CLOSEs of REASON 4 (R232, R303,
R311, R418). -/
def freshEpoch (s : State) : State :=
  let s := modLk s fun l => { l with once := [] }
  let s := modCoop s fun c => { c with err := [] }
  { s with conns := mmap (fun _ c => { c with charges := [] }) s.conns, unk := [] }

/-- Counters latched at the pulse of epoch n (R41, R401, R404): the snapshot of an armed schedule change that is due, else
that of the schedule in force. -/
def pulseLatch (s : State) (n : Nat) : State :=
  if snapEdgeDue s then snapEdge s else if snapDue s n then snapshot s n else s

/-- What the pulse of epoch n does beside the latching (R29, R31, R185, R252). -/
def pulseWork (s : State) (n : Nat) : State := ptmStart (beacons (slotStep (rebuildAll s) n) n) n

/-- The pulse of an epoch that is due (R39): counters are latched before anything changes (R41); `distFault`: a leaf does not
return the pulse (R42). -/
def pulseEdge (s : State) (distFault : Bool) : State :=
  match s.ft.pulseDue with
  | none => s
  | some n =>
    let s := freshEpoch (modFt s fun f => { f with pulseDue := none })
    let s := pulseWork (pulseLatch s n) n
    if distFault then contain s .ftDistFault 0 else s

/-! ### The slot account (R249, R250, R405) -/

/-- CCLK edges of the cores before a local time, from POR_N. -/
def cclkEdges (s : State) (t : Nat) : Nat := (t - s.lk.porAt + 499) / 500

/-- The slot of CCLK n of a core is charged (R250): an instruction of its thread that has issued was charged Issued then; else
the slot of a RUNNING thread is Front-starved or Back-starved, which of them a free value says where no stall does (log
entry 3). Every other slot is Wasted, which the latch counts; so is every second slot while throttled (R465). -/
def slotCharge (s : State) (n c : Nat) : State :=
  let t := (slotTable s c).getD (n % 32) 16
  let k := coreOf s c
  let th := thrOf s c t
  if t > 15 ∨ (s.boot.therm = .throttled ∧ n % 2 = 1) then s
  else if mget 0 k.owed t ≠ 0 then modCore s c fun k => { k with owed := mset k.owed t (mget 0 k.owed t - 1) }
  else if ¬ (k.st = .running ∨ k.st = .draining) ∨ th.st ≠ .running ∨ c / 12 ∈ s.clOff then s
  else if th.postWait then pmc (cadd s 10 c 4 1) c t 5 1
  else if th.stall.isSome then
    let s := cadd s 10 c 4 1
    if th.stall.any fun w => (fcDecode (BitVec.ofNat 32 w)).any fun i => decide (i.op = .hmap) then pmc s c t 7 1 else s
  else if lsStarved s c t then cadd s 10 c 4 1
  else if Config.icFill n c then
    let s := cadd s 10 c 3 1
    if Config.icMiss n c then pmc s c t 2 1 else s
  else
    let s := cadd s 10 c 4 1
    if Config.lmBusy n c then pmc s c t 6 1 else s

/-- The slots of the CCLK edges of the PCLK that has just passed. -/
def slotAccount (s : State) : State :=
  let a := cclkEdges s (s.clk - 625)
  (List.range (cclkEdges s s.clk - a)).foldl (fun s i =>
    (s.cores.map (·.1)).foldl (fun s c => slotCharge s (a + i) c) s) s

/-- An armed event that is due takes effect (R39, R44). -/
def runArmed (s : State) (a : ArmKind × Nat) : State :=
  match a.1 with
  | .rs i => rsEdge s i
  | .cal p => calEdge s p
  | .key i => keyEdge s i
  | .snap => snapEdge s

/-- The acting edge of everything that is due now (R39, R41, R44): the pulse with the latching of counters, then the armed
events, the gates, the Sluice and the pacing instants, the PCLK of the FLUSHes in progress (R213), and the mailboxes (R423). -/
def edgeWork (s : State) (distFault : Bool) : State :=
  let s := pulseEdge (slotAccount s) distFault
  let s := (s.armed.filter fun a => decide (a.2 ≤ ftNs s)).foldl runArmed s
  let s := slEdge ((s.eg.map (·.1)).foldl gateEdge s)
  mbServe (fwTick (sxEdge (sealEdge ((s.conns.map (·.1)).foldl paceEdge s)))) 8

/-- One PCLK: time passes, and at its edge everything that has become due takes effect (log entry 2). After the last-resort
sequencer no clock runs (R432). -/
def tick (s : State) : State := if s.lk.st = .lrs then advanceTime s else edgeWork (advanceTime s) false

/-- The command of an event: at the acting edge that this PCLK reaches, the PCLK passes with all that the edge brings; the
event's own work, where it is due already; else the state stays as it is (log entries 1, 2). -/
def edgeCommand (s : State) (due : State → Bool) (work : State → State) (distFault : Bool := false) : State :=
  if s.lk.st = .lrs then s
  else if due s then work s
  else if due (advanceTime s) then edgeWork (advanceTime s) distFault
  else s

/-- EPOCH_PULSE: the pulse of epoch n reaches every unit (R39); `distFault`: a leaf did not return it (R42). -/
def execEpochPulse (distFault : Bool) (s : State) : Host.Outcome State Fault Refusal :=
  .next (edgeCommand s (fun s => s.ft.pulseDue.isSome) (fun s => pulseEdge s distFault) distFault)

/-- RULESET_ACTIVATION_EDGE (R185). -/
def execRulesetActivationEdge (slot : Fin 4) (s : State) : Host.Outcome State Fault Refusal :=
  .next (edgeCommand s (fun s => armedDue s (.rs slot.val)) (fun s => rsEdge s slot.val))

/-- CAL_SWAP (R329, R330). -/
def execCalSwap (port : NetPort) (s : State) : Host.Outcome State Fault Refusal :=
  .next (edgeCommand s (fun s => armedDue s (.cal port.val)) (fun s => calEdge s port.val))

/-- KEY_ROLLOVER_EDGE: the acting edge of the armed epoch (R368). -/
def execKeyRolloverEdge (ctx : Fin 4194304) (s : State) : Host.Outcome State Fault Refusal :=
  .next (edgeCommand s (fun s => armedDue s (.key ctx.val)) (fun s => keyEdge s ctx.val))

/-- SNAPSHOT_SCHEDULE_EDGE (R404). -/
def execSnapshotScheduleEdge (s : State) : Host.Outcome State Fault Refusal :=
  .next (edgeCommand s snapEdgeDue snapEdge)

end Sys2Proof.Machine
end

