-- ==== Sys2Proof/Machine/JobExec.lean ====
section
/-! DEFINITION. The queue engine's own data-path jobs: TX (R334, R335), RX_POST (R149), CORE_JOB (R259) and COPY (R399).
Their data moves through Carters; what happens when it has moved stands beside each. -/
namespace Sys2Proof.Machine

/-- A job fails with a status: the buffers it holds return and it completes (R104, R132). -/
def failJob (s : State) (uid : Nat) (st : Status) : State :=
  match mget? s.jobs uid with
  | some j => finishJob (j.bufs.foldl devFree s) uid st 0
  | none => s

/-- Read a job's segments into one buffer charged to its owner (R225, R228): the failure, or the state with the buffer held
and whether a transfer has to be waited for. -/
def jobGather (s : State) (uid : Nat) (j : Job) (gs : List Seg) : Except Status (Bool × State) × State :=
  if !segsOwned s (ownerReq j.owner) gs then (.error .invalidField, s)
  else if gs ≠ [] ∧ !xferPossible s j.port then (.error .noResource, s)
  else
    match allocWork s (ownerReq j.owner) (max 1 (segBytes gs)) with
    | (.error st, s) => (.error st, s)
    | (.ok h, s) =>
      let j := { j with bufs := [h] }
      let s := { s with jobs := mset s.jobs uid j }
      (.ok (moveSegs s (jobXfer s j (.job uid) 0) false gs (bufAddr s h 0)), s)

/-! ### TX -/

/-- The rules of R334 that make a TX job invalid, but for the port's length limit, which needs the frame's tags. -/
def txOk (s : State) (j : Job) (len : Nat) : Bool :=
  let e := jobHead j
  let mode := bitsOf (dw e 8) 31 30
  let p := bitsOf (dw e 9) 12 8
  if mode = 0 then
    j.owner.isSome && !bitOf (dw e 8) 29 && decide (dw e 9 = 0) && decide (14 ≤ len ∧ len ≤ 16383)
  else if mode = 1 then
    j.owner.isNone && netPortExists s p && decide (60 ≤ len ∧ len ≤ 16383)
  else false

/-- A DIRECT frame with its tag is within its egress port's limit (R158, R334). -/
def txFits (s : State) (j : Job) (h len : Nat) : Bool :=
  let e := jobHead j
  let t := b2n (bitOf (dw e 8) 28)
  let tags := min 2 (t + tagCount (storeRead s (bufAddr s h 0) len))
  decide (len + 4 * t + 4 ≤ rd s F.MA_FRAME_MAX_LEN (bitsOf (dw e 9) 12 8) + 4 * tags)

/-- A TX frame is in its buffer (R334). A frame that goes to a class queue takes the buffer from the job. -/
def txRead (s : State) (uid : Nat) (j : Job) : State :=
  let h := j.bufs.headD 0
  let len := segBytes (segsOf j.ents)
  let pipe := bitsOf (dw (jobHead j) 8) 31 30 = 0
  let s := if pipe then s else storeTouch s (bufAddr s h 0) (min len 22)
  if !pipe ∧ !txFits s j h len then failJob s uid .invalidField
  else
    let s := { s with jobs := mset s.jobs uid { j with bufs := [] } }
    if pipe then txPipe s uid j h len j.upset else txDirect s uid j h len

/-- TX (R334). -/
def execTx (uid : Nat) (upset : Upset) (s : State) : Host.Outcome State Fault Refusal :=
  .next (jobRun s uid 0x81 fun s j =>
    let j := { j with upset := upset }
    let gs := segsOf j.ents
    if !txOk s j (segBytes gs) then finishJob s uid .invalidField 0
    else
      match jobGather s uid j gs with
      | (.error st, s) => finishJob s uid st 0
      | (.ok (true, s), _) => s
      | (.ok (false, s), _) =>
        match mget? s.jobs uid with
        | some j => txRead s uid j
        | none => s)

/-! ### RX_POST -/

/-- RX_POST: the buffer waits for a frame (R149). -/
def execRxPost (uid : Nat) (s : State) : Host.Outcome State Fault Refusal :=
  .next (jobRun s uid 0x82 fun s j =>
    if segsOwned s (ownerReq j.owner) (segsOf j.ents) then s else finishJob s uid .invalidField 0)

/-! ### CORE_JOB -/

/-- The ring takes jobs of the queue's owner (R259). -/
def ringTakes (s : State) (r : Nat) (owner : Option Nat) : Bool :=
  match owner with
  | none => decide (rd s F.FC_RING_CFG_JOB 0 r = 1)
  | some t => decide (rd s F.FC_RING_CFG_JOB 0 r = 2 ∧ rd s F.FC_RING_CFG2_TENANT 0 r = t)

/-- The data of a CORE_JOB is in its buffer: the descriptor goes to the ring (R256, R258, R259). -/
def coreRead (s : State) (uid : Nat) (j : Job) : State :=
  let e := jobHead j
  ringArrive s (dw e 8 % 4096) {
    buf := j.bufs.headD 0, len := segBytes (segsOf j.ents), kind := 2, srcHost := true, src := j.owner.getD 0
    sq := mkHandle 1 j.sqGen j.sq, cid := j.cid, word := dw e 9 % 65536, uid := uid }

/-- CORE_JOB (R259). -/
def execCoreJob (uid : Nat) (s : State) : Host.Outcome State Fault Refusal :=
  .next (jobRun s uid 0x86 fun s j =>
    let gs := segsOf j.ents
    if segBytes gs > 65536 ∨ !ringTakes s (dw (jobHead j) 8 % 4096) j.owner then finishJob s uid .invalidField 0
    else
      match jobGather s uid j gs with
      | (.error st, s) => finishJob s uid st 0
      | (.ok (true, s), _) => s
      | (.ok (false, s), _) =>
        match mget? s.jobs uid with
        | some j => coreRead s uid j
        | none => s)

/-! ### COPY -/

/-- The fields of a COPY (R399). -/
def cpDst (j : Job) : Nat := dw2 (jobHead j) 8
def cpBuf (j : Job) : Nat := dw (jobHead j) 10
def cpPort (j : Job) : Nat := bitsOf (dw (jobHead j) 11) 6 4
def cpDir (j : Job) : Bool := bitOf (dw (jobHead j) 11) 1
def cpMere (j : Job) : Bool := bitOf (dw (jobHead j) 11) 0
def cpWin (j : Job) : Bool := decide (dw (jobHead j) 1 ≠ 0)

/-- Instance of the window that a COPY names, in the active set (R77). -/
def cpInst (s : State) (j : Job) : Nat :=
  let i := hIdx (dw (jobHead j) 1)
  winInst (i / 256) (actSet s (i / 256)) (i % 256)

/-- The rules of R399 that make a COPY invalid. -/
def copyOk (s : State) (j : Job) (len : Nat) : Bool :=
  let e := jobHead j
  let p := cpPort j
  decide (portWidth s p ≠ 0 ∧ (j.owner = none ∨ p = j.port)) &&
  !(cpMere j && cpWin j) && (!cpDir j || cpWin j) && (!(cpMere j || cpWin j) || decide (dw e 9 = 0)) &&
  (cpMere j || decide (cpBuf j = 0)) &&
  (!cpWin j || decide (dw e 8 + len ≤ winSize s (cpInst s j))) &&
  (!cpMere j || (bufValid s (cpBuf j) && ownedBy s (cpBuf j) (ownerReq j.owner) &&
    decide (dw e 8 + len ≤ poolSize (bPool (cpBuf j)))))

/-- The Mere ranges of a window or of the destination buffer, as segments. -/
def copyMere (s : State) (j : Job) (len : Nat) : List Seg :=
  if cpMere j then [⟨cpBuf j, dw (jobHead j) 8, len, true⟩]
  else
    let i := cpInst s j
    (winPieces (winGranule s i) (dw (jobHead j) 8) (len + 1) len).map fun x =>
      ⟨leNat (readMem s.sysmem (winList s i + 4 * x.1) 4), x.2.1, x.2.2, true⟩

/-- Descriptors of a job's list of segments against a list of Mere segments (R399). -/
def pairMove (s : State) (toSegs : Bool) (pasid : Option Nat) (gs : List Seg) (ms : List Seg) : List Desc :=
  (ms.foldl (fun (a : List Desc × Nat) m =>
    let base := bufAddr s m.lo m.hi
    let (ds, _) := (segCut gs a.2 m.len).foldl (fun (b : List Desc × Nat) g =>
      (b.1 ++ [if g.inMere then mereDesc toSegs (bufAddr s g.lo g.hi) b.2 g.len
               else mkDesc toSegs g.addr b.2 g.len pasid], b.2 + g.len)) (a.1, base)
    (ds, a.2 + m.len)) ([], 0)).1

/-- The transfer of a COPY, through the port that it names; a copy inside the Mere uses a channel of the SQ's port. -/
def copyXfer (s : State) (j : Job) (uid : Nat) (ds : List Desc) : Xfer :=
  { jobXfer s j (.job uid) 0 with port := if ds.all (·.inside) then j.port else cpPort j, todo := ds }

/-- A transfer of a COPY starts, or the job fails where no engine can take it (R394). -/
def copyMove (s : State) (uid : Nat) (j : Job) (ds : List Desc) : State :=
  let x := copyXfer s j uid ds
  if xferPossible s x.port then startXfer s x else failJob s uid .noResource

/-- A COPY is done (R399). -/
def copyDone (s : State) (uid : Nat) (j : Job) : State :=
  finishJob (j.bufs.foldl devFree s) uid .success (segBytes (segsOf j.ents) % 2 ^ 24)

/-- One piece of a COPY to a host address whose segments are not all in the Mere: at most 65,536 bytes are read into the
staging buffer. -/
def copyFill (s : State) (uid : Nat) (j : Job) : State :=
  let gs := segsOf j.ents
  let n := min 65536 (segBytes gs - j.moved)
  let h := j.bufs.headD 0
  let s := { s with jobs := mset s.jobs uid { j with x := [1] } }
  let pasid := ownerPasid s j.owner
  copyMove s uid j (pairMove s false pasid (segCut gs j.moved n) [⟨h, 0, n, true⟩])

/-- The transfer of a COPY has ended: the next piece, or the end of the job. -/
def copyNext (s : State) (uid : Nat) (j : Job) : State :=
  let gs := segsOf j.ents
  match j.x with
  | [1] =>
    let n := min 65536 (segBytes gs - j.moved)
    let s := { s with jobs := mset s.jobs uid { j with x := [2], moved := j.moved + n } }
    copyMove s uid j [mkDesc true (cpDst j + j.moved) (bufAddr s (j.bufs.headD 0) 0) n (ownerPasid s j.owner)]
  | [2] => if j.moved < segBytes gs then copyFill s uid j else copyDone s uid j
  | _ => copyDone s uid j

/-- COPY (R399). Between host ranges the data is staged in a buffer charged to the owner (R225). -/
def execCopy (uid : Nat) (s : State) : Host.Outcome State Fault Refusal :=
  .next (jobRun s uid 0x87 fun s j =>
    let gs := segsOf j.ents
    let n := segBytes gs
    let pasid := ownerPasid s j.owner
    if !copyOk s j n ∨ !segsOwned s (ownerReq j.owner) gs then finishJob s uid .invalidField 0
    else if n = 0 then copyDone s uid j
    else if cpMere j ∨ cpWin j then
      let ds := pairMove s (cpDir j) pasid gs (copyMere s j n)
      if ds = [] then copyDone s uid j else copyMove s uid j ds
    else if gs.all (·.inMere) then
      let ds := (gs.foldl (fun (a : List Desc × Nat) g =>
        (a.1 ++ [mkDesc true (cpDst j + a.2) (bufAddr s g.lo g.hi) g.len pasid], a.2 + g.len)) ([], 0)).1
      copyMove s uid j ds
    else
      match allocWork s (ownerReq j.owner) (min 65536 n) with
      | (.error st, s) => finishJob s uid st 0
      | (.ok h, s) =>
        let j := { j with bufs := [h] }
        copyFill { s with jobs := mset s.jobs uid j } uid j)

end Sys2Proof.Machine
end

