-- ==== Sys2Proof/Machine/DmaEnd.lean ====
section
/-! DEFINITION. What the end of a DMA transfer means to its unit, and the commands of Carters that end transfers: bursts,
read completions, bus errors, completion timeouts, and the flow-core transfers (R82, R391, R395 to R398). -/
namespace Sys2Proof.Machine

/-! ### The end of a transfer -/

/-- The data of a queue-engine job has moved, or could not be (R395). -/
def jobEnd (s : State) (uid : Nat) (err : Option Status) : State :=
  match mget? s.jobs uid with
  | none => s
  | some j =>
    if j.op = 0x83 then sendRead s uid err
    else
      match err with
      | some st => failJob s uid st
      | none =>
        if j.op = 0x81 then txRead s uid j
        else if j.op = 0x86 then coreRead s uid j
        else copyNext s uid j

/-- A frame could not be written to its receive buffer: the job fails (R149, R395). -/
def rxFail (s : State) (uid : Nat) (st : Status) : State := failJob s uid st

/-- Tell the unit that a transfer has ended, with the bytes it moved. -/
def tellUnit (s : State) (k : XKind) (moved : Nat) (err : Option Status) : State :=
  match k with
  | .job uid => jobEnd s uid err
  | .rx uid => match err with | none => rxDone s uid | some st => rxFail s uid st
  | .stor uid => storEnd s uid err
  | .msg i uid _ buf len => packetWritten s i uid buf len err
  | .core c t tag _ => chReply s c t 5 tag (err.getD .success) [moved]

/-- Bytes that a transfer's unit asked to be moved. -/
def askedBytes (t : Xfer) : Nat := match t.kind with | .core _ _ _ n => n | _ => t.left

/-- A transfer ends: its record goes, or, when it failed, what is left of it is withdrawn (R395, R397); its unit is
told. -/
def xferEnd (s : State) (x : Nat) (err : Option Status) : State :=
  match mget? s.xfers x with
  | none => s
  | some t =>
    let s := match err with
      | none => { s with xfers := mdel s.xfers x }
      | some _ => withdraw s x
    tellUnit s t.kind (askedBytes t - t.left) err

/-- DMA_BURST (R234, R391 to R393). -/
def execDmaBurst (eng : Fin 16) (ch : Fin 64) (ecc : Ecc) (s : State) : Host.Outcome State Fault Refusal :=
  match burst s eng.val ch.val ecc with
  | (s, .on) => .next s
  | (s, .done x) => .next (xferEnd s x none)
  | (s, .failed x) => .next (xferEnd s x (some .workDiscarded))

/-! ### Bus errors -/

/-- Every transfer that has a descriptor on an engine, or data still to arrive through it. -/
def engXfers (s : State) (e : Nat) : List Nat :=
  (s.xfers.filter fun x =>
    (match x.2.chan with | some k => decide (k / 64 = e) | none => false) ||
    s.reads.any fun r => decide (r.2.eng = e ∧ r.2.xid = x.1) && !r.2.drop).map (·.1)

/-- Transfers that wait for a port whose engines are all HALTED or OFFLINE fail with NO_RESOURCE (R394). -/
def dropUnplaced (s : State) (p : Nat) : State :=
  if xferPossible s p then s
  else
    (s.xfers.filter fun x => decide (x.2.port = p ∧ x.2.chan = none ∧ x.2.todo ≠ [])).foldl
      (fun s x => xferEnd s x.1 (some .noResource)) s

/-- A bus error (R394, R396): the engine halts, its writes not yet sent are dropped, its reads are discarded when they
arrive, and the jobs of its descriptors complete with WORK_DISCARDED. -/
def busError (s : State) (e : Nat) : State :=
  let g := engOf s e
  if g.st = .halted ∨ g.st = .offline then s
  else
    let s := modEng s e fun g => { g with
      st := .halted, prev := g.st, halts := s.clk :: g.halts
      chans := mmap (fun _ k => { k with st := .halted }) g.chans }
    let xs := engXfers s e
    let s := { s with
      wreqs := s.wreqs.filter fun w => decide (w.eng ≠ e)
      reads := mmap (fun _ r => if r.eng = e then { r with drop := true } else r) s.reads
      xfers := mmap (fun x t => if x ∈ xs then { t with chan := none, todo := [] } else t) s.xfers }
    let s := modEng s e fun g => { g with chans := [] }
    let s := raise (xs.foldl (fun s x => xferEnd s x (some .workDiscarded)) (cadd s 16 e 7 1)) .dxBusErr e
    dropUnplaced (offCheck s e) (engPort s e)

/-- DX_BUS_ERR (R395, R396). -/
def execDxBusErr (eng : Fin 16) (s : State) : Host.Outcome State Fault Refusal :=
  if running s ∧ portWidth s (engPort s eng.val) ≠ 0 then .next (busError s eng.val) else .next s

/-! ### Read completions -/

/-- A read has failed: a request error, which fails only its job (R395). -/
def readFail (s : State) (r : RdReq) (st : Status) : State := xferEnd (cadd s 16 r.eng 6 1) r.xid (some st)

/-- The data of a read is placed, and the last of a transfer ends it (R391, R395, R397). -/
def readData (s : State) (r : RdReq) (b : List Byte) : State :=
  let s := cadd (storeWrite s r.mere b) 16 r.eng 0 b.length
  match mget? s.xfers r.xid with
  | none => s
  | some t =>
    let s := { s with xfers := mset s.xfers r.xid { t with left := t.left - r.len } }
    if t.left ≤ r.len then xferEnd s r.xid none else s

/-- DMA_READ_COMPLETION: the completion of a DMA read is taken in (R395 to R397). One whose byte count contradicts its
request, or with `astray` whose lower address does, is a bus error and a Malformed TLP (R84, R395). -/
def execDmaReadCompletion (port : HostPort) (tag : Fin 16384) (data : HostData) (astray : Bool) (s : State) :
    Host.Outcome State Fault Refusal :=
  let k := port.val * 16384 + tag.val
  match mget? s.reads k with
  | none => .next s
  | some r =>
    let s' := { s with reads := mdel s.reads k }
    match data with
    | .timeout => .next s
    | .error => .next (if r.drop then cadd s' 16 r.eng 5 1 else readFail s' r .hostReadError)
    | .ok b =>
      if astray ∨ b.length ≠ r.len then .next (busError (aer s' port r.fn .malformedTlp) r.eng)
      else if r.drop then .next (cadd s' 16 r.eng 5 1)
      else .next (readData s' r b)

/-! ### Completion timeouts (R81 to R83) -/

/-- The state that a handler leaves. -/
def after (o : Host.Outcome State Fault Refusal) (s : State) : State := match o with | .next t => t | _ => s

/-- A read that holds a tag of a port has reached the completion timeout of its function: the function that issued it
(R81). -/
def timedOut (s : State) (p tag : Nat) (w : ReadRef) : Option Fn :=
  let due (f : Fn) (t : Nat) : Option Fn := if t + timeoutOf (fnOf s p f).cplTo ≤ s.clk then some f else none
  match w with
  | .dma => (mget? s.reads (p * 16384 + tag)).bind fun r => due r.fn r.since
  | _ => (mget? s.sreads (p * 16384 + tag)).bind fun r => if r.what = w then due r.fn r.since else none

/-- What the loss of a read means to its reader (R82, R114, R130, R412). -/
def readLost (s : State) (w : ReadRef) : State :=
  match w with
  | .dma => s
  | .doorbell i => doorbellRead s i .timeout
  | .ring i => ringRead s i .timeout
  | .head e i => headRead s e i .timeout
  | .image i => imageRead s i.val .timeout
  | .attach q => attachRead s q.val .timeout
  | .fcImage q => mbRun s q.val 0x03 true fun s _ => (s, 7, [])
  | .dump r =>
    match (mget? s.tl.rings r).bind (·.pend) with
    | some x => dumpDone (dumpSkip s r x.recs) r
    | none => s

/-- A read is given up: its reader is told, unless its data was to be discarded (R82). -/
def readGone (s : State) (p tag : Nat) (w : ReadRef) : State :=
  let k := p * 16384 + tag
  match w with
  | .dma =>
    match mget? s.reads k with
    | some r =>
      let s := { s with reads := mdel s.reads k }
      if r.drop then s else readFail s r .hostReadTimeout
    | none => s
  | _ =>
    match mget? s.sreads k with
    | some r =>
      let s := { s with sreads := mdel s.sreads k }
      if r.drop then s else readLost s w
    | none => s

/-- CPL_TIMEOUT (R82): the tag is not issued again until 4 x the device timeout has passed (R83). -/
def execCplTimeout (port : HostPort) (tag : Fin 16384) (what : ReadRef) (s : State) : Host.Outcome State Fault Refusal :=
  let p := port.val
  match timedOut s p tag.val what with
  | some f =>
    if !running s then .next s
    else
      let s := modHp s p fun h => { h with
        toCnt := satInc 65535 h.toCnt
        lateTags := (tag.val, s.clk + 4 * timeoutOf (fnOf s p f).cplTo, f) :: h.lateTags }
      .next (readGone (raise (aer s port f .cplTimeout) .hlCplTimeout p) p tag.val what)
  | none => .next s

/-! ### Flow-core transfers (R398) -/

/-- The owner that a flow-core transfer names, its port and the generations to hold, or why it fails (R61, R398). -/
def coreOwner (s : State) (m : Msg) : Except Status (Option Nat × Nat × List (Nat × Nat)) :=
  let h := m.w 3 / 2 ^ 32
  let p := bitsOf (m.w 4) 2 0
  if h = 0 then if portWidth s p = 0 then .error .invalidField else .ok (none, p, [])
  else
    match checkHandle (hKind h = 4) (hIdx h < 4096) (hGen h = gen s 4 (hIdx h)) (mget? s.tens (hIdx h)).isSome with
    | some st => .error st
    | none => .ok (some (hIdx h), ((mget? s.tens (hIdx h)).map (·.home)).getD 0, [(gkey 4 (hIdx h), hGen h)])

/-- Start a flow-core transfer (R390, R394, R398). -/
def coreMove (s : State) (m : Msg) (toHost : Bool) : State :=
  match coreOwner s m with
  | .error st => msgAnswer s m st []
  | .ok (owner, p, gens) =>
    if !xferPossible s p then msgAnswer s m .noResource []
    else
      startXfer s {
        kind := .core m.core m.thread (msgTag (m.w 0)) m.len, port := p, unit := 3, tenant := owner
        todo := [mkDesc toHost (m.w 2) (bufAddr s m.buf (bitsOf (m.w 3) 23 0)) m.len (ownerPasid s owner)]
        gens := gens, owner := m.w 3 / 2 ^ 32, ns := bitOf (m.w 4) 3 }

/-- WRITE_HOST (R398). -/
def execWriteHost (core : CoreId) (thread : ThreadId) (s : State) : Host.Outcome State Fault Refusal :=
  .next (msgRun s core thread 0x06 0x01 fun s m => coreMove s m true)
/-- READ_HOST (R398). -/
def execReadHost (core : CoreId) (thread : ThreadId) (s : State) : Host.Outcome State Fault Refusal :=
  .next (msgRun s core thread 0x06 0x02 fun s m => coreMove s m false)

/-- A flow-core transfer whose tenant's generation has advanced is withdrawn, with STALE_HANDLE (R398). -/
def staleCore (s : State) (x : Nat) : State :=
  match mget? s.xfers x with
  | some t => if gensOk s t.gens then s else xferEnd s x (some .staleHandle)
  | none => s

/-! ### Frames on the wire (R321, R323) -/

/-- FRAME_TX_START (R323). A connection whose packet has started computes its next instant (R316). -/
def execFrameTxStart (port : NetPort) (ecc : Ecc) (s : State) : Host.Outcome State Fault Refusal :=
  let s := txStart s port.val ecc
  .next (s.conns.foldl (fun s x => plan s x.1) s)

/-- FRAME_TX_END (R321). -/
def execFrameTxEnd (port : NetPort) (s : State) : Host.Outcome State Fault Refusal := .next (txEnd s port.val)

end Sys2Proof.Machine
end

