-- ==== Sys2Proof/Machine/JobStart.lean ====
section
/-! DEFINITION. Starting a job: the checks of R104 that come before the opcode's own chapter (R61, R99 to R105, R124). -/
namespace Sys2Proof.Machine

/-! ### Checks 2 to 4 of R104 -/

/-- Check 2: the header fields of every entry. -/
def headerOk (es : List Entry) : Bool :=
  es.all fun e => decide (bitsOf (dw e 0) 11 8 = 0) && decide (bitsOf (dw e 2) 23 0 = 0) && decide (dw e 3 = 0) &&
    (eFirst e || decide (eCnt e = 0))

/-- The admin opcodes of an ABI major (R101, R106). -/
def adminOps (abi : Nat) : List Nat :=
  [0x00, 0x01, 0x02, 0x03, 0x04, 0x05, 0x06, 0x07, 0x09, 0x10, 0x11, 0x12, 0x13, 0x14, 0x15, 0x18, 0x19, 0x1A, 0x20,
   0x21, 0x22, 0x28, 0x29, 0x2A, 0x30, 0x31, 0x38, 0x39, 0x3A, 0x40, 0x41] ++ (if abi = 2 then [0x08] else [])

/-- Check 4 of a data-path job: DW1 where it is 0, the reserved fields of the opcode and of the segments (R101, R149,
R259, R304, R305, R334, R380, R399). -/
def jobFieldsOk (es : List Entry) : Bool :=
  let e := es.getD 0 ⟨[]⟩
  let d8 := dw e 8
  let d9 := dw e 9
  segsOk es &&
  match opOf e with
  | 0x80 => decide (dw e 1 = 0) && dwZero e 8 15
  | 0x81 => decide (dw e 1 = 0 ∧ bitsOf d8 26 16 = 0 ∧ bitsOf d9 31 13 = 0 ∧ bitsOf d9 7 5 = 0) && dwZero e 10 15
  | 0x82 => decide (dw e 1 = 0 ∧ d8 < 2) && dwZero e 9 15
  | 0x83 => dwZero e 9 15
  | 0x84 => dwZero e 8 15
  | 0x85 => decide (dw e 1 = 0 ∧ d8 < 256)
  | 0x86 => decide (dw e 1 = 0 ∧ d8 < 4096 ∧ d9 < 65536) && dwZero e 10 15
  | _ => decide (dw e 11 < 128 ∧ bitsOf (dw e 11) 3 2 = 0) && dwZero e 12 15

/-! ### Objects and their ports (R61, R100) -/

/-- Home port of a tenant. -/
def homeOf (s : State) (t : Nat) : Option Nat := (mget? s.tens t).map (·.home)

/-- The port on whose admin queue a command must be issued: the home port of the tenant that it names or that owns what it
names, or the management port; none where any port will do, or its object is not in use or a PF0's (R100, R101). -/
def adminPort (s : State) (e : Entry) : Option Nat :=
  let i := hIdx (dw e 1)
  let tenant : Option Nat := if dw e 1 = 0 then none else homeOf s i
  let queue (kind : Nat) : Option Nat :=
    (match kind with
      | 1 => (mget? s.sqs i).bind (·.owner)
      | 2 => (mget? s.cqs i).bind (·.owner)
      | _ => (mget? s.eqs i).bind (·.owner)).bind (homeOf s)
  match opOf e with
  | 0x02 | 0x08 => queue 1
  | 0x04 => queue 2
  | 0x06 => queue 3
  | 0x07 => queue (hKind (dw e 1))
  | 0x00 | 0x09 | 0x10 => none
  | 0x18 => if i < 4096 then homeOf s i else some (mgmtPort s)
  | 0x21 | 0x22 => ((mget? s.ls.ctxs (ctxIdx (dw e 1))).bind (·.owner)).bind (homeOf s)
  | 0x28 | 0x29 | 0x2A | 0x3A => some (mgmtPort s)
  | 0x31 => (mget? s.conns i).bind fun c => homeOf s c.tenant
  | 0x38 | 0x39 => if dw e 1 = 0 then some (mgmtPort s) else tenant
  | _ => tenant

/-- A queue of a kind is in use on a port (R61). -/
def queueOn (s : State) (p kind i : Nat) : Bool :=
  match kind with
  | 1 => match mget? s.sqs i with | some q => decide (q.port = p) && q.drain.isNone | none => false
  | 2 => match mget? s.cqs i with | some q => decide (q.port = p) && q.drain.isNone | none => false
  | _ => match mget? s.eqs i with | some q => decide (q.port = p) && q.drain.isNone | none => false

/-- Check 5 of an admin command: the handle in DW1 against R61 (R101, R104); `use` says what check 4 makes of the object. -/
def handleCheck (s : State) (p : Nat) (e : Entry) (use : Bool → Bool) : Option Status :=
  let h := dw e 1
  let i := hIdx h
  let queue (kind : Nat) := checkHandle (hKind h = kind) true (hGen h = gen s 1 i) (use (queueOn s p kind i))
  let tenant := checkHandle (hKind h = 4) (i < 4096) (hGen h = gen s 4 i) (use (mget? s.tens i).isSome)
  match opOf e with
  | 0x00 | 0x10 | 0x28 | 0x3A => none
  | 0x01 | 0x03 | 0x05 | 0x20 | 0x38 | 0x39 => if h = 0 then none else tenant
  | 0x02 | 0x08 => queue 1
  | 0x04 => queue 2
  | 0x06 => queue 3
  | 0x07 => if hKind h = 1 ∨ hKind h = 2 ∨ hKind h = 3 then queue (hKind h) else some .invalidHandle
  | 0x09 =>
    if h = 0 then none
    else checkHandle (hKind h = 3) true (hGen h = gen s 1 i)
      (use (queueOn s p 3 i && decide (((mget? s.eqs i).bind (·.owner)) = none)))
  | 0x18 =>
    checkHandle (hKind h = 5) (i < 4146) (hGen h = if i < 4096 then gen s 4 i else 1)
      (use (4096 ≤ i || (mget? s.tens i).isSome))
  | 0x21 | 0x22 =>
    checkHandle (12 ≤ hKind h) (ctxIdx h < 4194304) (hGen h = gen s 12 (ctxIdx h)) 
      (use (match mget? s.ls.ctxs (ctxIdx h) with | some x => x.owner.isSome || decide (x.port = p) | none => false))
  | 0x29 | 0x2A => checkHandle (hKind h = 8) (i < 4) (hGen h = gen s 8 i) (use (mget? s.pa.slots i).isSome)
  | 0x31 => checkHandle (hKind h = 7) true (hGen h = gen s 7 i) (use (mget? s.conns i).isSome)
  | _ => tenant

/-- All four checks of R61. -/
def adminHandle (s : State) (p : Nat) (e : Entry) : Option Status := handleCheck s p e id

/-- Checks 1 to 3 of R61: KIND, INDEX and GEN. -/
def handleForm (s : State) (p : Nat) (e : Entry) : Option Status := handleCheck s p e fun _ => true

/-- Check 5 of a data-path job: a connection or a peer window of the queue's owner (R61, R101). -/
def jobHandle (s : State) (owner : Option Nat) (e : Entry) : Option Status :=
  let h := dw e 1
  let i := hIdx h
  match opOf e with
  | 0x83 | 0x84 =>
    checkHandle (hKind h = 7) true (hGen h = gen s 7 i)
      (match mget? s.conns i with | some c => decide (some c.tenant = owner) | none => false)
  | 0x87 =>
    if h = 0 then none
    else
      let w := winInst (i / 256) (actSet s (i / 256)) (i % 256)
      checkHandle (hKind h = 6) (i < 2048) (hGen h = gen s 6 i) (winEn s w && decide (some (winTenant s w) = owner))
  | _ => none

/-! ### Starting -/

/-- The first check of R104 up to order 5 that an admin command fails. A handle that does not pass the first three checks of R61
names nothing that could be on another port (R61, R100; log entry 15). -/
def adminCheck (s : State) (p : Nat) (d : Decoded) (e : Entry) : Option Status :=
  if d.bad then some .chainInvalid
  else if !headerOk d.ents then some .invalidField
  else if opOf e ∉ adminOps (hpOf s p).aq.abi then some .invalidOpcode
  else if bitOf (dw e 0) 13 ∨ (opOf e ∈ [0x00, 0x3A] ∧ dw e 1 ≠ 0) then some .invalidField
  else
    match handleForm s p e with
    | some st => some st
    | none => if (adminPort s e).any (· ≠ p) then some .notPermitted else adminHandle s p e

/-- Start the admin command at the head of the ring: it becomes the command being executed, or fails (R99, R104). -/
def startAdmin (s : State) (p : Nat) (q : Sq) : State :=
  match q.decoded with
  | [] => s
  | d :: t =>
    let e := d.ents.getD 0 ⟨[]⟩
    let busy := (hpOf s p).aq.cur.isSome || decide (((mget? s.cqs (admKey p)).map (·.fin)).getD [] ≠ [])
    if busy then s
    else
      let s := modSq s (admKey p) fun q => { q with decoded := t }
      let s := modHp s p fun h => { h with aq := { h.aq with cur := some e, wait := none, mute := false } }
      match adminCheck s p d e with
      | some st => finishAdmin s p st 0
      | none => s

/-- The first check of R104 up to order 5 that a data-path job fails. -/
def jobCheck (s : State) (owner : Option Nat) (d : Decoded) (e : Entry) : Option Status :=
  if d.bad then some .chainInvalid
  else if !headerOk d.ents then some .invalidField
  else if opOf e < 0x80 ∨ 0x87 < opOf e then some .invalidOpcode
  else if !jobFieldsOk d.ents then some .invalidField
  else jobHandle s owner e

/-- Start the next data-path job of an SQ (R104, R124). -/
def startJob (s : State) (i : Nat) (q : Sq) : State :=
  match q.decoded with
  | [] => s
  | d :: t =>
    let e := d.ents.getD 0 ⟨[]⟩
    if q.inflMax ≤ q.started.length ∨ (bitOf (dw e 0) 12 ∧ q.started ≠ []) then s
    else
      let uid := s.uid
      let j : Job := {
        sq := i, port := q.port, owner := q.owner, sqGen := gen s 1 i, tenGen := ownerGen s q.owner, op := opOf e
        cid := eCid e, noCpl := bitOf (dw e 0) 13, ents := d.ents }
      let s := modSq (settleSq { s with uid := uid + 1, jobs := mset s.jobs uid j } i) i fun q => { q with
        decoded := t, started := q.started ++ [uid] }
      match jobCheck s q.owner d e with
      | some st => finishJob s uid st 0
      | none => s

/-- JOB_START (R104); no job starts while the function is in D3hot (R118). -/
def execJobStart (sq : Nat) (s : State) : Host.Outcome State Fault Refusal :=
  match mget? s.sqs sq with
  | none => .next s
  | some q =>
    if !running s ∨ !sqLive s sq q ∨ stalled s q ∨ (fnOf s q.port (ownerFn q.owner)).d3 then .next s
    else if 2 ^ 20 ≤ sq then .next (startAdmin s (sq - 2 ^ 20) q)
    else .next (startJob s sq q)

end Sys2Proof.Machine
end

