-- ==== Sys2Proof/Machine/Tenants.lean ====
section
/-! DEFINITION. Tenants: identity, configuration and enabling (07_tenants.md). Fences and what ends with an incarnation
stand in Teardown.lean. -/
namespace Sys2Proof.Machine

/-- The lowest free tenant index. -/
def lowTenant (s : State) : Option Nat := (List.range 4096).find? fun t => (mget? s.tens t).isNone

/-- The tenant counters of R150 are zeroed. -/
def zeroTenantCounters (s : State) (t : Nat) : State :=
  { s with cnt := mfilter (fun k _ => !(k / 2 ^ 8 = 4 * 2 ^ 32 + t)) s.cnt }

/-- TENANT_CREATE with its own checks of DW1 (R143). -/
def tenantCreate (s : State) (p : Nat) (e : Entry) : State :=
  let h := dw e 1
  let any := hIdx h = 0xFFFFF
  if hKind h ≠ 4 ∨ hGen h ≠ 0 ∨ (hIdx h ≥ 4096 ∧ !any) then finishAdmin s p .invalidField 0
  else if !any ∧ (mget? s.tens (hIdx h)).isSome then finishAdmin s p .inUse 0
  else
    match (if any then lowTenant s else some (hIdx h)) with
    | none => finishAdmin s p .noResource 0
    | some t =>
      if !dwZero e 4 15 then finishAdmin s p .invalidField 0
      else
        let s := zeroTenantCounters { s with tens := mset s.tens t { home := p } } t
        finishAdmin s p .success (tenHandle s t)

/-- TENANT_CREATE (R143). -/
def execTenantCreate (port : HostPort) (s : State) : Host.Outcome State Fault Refusal :=
  .next (adminRun s port.val 0x10 fun s e => tenantCreate s port.val e)

/-- Pass 1 of R146: each set group is in its range with its reserved bits zero; so are MASK and DW13 to DW15. -/
def configRange (e : Entry) : Bool :=
  let m := dw e 12
  decide (m < 128) && dwZero e 13 15 &&
  (!bitOf m 0 || decide (dw e 4 < 2 ^ 20)) && (!bitOf m 1 || decide (dw e 5 ≤ 32)) &&
  (!bitOf m 2 || decide (dw e 6 % 8 = 0)) && (!bitOf m 3 || decide (dw e 8 ≤ 1048576)) &&
  (!bitOf m 4 || decide (dw e 9 ≤ 4194304)) && (!bitOf m 5 || decide (dw e 10 ≤ 1048576)) &&
  (!bitOf m 6 || decide (dw e 11 ≤ 256))

/-- The set groups applied (R146). -/
def configApply (e : Entry) (t : Tenant) : Tenant :=
  let m := dw e 12
  { t with
    pasid := if bitOf m 0 then dw e 4 else t.pasid
    credits := if bitOf m 1 then dw e 5 else t.credits
    creditAddr := if bitOf m 2 then dw2 e 6 else t.creditAddr
    queueMax := if bitOf m 3 then dw e 8 else t.queueMax
    keyMax := if bitOf m 4 then dw e 9 else t.keyMax
    connMax := if bitOf m 5 then dw e 10 else t.connMax
    winMax := if bitOf m 6 then dw e 11 else t.winMax }

/-- TENANT_CONFIG (R146). -/
def execTenantConfig (port : HostPort) (s : State) : Host.Outcome State Fault Refusal :=
  .next (adminRun s port.val 0x11 fun s e =>
    let t := hIdx (dw e 1)
    match mget? s.tens t with
    | none => finishAdmin s port.val .invalidHandle 0
    | some x =>
      if !configRange e then finishAdmin s port.val .invalidField 0
      else if x.st = .enabled ∧ (bitOf (dw e 12) 0 ∨ bitOf (dw e 12) 2) then finishAdmin s port.val .inUse 0
      else finishAdmin (modTen s t (configApply e)) port.val .success 0)

/-- TENANT_ENABLE (R144). -/
def execTenantEnable (port : HostPort) (s : State) : Host.Outcome State Fault Refusal :=
  .next (adminRun s port.val 0x12 fun s e =>
    let t := hIdx (dw e 1)
    match mget? s.tens t with
    | none => finishAdmin s port.val .invalidHandle 0
    | some x =>
      if !dwZero e 4 15 then finishAdmin s port.val .invalidField 0
      else if x.st = .enabled then finishAdmin s port.val .success 0
      else if !(hpOf s port.val).f1.pasidEn then finishAdmin s port.val .pasidDisabled 0
      else if x.credits > 0 ∧ x.creditAddr = 0 then finishAdmin s port.val .invalidField 0
      else finishAdmin (modTen s t fun x => { x with st := .enabled }) port.val .success 0)

end Sys2Proof.Machine
end

