-- ==== Sys2Proof/Machine/Teardown.lean ====
section
/-! DEFINITION. Ends of incarnations: tenants and their fences (R144 to R147), and the resets and disables of host ports and
functions (R73, R76, R87, R88). -/
namespace Sys2Proof.Machine

/-! ### What a tenant's end takes with it (R145) -/

/-- The queues of an owner on a port end (R111). -/
def endQueues (s : State) (p : Nat) (owner : Option Nat) : State :=
  let mine (port : Nat) (o : Option Nat) (i : Nat) : Bool := decide (port = p ∧ o = owner ∧ i < 2 ^ 20)
  let s := ((s.sqs.filter fun x => mine x.2.port x.2.owner x.1).map (·.1)).foldl endSq s
  let s := ((s.cqs.filter fun x => mine x.2.port x.2.owner x.1).map (·.1)).foldl endCq s
  ((s.eqs.filter fun x => mine x.2.port x.2.owner x.1).map (·.1)).foldl endEq s

/-- The windows of a tenant on its home port are refused from now on, and their incarnations end (R60, R76). They have ended
already while their EN waits to be cleared. -/
def endWindows (s : State) (p t : Nat) : State :=
  if t ∈ (hpOf s p).winClear then s
  else
    let ws := (enabledWins s p (actSet s p)).filter fun w => decide (winTenant s (winInst p (actSet s p) w) = t)
    modHp (ws.foldl (fun s w => advGen s 6 (p * 256 + w)) s) p fun h => { h with winClear := t :: h.winClear }

/-- A key context ends with its owner; a command that waits to destroy it completes (R360). -/
def endCtx (s : State) (i : Nat) : State :=
  let s := freeCtx s i
  (List.range 8).foldl (fun s p =>
    if (hpOf s p).aq.wait = some ("keyctx", i) then finishAdmin s p .success 0 else s) s

/-- Every key context of an owner ends (R145, R360). -/
def endCtxs (s : State) (mine : Ctx → Bool) : State :=
  ((s.ls.ctxs.filter fun x => mine x.2).map (·.1)).foldl endCtx s

/-- Frames that wait for receive buffers of a tenant are discarded (R62). -/
def endFrames (s : State) (t : Nat) : State :=
  let gone := s.hostq.filter fun f => decide (f.tenant = t)
  gone.foldl (fun s f => devFree s f.buf) { s with hostq := s.hostq.filter fun f => decide (f.tenant ≠ t) }

/-- The incarnation of a tenant ends: its generation advances, and its queues, windows, connections and flow-core transfers
with it (R62, R145, R398). -/
def tenantEnd (s : State) (t : Nat) (x : Tenant) : State :=
  let s := endQueues (advGen s 4 t) x.home (some t)
  let s := endWindows s x.home t
  let s := ((s.conns.filter fun c => decide (c.2.tenant = t)).map (·.1)).foldl connEnd s
  endFrames ((s.xfers.map (·.1)).foldl staleCore s) t

/-- A reset or a disable of a tenant, with the admin port that waits for it, if a command asked (R144). -/
def tenantStop (s : State) (t : Nat) (disable : Bool) (waiter : Option Nat) : State :=
  match mget? s.tens t with
  | none => s
  | some x =>
    let keys (s : State) : State := if disable then endCtxs s fun c => decide (c.owner = some t) else s
    match x.st with
    | .disabled => s
    | .fencing => modTen (keys s) t fun x => { x with toDisabled := x.toDisabled || disable }
    | .enabled =>
      let s := keys (tenantEnd s t x)
      modTen s t fun x => { x with
        st := .fencing, toDisabled := disable, fenceStart := s.clk, waiter := waiter }

/-- What was made for tenants that are DISABLED, homed on the port, ends with its resets: queues, windows, connections, and
with a disable of the tenants their key contexts (R60, R87, R111). -/
def idleEnds (s : State) (p : Nat) (disable : Bool) : State :=
  (s.tens.filter fun x => decide (x.2.home = p ∧ x.2.st = .disabled)).foldl (fun s x =>
    let s := endWindows (endQueues s p (some x.1)) p x.1
    let s := ((s.conns.filter fun c => decide (c.2.tenant = x.1)).map (·.1)).foldl connEnd s
    if disable then endCtxs s fun c => decide (c.owner = some x.1) else s) s

/-- A port event resets or disables the tenants homed on the port; a disable is reported once per affected tenant (R73,
R87, R144). -/
def tenantsStop (s : State) (p : Nat) (disable : Bool) : State :=
  let ts := s.tens.filter fun x => decide (x.2.home = p) &&
    (decide (x.2.st = .enabled) || (decide (x.2.st = .fencing) && disable && !x.2.toDisabled))
  ts.foldl (fun s x =>
    let s := if disable then raise s .tnPortDisable (tenHandle s x.1) else s
    tenantStop s x.1 disable none) s

/-! ### The fence (R147) -/

/-- The generations of a request name an ended incarnation of a tenant. -/
def oldTenant (s : State) (t : Nat) (g : List (Nat × Nat)) : Bool := g.any fun x => decide (x.1 = gkey 4 t ∧ x.2 ≠ gen s 4 t)

/-- Withdrawn transfers whose requests are outstanding, of an ended incarnation of a tenant. -/
def oldXfers (s : State) (t : Nat) : List Nat :=
  (((s.reads.filter fun r => oldTenant s t r.2.gens).map (·.2.xid)) ++
    (s.wreqs.filter fun w => oldTenant s t w.gens).map (·.xid)).eraseDups

/-- Jobs of a tenant. While it is FENCING every one of them is of the ended incarnation. -/
def tenantJobs (s : State) (t : Nat) : List Nat := (s.jobs.filter fun j => decide (j.2.owner = some t)).map (·.1)

/-- Operations of an ended incarnation are still outstanding. -/
def fenceBusy (s : State) (t : Nat) : Bool := decide (tenantJobs s t ≠ []) || decide (oldXfers s t ≠ [])

/-- FENCING ends: the target state, TN_FENCE, and the command that waits (R144, R147, R151). -/
def fenceEnd (s : State) (t : Nat) (x : Tenant) (cancelled : Nat) : State :=
  let us := min 10000 ((s.clk - x.fenceStart) / 1000000)
  let s := modTen s t fun x => { x with
    st := if x.toDisabled then .disabled else .enabled, drainUs := us, cancelled := min 65535 cancelled, waiter := none }
  match x.waiter with
  | some p => finishAdmin s p .success 0
  | none => s

/-- 10 ms after the start: what remains is cancelled in place (R147). -/
def fenceTimeout (s : State) (t : Nat) : State :=
  match mget? s.tens t with
  | some x =>
    if x.st = .fencing ∧ s.clk ≥ x.fenceStart + msec 10 then
      let n := (tenantJobs s t).length + (oldXfers s t).length
      if n = 0 then fenceEnd s t x 0
      else
        let s := cadd (cancelReqs ((tenantJobs s t).foldl cancelJob s) (oldTenant s t)) 4 t 7 n
        fenceEnd (raise s .tnFenceTimeout (tenHandle s t)) t x n
    else s
  | none => s

/-- TENANT_FENCE_END (R147). -/
def execTenantFenceEnd (tenant : TenantId) (s : State) : Host.Outcome State Fault Refusal :=
  match mget? s.tens tenant.val with
  | some x => if x.st = .fencing ∧ !fenceBusy s tenant.val then .next (fenceEnd s tenant.val x 0) else .next s
  | none => .next s

/-- TN_FENCE_TIMEOUT (R147). -/
def execTnFenceTimeout (tenant : TenantId) (s : State) : Host.Outcome State Fault Refusal :=
  .next (fenceTimeout s tenant.val)

/-! ### Tenant commands (R144, R145) -/

/-- TENANT_DISABLE and TENANT_RESET: the command completes when the fence ends (R144). -/
def tenantCmd (s : State) (p : Nat) (e : Entry) (disable : Bool) : State :=
  let t := hIdx (dw e 1)
  match mget? s.tens t with
  | none => finishAdmin s p .invalidHandle 0
  | some x =>
    if !dwZero e 4 15 then finishAdmin s p .invalidField 0
    else if x.st = .disabled then finishAdmin s p .success 0
    else tenantStop (adminWait s p "fence" t) t disable (some p)

/-- TENANT_DISABLE (R144). -/
def execTenantDisable (port : HostPort) (s : State) : Host.Outcome State Fault Refusal :=
  .next (adminRun s port.val 0x13 fun s e => tenantCmd s port.val e true)

/-- TENANT_RESET (R144). -/
def execTenantReset (port : HostPort) (s : State) : Host.Outcome State Fault Refusal :=
  .next (adminRun s port.val 0x14 fun s e => tenantCmd s port.val e false)

/-- The "Destroy" column of R145, with the requester's quarantine, quotas and cached buffers (R229, R233); queues, connections and contexts made
while the tenant was DISABLED end with it (R60, R111, R360). -/
def tenantFree (s : State) (t : Nat) (x : Tenant) : State :=
  let s := endCtxs (tenantEnd s t x) fun c => decide (c.owner = some t)
  let s := ((s.sx.atts.filter fun a => decide (a.2.tenant = t)).map (·.1)).foldl attFree s
  let s := (x.lists.flatMap (·.2)).foldl devFree (dumpEnd s (t + 1))
  let s := (List.range 6).foldl (fun s p => cacheReturn s t p) s
  let s := modCoop s fun c => { c with
    quar := c.quar.filter (· ≠ t), err := mdel c.err t
    lim := mfilter (fun k _ => decide (k / 8 ≠ t)) c.lim, rsv := mfilter (fun k _ => decide (k / 8 ≠ t)) c.rsv }
  { s with tens := mdel s.tens t, slots := mfilter (fun k _ => decide (k / 32 ≠ t)) s.slots }

/-- TENANT_DESTROY (R144, R145). -/
def execTenantDestroy (port : HostPort) (s : State) : Host.Outcome State Fault Refusal :=
  .next (adminRun s port.val 0x15 fun s e =>
    let t := hIdx (dw e 1)
    match mget? s.tens t with
    | none => finishAdmin s port.val .invalidHandle 0
    | some x =>
      if !dwZero e 4 15 then finishAdmin s port.val .invalidField 0
      else if x.st ≠ .disabled then finishAdmin s port.val .inUse 0
      else finishAdmin (tenantFree s t x) port.val .success 0)

/-! ### The ends of a PF0 (R87) -/

/-- The admin queue ends: the executing command runs to its end and writes no completion; entries not started are discarded
(R97). A command that reads host memory ends with its read (R185). -/
def endAdmin (s : State) (p : Nat) : State :=
  let s := modHp s p fun h => { h with
    aq := { h.aq with active := false, eq := none, mute := h.aq.cur.isSome } }
  let s := { s with sqs := mdel s.sqs (admKey p), cqs := mdel s.cqs (admKey p) }
  let s := wr s F.QM_AQ_CTRL_ENABLE 0 p 0
  match (hpOf s p).aq.wait with
  | some ("image", i) => finishAdmin (freeSlot s i) p .hostReadError 0
  | some ("attach", _) => finishAdmin s p .hostReadError 0
  | _ => s

/-- The device ring ends with the management port's PF0 queues; a command that waits for it ends (R408). -/
def endDeviceRing (s : State) : State :=
  match mget? s.tl.rings 0 with
  | some d =>
    let s := dumpEnd s 0
    match d.destroyer with | some q => finishAdmin s q .success 0 | none => s
  | none => s

/-- Write requests of a function that have not left are withdrawn, and the data of its outstanding reads will be discarded; a
snapshot that waits for such a read is skipped (R88, R397, R412). -/
def dropRequests (s : State) (p : Nat) (f : Fn) : State :=
  let mine (r : SysRead) : Bool := decide (r.port = p ∧ r.fn = f)
  let dumps := s.sreads.filterMap fun r =>
    match r.2.what with
    | .dump d => if mine r.2 && !r.2.drop then some d else none
    | _ => none
  let s := dropSys s mine
  let s := dumps.foldl (fun s d => readLost s (.dump d)) s
  { s with wreqs := s.wreqs.map fun w =>
      if w.port = p ∧ (if w.pasid.isSome then Fn.pf1 else Fn.pf0) = f then { w with drop := true } else w }

/-- Flow-core transfers made as the PF0 of a port are withdrawn (R62, R398). -/
def endPf0Xfers (s : State) (p : Nat) : State :=
  (s.xfers.map (·.1)).foldl (fun s x =>
    match mget? s.xfers x with
    | some t =>
      match t.kind with
      | .core _ _ _ _ => if t.port = p ∧ t.tenant = none then xferEnd s x (some .staleHandle) else s
      | _ => s
    | none => s) s

/-- The objects of a PF0 end: admin queue, queues, key contexts, and on the management port the device ring (R87,
R360, R408). -/
def endPf0 (s : State) (p : Nat) : State :=
  let s := endQueues (endAdmin s p) p none
  let s := endCtxs s fun c => decide (c.owner = none ∧ c.port = p)
  let s := if p = mgmtPort s then endDeviceRing s else s
  dropRequests (endPf0Xfers s p) p .pf0

/-! ### Resets of a port (R54, R87 to R90) -/

/-- The register belongs to a port's own instances, which a reset of the port resets (R50, R54, R95, R422). -/
def ownReg (p k : Nat) : Bool :=
  let inst := k / 2 ^ 26
  let off := k % 2 ^ 26
  if off ∈ winOffs then decide (inst / 512 = p)
  else decide (inst = p) && decide (off ≠ F.HL_RESET_CAUSE_PERST.off) &&
    (decide (off / 2 ^ 20 ∈ [2, 3, 4, 16, 32]) || decide (off = F.GL_SCRATCH_VALUE.off ∨ off = F.GL_ACC_STATUS_DENIED.off))

/-- The mailbox of a port resets; a command that runs goes on without a response (R423): one that its header makes fail only
raises its event, and an IMAGE_LOAD loses its read. After the last-resort sequencer a BUSY mailbox stays BUSY (R433). -/
def mbReset (s : State) (p : Nat) : State :=
  if s.lk.st = .lrs then s
  else
    let m := mbOf s p
    let op := bitsOf (mbWord m 0x100) 7 0
    let bad := decide (m.st = .busy) && (mbRefuse s m).isSome
    let goes := decide (m.st = .busy ∧ op ≠ 3) && !bad
    let s := if bad then raiseOnce s .lkMbProtocol p else s
    modMb s p fun m => { m with
      st := .idle, version := 0
      orphans := if goes then
          m.orphans ++ [(op, mbWord m 0x1000, readMem m.area 0x1000 (min 28672 (mbWord m 0x100 / 256)))]
        else m.orphans }

/-- The latches a function holds are empty (R53). -/
def dropLatches (s : State) (p : Nat) (f : Fn) : State :=
  let k := p * 2 + (match f with | .pf0 => 0 | .pf1 => 1)
  { s with
    wlatch := mfilter (fun x _ => decide (x / 2 ^ 59 ≠ k)) s.wlatch
    rlatch := mfilter (fun x _ => decide (x / 2 ^ 59 ≠ k)) s.rlatch }

/-- Registers and own-port state of the QM, HL, TN, DX and mailbox instances of a port return to their reset values; the
windows enabled in the active set end (R54, R60, R78). Requests held in HOLD go without a completion: R78 does not say what
becomes of them (DESIGN CHOICE, log entry 107). Of the engines of the port, STATE and HALTS return to their reset values,
OFFLINE apart (DESIGN CHOICE, log entry 117). -/
def resetOwn (s : State) (p : Nat) : State :=
  let ws := (enabledWins s p (actSet s p)).filter fun w => winTenant s (winInst p (actSet s p) w) ∉ (hpOf s p).winClear
  let s := ws.foldl (fun s w => advGen s 6 (p * 256 + w)) s
  let engs := portEngines s p
  let s := { s with
    regs := mfilter (fun k _ => !ownReg p k) s.regs
    cnt := mfilter (fun k _ => !engs.any fun e => decide (k / 2 ^ 8 = 16 * 2 ^ 32 + e)) s.cnt }
  let s := modHp s p fun h => { h with
    winSt := .idle, winFlip := false, winClear := [], held := [], winErr := 0, winErrCode := 0, holdMax := 0, alert := false
    alertHeld := false, stretch := 256, demoteCnt := 0, staleCnt := 0, overrunCnt := 0, headCnt := 0, toCnt := 0
    lateCnt := 0, refusedCnt := 0, deniedCnt := 0, aq := { h.aq with abi := 0, err := 0 } }
  mbReset (engs.foldl engReset s) p

/-- A function starts to drain what is still outstanding of it (R88). -/
def startDrain (s : State) (p : Nat) (f : Fn) : State :=
  if fnDraining s p f then modFn s p f fun x => { x with drain := some s.clk } else s

/-- The effects of a reset of both functions (R87). The link's own state is the caller's. -/
def portReset (s : State) (p : Nat) : State :=
  let s := modHp (dropLatches (dropLatches s p .pf0) p .pf1) p fun h => { h with
    ready := false, l0p := none, l11 := false, width := 0, speed := 0, f0 := {}, f1 := {}, intaOn := false, scanReads := [] }
  let s := tenantsStop (idleEnds (endPf0 (resetOwn s p) p) p true) p true
  let s := { dropRequests s p .pf1 with ft := { s.ft with ptmOpen := mdel s.ft.ptmOpen p } }
  startDrain (startDrain s p .pf0) p .pf1

/-- PERST_ASSERT (R87). -/
def execPerstAssert (port : HostPort) (s : State) : Host.Outcome State Fault Refusal :=
  let p := port.val
  if (hpOf s p).perst then .next s
  else
    let s := portReset (modHp s p fun h => { h with perst := true, ltssm := .detect, noFlit := false }) p
    .next (wr s F.HL_RESET_CAUSE_PERST 0 p 1)

/-- The link is up, in any state but those of training. -/
def linkLive (s : State) (p : Nat) : Bool :=
  let h := hpOf s p
  !h.perst && decide (h.ltssm = .l0 ∨ h.ltssm = .l1 ∨ h.ltssm = .recovery)

/-- HOT_RESET (R87). -/
def execHotReset (port : HostPort) (s : State) : Host.Outcome State Fault Refusal :=
  let p := port.val
  if !linkLive s p then .next s
  else .next (wr (portReset (modHp s p fun h => { h with ltssm := .hotReset }) p) F.HL_RESET_CAUSE_HOT 0 p 1)

/-- LINK_DOWN, from L0 or L0p (R87). -/
def execLinkDown (port : HostPort) (s : State) : Host.Outcome State Fault Refusal :=
  let p := port.val
  if (hpOf s p).perst ∨ (hpOf s p).ltssm ≠ .l0 then .next s
  else
    let s := portReset (modHp s p fun h => { h with ltssm := .polling }) p
    .next (raise (wr s F.HL_RESET_CAUSE_LINK_DOWN 0 p 1) .hlLinkDown p)

/-- FLR_PF0 (R87, R89). -/
def execFlrPf0 (port : HostPort) (s : State) : Host.Outcome State Fault Refusal :=
  let p := port.val
  .next (cfgGate s port .pf0 fun s =>
    let s := modFn (dropLatches s p .pf0) p .pf0 fun _ => { flr := some s.clk }
    let s := tenantsStop (idleEnds (intaUpdate (endPf0 (resetOwn s p) p) p) p true) p true
    wr (startDrain (startDrain s p .pf0) p .pf1) F.HL_RESET_CAUSE_FLR_PF0 0 p 1)

/-- PF1's part of its FLR and of the clear of its Bus Master Enable (R87). -/
def endPf1 (s : State) (p : Nat) : State := dropRequests (tenantsStop (idleEnds s p false) p false) p .pf1

/-- FLR_PF1 (R73, R87, R89). -/
def execFlrPf1 (port : HostPort) (s : State) : Host.Outcome State Fault Refusal :=
  let p := port.val
  .next (cfgGate s port .pf1 fun s =>
    let s := modFn (dropLatches s p .pf1) p .pf1 fun _ => { flr := some s.clk }
    wr (startDrain (endPf1 s p) p .pf1) F.HL_RESET_CAUSE_FLR_PF1 0 p 1)

/-- BME_CLEAR (R87, R97). -/
def execBmeClear (port : HostPort) (fn : Fn) (s : State) : Host.Outcome State Fault Refusal :=
  let p := port.val
  .next (cfgGate s port fn fun s =>
    if !(fnOf s p fn).bme then s
    else
      let s := modFn s p fn fun f => { f with bme := false }
      let s : State := match fn with
        | .pf0 => endPf0 s p
        | .pf1 => endPf1 s p
      wr (startDrain s p fn) F.HL_RESET_CAUSE_BME 0 p 1)

/-- PASID_ENABLE_CLEAR (R73). -/
def execPasidEnableClear (port : HostPort) (s : State) : Host.Outcome State Fault Refusal :=
  let p := port.val
  .next (cfgGate s port .pf1 fun s =>
    if (hpOf s p).f1.pasidEn then tenantsStop (modFn s p .pf1 fun f => { f with pasidEn := false }) p true else s)

/-- FUNCTION_DRAIN_TIMEOUT: 10 ms after the start, what is outstanding is cancelled in place (R88). The fences of the port's
tenants that have reached their own 10 ms end with it. -/
def execFunctionDrainTimeout (port : HostPort) (fn : Fn) (s : State) : Host.Outcome State Fault Refusal :=
  let p := port.val
  match (fnOf s p fn).drain with
  | some t =>
    if s.clk < t + msec 10 then .next s
    else
      let s : State := match fn with
        | .pf1 => ((s.tens.filter fun x => decide (x.2.home = p)).map (·.1)).foldl fenceTimeout s
        | .pf0 => s
      let js := (s.jobs.filter fun j => decide (j.2.port = p ∧ ownerFn j.2.owner = fn) && !jobCurrent s j.2).map (·.1)
      .next (modFn (js.foldl cancelJob s) p fn fun f => { f with drain := none })
  | none => .next s

end Sys2Proof.Machine
end

