-- ==== Sys2Proof/Machine/Flags.lean ====
section
/-! DEFINITION. Status words: what the read-only fields of the registers show, computed from State when they are read, unit
by unit in the order of R50. -/
namespace Sys2Proof.Machine

/-- A word from the places of its fields: (lowest bit, value). -/
def word (l : List (Nat × Nat)) : Nat := l.foldl (fun n x => n + x.2 * 2 ^ x.1) 0

/-- A mask with bit i set where a test holds. -/
def maskOf (n : Nat) (p : Nat → Bool) : Nat := (List.range n).foldl (fun m i => m + b2n (p i) * 2 ^ i) 0

/-- Low and high words. -/
def lo32 (n : Nat) : Nat := n % 2 ^ 32
def hi32 (n : Nat) : Nat := n / 2 ^ 32 % 2 ^ 32

/-- Times within the last second. -/
def lastSecond (s : State) (l : List Nat) : Nat := (l.filter fun t => decide (s.clk < t + 1000000000000)).length

/-- GL (R64, R446). -/
def liveGL (s : State) (p off : Nat) : Option Nat :=
  match off with
  | 0x0 => some (word [(16, 0x6400), (0, Config.vendorId.toNat)])
  | 0xC => some (if level s = 1 then word [(16, 1), (8, 1), (0, 2)] else word [(16, 2), (8, 2), (0, 3)])
  | 0x14 => some p
  | 0x18 => some (lo32 Config.serial.toNat)
  | 0x1C => some (hi32 Config.serial.toNat)
  | 0x24 => some (word [(16, (hpOf s p).deniedCnt)])
  | _ => none

/-- STATE of FT_STATUS (R46). -/
def ftStCode : FtSt → Nat
  | .unset => 0 | .acquire => 1 | .locked => 2 | .holdover => 3 | .relock => 4

/-- FT (R46); FT_NOW_1 to FT_NOW_3 show their latch. -/
def liveFT (s : State) (off : Nat) : Option Nat :=
  match off with
  | 0x100004 => some (word [(9, b2n s.ft.ppsOk), (8, b2n s.ft.refOk), (7, b2n s.ft.inbandOk), (5, s.ft.src),
      (3, ftQuality s), (0, ftStCode s.ft.st)])
  | 0x10002C => some (lo32 (holdTime s))
  | 0x100030 => some ((fullTs s).getD 0 0)
  | 0x100034 => some (s.ft.nowLatch.getD 0 0)
  | 0x100038 => some (s.ft.nowLatch.getD 1 0)
  | 0x10003C => some (s.ft.nowLatch.getD 2 0)
  | 0x100040 => some (lo32 (epochNo s))
  | 0x100044 => some (s.ft.epochLatch.getD (hi32 (epochNo s)))
  | 0x100050 => some (word32 s.ft.offset)
  | 0x100054 => some s.ft.freq.toNat
  | 0x100058 => some Config.orgId.toNat
  | 0x10005C => some Config.orgSubtype.toNat
  | _ => none

/-- LTSSM of HL_LINK_STATUS (R95). -/
def ltssmCode : Ltssm → Nat
  | .detect => 0 | .polling => 1 | .configuration => 2 | .l0 => 3 | .recovery => 4 | .l1 => 5 | .l2 => 6 | .hotReset => 7
  | .disabled => 8 | .loopback => 9

/-- The data link layer is active: after training, through retraining in place and L1. -/
def dlActive (h : Hp) : Bool := decide (h.ltssm = .l0 ∨ h.ltssm = .recovery ∨ h.ltssm = .l1)

/-- HL of a port (R95). HL_WIN_HANDLE follows R79 after reset too,
where R95 gives it 0 (DESIGN CHOICE, log entry 107). -/
def liveHL (s : State) (p off : Nat) : Option Nat :=
  let h := hpOf s p
  match off with
  | 0x200000 => some (word [(31, b2n (dlActive h)), (30, b2n h.noFlit), (20, h.speed), (15, h.width),
      (10, h.l0p.getD h.width), (0, ltssmCode h.ltssm)])
  | 0x200008 => some (word [(1, b2n h.f1.drain.isSome), (0, b2n h.f0.drain.isSome)])
  | 0x20000C => some (word [(16, h.toCnt), (0, h.lateCnt)])
  | 0x200010 => some (word [(16, h.refusedCnt), (0, h.holdMax)])
  | 0x200014 => some (word [(1, b2n h.alert), (0, b2n (intxPending s p))])
  | 0x200120 => some (winHandle s (p * 256 + rd s F.HL_WIN_SEL_WIN 0 p))
  | 0x200124 => some (word [(16, h.winErr), (8, h.winErrCode), (1, b2n (decide (h.winSt ≠ .idle)))])
  | _ => none

/-- QM of a port (R125, R140). -/
def liveQM (s : State) (p off : Nat) : Option Nat :=
  let h := hpOf s p
  match off with
  | 0x300020 => some (word [(12, h.aq.abi), (8, h.aq.err), (0, b2n h.aq.active)])
  | 0x300038 => some h.stretch
  | 0x30003C => some (scanCount s p .hot)
  | 0x300040 => some (scanCount s p .warm)
  | 0x300044 => some (scanCount s p .cold)
  | 0x300048 => some (word [(16, h.demoteCnt), (0, h.staleCnt)])
  | 0x300064 => some (word [(16, h.overrunCnt), (0, h.headCnt)])
  | 0x300068 => some (s.cqs.filter fun q => decide (q.2.port = p) && !q.2.spill.isEmpty).length
  | _ => none

/-- STATE of TN_STATUS (R151). -/
def tenStCode : TenSt → Nat
  | .disabled => 1 | .enabled => 2 | .fencing => 3

/-- TN of a port (R151): the selected tenant shows only where it is homed. -/
def liveTN (s : State) (p off : Nat) : Option Nat :=
  let t := rd s F.TN_SEL_TENANT 0 p
  let x := (mget? s.tens t).filter fun x => decide (x.home = p)
  match off with
  | 0x400004 => some (match x with
    | some x => word [(31, 1), (3, b2n (decide (x.st = .fencing) && x.toDisabled)), (0, tenStCode x.st)]
    | none => 0)
  | 0x400008 => some (if x.isSome then tenHandle s t else 0)
  | 0x40000C => some (match x with | some x => word [(16, x.drainUs), (0, x.cancelled)] | none => 0)
  | 0x400010 => some (s.tens.filter fun x => decide (x.2.home = p)).length
  | _ => none

/-- STATE of MA_PSTATUS and VERIFY of MA_PREEMPT_STATUS (R169). -/
def macStCode : MacSt → Nat
  | .disabled => 0 | .training => 1 | .up => 2 | .fault => 3
def verCode : VerSt → Nat
  | .disabled => 0 | .initial => 1 | .verifying => 2 | .succeeded => 3 | .failed => 4

/-- MA (R169). -/
def liveMA (s : State) (off : Nat) : Option Nat :=
  if off = 0x500000 then some (maskOf 32 (netUp s))
  else
    let p := (off - 0x501000) / 256
    let m := macOf s p
    match off % 256 with
    | 0x04 => some (word [(31, b2n (netUp s p)), (30, b2n m.localFault), (29, b2n m.remoteFault),
        (28, b2n (decide (m.st = .up) && preemptActive s p)), (16, maskOf 8 fun c => (mget? m.pausedTill c).isSome),
        (8, maskOf 8 fun c => recovering s p m.wdRx c || recovering s p m.wdTx c), (0, macStCode m.st)])
    | 0x20 => some (verCode m.ver)
    | 0x24 => some (word [(16, rxLat s p), (0, txLat s p)])
    | _ => none

/-- STATE of a rule-set slot in PA_RS_STATUS (R194). -/
def rsCode (s : State) (i : Nat) : Nat :=
  match mget? s.pa.slots i with
  | none => 0
  | some r =>
    match r.st with
    | .loading => 1 | .loaded => if rsArmed s i then 3 else 2 | .active => 4 | .draining => 5 | .retiring => 6

/-- Target epoch of the armed activation, 0 for none. -/
def rsTarget (s : State) : Nat :=
  match s.armed.find? fun a => match a.1 with | .rs _ => true | _ => false with
  | some a => a.2 / 2 ^ 20
  | none => 0

/-- PA (R194). -/
def livePA (s : State) (off : Nat) : Option Nat :=
  match off with
  | 0x600000 => some (word ((List.range 4).map fun i => (3 * i, rsCode s i)))
  | 0x600010 => some (rsHandle s 0)
  | 0x600014 => some (rsHandle s 1)
  | 0x600018 => some (rsHandle s 2)
  | 0x60001C => some (rsHandle s 3)
  | 0x600020 => some (refsOf s 0)
  | 0x600024 => some (refsOf s 1)
  | 0x600028 => some (refsOf s 2)
  | 0x60002C => some (refsOf s 3)
  | 0x600030 => some (lo32 (rsTarget s))
  | 0x600034 => some (hi32 (rsTarget s))
  | 0x600044 => some (tcamFree s)
  | _ => none

/-- FW (R218). -/
def liveFW (s : State) (off : Nat) : Option Nat :=
  match off with
  | 0x700004 => some (word [(31, b2n s.fw.busy.isSome), (0, s.fw.result)])
  | 0x70000C => some s.fw.resIdx
  | 0x700090 => some s.fw.em.length
  | 0x700094 => some s.fw.l2.length
  | 0x700098 => some (lpmUsed s)
  | _ => none

/-- Age of the oldest line of the head cache in us (R235). -/
def oldestUs (s : State) : Nat :=
  match s.coop.hc with
  | x :: _ => min 0xFFFFF ((s.clk - x.2) / 1000000)
  | [] => 0

/-- MS (R235). -/
def liveMS (s : State) (off : Nat) : Option Nat :=
  let r := rd s F.MS_REQ_SEL_REQ
  let p := rd s F.MS_REQ_SEL_POOL
  match off with
  | 0x800000 => some (b2n s.coop.ready)
  | 0x8000A4 => some (limOf s r p)
  | 0x8000A8 => some (rsvOf s r p)
  | 0x8000AC => some (usedOf s r p)
  | 0x8000B0 => some (word [(31, b2n (decide (r ∈ s.coop.quar))), (0, min 65535 (mget 0 s.coop.err r))])
  | 0x8000B4 => some (cellsOf s r)
  | 0x8000C0 => some (word [(30, s.boot.hcHalves), (0, oldestUs s)])
  | _ => if 0x800050 ≤ off ∧ off < 0x800068 then some (freeOf s ((off - 0x800050) / 4)) else none

/-- STATE of MC_MIG_STATUS (R246). -/
def migCode : MigSt → Nat
  | .idle => 0 | .open_ => 1 | .copy => 2 | .commit => 3 | .done => 4

/-- MC (R246). -/
def liveMC (s : State) (off : Nat) : Option Nat :=
  match off with
  | 0x900000 => some (word [(4, b2n (decide (s.hbm.mig ≠ .idle))), (0, maskOf 4 fun k => (stackOf s k).trained)])
  | 0x900050 => some (word [(29, migCode s.hbm.mig), (21, s.hbm.pc), (0, s.hbm.units)])
  | 0x900054 => some (word ((List.range 4).map fun k => (2 * k, (freeSpares s 2 k).length)))
  | _ =>
    if 0x900020 ≤ off ∧ off < 0x900030 then
      let x := stackOf s ((off - 0x900020) / 4)
      some (word [(16, x.maxC), (15, b2n x.twoX), (0, x.temp)])
    else none

/-- STATE of FC_STATUS (R271). -/
def coreCode : CoreSt → Nat
  | .stopped => 0 | .running => 1 | .draining => 2 | .restarting => 3 | .offline => 4

/-- Four entries of a slot table as a word of FC_SLOT (R252, R271); 16 stands for an invalid entry. -/
def slotWord (l : List Nat) (j : Nat) : Nat :=
  word ((List.range 4).map fun k =>
    let t := l.getD (4 * j + k) 16
    (8 * k, if t < 16 then 128 + t else 0))

/-- Threads of a core in a state, as a mask. -/
def thrMask (s : State) (c : Nat) (st : ThSt) : Nat := maskOf 16 fun t => decide ((thrOf s c t).st = st)

/-- FC (R271). -/
def liveFC (s : State) (off : Nat) : Option Nat :=
  let c := selCore s
  let k := coreOf s c
  match off with
  | 0xA00008 => some (word [(29, coreCode k.st), (24, k.err), (16, min 255 (lastSecond s k.restarts)), (0, k.badCpl)])
  | 0xA0000C => some (word [(16, thrMask s c .waiting), (0, thrMask s c .running)])
  | 0xA00010 => some (word [(16, thrMask s c .faulted), (0, thrMask s c .halted)])
  | 0xA0008C => some (word [(28, k.fCode), (24, k.fThread), (0, k.fPc % 2 ^ 24)])
  | 0xA0010C => some (ringOf s (selRing s)).q.length
  | _ => none

/-- TP (R319); a free index shows zero. -/
def liveTP (s : State) (off : Nat) : Option Nat :=
  let i := rd s F.TP_CONN_SEL_INDEX
  let c := mget? s.conns i
  let stCode : ConnSt → Nat := fun
    | .opening => 1 | .open_ => 2 | .closing => 3 | .failed => 4
  match off with
  | 0xB00060 => some s.conns.length
  | 0xB00074 => some (match c with
    | some c => word [(29, stCode c.st), (25, c.version), (19, pathsOf c - c.susp.length)]
    | none => 0)
  | 0xB00078 => some (if c.isSome then connHandle s i else 0)
  | 0xB0007C => some (match c with | some c => word [(16, c.peerTenant), (0, c.node)] | none => 0)
  | 0xB00080 => some (match c with | some c => c.rate | none => 0)
  | 0xB00084 => some (match c with | some c => word32 c.lastQ | none => 0)
  | _ => none

/-- EG (R336): the port and class EG_SEL names. -/
def liveEG (s : State) (off : Nat) : Option Nat :=
  let p := rd s F.EG_SEL_PORT
  let c := rd s F.EG_SEL_CLASS
  let e := egOf s p
  let act := rd s F.EG_SEL_SET = 1
  match off with
  | 0xC00034 => some (ceilDiv (egHeld s p c) 64)
  | 0xC00038 => some (egFrames s p c)
  | 0xC00040 => some (word [(8, e.armErr), (2, calState s p)])
  | 0xC00050 => some (if act then calCycle e.cal else calCycle (shadowCal s p))
  | 0xC00058 => some (word [(16, e.entry), (8, b2n (holdNow s p)), (0, gatesNow s p)])
  | _ => none

/-- SL (R349). -/
def liveSL (s : State) (off : Nat) : Option Nat :=
  if off = 0xD00028 then some (word [(29, s.sl.result), (0, (s.sl.ents.filter fun e => bitOf (e.2.getD 0 0) 31).length)])
  else none

/-- Cipher units in service, and spares free (R371, R439). -/
def unitsLeft (s : State) (gf : Bool) : Nat :=
  let k := if gf then 5 else 4
  (if gf then 32 else 64) - (s.md.degraded.filter (·.1 = k)).length
def sparesLeft (s : State) (gf : Bool) : Nat :=
  if gf then (freeSpares s 5 0).length else ((List.range 4).map fun g => (freeSpares s 4 g).length).foldl (· + ·) 0

/-- LS (R371): the context LS_CTX_SEL names. -/
def liveLS (s : State) (off : Nat) : Option Nat :=
  let i := rd s F.LS_CTX_SEL_INDEX
  let x := mget? s.ls.ctxs i
  let arm := match x with | some x => (x.armed.map (·.2)).getD 0 | none => 0
  let used := match x with | some x => x.used | none => 0
  match off with
  | 0xE00000 => some (word [(16, unitsLeft s false), (12, sparesLeft s false), (2, unitsLeft s true),
      (0, sparesLeft s true)])
  | 0xE00004 => some (maskOf 16 fun r => (mget? s.ls.roots r).isSome)
  | 0xE00014 => some (match x with
    | some x => word [(30, if x.sealed then 2 else 1), (29, b2n x.armed.isSome), (25, x.root), (22, x.ktype),
        (21, b2n x.encOk), (20, b2n x.decOk), (0, x.owner.getD (4096 + x.port))]
    | none => 0)
  | 0xE00018 => some (if x.isSome then keyHandle s i else 0)
  | 0xE0001C => some (lo32 used)
  | 0xE00020 => some (hi32 used % 65536)
  | 0xE00024 => some (match x with | some x => x.limit | none => 0)
  | 0xE00028 => some (lo32 arm)
  | 0xE0002C => some (hi32 arm)
  | 0xE00030 => some s.ls.cache.length
  | _ => none

/-- STATE of SX_NS_STATUS (R387). -/
def attCode : AttSt → Nat
  | .connecting => 1 | .ready => 2 | .reconnecting => 3 | .failed => 4

/-- SX (R387): the attachment SX_NS_SEL names. -/
def liveSX (s : State) (off : Nat) : Option Nat :=
  let a := attOf s (rd s F.SX_NS_SEL_TENANT) (rd s F.SX_NS_SEL_SLOT)
  let sz := match a with | some a => a.2.nsze | none => 0
  match off with
  | 0xF00030 => some s.sx.atts.length
  | 0xF00044 => some (match a with
    | some (i, a) => word [(29, attCode a.st), (26, a.reason),
        (0, (s.sx.cmds.filter fun c => decide (c.2.att = i ∧ c.2.st = .target)).length + a.lateTags.length)]
    | none => 0)
  | 0xF00048 => some (lo32 sz)
  | 0xF0004C => some (hi32 sz)
  | _ => none

/-- STATE of DX_ENG_STATUS and DX_CH_STATUS (R400). -/
def engCode : EngSt → Nat
  | .running => 1 | .stopping => 2 | .stopped => 3 | .halted => 4 | .offline => 5
def chanCode : ChanSt → Nat
  | .idle => 0 | .active => 1 | .stopped => 2 | .halted => 3

/-- The unit of a channel (R389): the row of the table of channel ranges that holds it. -/
def chanUnit (c : Nat) : Nat := ((List.range 4).find? fun u => decide ((unitChans u).1 ≤ c ∧ c < (unitChans u).1 + (unitChans u).2)).getD 0

/-- DX of a port (R400): the engine DX_ENG_SEL and the channel DX_CH_SEL name. -/
def liveDX (s : State) (p off : Nat) : Option Nat :=
  match selEngine s p with
  | none => if 0x100000C ≤ off then some 0 else none
  | some e =>
    let g := engOf s e
    let n := rd s F.DX_CH_SEL_CH 0 p
    let c := chanOf s e n
    match off with
    | 0x100000C => some (word [(29, engCode g.st), (16, min 255 (lastSecond s g.halts)),
        (0, (g.chans.filter fun c => decide (c.2.st = .active)).length)])
    | 0x1000014 => some (word [(30, chanCode c.st), (29, b2n c.shadow.isSome), (27, chanUnit n),
        (26, match c.act with | some d => b2n d.toHost | none => 0),
        (0, match c.act with | some d => d.len - d.handed | none => 0)])
    | 0x1000018 => some (match c.act with
      | some d => (match mget? s.xfers d.xid with | some x => x.owner | none => 0)
      | none => 0)
    | _ => none

/-- TL (R413). -/
def liveTL (s : State) (off : Nat) : Option Nat :=
  match off with
  | 0x1100004 => some (word [(31, b2n (snapArmed s).isSome), (0, s.tl.period)])
  | 0x1100008 => some (lo32 s.tl.base)
  | 0x110000C => some (hi32 s.tl.base)
  | 0x1100010 => some (lo32 s.tl.last)
  | 0x1100014 => some (hi32 s.tl.last)
  | 0x1100018 => some (devRecords s)
  | _ => none

/-- STATE of LK_STATUS (R434). -/
def lkCode : LkSt → Nat
  | .boot => 0 | .running => 1 | .fatal => 2 | .resetting => 3 | .lrs => 4

/-- Word i of an entry of the event log (R419). -/
def logWord (e : Event) (i : Nat) : Nat :=
  match i with
  | 0 => word [(24, e.rep), (16, e.cls), (0, e.code)]
  | 1 => lo32 e.time
  | 2 => hi32 e.time
  | _ => e.inst

/-- Powered domains (R462, R464): clusters switched off are taken out. -/
def domains (s : State) : Nat := maskOf 64 fun d => bitOf s.boot.pd d && !(decide (1 ≤ d) && s.clOff.any (· = d - 1))

/-- STATE of LK_THERMAL (R466). -/
def thermCode : Therm → Nat
  | .normal => 0 | .throttled => 1 | .tripped => 2

/-- Parts of a kind that run degraded, as a mask of clusters. -/
def offlineMask (s : State) : Nat := maskOf 16 fun c => s.md.degraded.any fun x => decide (x.1 = 1 ∧ x.2 / 13 = c)

/-- LK without the mailbox (R419, R434, R449, R466). -/
def liveLK (s : State) (off : Nat) : Option Nat :=
  match off with
  | 0x1200000 => some (word [(29, lkCode s.lk.st), (27, s.lk.lrsCause), (26, b2n s.lk.fault), (0, s.lk.devResets)])
  | 0x1200008 => some (lo32 s.lk.tail)
  | 0x120000C => some s.lk.lost
  | 0x1200020 => some s.lk.fatalCount
  | 0x1200030 => some (word [(16, s.md.ledger.length), (8, min 255 s.md.volat.length), (0, min 255 s.md.degraded.length)])
  | 0x1200034 => some (word [(16, offlineMask s), (0, maskOf 16 fun c => spareIn s 1 (c * 13 + 12))])
  | 0x1200038 => some (freeSpares s 3 0).length
  | 0x1200060 => some (bootWord s)
  | 0x1200064 => some s.boot.ms
  | 0x1200068 => some (lo32 (domains s))
  | 0x120006C => some (hi32 (domains s))
  | 0x1200070 => some (word [(16, rd s F.LK_THERMAL_TRIP_C), (8, rd s F.LK_THERMAL_WARN_C), (0, thermCode s.boot.therm)])
  | 0x1200074 => some (word [(16, s.boot.maxC), (8, s.boot.hottest), (0, s.boot.temp)])
  | _ =>
    if 0x1200010 ≤ off ∧ off < 0x1200020 then
      some (match s.lk.first with | some e => logWord e ((off - 0x1200010) / 4) | none => 0)
    else none

/-- LK_MB_STATUS of a port (R422). -/
def mbCode : MbSt → Nat
  | .idle => 0 | .busy => 1 | .done => 2
def liveMb (s : State) (p off : Nat) : Option Nat :=
  let m := mbOf s p
  if off = 0x2000004 then some (word [(29, mbCode m.st), (12, m.version)]) else none

/-- The IDCODE register (R467). -/
def idcode : Nat := word [(28, 2), (12, 0x6400), (1, Config.jtagMfr.toNat), (0, 1)]

/-- STATE of DB_SESSION (R478). -/
def dbCode : DbSt → Nat
  | .closed => 0 | .challenged => 1 | .open => 2 | .lockedOut => 3

/-- Seconds of lockout remaining, rounded up (R478). -/
def lockoutS (s : State) : Nat := if s.dbg.st = .lockedOut then ceilDiv (s.dbg.lockTill - s.clk) 1000000000000 else 0

/-- DB (R478). -/
def liveDB (s : State) (off : Nat) : Option Nat :=
  match off with
  | 0x1300000 => some (word [(30, dbCode s.dbg.st), (26, s.dbg.rights), (0, s.dbg.sessions)])
  | 0x1300004 => some (s.cores.foldl (fun n c => n + (c.2.threads.filter fun t => decide (t.2.st = .halted)).length) 0)
  | 0x1300008 => some (word [(16, s.dbg.fails), (0, lockoutS s)])
  | 0x130000C => some idcode
  | _ => none

/-- What the read-only fields of a register show to a port, where they are not stored. -/
def liveWord (s : State) (p off : Nat) : Option Nat :=
  match off / 0x100000 with
  | 0 => liveGL s p off | 1 => liveFT s off | 2 => liveHL s p off | 3 => liveQM s p off | 4 => liveTN s p off
  | 5 => liveMA s off | 6 => livePA s off | 7 => liveFW s off | 8 => liveMS s off | 9 => liveMC s off
  | 10 =>
    if 0xA00200 ≤ off ∧ off < 0xA00240 then
      let i := (off - 0xA00200) / 4
      some (word [(31, rd s F.FC_IMG_VALID i), (30, b2n (imgInUse s i)), (0, rd s F.FC_IMG_VERSION i)])
    else liveFC s off
  | 11 => liveTP s off | 12 => liveEG s off | 13 => liveSL s off | 14 => liveLS s off | 15 => liveSX s off
  | 16 => liveDX s p off | 17 => liveTL s off | 18 => liveLK s off | 19 => liveDB s off | 32 => liveMb s p off
  | _ => none

end Sys2Proof.Machine
end

