-- ==== Sys2Proof/Machine/Registers.lean ====
section
/-! DEFINITION. Accesses to the register space by their form, their port and their register (R48 to R56, R93, R422): what a
write does to a register without a command of its own and to any other, and what a read returns. -/
namespace Sys2Proof.Machine

/-! ### Instances and 64-bit registers -/

/-- The instance of a register that an access from a port reaches (R50). -/
def instOf (s : State) (p : Nat) : Sel → Nat
  | .global => 0
  | .port => p
  | .win => winInst p (if rd s F.HL_WIN_SEL_SET 0 p = 1 then actSet s p else 1 - actSet s p) (rd s F.HL_WIN_SEL_WIN 0 p)
  | .core => selCore s
  | .ring => selRing s
  | .egPort | .egCal => rd s F.EG_SEL_PORT
  | .egQueue => egInst (rd s F.EG_SEL_PORT) (rd s F.EG_SEL_CLASS)
  | .tlCore => rd s F.TL_CORE_SEL_CORE

/-- The counters in registers: offset of the first, how many, unit, index of the first. -/
def counterAreas : List (Nat × Nat × Nat × Nat) :=
  [(0x600300, 1, 6, 0), (0x600408, 6, 6, 1), (0x600440, 4, 6, 8), (0x700100, 20, 7, 0), (0x800100, 17, 8, 0),
   (0x900100, 7, 9, 0), (0xA00110, 1, 10, 0), (0xB00200, 15, 11, 0), (0xC00100, 9, 12, 0), (0xD00100, 14, 13, 0),
   (0xE00100, 13, 14, 0), (0xF00100, 10, 15, 0), (0x1000100, 8, 16, 0), (0x1100100, 5, 17, 0)]

/-- Instance of the counters a unit shows: the selected pseudo-channel, ring, class queue or engine. -/
def counterInst (s : State) (p unit : Nat) : Nat :=
  match unit with
  | 9 => rd s F.MC_PC_SEL_PC
  | 10 => 0x1000 + selRing s
  | 12 => egInst (rd s F.EG_SEL_PORT) (rd s F.EG_SEL_CLASS)
  | 16 => (selEngine s p).getD 16
  | _ => 0

/-- The counter whose low or high word lies at an offset: unit, instance and index. -/
def counterAt (s : State) (p off : Nat) : Option (Nat × Nat × Nat) :=
  if 0x504000 ≤ off ∧ off < 0x50C000 then
    if off % 0x400 < 384 then some (5, (off - 0x504000) / 0x400, off % 0x400 / 8) else none
  else
    match counterAreas.find? fun a => decide (a.1 ≤ off ∧ off < a.1 + 8 * a.2.1) with
    | some (base, _, unit, first) => some (unit, counterInst s p unit, first + (off - base) / 8)
    | none => none

/-- Low words of the writable 64-bit registers that have no rule of their own for the write: FT_TOD, FT_PTM, HL_WIN_BASE and
HL_WIN_LIST, the admin rings and records, the MAC addresses of transport (R53; log entry 87). -/
def pairWords : List Nat :=
  [0x100048, 0x200104, 0x200114, 0x300000, 0x300008, 0x300010, 0xB00024] ++
  (List.range 8).map (0x100060 + 8 * ·) ++ (List.range 32).map (0xB00100 + 8 * ·)

/-- Low words of the 64-bit registers that are no counters (R53; log entry 87). -/
def lowWords : List Nat :=
  [0x18, 0x600030, 0x600200, 0xC00048, 0xE0001C, 0xE00028, 0xF00048, 0x1100008, 0x1100010, 0x1200068] ++
  ((List.range 32).map fun p => 0x600100 + 8 * p) ++ pairWords

/-- The low word of the 64-bit register that a word belongs to (R53). -/
def lowOf (s : State) (p off : Nat) : Option Nat :=
  if (counterAt s p off).isSome then some (off - off % 8)
  else if off ∈ lowWords then some off
  else if 4 ≤ off ∧ off - 4 ∈ lowWords then some (off - 4)
  else none

/-! ### Reads -/

/-- The bits of a field that a read shows: stored bits in RW and W1C fields, none of a WO field, and in the others what
the unit shows, or the stored bits where it stores them (R6). -/
def shownBits (f : RField) (stored : Nat) (live : Option Nat) : Nat :=
  match f.acc with
  | .wo => 0
  | .rw | .w1c => bitsOf stored f.hi f.lo
  | _ => bitsOf (live.getD stored) f.hi f.lo

/-- A register of PF0 BAR0 as a read from a port returns it; reserved bits and offsets read zero (R8, R51). -/
def regWord (s : State) (p off : Nat) : Nat :=
  match findReg (blockRegs off) off with
  | none => 0
  | some (r, _) =>
    let stored := rget s off (instOf s p r.sel)
    let live := liveWord s p off
    r.flds.foldl (fun w f => w + shownBits f stored live * 2 ^ f.lo) 0

/-- A word of an MSI-X table or pending-bit array (R93): the table at 0, the array at `pba`. -/
def msixWord (g : FnState) (vecs pba off : Nat) : Nat :=
  if off < 16 * vecs then
    if off / 4 % 4 = 3 then b2n (decide (off / 16 ∉ g.vopen)) else (mget 0 g.mtab (off / 4)).toNat
  else if pba ≤ off ∧ off < pba + vecs / 8 then maskOf 32 fun b => decide ((off - pba) / 4 * 32 + b ∈ g.vpend)
  else 0

/-- The areas of the mailbox that hold request and response (R422). -/
def mbArea (off : Nat) : Bool :=
  decide (0x2000100 ≤ off ∧ off < 0x2000140) || decide (0x2000200 ≤ off ∧ off < 0x2000240) ||
  decide (0x2001000 ≤ off ∧ off < 0x2010000)

/-- The network port whose registers or counters lie at an offset of the MA block (R152, R168, R169). -/
def maPort (off : Nat) : Nat := if off < 0x504000 then (off - 0x501000) / 0x100 else (off - 0x504000) / 0x400

/-- The word at an offset of PF0 BAR0 (R49); the MA registers of a number that is no port read zero (R152). -/
def unitWord (s : State) (p off : Nat) : Nat :=
  if 0x501000 ≤ off ∧ off < 0x50C000 ∧ !netPortExists s (maPort off) then 0
  else if mbArea off then mbWord (mbOf s p) (off - 0x2000000)
  else if 0x1201000 ≤ off ∧ off < 0x1205000 then
    match mget? s.lk.log ((off - 0x1201000) / 16) with
    | some e => logWord e (off % 16 / 4)
    | none => 0
  else if 0x3000000 ≤ off then msixWord (fnOf s p .pf0) 8 0x1000 (off - 0x3000000)
  else if 0xA00060 ≤ off ∧ off < 0xA00080 ∧ rd s F.FC_ADAPT_EN 0 (selCore s) = 1 then
    slotWord (slotTable s (selCore s)) ((off - 0xA00060) / 4)
  else if rd s F.EG_SEL_SET = 1 ∧ off = 0xC00044 then (egOf s (rd s F.EG_SEL_PORT)).cal.length
  else if rd s F.EG_SEL_SET = 1 ∧ 0xC00400 ≤ off ∧ off < 0xC00800 then
    (activeSet (egOf s (rd s F.EG_SEL_PORT))).getD ((off - 0xC00400) / 4) 0
  else
    match counterAt s p off with
    | some (u, i, k) => if off % 8 = 0 then lo32 (cget s u i k) else hi32 (cget s u i k)
    | none => regWord s p off

/-- A word of a tenant page (R126, R150). -/
def pageWord (s : State) (t o : Nat) : Nat :=
  match mget? s.tens t with
  | none => 0
  | some x =>
    match o with
    | 0x4000 => x.credits
    | 0x4004 => x.returned
    | 0x4008 => x.overCr
    | 0x400C => x.torn
    | 0x4010 => x.invalid
    | 0x4014 => x.notLive
    | 0x5000 => tenHandle s t
    | 0x5004 => word [(2, b2n (s.tl.rings.any fun r => decide (r.1 = t + 1) && dumpAllowed s r.1 r.2)),
        (0, if x.st = .enabled then 1 else 2)]
    | _ =>
      if 0x5010 ≤ o ∧ o < 0x5050 then
        let v := cget s 4 t ((o - 0x5010) / 8)
        if o % 8 = 0 then lo32 v else hi32 v
      else 0

/-- A read of a word of a 64-bit register by a function: a low word loads the read latch with the high word, a high word
returns and empties it (R53). -/
def latchRead (s : State) (p : Nat) (f : Fn) (low off : Nat) (w : State → Nat → Nat) : State × Nat :=
  if off = low then
    ({ s with rlatch := mset s.rlatch (latchKey p f low) (BitVec.ofNat 32 (w s (low + 4))) }, w s low)
  else
    match mget? s.rlatch (latchKey p f low) with
    | some v => ({ s with rlatch := mdel s.rlatch (latchKey p f low) }, v.toNat)
    | none => (s, w s off)

/-- A read of one word of PF0 BAR0, with what it latches (R46, R53). -/
def readUnit (s : State) (p off : Nat) : State × Nat :=
  let v := unitWord s p off
  if off = F.FT_NOW_W.off then (modFt s fun f => { f with nowLatch := (fullTs s).drop 1 }, v)
  else if off = F.FT_EPOCH_LO_EPOCH.off then (modFt s fun f => { f with epochLatch := some (hi32 (epochNo s)) }, v)
  else
    match lowOf s p off with
    | some low => latchRead s p .pf0 low off fun s o => unitWord s p o
    | none => (s, v)

/-- A read of one word of a tenant page: zero where the page is not live, and while the device is not at work (R56,
R429). -/
def readPage (s : State) (p off : Nat) : State × Nat :=
  let t := off / 65536
  let o := off % 65536
  if !running s ∨ !pageLive s p t then (s, 0)
  else if 0x5010 ≤ o ∧ o < 0x5050 then latchRead s p .pf1 (off - off % 8) off fun s o => pageWord s t (o % 65536)
  else (s, pageWord s t o)

/-- Words read one after the other, lowest address first (R51). -/
def readWords (s : State) (rd1 : State → Nat → State × Nat) (off : Nat) (wide : Bool) : State × List Nat :=
  let (s, a) := rd1 s off
  if wide then
    let (s, b) := rd1 s (off + 4)
    (s, [a, b])
  else (s, [a])

/-- A read of register space is answered: UR while Memory Space Enable is clear, or in recovery for all but the GL and LK
blocks and the mailbox (R87, R458); Completer Abort once the sequencer has run for all but the LK block (R433). -/
def regRead (s : State) (port : HostPort) (sp : Space) (off : Nat) (wide : Bool) : State :=
  let p := port.val
  let o := off / 4 * 4
  let f : Fn := if sp = .unit then .pf0 else .pf1
  let done (r : State × List Nat) : State := emit r.1 (.readData port r.2)
  if !linkUp s p then s
  else if !(fnOf s p f).mse then emit (aer s port f .unsupportedRequest) (.cplErr port true)
  else if s.lk.st = .lrs ∧ ¬(sp = .unit ∧ o / 0x100000 = 18) then emit s (.cplErr port false)
  else
    match sp with
    | .unit =>
      if s.boot.recovery ∧ o / 0x100000 ∉ [0, 18, 32] then emit (aer s port .pf0 .unsupportedRequest) (.cplErr port true)
      else done (readWords s (fun s o => readUnit s p o) o wide)
    | .tenant => done (readWords s (fun s o => readPage s p o) o wide)
    | .msix => done (readWords s (fun s o => (s, msixWord (fnOf s p .pf1) 2048 0x8000 o)) o wide)

/-! ### Writes: the effect of each register -/

/-- A write of one word by the table alone (R6, R9). -/
def plainWord (s : State) (p off v : Nat) : State :=
  match findReg (blockRegs off) off with
  | some (r, _) => (regStore s off (instOf s p r.sel) v).1
  | none => s

/-- A write of a low word goes to the function's write latch (R53). -/
def latchWrite (s : State) (p off v : Nat) : State :=
  { s with wlatch := mset s.wlatch (latchKey p .pf0 off) (BitVec.ofNat 32 v) }

/-- A write by the table alone: the high word of a 64-bit register commits the latched low word with it (R6, R9, R53). -/
def plain (s : State) (p off v : Nat) : State :=
  if off ∈ pairWords then latchWrite s p off v
  else if 4 ≤ off ∧ off - 4 ∈ pairWords then
    plainWord (plainWord s p (off - 4) (latchGet s.wlatch p .pf0 (off - 4))) p off v
  else plainWord s p off v

/-- A write that the register takes only while a test holds; else a sticky bit is set. -/
def storeIfFree (s : State) (busy : Bool) (flag : Fd) (inst p off v : Nat) : State :=
  if busy then wr s flag 0 inst 1 else plain s p off v

/-- FT_CTRL (R46). The bits of one write act in the order PTM_EN, ENABLE, RESTART, TOD_ARM (DESIGN CHOICE, log entry 119). -/
def ftCtrl (s : State) (v : Nat) : State :=
  let s := wr s F.FT_CTRL_PTM_EN 0 0 (bitsOf v 1 1)
  let was := rd s F.FT_CTRL_ENABLE
  let s := if was = 0 ∧ bitOf v 0 then ftEnable s else if was = 1 ∧ !bitOf v 0 then ftDisable s else s
  let s := if bitOf v 2 then ftRestart s else s
  if bitOf v 3 then ftTodArm s else s

/-- Seconds that no domain reaches (R22): such an FT_TOD leaves the register unchanged (R4). -/
def todTooLate (lo hi : Nat) : Bool := decide (18446744073 ≤ hi % 65536 * 2 ^ 32 + lo)

/-- FT: the address of a correlation record is taken on the write of its high word (R46). -/
def effFT (s : State) (p off v : Nat) : State :=
  if off = 0x100000 then ftCtrl s v
  else if off = 0x10004C ∧ todTooLate (latchGet s.wlatch p .pf0 0x100048) v then s
  else
    let s := plain s p off v
    if 0x100064 ≤ off ∧ off < 0x1000A4 ∧ off % 8 = 4 then
      modFt s fun f => { f with ptmAddr := mset f.ptmAddr ((off - 0x100064) / 8) (rget s (off - 4) + v * 2 ^ 32) }
    else s

/-- GL: DENIED_CNT returns to zero when DENIED is cleared (R64). -/
def effGL (s : State) (p off v : Nat) : State :=
  let s := plain s p off v
  if off = 0x24 ∧ bitOf v 0 then modHp s p fun h => { h with deniedCnt := 0 } else s

/-- HL (R77, R95). -/
def effHL (s : State) (p off v : Nat) : State :=
  if off ∈ winOffs then
    storeIfFree s (decide (rd s F.HL_WIN_SEL_SET 0 p = 1 ∨ (hpOf s p).winSt ≠ .idle)) F.HL_WIN_CTRL_BUSY p p off v
  else if off = 0x200124 then
    let s := plain s p off v
    if bitOf v 0 then winCommit s p else s
  else plain s p off v

/-- QM (R97). -/
def effQM (s : State) (p off v : Nat) : State :=
  if off = 0x30001C then
    if bitOf v 0 then (if running s then aqEnable s p else s) else aqDisable s p
  else plain s p off v

/-- MA_FC (R161, R163): an XOFF of a class for which the port no longer sends pauses in the same mode is forgotten, and no
time of 0 is sent for it (log entry 104). -/
def fcWrite (s : State) (p off n v : Nat) : State :=
  let mode := rd s F.MA_FC_MODE n
  let s := plain s p off v
  let gone (s : State) (c : Nat) : Bool := decide (rd s F.MA_FC_MODE n ≠ mode) || !fcSends s n c
  fcRecheck ((List.range 8).foldl (fun s c =>
    if gone s c then modMac s n fun m => { m with
      xoff := mdel m.xoff c, wdTx := mmod m.wdTx c fun w => if w.st = .paused then { w with st := .normal } else w }
    else s) s) n

/-- MA (R152, R169). -/
def effMA (s : State) (p off v : Nat) : State :=
  let n := (off - 0x501000) / 256
  if off < 0x501000 ∨ !netPortExists s n then s
  else
    match off % 256 with
    | 0x00 => pcfgWrite s n v
    | 0x10 => fcWrite s p off n v
    | 0x14 => if v % 65536 < v / 65536 then fcRecheck (plain s p off v) n else s
    | 0x18 => pauseWdWrite s n v
    | 0x1C => preemptWrite s n v
    | 0x28 => if v % 65536 ≤ 60000 ∨ v % 65536 = 65535 then plain s p off v else s
    | _ => plain s p off v

/-- PA: a default action commits with its high word, if it is one; its reserved bits are ignored (R8, R53, R180, R194). -/
def effPA (s : State) (p off v : Nat) : State :=
  if off = 0x600040 then if level s = 1 ∧ bitsOf v 19 16 > 4 then s else plain s p off v
  else if 0x600100 ≤ off ∧ off < 0x600208 then
    if off % 8 = 0 then latchWrite s p off v
    else
      let lo := latchGet s.wlatch p .pf0 (off - 4) % 128
      if (findReg regsPA off).isSome ∧ actOk (lo + v * 2 ^ 32) then rset (rset s (off - 4) 0 lo) off 0 v else s
  else plain s p off v

/-- FW (R212, R218). -/
def effFW (s : State) (p off v : Nat) : State :=
  if off = 0x700000 then fwCmdWrite s v
  else if off = 0x700008 ∨ (0x700010 ≤ off ∧ off < 0x700050) then
    storeIfFree s s.fw.busy.isSome F.FW_STATUS_BUSY_ERR 0 p off v
  else plain s p off v

/-- MS (R235). -/
def effMS (s : State) (p off v : Nat) : State :=
  if off = 0x800048 then cacheCfgWrite s v
  else if 0x800080 ≤ off ∧ off < 0x800098 then
    if v % 2 ^ 30 ≤ poolCount s ((off - 0x800080) / 4) then plain s p off v else s
  else plain s p off v

/-- MC (R246). -/
def effMC (s : State) (p off v : Nat) : State :=
  if off = 0x900010 ∧ bitsOf v 15 10 ≤ bitsOf v 9 4 then s else plain s p off v

/-- FC (R252, R255, R269, R271). -/
def effFC (s : State) (p off v : Nat) : State :=
  let c := selCore s
  if off = 0xA00004 then
    let s := plain s p off v
    let s := if bitOf v 31 then coreStart s c else s
    if bitOf v 30 then coreStop s c else s
  else if 0xA00060 ≤ off ∧ off < 0xA00080 then
    storeIfFree s (decide (rd s F.FC_ADAPT_EN 0 c = 1)) F.FC_STATUS_SLOT_IGN c p off v
  else if off = 0xA00080 then
    let was := rd s F.FC_ADAPT_EN 0 c
    let s := plain s p off v
    if rd s F.FC_ADAPT_EN 0 c = was then s else modCore s c fun k => { k with slots := if was = 1 then none else some (slotRegs s c) }
  else if off = 0xA00104 then ringCfgWrite s (selRing s) v
  else plain s p off v

/-- TP (R319). -/
def effTP (s : State) (p off v : Nat) : State :=
  if off = 0xB00000 then nodeWrite s v
  else if off ∈ [0xB00010, 0xB00014, 0xB00018, 0xB0001C, 0xB00020, 0xB00034] then
    storeIfFree s (tpOn s) F.TP_STATUS_CFG_IGN 0 p off v
  else plain s p off v

/-- The bucket of a class is brought to the present before its rate or its size changes (R325). -/
def settle (s : State) (n c : Nat) : State :=
  if (clsOf s n c).tok.isSome then
    let t := tokensNow s n c
    modCls s n c fun k => { k with tok := some (t, s.clk) }
  else s

/-- EG (R329, R336). -/
def effEG (s : State) (p off v : Nat) : State :=
  let n := rd s F.EG_SEL_PORT
  let busy := decide (rd s F.EG_SEL_SET = 1 ∨ calState s n ≠ 0)
  if off = 0xC00000 then if netPortExists s (bitsOf v 12 8) then plain s p off v else s
  else if off = 0xC00010 then withGates s n fun s => plain s p off v
  else if off = 0xC00024 ∨ off = 0xC00028 then plain (settle s n (rd s F.EG_SEL_CLASS)) p off v
  else if off = 0xC00044 ∨ (0xC00400 ≤ off ∧ off < 0xC00800) then storeIfFree s busy F.EG_CAL_CTRL_BUSY n p off v
  else if off = 0xC00048 then
    if busy then wr s F.EG_CAL_CTRL_BUSY 0 n 1
    else latchWrite s p off v
  else if off = 0xC0004C then calArm s (latchGet s.wlatch p .pf0 0xC00048) v
  else plain s p off v

/-- SL (R349, R446). -/
def effSL (s : State) (p off v : Nat) : State :=
  if off = 0xD00024 then slCmdWrite s v
  else if off = 0xD00000 ∧ level s = 1 ∧ v % 256 ≠ 0 then s
  else plain s p off v

/-- SX (R387). -/
def effSX (s : State) (p off v : Nat) : State :=
  if off = 0xF00004 ∨ (0xF00014 ≤ off ∧ off < 0xF00028) then
    storeIfFree s (decide (rd s F.SX_CFG_EN = 1)) F.SX_STATUS_CFG_IGN 0 p off v
  else plain s p off v

/-- DX (R394, R400). -/
def effDX (s : State) (p off v : Nat) : State :=
  if off = 0x1000004 then if v % 4 < (portEngines s p).length then plain s p off v else s
  else if off = 0x1000008 then
    let s := if bitOf v 0 then engStop s p else s
    if bitOf v 1 then engResume s p else s
  else plain s p off v

/-- TL (R406, R413). -/
def effTL (s : State) (p off v : Nat) : State :=
  if 0x1100044 ≤ off ∧ off < 0x110005C ∧ v % 256 > 16 then s else plain s p off v

/-- The mailbox (R422, R423). -/
def effMb (s : State) (p off v : Nat) : State :=
  if off = 0x2000000 then mbCtrl s p v
  else if off = 0x2000008 then alertClear s p v
  else if (0x2000100 ≤ off ∧ off < 0x2000140) ∨ (0x2001000 ≤ off ∧ off < 0x2008000) then
    if (mbOf s p).st = .busy then raiseOnce (wr s F.LK_MB_STATUS_BUSY_ERR 0 p 1) .lkMbProtocol p
    else modMb s p fun m => { m with area := writeMem m.area (off - 0x2000000) (leBytes 4 v) }
  else plain s p off v

/-- A word of an MSI-X table (R93): address, data, and the mask bit of the vector. -/
def msixWrite (s : State) (p : Nat) (f : Fn) (vecs off v : Nat) : State :=
  let vec := off / 16
  if off ≥ 16 * vecs then s
  else if off / 4 % 4 = 3 then
    if bitOf v 0 then modFn s p f fun g => { g with vopen := g.vopen.filter (· ≠ vec) }
    else msixFlush (modFn s p f fun g => { g with vopen := if vec ∈ g.vopen then g.vopen else vec :: g.vopen }) p f vec
  else
    let v := if off / 4 % 4 = 0 then v / 4 * 4 else v
    modFn s p f fun g => { g with mtab := mset g.mtab (off / 4) (BitVec.ofNat 32 v) }

/-- The effect of a permitted write of one word of PF0 BAR0. -/
def unitWrite (s : State) (p off v : Nat) : State :=
  match off / 0x100000 with
  | 0 => effGL s p off v | 1 => effFT s p off v | 2 => effHL s p off v | 3 => effQM s p off v | 5 => effMA s p off v
  | 6 => effPA s p off v | 7 => effFW s p off v | 8 => effMS s p off v | 9 => effMC s p off v | 10 => effFC s p off v
  | 11 => effTP s p off v | 12 => effEG s p off v | 13 => effSL s p off v | 15 => effSX s p off v | 16 => effDX s p off v
  | 17 => effTL s p off v | 32 => effMb s p off v
  | 48 => msixWrite s p .pf0 8 (off - 0x3000000) v
  | _ => plain s p off v

/-! ### Writes: form and port -/

/-- The port may not write the block of an offset (R50). -/
def excludedBy (s : State) (p off : Nat) : Bool :=
  match off / 0x100000 with
  | 0 => decide (p ≠ mgmtPort s ∧ off ≠ 0x20 ∧ off ≠ 0x24)
  | 18 | 19 => true
  | 1 | 5 | 6 | 7 | 8 | 9 | 10 | 11 | 12 | 13 | 14 | 15 | 17 => decide (p ≠ mgmtPort s)
  | _ => false

/-- A write of one word of PF0 BAR0 by its form (R51), while the device is at work; in FATAL only the mailbox takes writes
(R429). -/
def writeUnit (s : State) (p : HostPort) (off : Nat) (full : Bool) (v : Nat) : State :=
  let mb := decide (off / 0x100000 = 32)
  if s.lk.st = .lrs ∨ (s.lk.st = .fatal ∧ !mb) then s
  else if s.boot.recovery ∧ !mb then aer s p .pf0 .unsupportedRequest
  else if !full then wr s F.GL_ACC_STATUS_PARTIAL 0 p.val 1
  else if excludedBy s p.val off then denied s p
  else unitWrite s p.val off v

/-- A write of one word of a tenant page: the push window takes it as a push, the rest is read-only (R55, R56, R120). -/
def writePage (s : State) (p off v : Nat) : State :=
  let t := off / 65536
  let o := off % 65536
  if !running s ∨ t ≥ 4096 then s
  else if !pageLive s p t then modTen s t fun x => { x with notLive := (x.notLive + 1) % 2 ^ 32 }
  else if o < 0x4000 then slotWrite s t (o / 512) (o % 512) (leBytes 4 v)
  else s

/-- A write to register space, lowest word first (R51). -/
def regWrite (s : State) (port : HostPort) (sp : Space) (off : Nat) (wide lowFull highFull : Bool) (v : Nat) : State :=
  let p := port.val
  let o := off / 4 * 4
  let one (s : State) (o : Nat) (full : Bool) (v : Nat) : State :=
    match sp with
    | .unit => writeUnit s port o full v
    | .tenant => if full then writePage s p o v else s
    | .msix => if full ∧ running s then msixWrite s p .pf1 2048 o v else s
  barGate s port (if sp = .unit then .pf0 else .pf1) fun s =>
    let s := one s o lowFull (lo32 v)
    if wide then one s (o + 4) highFull (hi32 v) else s

/-! ### The commands -/

/-- REG_WRITE (R51): a write of one word, or of two. -/
def execRegWrite (port : HostPort) (sp : Space) (off : Fin 268435456) (wide lowFull highFull : Bool) (value : DWord)
    (s : State) : Host.Outcome State Fault Refusal :=
  .next (regWrite s port sp off.val wide lowFull highFull value.toNat)

/-- REG_ACCESS_OVERSIZE (R51): a request longer than 8 bytes. -/
def execRegAccessOversize (port : HostPort) (write : Bool) (s : State) : Host.Outcome State Fault Refusal :=
  if linkUp s port.val then
    let s := aer s port .pf0 .unsupportedRequest
    .next (if write then s else emit s (.cplErr port true))
  else .next s

/-- REG64_LOW_READ (R51, R53): a read of one word, or of two; of any word that loads no latch too. -/
def execReg64LowRead (port : HostPort) (sp : Space) (off : Fin 268435456) (wide : Bool) (s : State) :
    Host.Outcome State Fault Refusal :=
  .next (regRead s port sp off.val wide)

/-- REG64_HIGH_READ (R53). -/
def execReg64HighRead (port : HostPort) (sp : Space) (off : Fin 268435456) (s : State) :
    Host.Outcome State Fault Refusal :=
  .next (regRead s port sp off.val false)

end Sys2Proof.Machine
end

