-- ==== Sys2Proof/Machine/Debug.lean ====
section
/-! DEFINITION. The serial debug port: its test access port, Gygar's frames, authorisation, run control, breakpoints and
access to memory and state (R467 to R478). -/
namespace Sys2Proof.Machine

/-- Change the debug port. -/
def modDb (s : State) (f : Dbg → Dbg) : State := { s with dbg := f s.dbg }

/-! ### Closing a session (R474) -/

/-- A HALTED thread returns to its previous state; one that waits matches what became pending (R260, R472). -/
def resumeThr (t : Thr) : Thr := if t.st = .halted then wake { t with st := t.prev } else t

/-- Resume the HALTED threads of a mask of a core. -/
def resumeMask (s : State) (c mask : Nat) : State :=
  (List.range 16).foldl (fun s t => if bitOf mask t ∧ (thrOf s c t).st = .halted then modThr s c t resumeThr else s) s

/-- A thread at the close of the session: a halt still to come, of a HALT or a STEP, is off; a HALTED thread is resumed
(R474). -/
def closeThr (t : Thr) : Thr := resumeThr { t with haltPend := false, stepping := false }

/-- The threads of a core at the close of the session. -/
def closeCore (s : State) (c : Nat) : State :=
  (List.range 16).foldl (fun s t =>
    let th := thrOf s c t
    if th.st = .halted ∨ th.haltPend ∨ th.stepping then modThr s c t closeThr else s) s

/-- The session closes: breakpoints and watchpoints are cleared, then every HALTED thread is resumed. -/
def closeSession (s : State) : State :=
  if s.dbg.st = .open then
    let s := modDb s fun d => { d with st := .closed, rights := 0, bps := [], wps := [] }
    (s.cores.map (·.1)).foldl closeCore s
  else s

/-! ### The test access port (R467) -/

/-- TAP_RESET: the controller resets, IDCODE is selected, and the session closes. -/
def execTapReset (s : State) : Host.Outcome State Fault Refusal :=
  .next (modDb (closeSession s) fun d => { d with
    ir := 0x01, frameIn := [], frameOut := [], outFirst := false, reqs := d.reqs.map fun r => (r.1, r.2.1, r.2.2.1, false)
    waiting := none })

/-- BYPASS: one bit, captured 0. -/
def execBypass (s : State) : Host.Outcome State Fault Refusal :=
  .next (emit (modDb s fun d => { d with ir := 0xFF }) (.tap 1 0))

/-- IDCODE. -/
def execIdcode (s : State) : Host.Outcome State Fault Refusal :=
  .next (emit (modDb s fun d => { d with ir := 0x01 }) (.tap 32 idcode))

/-- SAMPLE_PRELOAD: the pins are sampled, and a word is preloaded. -/
def execSamplePreload (preload : DWord) (s : State) : Host.Outcome State Fault Refusal :=
  let v := (Config.pins s.free).toNat
  .next (bumpFree (emit (modDb s fun d => { d with ir := 0x02, boundary := preload.toNat }) (.tap 64 v)))

/-- EXTEST: the preloaded word is driven; while POR_N is high BYPASS is selected in its place. -/
def execExtest (s : State) : Host.Outcome State Fault Refusal :=
  if s.boot.por then .next (emit (modDb s fun d => { d with ir := 0xFF }) (.tap 1 0))
  else .next (emit (modDb s fun d => { d with ir := 0x00 }) (.tap 64 s.dbg.boundary))

/-! ### Frames (R468) -/

/-- The CRC-32 word of a frame's header and payload. -/
def frameCrc (ws : List Nat) : Nat := crcOf 0xEDB88320 (ws.flatMap fun w => leBytes 4 w)

/-- A response takes its place in line to be shifted out. -/
def respond (s : State) (op seq : Nat) (want : Bool) (status : Nat) (res : List Nat) : State :=
  if want then
    let ws := word [(24, op), (16, seq), (0, res.length + 1)] :: status :: res
    modDb s fun d => { d with frameOut := ws ++ [frameCrc ws], outFirst := true }
  else s

/-- Opcodes that are commands (R470, R472, R475, R476). -/
def dbOpcodes : List Nat := [0x01, 0x02, 0x03, 0x04, 0x10, 0x11, 0x12, 0x13, 0x18, 0x19, 0x20, 0x21]

/-- A whole frame has come: it is accepted, or answered at once. -/
def frameEnd_ (s : State) (ws : List Nat) : State :=
  let h := ws.getD 0 0
  let n := h % 65536
  let op := bitsOf h 31 24
  let seq := bitsOf h 23 16
  let s := modDb s fun d => { d with frameIn := [] }
  if frameCrc (ws.take (n + 1)) ≠ ws.getD (n + 1) 0 then respond s op seq true 1 []
  else
    let s := modDb s fun d => { d with lastFrame := s.clk }
    if op ∈ dbOpcodes then modDb s fun d => { d with reqs := d.reqs ++ [(op, seq, (ws.drop 1).take n, true)] }
    else respond s op seq true (if s.lk.st = .lrs then 8 else if s.dbg.st = .open then 4 else 2) []

/-- A first word: it abandons an outstanding response, and answers an unfinished frame with BAD_FRAME. -/
def frameStart (s : State) (w : Nat) : State :=
  let old := s.dbg.frameIn
  let s := modDb s fun d => { d with
    frameIn := [], frameOut := [], outFirst := false, waiting := none
    reqs := d.reqs.map fun r => (r.1, r.2.1, r.2.2.1, false) }
  let s := match old with
    | h :: _ => respond s (bitsOf h 31 24) (bitsOf h 23 16) true 1 []
    | [] => s
  if w % 65536 > 256 then respond s (bitsOf w 31 24) (bitsOf w 23 16) true 1 []
  else modDb s fun d => { d with frameIn := [w] }

/-- A word of the input side. -/
def wordIn (s : State) (v : Nat) : State :=
  if !bitOf v 35 then s
  else if bitOf v 34 then frameStart s (lo32 v)
  else
    match s.dbg.frameIn with
    | [] => s
    | h :: t =>
      let ws := h :: t ++ [lo32 v]
      if ws.length = h % 65536 + 2 then frameEnd_ s ws else modDb s fun d => { d with frameIn := ws }

/-- Threads of a mask for which a test holds. -/
def anyThr (s : State) (c mask : Nat) (p : Thr → Bool) : Bool := (List.range 16).any fun t => bitOf mask t && p (thrOf s c t)

/-- A response that waited for its threads is ready once each has changed state (R472). -/
def waitDone (s : State) : State :=
  match s.dbg.waiting with
  | some (op, seq, c, mask) =>
    if op = 0x10 ∧ !anyThr s c mask (fun t => t.haltPend) then
      respond (modDb s fun d => { d with waiting := none }) op seq true 0 []
    else if op = 0x12 ∧ !anyThr s c mask (fun t => t.stepping) then
      respond (modDb s fun d => { d with waiting := none }) op seq true s.dbg.stepRes []
    else s
  | none => s

/-- The word of the output side. -/
def wordOut (s : State) : State :=
  match s.dbg.frameOut with
  | [] => emit s (.tap 36 (2 ^ 33))
  | w :: t => emit (modDb s fun d => { d with frameOut := t, outFirst := false })
      (.tap 36 (2 ^ 35 + b2n s.dbg.outFirst * 2 ^ 34 + w))

/-- GYGAR_WORD: a word each way; the word shifted out is that of before the update. Nothing answers while POR_N is
low. -/
def execGygarWord (word : BitVec 36) (s : State) : Host.Outcome State Fault Refusal :=
  let s := modDb s fun d => { d with ir := 0x20 }
  if s.boot.por then .next (wordIn (wordOut (waitDone s)) word.toNat) else .next (emit s (.tap 36 (2 ^ 33)))

/-! ### Serving a request (R470, R471, R477) -/

/-- Serve the oldest request if it has an opcode: DEVICE_HALTED in LRS but for STATUS, NOT_AUTHORISED outside an OPEN
session, NO_RIGHT without the right that its payload needs, BAD_ARG for a payload of a wrong length, else the body, which
answers with a STATUS and results, or with none where the response waits. -/
def dbRun (s : State) (op : Nat) (free : Bool) (right : List Nat → Option Nat) (lenOk : List Nat → Bool)
    (body : State → Nat → List Nat → State × Option (Nat × List Nat)) : State :=
  match s.dbg.reqs with
  | [] => s
  | (o, seq, pl, want) :: rest =>
    if o ≠ op then s
    else
      let s := modDb s fun d => { d with reqs := rest }
      let opened := decide (s.dbg.st = .open)
      if s.lk.st = .lrs ∧ op ≠ 0x04 then respond s op seq want 8 []
      else if !opened ∧ !free then respond s op seq want 2 []
      else if opened && (right pl).any (fun b => !bitOf s.dbg.rights b) then respond s op seq want 3 []
      else if !lenOk pl then respond s op seq want 4 []
      else
        match body s seq pl with
        | (s, some (st, res)) => respond s op seq want st res
        | (s, none) => if want then s else modDb s fun d => { d with waiting := none }

/-- Payloads of one length, and commands that need no right or one right. -/
def lenIs (n : Nat) (pl : List Nat) : Bool := decide (pl.length = n)
def noRight (_ : List Nat) : Option Nat := none
def needs (b : Nat) (_ : List Nat) : Option Nat := some b

/-! ### Authorisation (R470, R474) -/

/-- The operator's debug key in the signed configuration in force. -/
def debugKey (s : State) : Option (List Byte) := s.boot.cfg.bind (·.debugKey)

/-- CHALLENGE. -/
def execChallenge (s : State) : Host.Outcome State Fault Refusal :=
  .next (dbRun s 0x01 true noRight (lenIs 0) fun s _ _ =>
    if s.dbg.st = .lockedOut then (s, some (7, []))
    else if s.dbg.st = .open ∨ (debugKey s).isNone then (s, some (6, []))
    else
      let n := (List.range 4).flatMap fun k =>
        let x := (Config.entropy (s.free + k)).toNat
        [lo32 x, hi32 x]
      (modDb { s with free := s.free + 4 } fun d => { d with st := .challenged, nonce := some n }, some (0, n)))

/-- A failed AUTH; the fourth in a row locks out for 60 s. -/
def authFail (s : State) : State :=
  let s := modDb s fun d => { d with
    st := if d.st = .lockedOut then .lockedOut else .closed, nonce := none, fails := satInc 65535 d.fails, row := d.row + 1 }
  let s := if s.dbg.row ≥ 4 then
      modDb s fun d => { d with st := .lockedOut, row := 0, lockTill := s.clk + 60 * 1000000000000 }
    else s
  raise s .dbAuthFail 0

/-- AUTH; `sigOk`: the public key's hash matches and the signature verifies over the NONCE, the serial number and
RIGHTS. -/
def execAuth (sigOk : Bool) (s : State) : Host.Outcome State Fault Refusal :=
  .next (dbRun s 0x02 true noRight (fun pl => lenIs 49 pl && decide (pl.getD 0 0 < 16)) fun s _ pl =>
    if s.dbg.st = .open then (s, some (6, []))
    else if s.dbg.nonce.isSome ∧ s.dbg.st = .challenged ∧ (debugKey s).isSome ∧ sigOk then
      let s := modDb s fun d => { d with
        st := .open, rights := pl.getD 0 0, nonce := none, row := 0, sessions := satInc 65535 d.sessions }
      (raise s .dbSessionOpen 0, some (0, []))
    else (authFail s, some (2, [])))

/-- CLOSE. -/
def execClose (s : State) : Host.Outcome State Fault Refusal :=
  .next (dbRun s 0x03 false noRight (lenIs 0) fun s _ _ => (closeSession s, some (0, [])))

/-- The words of DB_SESSION, DB_HALTED and DB_AUTH: the session's status. -/
def statusWords (s : State) : List Nat := [0x1300000, 0x1300004, 0x1300008].map fun o => (liveDB s o).getD 0

/-- STATUS: the words of DB_SESSION, DB_HALTED and DB_AUTH. -/
def execStatus (s : State) : Host.Outcome State Fault Refusal :=
  .next (dbRun s 0x04 true (needs 0) (lenIs 0) fun s _ _ => (s, some (0, statusWords s)))

/-- SESSION_IDLE_TIMEOUT: 60 s without a frame (R474). -/
def execSessionIdleTimeout (s : State) : Host.Outcome State Fault Refusal :=
  if s.dbg.st = .open ∧ s.clk ≥ s.dbg.lastFrame + 60 * 1000000000000 then .next (closeSession s) else .next s

/-- LOCKOUT_END (R470). -/
def execLockoutEnd (s : State) : Host.Outcome State Fault Refusal :=
  if s.dbg.st = .lockedOut ∧ s.clk ≥ s.dbg.lockTill then .next (modDb s fun d => { d with st := .closed }) else .next s

/-! ### Run control (R472) -/

/-- The core and the mask of a run-control request; a core number beyond the last is BAD_ARG. -/
def runControl (s : State) (op : Nat) (body : State → Nat → Nat → Nat → State × Option (Nat × List Nat)) : State :=
  dbRun s op false (needs 1) (fun pl => lenIs 2 pl && decide (pl.getD 0 0 % 256 < 192)) fun s seq pl =>
    body s seq (pl.getD 0 0 % 256) (pl.getD 1 0 % 65536)

/-- HALT: threads inside an instruction halt when it completes, and the response waits for them. -/
def execHalt (s : State) : Host.Outcome State Fault Refusal :=
  .next (runControl s 0x10 fun s seq c mask =>
    let s := haltMask s c mask
    if anyThr s c mask (·.haltPend) then (modDb s fun d => { d with waiting := some (0x10, seq, c, mask) }, none)
    else (s, some (0, [])))

/-- RESUME. -/
def execResume (s : State) : Host.Outcome State Fault Refusal :=
  .next (runControl s 0x11 fun s _ c mask => (resumeMask s c mask, some (0, [])))

/-- STEP: one HALTED thread with a slot issues one instruction; the response waits for it. -/
def execStep (s : State) : Host.Outcome State Fault Refusal :=
  .next (runControl s 0x12 fun s seq c mask =>
    match (List.range 16).filter fun t => bitOf mask t with
    | [t] =>
      if (thrOf s c t).st ≠ .halted then (s, some (5, []))
      else if weight s c t = 0 then (s, some (9, []))
      else
        let s := modThr s c t fun th => { th with st := .running, stepping := true }
        (modDb s fun d => { d with stepRes := 0, waiting := some (0x12, seq, c, mask) }, none)
    | _ => (s, some (4, [])))

/-- THREAD_RESET: each HALTED thread of the mask is restarted and stays HALTED at its entry. -/
def execThreadReset (s : State) : Host.Outcome State Fault Refusal :=
  .next (runControl s 0x13 fun s _ c mask =>
    ((List.range 16).foldl (fun s t =>
      if bitOf mask t ∧ (thrOf s c t).st = .halted then restartThr s c t true else s) s, some (0, [])))

/-! ### Breakpoints and watchpoints (R475) -/

/-- BP_SET. -/
def execBpSet (s : State) : Host.Outcome State Fault Refusal :=
  .next (dbRun s 0x18 false (needs 1) (lenIs 3) fun s _ pl =>
    let w := pl.getD 0 0
    let k := w % 256 * 8 + bitsOf w 10 8
    if w % 256 ≥ 192 then (s, some (4, []))
    else if bitOf w 31 then
      let b : Bp := { pc := pl.getD 1 0 % 2 ^ 24, mask := pl.getD 2 0 % 65536, all := bitOf w 16 }
      (modDb s fun d => { d with bps := mset d.bps k b }, some (0, []))
    else (modDb s fun d => { d with bps := mdel d.bps k }, some (0, [])))

/-- WP_SET. -/
def execWpSet (s : State) : Host.Outcome State Fault Refusal :=
  .next (dbRun s 0x19 false (needs 1) (lenIs 4) fun s _ pl =>
    let w := pl.getD 0 0
    let k := w % 256 * 4 + bitsOf w 9 8
    let base := pl.getD 1 0 % 2 ^ 18
    let len := pl.getD 2 0 % 2 ^ 13
    if w % 256 ≥ 192 ∨ len < 1 ∨ len > 4096 ∨ base + len > 2 ^ 18 then (s, some (4, []))
    else if bitOf w 31 then
      let x : Wp := {
        base := base, len := len, mask := pl.getD 3 0 % 65536, rd := bitOf w 16, wr := bitOf w 17, all := bitOf w 18 }
      (modDb s fun d => { d with wps := mset d.wps k x }, some (0, []))
    else (modDb s fun d => { d with wps := mdel d.wps k }, some (0, [])))

/-! ### Memory and state (R476) -/

/-- A 64-bit number's low or high word. -/
def half (v i : Nat) : Nat := if i % 2 = 0 then lo32 v else hi32 v

/-- Word i of a thread's state. -/
def thrWord (t : Thr) (i : Nat) : Nat :=
  if i < 64 then half (wget t (i / 2)).toNat i
  else if i = 64 then t.pc
  else if i = 65 then t.ev
  else half (mget 0 t.slot ((i - 66) / 2)).toNat i

/-- A thread's state with word i written. -/
def thrPut (t : Thr) (i v : Nat) : Thr :=
  if i < 64 then
    let old := (wget t (i / 2)).toNat
    wset t (i / 2) (BitVec.ofNat 64 (if i % 2 = 0 then hi32 old * 2 ^ 32 + v else v * 2 ^ 32 + lo32 old))
  else if i = 64 then { t with pc := v % 2 ^ 24 }
  else { t with ev := v }

/-- The STATUS that a place of n words is refused with: BAD_ARG beyond its space, NOT_HALTED. -/
def placeBad (s : State) (sp a b n : Nat) : Option Nat :=
  let c := a % 256
  match sp with
  | 0 => if c ≥ 192 ∨ b % 4 ≠ 0 ∨ b + 4 * n > 2 ^ 18 then some 4 else none
  | 1 =>
    if c ≥ 192 ∨ b + n > 82 then some 4
    else if (thrOf s c (bitsOf a 11 8)).st ≠ .halted then some 5 else none
  | 2 => if !bufValid s a ∨ b + 4 * n > poolSize (bPool a) then some 4 else none
  | 3 => if a + b * 2 ^ 32 + 4 * n > 2 ^ 33 then some 4 else none
  | 4 => if a % 4 ≠ 0 ∨ a + 4 * n > 2 ^ 26 then some 4 else none
  | 5 => if n > 16 then some 4 else none
  | 6 =>
    match mget? s.pa.slots (a % 256) with
    | some r => if n > 44 ∨ bitsOf a 11 8 ≥ imTables r.img ∨ b ≥ tabRules r.img (bitsOf a 11 8) then some 4 else none
    | none => some 4
  | _ => if 4 * a + n > 16384 then some 4 else none

/-- Words of bytes. -/
def wordsOf (b : List Byte) (n : Nat) : List Nat := (List.range n).map fun i => leAt b (4 * i) 4

/-- READ of a space: STATUS and words. -/
def dbRead (s : State) (sp a b n : Nat) : State × Option (Nat × List Nat) :=
  let c := a % 256
  match placeBad s sp a b n with
  | some e => (s, some (e, []))
  | none =>
    match sp with
    | 0 => (s, some (0, wordsOf (readMem s.lmem (lmAddr c b) (4 * n)) n))
    | 1 => (s, some (0, (List.range n).map fun i => thrWord (thrOf s c (bitsOf a 11 8)) (b + i)))
    | 2 => (storeTouch s (bufAddr s a b) (4 * n), some (0, wordsOf (storeRead s (bufAddr s a b) (4 * n)) n))
    | 3 => (s, some (0, wordsOf (readMem s.sysmem (a + b * 2 ^ 32) (4 * n)) n))
    | 4 =>
      let r := (List.range n).foldl (fun (r : State × List Nat) i =>
        let x := readUnit r.1 (mgmtPort s) (a + 4 * i)
        (x.1, r.2 ++ [x.2])) (s, [])
      (r.1, some (0, r.2))
    | 5 =>
      let op := a % 16
      let (code, _, ws, s') := tableOp s (bitsOf a 10 8) op [] b false
      if (op ≠ 0 ∧ op ≠ 4) ∨ code ≠ 0 then (s, some (4, []))
      else (s', some (0, (List.range n).map fun i => ws.getD i 0))
    | 6 =>
      match mget? s.pa.slots (a % 256) with
      | some r =>
        let o := ruleOff r.img (tabFirst r.img (bitsOf a 11 8) + b)
        (s, some (0, (List.range n).map fun i => leAt r.img (o + 4 * i) 4))
      | none => (s, some (4, []))
    | _ => (s, some (0, (List.range n).map fun i => slDw s (a + i / 4) (i % 4)))

/-- WRITE to a space: STATUS. Spaces 3, 6 and 7, w0 and the staging slot are read-only. -/
def dbWrite (s : State) (sp a b : Nat) (ws : List Nat) : State × Option (Nat × List Nat) :=
  let c := a % 256
  let n := ws.length
  let bytes := ws.flatMap fun w => leBytes 4 w
  if sp = 3 ∨ sp = 6 ∨ sp = 7 then (s, some (6, []))
  else
    match placeBad s sp a b n with
    | some e => (s, some (e, []))
    | none =>
      match sp with
      | 0 => ({ s with lmem := writeMem s.lmem (lmAddr c b) bytes }, some (0, []))
      | 1 =>
        if b < 2 ∨ b + n > 66 then (s, some (6, []))
        else
          (modThr s c (bitsOf a 11 8) fun t => (ws.zipIdx).foldl (fun t x => thrPut t (b + x.2) x.1) t, some (0, []))
      | 2 => (storeWrite s (bufAddr s a b) bytes, some (0, []))
      | 4 =>
        ((ws.zipIdx).foldl (fun s x => writeUnit s (asPort (mgmtPort s)) (a + 4 * x.2) true x.1) s, some (0, []))
      | _ =>
        let op := a % 16
        let (code, _, _, s') := tableOp s (bitsOf a 10 8) op ws b (bitOf a 11)
        let s' := if op = 5 then flushAll s' (bitsOf a 10 8) fun i => ws.getD i 0 else s'
        if op = 0 ∨ op = 4 ∨ code ≠ 0 then (s, some (4, [])) else (s', some (0, []))

/-- Space and count of a READ or WRITE. -/
def spaceOf (pl : List Nat) : Nat := pl.getD 0 0 % 8
def countOf (pl : List Nat) : Nat := pl.getD 3 0 % 512

/-- A space that answers DEVICE_HALTED while FATAL (R477). -/
def spaceHeld (s : State) (sp : Nat) : Bool := decide (s.lk.st = .fatal ∧ sp ≠ 4)

/-- READ: OBSERVE for spaces 0, 1 and 4 to 7, DATA for 2 and 3. -/
def execRead (s : State) : Host.Outcome State Fault Refusal :=
  .next (dbRun s 0x20 false (fun pl => if spaceOf pl = 2 ∨ spaceOf pl = 3 then some 3 else some 0)
    (fun pl => lenIs 4 pl && decide (1 ≤ countOf pl ∧ countOf pl ≤ 256)) fun s _ pl =>
      if spaceHeld s (spaceOf pl) then (s, some (8, []))
      else dbRead s (spaceOf pl) (pl.getD 1 0) (pl.getD 2 0) (countOf pl))

/-- WRITE: MODIFY. -/
def execWrite (s : State) : Host.Outcome State Fault Refusal :=
  .next (dbRun s 0x21 false (needs 2)
    (fun pl => decide (1 ≤ countOf pl ∧ countOf pl ≤ 256) && lenIs (4 + countOf pl) pl) fun s _ pl =>
      if spaceHeld s (spaceOf pl) then (s, some (8, []))
      else dbWrite s (spaceOf pl) (pl.getD 1 0) (pl.getD 2 0) (pl.drop 4))

end Sys2Proof.Machine
end

