-- ==== Sys2Proof/Machine/Dispatch.lean ====
section
/-! DEFINITION. Which command calls which meaning: one arm per constructor. -/
namespace Sys2Proof.Machine

/-- The effect of a command on everything but the queue. -/
def exec (i : Instr) (s : State) : Host.Outcome State Fault Refusal :=
  match i with
  | .regWrite port sp off wide lowFull highFull value => Sys2Proof.Machine.execRegWrite port sp off wide lowFull highFull value s
  | .regAccessOversize port write => Sys2Proof.Machine.execRegAccessOversize port write s
  | .reg64LowRead port sp off wide => Sys2Proof.Machine.execReg64LowRead port sp off wide s
  | .ftNowRead port => Sys2Proof.Machine.execFtNowRead port s
  | .ftEpochRead port => Sys2Proof.Machine.execFtEpochRead port s
  | .ftEnable port => Sys2Proof.Machine.execFtEnable port s
  | .ftEnableClear port => Sys2Proof.Machine.execFtEnableClear port s
  | .restart port => Sys2Proof.Machine.execRestart port s
  | .todArm port => Sys2Proof.Machine.execTodArm port s
  | .ppsEdge refOk => Sys2Proof.Machine.execPpsEdge refOk s
  | .syncRx port domain seq age tlv => Sys2Proof.Machine.execSyncRx port domain seq age tlv s
  | .followUpRx port domain seq tlv => Sys2Proof.Machine.execFollowUpRx port domain seq tlv s
  | .delayReqRx port domain seq age => Sys2Proof.Machine.execDelayReqRx port domain seq age s
  | .delayRespRx port domain seq t4 => Sys2Proof.Machine.execDelayRespRx port domain seq t4 s
  | .pdelayReqRx port domain seq age => Sys2Proof.Machine.execPdelayReqRx port domain seq age s
  | .pdelayRespRx port domain seq age t2 turn => Sys2Proof.Machine.execPdelayRespRx port domain seq age t2 turn s
  | .pdelayRespFollowUpRx port domain seq t3 => Sys2Proof.Machine.execPdelayRespFollowUpRx port domain seq t3 s
  | .signalingRx port domain age tlv => Sys2Proof.Machine.execSignalingRx port domain age tlv s
  | .refLossExpire => Sys2Proof.Machine.execRefLossExpire s
  | .ppsLossExpire => Sys2Proof.Machine.execPpsLossExpire s
  | .beaconLossExpire => Sys2Proof.Machine.execBeaconLossExpire s
  | .ftHoldoverLong => Sys2Proof.Machine.execFtHoldoverLong s
  | .epochPulse distFault => Sys2Proof.Machine.execEpochPulse distFault s
  | .ptmDialogueEnd port result => Sys2Proof.Machine.execPtmDialogueEnd port result s
  | .peerWrite port rid addr poisoned bytes => Sys2Proof.Machine.execPeerWrite port rid addr poisoned bytes s
  | .peerRead port rid addr len ecc => Sys2Proof.Machine.execPeerRead port rid addr len ecc s
  | .winCommit port => Sys2Proof.Machine.execWinCommit port s
  | .winCheckEnd port => Sys2Proof.Machine.execWinCheckEnd port s
  | .winSwap port => Sys2Proof.Machine.execWinSwap port s
  | .winCopyEnd port => Sys2Proof.Machine.execWinCopyEnd port s
  | .tenantWindowsClear port => Sys2Proof.Machine.execTenantWindowsClear port s
  | .perstAssert port => Sys2Proof.Machine.execPerstAssert port s
  | .perstRelease port => Sys2Proof.Machine.execPerstRelease port s
  | .hotReset port => Sys2Proof.Machine.execHotReset port s
  | .linkDown port => Sys2Proof.Machine.execLinkDown port s
  | .hostLinkTrained port flit width speed => Sys2Proof.Machine.execHostLinkTrained port flit width speed s
  | .noFlitRetry port => Sys2Proof.Machine.execNoFlitRetry port s
  | .portReady port => Sys2Proof.Machine.execPortReady port s
  | .flrPf0 port => Sys2Proof.Machine.execFlrPf0 port s
  | .flrPf1 port => Sys2Proof.Machine.execFlrPf1 port s
  | .flrComplete port fn => Sys2Proof.Machine.execFlrComplete port fn s
  | .bmeClear port fn => Sys2Proof.Machine.execBmeClear port fn s
  | .pasidEnableClear port => Sys2Proof.Machine.execPasidEnableClear port s
  | .functionDrainEnd port fn => Sys2Proof.Machine.execFunctionDrainEnd port fn s
  | .functionDrainTimeout port fn => Sys2Proof.Machine.execFunctionDrainTimeout port fn s
  | .d3hotEntry port fn => Sys2Proof.Machine.execD3hotEntry port fn s
  | .d0Return port fn => Sys2Proof.Machine.execD0Return port fn s
  | .cplTimeout port tag what => Sys2Proof.Machine.execCplTimeout port tag what s
  | .lateCpl port tag => Sys2Proof.Machine.execLateCpl port tag s
  | .tagRelease port tag => Sys2Proof.Machine.execTagRelease port tag s
  | .msixUnmask port fn vec => Sys2Proof.Machine.execMsixUnmask port fn vec s
  | .interruptControlWrite port msixEn intDis => Sys2Proof.Machine.execInterruptControlWrite port msixEn intDis s
  | .lkAlertClear port value => Sys2Proof.Machine.execLkAlertClear port value s
  | .aqEnable port => Sys2Proof.Machine.execAqEnable port s
  | .aqDisable port => Sys2Proof.Machine.execAqDisable port s
  | .nop port => Sys2Proof.Machine.execNop port s
  | .createSq port => Sys2Proof.Machine.execCreateSq port s
  | .destroySq port => Sys2Proof.Machine.execDestroySq port s
  | .createCq port => Sys2Proof.Machine.execCreateCq port s
  | .destroyCq port => Sys2Proof.Machine.execDestroyCq port s
  | .createEq port => Sys2Proof.Machine.execCreateEq port s
  | .destroyEq port => Sys2Proof.Machine.execDestroyEq port s
  | .queueQuery port => Sys2Proof.Machine.execQueueQuery port s
  | .setScan port => Sys2Proof.Machine.execSetScan port s
  | .aqBindEq port => Sys2Proof.Machine.execAqBindEq port s
  | .tenantCreate port => Sys2Proof.Machine.execTenantCreate port s
  | .tenantConfig port => Sys2Proof.Machine.execTenantConfig port s
  | .tenantEnable port => Sys2Proof.Machine.execTenantEnable port s
  | .tenantDisable port => Sys2Proof.Machine.execTenantDisable port s
  | .tenantReset port => Sys2Proof.Machine.execTenantReset port s
  | .tenantDestroy port => Sys2Proof.Machine.execTenantDestroy port s
  | .tenantFenceEnd tenant => Sys2Proof.Machine.execTenantFenceEnd tenant s
  | .tnFenceTimeout tenant => Sys2Proof.Machine.execTnFenceTimeout tenant s
  | .poolQuotaSet port => Sys2Proof.Machine.execPoolQuotaSet port s
  | .peerBufAlloc port => Sys2Proof.Machine.execPeerBufAlloc port s
  | .peerBufFree port => Sys2Proof.Machine.execPeerBufFree port s
  | .keyCtxCreate port => Sys2Proof.Machine.execKeyCtxCreate port s
  | .keyRollover port => Sys2Proof.Machine.execKeyRollover port s
  | .keyCtxDestroy port => Sys2Proof.Machine.execKeyCtxDestroy port s
  | .rulesetLoad port => Sys2Proof.Machine.execRulesetLoad port s
  | .rulesetImageReadEnd slot data => Sys2Proof.Machine.execRulesetImageReadEnd slot data s
  | .rulesetActivate port => Sys2Proof.Machine.execRulesetActivate port s
  | .rulesetRelease port => Sys2Proof.Machine.execRulesetRelease port s
  | .mftConnOpen port => Sys2Proof.Machine.execMftConnOpen port s
  | .mftConnClose port => Sys2Proof.Machine.execMftConnClose port s
  | .dumpRingCreate port => Sys2Proof.Machine.execDumpRingCreate port s
  | .dumpRingDestroy port => Sys2Proof.Machine.execDumpRingDestroy port s
  | .snapshotArm port => Sys2Proof.Machine.execSnapshotArm port s
  | .nsAttach port => Sys2Proof.Machine.execNsAttach port s
  | .nsDetach port => Sys2Proof.Machine.execNsDetach port s
  | .dnop uid => Sys2Proof.Machine.execDnop uid s
  | .tx uid upset => Sys2Proof.Machine.execTx uid upset s
  | .rxPost uid => Sys2Proof.Machine.execRxPost uid s
  | .mftSend uid => Sys2Proof.Machine.execMftSend uid s
  | .mftRecvPost uid => Sys2Proof.Machine.execMftRecvPost uid s
  | .nvme uid => Sys2Proof.Machine.execNvme uid s
  | .coreJob uid => Sys2Proof.Machine.execCoreJob uid s
  | .copy uid => Sys2Proof.Machine.execCopy uid s
  | .doorbellScanDue sq => Sys2Proof.Machine.execDoorbellScanDue sq s
  | .doorbellRecordRead sq data => Sys2Proof.Machine.execDoorbellRecordRead sq data s
  | .hotIdleExpire sq => Sys2Proof.Machine.execHotIdleExpire sq s
  | .warmIdleExpire sq => Sys2Proof.Machine.execWarmIdleExpire sq s
  | .stretchCompute port => Sys2Proof.Machine.execStretchCompute port s
  | .sqFetch sq => Sys2Proof.Machine.execSqFetch sq s
  | .sqRingReadEnd sq data => Sys2Proof.Machine.execSqRingReadEnd sq data s
  | .jobStart sq => Sys2Proof.Machine.execJobStart sq s
  | .pushSlotWrite port tenant slot offset bytes => Sys2Proof.Machine.execPushSlotWrite port tenant slot offset bytes s
  | .pushValidate tenant slot => Sys2Proof.Machine.execPushValidate tenant slot s
  | .pushAsmTimeout tenant slot => Sys2Proof.Machine.execPushAsmTimeout tenant slot s
  | .pushRefusedTimeout tenant slot => Sys2Proof.Machine.execPushRefusedTimeout tenant slot s
  | .creditWordWrite tenant => Sys2Proof.Machine.execCreditWordWrite tenant s
  | .completionWrite cq => Sys2Proof.Machine.execCompletionWrite cq s
  | .headRecordRead isEq queue data => Sys2Proof.Machine.execHeadRecordRead isEq queue data s
  | .headPollTick isEq queue => Sys2Proof.Machine.execHeadPollTick isEq queue s
  | .cqOverflowTimeout cq => Sys2Proof.Machine.execCqOverflowTimeout cq s
  | .eqModTimerExpire eq => Sys2Proof.Machine.execEqModTimerExpire eq s
  | .eqHoldExpire eq => Sys2Proof.Machine.execEqHoldExpire eq s
  | .eqMessageSend eq => Sys2Proof.Machine.execEqMessageSend eq s
  | .queueDrainEnd queue => Sys2Proof.Machine.execQueueDrainEnd queue s
  | .queueDrainTimeout queue => Sys2Proof.Machine.execQueueDrainTimeout queue s
  | .portEnable port net value => Sys2Proof.Machine.execPortEnable port net value s
  | .portDisable port net value => Sys2Proof.Machine.execPortDisable port net value s
  | .netLinkLock net => Sys2Proof.Machine.execNetLinkLock net s
  | .trainingTimeout net => Sys2Proof.Machine.execTrainingTimeout net s
  | .netLinkFault net kind => Sys2Proof.Machine.execNetLinkFault net kind s
  | .netLinkFaultClear net => Sys2Proof.Machine.execNetLinkFaultClear net s
  | .downHoldExpire net => Sys2Proof.Machine.execDownHoldExpire net s
  | .frameRx net frame upset => Sys2Proof.Machine.execFrameRx net frame upset s
  | .pauseEffect net => Sys2Proof.Machine.execPauseEffect net s
  | .pauseExpire net cls => Sys2Proof.Machine.execPauseExpire net cls s
  | .xoffRefresh net cls => Sys2Proof.Machine.execXoffRefresh net cls s
  | .pauseWdTimeout net cls tx => Sys2Proof.Machine.execPauseWdTimeout net cls tx s
  | .pauseWdRecoverEnd net cls tx => Sys2Proof.Machine.execPauseWdRecoverEnd net cls tx s
  | .pauseWdEnable port net value => Sys2Proof.Machine.execPauseWdEnable port net value s
  | .preemptVerifyEnd net pass => Sys2Proof.Machine.execPreemptVerifyEnd net pass s
  | .fwLookupDone id upset => Sys2Proof.Machine.execFwLookupDone id upset s
  | .hostRxDeliver tenant sq => Sys2Proof.Machine.execHostRxDeliver tenant sq s
  | .rulesetActivationEdge slot => Sys2Proof.Machine.execRulesetActivationEdge slot s
  | .paRsDrainTimeout slot => Sys2Proof.Machine.execPaRsDrainTimeout slot s
  | .tcamSweep bad => Sys2Proof.Machine.execTcamSweep bad s
  | .tcamEntryRewrite slot rule => Sys2Proof.Machine.execTcamEntryRewrite slot rule s
  | .fwLookup port value ecc => Sys2Proof.Machine.execFwLookup port value ecc s
  | .fwInsert port value ecc => Sys2Proof.Machine.execFwInsert port value ecc s
  | .fwUpdate port value ecc => Sys2Proof.Machine.execFwUpdate port value ecc s
  | .fwDelete port value ecc => Sys2Proof.Machine.execFwDelete port value ecc s
  | .fwWalk port value ecc => Sys2Proof.Machine.execFwWalk port value ecc s
  | .fwFlush port value => Sys2Proof.Machine.execFwFlush port value s
  | .fwCmdEnd => Sys2Proof.Machine.execFwCmdEnd s
  | .learnEvent bank ecc => Sys2Proof.Machine.execLearnEvent bank ecc s
  | .ageVisit l2 => Sys2Proof.Machine.execAgeVisit l2 s
  | .fwEntryRewrite nh pos => Sys2Proof.Machine.execFwEntryRewrite nh pos s
  | .cacheRefill req pool => Sys2Proof.Machine.execCacheRefill req pool s
  | .cacheCfgWrite port value => Sys2Proof.Machine.execCacheCfgWrite port value s
  | .stackTempSample stack temp => Sys2Proof.Machine.execStackTempSample stack temp s
  | .bankRefresh pc bank => Sys2Proof.Machine.execBankRefresh pc bank s
  | .refreshWindowStart stack => Sys2Proof.Machine.execRefreshWindowStart stack s
  | .neighbourRefresh pc group row n => Sys2Proof.Machine.execNeighbourRefresh pc group row n s
  | .scrubVisit pc found onDie => Sys2Proof.Machine.execScrubVisit pc found onDie s
  | .trainPatternRun pc lanes pattern mismatch => Sys2Proof.Machine.execTrainPatternRun pc lanes pattern mismatch s
  | .migStart => Sys2Proof.Machine.execMigStart s
  | .migOpenEnd => Sys2Proof.Machine.execMigOpenEnd s
  | .migCopyUnit => Sys2Proof.Machine.execMigCopyUnit s
  | .migCommitEnd => Sys2Proof.Machine.execMigCommitEnd s
  | .mcMigDone => Sys2Proof.Machine.execMcMigDone s
  | .coreSubstitute => Sys2Proof.Machine.execCoreSubstitute s
  | .coreStart port value bad => Sys2Proof.Machine.execCoreStart port value bad s
  | .coreStop port value => Sys2Proof.Machine.execCoreStop port value s
  | .coreDrainEnd core => Sys2Proof.Machine.execCoreDrainEnd core s
  | .fcStopTimeout core => Sys2Proof.Machine.execFcStopTimeout core s
  | .coreReloadEnd core bad => Sys2Proof.Machine.execCoreReloadEnd core bad s
  | .ringEnable port value => Sys2Proof.Machine.execRingEnable port value s
  | .ringDisable port value => Sys2Proof.Machine.execRingDisable port value s
  | .inboxDeliver ring => Sys2Proof.Machine.execInboxDeliver ring s
  | .mutualWait core => Sys2Proof.Machine.execMutualWait core s
  | .watchdog core thread => Sys2Proof.Machine.execWatchdog core thread s
  | .timerExpire core thread => Sys2Proof.Machine.execTimerExpire core thread s
  | .threadRestart core thread => Sys2Proof.Machine.execThreadRestart core thread s
  | .add core thread => Sys2Proof.Machine.execAdd core thread s
  | .sub core thread => Sys2Proof.Machine.execSub core thread s
  | .and core thread => Sys2Proof.Machine.execAnd core thread s
  | .or core thread => Sys2Proof.Machine.execOr core thread s
  | .xor core thread => Sys2Proof.Machine.execXor core thread s
  | .sll core thread => Sys2Proof.Machine.execSll core thread s
  | .srl core thread => Sys2Proof.Machine.execSrl core thread s
  | .sra core thread => Sys2Proof.Machine.execSra core thread s
  | .slt core thread => Sys2Proof.Machine.execSlt core thread s
  | .sltu core thread => Sys2Proof.Machine.execSltu core thread s
  | .mul core thread => Sys2Proof.Machine.execMul core thread s
  | .mulhu core thread => Sys2Proof.Machine.execMulhu core thread s
  | .divu core thread => Sys2Proof.Machine.execDivu core thread s
  | .remu core thread => Sys2Proof.Machine.execRemu core thread s
  | .clz core thread => Sys2Proof.Machine.execClz core thread s
  | .popc core thread => Sys2Proof.Machine.execPopc core thread s
  | .addi core thread => Sys2Proof.Machine.execAddi core thread s
  | .extu core thread => Sys2Proof.Machine.execExtu core thread s
  | .andi core thread => Sys2Proof.Machine.execAndi core thread s
  | .ori core thread => Sys2Proof.Machine.execOri core thread s
  | .xori core thread => Sys2Proof.Machine.execXori core thread s
  | .shi core thread => Sys2Proof.Machine.execShi core thread s
  | .hwset core thread => Sys2Proof.Machine.execHwset core thread s
  | .hwins core thread => Sys2Proof.Machine.execHwins core thread s
  | .beq core thread => Sys2Proof.Machine.execBeq core thread s
  | .bne core thread => Sys2Proof.Machine.execBne core thread s
  | .blt core thread => Sys2Proof.Machine.execBlt core thread s
  | .bge core thread => Sys2Proof.Machine.execBge core thread s
  | .bltu core thread => Sys2Proof.Machine.execBltu core thread s
  | .bgeu core thread => Sys2Proof.Machine.execBgeu core thread s
  | .j core thread => Sys2Proof.Machine.execJ core thread s
  | .jal core thread => Sys2Proof.Machine.execJal core thread s
  | .jalr core thread => Sys2Proof.Machine.execJalr core thread s
  | .mfsr core thread => Sys2Proof.Machine.execMfsr core thread s
  | .ftread core thread => Sys2Proof.Machine.execFtread core thread s
  | .ldb core thread lm => Sys2Proof.Machine.execLdb core thread lm s
  | .ldh core thread lm => Sys2Proof.Machine.execLdh core thread lm s
  | .ldw core thread lm => Sys2Proof.Machine.execLdw core thread lm s
  | .ldd core thread lm => Sys2Proof.Machine.execLdd core thread lm s
  | .ldhs core thread lm => Sys2Proof.Machine.execLdhs core thread lm s
  | .ldws core thread lm => Sys2Proof.Machine.execLdws core thread lm s
  | .ldds core thread lm => Sys2Proof.Machine.execLdds core thread lm s
  | .stb core thread lm => Sys2Proof.Machine.execStb core thread lm s
  | .sth core thread lm => Sys2Proof.Machine.execSth core thread lm s
  | .stw core thread lm => Sys2Proof.Machine.execStw core thread lm s
  | .std core thread lm => Sys2Proof.Machine.execStd core thread lm s
  | .sths core thread lm => Sys2Proof.Machine.execSths core thread lm s
  | .stws core thread lm => Sys2Proof.Machine.execStws core thread lm s
  | .evwait core thread => Sys2Proof.Machine.execEvwait core thread s
  | .evsend core thread => Sys2Proof.Machine.execEvsend core thread s
  | .tmset core thread => Sys2Proof.Machine.execTmset core thread s
  | .hmap core thread => Sys2Proof.Machine.execHmap core thread s
  | .hput core thread => Sys2Proof.Machine.execHput core thread s
  | .crypt core thread => Sys2Proof.Machine.execCrypt core thread s
  | .gfmul core thread => Sys2Proof.Machine.execGfmul core thread s
  | .tbl core thread => Sys2Proof.Machine.execTbl core thread s
  | .balloc core thread => Sys2Proof.Machine.execBalloc core thread s
  | .bfree core thread => Sys2Proof.Machine.execBfree core thread s
  | .bxfer core thread => Sys2Proof.Machine.execBxfer core thread s
  | .csum core thread lm => Sys2Proof.Machine.execCsum core thread lm s
  | .chw core thread => Sys2Proof.Machine.execChw core thread s
  | .post core thread credit => Sys2Proof.Machine.execPost core thread credit s
  | .locksmithRequestTake gf => Sys2Proof.Machine.execLocksmithRequestTake gf s
  | .locksmithReply core thread ecc => Sys2Proof.Machine.execLocksmithReply core thread ecc s
  | .tblReply core thread ecc => Sys2Proof.Machine.execTblReply core thread ecc s
  | .enqueue core thread => Sys2Proof.Machine.execEnqueue core thread s
  | .recirc core thread upset => Sys2Proof.Machine.execRecirc core thread upset s
  | .coreJobCompletion core thread => Sys2Proof.Machine.execCoreJobCompletion core thread s
  | .rxPkt core thread ecc => Sys2Proof.Machine.execRxPkt core thread ecc s
  | .txSealed core thread => Sys2Proof.Machine.execTxSealed core thread s
  | .send core thread => Sys2Proof.Machine.execSend core thread s
  | .query core thread => Sys2Proof.Machine.execQuery core thread s
  | .xtsDone core thread => Sys2Proof.Machine.execXtsDone core thread s
  | .rxSeg core thread ecc => Sys2Proof.Machine.execRxSeg core thread ecc s
  | .writeHost core thread => Sys2Proof.Machine.execWriteHost core thread s
  | .readHost core thread => Sys2Proof.Machine.execReadHost core thread s
  | .ackDelayExpire conn => Sys2Proof.Machine.execAckDelayExpire conn s
  | .openRetry conn => Sys2Proof.Machine.execOpenRetry conn s
  | .openTimeout conn => Sys2Proof.Machine.execOpenTimeout conn s
  | .rtoExpire conn => Sys2Proof.Machine.execRtoExpire conn s
  | .rnrWaitEnd conn => Sys2Proof.Machine.execRnrWaitEnd conn s
  | .pathHoldEnd conn path => Sys2Proof.Machine.execPathHoldEnd conn path s
  | .pacingInstant conn => Sys2Proof.Machine.execPacingInstant conn s
  | .droverUpdate conn => Sys2Proof.Machine.execDroverUpdate conn s
  | .connCloseDrainEnd conn => Sys2Proof.Machine.execConnCloseDrainEnd conn s
  | .connCloseTimeout conn => Sys2Proof.Machine.execConnCloseTimeout conn s
  | .tpNodeDisable port value => Sys2Proof.Machine.execTpNodeDisable port value s
  | .gateChange port => Sys2Proof.Machine.execGateChange port s
  | .calArm port value => Sys2Proof.Machine.execCalArm port value s
  | .calSwap port => Sys2Proof.Machine.execCalSwap port s
  | .calCopyEnd port => Sys2Proof.Machine.execCalCopyEnd port s
  | .frameTxStart port ecc => Sys2Proof.Machine.execFrameTxStart port ecc s
  | .frameTxEnd port => Sys2Proof.Machine.execFrameTxEnd port s
  | .sluiceCandidate net head expressMac parity age => Sys2Proof.Machine.execSluiceCandidate net head expressMac parity age s
  | .sluiceStart net arrived => Sys2Proof.Machine.execSluiceStart net arrived s
  | .slRead port value => Sys2Proof.Machine.execSlRead port value s
  | .slWrite port value => Sys2Proof.Machine.execSlWrite port value s
  | .slClear port value => Sys2Proof.Machine.execSlClear port value s
  | .slEntryRewrite entry => Sys2Proof.Machine.execSlEntryRewrite entry s
  | .keyRolloverEdge ctx => Sys2Proof.Machine.execKeyRolloverEdge ctx s
  | .rolloverGraceEnd ctx => Sys2Proof.Machine.execRolloverGraceEnd ctx s
  | .katRun gf unit pass => Sys2Proof.Machine.execKatRun gf unit pass s
  | .lsEntropyFail => Sys2Proof.Machine.execLsEntropyFail s
  | .entropyRestore => Sys2Proof.Machine.execEntropyRestore s
  | .attachRecordRead port data => Sys2Proof.Machine.execAttachRecordRead port data s
  | .sessionUp att result => Sys2Proof.Machine.execSessionUp att result s
  | .connectTimeout att => Sys2Proof.Machine.execConnectTimeout att s
  | .reconnect att => Sys2Proof.Machine.execReconnect att s
  | .keepAliveSend att => Sys2Proof.Machine.execKeepAliveSend att s
  | .katoExpire att => Sys2Proof.Machine.execKatoExpire att s
  | .stageAlloc uid => Sys2Proof.Machine.execStageAlloc uid s
  | .stageWaitExpire uid => Sys2Proof.Machine.execStageWaitExpire uid s
  | .ioTimeout uid => Sys2Proof.Machine.execIoTimeout uid s
  | .nsDetachTimeout att => Sys2Proof.Machine.execNsDetachTimeout att s
  | .dmaBurst eng ch ecc => Sys2Proof.Machine.execDmaBurst eng ch ecc s
  | .dmaReadCompletion port tag data astray => Sys2Proof.Machine.execDmaReadCompletion port tag data astray s
  | .dmaWriteLeave => Sys2Proof.Machine.execDmaWriteLeave s
  | .dxBusErr eng => Sys2Proof.Machine.execDxBusErr eng s
  | .engineRecover eng => Sys2Proof.Machine.execEngineRecover eng s
  | .dxEngineStop port => Sys2Proof.Machine.execDxEngineStop port s
  | .dxEngineResume port => Sys2Proof.Machine.execDxEngineResume port s
  | .snapshotScheduleEdge => Sys2Proof.Machine.execSnapshotScheduleEdge s
  | .dumpWrite ring head => Sys2Proof.Machine.execDumpWrite ring head s
  | .eventRaise ev inst => Sys2Proof.Machine.execEventRaise ev inst s
  | .eventLog => Sys2Proof.Machine.execEventLog s
  | .fatalEvent noc => Sys2Proof.Machine.execFatalEvent noc s
  | .fatalTimerExpire => Sys2Proof.Machine.execFatalTimerExpire s
  | .resetProceed => Sys2Proof.Machine.execResetProceed s
  | .lockstepMismatch => Sys2Proof.Machine.execLockstepMismatch s
  | .lkWatchdogExpire sramError => Sys2Proof.Machine.execLkWatchdogExpire sramError s
  | .lkRefLoss => Sys2Proof.Machine.execLkRefLoss s
  | .mbGo port value => Sys2Proof.Machine.execMbGo port value s
  | .mbAck port => Sys2Proof.Machine.execMbAck port s
  | .version port => Sys2Proof.Machine.execVersion port s
  | .info port => Sys2Proof.Machine.execInfo port s
  | .ledgerRead port => Sys2Proof.Machine.execLedgerRead port s
  | .imageLoad port img => Sys2Proof.Machine.execImageLoad port img s
  | .configLoad port img => Sys2Proof.Machine.execConfigLoad port img s
  | .deviceReset port => Sys2Proof.Machine.execDeviceReset port s
  | .policySet port value => Sys2Proof.Machine.execPolicySet port value s
  | .alertFilter port groups => Sys2Proof.Machine.execAlertFilter port groups s
  | .rollbackCommit port => Sys2Proof.Machine.execRollbackCommit port s
  | .flashWrite port img => Sys2Proof.Machine.execFlashWrite port img s
  | .flashSelect port typ bankB => Sys2Proof.Machine.execFlashSelect port typ bankB s
  | .bootReport port => Sys2Proof.Machine.execBootReport port s
  | .porNAssert => Sys2Proof.Machine.execPorNAssert s
  | .porNRelease railsOk => Sys2Proof.Machine.execPorNRelease railsOk s
  | .bootStageEnd inp => Sys2Proof.Machine.execBootStageEnd inp s
  | .fcImageVerify => Sys2Proof.Machine.execFcImageVerify s
  | .railFault => Sys2Proof.Machine.execRailFault s
  | .clockFault => Sys2Proof.Machine.execClockFault s
  | .clusterPowerOff cluster => Sys2Proof.Machine.execClusterPowerOff cluster s
  | .junctionSample temps => Sys2Proof.Machine.execJunctionSample temps s
  | .tripPowerOff => Sys2Proof.Machine.execTripPowerOff s
  | .wearThresholdCross mon part count => Sys2Proof.Machine.execWearThresholdCross mon part count s
  | .lpmBankSubstitute => Sys2Proof.Machine.execLpmBankSubstitute s
  | .cipherUnitSubstitute => Sys2Proof.Machine.execCipherUnitSubstitute s
  | .rowRemap => Sys2Proof.Machine.execRowRemap s
  | .ledgerWrite => Sys2Proof.Machine.execLedgerWrite s
  | .tapReset => Sys2Proof.Machine.execTapReset s
  | .bypass => Sys2Proof.Machine.execBypass s
  | .idcode => Sys2Proof.Machine.execIdcode s
  | .samplePreload preload => Sys2Proof.Machine.execSamplePreload preload s
  | .extest => Sys2Proof.Machine.execExtest s
  | .gygarWord word => Sys2Proof.Machine.execGygarWord word s
  | .challenge => Sys2Proof.Machine.execChallenge s
  | .auth sigOk => Sys2Proof.Machine.execAuth sigOk s
  | .close => Sys2Proof.Machine.execClose s
  | .status => Sys2Proof.Machine.execStatus s
  | .halt => Sys2Proof.Machine.execHalt s
  | .resume => Sys2Proof.Machine.execResume s
  | .step => Sys2Proof.Machine.execStep s
  | .threadReset => Sys2Proof.Machine.execThreadReset s
  | .bpSet => Sys2Proof.Machine.execBpSet s
  | .wpSet => Sys2Proof.Machine.execWpSet s
  | .read => Sys2Proof.Machine.execRead s
  | .write => Sys2Proof.Machine.execWrite s
  | .sessionIdleTimeout => Sys2Proof.Machine.execSessionIdleTimeout s
  | .lockoutEnd => Sys2Proof.Machine.execLockoutEnd s
  | .reg64HighRead port sp off => Sys2Proof.Machine.execReg64HighRead port sp off s
  | .configurationWrite port fn what => Sys2Proof.Machine.execConfigurationWrite port fn what s
  | .linkPowerStateChange port change => Sys2Proof.Machine.execLinkPowerStateChange port change s
  | .stalledInstructionEnd core thread ecc lm => Sys2Proof.Machine.execStalledInstructionEnd core thread ecc lm s
  | .tcpRetransmissionTimeout att => Sys2Proof.Machine.execTcpRetransmissionTimeout att s
  | .unscheduledTransmission conn => Sys2Proof.Machine.execUnscheduledTransmission conn s

end Sys2Proof.Machine
end

