-- ==== Sys2Proof/Safety.lean ====
section
/-! DEFINITION. What a safe run keeps: the canonical form of the four memories, generations that are never zero, the
queue and the time under a command, and anti-rollback counters that never fall. -/
namespace Sys2Proof.Machine

/-- The buffer store, the system region, the local memories and the image slots are in canonical form. -/
def State.memOk (s : State) : Prop :=
  memWf s.mere = true ∧ memWf s.sysmem = true ∧ memWf s.lmem = true ∧ memWf s.fwmem = true

/-- No generation is 0x00: the value 0x00 is never issued (R60). -/
def State.gensOk (s : State) : Prop := ∀ x ∈ s.gens, x.2 ≠ 0

/-- The invariant of every step. -/
def State.Inv (s : State) : Prop := s.memOk ∧ s.gensOk

/-- No anti-rollback counter of `t` is below that of `s` (R454). -/
def rollbackLe (s t : State) : Prop :=
  ∀ k, s.fuses.rollback.getD k 0 ≤ t.fuses.rollback.getD k 0

/-- What a command keeps: the queue, the time, the invariant, and anti-rollback counters that do not fall. -/
structure Kept (s t : State) : Prop where
  pending : t.pending = s.pending
  clk : t.clk = s.clk
  mem : s.memOk → t.memOk
  gens : s.gensOk → t.gensOk
  rollback : rollbackLe s t

/-- The outcome is a next state that keeps all that. -/
def KeptO (s : State) : Host.Outcome State Fault Refusal → Prop
  | .next t => Kept s t
  | .fault _ => False
  | .refused _ => False

/-! ### When a command has its own effect -/

/-- A write to PF0 BAR0 of a port takes effect: the link is up, Memory Space Enable is set, neither a fatal event nor the
fatal sequencer nor recovery discards it, and the port is the management port where R50 asks for it (R51, R87, R429,
R433, R458). -/
abbrev RegOpen (s : State) (p : HostPort) (mgmt : Bool) : Prop :=
  linkUp s p = true ∧ (fnOf s p .pf0).mse = true ∧ s.lk.st ≠ .fatal ∧ s.lk.st ≠ .lrs ∧ s.boot.recovery = false ∧
    (mgmt = true → p.val = mgmtPort s)

/-- A read of PF0 BAR0 of a port takes effect (R87, R433, R458). -/
abbrev ReadOpen (s : State) (p : HostPort) : Prop :=
  linkUp s p = true ∧ (fnOf s p .pf0).mse = true ∧ s.lk.st ≠ .lrs ∧ s.boot.recovery = false

/-- A configuration request to a function of a port is served: the link is up, the port is ready and no FLR of the function
runs (R89). -/
abbrev CfgOpen (s : State) (p : HostPort) (f : Fn) : Prop :=
  linkUp s p = true ∧ (hpOf s p.val).ready = true ∧ (fnOf s p.val f).flr = none

/-- No interrupt of a port is held or due: no vector is pending, the alert source is off and INTA is not asserted (R92 to
R94). -/
abbrev NoInterrupt (s : State) (p : Nat) : Prop :=
  (fnOf s p .pf0).vpend = [] ∧ (fnOf s p .pf1).vpend = [] ∧ (hpOf s p).alertHeld = false ∧ (hpOf s p).alert = false ∧
    intxPending s p = false ∧ (hpOf s p).intaOn = false ∧ (hpOf s p).f0.intStatus = false

/-- The admin queue of a port is executing entry `e` of opcode `op`, which waits for nothing and whose handle is not stale,
on a running device (R61, R99, R144). -/
abbrev AdminCmd (s : State) (p op : Nat) (e : Entry) : Prop :=
  (hpOf s p).aq.cur = some e ∧ opOf e = op ∧ (hpOf s p).aq.wait = none ∧ running s = true ∧
    objStale s e = false ∧ fenced s e = false

/-- Nothing is in progress on the device: no queue, job, tenant, transfer, context, connection, ring or frame exists. -/
abbrev NoWork (s : State) : Prop :=
  s.sqs = [] ∧ s.cqs = [] ∧ s.eqs = [] ∧ s.jobs = [] ∧ s.tens = [] ∧ s.xfers = [] ∧ s.reads = [] ∧ s.sreads = [] ∧
    s.wreqs = [] ∧
    s.ls.ctxs = [] ∧ s.tl.rings = [] ∧ s.conns = [] ∧ s.hostq = []

/-- Job `uid` is started, has opcode `op` and has not been executed yet, on a running device (R104). -/
abbrev JobReady (s : State) (uid op : Nat) (j : Job) : Prop :=
  mget? s.jobs uid = some j ∧ j.op = op ∧ j.fresh = true ∧ running s = true

/-- The mailbox of a port is BUSY with a command of opcode `op` whose header is good, its turn has come, and the Lockkeeper
works; a management command is on the management port (R423, R425 to R427). -/
abbrev MbReady (s : State) (p op : Nat) (mgmt : Bool) : Prop :=
  lkRuns s = true ∧ s.lk.st ≠ .resetting ∧ mbNow s = some p ∧ (mbOf s p).orphans = [] ∧ mbRefuse s (mbOf s p) = none ∧
    (mbOf s p).st = .busy ∧ bitsOf (mbWord (mbOf s p) 0x100) 7 0 = op ∧ (mgmt = true → p = mgmtPort s)

/-- What a table command written to FW_CMD does: its result code, its position, its words, and the state (R212, R213). -/
abbrev fwRun (s : State) (w : Nat) : FwRes :=
  let r := (regStore s F.FW_CMD_OP.off 0 w).1
  tableOp r (bitsOf w 10 8) (bitsOf w 3 0) (fwData r) (rd r F.FW_INDEX_INDEX) (bitOf w 11)

/-- Thread `n` of core `c`, in state `th`, issues instruction `i` of kind `op` now: it may issue, it is at no breakpoint or a
STEP passes it, and the word at its PC lies in the code, can be read and is that instruction (R249, R266, R274, R475). -/
abbrev Issues (s : State) (c n : Nat) (op : FcOp) (th : Thr) (i : FcI) : Prop :=
  mayIssue s c n = true ∧ thrOf s c n = th ∧ (th.stepping = true ∨ bpHit s c n = none) ∧
    4 * th.pc + 4 ≤ codeLen s (coreOf s c).image ∧ badFetch s c th.pc = false ∧
    fcDecode (codeWord s (coreOf s c).image th.pc) = some i ∧ i.op = op

/-- The commands that stand for an acting edge of Fabric Time; one that comes with the edge lets its PCLK pass (R39, R44;
log entry 2). -/
def isEdge : Instr → Bool
  | .epochPulse _ | .rulesetActivationEdge _ | .calSwap _ | .keyRolloverEdge _ | .snapshotScheduleEdge => true
  | _ => false

end Sys2Proof.Machine
end

