-- ==== Sys2Proof/Certificates/Slice0/Obligations.lean ====
section
/-! DEFINITION. The statements for the provers. A statement about a command says, for every state and operands that meet
its hypotheses, which next state exec answers: what it holds, and by an equation of the form t = { s with … } that every
other field of the state is as before. -/
open Sys2Proof Sys2Proof.Machine

/-- FT unit commands: ENABLE, RESTART, TOD_ARM and the latching reads. Where the write or read reaches the
register: FT_ENABLE leaves UNSET for ACQUIRE with the valid source that MODE selects; clearing ENABLE returns to
UNSET and cancels every armed event; RESTART does so and acquires again; TOD_ARM waits in UNSET and ACQUIRE and
sets TOD_IGN in LOCKED; the reads of FT_NOW_0 and FT_EPOCH_LO answer one word and latch the others. Every other
field keeps its value. (R33, R46, R50) -/
def Obligations.FabricTimeUnitCommands : Prop :=
  -- FT_ENABLE with a valid source
  (∀ (p : HostPort) (s : State),
    RegOpen s p true →
    s.ft.st = .unset →
    chooseSrc s ≠ 0 →
    ∃ t, exec (.ftEnable p) s = .next t ∧
      t.ft = { s.ft with st := .acquire, src := chooseSrc s, good := 0, todDone := false, slew := 0 } ∧
      rd t F.FT_CTRL_ENABLE = 1 ∧ t = { wr s F.FT_CTRL_ENABLE 0 0 1 with ft := t.ft }) ∧
  -- FT_ENABLE with none
  (∀ (p : HostPort) (s : State),
    RegOpen s p true →
    s.ft.st = .unset →
    chooseSrc s = 0 →
    ∃ t, exec (.ftEnable p) s = .next t ∧ rd t F.FT_CTRL_ENABLE = 1 ∧ t = wr s F.FT_CTRL_ENABLE 0 0 1) ∧
  -- FT_ENABLE_CLEAR with nothing armed
  (∀ (p : HostPort) (s : State),
    RegOpen s p true →
    s.armed = [] →
    ∃ t, exec (.ftEnableClear p) s = .next t ∧
      t.ft = { s.ft with st := .unset, src := 0, good := 0, slew := 0, todDone := false } ∧
      rd t F.FT_CTRL_ENABLE = 0 ∧
      t = { wr s F.FT_CTRL_ENABLE 0 0 0 with
          ft := t.ft, ls := { s.ls with ctxs := mmap (fun _ x => { x with armed := none }) s.ls.ctxs } }) ∧
  -- FT_ENABLE_CLEAR with events armed
  (∀ (p : HostPort) (s : State),
    RegOpen s p true →
    s.armed ≠ [] →
    s.lk.intake.length < 256 →
    ∃ t, exec (.ftEnableClear p) s = .next t ∧ t.ft.st = .unset ∧ t.armed = [] ∧
      (t.lk.intake.map (·.code)) = s.lk.intake.map (·.code) ++ [evCode .ftEventCancelled] ∧
      t = { wr s F.FT_CTRL_ENABLE 0 0 0 with
          ft := t.ft, ls := { s.ls with ctxs := mmap (fun _ x => { x with armed := none }) s.ls.ctxs }, armed := [],
          lk := { s.lk with intake := t.lk.intake } }) ∧
  -- RESTART with a valid source
  (∀ (p : HostPort) (s : State),
    RegOpen s p true →
    s.armed = [] →
    rd s F.FT_CTRL_ENABLE = 1 →
    chooseSrc s ≠ 0 →
    ∃ t, exec (.restart p) s = .next t ∧
      t.ft = { s.ft with st := .acquire, src := chooseSrc s, good := 0, slew := 0, todDone := false } ∧
      t = { s with ft := t.ft, ls := { s.ls with ctxs := mmap (fun _ x => { x with armed := none }) s.ls.ctxs } }) ∧
  -- TOD_ARM in UNSET and ACQUIRE
  (∀ (p : HostPort) (s : State),
    RegOpen s p true →
    s.ft.st = .unset ∨ s.ft.st = .acquire →
    exec (.todArm p) s = .next { s with ft := { s.ft with todPending := true } }) ∧
  -- TOD_ARM in the other states
  (∀ (p : HostPort) (s : State),
    RegOpen s p true →
    s.ft.st = .locked ∨ s.ft.st = .holdover ∨ s.ft.st = .relock →
    ∃ t, exec (.todArm p) s = .next t ∧ rd t F.FT_STATUS_TOD_IGN = 1 ∧ t = wr s F.FT_STATUS_TOD_IGN 0 0 1) ∧
  -- FT_NOW_READ
  (∀ (p : HostPort) (s : State),
    ReadOpen s p →
    exec (.ftNowRead p) s = .next { s with
        ft := { s.ft with nowLatch := (fullTs s).drop 1 }, out := .readData p [ftNs s % 1000000000] :: s.out }) ∧
  -- FT_EPOCH_READ
  (∀ (p : HostPort) (s : State),
    ReadOpen s p →
    exec (.ftEpochRead p) s = .next { s with
        ft := { s.ft with epochLatch := some (epochNo s / 2 ^ 32) },
        out := .readData p [epochNo s % 2 ^ 32] :: s.out })

/-- What 1588 messages and PTM dialogues change. A two-step Sync is noted with its arrival at its port; its
Follow_Up completes it; path delays are half the round trip, from the message of the same sequence and port;
requests are answered with the time at which they arrived, and what is sent counts as a frame of the port; a beacon
whose QUALITY is not LOCKED is no sample, and a LOCKED one in use gives the offset; a failed PTM dialogue raises
FT_PTM_FAIL and writes nothing; one that succeeds writes SEQ odd, the record, and SEQ even. That a Sync is followed
by the request of the delay mechanism is the model's reading (log entry 12). (R28, R29, R32, R33, R168) -/
def Obligations.FabricTimeMessages : Prop :=
  -- SYNC_RX in two-step mode, peer delay
  (∀ (p : NetPort) (d q a : Nat) (s : State),
    ptpTaken s p.val d = true →
    running s = true →
    beaconPort s p.val = true →
    rd s F.FT_BEACON_DELAY_MECH = 1 →
    exec (.syncRx p d q a none) s = .next (cadd (cadd (cadd { s with
        ft := { s.ft with
            syncWait := mset s.ft.syncWait p.val (q, ((s.ft.count : Int) - a).toNat),
            paths := mset s.ft.paths p.val { mget {} s.ft.paths p.val with
                preq := some (q, (s.ft.count + txLat s p.val * 4096 : Nat)), presp := none } },
        out := .ptp p "Pdelay_Req" [d, q] [] :: s.out } 5 p.val 12 1) 5 p.val 13 (ptpLen "Pdelay_Req" [])) 5 p.val
        14 1)) ∧
  -- FOLLOW_UP_RX of the Sync that waits
  (∀ (p : NetPort) (d q rx : Nat) (b : Beacon) (s : State),
    ptpTaken s p.val d = true →
    mget? s.ft.syncWait p.val = some (q, rx) →
    b.quality ≠ 0 →
    exec (.followUpRx p d q b) s = .next { s with ft := { s.ft with syncWait := mdel s.ft.syncWait p.val } }) ∧
  -- DELAY_REQ_RX
  (∀ (p : NetPort) (d q a : Nat) (s : State),
    ptpTaken s p.val d = true →
    rd s F.FT_BEACON_TX_EN = 1 →
    bitOf (rd s F.FT_BEACON_PORTS_PORTS) p.val = true →
    rd s F.FT_BEACON_DELAY_MECH = 0 →
    running s = true →
    exec (.delayReqRx p d q a) s = .next (cadd (cadd (cadd { s with
        out := .ptp p "Delay_Resp" (d :: q :: ptpTime ((s.ft.count : Int) - a)) [] :: s.out } 5 p.val 12 1) 5 p.val
        13 (ptpLen "Delay_Resp" [])) 5 p.val 14 1)) ∧
  -- DELAY_RESP_RX
  (∀ (p : NetPort) (d q t4 : Nat) (t1 t2 t3 : Int) (s : State),
    ptpTaken s p.val d = true →
    beaconPort s p.val = true →
    rd s F.FT_BEACON_DELAY_MECH = 0 →
    (mget {} s.ft.paths p.val).sync = some (t1, t2) →
    (mget {} s.ft.paths p.val).req = some (q, t3) →
    exec (.delayRespRx p d q t4) s = .next { s with
        ft := { s.ft with
            paths := mset s.ft.paths p.val { mget {} s.ft.paths p.val with
                delay := (t2 - t1 + ((t4 : Int) - t3)) / 2, req := none } } }) ∧
  -- PDELAY_REQ_RX without one-step transmit
  (∀ (p : NetPort) (d q a : Nat) (s : State),
    ptpTaken s p.val d = true →
    running s = true →
    rd s F.FT_BEACON_DELAY_MECH = 1 →
    rd s F.FT_BEACON_ONE_STEP = 0 →
    exec (.pdelayReqRx p d q a) s = .next (cadd (cadd (cadd (cadd (cadd (cadd { s with
        out := .ptp p "Pdelay_Resp_Follow_Up" (d :: q :: ptpTime (s.ft.count + txLat s p.val * 4096 : Nat)) [] ::
            .ptp p "Pdelay_Resp" (d :: q :: ptpTime ((s.ft.count : Int) - a)) [] :: s.out } 5 p.val 12 1) 5 p.val 13 (ptpLen
        "Pdelay_Resp" [])) 5 p.val 14 1) 5 p.val 12 1) 5 p.val 13 (ptpLen "Pdelay_Resp_Follow_Up" [])) 5 p.val 14 1)) ∧
  -- PDELAY_RESP_RX
  (∀ (p : NetPort) (d q a t2 : Nat) (t1 : Int) (s : State),
    ptpTaken s p.val d = true →
    beaconPort s p.val = true →
    rd s F.FT_BEACON_DELAY_MECH = 1 →
    (mget {} s.ft.paths p.val).preq = some (q, t1) →
    exec (.pdelayRespRx p d q a t2 none) s = .next { s with
        ft := { s.ft with
            paths := mset s.ft.paths p.val { mget {} s.ft.paths p.val with
                presp := some ((t2 : Int), (s.ft.count : Int) - a) } } }) ∧
  -- PDELAY_RESP_FOLLOW_UP_RX
  (∀ (p : NetPort) (d q t3 : Nat) (t1 t2 t4 : Int) (s : State),
    ptpTaken s p.val d = true →
    beaconPort s p.val = true →
    rd s F.FT_BEACON_DELAY_MECH = 1 →
    (mget {} s.ft.paths p.val).preq = some (q, t1) →
    (mget {} s.ft.paths p.val).presp = some (t2, t4) →
    exec (.pdelayRespFollowUpRx p d q t3) s = .next { s with
        ft := { s.ft with
            paths := mset s.ft.paths p.val { mget {} s.ft.paths p.val with
                delay := ((t4 - t1) - ((t3 : Int) - t2)) / 2, preq := none, presp := none } } }) ∧
  -- SIGNALING_RX of a beacon that is not LOCKED
  (∀ (p : NetPort) (d a : Nat) (b : Beacon) (s : State),
    ptpTaken s p.val d = true →
    b.quality ≠ 0 →
    exec (.signalingRx p d a b) s = .next s) ∧
  -- SIGNALING_RX of a LOCKED beacon while the in-band source is in use
  (∀ (p : NetPort) (d a : Nat) (b : Beacon) (s : State),
    ptpTaken s p.val d = true →
    beaconPort s p.val = true →
    b.org = Config.orgId ∧ b.orgSub = Config.orgSubtype ∧ b.quality = 0 →
    s.ft.st = .locked →
    rd s F.FT_CTRL_ENABLE = 1 →
    rd s F.FT_SRC_CTRL_MODE = 1 →
    ∃ t, exec (.signalingRx p d a b) s = .next t ∧ t.ft.st = .locked ∧ t.ft.inbandOk = true ∧
      t.ft.lastBeacon = s.clk ∧ t.ft.src = 2 ∧
      t.ft.offset = (b.origin : Int) + (mget {} s.ft.paths p.val).delay + signed32 (rget s F.FT_ASYM_ASYM.off) - ((s.ft.count
          : Int) - a) ∧
      t.ft.slew = t.ft.offset ∧ t.ft.count = s.ft.count ∧ t = { s with ft := t.ft, free := s.free + 1 }) ∧
  -- PTM_DIALOGUE_END that failed
  (∀ (p : HostPort) (ts : List Nat) (s : State),
    mget? s.ft.ptmOpen p.val = some ts →
    s.lk.intake.length < 256 →
    s.lk.st ≠ .lrs →
    ∃ t, exec (.ptmDialogueEnd p none) s = .next t ∧ t.ft = { s.ft with ptmOpen := mdel s.ft.ptmOpen p.val } ∧
      t.lk.intake.map (·.code) = s.lk.intake.map (·.code) ++ [evCode .ftPtmFail] ∧ t.out = s.out ∧
      t = { s with ft := t.ft, lk := { s.lk with intake := t.lk.intake } }) ∧
  -- PTM_DIALOGUE_END that succeeded, with a record address
  (∀ (p : HostPort) (ts : List Nat) (m d : Nat) (s : State),
    mget? s.ft.ptmOpen p.val = some ts →
    mget 0 s.ft.ptmAddr p.val % 2 = 1 →
    canReq s p.val .pf0 = true →
    ∃ t, exec (.ptmDialogueEnd p (some (m, d))) s = .next t ∧
      t.out.head? = some (.hostWrite p none (mget 0 s.ft.ptmAddr p.val / 32 * 32 + 28) (leBytes 4 (mget 0
          s.ft.ptmSeq p.val + 2)) {}) ∧
      t.out.length = s.out.length + 3 ∧ t = { s with ft := t.ft, out := t.out }) ∧
  -- FOLLOW_UP_RX with a LOCKED beacon while the in-band source is in use
  (∀ (p : NetPort) (d q rx : Nat) (b : Beacon) (s : State),
    ptpTaken s p.val d = true →
    mget? s.ft.syncWait p.val = some (q, rx) →
    beaconPort s p.val = true →
    b.org = Config.orgId ∧ b.orgSub = Config.orgSubtype ∧ b.quality = 0 →
    s.ft.st = .locked →
    rd s F.FT_CTRL_ENABLE = 1 →
    rd s F.FT_SRC_CTRL_MODE = 1 →
    ∃ t, exec (.followUpRx p d q b) s = .next t ∧ t.ft.st = .locked ∧ t.ft.inbandOk = true ∧
      t.ft.lastBeacon = s.clk ∧ t.ft.src = 2 ∧
      t.ft.offset = (b.origin : Int) + (mget {} s.ft.paths p.val).delay + signed32 (rget s F.FT_ASYM_ASYM.off) - rx
          ∧
      t.ft.slew = t.ft.offset ∧ t.ft.count = s.ft.count ∧ t.ft.syncWait = mdel s.ft.syncWait p.val ∧
      t = { s with ft := t.ft, free := s.free + 1 })

/-- PPS edges and the loss of Fabric Time sources. A PPS edge while the unit is disabled makes PPS valid, and
FT_REF_IN where it shows edges, and takes the settings written; with FT_REF_IN valid and a pending TOD_ARM it loads
FT_TOD in ACQUIRE. FT_REF_IN or PPS lost in LOCKED with no other source: FT_REF_LOST, then HOLDOVER with
FT_HOLDOVER_ENTER. Beacons lost: FT_INBAND_LOST. FT_HOLDOVER_LONG is raised once HOLD_LIMIT is reached. (R33, R34)
-/
def Obligations.FabricTimeSourcesLost : Prop :=
  -- PPS_EDGE while ENABLE is clear
  (∀ (r : Bool) (s : State),
    s.lk.st ≠ .lrs →
    rd s F.FT_CTRL_ENABLE = 0 →
    s.ft.src = 0 →
    exec (.ppsEdge r) s = .next { s with
        ft := { s.ft with
            ppsOk := true, refOk := s.ft.refOk || r, lastPps := s.clk,
            lastRef := if r = true then s.clk else s.ft.lastRef, effSrc := rget s F.FT_SRC_CTRL_MODE.off,
            effLoop := rget s F.FT_LOOP_BW.off, effLoss := rget s F.FT_LOSS_REF_LOSS.off,
            effPpsDelay := rget s F.FT_PPS_DELAY_DELAY.off } }) ∧
  -- PPS_EDGE with a pending TOD_ARM in ACQUIRE
  (∀ (s : State),
    s.lk.st ≠ .lrs →
    rd s F.FT_CTRL_ENABLE = 1 →
    s.ft.st = .acquire →
    s.ft.todPending = true →
    rd s F.FT_SRC_CTRL_MODE = 0 →
    rget s F.FT_PPS_DELAY_DELAY.off = 0 →
    ∃ t, exec (.ppsEdge true) s = .next t ∧
      t.ft.count = (rget s F.FT_TOD_LO_SEC_LO.off + bitsOf (rget s F.FT_TOD_HI_SEC_HI.off) 15 0 * 2 ^ 32) *
          1000000000 * 65536 ∧
      t.ft.todPending = false ∧ t.ft.todDone = true ∧ t.ft.src = 1 ∧ t = { s with ft := t.ft }) ∧
  -- REF_LOSS_EXPIRE in LOCKED without another source
  (∀ (s : State),
    s.lk.st ≠ .lrs →
    s.ft.refOk = true →
    s.ft.ppsOk = true →
    s.ft.st = .locked →
    rd s F.FT_CTRL_ENABLE = 1 →
    s.ft.inbandOk = false →
    s.lk.intake.length < 255 →
    s.clk ≥ s.ft.lastRef + bitsOf s.ft.effLoss 7 0 * (if bitOf s.ft.effSrc 2 = true then 6400 else 100000) →
    ∃ t, exec .refLossExpire s = .next t ∧
      t.ft = { s.ft with
          refOk := false, st := .holdover, src := 0, slew := 0,
          freq := freqMean (s.ft.freqs.take (bitsOf s.ft.effLoop 23 16)) } ∧
      t.lk.intake.map (·.code) = s.lk.intake.map (·.code) ++ [evCode .ftRefLost, evCode .ftHoldoverEnter] ∧
      t = { s with ft := t.ft, lk := { s.lk with intake := t.lk.intake } }) ∧
  -- PPS_LOSS_EXPIRE while the external inputs are not in use
  (∀ (s : State),
    s.lk.st ≠ .lrs →
    s.ft.ppsOk = true →
    s.ft.refOk = false →
    rd s F.FT_CTRL_ENABLE = 0 →
    s.clk ≥ s.ft.lastPps + msec (100 * bitsOf (s.ft.effLoss) 15 8) →
    exec .ppsLossExpire s = .next { s with ft := { s.ft with ppsOk := false } }) ∧
  -- BEACON_LOSS_EXPIRE
  (∀ (s : State),
    s.lk.st ≠ .lrs →
    s.ft.inbandOk = true →
    rd s F.FT_CTRL_ENABLE = 0 →
    s.clk ≥ s.ft.lastBeacon + bitsOf (s.ft.effLoss) 25 16 * 1048576000 →
    s.lk.intake.length < 256 →
    ∃ t, exec .beaconLossExpire s = .next t ∧ t.ft = { s.ft with inbandOk := false } ∧
      t.lk.intake.map (·.code) = s.lk.intake.map (·.code) ++ [evCode .ftInbandLost] ∧
      t = { s with ft := t.ft, lk := { s.lk with intake := t.lk.intake } }) ∧
  -- FT_HOLDOVER_LONG
  (∀ (s : State),
    s.ft.st = .holdover →
    s.ft.longRaised = false →
    (s.clk - s.ft.lastSample) / 1000000000000 ≥ rd s F.FT_HOLD_POLICY_HOLD_LIMIT →
    s.lk.intake.length < 256 →
    s.lk.st ≠ .lrs →
    ∃ t, exec .ftHoldoverLong s = .next t ∧ t.ft = { s.ft with longRaised := true } ∧
      t.lk.intake.map (·.code) = s.lk.intake.map (·.code) ++ [evCode .ftHoldoverLong] ∧
      t = { s with ft := t.ft, lk := { s.lk with intake := t.lk.intake } })

/-- Host port: PERST#, training, readiness, power states and tags. PERST_RELEASE of a present port starts training;
training ends in L0 in Flit Mode or in Detect with NO_FLIT and its event; after 100 ms training is tried again; a
port that is out of reset becomes ready; an FLR and a drain end; D3hot entry keeps the overflow timers; the link
power commands change the state they name; a late completion within the guard time is counted and reported, and a
timed-out tag is released after it. Only the port record changes, with the outputs and events named. (R69, R83,
R88, R89, R92) -/
def Obligations.HostPortResetAndLink : Prop :=
  -- PERST_RELEASE after boot
  (∀ (p : HostPort) (s : State),
    (hpOf s p.val).perst = true →
    s.boot.stage > 3 →
    portWidth s p.val ≠ 0 →
    exec (.perstRelease p) s = .next (emit (modHp s p.val fun h => { h with
        perst := false, ltssm := .polling, noFlit := false }) (.link p "training"))) ∧
  -- HOST_LINK_TRAINED in Flit Mode
  (∀ (p : HostPort) (w : Fin 17) (v : Fin 8) (s : State),
    training s p.val = true →
    Machine.widthOk s p.val w.val = true →
    v.val ≠ 0 →
    NoInterrupt s p.val →
    ∃ t, exec (.hostLinkTrained p true w v) s = .next t ∧
      hpOf t p.val = { hpOf s p.val with
          ltssm := .l0, l0p := none, width := w.val, speed := v.val, noFlit := false } ∧
      t = { s with hp := mset s.hp p.val (hpOf t p.val) }) ∧
  -- HOST_LINK_TRAINED without Flit Mode
  (∀ (p : HostPort) (w : Fin 17) (v : Fin 8) (s : State),
    training s p.val = true →
    s.lk.intake.length < 256 →
    s.lk.st ≠ .lrs →
    ∃ t, exec (.hostLinkTrained p false w v) s = .next t ∧
      hpOf t p.val = { hpOf s p.val with
          ltssm := .detect, width := 0, speed := 0, noFlit := true, noFlitAt := s.clk } ∧
      t.lk.intake.map (·.code) = s.lk.intake.map (·.code) ++ [evCode .hlNoFlit] ∧
      t = { s with hp := mset s.hp p.val (hpOf t p.val), lk := { s.lk with intake := t.lk.intake } }) ∧
  -- NO_FLIT_RETRY
  (∀ (p : HostPort) (s : State),
    (hpOf s p.val).noFlit = true →
    (hpOf s p.val).ltssm = .detect →
    (hpOf s p.val).perst = false →
    s.clk ≥ (hpOf s p.val).noFlitAt + msec 100 →
    exec (.noFlitRetry p) s = .next (modHp s p.val fun h => { h with ltssm := .polling })) ∧
  -- PORT_READY
  (∀ (p : HostPort) (s : State),
    (hpOf s p.val).perst = false →
    (hpOf s p.val).ltssm ≠ .hotReset →
    running s = true →
    exec (.portReady p) s = .next (modHp s p.val fun h => { h with ready := true })) ∧
  -- FLR_COMPLETE
  (∀ (p : HostPort) (f : Fn) (s : State),
    ∃ t, exec (.flrComplete p f) s = .next t ∧ (fnOf t p.val f).flr = none ∧
      t = { s with hp := mset s.hp p.val (hpOf t p.val) }) ∧
  -- FUNCTION_DRAIN_END once nothing is outstanding
  (∀ (p : HostPort) (f : Fn) (s : State),
    (fnOf s p.val f).drain.isSome = true →
    fnDraining s p.val f = false →
    exec (.functionDrainEnd p f) s = .next (modFn s p.val f fun g => { g with drain := none })) ∧
  -- D3HOT_ENTRY
  (∀ (p : HostPort) (f : Fn) (s : State),
    CfgOpen s p f →
    (fnOf s p.val f).d3 = false →
    s.cqs = [] →
    s.sqs = [] →
    exec (.d3hotEntry p f) s = .next (modFn s p.val f fun g => { g with d3 := true })) ∧
  -- LINK_POWER_STATE_CHANGE into L1 or L1.1
  (∀ (p : HostPort) (b : Bool) (s : State),
    (hpOf s p.val).ltssm = .l0 →
    b = true → (hpOf s p.val).f0.l11En = true →
    exec (.linkPowerStateChange p (.enterL1 b)) s = .next (modHp s p.val fun h => { h with
        ltssm := .l1, l11 := b, l0p := none })) ∧
  -- LINK_POWER_STATE_CHANGE into L0p
  (∀ (p : HostPort) (w : Fin 17) (s : State),
    (hpOf s p.val).ltssm = .l0 →
    2 ≤ w.val ∧ w.val < (hpOf s p.val).width →
    w.val = 2 ∨ w.val = 4 ∨ w.val = 8 →
    exec (.linkPowerStateChange p (.enterL0p w)) s = .next (modHp s p.val fun h => { h with l0p := some w.val })) ∧
  -- LATE_CPL within the guard time, at the non-fatal severity with nothing masked and no header held
  (∀ (p : HostPort) (g : Fin 16384) (till : Nat) (f : Fn) (s : State),
    (hpOf s p.val).lateTags.find? (·.1 = g.val) = some (g.val, till, f) →
    s.clk < till →
    s.lk.intake.length < 256 →
    (fnOf s p.val f).aer.uncSev.getLsbD 16 = false →
    (fnOf s p.val f).aer.uncMask.getLsbD 16 = false →
    (fnOf s p.val f).aer.corMask.getLsbD 13 = false →
    (fnOf s p.val f).aer.first = none →
    s.lk.st ≠ .lrs →
    ∃ t, exec (.lateCpl p g) s = .next t ∧ (hpOf t p.val).lateCnt = satInc 65535 (hpOf s p.val).lateCnt ∧
      (fnOf t p.val f).aer.corSta.getLsbD 13 = true ∧ (fnOf t p.val f).aer.uncSta.getLsbD 16 = true ∧
      (fnOf t p.val f).aer.first = some 16 ∧ t.out = .errMsg p f .cor .advisoryNonFatal :: s.out ∧
      t.lk.intake.map (·.code) = s.lk.intake.map (·.code) ++ [evCode .hlLateCpl] ∧
      t = { s with
          hp := mset s.hp p.val (hpOf t p.val), out := t.out, free := s.free + 1,
          lk := { s.lk with intake := t.lk.intake } }) ∧
  -- TAG_RELEASE of the only tag, after its guard time
  (∀ (p : HostPort) (g : Fin 16384) (till : Nat) (f : Fn) (s : State),
    (hpOf s p.val).lateTags = [(g.val, till, f)] →
    till ≤ s.clk →
    ∃ t, exec (.tagRelease p g) s = .next t ∧ hpOf t p.val = { hpOf s p.val with lateTags := [] } ∧
      t = { s with hp := mset s.hp p.val (hpOf t p.val) })

/-- Host port: interrupts and configuration writes. Unmasking a vector that is pending sends its message once, with
the address and data of its table entry, and clears the pending bit; an interrupt-control write takes both bits;
clearing the last alert bit ends the alert source; a configuration write that the port serves changes the named
field of the function, and a reserved completion timeout value is not stored. (R81, R87, R93, R94) -/
def Obligations.HostPortInterruptsAndConfiguration : Prop :=
  -- MSIX_UNMASK of a pending vector
  (∀ (p : HostPort) (v : Fin 2048) (s : State),
    s.lk.st ≠ .lrs →
    linkUp s p.val = true →
    (fnOf s p.val .pf1).mse = true →
    (fnOf s p.val .pf1).vpend = [v.val] →
    (fnOf s p.val .pf1).vopen = [] →
    (fnOf s p.val .pf1).fmask = false →
    (fnOf s p.val .pf1).msixEn = true →
    (fnOf s p.val .pf1).d3 = false →
    running s = true →
    (fnOf s p.val .pf1).bme = true →
    ∃ t, exec (.msixUnmask p .pf1 (some v)) s = .next t ∧ (fnOf t p.val .pf1).vpend = [] ∧
      (fnOf t p.val .pf1).vopen = [v.val] ∧ t.out = msixMsg s p.val .pf1 v.val :: s.out ∧
      t = { s with hp := mset s.hp p.val (hpOf t p.val), out := t.out }) ∧
  -- INTERRUPT_CONTROL_WRITE with nothing pending
  (∀ (p : HostPort) (a b : Bool) (s : State),
    CfgOpen s p .pf0 →
    (fnOf s p.val .pf0).vpend = [] →
    (hpOf s p.val).alertHeld = false →
    ∃ t, exec (.interruptControlWrite p a b) s = .next t ∧ (fnOf t p.val .pf0).msixEn = a ∧
      (fnOf t p.val .pf0).intDis = b ∧ t = { s with hp := mset s.hp p.val (hpOf t p.val), out := t.out }) ∧
  -- LK_ALERT_CLEAR of some bits only
  (∀ (p : HostPort) (v : Word) (s : State),
    linkUp s p.val = true →
    (fnOf s p.val .pf0).mse = true →
    s.lk.st ≠ .lrs →
    rd s F.LK_MB_ALERT_PENDING 0 p.val - Nat.land (rd s F.LK_MB_ALERT_PENDING 0 p.val) (v.toNat % 8) ≠ 0 →
    exec (.lkAlertClear p v) s = .next (wr s F.LK_MB_ALERT_PENDING 0 p.val (rd s F.LK_MB_ALERT_PENDING 0 p.val -
        Nat.land (rd s F.LK_MB_ALERT_PENDING 0 p.val) (v.toNat % 8)))) ∧
  -- CONFIGURATION_WRITE of Bus Master Enable
  (∀ (p : HostPort) (f : Fn) (s : State),
    CfgOpen s p f →
    NoInterrupt s p.val →
    ∃ t, exec (.configurationWrite p f .busMaster) s = .next t ∧
      hpOf t p.val = hpOf (modFn s p.val f fun g => { g with bme := true }) p.val ∧
      t = { s with hp := mset s.hp p.val (hpOf t p.val) }) ∧
  -- CONFIGURATION_WRITE of Memory Space Enable
  (∀ (p : HostPort) (f : Fn) (b : Bool) (s : State),
    CfgOpen s p f →
    NoInterrupt s p.val →
    ∃ t, exec (.configurationWrite p f (.memSpace b)) s = .next t ∧
      hpOf t p.val = hpOf (modFn s p.val f fun g => { g with mse := b }) p.val ∧
      t = { s with hp := mset s.hp p.val (hpOf t p.val) }) ∧
  -- CONFIGURATION_WRITE of a defined completion timeout
  (∀ (p : HostPort) (f : Fn) (v : Fin 16) (s : State),
    CfgOpen s p f →
    NoInterrupt s p.val →
    v.val ∈ [0, 1, 2, 5, 6, 9, 10, 13, 14] →
    ∃ t, exec (.configurationWrite p f (.cplTimeout v)) s = .next t ∧
      hpOf t p.val = hpOf (modFn s p.val f fun g => { g with cplTo := v.val }) p.val ∧
      t = { s with hp := mset s.hp p.val (hpOf t p.val) }) ∧
  -- CONFIGURATION_WRITE of a reserved one
  (∀ (p : HostPort) (f : Fn) (v : Fin 16) (s : State),
    CfgOpen s p f →
    NoInterrupt s p.val →
    v.val ∉ [0, 1, 2, 5, 6, 9, 10, 13, 14] →
    ∃ t, exec (.configurationWrite p f (.cplTimeout v)) s = .next t ∧
      hpOf t p.val = hpOf (modFn s p.val f fun g => g) p.val ∧ t = { s with hp := mset s.hp p.val (hpOf t p.val) }) ∧
  -- CONFIGURATION_WRITE of the vector mask
  (∀ (p : HostPort) (f : Fn) (v : Fin 2048) (s : State),
    linkUp s p.val = true →
    (fnOf s p.val f).mse = true →
    s.lk.st ≠ .lrs →
    exec (.configurationWrite p f (.vecMask v)) s = .next (modFn s p.val f fun g => { g with
        vopen := g.vopen.filter (· ≠ v.val) })) ∧
  -- CONFIGURATION_WRITE of a BAR register: the address bits above the size of the BAR
  (∀ (p : HostPort) (f : Fn) (k : Fin 6) (v : Word) (s : State),
    CfgOpen s p f →
    NoInterrupt s p.val →
    ∃ t, exec (.configurationWrite p f (.bar k v)) s = .next t ∧
      hpOf t p.val = hpOf (modFn s p.val f fun g => { g with bars := msetD 0 g.bars k.val (barWrite f k.val v) })
          p.val ∧
      t = { s with hp := mset s.hp p.val (hpOf t p.val) }) ∧
  -- CONFIGURATION_WRITE of the masks of AER
  (∀ (p : HostPort) (f : Fn) (v : Word) (s : State),
    CfgOpen s p f →
    NoInterrupt s p.val →
    ∃ t, exec (.configurationWrite p f (.uncMask v)) s = .next t ∧
      hpOf t p.val = hpOf (modFn s p.val f fun g => { g with aer := { g.aer with uncMask := v &&& 0x00577010 } })
          p.val ∧
      t = { s with hp := mset s.hp p.val (hpOf t p.val) }) ∧
  -- A configuration read
  (∀ (p : HostPort) (f : Fn) (o : Fin 4096) (s : State),
    CfgOpen s p f →
    exec (.configurationWrite p f (.read o)) s = .next { s with
        out := .readData p [cfgWord s p.val f (o.val / 4 * 4)] :: s.out }) ∧
  -- A request to a port that is not ready
  (∀ (p : HostPort) (f : Fn) (s : State),
    linkUp s p.val = true →
    (hpOf s p.val).ready = false →
    exec (.configurationWrite p f .busMaster) s = .next { s with out := .retry p f :: s.out })

/-- Peer aperture and the window commit. A poisoned peer write changes nothing but logs an error; a request that no
active window allows is refused, counted and reported; in HOLD a request waits in order. WIN_COMMIT starts CHECK; a
shadow set with no fault enters HOLD; the swap exchanges the sets; the end of COPY returns to IDLE; windows of
ended tenants are cleared in IDLE. (R57, R75, R76, R78, R79, R80) -/
def Obligations.PeerWindows : Prop :=
  -- PEER_WRITE that is poisoned
  (∀ (p : HostPort) (r : Fin 65536) (a : Fin 68719476736) (b : List Byte) (s : State),
    linkUp s p.val = true →
    (fnOf s p.val .pf1).mse = true →
    s.lk.st ≠ .lrs →
    (hpOf s p.val).winSt ≠ .hold →
    ∃ t, exec (.peerWrite p r a true b) s = .next t ∧ (fnOf t p.val .pf1).aer.uncSta.getLsbD 12 = true ∧
      t = { s with hp := mset s.hp p.val (hpOf t p.val), out := t.out, free := s.free + 1 }) ∧
  -- PEER_WRITE that no window allows
  (∀ (p : HostPort) (r : Fin 65536) (a : Fin 68719476736) (b : List Byte) (s : State),
    linkUp s p.val = true →
    (fnOf s p.val .pf1).mse = true →
    (hpOf s p.val).winSt ≠ .hold →
    running s = true →
    peerTranslate s p.val r.val a.val b.length true = none →
    exec (.peerWrite p r a false b) s = .next (peerRefuse s p.val true)) ∧
  -- PEER_WRITE into one range of the store: its bytes and no other byte of the store
  (∀ (p : HostPort) (r : Fin 65536) (a : Fin 68719476736) (b : List Byte) (x : Nat) (s : State),
    linkUp s p.val = true →
    (fnOf s p.val .pf1).mse = true →
    (hpOf s p.val).winSt ≠ .hold →
    running s = true →
    peerTranslate s p.val r.val a.val b.length true = some [(x, b.length)] →
    ∃ t, exec (.peerWrite p r a false b) s = .next t ∧
      (∀ i, i < b.length → readByte t.mere (x + i) = b.getD i 0) ∧
      (∀ y, y < x ∨ x + b.length ≤ y → readByte t.mere y = readByte s.mere y) ∧
      t = { s with mere := t.mere, coop := t.coop }) ∧
  -- PEER_READ during HOLD
  (∀ (p : HostPort) (r : Fin 65536) (a : Fin 68719476736) (n : Fin 4097) (e : Ecc) (s : State),
    linkUp s p.val = true →
    (fnOf s p.val .pf1).mse = true →
    s.lk.st ≠ .lrs →
    (hpOf s p.val).winSt = .hold →
    ∃ t, exec (.peerRead p r a n e) s = .next t ∧
      (hpOf t p.val).held = (hpOf s p.val).held ++ [⟨false, a.val, n.val, [], r.val, false, e⟩] ∧ t.out = s.out ∧
      t = { s with hp := mset s.hp p.val (hpOf t p.val) }) ∧
  -- PEER_READ of one range
  (∀ (p : HostPort) (r : Fin 65536) (a : Fin 68719476736) (n : Fin 4097) (e : Ecc) (x : Nat) (s : State),
    linkUp s p.val = true →
    (fnOf s p.val .pf1).mse = true →
    (hpOf s p.val).winSt ≠ .hold →
    running s = true →
    peerTranslate s p.val r.val a.val n.val false = some [(x, n.val)] →
    ∃ t, exec (.peerRead p r a n e) s = .next t ∧
      t.out = .readData p ((storeRead s x n.val).map (·.toNat)) :: s.out ∧ t.mere = s.mere ∧
      t = { storeMeet s x n.val e with out := t.out }) ∧
  -- WIN_COMMIT in IDLE
  (∀ (p : HostPort) (s : State),
    RegOpen s p false →
    (hpOf s p.val).winSt = .idle →
    exec (.winCommit p) s = .next (modHp s p.val fun h => { h with winSt := .check })) ∧
  -- WIN_COMMIT during a commit
  (∀ (p : HostPort) (s : State),
    RegOpen s p false →
    (hpOf s p.val).winSt ≠ .idle →
    exec (.winCommit p) s = .next s) ∧
  -- WIN_CHECK_END without a fault
  (∀ (p : HostPort) (s : State),
    (hpOf s p.val).winSt = .check →
    (∀ w ∈ enabledWins s p.val (1 - actSet s p.val), winFault s p.val (1 - actSet s p.val) w (enabledWins s p.val (1
        - actSet s p.val)) = 0) →
    exec (.winCheckEnd p) s = .next (modHp s p.val fun h => { h with winSt := .hold, holdStart := s.clk })) ∧
  -- WIN_SWAP of equal sets with nothing held
  (∀ (p : HostPort) (s : State),
    (hpOf s p.val).winSt = .hold →
    (hpOf s p.val).held = [] →
    ∃ t, exec (.winSwap p) s = .next t ∧ (hpOf t p.val).winSt = .copy ∧
      (hpOf t p.val).winFlip = !(hpOf s p.val).winFlip ∧
      t = { s with hp := mset s.hp p.val (hpOf t p.val), gens := t.gens }) ∧
  -- WIN_COPY_END
  (∀ (p : HostPort) (s : State),
    (hpOf s p.val).winSt = .copy →
    (hpOf s p.val).winClear = [] →
    ∃ t, exec (.winCopyEnd p) s = .next t ∧ (hpOf t p.val) = { hpOf s p.val with winSt := .idle } ∧
      (∀ w, w < 256 → ∀ o ∈ winOffs, rget t o (winInst p.val (1 - actSet s p.val) w) = rget s o (winInst p.val (actSet
          s p.val) w) ∧ rget t o (winInst p.val (actSet s p.val) w) = rget s o (winInst p.val (actSet s p.val) w)) ∧
      (∀ o i, o < 2 ^ 26 → o ∉ winOffs → rget t o i = rget s o i) ∧
      t = { s with hp := mset s.hp p.val (hpOf t p.val), regs := t.regs }) ∧
  -- TENANT_WINDOWS_CLEAR
  (∀ (p : HostPort) (s : State),
    (hpOf s p.val).winSt = .idle →
    ∃ t, exec (.tenantWindowsClear p) s = .next t ∧ hpOf t p.val = { hpOf s p.val with winClear := [] } ∧
      (∀ i : Fin 512, winEn t (p.val * 512 + i.val) = (winEn s (p.val * 512 + i.val) && !decide (winTenant s (p.val
          * 512 + i.val) ∈ (hpOf s p.val).winClear))) ∧
      (∀ o i, o < 2 ^ 26 → o ≠ F.HL_WIN_CFG_EN.off → rget t o i = rget s o i) ∧
      t = { s with hp := mset s.hp p.val (hpOf t p.val), regs := t.regs })

/-- Resets of a host port and of its functions. With no work in progress: PERST#, a hot reset and a link that goes
down reset both functions, record their cause and leave the link where the rule says; an FLR resets one function
and begins its own time; clearing Bus Master Enable clears it and records the cause; clearing PASID Enable clears
it; a drain ends at 10 ms; the return to D0 leaves D3hot. No host request and no other port changes. (R54, R73,
R87, R88, R89, R91) -/
def Obligations.PortAndFunctionResets : Prop :=
  -- PERST_ASSERT
  (∀ (p : HostPort) (s : State),
    NoWork s →
    (hpOf s p.val).aq.wait = none →
    (hpOf s p.val).perst = false →
    ∃ t, exec (.perstAssert p) s = .next t ∧ (hpOf t p.val).perst = true ∧ (hpOf t p.val).ltssm = .detect ∧
      (hpOf t p.val).ready = false ∧ (hpOf t p.val).width = 0 ∧ fnOf t p.val .pf0 = {} ∧ fnOf t p.val .pf1 = {} ∧
      (hpOf t p.val).aq.active = false ∧ rd t F.HL_RESET_CAUSE_PERST 0 p.val = 1 ∧ t.out = s.out ∧
      (∀ k, ownReg p.val k = false → k % 2 ^ 26 ≠ F.HL_RESET_CAUSE_PERST.off → mget? t.regs k = mget? s.regs k) ∧
      (∀ e : Fin 16, e.val ∉ portEngines s p.val → engOf t e.val = engOf s e.val) ∧
      t = { s with
          hp := mset s.hp p.val (hpOf t p.val), regs := t.regs, cnt := t.cnt, gens := t.gens, lk := t.lk, ft := t.ft,
          wlatch := t.wlatch, rlatch := t.rlatch, engs := t.engs }) ∧
  -- HOT_RESET
  (∀ (p : HostPort) (s : State),
    NoWork s →
    (hpOf s p.val).aq.wait = none →
    linkLive s p.val = true →
    ∃ t, exec (.hotReset p) s = .next t ∧ (hpOf t p.val).perst = false ∧ (hpOf t p.val).ltssm = .hotReset ∧
      (hpOf t p.val).ready = false ∧ fnOf t p.val .pf0 = {} ∧ fnOf t p.val .pf1 = {} ∧
      (hpOf t p.val).aq.active = false ∧ rd t F.HL_RESET_CAUSE_HOT 0 p.val = 1 ∧ t.out = s.out ∧
      (∀ k, ownReg p.val k = false → k % 2 ^ 26 ≠ F.HL_RESET_CAUSE_PERST.off → mget? t.regs k = mget? s.regs k) ∧
      (∀ e : Fin 16, e.val ∉ portEngines s p.val → engOf t e.val = engOf s e.val) ∧
      t = { s with
          hp := mset s.hp p.val (hpOf t p.val), regs := t.regs, cnt := t.cnt, gens := t.gens, lk := t.lk, ft := t.ft,
          wlatch := t.wlatch, rlatch := t.rlatch, engs := t.engs }) ∧
  -- LINK_DOWN
  (∀ (p : HostPort) (s : State),
    NoWork s →
    (hpOf s p.val).aq.wait = none →
    (hpOf s p.val).perst = false →
    (hpOf s p.val).ltssm = .l0 →
    s.lk.intake.length < 256 →
    s.lk.st ≠ .lrs →
    ∃ t, exec (.linkDown p) s = .next t ∧ (hpOf t p.val).ltssm = .polling ∧ (hpOf t p.val).ready = false ∧
      fnOf t p.val .pf0 = {} ∧ fnOf t p.val .pf1 = {} ∧ rd t F.HL_RESET_CAUSE_LINK_DOWN 0 p.val = 1 ∧
      t.lk.intake.map (·.code) = s.lk.intake.map (·.code) ++ [evCode .hlLinkDown] ∧
      (∀ k, ownReg p.val k = false → k % 2 ^ 26 ≠ F.HL_RESET_CAUSE_PERST.off → mget? t.regs k = mget? s.regs k) ∧
      (∀ e : Fin 16, e.val ∉ portEngines s p.val → engOf t e.val = engOf s e.val) ∧
      t = { s with
          hp := mset s.hp p.val (hpOf t p.val), regs := t.regs, cnt := t.cnt, gens := t.gens, lk := t.lk, ft := t.ft,
          wlatch := t.wlatch, rlatch := t.rlatch, engs := t.engs }) ∧
  -- FLR_PF0
  (∀ (p : HostPort) (s : State),
    NoWork s →
    (hpOf s p.val).aq.wait = none →
    CfgOpen s p .pf0 →
    (hpOf s p.val).intaOn = false →
    ∃ t, exec (.flrPf0 p) s = .next t ∧ fnOf t p.val .pf0 = { flr := some s.clk } ∧
      fnOf t p.val .pf1 = fnOf s p.val .pf1 ∧ (hpOf t p.val).ltssm = (hpOf s p.val).ltssm ∧
      (hpOf t p.val).aq.active = false ∧ rd t F.HL_RESET_CAUSE_FLR_PF0 0 p.val = 1 ∧
      (∀ k, ownReg p.val k = false → k % 2 ^ 26 ≠ F.HL_RESET_CAUSE_PERST.off → mget? t.regs k = mget? s.regs k) ∧
      (∀ e : Fin 16, e.val ∉ portEngines s p.val → engOf t e.val = engOf s e.val) ∧
      t = { s with
          hp := mset s.hp p.val (hpOf t p.val), regs := t.regs, cnt := t.cnt, gens := t.gens, lk := t.lk, ft := t.ft,
          wlatch := t.wlatch, rlatch := t.rlatch, engs := t.engs }) ∧
  -- FLR_PF1
  (∀ (p : HostPort) (s : State),
    NoWork s →
    CfgOpen s p .pf1 →
    ∃ t, exec (.flrPf1 p) s = .next t ∧ fnOf t p.val .pf1 = { flr := some s.clk } ∧
      fnOf t p.val .pf0 = fnOf s p.val .pf0 ∧ (hpOf t p.val).aq = (hpOf s p.val).aq ∧
      t = { wr s F.HL_RESET_CAUSE_FLR_PF1 0 p.val 1 with
          hp := mset s.hp p.val (hpOf t p.val), wlatch := t.wlatch, rlatch := t.rlatch, engs := t.engs }) ∧
  -- BME_CLEAR of PF1
  (∀ (p : HostPort) (s : State),
    NoWork s →
    CfgOpen s p .pf1 →
    (fnOf s p.val .pf1).bme = true →
    ∃ t, exec (.bmeClear p .pf1) s = .next t ∧ fnOf t p.val .pf1 = { fnOf s p.val .pf1 with bme := false } ∧
      t = { wr s F.HL_RESET_CAUSE_BME 0 p.val 1 with hp := mset s.hp p.val (hpOf t p.val) }) ∧
  -- BME_CLEAR of PF0: its admin queue ends
  (∀ (p : HostPort) (s : State),
    NoWork s →
    (hpOf s p.val).aq.wait = none →
    CfgOpen s p .pf0 →
    (fnOf s p.val .pf0).bme = true →
    ∃ t, exec (.bmeClear p .pf0) s = .next t ∧ fnOf t p.val .pf0 = { fnOf s p.val .pf0 with bme := false } ∧
      (hpOf t p.val).aq.active = false ∧
      t = { wr (wr s F.QM_AQ_CTRL_ENABLE 0 p.val 0) F.HL_RESET_CAUSE_BME 0 p.val 1 with
          hp := mset s.hp p.val (hpOf t p.val) }) ∧
  -- PASID_ENABLE_CLEAR
  (∀ (p : HostPort) (s : State),
    NoWork s →
    CfgOpen s p .pf1 →
    (hpOf s p.val).f1.pasidEn = true →
    exec (.pasidEnableClear p) s = .next (modFn s p.val .pf1 fun f => { f with pasidEn := false })) ∧
  -- FUNCTION_DRAIN_TIMEOUT with nothing left
  (∀ (p : HostPort) (f : Fn) (t0 : Nat) (s : State),
    NoWork s →
    (fnOf s p.val f).drain = some t0 →
    t0 + msec 10 ≤ s.clk →
    exec (.functionDrainTimeout p f) s = .next (modFn s p.val f fun g => { g with drain := none })) ∧
  -- D0_RETURN
  (∀ (p : HostPort) (f : Fn) (s : State),
    NoWork s →
    CfgOpen s p f →
    (fnOf s p.val f).d3 = true →
    NoInterrupt s p.val →
    ∃ t, exec (.d0Return p f) s = .next t ∧
      hpOf t p.val = hpOf (modFn s p.val f fun g => { g with d3 := false }) p.val ∧
      t = { s with hp := mset s.hp p.val (hpOf t p.val) })

/-- Register space: which writes take effect, and what reads latch. A full 32-bit write from a port that R50 admits
has the effect of its register, a partial one sets GL_ACC_STATUS.PARTIAL, and one from an excluded port is denied,
and no more; GL_SCRATCH takes the word. A request longer than 8 bytes is an Unsupported Request. A read of the low
word of a 64-bit register answers it and latches the high word of the same moment; a read of the high word returns
and empties the latch; after the sequencer reads are Completer Aborts. (R50, R51, R53, R64, R433) -/
def Obligations.RegisterAccesses : Prop :=
  -- REG_WRITE of a full word that the port may write
  (∀ (p : HostPort) (o : Fin 268435456) (v : DWord) (s : State),
    RegOpen s p false →
    excludedBy s p.val (o.val / 4 * 4) = false →
    exec (.regWrite p .unit o false true true v) s = .next (unitWrite s p.val (o.val / 4 * 4) (v.toNat % 2 ^ 32))) ∧
  -- REG_WRITE of GL_SCRATCH
  (∀ (p : HostPort) (v : DWord) (s : State),
    RegOpen s p false →
    exec (.regWrite p .unit 0x20 false true true v) s = .next (rset s F.GL_SCRATCH_VALUE.off p.val (v.toNat % 2 ^ 32))) ∧
  -- REG_WRITE from an excluded port
  (∀ (p : HostPort) (o : Fin 268435456) (v : DWord) (s : State),
    RegOpen s p false →
    excludedBy s p.val (o.val / 4 * 4) = true →
    exec (.regWrite p .unit o false true true v) s = .next (denied s p)) ∧
  -- REG_WRITE of part of a word
  (∀ (p : HostPort) (o : Fin 268435456) (v : DWord) (s : State),
    RegOpen s p false →
    exec (.regWrite p .unit o false false true v) s = .next (wr s F.GL_ACC_STATUS_PARTIAL 0 p.val 1)) ∧
  -- REG_WRITE while Memory Space Enable is clear
  (∀ (p : HostPort) (o : Fin 268435456) (w a b : Bool) (v : DWord) (s : State),
    linkUp s p.val = true →
    (fnOf s p.val .pf0).mse = false →
    ∃ t, exec (.regWrite p .unit o w a b v) s = .next t ∧ (fnOf t p.val .pf0).aer.uncSta.getLsbD 20 = true ∧
      t = { s with hp := mset s.hp p.val (hpOf t p.val), out := t.out, free := s.free + 1 }) ∧
  -- REG_ACCESS_OVERSIZE
  (∀ (p : HostPort) (w : Bool) (s : State),
    linkUp s p.val = true →
    ∃ t, exec (.regAccessOversize p w) s = .next t ∧ (fnOf t p.val .pf0).aer.uncSta.getLsbD 20 = true ∧
      (w = false → t.out.head? = some (.cplErr p true)) ∧
      t = { s with hp := mset s.hp p.val (hpOf t p.val), out := t.out, free := s.free + 1 }) ∧
  -- REG64_LOW_READ of FW counter words: the low word is answered, the high word latched
  (∀ (p : HostPort) (k : Fin 20) (o : Fin 268435456) (s : State),
    ReadOpen s p →
    o.val = 0x700100 + 8 * k.val →
    exec (.reg64LowRead p .unit o false) s = .next { s with
        rlatch := mset s.rlatch (latchKey p.val .pf0 o.val) (BitVec.ofNat 32 (cget s 7 0 k.val / 2 ^ 32)),
        out := .readData p [cget s 7 0 k.val % 2 ^ 32] :: s.out }) ∧
  -- REG64_HIGH_READ returns the latch and empties it
  (∀ (p : HostPort) (k : Fin 20) (o : Fin 268435456) (w : Word) (s : State),
    ReadOpen s p →
    o.val = 0x700104 + 8 * k.val →
    mget? s.rlatch (latchKey p.val .pf0 (o.val - 4)) = some w →
    exec (.reg64HighRead p .unit o) s = .next { s with
        rlatch := mdel s.rlatch (latchKey p.val .pf0 (o.val - 4)), out := .readData p [w.toNat] :: s.out }) ∧
  -- Reads after the last-resort sequencer, but for the LK block
  (∀ (p : HostPort) (o : Fin 268435456) (s : State),
    linkUp s p.val = true →
    (fnOf s p.val .pf0).mse = true →
    s.lk.st = .lrs →
    o.val / 0x100000 ≠ 18 →
    exec (.reg64HighRead p .unit o) s = .next (emit s (.cplErr p false)))

/-- Doorbell scanning, ring fetch and the start of a job. A scan that is due reads the doorbell record; a failed
read changes nothing of the queue; new work advances P_DEV of a HOT queue; an index beyond the ring stops the queue
with DB_RANGE; idle queues cool down; the stretch factor is computed every 16 us; a fetch reads the ring between
the read index and P_DEV; the entries read are decoded and CI advances over them; a failed ring read stops the
queue; a decoded job starts under the current generations. (R105, R111, R114, R115, R116, R117, R124) -/
def Obligations.DoorbellScannerAndRings : Prop :=
  -- DOORBELL_SCAN_DUE
  (∀ (i g : Nat) (q : Sq) (s : State),
    mget? s.sqs i = some q →
    sqLive s i q = true →
    scanPaused s q = false →
    q.dbReading = false →
    q.lastScan + scanPeriod s q ≤ s.clk →
    ownerCanReq s q.port q.owner = true →
    sysTag s q.port = some g →
    ((recentReads s q.port).length + 1) * 1000 * 64000 ≤ scanBudget s q.port →
    exec (.doorbellScanDue i) s = .next { s with
        sqs := mset s.sqs i { q with dbReading := true, lastScan := s.clk },
        hp := mset s.hp q.port { hpOf s q.port with scanReads := s.clk :: recentReads s q.port },
        sreads := mset s.sreads (q.port * 16384 + g) { port := q.port, fn := ownerFn q.owner, what := .doorbell i,
                                                       since := s.clk },
        out := .hostRead (.doorbell i) (asPort q.port) (ownerPasid s q.owner) q.db 8 {} :: s.out }) ∧
  -- DOORBELL_RECORD_READ that failed
  (∀ (i : Nat) (q : Sq) (d : HostData) (k : Nat) (r : SysRead) (s : State),
    mget? s.sqs i = some q →
    q.dbReading = true →
    sqLive s i q = true →
    running s = true →
    d = .error →
    oldestRead s (.doorbell i) = some (k, r) →
    r.drop = false →
    (∀ x ∈ s.slots, x.2.st ≠ .validating ∨ pushSq x.2 ≠ i) →
    exec (.doorbellRecordRead i d) s = .next { s with
        sreads := mdel s.sreads k, sqs := mset s.sqs i { q with dbReading := false } }) ∧
  -- DOORBELL_RECORD_READ of new work for a HOT queue
  (∀ (i : Nat) (q : Sq) (b : List Byte) (k : Nat) (r : SysRead) (s : State),
    mget? s.sqs i = some q →
    q.dbReading = true →
    sqLive s i q = true →
    running s = true →
    q.scan = .hot →
    (hpOf s q.port).aq.abi ≠ 2 ∨ 2 ^ 20 ≤ i ∨ leAt b 7 1 = gen s 1 i →
    b.length = 8 →
    0 < ringFill (leAt b 0 4) q.pdev →
    ringFill (leAt b 0 4) q.pdev < 2 ^ 31 →
    ringFill (leAt b 0 4) q.ci ≤ 2 ^ q.log2 →
    oldestRead s (.doorbell i) = some (k, r) →
    r.drop = false →
    (∀ x ∈ s.slots, x.2.st ≠ .validating ∨ pushSq x.2 ≠ i) →
    exec (.doorbellRecordRead i (.ok b)) s = .next { s with
        sreads := mdel s.sreads k,
        sqs := mset s.sqs i { q with
            dbReading := false, seq := leAt b 4 4, pdev := leAt b 0 4, lastWork := s.clk, idle := 0, idleAt := s.clk } }) ∧
  -- DOORBELL_RECORD_READ beyond the ring: DB_RANGE
  (∀ (i : Nat) (q : Sq) (b : List Byte) (k : Nat) (r : SysRead) (s : State),
    mget? s.sqs i = some q →
    q.dbReading = true →
    sqLive s i q = true →
    running s = true →
    (hpOf s q.port).aq.abi ≠ 2 →
    i < 2 ^ 20 →
    0 < ringFill (leAt b 0 4) q.pdev →
    ringFill (leAt b 0 4) q.pdev < 2 ^ 31 →
    2 ^ q.log2 < ringFill (leAt b 0 4) q.ci →
    mget? s.cqs q.cq = none →
    oldestRead s (.doorbell i) = some (k, r) →
    r.drop = false →
    (∀ x ∈ s.slots, x.2.st ≠ .validating ∨ pushSq x.2 ≠ i) →
    exec (.doorbellRecordRead i (.ok b)) s = .next (raise { s with
        sreads := mdel s.sreads k,
        sqs := mset s.sqs i { q with
            dbReading := false, seq := leAt b 4 4, stopped := true, reason := .dbRange, ents := [], decoded := [] } }
        .qmDbRange (sqHandle s i))) ∧
  -- HOT_IDLE_EXPIRE
  (∀ (i : Nat) (q : Sq) (s : State),
    mget? s.sqs i = some q →
    q.scan = .hot →
    q.pin = false →
    i < 2 ^ 20 →
    usec (16 * rd s F.QM_SCAN_IDLE_HOT_IDLE 0 q.port) ≤ idleNow s q →
    exec (.hotIdleExpire i) s = .next { s with
        sqs := mset s.sqs i { q with scan := .warm, idle := 0, idleAt := s.clk } }) ∧
  -- WARM_IDLE_EXPIRE
  (∀ (i : Nat) (q : Sq) (s : State),
    mget? s.sqs i = some q →
    q.scan = .warm →
    msec (rd s F.QM_SCAN_IDLE_WARM_IDLE 0 q.port) ≤ idleNow s q →
    exec (.warmIdleExpire i) s = .next { s with
        sqs := mset s.sqs i { q with scan := .cold, idle := 0, idleAt := s.clk } }) ∧
  -- STRETCH_COMPUTE where f stays within 16
  (∀ (p : HostPort) (s : State),
    running s = true →
    (hpOf s p.val).stretchAt + usec 16 ≤ s.clk →
    stretchOf s p.val ≤ 16 * 256 →
    exec (.stretchCompute p) s = .next (bumpFree (modHp s p.val fun h => { h with
        stretch := stretchOf s p.val, stretchAt := s.clk }))) ∧
  -- SQ_FETCH with nothing pushed
  (∀ (i g : Nat) (q : Sq) (s : State),
    mget? s.sqs i = some q →
    sqLive s i q = true →
    q.reading = none →
    q.rd ≠ q.pdev →
    stalled s q = false →
    ownerCanReq s q.port q.owner = true →
    sysTag s q.port = some g →
    q.pushed = [] →
    q.ents = [] →
    fetchLen q ≠ 0 →
    exec (.sqFetch i) s = .next { s with
        sqs := mset s.sqs i { q with reading := some (q.rd, fetchLen q) },
        sreads := mset s.sreads (q.port * 16384 + g) { port := q.port, fn := ownerFn q.owner, what := .ring i,
                                                       since := s.clk },
        out := .hostRead (.ring i) (asPort q.port) (ownerPasid s q.owner) (q.ring + q.rd % 2 ^ q.log2 * 64) (64 *
            fetchLen q) { ns := q.noSnoop && (fnOf s q.port (ownerFn q.owner)).nsEn } :: s.out }) ∧
  -- SQ_RING_READ_END that failed
  (∀ (i : Nat) (q : Sq) (k0 n : Nat) (d : HostData) (k : Nat) (r : SysRead) (s : State),
    mget? s.sqs i = some q →
    q.reading = some (k0, n) →
    running s = true →
    sqLive s i q = true →
    i < 2 ^ 20 →
    d = .error →
    mget? s.cqs q.cq = none →
    oldestRead s (.ring i) = some (k, r) →
    r.drop = false →
    exec (.sqRingReadEnd i d) s = .next (raise { s with
        sreads := mdel s.sreads k,
        sqs := mset s.sqs i { q with
            reading := none, stopped := true, reason := .fetchError, ents := [], decoded := [] } } .qmFetchErr (sqHandle
        s i))) ∧
  -- SQ_RING_READ_END of one entry that is a whole job
  (∀ (i : Nat) (q : Sq) (k0 : Nat) (b : List Byte) (e : Entry) (k : Nat) (r : SysRead) (s : State),
    mget? s.sqs i = some q →
    q.reading = some (k0, 1) →
    running s = true →
    sqLive s i q = true →
    i < 2 ^ 20 →
    q.ents = [] →
    q.skip = 0 →
    q.pushed = [] →
    bytesToEntries b 1 = [e] →
    eFirst e = true →
    eLast e = true →
    eCnt e = 1 →
    oldestRead s (.ring i) = some (k, r) →
    r.drop = false →
    exec (.sqRingReadEnd i (.ok b)) s = .next { s with
        sreads := mdel s.sreads k,
        sqs := mset s.sqs i { q with
            reading := none, rd := (k0 + 1) % 2 ^ 32, ci := (q.ci + 1) % 2 ^ 32,
            decoded := q.decoded ++ [⟨[e], false⟩] } }) ∧
  -- JOB_START of a data-path job
  (∀ (i : Nat) (q : Sq) (d : Decoded) (r : List Decoded) (s : State),
    mget? s.sqs i = some q →
    running s = true →
    sqLive s i q = true →
    stalled s q = false →
    i < 2 ^ 20 →
    q.decoded = d :: r →
    q.started = [] →
    0 < q.inflMax →
    jobCheck s q.owner d (d.ents.getD 0 ⟨[]⟩) = none →
    (fnOf s q.port (ownerFn q.owner)).d3 = false →
    exec (.jobStart i) s = .next { s with
        uid := s.uid + 1,
        jobs := mset s.jobs s.uid { sq := i, port := q.port, owner := q.owner, sqGen := gen s 1 i,
                                    tenGen := ownerGen s q.owner, op := opOf (d.ents.getD 0 ⟨[]⟩),
                                    cid := eCid (d.ents.getD 0 ⟨[]⟩), noCpl := bitOf (dw (d.ents.getD 0 ⟨[]⟩) 0) 13,
                                    ents := d.ents },
        sqs := mset s.sqs i { q with decoded := r, started := [s.uid], idle := idleNow s q, idleAt := s.clk } }) ∧
  -- JOB_START of the admin command NOP
  (∀ (p : HostPort) (q : Sq) (d : Decoded) (r : List Decoded) (e : Entry) (s : State),
    mget? s.sqs (admKey p.val) = some q →
    running s = true →
    sqLive s (admKey p.val) q = true →
    stalled s q = false →
    q.decoded = d :: r →
    d.ents = [e] →
    (hpOf s p.val).aq.cur = none →
    (mget? s.cqs (admKey p.val)).map (·.fin) = none →
    d.bad = false →
    headerOk d.ents = true →
    opOf e = 0 →
    bitOf (dw e 0) 13 = false →
    dw e 1 = 0 →
    (fnOf s q.port (ownerFn q.owner)).d3 = false →
    exec (.jobStart (admKey p.val)) s = .next (modHp { s with
        sqs := mset s.sqs (admKey p.val) { q with decoded := r } } p.val fun h => { h with
        aq := { h.aq with cur := some e, wait := none, mute := false } }))

/-- Push slots and the credit word. The first byte into an IDLE slot with credit opens its assembly; beyond the
credits the record is discarded and counted; a write to a page that is not live is counted; a record that passes
the checks is taken at P_DEV and gives its credit back; one that fails them, or times out, is discarded and gives
it back; a REFUSED slot returns to IDLE in silence; the credit word is written with RETURNED and DISCARDED. (R56,
R120, R121, R122, R123) -/
def Obligations.PushWindows : Prop :=
  -- PUSH_SLOT_WRITE of one byte into an IDLE slot
  (∀ (p : HostPort) (n : TenantId) (x : Tenant) (k : Fin 32) (o : Fin 512) (b : Byte) (s : State),
    linkUp s p.val = true →
    (fnOf s p.val .pf1).mse = true →
    running s = true →
    pageLive s p.val n.val = true →
    mget? s.tens n.val = some x →
    mget? s.slots (slotKey n.val k.val) = none →
    busySlots s n.val < x.credits →
    exec (.pushSlotWrite p n k o [b]) s = .next { s with
        slots := mset s.slots (slotKey n.val k.val) { st := .assembling, start := s.clk, since := s.clk,
                                                      bytes := [(o.val, b)] } }) ∧
  -- PUSH_SLOT_WRITE beyond the credits
  (∀ (p : HostPort) (n : TenantId) (x : Tenant) (k : Fin 32) (o : Fin 512) (b : List Byte) (s : State),
    linkUp s p.val = true →
    (fnOf s p.val .pf1).mse = true →
    running s = true →
    pageLive s p.val n.val = true →
    mget? s.tens n.val = some x →
    mget? s.slots (slotKey n.val k.val) = none →
    x.credits ≤ busySlots s n.val →
    exec (.pushSlotWrite p n k o b) s = .next (raiseOnceFor { s with
        slots := mset s.slots (slotKey n.val k.val) { st := .refused, start := s.clk },
        tens := mset s.tens n.val { x with
            overCr := (x.overCr + 1) % 2 ^ 32, discarded := (x.discarded + 1) % 2 ^ 32, creditDirty := true } }
        .qmPushDiscard (tenHandle s n.val) n.val)) ∧
  -- PUSH_SLOT_WRITE to a page that is not live
  (∀ (p : HostPort) (n : TenantId) (x : Tenant) (k : Fin 32) (o : Fin 512) (b : List Byte) (s : State),
    linkUp s p.val = true →
    (fnOf s p.val .pf1).mse = true →
    running s = true →
    pageLive s p.val n.val = false →
    mget? s.tens n.val = some x →
    exec (.pushSlotWrite p n k o b) s = .next { s with
        tens := mset s.tens n.val { x with notLive := (x.notLive + 1) % 2 ^ 32 } }) ∧
  -- PUSH_VALIDATE of a record that passes
  (∀ (n : TenantId) (k : Fin 32) (l : PushSlot) (i m : Nat) (es : List Entry) (s : State),
    mget? s.slots (slotKey n.val k.val) = some l →
    l.st = .validating →
    running s = true →
    pushCheck s n.val l.bytes = some (i, m, es) →
    (∀ y ∈ s.slots, y.1 = slotKey n.val k.val ∨ y.2.st ≠ .validating ∨ pushSq y.2 ≠ pushSq l) →
    exec (.pushValidate n k) s = .next (creditBack (promote (pushTake { s with
        slots := mdel s.slots (slotKey n.val k.val) } i es) i) n.val id)) ∧
  -- PUSH_VALIDATE of a record that fails
  (∀ (n : TenantId) (k : Fin 32) (l : PushSlot) (x : Tenant) (s : State),
    mget? s.slots (slotKey n.val k.val) = some l →
    l.st = .validating →
    running s = true →
    mget? s.tens n.val = some x →
    pushCheck s n.val l.bytes = none →
    (∀ y ∈ s.slots, y.1 = slotKey n.val k.val ∨ y.2.st ≠ .validating ∨ pushSq y.2 ≠ pushSq l) →
    exec (.pushValidate n k) s = .next (raiseOnceFor { s with
        slots := mdel s.slots (slotKey n.val k.val),
        tens := mset s.tens n.val { x with
            invalid := (x.invalid + 1) % 2 ^ 32, returned := (x.returned + 1) % 2 ^ 32,
            discarded := (x.discarded + 1) % 2 ^ 32, creditDirty := true } } .qmPushDiscard (tenHandle s n.val)
        n.val)) ∧
  -- PUSH_ASM_TIMEOUT
  (∀ (n : TenantId) (k : Fin 32) (l : PushSlot) (x : Tenant) (s : State),
    mget? s.slots (slotKey n.val k.val) = some l →
    l.st = .assembling →
    l.start + asmTimeout s n.val ≤ s.clk →
    running s = true →
    mget? s.tens n.val = some x →
    exec (.pushAsmTimeout n k) s = .next (raiseOnceFor { s with
        slots := mdel s.slots (slotKey n.val k.val),
        tens := mset s.tens n.val { x with
            torn := (x.torn + 1) % 2 ^ 32, returned := (x.returned + 1) % 2 ^ 32,
            discarded := (x.discarded + 1) % 2 ^ 32, creditDirty := true } } .qmPushDiscard (tenHandle s n.val)
        n.val)) ∧
  -- PUSH_REFUSED_TIMEOUT
  (∀ (n : TenantId) (k : Fin 32) (l : PushSlot) (s : State),
    mget? s.slots (slotKey n.val k.val) = some l →
    l.st = .refused →
    l.start + asmTimeout s n.val ≤ s.clk →
    running s = true →
    exec (.pushRefusedTimeout n k) s = .next { s with slots := mdel s.slots (slotKey n.val k.val) }) ∧
  -- CREDIT_WORD_WRITE
  (∀ (n : TenantId) (x : Tenant) (s : State),
    mget? s.tens n.val = some x →
    x.creditDirty = true →
    x.creditAddr ≠ 0 →
    ownerCanReq s x.home (some n.val) = true →
    exec (.creditWordWrite n) s = .next { s with
        tens := mset s.tens n.val { x with creditDirty := false },
        out := .hostWrite (asPort x.home) (some x.pasid) x.creditAddr (leBytes 4 x.returned ++ leBytes 4 x.discarded)
            :: s.out })

/-- The admin queue, and the commands that create, query and destroy queues. ENABLE starts the admin queue with the
ABI major of R97, or is refused; clearing it discards what has not started; NOP and DNOP succeed; CREATE_SQ,
CREATE_CQ and CREATE_EQ make a queue of the PF0 with the parameters of the entry and answer its handle; DESTROY_SQ
ends the incarnation and waits for the drain; DESTROY_CQ and DESTROY_EQ free an unused queue; QUEUE_QUERY writes
the query record; SET_SCAN unpins; AQ_BIND_EQ binds; a drained queue is freed. Which free index a new queue gets is
free (log entry 3). (R97, R99, R101, R107, R108, R110, R111, R112, R136) -/
def Obligations.AdminQueueCommands : Prop :=
  -- AQ_ENABLE for the first time
  (∀ (p : HostPort) (a : Nat) (s : State),
    RegOpen s p false →
    running s = true →
    (hpOf s p.val).aq.active = false →
    (hpOf s p.val).f0.bme = true →
    (hpOf s p.val).aq.abi = 0 →
    chooseAbi s (rd s F.QM_AQ_CFG_ABI_MIN 0 p.val) (rd s F.QM_AQ_CFG_ABI_MAX 0 p.val) = some a →
    ∃ t, exec (.aqEnable p) s = .next t ∧
      (hpOf t p.val).aq = { (hpOf s p.val).aq with active := true, abi := a, err := 0 } ∧
      rd t F.QM_AQ_CTRL_ENABLE 0 p.val = 1 ∧
      (mget? t.sqs (admKey p.val)).map (fun q => (q.ci, q.pdev, q.ring)) = some (0, 0, reg64 s
          F.QM_AQ_SQ_LO_ADDR_LO.off F.QM_AQ_SQ_HI_ADDR_HI.off p.val) ∧
      t = { wr s F.QM_AQ_CTRL_ENABLE 0 p.val 1 with
          sqs := t.sqs, cqs := t.cqs, hp := mset s.hp p.val (hpOf t p.val) }) ∧
  -- AQ_ENABLE without Bus Master Enable
  (∀ (p : HostPort) (s : State),
    RegOpen s p false →
    running s = true →
    (hpOf s p.val).aq.active = false →
    (hpOf s p.val).f0.bme = false →
    exec (.aqEnable p) s = .next (modHp (wr s F.QM_AQ_CTRL_ENABLE 0 p.val 0) p.val fun h => { h with
        aq := { h.aq with err := 3 } })) ∧
  -- AQ_DISABLE
  (∀ (p : HostPort) (q : Sq) (s : State),
    RegOpen s p false →
    mget? s.sqs (admKey p.val) = some q →
    exec (.aqDisable p) s = .next { wr s F.QM_AQ_CTRL_ENABLE 0 p.val 0 with
        hp := mset s.hp p.val { hpOf s p.val with aq := { (hpOf s p.val).aq with active := false } },
        sqs := mset s.sqs (admKey p.val) { q with
            ents := [], decoded := [], pushed := [], reading := none, dbReading := false } }) ∧
  -- NOP
  (∀ (p : HostPort) (e : Entry) (s : State),
    AdminCmd s p.val 0x00 e →
    dwZero e 4 15 = true →
    exec (.nop p) s = .next (finishAdmin s p.val .success 0)) ∧
  -- DNOP
  (∀ (u : Nat) (j : Job) (s : State),
    JobReady s u 0x80 j →
    j.ents.all (fun e => dwZero e 4 15) = true →
    exec (.dnop u) s = .next (finishJob { s with jobs := mset s.jobs u { j with fresh := false } } u .success 0)) ∧
  -- CREATE_CQ of the PF0, without an EQ
  (∀ (p : HostPort) (e : Entry) (s : State),
    AdminCmd s p.val 0x03 e →
    dw e 1 = 0 →
    dw e 6 = 0 →
    dw2 e 4 % 64 = 0 →
    4 ≤ bitsOf (dw e 7) 20 16 ∧ bitsOf (dw e 7) 20 16 ≤ 20 →
    bitsOf (dw e 7) 31 21 = 0 →
    bitsOf (dw e 7) 15 0 = 0 →
    dw e 8 < 2 →
    dwZero e 9 15 = true →
    s.cqs.foldl (fun n x => n + x.2.allow) 4096 ≤ 33554432 →
    (pickQueue s).isSome = true →
    ∃ i, pickQueue s = some i ∧
      exec (.createCq p) s = .next (finishAdmin (bumpFree { s with
          cqs := mset s.cqs i { port := p.val, owner := none, ring := dw2 e 4, log2 := bitsOf (dw e 7) 20 16,
                                allow := 4096, eq := none, noSnoop := bitOf (dw e 8) 0 } }) p.val .success (cqHandle
          s i))) ∧
  -- CREATE_EQ of the PF0
  (∀ (p : HostPort) (e : Entry) (s : State),
    AdminCmd s p.val 0x05 e →
    dw e 1 = 0 →
    dw2 e 4 % 64 = 0 →
    4 ≤ bitsOf (dw e 6) 20 16 ∧ bitsOf (dw e 6) 20 16 ≤ 16 →
    bitsOf (dw e 6) 31 21 = 0 →
    bitsOf (dw e 6) 15 11 = 0 →
    1 ≤ bitsOf (dw e 6) 10 0 ∧ bitsOf (dw e 6) 10 0 ≤ 7 →
    1 ≤ dw e 7 ∧ dw e 7 ≤ 4096 →
    dw e 8 ≤ 2000 →
    dwZero e 9 15 = true →
    (pickQueue s).isSome = true →
    ∃ i, pickQueue s = some i ∧
      exec (.createEq p) s = .next (finishAdmin (bumpFree { s with
          eqs := mset s.eqs i { port := p.val, owner := none, ring := dw2 e 4, log2 := bitsOf (dw e 6) 20 16,
                                vec := bitsOf (dw e 6) 10 0, modCount := dw e 7, modTimer := dw e 8 } }) p.val
          .success (eqHandle s i))) ∧
  -- CREATE_SQ of the PF0, not pinned
  (∀ (p : HostPort) (e : Entry) (s : State),
    AdminCmd s p.val 0x01 e →
    dw e 1 = 0 →
    checkQueue s 2 (dw e 8) (cqUse s none p.val) = none →
    dw2 e 4 % 64 = 0 →
    dw2 e 6 % 8 = 0 →
    4 ≤ bitsOf (dw e 9) 20 16 ∧ bitsOf (dw e 9) 20 16 ≤ 16 →
    1 ≤ bitsOf (dw e 9) 12 0 ∧ bitsOf (dw e 9) 12 0 ≤ 4096 →
    bitsOf (dw e 9) 31 21 = 0 →
    bitsOf (dw e 9) 15 13 = 0 →
    dw e 10 = 0 →
    dwZero e 11 15 = true →
    (s.sqs.filter fun x => decide (x.2.cq = hIdx (dw e 8))).foldl (fun n x => n + x.2.inflMax) (bitsOf (dw e 9) 12 0)
        ≤ ((mget? s.cqs (hIdx (dw e 8))).map (·.allow)).getD 0 →
    (pickQueue s).isSome = true →
    ∃ i, pickQueue s = some i ∧
      exec (.createSq p) s = .next (finishAdmin (bumpFree { s with
          sqs := mset s.sqs i { port := p.val, owner := none, ring := dw2 e 4, db := dw2 e 6, cq := hIdx (dw e 8),
                                log2 := bitsOf (dw e 9) 20 16, inflMax := bitsOf (dw e 9) 12 0, scan := .warm,
                                lastScan := s.clk, lastWork := s.clk, idleAt := s.clk } }) p.val .success (sqHandle
          s i))) ∧
  -- DESTROY_SQ of a queue without work
  (∀ (p : HostPort) (e : Entry) (q : Sq) (s : State),
    AdminCmd s p.val 0x02 e →
    dwZero e 4 15 = true →
    mget? s.sqs (hIdx (dw e 1)) = some q →
    q.drain = none →
    jobsOfSq s (hIdx (dw e 1)) = [] →
    exec (.destroySq p) s = .next (adminWait { advGen (dropSys s (ofQueue (hIdx (dw e 1)))) 1 (hIdx (dw e 1)) with
        sqs := mset s.sqs (hIdx (dw e 1)) { q with
            stopped := true, reason := .disabled, drain := some s.clk, ents := [], decoded := [], pushed := [],
            reading := none, dbReading := false, destroyer := some p.val } } p.val "drain" (hIdx (dw e 1)))) ∧
  -- DESTROY_CQ
  (∀ (p : HostPort) (e : Entry) (s : State),
    AdminCmd s p.val 0x04 e →
    dwZero e 4 15 = true →
    (∀ x ∈ s.sqs, x.2.cq ≠ hIdx (dw e 1)) →
    exec (.destroyCq p) s = .next (finishAdmin { advGen (dropSys s (ofQueue (hIdx (dw e 1)))) 1 (hIdx (dw e 1)) with
        cqs := mdel s.cqs (hIdx (dw e 1)) } p.val .success 0)) ∧
  -- DESTROY_CQ with a bound SQ
  (∀ (p : HostPort) (e : Entry) (s : State),
    AdminCmd s p.val 0x04 e →
    dwZero e 4 15 = true →
    (∃ x ∈ s.sqs, x.2.cq = hIdx (dw e 1)) →
    exec (.destroyCq p) s = .next (finishAdmin s p.val .inUse 0)) ∧
  -- DESTROY_EQ
  (∀ (p : HostPort) (e : Entry) (s : State),
    AdminCmd s p.val 0x06 e →
    dwZero e 4 15 = true →
    (∀ x ∈ s.cqs, x.2.eq ≠ some (hIdx (dw e 1))) →
    (hpOf s p.val).aq.eq ≠ some (hIdx (dw e 1)) →
    exec (.destroyEq p) s = .next (finishAdmin (intaUpdate { advGen (dropSys s (ofQueue (hIdx (dw e 1)))) 1 (hIdx (dw
        e 1)) with
        eqs := mdel s.eqs (hIdx (dw e 1)) } p.val) p.val .success 0)) ∧
  -- QUEUE_QUERY
  (∀ (p : HostPort) (e : Entry) (s : State),
    AdminCmd s p.val 0x07 e →
    dwZero e 6 15 = true →
    canReq s p.val .pf0 = true →
    exec (.queueQuery p) s = .next (finishAdmin (emit s (.hostWrite (asPort p.val) none (dw2 e 4) (queryRecord s (hIdx (dw
        e 1))))) p.val .success 0)) ∧
  -- SET_SCAN that unpins
  (∀ (p : HostPort) (e : Entry) (q : Sq) (s : State),
    AdminCmd s p.val 0x08 e →
    mget? s.sqs (hIdx (dw e 1)) = some q →
    dw e 4 = 0 →
    dwZero e 5 15 = true →
    exec (.setScan p) s = .next (finishAdmin { s with sqs := mset s.sqs (hIdx (dw e 1)) { q with pin := false } }
        p.val .success 0)) ∧
  -- AQ_BIND_EQ
  (∀ (p : HostPort) (e : Entry) (s : State),
    AdminCmd s p.val 0x09 e →
    dwZero e 4 15 = true →
    exec (.aqBindEq p) s = .next (finishAdmin { s with
        hp := mset s.hp p.val { hpOf s p.val with
            aq := { (hpOf s p.val).aq with eq := if dw e 1 = 0 then none else some (hIdx (dw e 1)) } } } p.val
        .success 0)) ∧
  -- QUEUE_DRAIN_END of an SQ that DESTROY_SQ waits for
  (∀ (i : Nat) (q : Sq) (n : Nat) (s : State),
    mget? s.sqs i = some q →
    q.drain.isSome = true →
    q.destroyer = some n →
    queueBusy s i = false →
    exec (.queueDrainEnd i) s = .next (finishAdmin { s with
        sqs := mdel s.sqs i, cqs := mdel s.cqs i, eqs := mdel s.eqs i } n .success 0)) ∧
  -- QUEUE_DRAIN_TIMEOUT with one job left
  (∀ (i : Nat) (q : Sq) (d u : Nat) (s : State),
    mget? s.sqs i = some q →
    q.drain = some d →
    d + msec 10 ≤ s.clk →
    jobsOfSq s i = [u] →
    exec (.queueDrainTimeout i) s = .next (freeQueue (cancelJob s u) i))

/-- Completion and event queues. The oldest finished job of a CQ with room is written at the tail with its phase,
and the tail advances; a silent or stale one leaves no write; a head record that passes the checks moves H_DEV, one
that fails is counted; head polls read it; an overflow timeout puts the CQ into OVERRUN; moderation timers make an
EQ due; a due EQ sends its MSI-X message and its round ends. (R62, R102, R127, R128, R130, R133, R136, R138) -/
def Obligations.CompletionsAndEvents : Prop :=
  -- COMPLETION_WRITE
  (∀ (i : Nat) (q : Cq) (c : Cpl) (r : List Cpl) (s : State),
    mget? s.cqs i = some q →
    q.fin = c :: r →
    running s = true →
    q.stopped = false →
    q.overrun = false →
    cplCurrent s q c = true →
    c.silent = false →
    q.spill = [] →
    (fnOf s q.port (ownerFn q.owner)).d3 = false →
    ownerCanReq s q.port q.owner = true →
    ringFill q.tail q.hdev < 2 ^ q.log2 →
    cqEq s i q = none →
    writesStay s q.port (ownerPasid s q.owner) = false →
    exec (.completionWrite i) s = .next (
        let t := leaveWrites (retire { s with cqs := mset s.cqs i { q with fin := r, reread := false } } c) q.port
        { t with
            cqs := mset t.cqs i { q with fin := r, reread := false, tail := (q.tail + 1) % 2 ^ 32 },
            out := .hostWrite (asPort q.port) (ownerPasid s q.owner) (q.ring + q.tail % 2 ^ q.log2 * 32) (cplBytes c (phaseOf
                q.tail q.log2) false) { ns := q.noSnoop && (fnOf s q.port (ownerFn q.owner)).nsEn } :: t.out })) ∧
  -- COMPLETION_WRITE of a completion that writes nothing
  (∀ (i : Nat) (q : Cq) (c : Cpl) (r : List Cpl) (s : State),
    mget? s.cqs i = some q →
    q.fin = c :: r →
    running s = true →
    q.stopped = true ∨ q.overrun = true ∨ cplCurrent s q c = false ∨ c.silent = true →
    exec (.completionWrite i) s = .next { retire s c with cqs := mset s.cqs i { q with fin := r, reread := false } }) ∧
  -- COMPLETION_WRITE with the list in use: it is appended
  (∀ (i : Nat) (q : Cq) (c : Cpl) (r : List Cpl) (s : State),
    mget? s.cqs i = some q →
    q.fin = c :: r →
    running s = true →
    q.stopped = false →
    q.overrun = false →
    cplCurrent s q c = true →
    c.silent = false →
    q.spill ≠ [] →
    exec (.completionWrite i) s = .next { settleCq (retire { s with
        cqs := mset s.cqs i { q with fin := r, reread := false } } c) i with
        cqs := mset s.cqs i { q with fin := r, reread := false, spill := q.spill ++ [c] } }) ∧
  -- HEAD_RECORD_READ of a CQ without a list
  (∀ (i : Nat) (q : Cq) (b : List Byte) (k : Nat) (r : SysRead) (s : State),
    mget? s.cqs i = some q →
    running s = true →
    q.hdReading = true →
    q.stopped = false →
    q.spill = [] →
    headOk q.tail q.hdev q.log2 (leAt b 0 4) (decide (2 ^ 20 ≤ i) || decide ((hpOf s q.port).aq.abi ≠ 2) || decide (leAt
        b 7 1 = gen s 1 i)) = true →
    oldestRead s (.head false i) = some (k, r) →
    r.drop = false →
    q.back = false →
    exec (.headRecordRead false i (.ok b)) s = .next { s with
        sreads := mdel s.sreads k,
        cqs := mset s.cqs i { q with hdReading := false, reread := decide (q.fin ≠ []), hdev := leAt b 0 4 } }) ∧
  -- HEAD_RECORD_READ that failed
  (∀ (i : Nat) (q : Cq) (d : HostData) (k : Nat) (r : SysRead) (s : State),
    mget? s.cqs i = some q →
    running s = true →
    q.hdReading = true →
    q.stopped = false →
    d = .error →
    oldestRead s (.head false i) = some (k, r) →
    r.drop = false →
    q.back = false →
    exec (.headRecordRead false i d) s = .next { s with
        sreads := mdel s.sreads k,
        cqs := mset s.cqs i { q with hdReading := false, reread := decide (q.spill = [] ∧ q.fin ≠ []) } }) ∧
  -- HEAD_RECORD_READ of an EQ
  (∀ (i : Nat) (q : EvQ) (b : List Byte) (k : Nat) (r : SysRead) (s : State),
    mget? s.eqs i = some q →
    running s = true →
    q.hdReading = true →
    q.stopped = false →
    q.pend = [] →
    q.intx = false →
    headOk q.tail q.hdev q.log2 (leAt b 0 4) (decide ((hpOf s q.port).aq.abi ≠ 2) || decide (leAt b 7 1 = gen s 1 i))
        = true →
    oldestRead s (.head true i) = some (k, r) →
    r.drop = false →
    q.back = false →
    exec (.headRecordRead true i (.ok b)) s = .next { s with
        sreads := mdel s.sreads k,
        eqs := mset s.eqs i { q with hdReading := false, fresh := false, hdev := leAt b 0 4 } }) ∧
  -- HEAD_POLL_TICK of a CQ
  (∀ (i g : Nat) (q : Cq) (s : State),
    mget? s.cqs i = some q →
    q.spill ≠ [] →
    q.hdReading = false →
    q.stopped = false →
    q.overrun = false →
    q.polled + headPoll s q.port ≤ s.clk →
    ownerCanReq s q.port q.owner = true →
    sysTag s q.port = some g →
    exec (.headPollTick false i) s = .next { s with
        cqs := mset s.cqs i { q with hdReading := true, polled := s.clk },
        sreads := mset s.sreads (q.port * 16384 + g) { port := q.port, fn := ownerFn q.owner, what := .head false i,
                                                       since := s.clk },
        out := .hostRead (.head false i) (asPort q.port) (ownerPasid s q.owner) (q.ring + 2 ^ q.log2 * 32) 8 {} ::
            s.out }) ∧
  -- HEAD_POLL_TICK of an EQ
  (∀ (i g : Nat) (q : EvQ) (s : State),
    mget? s.eqs i = some q →
    q.pend ≠ [] ∨ q.intx = true →
    q.hdReading = false →
    q.stopped = false →
    q.polled + headPoll s q.port ≤ s.clk →
    ownerCanReq s q.port q.owner = true →
    sysTag s q.port = some g →
    exec (.headPollTick true i) s = .next { s with
        eqs := mset s.eqs i { q with hdReading := true, polled := s.clk },
        sreads := mset s.sreads (q.port * 16384 + g) { port := q.port, fn := ownerFn q.owner, what := .head true i,
                                                       since := s.clk },
        out := .hostRead (.head true i) (asPort q.port) (ownerPasid s q.owner) (q.ring + 2 ^ q.log2 * 16) 8 {} ::
            s.out }) ∧
  -- CQ_OVERFLOW_TIMEOUT of a CQ with no SQ and no EQ
  (∀ (i : Nat) (q : Cq) (d : Nat) (s : State),
    mget? s.cqs i = some q →
    q.timer = some d →
    q.spill ≠ [] →
    d ≤ s.clk →
    i < 2 ^ 20 →
    q.stopped = false →
    running s = true →
    s.sqs = [] →
    q.eq = none →
    exec (.cqOverflowTimeout i) s = .next (raise { s with
        cqs := mset s.cqs i { q with overrun := true, spill := [], timer := none, back := false },
        hp := mset s.hp q.port { hpOf s q.port with overrunCnt := satInc 65535 (hpOf s q.port).overrunCnt } }
        .qmCqOverrun (cqHandle s i))) ∧
  -- EQ_MOD_TIMER_EXPIRE
  (∀ (i : Nat) (q : EvQ) (s : State),
    mget? s.eqs i = some q →
    q.st = .counting →
    q.modTimer ≠ 0 →
    q.start + q.modTimer * 500000 ≤ s.clk →
    exec (.eqModTimerExpire i) s = .next { s with eqs := mset s.eqs i { q with st := .due } }) ∧
  -- EQ_HOLD_EXPIRE
  (∀ (i : Nat) (q : EvQ) (s : State),
    mget? s.eqs i = some q →
    q.st = .counting →
    q.start + msec 2 ≤ s.clk →
    exec (.eqHoldExpire i) s = .next { s with eqs := mset s.eqs i { q with st := .due } }) ∧
  -- EQ_MESSAGE_SEND
  (∀ (i : Nat) (q : EvQ) (s : State),
    mget? s.eqs i = some q →
    q.st = .due →
    q.intx = false →
    q.stopped = false →
    running s = true →
    (hpOf s q.port).perst = false →
    (fnOf s q.port (ownerFn q.owner)).d3 = false →
    linkUp s q.port = true →
    (fnOf s q.port (ownerFn q.owner)).bme = true →
    (fnOf s q.port (ownerFn q.owner)).msixEn = true →
    (fnOf s q.port (ownerFn q.owner)).fmask = false →
    q.vec ∈ (fnOf s q.port (ownerFn q.owner)).vopen →
    movesWait s i q = false →
    exec (.eqMessageSend i) s = .next { s with
        eqs := mset s.eqs i { q with st := .idle, count := 0, noted := [] },
        out := msixMsg s q.port (ownerFn q.owner) q.vec :: s.out })

/-- Tenant commands: creation, configuration, enabling, disabling, reset, destruction, and the end of a fence.
TENANT_CREATE makes the named, or the lowest free, tenant DISABLED on the home port of the command and answers its
handle; TENANT_CONFIG applies the groups that MASK selects and nothing else; TENANT_ENABLE enables a tenant whose
credit page is set; TENANT_DISABLE and TENANT_RESET put an enabled tenant into FENCING and wait; the end of the
fence leaves DISABLED or ENABLED and completes the waiting command; TENANT_DESTROY of a DISABLED tenant frees it
and advances its generation. (R143, R144, R145, R146, R147) -/
def Obligations.TenantCommands : Prop :=
  -- TENANT_CREATE of a free index
  (∀ (p : HostPort) (e : Entry) (s : State),
    AdminCmd s p.val 0x10 e →
    hKind (dw e 1) = 4 →
    hGen (dw e 1) = 0 →
    hIdx (dw e 1) < 4096 →
    mget? s.tens (hIdx (dw e 1)) = none →
    dwZero e 4 15 = true →
    exec (.tenantCreate p) s = .next (finishAdmin (zeroTenantCounters { s with
        tens := mset s.tens (hIdx (dw e 1)) { home := p.val } } (hIdx (dw e 1))) p.val .success (tenHandle s (hIdx (dw
        e 1))))) ∧
  -- TENANT_CREATE of any index: the lowest free one
  (∀ (p : HostPort) (e : Entry) (x : Nat) (s : State),
    AdminCmd s p.val 0x10 e →
    hKind (dw e 1) = 4 →
    hGen (dw e 1) = 0 →
    hIdx (dw e 1) = 0xFFFFF →
    lowTenant s = some x →
    dwZero e 4 15 = true →
    exec (.tenantCreate p) s = .next (finishAdmin (zeroTenantCounters { s with
        tens := mset s.tens x { home := p.val } } x) p.val .success (tenHandle s x))) ∧
  -- TENANT_CREATE of an index in use
  (∀ (p : HostPort) (e : Entry) (s : State),
    AdminCmd s p.val 0x10 e →
    hKind (dw e 1) = 4 →
    hGen (dw e 1) = 0 →
    hIdx (dw e 1) < 4096 →
    (mget? s.tens (hIdx (dw e 1))).isSome = true →
    exec (.tenantCreate p) s = .next (finishAdmin s p.val .inUse 0)) ∧
  -- TENANT_CONFIG of a tenant that is not enabled
  (∀ (p : HostPort) (e : Entry) (x : Tenant) (s : State),
    AdminCmd s p.val 0x11 e →
    mget? s.tens (hIdx (dw e 1)) = some x →
    x.st ≠ .enabled →
    configRange e = true →
    exec (.tenantConfig p) s = .next (finishAdmin { s with tens := mset s.tens (hIdx (dw e 1)) (configApply e x) }
        p.val .success 0)) ∧
  -- TENANT_CONFIG of PASID of an enabled one
  (∀ (p : HostPort) (e : Entry) (x : Tenant) (s : State),
    AdminCmd s p.val 0x11 e →
    mget? s.tens (hIdx (dw e 1)) = some x →
    x.st = .enabled →
    configRange e = true →
    bitOf (dw e 12) 0 = true →
    exec (.tenantConfig p) s = .next (finishAdmin s p.val .inUse 0)) ∧
  -- TENANT_ENABLE of a DISABLED tenant
  (∀ (p : HostPort) (e : Entry) (x : Tenant) (s : State),
    AdminCmd s p.val 0x12 e →
    mget? s.tens (hIdx (dw e 1)) = some x →
    x.st ≠ .enabled →
    dwZero e 4 15 = true →
    (hpOf s p.val).f1.pasidEn = true →
    x.credits = 0 ∨ x.creditAddr ≠ 0 →
    exec (.tenantEnable p) s = .next (finishAdmin { s with
        tens := mset s.tens (hIdx (dw e 1)) { x with st := .enabled } } p.val .success 0)) ∧
  -- TENANT_DISABLE of a DISABLED tenant
  (∀ (p : HostPort) (e : Entry) (x : Tenant) (s : State),
    AdminCmd s p.val 0x13 e →
    mget? s.tens (hIdx (dw e 1)) = some x →
    x.st = .disabled →
    dwZero e 4 15 = true →
    exec (.tenantDisable p) s = .next (finishAdmin s p.val .success 0)) ∧
  -- TENANT_DISABLE of an enabled tenant with nothing of its own in the device: it is FENCING, and the command waits
  (∀ (p : HostPort) (e : Entry) (x : Tenant) (s : State),
    AdminCmd s p.val 0x13 e →
    mget? s.tens (hIdx (dw e 1)) = some x →
    x.st = .enabled →
    x.home = p.val →
    dwZero e 4 15 = true →
    s.sqs = [] ∧ s.cqs = [] ∧ s.eqs = [] ∧ s.conns = [] ∧ s.xfers = [] ∧ s.hostq = [] ∧ s.ls.ctxs = [] →
    ∃ t, exec (.tenantDisable p) s = .next t ∧
      t.tens = mset s.tens (hIdx (dw e 1)) { x with
          st := .fencing, toDisabled := true, fenceStart := s.clk, waiter := some p.val } ∧
      (hpOf t p.val).aq.wait = some ("fence", hIdx (dw e 1)) ∧ (hpOf t p.val).aq.cur = some e ∧
      gen t 4 (hIdx (dw e 1)) = nextGen (gen s 4 (hIdx (dw e 1))) ∧
      t = { s with tens := t.tens, hp := mset s.hp p.val (hpOf t p.val), gens := t.gens }) ∧
  -- TENANT_RESET of an enabled tenant with nothing of its own in the device: it is FENCING, and the command waits
  (∀ (p : HostPort) (e : Entry) (x : Tenant) (s : State),
    AdminCmd s p.val 0x14 e →
    mget? s.tens (hIdx (dw e 1)) = some x →
    x.st = .enabled →
    x.home = p.val →
    dwZero e 4 15 = true →
    s.sqs = [] ∧ s.cqs = [] ∧ s.eqs = [] ∧ s.conns = [] ∧ s.xfers = [] ∧ s.hostq = [] ∧ s.ls.ctxs = [] →
    ∃ t, exec (.tenantReset p) s = .next t ∧
      t.tens = mset s.tens (hIdx (dw e 1)) { x with
          st := .fencing, toDisabled := false, fenceStart := s.clk, waiter := some p.val } ∧
      (hpOf t p.val).aq.wait = some ("fence", hIdx (dw e 1)) ∧ (hpOf t p.val).aq.cur = some e ∧
      gen t 4 (hIdx (dw e 1)) = nextGen (gen s 4 (hIdx (dw e 1))) ∧
      t = { s with tens := t.tens, hp := mset s.hp p.val (hpOf t p.val), gens := t.gens }) ∧
  -- TENANT_DESTROY of a DISABLED tenant
  (∀ (p : HostPort) (e : Entry) (x : Tenant) (s : State),
    AdminCmd s p.val 0x15 e →
    mget? s.tens (hIdx (dw e 1)) = some x →
    x.st = .disabled →
    dwZero e 4 15 = true →
    exec (.tenantDestroy p) s = .next (finishAdmin (tenantFree s (hIdx (dw e 1)) x) p.val .success 0)) ∧
  -- TENANT_DESTROY of one that is not DISABLED
  (∀ (p : HostPort) (e : Entry) (x : Tenant) (s : State),
    AdminCmd s p.val 0x15 e →
    mget? s.tens (hIdx (dw e 1)) = some x →
    x.st ≠ .disabled →
    dwZero e 4 15 = true →
    exec (.tenantDestroy p) s = .next (finishAdmin s p.val .inUse 0)) ∧
  -- TENANT_FENCE_END once its jobs are gone
  (∀ (n : TenantId) (x : Tenant) (s : State),
    mget? s.tens n.val = some x →
    x.st = .fencing →
    fenceBusy s n.val = false →
    x.waiter = none →
    exec (.tenantFenceEnd n) s = .next { s with
        tens := mset s.tens n.val { x with
            st := if x.toDisabled then .disabled else .enabled,
            drainUs := min 10000 ((s.clk - x.fenceStart) / 1000000), cancelled := 0, waiter := none } }) ∧
  -- TN_FENCE_TIMEOUT with one job left: it is cancelled and counted, and the fence ends
  (∀ (n : TenantId) (x : Tenant) (u : Nat) (j : Job) (s : State),
    mget? s.tens n.val = some x →
    x.st = .fencing →
    x.fenceStart + msec 10 ≤ s.clk →
    x.waiter = none →
    s.jobs = [(u, j)] →
    j.owner = some n.val →
    exec (.tnFenceTimeout n) s = .next (fenceEnd (raise (cadd (cancelJob s u) 4 n.val 7 1) .tnFenceTimeout (tenHandle
        s n.val)) n.val x 1))

/-- Pool quotas and the allocation caches. POOL_QUOTA_SET stores LIMIT and RESERVE of one requester and pool and
answers the buffers in use; UNQUARANTINE lifts the quarantine and clears the error count; a LIMIT above the pool
count is INVALID_FIELD; a refill of a quarantined requester is counted and refused; a full cache is not refilled; a
cache depth above 16 leaves MS_CACHE_CFG as it is. (R226, R227, R229, R230, R233) -/
def Obligations.BufferPoolCommands : Prop :=
  -- POOL_QUOTA_SET with UNQUARANTINE alone
  (∀ (p : HostPort) (e : Entry) (s : State),
    AdminCmd s p.val 0x18 e →
    bitsOf (dw e 4) 31 10 = 0 →
    bitsOf (dw e 4) 7 3 = 0 →
    bitsOf (dw e 4) 2 0 ≤ 5 →
    dwZero e 5 15 = true →
    bitOf (dw e 4) 9 = false →
    bitOf (dw e 4) 8 = true →
    exec (.poolQuotaSet p) s = .next (finishAdmin { s with
        coop := { s.coop with
            quar := s.coop.quar.filter (· ≠ hIdx (dw e 1)), err := mdel s.coop.err (hIdx (dw e 1)) } } p.val
        .success (usedOf s (hIdx (dw e 1)) (bitsOf (dw e 4) 2 0)))) ∧
  -- POOL_QUOTA_SET above the pool
  (∀ (p : HostPort) (e : Entry) (s : State),
    AdminCmd s p.val 0x18 e →
    bitOf (dw e 4) 9 = true →
    poolCount s (bitsOf (dw e 4) 2 0) < dw e 5 →
    exec (.poolQuotaSet p) s = .next (finishAdmin s p.val .invalidField 0)) ∧
  -- POOL_QUOTA_SET of LIMIT and RESERVE where allocation caches have depth 0
  (∀ (p : HostPort) (e : Entry) (s : State),
    AdminCmd s p.val 0x18 e →
    bitsOf (dw e 4) 31 10 = 0 →
    bitsOf (dw e 4) 7 3 = 0 →
    bitsOf (dw e 4) 2 0 ≤ 5 →
    dwZero e 7 15 = true →
    bitOf (dw e 4) 9 = true →
    bitOf (dw e 4) 8 = false →
    dw e 5 ≤ poolCount s (bitsOf (dw e 4) 2 0) →
    dw e 6 ≤ dw e 5 →
    s.coop.rsv = [] →
    s.coop.cache = [] →
    cacheDepth s (bitsOf (dw e 4) 2 0) = 0 →
    ∃ t, exec (.poolQuotaSet p) s = .next (finishAdmin t p.val .success (usedOf s (hIdx (dw e 1)) (bitsOf (dw e 4) 2
        0))) ∧
      t = { s with
          coop := { s.coop with
              lim := mset s.coop.lim (hIdx (dw e 1) * 8 + bitsOf (dw e 4) 2 0) (dw e 5),
              rsv := msetD 0 [] (hIdx (dw e 1) * 8 + bitsOf (dw e 4) 2 0) (dw e 6) } }) ∧
  -- CACHE_REFILL in quarantine
  (∀ (r : Fin 4146) (q : Fin 6) (s : State),
    running s = true →
    s.coop.ready = true →
    2 * (cacheOf s r.val q.val).length < cacheDepth s q.val →
    r.val ∈ s.coop.quar →
    exec (.cacheRefill r q) s = .next (cadd s 8 0 4 1)) ∧
  -- CACHE_REFILL
  (∀ (r : Fin 4146) (q : Fin 6) (s : State),
    running s = true →
    s.coop.ready = true →
    2 * (cacheOf s r.val q.val).length < cacheDepth s q.val →
    r.val ∉ s.coop.quar →
    exec (.cacheRefill r q) s = .next (cacheFill s r.val q.val 16)) ∧
  -- CACHE_CFG_WRITE with a depth above 16
  (∀ (p : HostPort) (v : Word) (q : Fin 6) (s : State),
    RegOpen s p true →
    16 < bitsOf v.toNat (5 * q.val + 4) (5 * q.val) →
    exec (.cacheCfgWrite p v) s = .next s) ∧
  -- CACHE_CFG_WRITE of good depths while the caches are empty
  (∀ (p : HostPort) (v : Word) (s : State),
    RegOpen s p true →
    (∀ q : Fin 6, bitsOf v.toNat (5 * q.val + 4) (5 * q.val) ≤ 16) →
    s.coop.cache = [] →
    exec (.cacheCfgWrite p v) s = .next (rset s F.MS_CACHE_CFG_DEPTH_0.off 0 (v.toNat % 2 ^ 30)))

/-- The epoch pulse. A pulse that is due is taken once: the limits of once per epoch, the error counts of the
requesters, the losses charged to connections and the noted unknown peers start afresh; a distribution fault,
FT_DIST_FAULT of class F, makes the device FATAL; a pulse that is not due changes nothing. Clauses are for an epoch
on which no snapshot, beacon or PTM dialogue is due, with no core and no rule-set slot in use. (R21, R39, R42,
R232, R303, R311, R418) -/
def Obligations.EpochPulse : Prop :=
  -- EPOCH_PULSE
  (∀ (n : Nat) (s : State),
    s.ft.pulseDue = some n →
    s.cores = [] →
    s.pa.slots = [] →
    s.armed = [] →
    snapDue s n = false →
    rd s F.FT_BEACON_TX_EN = 0 →
    rd s F.FT_CTRL_PTM_EN = 0 →
    s.lk.st ≠ .lrs →
    exec (.epochPulse false) s = .next { s with
        ft := { s.ft with pulseDue := none }, lk := { s.lk with once := [] }, coop := { s.coop with err := [] },
        conns := mmap (fun _ c => { c with charges := [] }) s.conns, unk := [], fcPulse := true }) ∧
  -- EPOCH_PULSE with a distribution fault: the device goes FATAL
  (∀ (n : Nat) (s : State),
    s.ft.pulseDue = some n →
    s.cores = [] →
    s.pa.slots = [] →
    s.armed = [] →
    snapDue s n = false →
    rd s F.FT_BEACON_TX_EN = 0 →
    rd s F.FT_CTRL_PTM_EN = 0 →
    s.lk.st = .running →
    s.boot.por = true →
    bootHeld s = false →
    ∃ t, exec (.epochPulse true) s = .next t ∧ t.ft.pulseDue = none ∧ t.unk = [] ∧ t.lk.st = .fatal ∧
      t.lk.fault = true ∧ t.lk.fatalCount = 1 ∧ t.lk.fatalStart = some s.clk ∧
      t.lk.first = some (mkEvent s .ftDistFault 0)) ∧
  -- EPOCH_PULSE that is not due
  (∀ (b : Bool) (s : State),
    s.ft.pulseDue = none →
    exec (.epochPulse b) s = .next s)

/-- Network ports: the link state machine and preemption verification. EN newly 1 enters TRAINING with the media
settings of the write; EN newly 0 enters DISABLED; lock brings the port UP with MA_LINK_UP and restarts
verification; 500 ms without lock restarts training; a fault of a port that is not UP only sets its flag, one of a
port that is UP stops it with MA_LINK_DOWN; clearing returns to UP, or to TRAINING under AN_LT; DOWN_HOLD flushes
its queues; verification ends as SUCCEEDED, or as FAILED with its event. (R152, R157, R165, R167) -/
def Obligations.NetworkPortLinks : Prop :=
  -- PORT_ENABLE
  (∀ (p : HostPort) (n : NetPort) (v : Word) (s : State),
    RegOpen s p true →
    netPortExists s n.val = true →
    bitOf v.toNat 31 = true →
    (regStore s (F.MA_PCFG_EN.off + 256 * n.val) 0 v.toNat).2 = true →
    rd s F.MA_PCFG_EN n.val = 0 →
    exec (.portEnable p n v) s = .next (modMac (regStore s (F.MA_PCFG_EN.off + 256 * n.val) 0 v.toNat).1 n.val fun m
        => { m with
        st := .training, trainAt := s.clk,
        cfg := pcfgWord (regStore s (F.MA_PCFG_EN.off + 256 * n.val) 0 v.toNat).1 n.val })) ∧
  -- PORT_DISABLE
  (∀ (p : HostPort) (n : NetPort) (v : Word) (s : State),
    RegOpen s p true →
    netPortExists s n.val = true →
    bitOf v.toNat 31 = false →
    (regStore s (F.MA_PCFG_EN.off + 256 * n.val) 0 v.toNat).2 = true →
    rd s F.MA_PCFG_EN n.val = 1 →
    ∃ t, exec (.portDisable p n v) s = .next t ∧ (macOf t n.val).st = .disabled ∧
      t = goDown (regStore s (F.MA_PCFG_EN.off + 256 * n.val) 0 v.toNat).1 n.val .disabled) ∧
  -- NET_LINK_LOCK
  (∀ (n : NetPort) (s : State),
    (macOf s n.val).st = .training →
    netPortExists s n.val = true →
    (macOf s n.val).localFault = false →
    (macOf s n.val).remoteFault = false →
    rd s F.MA_FC_TX_EN n.val = 0 →
    (macOf s n.val).xoff = [] →
    s.lk.st ≠ .lrs →
    exec (.netLinkLock n) s = .next (raise { s with
        macs := mset s.macs n.val { macOf s n.val with
            st := .up, localFault := false, remoteFault := false, downAt := none, verAt := s.clk, flushing := false,
            ver := if rd s F.MA_PREEMPT_EN n.val = 0 ∨ rd s F.MA_PREEMPT_VERIFY_DIS n.val = 1 then .disabled else
                .verifying } } .maLinkUp n.val)) ∧
  -- TRAINING_TIMEOUT
  (∀ (n : NetPort) (s : State),
    (macOf s n.val).st = .training →
    (macOf s n.val).trainAt + msec 500 ≤ s.clk →
    exec (.trainingTimeout n) s = .next { s with
        macs := mset s.macs n.val { macOf s n.val with trainAt := s.clk, cfg := pcfgWord s n.val } }) ∧
  -- NET_LINK_FAULT of a port that is not UP
  (∀ (n : NetPort) (k : Fin 3) (s : State),
    (macOf s n.val).st ≠ .up →
    exec (.netLinkFault n k) s = .next { s with
        macs := mset s.macs n.val { macOf s n.val with
            localFault := (macOf s n.val).localFault || decide (k = 0),
            remoteFault := (macOf s n.val).remoteFault || decide (k = 1) } }) ∧
  -- NET_LINK_FAULT of a port that is UP
  (∀ (n : NetPort) (k : Fin 3) (s : State),
    (macOf s n.val).st = .up →
    ∃ t, exec (.netLinkFault n k) s = .next (raise t .maLinkDown n.val) ∧ (macOf t n.val).st = .fault ∧
      t = goDown { s with
          macs := mset s.macs n.val { macOf s n.val with
              localFault := (macOf s n.val).localFault || decide (k = 0),
              remoteFault := (macOf s n.val).remoteFault || decide (k = 1) } } n.val .fault) ∧
  -- NET_LINK_FAULT_CLEAR without AN_LT
  (∀ (n : NetPort) (s : State),
    (macOf s n.val).st = .fault →
    bitOf (macOf s n.val).cfg 25 = false →
    rd s F.MA_FC_TX_EN n.val = 0 →
    (macOf s n.val).xoff = [] →
    exec (.netLinkFaultClear n) s = .next (raise { s with
        macs := mset s.macs n.val { macOf s n.val with
            st := .up, localFault := false, remoteFault := false, downAt := none, verAt := s.clk, flushing := false,
            ver := if rd s F.MA_PREEMPT_EN n.val = 0 ∨ rd s F.MA_PREEMPT_VERIFY_DIS n.val = 1 then .disabled else
                .verifying } } .maLinkUp n.val)) ∧
  -- NET_LINK_FAULT_CLEAR with AN_LT
  (∀ (n : NetPort) (s : State),
    (macOf s n.val).st = .fault →
    bitOf (macOf s n.val).cfg 25 = true →
    exec (.netLinkFaultClear n) s = .next { s with
        macs := mset s.macs n.val { macOf s n.val with
            st := .training, trainAt := s.clk, cfg := pcfgWord s n.val, localFault := false, remoteFault := false } }) ∧
  -- DOWN_HOLD_EXPIRE
  (∀ (n : NetPort) (d : Nat) (s : State),
    (macOf s n.val).downAt = some d →
    (macOf s n.val).st = .fault ∨ (macOf s n.val).st = .disabled →
    (macOf s n.val).flushing = false →
    rd s F.MA_DOWN_DOWN_HOLD n.val ≠ 65535 →
    d + msec (rd s F.MA_DOWN_DOWN_HOLD n.val) ≤ s.clk →
    exec (.downHoldExpire n) s = .next (raise (modMac (egFlush s n.val) n.val fun m => { m with flushing := true })
        .maEgFlush n.val)) ∧
  -- PREEMPT_VERIFY_END that fails
  (∀ (n : NetPort) (s : State),
    (macOf s n.val).ver = .verifying →
    (macOf s n.val).verAt + msec (3 * rd s F.MA_PREEMPT_VERIFY_TIME n.val) ≤ s.clk →
    exec (.preemptVerifyEnd n false) s = .next (raise { s with
        macs := mset s.macs n.val { macOf s n.val with ver := .failed } } .maPreemptVerifyFail n.val)) ∧
  -- PREEMPT_VERIFY_END that passes, on a port without a calendar
  (∀ (n : NetPort) (s : State),
    (macOf s n.val).ver = .verifying →
    rd s F.EG_PORT_CFG_CAL_EN 0 n.val = 0 →
    exec (.preemptVerifyEnd n true) s = .next { s with
        macs := mset s.macs n.val { macOf s n.val with ver := .succeeded } })

/-- Network ports: pauses received and sent, and the pause watchdog. A pause takes effect at its effect point and
lasts its time in quanta; a pause of time 0 ends the pause of its class; a pause that is over ends; an XOFF is
refreshed after half its quanta while the count stays above XON; the watchdog puts a class that is late into
RECOVER, which ends after its time; a write with EN 1 moves only classes that are late. (R161, R162, R163, R164,
R495) -/
def Obligations.NetworkPortPauses : Prop :=
  -- PAUSE_EFFECT of one due pause
  (∀ (n : NetPort) (c q d : Nat) (s : State),
    (macOf s n.val).pauseWait = [(c, q, d)] →
    d ≤ s.clk →
    q ≠ 0 →
    recovering s n.val (macOf s n.val).wdRx c = false →
    (mget {} (macOf s n.val).wdRx c).st = .normal →
    exec (.pauseEffect n) s = .next { s with
        macs := mset s.macs n.val { macOf s n.val with
            pauseWait := [], pausedTill := mset (macOf s n.val).pausedTill c (d + quantaPs s n.val q),
            wdRx := mset (macOf s n.val).wdRx c ⟨.paused, d⟩ } }) ∧
  -- PAUSE_EFFECT of a pause of time 0
  (∀ (n : NetPort) (c d : Nat) (s : State),
    (macOf s n.val).pauseWait = [(c, 0, d)] →
    d ≤ s.clk →
    recovering s n.val (macOf s n.val).wdRx c = false →
    exec (.pauseEffect n) s = .next { s with
        macs := mset s.macs n.val { macOf s n.val with
            pauseWait := [], pausedTill := mdel (macOf s n.val).pausedTill c, wdRx := mset (macOf s n.val).wdRx c {} } }) ∧
  -- PAUSE_EXPIRE
  (∀ (n : NetPort) (c : ClassId) (d : Nat) (s : State),
    mget? (macOf s n.val).pausedTill c.val = some d →
    d ≤ s.clk →
    (mget {} (macOf s n.val).wdRx c.val).st = .paused →
    exec (.pauseExpire n c) s = .next { s with
        macs := mset s.macs n.val { macOf s n.val with
            pausedTill := mdel (macOf s n.val).pausedTill c.val, wdRx := mset (macOf s n.val).wdRx c.val {} } }) ∧
  -- XOFF_REFRESH
  (∀ (n : NetPort) (c : ClassId) (d : Nat) (s : State),
    mget? (macOf s n.val).xoff c.val = some d →
    netUp s n.val = true →
    d + quantaPs s n.val (rd s F.MA_FC_QUANTA n.val) / 2 ≤ s.clk →
    rd s F.MA_FC_THRESH_XON n.val * 2 ^ 20 < heldCount s n.val c.val →
    fcSends s n.val c.val = true →
    running s = true →
    exec (.xoffRefresh n c) s = .next (modMac (sendPause s n.val c.val (rd s F.MA_FC_QUANTA n.val)) n.val fun m => {
        m with
        xoff := mset m.xoff c.val s.clk })) ∧
  -- PAUSE_WD_TIMEOUT of the receive side
  (∀ (n : NetPort) (c : ClassId) (s : State),
    rd s F.MA_PAUSE_WD_EN n.val = 1 →
    wdLate s n.val c.val false = true →
    exec (.pauseWdTimeout n c false) s = .next (cadd (raise { s with
        macs := mset s.macs n.val { macOf s n.val with
            wdRx := mset (macOf s n.val).wdRx c.val ⟨.recover, s.clk⟩,
            pausedTill := mdel (macOf s n.val).pausedTill c.val } } .maPauseStorm n.val) 5 n.val 46 1)) ∧
  -- PAUSE_WD_RECOVER_END of the receive side
  (∀ (n : NetPort) (c : ClassId) (s : State),
    (wdOf s n.val c.val false).st = .recover →
    (wdOf s n.val c.val false).since + msec (rd s F.MA_PAUSE_WD_RECOVER n.val) ≤ s.clk →
    exec (.pauseWdRecoverEnd n c false) s = .next { s with
        macs := mset s.macs n.val { macOf s n.val with wdRx := mset (macOf s n.val).wdRx c.val {} } }) ∧
  -- PAUSE_WD_ENABLE with no class late
  (∀ (p : HostPort) (n : NetPort) (v : Word) (s : State),
    RegOpen s p true →
    netPortExists s n.val = true →
    bitOf v.toNat 31 = true →
    (regStore s (F.MA_PAUSE_WD_EN.off + 256 * n.val) 0 v.toNat).2 = true →
    (∀ c : Fin 8, ∀ x : Bool, wdLate (regStore s (F.MA_PAUSE_WD_EN.off + 256 * n.val) 0 v.toNat).1 n.val c.val x =
        false) →
    exec (.pauseWdEnable p n v) s = .next (regStore s (F.MA_PAUSE_WD_EN.off + 256 * n.val) 0 v.toNat).1)

/-- Frame reception, delivery to hosts, and the commands of rule sets. A good frame is counted and takes the
ordinary path, behind earlier frames of its port that the Sluice is still deciding on; one with a bad FCS is
counted and gone; a MAC Control frame is consumed; a frame for a queue that cannot take it is freed and counted;
RULESET_LOAD reads the image; the read of a good image leaves the set LOADED and answers handle and free entries, a
failed one frees the slot; activation at once makes it ACTIVE, a scheduled one arms it; the edge activates and
drains; a drain limit orphans what is left; release frees; a parity failure is noted until the rewrite. (R148,
R158, R185, R189, R190, R191, R192, R193, R153) -/
def Obligations.FrameReceptionAndRuleSets : Prop :=
  -- FRAME_RX of a good frame
  (∀ (n : NetPort) (f : WireFrame) (u : Upset) (s : State),
    netUp s n.val = true →
    running s = true →
    f.mmErr = 0 →
    f.frags ≤ 1 →
    s.sl.commits = [] →
    macCheck s n.val f = none →
    beAt f.bytes 12 2 ≠ 0x8808 →
    mget [] s.sl.arr n.val = [] →
    exec (.frameRx n f u) s = .next (ordinary (pipeDealt (countRx (cadd (cadd (cadd (cadd s 5 n.val 21 f.fec.1) 5
        n.val 22 f.fec.2.1) 5 n.val 23 f.fec.2.2) 5 n.val 43 0) n.val f.bytes) n.val) (arrOf (countRx (cadd (cadd (cadd (cadd
        s 5 n.val 21 f.fec.1) 5 n.val 22 f.fec.2.1) 5 n.val 23 f.fec.2.2) 5 n.val 43 0) n.val f.bytes) n.val f) u)) ∧
  -- FRAME_RX with a bad FCS
  (∀ (n : NetPort) (f : WireFrame) (u : Upset) (s : State),
    netUp s n.val = true →
    running s = true →
    f.mmErr = 0 →
    f.frags ≤ 1 →
    s.sl.commits = [] →
    f.pcsErr = false →
    f.fcsOk = false →
    mget [] s.sl.arr n.val = [] →
    exec (.frameRx n f u) s = .next (cadd (cadd (cadd (cadd (cadd s 5 n.val 21 f.fec.1) 5 n.val 22 f.fec.2.1) 5
        n.val 23 f.fec.2.2) 5 n.val 43 0) 5 n.val 2 1)) ∧
  -- FRAME_RX of a MAC Control frame
  (∀ (n : NetPort) (f : WireFrame) (u : Upset) (s : State),
    netUp s n.val = true →
    running s = true →
    f.mmErr = 0 →
    f.frags ≤ 1 →
    s.sl.commits = [] →
    macCheck s n.val f = none →
    beAt f.bytes 12 2 = 0x8808 →
    mget [] s.sl.arr n.val = [] →
    exec (.frameRx n f u) s = .next (ctrlRx (slForget (countRx (cadd (cadd (cadd (cadd s 5 n.val 21 f.fec.1) 5 n.val
        22 f.fec.2.1) 5 n.val 23 f.fec.2.2) 5 n.val 43 0) n.val f.bytes) n.val) n.val f.bytes)) ∧
  -- HOST_RX_DELIVER for a queue that takes none
  (∀ (n : TenantId) (q : Fin 1048576) (f : HostFrame) (s : State),
    s.hostq = [f] →
    f.tenant = n.val →
    f.sq = q.val →
    running s = true →
    rxQueueOk s n.val q.val = false →
    exec (.hostRxDeliver n q) s = .next (cadd (devFree { s with hostq := [] } f.buf) 4 n.val 4 1)) ∧
  -- HOST_RX_DELIVER into the oldest posted buffer
  (∀ (n : TenantId) (q : Fin 1048576) (f : HostFrame) (u : Nat) (j : Job) (s : State),
    s.hostq = [f] →
    f.tenant = n.val →
    f.sq = q.val →
    running s = true →
    rxQueueOk s n.val q.val = true →
    oldestPost s q.val = some (u, j) →
    f.len + (if bitOf (dw (jobHead j) 8) 0 then 8 else 0) ≤ segBytes (segsOf j.ents) →
    xferPossible s j.port = true →
    exec (.hostRxDeliver n q) s = .next (rxFill { s with hostq := [] } u j f)) ∧
  -- RULESET_LOAD into a free slot
  (∀ (p : HostPort) (e : Entry) (g : Nat) (s : State),
    AdminCmd s p.val 0x28 e →
    hKind (dw e 1) = 8 →
    hGen (dw e 1) = 0 →
    hIdx (dw e 1) ≤ 3 →
    dw e 4 % 64 = 0 →
    dwZero e 7 15 = true →
    mget? s.pa.slots (hIdx (dw e 1)) = none →
    ownerCanReq s p.val none = true →
    sysTag s p.val = some g →
    (fnOf s p.val .pf0).d3 = false →
    oldestRead s (.image (Fin.ofNat 4 (hIdx (dw e 1)))) = none →
    ∃ t, exec (.rulesetLoad p) s = .next (adminWait t p.val "image" (hIdx (dw e 1))) ∧
      t = emit { advGen s 8 (hIdx (dw e 1)) with
          cnt := mdel s.cnt (ckey 6 0 (8 + hIdx (dw e 1))),
          pa := { s.pa with
              slots := mset s.pa.slots (hIdx (dw e 1)) { st := .loading, want := dw e 6, port := p.val } },
          sreads := mset s.sreads (p.val * 16384 + g) { port := p.val, fn := .pf0,
                                                        what := .image (Fin.ofNat 4 (hIdx (dw e 1))), since := s.clk } } (.hostRead (.image (Fin.ofNat
          4 (hIdx (dw e 1)))) (asPort p.val) none (dw2 e 4) (dw e 6) {})) ∧
  -- RULESET_IMAGE_READ_END that failed
  (∀ (i : Fin 4) (r0 : RsSlot) (k : Nat) (r : SysRead) (s : State),
    running s = true →
    mget? s.pa.slots i.val = some r0 →
    r0.st = .loading →
    oldestRead s (.image i) = some (k, r) →
    r.drop = false →
    exec (.rulesetImageReadEnd i .error) s = .next (finishAdmin { s with
        sreads := mdel s.sreads k,
        pa := { s.pa with slots := mdel s.pa.slots i.val, bad := s.pa.bad.filter fun x => decide (x.1 ≠ i.val) } }
        r0.port .hostReadError 0)) ∧
  -- RULESET_IMAGE_READ_END of a good image
  (∀ (i : Fin 4) (r0 : RsSlot) (b : List Byte) (k : Nat) (r : SysRead) (s : State),
    running s = true →
    mget? s.pa.slots i.val = some r0 →
    r0.st = .loading →
    imFail (b.take r0.want) r0.want = none →
    imRules (b.take r0.want) ≤ tcamFree s →
    oldestRead s (.image i) = some (k, r) →
    r.drop = false →
    ∃ t, exec (.rulesetImageReadEnd i (.ok b)) s = .next (finishAdmin t r0.port .success (rsHandle t i.val +
        tcamFree t * 2 ^ 32)) ∧
      t = { s with
          sreads := mdel s.sreads k,
          pa := { s.pa with slots := mset s.pa.slots i.val { r0 with st := .loaded, img := b.take r0.want } } }) ∧
  -- RULESET_ACTIVATE at once
  (∀ (p : HostPort) (e : Entry) (r : RsSlot) (s : State),
    AdminCmd s p.val 0x29 e →
    dw e 6 = 1 →
    dwZero e 7 15 = true →
    activeSlot s = none →
    (∀ k : Fin 4, rsArmed s k.val = false) →
    mget? s.pa.slots (hIdx (dw e 1)) = some r →
    r.st = .loaded →
    exec (.rulesetActivate p) s = .next (finishAdmin { s with
        pa := { s.pa with slots := mset s.pa.slots (hIdx (dw e 1)) { r with st := .active } } } p.val .success 0)) ∧
  -- RULESET_ACTIVATE at an epoch
  (∀ (p : HostPort) (e : Entry) (r : RsSlot) (s : State),
    AdminCmd s p.val 0x29 e →
    dw e 6 = 0 →
    dwZero e 7 15 = true →
    (∀ k : Fin 4, rsArmed s k.val = false) →
    mget? s.pa.slots (hIdx (dw e 1)) = some r →
    r.st = .loaded →
    armCheck s (dw2 e 4 * 2 ^ 20) = none →
    exec (.rulesetActivate p) s = .next (finishAdmin { s with
        armed := s.armed ++ [(.rs (hIdx (dw e 1)), dw2 e 4 * 2 ^ 20)] } p.val .success 0)) ∧
  -- RULESET_RELEASE
  (∀ (p : HostPort) (e : Entry) (r : RsSlot) (s : State),
    AdminCmd s p.val 0x2A e →
    dwZero e 4 15 = true →
    mget? s.pa.slots (hIdx (dw e 1)) = some r →
    r.st = .loaded →
    rsArmed s (hIdx (dw e 1)) = false →
    exec (.rulesetRelease p) s = .next (finishAdmin { s with
        pa := { s.pa with
            slots := mdel s.pa.slots (hIdx (dw e 1)), bad := s.pa.bad.filter fun x => decide (x.1 ≠ hIdx (dw e 1)) } }
        p.val .success 0)) ∧
  -- RULESET_ACTIVATION_EDGE with no set ACTIVE before
  (∀ (i : Fin 4) (r : RsSlot) (d : Nat) (s : State),
    s.armed = [(.rs i.val, d)] →
    d ≤ ftNs s →
    activeSlot s = none →
    mget? s.pa.slots i.val = some r →
    s.lk.st ≠ .lrs →
    exec (.rulesetActivationEdge i) s = .next (raise { s with
        armed := [], pa := { s.pa with slots := mset s.pa.slots i.val { r with st := .active } } } .paRsActivated (rsHandle
        s i.val))) ∧
  -- PA_RS_DRAIN_TIMEOUT
  (∀ (i : Fin 4) (r : RsSlot) (s : State),
    mget? s.pa.slots i.val = some r →
    r.st = .draining →
    r.late = true →
    exec (.paRsDrainTimeout i) s = .next (raise { s with
        pkts := mmap (fun _ k => if k.stamp = some (i.val, gen s 8 i.val) then { k with ref := false } else k)
            s.pkts, pa := { s.pa with slots := mset s.pa.slots i.val { r with st := .retiring } } }
        .paRsDrainTimeout (rsHandle s i.val))) ∧
  -- TCAM_SWEEP of one failing entry
  (∀ (i : Fin 4) (n : Nat) (r : RsSlot) (s : State),
    mget? s.pa.slots i.val = some r →
    n < imRules r.img →
    (i.val, n) ∉ s.pa.bad →
    exec (.tcamSweep [(i.val, n)]) s = .next (raise { s with pa := { s.pa with bad := (i.val, n) :: s.pa.bad } }
        .paTcamParity i.val)) ∧
  -- TCAM_ENTRY_REWRITE
  (∀ (i : Fin 4) (n : Fin 65536) (s : State),
    exec (.tcamEntryRewrite i n) s = .next { s with
        pa := { s.pa with bad := s.pa.bad.filter fun x => decide (x ≠ (i.val, n.val)) } }) ∧
  -- FRAME_RX of a good frame behind one that the Sluice is still deciding on: it waits its turn, its bytes kept
  (∀ (n : NetPort) (f : WireFrame) (u : Upset) (x : SlArr) (s : State),
    netUp s n.val = true →
    running s = true →
    f.mmErr = 0 →
    f.frags ≤ 1 →
    s.sl.commits = [] →
    macCheck s n.val f = none →
    beAt f.bytes 12 2 ≠ 0x8808 →
    mget [] s.sl.arr n.val = [x] →
    x.got = none →
    x.st = .fresh →
    exec (.frameRx n f u) s = .next (modArr (pipeDealt (countRx (cadd (cadd (cadd (cadd s 5 n.val 21 f.fec.1) 5
        n.val 22 f.fec.2.1) 5 n.val 23 f.fec.2.2) 5 n.val 43 0) n.val f.bytes) n.val) n.val fun _ => [{ x with
        got := some { frame := f,
                      a := arrOf (countRx (cadd (cadd (cadd (cadd s 5 n.val 21 f.fec.1) 5 n.val 22 f.fec.2.1) 5
                          n.val 23 f.fec.2.2) 5 n.val 43 0) n.val f.bytes) n.val f, upset := u, ok := true } }]))

/-- Forwarding: table commands, learning, ageing, and lookups that wait. A table command takes its operation at the
write of FW_CMD and posts its result when it ends; LOOKUP answers the entry, INSERT adds a new one, UPDATE changes
DEST and STATIC of it, DELETE removes it, WALK shows a position, FLUSH removes what its selectors name, one entry a
PCLK; a learn event of a known station only marks it; an age visit of an idle entry removes it; a lookup that was
waiting places its frame, and sees the tables as they stood before the changes of its PCLK; a rewrite clears the
parity mark. (R201, R209, R210, R212, R213, R217, R199) -/
def Obligations.ForwardingTables : Prop :=
  -- FW_LOOKUP: the operation of the table that it names
  (∀ (p : HostPort) (v : Word) (s : State),
    RegOpen s p true →
    s.fw.busy = none →
    bitOf v.toNat 31 = true →
    (regStore s F.FW_CMD_OP.off 0 v.toNat).2 = true →
    bitsOf v.toNat 3 0 = 0 →
    s.fw.banks = [] →
    exec (.fwLookup p v []) s = .next { (fwRun s v.toNat).2.2.2 with
        fw := { (fwRun s v.toNat).2.2.2.fw with
            busy := some { table := bitsOf v.toNat 10 8, op := 0, evict := bitOf v.toNat 11, done := true },
            res := ((fwRun s v.toNat).1, (fwRun s v.toNat).2.1, (fwRun s v.toNat).2.2.1) } }) ∧
  -- FW_INSERT: the operation of the table that it names
  (∀ (p : HostPort) (v : Word) (s : State),
    RegOpen s p true →
    s.fw.busy = none →
    bitOf v.toNat 31 = true →
    (regStore s F.FW_CMD_OP.off 0 v.toNat).2 = true →
    bitsOf v.toNat 3 0 = 1 →
    s.fw.banks = [] →
    exec (.fwInsert p v []) s = .next { (fwRun s v.toNat).2.2.2 with
        fw := { (fwRun s v.toNat).2.2.2.fw with
            busy := some { table := bitsOf v.toNat 10 8, op := 1, evict := bitOf v.toNat 11, done := true },
            res := ((fwRun s v.toNat).1, (fwRun s v.toNat).2.1, (fwRun s v.toNat).2.2.1) } }) ∧
  -- FW_UPDATE: the operation of the table that it names
  (∀ (p : HostPort) (v : Word) (s : State),
    RegOpen s p true →
    s.fw.busy = none →
    bitOf v.toNat 31 = true →
    (regStore s F.FW_CMD_OP.off 0 v.toNat).2 = true →
    bitsOf v.toNat 3 0 = 2 →
    s.fw.banks = [] →
    exec (.fwUpdate p v []) s = .next { (fwRun s v.toNat).2.2.2 with
        fw := { (fwRun s v.toNat).2.2.2.fw with
            busy := some { table := bitsOf v.toNat 10 8, op := 2, evict := bitOf v.toNat 11, done := true },
            res := ((fwRun s v.toNat).1, (fwRun s v.toNat).2.1, (fwRun s v.toNat).2.2.1) } }) ∧
  -- FW_DELETE: the operation of the table that it names
  (∀ (p : HostPort) (v : Word) (s : State),
    RegOpen s p true →
    s.fw.busy = none →
    bitOf v.toNat 31 = true →
    (regStore s F.FW_CMD_OP.off 0 v.toNat).2 = true →
    bitsOf v.toNat 3 0 = 3 →
    s.fw.banks = [] →
    exec (.fwDelete p v []) s = .next { (fwRun s v.toNat).2.2.2 with
        fw := { (fwRun s v.toNat).2.2.2.fw with
            busy := some { table := bitsOf v.toNat 10 8, op := 3, evict := bitOf v.toNat 11, done := true },
            res := ((fwRun s v.toNat).1, (fwRun s v.toNat).2.1, (fwRun s v.toNat).2.2.1) } }) ∧
  -- FW_WALK: the operation of the table that it names
  (∀ (p : HostPort) (v : Word) (s : State),
    RegOpen s p true →
    s.fw.busy = none →
    bitOf v.toNat 31 = true →
    (regStore s F.FW_CMD_OP.off 0 v.toNat).2 = true →
    bitsOf v.toNat 3 0 = 4 →
    s.fw.banks = [] →
    exec (.fwWalk p v []) s = .next { (fwRun s v.toNat).2.2.2 with
        fw := { (fwRun s v.toNat).2.2.2.fw with
            busy := some { table := bitsOf v.toNat 10 8, op := 4, evict := bitOf v.toNat 11, done := true },
            res := ((fwRun s v.toNat).1, (fwRun s v.toNat).2.1, (fwRun s v.toNat).2.2.1) } }) ∧
  -- FW_ENTRY_REWRITE
  (∀ (h : Bool) (n : Fin 262144) (s : State),
    exec (.fwEntryRewrite h n) s = .next { s with
        fw := { s.fw with
            badNh := if h then s.fw.badNh.filter (· ≠ n.val) else s.fw.badNh,
            badLpm := if h then s.fw.badLpm else s.fw.badLpm.filter (· ≠ n.val) } }) ∧
  -- LEARN_EVENT of a station at the port it is known at
  (∀ (b : Fin 16) (v : LearnEv) (r : List LearnEv) (n : Nat) (e : FEnt) (s : State),
    mget [] s.fw.banks b.val = v :: r →
    findEnt s.fw.l2 [v.bd, v.mac] = some (n, e) →
    e.dest = portDest v.port →
    s.fw.busy = none →
    s.tblq = [] →
    exec (.learnEvent b []) s = .next { s with
        fw := { s.fw with
            banks := msetD [] s.fw.banks b.val r, seen := (fwKeep s).fw.seen,
            l2 := mset s.fw.l2 n { e with hit := true } } }) ∧
  -- LEARN_EVENT of a new station
  (∀ (b : Fin 16) (v : LearnEv) (r : List LearnEv) (s : State),
    mget [] s.fw.banks b.val = v :: r →
    s.fw.busy = none →
    s.tblq = [] →
    exec (.learnEvent b []) s = .next (learnTake { s with fw := { s.fw with banks := msetD [] s.fw.banks b.val r } }
        v)) ∧
  -- AGE_VISIT of an idle learned station that no frame has hit
  (∀ (n a per : Nat) (e : FEnt) (s : State),
    s.fw.ageL2 = (n, a, per) →
    0 < n →
    n + 1 < tabSize true →
    0 < per →
    a + msec (10 * per) * n / tabSize true ≤ s.clk →
    mget? s.fw.l2 n = some e →
    e.stat = false →
    e.hit = false →
    e.idle = true →
    mget [] s.fw.banks (n / 262144) = [] →
    exec (.ageVisit true) s = .next (cadd { s with
        fw := { s.fw with
            ageL2 := (n + 1, a, per),
            seen := (fwKeep s).fw.seen.map fun x => { x with aged := ((true, n), e) :: x.aged },
            l2 := mdel s.fw.l2 n } } 7 0 15 1)) ∧
  -- AGE_VISIT of an entry that was hit
  (∀ (n a per : Nat) (e : FEnt) (s : State),
    s.fw.ageEm = (n, a, per) →
    0 < n →
    n + 1 < tabSize false →
    0 < per →
    a + msec (10 * per) * n / tabSize false ≤ s.clk →
    mget? s.fw.em n = some e →
    e.stat = false →
    e.hit = true →
    exec (.ageVisit false) s = .next { s with
        fw := { s.fw with
            ageEm := (n + 1, a, per),
            seen := (fwKeep s).fw.seen.map fun x => { x with aged := ((false, n), e) :: x.aged },
            em := mset s.fw.em n { e with hit := false, idle := false } } }) ∧
  -- FW_LOOKUP of an exact-match entry that is there
  (∀ (p : HostPort) (v : Word) (n : Nat) (e : FEnt) (s : State),
    RegOpen s p true →
    s.fw.busy = none →
    bitOf v.toNat 31 = true →
    (regStore s F.FW_CMD_OP.off 0 v.toNat).2 = true →
    bitsOf v.toNat 3 0 = 0 ∧ bitsOf v.toNat 10 8 = 0 →
    fwReserved 0 (fwW s) = false →
    findEnt s.fw.em (bitsOf (fwW s 0) 11 0 :: (List.range 8).map fun i => fwW s (2 + i)) = some (n, e) →
    exec (.fwLookup p v []) s = .next { (regStore s F.FW_CMD_OP.off 0 v.toNat).1 with
        fw := { s.fw with
            busy := some { table := 0, op := 0, evict := bitOf v.toNat 11, done := true },
            res := (0, n, entWords false true e) } }) ∧
  -- FW_LOOKUP of one that is not
  (∀ (p : HostPort) (v : Word) (s : State),
    RegOpen s p true →
    s.fw.busy = none →
    bitOf v.toNat 31 = true →
    (regStore s F.FW_CMD_OP.off 0 v.toNat).2 = true →
    bitsOf v.toNat 3 0 = 0 ∧ bitsOf v.toNat 10 8 = 0 →
    fwReserved 0 (fwW s) = false →
    findEnt s.fw.em (bitsOf (fwW s 0) 11 0 :: (List.range 8).map fun i => fwW s (2 + i)) = none →
    exec (.fwLookup p v []) s = .next { (regStore s F.FW_CMD_OP.off 0 v.toNat).1 with
        fw := { s.fw with
            busy := some { table := 0, op := 0, evict := bitOf v.toNat 11, done := true },
            res := (1, s.fw.resIdx, fwData s) } }) ∧
  -- FW_LOOKUP of an instance
  (∀ (p : HostPort) (v : Word) (s : State),
    RegOpen s p true →
    s.fw.busy = none →
    bitOf v.toNat 31 = true →
    (regStore s F.FW_CMD_OP.off 0 v.toNat).2 = true →
    bitsOf v.toNat 3 0 = 0 ∧ bitsOf v.toNat 10 8 = 4 →
    fwReserved 4 (fwW s) = false →
    (rd s F.FW_INDEX_INDEX) < 4096 →
    exec (.fwLookup p v []) s = .next { (regStore s F.FW_CMD_OP.off 0 v.toNat).1 with
        fw := { s.fw with
            busy := some { table := 4, op := 0, evict := bitOf v.toNat 11, done := true },
            res := (0, (rd s F.FW_INDEX_INDEX), mget [0, 0, 0, 0x7FFFFFFF] s.fw.insts (rd s F.FW_INDEX_INDEX) ++
                List.replicate 12 0) } }) ∧
  -- FW_INSERT of an exact-match key that is there
  (∀ (p : HostPort) (v : Word) (n : Nat) (e : FEnt) (s : State),
    RegOpen s p true →
    s.fw.busy = none →
    bitOf v.toNat 31 = true →
    (regStore s F.FW_CMD_OP.off 0 v.toNat).2 = true →
    bitsOf v.toNat 3 0 = 1 ∧ bitsOf v.toNat 10 8 = 0 →
    fwReserved 0 (fwW s) = false →
    destOk s (destAt (fwW s) 10) = true →
    findEnt s.fw.em (bitsOf (fwW s 0) 11 0 :: (List.range 8).map fun i => fwW s (2 + i)) = some (n, e) →
    exec (.fwInsert p v []) s = .next { (regStore s F.FW_CMD_OP.off 0 v.toNat).1 with
        fw := { s.fw with
            busy := some { table := 0, op := 1, evict := bitOf v.toNat 11, done := true },
            res := (2, n, entWords false true e) } }) ∧
  -- FW_INSERT with a destination that names nothing
  (∀ (p : HostPort) (v : Word) (s : State),
    RegOpen s p true →
    s.fw.busy = none →
    bitOf v.toNat 31 = true →
    (regStore s F.FW_CMD_OP.off 0 v.toNat).2 = true →
    bitsOf v.toNat 3 0 = 1 ∧ bitsOf v.toNat 10 8 = 0 →
    fwReserved 0 (fwW s) = false →
    destOk s (destAt (fwW s) 10) = false →
    exec (.fwInsert p v []) s = .next { (regStore s F.FW_CMD_OP.off 0 v.toNat).1 with
        fw := { s.fw with
            busy := some { table := 0, op := 1, evict := bitOf v.toNat 11, done := true },
            res := (4, s.fw.resIdx, fwData s) } }) ∧
  -- FW_INSERT of a route that is not there
  (∀ (p : HostPort) (v : Word) (s : State),
    RegOpen s p true →
    s.fw.busy = none →
    bitOf v.toNat 31 = true →
    (regStore s F.FW_CMD_OP.off 0 v.toNat).2 = true →
    bitsOf v.toNat 3 0 = 1 ∧ bitsOf v.toNat 10 8 = 2 →
    fwReserved 2 (fwW s) = false →
    (lpmEnt (fwW s)).len ≤ addrBits (lpmEnt (fwW s)).v6 ∧
      (lpmEnt (fwW s)).pfx < 2 ^ addrBits (lpmEnt (fwW s)).v6 ∧
      (lpmEnt (fwW s)).pfx % 2 ^ (addrBits (lpmEnt (fwW s)).v6 - (lpmEnt (fwW s)).len) = 0 →
    s.fw.lpm.find? (lpmSame (lpmEnt (fwW s))) = none →
    lpmUsed s + lpmSlots (lpmEnt (fwW s)) ≤ 262144 →
    mget 0 s.fw.vers (lpmEnt (fwW s)).vrf ≠ 65535 →
    ∃ t, exec (.fwInsert p v []) s = .next t ∧ t.fw.lpm = lpmAdd (lpmEnt (fwW s)) s.fw.lpm ∧
      t.fw.vers = mset s.fw.vers (lpmEnt (fwW s)).vrf (mget 0 s.fw.vers (lpmEnt (fwW s)).vrf + 1) ∧
      t.fw.res.1 = 0 ∧ t.fw.res.2.2 = lpmWords true (lpmEnt (fwW s)) ∧
      t.fw.busy = some { table := 2, op := 1, evict := bitOf v.toNat 11, done := true } ∧
      t = { (regStore s F.FW_CMD_OP.off 0 v.toNat).1 with
          fw := { s.fw with
              lpm := t.fw.lpm, vers := t.fw.vers, seen := (fwKeep s).fw.seen, busy := t.fw.busy, res := t.fw.res } }) ∧
  -- FW_UPDATE of an exact-match entry: DEST and STATIC
  (∀ (p : HostPort) (v : Word) (n : Nat) (e : FEnt) (s : State),
    RegOpen s p true →
    s.fw.busy = none →
    bitOf v.toNat 31 = true →
    (regStore s F.FW_CMD_OP.off 0 v.toNat).2 = true →
    bitsOf v.toNat 3 0 = 2 ∧ bitsOf v.toNat 10 8 = 0 →
    fwReserved 0 (fwW s) = false →
    destOk s (destAt (fwW s) 10) = true →
    findEnt s.fw.em (bitsOf (fwW s 0) 11 0 :: (List.range 8).map fun i => fwW s (2 + i)) = some (n, e) →
    exec (.fwUpdate p v []) s = .next { (regStore s F.FW_CMD_OP.off 0 v.toNat).1 with
        fw := { s.fw with
            seen := (fwKeep s).fw.seen,
            busy := some { table := 0, op := 2, evict := bitOf v.toNat 11, done := true },
            res := (0, n, entWords false true { e with dest := destAt (fwW s) 10, stat := bitOf (fwW s 0) 30 }),
            em := mset s.fw.em n { e with dest := destAt (fwW s) 10, stat := bitOf (fwW s 0) 30 } } }) ∧
  -- FW_UPDATE of a next hop
  (∀ (p : HostPort) (v : Word) (s : State),
    RegOpen s p true →
    s.fw.busy = none →
    bitOf v.toNat 31 = true →
    (regStore s F.FW_CMD_OP.off 0 v.toNat).2 = true →
    bitsOf v.toNat 3 0 = 2 ∧ bitsOf v.toNat 10 8 = 3 →
    fwReserved 3 (fwW s) = false →
    (rd s F.FW_INDEX_INDEX) < 65536 →
    destOk s (destAt (fwW s) 2) = true →
    exec (.fwUpdate p v []) s = .next { (regStore s F.FW_CMD_OP.off 0 v.toNat).1 with
        fw := { s.fw with
            seen := (fwKeep s).fw.seen,
            busy := some { table := 3, op := 2, evict := bitOf v.toNat 11, done := true },
            res := (0, (rd s F.FW_INDEX_INDEX), [0, 0, destAt (fwW s) 2 % 2 ^ 32, destAt (fwW s) 2 / 2 ^ 32] ++
                List.replicate 12 0), nhs := mset s.fw.nhs (rd s F.FW_INDEX_INDEX) (destAt (fwW s) 2) } }) ∧
  -- FW_DELETE of an exact-match entry
  (∀ (p : HostPort) (v : Word) (n : Nat) (e : FEnt) (s : State),
    RegOpen s p true →
    s.fw.busy = none →
    bitOf v.toNat 31 = true →
    (regStore s F.FW_CMD_OP.off 0 v.toNat).2 = true →
    bitsOf v.toNat 3 0 = 3 ∧ bitsOf v.toNat 10 8 = 0 →
    fwReserved 0 (fwW s) = false →
    findEnt s.fw.em (bitsOf (fwW s 0) 11 0 :: (List.range 8).map fun i => fwW s (2 + i)) = some (n, e) →
    exec (.fwDelete p v []) s = .next { (regStore s F.FW_CMD_OP.off 0 v.toNat).1 with
        fw := { s.fw with
            seen := (fwKeep s).fw.seen,
            busy := some { table := 0, op := 3, evict := bitOf v.toNat 11, done := true },
            res := (0, n, entWords false false e), em := mdel s.fw.em n } }) ∧
  -- FW_DELETE of an exact-match key that is not there
  (∀ (p : HostPort) (v : Word) (s : State),
    RegOpen s p true →
    s.fw.busy = none →
    bitOf v.toNat 31 = true →
    (regStore s F.FW_CMD_OP.off 0 v.toNat).2 = true →
    bitsOf v.toNat 3 0 = 3 ∧ bitsOf v.toNat 10 8 = 0 →
    fwReserved 0 (fwW s) = false →
    findEnt s.fw.em (bitsOf (fwW s 0) 11 0 :: (List.range 8).map fun i => fwW s (2 + i)) = none →
    exec (.fwDelete p v []) s = .next { (regStore s F.FW_CMD_OP.off 0 v.toNat).1 with
        fw := { s.fw with
            busy := some { table := 0, op := 3, evict := bitOf v.toNat 11, done := true },
            res := (1, s.fw.resIdx, fwData s) } }) ∧
  -- FW_WALK at a position of the exact-match table that is taken
  (∀ (p : HostPort) (v : Word) (e : FEnt) (s : State),
    RegOpen s p true →
    s.fw.busy = none →
    bitOf v.toNat 31 = true →
    (regStore s F.FW_CMD_OP.off 0 v.toNat).2 = true →
    bitsOf v.toNat 3 0 = 4 ∧ bitsOf v.toNat 10 8 = 0 →
    fwReserved 0 (fwW s) = false →
    mget? s.fw.em (rd s F.FW_INDEX_INDEX) = some e →
    exec (.fwWalk p v []) s = .next { (regStore s F.FW_CMD_OP.off 0 v.toNat).1 with
        fw := { s.fw with
            busy := some { table := 0, op := 4, evict := bitOf v.toNat 11, done := true },
            res := (0, (rd s F.FW_INDEX_INDEX), entWords false true e) } }) ∧
  -- FW_WALK at one that is free
  (∀ (p : HostPort) (v : Word) (s : State),
    RegOpen s p true →
    s.fw.busy = none →
    bitOf v.toNat 31 = true →
    (regStore s F.FW_CMD_OP.off 0 v.toNat).2 = true →
    bitsOf v.toNat 3 0 = 4 ∧ bitsOf v.toNat 10 8 = 0 →
    fwReserved 0 (fwW s) = false →
    mget? s.fw.em (rd s F.FW_INDEX_INDEX) = none →
    exec (.fwWalk p v []) s = .next { (regStore s F.FW_CMD_OP.off 0 v.toNat).1 with
        fw := { s.fw with
            busy := some { table := 0, op := 4, evict := bitOf v.toNat 11, done := true },
            res := (0, (rd s F.FW_INDEX_INDEX), List.replicate 16 0) } }) ∧
  -- FW_FLUSH of the exact-match table begins
  (∀ (p : HostPort) (v : Word) (s : State),
    RegOpen s p true →
    s.fw.busy = none →
    bitOf v.toNat 31 = true →
    (regStore s F.FW_CMD_OP.off 0 v.toNat).2 = true →
    bitsOf v.toNat 3 0 = 5 ∧ bitsOf v.toNat 10 8 = 0 →
    fwReserved 0 (fwW s) = false →
    exec (.fwFlush p v) s = .next { (regStore s F.FW_CMD_OP.off 0 v.toNat).1 with
        fw := { s.fw with
            busy := some { table := 0, op := 5, evict := bitOf v.toNat 11, done := false },
            res := (0, s.fw.resIdx, fwData s) } }) ∧
  -- One PCLK of a FLUSH: the next entry that the selectors name goes
  (∀ (c : FwCmd) (n : Nat) (s : State),
    s.fw.busy = some c →
    c.op = 5 ∧ c.table = 0 ∧ c.done = false ∧ c.ahead = [] →
    s.tblq = [] →
    flushNext s 0 (fwW s) c.cursor = some n →
    fwTick s = { s with
        fw := { s.fw with
            seen := (fwKeep s).fw.seen, em := mdel s.fw.em n, busy := some { c with cursor := n + 1 } } }) ∧
  -- FW_CMD_END of a LOOKUP that found its entry: position and words of the entry as it stands
  (∀ (c : FwCmd) (n : Nat) (e : FEnt) (s : State),
    s.fw.busy = some c →
    c.done = true ∧ c.op = 0 ∧ c.table = 0 →
    s.fw.res.1 = 0 →
    findEnt s.fw.em (bitsOf (fwW s 0) 11 0 :: (List.range 8).map fun i => fwW s (2 + i)) = some (n, e) →
    ∃ t, exec .fwCmdEnd s = .next t ∧
      (∀ i : Fin 16, rget t (F.FW_DATA_W.off + 4 * i.val) = (entWords false true e).getD i.val 0 % 2 ^ 32) ∧
      (∀ o k, o < 2 ^ 26 → k = 0 → (o < F.FW_DATA_W.off ∨ F.FW_DATA_W.off + 64 ≤ o) → rget t o k = rget s o k) ∧
      t = { s with regs := t.regs, fw := { s.fw with busy := none, result := 0, resIdx := n, res := (0, 0, []) } }) ∧
  -- FW_CMD_END of an INSERT of a key that was there
  (∀ (c : FwCmd) (n : Nat) (e : FEnt) (s : State),
    s.fw.busy = some c →
    c.done = true ∧ c.op = 1 ∧ c.table = 0 →
    s.fw.res.1 = 2 →
    findEnt s.fw.em (bitsOf (fwW s 0) 11 0 :: (List.range 8).map fun i => fwW s (2 + i)) = some (n, e) →
    ∃ t, exec .fwCmdEnd s = .next t ∧
      (∀ i : Fin 16, rget t (F.FW_DATA_W.off + 4 * i.val) = (entWords false true e).getD i.val 0 % 2 ^ 32) ∧
      (∀ o k, o < 2 ^ 26 → k = 0 → (o < F.FW_DATA_W.off ∨ F.FW_DATA_W.off + 64 ≤ o) → rget t o k = rget s o k) ∧
      t = { s with regs := t.regs, fw := { s.fw with busy := none, result := 2, resIdx := n, res := (0, 0, []) } }) ∧
  -- FW_CMD_END of a command that found nothing, had no room or was refused
  (∀ (c : FwCmd) (s : State),
    s.fw.busy = some c →
    c.done = true →
    s.fw.res.1 ≠ 0 ∧ s.fw.res.1 ≠ 2 →
    ∃ t, exec .fwCmdEnd s = .next t ∧
      (∀ i : Fin 16, rget t (F.FW_DATA_W.off + 4 * i.val) = (s.fw.res.2.2).getD i.val 0 % 2 ^ 32) ∧
      (∀ o k, o < 2 ^ 26 → k = 0 → (o < F.FW_DATA_W.off ∨ F.FW_DATA_W.off + 64 ≤ o) → rget t o k = rget s o k) ∧
      t = { s with
          regs := t.regs,
          fw := { s.fw with busy := none, result := s.fw.res.1, resIdx := s.fw.res.2.1, res := (0, 0, []) } }) ∧
  -- FW_CMD_END of a FLUSH with nothing left to remove
  (∀ (c : FwCmd) (s : State),
    s.fw.busy = some c →
    c.op = 5 ∧ c.table = 0 ∧ c.done = false ∧ c.ahead = [] →
    s.fw.res.1 = 0 →
    flushNext s 0 (fwW s) c.cursor = none →
    ∃ t, exec .fwCmdEnd s = .next t ∧
      (∀ i : Fin 16, rget t (F.FW_DATA_W.off + 4 * i.val) = (s.fw.res.2.2).getD i.val 0 % 2 ^ 32) ∧
      (∀ o k, o < 2 ^ 26 → k = 0 → (o < F.FW_DATA_W.off ∨ F.FW_DATA_W.off + 64 ≤ o) → rget t o k = rget s o k) ∧
      t = { s with
          regs := t.regs, fw := { s.fw with busy := none, result := 0, resIdx := s.fw.res.2.1, res := (0, 0, []) } }) ∧
  -- LEARN_EVENT of a station that has moved, after its HOLD time
  (∀ (b : Fin 16) (v : LearnEv) (r : List LearnEv) (n : Nat) (e : FEnt) (s : State),
    mget [] s.fw.banks b.val = v :: r →
    findEnt s.fw.l2 [v.bd, v.mac] = some (n, e) →
    e.dest ≠ portDest v.port →
    e.stat = false →
    rd s F.FW_L2_CFG_HOLD * 1000 ≤ v.ns - e.stamp * 1024 →
    s.fw.busy = none →
    s.tblq = [] →
    exec (.learnEvent b []) s = .next (cadd { s with
        fw := { s.fw with
            banks := msetD [] s.fw.banks b.val r, seen := (fwKeep s).fw.seen,
            l2 := mset s.fw.l2 n { e with
                dest := portDest v.port, stamp := v.ns / 1024 % 2 ^ 54, hit := true, idle := false } } } 7 0 8 1)) ∧
  -- FW_LOOKUP_DONE of an exact-match search that hits
  (∀ (n : Nat) (x : PendFw) (q : Nat) (key : List Nat) (e : FEnt) (s : State),
    s.fw.pend = [x] →
    x.id = n ∧ x.dest = none →
    instMode s x.key.inst = 3 →
    emKey s x.key = some key →
    findEnt s.fw.em key = some (q, e) →
    fwSeen s = s →
    exec (.fwLookupDone n {}) s = .next (place (cadd { s with
        fw := { s.fw with pend := [], em := mset s.fw.em q { e with hit := true } } } 7 0 0 1) x.a e.dest)) ∧
  -- FW_LOOKUP_DONE of one that misses: the MISS destination
  (∀ (n : Nat) (x : PendFw) (key : List Nat) (s : State),
    s.fw.pend = [x] →
    x.id = n ∧ x.dest = none →
    instMode s x.key.inst = 3 →
    emKey s x.key = some key →
    findEnt s.fw.em key = none →
    fwSeen s = s →
    exec (.fwLookupDone n {}) s = .next (place (cadd { s with fw := { s.fw with pend := [] } } 7 0 1 1) x.a (instMiss
        s x.key.inst))) ∧
  -- FW_LOOKUP_DONE of a search of the learning table that hits
  (∀ (n : Nat) (x : PendFw) (m q : Nat) (e : FEnt) (s : State),
    s.fw.pend = [x] →
    x.id = n ∧ x.dest = none →
    instMode s x.key.inst = 2 ∧ bitOf (instW s x.key.inst 0) 29 = false →
    macAt x.key (bitsOf (instW s x.key.inst 1) 15 12) = some m →
    findEnt s.fw.l2 [instScope s x.key.inst, m] = some (q, e) →
    fwSeen s = s →
    exec (.fwLookupDone n {}) s = .next (place (cadd { s with fw := { s.fw with pend := [] } } 7 0 5 1) x.a e.dest)) ∧
  -- FW_LOOKUP_DONE of a frame whose hit names the null egress queue: the frame goes, and its buffer
  (∀ (n : Nat) (x : PendFw) (q : Nat) (key : List Nat) (e : FEnt) (s : State),
    s.fw.pend = [x] →
    x.id = n ∧ x.dest = none →
    instMode s x.key.inst = 3 →
    emKey s x.key = some key →
    findEnt s.fw.em key = some (q, e) →
    e.dest = 0x7FFFFFFF00000000 →
    x.a.buf = none →
    fwSeen s = s →
    ∃ t, exec (.fwLookupDone n {}) s = .next t ∧
      t.fw = { s.fw with pend := [], em := mset s.fw.em q { e with hit := true } } ∧
      t = { s with
          fw := t.fw, cnt := t.cnt, free := t.free, macs := t.macs,
          lk := { s.lk with intake := t.lk.intake, once := t.lk.once, lost := t.lk.lost }, out := t.out }) ∧
  -- FW_LOOKUP_DONE sees the tables as they stood before the changes of its PCLK: an entry that has gone hits
  (∀ (n : Nat) (x : PendFw) (q : Nat) (key : List Nat) (e : FEnt) (v : FwSeen) (s : State),
    s.fw.pend = [x] →
    x.id = n ∧ x.dest = none →
    s.fw.seen = some v →
    v.at_ = s.clk →
    v.aged = [] →
    instMode (fwSeen s) x.key.inst = 3 →
    emKey (fwSeen s) x.key = some key →
    findEnt v.em key = some (q, e) →
    s.fw.em = [] →
    exec (.fwLookupDone n {}) s = .next (place (cadd { s with fw := { s.fw with pend := [] } } 7 0 0 1) x.a e.dest)) ∧
  -- LEARN_EVENT and AGE_VISIT leave what a lookup of their PCLK sees
  (∀ (b : Fin 16) (k : Bool) (s : State),
    (∃ t, exec (.learnEvent b []) s = .next t ∧ (fwSeen t).fw.l2 = (fwSeen s).fw.l2) ∧
      (∃ t, exec (.ageVisit k) s = .next t ∧ (fwSeen t).fw.l2 = (fwSeen s).fw.l2 ∧ (fwSeen t).fw.em = (fwSeen s).fw.em))

/-- PEER_BUF_ALLOC and PEER_BUF_FREE. An allocation that finds its buffers and room in the area writes their
handles there, records the list with the tenant and answers its address; a list that no enabled window names is
freed with its buffers. (R109, R220, R225) -/
def Obligations.PeerBufferLists : Prop :=
  -- PEER_BUF_ALLOC
  (∀ (p : HostPort) (e : Entry) (l : List Nat) (u s : State),
    AdminCmd s p.val 0x19 e →
    2 ≤ dw e 4 ∧ dw e 4 ≤ 5 ∧ 1 ≤ dw e 5 ∧ dw e 5 ≤ 65536 ∧ dwZero e 6 15 = true →
    (allocMany s (hIdx (dw e 1)) (dw e 4) (dw e 5) []).toOption = some (l, u) →
    (pickList s (4 * dw e 5)).isSome = true →
    ∃ o, pickList s (4 * dw e 5) = some o ∧
      exec (.peerBufAlloc p) s = .next (finishAdmin (modTen { u with
          free := u.free + 1, sysmem := writeMem u.sysmem (listBase + o) (l.flatMap fun h => leBytes 4 h) } (hIdx (dw
          e 1)) fun x => { x with lists := (listBase + o, l) :: x.lists }) p.val .success (listBase + o))) ∧
  -- PEER_BUF_FREE
  (∀ (p : HostPort) (e : Entry) (x : Tenant) (l : Nat × List Nat) (s : State),
    AdminCmd s p.val 0x1A e →
    mget? s.tens (hIdx (dw e 1)) = some x →
    x.lists.find? (·.1 = dw2 e 4) = some l →
    dwZero e 6 15 = true →
    listNamed s p.val (dw2 e 4) = false →
    exec (.peerBufFree p) s = .next (finishAdmin (modTen (l.2.foldl devFree s) (hIdx (dw e 1)) fun x => { x with
        lists := x.lists.filter (·.1 ≠ dw2 e 4) }) p.val .success 0))

/-- HBM controller: temperature, refresh, activates, scrub, training and migration. A reading is stored with its
maximum and with the doubling of refresh above 85 C; a refresh is noted and counted; a new window clears the
activate tables of its stack and takes MC_SCHED and MC_ACT_CFG; activates are counted and every THRESH refreshes
the neighbours; scrub visits advance; training leaves its pattern and result; a migration opens on the first free
spare with MC_MIG_START, writes its open entry, copies unit by unit, sends every access to the spare after the
last, commits its entry and ends with MC_MIG_DONE. (R238, R239, R240, R241, R242, R244, R246) -/
def Obligations.HbmControllerCommands : Prop :=
  -- STACK_TEMP_SAMPLE between 82 and 85 C
  (∀ (k : Fin 4) (b : Byte) (s : State),
    msec 1 + (stackOf s k.val).sampled ≤ s.clk →
    lkAlive s = true →
    82 ≤ b.toNat →
    b.toNat ≤ 85 →
    exec (.stackTempSample k b) s = .next (thermStep (modStack s k.val fun x => { x with
        temp := b.toNat, maxC := max x.maxC b.toNat, sampled := s.clk }))) ∧
  -- STACK_TEMP_SAMPLE above 85 C of a stack in normal refresh
  (∀ (k : Fin 4) (b : Byte) (s : State),
    msec 1 + (stackOf s k.val).sampled ≤ s.clk →
    lkAlive s = true →
    85 < b.toNat →
    b.toNat ≤ 95 →
    (stackOf s k.val).twoX = false →
    exec (.stackTempSample k b) s = .next (thermStep (raise (modStack s k.val fun x => { x with
        temp := b.toNat, maxC := max x.maxC b.toNat, sampled := s.clk, twoX := true }) .mcTemp2x 0))) ∧
  -- BANK_REFRESH
  (∀ (c : Fin 264) (b : Fin 16) (l : Nat) (s : State),
    pcLive s c.val = true →
    mget 0 s.hbm.refAt (c.val * 16 + b.val) + refPs (stackOf s (pcStack c.val)) ≤ s.clk →
    logPc s c.val = some l →
    exec (.bankRefresh c b) s = .next (cadd { s with
        hbm := { s.hbm with refAt := mset s.hbm.refAt (c.val * 16 + b.val) s.clk } } 9 l 6 1)) ∧
  -- REFRESH_WINDOW_START
  (∀ (k : Fin 4) (s : State),
    hbmOn s = true →
    (stackOf s k.val).winAt + winPs (stackOf s k.val) ≤ s.clk →
    exec (.refreshWindowStart k) s = .next { s with
        hbm := { s.hbm with
            acts := mfilter (fun a _ => decide (pcStack (a / 4) ≠ k.val)) s.hbm.acts,
            stks := mset s.hbm.stks k.val { stackOf s k.val with
                winAt := s.clk, sched := rget s F.MC_SCHED_HIT_CAP.off, act := rget s F.MC_ACT_CFG_THRESH.off } } }) ∧
  -- NEIGHBOUR_REFRESH: n activates of a row in a table that is empty
  (∀ (c : Fin 264) (g : Fin 4) (r n l : Nat) (s : State),
    pcLive s c.val = true →
    0 < n →
    mget? s.hbm.acts (c.val * 4 + g.val) = none →
    n / (max 1 (actThresh s (pcStack c.val))) ≤ 1024 →
    logPc s c.val = some l →
    exec (.neighbourRefresh c g r n) s = .next (cadd (cadd { s with
        hbm := { s.hbm with
            acts := mset s.hbm.acts (c.val * 4 + g.val) { rows := [(r, n % (max 1 (actThresh s (pcStack c.val))))],
                                                          refs := n / (max 1 (actThresh s (pcStack c.val))),
                                                          near := if n / (max 1 (actThresh s (pcStack c.val))) = 0
                                                              then [] else nearRows r (actRadius s (pcStack c.val)) } } }
        9 l 0 n) 9 l 1 (n / (max 1 (actThresh s (pcStack c.val)))))) ∧
  -- SCRUB_VISIT of a good block in the middle of a pass
  (∀ (c : Fin 264) (s : State),
    pcLive s c.val = true →
    s.md.degraded = [] →
    (mget {} s.hbm.scrub c.val).block ≠ 0 →
    (mget {} s.hbm.scrub c.val).period ≠ 0 →
    (mget {} s.hbm.scrub c.val).at_ + (mget {} s.hbm.scrub c.val).period * 3600 * 10 ^ 12 / pcBlocks c.val ≤ s.clk →
    exec (.scrubVisit c 0 false) s = .next { s with
        hbm := { s.hbm with
            scrub := mset s.hbm.scrub c.val { block := ((mget {} s.hbm.scrub c.val).block + 1) % pcBlocks c.val,
                                              at_ := s.clk, period := (mget {} s.hbm.scrub c.val).period } } }) ∧
  -- SCRUB_VISIT of an uncorrectable block
  (∀ (c : Fin 264) (l : Nat) (s : State),
    pcLive s c.val = true →
    s.md.degraded = [] →
    (mget {} s.hbm.scrub c.val).block ≠ 0 →
    (mget {} s.hbm.scrub c.val).period ≠ 0 →
    (mget {} s.hbm.scrub c.val).at_ + (mget {} s.hbm.scrub c.val).period * 3600 * 10 ^ 12 / pcBlocks c.val ≤ s.clk →
    logPc s c.val = some l →
    exec (.scrubVisit c 2 false) s = .next (wearNote (raise (cadd (cadd { s with
        hbm := { s.hbm with
            scrub := mset s.hbm.scrub c.val { block := ((mget {} s.hbm.scrub c.val).block + 1) % pcBlocks c.val,
                                              at_ := s.clk, period := (mget {} s.hbm.scrub c.val).period } } } 9 l 4
        1) 8 0 16 1) .msEccUncorr 0) .pcUncorr c.val)) ∧
  -- TRAIN_PATTERN_RUN
  (∀ (c : Fin 264) (l : Fin 16) (a b : Word) (s : State),
    lkRuns s = true →
    s.boot.stage = 5 →
    exec (.trainPatternRun c l a b) s = .next (rset (rset (rset s F.MC_TRN_CTRL_START.off 0 (2 ^ 31 + c.val * 2 ^ 8
        + l.val * 2 ^ 4)) F.MC_TRN_PAT_PATTERN.off 0 a.toNat) F.MC_TRN_RESULT_MISMATCH.off 0 ((if rget s
        F.MC_TRN_CTRL_START.off = 2 ^ 31 + c.val * 2 ^ 8 + l.val * 2 ^ 4 then rget s F.MC_TRN_RESULT_MISMATCH.off
        else 0) ||| b.toNat))) ∧
  -- MIG_START
  (∀ (w : Worn) (p n : Nat) (r : List Nat) (s : State),
    s.md.queue = [w] →
    w.kind = 2 →
    s.hbm.mig = .idle →
    hbmOn s = true →
    freeSpares s 2 (pcStack w.part) = p :: r →
    logPc s w.part = some n →
    2 ≤ fuseFree s →
    lkRuns s = true →
    exec .migStart s = .next (raise { s with
        md := { s.md with queue := [] },
        hbm := { s.hbm with
            mig := .open_, pc := n, old := w.part, spare := p, units := 0, since := s.clk, reason := w.reason,
            sec := ledgerSec s } } .mcMigStart n)) ∧
  -- MIG_OPEN_END
  (∀ (s : State),
    s.hbm.mig = .open_ →
    hbmOn s = true →
    lkRuns s = true →
    exec .migOpenEnd s = .next { s with
        md := { s.md with
            ledger := s.md.ledger ++ [{ committed := false, kind := 2, reason := s.hbm.reason, frm := s.hbm.old,
                                        to_ := s.hbm.spare, sec := s.hbm.sec }] },
        hbm := { s.hbm with mig := .copy, units := 0, since := s.clk } }) ∧
  -- MIG_COPY_UNIT
  (∀ (s : State),
    s.hbm.mig = .copy →
    hbmOn s = true →
    s.hbm.since + 64000 * (s.hbm.units + 1) ≤ s.clk →
    s.hbm.units + 1 ≠ pcUnits →
    exec .migCopyUnit s = .next { s with hbm := { s.hbm with units := s.hbm.units + 1 } }) ∧
  -- MIG_COPY_UNIT of the last unit
  (∀ (s : State),
    s.hbm.mig = .copy →
    hbmOn s = true →
    s.hbm.since + 64000 * (s.hbm.units + 1) ≤ s.clk →
    s.hbm.units + 1 = pcUnits →
    exec .migCopyUnit s = .next { s with
        hbm := { s.hbm with
            mig := .commit, units := pcUnits, since := s.clk, map := mset s.hbm.map s.hbm.pc s.hbm.spare } }) ∧
  -- MIG_COMMIT_END with the open entry last in the ledger
  (∀ (l : List LEntry) (e : LEntry) (s : State),
    s.hbm.mig = .commit →
    lkRuns s = true →
    s.md.ledger = l ++ [e] →
    e.kind = 2 ∧ e.frm = s.hbm.old ∧ e.to_ = s.hbm.spare ∧ e.void = false ∧ e.committed = false →
    (∀ x ∈ l, x.committed = true ∨ x.void = true) →
    exec .migCommitEnd s = .next { s with
        md := { s.md with ledger := l ++ [{ e with committed := true }] },
        hbm := { s.hbm with mig := .done, since := s.clk } }) ∧
  -- MC_MIG_DONE
  (∀ (s : State),
    s.hbm.mig = .done →
    lkRuns s = true →
    exec .mcMigDone s = .next (raise { s with hbm := { s.hbm with mig := .idle, out := s.hbm.old :: s.hbm.out } }
        .mcMigDone s.hbm.pc))

/-- Mender: tests, wear, substitutions and the ledger. A cipher unit that fails its known-answer test takes no
further request; a part in service whose count reaches its threshold is queued for its substitution, once; the
oldest worn part of a kind takes the lowest free spare of its group, with MD_SUBSTITUTED and an entry to be
written, or runs degraded with MD_SPARE_EXHAUSTED; a part that finds neither a free entry nor room in the volatile
table runs degraded; a cipher unit is tested and replaced only while it holds no request; entries are written one
at a time, in fuses or in the volatile table as was decided when the spare was taken. (R435, R436, R438, R439,
R440, R443, R444) -/
def Obligations.MenderCommands : Prop :=
  -- KAT_RUN that fails on an AES unit in service
  (∀ (u : Fin 68) (s : State),
    lkRuns s = true →
    inService s 4 u.val = true →
    replaced s 4 u.val = false →
    lsHeld s false u.val = 0 →
    exec (.katRun false u false) s = .next { s with
        ls := { s.ls with badAes := if u.val ∈ s.ls.badAes then s.ls.badAes else u.val :: s.ls.badAes } }) ∧
  -- WEAR_THRESHOLD_CROSS of a core
  (∀ (p c : Word) (s : State),
    lkRuns s = true →
    rd s F.LK_WEAR_0_CORE_UNCORR ≤ wearCount s .coreUncorr p.toNat →
    inService s 1 p.toNat = true →
    s.md.degraded = [] →
    s.md.queue = [] →
    freeSpares s 1 (wearGroup 1 p.toNat) ≠ [] →
    fuseFree s ≠ 0 →
    exec (.wearThresholdCross .coreUncorr p c) s = .next { s with
        md := { s.md with queue := [⟨1, p.toNat, 2, s.clk⟩] } }) ∧
  -- coreSubstitute
  (∀ (w : Worn) (p : Nat) (r : List Nat) (s : State),
    s.md.queue = [w] →
    w.kind = 1 →
    lkRuns s = true →
    freeSpares s w.kind (wearGroup w.kind w.part) = p :: r →
    s.clOff = [] →
    fuseFree s ≠ 0 →
    exec .coreSubstitute s = .next (raise { s with
        md := { s.md with
            queue := [], subs := s.md.subs ++ [(w.kind, w.part, p)],
            unwritten := s.md.unwritten ++ [({ committed := true, kind := w.kind, reason := w.reason, frm := w.part,
                                               to_ := p, sec := ledgerSec s }, s.clk)] } } .mdSubstituted 0)) ∧
  -- lpmBankSubstitute
  (∀ (w : Worn) (p : Nat) (r : List Nat) (s : State),
    s.md.queue = [w] →
    w.kind = 3 →
    lkRuns s = true →
    freeSpares s w.kind (wearGroup w.kind w.part) = p :: r →
    fuseFree s ≠ 0 →
    exec .lpmBankSubstitute s = .next (raise { s with
        md := { s.md with
            queue := [], subs := s.md.subs ++ [(w.kind, w.part, p)],
            unwritten := s.md.unwritten ++ [({ committed := true, kind := w.kind, reason := w.reason, frm := w.part,
                                               to_ := p, sec := ledgerSec s }, s.clk)] } } .mdSubstituted 0)) ∧
  -- CIPHER_UNIT_SUBSTITUTE of an AES unit
  (∀ (w : Worn) (p : Nat) (r : List Nat) (s : State),
    s.md.queue = [w] →
    w.kind = 4 →
    lkRuns s = true →
    freeSpares s w.kind (wearGroup w.kind w.part) = p :: r →
    fuseFree s ≠ 0 →
    lsHeld s false w.part = 0 →
    exec .cipherUnitSubstitute s = .next (raise { s with
        md := { s.md with
            queue := [], subs := s.md.subs ++ [(w.kind, w.part, p)],
            unwritten := s.md.unwritten ++ [({ committed := true, kind := w.kind, reason := w.reason, frm := w.part,
                                               to_ := p, sec := ledgerSec s }, s.clk)] },
        ls := { s.ls with badAes := s.ls.badAes.filter (· ≠ w.part) } } .mdSubstituted 0)) ∧
  -- ROW_REMAP, with or without a spare row
  (∀ (w : Worn) (s : State),
    s.md.queue = [w] →
    w.kind = 6 ∨ w.kind = 7 →
    lkRuns s = true →
    fuseFree s ≠ 0 →
    exec .rowRemap s = .next (if freeSpares s w.kind (wearGroup w.kind w.part) = [] then raise { s with
        md := { s.md with queue := [], degraded := s.md.degraded ++ [(w.kind, w.part)] } } .mdSpareExhausted 0 else
        rowFresh (raise { s with
        md := { s.md with
            queue := [],
            subs := s.md.subs ++ [(w.kind, w.part, (freeSpares s w.kind (wearGroup w.kind w.part)).headD 0)],
            unwritten := s.md.unwritten ++ [({ committed := true, kind := w.kind, reason := w.reason, frm := w.part,
                                               to_ := (freeSpares s w.kind (wearGroup w.kind w.part)).headD 0,
                                               sec := ledgerSec s }, s.clk)] } } .mdSubstituted 0) w.part)) ∧
  -- LEDGER_WRITE into fuses
  (∀ (e : LEntry) (n : Nat) (r : List (LEntry × Nat)) (s : State),
    s.md.unwritten = (e, n) :: r →
    lkRuns s = true →
    e.committed = true →
    exec .ledgerWrite s = .next { s with md := { s.md with unwritten := r, ledger := s.md.ledger ++ [e] } }) ∧
  -- LEDGER_WRITE into the volatile table
  (∀ (e : LEntry) (n : Nat) (r : List (LEntry × Nat)) (s : State),
    s.md.unwritten = (e, n) :: r →
    lkRuns s = true →
    e.committed = false →
    exec .ledgerWrite s = .next { s with md := { s.md with unwritten := r, volat := s.md.volat ++ [e] } }) ∧
  -- CORE_SUBSTITUTE with no entry of the ledger free: it takes its spare until the next loss of power, and
  -- MD_LEDGER_FULL is raised
  (∀ (w : Worn) (p : Nat) (r : List Nat) (s : State),
    s.md.queue = [w] →
    w.kind = 1 →
    lkRuns s = true →
    freeSpares s w.kind (wearGroup w.kind w.part) = p :: r →
    s.clOff = [] →
    fuseFree s = 0 →
    volatRoom s = true →
    s.md.full = false →
    exec .coreSubstitute s = .next (raise (raise { s with
        md := { s.md with
            queue := [], full := true, subs := s.md.subs ++ [(w.kind, w.part, p)],
            unwritten := s.md.unwritten ++ [({ committed := false, kind := w.kind, reason := w.reason, frm := w.part,
                                               to_ := p, sec := ledgerSec s }, s.clk)] } } .mdLedgerFull 0)
        .mdSubstituted 0)) ∧
  -- CORE_SUBSTITUTE with no entry free, and no room in the volatile table: the core runs degraded
  (∀ (w : Worn) (p : Nat) (r : List Nat) (s : State),
    s.md.queue = [w] →
    w.kind = 1 →
    lkRuns s = true →
    freeSpares s w.kind (wearGroup w.kind w.part) = p :: r →
    s.clOff = [] →
    fuseFree s = 0 →
    volatRoom s = false →
    s.md.full = true →
    exec .coreSubstitute s = .next (coreOffline { s with
        md := { s.md with queue := [], degraded := s.md.degraded ++ [(w.kind, w.part)] } } w.part)) ∧
  -- CIPHER_UNIT_SUBSTITUTE of an AES unit that holds a request: nothing yet
  (∀ (w : Worn) (s : State),
    s.md.queue = [w] →
    w.kind = 4 →
    lsHeld s false w.part ≠ 0 →
    exec .cipherUnitSubstitute s = .next s) ∧
  -- KAT_RUN of an AES unit that holds a request: it is not idle, nothing
  (∀ (u : Fin 68) (s : State),
    lsHeld s false u.val = 1 →
    exec (.katRun false u false) s = .next s)

/-- Flow-core arithmetic: rd takes the result. A thread that issues one of the register, immediate, shift,
multiply, divide, count, HWSET and HWINS instructions retires it with rd, unless it is w0, holding the result, and
the PC moved on by one word. A divisor of 0 gives all ones in DIVU and rs1 in REMU. (R249, R272, R274, R275) -/
def Obligations.FlowArithmetic : Prop :=
  -- ADD
  (∀ (c : CoreId) (n : ThreadId) (th : Thr) (i : FcI) (s : State),
    Issues s c.val n.val .add th i →
    exec (.add c n) s = .next (retired (next1 s c.val n.val (wset th i.a.val ((wget th i.b.val) + (wget th i.c.val))))
        c.val n.val)) ∧
  -- SUB
  (∀ (c : CoreId) (n : ThreadId) (th : Thr) (i : FcI) (s : State),
    Issues s c.val n.val .sub th i →
    exec (.sub c n) s = .next (retired (next1 s c.val n.val (wset th i.a.val ((wget th i.b.val) - (wget th i.c.val))))
        c.val n.val)) ∧
  -- AND
  (∀ (c : CoreId) (n : ThreadId) (th : Thr) (i : FcI) (s : State),
    Issues s c.val n.val .and th i →
    exec (.and c n) s = .next (retired (next1 s c.val n.val (wset th i.a.val ((wget th i.b.val) &&& (wget th i.c.val))))
        c.val n.val)) ∧
  -- OR
  (∀ (c : CoreId) (n : ThreadId) (th : Thr) (i : FcI) (s : State),
    Issues s c.val n.val .or th i →
    exec (.or c n) s = .next (retired (next1 s c.val n.val (wset th i.a.val ((wget th i.b.val) ||| (wget th i.c.val))))
        c.val n.val)) ∧
  -- XOR
  (∀ (c : CoreId) (n : ThreadId) (th : Thr) (i : FcI) (s : State),
    Issues s c.val n.val .xor th i →
    exec (.xor c n) s = .next (retired (next1 s c.val n.val (wset th i.a.val ((wget th i.b.val) ^^^ (wget th i.c.val))))
        c.val n.val)) ∧
  -- SLL
  (∀ (c : CoreId) (n : ThreadId) (th : Thr) (i : FcI) (s : State),
    Issues s c.val n.val .sll th i →
    exec (.sll c n) s = .next (retired (next1 s c.val n.val (wset th i.a.val ((wget th i.b.val) <<< ((wget th
        i.c.val).toNat % 64)))) c.val n.val)) ∧
  -- SRL
  (∀ (c : CoreId) (n : ThreadId) (th : Thr) (i : FcI) (s : State),
    Issues s c.val n.val .srl th i →
    exec (.srl c n) s = .next (retired (next1 s c.val n.val (wset th i.a.val ((wget th i.b.val) >>> ((wget th
        i.c.val).toNat % 64)))) c.val n.val)) ∧
  -- SRA
  (∀ (c : CoreId) (n : ThreadId) (th : Thr) (i : FcI) (s : State),
    Issues s c.val n.val .sra th i →
    exec (.sra c n) s = .next (retired (next1 s c.val n.val (wset th i.a.val ((wget th i.b.val).sshiftRight ((wget
        th i.c.val).toNat % 64)))) c.val n.val)) ∧
  -- SLT
  (∀ (c : CoreId) (n : ThreadId) (th : Thr) (i : FcI) (s : State),
    Issues s c.val n.val .slt th i →
    exec (.slt c n) s = .next (retired (next1 s c.val n.val (wset th i.a.val (if (wget th i.b.val).toInt < (wget th
        i.c.val).toInt then 1 else 0))) c.val n.val)) ∧
  -- SLTU
  (∀ (c : CoreId) (n : ThreadId) (th : Thr) (i : FcI) (s : State),
    Issues s c.val n.val .sltu th i →
    exec (.sltu c n) s = .next (retired (next1 s c.val n.val (wset th i.a.val (if (wget th i.b.val).toNat < (wget th
        i.c.val).toNat then 1 else 0))) c.val n.val)) ∧
  -- MUL
  (∀ (c : CoreId) (n : ThreadId) (th : Thr) (i : FcI) (s : State),
    Issues s c.val n.val .mul th i →
    exec (.mul c n) s = .next (retired (next1 s c.val n.val (wset th i.a.val ((wget th i.b.val) * (wget th i.c.val))))
        c.val n.val)) ∧
  -- MULHU
  (∀ (c : CoreId) (n : ThreadId) (th : Thr) (i : FcI) (s : State),
    Issues s c.val n.val .mulhu th i →
    exec (.mulhu c n) s = .next (retired (next1 s c.val n.val (wset th i.a.val (BitVec.ofNat 64 ((wget th i.b.val).toNat
        * (wget th i.c.val).toNat / 2 ^ 64)))) c.val n.val)) ∧
  -- DIVU
  (∀ (c : CoreId) (n : ThreadId) (th : Thr) (i : FcI) (s : State),
    Issues s c.val n.val .divu th i →
    exec (.divu c n) s = .next (retired (next1 s c.val n.val (wset th i.a.val (if (wget th i.c.val) = 0 then
        BitVec.allOnes 64 else BitVec.ofNat 64 ((wget th i.b.val).toNat / (wget th i.c.val).toNat)))) c.val n.val)) ∧
  -- REMU
  (∀ (c : CoreId) (n : ThreadId) (th : Thr) (i : FcI) (s : State),
    Issues s c.val n.val .remu th i →
    exec (.remu c n) s = .next (retired (next1 s c.val n.val (wset th i.a.val (if (wget th i.c.val) = 0 then (wget
        th i.b.val) else BitVec.ofNat 64 ((wget th i.b.val).toNat % (wget th i.c.val).toNat)))) c.val n.val)) ∧
  -- CLZ of a number below 2 to the 64 - k with its bit 63 - k set
  (∀ (c : CoreId) (n : ThreadId) (th : Thr) (i : FcI) (k : Nat) (s : State),
    Issues s c.val n.val .clz th i →
    k < 64 →
    (wget th i.b.val).toNat < 2 ^ (64 - k) →
    2 ^ (63 - k) ≤ (wget th i.b.val).toNat →
    exec (.clz c n) s = .next (retired (next1 s c.val n.val (wset th i.a.val (BitVec.ofNat 64 k))) c.val n.val)) ∧
  -- CLZ of 0
  (∀ (c : CoreId) (n : ThreadId) (th : Thr) (i : FcI) (s : State),
    Issues s c.val n.val .clz th i →
    (wget th i.b.val) = 0 →
    exec (.clz c n) s = .next (retired (next1 s c.val n.val (wset th i.a.val 64)) c.val n.val)) ∧
  -- POPC
  (∀ (c : CoreId) (n : ThreadId) (th : Thr) (i : FcI) (s : State),
    Issues s c.val n.val .popc th i →
    exec (.popc c n) s = .next (retired (next1 s c.val n.val (wset th i.a.val (BitVec.ofNat 64 ((List.range 64).filter
        fun k => (wget th i.b.val).getLsbD k).length))) c.val n.val)) ∧
  -- ADDI
  (∀ (c : CoreId) (n : ThreadId) (th : Thr) (i : FcI) (s : State),
    Issues s c.val n.val .addi th i →
    exec (.addi c n) s = .next (retired (next1 s c.val n.val (wset th i.a.val ((wget th i.b.val) + (BitVec.signExtend
        64 (BitVec.ofNat 16 i.imm))))) c.val n.val)) ∧
  -- ANDI
  (∀ (c : CoreId) (n : ThreadId) (th : Thr) (i : FcI) (s : State),
    Issues s c.val n.val .andi th i →
    exec (.andi c n) s = .next (retired (next1 s c.val n.val (wset th i.a.val ((wget th i.b.val) &&& (BitVec.ofNat
        64 i.imm)))) c.val n.val)) ∧
  -- ORI
  (∀ (c : CoreId) (n : ThreadId) (th : Thr) (i : FcI) (s : State),
    Issues s c.val n.val .ori th i →
    exec (.ori c n) s = .next (retired (next1 s c.val n.val (wset th i.a.val ((wget th i.b.val) ||| (BitVec.ofNat 64
        i.imm)))) c.val n.val)) ∧
  -- XORI
  (∀ (c : CoreId) (n : ThreadId) (th : Thr) (i : FcI) (s : State),
    Issues s c.val n.val .xori th i →
    exec (.xori c n) s = .next (retired (next1 s c.val n.val (wset th i.a.val ((wget th i.b.val) ^^^ (BitVec.ofNat
        64 i.imm)))) c.val n.val)) ∧
  -- EXTU
  (∀ (c : CoreId) (n : ThreadId) (th : Thr) (i : FcI) (s : State),
    Issues s c.val n.val .extu th i →
    exec (.extu c n) s = .next (retired (next1 s c.val n.val (wset th i.a.val (BitVec.ofNat 64 ((wget th i.b.val).toNat
        / 2 ^ (i.imm / 64) % 2 ^ (i.imm % 64 + 1))))) c.val n.val)) ∧
  -- SHI of mode 0
  (∀ (c : CoreId) (n : ThreadId) (th : Thr) (i : FcI) (s : State),
    Issues s c.val n.val .shi th i →
    i.imm / 64 = 0 →
    exec (.shi c n) s = .next (retired (next1 s c.val n.val (wset th i.a.val ((wget th i.b.val) <<< (i.imm % 64))))
        c.val n.val)) ∧
  -- SHI of mode 1
  (∀ (c : CoreId) (n : ThreadId) (th : Thr) (i : FcI) (s : State),
    Issues s c.val n.val .shi th i →
    i.imm / 64 = 1 →
    exec (.shi c n) s = .next (retired (next1 s c.val n.val (wset th i.a.val ((wget th i.b.val) >>> (i.imm % 64))))
        c.val n.val)) ∧
  -- SHI of mode 2
  (∀ (c : CoreId) (n : ThreadId) (th : Thr) (i : FcI) (s : State),
    Issues s c.val n.val .shi th i →
    i.imm / 64 = 2 →
    exec (.shi c n) s = .next (retired (next1 s c.val n.val (wset th i.a.val ((wget th i.b.val).sshiftRight (i.imm %
        64)))) c.val n.val)) ∧
  -- HWSET without SX
  (∀ (c : CoreId) (n : ThreadId) (th : Thr) (i : FcI) (s : State),
    Issues s c.val n.val .hwset th i →
    i.b.val < 4 →
    exec (.hwset c n) s = .next (retired (next1 s c.val n.val (wset th i.a.val ((BitVec.ofNat 64 i.imm) <<< (16 *
        i.b.val)))) c.val n.val)) ∧
  -- HWSET with SX
  (∀ (c : CoreId) (n : ThreadId) (th : Thr) (i : FcI) (s : State),
    Issues s c.val n.val .hwset th i →
    4 ≤ i.b.val →
    exec (.hwset c n) s = .next (retired (next1 s c.val n.val (wset th i.a.val ((BitVec.signExtend 64 (BitVec.ofNat
        16 i.imm)) <<< (16 * (i.b.val - 4))))) c.val n.val)) ∧
  -- HWINS
  (∀ (c : CoreId) (n : ThreadId) (th : Thr) (i : FcI) (s : State),
    Issues s c.val n.val .hwins th i →
    exec (.hwins c n) s = .next (retired (next1 s c.val n.val (wset th i.a.val (BitVec.ofNat 64 (setBits (wget th
        i.a.val).toNat (16 * i.b.val + 15) (16 * i.b.val) i.imm)))) c.val n.val))

/-- Flow-core branches, jumps and reads of special registers. A branch that is taken goes to PC plus its
sign-extended OFF16, one that is not goes to the next word; J and JAL go to PC plus OFF26, JALR to rs1 plus IMM16;
JAL leaves PC + 1 in w31 and JALR in rd; MFSR and FTREAD write rd. (R271, R275, R279, R24) -/
def Obligations.FlowControlTransfer : Prop :=
  -- BEQ
  (∀ (c : CoreId) (n : ThreadId) (th : Thr) (i : FcI) (s : State),
    Issues s c.val n.val .beq th i →
    exec (.beq c n) s = .next (retired (putThr s c.val n.val { th with
        pc := if (wget th i.a.val) = (wget th i.b.val) then pcPlus th.pc 16 i.imm else th.pc + 1 }) c.val n.val)) ∧
  -- BNE
  (∀ (c : CoreId) (n : ThreadId) (th : Thr) (i : FcI) (s : State),
    Issues s c.val n.val .bne th i →
    exec (.bne c n) s = .next (retired (putThr s c.val n.val { th with
        pc := if (wget th i.a.val) ≠ (wget th i.b.val) then pcPlus th.pc 16 i.imm else th.pc + 1 }) c.val n.val)) ∧
  -- BLT
  (∀ (c : CoreId) (n : ThreadId) (th : Thr) (i : FcI) (s : State),
    Issues s c.val n.val .blt th i →
    exec (.blt c n) s = .next (retired (putThr s c.val n.val { th with
        pc := if (wget th i.a.val).toInt < (wget th i.b.val).toInt then pcPlus th.pc 16 i.imm else th.pc + 1 })
        c.val n.val)) ∧
  -- BGE
  (∀ (c : CoreId) (n : ThreadId) (th : Thr) (i : FcI) (s : State),
    Issues s c.val n.val .bge th i →
    exec (.bge c n) s = .next (retired (putThr s c.val n.val { th with
        pc := if (wget th i.b.val).toInt ≤ (wget th i.a.val).toInt then pcPlus th.pc 16 i.imm else th.pc + 1 })
        c.val n.val)) ∧
  -- BLTU
  (∀ (c : CoreId) (n : ThreadId) (th : Thr) (i : FcI) (s : State),
    Issues s c.val n.val .bltu th i →
    exec (.bltu c n) s = .next (retired (putThr s c.val n.val { th with
        pc := if (wget th i.a.val).toNat < (wget th i.b.val).toNat then pcPlus th.pc 16 i.imm else th.pc + 1 })
        c.val n.val)) ∧
  -- BGEU
  (∀ (c : CoreId) (n : ThreadId) (th : Thr) (i : FcI) (s : State),
    Issues s c.val n.val .bgeu th i →
    exec (.bgeu c n) s = .next (retired (putThr s c.val n.val { th with
        pc := if (wget th i.b.val).toNat ≤ (wget th i.a.val).toNat then pcPlus th.pc 16 i.imm else th.pc + 1 })
        c.val n.val)) ∧
  -- J
  (∀ (c : CoreId) (n : ThreadId) (th : Thr) (i : FcI) (s : State),
    Issues s c.val n.val .j th i →
    exec (.j c n) s = .next (retired (putThr s c.val n.val { th with pc := pcPlus th.pc 26 i.off26 }) c.val n.val)) ∧
  -- JAL
  (∀ (c : CoreId) (n : ThreadId) (th : Thr) (i : FcI) (s : State),
    Issues s c.val n.val .jal th i →
    exec (.jal c n) s = .next (retired (putThr s c.val n.val { wset th 31 (BitVec.ofNat 64 (th.pc + 1)) with
        pc := pcPlus th.pc 26 i.off26 }) c.val n.val)) ∧
  -- JALR
  (∀ (c : CoreId) (n : ThreadId) (th : Thr) (i : FcI) (s : State),
    Issues s c.val n.val .jalr th i →
    exec (.jalr c n) s = .next (retired (putThr s c.val n.val { wset th i.a.val (BitVec.ofNat 64 (th.pc + 1)) with
        pc := ((wget th i.b.val) + (BitVec.signExtend 64 (BitVec.ofNat 16 i.imm))).toNat % 2 ^ 24 }) c.val n.val)) ∧
  -- MFSR
  (∀ (c : CoreId) (n : ThreadId) (th : Thr) (i : FcI) (s : State),
    Issues s c.val n.val .mfsr th i →
    exec (.mfsr c n) s = .next (retired (next1 s c.val n.val (wset th i.a.val (specialReg s c.val n.val th i.imm)))
        c.val n.val)) ∧
  -- FTREAD
  (∀ (c : CoreId) (n : ThreadId) (th : Thr) (i : FcI) (s : State),
    Issues s c.val n.val .ftread th i →
    exec (.ftread c n) s = .next (retired (next1 s c.val n.val (wset th i.a.val (BitVec.ofNat 64 (shortTs s))))
        c.val n.val)) ∧
  -- CSUM of at most 4,096 bytes in the slice, with no seed
  (∀ (c : CoreId) (n : ThreadId) (th : Thr) (i : FcI) (s : State),
    Issues s c.val n.val .csum th i →
    (wget th i.c.val).toNat ≤ 4096 →
    (wget th i.c.val).toNat = 0 ∨ inSlice s c.val n.val (wget th i.b.val).toNat (wget th i.c.val).toNat = true →
    heldBytes th (wget th i.b.val).toNat (wget th i.c.val).toNat = false →
    i.lo.val = 0 →
    exec (.csum c n .ok) s = .next (wpApply (retired (next1 s c.val n.val (wset th i.a.val (BitVec.ofNat 64 (foldSum (onesSum (lmRead
        s c.val (wget th i.b.val).toNat (wget th i.c.val).toNat) 0))))) c.val n.val) c.val n.val [((wget th i.b.val).toNat, (wget
        th i.c.val).toNat, false)])) ∧
  -- CHW
  (∀ (c : CoreId) (n : ThreadId) (th : Thr) (i : FcI) (s : State),
    Issues s c.val n.val .chw th i →
    exec (.chw c n) s = .next (retired (next1 s c.val n.val { th with
        slot := mset th.slot i.imm (wget th i.b.val) }) c.val n.val))

/-- Flow-core loads and stores in local memory. An access of 1, 2, 4 or 8 bytes at rs1 plus the sign-extended
IMM16, wholly in the slice of the thread and not held by a request, completes: a load puts the bytes,
zero-extended, in rd, the forms with suffix S most significant byte first; a store writes the low bytes of rd.
Outside the slice it faults SLICE; a load or a store that meets an error that cannot be corrected faults 4. (R253,
R266, R276, R277) -/
def Obligations.FlowLoadsAndStores : Prop :=
  -- LDB
  (∀ (c : CoreId) (n : ThreadId) (th : Thr) (i : FcI) (s : State),
    Issues s c.val n.val .ldb th i →
    inSlice s c.val n.val ((wget th i.b.val) + (BitVec.signExtend 64 (BitVec.ofNat 16 i.imm))).toNat 1 = true →
    heldBytes th ((wget th i.b.val) + (BitVec.signExtend 64 (BitVec.ofNat 16 i.imm))).toNat 1 = false →
    exec (.ldb c n .ok) s = .next (wpApply (retired (next1 s c.val n.val (wset th i.a.val (BitVec.ofNat 64 (leNat (lmRead
        s c.val ((wget th i.b.val) + (BitVec.signExtend 64 (BitVec.ofNat 16 i.imm))).toNat 1))))) c.val n.val) c.val
        n.val [(((wget th i.b.val) + (BitVec.signExtend 64 (BitVec.ofNat 16 i.imm))).toNat, 1, false)])) ∧
  -- LDB outside the slice
  (∀ (c : CoreId) (n : ThreadId) (th : Thr) (i : FcI) (e : LmErr) (s : State),
    Issues s c.val n.val .ldb th i →
    inSlice s c.val n.val ((wget th i.b.val) + (BitVec.signExtend 64 (BitVec.ofNat 16 i.imm))).toNat 1 = false →
    exec (.ldb c n e) s = .next (thrFault (issued s c.val n.val) c.val n.val 1)) ∧
  -- LDH
  (∀ (c : CoreId) (n : ThreadId) (th : Thr) (i : FcI) (s : State),
    Issues s c.val n.val .ldh th i →
    inSlice s c.val n.val ((wget th i.b.val) + (BitVec.signExtend 64 (BitVec.ofNat 16 i.imm))).toNat 2 = true →
    heldBytes th ((wget th i.b.val) + (BitVec.signExtend 64 (BitVec.ofNat 16 i.imm))).toNat 2 = false →
    exec (.ldh c n .ok) s = .next (wpApply (retired (next1 s c.val n.val (wset th i.a.val (BitVec.ofNat 64 (leNat (lmRead
        s c.val ((wget th i.b.val) + (BitVec.signExtend 64 (BitVec.ofNat 16 i.imm))).toNat 2))))) c.val n.val) c.val
        n.val [(((wget th i.b.val) + (BitVec.signExtend 64 (BitVec.ofNat 16 i.imm))).toNat, 2, false)])) ∧
  -- LDH outside the slice
  (∀ (c : CoreId) (n : ThreadId) (th : Thr) (i : FcI) (e : LmErr) (s : State),
    Issues s c.val n.val .ldh th i →
    inSlice s c.val n.val ((wget th i.b.val) + (BitVec.signExtend 64 (BitVec.ofNat 16 i.imm))).toNat 2 = false →
    exec (.ldh c n e) s = .next (thrFault (issued s c.val n.val) c.val n.val 1)) ∧
  -- LDW
  (∀ (c : CoreId) (n : ThreadId) (th : Thr) (i : FcI) (s : State),
    Issues s c.val n.val .ldw th i →
    inSlice s c.val n.val ((wget th i.b.val) + (BitVec.signExtend 64 (BitVec.ofNat 16 i.imm))).toNat 4 = true →
    heldBytes th ((wget th i.b.val) + (BitVec.signExtend 64 (BitVec.ofNat 16 i.imm))).toNat 4 = false →
    exec (.ldw c n .ok) s = .next (wpApply (retired (next1 s c.val n.val (wset th i.a.val (BitVec.ofNat 64 (leNat (lmRead
        s c.val ((wget th i.b.val) + (BitVec.signExtend 64 (BitVec.ofNat 16 i.imm))).toNat 4))))) c.val n.val) c.val
        n.val [(((wget th i.b.val) + (BitVec.signExtend 64 (BitVec.ofNat 16 i.imm))).toNat, 4, false)])) ∧
  -- LDW outside the slice
  (∀ (c : CoreId) (n : ThreadId) (th : Thr) (i : FcI) (e : LmErr) (s : State),
    Issues s c.val n.val .ldw th i →
    inSlice s c.val n.val ((wget th i.b.val) + (BitVec.signExtend 64 (BitVec.ofNat 16 i.imm))).toNat 4 = false →
    exec (.ldw c n e) s = .next (thrFault (issued s c.val n.val) c.val n.val 1)) ∧
  -- LDD
  (∀ (c : CoreId) (n : ThreadId) (th : Thr) (i : FcI) (s : State),
    Issues s c.val n.val .ldd th i →
    inSlice s c.val n.val ((wget th i.b.val) + (BitVec.signExtend 64 (BitVec.ofNat 16 i.imm))).toNat 8 = true →
    heldBytes th ((wget th i.b.val) + (BitVec.signExtend 64 (BitVec.ofNat 16 i.imm))).toNat 8 = false →
    exec (.ldd c n .ok) s = .next (wpApply (retired (next1 s c.val n.val (wset th i.a.val (BitVec.ofNat 64 (leNat (lmRead
        s c.val ((wget th i.b.val) + (BitVec.signExtend 64 (BitVec.ofNat 16 i.imm))).toNat 8))))) c.val n.val) c.val
        n.val [(((wget th i.b.val) + (BitVec.signExtend 64 (BitVec.ofNat 16 i.imm))).toNat, 8, false)])) ∧
  -- LDD outside the slice
  (∀ (c : CoreId) (n : ThreadId) (th : Thr) (i : FcI) (e : LmErr) (s : State),
    Issues s c.val n.val .ldd th i →
    inSlice s c.val n.val ((wget th i.b.val) + (BitVec.signExtend 64 (BitVec.ofNat 16 i.imm))).toNat 8 = false →
    exec (.ldd c n e) s = .next (thrFault (issued s c.val n.val) c.val n.val 1)) ∧
  -- LDHS
  (∀ (c : CoreId) (n : ThreadId) (th : Thr) (i : FcI) (s : State),
    Issues s c.val n.val .ldhs th i →
    inSlice s c.val n.val ((wget th i.b.val) + (BitVec.signExtend 64 (BitVec.ofNat 16 i.imm))).toNat 2 = true →
    heldBytes th ((wget th i.b.val) + (BitVec.signExtend 64 (BitVec.ofNat 16 i.imm))).toNat 2 = false →
    exec (.ldhs c n .ok) s = .next (wpApply (retired (next1 s c.val n.val (wset th i.a.val (BitVec.ofNat 64 (beNat (lmRead
        s c.val ((wget th i.b.val) + (BitVec.signExtend 64 (BitVec.ofNat 16 i.imm))).toNat 2))))) c.val n.val) c.val
        n.val [(((wget th i.b.val) + (BitVec.signExtend 64 (BitVec.ofNat 16 i.imm))).toNat, 2, false)])) ∧
  -- LDHS outside the slice
  (∀ (c : CoreId) (n : ThreadId) (th : Thr) (i : FcI) (e : LmErr) (s : State),
    Issues s c.val n.val .ldhs th i →
    inSlice s c.val n.val ((wget th i.b.val) + (BitVec.signExtend 64 (BitVec.ofNat 16 i.imm))).toNat 2 = false →
    exec (.ldhs c n e) s = .next (thrFault (issued s c.val n.val) c.val n.val 1)) ∧
  -- LDWS
  (∀ (c : CoreId) (n : ThreadId) (th : Thr) (i : FcI) (s : State),
    Issues s c.val n.val .ldws th i →
    inSlice s c.val n.val ((wget th i.b.val) + (BitVec.signExtend 64 (BitVec.ofNat 16 i.imm))).toNat 4 = true →
    heldBytes th ((wget th i.b.val) + (BitVec.signExtend 64 (BitVec.ofNat 16 i.imm))).toNat 4 = false →
    exec (.ldws c n .ok) s = .next (wpApply (retired (next1 s c.val n.val (wset th i.a.val (BitVec.ofNat 64 (beNat (lmRead
        s c.val ((wget th i.b.val) + (BitVec.signExtend 64 (BitVec.ofNat 16 i.imm))).toNat 4))))) c.val n.val) c.val
        n.val [(((wget th i.b.val) + (BitVec.signExtend 64 (BitVec.ofNat 16 i.imm))).toNat, 4, false)])) ∧
  -- LDWS outside the slice
  (∀ (c : CoreId) (n : ThreadId) (th : Thr) (i : FcI) (e : LmErr) (s : State),
    Issues s c.val n.val .ldws th i →
    inSlice s c.val n.val ((wget th i.b.val) + (BitVec.signExtend 64 (BitVec.ofNat 16 i.imm))).toNat 4 = false →
    exec (.ldws c n e) s = .next (thrFault (issued s c.val n.val) c.val n.val 1)) ∧
  -- LDDS
  (∀ (c : CoreId) (n : ThreadId) (th : Thr) (i : FcI) (s : State),
    Issues s c.val n.val .ldds th i →
    inSlice s c.val n.val ((wget th i.b.val) + (BitVec.signExtend 64 (BitVec.ofNat 16 i.imm))).toNat 8 = true →
    heldBytes th ((wget th i.b.val) + (BitVec.signExtend 64 (BitVec.ofNat 16 i.imm))).toNat 8 = false →
    exec (.ldds c n .ok) s = .next (wpApply (retired (next1 s c.val n.val (wset th i.a.val (BitVec.ofNat 64 (beNat (lmRead
        s c.val ((wget th i.b.val) + (BitVec.signExtend 64 (BitVec.ofNat 16 i.imm))).toNat 8))))) c.val n.val) c.val
        n.val [(((wget th i.b.val) + (BitVec.signExtend 64 (BitVec.ofNat 16 i.imm))).toNat, 8, false)])) ∧
  -- LDDS outside the slice
  (∀ (c : CoreId) (n : ThreadId) (th : Thr) (i : FcI) (e : LmErr) (s : State),
    Issues s c.val n.val .ldds th i →
    inSlice s c.val n.val ((wget th i.b.val) + (BitVec.signExtend 64 (BitVec.ofNat 16 i.imm))).toNat 8 = false →
    exec (.ldds c n e) s = .next (thrFault (issued s c.val n.val) c.val n.val 1)) ∧
  -- A load that meets an uncorrectable error
  (∀ (c : CoreId) (n : ThreadId) (th : Thr) (i : FcI) (s : State),
    Issues s c.val n.val .ldw th i →
    inSlice s c.val n.val ((wget th i.b.val) + (BitVec.signExtend 64 (BitVec.ofNat 16 i.imm))).toNat 4 = true →
    heldBytes th ((wget th i.b.val) + (BitVec.signExtend 64 (BitVec.ofNat 16 i.imm))).toNat 4 = false →
    exec (.ldw c n .lost) s = .next (thrFault (issued (coreWear s .coreUncorr c.val) c.val n.val) c.val n.val 4)) ∧
  -- STB
  (∀ (c : CoreId) (n : ThreadId) (th : Thr) (i : FcI) (s : State),
    Issues s c.val n.val .stb th i →
    inSlice s c.val n.val ((wget th i.b.val) + (BitVec.signExtend 64 (BitVec.ofNat 16 i.imm))).toNat 1 = true →
    heldBytes th ((wget th i.b.val) + (BitVec.signExtend 64 (BitVec.ofNat 16 i.imm))).toNat 1 = false →
    exec (.stb c n .ok) s = .next (wpApply (retired (takeInbox (lmWrite (next1 s c.val n.val th) c.val ((wget th
        i.b.val) + (BitVec.signExtend 64 (BitVec.ofNat 16 i.imm))).toNat (leBytes 1 (wget th i.a.val).toNat)) c.val
        n.val) c.val n.val) c.val n.val [(((wget th i.b.val) + (BitVec.signExtend 64 (BitVec.ofNat 16 i.imm))).toNat,
        1, true)])) ∧
  -- STB outside the slice
  (∀ (c : CoreId) (n : ThreadId) (th : Thr) (i : FcI) (e : LmErr) (s : State),
    Issues s c.val n.val .stb th i →
    inSlice s c.val n.val ((wget th i.b.val) + (BitVec.signExtend 64 (BitVec.ofNat 16 i.imm))).toNat 1 = false →
    exec (.stb c n e) s = .next (thrFault (issued s c.val n.val) c.val n.val 1)) ∧
  -- STH
  (∀ (c : CoreId) (n : ThreadId) (th : Thr) (i : FcI) (s : State),
    Issues s c.val n.val .sth th i →
    inSlice s c.val n.val ((wget th i.b.val) + (BitVec.signExtend 64 (BitVec.ofNat 16 i.imm))).toNat 2 = true →
    heldBytes th ((wget th i.b.val) + (BitVec.signExtend 64 (BitVec.ofNat 16 i.imm))).toNat 2 = false →
    exec (.sth c n .ok) s = .next (wpApply (retired (takeInbox (lmWrite (next1 s c.val n.val th) c.val ((wget th
        i.b.val) + (BitVec.signExtend 64 (BitVec.ofNat 16 i.imm))).toNat (leBytes 2 (wget th i.a.val).toNat)) c.val
        n.val) c.val n.val) c.val n.val [(((wget th i.b.val) + (BitVec.signExtend 64 (BitVec.ofNat 16 i.imm))).toNat,
        2, true)])) ∧
  -- STH outside the slice
  (∀ (c : CoreId) (n : ThreadId) (th : Thr) (i : FcI) (e : LmErr) (s : State),
    Issues s c.val n.val .sth th i →
    inSlice s c.val n.val ((wget th i.b.val) + (BitVec.signExtend 64 (BitVec.ofNat 16 i.imm))).toNat 2 = false →
    exec (.sth c n e) s = .next (thrFault (issued s c.val n.val) c.val n.val 1)) ∧
  -- STW
  (∀ (c : CoreId) (n : ThreadId) (th : Thr) (i : FcI) (s : State),
    Issues s c.val n.val .stw th i →
    inSlice s c.val n.val ((wget th i.b.val) + (BitVec.signExtend 64 (BitVec.ofNat 16 i.imm))).toNat 4 = true →
    heldBytes th ((wget th i.b.val) + (BitVec.signExtend 64 (BitVec.ofNat 16 i.imm))).toNat 4 = false →
    exec (.stw c n .ok) s = .next (wpApply (retired (takeInbox (lmWrite (next1 s c.val n.val th) c.val ((wget th
        i.b.val) + (BitVec.signExtend 64 (BitVec.ofNat 16 i.imm))).toNat (leBytes 4 (wget th i.a.val).toNat)) c.val
        n.val) c.val n.val) c.val n.val [(((wget th i.b.val) + (BitVec.signExtend 64 (BitVec.ofNat 16 i.imm))).toNat,
        4, true)])) ∧
  -- STW outside the slice
  (∀ (c : CoreId) (n : ThreadId) (th : Thr) (i : FcI) (e : LmErr) (s : State),
    Issues s c.val n.val .stw th i →
    inSlice s c.val n.val ((wget th i.b.val) + (BitVec.signExtend 64 (BitVec.ofNat 16 i.imm))).toNat 4 = false →
    exec (.stw c n e) s = .next (thrFault (issued s c.val n.val) c.val n.val 1)) ∧
  -- STD
  (∀ (c : CoreId) (n : ThreadId) (th : Thr) (i : FcI) (s : State),
    Issues s c.val n.val .std th i →
    inSlice s c.val n.val ((wget th i.b.val) + (BitVec.signExtend 64 (BitVec.ofNat 16 i.imm))).toNat 8 = true →
    heldBytes th ((wget th i.b.val) + (BitVec.signExtend 64 (BitVec.ofNat 16 i.imm))).toNat 8 = false →
    exec (.std c n .ok) s = .next (wpApply (retired (takeInbox (lmWrite (next1 s c.val n.val th) c.val ((wget th
        i.b.val) + (BitVec.signExtend 64 (BitVec.ofNat 16 i.imm))).toNat (leBytes 8 (wget th i.a.val).toNat)) c.val
        n.val) c.val n.val) c.val n.val [(((wget th i.b.val) + (BitVec.signExtend 64 (BitVec.ofNat 16 i.imm))).toNat,
        8, true)])) ∧
  -- STD outside the slice
  (∀ (c : CoreId) (n : ThreadId) (th : Thr) (i : FcI) (e : LmErr) (s : State),
    Issues s c.val n.val .std th i →
    inSlice s c.val n.val ((wget th i.b.val) + (BitVec.signExtend 64 (BitVec.ofNat 16 i.imm))).toNat 8 = false →
    exec (.std c n e) s = .next (thrFault (issued s c.val n.val) c.val n.val 1)) ∧
  -- STHS
  (∀ (c : CoreId) (n : ThreadId) (th : Thr) (i : FcI) (s : State),
    Issues s c.val n.val .sths th i →
    inSlice s c.val n.val ((wget th i.b.val) + (BitVec.signExtend 64 (BitVec.ofNat 16 i.imm))).toNat 2 = true →
    heldBytes th ((wget th i.b.val) + (BitVec.signExtend 64 (BitVec.ofNat 16 i.imm))).toNat 2 = false →
    exec (.sths c n .ok) s = .next (wpApply (retired (takeInbox (lmWrite (next1 s c.val n.val th) c.val ((wget th
        i.b.val) + (BitVec.signExtend 64 (BitVec.ofNat 16 i.imm))).toNat (beBytes 2 (wget th i.a.val).toNat)) c.val
        n.val) c.val n.val) c.val n.val [(((wget th i.b.val) + (BitVec.signExtend 64 (BitVec.ofNat 16 i.imm))).toNat,
        2, true)])) ∧
  -- STHS outside the slice
  (∀ (c : CoreId) (n : ThreadId) (th : Thr) (i : FcI) (e : LmErr) (s : State),
    Issues s c.val n.val .sths th i →
    inSlice s c.val n.val ((wget th i.b.val) + (BitVec.signExtend 64 (BitVec.ofNat 16 i.imm))).toNat 2 = false →
    exec (.sths c n e) s = .next (thrFault (issued s c.val n.val) c.val n.val 1)) ∧
  -- STWS
  (∀ (c : CoreId) (n : ThreadId) (th : Thr) (i : FcI) (s : State),
    Issues s c.val n.val .stws th i →
    inSlice s c.val n.val ((wget th i.b.val) + (BitVec.signExtend 64 (BitVec.ofNat 16 i.imm))).toNat 4 = true →
    heldBytes th ((wget th i.b.val) + (BitVec.signExtend 64 (BitVec.ofNat 16 i.imm))).toNat 4 = false →
    exec (.stws c n .ok) s = .next (wpApply (retired (takeInbox (lmWrite (next1 s c.val n.val th) c.val ((wget th
        i.b.val) + (BitVec.signExtend 64 (BitVec.ofNat 16 i.imm))).toNat (beBytes 4 (wget th i.a.val).toNat)) c.val
        n.val) c.val n.val) c.val n.val [(((wget th i.b.val) + (BitVec.signExtend 64 (BitVec.ofNat 16 i.imm))).toNat,
        4, true)])) ∧
  -- STWS outside the slice
  (∀ (c : CoreId) (n : ThreadId) (th : Thr) (i : FcI) (e : LmErr) (s : State),
    Issues s c.val n.val .stws th i →
    inSlice s c.val n.val ((wget th i.b.val) + (BitVec.signExtend 64 (BitVec.ofNat 16 i.imm))).toNat 4 = false →
    exec (.stws c n e) s = .next (thrFault (issued s c.val n.val) c.val n.val 1)) ∧
  -- A store that meets an uncorrectable error
  (∀ (c : CoreId) (n : ThreadId) (th : Thr) (i : FcI) (s : State),
    Issues s c.val n.val .stw th i →
    inSlice s c.val n.val ((wget th i.b.val) + (BitVec.signExtend 64 (BitVec.ofNat 16 i.imm))).toNat 4 = true →
    heldBytes th ((wget th i.b.val) + (BitVec.signExtend 64 (BitVec.ofNat 16 i.imm))).toNat 4 = false →
    exec (.stw c n .lost) s = .next (thrFault (issued (coreWear s .coreUncorr c.val) c.val n.val) c.val n.val 4))

/-- EVWAIT, EVSEND, TMSET, the timer, the watchdog and mutual wait. EVWAIT with a pending bit of its mask takes and
clears the bits; with none the thread waits; EVSEND makes a bit pending on the thread that it names; TMSET sets or
disarms the timer; a timer that is due makes bit 17 pending; a watched wait beyond the limit faults WATCHDOG; after
1,024 CCLK of mutual wait the core restarts. (R251, R257, R260, R263, R278) -/
def Obligations.FlowEventsAndTimer : Prop :=
  -- EVWAIT with a matching bit
  (∀ (c : CoreId) (n : ThreadId) (th : Thr) (i : FcI) (s : State),
    Issues s c.val n.val .evwait th i →
    Nat.land th.ev ((wget th i.b.val).toNat % 2 ^ 32) ≠ 0 →
    exec (.evwait c n) s = .next (retired (next1 s c.val n.val { wset th i.a.val (BitVec.ofNat 64 (Nat.land th.ev ((wget
        th i.b.val).toNat % 2 ^ 32))) with
        ev := th.ev - Nat.land th.ev ((wget th i.b.val).toNat % 2 ^ 32) }) c.val n.val)) ∧
  -- EVWAIT with none, on bit 16 or 17
  (∀ (c : CoreId) (n : ThreadId) (th : Thr) (i : FcI) (s : State),
    Issues s c.val n.val .evwait th i →
    Nat.land th.ev ((wget th i.b.val).toNat % 2 ^ 32) = 0 →
    (wget th i.b.val).toNat % 2 ^ 32 ≠ 0 →
    th.stepping = false →
    bitOf ((wget th i.b.val).toNat % 2 ^ 32) 16 = true ∨ bitOf ((wget th i.b.val).toNat % 2 ^ 32) 17 = true →
    exec (.evwait c n) s = .next (putThr (issued s c.val n.val) c.val n.val { th with
        st := .waiting, wait := some ((wget th i.b.val).toNat % 2 ^ 32, i.a.val), wd := none })) ∧
  -- EVWAIT with none, on other bits: the wait is watched
  (∀ (c : CoreId) (n : ThreadId) (th : Thr) (i : FcI) (s : State),
    Issues s c.val n.val .evwait th i →
    Nat.land th.ev ((wget th i.b.val).toNat % 2 ^ 32) = 0 →
    (wget th i.b.val).toNat % 2 ^ 32 ≠ 0 →
    th.stepping = false →
    th.wd = none →
    bitOf ((wget th i.b.val).toNat % 2 ^ 32) 16 = false ∧ bitOf ((wget th i.b.val).toNat % 2 ^ 32) 17 = false →
    exec (.evwait c n) s = .next (putThr (issued s c.val n.val) c.val n.val { th with
        st := .waiting, wait := some ((wget th i.b.val).toNat % 2 ^ 32, i.a.val), wd := some (wdClock s) })) ∧
  -- EVSEND to a running thread of the own core
  (∀ (c : CoreId) (n : ThreadId) (th : Thr) (i : FcI) (s : State),
    Issues s c.val n.val .evsend th i →
    bitsOf (wget th i.b.val).toNat 23 16 = 255 →
    i.imm % 32 < 16 →
    (coreOf s c.val).st = .running →
    (thrOf (next1 s c.val n.val th) c.val ((wget th i.b.val).toNat % 16)).st = .running ∨ (thrOf (next1 s c.val
        n.val th) c.val ((wget th i.b.val).toNat % 16)).st = .waiting →
    exec (.evsend c n) s = .next (retired (setEvent (next1 s c.val n.val th) c.val ((wget th i.b.val).toNat % 16) (2
        ^ (i.imm % 32))) c.val n.val)) ∧
  -- TMSET of a time
  (∀ (c : CoreId) (n : ThreadId) (th : Thr) (i : FcI) (s : State),
    Issues s c.val n.val .tmset th i →
    (wget th i.b.val).toNat % 2 ^ 32 ≠ 0 →
    exec (.tmset c n) s = .next (retired (next1 s c.val n.val { th with
        timer := some (s.clk + (wget th i.b.val).toNat % 2 ^ 32 * 1000) }) c.val n.val)) ∧
  -- TMSET of 0
  (∀ (c : CoreId) (n : ThreadId) (th : Thr) (i : FcI) (s : State),
    Issues s c.val n.val .tmset th i →
    (wget th i.b.val).toNat % 2 ^ 32 = 0 →
    exec (.tmset c n) s = .next (retired (next1 s c.val n.val { th with timer := none }) c.val n.val)) ∧
  -- TIMER_EXPIRE
  (∀ (c : CoreId) (n : ThreadId) (d : Nat) (s : State),
    (thrOf s c.val n.val).timer = some d →
    d ≤ s.clk →
    (thrOf s c.val n.val).st ≠ .empty →
    exec (.timerExpire c n) s = .next (setEvent (modThr s c.val n.val fun th => { th with timer := none }) c.val
        n.val (2 ^ 17))) ∧
  -- WATCHDOG
  (∀ (c : CoreId) (n : ThreadId) (w : Nat) (s : State),
    (thrOf s c.val n.val).wd = some w →
    rd s F.FC_WDOG_EN 0 c.val = 1 →
    watched (thrOf s c.val n.val) = true →
    w + usec (rd s F.FC_WDOG_LIMIT 0 c.val) ≤ wdClock s →
    exec (.watchdog c n) s = .next (thrFault s c.val n.val 7)) ∧
  -- MUTUAL_WAIT of a core below its limit of restarts
  (∀ (c : CoreId) (s : State),
    (coreOf s c.val).st = .running →
    mutualWait (coreOf s c.val) = true →
    (coreOf s c.val).lastAct + 512000 ≤ s.clk →
    (coreOf s c.val).restarts = [] →
    (coreOf s c.val).held = [] →
    ringsOf s c.val = [] →
    (∀ x ∈ (coreOf s c.val).threads, x.2.inbox = []) →
    1 ≤ rd s F.FC_FAULT_POLICY_RESTART_MAX 0 c.val →
    anyHalted s = false →
    s.dbg.haltSince = none →
    exec (.mutualWait c) s = .next (raise (raise { s with
        cores := mset s.cores c.val { coreOf s c.val with
            st := .restarting, threads := [], accs := (dropThreads s (coreOf s c.val)).accs, fCode := 9,
            restarts := [s.clk], lastAct := s.clk, stopAt := s.clk } } .fcCoreRestart c.val) .mutualWait c.val)) ∧
  -- WATCHDOG under POLICY 2 or more: the thread is faulted, with the code
  (∀ (c : CoreId) (n : ThreadId) (w : Nat) (s : State),
    (thrOf s c.val n.val).wd = some w →
    rd s F.FC_WDOG_EN 0 c.val = 1 →
    watched (thrOf s c.val n.val) = true →
    w + usec (rd s F.FC_WDOG_LIMIT 0 c.val) ≤ wdClock s →
    2 ≤ rd s F.FC_FAULT_POLICY_POLICY 0 c.val →
    ∃ t, exec (.watchdog c n) s = .next t ∧ (thrOf t c.val n.val).st = .faulted ∧
      (thrOf t c.val n.val).wd = none ∧ (coreOf t c.val).fCode = 7 ∧ (coreOf t c.val).fThread = n.val ∧
      t.lk = (raise s .fcThreadFault c.val).lk)

/-- Requests to units: HMAP, HPUT, BALLOC, BFREE, BXFER, CRYPT, GFMUL, TBL, and the end of a stall. HMAP, HPUT and
BALLOC stall the thread, and the end of the stall writes rd and lets it go on; BFREE and BXFER give up a buffer
that the cluster owns; CRYPT, GFMUL and TBL queue a request that holds the local bytes it names and clear DONE of
its reply record; an operand block outside the slice faults SLICE, one that is not aligned ALIGN. (R228, R250,
R280, R281, R282, R285, R287) -/
def Obligations.FlowUnitRequests : Prop :=
  -- HMAP stalls the thread
  (∀ (c : CoreId) (n : ThreadId) (th : Thr) (i : FcI) (s : State),
    Issues s c.val n.val .hmap th i →
    exec (.hmap c n) s = .next (putThr (issued s c.val n.val) c.val n.val { th with
        stall := some (fcEncode i).toNat })) ∧
  -- HPUT stalls the thread
  (∀ (c : CoreId) (n : ThreadId) (th : Thr) (i : FcI) (s : State),
    Issues s c.val n.val .hput th i →
    exec (.hput c n) s = .next (putThr (issued s c.val n.val) c.val n.val { th with
        stall := some (fcEncode i).toNat })) ∧
  -- BALLOC stalls the thread
  (∀ (c : CoreId) (n : ThreadId) (th : Thr) (i : FcI) (s : State),
    Issues s c.val n.val .balloc th i →
    exec (.balloc c n) s = .next (putThr (issued s c.val n.val) c.val n.val { th with
        stall := some (fcEncode i).toNat })) ∧
  -- STALLED_INSTRUCTION_END of HMAP on a buffer that the core does not hold
  (∀ (c : CoreId) (n : ThreadId) (th : Thr) (i : FcI) (e : Ecc) (lm : LmErr) (s : State),
    thrOf s c.val n.val = th →
    th.stall = some (fcEncode i).toNat →
    i.wf = true →
    i.op = .hmap →
    running s = true →
    holds s c.val (wget th i.b.val).toNat = false →
    exec (.stalledInstructionEnd c n e lm) s = .next (wpApply (modThr (modThr s c.val n.val fun x => { wset x
        i.a.val (statusFail .invalidHandle) with
        pc := x.pc + 1, stall := none }) c.val n.val fun x => if x.stepping ∨ x.haltPend then { x with
        st := .halted, prev := .running, stepping := false, haltPend := false, wd := none } else { x with
        wd := none }) c.val n.val [((winAddr s c.val n.val (i.lo.val % 2)), 512, true)])) ∧
  -- of HPUT on a buffer that it holds
  (∀ (c : CoreId) (n : ThreadId) (th : Thr) (i : FcI) (e : Ecc) (lm : LmErr) (s : State),
    thrOf s c.val n.val = th →
    th.stall = some (fcEncode i).toNat →
    i.wf = true →
    i.op = .hput →
    running s = true →
    holds s c.val (wget th i.b.val).toNat = true →
    (wget th i.c.val).toNat + i.lo.val / 2 + 1 ≤ poolSize (bPool (wget th i.b.val).toNat) →
    lm = .ok →
    e = {} →
    exec (.stalledInstructionEnd c n e lm) s = .next (wpApply (modThr (modThr (storeWrite s (bufAddr s (wget th
        i.b.val).toNat (wget th i.c.val).toNat) (lmRead s c.val (winAddr s c.val n.val (i.lo.val % 2)) (i.lo.val / 2
        + 1))) c.val n.val fun x => { wset x i.a.val (BitVec.ofNat 64 (i.lo.val / 2 + 1)) with
        pc := x.pc + 1, stall := none }) c.val n.val fun x => if x.stepping ∨ x.haltPend then { x with
        st := .halted, prev := .running, stepping := false, haltPend := false, wd := none } else { x with
        wd := none }) c.val n.val [((winAddr s c.val n.val (i.lo.val % 2)), i.lo.val / 2 + 1, false)])) ∧
  -- of BALLOC with the held table of the thread full
  (∀ (c : CoreId) (n : ThreadId) (th : Thr) (i : FcI) (e : Ecc) (lm : LmErr) (s : State),
    thrOf s c.val n.val = th →
    th.stall = some (fcEncode i).toNat →
    i.wf = true →
    i.op = .balloc →
    running s = true →
    64 ≤ ((coreOf s c.val).held.filter (·.2 = n.val)).length →
    exec (.stalledInstructionEnd c n e lm) s = .next (wpApply (modThr (modThr (pmc s c.val n.val 12 1) c.val n.val
        fun x => { wset x i.a.val (statusFail .noResource 1) with pc := x.pc + 1, stall := none }) c.val n.val fun x
        => if x.stepping ∨ x.haltPend then { x with
        st := .halted, prev := .running, stepping := false, haltPend := false, wd := none } else { x with
        wd := none }) c.val n.val [])) ∧
  -- BFREE of a buffer that the cluster owns
  (∀ (c : CoreId) (n : ThreadId) (th : Thr) (i : FcI) (s : State),
    Issues s c.val n.val .bfree th i →
    (bufFree s (regHandle (wget th i.b.val)) (clusterReq c.val)).1 = none →
    exec (.bfree c n) s = .next (retired (next1 (unhold (bufFree s (regHandle (wget th i.b.val)) (clusterReq c.val)).2 (c.val
        / 12) (regHandle (wget th i.b.val))) c.val n.val (wset th i.a.val 0)) c.val n.val)) ∧
  -- BFREE of one that it may not free
  (∀ (c : CoreId) (n : ThreadId) (th : Thr) (i : FcI) (e : Status) (s : State),
    Issues s c.val n.val .bfree th i →
    (bufFree s (regHandle (wget th i.b.val)) (clusterReq c.val)).1 = some e →
    exec (.bfree c n) s = .next (retired (next1 (pmc (bufFree s (regHandle (wget th i.b.val)) (clusterReq c.val)).2
        c.val n.val 12 1) c.val n.val (wset th i.a.val (statusFail e))) c.val n.val)) ∧
  -- BXFER to a requester that does not exist
  (∀ (c : CoreId) (n : ThreadId) (th : Thr) (i : FcI) (s : State),
    Issues s c.val n.val .bxfer th i →
    4145 < (wget th i.c.val).toNat →
    exec (.bxfer c n) s = .next (retired (next1 (pmc s c.val n.val 12 1) c.val n.val (wset th i.a.val (statusFail
        .invalidField))) c.val n.val)) ∧
  -- BXFER to another requester
  (∀ (c : CoreId) (n : ThreadId) (th : Thr) (i : FcI) (s : State),
    Issues s c.val n.val .bxfer th i →
    (wget th i.c.val).toNat ≤ 4145 →
    (wget th i.c.val).toNat ≠ clusterReq c.val →
    (bufTransfer s (regHandle (wget th i.b.val)) (clusterReq c.val) (wget th i.c.val).toNat).1 = none →
    exec (.bxfer c n) s = .next (retired (next1 (unhold (bufTransfer s (regHandle (wget th i.b.val)) (clusterReq
        c.val) (wget th i.c.val).toNat).2 (c.val / 12) (regHandle (wget th i.b.val))) c.val n.val (wset th i.a.val 0))
        c.val n.val)) ∧
  -- CRYPT
  (∀ (c : CoreId) (n : ThreadId) (th : Thr) (i : FcI) (s : State),
    Issues s c.val n.val .crypt th i →
    inSlice s c.val n.val (wget th i.b.val).toNat 32 = true →
    (wget th i.b.val).toNat % 16 = 0 →
    th.lsOut < 8 →
    exec (.crypt c n) s = .next (retired (pmc { next1 (clearDone { s with uid := s.uid + 1 } c.val n.val 0) c.val
        n.val { th with
        lsOut := th.lsOut + 1,
        holds := th.holds ++ (lsRanges (clearDone { s with uid := s.uid + 1 } c.val n.val 0) c.val (wget th i.b.val).toNat
            false).map fun r => (s.uid, r.1, r.2) } with
        ls := { s.ls with
            queue := lsQueue { id := s.uid, core := c.val, thread := n.val, gf := false,
                               addr := (wget th i.b.val).toNat, at_ := s.clk } s.ls.queue } } c.val n.val 8 1) c.val
        n.val)) ∧
  -- CRYPT not aligned
  (∀ (c : CoreId) (n : ThreadId) (th : Thr) (i : FcI) (s : State),
    Issues s c.val n.val .crypt th i →
    inSlice s c.val n.val (wget th i.b.val).toNat 32 = true →
    (wget th i.b.val).toNat % 16 ≠ 0 →
    exec (.crypt c n) s = .next (thrFault (issued s c.val n.val) c.val n.val 3)) ∧
  -- GFMUL
  (∀ (c : CoreId) (n : ThreadId) (th : Thr) (i : FcI) (s : State),
    Issues s c.val n.val .gfmul th i →
    inSlice s c.val n.val (wget th i.b.val).toNat 32 = true →
    (wget th i.b.val).toNat % 16 = 0 →
    th.lsOut < 8 →
    exec (.gfmul c n) s = .next (retired (pmc { next1 (clearDone { s with uid := s.uid + 1 } c.val n.val 0) c.val
        n.val { th with
        lsOut := th.lsOut + 1,
        holds := th.holds ++ (lsRanges (clearDone { s with uid := s.uid + 1 } c.val n.val 0) c.val (wget th i.b.val).toNat
            true).map fun r => (s.uid, r.1, r.2) } with
        ls := { s.ls with
            queue := lsQueue { id := s.uid, core := c.val, thread := n.val, gf := true,
                               addr := (wget th i.b.val).toNat, at_ := s.clk } s.ls.queue } } c.val n.val 9 1) c.val
        n.val)) ∧
  -- GFMUL not aligned
  (∀ (c : CoreId) (n : ThreadId) (th : Thr) (i : FcI) (s : State),
    Issues s c.val n.val .gfmul th i →
    inSlice s c.val n.val (wget th i.b.val).toNat 32 = true →
    (wget th i.b.val).toNat % 16 ≠ 0 →
    exec (.gfmul c n) s = .next (thrFault (issued s c.val n.val) c.val n.val 3)) ∧
  -- TBL
  (∀ (c : CoreId) (n : ThreadId) (th : Thr) (i : FcI) (s : State),
    Issues s c.val n.val .tbl th i →
    inSlice s c.val n.val (wget th i.b.val).toNat 64 = true →
    (wget th i.b.val).toNat % 64 = 0 →
    th.tblOut = false →
    exec (.tbl c n) s = .next (
        let u := next1 (clearDone { s with uid := s.uid + 1 } c.val n.val 1) c.val n.val { th with
            tblOut := true, holds := th.holds ++ [(s.uid, (wget th i.b.val).toNat, 64)] }
        retired (pmc { u with
            tblq := s.tblq ++ [{ id := s.uid, core := c.val, thread := n.val, table := i.lo.val / 256,
                                 op := i.lo.val / 16 % 16, evict := decide (i.lo.val % 2 = 1),
                                 index := (wget th i.c.val).toNat, addr := (wget th i.b.val).toNat,
                                 ws := (List.range 16).map (reqWord u c.val (wget th i.b.val).toNat),
                                 fixed := decide ((wget th i.b.val).toNat < ((coreOf s c.val).slices.getD n.val (0,
                                     0)).1 + 0x140),
                                 ahead := learnAhead u (i.lo.val / 256) (i.lo.val / 16 % 16) (reqWord u c.val (wget
                                     th i.b.val).toNat) (wget th i.c.val).toNat }] } c.val n.val 10 1) c.val n.val)) ∧
  -- TBL_REPLY of a request whose block lies in the fixed part of the slice
  (∀ (c : CoreId) (n : ThreadId) (x : List Nat) (q : TblReq) (s : State),
    s.tblq = [q] →
    q.core = c.val ∧ q.thread = n.val →
    running s = true →
    (thrOf s c.val n.val).holds = [(q.id, q.addr, 64)] →
    q.fixed = true →
    exec (.tblReply c n x) s = .next (replyRec (modThr { s with tblq := [] } c.val n.val fun th => { th with
        tblOut := false, holds := [] }) c.val n.val 1 .invalidField 0 [4, 0])) ∧
  -- TBL_REPLY: the table command is executed on the 64 bytes that the block held when it was issued
  (∀ (c : CoreId) (n : ThreadId) (x : List Nat) (q : TblReq) (s : State),
    s.tblq = [q] →
    q.core = c.val ∧ q.thread = n.val →
    running s = true →
    (thrOf s c.val n.val).holds = [(q.id, q.addr, 64)] →
    q.fixed = false →
    q.op ≠ 5 →
    q.ahead = [] →
    x = [] →
    exec (.tblReply c n x) s = .next (
        let r := tableOp { s with tblq := [] } q.table q.op q.ws q.index q.evict
        replyRec (modThr (lmWrite r.2.2.2 c.val q.addr (r.2.2.1.flatMap (leBytes 4))) c.val n.val fun th => { th with
            tblOut := false, holds := th.holds.filter (·.1 ≠ q.id) }) c.val n.val 1 .success 0 [r.1, r.2.1])) ∧
  -- HMAP and the end of its stall: the window holds the bytes of the buffer, and zeros beyond it
  (∀ (c : CoreId) (n : ThreadId) (th : Thr) (i : FcI) (s : State),
    Issues s c.val n.val .hmap th i →
    holds s c.val (wget th i.b.val).toNat = true →
    (wget th i.c.val).toNat ≤ (poolSize (bPool (wget th i.b.val).toNat)) →
    running s = true →
    ∃ t u, exec (.hmap c n) s = .next t ∧ exec (.stalledInstructionEnd c n {} .ok) t = .next u ∧
      readMem u.lmem (lmAddr c.val (winAddr s c.val n.val (i.lo.val % 2))) 512 = (storeRead s (bufAddr s (wget th
          i.b.val).toNat (wget th i.c.val).toNat) (min 512 ((poolSize (bPool (wget th i.b.val).toNat)) - (wget th
          i.c.val).toNat)) ++ List.replicate (512 - min 512 ((poolSize (bPool (wget th i.b.val).toNat)) - (wget th
          i.c.val).toNat)) 0) ∧
      u.mere = s.mere ∧
      wget (thrOf u c.val n.val) i.a.val = (if i.a.val = 0 then 0 else BitVec.ofNat 64 (min 512 ((poolSize (bPool (wget
          th i.b.val).toNat)) - (wget th i.c.val).toNat))) ∧
      (thrOf u c.val n.val).pc = th.pc + 1 ∧ (thrOf u c.val n.val).stall = none) ∧
  -- HPUT and the end of its stall: the buffer holds the bytes of the window
  (∀ (c : CoreId) (n : ThreadId) (th : Thr) (i : FcI) (s : State),
    Issues s c.val n.val .hput th i →
    holds s c.val (wget th i.b.val).toNat = true →
    (wget th i.c.val).toNat + (i.lo.val / 2 + 1) ≤ (poolSize (bPool (wget th i.b.val).toNat)) →
    running s = true →
    ∃ t u, exec (.hput c n) s = .next t ∧ exec (.stalledInstructionEnd c n {} .ok) t = .next u ∧
      u.mere = writeMem s.mere (bufAddr s (wget th i.b.val).toNat (wget th i.c.val).toNat) (readMem s.lmem (lmAddr
          c.val (winAddr s c.val n.val (i.lo.val % 2))) (i.lo.val / 2 + 1)) ∧
      u.lmem = s.lmem ∧
      wget (thrOf u c.val n.val) i.a.val = (if i.a.val = 0 then 0 else BitVec.ofNat 64 (i.lo.val / 2 + 1)) ∧
      (thrOf u c.val n.val).pc = th.pc + 1 ∧ (thrOf u c.val n.val).stall = none) ∧
  -- BALLOC of a number of bytes and the end of its stall: rd is the handle, and the thread holds the buffer
  (∀ (c : CoreId) (n : ThreadId) (th : Thr) (i : FcI) (b : Nat) (s : State),
    Issues s c.val n.val .balloc th i →
    ((coreOf s c.val).held.filter (·.2 = n.val)).length < 64 ∧ (coreOf s c.val).held.length < 1024 →
    i.imm / 2 ^ 14 ≠ 1 →
    1 ≤ (wget th i.b.val).toNat ∧ (wget th i.b.val).toNat ≤ 65536 →
    (alloc s (clusterReq c.val) (wget th i.b.val).toNat).1.toOption = some b →
    running s = true →
    ∃ t u, exec (.balloc c n) s = .next t ∧ exec (.stalledInstructionEnd c n {} .ok) t = .next u ∧
      (coreOf u c.val).held = (coreOf s c.val).held ++ [(b, n.val)] ∧
      wget (thrOf u c.val n.val) i.a.val = (if i.a.val = 0 then 0 else BitVec.ofNat 64 b) ∧
      (thrOf u c.val n.val).pc = th.pc + 1 ∧ (thrOf u c.val n.val).stall = none)

/-- Flow cores: start, drain, stop, reload and restart of a thread. A START that passes the checks loads the core:
its threads with an ENTRY are RUNNING there, and the cluster has power; a STOP drains, and makes an OFFLINE core
STOPPED; the drain ends when every thread is idle, or at STOP_TIMEOUT with FC_STOP_TIMEOUT; a restarting core
reloads its image; a faulted thread under POLICY 0 begins at its entry again. (R251, R253, R258, R267, R269, R464)
-/
def Obligations.FlowCoreControl : Prop :=
  -- CORE_START
  (∀ (p : HostPort) (v : Word) (bad : List Nat) (s : State),
    RegOpen s p true →
    (coreOf s (selCore s)).st = .stopped →
    startErr (wr s F.FC_CTRL_IMAGE 0 (selCore s) (v.toNat % 16)) (selCore s) (v.toNat % 16) = 0 →
    ∃ t, exec (.coreStart p v bad) s = .next t ∧ (coreOf t (selCore s)).st = .running ∧
      (coreOf t (selCore s)).image = v.toNat % 16 ∧ (coreOf t (selCore s)).badCode = bad ∧
      (coreOf t (selCore s)).threads = ((List.range 16).filterMap fun k => (imgEntry s (v.toNat % 16) k).map fun e
          => (k, ({ st := .running, pc := e, runAt := s.clk } : Thr))) ∧
      t.clOff = s.clOff.filter (· ≠ (selCore s) / 12) ∧
      t = { wr s F.FC_CTRL_IMAGE 0 (selCore s) (v.toNat % 16) with
          cores := t.cores, lmem := t.lmem, clOff := t.clOff, dbg := t.dbg }) ∧
  -- CORE_START that fails a check notes which
  (∀ (p : HostPort) (v : Word) (bad : List Nat) (s : State),
    RegOpen s p true →
    (coreOf s (selCore s)).st = .stopped →
    startErr (wr s F.FC_CTRL_IMAGE 0 (selCore s) (v.toNat % 16)) (selCore s) (v.toNat % 16) ≠ 0 →
    exec (.coreStart p v bad) s = .next { wr s F.FC_CTRL_IMAGE 0 (selCore s) (v.toNat % 16) with
        clOff := s.clOff.filter (· ≠ (selCore s) / 12),
        cores := mset s.cores (selCore s) { coreOf s (selCore s) with
            err := startErr (wr s F.FC_CTRL_IMAGE 0 (selCore s) (v.toNat % 16)) (selCore s) (v.toNat % 16) } }) ∧
  -- CORE_STOP of a RUNNING core
  (∀ (p : HostPort) (v : Word) (s : State),
    RegOpen s p true →
    (coreOf s (selCore s)).st = .running →
    exec (.coreStop p v) s = .next { wr s F.FC_CTRL_IMAGE 0 (selCore s) (v.toNat % 16) with
        cores := mset s.cores (selCore s) { coreOf s (selCore s) with st := .draining, drainAt := s.clk } }) ∧
  -- CORE_STOP of an OFFLINE one
  (∀ (p : HostPort) (v : Word) (s : State),
    RegOpen s p true →
    (coreOf s (selCore s)).st = .offline →
    ∃ t, exec (.coreStop p v) s = .next t ∧
      t = { wr s F.FC_CTRL_IMAGE 0 (selCore s) (v.toNat % 16) with
          cores := mset s.cores (selCore s) { coreOf s (selCore s) with
              st := .stopped, threads := [], accs := (dropThreads s (coreOf s (selCore s))).accs, stopAt := s.clk,
              lastAct := s.clk }, dbg := t.dbg }) ∧
  -- CORE_DRAIN_END
  (∀ (c : CoreId) (s : State),
    (coreOf s c.val).st = .draining →
    (coreOf s c.val).threads.all (fun x => idleThr x.2) = true →
    ∃ t, exec (.coreDrainEnd c) s = .next t ∧
      t = { s with
          cores := mset s.cores c.val { coreOf s c.val with
              st := .stopped, threads := [], accs := (dropThreads s (coreOf s c.val)).accs, stopAt := s.clk,
              lastAct := s.clk }, dbg := t.dbg }) ∧
  -- FC_STOP_TIMEOUT of a core that holds nothing
  (∀ (c : CoreId) (s : State),
    (coreOf s c.val).st = .draining →
    (coreOf s c.val).drainAt + usec (rd s F.FC_STOP_TIMEOUT_TIMEOUT 0 c.val) ≤ s.clk →
    (coreOf s c.val).held = [] →
    (∀ x ∈ (coreOf s c.val).threads, x.2.inbox = []) →
    ∃ t, exec (.fcStopTimeout c) s = .next t ∧ t.lk = (raise s .fcStopTimeout c.val).lk ∧
      t = { s with
          cores := mset s.cores c.val { coreOf s c.val with
              st := .stopped, threads := [], accs := (dropThreads s (coreOf s c.val)).accs, stopAt := s.clk,
              lastAct := s.clk }, dbg := t.dbg, lk := t.lk }) ∧
  -- CORE_RELOAD_END
  (∀ (c : CoreId) (bad : List Nat) (s : State),
    (coreOf s c.val).st = .restarting →
    running s = true →
    startErr s c.val (coreOf s c.val).image = 0 →
    ∃ t, exec (.coreReloadEnd c bad) s = .next t ∧ (coreOf t c.val).st = .running ∧
      (coreOf t c.val).badCode = bad ∧ (coreOf t c.val).image = (coreOf s c.val).image ∧
      (coreOf t c.val).threads = ((List.range 16).filterMap fun k => (imgEntry s (coreOf s c.val).image k).map fun e
          => (k, ({ st := .running, pc := e, runAt := s.clk } : Thr))) ∧
      t = { s with cores := t.cores, lmem := t.lmem, dbg := t.dbg }) ∧
  -- THREAD_RESTART of a thread that holds nothing
  (∀ (c : CoreId) (n : ThreadId) (s : State),
    (thrOf s c.val n.val).st = .faulted →
    (thrOf s c.val n.val).restart = true →
    (thrOf s c.val n.val).inbox = [] →
    (coreOf s c.val).held = [] →
    ∃ t, exec (.threadRestart c n) s = .next t ∧
      thrOf t c.val n.val = { st := .running, pc := (imgEntry s (coreOf s c.val).image n.val).getD 0,
                              runAcc := (thrOf s c.val n.val).runAcc, runAt := s.clk } ∧
      t = { s with cores := t.cores, lmem := t.lmem, dbg := t.dbg })

/-- Rings, deliveries and channel messages of flow cores. A ring is enabled within the total of descriptors and
disabled empty; its head descriptor goes into a free inbox entry of the next qualifying thread, whose core then
holds the buffer; POST hands a well-formed message to its unit, waits without credit and faults CHANNEL when
malformed; ENQUEUE places the frame or puts it on a ring, RECIRC sends it through a pipe again, a CORE_JOB
completes with the status that the message gives, and the host transfers start. (R254, R255, R256, R257, R259,
R262, R288, R289, R290, R291, R398) -/
def Obligations.FlowRingsAndMessages : Prop :=
  -- RING_ENABLE
  (∀ (p : HostPort) (v : Word) (s : State),
    RegOpen s p true →
    bitOf v.toNat 31 = true →
    ringEn s (selRing s) = false →
    bitsOf v.toNat 30 29 ≠ 3 ∧ 6 ≤ bitsOf v.toNat 28 24 ∧ bitsOf v.toNat 28 24 ≤ 16 ∧ bitsOf v.toNat 23 16 ≤ 191 →
    totalDepth s + 2 ^ bitsOf v.toNat 28 24 ≤ 4194304 →
    exec (.ringEnable p v) s = .next (rset s F.FC_RING_CFG_EN.off (selRing s) v.toNat)) ∧
  -- RING_DISABLE of an empty ring
  (∀ (p : HostPort) (v : Word) (s : State),
    RegOpen s p true →
    bitOf v.toNat 31 = false →
    ringEn s (selRing s) = true →
    bitsOf v.toNat 30 29 ≠ 3 ∧ 6 ≤ bitsOf v.toNat 28 24 ∧ bitsOf v.toNat 28 24 ≤ 16 ∧ bitsOf v.toNat 23 16 ≤ 191 →
    (ringOf s (selRing s)).q = [] →
    exec (.ringDisable p v) s = .next { wr s F.FC_RING_CFG_EN 0 (selRing s) 0 with
        rings := mset s.rings (selRing s) (ringOf s (selRing s)) }) ∧
  -- INBOX_DELIVER
  (∀ (r : Fin 4096) (d : FDesc) (l : List FDesc) (n e : Nat) (s : State),
    (ringOf s r.val).q = d :: l →
    running s = true →
    (coreOf s (ringCore s r.val)).st = .running →
    ringEn s r.val = true →
    (((List.range 16).map fun k => ((ringOf s r.val).last + 1 + k) % 16).find? fun k => bitOf (rd s
        F.FC_RING_CFG_THREADS 0 r.val) k && canReceive s (ringCore s r.val) k) = some n →
    freeBox (thrOf s (ringCore s r.val) n) = some e →
    ∃ t, exec (.inboxDeliver r) s = .next t ∧ ringOf t r.val = { q := l, last := n } ∧
      (coreOf t (ringCore s r.val)).held = (coreOf s (ringCore s r.val)).held ++ [(d.buf, n)] ∧
      mget? (thrOf t (ringCore s r.val) n).inbox e = some { ring := r.val, d := d,
                                                            seq := (coreOf s (ringCore s r.val)).seq } ∧
      t.lmem = writeMem s.lmem (lmAddr (ringCore s r.val) (((coreOf s (ringCore s r.val)).slices.getD n (0, 0)).1 +
          32 * e)) (descBytes d) ∧
      t = { s with rings := t.rings, lmem := t.lmem, cores := t.cores, cnt := t.cnt, dbg := t.dbg }) ∧
  -- POST of a message that hands its buffer over and asks for no reply
  (∀ (c : CoreId) (n : ThreadId) (th : Thr) (i : FcI) (m : Msg) (s : State),
    Issues s c.val n.val .post th i →
    m = { core := c.val, thread := n.val, words := (List.range 8).map fun k => (mget 0 th.slot k).toNat } →
    msgOk s m = true →
    msgReply (m.w 0) = false →
    msgHands m = true →
    exec (.post c n true) s = .next (retired (pmc { next1 (bufHand (unhold s (c.val / 12) m.buf) m.buf) c.val n.val {
        th with
        slot := [], postWait := false } with
        msgs := s.msgs ++ [m] } c.val n.val 13 1) c.val n.val)) ∧
  -- POST without credit waits
  (∀ (c : CoreId) (n : ThreadId) (th : Thr) (i : FcI) (m : Msg) (s : State),
    Issues s c.val n.val .post th i →
    m = { core := c.val, thread := n.val, words := (List.range 8).map fun k => (mget 0 th.slot k).toNat } →
    msgOk s m = true →
    msgReply (m.w 0) = false →
    th.stepping = false →
    th.wd = none →
    exec (.post c n false) s = .next (putThr s c.val n.val { th with postWait := true, wd := some (wdClock s) })) ∧
  -- POST of a malformed message
  (∀ (c : CoreId) (n : ThreadId) (th : Thr) (i : FcI) (b : Bool) (m : Msg) (s : State),
    Issues s c.val n.val .post th i →
    m = { core := c.val, thread := n.val, words := (List.range 8).map fun k => (mget 0 th.slot k).toNat } →
    msgOk s m = false →
    exec (.post c n b) s = .next (thrFault (issued s c.val n.val) c.val n.val 8)) ∧
  -- ENQUEUE to a network port, a host queue or the null queue
  (∀ (c : CoreId) (n : ThreadId) (m : Msg) (l : List Msg) (s : State),
    s.msgs = m :: l →
    m.core = c.val ∧ m.thread = n.val →
    msgDest (m.w 0) = 0x02 ∧ msgType (m.w 0) = 0 →
    running s = true →
    actKind (m.w 2) ≠ 2 →
    exec (.enqueue c n) s = .next (place { s with msgs := l } { buf := some m.buf, off := bitsOf (m.w 3) 23 0,
                                                                len := m.len,
                                                                srcHost := (mget {} s.pkts m.buf).srcHost,
                                                                src := (mget {} s.pkts m.buf).src,
                                                                time := (mget {} s.pkts m.buf).time,
                                                                stamp := (mget {} s.pkts m.buf).stamp,
                                                                pass := (mget {} s.pkts m.buf).pass,
                                                                colour := actColour (m.w 2), cls := actClass (m.w 2),
                                                                pipe := 8 + m.core / 12,
                                                                tag := if bitOf (m.w 3) 49 then some (b2n (bitOf (m.w
                                                                    3) 48), bitsOf (m.w 3) 47 32) else none } (m.w 2))) ∧
  -- ENQUEUE to a ring
  (∀ (c : CoreId) (n : ThreadId) (m : Msg) (l : List Msg) (s : State),
    s.msgs = m :: l →
    m.core = c.val ∧ m.thread = n.val →
    msgDest (m.w 0) = 0x02 ∧ msgType (m.w 0) = 0 →
    running s = true →
    actKind (m.w 2) = 2 →
    exec (.enqueue c n) s = .next (ringArrive (bufBack { s with msgs := l } m.buf (ringCore s (actTarget (m.w 2) %
        4096) / 12)) (actTarget (m.w 2) % 4096) { frameDesc { s with msgs := l } m.buf m.len 0 (actColour (m.w 2)) (actClass (m.w
        2)) 0 with
        kind := 0 })) ∧
  -- RECIRC
  (∀ (c : CoreId) (n : ThreadId) (u : Upset) (m : Msg) (l : List Msg) (s : State),
    s.msgs = m :: l →
    m.core = c.val ∧ m.thread = n.val →
    msgDest (m.w 0) = 0x01 ∧ msgType (m.w 0) = 0 →
    running s = true →
    exec (.recirc c n u) s = .next (recirc { s with msgs := l } m.buf m.len (bitsOf (m.w 2) 23 0) (bitsOf (m.w 2) 31
        24) (bitsOf (m.w 2) 38 32) u)) ∧
  -- CORE_JOB_COMPLETION of a job whose buffer has been placed elsewhere
  (∀ (c : CoreId) (n : ThreadId) (uid : Nat) (j : Job) (st : Status) (m : Msg) (l : List Msg) (s : State),
    s.msgs = m :: l →
    m.core = c.val ∧ m.thread = n.val →
    msgDest (m.w 0) = 0x03 ∧ msgType (m.w 0) = 0 →
    running s = true →
    qmJob s m.buf (bitsOf (m.w 3) 31 0) = some (uid, j) →
    (∀ x ∈ s.cores, ∀ y ∈ x.2.held, y.1 ≠ bitsOf (m.w 3) 31 0) →
    coreJobStatus (bitsOf (m.w 1) 7 0) = some st →
    exec (.coreJobCompletion c n) s = .next (finishJob { s with msgs := l } uid st (m.w 2))) ∧
  -- CORE_JOB_COMPLETION of one whose buffer the core holds
  (∀ (c : CoreId) (n : ThreadId) (uid : Nat) (j : Job) (st : Status) (m : Msg) (l : List Msg) (s : State),
    s.msgs = m :: l →
    m.core = c.val ∧ m.thread = n.val →
    msgDest (m.w 0) = 0x03 ∧ msgType (m.w 0) = 0 →
    running s = true →
    qmJob s m.buf (bitsOf (m.w 3) 31 0) = some (uid, j) →
    ownedBy s (bitsOf (m.w 3) 31 0) (ownerReq j.owner) = true →
    (s.cores.any fun k => k.2.held.any (·.1 = bitsOf (m.w 3) 31 0)) = true →
    coreJobStatus (bitsOf (m.w 1) 7 0) = some st →
    exec (.coreJobCompletion c n) s = .next (finishJob (devFree { s with
        msgs := l, cores := mmap (fun _ k => { k with held := k.held.filter (·.1 ≠ bitsOf (m.w 3) 31 0) }) s.cores } (bitsOf (m.w
        3) 31 0)) uid st (m.w 2))) ∧
  -- WRITE_HOST of no tenant through a configured port
  (∀ (c : CoreId) (n : ThreadId) (m : Msg) (l : List Msg) (s : State),
    s.msgs = m :: l →
    m.core = c.val ∧ m.thread = n.val →
    msgDest (m.w 0) = 0x06 ∧ msgType (m.w 0) = 0x01 →
    running s = true →
    m.w 3 / 2 ^ 32 = 0 →
    portWidth s (bitsOf (m.w 4) 2 0) ≠ 0 →
    xferPossible s (bitsOf (m.w 4) 2 0) = true →
    exec (.writeHost c n) s = .next (startXfer { s with msgs := l } { kind := .core m.core m.thread (msgTag (m.w 0))
                                                                          m.len, port := bitsOf (m.w 4) 2 0,
                                                                      unit := 3, tenant := none,
                                                                      todo := [mkDesc true (m.w 2) (bufAddr s m.buf (bitsOf (m.w
                                                                          3) 23 0)) m.len (ownerPasid s none)],
                                                                      gens := [], owner := 0, ns := bitOf (m.w 4) 3 })) ∧
  -- READ_HOST of no tenant through a configured port
  (∀ (c : CoreId) (n : ThreadId) (m : Msg) (l : List Msg) (s : State),
    s.msgs = m :: l →
    m.core = c.val ∧ m.thread = n.val →
    msgDest (m.w 0) = 0x06 ∧ msgType (m.w 0) = 0x02 →
    running s = true →
    m.w 3 / 2 ^ 32 = 0 →
    portWidth s (bitsOf (m.w 4) 2 0) ≠ 0 →
    xferPossible s (bitsOf (m.w 4) 2 0) = true →
    exec (.readHost c n) s = .next (startXfer { s with msgs := l } { kind := .core m.core m.thread (msgTag (m.w 0))
                                                                         m.len, port := bitsOf (m.w 4) 2 0,
                                                                     unit := 3, tenant := none,
                                                                     todo := [mkDesc false (m.w 2) (bufAddr s m.buf (bitsOf (m.w
                                                                         3) 23 0)) m.len (ownerPasid s none)],
                                                                     gens := [], owner := 0, ns := bitOf (m.w 4) 3 })) ∧
  -- ENQUEUE to a network port that admits the frame: it is in its class queue
  (∀ (c : CoreId) (n : ThreadId) (m : Msg) (l : List Msg) (s : State),
    s.msgs = m :: l →
    m.core = c.val ∧ m.thread = n.val →
    msgDest (m.w 0) = 0x02 ∧ msgType (m.w 0) = 0 →
    running s = true →
    actKind (m.w 2) = 0 →
    (actTarget (m.w 2)) < 32 →
    netPortExists s (actTarget (m.w 2)) = true →
    (egAdmit s (actTarget (m.w 2)) (actClass (m.w 2)) (actColour (m.w 2)) m.len).1 = true →
    (macOf s (actTarget (m.w 2))).flushing = false →
    longestOpen (egOf s (actTarget (m.w 2))) (actClass (m.w 2)) = none →
    ∃ t, exec (.enqueue c n) s = .next t ∧ t.msgs = l ∧
      (clsOf t (actTarget (m.w 2)) (actClass (m.w 2))).q.length = (clsOf s (actTarget (m.w 2)) (actClass (m.w 2))).q.length
          + 1 ∧
      (∃ f ∈ (clsOf t (actTarget (m.w 2)) (actClass (m.w 2))).q, f.buf = m.buf ∧ f.off = bitsOf (m.w 3) 23 0 ∧ f.len
          = m.len ∧ f.colour = actColour (m.w 2)))

/-- MFT connections: opening, closing, time-outs, and jobs that are posted. MFT_CONN_OPEN takes the lowest free
index, records the connection as OPENING with the registers in force, sends an OPEN and answers the handle; OPEN is
sent again, and at the time-out the connection fails with TP_CONN_FAILED; a close waits in CLOSING and ends when
nothing is started, or after 10 ms; a FAILED connection is freed at once; a clear of TP_NODE.EN ends every
connection; sends wait for OPEN and receives are posted in order. (R301, R303, R304, R305, R61) -/
def Obligations.TransportConnections : Prop :=
  -- MFT_CONN_OPEN without a key
  (∀ (p : HostPort) (e : Entry) (i : Nat) (s : State),
    AdminCmd s p.val 0x30 e →
    bitOf (dw e 4) 31 = false ∧ dw e 5 / 2 ^ 14 = 0 ∧ dwZero e 7 15 = true ∧ dw e 6 = 0 →
    bitsOf (dw e 4) 15 0 ≠ myNode s ∧ tpOn s = true →
    1 ≤ bitsOf (dw e 5) 13 8 ∧ bitsOf (dw e 5) 13 8 ≤ 32 ∧ 1 ≤ bitsOf (dw e 5) 3 0 ∧
      bitsOf (dw e 5) 3 0 ≤ bitsOf (dw e 5) 7 4 ∧ bitsOf (dw e 5) 3 0 ≤ mftMax s →
    (s.conns.any fun c => decide (c.2.tenant = hIdx (dw e 1) ∧ c.2.node = bitsOf (dw e 4) 15 0 ∧ c.2.cls = bitsOf (dw
        e 4) 30 28)) = false →
    lowConn s = some i →
    i < 1048576 →
    (s.conns.filter fun c => decide (c.2.tenant = hIdx (dw e 1))).length < ((mget? s.tens (hIdx (dw e 1))).map (·.connMax)).getD
        0 →
    exec (.mftConnOpen p) s = .next (finishAdmin (sendOpen { s with
        free := s.free + 2,
        conns := mset s.conns i { tenant := hIdx (dw e 1), node := bitsOf (dw e 4) 15 0,
                                  cls := bitsOf (dw e 4) 30 28, peerTenant := bitsOf (dw e 4) 27 16,
                                  paths := bitsOf (dw e 5) 13 8, verMin := bitsOf (dw e 5) 3 0,
                                  verMax := bitsOf (dw e 5) 7 4, key := 0, cfg := tpCfg s,
                                  salt := (Config.entropy s.free).toNat % 16384,
                                  isn := (Config.entropy (s.free + 1)).toNat % 2 ^ 32, openedAt := s.clk,
                                  lastOpen := s.clk, sndNxt := (Config.entropy (s.free + 1)).toNat % 2 ^ 32 } } i)
        p.val .success (connHandle s i))) ∧
  -- MFT_CONN_CLOSE of a connection that is not FAILED
  (∀ (p : HostPort) (e : Entry) (c : Conn) (s : State),
    AdminCmd s p.val 0x31 e →
    mget? s.conns (hIdx (dw e 1)) = some c →
    dwZero e 4 15 = true →
    c.st ≠ .failed →
    exec (.mftConnClose p) s = .next ({ s with
        conns := mset s.conns (hIdx (dw e 1)) { c with st := .closing, closeAt := s.clk, closer := some p.val },
        hp := mset s.hp p.val { hpOf s p.val with
            aq := { (hpOf s p.val).aq with wait := some ("conn", (hIdx (dw e 1))) } } })) ∧
  -- MFT_CONN_CLOSE of a FAILED one
  (∀ (p : HostPort) (e : Entry) (c : Conn) (s : State),
    AdminCmd s p.val 0x31 e →
    mget? s.conns (hIdx (dw e 1)) = some c →
    dwZero e 4 15 = true →
    c.st = .failed →
    exec (.mftConnClose p) s = .next (finishAdmin (connFree s (hIdx (dw e 1)) c (some c.why)) p.val .success 0)) ∧
  -- OPEN_RETRY
  (∀ (i : Fin 1048576) (c : Conn) (s : State),
    mget? s.conns i.val = some c →
    c.st = .opening →
    c.lastOpen + usec (cfgF c.cfg 1 15 0) ≤ s.clk →
    running s = true →
    exec (.openRetry i) s = .next (sendOpen s i.val)) ∧
  -- OPEN_TIMEOUT
  (∀ (i : Fin 1048576) (c : Conn) (s : State),
    mget? s.conns i.val = some c →
    c.st = .opening →
    c.openedAt + msec (cfgF c.cfg 1 31 16) ≤ s.clk →
    running s = true →
    exec (.openTimeout i) s = .next (raise (connFail s i.val .mftPeerUnreachable) .tpConnFailed (connHandle s i.val))) ∧
  -- CONN_CLOSE_DRAIN_END
  (∀ (i : Fin 1048576) (c : Conn) (s : State),
    mget? s.conns i.val = some c →
    c.st = .closing →
    (∀ d ∈ c.sends, d.cut = false ∧ d.ready = false ∧ d.bufs = []) →
    running s = true →
    exec (.connCloseDrainEnd i) s = .next (closerDone (connFree (if c.version = 0 then s else sendClose s i.val c 3)
        i.val c (some .mftPeerUnreachable)) c)) ∧
  -- CONN_CLOSE_TIMEOUT
  (∀ (i : Fin 1048576) (c : Conn) (s : State),
    mget? s.conns i.val = some c →
    c.st = .closing →
    c.closeAt + msec 10 ≤ s.clk →
    running s = true →
    exec (.connCloseTimeout i) s = .next (closerDone (connFree (if c.version = 0 then s else sendClose s i.val c 3)
        i.val c (some .mftPeerUnreachable)) c)) ∧
  -- TP_NODE_DISABLE: NODE_ID stays, which CFG_IGN tells
  (∀ (p : HostPort) (v : Word) (s : State),
    RegOpen s p true →
    tpOn s = true →
    bitOf v.toNat 31 = false →
    exec (.tpNodeDisable p v) s = .next (wr ((s.conns.map (·.1)).foldl connEnd (wr s F.TP_STATUS_CFG_IGN 0 0 1))
        F.TP_NODE_EN 0 0 0)) ∧
  -- MFT_SEND on an OPENING connection waits for OPEN
  (∀ (uid i : Nat) (j : Job) (c : Conn) (s : State),
    JobReady s uid 0x83 j →
    (jobConn ({ s with jobs := mset s.jobs uid { j with fresh := false } }) ({ j with fresh := false })).toOption =
        some (i, c) →
    c.st = .opening →
    1 ≤ segBytes (segsOf j.ents) ∧ segBytes (segsOf j.ents) ≤ 16777215 →
    dwZero (jobHead j) 9 15 = true →
    segsOwned ({ s with jobs := mset s.jobs uid { j with fresh := false } }) (ownerReq j.owner) (segsOf j.ents) =
        true →
    exec (.mftSend uid) s = .next ({ s with
        jobs := mset s.jobs uid { j with fresh := false },
        conns := mset s.conns i { c with
            sends := c.sends ++ [{ who := .job uid, len := segBytes (segsOf j.ents), imm := dw (jobHead j) 8 }] } })) ∧
  -- MFT_RECV_POST with no message waiting
  (∀ (uid i : Nat) (j : Job) (c : Conn) (s : State),
    JobReady s uid 0x84 j →
    (jobConn ({ s with jobs := mset s.jobs uid { j with fresh := false } }) ({ j with fresh := false })).toOption =
        some (i, c) →
    c.rxq = [] →
    dwZero (jobHead j) 8 15 = true →
    segsOwned ({ s with jobs := mset s.jobs uid { j with fresh := false } }) (ownerReq j.owner) (segsOf j.ents) =
        true →
    exec (.mftRecvPost uid) s = .next ({ s with
        jobs := mset s.jobs uid { j with fresh := false },
        conns := mset s.conns i { c with posts := c.posts ++ [uid] } })) ∧
  -- OPEN_RETRY: another OPEN enters the class queue of its port
  (∀ (i : Fin 1048576) (p : Nat) (c : Conn) (s : State),
    mget? s.conns i.val = some c →
    c.st = .opening →
    c.lastOpen + usec (cfgF c.cfg 1 15 0) ≤ s.clk →
    running s = true →
    (mftRoute s c.cfg c.node).1 = some p →
    (macOf s p).flushing = false →
    longestOpen (egOf s p) (cfgAckClass c.cfg) = none →
    ∃ t, exec (.openRetry i) s = .next t ∧
      (mget? t.conns i.val).map (fun d => (d.st, d.lastOpen, d.port)) = some (.opening, s.clk, some p) ∧
      (clsOf t p (cfgAckClass c.cfg)).q.length = (clsOf s p (cfgAckClass c.cfg)).q.length + 1) ∧
  -- OPEN_TIMEOUT: the connection is FAILED, and what it had posted has ended
  (∀ (i : Fin 1048576) (c : Conn) (s : State),
    mget? s.conns i.val = some c →
    c.st = .opening →
    c.openedAt + msec (cfgF c.cfg 1 31 16) ≤ s.clk →
    running s = true →
    c.att = 0 →
    ∃ t, exec (.openTimeout i) s = .next t ∧
      (mget? t.conns i.val).map (fun d => (d.st, d.why)) = some (.failed, .mftPeerUnreachable) ∧
      (mget? t.conns i.val).map (fun d => (d.sends, d.posts, d.tx)) = some ([], [], [])) ∧
  -- CONN_CLOSE_DRAIN_END: the connection is gone, its generation has advanced, and the command that waits has
  -- finished
  (∀ (i : Fin 1048576) (q : Nat) (c : Conn) (s : State),
    mget? s.conns i.val = some c →
    c.st = .closing →
    (∀ d ∈ c.sends, d.cut = false ∧ d.ready = false ∧ d.bufs = []) →
    running s = true →
    c.att = 0 →
    c.closer = some q →
    ∃ t, exec (.connCloseDrainEnd i) s = .next t ∧ (mget? t.conns i.val) = none ∧
      gen t 7 i.val = nextGen (gen s 7 i.val) ∧ (hpOf t q).aq.cur = none) ∧
  -- CONN_CLOSE_TIMEOUT: the connection is gone, its generation has advanced, and the command that waits has finished
  (∀ (i : Fin 1048576) (q : Nat) (c : Conn) (s : State),
    mget? s.conns i.val = some c →
    c.st = .closing →
    c.closeAt + msec 10 ≤ s.clk →
    running s = true →
    c.att = 0 →
    c.closer = some q →
    ∃ t, exec (.connCloseTimeout i) s = .next t ∧ (mget? t.conns i.val) = none ∧
      gen t 7 i.val = nextGen (gen s 7 i.val) ∧ (hpOf t q).aq.cur = none) ∧
  -- TP_NODE_DISABLE: the only connection is gone
  (∀ (p : HostPort) (v : Word) (i : Nat) (c : Conn) (s : State),
    RegOpen s p true →
    tpOn s = true →
    bitOf v.toNat 31 = false →
    s.conns = [(i, c)] →
    c.att = 0 →
    ∃ t, exec (.tpNodeDisable p v) s = .next t ∧ t.conns = [] ∧ gen t 7 i = nextGen (gen s 7 i) ∧
      rd t F.TP_NODE_EN = 0 ∧ rd t F.TP_STATUS_CFG_IGN = 1)

/-- MFT packets: messages of flow cores, releases, Drover, and the timers of a connection. RX_PKT passes a packet
to the transport engine and RX_SEG a segment to its session, TX_SEALED, SEND and QUERY do what R314 says and
answer; a packet is released at its pacing instant, or as tokens allow while unscheduled; Drover sets the rate once
per interval; an ACK leaves after the delay; an expiry marks the oldest packet lost, RETRY_MAX in a row end an OPEN
connection; RNR and path holds end. (R306, R308, R309, R310, R311, R314, R316, R317, R318, R386) -/
def Obligations.TransportPackets : Prop :=
  -- RX_PKT of a packet that the engine keeps
  (∀ (c : CoreId) (n : ThreadId) (e : Ecc) (m : Msg) (l : List Msg) (s : State),
    s.msgs = m :: l →
    m.core = c.val ∧ m.thread = n.val →
    msgDest (m.w 0) = 0x04 ∧ msgType (m.w 0) = 0x01 →
    running s = true →
    (mftRx ({ s with msgs := l }) m.buf (bitsOf (m.w 2) 23 0) m.len (bitsOf (m.w 3) 31 0) (bitsOf (m.w 3) 32 32) e).1
        = true →
    exec (.rxPkt c n e) s = .next (takeMsgs (msgAnswer (mftRx ({ s with msgs := l }) m.buf (bitsOf (m.w 2) 23 0)
        m.len (bitsOf (m.w 3) 31 0) (bitsOf (m.w 3) 32 32) e).2 m .success []))) ∧
  -- RX_PKT of one that it does not keep
  (∀ (c : CoreId) (n : ThreadId) (e : Ecc) (m : Msg) (l : List Msg) (s : State),
    s.msgs = m :: l →
    m.core = c.val ∧ m.thread = n.val →
    msgDest (m.w 0) = 0x04 ∧ msgType (m.w 0) = 0x01 →
    running s = true →
    (mftRx ({ s with msgs := l }) m.buf (bitsOf (m.w 2) 23 0) m.len (bitsOf (m.w 3) 31 0) (bitsOf (m.w 3) 32 32) e).1
        = false →
    exec (.rxPkt c n e) s = .next (takeMsgs (msgAnswer (devFree (mftRx ({ s with msgs := l }) m.buf (bitsOf (m.w 2)
        23 0) m.len (bitsOf (m.w 3) 31 0) (bitsOf (m.w 3) 32 32) e).2 m.buf) m .success []))) ∧
  -- RX_SEG of the only session, with its TCP checksum right
  (∀ (c : CoreId) (n : ThreadId) (a : Nat) (x : Att) (y : Tcp) (e : Ecc) (m : Msg) (l : List Msg) (s : State),
    s.msgs = m :: l →
    m.core = c.val ∧ m.thread = n.val →
    msgDest (m.w 0) = 0x05 ∧ msgType (m.w 0) = 0x02 →
    running s = true →
    bitsOf (m.w 2) 23 0 + m.len ≤ poolSize (bPool m.buf) →
    s.sx.atts = [(a, x)] ∧
      (msgAnswer (devFree (storeMeet ({ s with msgs := l }) (bufAddr s m.buf (bitsOf (m.w 2) 23 0)) m.len e) m.buf)
          m .success []).sx = s.sx →
    x.tcp = some y →
    y.port = (parseSeg (storeRead s (bufAddr s m.buf (bitsOf (m.w 2) 23 0)) m.len)).dport ∧
      attV6 x = (parseSeg (storeRead s (bufAddr s m.buf (bitsOf (m.w 2) 23 0)) m.len)).v6 ∧
      attAddr x = (parseSeg (storeRead s (bufAddr s m.buf (bitsOf (m.w 2) 23 0)) m.len)).src ∧
      sxAddr (msgAnswer (devFree (storeMeet ({ s with msgs := l }) (bufAddr s m.buf (bitsOf (m.w 2) 23 0)) m.len e)
          m.buf) m .success []) (parseSeg (storeRead s (bufAddr s m.buf (bitsOf (m.w 2) 23 0)) m.len)).v6 = (parseSeg (storeRead
          s (bufAddr s m.buf (bitsOf (m.w 2) 23 0)) m.len)).dst ∧
      rcdN x 36 2 = (parseSeg (storeRead s (bufAddr s m.buf (bitsOf (m.w 2) 23 0)) m.len)).sport →
    (parseSeg (storeRead s (bufAddr s m.buf (bitsOf (m.w 2) 23 0)) m.len)).ok = true →
    exec (.rxSeg c n e) s = .next (tcpSeg (msgAnswer (devFree (storeMeet ({ s with msgs := l }) (bufAddr s m.buf (bitsOf (m.w
        2) 23 0)) m.len e) m.buf) m .success []) a y (parseSeg (storeRead s (bufAddr s m.buf (bitsOf (m.w 2) 23 0))
        m.len)))) ∧
  -- RX_SEG of no session
  (∀ (c : CoreId) (n : ThreadId) (e : Ecc) (m : Msg) (l : List Msg) (s : State),
    s.msgs = m :: l →
    m.core = c.val ∧ m.thread = n.val →
    msgDest (m.w 0) = 0x05 ∧ msgType (m.w 0) = 0x02 →
    running s = true →
    s.sx.atts = [] →
    (msgAnswer (devFree (storeMeet ({ s with msgs := l }) (bufAddr s m.buf (bitsOf (m.w 2) 23 0)) m.len e) m.buf) m
        .success []).sx = s.sx →
    bitsOf (m.w 2) 23 0 + m.len ≤ poolSize (bPool m.buf) →
    exec (.rxSeg c n e) s = .next (cadd (msgAnswer (devFree (storeMeet ({ s with msgs := l }) (bufAddr s m.buf (bitsOf (m.w
        2) 23 0)) m.len e) m.buf) m .success []) 15 0 9 1)) ∧
  -- TX_SEALED
  (∀ (c : CoreId) (n : ThreadId) (m : Msg) (l : List Msg) (s : State),
    s.msgs = m :: l →
    m.core = c.val ∧ m.thread = n.val →
    msgDest (m.w 0) = 0x04 ∧ msgType (m.w 0) = 0x02 →
    running s = true →
    exec (.txSealed c n) s = .next (msgAnswer (txSealed ({ s with msgs := l }) m) m .success [])) ∧
  -- SEND on an OPENING connection
  (∀ (c : CoreId) (n : ThreadId) (x : Conn) (m : Msg) (l : List Msg) (s : State),
    s.msgs = m :: l →
    m.core = c.val ∧ m.thread = n.val →
    msgDest (m.w 0) = 0x04 ∧ msgType (m.w 0) = 0x03 →
    running s = true →
    connCheck ({ s with msgs := l }) (bitsOf (m.w 2) 31 0) = none →
    mget? s.conns (hIdx (bitsOf (m.w 2) 31 0)) = some x →
    x.att = 0 →
    x.st = .opening →
    m.len ≤ poolSize (bPool m.buf) →
    exec (.send c n) s = .next ({ s with
        msgs := l,
        conns := mset s.conns (hIdx (bitsOf (m.w 2) 31 0)) { x with
            sends := x.sends ++ [{ who := .core m.core m.thread (if msgReply (m.w 0) then some (msgTag (m.w 0)) else
                                       none), len := m.len, imm := bitsOf (m.w 3) 31 0, bufs := [m.buf],
                                   ready := true }] } })) ∧
  -- QUERY
  (∀ (c : CoreId) (n : ThreadId) (x : Conn) (m : Msg) (l : List Msg) (s : State),
    s.msgs = m :: l →
    m.core = c.val ∧ m.thread = n.val →
    msgDest (m.w 0) = 0x04 ∧ msgType (m.w 0) = 0x04 →
    running s = true →
    connCheck ({ s with msgs := l }) (bitsOf (m.w 2) 31 0) = none →
    mget? s.conns (hIdx (bitsOf (m.w 2) 31 0)) = some x →
    exec (.query c n) s = .next (msgAnswer ({ s with msgs := l }) m .success [connState x.st + x.version * 16,
        x.rate, word32 x.lastQ, (x.rtt.map (·.1)).getD 0, x.peerTenant * 65536 + x.node, outBytes x])) ∧
  -- ACK_DELAY_EXPIRE
  (∀ (i : Fin 1048576) (k : Nat) (c : Conn) (s : State),
    mget? s.conns i.val = some c →
    c.ackFrom = some k →
    k + rd s F.TP_ACK_ACK_DELAY * 1000 ≤ s.clk →
    running s = true →
    exec (.ackDelayExpire i) s = .next (sendAck s i.val)) ∧
  -- RTO_EXPIRE: the oldest packet not acknowledged is lost
  (∀ (i : Fin 1048576) (k : Nat) (x : TxPkt) (c : Conn) (s : State),
    mget? s.conns i.val = some c →
    c.timer = some k →
    k + rtoPs c < s.clk →
    c.rnrTill = none →
    running s = true →
    c.st = .closing ∨ c.expiries + 1 < cfgF c.cfg 2 31 28 →
    (c.tx.find? fun k => decide (k.ord ≠ 0) && !k.acked) = some x →
    x.lost = false →
    exec (.rtoExpire i) s = .next (plan (markLost ({ cadd s 11 0 5 1 with
        conns := mset s.conns i.val { c with expiries := c.expiries + 1, expired := true, timer := some s.clk } })
        i.val x.psn) i.val)) ∧
  -- RTO_EXPIRE at RETRY_MAX
  (∀ (i : Fin 1048576) (k : Nat) (c : Conn) (s : State),
    mget? s.conns i.val = some c →
    c.timer = some k →
    k + rtoPs c < s.clk →
    c.rnrTill = none →
    running s = true →
    c.st = .open_ →
    cfgF c.cfg 2 31 28 ≤ c.expiries + 1 →
    exec (.rtoExpire i) s = .next (connGiveUp ({ cadd s 11 0 5 1 with
        conns := mset s.conns i.val { c with expiries := c.expiries + 1, expired := true, timer := some s.clk } })
        i.val)) ∧
  -- RNR_WAIT_END
  (∀ (i : Fin 1048576) (k : Nat) (c : Conn) (s : State),
    mget? s.conns i.val = some c →
    c.rnrTill = some k →
    k ≤ s.clk →
    exec (.rnrWaitEnd i) s = .next (plan ({ s with
        conns := mset s.conns i.val { c with
            rnrTill := none, timer := if c.tx.any fun k => decide (k.ord ≠ 0) && !k.acked then some s.clk else none } })
        i.val)) ∧
  -- PATH_HOLD_END
  (∀ (i : Fin 1048576) (h : Fin 32) (k : Nat) (c : Conn) (s : State),
    mget? s.conns i.val = some c →
    c.susp.find? (·.1 = h.val) = some (h.val, k) →
    k ≤ epochNo s →
    exec (.pathHoldEnd i h) s = .next (plan ({ s with
        conns := mset s.conns i.val { c with susp := c.susp.filter (·.1 ≠ h.val) } }) i.val)) ∧
  -- PACING_INSTANT at its acting edge
  (∀ (i : Fin 1048576) (k : Nat) (c : Conn) (s : State),
    mget? s.conns i.val = some c →
    running s = true →
    unscheduled s = false →
    c.tNext = some k →
    k ≤ s.ft.count →
    exec (.pacingInstant i) s = .next (plan (release s i.val k (decide (s.ft.st = .locked) && decide (c.version ≠ 1)))
        i.val)) ∧
  -- UNSCHEDULED_TRANSMISSION with tokens for the next packet
  (∀ (i : Fin 1048576) (d : Conn) (x : TxPkt) (c : Conn) (s : State),
    mget? s.conns i.val = some c →
    running s = true →
    unscheduled s = true →
    (
        let u := plan ({ s with conns := mset s.conns i.val { c with tNext := none, waitStart := false } }) i.val
        mget? u.conns i.val = some d ∧ d.ctl = [] ∧ nextPkt u d = some x ∧ pktBits d x * 1000000 ≤ tokNow u d) →
    exec (.unscheduledTransmission i) s = .next (
        let u := plan ({ s with conns := mset s.conns i.val { c with tNext := none, waitStart := false } }) i.val
        plan (release { u with
            conns := mset u.conns i.val { d with tok := (tokNow u d - pktBits d x * 1000000, u.clk) } } i.val
            u.ft.count false) i.val)) ∧
  -- DROVER_UPDATE
  (∀ (i : Fin 1048576) (c : Conn) (s : State),
    mget? s.conns i.val = some c →
    c.st = .open_ ∨ c.st = .closing →
    c.updAt + max ((c.rtt.map (·.1)).getD 0) 1000 * 1000 ≤ s.clk →
    exec (.droverUpdate i) s = .next (plan ({ s with
        conns := mset s.conns i.val { c with
            rate := newRate s c, updAt := s.clk, qmin := none, expired := false, drv := drvNow s } }) i.val)) ∧
  -- ACK_DELAY_EXPIRE: the ACK of a connection without a key is counted and enters the class queue of its port
  (∀ (i : Fin 1048576) (k p : Nat) (c : Conn) (s : State),
    mget? s.conns i.val = some c →
    c.ackFrom = some k →
    k + rd s F.TP_ACK_ACK_DELAY * 1000 ≤ s.clk →
    running s = true →
    (mftRoute s c.cfg c.node).1 = some p →
    c.key = 0 →
    (macOf s p).flushing = false →
    longestOpen (egOf s p) (cfgAckClass c.cfg) = none →
    ∃ t, exec (.ackDelayExpire i) s = .next t ∧
      (mget? t.conns i.val).map (fun d => (d.ackFrom, d.ackCnt, d.port, d.cum)) = some (none, 0, some p, c.cum) ∧
      cget t 11 0 6 = (cget s 11 0 6 + 1) % 2 ^ 64 ∧
      (clsOf t p (cfgAckClass c.cfg)).q.length = (clsOf s p (cfgAckClass c.cfg)).q.length + 1) ∧
  -- RTO_EXPIRE of a connection without a key and without messages to cut: what it leaves
  (∀ (i : Fin 1048576) (k : Nat) (x : TxPkt) (c : Conn) (s : State),
    mget? s.conns i.val = some c →
    c.timer = some k →
    k + rtoPs c < s.clk →
    c.rnrTill = none →
    running s = true →
    c.st = .closing ∨ c.expiries + 1 < cfgF c.cfg 2 31 28 →
    (c.tx.find? fun k => decide (k.ord ≠ 0) && !k.acked) = some x →
    x.lost = false →
    c.key = 0 →
    c.sends = [] →
    ∃ t, exec (.rtoExpire i) s = .next t ∧ cget t 11 0 5 = (cget s 11 0 5 + 1) % 2 ^ 64 ∧
      (mget? t.conns i.val).map (fun d => (d.expiries, d.expired, d.timer)) = some (c.expiries + 1, true, some s.clk)
          ∧
      (mget? t.conns i.val).bind (fun d => (d.tx.find? (·.psn = x.psn)).map (·.lost)) = some true) ∧
  -- RTO_EXPIRE at RETRY_MAX: the connection is FAILED
  (∀ (i : Fin 1048576) (k : Nat) (c : Conn) (s : State),
    mget? s.conns i.val = some c →
    c.timer = some k →
    k + rtoPs c < s.clk →
    c.rnrTill = none →
    running s = true →
    c.st = .open_ →
    cfgF c.cfg 2 31 28 ≤ c.expiries + 1 →
    c.att = 0 →
    ∃ t, exec (.rtoExpire i) s = .next t ∧
      (mget? t.conns i.val).map (fun d => (d.st, d.why)) = some (.failed, .mftPeerUnreachable) ∧
      (mget? t.conns i.val).map (fun d => (d.tx, d.sends, d.timer)) = some ([], [], none)) ∧
  -- RNR_WAIT_END: the wait of a connection without a key is over
  (∀ (i : Fin 1048576) (k : Nat) (c : Conn) (s : State),
    mget? s.conns i.val = some c →
    c.rnrTill = some k →
    k ≤ s.clk →
    c.key = 0 →
    c.sends = [] →
    ∃ t, exec (.rnrWaitEnd i) s = .next t ∧
      (mget? t.conns i.val).map (fun d => (d.rnrTill, d.tx)) = some (none, c.tx)) ∧
  -- PATH_HOLD_END: the path of a connection without a key is no longer suspended
  (∀ (i : Fin 1048576) (h : Fin 32) (k : Nat) (c : Conn) (s : State),
    mget? s.conns i.val = some c →
    c.susp.find? (·.1 = h.val) = some (h.val, k) →
    k ≤ epochNo s →
    c.key = 0 →
    c.sends = [] →
    ∃ t, exec (.pathHoldEnd i h) s = .next t ∧
      (mget? t.conns i.val).map (fun d => d.susp) = some (c.susp.filter (·.1 ≠ h.val))) ∧
  -- PACING_INSTANT: a new packet of a connection without a key enters its class queue
  (∀ (i : Fin 1048576) (k p : Nat) (x : TxPkt) (c : Conn) (s : State),
    mget? s.conns i.val = some c →
    running s = true →
    unscheduled s = false →
    c.tNext = some k →
    k ≤ s.ft.count →
    nextPkt s c = some x →
    x.ord = 0 ∧ x.sealed = .plain →
    c.sends = [] →
    (mftRoute s c.cfg c.node).1 = some p →
    c.key = 0 →
    (macOf s p).flushing = false →
    longestOpen (egOf s p) c.cls = none →
    ∃ t, exec (.pacingInstant i) s = .next t ∧ cget t 11 0 0 = (cget s 11 0 0 + 1) % 2 ^ 64 ∧
      (mget? t.conns i.val).map (fun d => (d.ord, d.tPrev, d.port)) = some (c.ord + 1, k, some p) ∧
      (mget? t.conns i.val).bind (fun d => (d.tx.find? (·.psn = x.psn)).map (·.ord)) = some c.ord ∧
      (clsOf t p c.cls).q.length = (clsOf s p c.cls).q.length + 1) ∧
  -- DROVER_UPDATE: the rate of a connection without a key
  (∀ (i : Fin 1048576) (c : Conn) (s : State),
    mget? s.conns i.val = some c →
    c.st = .open_ ∨ c.st = .closing →
    c.updAt + max ((c.rtt.map (·.1)).getD 0) 1000 * 1000 ≤ s.clk →
    c.key = 0 →
    c.sends = [] →
    ∃ t, exec (.droverUpdate i) s = .next t ∧
      (mget? t.conns i.val).map (fun d => (d.rate, d.updAt, d.qmin, d.expired)) = some (newRate s c, s.clk, none,
          false)) ∧
  -- TX_SEALED of a packet that waits for it: it is ready to be released
  (∀ (c : CoreId) (n : ThreadId) (i p : Nat) (x : Conn) (k : TxPkt) (m : Msg) (l : List Msg) (s : State),
    s.msgs = m :: l →
    m.core = c.val ∧ m.thread = n.val →
    msgDest (m.w 0) = 0x04 ∧ msgType (m.w 0) = 0x02 →
    running s = true →
    s.seals = [] →
    s.conns = [(i, x)] →
    x.tx = [k] →
    x.sends = [] →
    x.key ≠ 0 →
    k.sealed = .sealing p m.buf →
    bitsOf (m.w 3) 7 0 = 0 →
    msgReply (m.w 0) = false →
    ∃ t, exec (.txSealed c n) s = .next t ∧ t.msgs = l ∧
      (mget? t.conns i).map (·.tx) = some [{ k with sealed := .done p m.buf (bitsOf (m.w 2) 23 0) m.len }]) ∧
  -- RX_PKT of the CLOSE of the peer of an OPEN connection without a key: it is FAILED
  (∀ (c : CoreId) (n : ThreadId) (i : Nat) (x : RxHdr) (d : Conn) (e : Ecc) (m : Msg) (l : List Msg) (s : State),
    s.msgs = m :: l →
    m.core = c.val ∧ m.thread = n.val →
    msgDest (m.w 0) = 0x04 ∧ msgType (m.w 0) = 0x01 →
    running s = true →
    40 ≤ m.len ∧ bitsOf (m.w 2) 23 0 + m.len ≤ poolSize (bPool m.buf) →
    tpOn s = true →
    s.sx.inbox = [] →
    x = parseMft (storeRead s (bufAddr s m.buf (bitsOf (m.w 2) 23 0)) m.len) →
    x.h.typ = 5 →
    x.dstNode = myNode s →
    s.conns = [(i, d)] →
    d.st = .open_ ∧ d.node = x.srcNode ∧ d.peerConn = beAt x.body 8 4 % 2 ^ 20 →
    d.key = 0 ∧ d.att = 0 →
    msgReply (m.w 0) = false →
    ∃ t, exec (.rxPkt c n e) s = .next t ∧ t.msgs = l ∧
      (mget? t.conns i).map (fun d => (d.st, d.why, d.tx)) = some (.failed, .mftPeerUnreachable, [])) ∧
  -- RX_SEG: a reset at the sequence number expected ends the session
  (∀ (c : CoreId) (n : ThreadId) (a : Nat) (x : Att) (y : Tcp) (e : Ecc) (m : Msg) (l : List Msg) (s : State),
    s.msgs = m :: l →
    m.core = c.val ∧ m.thread = n.val →
    msgDest (m.w 0) = 0x05 ∧ msgType (m.w 0) = 0x02 →
    running s = true →
    bitsOf (m.w 2) 23 0 + m.len ≤ poolSize (bPool m.buf) →
    s.sx.atts = [(a, x)] ∧
      (msgAnswer (devFree (storeMeet ({ s with msgs := l }) (bufAddr s m.buf (bitsOf (m.w 2) 23 0)) m.len e) m.buf)
          m .success []).sx = s.sx →
    x.tcp = some y →
    y.port = (parseSeg (storeRead s (bufAddr s m.buf (bitsOf (m.w 2) 23 0)) m.len)).dport ∧
      attV6 x = (parseSeg (storeRead s (bufAddr s m.buf (bitsOf (m.w 2) 23 0)) m.len)).v6 ∧
      attAddr x = (parseSeg (storeRead s (bufAddr s m.buf (bitsOf (m.w 2) 23 0)) m.len)).src ∧
      sxAddr (msgAnswer (devFree (storeMeet ({ s with msgs := l }) (bufAddr s m.buf (bitsOf (m.w 2) 23 0)) m.len e)
          m.buf) m .success []) (parseSeg (storeRead s (bufAddr s m.buf (bitsOf (m.w 2) 23 0)) m.len)).v6 = (parseSeg (storeRead
          s (bufAddr s m.buf (bitsOf (m.w 2) 23 0)) m.len)).dst ∧
      rcdN x 36 2 = (parseSeg (storeRead s (bufAddr s m.buf (bitsOf (m.w 2) 23 0)) m.len)).sport →
    (parseSeg (storeRead s (bufAddr s m.buf (bitsOf (m.w 2) 23 0)) m.len)).ok = true →
    x.st = .ready ∧ s.sx.cmds = [] →
    bitOf (parseSeg (storeRead s (bufAddr s m.buf (bitsOf (m.w 2) 23 0)) m.len)).flags 2 = true →
    (parseSeg (storeRead s (bufAddr s m.buf (bitsOf (m.w 2) 23 0)) m.len)).seq = y.rcv →
    ∃ t, exec (.rxSeg c n e) s = .next t ∧ t.msgs = l ∧ t.sx.cmds = [] ∧
      t.sx.atts = [(a, { x with
          st := .reconnecting, since := s.clk, tcp := none, lateTags := [], row := 0, kaFrom := none })])

/-- Egress: frames on the wire, gates, and calendar swaps. On a port without a calendar and without preemption: the
class that the scheduler chooses sends its head, whose transmit timestamp is taken at its start; a frame whose wire
time has passed is sent, with its tag, and the express MAC is free. A gate change puts the entry that the count
selects into force. CAL_ARM of a valid shadow set arms the swap; the swap makes the shadow set active with its
origin at the target and raises EG_CAL_SWAPPED; the end of COPY leaves the shadow set a copy of the active one.
(R37, R321, R323, R324, R325, R326, R329, R330) -/
def Obligations.EgressTransmission : Prop :=
  -- FRAME_TX_START
  (∀ (n : NetPort) (c : Nat) (f : EFrame) (r : List EFrame) (s : State),
    s.conns = [] →
    rd s F.EG_PORT_CFG_CAL_EN 0 n.val = 0 →
    rd s F.MA_PREEMPT_EN n.val = 0 →
    schedule s n.val = some (c, s) →
    (clsOf s n.val c).q = f :: r →
    f.kind = .plain →
    rd s F.EG_SHAPE_RATE_EN 0 (egInst n.val c) = 0 →
    lostAt s (bufAddr s f.buf f.off) (f.len - f.hdr.length) {} = none →
    exec (.frameTxStart n {}) s = .next (creditCheck (modEg (storeMeet s (bufAddr s f.buf f.off) (f.len -
        f.hdr.length) {}) n.val fun e => { e with
        cls := mset e.cls c { clsOf s n.val c with q := r },
        run := some { f := f, cls := c, left := wirePs s n.val (frameBits s n.val f), since := some s.clk,
                      frag := s.clk, ts := txStamp s n.val }, runP := e.runP.map fun x => preemptAt x s.clk }) n.val
        c)) ∧
  -- FRAME_TX_END
  (∀ (n : NetPort) (r : TxRun) (s : State),
    (egOf s n.val).run = some r →
    runOver s r = true →
    r.f.kind = .plain →
    ∃ t, exec (.frameTxEnd n) s = .next t ∧ (egOf t n.val).run = none ∧
      .frame (Fin.ofNat 32 n.val) r.cls (tagged s n.val (frameBytes s r.f) r.f.tag) r.bad ∈ t.out ∧
      t = resumeP (frameEnd (modEg s n.val fun e => { e with run := none }) n.val r) n.val) ∧
  -- GATE_CHANGE
  (∀ (n : NetPort) (s : State),
    rd s F.EG_PORT_CFG_CAL_EN 0 n.val = 0 ∨ ((egOf s n.val).run = none ∧ (egOf s n.val).runP = none ∧ rd s
        F.MA_PREEMPT_EN n.val = 0) →
    exec (.gateChange n) s = .next (modEg s n.val fun e => { e with
        entry := (entAt e.cal (calPos e s.ft.count) 0).1 })) ∧
  -- CAL_ARM
  (∀ (p : HostPort) (v : Word) (s : State),
    RegOpen s p true →
    rd s F.EG_SEL_SET = 0 →
    calState s (rd s F.EG_SEL_PORT) = 0 →
    calValid (shadowCal s (rd s F.EG_SEL_PORT)) = true →
    armCheck s (((latchGet s.wlatch p.val .pf0 F.EG_CAL_ARM_LO_EPOCH_LO.off) + v.toNat * 2 ^ 32) * 2 ^ 20) = none →
    exec (.calArm p v) s = .next (modEg { rset (rset s F.EG_CAL_ARM_LO_EPOCH_LO.off (rd s F.EG_SEL_PORT) (latchGet
        s.wlatch p.val .pf0 F.EG_CAL_ARM_LO_EPOCH_LO.off)) F.EG_CAL_ARM_HI_EPOCH_HI.off (rd s F.EG_SEL_PORT) v.toNat with
        armed := s.armed ++ [(.cal (rd s F.EG_SEL_PORT), ((latchGet s.wlatch p.val .pf0 F.EG_CAL_ARM_LO_EPOCH_LO.off)
            + v.toNat * 2 ^ 32) * 2 ^ 20)] } (rd s F.EG_SEL_PORT) fun e => { e with armErr := 0 })) ∧
  -- CAL_ARM while a swap is armed
  (∀ (p : HostPort) (v : Word) (s : State),
    RegOpen s p true →
    calState s (rd s F.EG_SEL_PORT) ≠ 0 →
    exec (.calArm p v) s = .next (wr s F.EG_CAL_CTRL_BUSY 0 (rd s F.EG_SEL_PORT) 1)) ∧
  -- CAL_SWAP on a port whose gates are not driven
  (∀ (n : NetPort) (d : Nat) (s : State),
    s.armed = [(.cal n.val, d)] →
    d ≤ ftNs s →
    rd s F.EG_PORT_CFG_CAL_EN 0 n.val = 0 →
    s.lk.st ≠ .lrs →
    ∃ t, exec (.calSwap n) s = .next (raise (putShadow t n.val (egOf s n.val).cal.length (activeSet (egOf s n.val)))
        .egCalSwapped (egInst n.val 0)) ∧
      (egOf t n.val).cal = (shadowSet s n.val).take (rd s F.EG_CAL_LEN_LEN 0 n.val) ∧
      (egOf t n.val).origin = d * 65536 ∧ (egOf t n.val).copying = true ∧
      t = { s with
          armed := [],
          eg := mset s.eg n.val { egOf s n.val with
              cal := (shadowSet s n.val).take (rd s F.EG_CAL_LEN_LEN 0 n.val),
              rest := (shadowSet s n.val).drop (rd s F.EG_CAL_LEN_LEN 0 n.val), origin := d * 65536, copying := true,
              entry := (entAt ((shadowSet s n.val).take (rd s F.EG_CAL_LEN_LEN 0 n.val)) (calPos { egOf s n.val with
                  cal := (shadowSet s n.val).take (rd s F.EG_CAL_LEN_LEN 0 n.val), origin := d * 65536 } s.ft.count)
                  0).1 } }) ∧
  -- CAL_COPY_END
  (∀ (n : NetPort) (s : State),
    (egOf s n.val).copying = true →
    exec (.calCopyEnd n) s = .next (modEg (putShadow s n.val (egOf s n.val).cal.length (activeSet (egOf s n.val)))
        n.val fun e => { e with copying := false }))

/-- The Sluice: its table commands, candidates and starts. SL_READ shows the selected entry, SL_WRITE stores a
valid one whose key no other entry has, SL_CLEAR clears its VALID bit, and each answers result 0; a rewrite clears
the parity mark. A candidate is latched in PCLK 0; the edge of PCLK 1 tests it and takes CLASS, WAIT_MAX and
GUARD_LEN; that of PCLK 2 looks it up, counts a miss, and reports a parity failure; that of PCLK 6 diverts it,
counted by the first condition that fails, or commits it with what PCLK 1 and 2 took. At its start time the first
byte of a committed frame is presented at the egress MAC. (R337, R341, R342, R343, R344, R347, R348, R339, R349) -/
def Obligations.SluiceCommands : Prop :=
  -- SL_READ
  (∀ (p : HostPort) (v : Word) (s : State),
    RegOpen s p true →
    bitOf v.toNat 31 = true →
    (regStore s F.SL_CMD_OP.off 0 v.toNat).2 = true →
    bitsOf v.toNat 1 0 = 0 →
    exec (.slRead p v) s = .next (modSl ((List.range 4).foldl (fun x k => wr x F.SL_ENT_W k 0 (slDw s (rd (regStore
        s F.SL_CMD_OP.off 0 v.toNat).1 F.SL_SEL_INDEX) k)) (regStore s F.SL_CMD_OP.off 0 v.toNat).1) fun l => { l with
        result := 0 })) ∧
  -- SL_WRITE
  (∀ (p : HostPort) (v : Word) (s : State),
    RegOpen s p true →
    bitOf v.toNat 31 = true →
    (regStore s F.SL_CMD_OP.off 0 v.toNat).2 = true →
    bitsOf v.toNat 1 0 = 1 →
    slInvalid (regStore s F.SL_CMD_OP.off 0 v.toNat).1 = false →
    slFind (regStore s F.SL_CMD_OP.off 0 v.toNat).1 (slKey (slEnt (regStore s F.SL_CMD_OP.off 0 v.toNat).1)) = none
        →
    exec (.slWrite p v) s = .next { (regStore s F.SL_CMD_OP.off 0 v.toNat).1 with
        sl := { s.sl with
            ents := msetD [0, 0, 0, 0] s.sl.ents (rd (regStore s F.SL_CMD_OP.off 0 v.toNat).1 F.SL_SEL_INDEX) ((List.range
                4).map (slEnt (regStore s F.SL_CMD_OP.off 0 v.toNat).1)),
            bad := s.sl.bad.filter (· ≠ (rd (regStore s F.SL_CMD_OP.off 0 v.toNat).1 F.SL_SEL_INDEX)), result := 0 } }) ∧
  -- SL_CLEAR
  (∀ (p : HostPort) (v : Word) (s : State),
    RegOpen s p true →
    bitOf v.toNat 31 = true →
    (regStore s F.SL_CMD_OP.off 0 v.toNat).2 = true →
    bitsOf v.toNat 1 0 = 2 →
    exec (.slClear p v) s = .next { (regStore s F.SL_CMD_OP.off 0 v.toNat).1 with
        sl := { s.sl with
            ents := msetD [0, 0, 0, 0] s.sl.ents (rd (regStore s F.SL_CMD_OP.off 0 v.toNat).1 F.SL_SEL_INDEX) [setBits (slDw
                s (rd (regStore s F.SL_CMD_OP.off 0 v.toNat).1 F.SL_SEL_INDEX) 0) 31 31 0, slDw s (rd (regStore s
                F.SL_CMD_OP.off 0 v.toNat).1 F.SL_SEL_INDEX) 1, slDw s (rd (regStore s F.SL_CMD_OP.off 0 v.toNat).1
                F.SL_SEL_INDEX) 2, slDw s (rd (regStore s F.SL_CMD_OP.off 0 v.toNat).1 F.SL_SEL_INDEX) 3],
            result := 0 } }) ∧
  -- SL_ENTRY_REWRITE
  (∀ (i : Fin 4096) (s : State),
    exec (.slEntryRewrite i) s = .next { s with sl := { s.sl with bad := s.sl.bad.filter (· ≠ i.val) } }) ∧
  -- SLUICE_START at the egress MAC
  (∀ (n : NetPort) (b : List Byte) (i : Nat) (k : Commit) (q : Nat) (s : State),
    s.sl.commits = [(i, k)] →
    k.ing = n.val →
    k.at_ ≤ s.clk →
    k.started = false →
    k.dead = false →
    k.egress = some q →
    k.done = none →
    sluiceMayStart s q = true →
    rd s F.MA_PREEMPT_EN q = 0 →
    paused s q k.cls = false →
    exec (.sluiceStart n b) s = .next { modEg s q fun e => { e with
        run := some { f := { kind := .sluice i, len := 0, own := false }, cls := k.cls, left := wirePs s q 0,
                      since := some s.clk, frag := s.clk, ts := txStamp s q },
        runP := e.runP.map fun x => preemptAt x s.clk } with
        sl := { s.sl with commits := [(i, { k with started := true })] } }) ∧
  -- SLUICE_CANDIDATE: its first bytes are latched in PCLK 0; what follows is the work of later edges
  (∀ (n : NetPort) (b : List Byte) (x y : Bool) (a : Nat) (s : State),
    running s = true →
    netUp s n.val = true →
    slInFlight s n.val = false →
    exec (.sluiceCandidate n b x y a) s = .next (modArr { s with uid := s.uid + 1 } n.val fun l => l ++ [{ id :=
                                                                                                               s.uid,
                                                                                                           at_ :=
                                                                                                               s.clk,
                                                                                                           pipe :=
                                                                                                               pipeNext
                                                                                                               s
                                                                                                               n.val,
                                                                                                           head :=
                                                                                                               b.take
                                                                                                               64,
                                                                                                           viaExpress
                                                                                                               := x,
                                                                                                           parity :=
                                                                                                               y,
                                                                                                           time :=
                                                                                                               shortTsOf (ftQuality
                                                                                                               s) (s.ft.count
                                                                                                               - a) }])) ∧
  -- SLUICE_CANDIDATE while the reception of an earlier frame of the port is not over: nothing
  (∀ (n : NetPort) (b : List Byte) (x y : Bool) (a : Nat) (s : State),
    running s = true →
    netUp s n.val = true →
    slInFlight s n.val = true →
    exec (.sluiceCandidate n b x y a) s = .next s) ∧
  -- the edge of PCLK 1, the candidate test passed: CLASS, WAIT_MAX and GUARD_LEN apply as they are
  (∀ (n : NetPort) (x : SlArr) (s : State),
    s.sl.arr = [(n.val, [x])] →
    x.got = none →
    x.st = .fresh →
    x.at_ + pclkPs ≤ s.clk →
    rd s F.SL_CFG_EN = 1 →
    (tciOf s n.val x.head).1 / 2 ^ 13 = rd s F.SL_CFG_CLASS →
    preemptActive s n.val = false ∨ x.viaExpress = true →
    beAt x.head 12 2 ≠ 0x8808 →
    acceptFails s n.val x.head = false →
    slEdge s = { s with
        sl := { s.sl with
            arr := [(n.val, [{ x with
                st := .cand (rd s F.SL_CFG_CLASS) (rd s F.SL_CFG_WAIT_MAX) (rd s F.SL_GUARD_GUARD_LEN) }])] } }) ∧
  -- the edge of PCLK 1, the candidate test failed: the frame is an ordinary one
  (∀ (n : NetPort) (x : SlArr) (s : State),
    s.sl.arr = [(n.val, [x])] →
    x.got = none →
    x.st = .fresh →
    x.at_ + pclkPs ≤ s.clk →
    rd s F.SL_CFG_EN = 0 ∨ (tciOf s n.val x.head).1 / 2 ^ 13 ≠ rd s F.SL_CFG_CLASS ∨ (preemptActive s n.val = true ∧
        x.viaExpress = false) →
    slEdge s = { s with sl := { s.sl with arr := [(n.val, [{ x with st := .plain }])] } }) ∧
  -- the edge of PCLK 2 without an entry: the frame is an ordinary one, and counted
  (∀ (n : NetPort) (x : SlArr) (c wt g : Nat) (s : State),
    s.sl.arr = [(n.val, [x])] →
    x.got = none →
    x.st = .cand c wt g →
    x.at_ + 2 * pclkPs ≤ s.clk →
    slFind s (n.val, (tciOf s n.val (stripped s n.val x.head)).1 % 4096, beAt x.head 0 6) = none →
    slEdge s = { cadd s 13 0 2 1 with sl := { s.sl with arr := [(n.val, [{ x with st := .plain }])] } }) ∧
  -- the edge of PCLK 2 with an entry: its words are held
  (∀ (n : NetPort) (x : SlArr) (c wt g i : Nat) (s : State),
    s.sl.arr = [(n.val, [x])] →
    x.got = none →
    x.st = .cand c wt g →
    x.at_ + 2 * pclkPs ≤ s.clk →
    slFind s (n.val, (tciOf s n.val (stripped s n.val x.head)).1 % 4096, beAt x.head 0 6) = some i →
    x.parity = false →
    i ∉ s.sl.bad →
    slEdge s = { s with
        sl := { s.sl with arr := [(n.val, [{ x with st := .hit c wt g i ((List.range 4).map (slDw s i)) }])] } }) ∧
  -- the edge of PCLK 2 with an entry that fails its parity: it misses until it is rewritten, is counted and reported
  (∀ (n : NetPort) (x : SlArr) (c wt g i : Nat) (s : State),
    s.sl.arr = [(n.val, [x])] →
    x.got = none →
    x.st = .cand c wt g →
    x.at_ + 2 * pclkPs ≤ s.clk →
    slFind s (n.val, (tciOf s n.val (stripped s n.val x.head)).1 % 4096, beAt x.head 0 6) = some i →
    i ∈ s.sl.bad →
    slEdge s = raise (cadd (cadd { s with sl := { s.sl with arr := [(n.val, [{ x with st := .plain }])] } } 13 0 2 1)
        13 0 13 1) .slParity 0) ∧
  -- the edge of PCLK 6 where a condition fails: the frame is diverted, and the first condition that fails counts
  (∀ (n : NetPort) (x : SlArr) (c wt g i k : Nat) (ws : List Nat) (s : State),
    s.sl.arr = [(n.val, [x])] →
    x.got = none →
    x.st = .hit c wt g i ws →
    x.at_ + 6 * pclkPs ≤ s.clk →
    slFails s n.val x.at_ c wt g i (fun k => ws.getD k 0) = some k →
    slEdge s = { cadd s 13 0 k 1 with sl := { s.sl with arr := [(n.val, [{ x with st := .diverted i }])] } }) ∧
  -- the edge of PCLK 6 where no condition fails: the frame is committed
  (∀ (n : NetPort) (x : SlArr) (c wt g i : Nat) (ws : List Nat) (s : State),
    s.sl.arr = [(n.val, [x])] →
    x.got = none →
    x.st = .hit c wt g i ws →
    x.at_ + 6 * pclkPs ≤ s.clk →
    slFails s n.val x.at_ c wt g i (fun k => ws.getD k 0) = none →
    mget? s.sl.commits s.uid = none →
    (slEdge s).uid = s.uid + 1 ∧ (slEdge s).sl.arr = [] ∧
      (mget? (slEdge s).sl.commits s.uid).map (fun k => (k.ing, k.since, k.head)) = some (n.val, s.clk, x.head) ∧
      (mget? (slEdge s).sl.commits s.uid).map (fun k => (k.entry, k.cls, k.guard)) = some (i, c, g) ∧
      (mget? (slEdge s).sl.commits s.uid).map (fun k => (k.egress, k.started)) = some (if bitOf (ws.getD 0 0) 30
          then none else some (ws.getD 3 0 % 32), false))

/-- Locksmith: key contexts, rollovers, requests and the entropy source. KEY_CTX_CREATE takes the lowest free
context with the fields of its entry; a context without a request in progress is destroyed at once; a rollover with
EPOCH 0 applies at once, another is armed and applies at its edge; the old key is erased at the end of grace; a
free unit or lane takes the oldest request (the lowest, which is the choice of the model, log entry 120), and its
end answers the thread; the entropy source fails once with its event, and recovers. (R351, R354, R359, R361, R363,
R367, R368, R287) -/
def Obligations.LocksmithCommands : Prop :=
  -- KEY_CTX_CREATE of the PF0
  (∀ (p : HostPort) (e : Entry) (s : State),
    AdminCmd s p.val 0x20 e →
    ownerOf e = none →
    bitsOf (dw e 14) 31 24 = 0 ∧ bitsOf (dw e 14) 19 11 = 0 ∧ bitsOf (dw e 14) 7 2 = 0 ∧
      bitsOf (dw e 14) 10 8 ≤ 4 ∧ (dw e 14) % 4 ≠ 0 ∧ dw e 15 ≠ 0 →
    (mget? s.ls.roots (bitsOf (dw e 14) 23 20)).isSome = true →
    lowCtx s s.ls.busy.length 0 < 4194304 →
    exec (.keyCtxCreate p) s = .next (finishAdmin { s with
        ls := { s.ls with
            ctxs := mset s.ls.ctxs (lowCtx s s.ls.busy.length 0) { owner := none, port := p.val,
                                                                   label := entryBytes e 4 10,
                                                                   root := bitsOf (dw e 14) 23 20,
                                                                   ktype := bitsOf (dw e 14) 10 8,
                                                                   encOk := bitOf (dw e 14) 0,
                                                                   decOk := bitOf (dw e 14) 1, limit := dw e 15 } } }
        p.val .success (keyHandle s (lowCtx s s.ls.busy.length 0)))) ∧
  -- KEY_CTX_DESTROY of a context that nothing uses
  (∀ (p : HostPort) (e : Entry) (s : State),
    AdminCmd s p.val 0x22 e →
    dwZero e 4 15 = true →
    s.conns = [] →
    s.ls.busy = [] →
    (∀ q : Fin 8, q ≠ p → (hpOf s q.val).aq.wait ≠ some ("keyctx", (ctxIdx (dw e 1)))) →
    exec (.keyCtxDestroy p) s = .next (finishAdmin (freeCtx { s with
        hp := mset s.hp p.val { hpOf s p.val with
            aq := { (hpOf s p.val).aq with wait := some ("keyctx", (ctxIdx (dw e 1))) } } } (ctxIdx (dw e 1))) p.val
        .success 0)) ∧
  -- KEY_ROLLOVER with EPOCH 0
  (∀ (p : HostPort) (e : Entry) (s : State),
    AdminCmd s p.val 0x21 e →
    keyArmed s (ctxIdx (dw e 1)) = false →
    dw2 e 14 = 0 →
    exec (.keyRollover p) s = .next (finishAdmin (rollover s (ctxIdx (dw e 1)) (entryBytes e 4 10)) p.val .success 0)) ∧
  -- KEY_ROLLOVER with a future epoch
  (∀ (p : HostPort) (e : Entry) (x : Ctx) (s : State),
    AdminCmd s p.val 0x21 e →
    keyArmed s (ctxIdx (dw e 1)) = false →
    dw2 e 14 ≠ 0 →
    armCheck s (dw2 e 14 * 2 ^ 20) = none →
    mget? s.ls.ctxs (ctxIdx (dw e 1)) = some x →
    exec (.keyRollover p) s = .next (finishAdmin (cadd { s with
        ls := { s.ls with
            ctxs := mset s.ls.ctxs (ctxIdx (dw e 1)) { x with armed := some (entryBytes e 4 10, dw2 e 14) } },
        armed := s.armed ++ [(.key (ctxIdx (dw e 1)), dw2 e 14 * 2 ^ 20)] } 14 0 10 1) p.val .success 0)) ∧
  -- KEY_ROLLOVER_EDGE at its acting edge
  (∀ (i : Fin 4194304) (x : Ctx) (b : List Byte) (g k : Nat) (s : State),
    s.armed.find? (·.1 = .key i.val) = some (.key i.val, k) →
    k ≤ ftNs s →
    mget? s.ls.ctxs i.val = some x →
    x.armed = some (b, g) →
    s.lk.st ≠ .lrs →
    exec (.keyRolloverEdge i) s = .next (
        let u := rollover { s with armed := s.armed.filter (·.1 ≠ .key i.val) } i.val b
        { u with ls := { u.ls with cache := (i.val :: u.ls.cache).take 16384 } })) ∧
  -- ROLLOVER_GRACE_END
  (∀ (i : Fin 4194304) (x : Ctx) (s : State),
    mget? s.ls.ctxs i.val = some x →
    exec (.rolloverGraceEnd i) s = .next { s with
        ls := { s.ls with
            ctxs := mset s.ls.ctxs i.val { x with olds := x.olds.filter fun o => decide (epochNo s < o.graceEnd) } } }) ∧
  -- LOCKSMITH_REQUEST_TAKE of a GF request that passes its checks
  (∀ (r : LsReq) (l : List LsReq) (k : Nat) (s : State),
    s.ls.queue = r :: l →
    r.gf = true →
    running s = true →
    s.ls.entropyOk = true →
    lsFree s true = some k →
    gfCheck s r = none →
    exec (.locksmithRequestTake true) s = .next (
        let u := cadd (cadd { s with ls := { s.ls with queue := s.ls.queue.filter (·.id ≠ r.id) } } 14 0 1 1) 14 0 3 (reqWord
            s r.core r.addr 6 % 128 + 1)
        { u with ls := { u.ls with busy := u.ls.busy ++ [{ req := r, fail := none, unit := k }] } })) ∧
  -- LOCKSMITH_REQUEST_TAKE of a CRYPT request that passes its checks
  (∀ (r : LsReq) (l : List LsReq) (k : Nat) (s : State),
    s.ls.queue = r :: l →
    r.gf = false →
    running s = true →
    s.ls.entropyOk = true →
    lsFree s false = some k →
    cryptCheck (cadd { s with ls := { s.ls with queue := s.ls.queue.filter (·.id ≠ r.id) } } 14 0 0 1) r = none →
    exec (.locksmithRequestTake false) s = .next (
        let u := cryptAccept (cadd { s with ls := { s.ls with queue := s.ls.queue.filter (·.id ≠ r.id) } } 14 0 0 1)
            r
        { u.1 with ls := { u.1.ls with busy := u.1.ls.busy ++ [{ u.2 with unit := k }] } })) ∧
  -- LOCKSMITH_REPLY of the only request of a thread, done without failure
  (∀ (c : CoreId) (n : ThreadId) (e : Ecc) (b : LsBusy) (s : State),
    s.ls.busy = [b] →
    b.req.core = c.val ∧ b.req.thread = n.val →
    running s = true →
    b.fail = none →
    b.req.gf = true →
    (thrOf s c.val n.val).lsOut = 1 →
    (thrOf s c.val n.val).lsFail = none →
    (∀ q : Fin 8, (hpOf s q.val).aq.wait ≠ some ("keyctx", b.ctx)) →
    (thrOf s c.val n.val).holds.any (·.1 = b.req.id) = true →
    ∃ t, exec (.locksmithReply c n e) s = .next t ∧ (thrOf t c.val n.val).lsOut = 0 ∧
      (thrOf t c.val n.val).lsBlocks = 0 ∧
      (thrOf t c.val n.val).holds = (thrOf s c.val n.val).holds.filter fun h => s.tblq.any fun q => decide (q.id =
          h.1) ∧
      t.ls = { s.ls with busy := [] } ∧
      t.lmem = writeMem (lsCompute s b e).lmem (recAddr s c.val n.val 0) (leBytes 4 (2 ^ 31) ++ leBytes 4 (reqWord s
          c.val b.req.addr 5) ++ leBytes 4 ((thrOf s c.val n.val).lsBlocks + (reqWord s c.val b.req.addr 6 % 128 + 1))
          ++ List.replicate 20 0) ∧
      t = { s with
          ls := t.ls, lmem := t.lmem, cores := t.cores, dbg := t.dbg, cnt := t.cnt, coop := t.coop, md := t.md,
          lk := t.lk }) ∧
  -- LS_ENTROPY_FAIL
  (∀ (s : State),
    s.ls.entropyOk = true →
    exec .lsEntropyFail s = .next (raise { s with ls := { s.ls with entropyOk := false } } .lsEntropyFail 0)) ∧
  -- ENTROPY_RESTORE
  (∀ (s : State),
    exec .entropyRestore s = .next { s with ls := { s.ls with entropyOk := true } }) ∧
  -- LOCKSMITH_REQUEST_TAKE with every unit of the kind in use: nothing
  (∀ (g : Bool) (s : State),
    lsFree s g = none →
    exec (.locksmithRequestTake g) s = .next s)

/-- Storage attachments: attach, sessions, Keep Alive, detach. NS_ATTACH reads the record, and a record that passes
the checks makes a CONNECTING attachment at the lowest free index; the setup is sent, and the answers of the target
bring the session up with their values, or make it fail with the REASON that they give; it is refused, or times out
and is tried again; Keep Alive is sent each half of KATO and its silence ends the session; a detach frees an
attachment without a command at once, one with commands after 10 ms; TCP sends again. (R373, R374, R375, R376,
R377, R384, R387) -/
def Obligations.StorageAttachments : Prop :=
  -- NS_ATTACH
  (∀ (p : HostPort) (e : Entry) (g : Nat) (s : State),
    AdminCmd s p.val 0x40 e →
    dw2 e 4 % 64 = 0 →
    ownerCanReq s p.val none = true →
    sysTag s p.val = some g →
    exec (.nsAttach p) s = .next { s with
        hp := mset s.hp p.val { hpOf s p.val with aq := { (hpOf s p.val).aq with wait := some ("attach", 0) } },
        sreads := mset s.sreads (p.val * 16384 + g) { port := p.val, fn := .pf0, what := .attach p, since := s.clk },
        out := .hostRead (.attach p) (asPort p.val) none (dw2 e 4) 576 {} :: s.out }) ∧
  -- ATTACH_RECORD_READ of a record over TCP that passes the checks
  (∀ (p : HostPort) (e : Entry) (b : List Byte) (k : Nat) (r : SysRead) (s : State),
    running s = true →
    (hpOf s p.val).aq.wait = some ("attach", 0) →
    (hpOf s p.val).aq.cur = some e →
    b.length = 576 →
    leAt b 1 1 = 0 →
    1 ≤ dw e 6 ∧ dw e 6 ≤ 256 →
    dwZero e 7 15 = true →
    rcdOk b = true →
    rd s F.SX_CFG_EN = 1 →
    attKeyOk s (hIdx (dw e 1)) (leAt b 8 4) = true →
    attOf s (hIdx (dw e 1)) (dw e 6) = none →
    s.sx.atts.length < 65536 →
    oldestRead s (.attach p) = some (k, r) →
    r.drop = false →
    objStale s e = false →
    exec (.attachRecordRead p (.ok b)) s = .next (finishAdmin (connectStart { s with
        sreads := mdel s.sreads k,
        sx := { s.sx with
            atts := mset s.sx.atts (mlow s.sx.atts 0) { tenant := hIdx (dw e 1), slot := dw e 6, rcd := b,
                                                        since := s.clk, sess := rget s F.SX_SESS_TMO_RESET.off,
                                                        tmr := rget s F.SX_TIMER_IO_TIMEOUT.off } } } (mlow
        s.sx.atts 0)) p.val .success 0)) ∧
  -- NS_DETACH of an attachment over TCP that has neither a connection nor a command
  (∀ (p : HostPort) (e : Entry) (a : Nat) (x : Att) (s : State),
    AdminCmd s p.val 0x41 e →
    attOf s (hIdx (dw e 1)) (dw e 4) = some (a, x) →
    mget? s.sx.atts a = some x →
    dwZero e 5 15 = true →
    x.detach = none →
    s.sx.cmds = [] →
    x.tcp = none →
    overMft x = false →
    exec (.nsDetach p) s = .next (finishAdmin { s with
        hp := mset s.hp p.val { hpOf s p.val with aq := { (hpOf s p.val).aq with wait := some ("detach", a) } },
        sx := { s.sx with atts := mdel (mset s.sx.atts a { x with detach := some (s.clk, p.val) }) a } } p.val
        .success 0)) ∧
  -- NS_DETACH_TIMEOUT
  (∀ (a : Fin 65536) (k : Nat) (p : Nat) (x : Att) (s : State),
    mget? s.sx.atts a.val = some x →
    x.detach = some (k, p) →
    k + msec 10 ≤ s.clk →
    running s = true →
    exec (.nsDetachTimeout a) s = .next (attFree ((cmdsOf s a.val).foldl (fun s c => dropJob s c.1) s) a.val)) ∧
  -- SESSION_UP refused by TCP
  (∀ (a : Fin 65536) (x : Att) (s : State),
    mget? s.sx.atts a.val = some x →
    x.st = .connecting →
    running s = true →
    overMft x = false →
    exec (.sessionUp a .refused) s = .next ({ s with
        sx := { s.sx with atts := mset s.sx.atts a.val { x with st := .reconnecting, since := s.clk, tcp := none } } })) ∧
  -- CONNECT_TIMEOUT
  (∀ (a : Fin 65536) (x : Att) (s : State),
    mget? s.sx.atts a.val = some x →
    x.st = .connecting →
    x.since + msec (bitsOf x.sess 15 0) ≤ s.clk →
    running s = true →
    exec (.connectTimeout a) s = .next ({ s with
        sx := { s.sx with atts := mset s.sx.atts a.val { x with st := .reconnecting, since := s.clk, tcp := none } } })) ∧
  -- RECONNECT
  (∀ (a : Fin 65536) (x : Att) (s : State),
    mget? s.sx.atts a.val = some x →
    x.st = .reconnecting →
    x.since + msec (bitsOf x.tmr 15 0) ≤ s.clk →
    running s = true →
    exec (.reconnect a) s = .next (connectStart { s with
        sx := { s.sx with
            atts := mset s.sx.atts a.val { x with
                st := .connecting, since := s.clk, lateTags := [], sess := rget s F.SX_SESS_TMO_RESET.off,
                tmr := rget s F.SX_TIMER_IO_TIMEOUT.off } } } a.val)) ∧
  -- KEEP_ALIVE_SEND over TCP
  (∀ (a : Fin 65536) (x : Att) (s : State),
    mget? s.sx.atts a.val = some x →
    x.st = .ready →
    x.kaAt + attKato x / 2 ≤ s.clk →
    running s = true →
    overMft x = false →
    exec (.keepAliveSend a) s = .next (tcpWrite { s with
        sx := { s.sx with
            atts := mset s.sx.atts a.val { x with kaAt := s.clk, kaFrom := some (x.kaFrom.getD s.clk) } } } a.val (pdu {
        x with
        kaAt := s.clk, kaFrom := some (x.kaFrom.getD s.clk) } 4 0 (sqe 0x18 (attDepth x) 0 0 false [0, 0, 0, 0, 0, 0]) []))) ∧
  -- KATO_EXPIRE
  (∀ (a : Fin 65536) (k : Nat) (x : Att) (s : State),
    mget? s.sx.atts a.val = some x →
    x.kaFrom = some k →
    x.st = .ready →
    k + attKato x ≤ s.clk →
    running s = true →
    exec (.katoExpire a) s = .next (sessDown s a.val)) ∧
  -- TCP_RETRANSMISSION_TIMEOUT
  (∀ (a : Fin 65536) (c : Tcp) (k : Nat) (x : Att) (s : State),
    mget? s.sx.atts a.val = some x →
    x.tcp = some c →
    c.timer = some k →
    k + tcpRto c ≤ s.clk →
    running s = true →
    c.tries < 15 →
    exec (.tcpRetransmissionTimeout a) s = .next (tcpAgain { s with
        sx := { s.sx with
            atts := mset s.sx.atts a.val { x with
                tcp := some { c with
                    tries := c.tries + 1, timer := some s.clk, ssthresh := max (flight c / 2) (2 * c.mss),
                    cwnd := c.mss, recover := some c.nxt, rto := true, rescued := false, dup := 0, sacked := [] } } } }
        a.val)) ∧
  -- TCP_RETRANSMISSION_TIMEOUT for the sixteenth time
  (∀ (a : Fin 65536) (c : Tcp) (k : Nat) (x : Att) (s : State),
    mget? s.sx.atts a.val = some x →
    x.tcp = some c →
    c.timer = some k →
    k + tcpRto c ≤ s.clk →
    running s = true →
    15 ≤ c.tries →
    exec (.tcpRetransmissionTimeout a) s = .next (sessDown s a.val)) ∧
  -- KATO_EXPIRE of an attachment without commands: the session is down
  (∀ (a : Fin 65536) (k : Nat) (x : Att) (s : State),
    mget? s.sx.atts a.val = some x →
    x.kaFrom = some k →
    x.st = .ready →
    k + attKato x ≤ s.clk →
    running s = true →
    s.sx.cmds = [] →
    ∃ t, exec (.katoExpire a) s = .next t ∧ cget t 15 0 5 = (cget s 15 0 5 + 1) % 2 ^ 64 ∧
      (mget? t.sx.atts a.val) = some { x with
          st := .reconnecting, since := s.clk, tcp := none, lateTags := [], row := 0, kaFrom := none }) ∧
  -- NS_DETACH_TIMEOUT: the attachment is gone, and the command has finished
  (∀ (a : Fin 65536) (k : Nat) (p : Nat) (x : Att) (s : State),
    mget? s.sx.atts a.val = some x →
    x.detach = some (k, p) →
    k + msec 10 ≤ s.clk →
    running s = true →
    ∃ t, exec (.nsDetachTimeout a) s = .next t ∧ (mget? t.sx.atts a.val) = none ∧ (hpOf t p).aq.cur = none) ∧
  -- SESSION_UP over TCP whose answers make the attachment FAILED: the setup is sent, the session is reset, the
  -- REASON reported
  (∀ (a : Fin 65536) (u : SessUp) (r : Nat) (x : Att) (s : State),
    mget? s.sx.atts a.val = some x →
    x.st = .connecting →
    running s = true →
    overMft x = false →
    setupBad x u = some r →
    exec (.sessionUp a (.up u)) s = .next (raise (attFail ((tcpOf (setupRun s a.val x u) a.val).elim (setupRun s
        a.val x u) fun c => segSend (setupRun s a.val x u) a.val c.nxt 0x014 []) a.val r) .sxAttachFail 0)) ∧
  -- SESSION_UP over TCP whose answers are right, with no command waiting: READY
  (∀ (a : Fin 65536) (u : SessUp) (x : Att) (s : State),
    mget? s.sx.atts a.val = some x →
    x.st = .connecting →
    running s = true →
    overMft x = false →
    setupBad x u = none →
    s.sx.cmds = [] →
    ∃ t, exec (.sessionUp a (.up u)) s = .next t ∧ t.sx.cmds = [] ∧
      (mget? t.sx.atts a.val).map (fun y => (y.st, y.since, y.row, y.kaAt)) = some (.ready, s.clk, 0, s.clk) ∧
      (mget? t.sx.atts a.val).map (fun y => (y.nsze, y.ioccsz, y.maxh2c)) = some (u.nsze, u.ioccsz, u.maxh2c) ∧
      t.out = (setupRun s a.val x u).out ∧
      (tcpOf t a.val).map (fun c => (c.syn, c.cwnd)) = (tcpOf (setupRun s a.val x u) a.val).map fun c => (c.syn,
          firstCwnd c.mss)) ∧
  -- SESSION_UP: the first REASON of the answers: a Connect refused is 2, no namespace is 4, another LBA size or
  -- metadata is 1
  (∀ (x : Att) (u : SessUp),
    (u.admin ≠ 0 ∨ u.io ≠ 0 → setupBad x u = some 2) ∧
      (u.admin = 0 ∧ u.io = 0 ∧ (u.idSt ≠ 0 ∨ u.nsze = 0) → setupBad x u = some 4) ∧
      (u.admin = 0 ∧ u.io = 0 ∧ u.idSt = 0 ∧ u.nsze ≠ 0 ∧ (u.lba ≠ attShift x ∨ u.mdBytes ≠ 0) → setupBad x u = some
          1) ∧
      (u.admin = 0 ∧ u.io = 0 ∧ u.idSt = 0 ∧ u.nsze ≠ 0 ∧ u.lba = attShift x ∧ u.mdBytes = 0 → setupBad x u = none))

/-- NVMe commands: acceptance, staging, time-outs, and the answers of XTS. An NVMe job that its attachment accepts
while the session is not up waits for it; one without data goes to the target at once; a waiting command obtains a
pool-5 buffer, or completes with NO_RESOURCE after STAGE_WAIT; IO_TIMEOUT completes a command with STORAGE_TIMEOUT,
reserves its tag and counts; XTS_DONE with an error completes the command with WORK_DISCARDED and its code. (R380,
R381, R382, R384, R386) -/
def Obligations.StorageCommands : Prop :=
  -- NVME while the session is being set up
  (∀ (uid k a : Nat) (j : Job) (x : Att) (s : State),
    JobReady s uid 0x85 j →
    j.owner = some k →
    attOf s k (dw (jobHead j) 9) = some (a, x) →
    x.detach = none →
    nvmeOk x j = true →
    segsOwned ({ s with jobs := mset s.jobs uid { j with fresh := false } }) k (segsOf j.ents) = true →
    (segsOf j.ents).all (·.inMere) = true →
    x.st = .connecting ∨ x.st = .reconnecting →
    exec (.nvme uid) s = .next ({ s with
        jobs := mset s.jobs uid { j with fresh := false },
        sx := { s.sx with
            cmds := mset s.sx.cmds uid { att := a, opc := dw (jobHead j) 8, len := segBytes (segsOf j.ents),
                                         read := dw (jobHead j) 8 == 2, since := s.clk,
                                         tmo := rd s F.SX_TIMER_IO_TIMEOUT } } })) ∧
  -- NVME on a session that is up
  (∀ (uid k a : Nat) (j : Job) (x : Att) (s : State),
    JobReady s uid 0x85 j →
    j.owner = some k →
    attOf s k (dw (jobHead j) 9) = some (a, x) →
    x.detach = none →
    nvmeOk x j = true →
    segsOwned ({ s with jobs := mset s.jobs uid { j with fresh := false } }) k (segsOf j.ents) = true →
    (segsOf j.ents).all (·.inMere) = true →
    x.st = .ready →
    exec (.nvme uid) s = .next (cmdStart ({ s with
        jobs := mset s.jobs uid { j with fresh := false },
        sx := { s.sx with
            cmds := mset s.sx.cmds uid { att := a, opc := dw (jobHead j) 8, len := segBytes (segsOf j.ents),
                                         read := dw (jobHead j) 8 == 2, since := s.clk,
                                         tmo := rd s F.SX_TIMER_IO_TIMEOUT } } }) uid)) ∧
  -- STAGE_ALLOC of a read, oldest of its queue, with a buffer of pool 5
  (∀ (uid b : Nat) (c : SxCmd) (j : Job) (s : State),
    mget? s.sx.cmds uid = some c →
    mget? s.jobs uid = some j →
    running s = true →
    c.st = .staging ∧ c.buf = none ∧ c.read = true →
    s.sx.cmds.length = 1 →
    (allocFrom s reqSx [5]).1.toOption = some b →
    exec (.stageAlloc uid) s = .next (
        let u := bufHand (allocFrom s reqSx [5]).2 b
        startCmds { u with
            sx := { u.sx with
                cmds := mset (mset u.sx.cmds uid { c with buf := some b }) uid { c with
                    buf := some b, st := .unsent } } })) ∧
  -- STAGE_WAIT_EXPIRE
  (∀ (uid : Nat) (c : SxCmd) (s : State),
    mget? s.sx.cmds uid = some c →
    c.st = .staging ∧ c.buf = none →
    c.stageAt + usec c.stageMax ≤ s.clk →
    running s = true →
    exec (.stageWaitExpire uid) s = .next (startCmds (cmdEnd (cadd s 15 0 8 1) uid .noResource 0))) ∧
  -- IO_TIMEOUT
  (∀ (uid : Nat) (c : SxCmd) (x : Att) (s : State),
    mget? s.sx.cmds uid = some c →
    mget? s.sx.atts c.att = some x →
    c.since + msec c.tmo < s.clk →
    running s = true →
    c.st = .target →
    exec (.ioTimeout uid) s = .next (
        let u := cmdTimeoutEv (cadd s 15 0 3 1) c.att
        let v := cmdEnd { u with
            sx := { u.sx with
                atts := mset u.sx.atts c.att { x with row := x.row + 1, lateTags := c.tag :: x.lateTags } } } uid
            .storageTimeout 0
        startCmds (if bitsOf x.sess 23 16 ≤ x.row + 1 then sessDown v c.att else v))) ∧
  -- XTS_DONE with an error
  (∀ (c : CoreId) (n : ThreadId) (uid : Nat) (k : SxCmd) (m : Msg) (l : List Msg) (s : State),
    s.msgs = m :: l →
    m.core = c.val ∧ m.thread = n.val →
    msgDest (m.w 0) = 0x05 ∧ msgType (m.w 0) = 0x01 →
    running s = true →
    msgReply (m.w 0) = false →
    s.sx.cmds = [(uid, k)] →
    k.buf = some m.buf ∧ k.xts = true →
    bitsOf (m.w 3) 7 0 ≠ 0 →
    k.st ≠ .dead →
    exec (.xtsDone c n) s = .next (
        let u := setBuf { s with msgs := l } m.buf ⟨.owned, reqSx⟩
        startCmds (cmdEnd { u with sx := { u.sx with cmds := mset u.sx.cmds uid { k with xts := false } } } uid
            .workDiscarded (bitsOf (m.w 3) 7 0 * 2 ^ 32)))) ∧
  -- XTS_DONE of a write without an error
  (∀ (c : CoreId) (n : ThreadId) (uid : Nat) (k : SxCmd) (m : Msg) (l : List Msg) (s : State),
    s.msgs = m :: l →
    m.core = c.val ∧ m.thread = n.val →
    msgDest (m.w 0) = 0x05 ∧ msgType (m.w 0) = 0x01 →
    running s = true →
    msgReply (m.w 0) = false →
    s.sx.cmds = [(uid, k)] →
    k.buf = some m.buf ∧ k.xts = true ∧ k.read = false →
    bitsOf (m.w 3) 7 0 = 0 →
    k.st ≠ .dead →
    exec (.xtsDone c n) s = .next (
        let u := setBuf { s with msgs := l } m.buf ⟨.handed, reqSx⟩
        startCmds { u with sx := { u.sx with cmds := [(uid, { k with xts := false, st := .unsent })] } })) ∧
  -- STAGE_WAIT_EXPIRE: the command and its job are over, and it is counted
  (∀ (uid : Nat) (c : SxCmd) (s : State),
    mget? s.sx.cmds uid = some c →
    c.st = .staging ∧ c.buf = none →
    c.stageAt + usec c.stageMax ≤ s.clk →
    running s = true →
    ∃ t, exec (.stageWaitExpire uid) s = .next t ∧ mget? t.sx.cmds uid = none ∧ mget? t.jobs uid = none ∧
      cget t 15 0 8 = (cget s 15 0 8 + 1) % 2 ^ 64) ∧
  -- IO_TIMEOUT: the command and its job are over, and it is counted
  (∀ (uid : Nat) (c : SxCmd) (x : Att) (s : State),
    mget? s.sx.cmds uid = some c →
    mget? s.sx.atts c.att = some x →
    c.since + msec c.tmo < s.clk →
    running s = true →
    c.st = .target →
    ∃ t, exec (.ioTimeout uid) s = .next t ∧ mget? t.sx.cmds uid = none ∧ mget? t.jobs uid = none ∧
      cget t 15 0 3 = (cget s 15 0 3 + 1) % 2 ^ 64)

/-- Carters: bursts, writes, read completions, bus errors, time-outs and engines. A burst of a write descriptor
hands write requests with the bytes of the Mere, one of a read descriptor hands a read under a free tag; the oldest
write leaves as a host write, or is dropped when it was withdrawn; a completion puts its bytes into the Mere, and
one that contradicts its request is a bus error and a Malformed TLP; a read timed out retires its tag for four
times the time-out; an engine stops at once without an active channel, resumes, halts at a bus error, and recovers
or goes OFFLINE. (R82, R83, R391, R393, R394, R395, R396, R397) -/
def Obligations.CarterTransfers : Prop :=
  -- DMA_BURST of a write descriptor, not its last
  (∀ (e : Fin 16) (c : Fin 64) (d : Desc) (x : Xfer) (k : Nat) (s : State),
    (chanOf s e.val c.val).st = .active →
    (chanOf s e.val c.val).act = some d →
    mget? s.xfers d.xid = some x →
    (engOf s e.val).st = .running →
    ownerCanReq s x.port x.tenant = true →
    k = min (burstBytes s x.port) (d.len - d.handed) →
    d.handed + k < d.len →
    d.toHost = true →
    k < x.left →
    running s = true →
    d.inside = false →
    lostAt s (d.mere + d.handed) k {} = none →
    ∃ t, exec (.dmaBurst e c {}) s = .next t ∧
      t.wreqs = s.wreqs ++ (cutReqs d.host (fnOf s x.port (ownerFn x.tenant)).mps k d.handed k).map (fun r => { port
                                                                                                                    :=
                                                                                                                    x.port,
                                                                                                                eng
                                                                                                                    :=
                                                                                                                    e.val,
                                                                                                                ch
                                                                                                                    :=
                                                                                                                    c.val,
                                                                                                                xid
                                                                                                                    :=
                                                                                                                    d.xid,
                                                                                                                host
                                                                                                                    :=
                                                                                                                    d.host
                                                                                                                    +
                                                                                                                    r.1,
                                                                                                                bytes
                                                                                                                    :=
                                                                                                                    storeRead
                                                                                                                    s (d.mere
                                                                                                                    +
                                                                                                                    r.1)
                                                                                                                    r.2,
                                                                                                                pasid
                                                                                                                    :=
                                                                                                                    d.pasid,
                                                                                                                gens
                                                                                                                    :=
                                                                                                                    x.gens,
                                                                                                                attr
                                                                                                                    :=
                                                                                                                    xferAttr
                                                                                                                    s
                                                                                                                    x
                                                                                                                    true })
          ∧
      (chanOf t e.val c.val).act = some { d with handed := d.handed + k } ∧
      t.xfers = mset s.xfers d.xid { x with left := x.left - k } ∧
      t = { s with wreqs := t.wreqs, engs := t.engs, xfers := t.xfers, cnt := t.cnt }) ∧
  -- DMA_BURST of a read descriptor, not its last, in one request
  (∀ (e : Fin 16) (c : Fin 64) (d : Desc) (x : Xfer) (k g : Nat) (s : State),
    (chanOf s e.val c.val).st = .active →
    (chanOf s e.val c.val).act = some d →
    mget? s.xfers d.xid = some x →
    (engOf s e.val).st = .running →
    ownerCanReq s x.port x.tenant = true →
    k = min (burstBytes s x.port) (d.len - d.handed) →
    d.handed + k < d.len →
    d.toHost = false →
    cutReqs d.host (fnOf s x.port (ownerFn x.tenant)).mrrs k d.handed k = [(d.handed, k)] →
    freeTag s x.port e.val = some g →
    1 ≤ freeTags s x.port e.val →
    running s = true →
    d.inside = false →
    ∃ t, exec (.dmaBurst e c {}) s = .next t ∧
      t.reads = mset s.reads (x.port * 16384 + g) { port := x.port, fn := ownerFn x.tenant, eng := e.val,
                                                    ch := c.val, xid := d.xid, host := d.host + d.handed,
                                                    mere := d.mere + d.handed, len := k, since := s.clk,
                                                    gens := x.gens } ∧
      (chanOf t e.val c.val).act = some { d with handed := d.handed + k } ∧
      t = { s with
          reads := t.reads, engs := t.engs,
          out := .hostRead .dma (asPort x.port) (ownerPasid s x.tenant) (d.host + d.handed) k (xferAttr s x false)
              :: s.out }) ∧
  -- DMA_WRITE_LEAVE
  (∀ (w : WrReq) (l : List WrReq) (s : State),
    s.wreqs = w :: l →
    w.drop = false →
    gensOk s w.gens = true →
    canReq s w.port (if w.pasid.isSome then .pf1 else .pf0) = true →
    exec .dmaWriteLeave s = .next (cadd { s with
        wreqs := l, out := .hostWrite (asPort w.port) w.pasid w.host w.bytes w.attr :: s.out } 16 w.eng 1
        w.bytes.length)) ∧
  -- DMA_WRITE_LEAVE of a write that was withdrawn or whose generation has advanced
  (∀ (w : WrReq) (l : List WrReq) (s : State),
    s.wreqs = w :: l →
    w.drop = true ∨ gensOk s w.gens = false →
    exec .dmaWriteLeave s = .next (cadd { s with wreqs := l } 16 w.eng 4 1)) ∧
  -- DMA_READ_COMPLETION that is not the last of its transfer
  (∀ (p : HostPort) (g : Fin 16384) (r : RdReq) (x : Xfer) (b : List Byte) (s : State),
    mget? s.reads (p.val * 16384 + g.val) = some r →
    r.drop = false →
    b.length = r.len →
    mget? s.xfers r.xid = some x →
    r.len < x.left →
    exec (.dmaReadCompletion p g (.ok b) false) s = .next (
        let u := cadd (storeWrite { s with reads := mdel s.reads (p.val * 16384 + g.val) } r.mere b) 16 r.eng 0
            b.length
        { u with xfers := mset u.xfers r.xid { x with left := x.left - r.len } })) ∧
  -- DMA_READ_COMPLETION of a withdrawn read
  (∀ (p : HostPort) (g : Fin 16384) (r : RdReq) (b : List Byte) (s : State),
    mget? s.reads (p.val * 16384 + g.val) = some r →
    r.drop = true →
    b.length = r.len →
    exec (.dmaReadCompletion p g (.ok b) false) s = .next (cadd { s with
        reads := mdel s.reads (p.val * 16384 + g.val) } 16 r.eng 5 1)) ∧
  -- CPL_TIMEOUT of a DMA read
  (∀ (p : HostPort) (g : Fin 16384) (r : RdReq) (s : State),
    mget? s.reads (p.val * 16384 + g.val) = some r →
    r.drop = true →
    r.since + timeoutOf (fnOf s p.val r.fn).cplTo ≤ s.clk →
    running s = true →
    s.lk.intake.length < 256 →
    ∃ t, exec (.cplTimeout p g .dma) s = .next t ∧ t.reads = mdel s.reads (p.val * 16384 + g.val) ∧
      (hpOf t p.val).toCnt = satInc 65535 (hpOf s p.val).toCnt ∧
      (hpOf t p.val).lateTags = (g.val, s.clk + 4 * timeoutOf (fnOf s p.val r.fn).cplTo, r.fn) :: (hpOf s p.val).lateTags
          ∧
      (fnOf t p.val r.fn).aer.uncSta.getLsbD 14 = true ∧
      t.lk.intake.map (·.code) = s.lk.intake.map (·.code) ++ [evCode .hlCplTimeout] ∧
      t = { s with
          hp := mset s.hp p.val (hpOf t p.val), out := t.out, lk := { s.lk with intake := t.lk.intake },
          reads := t.reads }) ∧
  -- DX_ENGINE_STOP of a RUNNING engine without a channel in use
  (∀ (p : HostPort) (e : Nat) (s : State),
    RegOpen s p false →
    selEngine s p.val = some e →
    (engOf s e).st = .running →
    (engOf s e).chans = [] →
    exec (.dxEngineStop p) s = .next { s with engs := mset s.engs e { engOf s e with st := .stopped } }) ∧
  -- DX_ENGINE_STOP of one with a channel ACTIVE
  (∀ (p : HostPort) (e c : Nat) (s : State),
    RegOpen s p false →
    selEngine s p.val = some e →
    (engOf s e).st = .running →
    (∃ k, (c, k) ∈ (engOf s e).chans ∧ k.st = .active) →
    ∃ t, exec (.dxEngineStop p) s = .next t ∧ (engOf t e).st = .stopping ∧ t = { s with engs := t.engs }) ∧
  -- DX_ENGINE_RESUME of a stopped engine with nothing to do
  (∀ (p : HostPort) (e : Nat) (s : State),
    RegOpen s p false →
    selEngine s p.val = some e →
    (engOf s e).st = .stopped ∨ (engOf s e).st = .stopping →
    (engOf s e).chans = [] →
    s.xfers = [] →
    exec (.dxEngineResume p) s = .next { s with engs := mset s.engs e { engOf s e with st := .running } }) ∧
  -- DX_BUS_ERR of an engine without a transfer
  (∀ (e : Fin 16) (s : State),
    running s = true →
    portWidth s (engPort s e.val) ≠ 0 →
    (engOf s e.val).st ≠ .halted ∧ (engOf s e.val).st ≠ .offline →
    (engOf s e.val).chans = [] →
    s.xfers = [] →
    s.wreqs = [] →
    s.reads = [] →
    exec (.dxBusErr e) s = .next (raise (cadd { s with
        engs := mset s.engs e.val { (engOf s e.val) with
            st := .halted, prev := (engOf s e.val).st, halts := s.clk :: (engOf s e.val).halts } } 16 e.val 7 1)
        .dxBusErr e.val)) ∧
  -- ENGINE_RECOVER
  (∀ (e : Fin 16) (s : State),
    (engOf s e.val).st = .halted →
    s.reads = [] →
    s.xfers = [] →
    (engOf s e.val).chans = [] →
    ((engOf s e.val).halts.filter fun h => decide (s.clk - h < 1000000000000)).length ≤ rd s F.DX_CFG_HALT_MAX 0 (engPort
        s e.val) →
    exec (.engineRecover e) s = .next { s with
        engs := mset s.engs e.val { (engOf s e.val) with
            st := (engOf s e.val).prev,
            halts := ((engOf s e.val).halts.filter fun h => decide (s.clk - h < 1000000000000)) } }) ∧
  -- ENGINE_RECOVER beyond HALT_MAX
  (∀ (e : Fin 16) (s : State),
    (engOf s e.val).st = .halted →
    s.reads = [] →
    rd s F.DX_CFG_HALT_MAX 0 (engPort s e.val) < ((engOf s e.val).halts.filter fun h => decide (s.clk - h <
        1000000000000)).length →
    exec (.engineRecover e) s = .next (raise { s with
        engs := mset s.engs e.val { (engOf s e.val) with st := .offline, chans := [] } } .dxEngOffline e.val)) ∧
  -- DMA_READ_COMPLETION whose lower address contradicts its request: a bus error and a Malformed TLP
  (∀ (p : HostPort) (g : Fin 16384) (r : RdReq) (b : List Byte) (s : State),
    mget? s.reads (p.val * 16384 + g.val) = some r →
    exec (.dmaReadCompletion p g (.ok b) true) s = .next (busError (aer { s with
        reads := mdel s.reads (p.val * 16384 + g.val) } p r.fn .malformedTlp) r.eng))

/-- TX, RX_POST, CORE_JOB and COPY jobs. A TX or CORE_JOB job whose fields are valid allocates one buffer for its
data, charged to its owner, and starts the transfer of its host segments; RX_POST leaves the job waiting for a
frame; a COPY between Mere and host starts its transfer, one of Mere segments to the host too, and one of no bytes
completes. (R103, R149, R225, R256, R259, R334, R390, R399) -/
def Obligations.QueueEngineJobs : Prop :=
  -- TX with a host segment
  (∀ (uid : Nat) (j : Job) (a : Upset) (b : Nat) (s : State),
    JobReady s uid 0x81 j →
    txOk s j (segBytes (segsOf j.ents)) = true →
    segsOwned ({ s with jobs := mset s.jobs uid { j with fresh := false } }) (ownerReq j.owner) (segsOf j.ents) =
        true →
    xferPossible s j.port = true →
    (allocWork ({ s with jobs := mset s.jobs uid { j with fresh := false } }) (ownerReq j.owner) (max 1 (segBytes (segsOf
        j.ents)))).1.toOption = some b →
    (segsOf j.ents).any (fun g => !g.inMere) = true →
    exec (.tx uid a) s = .next (
        let j1 : Job := { j with fresh := false, upset := a }
        let u := (allocWork ({ s with jobs := mset s.jobs uid { j with fresh := false } }) (ownerReq j.owner) (max 1 (segBytes (segsOf
            j.ents)))).2
        let w := { u with jobs := mset u.jobs uid { j1 with bufs := [b] } }
        (moveSegs w (jobXfer w { j1 with bufs := [b] } (.job uid) 0) false (segsOf j.ents) (bufAddr w b 0)).2)) ∧
  -- CORE_JOB with a host segment
  (∀ (uid : Nat) (j : Job) (b : Nat) (s : State),
    JobReady s uid 0x86 j →
    (segBytes (segsOf j.ents)) ≤ 65536 →
    ringTakes s (dw (jobHead j) 8 % 4096) j.owner = true →
    segsOwned ({ s with jobs := mset s.jobs uid { j with fresh := false } }) (ownerReq j.owner) (segsOf j.ents) =
        true →
    xferPossible s j.port = true →
    (allocWork ({ s with jobs := mset s.jobs uid { j with fresh := false } }) (ownerReq j.owner) (max 1 (segBytes (segsOf
        j.ents)))).1.toOption = some b →
    (segsOf j.ents).any (fun g => !g.inMere) = true →
    exec (.coreJob uid) s = .next (
        let j1 : Job := { j with fresh := false }
        let u := (allocWork ({ s with jobs := mset s.jobs uid { j with fresh := false } }) (ownerReq j.owner) (max 1 (segBytes (segsOf
            j.ents)))).2
        let w := { u with jobs := mset u.jobs uid { j1 with bufs := [b] } }
        (moveSegs w (jobXfer w { j1 with bufs := [b] } (.job uid) 0) false (segsOf j.ents) (bufAddr w b 0)).2)) ∧
  -- RX_POST
  (∀ (uid : Nat) (j : Job) (s : State),
    JobReady s uid 0x82 j →
    segsOwned ({ s with jobs := mset s.jobs uid { j with fresh := false } }) (ownerReq j.owner) (segsOf j.ents) =
        true →
    exec (.rxPost uid) s = .next ({ s with jobs := mset s.jobs uid { j with fresh := false } })) ∧
  -- COPY of Mere segments to a host address
  (∀ (uid : Nat) (j : Job) (s : State),
    JobReady s uid 0x87 j →
    copyOk ({ s with jobs := mset s.jobs uid { j with fresh := false } }) ({ j with fresh := false }) (segBytes (segsOf
        j.ents)) = true →
    segsOwned ({ s with jobs := mset s.jobs uid { j with fresh := false } }) (ownerReq j.owner) (segsOf j.ents) =
        true →
    (segBytes (segsOf j.ents)) ≠ 0 →
    xferPossible s (cpPort j) = true →
    cpMere j = false ∧ cpWin j = false →
    (segsOf j.ents).all (·.inMere) = true →
    exec (.copy uid) s = .next (startXfer ({ s with jobs := mset s.jobs uid { j with fresh := false } }) (copyXfer ({
        s with
        jobs := mset s.jobs uid { j with fresh := false } }) ({ j with fresh := false }) uid ((segsOf j.ents).foldl (fun (a
        : List Desc × Nat) g => (a.1 ++ [mkDesc true (cpDst j + a.2) (bufAddr s g.lo g.hi) g.len (ownerPasid s
        j.owner)], a.2 + g.len)) ([], 0)).1))) ∧
  -- COPY from host segments into a buffer
  (∀ (uid : Nat) (j : Job) (s : State),
    JobReady s uid 0x87 j →
    copyOk ({ s with jobs := mset s.jobs uid { j with fresh := false } }) ({ j with fresh := false }) (segBytes (segsOf
        j.ents)) = true →
    segsOwned ({ s with jobs := mset s.jobs uid { j with fresh := false } }) (ownerReq j.owner) (segsOf j.ents) =
        true →
    (segBytes (segsOf j.ents)) ≠ 0 →
    xferPossible s (cpPort j) = true →
    cpMere j = true →
    (pairMove ({ s with jobs := mset s.jobs uid { j with fresh := false } }) false (ownerPasid s j.owner) (segsOf
        j.ents) [⟨cpBuf j, dw (jobHead j) 8, (segBytes (segsOf j.ents)), true⟩]) ≠ [] →
    cpDir j = false →
    (segsOf j.ents).all (·.inMere) = false →
    exec (.copy uid) s = .next (startXfer ({ s with jobs := mset s.jobs uid { j with fresh := false } }) (copyXfer ({
        s with
        jobs := mset s.jobs uid { j with fresh := false } }) { j with fresh := false } uid (pairMove ({ s with
        jobs := mset s.jobs uid { j with fresh := false } }) false (ownerPasid s j.owner) (segsOf j.ents) [⟨cpBuf j,
        dw (jobHead j) 8, (segBytes (segsOf j.ents)), true⟩])))) ∧
  -- COPY of no bytes
  (∀ (uid : Nat) (j : Job) (s : State),
    JobReady s uid 0x87 j →
    copyOk ({ s with jobs := mset s.jobs uid { j with fresh := false } }) ({ j with fresh := false }) (segBytes (segsOf
        j.ents)) = true →
    segsOwned ({ s with jobs := mset s.jobs uid { j with fresh := false } }) (ownerReq j.owner) (segsOf j.ents) =
        true →
    (segBytes (segsOf j.ents)) = 0 →
    exec (.copy uid) s = .next (finishJob (j.bufs.foldl devFree ({ s with
        jobs := mset s.jobs uid { j with fresh := false } })) uid .success 0))

/-- Events, fatal containment, temperature, device reset and the last-resort sequencer. A raised event joins the
intake queue; the oldest one is logged and reported; a fatal event contains the device: FATAL, the event latched as
the first, FAULT_N asserted; one more while FATAL is logged and counted; a hot junction raises LK_THERMAL_WARN; a
trip powers the domains off after 1 ms; the fatal timer under ACTION 0 resets the device, under ACTION 1 only ends;
a held reset proceeds; the watchdog expires after its 312,500 periods without service, which an error of the SRAM
that cannot be corrected stops; the causes of the sequencer leave the device in LRS with BME clear, FAULT_N
asserted, and no root key. At which commands firmware services the watchdog is the choice of the model (log entry
122). (R244, R416, R418, R420, R428, R429, R430, R431, R432, R465) -/
def Obligations.EventsAndFatalContainment : Prop :=
  -- EVENT_RAISE of an event that is not fatal
  (∀ (v : Ev) (i : Word) (s : State),
    evClass v ≠ 2 →
    s.lk.st ≠ .lrs →
    s.boot.por = true →
    exec (.eventRaise v i) s = .next (raise s v i.toNat)) ∧
  -- EVENT_LOG
  (∀ (e : Event) (r : List Event) (s : State),
    s.lk.intake = e :: r →
    lkRuns s = true →
    s.lk.st ≠ .resetting ∨ s.boot.recovery = true →
    exec .eventLog s = .next (takeEvent { s with lk := { s.lk with intake := r, wdAt := s.clk } } e)) ∧
  -- FATAL_EVENT of an interconnect
  (∀ (s : State),
    s.boot.por = true →
    s.lk.st = .running →
    bootHeld s = false →
    bootHeld s = false →
    bootHeld s = false →
    bootHeld s = false →
    ∃ t, exec (.fatalEvent true) s = .next t ∧ t.lk.st = .fatal ∧ t.lk.first = some (mkEvent s .lkNocFault 0) ∧
      t.lk.fatalCount = 1 ∧ t.lk.fatalStart = some s.clk ∧ t.lk.fault = true ∧ t.wreqs = [] ∧ t.slots = [] ∧
      t.msgs = [] ∧ t.seals = []) ∧
  -- FATAL_EVENT of the control memory
  (∀ (s : State),
    s.boot.por = true →
    s.lk.st = .running →
    bootHeld s = false →
    bootHeld s = false →
    bootHeld s = false →
    bootHeld s = false →
    ∃ t, exec (.fatalEvent false) s = .next t ∧ t.lk.st = .fatal ∧ t.lk.first = some (mkEvent s .lkCtrlEcc 0) ∧
      t.lk.fatalCount = 1 ∧ t.lk.fatalStart = some s.clk ∧ t.lk.fault = true ∧ t.wreqs = [] ∧ t.slots = [] ∧
      t.msgs = [] ∧ t.seals = []) ∧
  -- RAIL_FAULT
  (∀ (s : State),
    s.boot.por = true →
    s.lk.st = .running →
    bootHeld s = false →
    bootHeld s = false →
    bootHeld s = false →
    bootHeld s = false →
    ∃ t, exec .railFault s = .next t ∧ t.lk.st = .fatal ∧ t.lk.first = some (mkEvent s .lkRailFault 0) ∧
      t.lk.fatalCount = 1 ∧ t.lk.fatalStart = some s.clk ∧ t.lk.fault = true ∧ t.wreqs = [] ∧ t.slots = [] ∧
      t.msgs = [] ∧ t.seals = []) ∧
  -- CLOCK_FAULT
  (∀ (s : State),
    s.boot.por = true →
    s.lk.st = .running →
    bootHeld s = false →
    bootHeld s = false →
    bootHeld s = false →
    bootHeld s = false →
    ∃ t, exec .clockFault s = .next t ∧ t.lk.st = .fatal ∧ t.lk.first = some (mkEvent s .lkClockFault 0) ∧
      t.lk.fatalCount = 1 ∧ t.lk.fatalStart = some s.clk ∧ t.lk.fault = true ∧ t.wreqs = [] ∧ t.slots = [] ∧
      t.msgs = [] ∧ t.seals = []) ∧
  -- CLOCK_FAULT while FATAL
  (∀ (s : State),
    s.boot.por = true →
    s.lk.st = .fatal →
    bootHeld s = false →
    exec .clockFault s = .next (logEvent { s with
        lk := { s.lk with fatalCount := min 65535 (s.lk.fatalCount + 1) } } (mkEvent s .lkClockFault 0))) ∧
  -- JUNCTION_SAMPLE
  (∀ (l : List Byte) (s : State),
    s.boot.sampled + msec 1 ≤ s.clk →
    lkRuns s = true →
    l.length = 16 →
    exec (.junctionSample l) s = .next (thermStep { s with
        lk := { s.lk with wdAt := s.clk },
        boot := { s.boot with
            temp := ((l.map (·.toNat)).foldl max 0),
            hottest := (l.map (·.toNat)).idxOf ((l.map (·.toNat)).foldl max 0),
            maxC := max s.boot.maxC ((l.map (·.toNat)).foldl max 0), sampled := s.clk } })) ∧
  -- JUNCTION_SAMPLE at WARN_C below TRIP_C
  (∀ (l : List Byte) (s : State),
    s.boot.sampled + msec 1 ≤ s.clk →
    lkRuns s = true →
    l.length = 16 →
    s.boot.therm = .normal →
    s.hbm.stks = [] →
    rd s F.LK_THERMAL_WARN_C ≤ ((l.map (·.toNat)).foldl max 0) →
    ((l.map (·.toNat)).foldl max 0) < rd s F.LK_THERMAL_TRIP_C →
    exec (.junctionSample l) s = .next (raise { s with
        lk := { s.lk with wdAt := s.clk },
        boot := { s.boot with
            temp := ((l.map (·.toNat)).foldl max 0),
            hottest := (l.map (·.toNat)).idxOf ((l.map (·.toNat)).foldl max 0),
            maxC := max s.boot.maxC ((l.map (·.toNat)).foldl max 0), sampled := s.clk, therm := .throttled } }
        .lkThermalWarn 0)) ∧
  -- TRIP_POWER_OFF
  (∀ (d : Nat) (s : State),
    s.boot.tripAt = some d →
    d + msec 1 ≤ s.clk →
    s.lk.st ≠ .lrs →
    s.boot.por = true →
    exec .tripPowerOff s = .next { s with
        boot := { s.boot with tripAt := none, pd := 1 },
        hbm := { s.hbm with mig := if s.hbm.mig = .open_ ∨ s.hbm.mig = .copy then .idle else s.hbm.mig } }) ∧
  -- FATAL_TIMER_EXPIRE under ACTION 1
  (∀ (d : Nat) (s : State),
    s.lk.fatalStart = some d →
    s.lk.st = .fatal →
    d + msec (rd s F.LK_POLICY_FATAL_DELAY) ≤ s.clk →
    rd s F.LK_POLICY_ACTION = 1 →
    lkRuns s = true →
    exec .fatalTimerExpire s = .next { s with lk := { s.lk with fatalStart := none } }) ∧
  -- FATAL_TIMER_EXPIRE under ACTION 0
  (∀ (d : Nat) (s : State),
    s.lk.fatalStart = some d →
    s.lk.st = .fatal →
    d + msec (rd s F.LK_POLICY_FATAL_DELAY) ≤ s.clk →
    rd s F.LK_POLICY_ACTION = 0 →
    resetHeld s = false →
    lkRuns s = true →
    ∃ t, exec .fatalTimerExpire s = .next t ∧ t.lk.st = .resetting ∧ t.lk.resetCause = 1 ∧
      t.lk.devResets = satInc 255 s.lk.devResets ∧ t.lk.log = s.lk.log ∧ t.boot.stage = 0 ∧ t.fuses = s.fuses ∧
      t.md.ledger = s.md.ledger ∧ t.tens = [] ∧ t.sqs = [] ∧ t.conns = [] ∧ t.ls = {} ∧ t.mere = [] ∧
      t.out = s.out) ∧
  -- RESET_PROCEED
  (∀ (c : Nat) (s : State),
    s.lk.resetWait = some c →
    lkRuns s = true →
    resetHeld s = false →
    exec .resetProceed s = .next (deviceReset s c)) ∧
  -- lockstepMismatch
  (∀ (s : State),
    s.lk.st ≠ .lrs →
    s.boot.por = true →
    ∃ t, exec .lockstepMismatch s = .next t ∧ t.lk.st = .lrs ∧ t.lk.lrsCause = 1 ∧ t.lk.fault = true ∧
      t.ls.roots = [] ∧ t.wreqs = [] ∧
      (∀ q : Fin 8, (hpOf t q.val).f0.bme = false ∧ (hpOf t q.val).f1.bme = false)) ∧
  -- lkWatchdogExpire
  (∀ (s : State),
    s.lk.st ≠ .lrs →
    s.boot.por = true →
    s.lk.wdAt + wdPs ≤ s.clk →
    ∃ t, exec (.lkWatchdogExpire false) s = .next t ∧ t.lk.st = .lrs ∧ t.lk.lrsCause = 2 ∧ t.lk.fault = true ∧
      t.ls.roots = [] ∧ t.wreqs = [] ∧
      (∀ q : Fin 8, (hpOf t q.val).f0.bme = false ∧ (hpOf t q.val).f1.bme = false)) ∧
  -- lkRefLoss
  (∀ (s : State),
    s.lk.st ≠ .lrs →
    s.boot.por = true →
    ∃ t, exec .lkRefLoss s = .next t ∧ t.lk.st = .lrs ∧ t.lk.lrsCause = 3 ∧ t.lk.fault = true ∧
      t.ls.roots = [] ∧ t.wreqs = [] ∧
      (∀ q : Fin 8, (hpOf t q.val).f0.bme = false ∧ (hpOf t q.val).f1.bme = false)) ∧
  -- RESET_PROCEED: what the device reset leaves
  (∀ (c : Nat) (s : State),
    s.lk.resetWait = some c →
    lkRuns s = true →
    resetHeld s = false →
    ∃ t, exec .resetProceed s = .next t ∧ t.lk.st = .resetting ∧ t.lk.resetCause = c ∧ t.lk.resetWait = none ∧
      t.lk.devResets = satInc 255 s.lk.devResets ∧ t.lk.log = s.lk.log ∧ t.boot.stage = 0 ∧ t.fuses = s.fuses ∧
      t.md.ledger = s.md.ledger ∧ t.tens = [] ∧ t.sqs = [] ∧ t.conns = [] ∧ t.ls = {} ∧ t.mere = []) ∧
  -- EVENT_LOG of an event that opens a new entry of the log
  (∀ (e : Event) (r : List Event) (s : State),
    s.lk.intake = e :: r →
    lkRuns s = true →
    s.lk.st ≠ .resetting ∨ s.boot.recovery = true →
    excluded s e.code = false →
    mget? s.lk.log ((s.lk.tail + 1023) % 1024) = none →
    ∃ t, exec .eventLog s = .next t ∧ t.lk.intake = r ∧ t.lk.tail = (s.lk.tail + 1) % 2 ^ 32 ∧
      mget? t.lk.log (s.lk.tail % 1024) = some e) ∧
  -- LK_WATCHDOG_EXPIRE before its count has run out: nothing
  (∀ (s : State),
    s.clk < s.lk.wdAt + wdPs →
    exec (.lkWatchdogExpire false) s = .next s) ∧
  -- LK_WATCHDOG_EXPIRE with an error of the SRAM that cannot be corrected: both cores halt
  (∀ (s : State),
    lkAlive s = true →
    exec (.lkWatchdogExpire true) s = .next { s with lk := { s.lk with halted := true } })

/-- Mailbox commands of the Lockkeeper. The mailboxes are served in turn, and a request whose header is refused is
finished in its own turn; GO with a good header makes the mailbox BUSY, ACK of a finished one IDLE; each command
finishes with its RESULT and payload: the first VERSION chooses the highest common version, INFO, LEDGER_READ and
BOOT_REPORT answer their records, IMAGE_LOAD reads the image with the requests of PF0 of the management port, and
fills a slot that no core uses, CONFIG_LOAD stores the configuration, DEVICE_RESET resets, POLICY_SET and
ALERT_FILTER store, ROLLBACK_COMMIT raises a counter to the image in use and never lowers it, FLASH_WRITE writes
the bank not in use, FLASH_SELECT sets a preference. The layout of INFO and BOOT_REPORT is a free function of what
they return (log entry 60). (R423, R425, R426, R430, R434, R441, R454, R455, R456) -/
def Obligations.MailboxCommands : Prop :=
  -- MB_GO of a request that is not refused
  (∀ (p : HostPort) (v : Word) (s : State),
    linkUp s p.val = true →
    (fnOf s p.val .pf0).mse = true →
    s.lk.st ≠ .lrs →
    bitOf v.toNat 0 = true →
    (mbOf s p.val).st ≠ .busy →
    mbRefuse s (mbOf s p.val) = none →
    exec (.mbGo p v) s = .next (modMb s p.val fun m => { m with st := .busy })) ∧
  -- MB_GO while BUSY
  (∀ (p : HostPort) (v : Word) (s : State),
    linkUp s p.val = true →
    (fnOf s p.val .pf0).mse = true →
    s.lk.st ≠ .lrs →
    bitOf v.toNat 0 = true →
    (mbOf s p.val).st = .busy →
    exec (.mbGo p v) s = .next (raiseOnce (wr s F.LK_MB_STATUS_BUSY_ERR 0 p.val 1) .lkMbProtocol p.val)) ∧
  -- MB_ACK
  (∀ (p : HostPort) (s : State),
    linkUp s p.val = true →
    (fnOf s p.val .pf0).mse = true →
    s.lk.st ≠ .lrs →
    (mbOf s p.val).st = .done →
    exec (.mbAck p) s = .next (modMb s p.val fun m => { m with st := .idle })) ∧
  -- VERSION, the first
  (∀ (p : HostPort) (s : State),
    MbReady s p.val 0x00 false →
    level s ≠ 1 →
    0 < min (bitsOf (mbWord (mbOf s p.val) 0x1000) 7 4) 2 →
    bitsOf (mbWord (mbOf s p.val) 0x1000) 3 0 ≤ min (bitsOf (mbWord (mbOf s p.val) 0x1000) 7 4) 2 →
    (mbOf s p.val).version = 0 →
    exec (.version p) s = .next (mbServe (mbServed (mbFinish (modMb s p.val fun m => { m with
        version := min (bitsOf (mbWord (mbOf s p.val) 0x1000) 7 4) 2 }) p.val 0 (leBytes 4 (min (bitsOf (mbWord (mbOf
        s p.val) 0x1000) 7 4) 2))) p.val) 8)) ∧
  -- INFO
  (∀ (p : HostPort) (s : State),
    MbReady s p.val 0x01 false →
    exec (.info p) s = .next (mbServe (mbServed (mbFinish s p.val 0 (Config.mbLayout 0x01 ([rget s 0x4, level s,
        Config.serial.toNat] ++ s.fuses.rollback ++ s.boot.dir.flatMap fun e => [e.typ, e.bank, e.slot, imgVersion
        e.img]))) p.val) 8)) ∧
  -- LEDGER_READ
  (∀ (p : HostPort) (s : State),
    MbReady s p.val 0x02 false →
    exec (.ledgerRead p) s = .next (mbServe (mbServed (mbFinish s p.val 0 ((s.md.ledger ++ s.md.volat).flatMap
        entryWords)) p.val) 8)) ∧
  -- IMAGE_LOAD into a slot that no core uses
  (∀ (p : HostPort) (i : SignedImg) (k : Nat) (r : SysRead) (s : State),
    MbReady s p.val 0x03 true →
    oldestRead s (.fcImage p) = some (k, r) →
    imgCheck s 4 i = 0 →
    imgSlot i < 16 →
    imgInUse s (imgSlot i) = false →
    r.drop = false →
    exec (.imageLoad p (some i)) s = .next (mbServe (mbServed (mbFinish (imgStore { s with
        sreads := mdel s.sreads k } (imgSlot i) i) p.val 0 []) p.val) 8)) ∧
  -- IMAGE_LOAD into a slot in use
  (∀ (p : HostPort) (i : SignedImg) (k : Nat) (r : SysRead) (s : State),
    MbReady s p.val 0x03 true →
    oldestRead s (.fcImage p) = some (k, r) →
    imgCheck s 4 i = 0 →
    imgSlot i < 16 →
    imgInUse s (imgSlot i) = true →
    r.drop = false →
    exec (.imageLoad p (some i)) s = .next (mbServe (mbServed (mbFinish { s with sreads := mdel s.sreads k } p.val 6 [])
        p.val) 8)) ∧
  -- CONFIG_LOAD
  (∀ (p : HostPort) (i : SignedImg) (c : SignedCfg) (s : State),
    MbReady s p.val 0x04 true →
    imgCheck s 3 i = 0 →
    i.body = .signedCfg c →
    i.bytes = mbPayload s p.val →
    exec (.configLoad p i) s = .next (mbServe (mbServed (mbFinish { s with
        fuses := { s.fuses with stored := some (c, imgRollback i, imgVersion i) } } p.val 0 []) p.val) 8)) ∧
  -- DEVICE_RESET
  (∀ (p : HostPort) (s : State),
    MbReady s p.val 0x05 true →
    s.lk.resetWait = none →
    resetHeld s = false →
    ∃ t, exec (.deviceReset p) s = .next t ∧ t.lk.st = .resetting ∧ t.lk.resetCause = 2 ∧ t.boot.stage = 0 ∧
      t.fuses = s.fuses ∧ t.tens = [] ∧ t.sqs = [] ∧ t.ls = {}) ∧
  -- POLICY_SET in range
  (∀ (p : HostPort) (v : Word) (s : State),
    MbReady s p.val 0x10 true →
    1 ≤ bitsOf v.toNat 9 0 ∧ bitsOf v.toNat 9 0 ≤ 1000 →
    bitsOf v.toNat 30 10 = 0 →
    exec (.policySet p v) s = .next (mbServe (mbServed (mbFinish (rset s F.LK_POLICY_ACTION.off 0 v.toNat) p.val 0 [])
        p.val) 8)) ∧
  -- ALERT_FILTER
  (∀ (p : HostPort) (g : DWord) (s : State),
    MbReady s p.val 0x11 false →
    exec (.alertFilter p g) s = .next (mbServe (mbServed (mbFinish (modMb s p.val fun m => { m with
        filter := (List.range 64).filter fun k => g.getLsbD k }) p.val 0 []) p.val) 8)) ∧
  -- ROLLBACK_COMMIT
  (∀ (p : HostPort) (k : Nat) (s : State),
    MbReady s p.val 0x20 true →
    bitsOf (mbWord (mbOf s p.val) 0x1000) 2 0 = k + 1 →
    k < 4 →
    exec (.rollbackCommit p) s = .next (mbServe (mbServed (mbFinish { s with
        fuses := { s.fuses with
            rollback := s.fuses.rollback.set k (max (s.fuses.rollback.getD k 0) (min 64 (s.fuses.inUse.getD k 0))) } }
        p.val 0 []) p.val) 8)) ∧
  -- FLASH_WRITE of an image of type 1 to 3
  (∀ (p : HostPort) (i : SignedImg) (s : State),
    MbReady s p.val 0x21 true →
    1 ≤ imgType i ∧ imgType i ≤ 3 →
    imgCheck s (imgType i) i = 0 →
    i.bytes = mbPayload s p.val →
    ∃ t, exec (.flashWrite p i) s = .next (mbServe (mbServed (mbFinish t p.val 0 []) p.val) 8) ∧
      ({ typ := imgType i, bank := 1 - bitsOf s.boot.bank (imgType i - 1) (imgType i - 1), slot := 0, img := i } :
          FlashEnt) ∈ t.boot.dir ∧
      t.boot.seqs.length = s.boot.seqs.length ∧
      t = { s with
          boot := { s.boot with
              dir := (s.boot.dir.filter fun e => !decide (e.typ = imgType i ∧ e.bank = 1 - bitsOf s.boot.bank (imgType
                  i - 1) (imgType i - 1) ∧ e.slot = 0)) ++ [{ typ := imgType i,
                                                              bank := 1 - bitsOf s.boot.bank (imgType i - 1) (imgType
                                                                  i - 1), slot := 0, img := i }],
              seqs := s.boot.seqs.set (if s.boot.seqs.getD 0 0 < s.boot.seqs.getD 1 0 then 0 else 1) (max (s.boot.seqs.getD
                  0 0) (s.boot.seqs.getD 1 0) + 1) },
          out := .flash [if s.boot.seqs.getD 0 0 < s.boot.seqs.getD 1 0 then 0 else 1, max (s.boot.seqs.getD 0 0) (s.boot.seqs.getD
              1 0) % 2 ^ 32, imgType i, 1 - bitsOf s.boot.bank (imgType i - 1) (imgType i - 1), 0] i.bytes :: s.out }) ∧
  -- FLASH_SELECT
  (∀ (p : HostPort) (k : Fin 8) (b : Bool) (s : State),
    MbReady s p.val 0x22 true →
    1 ≤ k.val ∧ k.val ≤ 3 →
    exec (.flashSelect p k b) s = .next (mbServe (mbServed (mbFinish { s with
        fuses := { s.fuses with pref := s.fuses.pref.set (k.val - 1) b } } p.val 0 []) p.val) 8)) ∧
  -- BOOT_REPORT
  (∀ (p : HostPort) (s : State),
    MbReady s p.val 0x23 true →
    exec (.bootReport p) s = .next (mbServe (mbServed (mbFinish s p.val 0 (Config.mbLayout 0x23 ([bootWord s,
        s.boot.ms, s.boot.bank] ++ s.boot.rejects.flatMap fun r => [r.typ, r.bank, r.why]))) p.val) 8)) ∧
  -- IMAGE_LOAD at its turn: the image is read with the requests of PF0 of the management port
  (∀ (p : HostPort) (s : State),
    mbReady s p.val 0x03 = true →
    oldestRead s (.fcImage p) = none →
    p.val = mgmtPort s →
    canReq s p.val .pf0 = true →
    (fnOf s p.val .pf0).d3 = false →
    exec (.imageLoad p none) s = .next (hostRead s (.fcImage p) p.val none (Config.imgAddr (mbPayload s p.val)).toNat (Config.imgLen (mbPayload
        s p.val)).toNat)) ∧
  -- IMAGE_LOAD of a port that is not the management port, or whose PF0 may not request
  (∀ (p : HostPort) (s : State),
    mbReady s p.val 0x03 = true →
    (mbOf s p.val).orphans = [] →
    oldestRead s (.fcImage p) = none →
    p.val ≠ mgmtPort s →
    exec (.imageLoad p none) s = .next (mbServe (mbServed (mbFinish s p.val 3 []) p.val) 8)) ∧
  -- MB_SERVE: with no request refused at its turn, the mailboxes stay as they are
  (∀ (k : Nat) (s : State),
    mbNow s = none →
    mbServe s k = s) ∧
  -- requests whose header is refused are finished in their turns, without a command
  (∀ (p k : Nat) (r : Nat) (s : State),
    mbNow s = some p →
    mbOpen s = true →
    (mbOf s p).orphans = [] →
    mbRefuse s (mbOf s p) = some r →
    mbServe s (k + 1) = mbServe (mbFinish (mbServed s p) p r []) k)

/-- POR_N, the boot stages, flow-core images at boot, and cluster power. POR_N low keeps fuses and the ledger and
stops the device; its release starts stage ROM, with ERR 1 when a rail is out of range; each stage that ends well
goes on to the next, ROM with the directory of the higher SEQ, and LOAD leaves the device RUNNING with
MS_STATUS.READY; an accepted flow-core image of the flash fills its slot, a rejected one is noted; an idle cluster
is switched off. That a stage that ends services the watchdog is the choice of the model (log entry 122). (R405,
R431, R442, R451, R452, R459, R460, R462, R464) -/
def Obligations.BootAndPower : Prop :=
  -- POR_N_ASSERT
  (∀ (s : State),
    ∃ t, exec .porNAssert s = .next t ∧ t.boot.por = false ∧ t.lk.st = .boot ∧ t.lk.fault = false ∧
      t.fuses = s.fuses ∧ t.md.ledger = s.md.ledger ∧ t.md.subs = [] ∧ t.ls.roots = [] ∧ t.tens = [] ∧
      t.sqs = [] ∧ t.conns = [] ∧ t.mere = [] ∧ t.regs = []) ∧
  -- POR_N_RELEASE
  (∀ (b : Bool) (s : State),
    s.boot.por = false →
    exec (.porNRelease b) s = .next { s with
        boot := { s.boot with por := true, railOk := b, err := if b then 0 else 1, startAt := s.clk },
        lk := { s.lk with porAt := s.clk, wdAt := s.clk } }) ∧
  -- BOOT_STAGE_END of ROM
  (∀ (a b : FlashDir) (s : State),
    s.boot.por = true →
    s.lk.st = .boot ∨ s.lk.st = .resetting →
    s.boot.err = 0 →
    s.boot.stage = 0 →
    s.lk.halted = false →
    exec (.bootStageEnd (.flash (some a) (some b))) s = .next { s with
        lk := { s.lk with wdAt := s.clk }, fuses := { s.fuses with inUse := [0, 0, 0, 0] },
        boot := { s.boot with
            stage := 1, dir := if a.seq < b.seq then b.ents else a.ents, seqs := [a.seq + 1, b.seq + 1],
            rejects := [] } }) ∧
  -- BOOT_STAGE_END of LEDGER
  (∀ (s : State),
    s.boot.por = true →
    s.lk.st = .boot ∨ s.lk.st = .resetting →
    s.boot.err = 0 →
    s.boot.stage = 4 →
    s.lk.halted = false →
    ∃ t, exec (.bootStageEnd .plain) s = .next t ∧ t.boot.stage = 5 ∧
      t = nextStage (modBoot (applyLedger (wdService s)) fun b => { b with pd := Nat.lor b.pd (15 * 2 ^ 17) })) ∧
  -- BOOT_STAGE_END of TRAIN with every stack trained
  (∀ (a b : Fin 16) (s : State),
    s.boot.por = true →
    s.lk.st = .boot ∨ s.lk.st = .resetting →
    s.boot.err = 0 →
    s.boot.stage = 5 →
    Nat.lor a.val b.val = 15 →
    s.lk.halted = false →
    ∃ t, exec (.bootStageEnd (.train a b)) s = .next t ∧ t.boot.stage = 6 ∧
      (∀ k : Fin 4, stackOf t k.val = { stackOf s k.val with trained := true, winAt := s.clk }) ∧
      t = { s with lk := { s.lk with wdAt := s.clk }, boot := { s.boot with stage := 6 }, hbm := t.hbm }) ∧
  -- BOOT_STAGE_END of the self-tests without a failure
  (∀ (s : State),
    s.boot.por = true →
    s.lk.st = .boot ∨ s.lk.st = .resetting →
    s.boot.err = 0 →
    s.boot.stage = 6 →
    s.lk.halted = false →
    exec (.bootStageEnd (.selfTest [])) s = .next { s with
        lk := { s.lk with wdAt := s.clk }, boot := { s.boot with stage := 7 } }) ∧
  -- BOOT_STAGE_END of LOAD after POR_N
  (∀ (s : State),
    s.boot.por = true →
    s.lk.st = .boot →
    s.boot.err = 0 →
    s.boot.stage = 7 →
    s.boot.cfg = none →
    s.boot.dir = [] →
    s.lk.halted = false →
    exec (.bootStageEnd .plain) s = .next { s with
        lk := { s.lk with st := .running, wdAt := s.clk }, coop := { s.coop with ready := true },
        ls := { s.ls with roots := [] },
        boot := { s.boot with stage := 8, ms := (s.clk - s.boot.startAt) / 10 ^ 9 % 65536, fcLeft := [] } }) ∧
  -- FC_IMAGE_VERIFY of an accepted image
  (∀ (e : FlashEnt) (r : List FlashEnt) (s : State),
    s.boot.fcLeft = e :: r →
    s.lk.st = .running →
    imgCheck s 4 e.img = 0 →
    e.slot < 16 →
    imgInUse s e.slot = false →
    s.lk.halted = false →
    exec .fcImageVerify s = .next (imgStore { s with boot := { s.boot with fcLeft := r } } e.slot e.img)) ∧
  -- FC_IMAGE_VERIFY of a rejected one
  (∀ (e : FlashEnt) (r : List FlashEnt) (s : State),
    s.boot.fcLeft = e :: r →
    s.lk.st = .running →
    imgCheck s 4 e.img ≠ 0 →
    s.lk.halted = false →
    exec .fcImageVerify s = .next { s with
        boot := { s.boot with fcLeft := r, rejects := s.boot.rejects ++ [⟨4, e.slot, imgCheck s 4 e.img⟩] } }) ∧
  -- CLUSTER_POWER_OFF
  (∀ (c : Fin 16) (s : State),
    running s = true →
    s.boot.clGate = true →
    c.val ∉ s.clOff →
    (∀ i : Fin 12, ((coreOf s (c.val * 12 + i.val)).st = .stopped ∨ (coreOf s (c.val * 12 + i.val)).st = .offline) ∧ (coreOf
        s (c.val * 12 + i.val)).stopAt + msec 1 ≤ s.clk) →
    exec (.clusterPowerOff c) s = .next { s with clOff := c.val :: s.clOff })

/-- Tallyman: the armed schedule, dump rings and the dump of a snapshot. SNAPSHOT_ARM arms the change of schedule
with its period, and at its edge the base and the period change, and with TL_CTRL.EN the snapshot of that epoch is
taken; a dump ring is created with its fields and destroyed when no snapshot is being written; a snapshot for which
the ring has room is written record by record, one that may not be written is skipped, and one of a tenant that is
no longer ENABLED is dropped. (R402, R404, R407, R408, R409, R412) -/
def Obligations.TallymanCommands : Prop :=
  -- SNAPSHOT_ARM
  (∀ (p : HostPort) (e : Entry) (s : State),
    AdminCmd s p.val 0x3A e →
    dw e 1 = 0 ∧ dw e 6 ≠ 0 ∧ dw e 6 < 65536 ∧ dwZero e 7 15 = true →
    snapArmed s = none →
    armCheck s (dw2 e 4 * 2 ^ 20) = none →
    exec (.snapshotArm p) s = .next (finishAdmin { s with
        armed := s.armed ++ [(.snap, dw2 e 4 * 2 ^ 20)], tl := { s.tl with nextPeriod := dw e 6 } } p.val .success 0)) ∧
  -- SNAPSHOT_SCHEDULE_EDGE with TL_CTRL.EN 0
  (∀ (k : Nat) (s : State),
    snapArmed s = some k →
    k ≤ ftNs s →
    s.lk.st ≠ .lrs →
    rd s F.TL_CTRL_EN = 0 →
    exec .snapshotScheduleEdge s = .next { s with
        armed := s.armed.filter fun a => !decide (a.1 = .snap),
        tl := { s.tl with base := k / 2 ^ 20, period := s.tl.nextPeriod } }) ∧
  -- SNAPSHOT_SCHEDULE_EDGE with TL_CTRL.EN 1
  (∀ (k : Nat) (s : State),
    snapArmed s = some k →
    k ≤ ftNs s →
    s.lk.st ≠ .lrs →
    rd s F.TL_CTRL_EN = 1 →
    exec .snapshotScheduleEdge s = .next (snapshot { s with
        armed := s.armed.filter fun a => !decide (a.1 = .snap),
        tl := { s.tl with base := k / 2 ^ 20, period := s.tl.nextPeriod } } (k / 2 ^ 20))) ∧
  -- DUMP_RING_CREATE
  (∀ (p : HostPort) (e : Entry) (s : State),
    AdminCmd s p.val 0x38 e →
    dw e 4 % 64 = 0 ∧ 4 ≤ (bitsOf (dw e 6) 20 16) ∧ (bitsOf (dw e 6) 20 16) ≤ 20 ∧ dw e 6 < 2 ^ 21 ∧
      bitsOf (dw e 6) 15 1 = 0 ∧ dwZero e 7 15 = true →
    (if (dumpRingOf e) = 0 then devRecords s else 2) ≤ 2 ^ (bitsOf (dw e 6) 20 16) →
    mget? s.tl.rings (dumpRingOf e) = none →
    exec (.dumpRingCreate p) s = .next (finishAdmin { s with
        tl := { s.tl with
            rings := mset s.tl.rings (dumpRingOf e) { port := p.val, ring := dw2 e 4,
                                                      log2 := (bitsOf (dw e 6) 20 16), noSnoop := bitOf (dw e 6) 0 } } }
        p.val .success 0)) ∧
  -- DUMP_RING_DESTROY
  (∀ (p : HostPort) (e : Entry) (d : DumpRing) (s : State),
    AdminCmd s p.val 0x39 e →
    dwZero e 4 15 = true →
    mget? s.tl.rings (dumpRingOf e) = some d →
    d.pend = none →
    exec (.dumpRingDestroy p) s = .next (finishAdmin { s with
        tl := { s.tl with rings := mdel s.tl.rings (dumpRingOf e) } } p.val .success 0)) ∧
  -- DUMP_WRITE of a snapshot of a tenant that the ring has room for
  (∀ (r : Fin 4097) (d : DumpRing) (x : Snap) (h : HostData) (s : State),
    mget? s.tl.rings r.val = some d →
    d.pend = some x →
    s.lk.st ≠ .lrs ∧ s.lk.st ≠ .resetting →
    r ≠ 0 →
    dumpAllowed s r.val d = true →
    ringFill d.tail d.hdev + x.recs.length ≤ 2 ^ d.log2 →
    d.destroyer = none →
    dumpLive s r.val = true →
    (hpOf s d.port).ltssm ≠ .l1 →
    (∀ x ∈ s.sreads, x.2.what ≠ .dump r.val) →
    exec (.dumpWrite r h) s = .next (
        let u := cadd (dumpRecords s r.val d x x.recs.length 0 x.recs) 17 0 1 x.recs.length
        { u with
            tl := { s.tl with
                rings := mset s.tl.rings r.val { d with
                    tail := (d.tail + x.recs.length) % 2 ^ 32, last := some x.epoch, pend := none } } })) ∧
  -- DUMP_WRITE of one that may not be written
  (∀ (r : Fin 4097) (d : DumpRing) (x : Snap) (h : HostData) (s : State),
    mget? s.tl.rings r.val = some d →
    d.pend = some x →
    s.lk.st ≠ .lrs ∧ s.lk.st ≠ .resetting →
    r ≠ 0 →
    dumpAllowed s r.val d = false →
    d.destroyer = none →
    dumpLive s r.val = true →
    (∀ x ∈ s.sreads, x.2.what ≠ .dump r.val) →
    exec (.dumpWrite r h) s = .next (
        let u := dumpSkip s r.val x.recs
        { u with tl := { s.tl with rings := mset s.tl.rings r.val { d with pend := none } } })) ∧
  -- DUMP_WRITE of a snapshot whose tenant is no longer ENABLED: nothing is written
  (∀ (r : Fin 4097) (d : DumpRing) (x : Snap) (h : HostData) (s : State),
    mget? s.tl.rings r.val = some d →
    d.pend = some x →
    s.lk.st ≠ .lrs ∧ s.lk.st ≠ .resetting →
    r ≠ 0 →
    d.destroyer = none →
    (∀ x ∈ s.sreads, x.2.what ≠ .dump r.val) →
    dumpLive s r.val = false →
    exec (.dumpWrite r h) s = .next { s with
        tl := { s.tl with rings := mset s.tl.rings r.val { d with pend := none } } })

/-- The test access port, sessions and their ends. IDCODE, BYPASS, SAMPLE_PRELOAD and EXTEST select their register
and shift it out; a TAP reset and a CLOSE end the session; a Gygar word goes in while one comes out; CHALLENGE,
AUTH and STATUS answer; a session ends after 60 s without a frame, a lockout after 60 s. (R467, R468, R470, R474)
-/
def Obligations.TestAccessPort : Prop :=
  -- IDCODE
  (∀ (s : State),
    exec .idcode s = .next { s with dbg := { s.dbg with ir := 0x01 }, out := .tap 32 idcode :: s.out }) ∧
  -- BYPASS
  (∀ (s : State),
    exec .bypass s = .next { s with dbg := { s.dbg with ir := 0xFF }, out := .tap 1 0 :: s.out }) ∧
  -- SAMPLE_PRELOAD: the pins sampled are a free value
  (∀ (v : DWord) (s : State),
    exec (.samplePreload v) s = .next { s with
        dbg := { s.dbg with ir := 0x02, boundary := v.toNat }, out := .tap 64 (Config.pins s.free).toNat :: s.out,
        free := s.free + 1 }) ∧
  -- EXTEST while POR_N is low
  (∀ (s : State),
    s.boot.por = false →
    exec .extest s = .next { s with dbg := { s.dbg with ir := 0x00 }, out := .tap 64 s.dbg.boundary :: s.out }) ∧
  -- EXTEST while POR_N is high selects BYPASS
  (∀ (s : State),
    s.boot.por = true →
    exec .extest s = .next { s with dbg := { s.dbg with ir := 0xFF }, out := .tap 1 0 :: s.out }) ∧
  -- TAP_RESET outside a session
  (∀ (s : State),
    s.dbg.st ≠ .open →
    s.dbg.reqs = [] →
    exec .tapReset s = .next { s with
        dbg := { s.dbg with ir := 0x01, frameIn := [], frameOut := [], outFirst := false, waiting := none } }) ∧
  -- TAP_RESET of an open session
  (∀ (s : State),
    s.dbg.st = .open →
    ∃ t, exec .tapReset s = .next t ∧ t.dbg.st = .closed ∧ t.dbg.rights = 0 ∧ t.dbg.bps = [] ∧ t.dbg.wps = [] ∧
      t.dbg.ir = 1 ∧ t = { s with dbg := t.dbg, cores := t.cores }) ∧
  -- GYGAR_WORD that is not valid, with nothing to answer
  (∀ (w : BitVec 36) (s : State),
    s.boot.por = true →
    s.dbg.waiting = none →
    s.dbg.frameOut = [] →
    bitOf w.toNat 35 = false →
    exec (.gygarWord w) s = .next { s with dbg := { s.dbg with ir := 0x20 }, out := .tap 36 (2 ^ 33) :: s.out }) ∧
  -- GYGAR_WORD in the middle of a frame, with nothing to answer
  (∀ (w : BitVec 36) (h : Nat) (x : List Nat) (s : State),
    s.boot.por = true →
    s.dbg.waiting = none →
    s.dbg.frameOut = [] →
    bitOf w.toNat 35 = true ∧ bitOf w.toNat 34 = false →
    s.dbg.frameIn = h :: x →
    x.length + 2 < h % 65536 + 2 →
    exec (.gygarWord w) s = .next { s with
        dbg := { s.dbg with ir := 0x20, frameIn := h :: x ++ [w.toNat % 2 ^ 32] }, out := .tap 36 (2 ^ 33) :: s.out }) ∧
  -- CHALLENGE answers a fresh NONCE of eight words
  (∀ (q : Nat) (y : List Nat) (l : List (Nat × Nat × List Nat × Bool)) (s : State),
    s.dbg.reqs = (0x01, q, y, true) :: l →
    s.lk.st ≠ .lrs →
    y = [] →
    s.dbg.st = .closed ∨ s.dbg.st = .challenged →
    (debugKey s).isSome = true →
    exec .challenge s = .next (
        let n := (List.range 4).flatMap fun k => [(Config.entropy (s.free + k)).toNat % 2 ^ 32, (Config.entropy (s.free
            + k)).toNat / 2 ^ 32 % 2 ^ 32]
        respond { s with free := s.free + 4, dbg := { s.dbg with reqs := l, st := .challenged, nonce := some n } }
            0x01 q true 0 n)) ∧
  -- AUTH that verifies opens the session with its RIGHTS
  (∀ (q : Nat) (y : List Nat) (l : List (Nat × Nat × List Nat × Bool)) (s : State),
    s.dbg.reqs = (0x02, q, y, true) :: l →
    s.lk.st ≠ .lrs →
    y.length = 49 ∧ y.getD 0 0 < 16 →
    s.dbg.st = .challenged →
    s.dbg.nonce.isSome = true →
    (debugKey s).isSome = true →
    exec (.auth true) s = .next (respond (raise { s with
        dbg := { s.dbg with
            reqs := l, st := .open, rights := y.getD 0 0, nonce := none, row := 0,
            sessions := satInc 65535 s.dbg.sessions } } .dbSessionOpen 0) 0x02 q true 0 [])) ∧
  -- AUTH that fails, not for the fourth time in a row
  (∀ (q : Nat) (y : List Nat) (l : List (Nat × Nat × List Nat × Bool)) (s : State),
    s.dbg.reqs = (0x02, q, y, true) :: l →
    s.lk.st ≠ .lrs →
    y.length = 49 ∧ y.getD 0 0 < 16 →
    s.dbg.st = .challenged →
    s.dbg.row < 3 →
    exec (.auth false) s = .next (respond (raise { s with
        dbg := { s.dbg with
            reqs := l, st := .closed, nonce := none, fails := satInc 65535 s.dbg.fails, row := s.dbg.row + 1 } }
        .dbAuthFail 0) 0x02 q true 2 [])) ∧
  -- AUTH that fails for the fourth time locks out for 60 s
  (∀ (q : Nat) (y : List Nat) (l : List (Nat × Nat × List Nat × Bool)) (s : State),
    s.dbg.reqs = (0x02, q, y, true) :: l →
    s.lk.st ≠ .lrs →
    y.length = 49 ∧ y.getD 0 0 < 16 →
    s.dbg.st = .challenged →
    s.dbg.row = 3 →
    exec (.auth false) s = .next (respond (raise { s with
        dbg := { s.dbg with
            reqs := l, st := .lockedOut, nonce := none, fails := satInc 65535 s.dbg.fails, row := 0,
            lockTill := s.clk + 60 * 10 ^ 12 } } .dbAuthFail 0) 0x02 q true 2 [])) ∧
  -- CLOSE
  (∀ (q : Nat) (y : List Nat) (l : List (Nat × Nat × List Nat × Bool)) (s : State),
    s.dbg.reqs = (0x03, q, y, true) :: l →
    s.lk.st ≠ .lrs →
    s.dbg.st = .open →
    y = [] →
    exec .close s = .next (respond (closeSession { s with dbg := { s.dbg with reqs := l } }) 0x03 q true 0 [])) ∧
  -- STATUS
  (∀ (q : Nat) (y : List Nat) (l : List (Nat × Nat × List Nat × Bool)) (s : State),
    s.dbg.reqs = (0x04, q, y, true) :: l →
    s.lk.st ≠ .lrs →
    s.dbg.st = .open →
    bitOf s.dbg.rights 0 = true →
    y = [] →
    exec .status s = .next (respond { s with dbg := { s.dbg with reqs := l } } 0x04 q true 0 (statusWords { s with
        dbg := { s.dbg with reqs := l } }))) ∧
  -- SESSION_IDLE_TIMEOUT
  (∀ (s : State),
    s.dbg.st = .open →
    s.dbg.lastFrame + 60 * 10 ^ 12 ≤ s.clk →
    ∃ t, exec .sessionIdleTimeout s = .next t ∧ t.dbg.st = .closed ∧ t.dbg.rights = 0 ∧ t.dbg.bps = [] ∧
      t.dbg.wps = [] ∧ t = { s with dbg := t.dbg, cores := t.cores }) ∧
  -- LOCKOUT_END
  (∀ (s : State),
    s.dbg.st = .lockedOut →
    s.dbg.lockTill ≤ s.clk →
    exec .lockoutEnd s = .next { s with dbg := { s.dbg with st := .closed } }) ∧
  -- CLOSE: no session, no rights, no points
  (∀ (q : Nat) (y : List Nat) (l : List (Nat × Nat × List Nat × Bool)) (s : State),
    s.dbg.reqs = (0x03, q, y, true) :: l →
    s.lk.st ≠ .lrs →
    s.dbg.st = .open →
    y = [] →
    ∃ t, exec .close s = .next t ∧ t.dbg.st = .closed ∧ t.dbg.rights = 0 ∧ t.dbg.bps = [] ∧ t.dbg.wps = [] ∧
      t.dbg.reqs = l ∧ t.dbg.frameOut.take 2 = [word [(24, 0x03), (16, q), (0, 1)], 0])

/-- Gygar commands: run control, breakpoints, watchpoints, reads and writes. With the session open and the right
that each needs: HALT and RESUME change the threads of the mask, STEP lets one halted thread issue one instruction
and answers later, THREAD_RESET restarts halted ones; BP_SET and WP_SET set or clear their entry; READ answers the
words of the place, WRITE changes it; without a session or the right they answer NOT_AUTHORISED or NO_RIGHT. (R470,
R472, R475, R476, R477) -/
def Obligations.DebugCommands : Prop :=
  -- HALT with no thread inside an instruction
  (∀ (q : Nat) (y : List Nat) (l : List (Nat × Nat × List Nat × Bool)) (s : State),
    s.dbg.reqs = (0x10, q, y, true) :: l →
    s.lk.st ≠ .lrs →
    s.dbg.st = .open →
    bitOf s.dbg.rights 1 = true →
    y.length = 2 ∧ y.getD 0 0 % 256 < 192 →
    anyThr (haltMask { s with dbg := { s.dbg with reqs := l } } (y.getD 0 0 % 256) (y.getD 1 0 % 65536)) (y.getD 0 0
        % 256) (y.getD 1 0 % 65536) (·.haltPend) = false →
    exec .halt s = .next (respond (haltMask { s with dbg := { s.dbg with reqs := l } } (y.getD 0 0 % 256) (y.getD 1
        0 % 65536)) 0x10 q true 0 [])) ∧
  -- RESUME
  (∀ (q : Nat) (y : List Nat) (l : List (Nat × Nat × List Nat × Bool)) (s : State),
    s.dbg.reqs = (0x11, q, y, true) :: l →
    s.lk.st ≠ .lrs →
    s.dbg.st = .open →
    bitOf s.dbg.rights 1 = true →
    y.length = 2 ∧ y.getD 0 0 % 256 < 192 →
    exec .resume s = .next (respond (resumeMask { s with dbg := { s.dbg with reqs := l } } (y.getD 0 0 % 256) (y.getD
        1 0 % 65536)) 0x11 q true 0 [])) ∧
  -- STEP of a halted thread that has a slot
  (∀ (q : Nat) (y : List Nat) (l : List (Nat × Nat × List Nat × Bool)) (n : Nat) (s : State),
    s.dbg.reqs = (0x12, q, y, true) :: l →
    s.lk.st ≠ .lrs →
    s.dbg.st = .open →
    bitOf s.dbg.rights 1 = true →
    y.length = 2 ∧ y.getD 0 0 % 256 < 192 →
    ((List.range 16).filter fun k => bitOf (y.getD 1 0 % 65536) k) = [n] →
    (thrOf s (y.getD 0 0 % 256) n).st = .halted →
    weight s (y.getD 0 0 % 256) n ≠ 0 →
    exec .step s = .next (
        let u := modThr { s with dbg := { s.dbg with reqs := l } } (y.getD 0 0 % 256) n fun th => { th with
            st := .running, stepping := true }
        { u with
            dbg := { u.dbg with stepRes := 0, waiting := some (0x12, q, (y.getD 0 0 % 256), (y.getD 1 0 % 65536)) } })) ∧
  -- THREAD_RESET
  (∀ (q : Nat) (y : List Nat) (l : List (Nat × Nat × List Nat × Bool)) (s : State),
    s.dbg.reqs = (0x13, q, y, true) :: l →
    s.lk.st ≠ .lrs →
    s.dbg.st = .open →
    bitOf s.dbg.rights 1 = true →
    y.length = 2 ∧ y.getD 0 0 % 256 < 192 →
    exec .threadReset s = .next (respond ((List.range 16).foldl (fun s k => if bitOf (y.getD 1 0 % 65536) k ∧ (thrOf
        s (y.getD 0 0 % 256) k).st = .halted then restartThr s (y.getD 0 0 % 256) k true else s) { s with
        dbg := { s.dbg with reqs := l } }) 0x13 q true 0 [])) ∧
  -- BP_SET that sets
  (∀ (q : Nat) (y : List Nat) (l : List (Nat × Nat × List Nat × Bool)) (s : State),
    s.dbg.reqs = (0x18, q, y, true) :: l →
    s.lk.st ≠ .lrs →
    s.dbg.st = .open →
    bitOf s.dbg.rights 1 = true →
    y.length = 3 ∧ (y.getD 0 0) % 256 < 192 →
    bitOf (y.getD 0 0) 31 = true →
    exec .bpSet s = .next (respond { s with
        dbg := { s.dbg with
            reqs := l,
            bps := mset s.dbg.bps ((y.getD 0 0) % 256 * 8 + bitsOf (y.getD 0 0) 10 8) { pc := y.getD 1 0 % 2 ^ 24,
                                                                                        mask := y.getD 2 0 % 65536,
                                                                                        all := bitOf (y.getD 0 0) 16 } } }
        0x18 q true 0 [])) ∧
  -- BP_SET that clears
  (∀ (q : Nat) (y : List Nat) (l : List (Nat × Nat × List Nat × Bool)) (s : State),
    s.dbg.reqs = (0x18, q, y, true) :: l →
    s.lk.st ≠ .lrs →
    s.dbg.st = .open →
    bitOf s.dbg.rights 1 = true →
    y.length = 3 ∧ (y.getD 0 0) % 256 < 192 →
    bitOf (y.getD 0 0) 31 = false →
    exec .bpSet s = .next (respond { s with
        dbg := { s.dbg with reqs := l, bps := mdel s.dbg.bps ((y.getD 0 0) % 256 * 8 + bitsOf (y.getD 0 0) 10 8) } }
        0x18 q true 0 [])) ∧
  -- WP_SET that sets
  (∀ (q : Nat) (y : List Nat) (l : List (Nat × Nat × List Nat × Bool)) (s : State),
    s.dbg.reqs = (0x19, q, y, true) :: l →
    s.lk.st ≠ .lrs →
    s.dbg.st = .open →
    bitOf s.dbg.rights 1 = true →
    y.length = 4 ∧ (y.getD 0 0) % 256 < 192 →
    1 ≤ y.getD 2 0 % 2 ^ 13 ∧ y.getD 2 0 % 2 ^ 13 ≤ 4096 ∧ y.getD 1 0 % 2 ^ 18 + y.getD 2 0 % 2 ^ 13 ≤ 2 ^ 18 →
    bitOf (y.getD 0 0) 31 = true →
    exec .wpSet s = .next (respond { s with
        dbg := { s.dbg with
            reqs := l,
            wps := mset s.dbg.wps ((y.getD 0 0) % 256 * 4 + bitsOf (y.getD 0 0) 9 8) { base := y.getD 1 0 % 2 ^ 18,
                                                                                       len := y.getD 2 0 % 2 ^ 13,
                                                                                       mask := y.getD 3 0 % 65536,
                                                                                       rd := bitOf (y.getD 0 0) 16,
                                                                                       wr := bitOf (y.getD 0 0) 17,
                                                                                       all := bitOf (y.getD 0 0) 18 } } }
        0x19 q true 0 [])) ∧
  -- WP_SET that clears
  (∀ (q : Nat) (y : List Nat) (l : List (Nat × Nat × List Nat × Bool)) (s : State),
    s.dbg.reqs = (0x19, q, y, true) :: l →
    s.lk.st ≠ .lrs →
    s.dbg.st = .open →
    bitOf s.dbg.rights 1 = true →
    y.length = 4 ∧ (y.getD 0 0) % 256 < 192 →
    1 ≤ y.getD 2 0 % 2 ^ 13 ∧ y.getD 2 0 % 2 ^ 13 ≤ 4096 ∧ y.getD 1 0 % 2 ^ 18 + y.getD 2 0 % 2 ^ 13 ≤ 2 ^ 18 →
    bitOf (y.getD 0 0) 31 = false →
    exec .wpSet s = .next (respond { s with
        dbg := { s.dbg with reqs := l, wps := mdel s.dbg.wps ((y.getD 0 0) % 256 * 4 + bitsOf (y.getD 0 0) 9 8) } }
        0x19 q true 0 [])) ∧
  -- READ of local memory
  (∀ (q : Nat) (y : List Nat) (l : List (Nat × Nat × List Nat × Bool)) (s : State),
    s.dbg.reqs = (0x20, q, y, true) :: l →
    s.lk.st ≠ .lrs →
    s.dbg.st = .open →
    bitOf s.dbg.rights 0 = true →
    y.length = 4 ∧ (y.getD 0 0) % 8 = 0 →
    1 ≤ (y.getD 3 0 % 512) ∧ (y.getD 3 0 % 512) ≤ 256 →
    s.lk.st ≠ .fatal →
    y.getD 1 0 % 256 < 192 ∧ y.getD 2 0 % 4 = 0 ∧ y.getD 2 0 + 4 * (y.getD 3 0 % 512) ≤ 2 ^ 18 →
    exec .read s = .next (respond { s with dbg := { s.dbg with reqs := l } } 0x20 q true 0 (wordsOf (readMem s.lmem (lmAddr (y.getD
        1 0 % 256) (y.getD 2 0)) (4 * (y.getD 3 0 % 512))) (y.getD 3 0 % 512)))) ∧
  -- READ of the state of a halted thread
  (∀ (q : Nat) (y : List Nat) (l : List (Nat × Nat × List Nat × Bool)) (s : State),
    s.dbg.reqs = (0x20, q, y, true) :: l →
    s.lk.st ≠ .lrs →
    s.dbg.st = .open →
    bitOf s.dbg.rights 0 = true →
    y.length = 4 ∧ (y.getD 0 0) % 8 = 1 →
    1 ≤ (y.getD 3 0 % 512) ∧ (y.getD 3 0 % 512) ≤ 256 →
    s.lk.st ≠ .fatal →
    y.getD 1 0 % 256 < 192 ∧ y.getD 2 0 + (y.getD 3 0 % 512) ≤ 82 →
    (thrOf s (y.getD 1 0 % 256) (bitsOf (y.getD 1 0) 11 8)).st = .halted →
    exec .read s = .next (respond { s with dbg := { s.dbg with reqs := l } } 0x20 q true 0 ((List.range (y.getD 3 0
        % 512)).map fun k => thrWord (thrOf s (y.getD 1 0 % 256) (bitsOf (y.getD 1 0) 11 8)) (y.getD 2 0 + k)))) ∧
  -- WRITE to local memory
  (∀ (q : Nat) (y : List Nat) (l : List (Nat × Nat × List Nat × Bool)) (s : State),
    s.dbg.reqs = (0x21, q, y, true) :: l →
    s.lk.st ≠ .lrs →
    s.dbg.st = .open →
    bitOf s.dbg.rights 2 = true →
    1 ≤ (y.getD 3 0 % 512) ∧ (y.getD 3 0 % 512) ≤ 256 ∧ y.length = 4 + (y.getD 3 0 % 512) ∧ (y.getD 0 0) % 8 = 0 →
    s.lk.st ≠ .fatal →
    y.getD 1 0 % 256 < 192 ∧ y.getD 2 0 % 4 = 0 ∧ y.getD 2 0 + 4 * (y.drop 4).length ≤ 2 ^ 18 →
    exec .write s = .next (respond { s with
        lmem := writeMem s.lmem (lmAddr (y.getD 1 0 % 256) (y.getD 2 0)) ((y.drop 4).flatMap fun w => leBytes 4 w),
        dbg := { s.dbg with reqs := l } } 0x21 q true 0 [])) ∧
  -- WRITE to a space that is read-only
  (∀ (q : Nat) (y : List Nat) (l : List (Nat × Nat × List Nat × Bool)) (s : State),
    s.dbg.reqs = (0x21, q, y, true) :: l →
    s.lk.st ≠ .lrs →
    s.dbg.st = .open →
    bitOf s.dbg.rights 2 = true →
    1 ≤ (y.getD 3 0 % 512) ∧ (y.getD 3 0 % 512) ≤ 256 ∧ y.length = 4 + (y.getD 3 0 % 512) →
    (y.getD 0 0) % 8 = 3 ∨ (y.getD 0 0) % 8 = 6 ∨ (y.getD 0 0) % 8 = 7 →
    s.lk.st ≠ .fatal →
    exec .write s = .next (respond { s with dbg := { s.dbg with reqs := l } } 0x21 q true 6 [])) ∧
  -- HALT outside an open session
  (∀ (q : Nat) (y : List Nat) (l : List (Nat × Nat × List Nat × Bool)) (s : State),
    s.dbg.reqs = (0x10, q, y, true) :: l →
    s.lk.st ≠ .lrs →
    s.dbg.st ≠ .open →
    exec .halt s = .next (respond { s with dbg := { s.dbg with reqs := l } } 0x10 q true 2 [])) ∧
  -- READ outside an open session
  (∀ (q : Nat) (y : List Nat) (l : List (Nat × Nat × List Nat × Bool)) (s : State),
    s.dbg.reqs = (0x20, q, y, true) :: l →
    s.lk.st ≠ .lrs →
    s.dbg.st ≠ .open →
    exec .read s = .next (respond { s with dbg := { s.dbg with reqs := l } } 0x20 q true 2 [])) ∧
  -- WRITE outside an open session
  (∀ (q : Nat) (y : List Nat) (l : List (Nat × Nat × List Nat × Bool)) (s : State),
    s.dbg.reqs = (0x21, q, y, true) :: l →
    s.lk.st ≠ .lrs →
    s.dbg.st ≠ .open →
    exec .write s = .next (respond { s with dbg := { s.dbg with reqs := l } } 0x21 q true 2 [])) ∧
  -- HALT without the right
  (∀ (q : Nat) (y : List Nat) (l : List (Nat × Nat × List Nat × Bool)) (s : State),
    s.dbg.reqs = (0x10, q, y, true) :: l →
    s.lk.st ≠ .lrs →
    s.dbg.st = .open →
    bitOf s.dbg.rights 1 = false →
    exec .halt s = .next (respond { s with dbg := { s.dbg with reqs := l } } 0x10 q true 3 [])) ∧
  -- HALT: the threads of the mask that ran or waited are HALTED
  (∀ (q : Nat) (y : List Nat) (l : List (Nat × Nat × List Nat × Bool)) (s : State),
    s.dbg.reqs = (0x10, q, y, true) :: l →
    s.lk.st ≠ .lrs →
    s.dbg.st = .open →
    bitOf s.dbg.rights 1 = true →
    y.length = 2 ∧ y.getD 0 0 % 256 < 192 →
    anyThr (haltMask { s with dbg := { s.dbg with reqs := l } } (y.getD 0 0 % 256) (y.getD 1 0 % 65536)) (y.getD 0 0
        % 256) (y.getD 1 0 % 65536) (·.haltPend) = false →
    ∃ t, exec .halt s = .next t ∧
      (∀ i : Fin 16, bitOf (y.getD 1 0 % 65536) i.val = true → (mget? (coreOf s (y.getD 0 0 % 256)).threads i.val).isSome
          = true → (thrOf s (y.getD 0 0 % 256) i.val).st = .running ∨ (thrOf s (y.getD 0 0 % 256) i.val).st =
          .waiting → (thrOf t (y.getD 0 0 % 256) i.val).st = .halted ∧ (thrOf t (y.getD 0 0 % 256) i.val).pc = (thrOf
          s (y.getD 0 0 % 256) i.val).pc ∧ (thrOf t (y.getD 0 0 % 256) i.val).regs = (thrOf s (y.getD 0 0 % 256)
          i.val).regs) ∧
      t.dbg.reqs = l ∧ t.dbg.frameOut.take 2 = [word [(24, 0x10), (16, q), (0, 1)], 0]) ∧
  -- RESUME: the HALTED threads of the mask that do not wait are as they were before
  (∀ (q : Nat) (y : List Nat) (l : List (Nat × Nat × List Nat × Bool)) (s : State),
    s.dbg.reqs = (0x11, q, y, true) :: l →
    s.lk.st ≠ .lrs →
    s.dbg.st = .open →
    bitOf s.dbg.rights 1 = true →
    y.length = 2 ∧ y.getD 0 0 % 256 < 192 →
    ∃ t, exec .resume s = .next t ∧
      (∀ i : Fin 16, bitOf (y.getD 1 0 % 65536) i.val = true → (thrOf s (y.getD 0 0 % 256) i.val).st = .halted → (thrOf
          s (y.getD 0 0 % 256) i.val).wait = none → (thrOf t (y.getD 0 0 % 256) i.val).st = (thrOf s (y.getD 0 0 %
          256) i.val).prev ∧ (thrOf t (y.getD 0 0 % 256) i.val).pc = (thrOf s (y.getD 0 0 % 256) i.val).pc) ∧
      t.dbg.reqs = l ∧ t.dbg.frameOut.take 2 = [word [(24, 0x11), (16, q), (0, 1)], 0]) ∧
  -- THREAD_RESET: the HALTED threads of the mask are HALTED at their entry, with registers of zero
  (∀ (q : Nat) (y : List Nat) (l : List (Nat × Nat × List Nat × Bool)) (s : State),
    s.dbg.reqs = (0x13, q, y, true) :: l →
    s.lk.st ≠ .lrs →
    s.dbg.st = .open →
    bitOf s.dbg.rights 1 = true →
    y.length = 2 ∧ y.getD 0 0 % 256 < 192 →
    ∃ t, exec .threadReset s = .next t ∧
      (∀ i : Fin 16, bitOf (y.getD 1 0 % 65536) i.val = true → (thrOf s (y.getD 0 0 % 256) i.val).st = .halted → (thrOf
          t (y.getD 0 0 % 256) i.val).st = .halted ∧ (thrOf t (y.getD 0 0 % 256) i.val).pc = (imgEntry s (coreOf s (y.getD
          0 0 % 256)).image i.val).getD 0 ∧ (thrOf t (y.getD 0 0 % 256) i.val).regs = []) ∧
      t.dbg.reqs = l ∧ t.dbg.frameOut.take 2 = [word [(24, 0x13), (16, q), (0, 1)], 0])

/-- A step runs the command at the front of the queue. A step takes the command at the front of the queue and is
that command on the state with the rest of the queue. On an empty queue the time moves on by one PCLK (the choice
of the model, log entry 2). (02_fabric_time.md R21, 05_queues_jobs.md R99) -/
def Obligations.StepRunsTheFrontCommand : Prop :=
  -- The front command
  (∀ (x : Instr) (q : List Instr) (s : State),
    step { s with pending := x :: q } = exec x { s with pending := q }) ∧
  -- An empty queue: the choice of the model, log entry 2
  (∀ (s : State),
    s.pending = [] →
    ∃ t, step s = .next t ∧ t.clk = s.clk + 625 ∧ t.pending = [])

/-- The machine after reset. After reset every generation is 0x01, the memories list nothing and are in canonical
form, nothing waits in the queue, Fabric Time is UNSET and the anti-rollback counters are at most 64. (R23, R60,
R454) -/
def Obligations.ResetIsASafeState : Prop :=
  -- The invariant holds
  (    State.reset.Inv) ∧
  -- Every generation is 0x01
  (∀ (cls idx : Nat),
    gen State.reset cls idx = 1) ∧
  -- The queue is empty, and Fabric Time is UNSET
  (    State.reset.pending = [] ∧ State.reset.ft.st = .unset ∧ ftQuality State.reset = 2) ∧
  -- No buffer, queue, tenant or connection exists
  (    NoWork State.reset)

/-- No command and no tick ever stops the machine. From every state a step answers a next state: the device answers
every command with the response that its chapter states, and never halts the model. The same holds of any number of
steps. (R4, R99) -/
def Obligations.EveryStepAnswersAState : Prop :=
  -- One step
  (∀ (s : State),
    ∃ t, step s = .next t) ∧
  -- Any number of steps
  (∀ (n : Nat) (s : State),
    ∃ t, Sys2Proof.core.run n s = .next t)

/-- Every step keeps the memories canonical and the generations valid. From every state in which the four memories
are in canonical form and no generation is 0x00, every step of every command leads to a state of the same kind; so
does a run of any number of steps. (R60, R216, R273) -/
def Obligations.EveryStepKeepsTheInvariant : Prop :=
  -- One step
  (∀ (s : State),
    s.Inv →
    ∀ t, step s = .next t → t.Inv) ∧
  -- A run
  (∀ (n : Nat) (s : State),
    s.Inv →
    ∀ t, Sys2Proof.core.run n s = .next t → t.Inv)

/-- No step lowers an anti-rollback counter. Lowering an anti-rollback counter is impossible: along any run of any
commands, from any state, each counter is at least what it was. (R454, R456) -/
def Obligations.RollbackCountersNeverFall : Prop :=
  -- One step
  (∀ (s : State),
    ∀ t, step s = .next t → ∀ k, s.fuses.rollback.getD k 0 ≤ t.fuses.rollback.getD k 0) ∧
  -- A run
  (∀ (n : Nat) (s : State),
    ∀ t, Sys2Proof.core.run n s = .next t → ∀ k, s.fuses.rollback.getD k 0 ≤ t.fuses.rollback.getD k 0)

/-- A command leaves the queue and the time to the step. No command changes the queue of commands; none changes the
time but the command of an edge, which may come with its PCLK. That time passes on an empty queue and at such an
edge is the choice of the model (log entry 2). (R250, R392) -/
def Obligations.CommandsTakeNoTime : Prop :=
  -- A command
  (∀ (x : Instr) (s : State),
    ∃ t, exec x s = .next t ∧ t.pending = s.pending ∧ (t.clk = s.clk ∨ isEdge x = true ∧ t.clk = s.clk + 625)) ∧
  -- A step never turns the time back, and takes at most one command
  (∀ (s : State),
    ∀ t, step s = .next t → s.clk ≤ t.clk ∧ t.pending = s.pending.tail)

/-- Flow-core instruction words decode and encode as one another. Every instruction whose fields the tables allow
is read back from its word, and every word that is an instruction is the word of that instruction: no two words are
one instruction, and no bit of a word is dropped. (R274, R275, R276, R278) -/
def Obligations.FlowCoreCodesRoundTrip : Prop :=
  -- Decoding an encoded instruction
  (∀ (i : FcI),
    i.wf = true →
    fcDecode (fcEncode i) = some i) ∧
  -- Encoding a decoded word
  (∀ (w : BitVec 32) (i : FcI),
    fcDecode w = some i →
    i.wf = true ∧ fcEncode i = w) ∧
  -- No two words are one instruction
  (∀ (w v : BitVec 32) (i : FcI),
    fcDecode w = some i →
    fcDecode v = some i →
    w = v)

/-- An undefined encoding faults ILLEGAL, and a fetch beyond the code faults FETCH, whichever command issues. A
thread that may issue and whose word is no instruction faults with ILLEGAL, and one whose PC lies beyond the code
of its image, or in a block that cannot be corrected, faults with FETCH, counting and reporting the block that
cannot be corrected, under every command of the flow-core instruction set; the instruction has no other effect.
(R266, R274, R234) -/
def Obligations.UndefinedWordsFault : Prop :=
  -- ILLEGAL
  (∀ (x : Instr) (c : CoreId) (n : ThreadId) (b : Bool) (e : LmErr) (s : State),
    x ∈ ([.add c n, .sub c n, .and c n, .or c n, .xor c n, .sll c n, .srl c n, .sra c n, .slt c n, .sltu c n, .mul c
        n, .mulhu c n, .divu c n, .remu c n, .clz c n, .popc c n, .addi c n, .extu c n, .andi c n, .ori c n, .xori c
        n, .shi c n, .hwset c n, .hwins c n, .beq c n, .bne c n, .blt c n, .bge c n, .bltu c n, .bgeu c n, .j c n,
        .jal c n, .jalr c n, .mfsr c n, .ftread c n, .evwait c n, .evsend c n, .tmset c n, .hmap c n, .hput c n,
        .crypt c n, .gfmul c n, .tbl c n, .balloc c n, .bfree c n, .bxfer c n, .chw c n, .ldb c n e, .ldh c n e,
        .ldw c n e, .ldd c n e, .ldhs c n e, .ldws c n e, .ldds c n e, .stb c n e, .sth c n e, .stw c n e, .std c n
        e, .sths c n e, .stws c n e, .csum c n e, .post c n b] : List Instr) →
    mayIssue s c.val n.val = true →
    (thrOf s c.val n.val).stepping = true ∨ bpHit s c.val n.val = none →
    4 * (thrOf s c.val n.val).pc + 4 ≤ codeLen s (coreOf s c.val).image →
    badFetch s c.val (thrOf s c.val n.val).pc = false →
    fcDecode (codeWord s (coreOf s c.val).image (thrOf s c.val n.val).pc) = none →
    exec x s = .next (thrFault (issued s c.val n.val) c.val n.val 2)) ∧
  -- FETCH
  (∀ (x : Instr) (c : CoreId) (n : ThreadId) (b : Bool) (e : LmErr) (s : State),
    x ∈ ([.add c n, .sub c n, .and c n, .or c n, .xor c n, .sll c n, .srl c n, .sra c n, .slt c n, .sltu c n, .mul c
        n, .mulhu c n, .divu c n, .remu c n, .clz c n, .popc c n, .addi c n, .extu c n, .andi c n, .ori c n, .xori c
        n, .shi c n, .hwset c n, .hwins c n, .beq c n, .bne c n, .blt c n, .bge c n, .bltu c n, .bgeu c n, .j c n,
        .jal c n, .jalr c n, .mfsr c n, .ftread c n, .evwait c n, .evsend c n, .tmset c n, .hmap c n, .hput c n,
        .crypt c n, .gfmul c n, .tbl c n, .balloc c n, .bfree c n, .bxfer c n, .chw c n, .ldb c n e, .ldh c n e,
        .ldw c n e, .ldd c n e, .ldhs c n e, .ldws c n e, .ldds c n e, .stb c n e, .sth c n e, .stw c n e, .std c n
        e, .sths c n e, .stws c n e, .csum c n e, .post c n b] : List Instr) →
    mayIssue s c.val n.val = true →
    (thrOf s c.val n.val).stepping = true ∨ bpHit s c.val n.val = none →
    codeLen s (coreOf s c.val).image < 4 * (thrOf s c.val n.val).pc + 4 →
    exec x s = .next (thrFault s c.val n.val 6)) ∧
  -- FETCH of a word that cannot be corrected
  (∀ (x : Instr) (c : CoreId) (n : ThreadId) (b : Bool) (e : LmErr) (s : State),
    x ∈ ([.add c n, .sub c n, .and c n, .or c n, .xor c n, .sll c n, .srl c n, .sra c n, .slt c n, .sltu c n, .mul c
        n, .mulhu c n, .divu c n, .remu c n, .clz c n, .popc c n, .addi c n, .extu c n, .andi c n, .ori c n, .xori c
        n, .shi c n, .hwset c n, .hwins c n, .beq c n, .bne c n, .blt c n, .bge c n, .bltu c n, .bgeu c n, .j c n,
        .jal c n, .jalr c n, .mfsr c n, .ftread c n, .evwait c n, .evsend c n, .tmset c n, .hmap c n, .hput c n,
        .crypt c n, .gfmul c n, .tbl c n, .balloc c n, .bfree c n, .bxfer c n, .chw c n, .ldb c n e, .ldh c n e,
        .ldw c n e, .ldd c n e, .ldhs c n e, .ldws c n e, .ldds c n e, .stb c n e, .sth c n e, .stw c n e, .std c n
        e, .sths c n e, .stws c n e, .csum c n e, .post c n b] : List Instr) →
    mayIssue s c.val n.val = true →
    (thrOf s c.val n.val).stepping = true ∨ bpHit s c.val n.val = none →
    4 * (thrOf s c.val n.val).pc + 4 ≤ codeLen s (coreOf s c.val).image →
    badFetch s c.val (thrOf s c.val n.val).pc = true →
    exec x s = .next (thrFault (coreWear (raise (cadd s 8 0 16 1) .msEccUncorr 0) .coreUncorr c.val) c.val n.val 6))

/-- What retiring an instruction leaves unchanged. Retiring an instruction of a thread moves its PC on by one word
and ends its watchdog; it leaves its registers as the instruction has set them, its event bits, timer, staging slot
and inbox, every other thread and every other core, all memory and every other unit; only counters, the cores and
the record of the halted time change. (R249, R250, R263, R272) -/
def Obligations.RetireFrame : Prop :=
  -- The thread
  (∀ (c n : Nat) (th : Thr) (s : State),
    (thrOf (retired (next1 s c n th) c n) c n).regs = th.regs ∧
      (thrOf (retired (next1 s c n th) c n) c n).pc = th.pc + 1 ∧
      (thrOf (retired (next1 s c n th) c n) c n).wd = none ∧
      (thrOf (retired (next1 s c n th) c n) c n).ev = th.ev ∧
      (thrOf (retired (next1 s c n th) c n) c n).timer = th.timer ∧
      (thrOf (retired (next1 s c n th) c n) c n).slot = th.slot ∧
      (thrOf (retired (next1 s c n th) c n) c n).inbox = th.inbox) ∧
  -- It goes on unless a STEP or a pending halt ends here
  (∀ (c n : Nat) (th : Thr) (s : State),
    (thrOf (retired (next1 s c n th) c n) c n).st = if th.stepping = true ∨ th.haltPend = true then .halted else
        th.st) ∧
  -- Other threads
  (∀ (c n m : Nat) (th : Thr) (s : State),
    m ≠ n →
    thrOf (retired (next1 s c n th) c n) c m = thrOf s c m) ∧
  -- Other cores
  (∀ (c n d : Nat) (th : Thr) (s : State),
    d ≠ c →
    coreOf (retired (next1 s c n th) c n) d = coreOf s d) ∧
  -- The rest of the machine
  (∀ (c n : Nat) (th : Thr) (s : State),
    ∃ t, retired (next1 s c n th) c n = t ∧ t = { s with cores := t.cores, cnt := t.cnt, dbg := t.dbg } ∧
      t.dbg = { s.dbg with haltSince := t.dbg.haltSince, haltAcc := t.dbg.haltAcc })

/-- A store changes the bytes it stores to and no others. A store of 1, 2, 4 or 8 bytes in the slice puts the low
bytes of rd at rs1 plus the sign-extended IMM16 of the local memory of its core; every byte of local memory outside
these reads as before, so does all of the Mere and of the system region, and every general register of the thread
keeps its value. (R253, R272, R276) -/
def Obligations.StoreFrame : Prop :=
  -- STB
  (∀ (c : CoreId) (n : ThreadId) (th : Thr) (i : FcI) (s : State),
    Issues s c.val n.val .stb th i →
    inSlice s c.val n.val (wget th i.b.val + i.simm).toNat 1 = true →
    heldBytes th (wget th i.b.val + i.simm).toNat 1 = false →
    ∃ t, exec (.stb c n .ok) s = .next t ∧
      readMem t.lmem (lmAddr c.val (wget th i.b.val + i.simm).toNat) 1 = leBytes 1 (wget th i.a.val).toNat ∧
      (∀ x, x < lmAddr c.val (wget th i.b.val + i.simm).toNat ∨ lmAddr c.val (wget th i.b.val + i.simm).toNat + 1 ≤
          x → readByte t.lmem x = readByte s.lmem x) ∧
      t.mere = s.mere ∧ t.sysmem = s.sysmem ∧ t.fwmem = s.fwmem ∧ t.regs = s.regs ∧
      (thrOf t c.val n.val).regs = th.regs) ∧
  -- STH
  (∀ (c : CoreId) (n : ThreadId) (th : Thr) (i : FcI) (s : State),
    Issues s c.val n.val .sth th i →
    inSlice s c.val n.val (wget th i.b.val + i.simm).toNat 2 = true →
    heldBytes th (wget th i.b.val + i.simm).toNat 2 = false →
    ∃ t, exec (.sth c n .ok) s = .next t ∧
      readMem t.lmem (lmAddr c.val (wget th i.b.val + i.simm).toNat) 2 = leBytes 2 (wget th i.a.val).toNat ∧
      (∀ x, x < lmAddr c.val (wget th i.b.val + i.simm).toNat ∨ lmAddr c.val (wget th i.b.val + i.simm).toNat + 2 ≤
          x → readByte t.lmem x = readByte s.lmem x) ∧
      t.mere = s.mere ∧ t.sysmem = s.sysmem ∧ t.fwmem = s.fwmem ∧ t.regs = s.regs ∧
      (thrOf t c.val n.val).regs = th.regs) ∧
  -- STW
  (∀ (c : CoreId) (n : ThreadId) (th : Thr) (i : FcI) (s : State),
    Issues s c.val n.val .stw th i →
    inSlice s c.val n.val (wget th i.b.val + i.simm).toNat 4 = true →
    heldBytes th (wget th i.b.val + i.simm).toNat 4 = false →
    ∃ t, exec (.stw c n .ok) s = .next t ∧
      readMem t.lmem (lmAddr c.val (wget th i.b.val + i.simm).toNat) 4 = leBytes 4 (wget th i.a.val).toNat ∧
      (∀ x, x < lmAddr c.val (wget th i.b.val + i.simm).toNat ∨ lmAddr c.val (wget th i.b.val + i.simm).toNat + 4 ≤
          x → readByte t.lmem x = readByte s.lmem x) ∧
      t.mere = s.mere ∧ t.sysmem = s.sysmem ∧ t.fwmem = s.fwmem ∧ t.regs = s.regs ∧
      (thrOf t c.val n.val).regs = th.regs) ∧
  -- STD
  (∀ (c : CoreId) (n : ThreadId) (th : Thr) (i : FcI) (s : State),
    Issues s c.val n.val .std th i →
    inSlice s c.val n.val (wget th i.b.val + i.simm).toNat 8 = true →
    heldBytes th (wget th i.b.val + i.simm).toNat 8 = false →
    ∃ t, exec (.std c n .ok) s = .next t ∧
      readMem t.lmem (lmAddr c.val (wget th i.b.val + i.simm).toNat) 8 = leBytes 8 (wget th i.a.val).toNat ∧
      (∀ x, x < lmAddr c.val (wget th i.b.val + i.simm).toNat ∨ lmAddr c.val (wget th i.b.val + i.simm).toNat + 8 ≤
          x → readByte t.lmem x = readByte s.lmem x) ∧
      t.mere = s.mere ∧ t.sysmem = s.sysmem ∧ t.fwmem = s.fwmem ∧ t.regs = s.regs ∧
      (thrOf t c.val n.val).regs = th.regs) ∧
  -- STHS
  (∀ (c : CoreId) (n : ThreadId) (th : Thr) (i : FcI) (s : State),
    Issues s c.val n.val .sths th i →
    inSlice s c.val n.val (wget th i.b.val + i.simm).toNat 2 = true →
    heldBytes th (wget th i.b.val + i.simm).toNat 2 = false →
    ∃ t, exec (.sths c n .ok) s = .next t ∧
      readMem t.lmem (lmAddr c.val (wget th i.b.val + i.simm).toNat) 2 = beBytes 2 (wget th i.a.val).toNat ∧
      (∀ x, x < lmAddr c.val (wget th i.b.val + i.simm).toNat ∨ lmAddr c.val (wget th i.b.val + i.simm).toNat + 2 ≤
          x → readByte t.lmem x = readByte s.lmem x) ∧
      t.mere = s.mere ∧ t.sysmem = s.sysmem ∧ t.fwmem = s.fwmem ∧ t.regs = s.regs ∧
      (thrOf t c.val n.val).regs = th.regs) ∧
  -- STWS
  (∀ (c : CoreId) (n : ThreadId) (th : Thr) (i : FcI) (s : State),
    Issues s c.val n.val .stws th i →
    inSlice s c.val n.val (wget th i.b.val + i.simm).toNat 4 = true →
    heldBytes th (wget th i.b.val + i.simm).toNat 4 = false →
    ∃ t, exec (.stws c n .ok) s = .next t ∧
      readMem t.lmem (lmAddr c.val (wget th i.b.val + i.simm).toNat) 4 = beBytes 4 (wget th i.a.val).toNat ∧
      (∀ x, x < lmAddr c.val (wget th i.b.val + i.simm).toNat ∨ lmAddr c.val (wget th i.b.val + i.simm).toNat + 4 ≤
          x → readByte t.lmem x = readByte s.lmem x) ∧
      t.mere = s.mere ∧ t.sysmem = s.sysmem ∧ t.fwmem = s.fwmem ∧ t.regs = s.regs ∧
      (thrOf t c.val n.val).regs = th.regs)

/-- The fields of a handle. A handle is a 32-bit word with KIND in bits 31 to 28, GEN in bits 27 to 20 and INDEX in
bits 19 to 0; GEN lies in 0x01 to 0xFF wherever no generation is 0x00, which every step keeps. (R58) -/
def Obligations.HandleWords : Prop :=
  -- The word and its fields
  (∀ (k g i : Nat),
    k < 16 →
    g < 256 →
    i < 2 ^ 20 →
    mkHandle k g i < 2 ^ 32 ∧ hKind (mkHandle k g i) = k ∧ hGen (mkHandle k g i) = g ∧ hIdx (mkHandle k g i) = i) ∧
  -- A word is the handle of its fields
  (∀ (w : Nat),
    w < 2 ^ 32 →
    mkHandle (hKind w) (hGen w) (hIdx w) = w ∧ hKind w = w / 2 ^ 28 ∧ hGen w = w / 2 ^ 20 % 256 ∧
      hIdx w = w % 2 ^ 20) ∧
  -- GEN is 0x01 to 0xFF
  (∀ (cls idx : Nat) (s : State),
    s.gensOk →
    1 ≤ gen s cls idx ∧ gen s cls idx ≤ 255)

/-- The FT count, the epoch number and the calendar slots. The FT count is the seconds of the value times
1,000,000,000 plus its nanoseconds, both as the full timestamp carries them, and is a 64-bit number while the
seconds fit their field; the epoch number is the count shifted right by 20; epoch n begins at n times 1,048,576; an
instant lies on a calendar-slot boundary when the count is a multiple of 64 and the fraction is zero, which the
stored value shows as a multiple of 64 ns. (R21) -/
def Obligations.FabricTimeCount : Prop :=
  -- Seconds and nanoseconds
  (∀ (s : State),
    ftNs s < 2 ^ 64 →
    ((fullTs s).getD 1 0 + (fullTs s).getD 2 0 % 2 ^ 16 * 2 ^ 32) * 1000000000 + (fullTs s).getD 0 0 = ftNs s ∧
      (fullTs s).getD 0 0 < 1000000000) ∧
  -- The epoch number
  (∀ (s : State),
    epochNo s = ftNs s >>> 20) ∧
  -- Epoch n
  (∀ (n : Nat) (s : State),
    epochNo s = n ↔ n * 1048576 ≤ ftNs s ∧ ftNs s < (n + 1) * 1048576) ∧
  -- A calendar-slot boundary
  (∀ (s : State),
    s.ft.count % (64 * 65536) = 0 ↔ ftNs s % 64 = 0 ∧ s.ft.count % 65536 = 0)

/-- The order of the checks of a handle, and the advance of a generation. The first check that fails decides: KIND
and INDEX answer INVALID_HANDLE, GEN answers STALE_HANDLE, then use and owner answer INVALID_HANDLE. The end of an
incarnation advances the generation of its index by one, from 0xFF to 0x01, and that of no other index. (R60, R61)
-/
def Obligations.HandleChecksAndGenerations : Prop :=
  -- The checks
  (∀ (kindOk idxOk genOk inUse : Bool),
    checkHandle kindOk idxOk genOk inUse = if kindOk = false ∨ idxOk = false then some .invalidHandle else if genOk
        = false then some .staleHandle else if inUse = false then some .invalidHandle else none) ∧
  -- The advance
  (∀ (cls idx : Nat) (s : State),
    gen s cls idx ≠ 0 →
    gen (advGen s cls idx) cls idx = if gen s cls idx = 255 then 1 else gen s cls idx + 1) ∧
  -- Other indices
  (∀ (cls idx j : Nat) (s : State),
    j ≠ idx →
    gen (advGen s cls idx) cls j = gen s cls j)

/-- Reading and writing the byte memories. Bytes written read back, every byte outside them reads as before, a
write keeps the canonical form, and two canonical memories that read alike everywhere are equal. (R216, R230, R273)
-/
def Obligations.MemoryReadAfterWrite : Prop :=
  -- Reading back
  (∀ (m : Map Byte) (a : Nat) (b : List Byte),
    readMem (writeMem m a b) a b.length = b) ∧
  -- Elsewhere
  (∀ (m : Map Byte) (a x : Nat) (b : List Byte),
    x < a ∨ a + b.length ≤ x →
    readByte (writeMem m a b) x = readByte m x) ∧
  -- The canonical form
  (∀ (m : Map Byte) (a : Nat) (b : List Byte),
    memWf m = true →
    memWf (writeMem m a b) = true) ∧
  -- Equal memories are equal data
  (∀ (m k : Map Byte),
    memWf m = true →
    memWf k = true →
    (∀ x, readByte m x = readByte k x) →
    m = k)

/-- The new rate of a connection. With no sample the rate stays, with q at most TARGET it grows by AI, after an
expiry it falls to the larger of R_MIN and a quarter; the result never exceeds the line rate of the port, and is at
least R_MIN where the line rate is. (R317) -/
def Obligations.RateBounds : Prop :=
  -- Bounds
  (∀ (s : State) (x : Conn),
    newRate s x ≤ rateCap s x ∧ (rd s F.TP_DROVER_2_R_MIN ≤ rateCap s x → rd s F.TP_DROVER_2_R_MIN ≤ newRate s x)) ∧
  -- No sample in the interval
  (∀ (s : State) (x : Conn),
    x.expired = false →
    x.qmin = none →
    rd s F.TP_DROVER_2_R_MIN ≤ x.rate →
    x.rate ≤ rateCap s x →
    newRate s x = x.rate) ∧
  -- A sample at most TARGET
  (∀ (s : State) (x : Conn) (q : Int),
    x.expired = false →
    x.qmin = some q →
    q ≤ rd s F.TP_DROVER_0_TARGET →
    rd s F.TP_DROVER_2_R_MIN ≤ x.rate →
    x.rate + rd s F.TP_DROVER_1_AI ≤ rateCap s x →
    newRate s x = x.rate + rd s F.TP_DROVER_1_AI) ∧
  -- An expiry
  (∀ (s : State) (x : Conn),
    x.expired = true →
    max (rd s F.TP_DROVER_2_R_MIN) (x.rate / 4) ≤ rateCap s x →
    newRate s x = max (rd s F.TP_DROVER_2_R_MIN) (x.rate / 4))

/-- A write to the push window of a tenant reaches nothing of another tenant. Whatever a guest writes to the push
slots of its tenant, no other tenant, none of its slots, no queue, no job, no buffer and no memory changes. (R56,
R75, R120) -/
def Obligations.PushesStayWithTheirTenant : Prop :=
  ∀ (p : HostPort) (n : TenantId) (k : Fin 32) (o : Fin 512) (b : List Byte) (m : Nat) (s : State),
    m ≠ n.val →
    ∃ t, exec (.pushSlotWrite p n k o b) s = .next t ∧ mget? t.tens m = mget? s.tens m ∧
      (∀ j, j < 32 → mget? t.slots (slotKey m j) = mget? s.slots (slotKey m j)) ∧ t.sqs = s.sqs ∧ t.cqs = s.cqs ∧
      t.jobs = s.jobs ∧ t.coop = s.coop ∧ t.mere = s.mere ∧ t.sysmem = s.sysmem ∧ t.lmem = s.lmem ∧
      t.cores = s.cores ∧ t.regs = s.regs
end

