-- ==== Sys2Proof/Laws/Memory.lean ====
section
/-! SUPPORT. Laws of the maps and of the byte memories: what is read after a write, and that every memory operation
keeps the canonical form. -/
namespace Sys2Proof.Machine

/-! ### Maps -/

@[simp] theorem mget?_mset_same {α : Type} (m : Map α) (k : Nat) (v : α) : mget? (mset m k v) k = some v := by
  induction m with
  | nil => simp [mset, mget?]
  | cons x t ih =>
    obtain ⟨a, w⟩ := x
    simp only [mset]
    split
    · simp [mget?]
    · split
      · simp [mget?]
      · rename_i h1 h2
        have : a ≠ k := fun e => h1 e.symm
        simp [mget?, this, ih]

theorem mget?_mset_ne {α : Type} (m : Map α) (k j : Nat) (v : α) (h : j ≠ k) : mget? (mset m k v) j = mget? m j := by
  induction m with
  | nil => simp [mset, mget?, h.symm]
  | cons x t ih =>
    obtain ⟨a, w⟩ := x
    simp only [mset]
    split
    · rename_i e; subst e; simp [mget?, h.symm]
    · split
      · simp [mget?, h.symm]
      · simp only [mget?, ih]

@[simp] theorem mget_mset_same {α : Type} (d : α) (m : Map α) (k : Nat) (v : α) : mget d (mset m k v) k = v := by
  simp [mget]

theorem mget_mset_ne {α : Type} (d : α) (m : Map α) (k j : Nat) (v : α) (h : j ≠ k) :
    mget d (mset m k v) j = mget d m j := by
  simp [mget, mget?_mset_ne m k j v h]

@[simp] theorem mget?_mdel_same {α : Type} (m : Map α) (k : Nat) : mget? (mdel m k) k = none := by
  induction m with
  | nil => rfl
  | cons x t ih =>
    obtain ⟨a, w⟩ := x
    simp only [mdel]
    split
    · exact ih
    · rename_i h; simp [mget?, h, ih]

theorem mget?_mdel_ne {α : Type} (m : Map α) (k j : Nat) (h : j ≠ k) : mget? (mdel m k) j = mget? m j := by
  induction m with
  | nil => rfl
  | cons x t ih =>
    obtain ⟨a, w⟩ := x
    simp only [mdel]
    split
    · rename_i e; subst e; simp [mget?, h.symm, ih]
    · simp only [mget?, ih]

/-- A property of every value outlives a write of a value that has it. -/
theorem forall_mset {α : Type} (m : Map α) (k : Nat) (v : α) (p : α → Prop) (hv : p v) (h : ∀ x ∈ m, p x.2) :
    ∀ x ∈ mset m k v, p x.2 := by
  induction m with
  | nil => simpa [mset] using hv
  | cons y t ih =>
    obtain ⟨a, w⟩ := y
    have ht : ∀ x ∈ t, p x.2 := fun x hx => h x (List.mem_cons_of_mem _ hx)
    have hw : p w := h (a, w) (List.mem_cons_self ..)
    simp only [mset]
    intro x hx
    split at hx
    · rcases List.mem_cons.mp hx with rfl | hx
      · exact hv
      · exact ht x hx
    · split at hx
      · rcases List.mem_cons.mp hx with rfl | hx
        · exact hv
        · rcases List.mem_cons.mp hx with rfl | hx
          · exact hw
          · exact ht x hx
      · rcases List.mem_cons.mp hx with rfl | hx
        · exact hw
        · exact ih ht x hx

/-- A generation of a byte advances to one that is not 0x00 (R60). -/
theorem nextGen_ne_zero (b : Byte) : BitVec.ofNat 8 (nextGen b.toNat) ≠ 0 := by
  revert b; decide

/-! ### Reading after writing -/

@[simp] theorem readByte_writeByte_same (m : Map Byte) (a : Nat) (b : Byte) : readByte (writeByte m a b) a = b := by
  unfold readByte writeByte msetD
  split
  · rename_i h; subst h; simp [mget]
  · simp

theorem readByte_writeByte_ne (m : Map Byte) (a x : Nat) (b : Byte) (h : x ≠ a) :
    readByte (writeByte m a b) x = readByte m x := by
  unfold readByte writeByte msetD
  split
  · simp [mget, mget?_mdel_ne m a x h]
  · exact mget_mset_ne 0 m a x b h

/-- A byte outside the written ones reads as before. -/
theorem readByte_writeMem_outside (l : List Byte) (m : Map Byte) (a x : Nat) (h : x < a ∨ a + l.length ≤ x) :
    readByte (writeMem m a l) x = readByte m x := by
  induction l generalizing m a with
  | nil => rfl
  | cons b t ih =>
    simp only [writeMem, List.length_cons] at *
    rw [ih (writeByte m a b) (a + 1) (by omega), readByte_writeByte_ne m a x b (by omega)]

/-- Byte i of what was written reads back. -/
theorem readByte_writeMem_inside (l : List Byte) (m : Map Byte) (a i : Nat) (h : i < l.length) :
    readByte (writeMem m a l) (a + i) = l.getD i 0 := by
  induction l generalizing m a i with
  | nil => simp at h
  | cons b t ih =>
    simp only [writeMem]
    cases i with
    | zero => rw [readByte_writeMem_outside t _ (a + 1) (a + 0) (by omega)]; simp
    | succ j =>
      have e : a + (j + 1) = a + 1 + j := by omega
      rw [e, ih (writeByte m a b) (a + 1) j (by simpa using h)]
      simp

/-! ### The canonical form -/

theorem memWfFrom_mono (m : Map Byte) (lo hi : Nat) (h : lo ≤ hi) (w : memWfFrom hi m = true) :
    memWfFrom lo m = true := by
  cases m with
  | nil => rfl
  | cons x t =>
    simp only [memWfFrom, Bool.and_eq_true, decide_eq_true_eq] at *
    exact ⟨⟨by omega, w.1.2⟩, w.2⟩

theorem memWfFrom_mset (m : Map Byte) (lo k : Nat) (v : Byte) (hv : v ≠ 0) (hk : lo ≤ k) (w : memWfFrom lo m = true) :
    memWfFrom lo (mset m k v) = true := by
  induction m generalizing lo with
  | nil => simpa [mset, memWfFrom, hk] using hv
  | cons x t ih =>
    obtain ⟨a, y⟩ := x
    simp only [memWfFrom, Bool.and_eq_true, decide_eq_true_eq] at w
    simp only [mset]
    split
    · rename_i e
      simp only [memWfFrom, Bool.and_eq_true, decide_eq_true_eq]
      exact ⟨⟨hk, hv⟩, e ▸ w.2⟩
    · split
      · simp only [memWfFrom, Bool.and_eq_true, decide_eq_true_eq]
        exact ⟨⟨hk, hv⟩, ⟨by omega, w.1.2⟩, w.2⟩
      · simp only [memWfFrom, Bool.and_eq_true, decide_eq_true_eq]
        exact ⟨w.1, ih (a + 1) (by omega) w.2⟩

theorem memWfFrom_mfilter (p : Nat → Byte → Bool) (m : Map Byte) (lo : Nat) (w : memWfFrom lo m = true) :
    memWfFrom lo (mfilter p m) = true := by
  induction m generalizing lo with
  | nil => rfl
  | cons x t ih =>
    obtain ⟨a, y⟩ := x
    simp only [memWfFrom, Bool.and_eq_true, decide_eq_true_eq] at w
    simp only [mfilter]
    split
    · simp only [memWfFrom, Bool.and_eq_true, decide_eq_true_eq]
      exact ⟨w.1, ih (a + 1) w.2⟩
    · exact memWfFrom_mono _ lo (a + 1) (by omega) (ih (a + 1) w.2)

theorem memWfFrom_mdel (m : Map Byte) (lo k : Nat) (w : memWfFrom lo m = true) : memWfFrom lo (mdel m k) = true := by
  induction m generalizing lo with
  | nil => rfl
  | cons x t ih =>
    obtain ⟨a, y⟩ := x
    simp only [memWfFrom, Bool.and_eq_true, decide_eq_true_eq] at w
    simp only [mdel]
    split
    · exact memWfFrom_mono _ lo (a + 1) (by omega) (ih (a + 1) w.2)
    · simp only [memWfFrom, Bool.and_eq_true, decide_eq_true_eq]
      exact ⟨w.1, ih (a + 1) w.2⟩

/-- Writing a byte keeps the canonical form. -/
theorem memWf_writeByte (m : Map Byte) (a : Nat) (b : Byte) (w : memWf m = true) : memWf (writeByte m a b) = true := by
  unfold memWf writeByte msetD at *
  split
  · exact memWfFrom_mdel m 0 a w
  · rename_i h; exact memWfFrom_mset m 0 a b h (Nat.zero_le _) w

/-- Writing bytes keeps the canonical form. -/
theorem memWf_writeMem (l : List Byte) (m : Map Byte) (a : Nat) (w : memWf m = true) : memWf (writeMem m a l) = true := by
  induction l generalizing m a with
  | nil => exact w
  | cons b t ih => exact ih _ _ (memWf_writeByte m a b w)

/-- Dropping bytes keeps the canonical form. -/
theorem memWf_mfilter (p : Nat → Byte → Bool) (m : Map Byte) (w : memWf m = true) : memWf (mfilter p m) = true :=
  memWfFrom_mfilter p m 0 w

end Sys2Proof.Machine
end

