-- ==== Sys2Proof/Laws/KeptBase.lean ====
section
/-! SUPPORT. How Kept is proved: of a state built from a kept one, field by field, of folds, and of a memory write. The
files Laws/Kept*.lean say it once of every operation, so that no proof unfolds one. -/
namespace Sys2Proof.Machine

/-- A property of what an option holds. -/
def OptAll {α : Type} (p : α → Prop) : Option α → Prop
  | some x => p x
  | none => True

theorem Kept.refl (s : State) : Kept s s := ⟨rfl, rfl, id, id, fun _ => Nat.le_refl _⟩

theorem Kept.trans {a b c : State} (h : Kept a b) (k : Kept b c) : Kept a c :=
  ⟨k.1.trans h.1, k.2.trans h.2, fun x => k.3 (h.3 x), fun x => k.4 (h.4 x),
    fun i => Nat.le_trans (h.5 i) (k.5 i)⟩

/-- A change of fields that Kept does not look at. -/
theorem kept_mk {s0 s : State} (h : Kept s0 s)
    {freeV : Nat} {uidV : Nat} {outV : List Out} {regsV : Map Word} {cntV : Map Nat} {wlatchV : Map Word} {rlatchV :
    Map Word} {ftV : Ft} {armedV : List (ArmKind × Nat)} {lkV : Lk} {hbmV : Hbm} {mdV : Mender} {bootV : Boot} {coopV
    : Coop} {hpV : Map Hp} {sreadsV : Map SysRead} {sqsV : Map Sq} {cqsV : Map Cq} {eqsV : Map EvQ} {jobsV : Map Job}
    {tensV : Map Tenant} {slotsV : Map PushSlot} {engsV : Map Eng} {xfersV : Map Xfer} {readsV : Map RdReq} {wreqsV :
    List WrReq} {macsV : Map Mac} {pktsV : Map Pkt} {egV : Map EgPort} {slV : Sluice} {paV : Classifier} {fwV : Fwd}
    {hostqV : List HostFrame} {coresV : Map Core} {fcPulseV : Bool} {ringsV : Map Ring} {msgsV : List Msg} {clOffV :
    List Nat} {lsV : Locksmith} {tblqV : List TblReq} {dbgV : Dbg} {connsV : Map Conn} {unkV : List Nat} {sealsV :
    List SealCtl} {sxV : Sx} {tlV : Tally} :
    Kept s0
      ⟨s.clk, freeV, uidV, outV, s.pending, regsV, cntV, s.gens, wlatchV, rlatchV, ftV, armedV, lkV, hbmV, mdV, bootV,
      s.fuses, coopV, s.mere, s.sysmem, hpV, sreadsV, sqsV, cqsV, eqsV, jobsV, tensV, slotsV, engsV, xfersV, readsV,
      wreqsV, macsV, pktsV, egV, slV, paV, fwV, hostqV, coresV, fcPulseV, ringsV, s.lmem, s.fwmem, msgsV, clOffV, lsV,
      tblqV, dbgV, connsV, unkV, sealsV, sxV, tlV⟩ :=
  ⟨h.1, h.2, h.3, h.4, h.5⟩

/-- A change of `mere` that keeps its canonical form. -/
theorem kept_mere {s0 s : State} (h : Kept s0 s) {mV : Map Byte}
    (m : memWf s.mere = true → memWf mV = true)
    {freeV : Nat} {uidV : Nat} {outV : List Out} {regsV : Map Word} {cntV : Map Nat} {wlatchV : Map Word} {rlatchV :
    Map Word} {ftV : Ft} {armedV : List (ArmKind × Nat)} {lkV : Lk} {hbmV : Hbm} {mdV : Mender} {bootV : Boot} {coopV
    : Coop} {hpV : Map Hp} {sreadsV : Map SysRead} {sqsV : Map Sq} {cqsV : Map Cq} {eqsV : Map EvQ} {jobsV : Map Job}
    {tensV : Map Tenant} {slotsV : Map PushSlot} {engsV : Map Eng} {xfersV : Map Xfer} {readsV : Map RdReq} {wreqsV :
    List WrReq} {macsV : Map Mac} {pktsV : Map Pkt} {egV : Map EgPort} {slV : Sluice} {paV : Classifier} {fwV : Fwd}
    {hostqV : List HostFrame} {coresV : Map Core} {fcPulseV : Bool} {ringsV : Map Ring} {msgsV : List Msg} {clOffV :
    List Nat} {lsV : Locksmith} {tblqV : List TblReq} {dbgV : Dbg} {connsV : Map Conn} {unkV : List Nat} {sealsV :
    List SealCtl} {sxV : Sx} {tlV : Tally} :
    Kept s0
      ⟨s.clk, freeV, uidV, outV, s.pending, regsV, cntV, s.gens, wlatchV, rlatchV, ftV, armedV, lkV, hbmV, mdV, bootV,
      s.fuses, coopV, mV, s.sysmem, hpV, sreadsV, sqsV, cqsV, eqsV, jobsV, tensV, slotsV, engsV, xfersV, readsV,
      wreqsV, macsV, pktsV, egV, slV, paV, fwV, hostqV, coresV, fcPulseV, ringsV, s.lmem, s.fwmem, msgsV, clOffV, lsV,
      tblqV, dbgV, connsV, unkV, sealsV, sxV, tlV⟩ :=
  ⟨h.1, h.2, fun y => let x := h.3 y; ⟨m x.1, x.2.1, x.2.2.1, x.2.2.2⟩, h.4, h.5⟩

/-- A change of `sysmem` that keeps its canonical form. -/
theorem kept_sysmem {s0 s : State} (h : Kept s0 s) {mV : Map Byte}
    (m : memWf s.sysmem = true → memWf mV = true)
    {freeV : Nat} {uidV : Nat} {outV : List Out} {regsV : Map Word} {cntV : Map Nat} {wlatchV : Map Word} {rlatchV :
    Map Word} {ftV : Ft} {armedV : List (ArmKind × Nat)} {lkV : Lk} {hbmV : Hbm} {mdV : Mender} {bootV : Boot} {coopV
    : Coop} {hpV : Map Hp} {sreadsV : Map SysRead} {sqsV : Map Sq} {cqsV : Map Cq} {eqsV : Map EvQ} {jobsV : Map Job}
    {tensV : Map Tenant} {slotsV : Map PushSlot} {engsV : Map Eng} {xfersV : Map Xfer} {readsV : Map RdReq} {wreqsV :
    List WrReq} {macsV : Map Mac} {pktsV : Map Pkt} {egV : Map EgPort} {slV : Sluice} {paV : Classifier} {fwV : Fwd}
    {hostqV : List HostFrame} {coresV : Map Core} {fcPulseV : Bool} {ringsV : Map Ring} {msgsV : List Msg} {clOffV :
    List Nat} {lsV : Locksmith} {tblqV : List TblReq} {dbgV : Dbg} {connsV : Map Conn} {unkV : List Nat} {sealsV :
    List SealCtl} {sxV : Sx} {tlV : Tally} :
    Kept s0
      ⟨s.clk, freeV, uidV, outV, s.pending, regsV, cntV, s.gens, wlatchV, rlatchV, ftV, armedV, lkV, hbmV, mdV, bootV,
      s.fuses, coopV, s.mere, mV, hpV, sreadsV, sqsV, cqsV, eqsV, jobsV, tensV, slotsV, engsV, xfersV, readsV, wreqsV,
      macsV, pktsV, egV, slV, paV, fwV, hostqV, coresV, fcPulseV, ringsV, s.lmem, s.fwmem, msgsV, clOffV, lsV, tblqV,
      dbgV, connsV, unkV, sealsV, sxV, tlV⟩ :=
  ⟨h.1, h.2, fun y => let x := h.3 y; ⟨x.1, m x.2.1, x.2.2.1, x.2.2.2⟩, h.4, h.5⟩

/-- A change of `lmem` that keeps its canonical form. -/
theorem kept_lmem {s0 s : State} (h : Kept s0 s) {mV : Map Byte}
    (m : memWf s.lmem = true → memWf mV = true)
    {freeV : Nat} {uidV : Nat} {outV : List Out} {regsV : Map Word} {cntV : Map Nat} {wlatchV : Map Word} {rlatchV :
    Map Word} {ftV : Ft} {armedV : List (ArmKind × Nat)} {lkV : Lk} {hbmV : Hbm} {mdV : Mender} {bootV : Boot} {coopV
    : Coop} {hpV : Map Hp} {sreadsV : Map SysRead} {sqsV : Map Sq} {cqsV : Map Cq} {eqsV : Map EvQ} {jobsV : Map Job}
    {tensV : Map Tenant} {slotsV : Map PushSlot} {engsV : Map Eng} {xfersV : Map Xfer} {readsV : Map RdReq} {wreqsV :
    List WrReq} {macsV : Map Mac} {pktsV : Map Pkt} {egV : Map EgPort} {slV : Sluice} {paV : Classifier} {fwV : Fwd}
    {hostqV : List HostFrame} {coresV : Map Core} {fcPulseV : Bool} {ringsV : Map Ring} {msgsV : List Msg} {clOffV :
    List Nat} {lsV : Locksmith} {tblqV : List TblReq} {dbgV : Dbg} {connsV : Map Conn} {unkV : List Nat} {sealsV :
    List SealCtl} {sxV : Sx} {tlV : Tally} :
    Kept s0
      ⟨s.clk, freeV, uidV, outV, s.pending, regsV, cntV, s.gens, wlatchV, rlatchV, ftV, armedV, lkV, hbmV, mdV, bootV,
      s.fuses, coopV, s.mere, s.sysmem, hpV, sreadsV, sqsV, cqsV, eqsV, jobsV, tensV, slotsV, engsV, xfersV, readsV,
      wreqsV, macsV, pktsV, egV, slV, paV, fwV, hostqV, coresV, fcPulseV, ringsV, mV, s.fwmem, msgsV, clOffV, lsV,
      tblqV, dbgV, connsV, unkV, sealsV, sxV, tlV⟩ :=
  ⟨h.1, h.2, fun y => let x := h.3 y; ⟨x.1, x.2.1, m x.2.2.1, x.2.2.2⟩, h.4, h.5⟩

/-- A change of `fwmem` that keeps its canonical form. -/
theorem kept_fwmem {s0 s : State} (h : Kept s0 s) {mV : Map Byte}
    (m : memWf s.fwmem = true → memWf mV = true)
    {freeV : Nat} {uidV : Nat} {outV : List Out} {regsV : Map Word} {cntV : Map Nat} {wlatchV : Map Word} {rlatchV :
    Map Word} {ftV : Ft} {armedV : List (ArmKind × Nat)} {lkV : Lk} {hbmV : Hbm} {mdV : Mender} {bootV : Boot} {coopV
    : Coop} {hpV : Map Hp} {sreadsV : Map SysRead} {sqsV : Map Sq} {cqsV : Map Cq} {eqsV : Map EvQ} {jobsV : Map Job}
    {tensV : Map Tenant} {slotsV : Map PushSlot} {engsV : Map Eng} {xfersV : Map Xfer} {readsV : Map RdReq} {wreqsV :
    List WrReq} {macsV : Map Mac} {pktsV : Map Pkt} {egV : Map EgPort} {slV : Sluice} {paV : Classifier} {fwV : Fwd}
    {hostqV : List HostFrame} {coresV : Map Core} {fcPulseV : Bool} {ringsV : Map Ring} {msgsV : List Msg} {clOffV :
    List Nat} {lsV : Locksmith} {tblqV : List TblReq} {dbgV : Dbg} {connsV : Map Conn} {unkV : List Nat} {sealsV :
    List SealCtl} {sxV : Sx} {tlV : Tally} :
    Kept s0
      ⟨s.clk, freeV, uidV, outV, s.pending, regsV, cntV, s.gens, wlatchV, rlatchV, ftV, armedV, lkV, hbmV, mdV, bootV,
      s.fuses, coopV, s.mere, s.sysmem, hpV, sreadsV, sqsV, cqsV, eqsV, jobsV, tensV, slotsV, engsV, xfersV, readsV,
      wreqsV, macsV, pktsV, egV, slV, paV, fwV, hostqV, coresV, fcPulseV, ringsV, s.lmem, mV, msgsV, clOffV, lsV,
      tblqV, dbgV, connsV, unkV, sealsV, sxV, tlV⟩ :=
  ⟨h.1, h.2, fun y => let x := h.3 y; ⟨x.1, x.2.1, x.2.2.1, m x.2.2.2⟩, h.4, h.5⟩

/-- A change of the generations that leaves none zero. -/
theorem kept_gens {s0 s : State} (h : Kept s0 s) {gV : Map Byte}
    (g : s.gensOk → ∀ x ∈ gV, x.2 ≠ 0)
    {freeV : Nat} {uidV : Nat} {outV : List Out} {regsV : Map Word} {cntV : Map Nat} {wlatchV : Map Word} {rlatchV :
    Map Word} {ftV : Ft} {armedV : List (ArmKind × Nat)} {lkV : Lk} {hbmV : Hbm} {mdV : Mender} {bootV : Boot} {coopV
    : Coop} {hpV : Map Hp} {sreadsV : Map SysRead} {sqsV : Map Sq} {cqsV : Map Cq} {eqsV : Map EvQ} {jobsV : Map Job}
    {tensV : Map Tenant} {slotsV : Map PushSlot} {engsV : Map Eng} {xfersV : Map Xfer} {readsV : Map RdReq} {wreqsV :
    List WrReq} {macsV : Map Mac} {pktsV : Map Pkt} {egV : Map EgPort} {slV : Sluice} {paV : Classifier} {fwV : Fwd}
    {hostqV : List HostFrame} {coresV : Map Core} {fcPulseV : Bool} {ringsV : Map Ring} {msgsV : List Msg} {clOffV :
    List Nat} {lsV : Locksmith} {tblqV : List TblReq} {dbgV : Dbg} {connsV : Map Conn} {unkV : List Nat} {sealsV :
    List SealCtl} {sxV : Sx} {tlV : Tally} :
    Kept s0
      ⟨s.clk, freeV, uidV, outV, s.pending, regsV, cntV, gV, wlatchV, rlatchV, ftV, armedV, lkV, hbmV, mdV, bootV,
      s.fuses, coopV, s.mere, s.sysmem, hpV, sreadsV, sqsV, cqsV, eqsV, jobsV, tensV, slotsV, engsV, xfersV, readsV,
      wreqsV, macsV, pktsV, egV, slV, paV, fwV, hostqV, coresV, fcPulseV, ringsV, s.lmem, s.fwmem, msgsV, clOffV, lsV,
      tblqV, dbgV, connsV, unkV, sealsV, sxV, tlV⟩ :=
  ⟨h.1, h.2, h.3, fun y => g (h.4 y), h.5⟩

/-- A change of the fuses that lowers no anti-rollback counter. -/
theorem kept_fuses {s0 s : State} (h : Kept s0 s) {fV : Fuses}
    (g : ∀ k, s.fuses.rollback.getD k 0 ≤ fV.rollback.getD k 0)
    {freeV : Nat} {uidV : Nat} {outV : List Out} {regsV : Map Word} {cntV : Map Nat} {wlatchV : Map Word} {rlatchV :
    Map Word} {ftV : Ft} {armedV : List (ArmKind × Nat)} {lkV : Lk} {hbmV : Hbm} {mdV : Mender} {bootV : Boot} {coopV
    : Coop} {hpV : Map Hp} {sreadsV : Map SysRead} {sqsV : Map Sq} {cqsV : Map Cq} {eqsV : Map EvQ} {jobsV : Map Job}
    {tensV : Map Tenant} {slotsV : Map PushSlot} {engsV : Map Eng} {xfersV : Map Xfer} {readsV : Map RdReq} {wreqsV :
    List WrReq} {macsV : Map Mac} {pktsV : Map Pkt} {egV : Map EgPort} {slV : Sluice} {paV : Classifier} {fwV : Fwd}
    {hostqV : List HostFrame} {coresV : Map Core} {fcPulseV : Bool} {ringsV : Map Ring} {msgsV : List Msg} {clOffV :
    List Nat} {lsV : Locksmith} {tblqV : List TblReq} {dbgV : Dbg} {connsV : Map Conn} {unkV : List Nat} {sealsV :
    List SealCtl} {sxV : Sx} {tlV : Tally} :
    Kept s0
      ⟨s.clk, freeV, uidV, outV, s.pending, regsV, cntV, s.gens, wlatchV, rlatchV, ftV, armedV, lkV, hbmV, mdV, bootV,
      fV, coopV, s.mere, s.sysmem, hpV, sreadsV, sqsV, cqsV, eqsV, jobsV, tensV, slotsV, engsV, xfersV, readsV,
      wreqsV, macsV, pktsV, egV, slV, paV, fwV, hostqV, coresV, fcPulseV, ringsV, s.lmem, s.fwmem, msgsV, clOffV, lsV,
      tblqV, dbgV, connsV, unkV, sealsV, sxV, tlV⟩ :=
  ⟨h.1, h.2, h.3, h.4, fun k => Nat.le_trans (h.5 k) (g k)⟩

/-- A change of the fuses beside the counters. -/
theorem kept_fuses_mk {s0 s : State} (h : Kept s0 s) {prefV : List Bool} {storedV : Option (SignedCfg × Nat × Nat)}
    {useV : List Nat}
    {freeV : Nat} {uidV : Nat} {outV : List Out} {regsV : Map Word} {cntV : Map Nat} {wlatchV : Map Word} {rlatchV :
    Map Word} {ftV : Ft} {armedV : List (ArmKind × Nat)} {lkV : Lk} {hbmV : Hbm} {mdV : Mender} {bootV : Boot} {coopV
    : Coop} {hpV : Map Hp} {sreadsV : Map SysRead} {sqsV : Map Sq} {cqsV : Map Cq} {eqsV : Map EvQ} {jobsV : Map Job}
    {tensV : Map Tenant} {slotsV : Map PushSlot} {engsV : Map Eng} {xfersV : Map Xfer} {readsV : Map RdReq} {wreqsV :
    List WrReq} {macsV : Map Mac} {pktsV : Map Pkt} {egV : Map EgPort} {slV : Sluice} {paV : Classifier} {fwV : Fwd}
    {hostqV : List HostFrame} {coresV : Map Core} {fcPulseV : Bool} {ringsV : Map Ring} {msgsV : List Msg} {clOffV :
    List Nat} {lsV : Locksmith} {tblqV : List TblReq} {dbgV : Dbg} {connsV : Map Conn} {unkV : List Nat} {sealsV :
    List SealCtl} {sxV : Sx} {tlV : Tally} :
    Kept s0
      ⟨s.clk, freeV, uidV, outV, s.pending, regsV, cntV, s.gens, wlatchV, rlatchV, ftV, armedV, lkV, hbmV, mdV, bootV,
      ⟨s.fuses.revoked, s.fuses.rollback, prefV, storedV, useV⟩, coopV, s.mere, s.sysmem, hpV, sreadsV, sqsV, cqsV,
      eqsV, jobsV, tensV, slotsV, engsV, xfersV, readsV, wreqsV, macsV, pktsV, egV, slV, paV, fwV, hostqV, coresV,
      fcPulseV, ringsV, s.lmem, s.fwmem, msgsV, clOffV, lsV, tblqV, dbgV, connsV, unkV, sealsV, sxV, tlV⟩ :=
  ⟨h.1, h.2, h.3, h.4, h.5⟩

theorem kept_ite {s0 a b : State} {c : Prop} [Decidable c] (ha : Kept s0 a) (hb : Kept s0 b) :
    Kept s0 (if c then a else b) := by
  split
  · exact ha
  · exact hb

theorem kept_foldl {α : Type} {s0 : State} {f : State → α → State} (l : List α) {s : State} (h : Kept s0 s)
    (hf : ∀ x a, Kept s0 x → Kept s0 (f x a)) : Kept s0 (l.foldl f s) := by
  induction l generalizing s with
  | nil => exact h
  | cons a t ih => exact ih (hf s a h)

theorem kept_foldr {α : Type} {s0 : State} {f : α → State → State} (l : List α) {s : State} (h : Kept s0 s)
    (hf : ∀ x a, Kept s0 x → Kept s0 (f a x)) : Kept s0 (l.foldr f s) := by
  induction l with
  | nil => exact h
  | cons a t ih => exact hf _ a ih

/-- A fold that carries a state and something else. -/
theorem kept_foldl_fst {α β : Type} {s0 : State} {f : State × β → α → State × β} (l : List α) {p : State × β}
    (h : Kept s0 p.1) (hf : ∀ x a, Kept s0 x.1 → Kept s0 (f x a).1) : Kept s0 (l.foldl f p).1 := by
  induction l generalizing p with
  | nil => exact h
  | cons a t ih => exact ih (hf p a h)

theorem kept_foldl_snd {α β : Type} {s0 : State} {f : β × State → α → β × State} (l : List α) {p : β × State}
    (h : Kept s0 p.2) (hf : ∀ x a, Kept s0 x.2 → Kept s0 (f x a).2) : Kept s0 (l.foldl f p).2 := by
  induction l generalizing p with
  | nil => exact h
  | cons a t ih => exact ih (hf p a h)

/-- What a match on a pair, or on an option of one, learns of its state. -/
theorem kept_of_fst {α : Type} {s0 t : State} {x : State × α} {a : α} (e : x = (t, a)) (h : Kept s0 x.1) : Kept s0 t := by
  subst e; exact h

theorem kept_of_snd {α : Type} {s0 t : State} {x : α × State} {a : α} (e : x = (a, t)) (h : Kept s0 x.2) : Kept s0 t := by
  subst e; exact h

theorem kept_of_mid {α β : Type} {s0 t : State} {x : α × State × β} {a : α} {b : β} (e : x = (a, t, b))
    (h : Kept s0 x.2.1) : Kept s0 t := by
  subst e; exact h

theorem kept_of_fourth {α β γ : Type} {s0 t : State} {x : α × β × γ × State} {a : α} {b : β} {c : γ} (e : x = (a, b, c, t))
    (h : Kept s0 x.2.2.2) : Kept s0 t := by
  subst e; exact h

theorem kept_of_some_snd {α : Type} {s0 t : State} {x : Option (α × State)} {a : α} (e : x = some (a, t))
    (h : OptAll (fun y => Kept s0 y.2) x) : Kept s0 t := by
  subst e; exact h

theorem kept_of_some {s0 t : State} {x : Option State} (e : x = some t) (h : OptAll (fun y => Kept s0 y) x) :
    Kept s0 t := by
  subst e; exact h

theorem kept_of_next {s0 t : State} {x : Host.Outcome State Fault Refusal} (e : x = .next t) (h : KeptO s0 x) :
    Kept s0 t := by
  subst e; exact h

theorem optAll_some {α : Type} {p : α → Prop} {x : α} (h : p x) : OptAll p (some x) := h

theorem optAll_none {α : Type} {p : α → Prop} : OptAll p none := trivial

/-- What the command of an edge keeps: it may let one PCLK pass (log entry 2). -/
def KeptE (s t : State) : Prop := Kept s t ∨ Kept { s with clk := s.clk + 625 } t

/-- What the answer of the command of an edge keeps. -/
def KeptEO (s : State) : Host.Outcome State Fault Refusal → Prop
  | .next t => KeptE s t
  | _ => False

theorem KeptO.edge {s : State} {x : Host.Outcome State Fault Refusal} (h : KeptO s x) : KeptEO s x := by
  cases x
  · exact .inl h
  · exact h.elim
  · exact h.elim

theorem keptO_next {s0 t : State} (h : Kept s0 t) : KeptO s0 (.next t) := h

theorem keptO_ite {s0 : State} {a b : Host.Outcome State Fault Refusal} {c : Prop} [Decidable c] (ha : KeptO s0 a)
    (hb : KeptO s0 b) : KeptO s0 (if c then a else b) := by
  split
  · exact ha
  · exact hb

end Sys2Proof.Machine
end

