-- ==== Sys2Proof/Laws/KeptOps.lean ====
section
/-! SUPPORT. What the operations of Machine/Ops.lean keep (Safety.lean). -/
namespace Sys2Proof.Machine

theorem bumpFree_kept {s0 : State} {s : State} (hs : Kept s0 s) :
    Kept s0 (bumpFree s) := by
  unfold bumpFree
  repeat' with_reducible first
    | assumption | intro _ | apply kept_ite | split | extract_lets | apply kept_mk

theorem rset_kept {s0 : State} {s : State} {off : Nat} {inst : Nat} {v : Nat} (hs : Kept s0 s) :
    Kept s0 (rset s off inst v) := by
  unfold rset
  repeat' with_reducible first
    | assumption | intro _ | apply kept_ite | split | extract_lets | apply kept_mk

theorem wr_kept {s0 : State} {s : State} {f : Fd} {i : Nat} {inst : Nat} {v : Nat} (hs : Kept s0 s) :
    Kept s0 (wr s f i inst v) := by
  unfold wr
  repeat' with_reducible first
    | assumption | intro _ | apply kept_ite | apply rset_kept | split | extract_lets | apply kept_mk

theorem resetBlock_kept {s0 : State} {s : State} {block : Nat} {inst : Nat} (hs : Kept s0 s) :
    Kept s0 (resetBlock s block inst) := by
  unfold resetBlock
  repeat' with_reducible first
    | assumption | intro _ | apply kept_ite | split | extract_lets | apply kept_mk

theorem cadd_kept {s0 : State} {s : State} {unit : Nat} {inst : Nat} {idx : Nat} {n : Nat} (hs : Kept s0 s) :
    Kept s0 (cadd s unit inst idx n) := by
  unfold cadd
  repeat' with_reducible first
    | assumption | intro _ | apply kept_ite | split | extract_lets | apply kept_mk

theorem advGen_kept {s0 : State} {s : State} {cls idx : Nat} (hs : Kept s0 s) : Kept s0 (advGen s cls idx) := by
  refine kept_gens hs fun g => ?_
  exact forall_mset s.gens _ _ (fun b : Byte => b ≠ 0) (nextGen_ne_zero _) g

theorem emit_kept {s0 : State} {s : State} {o : Out} (hs : Kept s0 s) :
    Kept s0 (emit s o) := by
  unfold emit
  repeat' with_reducible first
    | assumption | intro _ | apply kept_ite | split | extract_lets | apply kept_mk

theorem raise_kept {s0 : State} {s : State} {e : Ev} {inst : Nat} (hs : Kept s0 s) :
    Kept s0 (raise s e inst) := by
  unfold raise
  repeat' with_reducible first
    | assumption | intro _ | apply kept_ite | split | extract_lets | apply kept_mk

theorem raiseOnce_kept {s0 : State} {s : State} {e : Ev} {inst : Nat} (hs : Kept s0 s) :
    Kept s0 (raiseOnce s e inst) := by
  unfold raiseOnce
  repeat' with_reducible first
    | assumption | intro _ | apply kept_ite | apply raise_kept | split | extract_lets | apply kept_mk

theorem raiseOnceFor_kept {s0 : State} {s : State} {e : Ev} {inst : Nat} {key : Nat} (hs : Kept s0 s) :
    Kept s0 (raiseOnceFor s e inst key) := by
  unfold raiseOnceFor
  repeat' with_reducible first
    | assumption | intro _ | apply kept_ite | apply raise_kept | split | extract_lets | apply kept_mk

theorem modHp_kept {s0 : State} {s : State} {p : Nat} {f : Hp → Hp} (hs : Kept s0 s) :
    Kept s0 (modHp s p f) := by
  unfold modHp
  repeat' with_reducible first
    | assumption | intro _ | apply kept_ite | split | extract_lets | apply kept_mk

theorem modFn_kept {s0 : State} {s : State} {p : Nat} {f : Fn} {g : FnState → FnState} (hs : Kept s0 s) :
    Kept s0 (modFn s p f g) := by
  unfold modFn
  repeat' with_reducible first
    | assumption | intro _ | apply kept_ite | apply modHp_kept | split | extract_lets | apply kept_mk

theorem modAer_kept {s0 : State} {s : State} {p : Nat} {f : Fn} {g : Aer → Aer} (hs : Kept s0 s) :
    Kept s0 (modAer s p f g) := by
  unfold modAer
  repeat' with_reducible first
    | assumption | intro _ | apply kept_ite | apply modFn_kept | split | extract_lets | apply kept_mk

theorem aerCorrectable_kept {s0 : State} {s : State} {p : Nat} {f : Fn} {e : AerErr} (hs : Kept s0 s) :
    Kept s0 (aerCorrectable s p f e) := by
  unfold aerCorrectable
  repeat' with_reducible first
    | assumption | intro _ | apply kept_ite | apply emit_kept | apply modAer_kept | split | extract_lets
    | apply kept_mk

theorem aerRecord_kept {s0 : State} {s : State} {p : Nat} {f : Fn} {e : AerErr} {masked : Bool} {hdr : Option (List
    Word)} (hs : Kept s0 s) :
    Kept s0 (aerRecord s p f e masked hdr) := by
  unfold aerRecord
  repeat' with_reducible first
    | assumption | intro _ | apply kept_ite | apply modAer_kept | apply aerCorrectable_kept | split | extract_lets
    | apply kept_mk

theorem corHeader_kept {s0 : State} {s : State} {p : Nat} {f : Fn} {hdr : Option (List Word)} (hs : Kept s0 s) :
    Kept s0 (corHeader s p f hdr) := by
  unfold corHeader
  repeat' with_reducible first
    | assumption | intro _ | apply kept_ite | apply modAer_kept | split | extract_lets | apply kept_mk

theorem aerLog_kept {s0 : State} {s : State} {p : Nat} {f : Fn} {e : AerErr} {hdr : Option (List Word)} (hs : Kept s0
    s) :
    Kept s0 (aerLog s p f e hdr) := by
  unfold aerLog
  repeat' with_reducible first
    | assumption | intro _ | apply kept_ite | apply emit_kept | apply aerCorrectable_kept | apply aerRecord_kept
    | apply corHeader_kept | split | extract_lets | apply kept_mk

theorem aer_kept {s0 : State} {s : State} {p : HostPort} {f : Fn} {e : AerErr} (hs : Kept s0 s) :
    Kept s0 (aer s p f e) := by
  unfold aer
  repeat' with_reducible first
    | assumption | intro _ | apply kept_ite | apply bumpFree_kept | apply aerLog_kept | split | extract_lets
    | apply kept_mk

theorem barGate_kept {s0 : State} {s : State} {p : HostPort} {f : Fn} {eff : State → State} {read : Bool} (hs : Kept
    s0 s) (heff : ∀ x, Kept s0 x → Kept s0 (eff x)) :
    Kept s0 (barGate s p f eff read) := by
  unfold barGate
  repeat' with_reducible first
    | assumption | intro _ | apply kept_ite | apply heff | apply emit_kept | apply aer_kept | split | extract_lets
    | apply kept_mk

theorem cfgGate_kept {s0 : State} {s : State} {p : HostPort} {f : Fn} {eff : State → State} (hs : Kept s0 s) (heff : ∀
    x, Kept s0 x → Kept s0 (eff x)) :
    Kept s0 (cfgGate s p f eff) := by
  unfold cfgGate
  repeat' with_reducible first
    | assumption | intro _ | apply kept_ite | apply heff | apply emit_kept | split | extract_lets | apply kept_mk

theorem denied_kept {s0 : State} {s : State} {p : HostPort} (hs : Kept s0 s) :
    Kept s0 (denied s p) := by
  unfold denied
  repeat' with_reducible first
    | assumption | intro _ | apply kept_ite | apply wr_kept | apply modHp_kept | split | extract_lets
    | apply kept_mk

theorem regGate_kept {s0 : State} {s : State} {p : HostPort} {mgmtOnly : Bool} {eff : State → State} (hs : Kept s0 s)
    (heff : ∀ x, Kept s0 x → Kept s0 (eff x)) :
    Kept s0 (regGate s p mgmtOnly eff) := by
  unfold regGate
  repeat' with_reducible first
    | assumption | intro _ | apply kept_ite | apply heff | apply aer_kept | apply barGate_kept | apply denied_kept
    | split | extract_lets | apply kept_mk

theorem readGate_kept {s0 : State} {s : State} {p : HostPort} {lkBlock : Bool} {eff : State → State} (hs : Kept s0 s)
    (heff : ∀ x, Kept s0 x → Kept s0 (eff x)) :
    Kept s0 (readGate s p lkBlock eff) := by
  unfold readGate
  repeat' with_reducible first
    | assumption | intro _ | apply kept_ite | apply heff | apply emit_kept | apply aer_kept | apply barGate_kept
    | split | extract_lets | apply kept_mk

theorem hostWrite_kept {s0 : State} {s : State} {p : Nat} {owner : Option Nat} {addr : Nat} {bytes : List Byte} {ns :
    Bool} (hs : Kept s0 s) :
    Kept s0 (hostWrite s p owner addr bytes ns) := by
  unfold hostWrite
  repeat' with_reducible first
    | assumption | intro _ | apply kept_ite | apply emit_kept | split | extract_lets | apply kept_mk

theorem writeLeave_kept {s0 : State} {s : State} {w : WrReq} (hs : Kept s0 s) : Kept s0 (writeLeave s w) := by
  unfold writeLeave
  repeat' with_reducible first
    | assumption | intro _ | apply kept_ite | apply cadd_kept | apply emit_kept | split | extract_lets | apply kept_mk

theorem foldl_writeLeave_kept {s0 : State} {l : List WrReq} {s : State} (hs : Kept s0 s) :
    Kept s0 (l.foldl writeLeave s) := by
  induction l generalizing s with
  | nil => exact hs
  | cons w l ih => exact ih (writeLeave_kept hs)

theorem leaveWrites_kept {s0 : State} {s : State} {p : Nat} (hs : Kept s0 s) :
    Kept s0 (leaveWrites s p) := by
  unfold leaveWrites
  apply foldl_writeLeave_kept
  with_reducible apply kept_mk <;> assumption

theorem hostRead_kept {s0 : State} {s : State} {what : ReadRef} {p : Nat} {owner : Option Nat} {addr : Nat} {len :
    Nat} {ns : Bool} (hs : Kept s0 s) :
    Kept s0 (hostRead s what p owner addr len ns) := by
  unfold hostRead
  repeat' with_reducible first
    | assumption | intro _ | apply kept_ite | apply emit_kept | split | extract_lets | apply kept_mk

theorem takeRead_kept {s0 : State} {s : State} {w : ReadRef} {eff : State → State} (hs : Kept s0 s) (heff : ∀ x, Kept
    s0 x → Kept s0 (eff x)) :
    Kept s0 (takeRead s w eff) := by
  unfold takeRead
  repeat' with_reducible first
    | assumption | intro _ | apply kept_ite | apply heff | split | extract_lets | apply kept_mk

theorem dropSys_kept {s0 : State} {s : State} {t : SysRead → Bool} (hs : Kept s0 s) :
    Kept s0 (dropSys s t) := by
  unfold dropSys
  repeat' with_reducible first
    | assumption | intro _ | apply kept_ite | split | extract_lets | apply kept_mk

theorem pushCpl_kept {s0 : State} {s : State} {cq : Nat} {c : Cpl} (hs : Kept s0 s) :
    Kept s0 (pushCpl s cq c) := by
  unfold pushCpl
  repeat' with_reducible first
    | assumption | intro _ | apply kept_ite | split | extract_lets | apply kept_mk

theorem finishJob_kept {s0 : State} {s : State} {uid : Nat} {st : Status} {result : Nat} (hs : Kept s0 s) :
    Kept s0 (finishJob s uid st result) := by
  unfold finishJob
  repeat' with_reducible first
    | assumption | intro _ | apply kept_ite | apply pushCpl_kept | split | extract_lets | apply kept_mk

theorem finishAdmin_kept {s0 : State} {s : State} {p : Nat} {st : Status} {result : Nat} (hs : Kept s0 s) :
    Kept s0 (finishAdmin s p st result) := by
  unfold finishAdmin
  repeat' with_reducible first
    | assumption | intro _ | apply kept_ite | apply modHp_kept | apply pushCpl_kept | split | extract_lets
    | apply kept_mk

theorem modMac_kept {s0 : State} {s : State} {p : Nat} {f : Mac → Mac} (hs : Kept s0 s) :
    Kept s0 (modMac s p f) := by
  unfold modMac
  repeat' with_reducible first
    | assumption | intro _ | apply kept_ite | split | extract_lets | apply kept_mk

theorem adminRun_kept {s0 : State} {s : State} {p : Nat} {op : Nat} {body : State → Entry → State} (hs : Kept s0 s)
    (hbody : ∀ x a0, Kept s0 x → Kept s0 (body x a0)) :
    Kept s0 (adminRun s p op body) := by
  unfold adminRun
  repeat' with_reducible first
    | assumption | intro _ | apply kept_ite | apply hbody | apply finishAdmin_kept | split | extract_lets
    | apply kept_mk

theorem adminWait_kept {s0 : State} {s : State} {p : Nat} {what : String} {n : Nat} (hs : Kept s0 s) :
    Kept s0 (adminWait s p what n) := by
  unfold adminWait
  repeat' with_reducible first
    | assumption | intro _ | apply kept_ite | apply modHp_kept | split | extract_lets | apply kept_mk

theorem jobRun_kept {s0 : State} {s : State} {uid : Nat} {op : Nat} {body : State → Job → State} (hs : Kept s0 s)
    (hbody : ∀ x a0, Kept s0 x → Kept s0 (body x a0)) :
    Kept s0 (jobRun s uid op body) := by
  unfold jobRun
  repeat' with_reducible first
    | assumption | intro _ | apply kept_ite | apply hbody | split | extract_lets | apply kept_mk

theorem regStore_kept {s0 : State} {s : State} {off : Nat} {inst : Nat} {w : Nat} (hs : Kept s0 s) :
    Kept s0 (regStore s off inst w).1 := by
  unfold regStore
  repeat' with_reducible first
    | assumption | intro _ | apply kept_ite | apply rset_kept | split | extract_lets | apply kept_mk

theorem imageIssue_kept {s0 : State} {s : State} {p : Nat} {i : Nat} (hs : Kept s0 s) :
    Kept s0 (imageIssue s p i) := by
  unfold imageIssue
  repeat' with_reducible first
    | assumption | intro _ | apply kept_ite | apply hostRead_kept | split | extract_lets | apply kept_mk

theorem imageResume_kept {s0 : State} {s : State} {p : Nat} (hs : Kept s0 s) :
    Kept s0 (imageResume s p) := by
  unfold imageResume
  repeat' with_reducible first
    | assumption | intro _ | apply kept_ite | apply imageIssue_kept | split | extract_lets | apply kept_mk

end Sys2Proof.Machine
end

