-- ==== Sys2Proof/Laws/KeptMere.lean ====
section
/-! SUPPORT. What the operations of Machine/Mere.lean keep (Safety.lean). -/
namespace Sys2Proof.Machine

theorem modCoop_kept {s0 : State} {s : State} {f : Coop → Coop} (hs : Kept s0 s) :
    Kept s0 (modCoop s f) := by
  unfold modCoop
  repeat' with_reducible first
    | assumption | intro _ | apply kept_ite | split | extract_lets | apply kept_mk

theorem setBuf_kept {s0 : State} {s : State} {h : Nat} {b : Buf} (hs : Kept s0 s) :
    Kept s0 (setBuf s h b) := by
  unfold setBuf
  repeat' with_reducible first
    | assumption | intro _ | apply kept_ite | apply modCoop_kept | split | extract_lets | apply kept_mk

theorem poolLow_kept {s0 : State} {s : State} {p : Nat} (hs : Kept s0 s) :
    Kept s0 (poolLow s p) := by
  unfold poolLow
  repeat' with_reducible first
    | assumption | intro _ | apply kept_ite | apply raiseOnceFor_kept | split | extract_lets | apply kept_mk

theorem tryPool_kept {s0 : State} {s : State} {r : Nat} {p : Nat} (hs : Kept s0 s) :
    OptAll (fun y => Kept s0 y.2) (tryPool s r p) := by
  unfold tryPool
  repeat' with_reducible first
    | assumption | intro _ | apply optAll_some | exact optAll_none | apply kept_ite | apply bumpFree_kept
    | apply modCoop_kept | apply setBuf_kept | apply poolLow_kept | split | extract_lets | apply kept_mk

theorem tryPools_kept {s0 : State} {s : State} {r : Nat} {e0 : List Nat} (hs : Kept s0 s) :
    OptAll (fun y => Kept s0 y.2) (tryPools s r e0) := by
  induction e0 generalizing s r hs with
  | nil =>
    unfold tryPools
    repeat' with_reducible first
      | assumption | intro _ | apply optAll_some | exact optAll_none | apply kept_ite | apply tryPool_kept
      | refine kept_of_some_snd (by assumption) ?_ | split | extract_lets | apply kept_mk
  | cons hd tl ih =>
    unfold tryPools
    repeat' with_reducible first
      | assumption | intro _ | apply optAll_some | exact optAll_none | apply kept_ite | apply ih
      | apply tryPool_kept | refine kept_of_some_snd (by assumption) ?_ | split | extract_lets | apply kept_mk

theorem allocFailed_kept {s0 : State} {s : State} {st : Status} (hs : Kept s0 s) :
    Kept s0 (allocFailed s st) := by
  unfold allocFailed
  repeat' with_reducible first
    | assumption | intro _ | apply kept_ite | apply cadd_kept | split | extract_lets | apply kept_mk

theorem allocFrom_kept {s0 : State} {s : State} {r : Nat} {ps : List Nat} (hs : Kept s0 s) :
    Kept s0 (allocFrom s r ps).2 := by
  unfold allocFrom
  repeat' with_reducible first
    | assumption | intro _ | apply kept_ite | apply cadd_kept | apply tryPools_kept | apply allocFailed_kept
    | refine kept_of_some_snd (by assumption) ?_ | split | extract_lets | apply kept_mk

theorem alloc_kept {s0 : State} {s : State} {r : Nat} {size : Nat} (hs : Kept s0 s) :
    Kept s0 (alloc s r size).2 := by
  unfold alloc
  repeat' with_reducible first
    | assumption | intro _ | apply kept_ite | apply allocFrom_kept | split | extract_lets | apply kept_mk

theorem bufHand_kept {s0 : State} {s : State} {h : Nat} (hs : Kept s0 s) :
    Kept s0 (bufHand s h) := by
  unfold bufHand
  repeat' with_reducible first
    | assumption | intro _ | apply kept_ite | apply setBuf_kept | split | extract_lets | apply kept_mk

theorem allocWork_kept {s0 : State} {s : State} {r : Nat} {size : Nat} (hs : Kept s0 s) :
    Kept s0 (allocWork s r size).2 := by
  unfold allocWork
  repeat' with_reducible first
    | assumption | intro _ | apply kept_ite | apply alloc_kept | apply bufHand_kept
    | refine kept_of_snd (by assumption) ?_ | split | extract_lets | apply kept_mk

theorem hcWrite_kept {s0 : State} {s : State} {cell : Nat} (hs : Kept s0 s) :
    Kept s0 (hcWrite s cell) := by
  unfold hcWrite
  repeat' with_reducible first
    | assumption | intro _ | apply kept_ite | apply cadd_kept | apply modCoop_kept | split | extract_lets
    | apply kept_mk

theorem wearNote_kept {s0 : State} {s : State} {m : Monitor} {part : Nat} (hs : Kept s0 s) :
    Kept s0 (wearNote s m part) := by
  unfold wearNote
  repeat' with_reducible first
    | assumption | intro _ | apply kept_ite | split | extract_lets | apply kept_mk

theorem coreWear_kept {s0 : State} {s : State} {m : Monitor} {c : Nat} (hs : Kept s0 s) :
    Kept s0 (coreWear s m c) := by
  unfold coreWear
  repeat' with_reducible first
    | assumption | intro _ | apply kept_ite | apply wearNote_kept | split | extract_lets | apply kept_mk

theorem eccCorr_kept {s0 : State} {s : State} {c : Nat} (hs : Kept s0 s) :
    Kept s0 (eccCorr s c) := by
  unfold eccCorr
  repeat' with_reducible first
    | assumption | intro _ | apply kept_ite | apply cadd_kept | apply raiseOnce_kept | apply wearNote_kept | split
    | extract_lets | apply kept_mk

theorem eccOnDie_kept {s0 : State} {s : State} {c : Nat} (hs : Kept s0 s) :
    Kept s0 (eccOnDie s c) := by
  unfold eccOnDie
  repeat' with_reducible first
    | assumption | intro _ | apply kept_ite | apply cadd_kept | apply wearNote_kept | split | extract_lets
    | apply kept_mk

theorem eccUncorr_kept {s0 : State} {s : State} {c : Nat} (hs : Kept s0 s) :
    Kept s0 (eccUncorr s c) := by
  unfold eccUncorr
  repeat' with_reducible first
    | assumption | intro _ | apply kept_ite | apply cadd_kept | apply raise_kept | apply wearNote_kept | split
    | extract_lets | apply kept_mk

theorem storeTouch_kept {s0 : State} {s : State} {a : Nat} {n : Nat} (hs : Kept s0 s) :
    Kept s0 (storeTouch s a n) := by
  unfold storeTouch
  repeat' with_reducible first
    | assumption | intro _ | apply kept_ite | apply kept_foldl | apply cadd_kept | apply eccUncorr_kept | split
    | extract_lets | apply kept_foldl_fst | apply kept_foldl_snd | apply kept_mk

theorem loseBlock_kept {s0 : State} {s : State} {b : Nat} (hs : Kept s0 s) :
    Kept s0 (loseBlock s b) := by
  unfold loseBlock
  repeat' with_reducible first
    | assumption | intro _ | apply kept_ite | apply eccUncorr_kept | split | extract_lets | apply kept_mk

theorem storeEcc_kept {s0 : State} {s : State} {a : Nat} {n : Nat} {e : Ecc} (hs : Kept s0 s) :
    Kept s0 (storeEcc s a n e) := by
  unfold storeEcc
  repeat' with_reducible first
    | assumption | intro _ | apply kept_ite | apply kept_foldl | apply eccCorr_kept | apply eccOnDie_kept
    | apply loseBlock_kept | split | extract_lets | apply kept_mk

theorem storeMeet_kept {s0 : State} {s : State} {a : Nat} {n : Nat} {e : Ecc} (hs : Kept s0 s) :
    Kept s0 (storeMeet s a n e) := by
  unfold storeMeet
  repeat' with_reducible first
    | assumption | intro _ | apply kept_ite | apply storeTouch_kept | apply storeEcc_kept | split | extract_lets
    | apply kept_mk

theorem sysEcc_kept {s0 : State} {s : State} {e : Ecc} (hs : Kept s0 s) :
    Kept s0 (sysEcc s e) := by
  unfold sysEcc
  repeat' with_reducible first
    | assumption | intro _ | apply kept_ite | apply kept_foldl | apply eccCorr_kept | apply eccOnDie_kept | split
    | extract_lets | apply kept_mk

theorem storeWrite_kept {s0 : State} {s : State} {a : Nat} {bytes : List Byte} (hs : Kept s0 s) :
    Kept s0 (storeWrite s a bytes) := by
  unfold storeWrite
  repeat' with_reducible first
    | assumption | intro _ | apply kept_ite | apply kept_foldl | apply hcWrite_kept
    | refine kept_mere ?_ (memWf_writeMem _ _ _) | split | extract_lets | apply kept_mk

theorem hcDrop_kept {s0 : State} {s : State} {h : Nat} (hs : Kept s0 s) :
    Kept s0 (hcDrop s h) := by
  unfold hcDrop
  repeat' with_reducible first
    | assumption | intro _ | apply kept_ite | apply cadd_kept | apply modCoop_kept | split | extract_lets
    | apply kept_mk

theorem sendPause_kept {s0 : State} {s : State} {p : Nat} {c : Nat} {time : Nat} (hs : Kept s0 s) :
    Kept s0 (sendPause s p c time) := by
  unfold sendPause
  repeat' with_reducible first
    | assumption | intro _ | apply kept_ite | apply cadd_kept | apply emit_kept | split | extract_lets
    | apply kept_mk

theorem xonCheck_kept {s0 : State} {s : State} {p : Nat} {c : Nat} (hs : Kept s0 s) :
    Kept s0 (xonCheck s p c) := by
  unfold xonCheck
  repeat' with_reducible first
    | assumption | intro _ | apply kept_ite | apply modMac_kept | apply sendPause_kept | split | extract_lets
    | apply kept_mk

theorem xoffCheck_kept {s0 : State} {s : State} {p : Nat} {c : Nat} (hs : Kept s0 s) :
    Kept s0 (xoffCheck s p c) := by
  unfold xoffCheck
  repeat' with_reducible first
    | assumption | intro _ | apply kept_ite | apply modMac_kept | apply sendPause_kept | split | extract_lets
    | apply kept_mk

theorem fcRecheck_kept {s0 : State} {s : State} {n : Nat} (hs : Kept s0 s) :
    Kept s0 (fcRecheck s n) := by
  unfold fcRecheck
  repeat' with_reducible first
    | assumption | intro _ | apply kept_ite | apply kept_foldl | apply xonCheck_kept | apply xoffCheck_kept | split
    | extract_lets | apply kept_mk

theorem unheld_kept {s0 : State} {s : State} {h : Nat} (hs : Kept s0 s) :
    Kept s0 (unheld s h) := by
  unfold unheld
  repeat' with_reducible first
    | assumption | intro _ | apply kept_ite | apply modMac_kept | apply xonCheck_kept | split | extract_lets
    | apply kept_mk

theorem forget_kept {s0 : State} {s : State} {h : Nat} (hs : Kept s0 s) :
    Kept s0 (forget s h) := by
  unfold forget
  repeat' with_reducible first
    | assumption | intro _ | apply kept_ite | split | extract_lets | apply kept_mk

theorem setFree_kept {s0 : State} {s : State} {h : Nat} (hs : Kept s0 s) :
    Kept s0 (setFree s h) := by
  unfold setFree
  repeat' with_reducible first
    | assumption | intro _ | apply kept_ite | apply modCoop_kept | apply hcDrop_kept | apply unheld_kept
    | apply forget_kept | split | extract_lets | apply kept_mk

theorem devFree_kept {s0 : State} {s : State} {h : Nat} (hs : Kept s0 s) :
    Kept s0 (devFree s h) := by
  unfold devFree
  repeat' with_reducible first
    | assumption | intro _ | apply kept_ite | apply cadd_kept | apply setFree_kept | split | extract_lets
    | apply kept_mk

theorem cacheReturn_kept {s0 : State} {s : State} {r : Nat} {p : Nat} (hs : Kept s0 s) :
    Kept s0 (cacheReturn s r p) := by
  unfold cacheReturn
  repeat' with_reducible first
    | assumption | intro _ | apply kept_ite | apply kept_foldl | apply modCoop_kept | apply setFree_kept | split
    | extract_lets | apply kept_mk

theorem cacheFill_kept {s0 : State} {s : State} {r : Nat} {p : Nat} {e0 : Nat} (hs : Kept s0 s) :
    Kept s0 (cacheFill s r p e0) := by
  induction e0 generalizing s r p hs with
  | zero =>
    unfold cacheFill
    repeat' with_reducible first
      | assumption | intro _ | apply kept_ite | apply bumpFree_kept | apply modCoop_kept | apply setBuf_kept
      | apply poolLow_kept | split | extract_lets | apply kept_mk
  | succ k ih =>
    unfold cacheFill
    repeat' with_reducible first
      | assumption | intro _ | apply kept_ite | apply ih | apply bumpFree_kept | apply modCoop_kept
      | apply setBuf_kept | apply poolLow_kept | split | extract_lets | apply kept_mk

theorem refuseFree_kept {s0 : State} {s : State} {r : Nat} (hs : Kept s0 s) :
    Kept s0 (refuseFree s r) := by
  unfold refuseFree
  repeat' with_reducible first
    | assumption | intro _ | apply kept_ite | apply kept_foldl | apply raise_kept | apply modCoop_kept
    | apply cacheReturn_kept | split | extract_lets | apply kept_mk

theorem bufFree_kept {s0 : State} {s : State} {h : Nat} {r : Nat} (hs : Kept s0 s) :
    Kept s0 (bufFree s h r).2 := by
  unfold bufFree
  repeat' with_reducible first
    | assumption | intro _ | apply kept_ite | apply cadd_kept | apply raiseOnce_kept | apply setFree_kept
    | apply refuseFree_kept | split | extract_lets | apply kept_mk

theorem bufTransfer_kept {s0 : State} {s : State} {h : Nat} {r : Nat} {to_ : Nat} (hs : Kept s0 s) :
    Kept s0 (bufTransfer s h r to_).2 := by
  unfold bufTransfer
  repeat' with_reducible first
    | assumption | intro _ | apply kept_ite | apply cadd_kept | apply setBuf_kept | split | extract_lets
    | apply kept_mk

theorem bufBack_kept {s0 : State} {s : State} {h : Nat} {cl : Nat} (hs : Kept s0 s) :
    Kept s0 (bufBack s h cl) := by
  unfold bufBack
  repeat' with_reducible first
    | assumption | intro _ | apply kept_ite | apply setBuf_kept | split | extract_lets | apply kept_mk

theorem quotaSet_kept {s0 : State} {s : State} {p : Nat} {e : Entry} (hs : Kept s0 s) :
    Kept s0 (quotaSet s p e) := by
  unfold quotaSet
  repeat' with_reducible first
    | assumption | intro _ | apply kept_ite | apply kept_foldl | apply cadd_kept | apply finishAdmin_kept
    | apply modCoop_kept | apply cacheReturn_kept | apply cacheFill_kept | split | extract_lets
    | apply kept_foldl_fst | apply kept_foldl_snd | apply kept_mk

theorem execPoolQuotaSet_kept {s0 : State} {port : HostPort} {s : State} (hs : Kept s0 s) :
    KeptO s0 (execPoolQuotaSet port s) := by
  unfold execPoolQuotaSet
  repeat' with_reducible first
    | assumption | intro _ | apply keptO_next | apply keptO_ite | apply kept_ite | apply adminRun_kept
    | apply quotaSet_kept | split | extract_lets | apply kept_mk

theorem execCacheRefill_kept {s0 : State} {req : Fin 4146} {pool : Fin 6} {s : State} (hs : Kept s0 s) :
    KeptO s0 (execCacheRefill req pool s) := by
  unfold execCacheRefill
  repeat' with_reducible first
    | assumption | intro _ | apply keptO_next | apply keptO_ite | apply kept_ite | apply cadd_kept
    | apply cacheFill_kept | split | extract_lets | apply kept_mk

theorem cacheReturnAll_kept {s0 : State} {s : State} (hs : Kept s0 s) :
    Kept s0 (cacheReturnAll s) := by
  unfold cacheReturnAll
  repeat' with_reducible first
    | assumption | intro _ | apply kept_ite | apply kept_foldl | apply cacheReturn_kept | split | extract_lets
    | apply kept_foldl_fst | apply kept_foldl_snd | apply kept_mk

theorem cacheCfgWrite_kept {s0 : State} {s : State} {v : Nat} (hs : Kept s0 s) :
    Kept s0 (cacheCfgWrite s v) := by
  unfold cacheCfgWrite
  repeat' with_reducible first
    | assumption | intro _ | apply kept_ite | apply rset_kept | apply cacheReturnAll_kept | split | extract_lets
    | apply kept_mk

theorem execCacheCfgWrite_kept {s0 : State} {port : HostPort} {value : Word} {s : State} (hs : Kept s0 s) :
    KeptO s0 (execCacheCfgWrite port value s) := by
  unfold execCacheCfgWrite
  repeat' with_reducible first
    | assumption | intro _ | apply keptO_next | apply keptO_ite | apply kept_ite | apply regGate_kept
    | apply cacheCfgWrite_kept | split | extract_lets | apply kept_mk

end Sys2Proof.Machine
end

