-- ==== Sys2Proof/Laws/KeptCarters.lean ====
section
/-! SUPPORT. What the operations of Machine/Carters.lean keep (Safety.lean). -/
namespace Sys2Proof.Machine

theorem modEng_kept {s0 : State} {s : State} {e : Nat} {f : Eng → Eng} (hs : Kept s0 s) :
    Kept s0 (modEng s e f) := by
  unfold modEng
  repeat' with_reducible first
    | assumption | intro _ | apply kept_ite | split | extract_lets | apply kept_mk

theorem modChan_kept {s0 : State} {s : State} {e : Nat} {c : Nat} {f : Chan → Chan} (hs : Kept s0 s) :
    Kept s0 (modChan s e c f) := by
  unfold modChan
  repeat' with_reducible first
    | assumption | intro _ | apply kept_ite | apply modEng_kept | split | extract_lets | apply kept_mk

theorem loadShadow_kept {s0 : State} {s : State} {e : Nat} {c : Nat} {x : Nat} (hs : Kept s0 s) :
    Kept s0 (loadShadow s e c x) := by
  unfold loadShadow
  repeat' with_reducible first
    | assumption | intro _ | apply kept_ite | apply cadd_kept | apply modChan_kept | split | extract_lets
    | apply kept_mk

theorem startOn_kept {s0 : State} {s : State} {e : Nat} {c : Nat} {x : Nat} (hs : Kept s0 s) :
    Kept s0 (startOn s e c x) := by
  unfold startOn
  repeat' with_reducible first
    | assumption | intro _ | apply kept_ite | apply cadd_kept | apply modChan_kept | apply loadShadow_kept | split
    | extract_lets | apply kept_mk

theorem placeXfer_kept {s0 : State} {s : State} {x : Nat} (hs : Kept s0 s) :
    Kept s0 (placeXfer s x) := by
  unfold placeXfer
  repeat' with_reducible first
    | assumption | intro _ | apply kept_ite | apply startOn_kept | split | extract_lets | apply kept_mk

theorem placeWaiting_kept {s0 : State} {s : State} {p : Nat} (hs : Kept s0 s) :
    Kept s0 (placeWaiting s p) := by
  unfold placeWaiting
  repeat' with_reducible first
    | assumption | intro _ | apply kept_ite | apply kept_foldl | apply placeXfer_kept | split | extract_lets
    | apply kept_foldl_fst | apply kept_foldl_snd | apply kept_mk

theorem startXfer_kept {s0 : State} {s : State} {t : Xfer} (hs : Kept s0 s) :
    Kept s0 (startXfer s t) := by
  unfold startXfer
  repeat' with_reducible first
    | assumption | intro _ | apply kept_ite | apply kept_foldl | apply placeWaiting_kept | split | extract_lets
    | apply kept_mk

theorem boundary_kept {s0 : State} {s : State} {e : Nat} {c : Nat} (hs : Kept s0 s) :
    Kept s0 (boundary s e c) := by
  unfold boundary
  repeat' with_reducible first
    | assumption | intro _ | apply kept_ite | apply modChan_kept | apply loadShadow_kept | apply placeWaiting_kept
    | split | extract_lets | apply kept_mk

theorem stopCheck_kept {s0 : State} {s : State} {e : Nat} (hs : Kept s0 s) :
    Kept s0 (stopCheck s e) := by
  unfold stopCheck
  repeat' with_reducible first
    | assumption | intro _ | apply kept_ite | apply modEng_kept | split | extract_lets | apply kept_mk

theorem withdraw_kept {s0 : State} {s : State} {x : Nat} (hs : Kept s0 s) :
    Kept s0 (withdraw s x) := by
  unfold withdraw
  repeat' with_reducible first
    | assumption | intro _ | apply kept_ite | apply cadd_kept | apply modChan_kept | apply boundary_kept
    | apply stopCheck_kept | split | extract_lets | apply kept_mk

theorem withdrawX_kept {s0 : State} {s : State} {x : Nat} (hs : Kept s0 s) :
    Kept s0 (withdrawX s x) := by
  unfold withdrawX
  repeat' with_reducible first
    | assumption | intro _ | apply kept_ite | apply devFree_kept | apply withdraw_kept | split | extract_lets
    | apply kept_mk

theorem withdrawJob_kept {s0 : State} {s : State} {uid : Nat} (hs : Kept s0 s) :
    Kept s0 (withdrawJob s uid) := by
  unfold withdrawJob
  repeat' with_reducible first
    | assumption | intro _ | apply kept_ite | apply kept_foldl | apply withdrawX_kept | split | extract_lets
    | apply kept_mk

theorem handRead_kept {s0 : State} {s : State} {p : Nat} {e : Nat} {c : Nat} {d : Desc} {t : Xfer} {off : Nat} {n :
    Nat} (hs : Kept s0 s) :
    Kept s0 (handRead s p e c d t off n) := by
  unfold handRead
  repeat' with_reducible first
    | assumption | intro _ | apply kept_ite | apply emit_kept | split | extract_lets | apply kept_mk

theorem handWrite_kept {s0 : State} {s : State} {p : Nat} {e : Nat} {c : Nat} {d : Desc} {t : Xfer} {off : Nat} {n :
    Nat} (hs : Kept s0 s) :
    Kept s0 (handWrite s p e c d t off n) := by
  unfold handWrite
  repeat' with_reducible first
    | assumption | intro _ | apply kept_ite | apply storeTouch_kept | split | extract_lets | apply kept_mk

theorem mereBurst_kept {s0 : State} {s : State} {d : Desc} {n : Nat} {ecc : Ecc} (hs : Kept s0 s) :
    Kept s0 (mereBurst s d n ecc).2 := by
  unfold mereBurst
  repeat' with_reducible first
    | assumption | intro _ | apply kept_ite | apply storeMeet_kept | apply storeWrite_kept | split | extract_lets
    | apply kept_mk

theorem burst_kept {s0 : State} {s : State} {e : Nat} {c : Nat} {ecc : Ecc} (hs : Kept s0 s) :
    Kept s0 (burst s e c ecc).1 := by
  unfold burst
  repeat' with_reducible first
    | assumption | intro _ | apply kept_ite | apply kept_foldl | apply storeEcc_kept | apply modChan_kept
    | apply boundary_kept | apply stopCheck_kept | apply handRead_kept | apply handWrite_kept
    | apply mereBurst_kept | refine kept_of_snd (by assumption) ?_ | split | extract_lets | apply kept_foldl_fst
    | apply kept_foldl_snd | apply kept_mk

theorem execDmaWriteLeave_kept {s0 : State} {s : State} (hs : Kept s0 s) :
    KeptO s0 (execDmaWriteLeave s) := by
  unfold execDmaWriteLeave
  repeat' with_reducible first
    | assumption | intro _ | apply keptO_next | apply keptO_ite | apply kept_ite | apply writeLeave_kept | split
    | extract_lets | apply kept_mk

theorem engStop_kept {s0 : State} {s : State} {p : Nat} (hs : Kept s0 s) :
    Kept s0 (engStop s p) := by
  unfold engStop
  repeat' with_reducible first
    | assumption | intro _ | apply kept_ite | apply modEng_kept | apply stopCheck_kept | split | extract_lets
    | apply kept_mk

theorem chanResume_kept {s0 : State} {s : State} {e : Nat} {c : Nat} (hs : Kept s0 s) :
    Kept s0 (chanResume s e c) := by
  unfold chanResume
  repeat' with_reducible first
    | assumption | intro _ | apply kept_ite | apply modChan_kept | apply loadShadow_kept | split | extract_lets
    | apply kept_mk

theorem engResume_kept {s0 : State} {s : State} {p : Nat} (hs : Kept s0 s) :
    Kept s0 (engResume s p) := by
  unfold engResume
  repeat' with_reducible first
    | assumption | intro _ | apply kept_ite | apply kept_foldl | apply modEng_kept | apply placeWaiting_kept
    | apply chanResume_kept | split | extract_lets | apply kept_foldl_fst | apply kept_foldl_snd | apply kept_mk

theorem engReset_kept {s0 : State} {s : State} {e : Nat} (hs : Kept s0 s) :
    Kept s0 (engReset s e) := by
  unfold engReset
  repeat' with_reducible first
    | assumption | intro _ | apply kept_ite | apply kept_foldl | apply modEng_kept | apply placeWaiting_kept
    | apply chanResume_kept | split | extract_lets | apply kept_foldl_fst | apply kept_foldl_snd | apply kept_mk

theorem execDxEngineStop_kept {s0 : State} {port : HostPort} {s : State} (hs : Kept s0 s) :
    KeptO s0 (execDxEngineStop port s) := by
  unfold execDxEngineStop
  repeat' with_reducible first
    | assumption | intro _ | apply keptO_next | apply keptO_ite | apply kept_ite | apply regGate_kept
    | apply engStop_kept | split | extract_lets | apply kept_mk

theorem execDxEngineResume_kept {s0 : State} {port : HostPort} {s : State} (hs : Kept s0 s) :
    KeptO s0 (execDxEngineResume port s) := by
  unfold execDxEngineResume
  repeat' with_reducible first
    | assumption | intro _ | apply keptO_next | apply keptO_ite | apply kept_ite | apply regGate_kept
    | apply engResume_kept | split | extract_lets | apply kept_mk

theorem offCheck_kept {s0 : State} {s : State} {e : Nat} (hs : Kept s0 s) :
    Kept s0 (offCheck s e) := by
  unfold offCheck
  repeat' with_reducible first
    | assumption | intro _ | apply kept_ite | apply raise_kept | apply modEng_kept | split | extract_lets
    | apply kept_mk

theorem execEngineRecover_kept {s0 : State} {eng : Fin 16} {s : State} (hs : Kept s0 s) :
    KeptO s0 (execEngineRecover eng s) := by
  unfold execEngineRecover
  repeat' with_reducible first
    | assumption | intro _ | apply keptO_next | apply keptO_ite | apply kept_ite | apply modEng_kept
    | apply placeWaiting_kept | apply stopCheck_kept | apply offCheck_kept | split | extract_lets | apply kept_mk

end Sys2Proof.Machine
end

