-- ==== Sys2Proof/Laws/KeptCompletions.lean ====
section
/-! SUPPORT. What the operations of Machine/Completions.lean keep (Safety.lean). -/
namespace Sys2Proof.Machine

theorem modCq_kept {s0 : State} {s : State} {i : Nat} {f : Cq → Cq} (hs : Kept s0 s) :
    Kept s0 (modCq s i f) := by
  unfold modCq
  repeat' with_reducible first
    | assumption | intro _ | apply kept_ite | split | extract_lets | apply kept_mk

theorem modEq_kept {s0 : State} {s : State} {i : Nat} {f : EvQ → EvQ} (hs : Kept s0 s) :
    Kept s0 (modEq s i f) := by
  unfold modEq
  repeat' with_reducible first
    | assumption | intro _ | apply kept_ite | split | extract_lets | apply kept_mk

theorem modSq_kept {s0 : State} {s : State} {i : Nat} {f : Sq → Sq} (hs : Kept s0 s) :
    Kept s0 (modSq s i f) := by
  unfold modSq
  repeat' with_reducible first
    | assumption | intro _ | apply kept_ite | split | extract_lets | apply kept_mk

theorem settleIdle_kept {s0 : State} {s : State} {t : Nat → Sq → Bool} (hs : Kept s0 s) :
    Kept s0 (settleIdle s t) := by
  unfold settleIdle
  repeat' with_reducible first
    | assumption | intro _ | apply kept_ite | split | extract_lets | apply kept_mk

theorem settleCq_kept {s0 : State} {s : State} {c : Nat} (hs : Kept s0 s) :
    Kept s0 (settleCq s c) := by
  unfold settleCq
  repeat' with_reducible first
    | assumption | intro _ | apply kept_ite | apply settleIdle_kept | split | extract_lets | apply kept_mk

theorem settleSq_kept {s0 : State} {s : State} {i : Nat} (hs : Kept s0 s) :
    Kept s0 (settleSq s i) := by
  unfold settleSq
  repeat' with_reducible first
    | assumption | intro _ | apply kept_ite | apply settleIdle_kept | split | extract_lets | apply kept_mk

theorem sendPme_kept {s0 : State} {s : State} {p : Nat} {f : Fn} (hs : Kept s0 s) :
    Kept s0 (sendPme s p f) := by
  unfold sendPme
  repeat' with_reducible first
    | assumption | intro _ | apply kept_ite | apply emit_kept | apply modFn_kept | split | extract_lets
    | apply kept_mk

theorem leaveL1_kept {s0 : State} {s : State} {p : Nat} (hs : Kept s0 s) :
    Kept s0 (leaveL1 s p) := by
  unfold leaveL1
  repeat' with_reducible first
    | assumption | intro _ | apply kept_ite | apply emit_kept | apply modHp_kept | split | extract_lets
    | apply kept_mk

theorem intaUpdate_kept {s0 : State} {s : State} {p : Nat} (hs : Kept s0 s) :
    Kept s0 (intaUpdate s p) := by
  unfold intaUpdate
  repeat' with_reducible first
    | assumption | intro _ | apply kept_ite | apply emit_kept | apply modHp_kept | apply modFn_kept
    | apply sendPme_kept | apply leaveL1_kept | split | extract_lets | apply kept_mk

theorem sendMsix_kept {s0 : State} {s : State} {p : Nat} {f : Fn} {v : Nat} (hs : Kept s0 s) :
    Kept s0 (sendMsix s p f v) := by
  unfold sendMsix
  repeat' with_reducible first
    | assumption | intro _ | apply kept_ite | apply emit_kept | apply modFn_kept | split | extract_lets
    | apply kept_mk

theorem eqReport_kept {s0 : State} {s : State} {i : Nat} (hs : Kept s0 s) :
    Kept s0 (eqReport s i) := by
  unfold eqReport
  repeat' with_reducible first
    | assumption | intro _ | apply kept_ite | apply modEq_kept | split | extract_lets | apply kept_mk

theorem eqWrite_kept {s0 : State} {s : State} {i : Nat} {e : EqEnt} (hs : Kept s0 s) :
    Kept s0 (eqWrite s i e) := by
  unfold eqWrite
  repeat' with_reducible first
    | assumption | intro _ | apply kept_ite | apply hostWrite_kept | apply modEq_kept | apply eqReport_kept | split
    | extract_lets | apply kept_mk

theorem eqHeadRead_kept {s0 : State} {s : State} {i : Nat} (hs : Kept s0 s) :
    Kept s0 (eqHeadRead s i) := by
  unfold eqHeadRead
  repeat' with_reducible first
    | assumption | intro _ | apply kept_ite | apply hostRead_kept | apply modEq_kept | split | extract_lets
    | apply kept_mk

theorem eqPost_kept {s0 : State} {s : State} {i : Nat} {e : EqEnt} (hs : Kept s0 s) :
    Kept s0 (eqPost s i e) := by
  unfold eqPost
  repeat' with_reducible first
    | assumption | intro _ | apply kept_ite | apply modEq_kept | apply eqWrite_kept | apply eqHeadRead_kept | split
    | extract_lets | apply kept_mk

theorem eqDrain_kept {s0 : State} {s : State} {i : Nat} {e0 : Nat} (hs : Kept s0 s) :
    Kept s0 (eqDrain s i e0) := by
  induction e0 generalizing s i hs with
  | zero =>
    unfold eqDrain
    repeat' with_reducible first
      | assumption | intro _ | apply kept_ite | apply modEq_kept | apply eqWrite_kept | split | extract_lets
      | apply kept_mk
  | succ k ih =>
    unfold eqDrain
    repeat' with_reducible first
      | assumption | intro _ | apply kept_ite | apply ih | apply modEq_kept | apply eqWrite_kept | split
      | extract_lets | apply kept_mk

theorem endRound_kept {s0 : State} {s : State} {i : Nat} (hs : Kept s0 s) :
    Kept s0 (endRound s i) := by
  unfold endRound
  repeat' with_reducible first
    | assumption | intro _ | apply kept_ite | apply modEq_kept | split | extract_lets | apply kept_mk

theorem cqWrite_kept {s0 : State} {s : State} {i : Nat} {c : Cpl} {spilled : Bool} (hs : Kept s0 s) :
    Kept s0 (cqWrite s i c spilled) := by
  unfold cqWrite
  repeat' with_reducible first
    | assumption | intro _ | apply kept_ite | apply hostWrite_kept | apply leaveWrites_kept | apply modCq_kept
    | apply modEq_kept | apply eqReport_kept | apply eqPost_kept | split | extract_lets | apply kept_mk

theorem retire_kept {s0 : State} {s : State} {c : Cpl} (hs : Kept s0 s) :
    Kept s0 (retire s c) := by
  unfold retire
  repeat' with_reducible first
    | assumption | intro _ | apply kept_ite | apply modSq_kept | apply settleSq_kept | split | extract_lets
    | apply kept_mk

theorem cqSpill_kept {s0 : State} {s : State} {i : Nat} {c : Cpl} (hs : Kept s0 s) :
    Kept s0 (cqSpill s i c) := by
  unfold cqSpill
  repeat' with_reducible first
    | assumption | intro _ | apply kept_ite | apply modCq_kept | apply settleCq_kept | split | extract_lets
    | apply kept_mk

theorem cqHeadRead_kept {s0 : State} {s : State} {i : Nat} {q : Cq} (hs : Kept s0 s) :
    Kept s0 (cqHeadRead s i q) := by
  unfold cqHeadRead
  repeat' with_reducible first
    | assumption | intro _ | apply kept_ite | apply hostRead_kept | apply modCq_kept | split | extract_lets
    | apply kept_mk

theorem completionWrite_kept {s0 : State} {s : State} {i : Nat} (hs : Kept s0 s) :
    Kept s0 (completionWrite s i) := by
  unfold completionWrite
  repeat' with_reducible first
    | assumption | intro _ | apply kept_ite | apply modCq_kept | apply cqWrite_kept | apply retire_kept
    | apply cqSpill_kept | apply cqHeadRead_kept | split | extract_lets | apply kept_mk

theorem execCompletionWrite_kept {s0 : State} {cq : Nat} {s : State} (hs : Kept s0 s) :
    KeptO s0 (execCompletionWrite cq s) := by
  unfold execCompletionWrite
  repeat' with_reducible first
    | assumption | intro _ | apply keptO_next | apply keptO_ite | apply kept_ite | apply completionWrite_kept
    | split | extract_lets | apply kept_mk

theorem cqDrain_kept {s0 : State} {s : State} {i : Nat} {e0 : Nat} (hs : Kept s0 s) :
    Kept s0 (cqDrain s i e0) := by
  induction e0 generalizing s i hs with
  | zero =>
    unfold cqDrain
    repeat' with_reducible first
      | assumption | intro _ | apply kept_ite | apply modCq_kept | apply settleCq_kept | apply cqWrite_kept | split
      | extract_lets | apply kept_mk
  | succ k ih =>
    unfold cqDrain
    repeat' with_reducible first
      | assumption | intro _ | apply kept_ite | apply ih | apply modCq_kept | apply settleCq_kept
      | apply cqWrite_kept | split | extract_lets | apply kept_mk

theorem eqSend_kept {s0 : State} {s : State} {i : Nat} (hs : Kept s0 s) :
    Kept s0 (eqSend s i) := by
  unfold eqSend
  repeat' with_reducible first
    | assumption | intro _ | apply kept_ite | apply modEq_kept | apply sendPme_kept | apply leaveL1_kept
    | apply intaUpdate_kept | apply sendMsix_kept | apply endRound_kept | split | extract_lets | apply kept_mk

theorem headBad_kept {s0 : State} {s : State} {p : Nat} (hs : Kept s0 s) :
    Kept s0 (headBad s p) := by
  unfold headBad
  repeat' with_reducible first
    | assumption | intro _ | apply kept_ite | apply modHp_kept | split | extract_lets | apply kept_mk

theorem cqHeadBad_kept {s0 : State} {s : State} {i : Nat} {q : Cq} (hs : Kept s0 s) :
    Kept s0 (cqHeadBad s i q) := by
  unfold cqHeadBad
  repeat' with_reducible first
    | assumption | intro _ | apply kept_ite | apply raise_kept | apply modCq_kept | apply headBad_kept | split
    | extract_lets | apply kept_mk

theorem eqHeadBad_kept {s0 : State} {s : State} {i : Nat} {q : EvQ} (hs : Kept s0 s) :
    Kept s0 (eqHeadBad s i q) := by
  unfold eqHeadBad
  repeat' with_reducible first
    | assumption | intro _ | apply kept_ite | apply raise_kept | apply modEq_kept | apply headBad_kept | split
    | extract_lets | apply kept_mk

theorem heldSend_kept {s0 : State} {s : State} {back : Bool} {e0 : Option Nat} (hs : Kept s0 s) :
    Kept s0 (heldSend s back e0) := by
  unfold heldSend
  repeat' with_reducible first
    | assumption | intro _ | apply kept_ite | apply eqSend_kept | split | extract_lets | apply kept_mk

theorem cqHead_kept {s0 : State} {s : State} {i : Nat} {d : HostData} (hs : Kept s0 s) :
    Kept s0 (cqHead s i d) := by
  unfold cqHead
  repeat' with_reducible first
    | assumption | intro _ | apply kept_ite | apply modCq_kept | apply cqDrain_kept | apply cqHeadBad_kept
    | apply heldSend_kept | split | extract_lets | apply kept_mk

theorem eqHead_kept {s0 : State} {s : State} {i : Nat} {d : HostData} (hs : Kept s0 s) :
    Kept s0 (eqHead s i d) := by
  unfold eqHead
  repeat' with_reducible first
    | assumption | intro _ | apply kept_ite | apply raiseOnce_kept | apply modEq_kept | apply intaUpdate_kept
    | apply eqDrain_kept | apply endRound_kept | apply eqHeadBad_kept | apply heldSend_kept | split | extract_lets
    | apply kept_mk

theorem headRead_kept {s0 : State} {s : State} {isEq : Bool} {queue : Nat} {d : HostData} (hs : Kept s0 s) :
    Kept s0 (headRead s isEq queue d) := by
  unfold headRead
  repeat' with_reducible first
    | assumption | intro _ | apply kept_ite | apply cqHead_kept | apply eqHead_kept | split | extract_lets
    | apply kept_mk

theorem execHeadRecordRead_kept {s0 : State} {isEq : Bool} {queue : Nat} {data : HostData} {s : State} (hs : Kept s0
    s) :
    KeptO s0 (execHeadRecordRead isEq queue data s) := by
  unfold execHeadRecordRead
  repeat' with_reducible first
    | assumption | intro _ | apply keptO_next | apply keptO_ite | apply kept_ite | apply takeRead_kept
    | apply headRead_kept | split | extract_lets | apply kept_mk

theorem execHeadPollTick_kept {s0 : State} {isEq : Bool} {queue : Nat} {s : State} (hs : Kept s0 s) :
    KeptO s0 (execHeadPollTick isEq queue s) := by
  unfold execHeadPollTick
  repeat' with_reducible first
    | assumption | intro _ | apply keptO_next | apply keptO_ite | apply kept_ite | apply eqHeadRead_kept
    | apply cqHeadRead_kept | split | extract_lets | apply kept_mk

theorem stopSq_kept {s0 : State} {s : State} {i : Nat} {r : QReason} (hs : Kept s0 s) :
    Kept s0 (stopSq s i r) := by
  unfold stopSq
  repeat' with_reducible first
    | assumption | intro _ | apply kept_ite | apply modSq_kept | split | extract_lets | apply kept_mk

theorem execCqOverflowTimeout_kept {s0 : State} {cq : Nat} {s : State} (hs : Kept s0 s) :
    KeptO s0 (execCqOverflowTimeout cq s) := by
  unfold execCqOverflowTimeout
  repeat' with_reducible first
    | assumption | intro _ | apply keptO_next | apply keptO_ite | apply kept_ite | apply kept_foldl
    | apply raise_kept | apply modHp_kept | apply modCq_kept | apply settleCq_kept | apply eqPost_kept
    | apply stopSq_kept | split | extract_lets | apply kept_foldl_fst | apply kept_foldl_snd | apply kept_mk

theorem execEqModTimerExpire_kept {s0 : State} {eq : Nat} {s : State} (hs : Kept s0 s) :
    KeptO s0 (execEqModTimerExpire eq s) := by
  unfold execEqModTimerExpire
  repeat' with_reducible first
    | assumption | intro _ | apply keptO_next | apply keptO_ite | apply kept_ite | apply modEq_kept | split
    | extract_lets | apply kept_mk

theorem execEqHoldExpire_kept {s0 : State} {eq : Nat} {s : State} (hs : Kept s0 s) :
    KeptO s0 (execEqHoldExpire eq s) := by
  unfold execEqHoldExpire
  repeat' with_reducible first
    | assumption | intro _ | apply keptO_next | apply keptO_ite | apply kept_ite | apply modEq_kept | split
    | extract_lets | apply kept_mk

theorem execEqMessageSend_kept {s0 : State} {eq : Nat} {s : State} (hs : Kept s0 s) :
    KeptO s0 (execEqMessageSend eq s) := by
  unfold execEqMessageSend
  repeat' with_reducible first
    | assumption | intro _ | apply keptO_next | apply keptO_ite | apply kept_ite | apply eqSend_kept | split
    | extract_lets | apply kept_mk

end Sys2Proof.Machine
end

