-- ==== Sys2Proof/Laws/KeptEgress.lean ====
section
/-! SUPPORT. What the operations of Machine/Egress.lean keep (Safety.lean). -/
namespace Sys2Proof.Machine

theorem modEg_kept {s0 : State} {s : State} {p : Nat} {f : EgPort → EgPort} (hs : Kept s0 s) :
    Kept s0 (modEg s p f) := by
  unfold modEg
  repeat' with_reducible first
    | assumption | intro _ | apply kept_ite | split | extract_lets | apply kept_mk

theorem modCls_kept {s0 : State} {s : State} {p : Nat} {c : Nat} {f : EgCls → EgCls} (hs : Kept s0 s) :
    Kept s0 (modCls s p c f) := by
  unfold modCls
  repeat' with_reducible first
    | assumption | intro _ | apply kept_ite | apply modEg_kept | split | extract_lets | apply kept_mk

theorem egCount_kept {s0 : State} {s : State} {p : Nat} {c : Nat} {i : Nat} {n : Nat} (hs : Kept s0 s) :
    Kept s0 (egCount s p c i n) := by
  unfold egCount
  repeat' with_reducible first
    | assumption | intro _ | apply kept_ite | apply cadd_kept | split | extract_lets | apply kept_mk

theorem mftStart_kept {s0 : State} {s : State} {k : FrKind} {count : Option Nat} (hs : Kept s0 s) :
    Kept s0 (mftStart s k count) := by
  unfold mftStart
  repeat' with_reducible first
    | assumption | intro _ | apply kept_ite | split | extract_lets | apply kept_mk

theorem frameGone_kept {s0 : State} {s : State} {f : EFrame} (hs : Kept s0 s) :
    Kept s0 (frameGone s f) := by
  unfold frameGone
  repeat' with_reducible first
    | assumption | intro _ | apply kept_ite | apply finishJob_kept | apply devFree_kept | apply mftStart_kept
    | split | extract_lets | apply kept_mk

theorem creditCheck_kept {s0 : State} {s : State} {p : Nat} {c : Nat} (hs : Kept s0 s) :
    Kept s0 (creditCheck s p c) := by
  unfold creditCheck
  repeat' with_reducible first
    | assumption | intro _ | apply kept_ite | apply modCls_kept | split | extract_lets | apply kept_mk

theorem headCheck_kept {s0 : State} {s : State} {p : Nat} {c : Nat} {e0 : Nat} (hs : Kept s0 s) :
    Kept s0 (headCheck s p c e0) := by
  induction e0 generalizing s p c hs with
  | zero =>
    unfold headCheck
    repeat' with_reducible first
      | assumption | intro _ | apply kept_ite | apply modCls_kept | apply egCount_kept | apply frameGone_kept
      | apply creditCheck_kept | split | extract_lets | apply kept_mk
  | succ k ih =>
    unfold headCheck
    repeat' with_reducible first
      | assumption | intro _ | apply kept_ite | apply ih | apply modCls_kept | apply egCount_kept
      | apply frameGone_kept | apply creditCheck_kept | split | extract_lets | apply kept_mk

theorem egAdmit_kept {s0 : State} {s : State} {p : Nat} {c : Nat} {colour : Nat} {len : Nat} (hs : Kept s0 s) :
    Kept s0 (egAdmit s p c colour len).2 := by
  unfold egAdmit
  repeat' with_reducible first
    | assumption | intro _ | apply kept_ite | apply raiseOnceFor_kept | apply egCount_kept | split | extract_lets
    | apply kept_mk

theorem egEnqueue_kept {s0 : State} {s : State} {p : Nat} {c : Nat} {f : EFrame} (hs : Kept s0 s) :
    Kept s0 (egEnqueue s p c f) := by
  unfold egEnqueue
  repeat' with_reducible first
    | assumption | intro _ | apply kept_ite | apply cadd_kept | apply bufHand_kept | apply modCls_kept
    | apply egCount_kept | apply frameGone_kept | apply headCheck_kept | split | extract_lets | apply kept_mk

theorem egFlush_kept {s0 : State} {s : State} {p : Nat} (hs : Kept s0 s) :
    Kept s0 (egFlush s p) := by
  unfold egFlush
  repeat' with_reducible first
    | assumption | intro _ | apply kept_ite | apply kept_foldl | apply cadd_kept | apply modCls_kept
    | apply frameGone_kept | split | extract_lets | apply kept_mk

theorem egDrop_kept {s0 : State} {s : State} {p : Nat} (hs : Kept s0 s) :
    Kept s0 (egDrop s p) := by
  unfold egDrop
  repeat' with_reducible first
    | assumption | intro _ | apply kept_ite | apply kept_foldl | apply modCls_kept | apply frameGone_kept | split
    | extract_lets | apply kept_mk

theorem commitDead_kept {s0 : State} {s : State} {i : Nat} (hs : Kept s0 s) :
    Kept s0 (commitDead s i) := by
  unfold commitDead
  repeat' with_reducible first
    | assumption | intro _ | apply kept_ite | split | extract_lets | apply kept_mk

theorem sluiceBad_kept {s0 : State} {s : State} {i : Nat} {k : Commit} {b : List Byte} (hs : Kept s0 s) :
    Kept s0 (sluiceBad s i k b) := by
  unfold sluiceBad
  repeat' with_reducible first
    | assumption | intro _ | apply kept_ite | apply cadd_kept | apply raiseOnce_kept | split | extract_lets
    | apply kept_mk

theorem ingressCut_kept {s0 : State} {s : State} {p : Nat} (hs : Kept s0 s) :
    Kept s0 (ingressCut s p) := by
  unfold ingressCut
  repeat' with_reducible first
    | assumption | intro _ | apply kept_ite | apply kept_foldl | apply sluiceBad_kept | split | extract_lets
    | apply kept_foldl_fst | apply kept_foldl_snd | apply kept_mk

theorem egCut_kept {s0 : State} {s : State} {p : Nat} (hs : Kept s0 s) :
    Kept s0 (egCut s p) := by
  unfold egCut
  repeat' with_reducible first
    | assumption | intro _ | apply kept_ite | apply kept_foldl | apply cadd_kept | apply modEg_kept
    | apply frameGone_kept | apply commitDead_kept | split | extract_lets | apply kept_foldl_fst
    | apply kept_foldl_snd | apply kept_mk

theorem schedule_kept {s0 : State} {s : State} {p : Nat} (hs : Kept s0 s) :
    OptAll (fun y => Kept s0 y.2) (schedule s p) := by
  unfold schedule
  repeat' with_reducible first
    | assumption | intro _ | apply optAll_some | exact optAll_none | apply kept_ite | apply modEg_kept | split
    | extract_lets | apply kept_mk

theorem startFrame_kept {s0 : State} {s : State} {p : Nat} {c : Nat} {f : EFrame} {bits : Nat} {ecc : Bool} (hs : Kept
    s0 s) :
    Kept s0 (startFrame s p c f bits ecc) := by
  unfold startFrame
  repeat' with_reducible first
    | assumption | intro _ | apply kept_ite | apply modEg_kept | split | extract_lets | apply kept_mk

theorem resumeP_kept {s0 : State} {s : State} {p : Nat} (hs : Kept s0 s) :
    Kept s0 (resumeP s p) := by
  unfold resumeP
  repeat' with_reducible first
    | assumption | intro _ | apply kept_ite | apply cadd_kept | apply modEg_kept | split | extract_lets
    | apply kept_mk

theorem txStart_kept {s0 : State} {s : State} {p : Nat} {ecc : Ecc} (hs : Kept s0 s) :
    Kept s0 (txStart s p ecc) := by
  unfold txStart
  extract_lets s1
  have h1 : Kept s0 s1 := kept_foldl _ hs fun x a hx => headCheck_kept hx
  clear_value s1
  repeat' with_reducible first
    | assumption | intro _ | apply kept_ite | apply kept_foldl | apply storeMeet_kept | apply modCls_kept
    | apply mftStart_kept | apply creditCheck_kept | apply headCheck_kept | apply schedule_kept
    | apply startFrame_kept | apply resumeP_kept | refine kept_of_some_snd (by assumption) ?_ | split
    | extract_lets | apply kept_mk

theorem countTx_kept {s0 : State} {s : State} {p : Nat} {b : List Byte} (hs : Kept s0 s) :
    Kept s0 (countTx s p b) := by
  unfold countTx
  repeat' with_reducible first
    | assumption | intro _ | apply kept_ite | apply cadd_kept | split | extract_lets | apply kept_mk

theorem frameEnd_kept {s0 : State} {s : State} {p : Nat} {r : TxRun} (hs : Kept s0 s) :
    Kept s0 (frameEnd s p r) := by
  unfold frameEnd
  repeat' with_reducible first
    | assumption | intro _ | apply kept_ite | apply cadd_kept | apply emit_kept | apply raiseOnce_kept
    | apply finishJob_kept | apply devFree_kept | apply egCount_kept | apply countTx_kept | split | extract_lets
    | apply kept_mk

theorem txEnd_kept {s0 : State} {s : State} {p : Nat} (hs : Kept s0 s) :
    Kept s0 (txEnd s p) := by
  unfold txEnd
  repeat' with_reducible first
    | assumption | intro _ | apply kept_ite | apply modEg_kept | apply resumeP_kept | apply frameEnd_kept | split
    | extract_lets | apply kept_mk

theorem overrunMark_kept {s0 : State} {s : State} {p : Nat} {closed : Nat} (hs : Kept s0 s) :
    Kept s0 (overrunMark s p closed) := by
  unfold overrunMark
  repeat' with_reducible first
    | assumption | intro _ | apply kept_ite | apply raiseOnceFor_kept | apply modEg_kept | apply egCount_kept
    | split | extract_lets | apply kept_mk

theorem gateEffects_kept {s0 : State} {s : State} {p : Nat} {oldGates : Nat} {oldHold : Bool} (hs : Kept s0 s) :
    Kept s0 (gateEffects s p oldGates oldHold) := by
  unfold gateEffects
  repeat' with_reducible first
    | assumption | intro _ | apply kept_ite | apply cadd_kept | apply modEg_kept | apply resumeP_kept
    | apply overrunMark_kept | split | extract_lets | apply kept_mk

theorem withGates_kept {s0 : State} {s : State} {p : Nat} {f : State → State} (hs : Kept s0 s) (hf : ∀ x, Kept s0 x →
    Kept s0 (f x)) :
    Kept s0 (withGates s p f) := by
  unfold withGates
  repeat' with_reducible first
    | assumption | intro _ | apply kept_ite | apply hf | apply gateEffects_kept | split | extract_lets
    | apply kept_mk

theorem gateEdge_kept {s0 : State} {s : State} {p : Nat} (hs : Kept s0 s) :
    Kept s0 (gateEdge s p) := by
  unfold gateEdge
  repeat' with_reducible first
    | assumption | intro _ | apply kept_ite | apply modEg_kept | apply withGates_kept | split | extract_lets
    | apply kept_mk

theorem execGateChange_kept {s0 : State} {port : NetPort} {s : State} (hs : Kept s0 s) :
    KeptO s0 (execGateChange port s) := by
  unfold execGateChange
  repeat' with_reducible first
    | assumption | intro _ | apply keptO_next | apply keptO_ite | apply kept_ite | apply gateEdge_kept | split
    | extract_lets | apply kept_mk

theorem putShadow_kept {s0 : State} {s : State} {p : Nat} {len : Nat} {set : List Nat} (hs : Kept s0 s) :
    Kept s0 (putShadow s p len set) := by
  unfold putShadow
  repeat' with_reducible first
    | assumption | intro _ | apply kept_ite | apply kept_foldl | apply rset_kept | apply wr_kept | split
    | extract_lets | apply kept_foldl_fst | apply kept_foldl_snd | apply kept_mk

theorem calArm_kept {s0 : State} {s : State} {lo : Nat} {w : Nat} (hs : Kept s0 s) :
    Kept s0 (calArm s lo w) := by
  unfold calArm
  repeat' with_reducible first
    | assumption | intro _ | apply kept_ite | apply rset_kept | apply wr_kept | apply modEg_kept | split
    | extract_lets | apply kept_mk

theorem execCalArm_kept {s0 : State} {port : HostPort} {value : Word} {s : State} (hs : Kept s0 s) :
    KeptO s0 (execCalArm port value s) := by
  unfold execCalArm
  repeat' with_reducible first
    | assumption | intro _ | apply keptO_next | apply keptO_ite | apply kept_ite | apply regGate_kept
    | apply calArm_kept | split | extract_lets | apply kept_mk

theorem calEdge_kept {s0 : State} {s : State} {p : Nat} (hs : Kept s0 s) :
    Kept s0 (calEdge s p) := by
  unfold calEdge
  repeat' with_reducible first
    | assumption | intro _ | apply kept_ite | apply raise_kept | apply modEg_kept | apply withGates_kept
    | apply putShadow_kept | split | extract_lets | apply kept_mk

theorem execCalCopyEnd_kept {s0 : State} {port : NetPort} {s : State} (hs : Kept s0 s) :
    KeptO s0 (execCalCopyEnd port s) := by
  unfold execCalCopyEnd
  repeat' with_reducible first
    | assumption | intro _ | apply keptO_next | apply keptO_ite | apply kept_ite | apply modEg_kept
    | apply putShadow_kept | split | extract_lets | apply kept_mk

end Sys2Proof.Machine
end

