-- ==== Sys2Proof/Laws/KeptFlowCore.lean ====
section
/-! SUPPORT. What the operations of Machine/FlowCore.lean keep (Safety.lean). -/
namespace Sys2Proof.Machine

theorem modCore_kept {s0 : State} {s : State} {c : Nat} {f : Core → Core} (hs : Kept s0 s) :
    Kept s0 (modCore s c f) := by
  unfold modCore
  repeat' with_reducible first
    | assumption | intro _ | apply kept_ite | split | extract_lets | apply kept_mk

theorem haltClock_kept {s0 : State} {s : State} (hs : Kept s0 s) :
    Kept s0 (haltClock s) := by
  unfold haltClock
  repeat' with_reducible first
    | assumption | intro _ | apply kept_ite | split | extract_lets | apply kept_mk

theorem putThr_kept {s0 : State} {s : State} {c : Nat} {t : Nat} {th : Thr} (hs : Kept s0 s) :
    Kept s0 (putThr s c t th) := by
  unfold putThr
  repeat' with_reducible first
    | assumption | intro _ | apply kept_ite | apply modCore_kept | apply haltClock_kept | split | extract_lets
    | apply kept_mk

theorem modThr_kept {s0 : State} {s : State} {c : Nat} {t : Nat} {f : Thr → Thr} (hs : Kept s0 s) :
    Kept s0 (modThr s c t f) := by
  unfold modThr
  repeat' with_reducible first
    | assumption | intro _ | apply kept_ite | apply putThr_kept | split | extract_lets | apply kept_mk

theorem pmc_kept {s0 : State} {s : State} {c : Nat} {t : Nat} {code : Nat} {n : Nat} (hs : Kept s0 s) :
    Kept s0 (pmc s c t code n) := by
  unfold pmc
  repeat' with_reducible first
    | assumption | intro _ | apply kept_ite | apply kept_foldl | apply cadd_kept | split | extract_lets
    | apply kept_mk

theorem setEvent_kept {s0 : State} {s : State} {c : Nat} {t : Nat} {bits : Nat} (hs : Kept s0 s) :
    Kept s0 (setEvent s c t bits) := by
  unfold setEvent
  repeat' with_reducible first
    | assumption | intro _ | apply kept_ite | apply modThr_kept | split | extract_lets | apply kept_mk

theorem modRing_kept {s0 : State} {s : State} {r : Nat} {f : Ring → Ring} (hs : Kept s0 s) :
    Kept s0 (modRing s r f) := by
  unfold modRing
  repeat' with_reducible first
    | assumption | intro _ | apply kept_ite | split | extract_lets | apply kept_mk

theorem discardDesc_kept {s0 : State} {s : State} {r : Nat} {d : FDesc} {st : Status} {gone : Bool} (hs : Kept s0 s) :
    Kept s0 (discardDesc s r d st gone) := by
  unfold discardDesc
  repeat' with_reducible first
    | assumption | intro _ | apply kept_ite | apply cadd_kept | apply finishJob_kept | apply devFree_kept | split
    | extract_lets | apply kept_mk

theorem ringArrive_kept {s0 : State} {s : State} {r : Nat} {d : FDesc} {untimed : Bool} (hs : Kept s0 s) :
    Kept s0 (ringArrive s r d untimed) := by
  unfold ringArrive
  repeat' with_reducible first
    | assumption | intro _ | apply kept_ite | apply raiseOnce_kept | apply modRing_kept | apply discardDesc_kept
    | split | extract_lets | apply kept_mk

theorem heldFree_kept {s0 : State} {s : State} {c : Nat} {h : Nat} (hs : Kept s0 s) :
    Kept s0 (heldFree s c h) := by
  unfold heldFree
  repeat' with_reducible first
    | assumption | intro _ | apply kept_ite | apply bufFree_kept | refine kept_of_snd (by assumption) ?_ | split
    | extract_lets | apply kept_mk

theorem releaseHeld_kept {s0 : State} {s : State} {c : Nat} {p : Nat → Bool} (hs : Kept s0 s) :
    Kept s0 (releaseHeld s c p) := by
  unfold releaseHeld
  repeat' with_reducible first
    | assumption | intro _ | apply kept_ite | apply kept_foldl | apply modCore_kept | apply heldFree_kept | split
    | extract_lets | apply kept_foldl_fst | apply kept_foldl_snd | apply kept_mk

theorem unhold_kept {s0 : State} {s : State} {cl : Nat} {h : Nat} (hs : Kept s0 s) :
    Kept s0 (unhold s cl h) := by
  unfold unhold
  repeat' with_reducible first
    | assumption | intro _ | apply kept_ite | split | extract_lets | apply kept_mk

theorem discardTaken_kept {s0 : State} {s : State} {x : Inbox} (hs : Kept s0 s) :
    Kept s0 (discardTaken s x) := by
  unfold discardTaken
  repeat' with_reducible first
    | assumption | intro _ | apply kept_ite | apply discardDesc_kept | split | extract_lets | apply kept_mk

theorem returnDescs_kept {s0 : State} {s : State} {c : Nat} {xs : List Inbox} (hs : Kept s0 s) :
    Kept s0 (returnDescs s c xs) := by
  unfold returnDescs
  repeat' with_reducible first
    | assumption | intro _ | apply kept_ite | apply kept_foldl | apply modCore_kept | apply modRing_kept | split
    | extract_lets | apply kept_foldl_fst | apply kept_foldl_snd | apply kept_mk

theorem loadCore_kept {s0 : State} {s : State} {c : Nat} {i : Nat} {bad : List Nat} (hs : Kept s0 s) :
    Kept s0 (loadCore s c i bad) := by
  unfold loadCore
  repeat' with_reducible first
    | assumption | intro _ | apply kept_ite | apply kept_foldl | apply modCore_kept | apply haltClock_kept
    | refine kept_lmem ?_ (memWf_writeMem _ _ _) | split | extract_lets | apply kept_foldl_fst
    | apply kept_foldl_snd | apply kept_mk

theorem coreStopped_kept {s0 : State} {s : State} {c : Nat} (hs : Kept s0 s) :
    Kept s0 (coreStopped s c) := by
  unfold coreStopped
  repeat' with_reducible first
    | assumption | intro _ | apply kept_ite | apply modCore_kept | apply haltClock_kept | split | extract_lets
    | apply kept_mk

theorem clearCore_kept {s0 : State} {s : State} {c : Nat} {st : Status} (hs : Kept s0 s) :
    Kept s0 (clearCore s c st) := by
  unfold clearCore
  repeat' with_reducible first
    | assumption | intro _ | apply kept_ite | apply kept_foldl | apply modCore_kept | apply modRing_kept
    | apply discardDesc_kept | apply releaseHeld_kept | apply discardTaken_kept | split | extract_lets
    | apply kept_foldl_fst | apply kept_foldl_snd | apply kept_mk

theorem restartCore_kept {s0 : State} {s : State} {c : Nat} {mw : Bool} (hs : Kept s0 s) :
    Kept s0 (restartCore s c mw) := by
  unfold restartCore
  repeat' with_reducible first
    | assumption | intro _ | apply kept_ite | apply raise_kept | apply modCore_kept | apply haltClock_kept
    | apply clearCore_kept | split | extract_lets | apply kept_mk

theorem thrFault_kept {s0 : State} {s : State} {c : Nat} {t : Nat} {code : Nat} (hs : Kept s0 s) :
    Kept s0 (thrFault s c t code) := by
  unfold thrFault
  repeat' with_reducible first
    | assumption | intro _ | apply kept_ite | apply raise_kept | apply modCore_kept | apply modThr_kept
    | apply pmc_kept | apply restartCore_kept | split | extract_lets | apply kept_mk

theorem restartThr_kept {s0 : State} {s : State} {c : Nat} {t : Nat} {halted : Bool} (hs : Kept s0 s) :
    Kept s0 (restartThr s c t halted) := by
  unfold restartThr
  repeat' with_reducible first
    | assumption | intro _ | apply kept_ite | apply kept_foldl | apply putThr_kept | apply releaseHeld_kept
    | apply discardTaken_kept | apply returnDescs_kept | refine kept_lmem ?_ (memWf_writeMem _ _ _) | split
    | extract_lets | apply kept_foldl_fst | apply kept_foldl_snd | apply kept_mk

theorem coreStart_kept {s0 : State} {s : State} {c : Nat} {bad : List Nat} (hs : Kept s0 s) :
    Kept s0 (coreStart s c bad) := by
  unfold coreStart
  repeat' with_reducible first
    | assumption | intro _ | apply kept_ite | apply modCore_kept | apply loadCore_kept | split | extract_lets
    | apply kept_mk

theorem execCoreStart_kept {s0 : State} {port : HostPort} {value : Word} {bad : List Nat} {s : State} (hs : Kept s0 s)
    :
    KeptO s0 (execCoreStart port value bad s) := by
  unfold execCoreStart
  repeat' with_reducible first
    | assumption | intro _ | apply keptO_next | apply keptO_ite | apply kept_ite | apply wr_kept
    | apply regGate_kept | apply coreStart_kept | split | extract_lets | apply kept_mk

theorem coreStop_kept {s0 : State} {s : State} {c : Nat} (hs : Kept s0 s) :
    Kept s0 (coreStop s c) := by
  unfold coreStop
  repeat' with_reducible first
    | assumption | intro _ | apply kept_ite | apply modCore_kept | apply coreStopped_kept | split | extract_lets
    | apply kept_mk

theorem execCoreStop_kept {s0 : State} {port : HostPort} {value : Word} {s : State} (hs : Kept s0 s) :
    KeptO s0 (execCoreStop port value s) := by
  unfold execCoreStop
  repeat' with_reducible first
    | assumption | intro _ | apply keptO_next | apply keptO_ite | apply kept_ite | apply wr_kept
    | apply regGate_kept | apply coreStop_kept | split | extract_lets | apply kept_mk

theorem execCoreDrainEnd_kept {s0 : State} {core : CoreId} {s : State} (hs : Kept s0 s) :
    KeptO s0 (execCoreDrainEnd core s) := by
  unfold execCoreDrainEnd
  repeat' with_reducible first
    | assumption | intro _ | apply keptO_next | apply keptO_ite | apply kept_ite | apply coreStopped_kept | split
    | extract_lets | apply kept_mk

theorem execFcStopTimeout_kept {s0 : State} {core : CoreId} {s : State} (hs : Kept s0 s) :
    KeptO s0 (execFcStopTimeout core s) := by
  unfold execFcStopTimeout
  repeat' with_reducible first
    | assumption | intro _ | apply keptO_next | apply keptO_ite | apply kept_ite | apply kept_foldl
    | apply raise_kept | apply releaseHeld_kept | apply discardTaken_kept | apply returnDescs_kept
    | apply coreStopped_kept | split | extract_lets | apply kept_foldl_fst | apply kept_foldl_snd | apply kept_mk

theorem execCoreReloadEnd_kept {s0 : State} {core : CoreId} {bad : List Nat} {s : State} (hs : Kept s0 s) :
    KeptO s0 (execCoreReloadEnd core bad s) := by
  unfold execCoreReloadEnd
  repeat' with_reducible first
    | assumption | intro _ | apply keptO_next | apply keptO_ite | apply kept_ite | apply modCore_kept
    | apply loadCore_kept | apply coreStopped_kept | split | extract_lets | apply kept_mk

theorem execThreadRestart_kept {s0 : State} {core : CoreId} {thread : ThreadId} {s : State} (hs : Kept s0 s) :
    KeptO s0 (execThreadRestart core thread s) := by
  unfold execThreadRestart
  repeat' with_reducible first
    | assumption | intro _ | apply keptO_next | apply keptO_ite | apply kept_ite | apply restartThr_kept | split
    | extract_lets | apply kept_mk

theorem ringCfgWrite_kept {s0 : State} {s : State} {r : Nat} {w : Nat} (hs : Kept s0 s) :
    Kept s0 (ringCfgWrite s r w) := by
  unfold ringCfgWrite
  repeat' with_reducible first
    | assumption | intro _ | apply kept_ite | apply kept_foldl | apply rset_kept | apply wr_kept
    | apply modRing_kept | apply discardDesc_kept | split | extract_lets | apply kept_mk

theorem execRingEnable_kept {s0 : State} {port : HostPort} {value : Word} {s : State} (hs : Kept s0 s) :
    KeptO s0 (execRingEnable port value s) := by
  unfold execRingEnable
  repeat' with_reducible first
    | assumption | intro _ | apply keptO_next | apply keptO_ite | apply kept_ite | apply regGate_kept
    | apply ringCfgWrite_kept | split | extract_lets | apply kept_mk

theorem execRingDisable_kept {s0 : State} {port : HostPort} {value : Word} {s : State} (hs : Kept s0 s) :
    KeptO s0 (execRingDisable port value s) := by
  unfold execRingDisable
  repeat' with_reducible first
    | assumption | intro _ | apply keptO_next | apply keptO_ite | apply kept_ite | apply regGate_kept
    | apply ringCfgWrite_kept | split | extract_lets | apply kept_mk

theorem execInboxDeliver_kept {s0 : State} {ring : Fin 4096} {s : State} (hs : Kept s0 s) :
    KeptO s0 (execInboxDeliver ring s) := by
  unfold execInboxDeliver
  repeat' with_reducible first
    | assumption | intro _ | apply keptO_next | apply keptO_ite | apply kept_ite | apply modCore_kept
    | apply modThr_kept | apply pmc_kept | apply setEvent_kept | apply modRing_kept
    | refine kept_lmem ?_ (memWf_writeMem _ _ _) | split | extract_lets | apply kept_mk

theorem execMutualWait_kept {s0 : State} {core : CoreId} {s : State} (hs : Kept s0 s) :
    KeptO s0 (execMutualWait core s) := by
  unfold execMutualWait
  repeat' with_reducible first
    | assumption | intro _ | apply keptO_next | apply keptO_ite | apply kept_ite | apply modCore_kept
    | apply restartCore_kept | split | extract_lets | apply kept_mk

theorem execWatchdog_kept {s0 : State} {core : CoreId} {thread : ThreadId} {s : State} (hs : Kept s0 s) :
    KeptO s0 (execWatchdog core thread s) := by
  unfold execWatchdog
  repeat' with_reducible first
    | assumption | intro _ | apply keptO_next | apply keptO_ite | apply kept_ite | apply thrFault_kept | split
    | extract_lets | apply kept_mk

theorem execTimerExpire_kept {s0 : State} {core : CoreId} {thread : ThreadId} {s : State} (hs : Kept s0 s) :
    KeptO s0 (execTimerExpire core thread s) := by
  unfold execTimerExpire
  repeat' with_reducible first
    | assumption | intro _ | apply keptO_next | apply keptO_ite | apply kept_ite | apply modThr_kept
    | apply setEvent_kept | split | extract_lets | apply kept_mk

end Sys2Proof.Machine
end

