-- ==== Sys2Proof/Laws/KeptFlowIsa.lean ====
section
/-! SUPPORT. What the operations of Machine/FlowIsa.lean keep (Safety.lean). -/
namespace Sys2Proof.Machine

/-- What an instruction's body keeps. -/
def KeptI (s : State) : Iss → Prop
  | .done t _ => Kept s t
  | .wait t => Kept s t
  | .fault _ => True
  | .lmLost => True
  | .hold => True

theorem keptI_done {s0 t : State} {a : List (Nat × Nat × Bool)} (h : Kept s0 t) : KeptI s0 (.done t a) := h
theorem keptI_wait {s0 t : State} (h : Kept s0 t) : KeptI s0 (.wait t) := h
theorem keptI_fault {s0 : State} {n : Nat} : KeptI s0 (.fault n) := trivial
theorem keptI_lmLost {s0 : State} : KeptI s0 .lmLost := trivial
theorem keptI_hold {s0 : State} : KeptI s0 .hold := trivial

theorem kept_of_done {s0 t : State} {x : Iss} {a : List (Nat × Nat × Bool)} (e : x = .done t a) (h : KeptI s0 x) :
    Kept s0 t := by
  subst e; exact h

theorem kept_of_wait {s0 t : State} {x : Iss} (e : x = .wait t) (h : KeptI s0 x) : Kept s0 t := by
  subst e; exact h

theorem haltMask_kept {s0 : State} {s : State} {c : Nat} {mask : Nat} (hs : Kept s0 s) :
    Kept s0 (haltMask s c mask) := by
  unfold haltMask
  repeat' with_reducible first
    | assumption | intro _ | apply kept_ite | apply kept_foldl | apply modThr_kept | split | extract_lets
    | apply kept_mk

theorem wpApply_kept {s0 : State} {s : State} {c : Nat} {t : Nat} {acc : List (Nat × Nat × Bool)} (hs : Kept s0 s) :
    Kept s0 (wpApply s c t acc) := by
  unfold wpApply
  repeat' with_reducible first
    | assumption | intro _ | apply kept_ite | apply modThr_kept | apply haltMask_kept | split | extract_lets
    | apply kept_mk

theorem issued_kept {s0 : State} {s : State} {c : Nat} {t : Nat} (hs : Kept s0 s) :
    Kept s0 (issued s c t) := by
  unfold issued
  repeat' with_reducible first
    | assumption | intro _ | apply kept_ite | apply cadd_kept | apply modCore_kept | apply pmc_kept | split
    | extract_lets | apply kept_mk

theorem retired_kept {s0 : State} {s : State} {c : Nat} {t : Nat} (hs : Kept s0 s) :
    Kept s0 (retired s c t) := by
  unfold retired
  repeat' with_reducible first
    | assumption | intro _ | apply kept_ite | apply modThr_kept | apply issued_kept | split | extract_lets
    | apply kept_mk

theorem issue_kept {s0 : State} {s : State} {c : Nat} {t : Nat} {want : FcOp} {body : State → Thr → FcI → Iss} (hs :
    Kept s0 s) (hbody : ∀ x a0 a1, Kept s0 x → KeptI s0 (body x a0 a1)) :
    Kept s0 (issue s c t want body) := by
  unfold issue
  repeat' with_reducible first
    | assumption | intro _ | apply keptI_done | apply keptI_wait | exact keptI_fault | exact keptI_lmLost
    | exact keptI_hold | apply kept_ite | apply hbody | apply cadd_kept | apply raise_kept | apply coreWear_kept
    | apply modThr_kept | apply thrFault_kept | apply haltMask_kept | apply wpApply_kept | apply issued_kept
    | apply retired_kept | refine kept_of_done (by assumption) ?_ | refine kept_of_wait (by assumption) ?_ | split
    | extract_lets | apply kept_mk

theorem lmCheck_kept {s0 : State} {s : State} {c : Nat} {lm : LmErr} {f : State → Iss} (hs : Kept s0 s) (hf : ∀ x,
    Kept s0 x → KeptI s0 (f x)) :
    KeptI s0 (lmCheck s c lm f) := by
  unfold lmCheck
  repeat' with_reducible first
    | assumption | intro _ | apply keptI_done | apply keptI_wait | exact keptI_fault | exact keptI_lmLost
    | exact keptI_hold | apply kept_ite | apply hf | apply coreWear_kept | refine kept_of_done (by assumption) ?_
    | refine kept_of_wait (by assumption) ?_ | split | extract_lets | apply kept_mk

theorem next1_kept {s0 : State} {s : State} {c : Nat} {t : Nat} {th : Thr} (hs : Kept s0 s) :
    Kept s0 (next1 s c t th) := by
  unfold next1
  repeat' with_reducible first
    | assumption | intro _ | apply kept_ite | apply putThr_kept | split | extract_lets | apply kept_mk

theorem nextHeld_kept {s0 : State} {s : State} {c : Nat} {t : Nat} {th : Thr} (hs : Kept s0 s) :
    Kept s0 (nextHeld s c t th) := by
  unfold nextHeld
  repeat' with_reducible first
    | assumption | intro _ | apply kept_ite | apply next1_kept | split | extract_lets | apply kept_mk

theorem alu_kept {s0 : State} {s : State} {core : CoreId} {thread : ThreadId} {op : FcOp} {f : DWord → DWord → DWord}
    (hs : Kept s0 s) :
    Kept s0 (alu s core thread op f) := by
  unfold alu
  repeat' with_reducible first
    | assumption | intro _ | apply keptI_done | apply keptI_wait | exact keptI_fault | exact keptI_lmLost
    | exact keptI_hold | apply kept_ite | apply issue_kept | apply next1_kept | split | extract_lets
    | apply kept_mk

theorem aluB_kept {s0 : State} {s : State} {core : CoreId} {thread : ThreadId} {op : FcOp} {f : DWord → FcI → DWord}
    (hs : Kept s0 s) :
    Kept s0 (aluB s core thread op f) := by
  unfold aluB
  repeat' with_reducible first
    | assumption | intro _ | apply keptI_done | apply keptI_wait | exact keptI_fault | exact keptI_lmLost
    | exact keptI_hold | apply kept_ite | apply issue_kept | apply next1_kept | split | extract_lets
    | apply kept_mk

theorem execAdd_kept {s0 : State} {core : CoreId} {thread : ThreadId} {s : State} (hs : Kept s0 s) :
    KeptO s0 (execAdd core thread s) := by
  unfold execAdd
  repeat' with_reducible first
    | assumption | intro _ | apply keptO_next | apply keptO_ite | apply kept_ite | apply alu_kept | split
    | extract_lets | apply kept_mk

theorem execSub_kept {s0 : State} {core : CoreId} {thread : ThreadId} {s : State} (hs : Kept s0 s) :
    KeptO s0 (execSub core thread s) := by
  unfold execSub
  repeat' with_reducible first
    | assumption | intro _ | apply keptO_next | apply keptO_ite | apply kept_ite | apply alu_kept | split
    | extract_lets | apply kept_mk

theorem execAnd_kept {s0 : State} {core : CoreId} {thread : ThreadId} {s : State} (hs : Kept s0 s) :
    KeptO s0 (execAnd core thread s) := by
  unfold execAnd
  repeat' with_reducible first
    | assumption | intro _ | apply keptO_next | apply keptO_ite | apply kept_ite | apply alu_kept | split
    | extract_lets | apply kept_mk

theorem execOr_kept {s0 : State} {core : CoreId} {thread : ThreadId} {s : State} (hs : Kept s0 s) :
    KeptO s0 (execOr core thread s) := by
  unfold execOr
  repeat' with_reducible first
    | assumption | intro _ | apply keptO_next | apply keptO_ite | apply kept_ite | apply alu_kept | split
    | extract_lets | apply kept_mk

theorem execXor_kept {s0 : State} {core : CoreId} {thread : ThreadId} {s : State} (hs : Kept s0 s) :
    KeptO s0 (execXor core thread s) := by
  unfold execXor
  repeat' with_reducible first
    | assumption | intro _ | apply keptO_next | apply keptO_ite | apply kept_ite | apply alu_kept | split
    | extract_lets | apply kept_mk

theorem execSll_kept {s0 : State} {core : CoreId} {thread : ThreadId} {s : State} (hs : Kept s0 s) :
    KeptO s0 (execSll core thread s) := by
  unfold execSll
  repeat' with_reducible first
    | assumption | intro _ | apply keptO_next | apply keptO_ite | apply kept_ite | apply alu_kept | split
    | extract_lets | apply kept_mk

theorem execSrl_kept {s0 : State} {core : CoreId} {thread : ThreadId} {s : State} (hs : Kept s0 s) :
    KeptO s0 (execSrl core thread s) := by
  unfold execSrl
  repeat' with_reducible first
    | assumption | intro _ | apply keptO_next | apply keptO_ite | apply kept_ite | apply alu_kept | split
    | extract_lets | apply kept_mk

theorem execSra_kept {s0 : State} {core : CoreId} {thread : ThreadId} {s : State} (hs : Kept s0 s) :
    KeptO s0 (execSra core thread s) := by
  unfold execSra
  repeat' with_reducible first
    | assumption | intro _ | apply keptO_next | apply keptO_ite | apply kept_ite | apply alu_kept | split
    | extract_lets | apply kept_mk

theorem execSlt_kept {s0 : State} {core : CoreId} {thread : ThreadId} {s : State} (hs : Kept s0 s) :
    KeptO s0 (execSlt core thread s) := by
  unfold execSlt
  repeat' with_reducible first
    | assumption | intro _ | apply keptO_next | apply keptO_ite | apply kept_ite | apply alu_kept | split
    | extract_lets | apply kept_mk

theorem execSltu_kept {s0 : State} {core : CoreId} {thread : ThreadId} {s : State} (hs : Kept s0 s) :
    KeptO s0 (execSltu core thread s) := by
  unfold execSltu
  repeat' with_reducible first
    | assumption | intro _ | apply keptO_next | apply keptO_ite | apply kept_ite | apply alu_kept | split
    | extract_lets | apply kept_mk

theorem execMul_kept {s0 : State} {core : CoreId} {thread : ThreadId} {s : State} (hs : Kept s0 s) :
    KeptO s0 (execMul core thread s) := by
  unfold execMul
  repeat' with_reducible first
    | assumption | intro _ | apply keptO_next | apply keptO_ite | apply kept_ite | apply alu_kept | split
    | extract_lets | apply kept_mk

theorem execMulhu_kept {s0 : State} {core : CoreId} {thread : ThreadId} {s : State} (hs : Kept s0 s) :
    KeptO s0 (execMulhu core thread s) := by
  unfold execMulhu
  repeat' with_reducible first
    | assumption | intro _ | apply keptO_next | apply keptO_ite | apply kept_ite | apply alu_kept | split
    | extract_lets | apply kept_mk

theorem execDivu_kept {s0 : State} {core : CoreId} {thread : ThreadId} {s : State} (hs : Kept s0 s) :
    KeptO s0 (execDivu core thread s) := by
  unfold execDivu
  repeat' with_reducible first
    | assumption | intro _ | apply keptO_next | apply keptO_ite | apply kept_ite | apply alu_kept | split
    | extract_lets | apply kept_mk

theorem execRemu_kept {s0 : State} {core : CoreId} {thread : ThreadId} {s : State} (hs : Kept s0 s) :
    KeptO s0 (execRemu core thread s) := by
  unfold execRemu
  repeat' with_reducible first
    | assumption | intro _ | apply keptO_next | apply keptO_ite | apply kept_ite | apply alu_kept | split
    | extract_lets | apply kept_mk

theorem execClz_kept {s0 : State} {core : CoreId} {thread : ThreadId} {s : State} (hs : Kept s0 s) :
    KeptO s0 (execClz core thread s) := by
  unfold execClz
  repeat' with_reducible first
    | assumption | intro _ | apply keptO_next | apply keptO_ite | apply kept_ite | apply alu_kept | split
    | extract_lets | apply kept_mk

theorem execPopc_kept {s0 : State} {core : CoreId} {thread : ThreadId} {s : State} (hs : Kept s0 s) :
    KeptO s0 (execPopc core thread s) := by
  unfold execPopc
  repeat' with_reducible first
    | assumption | intro _ | apply keptO_next | apply keptO_ite | apply kept_ite | apply alu_kept | split
    | extract_lets | apply kept_mk

theorem execAddi_kept {s0 : State} {core : CoreId} {thread : ThreadId} {s : State} (hs : Kept s0 s) :
    KeptO s0 (execAddi core thread s) := by
  unfold execAddi
  repeat' with_reducible first
    | assumption | intro _ | apply keptO_next | apply keptO_ite | apply kept_ite | apply aluB_kept | split
    | extract_lets | apply kept_mk

theorem execExtu_kept {s0 : State} {core : CoreId} {thread : ThreadId} {s : State} (hs : Kept s0 s) :
    KeptO s0 (execExtu core thread s) := by
  unfold execExtu
  repeat' with_reducible first
    | assumption | intro _ | apply keptO_next | apply keptO_ite | apply kept_ite | apply aluB_kept | split
    | extract_lets | apply kept_mk

theorem execAndi_kept {s0 : State} {core : CoreId} {thread : ThreadId} {s : State} (hs : Kept s0 s) :
    KeptO s0 (execAndi core thread s) := by
  unfold execAndi
  repeat' with_reducible first
    | assumption | intro _ | apply keptO_next | apply keptO_ite | apply kept_ite | apply aluB_kept | split
    | extract_lets | apply kept_mk

theorem execOri_kept {s0 : State} {core : CoreId} {thread : ThreadId} {s : State} (hs : Kept s0 s) :
    KeptO s0 (execOri core thread s) := by
  unfold execOri
  repeat' with_reducible first
    | assumption | intro _ | apply keptO_next | apply keptO_ite | apply kept_ite | apply aluB_kept | split
    | extract_lets | apply kept_mk

theorem execXori_kept {s0 : State} {core : CoreId} {thread : ThreadId} {s : State} (hs : Kept s0 s) :
    KeptO s0 (execXori core thread s) := by
  unfold execXori
  repeat' with_reducible first
    | assumption | intro _ | apply keptO_next | apply keptO_ite | apply kept_ite | apply aluB_kept | split
    | extract_lets | apply kept_mk

theorem execShi_kept {s0 : State} {core : CoreId} {thread : ThreadId} {s : State} (hs : Kept s0 s) :
    KeptO s0 (execShi core thread s) := by
  unfold execShi
  repeat' with_reducible first
    | assumption | intro _ | apply keptO_next | apply keptO_ite | apply kept_ite | apply aluB_kept | split
    | extract_lets | apply kept_mk

theorem execHwset_kept {s0 : State} {core : CoreId} {thread : ThreadId} {s : State} (hs : Kept s0 s) :
    KeptO s0 (execHwset core thread s) := by
  unfold execHwset
  repeat' with_reducible first
    | assumption | intro _ | apply keptO_next | apply keptO_ite | apply kept_ite | apply aluB_kept | split
    | extract_lets | apply kept_mk

theorem execHwins_kept {s0 : State} {core : CoreId} {thread : ThreadId} {s : State} (hs : Kept s0 s) :
    KeptO s0 (execHwins core thread s) := by
  unfold execHwins
  repeat' with_reducible first
    | assumption | intro _ | apply keptI_done | apply keptI_wait | exact keptI_fault | exact keptI_lmLost
    | exact keptI_hold | apply keptO_next | apply keptO_ite | apply kept_ite | apply issue_kept | apply next1_kept
    | split | extract_lets | apply kept_mk

theorem branch_kept {s0 : State} {s : State} {core : CoreId} {thread : ThreadId} {op : FcOp} {p : DWord → DWord →
    Bool} (hs : Kept s0 s) :
    Kept s0 (branch s core thread op p) := by
  unfold branch
  repeat' with_reducible first
    | assumption | intro _ | apply keptI_done | apply keptI_wait | exact keptI_fault | exact keptI_lmLost
    | exact keptI_hold | apply kept_ite | apply putThr_kept | apply issue_kept | split | extract_lets
    | apply kept_mk

theorem execBeq_kept {s0 : State} {core : CoreId} {thread : ThreadId} {s : State} (hs : Kept s0 s) :
    KeptO s0 (execBeq core thread s) := by
  unfold execBeq
  repeat' with_reducible first
    | assumption | intro _ | apply keptO_next | apply keptO_ite | apply kept_ite | apply branch_kept | split
    | extract_lets | apply kept_mk

theorem execBne_kept {s0 : State} {core : CoreId} {thread : ThreadId} {s : State} (hs : Kept s0 s) :
    KeptO s0 (execBne core thread s) := by
  unfold execBne
  repeat' with_reducible first
    | assumption | intro _ | apply keptO_next | apply keptO_ite | apply kept_ite | apply branch_kept | split
    | extract_lets | apply kept_mk

theorem execBlt_kept {s0 : State} {core : CoreId} {thread : ThreadId} {s : State} (hs : Kept s0 s) :
    KeptO s0 (execBlt core thread s) := by
  unfold execBlt
  repeat' with_reducible first
    | assumption | intro _ | apply keptO_next | apply keptO_ite | apply kept_ite | apply branch_kept | split
    | extract_lets | apply kept_mk

theorem execBge_kept {s0 : State} {core : CoreId} {thread : ThreadId} {s : State} (hs : Kept s0 s) :
    KeptO s0 (execBge core thread s) := by
  unfold execBge
  repeat' with_reducible first
    | assumption | intro _ | apply keptO_next | apply keptO_ite | apply kept_ite | apply branch_kept | split
    | extract_lets | apply kept_mk

theorem execBltu_kept {s0 : State} {core : CoreId} {thread : ThreadId} {s : State} (hs : Kept s0 s) :
    KeptO s0 (execBltu core thread s) := by
  unfold execBltu
  repeat' with_reducible first
    | assumption | intro _ | apply keptO_next | apply keptO_ite | apply kept_ite | apply branch_kept | split
    | extract_lets | apply kept_mk

theorem execBgeu_kept {s0 : State} {core : CoreId} {thread : ThreadId} {s : State} (hs : Kept s0 s) :
    KeptO s0 (execBgeu core thread s) := by
  unfold execBgeu
  repeat' with_reducible first
    | assumption | intro _ | apply keptO_next | apply keptO_ite | apply kept_ite | apply branch_kept | split
    | extract_lets | apply kept_mk

theorem execJ_kept {s0 : State} {core : CoreId} {thread : ThreadId} {s : State} (hs : Kept s0 s) :
    KeptO s0 (execJ core thread s) := by
  unfold execJ
  repeat' with_reducible first
    | assumption | intro _ | apply keptI_done | apply keptI_wait | exact keptI_fault | exact keptI_lmLost
    | exact keptI_hold | apply keptO_next | apply keptO_ite | apply kept_ite | apply putThr_kept | apply issue_kept
    | split | extract_lets | apply kept_mk

theorem execJal_kept {s0 : State} {core : CoreId} {thread : ThreadId} {s : State} (hs : Kept s0 s) :
    KeptO s0 (execJal core thread s) := by
  unfold execJal
  repeat' with_reducible first
    | assumption | intro _ | apply keptI_done | apply keptI_wait | exact keptI_fault | exact keptI_lmLost
    | exact keptI_hold | apply keptO_next | apply keptO_ite | apply kept_ite | apply putThr_kept | apply issue_kept
    | split | extract_lets | apply kept_mk

theorem execJalr_kept {s0 : State} {core : CoreId} {thread : ThreadId} {s : State} (hs : Kept s0 s) :
    KeptO s0 (execJalr core thread s) := by
  unfold execJalr
  repeat' with_reducible first
    | assumption | intro _ | apply keptI_done | apply keptI_wait | exact keptI_fault | exact keptI_lmLost
    | exact keptI_hold | apply keptO_next | apply keptO_ite | apply kept_ite | apply putThr_kept | apply issue_kept
    | split | extract_lets | apply kept_mk

theorem execMfsr_kept {s0 : State} {core : CoreId} {thread : ThreadId} {s : State} (hs : Kept s0 s) :
    KeptO s0 (execMfsr core thread s) := by
  unfold execMfsr
  repeat' with_reducible first
    | assumption | intro _ | apply keptI_done | apply keptI_wait | exact keptI_fault | exact keptI_lmLost
    | exact keptI_hold | apply keptO_next | apply keptO_ite | apply kept_ite | apply issue_kept | apply next1_kept
    | split | extract_lets | apply kept_mk

theorem execFtread_kept {s0 : State} {core : CoreId} {thread : ThreadId} {s : State} (hs : Kept s0 s) :
    KeptO s0 (execFtread core thread s) := by
  unfold execFtread
  repeat' with_reducible first
    | assumption | intro _ | apply keptI_done | apply keptI_wait | exact keptI_fault | exact keptI_lmLost
    | exact keptI_hold | apply keptO_next | apply keptO_ite | apply kept_ite | apply issue_kept | apply next1_kept
    | split | extract_lets | apply kept_mk

theorem lmWrite_kept {s0 : State} {s : State} {c : Nat} {a : Nat} {b : List Byte} (hs : Kept s0 s) :
    Kept s0 (lmWrite s c a b) := by
  unfold lmWrite
  repeat' with_reducible first
    | assumption | intro _ | apply kept_ite | refine kept_lmem ?_ (memWf_writeMem _ _ _) | split | extract_lets
    | apply kept_mk

theorem takeInbox_kept {s0 : State} {s : State} {c : Nat} {t : Nat} (hs : Kept s0 s) :
    Kept s0 (takeInbox s c t) := by
  unfold takeInbox
  repeat' with_reducible first
    | assumption | intro _ | apply kept_ite | apply modThr_kept | split | extract_lets | apply kept_mk

theorem load_kept {s0 : State} {s : State} {core : CoreId} {thread : ThreadId} {op : FcOp} {n : Nat} {be : Bool} {lm :
    LmErr} (hs : Kept s0 s) :
    Kept s0 (load s core thread op n be lm) := by
  unfold load
  repeat' with_reducible first
    | assumption | intro _ | apply keptI_done | apply keptI_wait | exact keptI_fault | exact keptI_lmLost
    | exact keptI_hold | apply kept_ite | apply issue_kept | apply lmCheck_kept | apply next1_kept | split
    | extract_lets | apply kept_mk

theorem store_kept {s0 : State} {s : State} {core : CoreId} {thread : ThreadId} {op : FcOp} {n : Nat} {be : Bool} {lm
    : LmErr} (hs : Kept s0 s) :
    Kept s0 (store s core thread op n be lm) := by
  unfold store
  repeat' with_reducible first
    | assumption | intro _ | apply keptI_done | apply keptI_wait | exact keptI_fault | exact keptI_lmLost
    | exact keptI_hold | apply kept_ite | apply issue_kept | apply lmCheck_kept | apply next1_kept
    | apply lmWrite_kept | apply takeInbox_kept | split | extract_lets | apply kept_mk

theorem execLdb_kept {s0 : State} {core : CoreId} {thread : ThreadId} {lm : LmErr} {s : State} (hs : Kept s0 s) :
    KeptO s0 (execLdb core thread lm s) := by
  unfold execLdb
  repeat' with_reducible first
    | assumption | intro _ | apply keptO_next | apply keptO_ite | apply kept_ite | apply load_kept | split
    | extract_lets | apply kept_mk

theorem execLdh_kept {s0 : State} {core : CoreId} {thread : ThreadId} {lm : LmErr} {s : State} (hs : Kept s0 s) :
    KeptO s0 (execLdh core thread lm s) := by
  unfold execLdh
  repeat' with_reducible first
    | assumption | intro _ | apply keptO_next | apply keptO_ite | apply kept_ite | apply load_kept | split
    | extract_lets | apply kept_mk

theorem execLdw_kept {s0 : State} {core : CoreId} {thread : ThreadId} {lm : LmErr} {s : State} (hs : Kept s0 s) :
    KeptO s0 (execLdw core thread lm s) := by
  unfold execLdw
  repeat' with_reducible first
    | assumption | intro _ | apply keptO_next | apply keptO_ite | apply kept_ite | apply load_kept | split
    | extract_lets | apply kept_mk

theorem execLdd_kept {s0 : State} {core : CoreId} {thread : ThreadId} {lm : LmErr} {s : State} (hs : Kept s0 s) :
    KeptO s0 (execLdd core thread lm s) := by
  unfold execLdd
  repeat' with_reducible first
    | assumption | intro _ | apply keptO_next | apply keptO_ite | apply kept_ite | apply load_kept | split
    | extract_lets | apply kept_mk

theorem execLdhs_kept {s0 : State} {core : CoreId} {thread : ThreadId} {lm : LmErr} {s : State} (hs : Kept s0 s) :
    KeptO s0 (execLdhs core thread lm s) := by
  unfold execLdhs
  repeat' with_reducible first
    | assumption | intro _ | apply keptO_next | apply keptO_ite | apply kept_ite | apply load_kept | split
    | extract_lets | apply kept_mk

theorem execLdws_kept {s0 : State} {core : CoreId} {thread : ThreadId} {lm : LmErr} {s : State} (hs : Kept s0 s) :
    KeptO s0 (execLdws core thread lm s) := by
  unfold execLdws
  repeat' with_reducible first
    | assumption | intro _ | apply keptO_next | apply keptO_ite | apply kept_ite | apply load_kept | split
    | extract_lets | apply kept_mk

theorem execLdds_kept {s0 : State} {core : CoreId} {thread : ThreadId} {lm : LmErr} {s : State} (hs : Kept s0 s) :
    KeptO s0 (execLdds core thread lm s) := by
  unfold execLdds
  repeat' with_reducible first
    | assumption | intro _ | apply keptO_next | apply keptO_ite | apply kept_ite | apply load_kept | split
    | extract_lets | apply kept_mk

theorem execStb_kept {s0 : State} {core : CoreId} {thread : ThreadId} {lm : LmErr} {s : State} (hs : Kept s0 s) :
    KeptO s0 (execStb core thread lm s) := by
  unfold execStb
  repeat' with_reducible first
    | assumption | intro _ | apply keptO_next | apply keptO_ite | apply kept_ite | apply store_kept | split
    | extract_lets | apply kept_mk

theorem execSth_kept {s0 : State} {core : CoreId} {thread : ThreadId} {lm : LmErr} {s : State} (hs : Kept s0 s) :
    KeptO s0 (execSth core thread lm s) := by
  unfold execSth
  repeat' with_reducible first
    | assumption | intro _ | apply keptO_next | apply keptO_ite | apply kept_ite | apply store_kept | split
    | extract_lets | apply kept_mk

theorem execStw_kept {s0 : State} {core : CoreId} {thread : ThreadId} {lm : LmErr} {s : State} (hs : Kept s0 s) :
    KeptO s0 (execStw core thread lm s) := by
  unfold execStw
  repeat' with_reducible first
    | assumption | intro _ | apply keptO_next | apply keptO_ite | apply kept_ite | apply store_kept | split
    | extract_lets | apply kept_mk

theorem execStd_kept {s0 : State} {core : CoreId} {thread : ThreadId} {lm : LmErr} {s : State} (hs : Kept s0 s) :
    KeptO s0 (execStd core thread lm s) := by
  unfold execStd
  repeat' with_reducible first
    | assumption | intro _ | apply keptO_next | apply keptO_ite | apply kept_ite | apply store_kept | split
    | extract_lets | apply kept_mk

theorem execSths_kept {s0 : State} {core : CoreId} {thread : ThreadId} {lm : LmErr} {s : State} (hs : Kept s0 s) :
    KeptO s0 (execSths core thread lm s) := by
  unfold execSths
  repeat' with_reducible first
    | assumption | intro _ | apply keptO_next | apply keptO_ite | apply kept_ite | apply store_kept | split
    | extract_lets | apply kept_mk

theorem execStws_kept {s0 : State} {core : CoreId} {thread : ThreadId} {lm : LmErr} {s : State} (hs : Kept s0 s) :
    KeptO s0 (execStws core thread lm s) := by
  unfold execStws
  repeat' with_reducible first
    | assumption | intro _ | apply keptO_next | apply keptO_ite | apply kept_ite | apply store_kept | split
    | extract_lets | apply kept_mk

theorem execEvwait_kept {s0 : State} {core : CoreId} {thread : ThreadId} {s : State} (hs : Kept s0 s) :
    KeptO s0 (execEvwait core thread s) := by
  unfold execEvwait
  repeat' with_reducible first
    | assumption | intro _ | apply keptI_done | apply keptI_wait | exact keptI_fault | exact keptI_lmLost
    | exact keptI_hold | apply keptO_next | apply keptO_ite | apply kept_ite | apply putThr_kept
    | apply issued_kept | apply issue_kept | apply next1_kept | split | extract_lets | apply kept_mk

theorem execEvsend_kept {s0 : State} {core : CoreId} {thread : ThreadId} {s : State} (hs : Kept s0 s) :
    KeptO s0 (execEvsend core thread s) := by
  unfold execEvsend
  repeat' with_reducible first
    | assumption | intro _ | apply keptI_done | apply keptI_wait | exact keptI_fault | exact keptI_lmLost
    | exact keptI_hold | apply keptO_next | apply keptO_ite | apply kept_ite | apply pmc_kept | apply setEvent_kept
    | apply issue_kept | apply next1_kept | split | extract_lets | apply kept_mk

theorem execTmset_kept {s0 : State} {core : CoreId} {thread : ThreadId} {s : State} (hs : Kept s0 s) :
    KeptO s0 (execTmset core thread s) := by
  unfold execTmset
  repeat' with_reducible first
    | assumption | intro _ | apply keptI_done | apply keptI_wait | exact keptI_fault | exact keptI_lmLost
    | exact keptI_hold | apply keptO_next | apply keptO_ite | apply kept_ite | apply issue_kept | apply next1_kept
    | split | extract_lets | apply kept_mk

theorem stallOn_kept {s0 : State} {s : State} {core : CoreId} {thread : ThreadId} {op : FcOp} (hs : Kept s0 s) :
    Kept s0 (stallOn s core thread op) := by
  unfold stallOn
  repeat' with_reducible first
    | assumption | intro _ | apply keptI_done | apply keptI_wait | exact keptI_fault | exact keptI_lmLost
    | exact keptI_hold | apply kept_ite | apply putThr_kept | apply issued_kept | apply issue_kept | split
    | extract_lets | apply kept_mk

theorem execHmap_kept {s0 : State} {core : CoreId} {thread : ThreadId} {s : State} (hs : Kept s0 s) :
    KeptO s0 (execHmap core thread s) := by
  unfold execHmap
  repeat' with_reducible first
    | assumption | intro _ | apply keptO_next | apply keptO_ite | apply kept_ite | apply stallOn_kept | split
    | extract_lets | apply kept_mk

theorem execHput_kept {s0 : State} {core : CoreId} {thread : ThreadId} {s : State} (hs : Kept s0 s) :
    KeptO s0 (execHput core thread s) := by
  unfold execHput
  repeat' with_reducible first
    | assumption | intro _ | apply keptO_next | apply keptO_ite | apply kept_ite | apply stallOn_kept | split
    | extract_lets | apply kept_mk

theorem execBalloc_kept {s0 : State} {core : CoreId} {thread : ThreadId} {s : State} (hs : Kept s0 s) :
    KeptO s0 (execBalloc core thread s) := by
  unfold execBalloc
  repeat' with_reducible first
    | assumption | intro _ | apply keptO_next | apply keptO_ite | apply kept_ite | apply stallOn_kept | split
    | extract_lets | apply kept_mk

theorem hmapCopy_kept {s0 : State} {s : State} {c : Nat} {t : Nat} {th : Thr} {i : FcI} {ecc : Ecc} (hs : Kept s0 s) :
    Kept s0 (hmapCopy s c t th i ecc).2 := by
  unfold hmapCopy
  repeat' with_reducible first
    | assumption | intro _ | apply kept_ite | apply storeTouch_kept | apply storeEcc_kept | apply pmc_kept
    | apply lmWrite_kept | split | extract_lets | apply kept_mk

theorem hputCopy_kept {s0 : State} {s : State} {c : Nat} {t : Nat} {th : Thr} {i : FcI} {ecc : Ecc} {lm : LmErr} (hs :
    Kept s0 s) :
    Kept s0 (hputCopy s c t th i ecc lm).2 := by
  unfold hputCopy
  repeat' with_reducible first
    | assumption | intro _ | apply kept_ite | apply coreWear_kept | apply storeEcc_kept | apply storeWrite_kept
    | split | extract_lets | apply kept_mk

theorem ballocRun_kept {s0 : State} {s : State} {c : Nat} {t : Nat} {th : Thr} {i : FcI} (hs : Kept s0 s) :
    Kept s0 (ballocRun s c t th i).1 := by
  unfold ballocRun
  repeat' with_reducible first
    | assumption | intro _ | apply kept_ite | apply allocFrom_kept | apply alloc_kept | apply modCore_kept
    | apply pmc_kept | refine kept_of_snd (by assumption) ?_ | split | extract_lets | apply kept_mk

theorem execStalledInstructionEnd_kept {s0 : State} {core : CoreId} {thread : ThreadId} {ecc : Ecc} {lm : LmErr} {s :
    State} (hs : Kept s0 s) : KeptO s0 (execStalledInstructionEnd core thread ecc lm s) := by
  unfold execStalledInstructionEnd
  extract_lets c t th
  split
  · exact keptO_next hs
  · split
    · exact keptO_next hs
    · rename_i i _
      split
      · exact keptO_next hs
      extract_lets r e
      have hr : Kept s0 r.1 := ballocRun_kept hs
      clear_value r
      have he : Kept s0 e.2 := by
        show Kept s0 (match i.op with
          | .hmap => hmapCopy s c t th i ecc
          | .hput => hputCopy s c t th i ecc lm
          | _ => (.ok r.2, r.1)).2
        split
        · exact hmapCopy_kept hs
        · exact hputCopy_kept hs
        · exact hr
      clear_value e
      split
      · exact keptO_next (thrFault_kept he)
      · extract_lets
        exact keptO_next (wpApply_kept (modThr_kept (modThr_kept he)))

theorem execBfree_kept {s0 : State} {core : CoreId} {thread : ThreadId} {s : State} (hs : Kept s0 s) :
    KeptO s0 (execBfree core thread s) := by
  unfold execBfree
  repeat' with_reducible first
    | assumption | intro _ | apply keptI_done | apply keptI_wait | exact keptI_fault | exact keptI_lmLost
    | exact keptI_hold | apply keptO_next | apply keptO_ite | apply kept_ite | apply bufFree_kept | apply pmc_kept
    | apply unhold_kept | apply issue_kept | apply next1_kept | apply nextHeld_kept
    | refine kept_of_snd (by assumption) ?_ | split | extract_lets | apply kept_mk

theorem execBxfer_kept {s0 : State} {core : CoreId} {thread : ThreadId} {s : State} (hs : Kept s0 s) :
    KeptO s0 (execBxfer core thread s) := by
  unfold execBxfer
  repeat' with_reducible first
    | assumption | intro _ | apply keptI_done | apply keptI_wait | exact keptI_fault | exact keptI_lmLost
    | exact keptI_hold | apply keptO_next | apply keptO_ite | apply kept_ite | apply bufTransfer_kept
    | apply modCore_kept | apply pmc_kept | apply unhold_kept | apply issue_kept | apply next1_kept
    | apply nextHeld_kept | refine kept_of_snd (by assumption) ?_ | split | extract_lets | apply kept_mk

theorem execCsum_kept {s0 : State} {core : CoreId} {thread : ThreadId} {lm : LmErr} {s : State} (hs : Kept s0 s) :
    KeptO s0 (execCsum core thread lm s) := by
  unfold execCsum
  repeat' with_reducible first
    | assumption | intro _ | apply keptI_done | apply keptI_wait | exact keptI_fault | exact keptI_lmLost
    | exact keptI_hold | apply keptO_next | apply keptO_ite | apply kept_ite | apply bumpFree_kept
    | apply issue_kept | apply lmCheck_kept | apply next1_kept | split | extract_lets | apply kept_mk

theorem execChw_kept {s0 : State} {core : CoreId} {thread : ThreadId} {s : State} (hs : Kept s0 s) :
    KeptO s0 (execChw core thread s) := by
  unfold execChw
  repeat' with_reducible first
    | assumption | intro _ | apply keptI_done | apply keptI_wait | exact keptI_fault | exact keptI_lmLost
    | exact keptI_hold | apply keptO_next | apply keptO_ite | apply kept_ite | apply issue_kept | apply next1_kept
    | split | extract_lets | apply kept_mk

theorem clearDone_kept {s0 : State} {s : State} {c : Nat} {t : Nat} {u : Nat} (hs : Kept s0 s) :
    Kept s0 (clearDone s c t u) := by
  unfold clearDone
  repeat' with_reducible first
    | assumption | intro _ | apply kept_ite | apply lmWrite_kept | split | extract_lets | apply kept_mk

theorem replyRec_kept {s0 : State} {s : State} {c : Nat} {t : Nat} {u : Nat} {st : Status} {tag : Nat} {ds : List Nat}
    (hs : Kept s0 s) :
    Kept s0 (replyRec s c t u st tag ds) := by
  unfold replyRec
  repeat' with_reducible first
    | assumption | intro _ | apply kept_ite | apply setEvent_kept | apply lmWrite_kept | split | extract_lets
    | apply kept_mk

theorem lsIssue_kept {s0 : State} {s : State} {core : CoreId} {thread : ThreadId} {op : FcOp} {gf : Bool} (hs : Kept
    s0 s) :
    Kept s0 (lsIssue s core thread op gf) := by
  unfold lsIssue
  repeat' with_reducible first
    | assumption | intro _ | apply keptI_done | apply keptI_wait | exact keptI_fault | exact keptI_lmLost
    | exact keptI_hold | apply kept_ite | apply pmc_kept | apply issue_kept | apply next1_kept
    | apply clearDone_kept | split | extract_lets | apply kept_mk

theorem execCrypt_kept {s0 : State} {core : CoreId} {thread : ThreadId} {s : State} (hs : Kept s0 s) :
    KeptO s0 (execCrypt core thread s) := by
  unfold execCrypt
  repeat' with_reducible first
    | assumption | intro _ | apply keptO_next | apply keptO_ite | apply kept_ite | apply lsIssue_kept | split
    | extract_lets | apply kept_mk

theorem execGfmul_kept {s0 : State} {core : CoreId} {thread : ThreadId} {s : State} (hs : Kept s0 s) :
    KeptO s0 (execGfmul core thread s) := by
  unfold execGfmul
  repeat' with_reducible first
    | assumption | intro _ | apply keptO_next | apply keptO_ite | apply kept_ite | apply lsIssue_kept | split
    | extract_lets | apply kept_mk

theorem execTbl_kept {s0 : State} {core : CoreId} {thread : ThreadId} {s : State} (hs : Kept s0 s) :
    KeptO s0 (execTbl core thread s) := by
  unfold execTbl
  repeat' with_reducible first
    | assumption | intro _ | apply keptI_done | apply keptI_wait | exact keptI_fault | exact keptI_lmLost
    | exact keptI_hold | apply keptO_next | apply keptO_ite | apply kept_ite | apply pmc_kept | apply issue_kept
    | apply next1_kept | apply clearDone_kept | split | extract_lets | apply kept_mk

end Sys2Proof.Machine
end

