-- ==== Sys2Proof/Laws/KeptForward.lean ====
section
/-! SUPPORT. What the operations of Machine/Forward.lean keep (Safety.lean). -/
namespace Sys2Proof.Machine

theorem modFw_kept {s0 : State} {s : State} {f : Fwd → Fwd} (hs : Kept s0 s) :
    Kept s0 (modFw s f) := by
  unfold modFw
  repeat' with_reducible first
    | assumption | intro _ | apply kept_ite | split | extract_lets | apply kept_mk

theorem fwSeen_kept {s0 : State} {s : State} (hs : Kept s0 s) :
    Kept s0 (fwSeen s) := by
  unfold fwSeen
  repeat' with_reducible first
    | assumption | intro _ | apply kept_ite | apply modFw_kept | split | extract_lets | apply kept_mk

theorem fwKeep_kept {s0 : State} {s : State} (hs : Kept s0 s) :
    Kept s0 (fwKeep s) := by
  unfold fwKeep
  repeat' with_reducible first
    | assumption | intro _ | apply kept_ite | apply modFw_kept | split | extract_lets | apply kept_mk

theorem setTab_kept {s0 : State} {s : State} {l2 : Bool} {m : Map FEnt} (hs : Kept s0 s) :
    Kept s0 (setTab s l2 m) := by
  unfold setTab
  repeat' with_reducible first
    | assumption | intro _ | apply kept_ite | apply modFw_kept | split | extract_lets | apply kept_mk

theorem putTab_kept {s0 : State} {s : State} {l2 : Bool} {m : Map FEnt} (hs : Kept s0 s) :
    Kept s0 (putTab s l2 m) := by
  unfold putTab
  repeat' with_reducible first
    | assumption | intro _ | apply kept_ite | apply fwKeep_kept | apply setTab_kept | split | extract_lets
    | apply kept_mk

theorem hitEnt_kept {s0 : State} {s : State} {l2 : Bool} {p : Nat} {e : FEnt} (hs : Kept s0 s) :
    Kept s0 (hitEnt s l2 p e) := by
  unfold hitEnt
  repeat' with_reducible first
    | assumption | intro _ | apply kept_ite | apply cadd_kept | apply modFw_kept | apply setTab_kept | split
    | extract_lets | apply kept_mk

theorem placeEnt_kept {s0 : State} {s : State} {l2 : Bool} {policy : Nat} {e : FEnt} (hs : Kept s0 s) :
    OptAll (fun y => Kept s0 y.2) (placeEnt s l2 policy e) := by
  unfold placeEnt
  repeat' with_reducible first
    | assumption | intro _ | apply optAll_some | exact optAll_none | apply kept_ite | apply bumpFree_kept
    | apply cadd_kept | apply putTab_kept | split | extract_lets | apply kept_mk

theorem bumpVer_kept {s0 : State} {s : State} {v : Nat} (hs : Kept s0 s) :
    Kept s0 (bumpVer s v) := by
  unfold bumpVer
  repeat' with_reducible first
    | assumption | intro _ | apply kept_ite | apply modFw_kept | apply fwKeep_kept | split | extract_lets
    | apply kept_mk

theorem fwParity_kept {s0 : State} {s : State} {e0 : Nat} (hs : Kept s0 s) :
    Kept s0 (fwParity s e0) := by
  induction e0 generalizing s hs with
  | zero =>
    unfold fwParity
    repeat' with_reducible first
      | assumption | intro _ | apply kept_ite | apply cadd_kept | apply raise_kept | split | extract_lets
      | apply kept_mk
  | succ k ih =>
    unfold fwParity
    repeat' with_reducible first
      | assumption | intro _ | apply kept_ite | apply ih | apply cadd_kept | apply raise_kept | split
      | extract_lets | apply kept_mk

theorem eccLoss_kept {s0 : State} {s : State} {l2 : Bool} {pos : List Nat} (hs : Kept s0 s) :
    Kept s0 (eccLoss s l2 pos) := by
  unfold eccLoss
  repeat' with_reducible first
    | assumption | intro _ | apply kept_ite | apply kept_foldl | apply cadd_kept | apply raise_kept
    | apply eccUncorr_kept | apply putTab_kept | split | extract_lets | apply kept_foldl_fst | apply kept_foldl_snd
    | apply kept_mk

theorem emSearch_kept {s0 : State} {s : State} {k : FwKey} {u : Upset} (hs : Kept s0 s) :
    Kept s0 (emSearch s k u).2 := by
  unfold emSearch
  repeat' with_reducible first
    | assumption | intro _ | apply kept_ite | apply cadd_kept | apply fwSeen_kept | apply hitEnt_kept
    | apply fwParity_kept | apply eccLoss_kept | split | extract_lets | apply kept_mk

theorem l2Search_kept {s0 : State} {s : State} {k : FwKey} {u : Upset} (hs : Kept s0 s) :
    Kept s0 (l2Search s k u).2 := by
  unfold l2Search
  repeat' with_reducible first
    | assumption | intro _ | apply kept_ite | apply cadd_kept | apply fwSeen_kept | apply fwParity_kept
    | apply eccLoss_kept | split | extract_lets | apply kept_mk

theorem rcFill_kept {s0 : State} {s : State} {e : RcEnt} (hs : Kept s0 s) :
    Kept s0 (rcFill s e) := by
  unfold rcFill
  repeat' with_reducible first
    | assumption | intro _ | apply kept_ite | apply bumpFree_kept | apply modFw_kept | split | extract_lets
    | apply kept_mk

theorem nhLookup_kept {s0 : State} {s : State} {nh : Nat} {u : Upset} (hs : Kept s0 s) :
    Kept s0 (nhLookup s nh u).2 := by
  unfold nhLookup
  repeat' with_reducible first
    | assumption | intro _ | apply kept_ite | apply cadd_kept | apply modFw_kept | apply fwSeen_kept
    | apply fwParity_kept | split | extract_lets | apply kept_mk

theorem lpmSearch_kept {s0 : State} {s : State} {vrf : Nat} {v6 : Bool} {a : Nat} {u : Upset} (hs : Kept s0 s) :
    Kept s0 (lpmSearch s vrf v6 a u).2 := by
  unfold lpmSearch
  repeat' with_reducible first
    | assumption | intro _ | apply kept_ite | apply kept_foldl | apply cadd_kept | apply wearNote_kept
    | apply modFw_kept | apply fwSeen_kept | apply fwParity_kept | apply rcFill_kept | apply nhLookup_kept
    | refine kept_of_snd (by assumption) ?_ | split | extract_lets | apply kept_foldl_fst | apply kept_foldl_snd
    | apply kept_mk

theorem rcDrop_kept {s0 : State} {s : State} {vrf : Nat} {v6 : Bool} {a : Nat} (hs : Kept s0 s) :
    Kept s0 (rcDrop s vrf v6 a) := by
  unfold rcDrop
  repeat' with_reducible first
    | assumption | intro _ | apply kept_ite | apply modFw_kept | split | extract_lets | apply kept_mk

theorem routeAddr_kept {s0 : State} {s : State} {vrf : Nat} {v6 : Bool} {a : Nat} {u : Upset} (hs : Kept s0 s) :
    Kept s0 (routeAddr s vrf v6 a u).2 := by
  unfold routeAddr
  repeat' with_reducible first
    | assumption | intro _ | apply kept_ite | apply cadd_kept | apply fwSeen_kept | apply fwParity_kept
    | apply nhLookup_kept | apply lpmSearch_kept | apply rcDrop_kept | refine kept_of_snd (by assumption) ?_
    | split | extract_lets | apply kept_mk

theorem routeSearch_kept {s0 : State} {s : State} {k : FwKey} {u : Upset} (hs : Kept s0 s) :
    Kept s0 (routeSearch s k u).2 := by
  unfold routeSearch
  repeat' with_reducible first
    | assumption | intro _ | apply kept_ite | apply cadd_kept | apply fwSeen_kept | apply routeAddr_kept
    | refine kept_of_snd (by assumption) ?_ | split | extract_lets | apply kept_mk

theorem portFor_kept {s0 : State} {s : State} {inst : Nat} {v6 : Bool} {a : Nat} (hs : Kept s0 s) :
    Kept s0 (portFor s inst v6 a).2 := by
  unfold portFor
  repeat' with_reducible first
    | assumption | intro _ | apply kept_ite | apply fwSeen_kept | apply routeAddr_kept
    | refine kept_of_snd (by assumption) ?_ | split | extract_lets | apply kept_mk

theorem fwLookup_kept {s0 : State} {s : State} {k : FwKey} {u : Upset} (hs : Kept s0 s) :
    Kept s0 (fwLookup s k u).2 := by
  unfold fwLookup
  extract_lets v0 miss mode
  clear_value v0 miss mode
  split
  · exact hs
  · rename_i t _
    have ht : Kept s0 t := sysEcc_kept hs
    clear_value t
    split
    rename_i d v e
    have hv : Kept s0 v := by
      split at e
      · exact kept_of_snd e (emSearch_kept ht)
      · cases e; exact ht
    clear e
    split
    · exact hv
    · split
      rename_i d w e
      show Kept s0 w
      split at e
      · exact kept_of_snd e (routeSearch_kept hv)
      · exact kept_of_snd e (l2Search_kept hv)
      · cases e; exact hv

theorem learnQueue_kept {s0 : State} {s : State} {v : LearnEv} (hs : Kept s0 s) :
    Kept s0 (learnQueue s v) := by
  unfold learnQueue
  repeat' with_reducible first
    | assumption | intro _ | apply kept_ite | apply cadd_kept | apply modFw_kept | split | extract_lets
    | apply kept_mk

theorem learnSrc_kept {s0 : State} {s : State} {k : FwKey} {port : Nat} {pipe : Nat} {u : Upset} (hs : Kept s0 s) :
    Kept s0 (learnSrc s k port pipe u) := by
  unfold learnSrc
  repeat' with_reducible first
    | assumption | intro _ | apply kept_ite | apply cadd_kept | apply fwSeen_kept | apply hitEnt_kept
    | apply fwParity_kept | apply eccLoss_kept | apply learnQueue_kept | split | extract_lets | apply kept_mk

theorem learnTake_kept {s0 : State} {s : State} {v : LearnEv} (hs : Kept s0 s) :
    Kept s0 (learnTake s v) := by
  unfold learnTake
  repeat' with_reducible first
    | assumption | intro _ | apply kept_ite | apply cadd_kept | apply raiseOnce_kept | apply putTab_kept
    | apply placeEnt_kept | refine kept_of_some_snd (by assumption) ?_ | split | extract_lets | apply kept_mk

theorem ageEntry_kept {s0 : State} {s : State} {l2 : Bool} {pos : Nat} (hs : Kept s0 s) :
    Kept s0 (ageEntry s l2 pos) := by
  unfold ageEntry
  repeat' with_reducible first
    | assumption | intro _ | apply kept_ite | apply cadd_kept | apply modFw_kept | apply fwKeep_kept
    | apply putTab_kept | split | extract_lets | apply kept_mk

theorem execAgeVisit_kept {s0 : State} {l2 : Bool} {s : State} (hs : Kept s0 s) :
    KeptO s0 (execAgeVisit l2 s) := by
  unfold execAgeVisit
  repeat' with_reducible first
    | assumption | intro _ | apply keptO_next | apply keptO_ite | apply kept_ite | apply modFw_kept
    | apply ageEntry_kept | split | extract_lets | apply kept_mk

theorem entOp_kept {s0 : State} {s : State} {l2 : Bool} {op : Nat} {w : Nat → Nat} {ws : List Nat} {index : Nat}
    {evictOk : Bool} (hs : Kept s0 s) :
    Kept s0 (entOp s l2 op w ws index evictOk).2.2.2 := by
  unfold entOp
  extract_lets
  clear_value *
  repeat' with_reducible first
    | assumption | intro _ | apply kept_ite | apply putTab_kept | apply placeEnt_kept
    | refine kept_of_some_snd (by assumption) ?_ | split | extract_lets | apply kept_mk

theorem lpmOp_kept {s0 : State} {s : State} {op : Nat} {w : Nat → Nat} {ws : List Nat} {index : Nat} (hs : Kept s0 s)
    :
    Kept s0 (lpmOp s op w ws index).2.2.2 := by
  unfold lpmOp
  extract_lets e vrf same found rix bad
  clear_value found rix
  repeat' with_reducible first
    | assumption | intro _ | apply kept_ite | apply modFw_kept | apply fwKeep_kept | apply bumpVer_kept | split
    | extract_lets | apply kept_mk

theorem idxOp_kept {s0 : State} {s : State} {inst : Bool} {op : Nat} {w : Nat → Nat} {ws : List Nat} {index : Nat} (hs
    : Kept s0 s) :
    Kept s0 (idxOp s inst op w ws index).2.2.2 := by
  unfold idxOp
  repeat' with_reducible first
    | assumption | intro _ | apply kept_ite | apply modFw_kept | apply fwKeep_kept | split | extract_lets
    | apply kept_mk

theorem tableOp_kept {s0 : State} {s : State} {table : Nat} {op : Nat} {ws : List Nat} {index : Nat} {evictOk : Bool}
    (hs : Kept s0 s) :
    Kept s0 (tableOp s table op ws index evictOk).2.2.2 := by
  unfold tableOp
  repeat' with_reducible first
    | assumption | intro _ | apply kept_ite | apply entOp_kept | apply lpmOp_kept | apply idxOp_kept
    | refine kept_of_fourth (by assumption) ?_ | split | extract_lets | apply kept_mk

theorem flushStep_kept {s0 : State} {s : State} {table : Nat} {w : Nat → Nat} {from_ : Nat} {ahead : Map Nat} (hs :
    Kept s0 s) :
    Kept s0 (flushStep s table w from_ ahead).1 := by
  unfold flushStep
  repeat' with_reducible first
    | assumption | intro _ | apply kept_ite | apply modFw_kept | apply fwKeep_kept | apply putTab_kept | split
    | extract_lets | apply kept_mk

theorem flushEnd_kept {s0 : State} {s : State} {table : Nat} {w : Nat → Nat} (hs : Kept s0 s) :
    Kept s0 (flushEnd s table w) := by
  unfold flushEnd
  repeat' with_reducible first
    | assumption | intro _ | apply kept_ite | apply bumpVer_kept | split | extract_lets | apply kept_mk

theorem flushAll_kept {s0 : State} {s : State} {table : Nat} {w : Nat → Nat} (hs : Kept s0 s) :
    Kept s0 (flushAll s table w) := by
  unfold flushAll
  repeat' with_reducible first
    | assumption | intro _ | apply kept_ite | apply kept_foldl | apply flushStep_kept | apply flushEnd_kept | split
    | extract_lets | apply kept_foldl_fst | apply kept_foldl_snd | apply kept_mk

theorem fwPerform_kept {s0 : State} {s : State} {c : FwCmd} (hs : Kept s0 s) :
    Kept s0 (fwPerform s c) := by
  unfold fwPerform
  repeat' with_reducible first
    | assumption | intro _ | apply kept_ite | apply modFw_kept | apply eccLoss_kept | apply tableOp_kept
    | refine kept_of_fourth (by assumption) ?_ | split | extract_lets | apply kept_mk

theorem fwCmdWrite_kept {s0 : State} {s : State} {w : Nat} {ecc : List Nat} (hs : Kept s0 s) :
    Kept s0 (fwCmdWrite s w ecc) := by
  unfold fwCmdWrite
  repeat' with_reducible first
    | assumption | intro _ | apply kept_ite | apply wr_kept | apply regStore_kept | apply modFw_kept
    | apply fwPerform_kept | refine kept_of_fst (by assumption) ?_ | split | extract_lets | apply kept_mk

theorem learnTaken_kept {s0 : State} {s : State} {b : Nat} (hs : Kept s0 s) :
    Kept s0 (learnTaken s b) := by
  unfold learnTaken
  repeat' with_reducible first
    | assumption | intro _ | apply keptI_done | apply keptI_wait | exact keptI_fault | exact keptI_lmLost
    | exact keptI_hold | apply kept_ite | apply modFw_kept | apply fwPerform_kept | split | extract_lets
    | apply kept_mk

theorem execLearnEvent_kept {s0 : State} {bank : Fin 16} {ecc : List Nat} {s : State} (hs : Kept s0 s) :
    KeptO s0 (execLearnEvent bank ecc s) := by
  unfold execLearnEvent
  repeat' with_reducible first
    | assumption | intro _ | apply keptO_next | apply keptO_ite | apply kept_ite | apply modFw_kept
    | apply eccLoss_kept | apply learnTake_kept | apply learnTaken_kept | split | extract_lets | apply kept_mk

theorem fwTick_kept {s0 : State} {s : State} (hs : Kept s0 s) :
    Kept s0 (fwTick s) := by
  unfold fwTick
  repeat' with_reducible first
    | assumption | intro _ | apply keptI_done | apply keptI_wait | exact keptI_fault | exact keptI_lmLost
    | exact keptI_hold | apply kept_ite | apply kept_foldl | apply modFw_kept | apply flushStep_kept
    | refine kept_of_fst (by assumption) ?_ | refine kept_of_snd (by assumption) ?_ | split | extract_lets
    | apply kept_mk

theorem fwCmd_kept {s0 : State} {s : State} {port : HostPort} {value : Word} {op : Nat} {ecc : List Nat} (hs : Kept s0
    s) :
    Kept s0 (fwCmd s port value op ecc) := by
  unfold fwCmd
  repeat' with_reducible first
    | assumption | intro _ | apply kept_ite | apply regGate_kept | apply fwCmdWrite_kept | split | extract_lets
    | apply kept_mk

theorem execFwLookup_kept {s0 : State} {port : HostPort} {value : Word} {ecc : List Nat} {s : State} (hs : Kept s0 s)
    :
    KeptO s0 (execFwLookup port value ecc s) := by
  unfold execFwLookup
  repeat' with_reducible first
    | assumption | intro _ | apply keptO_next | apply keptO_ite | apply kept_ite | apply fwCmd_kept | split
    | extract_lets | apply kept_mk

theorem execFwInsert_kept {s0 : State} {port : HostPort} {value : Word} {ecc : List Nat} {s : State} (hs : Kept s0 s)
    :
    KeptO s0 (execFwInsert port value ecc s) := by
  unfold execFwInsert
  repeat' with_reducible first
    | assumption | intro _ | apply keptO_next | apply keptO_ite | apply kept_ite | apply fwCmd_kept | split
    | extract_lets | apply kept_mk

theorem execFwUpdate_kept {s0 : State} {port : HostPort} {value : Word} {ecc : List Nat} {s : State} (hs : Kept s0 s)
    :
    KeptO s0 (execFwUpdate port value ecc s) := by
  unfold execFwUpdate
  repeat' with_reducible first
    | assumption | intro _ | apply keptO_next | apply keptO_ite | apply kept_ite | apply fwCmd_kept | split
    | extract_lets | apply kept_mk

theorem execFwDelete_kept {s0 : State} {port : HostPort} {value : Word} {ecc : List Nat} {s : State} (hs : Kept s0 s)
    :
    KeptO s0 (execFwDelete port value ecc s) := by
  unfold execFwDelete
  repeat' with_reducible first
    | assumption | intro _ | apply keptO_next | apply keptO_ite | apply kept_ite | apply fwCmd_kept | split
    | extract_lets | apply kept_mk

theorem execFwWalk_kept {s0 : State} {port : HostPort} {value : Word} {ecc : List Nat} {s : State} (hs : Kept s0 s) :
    KeptO s0 (execFwWalk port value ecc s) := by
  unfold execFwWalk
  repeat' with_reducible first
    | assumption | intro _ | apply keptO_next | apply keptO_ite | apply kept_ite | apply fwCmd_kept | split
    | extract_lets | apply kept_mk

theorem execFwFlush_kept {s0 : State} {port : HostPort} {value : Word} {s : State} (hs : Kept s0 s) :
    KeptO s0 (execFwFlush port value s) := by
  unfold execFwFlush
  repeat' with_reducible first
    | assumption | intro _ | apply keptO_next | apply keptO_ite | apply kept_ite | apply fwCmd_kept | split
    | extract_lets | apply kept_mk

theorem fwPost_kept {s0 : State} {s : State} {c : FwCmd} (hs : Kept s0 s) :
    Kept s0 (fwPost s c) := by
  unfold fwPost
  repeat' with_reducible first
    | assumption | intro _ | apply kept_ite | apply kept_foldl | apply rset_kept | apply modFw_kept
    | apply flushEnd_kept | refine kept_of_fst (by assumption) ?_ | refine kept_of_snd (by assumption) ?_ | split
    | extract_lets | apply kept_mk

theorem execFwCmdEnd_kept {s0 : State} {s : State} (hs : Kept s0 s) :
    KeptO s0 (execFwCmdEnd s) := by
  unfold execFwCmdEnd
  repeat' with_reducible first
    | assumption | intro _ | apply keptI_done | apply keptI_wait | exact keptI_fault | exact keptI_lmLost
    | exact keptI_hold | apply keptO_next | apply keptO_ite | apply kept_ite | apply fwPost_kept | split
    | extract_lets | apply kept_mk

theorem execFwEntryRewrite_kept {s0 : State} {nh : Bool} {pos : Fin 262144} {s : State} (hs : Kept s0 s) :
    KeptO s0 (execFwEntryRewrite nh pos s) := by
  unfold execFwEntryRewrite
  repeat' with_reducible first
    | assumption | intro _ | apply keptO_next | apply keptO_ite | apply kept_ite | apply modFw_kept | split
    | extract_lets | apply kept_mk

theorem execTblReply_kept {s0 : State} {core : CoreId} {thread : ThreadId} {ecc : List Nat} {s : State} (hs : Kept s0
    s) :
    KeptO s0 (execTblReply core thread ecc s) := by
  unfold execTblReply
  repeat' with_reducible first
    | assumption | intro _ | apply keptI_done | apply keptI_wait | exact keptI_fault | exact keptI_lmLost
    | exact keptI_hold | apply keptO_next | apply keptO_ite | apply kept_ite | apply modThr_kept
    | apply lmWrite_kept | apply replyRec_kept | apply eccLoss_kept | apply tableOp_kept | apply flushEnd_kept
    | refine kept_of_fourth (by assumption) ?_ | split | extract_lets | apply kept_mk

end Sys2Proof.Machine
end

