-- ==== Sys2Proof/Laws/KeptHostPort.lean ====
section
/-! SUPPORT. What the operations of Machine/HostPort.lean keep (Safety.lean). -/
namespace Sys2Proof.Machine

theorem peerRefuse_kept {s0 : State} {s : State} {p : Nat} {write : Bool} (hs : Kept s0 s) :
    Kept s0 (peerRefuse s p write) := by
  unfold peerRefuse
  repeat' with_reducible first
    | assumption | intro _ | apply kept_ite | apply emit_kept | apply raise_kept | apply modHp_kept
    | apply aer_kept | split | extract_lets | apply kept_mk

theorem peerServe_kept {s0 : State} {s : State} {p : Nat} {r : PeerReq} (hs : Kept s0 s) :
    Kept s0 (peerServe s p r) := by
  unfold peerServe
  repeat' with_reducible first
    | assumption | intro _ | apply kept_ite | apply kept_foldl | apply emit_kept | apply aer_kept
    | apply storeMeet_kept | apply storeWrite_kept | apply peerRefuse_kept | split | extract_lets
    | apply kept_foldl_fst | apply kept_foldl_snd | apply kept_mk

theorem peerArrive_kept {s0 : State} {s : State} {p : HostPort} {r : PeerReq} (hs : Kept s0 s) :
    Kept s0 (peerArrive s p r) := by
  unfold peerArrive
  repeat' with_reducible first
    | assumption | intro _ | apply kept_ite | apply emit_kept | apply modHp_kept | apply barGate_kept
    | apply peerServe_kept | split | extract_lets | apply kept_mk

theorem execPeerWrite_kept {s0 : State} {port : HostPort} {rid : Fin 65536} {addr : Fin 68719476736} {poisoned : Bool}
    {bytes : List Byte} {s : State} (hs : Kept s0 s) :
    KeptO s0 (execPeerWrite port rid addr poisoned bytes s) := by
  unfold execPeerWrite
  repeat' with_reducible first
    | assumption | intro _ | apply keptO_next | apply keptO_ite | apply kept_ite | apply peerArrive_kept | split
    | extract_lets | apply kept_mk

theorem execPeerRead_kept {s0 : State} {port : HostPort} {rid : Fin 65536} {addr : Fin 68719476736} {len : Fin 4097}
    {ecc : Ecc} {s : State} (hs : Kept s0 s) :
    KeptO s0 (execPeerRead port rid addr len ecc s) := by
  unfold execPeerRead
  repeat' with_reducible first
    | assumption | intro _ | apply keptO_next | apply keptO_ite | apply kept_ite | apply peerArrive_kept | split
    | extract_lets | apply kept_mk

theorem winCommit_kept {s0 : State} {s : State} {p : Nat} (hs : Kept s0 s) :
    Kept s0 (winCommit s p) := by
  unfold winCommit
  repeat' with_reducible first
    | assumption | intro _ | apply kept_ite | apply modHp_kept | split | extract_lets | apply kept_mk

theorem execWinCommit_kept {s0 : State} {port : HostPort} {s : State} (hs : Kept s0 s) :
    KeptO s0 (execWinCommit port s) := by
  unfold execWinCommit
  repeat' with_reducible first
    | assumption | intro _ | apply keptO_next | apply keptO_ite | apply kept_ite | apply regGate_kept
    | apply winCommit_kept | split | extract_lets | apply kept_mk

theorem execWinCheckEnd_kept {s0 : State} {port : HostPort} {s : State} (hs : Kept s0 s) :
    KeptO s0 (execWinCheckEnd port s) := by
  unfold execWinCheckEnd
  repeat' with_reducible first
    | assumption | intro _ | apply keptO_next | apply keptO_ite | apply kept_ite | apply wr_kept | apply raise_kept
    | apply modHp_kept | split | extract_lets | apply kept_mk

theorem execWinSwap_kept {s0 : State} {port : HostPort} {s : State} (hs : Kept s0 s) :
    KeptO s0 (execWinSwap port s) := by
  unfold execWinSwap
  repeat' with_reducible first
    | assumption | intro _ | apply keptO_next | apply keptO_ite | apply kept_ite | apply kept_foldl
    | apply advGen_kept | apply modHp_kept | apply peerServe_kept | split | extract_lets | apply kept_mk

theorem clearWindows_kept {s0 : State} {s : State} {p : Nat} (hs : Kept s0 s) :
    Kept s0 (clearWindows s p) := by
  unfold clearWindows
  repeat' with_reducible first
    | assumption | intro _ | apply kept_ite | apply kept_foldl | apply wr_kept | apply modHp_kept | split
    | extract_lets | apply kept_mk

theorem execWinCopyEnd_kept {s0 : State} {port : HostPort} {s : State} (hs : Kept s0 s) :
    KeptO s0 (execWinCopyEnd port s) := by
  unfold execWinCopyEnd
  repeat' with_reducible first
    | assumption | intro _ | apply keptO_next | apply keptO_ite | apply kept_ite | apply kept_foldl
    | apply rset_kept | apply modHp_kept | apply clearWindows_kept | split | extract_lets | apply kept_mk

theorem execTenantWindowsClear_kept {s0 : State} {port : HostPort} {s : State} (hs : Kept s0 s) :
    KeptO s0 (execTenantWindowsClear port s) := by
  unfold execTenantWindowsClear
  repeat' with_reducible first
    | assumption | intro _ | apply keptO_next | apply keptO_ite | apply kept_ite | apply clearWindows_kept | split
    | extract_lets | apply kept_mk

theorem alertSend_kept {s0 : State} {s : State} {p : Nat} (hs : Kept s0 s) :
    Kept s0 (alertSend s p) := by
  unfold alertSend
  repeat' with_reducible first
    | assumption | intro _ | apply kept_ite | apply modHp_kept | apply sendPme_kept | apply leaveL1_kept
    | apply sendMsix_kept | split | extract_lets | apply kept_mk

theorem msixFlush_kept {s0 : State} {s : State} {p : Nat} {f : Fn} {v : Nat} (hs : Kept s0 s) :
    Kept s0 (msixFlush s p f v) := by
  unfold msixFlush
  repeat' with_reducible first
    | assumption | intro _ | apply kept_ite | apply emit_kept | apply modFn_kept | split | extract_lets
    | apply kept_mk

theorem heldOut_kept {s0 : State} {s : State} {p : Nat} {f : Fn} (hs : Kept s0 s) :
    Kept s0 (heldOut s p f) := by
  unfold heldOut
  repeat' with_reducible first
    | assumption | intro _ | apply kept_ite | apply kept_foldl | apply modHp_kept | apply intaUpdate_kept
    | apply alertSend_kept | apply msixFlush_kept | split | extract_lets | apply kept_mk

theorem execPerstRelease_kept {s0 : State} {port : HostPort} {s : State} (hs : Kept s0 s) :
    KeptO s0 (execPerstRelease port s) := by
  unfold execPerstRelease
  repeat' with_reducible first
    | assumption | intro _ | apply keptO_next | apply keptO_ite | apply kept_ite | apply emit_kept
    | apply modHp_kept | split | extract_lets | apply kept_mk

theorem execHostLinkTrained_kept {s0 : State} {port : HostPort} {flit : Bool} {width : Fin 17} {speed : Fin 8} {s :
    State} (hs : Kept s0 s) :
    KeptO s0 (execHostLinkTrained port flit width speed s) := by
  unfold execHostLinkTrained
  repeat' with_reducible first
    | assumption | intro _ | apply keptO_next | apply keptO_ite | apply kept_ite | apply raise_kept
    | apply modHp_kept | apply heldOut_kept | split | extract_lets | apply kept_mk

theorem execNoFlitRetry_kept {s0 : State} {port : HostPort} {s : State} (hs : Kept s0 s) :
    KeptO s0 (execNoFlitRetry port s) := by
  unfold execNoFlitRetry
  repeat' with_reducible first
    | assumption | intro _ | apply keptO_next | apply keptO_ite | apply kept_ite | apply modHp_kept | split
    | extract_lets | apply kept_mk

theorem execPortReady_kept {s0 : State} {port : HostPort} {s : State} (hs : Kept s0 s) :
    KeptO s0 (execPortReady port s) := by
  unfold execPortReady
  repeat' with_reducible first
    | assumption | intro _ | apply keptO_next | apply keptO_ite | apply kept_ite | apply modHp_kept | split
    | extract_lets | apply kept_mk

theorem execFlrComplete_kept {s0 : State} {port : HostPort} {fn : Fn} {s : State} (hs : Kept s0 s) :
    KeptO s0 (execFlrComplete port fn s) := by
  unfold execFlrComplete
  repeat' with_reducible first
    | assumption | intro _ | apply keptO_next | apply keptO_ite | apply kept_ite | apply modFn_kept | split
    | extract_lets | apply kept_mk

theorem execFunctionDrainEnd_kept {s0 : State} {port : HostPort} {fn : Fn} {s : State} (hs : Kept s0 s) :
    KeptO s0 (execFunctionDrainEnd port fn s) := by
  unfold execFunctionDrainEnd
  repeat' with_reducible first
    | assumption | intro _ | apply keptO_next | apply keptO_ite | apply kept_ite | apply modFn_kept | split
    | extract_lets | apply kept_mk

theorem execD3hotEntry_kept {s0 : State} {port : HostPort} {fn : Fn} {s : State} (hs : Kept s0 s) :
    KeptO s0 (execD3hotEntry port fn s) := by
  unfold execD3hotEntry
  repeat' with_reducible first
    | assumption | intro _ | apply keptO_next | apply keptO_ite | apply kept_ite | apply modFn_kept
    | apply cfgGate_kept | apply settleIdle_kept | split | extract_lets | apply kept_mk

theorem headsAgain_kept {s0 : State} {s : State} {p : Nat} {fn : Fn} (hs : Kept s0 s) :
    Kept s0 (headsAgain s p fn) := by
  unfold headsAgain
  repeat' with_reducible first
    | assumption | intro _ | apply kept_ite | apply kept_foldl | apply eqHeadRead_kept | apply cqHeadRead_kept
    | split | extract_lets | apply kept_foldl_fst | apply kept_foldl_snd | apply kept_mk

theorem execD0Return_kept {s0 : State} {port : HostPort} {fn : Fn} {s : State} (hs : Kept s0 s) :
    KeptO s0 (execD0Return port fn s) := by
  unfold execD0Return
  repeat' with_reducible first
    | assumption | intro _ | apply keptO_next | apply keptO_ite | apply kept_ite | apply kept_foldl
    | apply modFn_kept | apply cfgGate_kept | apply imageResume_kept | apply settleIdle_kept | apply eqSend_kept
    | apply heldOut_kept | apply headsAgain_kept | split | extract_lets | apply kept_foldl_fst
    | apply kept_foldl_snd | apply kept_mk

theorem l0Reached_kept {s0 : State} {s : State} {p : Nat} (hs : Kept s0 s) :
    Kept s0 (l0Reached s p) := by
  unfold l0Reached
  repeat' with_reducible first
    | assumption | intro _ | apply kept_ite | apply kept_foldl | apply modHp_kept | apply eqSend_kept
    | apply heldOut_kept | split | extract_lets | apply kept_foldl_fst | apply kept_foldl_snd | apply kept_mk

theorem execLinkPowerStateChange_kept {s0 : State} {port : HostPort} {change : LinkChange} {s : State} (hs : Kept s0
    s) :
    KeptO s0 (execLinkPowerStateChange port change s) := by
  unfold execLinkPowerStateChange
  repeat' with_reducible first
    | assumption | intro _ | apply keptO_next | apply keptO_ite | apply kept_ite | apply modHp_kept
    | apply aer_kept | apply l0Reached_kept | split | extract_lets | apply kept_mk

theorem execLateCpl_kept {s0 : State} {port : HostPort} {tag : Fin 16384} {s : State} (hs : Kept s0 s) :
    KeptO s0 (execLateCpl port tag s) := by
  unfold execLateCpl
  repeat' with_reducible first
    | assumption | intro _ | apply keptO_next | apply keptO_ite | apply kept_ite | apply raise_kept
    | apply modHp_kept | apply aer_kept | split | extract_lets | apply kept_mk

theorem execTagRelease_kept {s0 : State} {port : HostPort} {tag : Fin 16384} {s : State} (hs : Kept s0 s) :
    KeptO s0 (execTagRelease port tag s) := by
  unfold execTagRelease
  repeat' with_reducible first
    | assumption | intro _ | apply keptO_next | apply keptO_ite | apply kept_ite | apply modHp_kept | split
    | extract_lets | apply kept_mk

theorem execMsixUnmask_kept {s0 : State} {port : HostPort} {fn : Fn} {vec : Option (Fin 2048)} {s : State} (hs : Kept
    s0 s) :
    KeptO s0 (execMsixUnmask port fn vec s) := by
  unfold execMsixUnmask
  repeat' with_reducible first
    | assumption | intro _ | apply keptO_next | apply keptO_ite | apply kept_ite | apply modFn_kept
    | apply barGate_kept | apply cfgGate_kept | apply msixFlush_kept | apply heldOut_kept | split | extract_lets
    | apply kept_mk

theorem execInterruptControlWrite_kept {s0 : State} {port : HostPort} {msixEn : Bool} {intDis : Bool} {s : State} (hs
    : Kept s0 s) :
    KeptO s0 (execInterruptControlWrite port msixEn intDis s) := by
  unfold execInterruptControlWrite
  repeat' with_reducible first
    | assumption | intro _ | apply keptO_next | apply keptO_ite | apply kept_ite | apply modFn_kept
    | apply cfgGate_kept | apply heldOut_kept | split | extract_lets | apply kept_mk

theorem alertClear_kept {s0 : State} {s : State} {p : Nat} {v : Nat} (hs : Kept s0 s) :
    Kept s0 (alertClear s p v) := by
  unfold alertClear
  repeat' with_reducible first
    | assumption | intro _ | apply kept_ite | apply wr_kept | apply modHp_kept | apply intaUpdate_kept | split
    | extract_lets | apply kept_mk

theorem execLkAlertClear_kept {s0 : State} {port : HostPort} {value : Word} {s : State} (hs : Kept s0 s) :
    KeptO s0 (execLkAlertClear port value s) := by
  unfold execLkAlertClear
  repeat' with_reducible first
    | assumption | intro _ | apply keptO_next | apply keptO_ite | apply kept_ite | apply barGate_kept
    | apply alertClear_kept | split | extract_lets | apply kept_mk

theorem execConfigurationWrite_kept {s0 : State} {port : HostPort} {fn : Fn} {what : CfgWrite} {s : State} (hs : Kept
    s0 s) :
    KeptO s0 (execConfigurationWrite port fn what s) := by
  unfold execConfigurationWrite
  repeat' with_reducible first
    | assumption | intro _ | apply keptO_next | apply keptO_ite | apply kept_ite | apply emit_kept
    | apply modFn_kept | apply barGate_kept | apply cfgGate_kept | apply heldOut_kept | split | extract_lets
    | apply kept_mk

end Sys2Proof.Machine
end

