-- ==== Sys2Proof/Laws/KeptLocksmith.lean ====
section
/-! SUPPORT. What the operations of Machine/Locksmith.lean keep (Safety.lean). -/
namespace Sys2Proof.Machine

theorem modLs_kept {s0 : State} {s : State} {f : Locksmith → Locksmith} (hs : Kept s0 s) :
    Kept s0 (modLs s f) := by
  unfold modLs
  repeat' with_reducible first
    | assumption | intro _ | apply kept_ite | split | extract_lets | apply kept_mk

theorem modCtx_kept {s0 : State} {s : State} {i : Nat} {f : Ctx → Ctx} (hs : Kept s0 s) :
    Kept s0 (modCtx s i f) := by
  unfold modCtx
  repeat' with_reducible first
    | assumption | intro _ | apply kept_ite | apply modLs_kept | split | extract_lets | apply kept_mk

theorem execKeyCtxCreate_kept {s0 : State} {port : HostPort} {s : State} (hs : Kept s0 s) :
    KeptO s0 (execKeyCtxCreate port s) := by
  unfold execKeyCtxCreate
  repeat' with_reducible first
    | assumption | intro _ | apply keptO_next | apply keptO_ite | apply kept_ite | apply finishAdmin_kept
    | apply adminRun_kept | apply modLs_kept | split | extract_lets | apply kept_mk

theorem uncache_kept {s0 : State} {s : State} {i : Nat} (hs : Kept s0 s) :
    Kept s0 (uncache s i) := by
  unfold uncache
  repeat' with_reducible first
    | assumption | intro _ | apply kept_ite | apply modLs_kept | split | extract_lets | apply kept_mk

theorem endOld_kept {s0 : State} {s : State} {i : Nat} {kid : Nat} (hs : Kept s0 s) :
    Kept s0 (endOld s i kid) := by
  unfold endOld
  repeat' with_reducible first
    | assumption | intro _ | apply kept_ite | apply modLs_kept | apply modCtx_kept | split | extract_lets
    | apply kept_mk

theorem rollover_kept {s0 : State} {s : State} {i : Nat} {label : List Byte} (hs : Kept s0 s) :
    Kept s0 (rollover s i label) := by
  unfold rollover
  repeat' with_reducible first
    | assumption | intro _ | apply kept_ite | apply cadd_kept | apply raise_kept | apply modCtx_kept
    | apply uncache_kept | apply endOld_kept | split | extract_lets | apply kept_mk

theorem execKeyRollover_kept {s0 : State} {port : HostPort} {s : State} (hs : Kept s0 s) :
    KeptO s0 (execKeyRollover port s) := by
  unfold execKeyRollover
  repeat' with_reducible first
    | assumption | intro _ | apply keptO_next | apply keptO_ite | apply kept_ite | apply cadd_kept
    | apply finishAdmin_kept | apply adminRun_kept | apply modCtx_kept | apply rollover_kept | split | extract_lets
    | apply kept_mk

theorem keyEdge_kept {s0 : State} {s : State} {i : Nat} (hs : Kept s0 s) :
    Kept s0 (keyEdge s i) := by
  unfold keyEdge
  repeat' with_reducible first
    | assumption | intro _ | apply kept_ite | apply modLs_kept | apply rollover_kept | split | extract_lets
    | apply kept_mk

theorem execRolloverGraceEnd_kept {s0 : State} {ctx : Fin 4194304} {s : State} (hs : Kept s0 s) :
    KeptO s0 (execRolloverGraceEnd ctx s) := by
  unfold execRolloverGraceEnd
  repeat' with_reducible first
    | assumption | intro _ | apply keptO_next | apply keptO_ite | apply kept_ite | apply modCtx_kept | split
    | extract_lets | apply kept_mk

theorem touchKey_kept {s0 : State} {s : State} {i : Nat} (hs : Kept s0 s) :
    Kept s0 (touchKey s i) := by
  unfold touchKey
  repeat' with_reducible first
    | assumption | intro _ | apply kept_ite | apply cadd_kept | apply modLs_kept | split | extract_lets
    | apply kept_mk

theorem sealCtx_kept {s0 : State} {s : State} {i : Nat} (hs : Kept s0 s) :
    Kept s0 (sealCtx s i) := by
  unfold sealCtx
  repeat' with_reducible first
    | assumption | intro _ | apply kept_ite | apply raise_kept | apply modCtx_kept | apply uncache_kept | split
    | extract_lets | apply kept_mk

theorem lsFailed_kept {s0 : State} {s : State} {st : Status} (hs : Kept s0 s) :
    Kept s0 (lsFailed s st) := by
  unfold lsFailed
  repeat' with_reducible first
    | assumption | intro _ | apply kept_ite | apply cadd_kept | split | extract_lets | apply kept_mk

theorem dropOld_kept {s0 : State} {s : State} {i : Nat} (hs : Kept s0 s) :
    Kept s0 (dropOld s i) := by
  unfold dropOld
  repeat' with_reducible first
    | assumption | intro _ | apply kept_ite | apply modCtx_kept | split | extract_lets | apply kept_mk

theorem modOld_kept {s0 : State} {s : State} {i : Nat} {kid : Nat} {f : OldKey → OldKey} (hs : Kept s0 s) :
    Kept s0 (modOld s i kid f) := by
  unfold modOld
  repeat' with_reducible first
    | assumption | intro _ | apply kept_ite | apply modCtx_kept | split | extract_lets | apply kept_mk

theorem cryptAccept_kept {s0 : State} {s : State} {r : LsReq} (hs : Kept s0 s) :
    Kept s0 (cryptAccept s r).1 := by
  unfold cryptAccept
  extract_lets w i b key first fail
  have hf : ∀ x, Kept s0 x → Kept s0 (fail x).1 := by
    intro x hx
    show Kept s0 (lsFailed x .keyExhausted)
    exact lsFailed_kept hx
  clear_value fail
  split
  · exact hf s hs
  · extract_lets
    rename_i prev op blocks s2 _ x _ kid close busy s1 done s3
    have h2 : Kept s0 s2 := modCtx_kept (touchKey_kept hs)
    have h3 : Kept s0 s3 := modOld_kept hs
    have hc : ∀ x, Kept s0 x → Kept s0 (close x) := by
      intro y hx
      dsimp only [close]
      refine dropOld_kept ?_
      cases prev with
      | some o => exact dropOld_kept (modLs_kept hx)
      | none => exact modLs_kept hx
    have h1 : Kept s0 s1 := hc _ h2
    have hb : ∀ l x, Kept s0 x → Kept s0 (busy l x).1 := by
      intro l x hx
      show Kept s0 (bumpFree (cadd (cadd x _ _ _ _) _ _ _ _))
      exact bumpFree_kept (cadd_kept (cadd_kept hx))
    have hd : ∀ x, Kept s0 x → Kept s0 (done x) := by
      intro x hx
      dsimp only [done]
      exact raise_kept (endOld_kept hx)
    clear_value close busy kid blocks s2 s3 s1 done
    repeat' with_reducible first
      | assumption | apply hf | apply hb | apply hc | apply hd | apply kept_ite | apply raiseOnce_kept
      | apply cadd_kept | apply sealCtx_kept | split

theorem execLocksmithRequestTake_kept {s0 : State} {gf : Bool} {s : State} (hs : Kept s0 s) :
    KeptO s0 (execLocksmithRequestTake gf s) := by
  unfold execLocksmithRequestTake
  repeat' with_reducible first
    | assumption | intro _ | apply keptO_next | apply keptO_ite | apply kept_ite | apply cadd_kept
    | apply modLs_kept | apply lsFailed_kept | apply cryptAccept_kept | refine kept_of_fst (by assumption) ?_
    | split | extract_lets | apply kept_mk

theorem lsTouch_kept {s0 : State} {s : State} {r : LsReq} {n : Nat} {ecc : Ecc} (hs : Kept s0 s) :
    Kept s0 (lsTouch s r n ecc) := by
  unfold lsTouch
  repeat' with_reducible first
    | assumption | intro _ | apply kept_ite | apply storeMeet_kept | split | extract_lets | apply kept_mk

theorem lsCompute_kept {s0 : State} {s : State} {b : LsBusy} {ecc : Ecc} (hs : Kept s0 s) :
    Kept s0 (lsCompute s b ecc) := by
  unfold lsCompute
  repeat' with_reducible first
    | assumption | intro _ | apply kept_ite | apply kept_foldl | apply storeWrite_kept | apply lmWrite_kept
    | apply lsTouch_kept | split | extract_lets | apply kept_mk

theorem freeCtx_kept {s0 : State} {s : State} {i : Nat} (hs : Kept s0 s) :
    Kept s0 (freeCtx s i) := by
  unfold freeCtx
  repeat' with_reducible first
    | assumption | intro _ | apply kept_ite | apply advGen_kept | apply modLs_kept | apply uncache_kept | split
    | extract_lets | apply kept_mk

theorem keyDestroyCheck_kept {s0 : State} {s : State} {i : Nat} (hs : Kept s0 s) :
    Kept s0 (keyDestroyCheck s i) := by
  unfold keyDestroyCheck
  repeat' with_reducible first
    | assumption | intro _ | apply keptI_done | apply keptI_wait | exact keptI_fault | exact keptI_lmLost
    | exact keptI_hold | apply kept_ite | apply kept_foldl | apply finishAdmin_kept | split | extract_lets
    | apply kept_mk

theorem execLocksmithReply_kept {s0 : State} {core : CoreId} {thread : ThreadId} {ecc : Ecc} {s : State} (hs : Kept s0
    s) :
    KeptO s0 (execLocksmithReply core thread ecc s) := by
  unfold execLocksmithReply
  repeat' with_reducible first
    | assumption | intro _ | apply keptI_done | apply keptI_wait | exact keptI_fault | exact keptI_lmLost
    | exact keptI_hold | apply keptO_next | apply keptO_ite | apply kept_ite | apply modThr_kept
    | apply replyRec_kept | apply modLs_kept | apply lsCompute_kept | apply keyDestroyCheck_kept | split
    | extract_lets | apply kept_mk

theorem execLsEntropyFail_kept {s0 : State} {s : State} (hs : Kept s0 s) :
    KeptO s0 (execLsEntropyFail s) := by
  unfold execLsEntropyFail
  repeat' with_reducible first
    | assumption | intro _ | apply keptO_next | apply keptO_ite | apply kept_ite | apply raise_kept
    | apply modLs_kept | split | extract_lets | apply kept_mk

theorem execEntropyRestore_kept {s0 : State} {s : State} (hs : Kept s0 s) :
    KeptO s0 (execEntropyRestore s) := by
  unfold execEntropyRestore
  repeat' with_reducible first
    | assumption | intro _ | apply keptO_next | apply keptO_ite | apply kept_ite | apply modLs_kept | split
    | extract_lets | apply kept_mk

end Sys2Proof.Machine
end

