-- ==== Sys2Proof/Laws/KeptQueues.lean ====
section
/-! SUPPORT. What the operations of Machine/Queues.lean keep (Safety.lean). -/
namespace Sys2Proof.Machine

theorem demoteHot_kept {s0 : State} {s : State} {p : Nat} (hs : Kept s0 s) :
    OptAll (fun y => Kept s0 y) (demoteHot s p) := by
  unfold demoteHot
  repeat' with_reducible first
    | assumption | intro _ | apply optAll_some | exact optAll_none | apply kept_ite | apply raise_kept
    | apply modHp_kept | apply modSq_kept | split | extract_lets | apply kept_mk

theorem makeRoom_kept {s0 : State} {s : State} {p : Nat} {e0 : Nat} (hs : Kept s0 s) :
    Kept s0 (makeRoom s p e0).1 := by
  induction e0 generalizing s p hs with
  | zero =>
    unfold makeRoom
    repeat' with_reducible first
      | assumption | intro _ | apply kept_ite | apply demoteHot_kept | refine kept_of_some (by assumption) ?_
      | split | extract_lets | apply kept_mk
  | succ k ih =>
    unfold makeRoom
    repeat' with_reducible first
      | assumption | intro _ | apply kept_ite | apply ih | apply demoteHot_kept
      | refine kept_of_some (by assumption) ?_ | split | extract_lets | apply kept_mk

theorem promote_kept {s0 : State} {s : State} {i : Nat} (hs : Kept s0 s) :
    Kept s0 (promote s i) := by
  unfold promote
  repeat' with_reducible first
    | assumption | intro _ | apply kept_ite | apply modSq_kept | apply makeRoom_kept
    | refine kept_of_fst (by assumption) ?_ | split | extract_lets | apply kept_mk

theorem pinHot_kept {s0 : State} {s : State} {i : Nat} {p : Nat} (hs : Kept s0 s) :
    Kept s0 (pinHot s i p) := by
  unfold pinHot
  repeat' with_reducible first
    | assumption | intro _ | apply kept_ite | apply modSq_kept | apply makeRoom_kept | split | extract_lets
    | apply kept_mk

theorem execDoorbellScanDue_kept {s0 : State} {sq : Nat} {s : State} (hs : Kept s0 s) :
    KeptO s0 (execDoorbellScanDue sq s) := by
  unfold execDoorbellScanDue
  repeat' with_reducible first
    | assumption | intro _ | apply keptO_next | apply keptO_ite | apply kept_ite | apply modHp_kept
    | apply hostRead_kept | apply modSq_kept | split | extract_lets | apply kept_mk

theorem sqError_kept {s0 : State} {s : State} {i : Nat} {q : Sq} {r : QReason} {e : Ev} (hs : Kept s0 s) :
    Kept s0 (sqError s i q r e) := by
  unfold sqError
  repeat' with_reducible first
    | assumption | intro _ | apply kept_ite | apply raise_kept | apply eqPost_kept | apply stopSq_kept | split
    | extract_lets | apply kept_mk

theorem doorbell_kept {s0 : State} {s : State} {i : Nat} {q : Sq} {pi : Nat} {seq : Nat} (hs : Kept s0 s) :
    Kept s0 (doorbell s i q pi seq) := by
  unfold doorbell
  repeat' with_reducible first
    | assumption | intro _ | apply kept_ite | apply raise_kept | apply modHp_kept | apply modSq_kept
    | apply promote_kept | apply sqError_kept | split | extract_lets | apply kept_mk

theorem modTen_kept {s0 : State} {s : State} {t : Nat} {f : Tenant → Tenant} (hs : Kept s0 s) :
    Kept s0 (modTen s t f) := by
  unfold modTen
  repeat' with_reducible first
    | assumption | intro _ | apply kept_ite | split | extract_lets | apply kept_mk

theorem creditBack_kept {s0 : State} {s : State} {t : Nat} {f : Tenant → Tenant} (hs : Kept s0 s) :
    Kept s0 (creditBack s t f) := by
  unfold creditBack
  repeat' with_reducible first
    | assumption | intro _ | apply kept_ite | apply modTen_kept | split | extract_lets | apply kept_mk

theorem pushDiscard_kept {s0 : State} {s : State} {t : Nat} (hs : Kept s0 s) :
    Kept s0 (pushDiscard s t) := by
  unfold pushDiscard
  repeat' with_reducible first
    | assumption | intro _ | apply kept_ite | apply raiseOnceFor_kept | apply modTen_kept | split | extract_lets
    | apply kept_mk

theorem pushTake_kept {s0 : State} {s : State} {i : Nat} {es : List Entry} (hs : Kept s0 s) :
    Kept s0 (pushTake s i es) := by
  unfold pushTake
  repeat' with_reducible first
    | assumption | intro _ | apply kept_ite | apply kept_foldl | apply modSq_kept | split | extract_lets
    | apply kept_mk

theorem pushEnd_kept {s0 : State} {s : State} {k : Nat} (hs : Kept s0 s) :
    Kept s0 (pushEnd s k) := by
  unfold pushEnd
  repeat' with_reducible first
    | assumption | intro _ | apply kept_ite | apply promote_kept | apply creditBack_kept | apply pushDiscard_kept
    | apply pushTake_kept | split | extract_lets | apply kept_mk

theorem pushesTaken_kept {s0 : State} {s : State} {i : Nat} {mine : Nat × PushSlot → Bool} (hs : Kept s0 s) :
    Kept s0 (pushesTaken s i mine) := by
  unfold pushesTaken
  repeat' with_reducible first
    | assumption | intro _ | apply kept_ite | apply kept_foldl | apply kept_foldr | apply pushEnd_kept | split
    | extract_lets | apply kept_foldl_fst | apply kept_foldl_snd | apply kept_mk

theorem doorbellRead_kept {s0 : State} {s : State} {sq : Nat} {data : HostData} (hs : Kept s0 s) :
    Kept s0 (doorbellRead s sq data) := by
  unfold doorbellRead
  repeat' with_reducible first
    | assumption | intro _ | apply kept_ite | apply modSq_kept | apply doorbell_kept | apply pushesTaken_kept
    | split | extract_lets | apply kept_mk

theorem execDoorbellRecordRead_kept {s0 : State} {sq : Nat} {data : HostData} {s : State} (hs : Kept s0 s) :
    KeptO s0 (execDoorbellRecordRead sq data s) := by
  unfold execDoorbellRecordRead
  repeat' with_reducible first
    | assumption | intro _ | apply keptO_next | apply keptO_ite | apply kept_ite | apply takeRead_kept
    | apply doorbellRead_kept | split | extract_lets | apply kept_mk

theorem execHotIdleExpire_kept {s0 : State} {sq : Nat} {s : State} (hs : Kept s0 s) :
    KeptO s0 (execHotIdleExpire sq s) := by
  unfold execHotIdleExpire
  repeat' with_reducible first
    | assumption | intro _ | apply keptO_next | apply keptO_ite | apply kept_ite | apply modSq_kept | split
    | extract_lets | apply kept_mk

theorem execWarmIdleExpire_kept {s0 : State} {sq : Nat} {s : State} (hs : Kept s0 s) :
    KeptO s0 (execWarmIdleExpire sq s) := by
  unfold execWarmIdleExpire
  repeat' with_reducible first
    | assumption | intro _ | apply keptO_next | apply keptO_ite | apply kept_ite | apply modSq_kept | split
    | extract_lets | apply kept_mk

theorem stretchDemote_kept {s0 : State} {s : State} {p : Nat} {e0 : Nat} (hs : Kept s0 s) :
    Kept s0 (stretchDemote s p e0) := by
  induction e0 generalizing s p hs with
  | zero =>
    unfold stretchDemote
    repeat' with_reducible first
      | assumption | intro _ | apply kept_ite | apply modSq_kept | split | extract_lets | apply kept_mk
  | succ k ih =>
    unfold stretchDemote
    repeat' with_reducible first
      | assumption | intro _ | apply kept_ite | apply ih | apply modSq_kept | split | extract_lets | apply kept_mk

theorem execStretchCompute_kept {s0 : State} {port : HostPort} {s : State} (hs : Kept s0 s) :
    KeptO s0 (execStretchCompute port s) := by
  unfold execStretchCompute
  repeat' with_reducible first
    | assumption | intro _ | apply keptO_next | apply keptO_ite | apply kept_ite | apply bumpFree_kept
    | apply modHp_kept | apply stretchDemote_kept | split | extract_lets | apply kept_mk

theorem decodeSq_kept {s0 : State} {s : State} {i : Nat} (hs : Kept s0 s) :
    Kept s0 (decodeSq s i) := by
  unfold decodeSq
  repeat' with_reducible first
    | assumption | intro _ | apply kept_ite | apply modSq_kept | split | extract_lets | apply kept_mk

theorem execSqFetch_kept {s0 : State} {sq : Nat} {s : State} (hs : Kept s0 s) :
    KeptO s0 (execSqFetch sq s) := by
  unfold execSqFetch
  repeat' with_reducible first
    | assumption | intro _ | apply keptO_next | apply keptO_ite | apply kept_ite | apply hostRead_kept
    | apply modSq_kept | apply decodeSq_kept | split | extract_lets | apply kept_mk

theorem ringRead_kept {s0 : State} {s : State} {sq : Nat} {data : HostData} (hs : Kept s0 s) :
    Kept s0 (ringRead s sq data) := by
  unfold ringRead
  repeat' with_reducible first
    | assumption | intro _ | apply kept_ite | apply modSq_kept | apply sqError_kept | apply decodeSq_kept | split
    | extract_lets | apply kept_mk

theorem execSqRingReadEnd_kept {s0 : State} {sq : Nat} {data : HostData} {s : State} (hs : Kept s0 s) :
    KeptO s0 (execSqRingReadEnd sq data s) := by
  unfold execSqRingReadEnd
  repeat' with_reducible first
    | assumption | intro _ | apply keptO_next | apply keptO_ite | apply kept_ite | apply takeRead_kept
    | apply ringRead_kept | split | extract_lets | apply kept_mk

theorem pushAssemble_kept {s0 : State} {s : State} {t : Nat} {k : Nat} {o : Nat} {bytes : List Byte} {sl : PushSlot}
    (hs : Kept s0 s) :
    Kept s0 (pushAssemble s t k o bytes sl) := by
  unfold pushAssemble
  repeat' with_reducible first
    | assumption | intro _ | apply kept_ite | apply creditBack_kept | apply pushDiscard_kept | split | extract_lets
    | apply kept_mk

theorem overCredit_kept {s0 : State} {s : State} {t : Nat} (hs : Kept s0 s) :
    Kept s0 (overCredit s t) := by
  unfold overCredit
  repeat' with_reducible first
    | assumption | intro _ | apply kept_ite | apply modTen_kept | split | extract_lets | apply kept_mk

theorem slotWrite_kept {s0 : State} {s : State} {t : Nat} {k : Nat} {o : Nat} {bytes : List Byte} (hs : Kept s0 s) :
    Kept s0 (slotWrite s t k o bytes) := by
  unfold slotWrite
  repeat' with_reducible first
    | assumption | intro _ | apply kept_ite | apply pushDiscard_kept | apply pushAssemble_kept
    | apply overCredit_kept | split | extract_lets | apply kept_mk

theorem execPushSlotWrite_kept {s0 : State} {port : HostPort} {tenant : TenantId} {slot : Fin 32} {offset : Fin 512}
    {bytes : List Byte} {s : State} (hs : Kept s0 s) :
    KeptO s0 (execPushSlotWrite port tenant slot offset bytes s) := by
  unfold execPushSlotWrite
  repeat' with_reducible first
    | assumption | intro _ | apply keptO_next | apply keptO_ite | apply kept_ite | apply barGate_kept
    | apply modTen_kept | apply slotWrite_kept | split | extract_lets | apply kept_mk

theorem execPushValidate_kept {s0 : State} {tenant : TenantId} {slot : Fin 32} {s : State} (hs : Kept s0 s) :
    KeptO s0 (execPushValidate tenant slot s) := by
  unfold execPushValidate
  repeat' with_reducible first
    | assumption | intro _ | apply keptO_next | apply keptO_ite | apply kept_ite | apply pushEnd_kept
    | apply pushesTaken_kept | split | extract_lets | apply kept_mk

theorem execPushAsmTimeout_kept {s0 : State} {tenant : TenantId} {slot : Fin 32} {s : State} (hs : Kept s0 s) :
    KeptO s0 (execPushAsmTimeout tenant slot s) := by
  unfold execPushAsmTimeout
  repeat' with_reducible first
    | assumption | intro _ | apply keptO_next | apply keptO_ite | apply kept_ite | apply creditBack_kept
    | apply pushDiscard_kept | split | extract_lets | apply kept_mk

theorem execPushRefusedTimeout_kept {s0 : State} {tenant : TenantId} {slot : Fin 32} {s : State} (hs : Kept s0 s) :
    KeptO s0 (execPushRefusedTimeout tenant slot s) := by
  unfold execPushRefusedTimeout
  repeat' with_reducible first
    | assumption | intro _ | apply keptO_next | apply keptO_ite | apply kept_ite | split | extract_lets
    | apply kept_mk

theorem execCreditWordWrite_kept {s0 : State} {tenant : TenantId} {s : State} (hs : Kept s0 s) :
    KeptO s0 (execCreditWordWrite tenant s) := by
  unfold execCreditWordWrite
  repeat' with_reducible first
    | assumption | intro _ | apply keptO_next | apply keptO_ite | apply kept_ite | apply hostWrite_kept
    | apply modTen_kept | split | extract_lets | apply kept_mk

theorem aqRefuse_kept {s0 : State} {s : State} {p : Nat} {err : Nat} (hs : Kept s0 s) :
    Kept s0 (aqRefuse s p err) := by
  unfold aqRefuse
  repeat' with_reducible first
    | assumption | intro _ | apply kept_ite | apply wr_kept | apply modHp_kept | split | extract_lets
    | apply kept_mk

theorem aqStart_kept {s0 : State} {s : State} {p : Nat} {abi : Nat} (hs : Kept s0 s) :
    Kept s0 (aqStart s p abi) := by
  unfold aqStart
  repeat' with_reducible first
    | assumption | intro _ | apply kept_ite | apply wr_kept | apply modHp_kept | apply dropSys_kept
    | apply makeRoom_kept | refine kept_of_fst (by assumption) ?_ | split | extract_lets | apply kept_mk

theorem aqEnable_kept {s0 : State} {s : State} {p : Nat} (hs : Kept s0 s) :
    Kept s0 (aqEnable s p) := by
  unfold aqEnable
  repeat' with_reducible first
    | assumption | intro _ | apply kept_ite | apply raise_kept | apply aqRefuse_kept | apply aqStart_kept | split
    | extract_lets | apply kept_mk

theorem aqDisable_kept {s0 : State} {s : State} {p : Nat} (hs : Kept s0 s) :
    Kept s0 (aqDisable s p) := by
  unfold aqDisable
  repeat' with_reducible first
    | assumption | intro _ | apply kept_ite | apply wr_kept | apply modHp_kept | apply dropSys_kept
    | apply modSq_kept | split | extract_lets | apply kept_mk

theorem execAqEnable_kept {s0 : State} {port : HostPort} {s : State} (hs : Kept s0 s) :
    KeptO s0 (execAqEnable port s) := by
  unfold execAqEnable
  repeat' with_reducible first
    | assumption | intro _ | apply keptO_next | apply keptO_ite | apply kept_ite | apply regGate_kept
    | apply aqEnable_kept | split | extract_lets | apply kept_mk

theorem execAqDisable_kept {s0 : State} {port : HostPort} {s : State} (hs : Kept s0 s) :
    KeptO s0 (execAqDisable port s) := by
  unfold execAqDisable
  repeat' with_reducible first
    | assumption | intro _ | apply keptO_next | apply keptO_ite | apply kept_ite | apply regGate_kept
    | apply aqDisable_kept | split | extract_lets | apply kept_mk

theorem execNop_kept {s0 : State} {port : HostPort} {s : State} (hs : Kept s0 s) :
    KeptO s0 (execNop port s) := by
  unfold execNop
  repeat' with_reducible first
    | assumption | intro _ | apply keptO_next | apply keptO_ite | apply kept_ite | apply finishAdmin_kept
    | apply adminRun_kept | split | extract_lets | apply kept_mk

theorem execDnop_kept {s0 : State} {uid : Nat} {s : State} (hs : Kept s0 s) :
    KeptO s0 (execDnop uid s) := by
  unfold execDnop
  repeat' with_reducible first
    | assumption | intro _ | apply keptO_next | apply keptO_ite | apply kept_ite | apply finishJob_kept
    | apply jobRun_kept | split | extract_lets | apply kept_mk

theorem createSq_kept {s0 : State} {s : State} {p : Nat} {e : Entry} (hs : Kept s0 s) :
    Kept s0 (createSq s p e) := by
  unfold createSq
  repeat' with_reducible first
    | assumption | intro _ | apply kept_ite | apply kept_foldl | apply bumpFree_kept | apply finishAdmin_kept
    | apply pinHot_kept | split | extract_lets | apply kept_foldl_fst | apply kept_foldl_snd | apply kept_mk

theorem createCq_kept {s0 : State} {s : State} {p : Nat} {e : Entry} (hs : Kept s0 s) :
    Kept s0 (createCq s p e) := by
  unfold createCq
  repeat' with_reducible first
    | assumption | intro _ | apply kept_ite | apply kept_foldl | apply bumpFree_kept | apply finishAdmin_kept
    | split | extract_lets | apply kept_foldl_fst | apply kept_foldl_snd | apply kept_mk

theorem createEq_kept {s0 : State} {s : State} {p : Nat} {e : Entry} (hs : Kept s0 s) :
    Kept s0 (createEq s p e) := by
  unfold createEq
  repeat' with_reducible first
    | assumption | intro _ | apply kept_ite | apply bumpFree_kept | apply finishAdmin_kept | split | extract_lets
    | apply kept_mk

theorem sxDrop_kept {s0 : State} {s : State} {uid : Nat} (hs : Kept s0 s) :
    Kept s0 (sxDrop s uid) := by
  unfold sxDrop
  repeat' with_reducible first
    | assumption | intro _ | apply kept_ite | apply devFree_kept | split | extract_lets | apply kept_mk

theorem sxLate_kept {s0 : State} {s : State} {uid : Nat} (hs : Kept s0 s) :
    Kept s0 (sxLate s uid) := by
  unfold sxLate
  repeat' with_reducible first
    | assumption | intro _ | apply kept_ite | split | extract_lets | apply kept_mk

theorem tpDrop_kept {s0 : State} {s : State} {uid : Nat} (hs : Kept s0 s) :
    Kept s0 (tpDrop s uid) := by
  unfold tpDrop
  repeat' with_reducible first
    | assumption | intro _ | apply kept_ite | apply kept_foldl | apply devFree_kept | split | extract_lets
    | apply kept_foldl_fst | apply kept_foldl_snd | apply kept_mk

theorem cancelJob_kept {s0 : State} {s : State} {uid : Nat} (hs : Kept s0 s) :
    Kept s0 (cancelJob s uid) := by
  unfold cancelJob
  repeat' with_reducible first
    | assumption | intro _ | apply kept_ite | apply kept_foldl | apply devFree_kept | apply withdrawJob_kept
    | apply sxDrop_kept | apply tpDrop_kept | split | extract_lets | apply kept_mk

theorem dropJob_kept {s0 : State} {s : State} {uid : Nat} (hs : Kept s0 s) :
    Kept s0 (dropJob s uid) := by
  unfold dropJob
  repeat' with_reducible first
    | assumption | intro _ | apply kept_ite | apply modSq_kept | apply settleSq_kept | apply cancelJob_kept | split
    | extract_lets | apply kept_mk

theorem quitJob_kept {s0 : State} {s : State} {uid : Nat} (hs : Kept s0 s) :
    Kept s0 (quitJob s uid) := by
  unfold quitJob
  repeat' with_reducible first
    | assumption | intro _ | apply kept_ite | apply sxLate_kept | apply cancelJob_kept | split | extract_lets
    | apply kept_mk

theorem endSq_kept {s0 : State} {s : State} {i : Nat} (hs : Kept s0 s) :
    Kept s0 (endSq s i) := by
  unfold endSq
  repeat' with_reducible first
    | assumption | intro _ | apply kept_ite | apply kept_foldl | apply advGen_kept | apply dropSys_kept
    | apply modSq_kept | apply quitJob_kept | split | extract_lets | apply kept_mk

theorem endCq_kept {s0 : State} {s : State} {i : Nat} (hs : Kept s0 s) :
    Kept s0 (endCq s i) := by
  unfold endCq
  repeat' with_reducible first
    | assumption | intro _ | apply kept_ite | apply advGen_kept | apply dropSys_kept | apply modCq_kept | split
    | extract_lets | apply kept_mk

theorem endEq_kept {s0 : State} {s : State} {i : Nat} (hs : Kept s0 s) :
    Kept s0 (endEq s i) := by
  unfold endEq
  repeat' with_reducible first
    | assumption | intro _ | apply kept_ite | apply advGen_kept | apply dropSys_kept | apply modEq_kept
    | apply intaUpdate_kept | split | extract_lets | apply kept_mk

theorem execDestroySq_kept {s0 : State} {port : HostPort} {s : State} (hs : Kept s0 s) :
    KeptO s0 (execDestroySq port s) := by
  unfold execDestroySq
  repeat' with_reducible first
    | assumption | intro _ | apply keptO_next | apply keptO_ite | apply kept_ite | apply finishAdmin_kept
    | apply adminRun_kept | apply adminWait_kept | apply modSq_kept | apply endSq_kept | split | extract_lets
    | apply kept_mk

theorem execDestroyCq_kept {s0 : State} {port : HostPort} {s : State} (hs : Kept s0 s) :
    KeptO s0 (execDestroyCq port s) := by
  unfold execDestroyCq
  repeat' with_reducible first
    | assumption | intro _ | apply keptO_next | apply keptO_ite | apply kept_ite | apply advGen_kept
    | apply dropSys_kept | apply finishAdmin_kept | apply adminRun_kept | split | extract_lets | apply kept_mk

theorem execDestroyEq_kept {s0 : State} {port : HostPort} {s : State} (hs : Kept s0 s) :
    KeptO s0 (execDestroyEq port s) := by
  unfold execDestroyEq
  repeat' with_reducible first
    | assumption | intro _ | apply keptO_next | apply keptO_ite | apply kept_ite | apply advGen_kept
    | apply dropSys_kept | apply finishAdmin_kept | apply adminRun_kept | apply intaUpdate_kept | split
    | extract_lets | apply kept_mk

theorem execQueueQuery_kept {s0 : State} {port : HostPort} {s : State} (hs : Kept s0 s) :
    KeptO s0 (execQueueQuery port s) := by
  unfold execQueueQuery
  repeat' with_reducible first
    | assumption | intro _ | apply keptO_next | apply keptO_ite | apply kept_ite | apply hostWrite_kept
    | apply finishAdmin_kept | apply adminRun_kept | split | extract_lets | apply kept_mk

theorem execSetScan_kept {s0 : State} {port : HostPort} {s : State} (hs : Kept s0 s) :
    KeptO s0 (execSetScan port s) := by
  unfold execSetScan
  repeat' with_reducible first
    | assumption | intro _ | apply keptO_next | apply keptO_ite | apply kept_ite | apply finishAdmin_kept
    | apply adminRun_kept | apply modSq_kept | apply pinHot_kept | split | extract_lets | apply kept_mk

theorem execAqBindEq_kept {s0 : State} {port : HostPort} {s : State} (hs : Kept s0 s) :
    KeptO s0 (execAqBindEq port s) := by
  unfold execAqBindEq
  repeat' with_reducible first
    | assumption | intro _ | apply keptO_next | apply keptO_ite | apply kept_ite | apply modHp_kept
    | apply finishAdmin_kept | apply adminRun_kept | split | extract_lets | apply kept_mk

theorem allocMany_kept {s0 : State} {s u : State} {r p n : Nat} {acc l : List Nat}
    (e : allocMany s r p n acc = .ok (l, u)) (hs : Kept s0 s) : Kept s0 u := by
  induction n generalizing s acc with
  | zero => cases e; exact hs
  | succ n ih =>
    unfold allocMany at e
    split at e
    · rename_i a
      exact ih e (kept_of_snd a (allocFrom_kept hs))
    · cases e

theorem execPeerBufAlloc_kept {s0 : State} {port : HostPort} {s : State} (hs : Kept s0 s) :
    KeptO s0 (execPeerBufAlloc port s) := by
  unfold execPeerBufAlloc
  refine keptO_next (adminRun_kept hs fun x e hx => ?_)
  dsimp only
  split
  · exact finishAdmin_kept hx
  · split
    · exact finishAdmin_kept hx
    · split
      · rename_i h
        have hu := allocMany_kept h hx
        exact finishAdmin_kept (modTen_kept (bumpFree_kept (kept_sysmem hu (memWf_writeMem _ _ _))))
      · exact finishAdmin_kept (allocFailed_kept hx)

theorem execPeerBufFree_kept {s0 : State} {port : HostPort} {s : State} (hs : Kept s0 s) :
    KeptO s0 (execPeerBufFree port s) := by
  unfold execPeerBufFree
  repeat' with_reducible first
    | assumption | intro _ | apply keptO_next | apply keptO_ite | apply kept_ite | apply kept_foldl
    | apply finishAdmin_kept | apply adminRun_kept | apply devFree_kept | apply modTen_kept | split | extract_lets
    | apply kept_foldl_fst | apply kept_foldl_snd | apply kept_mk

theorem freeQueue_kept {s0 : State} {s : State} {i : Nat} (hs : Kept s0 s) :
    Kept s0 (freeQueue s i) := by
  unfold freeQueue
  repeat' with_reducible first
    | assumption | intro _ | apply kept_ite | apply finishAdmin_kept | split | extract_lets | dsimp +zetaDelta only
    | apply kept_mk

theorem execQueueDrainEnd_kept {s0 : State} {queue : Nat} {s : State} (hs : Kept s0 s) :
    KeptO s0 (execQueueDrainEnd queue s) := by
  unfold execQueueDrainEnd
  repeat' with_reducible first
    | assumption | intro _ | apply keptO_next | apply keptO_ite | apply kept_ite | apply freeQueue_kept | split
    | extract_lets | apply kept_mk

theorem cancelReqs_kept {s0 : State} {s : State} {t : List (Nat × Nat) → Bool} (hs : Kept s0 s) :
    Kept s0 (cancelReqs s t) := by
  unfold cancelReqs
  repeat' with_reducible first
    | assumption | intro _ | apply kept_ite | split | extract_lets | apply kept_mk

theorem execQueueDrainTimeout_kept {s0 : State} {queue : Nat} {s : State} (hs : Kept s0 s) :
    KeptO s0 (execQueueDrainTimeout queue s) := by
  unfold execQueueDrainTimeout
  repeat' with_reducible first
    | assumption | intro _ | apply keptO_next | apply keptO_ite | apply kept_ite | apply kept_foldl
    | apply cancelJob_kept | apply freeQueue_kept | apply cancelReqs_kept | split | extract_lets | apply kept_mk

theorem execCreateSq_kept {s0 : State} {port : HostPort} {s : State} (hs : Kept s0 s) :
    KeptO s0 (execCreateSq port s) := by
  unfold execCreateSq
  repeat' with_reducible first
    | assumption | intro _ | apply keptO_next | apply keptO_ite | apply kept_ite | apply adminRun_kept
    | apply createSq_kept | split | extract_lets | apply kept_mk

theorem execCreateCq_kept {s0 : State} {port : HostPort} {s : State} (hs : Kept s0 s) :
    KeptO s0 (execCreateCq port s) := by
  unfold execCreateCq
  repeat' with_reducible first
    | assumption | intro _ | apply keptO_next | apply keptO_ite | apply kept_ite | apply adminRun_kept
    | apply createCq_kept | split | extract_lets | apply kept_mk

theorem execCreateEq_kept {s0 : State} {port : HostPort} {s : State} (hs : Kept s0 s) :
    KeptO s0 (execCreateEq port s) := by
  unfold execCreateEq
  repeat' with_reducible first
    | assumption | intro _ | apply keptO_next | apply keptO_ite | apply kept_ite | apply adminRun_kept
    | apply createEq_kept | split | extract_lets | apply kept_mk

end Sys2Proof.Machine
end

