-- ==== Sys2Proof/Laws/KeptMac.lean ====
section
/-! SUPPORT. What the operations of Machine/Mac.lean keep (Safety.lean). -/
namespace Sys2Proof.Machine

theorem enterTraining_kept {s0 : State} {s : State} {p : Nat} (hs : Kept s0 s) :
    Kept s0 (enterTraining s p) := by
  unfold enterTraining
  repeat' with_reducible first
    | assumption | intro _ | apply kept_ite | apply modMac_kept | split | extract_lets | apply kept_mk

theorem verifyStart_kept {s0 : State} {s : State} {p : Nat} (hs : Kept s0 s) :
    Kept s0 (verifyStart s p) := by
  unfold verifyStart
  repeat' with_reducible first
    | assumption | intro _ | apply kept_ite | apply modMac_kept | split | extract_lets | apply kept_mk

theorem enterUp_kept {s0 : State} {s : State} {p : Nat} (hs : Kept s0 s) :
    Kept s0 (enterUp s p) := by
  unfold enterUp
  repeat' with_reducible first
    | assumption | intro _ | apply kept_ite | apply raise_kept | apply modMac_kept | apply fcRecheck_kept
    | apply verifyStart_kept | split | extract_lets | apply kept_mk

theorem goDown_kept {s0 : State} {s : State} {p : Nat} {st : MacSt} (hs : Kept s0 s) :
    Kept s0 (goDown s p st) := by
  unfold goDown
  repeat' with_reducible first
    | assumption | intro _ | apply kept_ite | apply modMac_kept | apply ingressCut_kept | apply egCut_kept
    | apply verifyStart_kept | split | extract_lets | apply kept_mk

theorem pcfgWrite_kept {s0 : State} {s : State} {p : Nat} {w : Nat} (hs : Kept s0 s) :
    Kept s0 (pcfgWrite s p w) := by
  unfold pcfgWrite
  repeat' with_reducible first
    | assumption | intro _ | apply kept_ite | apply regStore_kept | apply enterTraining_kept | apply goDown_kept
    | refine kept_of_fst (by assumption) ?_ | split | extract_lets | apply kept_mk

theorem execPortEnable_kept {s0 : State} {port : HostPort} {net : NetPort} {value : Word} {s : State} (hs : Kept s0 s)
    :
    KeptO s0 (execPortEnable port net value s) := by
  unfold execPortEnable
  repeat' with_reducible first
    | assumption | intro _ | apply keptO_next | apply keptO_ite | apply kept_ite | apply regGate_kept
    | apply pcfgWrite_kept | split | extract_lets | apply kept_mk

theorem execPortDisable_kept {s0 : State} {port : HostPort} {net : NetPort} {value : Word} {s : State} (hs : Kept s0
    s) :
    KeptO s0 (execPortDisable port net value s) := by
  unfold execPortDisable
  repeat' with_reducible first
    | assumption | intro _ | apply keptO_next | apply keptO_ite | apply kept_ite | apply regGate_kept
    | apply pcfgWrite_kept | split | extract_lets | apply kept_mk

theorem execNetLinkLock_kept {s0 : State} {net : NetPort} {s : State} (hs : Kept s0 s) :
    KeptO s0 (execNetLinkLock net s) := by
  unfold execNetLinkLock
  repeat' with_reducible first
    | assumption | intro _ | apply keptO_next | apply keptO_ite | apply kept_ite | apply enterUp_kept | split
    | extract_lets | apply kept_mk

theorem execTrainingTimeout_kept {s0 : State} {net : NetPort} {s : State} (hs : Kept s0 s) :
    KeptO s0 (execTrainingTimeout net s) := by
  unfold execTrainingTimeout
  repeat' with_reducible first
    | assumption | intro _ | apply keptO_next | apply keptO_ite | apply kept_ite | apply enterTraining_kept | split
    | extract_lets | apply kept_mk

theorem execNetLinkFault_kept {s0 : State} {net : NetPort} {kind : Fin 3} {s : State} (hs : Kept s0 s) :
    KeptO s0 (execNetLinkFault net kind s) := by
  unfold execNetLinkFault
  repeat' with_reducible first
    | assumption | intro _ | apply keptO_next | apply keptO_ite | apply kept_ite | apply raise_kept
    | apply modMac_kept | apply goDown_kept | split | extract_lets | apply kept_mk

theorem execNetLinkFaultClear_kept {s0 : State} {net : NetPort} {s : State} (hs : Kept s0 s) :
    KeptO s0 (execNetLinkFaultClear net s) := by
  unfold execNetLinkFaultClear
  repeat' with_reducible first
    | assumption | intro _ | apply keptO_next | apply keptO_ite | apply kept_ite | apply modMac_kept
    | apply enterTraining_kept | apply enterUp_kept | split | extract_lets | apply kept_mk

theorem execDownHoldExpire_kept {s0 : State} {net : NetPort} {s : State} (hs : Kept s0 s) :
    KeptO s0 (execDownHoldExpire net s) := by
  unfold execDownHoldExpire
  repeat' with_reducible first
    | assumption | intro _ | apply keptO_next | apply keptO_ite | apply kept_ite | apply raise_kept
    | apply modMac_kept | apply egFlush_kept | split | extract_lets | apply kept_mk

theorem pauseNote_kept {s0 : State} {s : State} {p : Nat} {c : Nat} {time : Nat} (hs : Kept s0 s) :
    Kept s0 (pauseNote s p c time) := by
  unfold pauseNote
  repeat' with_reducible first
    | assumption | intro _ | apply kept_ite | apply modMac_kept | split | extract_lets | apply kept_mk

theorem ctrlRx_kept {s0 : State} {s : State} {p : Nat} {b : List Byte} (hs : Kept s0 s) :
    Kept s0 (ctrlRx s p b) := by
  have h1 : Kept s0 (cadd s 5 p 7 1) := cadd_kept hs
  unfold ctrlRx
  simp only []
  split
  · split
    · exact kept_foldl _ (cadd_kept h1) fun x a hx => pauseNote_kept hx
    · exact cadd_kept h1
  · refine kept_foldl _ h1 fun x a hx => ?_
    split
    · split
      · exact pauseNote_kept (cadd_kept hx)
      · exact cadd_kept hx
    · exact hx
  · exact cadd_kept h1

theorem pauseApply_kept {s0 : State} {s : State} {p : Nat} {c : Nat} {time : Nat} {at_ : Nat} (hs : Kept s0 s) :
    Kept s0 (pauseApply s p c time at_) := by
  unfold pauseApply
  repeat' with_reducible first
    | assumption | intro _ | apply kept_ite | apply modMac_kept | split | extract_lets | apply kept_mk

theorem execPauseEffect_kept {s0 : State} {net : NetPort} {s : State} (hs : Kept s0 s) :
    KeptO s0 (execPauseEffect net s) := by
  unfold execPauseEffect
  repeat' with_reducible first
    | assumption | intro _ | apply keptO_next | apply keptO_ite | apply kept_ite | apply kept_foldl
    | apply modMac_kept | apply pauseApply_kept | split | extract_lets | apply kept_foldl_fst
    | apply kept_foldl_snd | apply kept_mk

theorem execPauseExpire_kept {s0 : State} {net : NetPort} {cls : ClassId} {s : State} (hs : Kept s0 s) :
    KeptO s0 (execPauseExpire net cls s) := by
  unfold execPauseExpire
  repeat' with_reducible first
    | assumption | intro _ | apply keptO_next | apply keptO_ite | apply kept_ite | apply modMac_kept | split
    | extract_lets | apply kept_mk

theorem execXoffRefresh_kept {s0 : State} {net : NetPort} {cls : ClassId} {s : State} (hs : Kept s0 s) :
    KeptO s0 (execXoffRefresh net cls s) := by
  unfold execXoffRefresh
  repeat' with_reducible first
    | assumption | intro _ | apply keptO_next | apply keptO_ite | apply kept_ite | apply modMac_kept
    | apply sendPause_kept | split | extract_lets | apply kept_mk

theorem wdRecover_kept {s0 : State} {s : State} {p : Nat} {c : Nat} {tx : Bool} (hs : Kept s0 s) :
    Kept s0 (wdRecover s p c tx) := by
  unfold wdRecover
  repeat' with_reducible first
    | assumption | intro _ | apply kept_ite | apply cadd_kept | apply raise_kept | apply modMac_kept
    | apply sendPause_kept | split | extract_lets | apply kept_mk

theorem execPauseWdTimeout_kept {s0 : State} {net : NetPort} {cls : ClassId} {tx : Bool} {s : State} (hs : Kept s0 s)
    :
    KeptO s0 (execPauseWdTimeout net cls tx s) := by
  unfold execPauseWdTimeout
  repeat' with_reducible first
    | assumption | intro _ | apply keptO_next | apply keptO_ite | apply kept_ite | apply wdRecover_kept | split
    | extract_lets | apply kept_mk

theorem execPauseWdRecoverEnd_kept {s0 : State} {net : NetPort} {cls : ClassId} {tx : Bool} {s : State} (hs : Kept s0
    s) :
    KeptO s0 (execPauseWdRecoverEnd net cls tx s) := by
  unfold execPauseWdRecoverEnd
  repeat' with_reducible first
    | assumption | intro _ | apply keptO_next | apply keptO_ite | apply kept_ite | apply modMac_kept
    | apply xoffCheck_kept | split | extract_lets | apply kept_mk

theorem pauseWdWrite_kept {s0 : State} {s : State} {p : Nat} {w : Nat} (hs : Kept s0 s) :
    Kept s0 (pauseWdWrite s p w) := by
  unfold pauseWdWrite
  repeat' with_reducible first
    | assumption | intro _ | apply kept_ite | apply kept_foldl | apply regStore_kept | apply wdRecover_kept
    | refine kept_of_fst (by assumption) ?_ | split | extract_lets | apply kept_mk

theorem execPauseWdEnable_kept {s0 : State} {port : HostPort} {net : NetPort} {value : Word} {s : State} (hs : Kept s0
    s) :
    KeptO s0 (execPauseWdEnable port net value s) := by
  unfold execPauseWdEnable
  repeat' with_reducible first
    | assumption | intro _ | apply keptO_next | apply keptO_ite | apply kept_ite | apply regGate_kept
    | apply pauseWdWrite_kept | split | extract_lets | apply kept_mk

theorem preemptWrite_kept {s0 : State} {s : State} {p : Nat} {w : Nat} (hs : Kept s0 s) :
    Kept s0 (preemptWrite s p w) := by
  unfold preemptWrite
  repeat' with_reducible first
    | assumption | intro _ | apply kept_ite | apply regStore_kept | apply withGates_kept | apply verifyStart_kept
    | refine kept_of_fst (by assumption) ?_ | split | extract_lets | apply kept_mk

theorem execPreemptVerifyEnd_kept {s0 : State} {net : NetPort} {pass : Bool} {s : State} (hs : Kept s0 s) :
    KeptO s0 (execPreemptVerifyEnd net pass s) := by
  unfold execPreemptVerifyEnd
  repeat' with_reducible first
    | assumption | intro _ | apply keptO_next | apply keptO_ite | apply kept_ite | apply raise_kept
    | apply modMac_kept | apply withGates_kept | split | extract_lets | apply kept_mk

end Sys2Proof.Machine
end

