-- ==== Sys2Proof/Laws/KeptSegments.lean ====
section
/-! SUPPORT. What the operations of Machine/Segments.lean keep (Safety.lean). -/
namespace Sys2Proof.Machine

theorem copySeg_kept {s0 : State} {s : State} {toSegs : Bool} {g : Seg} {mere : Nat} (hs : Kept s0 s) :
    Kept s0 (copySeg s toSegs g mere) := by
  unfold copySeg
  repeat' with_reducible first
    | assumption | intro _ | apply kept_ite | apply storeTouch_kept | apply storeWrite_kept | split | extract_lets
    | apply kept_mk

theorem moveSegs_kept {s0 : State} {s : State} {x : Xfer} {toSegs : Bool} {gs : List Seg} {mere : Nat} (hs : Kept s0
    s) :
    Kept s0 (moveSegs s x toSegs gs mere).2 := by
  unfold moveSegs
  repeat' with_reducible first
    | assumption | intro _ | apply kept_ite | apply kept_foldl | apply startXfer_kept | apply copySeg_kept
    | refine kept_of_fst (by assumption) ?_ | refine kept_of_snd (by assumption) ?_ | split | extract_lets
    | apply kept_foldl_fst | apply kept_foldl_snd | apply kept_mk

end Sys2Proof.Machine
end

