-- ==== Sys2Proof/Laws/KeptSluice.lean ====
section
/-! SUPPORT. What the operations of Machine/Sluice.lean keep (Safety.lean). -/
namespace Sys2Proof.Machine

theorem modSl_kept {s0 : State} {s : State} {f : Sluice → Sluice} (hs : Kept s0 s) :
    Kept s0 (modSl s f) := by
  unfold modSl
  repeat' with_reducible first
    | assumption | intro _ | apply kept_ite | split | extract_lets | apply kept_mk

theorem slOp_kept {s0 : State} {s : State} {op : Nat} (hs : Kept s0 s) :
    Kept s0 (slOp s op).2 := by
  unfold slOp
  repeat' with_reducible first
    | assumption | intro _ | apply kept_ite | apply kept_foldl | apply wr_kept | apply modSl_kept | split
    | extract_lets | apply kept_mk

theorem slCmdWrite_kept {s0 : State} {s : State} {w : Nat} (hs : Kept s0 s) :
    Kept s0 (slCmdWrite s w) := by
  unfold slCmdWrite
  repeat' with_reducible first
    | assumption | intro _ | apply kept_ite | apply regStore_kept | apply modSl_kept | apply slOp_kept
    | refine kept_of_fst (by assumption) ?_ | refine kept_of_snd (by assumption) ?_ | split | extract_lets
    | apply kept_mk

theorem slCmd_kept {s0 : State} {s : State} {port : HostPort} {value : Word} {op : Nat} (hs : Kept s0 s) :
    Kept s0 (slCmd s port value op) := by
  unfold slCmd
  repeat' with_reducible first
    | assumption | intro _ | apply kept_ite | apply regGate_kept | apply slCmdWrite_kept | split | extract_lets
    | apply kept_mk

theorem execSlRead_kept {s0 : State} {port : HostPort} {value : Word} {s : State} (hs : Kept s0 s) :
    KeptO s0 (execSlRead port value s) := by
  unfold execSlRead
  repeat' with_reducible first
    | assumption | intro _ | apply keptO_next | apply keptO_ite | apply kept_ite | apply slCmd_kept | split
    | extract_lets | apply kept_mk

theorem execSlWrite_kept {s0 : State} {port : HostPort} {value : Word} {s : State} (hs : Kept s0 s) :
    KeptO s0 (execSlWrite port value s) := by
  unfold execSlWrite
  repeat' with_reducible first
    | assumption | intro _ | apply keptO_next | apply keptO_ite | apply kept_ite | apply slCmd_kept | split
    | extract_lets | apply kept_mk

theorem execSlClear_kept {s0 : State} {port : HostPort} {value : Word} {s : State} (hs : Kept s0 s) :
    KeptO s0 (execSlClear port value s) := by
  unfold execSlClear
  repeat' with_reducible first
    | assumption | intro _ | apply keptO_next | apply keptO_ite | apply kept_ite | apply slCmd_kept | split
    | extract_lets | apply kept_mk

theorem execSlEntryRewrite_kept {s0 : State} {entry : Fin 4096} {s : State} (hs : Kept s0 s) :
    KeptO s0 (execSlEntryRewrite entry s) := by
  unfold execSlEntryRewrite
  repeat' with_reducible first
    | assumption | intro _ | apply keptO_next | apply keptO_ite | apply kept_ite | apply modSl_kept | split
    | extract_lets | apply kept_mk

theorem pipeDealt_kept {s0 : State} {s : State} {p : Nat} (hs : Kept s0 s) :
    Kept s0 (pipeDealt s p) := by
  unfold pipeDealt
  repeat' with_reducible first
    | assumption | intro _ | apply kept_ite | apply modMac_kept | split | extract_lets | apply kept_mk

theorem modArr_kept {s0 : State} {s : State} {p : Nat} {f : List SlArr → List SlArr} (hs : Kept s0 s) :
    Kept s0 (modArr s p f) := by
  unfold modArr
  repeat' with_reducible first
    | assumption | intro _ | apply kept_ite | apply modSl_kept | split | extract_lets | apply kept_mk

theorem slSt_kept {s0 : State} {s : State} {p : Nat} {id : Nat} {st : SlSt} (hs : Kept s0 s) :
    Kept s0 (slSt s p id st) := by
  unfold slSt
  repeat' with_reducible first
    | assumption | intro _ | apply kept_ite | apply modArr_kept | split | extract_lets | apply kept_mk

theorem commitFrame_kept {s0 : State} {s : State} {net : Nat} {x : SlArr} {c : Nat} {guard : Nat} {i : Nat} {w : Nat →
    Nat} (hs : Kept s0 s) :
    Kept s0 (commitFrame s net x c guard i w) := by
  unfold commitFrame
  repeat' with_reducible first
    | assumption | intro _ | apply kept_ite | apply modSl_kept | split | extract_lets | apply kept_mk

theorem execSluiceCandidate_kept {s0 : State} {net : NetPort} {head : List Byte} {expressMac : Bool} {parity : Bool}
    {age : Nat} {s : State} (hs : Kept s0 s) :
    KeptO s0 (execSluiceCandidate net head expressMac parity age s) := by
  unfold execSluiceCandidate
  repeat' with_reducible first
    | assumption | intro _ | apply keptO_next | apply keptO_ite | apply kept_ite | apply modArr_kept | split
    | extract_lets | apply kept_mk

theorem slLookup_kept {s0 : State} {s : State} {p : Nat} {x : SlArr} {c : Nat} {wait : Nat} {guard : Nat} (hs : Kept
    s0 s) :
    Kept s0 (slLookup s p x c wait guard) := by
  unfold slLookup
  repeat' with_reducible first
    | assumption | intro _ | apply kept_ite | apply cadd_kept | apply raise_kept | apply modSl_kept
    | apply slSt_kept | split | extract_lets | apply kept_mk

theorem sluiceLeft_kept {s0 : State} {s : State} {i : Nat} {b : List Byte} (hs : Kept s0 s) :
    Kept s0 (sluiceLeft s i b) := by
  unfold sluiceLeft
  repeat' with_reducible first
    | assumption | intro _ | apply kept_ite | apply modEg_kept | split | extract_lets | apply kept_mk

theorem postWrite_kept {s0 : State} {s : State} {j : Job} {o : Nat} {bytes : List Byte} (hs : Kept s0 s) :
    Kept s0 (postWrite s j o bytes) := by
  unfold postWrite
  repeat' with_reducible first
    | assumption | intro _ | apply kept_ite | apply kept_foldl | apply emit_kept | apply storeWrite_kept | split
    | extract_lets | apply kept_foldl_fst | apply kept_foldl_snd | apply kept_mk

theorem sluiceHostEnd_kept {s0 : State} {s : State} {i : Nat} {k : Commit} {b : List Byte} (hs : Kept s0 s) :
    Kept s0 (sluiceHostEnd s i k b) := by
  unfold sluiceHostEnd
  repeat' with_reducible first
    | assumption | intro _ | apply kept_ite | apply cadd_kept | apply finishJob_kept | apply modSl_kept
    | apply postWrite_kept | split | extract_lets | apply kept_mk

theorem sluiceHostMore_kept {s0 : State} {s : State} {i : Nat} {k : Commit} {arrived : List Byte} (hs : Kept s0 s) :
    Kept s0 (sluiceHostMore s i k arrived) := by
  unfold sluiceHostMore
  repeat' with_reducible first
    | assumption | intro _ | apply kept_ite | apply modSl_kept | apply postWrite_kept | split | extract_lets
    | apply kept_mk

theorem sluiceTake_kept {s0 : State} {s : State} {i : Nat} {k : Commit} {f : WireFrame} (hs : Kept s0 s) :
    Kept s0 (sluiceTake s i k f) := by
  unfold sluiceTake
  repeat' with_reducible first
    | assumption | intro _ | apply kept_ite | apply sluiceBad_kept | apply modSl_kept | apply sluiceLeft_kept
    | apply sluiceHostEnd_kept | split | extract_lets | apply kept_mk

theorem execSluiceStart_kept {s0 : State} {net : NetPort} {arrived : List Byte} {s : State} (hs : Kept s0 s) :
    KeptO s0 (execSluiceStart net arrived s) := by
  unfold execSluiceStart
  repeat' with_reducible first
    | assumption | intro _ | apply keptO_next | apply keptO_ite | apply kept_ite | apply startFrame_kept
    | apply modSl_kept | apply sluiceLeft_kept | apply sluiceHostEnd_kept | apply sluiceHostMore_kept | split
    | extract_lets | apply kept_mk

theorem slDecide_kept {s0 : State} {s : State} {p : Nat} {x : SlArr} {c : Nat} {wait : Nat} {guard : Nat} {i : Nat}
    {ws : List Nat} (hs : Kept s0 s) :
    Kept s0 (slDecide s p x c wait guard i ws) := by
  unfold slDecide
  repeat' with_reducible first
    | assumption | intro _ | apply kept_ite | apply cadd_kept | apply modArr_kept | apply slSt_kept
    | apply commitFrame_kept | apply sluiceTake_kept | split | extract_lets | apply kept_mk

theorem slStage_kept {s0 : State} {s : State} {p : Nat} {x : SlArr} (hs : Kept s0 s) :
    Kept s0 (slStage s p x) := by
  unfold slStage
  repeat' with_reducible first
    | assumption | intro _ | apply kept_ite | apply slSt_kept | apply slLookup_kept | apply slDecide_kept | split
    | extract_lets | apply kept_mk

end Sys2Proof.Machine
end

