-- ==== Sys2Proof/Laws/KeptReceive.lean ====
section
/-! SUPPORT. What the operations of Machine/Receive.lean keep (Safety.lean). -/
namespace Sys2Proof.Machine

theorem modPa_kept {s0 : State} {s : State} {f : Classifier → Classifier} (hs : Kept s0 s) :
    Kept s0 (modPa s f) := by
  unfold modPa
  repeat' with_reducible first
    | assumption | intro _ | apply kept_ite | split | extract_lets | apply kept_mk

theorem byDefault_kept {s0 : State} {s : State} {a : Arr} {reason : Nat} {path : Nat} {k : FwKey} (hs : Kept s0 s) :
    Kept s0 (byDefault s a reason path k).2 := by
  unfold byDefault
  repeat' with_reducible first
    | assumption | intro _ | apply kept_ite | apply cadd_kept | split | extract_lets | apply kept_mk

theorem tcamFail_kept {s0 : State} {s : State} {slot : Nat} {rules : List Nat} (hs : Kept s0 s) :
    Kept s0 (tcamFail s slot rules) := by
  unfold tcamFail
  repeat' with_reducible first
    | assumption | intro _ | apply kept_ite | apply kept_foldl | apply raise_kept | apply modPa_kept | split
    | extract_lets | apply kept_mk

theorem classify_kept {s0 : State} {s : State} {a : Arr} {slot : Nat} {node : Nat} {tag : Nat} {b : List Byte} {u :
    Upset} (hs : Kept s0 s) :
    Kept s0 (classify s a slot node tag b u).2 := by
  unfold classify
  repeat' with_reducible first
    | assumption | intro _ | apply kept_ite | apply byDefault_kept | apply tcamFail_kept
    | refine kept_of_snd (by assumption) ?_ | split | extract_lets | apply kept_mk

theorem firstPass_kept {s0 : State} {s : State} {a : Arr} {b : List Byte} {u : Upset} (hs : Kept s0 s) :
    Kept s0 (firstPass s a b u).2 := by
  unfold firstPass
  repeat' with_reducible first
    | assumption | intro _ | apply kept_ite | apply cadd_kept | apply raiseOnce_kept | apply byDefault_kept
    | apply classify_kept | refine kept_of_snd (by assumption) ?_ | split | extract_lets | apply kept_mk

theorem keepPkt_kept {s0 : State} {s : State} {h : Nat} {a : Arr} (hs : Kept s0 s) :
    Kept s0 (keepPkt s h a) := by
  unfold keepPkt
  repeat' with_reducible first
    | assumption | intro _ | apply kept_ite | split | extract_lets | apply kept_mk

theorem dropRef_kept {s0 : State} {s : State} {h : Nat} (hs : Kept s0 s) :
    Kept s0 (dropRef s h) := by
  unfold dropRef
  repeat' with_reducible first
    | assumption | intro _ | apply kept_ite | split | extract_lets | apply kept_mk

theorem storeArr_kept {s0 : State} {s : State} {a : Arr} {req : Nat} (hs : Kept s0 s) :
    Kept s0 (storeArr s a req).2 := by
  unfold storeArr
  repeat' with_reducible first
    | assumption | intro _ | apply kept_ite | apply cadd_kept | apply modMac_kept | apply alloc_kept
    | apply storeWrite_kept | apply xoffCheck_kept | apply keepPkt_kept | refine kept_of_snd (by assumption) ?_
    | split | extract_lets | apply kept_mk

theorem toNull_kept {s0 : State} {s : State} {a : Arr} (hs : Kept s0 s) :
    Kept s0 (toNull s a) := by
  unfold toNull
  repeat' with_reducible first
    | assumption | intro _ | apply kept_ite | apply cadd_kept | apply devFree_kept | apply storeArr_kept
    | refine kept_of_snd (by assumption) ?_ | split | extract_lets | apply kept_mk

theorem arrGone_kept {s0 : State} {s : State} {a : Arr} (hs : Kept s0 s) :
    Kept s0 (arrGone s a) := by
  unfold arrGone
  repeat' with_reducible first
    | assumption | intro _ | apply kept_ite | apply devFree_kept | split | extract_lets | apply kept_mk

theorem place_kept {s0 : State} {s : State} {a : Arr} {act : Nat} (hs : Kept s0 s) :
    Kept s0 (place s a act) := by
  unfold place
  repeat' with_reducible first
    | assumption | intro _ | apply kept_ite | apply bufHand_kept | apply bufBack_kept | apply ringArrive_kept
    | apply egAdmit_kept | apply egEnqueue_kept | apply dropRef_kept | apply storeArr_kept | apply toNull_kept
    | apply arrGone_kept | refine kept_of_snd (by assumption) ?_ | split | extract_lets | apply kept_mk

theorem drainPend_kept {s0 : State} {s : State} (hs : Kept s0 s) :
    Kept s0 (drainPend s) := by
  unfold drainPend
  repeat' with_reducible first
    | assumption | intro _ | apply kept_ite | apply kept_foldl | apply modFw_kept | apply place_kept | split
    | extract_lets | apply kept_foldl_fst | apply kept_foldl_snd | apply kept_mk

theorem actOn_kept {s0 : State} {s : State} {v : Verdict} {u : Upset} (hs : Kept s0 s) :
    Kept s0 (actOn s v u) := by
  unfold actOn
  repeat' with_reducible first
    | assumption | intro _ | apply keptI_done | apply keptI_wait | exact keptI_fault | exact keptI_lmLost
    | exact keptI_hold | apply kept_ite | apply cadd_kept | apply raiseOnce_kept | apply modFw_kept
    | apply fwSeen_kept | apply fwLookup_kept | apply learnSrc_kept | apply arrGone_kept | apply drainPend_kept
    | refine kept_of_snd (by assumption) ?_ | split | extract_lets | apply kept_mk

theorem execFwLookupDone_kept {s0 : State} {id : Nat} {upset : Upset} {s : State} (hs : Kept s0 s) :
    KeptO s0 (execFwLookupDone id upset s) := by
  unfold execFwLookupDone
  repeat' with_reducible first
    | assumption | intro _ | apply keptO_next | apply keptO_ite | apply kept_ite | apply modFw_kept
    | apply fwLookup_kept | apply drainPend_kept | refine kept_of_snd (by assumption) ?_ | split | extract_lets
    | apply kept_mk

theorem countRx_kept {s0 : State} {s : State} {p : Nat} {b : List Byte} (hs : Kept s0 s) :
    Kept s0 (countRx s p b) := by
  unfold countRx
  repeat' with_reducible first
    | assumption | intro _ | apply kept_ite | apply cadd_kept | split | extract_lets | apply kept_mk

theorem ordinary_kept {s0 : State} {s : State} {a : Arr} {u : Upset} (hs : Kept s0 s) :
    Kept s0 (ordinary s a u) := by
  unfold ordinary
  repeat' with_reducible first
    | assumption | intro _ | apply kept_ite | apply firstPass_kept | apply actOn_kept
    | refine kept_of_snd (by assumption) ?_ | split | extract_lets | apply kept_mk

theorem slDrain_kept {s0 : State} {s : State} {p : Nat} {e0 : Nat} (hs : Kept s0 s) :
    Kept s0 (slDrain s p e0) := by
  induction e0 generalizing s p hs with
  | zero =>
    unfold slDrain
    repeat' with_reducible first
      | assumption | intro _ | apply kept_ite | apply modArr_kept | apply ordinary_kept | split | extract_lets
      | apply kept_mk
  | succ k ih =>
    unfold slDrain
    repeat' with_reducible first
      | assumption | intro _ | apply kept_ite | apply ih | apply modArr_kept | apply ordinary_kept | split
      | extract_lets | apply kept_mk

theorem slBehind_kept {s0 : State} {s : State} {p : Nat} {g : SlGot} (hs : Kept s0 s) :
    Kept s0 (slBehind s p g) := by
  unfold slBehind
  repeat' with_reducible first
    | assumption | intro _ | apply kept_ite | apply modArr_kept | apply ordinary_kept | apply slDrain_kept | split
    | extract_lets | apply kept_mk

theorem slForget_kept {s0 : State} {s : State} {p : Nat} (hs : Kept s0 s) :
    Kept s0 (slForget s p) := by
  unfold slForget
  repeat' with_reducible first
    | assumption | intro _ | apply kept_ite | apply modArr_kept | split | extract_lets | apply kept_mk

theorem slEdge_kept {s0 : State} {s : State} (hs : Kept s0 s) :
    Kept s0 (slEdge s) := by
  unfold slEdge
  repeat' with_reducible first
    | assumption | intro _ | apply kept_ite | apply kept_foldl | apply slStage_kept | apply slDrain_kept | split
    | extract_lets | apply kept_foldl_fst | apply kept_foldl_snd | apply kept_mk

theorem frameRx_kept {s0 : State} {s : State} {p : Nat} {f : WireFrame} {u : Upset} (hs : Kept s0 s) :
    Kept s0 (frameRx s p f u) := by
  unfold frameRx
  dsimp only
  repeat' with_reducible first
    | assumption | intro _ | apply kept_ite | apply cadd_kept | apply ctrlRx_kept | apply pipeDealt_kept
    | apply sluiceTake_kept | apply countRx_kept | apply slBehind_kept | apply slForget_kept | split | extract_lets
    | apply kept_mk

theorem execFrameRx_kept {s0 : State} {net : NetPort} {frame : WireFrame} {upset : Upset} {s : State} (hs : Kept s0 s)
    :
    KeptO s0 (execFrameRx net frame upset s) := by
  unfold execFrameRx
  repeat' with_reducible first
    | assumption | intro _ | apply keptO_next | apply keptO_ite | apply kept_ite | apply frameRx_kept | split
    | extract_lets | apply kept_mk

theorem recirc_kept {s0 : State} {s : State} {h : Nat} {len : Nat} {start : Nat} {node : Nat} {tag : Nat} {u : Upset}
    (hs : Kept s0 s) :
    Kept s0 (recirc s h len start node tag u) := by
  unfold recirc
  repeat' with_reducible first
    | assumption | intro _ | apply kept_ite | apply bumpFree_kept | apply raiseOnce_kept | apply storeMeet_kept
    | apply byDefault_kept | apply classify_kept | apply actOn_kept | refine kept_of_snd (by assumption) ?_ | split
    | extract_lets | apply kept_mk

theorem txPipe_kept {s0 : State} {s : State} {uid : Nat} {j : Job} {h : Nat} {len : Nat} {u : Upset} (hs : Kept s0 s)
    :
    Kept s0 (txPipe s uid j h len u) := by
  unfold txPipe
  repeat' with_reducible first
    | assumption | intro _ | apply kept_ite | apply bumpFree_kept | apply finishJob_kept | apply storeMeet_kept
    | apply firstPass_kept | apply keepPkt_kept | apply actOn_kept | refine kept_of_snd (by assumption) ?_ | split
    | extract_lets | apply kept_mk

theorem txDirect_kept {s0 : State} {s : State} {uid : Nat} {j : Job} {h : Nat} {len : Nat} (hs : Kept s0 s) :
    Kept s0 (txDirect s uid j h len) := by
  unfold txDirect
  repeat' with_reducible first
    | assumption | intro _ | apply kept_ite | apply finishJob_kept | apply devFree_kept | apply egAdmit_kept
    | apply egEnqueue_kept | refine kept_of_snd (by assumption) ?_ | split | extract_lets | apply kept_mk

theorem rxDone_kept {s0 : State} {s : State} {uid : Nat} (hs : Kept s0 s) :
    Kept s0 (rxDone s uid) := by
  unfold rxDone
  repeat' with_reducible first
    | assumption | intro _ | apply kept_ite | apply cadd_kept | apply finishJob_kept | apply devFree_kept | split
    | extract_lets | apply kept_mk

theorem rxFill_kept {s0 : State} {s : State} {uid : Nat} {j : Job} {f : HostFrame} (hs : Kept s0 s) :
    Kept s0 (rxFill s uid j f) := by
  unfold rxFill
  repeat' with_reducible first
    | assumption | intro _ | apply kept_ite | apply kept_foldl | apply storeWrite_kept | apply moveSegs_kept
    | apply rxDone_kept | refine kept_of_snd (by assumption) ?_ | split | extract_lets | apply kept_foldl_fst
    | apply kept_foldl_snd | apply kept_mk

theorem execHostRxDeliver_kept {s0 : State} {tenant : TenantId} {sq : Fin 1048576} {s : State} (hs : Kept s0 s) :
    KeptO s0 (execHostRxDeliver tenant sq s) := by
  unfold execHostRxDeliver
  repeat' with_reducible first
    | assumption | intro _ | apply keptO_next | apply keptO_ite | apply kept_ite | apply cadd_kept
    | apply finishJob_kept | apply devFree_kept | apply rxFill_kept | split | extract_lets | apply kept_mk

theorem modSlot_kept {s0 : State} {s : State} {i : Nat} {f : RsSlot → RsSlot} (hs : Kept s0 s) :
    Kept s0 (modSlot s i f) := by
  unfold modSlot
  repeat' with_reducible first
    | assumption | intro _ | apply kept_ite | apply modPa_kept | split | extract_lets | apply kept_mk

theorem freeSlot_kept {s0 : State} {s : State} {i : Nat} (hs : Kept s0 s) :
    Kept s0 (freeSlot s i) := by
  unfold freeSlot
  repeat' with_reducible first
    | assumption | intro _ | apply kept_ite | apply modPa_kept | split | extract_lets | apply kept_mk

theorem rulesetLoad_kept {s0 : State} {s : State} {p : Nat} {e : Entry} (hs : Kept s0 s) :
    Kept s0 (rulesetLoad s p e) := by
  unfold rulesetLoad
  repeat' with_reducible first
    | assumption | intro _ | apply kept_ite | apply advGen_kept | apply finishAdmin_kept | apply adminWait_kept
    | apply imageIssue_kept | apply modPa_kept | split | extract_lets | apply kept_mk

theorem execRulesetLoad_kept {s0 : State} {port : HostPort} {s : State} (hs : Kept s0 s) :
    KeptO s0 (execRulesetLoad port s) := by
  unfold execRulesetLoad
  repeat' with_reducible first
    | assumption | intro _ | apply keptO_next | apply keptO_ite | apply kept_ite | apply adminRun_kept
    | apply imageResume_kept | apply rulesetLoad_kept | split | extract_lets | apply kept_mk

theorem imageRead_kept {s0 : State} {s : State} {i : Nat} {data : HostData} (hs : Kept s0 s) :
    Kept s0 (imageRead s i data) := by
  unfold imageRead
  repeat' with_reducible first
    | assumption | intro _ | apply kept_ite | apply finishAdmin_kept | apply modSlot_kept | apply freeSlot_kept
    | split | extract_lets | apply kept_mk

theorem execRulesetImageReadEnd_kept {s0 : State} {slot : Fin 4} {data : HostData} {s : State} (hs : Kept s0 s) :
    KeptO s0 (execRulesetImageReadEnd slot data s) := by
  unfold execRulesetImageReadEnd
  repeat' with_reducible first
    | assumption | intro _ | apply keptO_next | apply keptO_ite | apply kept_ite | apply takeRead_kept
    | apply imageRead_kept | split | extract_lets | apply kept_mk

theorem drainActive_kept {s0 : State} {s : State} (hs : Kept s0 s) :
    Kept s0 (drainActive s) := by
  unfold drainActive
  repeat' with_reducible first
    | assumption | intro _ | apply kept_ite | apply modSlot_kept | split | extract_lets | apply kept_mk

theorem execRulesetActivate_kept {s0 : State} {port : HostPort} {s : State} (hs : Kept s0 s) :
    KeptO s0 (execRulesetActivate port s) := by
  unfold execRulesetActivate
  repeat' with_reducible first
    | assumption | intro _ | apply keptO_next | apply keptO_ite | apply kept_ite | apply finishAdmin_kept
    | apply adminRun_kept | apply modSlot_kept | split | extract_lets | apply kept_mk

theorem execRulesetRelease_kept {s0 : State} {port : HostPort} {s : State} (hs : Kept s0 s) :
    KeptO s0 (execRulesetRelease port s) := by
  unfold execRulesetRelease
  repeat' with_reducible first
    | assumption | intro _ | apply keptO_next | apply keptO_ite | apply kept_ite | apply finishAdmin_kept
    | apply adminRun_kept | apply freeSlot_kept | split | extract_lets | apply kept_mk

theorem rsEdge_kept {s0 : State} {s : State} {i : Nat} (hs : Kept s0 s) :
    Kept s0 (rsEdge s i) := by
  unfold rsEdge
  repeat' with_reducible first
    | assumption | intro _ | apply kept_ite | apply raise_kept | apply modSlot_kept | apply drainActive_kept
    | split | extract_lets | apply kept_mk

theorem execPaRsDrainTimeout_kept {s0 : State} {slot : Fin 4} {s : State} (hs : Kept s0 s) :
    KeptO s0 (execPaRsDrainTimeout slot s) := by
  unfold execPaRsDrainTimeout
  repeat' with_reducible first
    | assumption | intro _ | apply keptO_next | apply keptO_ite | apply kept_ite | apply raise_kept
    | apply modSlot_kept | split | extract_lets | apply kept_mk

theorem execTcamSweep_kept {s0 : State} {bad : List (Nat × Nat)} {s : State} (hs : Kept s0 s) :
    KeptO s0 (execTcamSweep bad s) := by
  unfold execTcamSweep
  repeat' with_reducible first
    | assumption | intro _ | apply keptO_next | apply keptO_ite | apply kept_ite | apply kept_foldl
    | apply tcamFail_kept | split | extract_lets | apply kept_foldl_fst | apply kept_foldl_snd | apply kept_mk

theorem execTcamEntryRewrite_kept {s0 : State} {slot : Fin 4} {rule : Fin 65536} {s : State} (hs : Kept s0 s) :
    KeptO s0 (execTcamEntryRewrite slot rule s) := by
  unfold execTcamEntryRewrite
  repeat' with_reducible first
    | assumption | intro _ | apply keptO_next | apply keptO_ite | apply kept_ite | apply modPa_kept | split
    | extract_lets | apply kept_mk

end Sys2Proof.Machine
end

