-- ==== Sys2Proof/Laws/KeptChannel.lean ====
section
/-! SUPPORT. What the operations of Machine/Channel.lean keep (Safety.lean). -/
namespace Sys2Proof.Machine

theorem execPost_kept {s0 : State} {core : CoreId} {thread : ThreadId} {credit : Bool} {s : State} (hs : Kept s0 s) :
    KeptO s0 (execPost core thread credit s) := by
  unfold execPost
  repeat' with_reducible first
    | assumption | intro _ | apply keptI_done | apply keptI_wait | exact keptI_fault | exact keptI_lmLost
    | exact keptI_hold | apply keptO_next | apply keptO_ite | apply kept_ite | apply bufHand_kept
    | apply putThr_kept | apply pmc_kept | apply unhold_kept | apply issue_kept | apply nextHeld_kept
    | apply clearDone_kept | split | extract_lets | apply kept_mk

theorem msgTake_kept {s0 : State} {s : State} {c : Nat} {t : Nat} {dest : Nat} {typ : Nat} (hs : Kept s0 s) :
    OptAll (fun y => Kept s0 y.2) (msgTake s c t dest typ) := by
  unfold msgTake
  repeat' with_reducible first
    | assumption | intro _ | apply optAll_some | exact optAll_none | apply kept_ite | split | extract_lets
    | apply kept_mk

theorem chReply_kept {s0 : State} {s : State} {c : Nat} {t : Nat} {u : Nat} {tag : Nat} {st : Status} {ds : List Nat}
    (hs : Kept s0 s) :
    Kept s0 (chReply s c t u tag st ds) := by
  unfold chReply
  repeat' with_reducible first
    | assumption | intro _ | apply kept_ite | apply modThr_kept | apply replyRec_kept | split | extract_lets
    | apply kept_mk

theorem msgAnswer_kept {s0 : State} {s : State} {m : Msg} {st : Status} {ds : List Nat} (hs : Kept s0 s) :
    Kept s0 (msgAnswer s m st ds) := by
  unfold msgAnswer
  repeat' with_reducible first
    | assumption | intro _ | apply kept_ite | apply chReply_kept | split | extract_lets | apply kept_mk

theorem msgRun_kept {s0 : State} {s : State} {core : CoreId} {thread : ThreadId} {dest : Nat} {typ : Nat} {body :
    State → Msg → State} (hs : Kept s0 s) (hbody : ∀ x a0, Kept s0 x → Kept s0 (body x a0)) :
    Kept s0 (msgRun s core thread dest typ body) := by
  unfold msgRun
  repeat' with_reducible first
    | assumption | intro _ | apply kept_ite | apply hbody | apply msgTake_kept
    | refine kept_of_some_snd (by assumption) ?_ | split | extract_lets | apply kept_mk

theorem execEnqueue_kept {s0 : State} {core : CoreId} {thread : ThreadId} {s : State} (hs : Kept s0 s) :
    KeptO s0 (execEnqueue core thread s) := by
  unfold execEnqueue
  repeat' with_reducible first
    | assumption | intro _ | apply keptO_next | apply keptO_ite | apply kept_ite | apply bufBack_kept
    | apply ringArrive_kept | apply place_kept | apply msgRun_kept | split | extract_lets | apply kept_mk

theorem execRecirc_kept {s0 : State} {core : CoreId} {thread : ThreadId} {upset : Upset} {s : State} (hs : Kept s0 s)
    :
    KeptO s0 (execRecirc core thread upset s) := by
  unfold execRecirc
  repeat' with_reducible first
    | assumption | intro _ | apply keptO_next | apply keptO_ite | apply kept_ite | apply recirc_kept
    | apply msgRun_kept | split | extract_lets | apply kept_mk

theorem execCoreJobCompletion_kept {s0 : State} {core : CoreId} {thread : ThreadId} {s : State} (hs : Kept s0 s) :
    KeptO s0 (execCoreJobCompletion core thread s) := by
  unfold execCoreJobCompletion
  repeat' with_reducible first
    | assumption | intro _ | apply keptO_next | apply keptO_ite | apply kept_ite | apply finishJob_kept
    | apply devFree_kept | apply modCore_kept | apply msgRun_kept | split | extract_lets | apply kept_mk

end Sys2Proof.Machine
end

