-- ==== Sys2Proof/Laws/KeptStorageBase.lean ====
section
/-! SUPPORT. What the operations of Machine/StorageBase.lean keep (Safety.lean). -/
namespace Sys2Proof.Machine

theorem modSx_kept {s0 : State} {s : State} {f : Sx → Sx} (hs : Kept s0 s) :
    Kept s0 (modSx s f) := by
  unfold modSx
  repeat' with_reducible first
    | assumption | intro _ | apply kept_ite | split | extract_lets | apply kept_mk

theorem modAtt_kept {s0 : State} {s : State} {a : Nat} {f : Att → Att} (hs : Kept s0 s) :
    Kept s0 (modAtt s a f) := by
  unfold modAtt
  repeat' with_reducible first
    | assumption | intro _ | apply kept_ite | apply modSx_kept | split | extract_lets | apply kept_mk

theorem modCmd_kept {s0 : State} {s : State} {uid : Nat} {f : SxCmd → SxCmd} (hs : Kept s0 s) :
    Kept s0 (modCmd s uid f) := by
  unfold modCmd
  repeat' with_reducible first
    | assumption | intro _ | apply kept_ite | apply modSx_kept | split | extract_lets | apply kept_mk

theorem cmdEnd_kept {s0 : State} {s : State} {uid : Nat} {st : Status} {result : Nat} (hs : Kept s0 s) :
    Kept s0 (cmdEnd s uid st result) := by
  unfold cmdEnd
  repeat' with_reducible first
    | assumption | intro _ | apply kept_ite | apply kept_foldl | apply finishJob_kept | apply devFree_kept
    | apply withdraw_kept | apply modSx_kept | split | extract_lets | apply kept_mk

theorem sxDropRx_kept {s0 : State} {s : State} {i : Nat} {posted : Bool} (hs : Kept s0 s) :
    Kept s0 (sxDropRx s i posted) := by
  unfold sxDropRx
  repeat' with_reducible first
    | assumption | intro _ | apply kept_ite | apply kept_foldl | apply devFree_kept | split | extract_lets
    | apply kept_mk

theorem attFail_kept {s0 : State} {s : State} {a : Nat} {reason : Nat} (hs : Kept s0 s) :
    Kept s0 (attFail s a reason) := by
  unfold attFail
  repeat' with_reducible first
    | assumption | intro _ | apply kept_ite | apply kept_foldl | apply modAtt_kept | apply cmdEnd_kept
    | apply sxDropRx_kept | split | extract_lets | apply kept_foldl_fst | apply kept_foldl_snd | apply kept_mk

end Sys2Proof.Machine
end

