-- ==== Sys2Proof/Laws/KeptTransport.lean ====
section
/-! SUPPORT. What the operations of Machine/Transport.lean keep (Safety.lean). -/
namespace Sys2Proof.Machine

theorem modConn_kept {s0 : State} {s : State} {i : Nat} {f : Conn → Conn} (hs : Kept s0 s) :
    Kept s0 (modConn s i f) := by
  unfold modConn
  repeat' with_reducible first
    | assumption | intro _ | apply kept_ite | split | extract_lets | apply kept_mk

theorem mftRoute_kept {s0 : State} {s : State} {g : List Nat} {node : Nat} (hs : Kept s0 s) :
    Kept s0 (mftRoute s g node).2 := by
  unfold mftRoute
  repeat' with_reducible first
    | assumption | intro _ | apply kept_ite | apply portFor_kept | split | extract_lets | apply kept_mk

theorem noRoute_kept {s0 : State} {s : State} (hs : Kept s0 s) :
    Kept s0 (noRoute s) := by
  unfold noRoute
  repeat' with_reducible first
    | assumption | intro _ | apply kept_ite | apply cadd_kept | apply raiseOnce_kept | split | extract_lets
    | apply kept_mk

theorem sendFrame_kept {s0 : State} {s : State} {p : Nat} {cls : Nat} {b : List Byte} (hs : Kept s0 s) :
    Kept s0 (sendFrame s p cls b) := by
  unfold sendFrame
  repeat' with_reducible first
    | assumption | intro _ | apply kept_ite | apply egEnqueue_kept | split | extract_lets | apply kept_mk

theorem toSeal_kept {s0 : State} {s : State} {c : Conn} {h : MftHdr} {f : List Byte} (hs : Kept s0 s) :
    Kept s0 (toSeal s c h f).2 := by
  unfold toSeal
  repeat' with_reducible first
    | assumption | intro _ | apply kept_ite | apply allocWork_kept | apply storeWrite_kept | apply ringArrive_kept
    | refine kept_of_snd (by assumption) ?_ | split | extract_lets | apply kept_mk

theorem ctlSend_kept {s0 : State} {s : State} {i : Nat} {c : Conn} {h : MftHdr} {body : List Byte} (hs : Kept s0 s) :
    Kept s0 (ctlSend s i c h body) := by
  unfold ctlSend
  repeat' with_reducible first
    | assumption | intro _ | apply kept_ite | apply modConn_kept | apply mftRoute_kept | apply noRoute_kept
    | apply sendFrame_kept | apply toSeal_kept | refine kept_of_snd (by assumption) ?_ | split | extract_lets
    | apply kept_mk

theorem sendOpen_kept {s0 : State} {s : State} {i : Nat} (hs : Kept s0 s) :
    Kept s0 (sendOpen s i) := by
  unfold sendOpen
  repeat' with_reducible first
    | assumption | intro _ | apply kept_ite | apply modConn_kept | apply ctlSend_kept | split | extract_lets
    | apply kept_mk

theorem sendAccept_kept {s0 : State} {s : State} {i : Nat} (hs : Kept s0 s) :
    Kept s0 (sendAccept s i) := by
  unfold sendAccept
  repeat' with_reducible first
    | assumption | intro _ | apply kept_ite | apply ctlSend_kept | split | extract_lets | apply kept_mk

theorem sendReject_kept {s0 : State} {s : State} {i : Nat} {reason : Nat} {dst : Nat} {key : Nat} (hs : Kept s0 s) :
    Kept s0 (sendReject s i reason dst key) := by
  unfold sendReject
  repeat' with_reducible first
    | assumption | intro _ | apply kept_ite | apply ctlSend_kept | split | extract_lets | apply kept_mk

theorem sendClose_kept {s0 : State} {s : State} {i : Nat} {c : Conn} {reason : Nat} (hs : Kept s0 s) :
    Kept s0 (sendClose s i c reason) := by
  unfold sendClose
  repeat' with_reducible first
    | assumption | intro _ | apply kept_ite | apply ctlSend_kept | split | extract_lets | apply kept_mk

theorem copyFree_kept {s0 : State} {s : State} {b : Nat} (hs : Kept s0 s) :
    Kept s0 (copyFree s b) := by
  unfold copyFree
  dsimp only
  repeat' with_reducible first
    | assumption | intro _ | apply kept_ite | apply devFree_kept | apply modEg_kept | apply modCls_kept | split
    | extract_lets | apply kept_mk

theorem sendEnd_kept {s0 : State} {s : State} {d : Snd} {st : Status} (hs : Kept s0 s) :
    Kept s0 (sendEnd s d st) := by
  unfold sendEnd
  repeat' with_reducible first
    | assumption | intro _ | apply kept_ite | apply finishJob_kept | apply withdrawJob_kept | apply chReply_kept
    | split | extract_lets | apply kept_mk

theorem connClear_kept {s0 : State} {s : State} {i : Nat} {c : Conn} {st : Option Status} (hs : Kept s0 s) :
    Kept s0 (connClear s i c st) := by
  unfold connClear
  repeat' with_reducible first
    | assumption | intro _ | apply kept_ite | apply kept_foldl | apply finishJob_kept | apply devFree_kept
    | apply withdrawJob_kept | apply dropJob_kept | apply modConn_kept | apply copyFree_kept | apply sendEnd_kept
    | split | extract_lets | apply kept_mk

theorem connFail_kept {s0 : State} {s : State} {i : Nat} {why : Status} (hs : Kept s0 s) :
    Kept s0 (connFail s i why) := by
  unfold connFail
  repeat' with_reducible first
    | assumption | intro _ | apply kept_ite | apply cadd_kept | apply attFail_kept | apply modConn_kept
    | apply connClear_kept | split | extract_lets | apply kept_mk

theorem connFree_kept {s0 : State} {s : State} {i : Nat} {c : Conn} {st : Option Status} (hs : Kept s0 s) :
    Kept s0 (connFree s i c st) := by
  unfold connFree
  extract_lets s1 left s2 s3
  have h1 : Kept s0 s1 := connClear_kept hs
  have h2 : Kept s0 s2 := kept_mk h1
  have h3 : Kept s0 s3 := advGen_kept (kept_mk h2)
  clear_value s1 s2 s3
  exact kept_ite h3 (attFail_kept h3)

theorem connGiveUp_kept {s0 : State} {s : State} {i : Nat} (hs : Kept s0 s) :
    Kept s0 (connGiveUp s i) := by
  unfold connGiveUp
  repeat' with_reducible first
    | assumption | intro _ | apply kept_ite | apply raise_kept | apply sendClose_kept | apply connFail_kept | split
    | extract_lets | apply kept_mk

theorem sealFail_kept {s0 : State} {s : State} {i : Nat} (hs : Kept s0 s) :
    Kept s0 (sealFail s i) := by
  unfold sealFail
  repeat' with_reducible first
    | assumption | intro _ | apply kept_ite | apply sendClose_kept | apply connFail_kept | split | extract_lets
    | apply kept_mk

theorem sealNext_kept {s0 : State} {s : State} {i : Nat} (hs : Kept s0 s) :
    Kept s0 (sealNext s i) := by
  unfold sealNext
  repeat' with_reducible first
    | assumption | intro _ | apply keptI_done | apply keptI_wait | exact keptI_fault | exact keptI_lmLost
    | exact keptI_hold | apply kept_ite | apply kept_foldl | apply storeTouch_kept | apply modConn_kept
    | apply mftRoute_kept | apply toSeal_kept | refine kept_of_fst (by assumption) ?_
    | refine kept_of_snd (by assumption) ?_ | split | extract_lets | apply kept_mk

theorem cutSends_kept {s0 : State} {s : State} {i : Nat} {e0 : Nat} (hs : Kept s0 s) :
    Kept s0 (cutSends s i e0) := by
  induction e0 generalizing s i hs with
  | zero =>
    unfold cutSends
    repeat' with_reducible first
      | assumption | intro _ | apply kept_ite | apply modConn_kept | split | extract_lets | apply kept_mk
  | succ k ih =>
    unfold cutSends
    repeat' with_reducible first
      | assumption | intro _ | apply kept_ite | apply ih | apply modConn_kept | split | extract_lets
      | apply kept_mk

theorem plan_kept {s0 : State} {s : State} {i : Nat} (hs : Kept s0 s) :
    Kept s0 (plan s i) := by
  unfold plan
  repeat' with_reducible first
    | assumption | intro _ | apply kept_ite | apply modConn_kept | apply connGiveUp_kept | apply sealNext_kept
    | apply cutSends_kept | split | extract_lets | apply kept_mk

theorem restamp_kept {s0 : State} {s : State} {b : Nat} {off : Nat} {ts : Nat} {ftq : Bool} (hs : Kept s0 s) :
    Kept s0 (restamp s b off ts ftq) := by
  unfold restamp
  repeat' with_reducible first
    | assumption | intro _ | apply kept_ite | apply storeWrite_kept | split | extract_lets | apply kept_mk

theorem ctlOut_kept {s0 : State} {s : State} {k : SealCtl} {count : Nat} {ftq : Bool} (hs : Kept s0 s) :
    Kept s0 (ctlOut s k count ftq) := by
  unfold ctlOut
  repeat' with_reducible first
    | assumption | intro _ | apply kept_ite | apply egEnqueue_kept | apply restamp_kept | split | extract_lets
    | apply kept_mk

theorem sealEdge_kept {s0 : State} {s : State} (hs : Kept s0 s) :
    Kept s0 (sealEdge s) := by
  unfold sealEdge
  repeat' with_reducible first
    | assumption | intro _ | apply kept_ite | apply kept_foldl | apply egEnqueue_kept | apply restamp_kept | split
    | extract_lets | apply kept_mk

theorem release_kept {s0 : State} {s : State} {i : Nat} {count : Nat} {ftq : Bool} (hs : Kept s0 s) :
    Kept s0 (release s i count ftq) := by
  unfold release
  repeat' with_reducible first
    | assumption | intro _ | apply keptI_done | apply keptI_wait | exact keptI_fault | exact keptI_lmLost
    | exact keptI_hold | apply kept_ite | apply cadd_kept | apply egEnqueue_kept | apply modConn_kept
    | apply mftRoute_kept | apply noRoute_kept | apply restamp_kept | apply ctlOut_kept
    | refine kept_of_snd (by assumption) ?_ | split | extract_lets | apply kept_mk

theorem copyBufs_kept {s0 : State} {s : State} {e0 : List Nat} {e1 : List Nat} (hs : Kept s0 s) :
    Kept s0 (copyBufs s e0 e1).2 := by
  induction e0 generalizing s e1 hs with
  | nil =>
    unfold copyBufs
    repeat' with_reducible first
      | assumption | intro _ | apply kept_ite | apply kept_foldl | apply allocWork_kept | apply devFree_kept
      | refine kept_of_snd (by assumption) ?_ | split | extract_lets | apply kept_mk
  | cons hd tl ih =>
    unfold copyBufs
    repeat' with_reducible first
      | assumption | intro _ | apply kept_ite | apply kept_foldl | apply ih | apply allocWork_kept
      | apply devFree_kept | refine kept_of_snd (by assumption) ?_ | split | extract_lets | apply kept_mk

theorem modSnd_kept {s0 : State} {s : State} {i : Nat} {who : Sender} {f : Snd → Snd} (hs : Kept s0 s) :
    Kept s0 (modSnd s i who f) := by
  unfold modSnd
  repeat' with_reducible first
    | assumption | intro _ | apply kept_ite | apply modConn_kept | split | extract_lets | apply kept_mk

theorem delSnd_kept {s0 : State} {s : State} {i : Nat} {who : Sender} (hs : Kept s0 s) :
    Kept s0 (delSnd s i who) := by
  unfold delSnd
  repeat' with_reducible first
    | assumption | intro _ | apply kept_ite | apply modConn_kept | split | extract_lets | apply kept_mk

theorem sendRead_kept {s0 : State} {s : State} {uid : Nat} {err : Option Status} (hs : Kept s0 s) :
    Kept s0 (sendRead s uid err) := by
  unfold sendRead
  repeat' with_reducible first
    | assumption | intro _ | apply kept_ite | apply kept_foldl | apply finishJob_kept | apply devFree_kept
    | apply plan_kept | apply modSnd_kept | apply delSnd_kept | split | extract_lets | apply kept_foldl_fst
    | apply kept_foldl_snd | apply kept_mk

theorem startSend_kept {s0 : State} {s : State} {i : Nat} {d : Snd} (hs : Kept s0 s) :
    Kept s0 (startSend s i d) := by
  unfold startSend
  repeat' with_reducible first
    | assumption | intro _ | apply kept_ite | apply kept_foldl | apply finishJob_kept | apply startXfer_kept
    | apply copySeg_kept | apply copyBufs_kept | apply modSnd_kept | apply delSnd_kept | apply sendRead_kept
    | refine kept_of_fst (by assumption) ?_ | refine kept_of_snd (by assumption) ?_ | split | extract_lets
    | apply kept_foldl_fst | apply kept_foldl_snd | apply kept_mk

theorem startSends_kept {s0 : State} {s : State} {i : Nat} (hs : Kept s0 s) :
    Kept s0 (startSends s i) := by
  unfold startSends
  repeat' with_reducible first
    | assumption | intro _ | apply kept_ite | apply kept_foldl | apply plan_kept | apply startSend_kept | split
    | extract_lets | apply kept_mk

theorem addSend_kept {s0 : State} {s : State} {i : Nat} {d : Snd} (hs : Kept s0 s) :
    Kept s0 (addSend s i d) := by
  unfold addSend
  repeat' with_reducible first
    | assumption | intro _ | apply kept_ite | apply modConn_kept | apply plan_kept | apply startSend_kept | split
    | extract_lets | apply kept_mk

theorem sendAck_kept {s0 : State} {s : State} {i : Nat} (hs : Kept s0 s) :
    Kept s0 (sendAck s i) := by
  unfold sendAck
  repeat' with_reducible first
    | assumption | intro _ | apply kept_ite | apply kept_foldl | apply cadd_kept | apply modConn_kept
    | apply ctlSend_kept | split | extract_lets | apply kept_foldl_fst | apply kept_foldl_snd | apply kept_mk

theorem recvDone_kept {s0 : State} {s : State} {i : Nat} {m : RxMsg} (hs : Kept s0 s) :
    Kept s0 (recvDone s i m) := by
  unfold recvDone
  repeat' with_reducible first
    | assumption | intro _ | apply kept_ite | apply finishJob_kept | apply modConn_kept | split | extract_lets
    | apply kept_mk

theorem packetWritten_kept {s0 : State} {s : State} {i : Nat} {uid : Nat} {buf : Nat} {len : Nat} {err : Option
    Status} (hs : Kept s0 s) :
    Kept s0 (packetWritten s i uid buf len err) := by
  unfold packetWritten
  repeat' with_reducible first
    | assumption | intro _ | apply kept_ite | apply finishJob_kept | apply devFree_kept | apply withdrawJob_kept
    | apply modConn_kept | apply recvDone_kept | split | extract_lets | apply kept_mk

theorem writePkt_kept {s0 : State} {s : State} {i : Nat} {c : Conn} {m : RxMsg} {k : RxPkt} (hs : Kept s0 s) :
    Kept s0 (writePkt s i c m k) := by
  unfold writePkt
  repeat' with_reducible first
    | assumption | intro _ | apply kept_ite | apply moveSegs_kept | apply packetWritten_kept
    | refine kept_of_snd (by assumption) ?_ | split | extract_lets | apply kept_mk

theorem postRx_kept {s0 : State} {s : State} {i : Nat} (hs : Kept s0 s) :
    Kept s0 (postRx s i) := by
  unfold postRx
  repeat' with_reducible first
    | assumption | intro _ | apply kept_ite | apply allocFrom_kept | apply bufHand_kept | apply modConn_kept
    | refine kept_of_snd (by assumption) ?_ | split | extract_lets | apply kept_mk

theorem deliver_kept {s0 : State} {s : State} {i : Nat} {e0 : Nat} (hs : Kept s0 s) :
    Kept s0 (deliver s i e0) := by
  induction e0 generalizing s i hs with
  | zero =>
    unfold deliver
    repeat' with_reducible first
      | assumption | intro _ | apply kept_ite | apply finishJob_kept | apply storeTouch_kept
      | apply storeWrite_kept | apply devFree_kept | apply modConn_kept | apply writePkt_kept | apply postRx_kept
      | split | extract_lets | apply kept_mk
  | succ k ih =>
    unfold deliver
    dsimp only
    repeat' with_reducible first
      | assumption | intro _ | apply kept_ite | apply ih | apply finishJob_kept | apply storeTouch_kept
      | apply storeWrite_kept | apply devFree_kept | apply modConn_kept | apply writePkt_kept | apply postRx_kept
      | split | extract_lets | apply kept_mk

theorem deliverAll_kept {s0 : State} {s : State} {i : Nat} (hs : Kept s0 s) :
    Kept s0 (deliverAll s i) := by
  unfold deliverAll
  repeat' with_reducible first
    | assumption | intro _ | apply kept_ite | apply postRx_kept | apply deliver_kept | split | extract_lets
    | apply kept_mk

theorem dataRx_kept {s0 : State} {s : State} {i : Nat} {c : Conn} {x : RxHdr} {buf off rxTs : Nat} (hs : Kept s0 s) :
    Kept s0 (dataRx s i c x buf off rxTs).2 := by
  unfold dataRx
  extract_lets s1 d note
  have h1 : Kept s0 s1 := cadd_kept hs
  clear_value s1 d note
  split
  · exact sendAck_kept (modConn_kept (cadd_kept h1))
  · split
    · exact h1
    · split
      · exact sendAck_kept (modConn_kept h1)
      · refine kept_ite (sendAck_kept (deliverAll_kept ?_)) (deliverAll_kept ?_) <;>
          exact modConn_kept (modConn_kept (setBuf_kept h1))

theorem chargePath_kept {s0 : State} {s : State} {i : Nat} {path : Nat} (hs : Kept s0 s) :
    Kept s0 (chargePath s i path) := by
  unfold chargePath
  repeat' with_reducible first
    | assumption | intro _ | apply kept_ite | apply cadd_kept | apply raiseOnce_kept | apply modConn_kept | split
    | extract_lets | apply kept_mk

theorem markLost_kept {s0 : State} {s : State} {i : Nat} {psn : Nat} (hs : Kept s0 s) :
    Kept s0 (markLost s i psn) := by
  unfold markLost
  repeat' with_reducible first
    | assumption | intro _ | apply kept_ite | apply modConn_kept | apply chargePath_kept | split | extract_lets
    | apply kept_mk

theorem finishSends_kept {s0 : State} {s : State} {i : Nat} {e0 : Nat} (hs : Kept s0 s) :
    Kept s0 (finishSends s i e0) := by
  induction e0 generalizing s i hs with
  | zero =>
    unfold finishSends
    repeat' with_reducible first
      | assumption | intro _ | apply kept_ite | apply modConn_kept | apply sendEnd_kept | split | extract_lets
      | apply kept_mk
  | succ k ih =>
    unfold finishSends
    repeat' with_reducible first
      | assumption | intro _ | apply kept_ite | apply ih | apply modConn_kept | apply sendEnd_kept | split
      | extract_lets | apply kept_mk

theorem ackPkts_kept {s0 : State} {s : State} {i : Nat} {psns : List Nat} (hs : Kept s0 s) :
    Kept s0 (ackPkts s i psns) := by
  unfold ackPkts
  repeat' with_reducible first
    | assumption | intro _ | apply keptI_done | apply keptI_wait | exact keptI_fault | exact keptI_lmLost
    | exact keptI_hold | apply kept_ite | apply kept_foldl | apply devFree_kept | apply modConn_kept
    | apply copyFree_kept | split | extract_lets | apply kept_mk

theorem openMatch_kept {s0 : State} {s : State} {i : Nat} {x : RxHdr} {isOpen : Bool} {sample : State → Nat → Nat →
    State} (hs : Kept s0 s) (hsample : ∀ x a0 a1, Kept s0 x → Kept s0 (sample x a0 a1)) :
    Kept s0 (openMatch s i x isOpen sample) := by
  unfold openMatch
  repeat' with_reducible first
    | assumption | intro _ | apply kept_ite | apply hsample | apply cadd_kept | apply raise_kept
    | apply modConn_kept | apply sendAccept_kept | apply sendReject_kept | apply connFail_kept
    | apply startSends_kept | split | extract_lets | apply kept_mk

theorem openRx_kept {s0 : State} {s : State} {x : RxHdr} {sample : State → Nat → Nat → State} (hs : Kept s0 s)
    (hsample : ∀ x a0 a1, Kept s0 x → Kept s0 (sample x a0 a1)) :
    Kept s0 (openRx s x sample) := by
  unfold openRx
  repeat' with_reducible first
    | assumption | intro _ | apply kept_ite | apply hsample | apply cadd_kept | apply sendAccept_kept
    | apply sendClose_kept | apply connFail_kept | apply openMatch_kept | split | extract_lets | apply kept_mk

theorem acceptRx_kept {s0 : State} {s : State} {x : RxHdr} {sample : State → Nat → Nat → State} (hs : Kept s0 s)
    (hsample : ∀ x a0 a1, Kept s0 x → Kept s0 (sample x a0 a1)) :
    Kept s0 (acceptRx s x sample) := by
  unfold acceptRx
  repeat' with_reducible first
    | assumption | intro _ | apply kept_ite | apply hsample | apply openMatch_kept | split | extract_lets
    | apply kept_mk

theorem rejectRx_kept {s0 : State} {s : State} {x : RxHdr} (hs : Kept s0 s) :
    Kept s0 (rejectRx s x) := by
  unfold rejectRx
  repeat' with_reducible first
    | assumption | intro _ | apply kept_ite | apply cadd_kept | apply connFail_kept | split | extract_lets
    | apply kept_mk

theorem closeRx_kept {s0 : State} {s : State} {x : RxHdr} {auth : Conn → Bool} (hs : Kept s0 s) :
    Kept s0 (closeRx s x auth) := by
  unfold closeRx
  repeat' with_reducible first
    | assumption | intro _ | apply kept_ite | apply cadd_kept | apply raiseOnce_kept | apply connFail_kept | split
    | extract_lets | apply kept_mk

theorem unknownRx_kept {s0 : State} {s : State} {x : RxHdr} (hs : Kept s0 s) :
    Kept s0 (unknownRx s x) := by
  unfold unknownRx
  repeat' with_reducible first
    | assumption | intro _ | apply kept_ite | apply bumpFree_kept | apply cadd_kept | apply mftRoute_kept
    | apply noRoute_kept | apply sendFrame_kept | refine kept_of_snd (by assumption) ?_ | split | extract_lets
    | apply kept_mk

end Sys2Proof.Machine
end

