-- ==== Sys2Proof/Laws/KeptContain.lean ====
section
/-! SUPPORT. What the operations of Machine/Contain.lean keep (Safety.lean). -/
namespace Sys2Proof.Machine

theorem modLk_kept {s0 : State} {s : State} {f : Lk → Lk} (hs : Kept s0 s) :
    Kept s0 (modLk s f) := by
  unfold modLk
  repeat' with_reducible first
    | assumption | intro _ | apply kept_ite | split | extract_lets | apply kept_mk

theorem modBoot_kept {s0 : State} {s : State} {f : Boot → Boot} (hs : Kept s0 s) :
    Kept s0 (modBoot s f) := by
  unfold modBoot
  repeat' with_reducible first
    | assumption | intro _ | apply kept_ite | split | extract_lets | apply kept_mk

theorem modMd_kept {s0 : State} {s : State} {f : Mender → Mender} (hs : Kept s0 s) :
    Kept s0 (modMd s f) := by
  unfold modMd
  repeat' with_reducible first
    | assumption | intro _ | apply kept_ite | split | extract_lets | apply kept_mk

theorem wdService_kept {s0 : State} {s : State} (hs : Kept s0 s) :
    Kept s0 (wdService s) := by
  unfold wdService
  repeat' with_reducible first
    | assumption | intro _ | apply kept_ite | apply modLk_kept | split | extract_lets | apply kept_mk

theorem logEvent_kept {s0 : State} {s : State} {e : Event} (hs : Kept s0 s) :
    Kept s0 (logEvent s e) := by
  unfold logEvent
  repeat' with_reducible first
    | assumption | intro _ | apply kept_ite | apply modLk_kept | split | extract_lets | apply kept_mk

theorem aerFatal_kept {s0 : State} {s : State} {p : Nat} {e : Event} (hs : Kept s0 s) :
    Kept s0 (aerFatal s p e) := by
  unfold aerFatal
  repeat' with_reducible first
    | assumption | intro _ | apply kept_ite | apply emit_kept | apply aerRecord_kept | split | extract_lets
    | apply kept_mk

theorem aerEvent_kept {s0 : State} {s : State} {p : Nat} {f : Fn} {e : Event} (hs : Kept s0 s) :
    Kept s0 (aerEvent s p f e) := by
  unfold aerEvent
  repeat' with_reducible first
    | assumption | intro _ | apply kept_ite | apply aerLog_kept | split | extract_lets | apply kept_mk

theorem aerReport_kept {s0 : State} {s : State} {e : Event} (hs : Kept s0 s) :
    Kept s0 (aerReport s e) := by
  unfold aerReport
  repeat' with_reducible first
    | assumption | intro _ | apply kept_ite | apply kept_foldl | apply aerFatal_kept | apply aerEvent_kept | split
    | extract_lets | apply kept_mk

theorem pendAlert_kept {s0 : State} {s : State} {p : Nat} {cls : Nat} (hs : Kept s0 s) :
    Kept s0 (pendAlert s p cls) := by
  unfold pendAlert
  repeat' with_reducible first
    | assumption | intro _ | apply kept_ite | apply wr_kept | apply modHp_kept | apply intaUpdate_kept
    | apply alertSend_kept | split | extract_lets | apply kept_mk

theorem alertAll_kept {s0 : State} {s : State} {e : Event} (hs : Kept s0 s) :
    Kept s0 (alertAll s e) := by
  unfold alertAll
  repeat' with_reducible first
    | assumption | intro _ | apply kept_ite | apply kept_foldl | apply pendAlert_kept | split | extract_lets
    | apply kept_mk

theorem takeEvent_kept {s0 : State} {s : State} {e : Event} (hs : Kept s0 s) :
    Kept s0 (takeEvent s e) := by
  unfold takeEvent
  repeat' with_reducible first
    | assumption | intro _ | apply kept_ite | apply logEvent_kept | apply aerReport_kept | apply alertAll_kept
    | split | extract_lets | apply kept_mk

theorem execEventRaise_kept {s0 : State} {ev : Ev} {inst : Word} {s : State} (hs : Kept s0 s) :
    KeptO s0 (execEventRaise ev inst s) := by
  unfold execEventRaise
  repeat' with_reducible first
    | assumption | intro _ | apply keptO_next | apply keptO_ite | apply kept_ite | apply raise_kept | split
    | extract_lets | apply kept_mk

theorem execEventLog_kept {s0 : State} {s : State} (hs : Kept s0 s) :
    KeptO s0 (execEventLog s) := by
  unfold execEventLog
  repeat' with_reducible first
    | assumption | intro _ | apply keptO_next | apply keptO_ite | apply kept_ite | apply modLk_kept
    | apply wdService_kept | apply takeEvent_kept | split | extract_lets | apply kept_mk

theorem setFault_kept {s0 : State} {s : State} {b : Bool} (hs : Kept s0 s) :
    Kept s0 (setFault s b) := by
  unfold setFault
  repeat' with_reducible first
    | assumption | intro _ | apply kept_ite | apply emit_kept | apply modLk_kept | split | extract_lets
    | apply kept_mk

theorem stopQueues_kept {s0 : State} {s : State} (hs : Kept s0 s) :
    Kept s0 (stopQueues s) := by
  unfold stopQueues
  repeat' with_reducible first
    | assumption | intro _ | apply kept_ite | apply kept_foldl | apply dropSys_kept | apply settleIdle_kept
    | apply cancelJob_kept | split | extract_lets | apply kept_foldl_fst | apply kept_foldl_snd | apply kept_mk

theorem stopDma_kept {s0 : State} {s : State} (hs : Kept s0 s) :
    Kept s0 (stopDma s) := by
  unfold stopDma
  repeat' with_reducible first
    | assumption | intro _ | apply kept_ite | apply kept_foldl | apply withdrawX_kept | split | extract_lets
    | apply kept_foldl_fst | apply kept_foldl_snd | apply kept_mk

theorem stopCores_kept {s0 : State} {s : State} (hs : Kept s0 s) :
    Kept s0 (stopCores s) := by
  unfold stopCores
  repeat' with_reducible first
    | assumption | intro _ | apply kept_ite | apply kept_foldl | apply coreStopped_kept | apply clearCore_kept
    | split | extract_lets | apply kept_foldl_fst | apply kept_foldl_snd | apply kept_mk

theorem stopEngines_kept {s0 : State} {s : State} (hs : Kept s0 s) :
    Kept s0 (stopEngines s) := by
  unfold stopEngines
  repeat' with_reducible first
    | assumption | intro _ | apply kept_ite | apply kept_foldl | apply devFree_kept | apply modConn_kept
    | apply connClear_kept | split | extract_lets | apply kept_foldl_fst | apply kept_foldl_snd | apply kept_mk

theorem stopPorts_kept {s0 : State} {s : State} (hs : Kept s0 s) :
    Kept s0 (stopPorts s) := by
  unfold stopPorts
  repeat' with_reducible first
    | assumption | intro _ | apply kept_ite | apply kept_foldl | apply devFree_kept | apply modFw_kept
    | apply egDrop_kept | apply ingressCut_kept | apply egCut_kept | apply arrGone_kept | split | extract_lets
    | apply kept_mk

theorem stopWork_kept {s0 : State} {s : State} (hs : Kept s0 s) :
    Kept s0 (stopWork s) := by
  unfold stopWork
  repeat' with_reducible first
    | assumption | intro _ | apply kept_ite | apply kept_foldl | apply writeLeave_kept | apply stopQueues_kept
    | apply stopDma_kept | apply stopCores_kept | apply stopEngines_kept | apply stopPorts_kept | split
    | extract_lets | apply kept_foldl_fst | apply kept_foldl_snd | apply kept_mk

theorem contain_kept {s0 : State} {s : State} {ev : Ev} {inst : Nat} (hs : Kept s0 s) :
    Kept s0 (contain s ev inst) := by
  unfold contain
  repeat' with_reducible first
    | assumption | intro _ | apply kept_ite | apply modLk_kept | apply logEvent_kept | apply takeEvent_kept
    | apply setFault_kept | apply stopWork_kept | split | extract_lets | apply kept_mk

theorem execFatalEvent_kept {s0 : State} {noc : Bool} {s : State} (hs : Kept s0 s) :
    KeptO s0 (execFatalEvent noc s) := by
  unfold execFatalEvent
  repeat' with_reducible first
    | assumption | intro _ | apply keptO_next | apply keptO_ite | apply kept_ite | apply contain_kept | split
    | extract_lets | apply kept_mk

theorem execRailFault_kept {s0 : State} {s : State} (hs : Kept s0 s) :
    KeptO s0 (execRailFault s) := by
  unfold execRailFault
  repeat' with_reducible first
    | assumption | intro _ | apply keptO_next | apply keptO_ite | apply kept_ite | apply contain_kept | split
    | extract_lets | apply kept_mk

theorem execClockFault_kept {s0 : State} {s : State} (hs : Kept s0 s) :
    KeptO s0 (execClockFault s) := by
  unfold execClockFault
  repeat' with_reducible first
    | assumption | intro _ | apply keptO_next | apply keptO_ite | apply kept_ite | apply contain_kept | split
    | extract_lets | apply kept_mk

theorem thermStep_kept {s0 : State} {s : State} (hs : Kept s0 s) :
    Kept s0 (thermStep s) := by
  unfold thermStep
  repeat' with_reducible first
    | assumption | intro _ | apply kept_ite | apply raise_kept | apply modBoot_kept | apply contain_kept | split
    | extract_lets | apply kept_mk

theorem execJunctionSample_kept {s0 : State} {temps : List Byte} {s : State} (hs : Kept s0 s) :
    KeptO s0 (execJunctionSample temps s) := by
  unfold execJunctionSample
  repeat' with_reducible first
    | assumption | intro _ | apply keptO_next | apply keptO_ite | apply kept_ite | apply kept_foldl
    | apply modBoot_kept | apply wdService_kept | apply thermStep_kept | split | extract_lets | apply kept_mk

theorem execTripPowerOff_kept {s0 : State} {s : State} (hs : Kept s0 s) :
    KeptO s0 (execTripPowerOff s) := by
  unfold execTripPowerOff
  repeat' with_reducible first
    | assumption | intro _ | apply keptO_next | apply keptO_ite | apply kept_ite | apply modBoot_kept | split
    | extract_lets | apply kept_mk

theorem resetBase_kept {s0 : State} {s : State} (hs : Kept s0 s) : Kept s0 (resetBase s) :=
  ⟨hs.1, hs.2, fun _ => ⟨rfl, rfl, rfl, rfl⟩, fun _ x hx => (by cases hx), hs.5⟩

theorem deviceReset_kept {s0 : State} {s : State} {cause : Nat} (hs : Kept s0 s) :
    Kept s0 (deviceReset s cause) := by
  unfold deviceReset
  repeat' with_reducible first
    | assumption | intro _ | apply kept_ite | apply boundary_kept | apply resetBase_kept | split | extract_lets
    | apply kept_mk

theorem wantReset_kept {s0 : State} {s : State} {cause : Nat} (hs : Kept s0 s) :
    Kept s0 (wantReset s cause) := by
  unfold wantReset
  repeat' with_reducible first
    | assumption | intro _ | apply kept_ite | apply modLk_kept | apply deviceReset_kept | split | extract_lets
    | apply kept_mk

theorem execFatalTimerExpire_kept {s0 : State} {s : State} (hs : Kept s0 s) :
    KeptO s0 (execFatalTimerExpire s) := by
  unfold execFatalTimerExpire
  repeat' with_reducible first
    | assumption | intro _ | apply keptO_next | apply keptO_ite | apply kept_ite | apply modLk_kept
    | apply wantReset_kept | split | extract_lets | apply kept_mk

theorem execResetProceed_kept {s0 : State} {s : State} (hs : Kept s0 s) :
    KeptO s0 (execResetProceed s) := by
  unfold execResetProceed
  repeat' with_reducible first
    | assumption | intro _ | apply keptO_next | apply keptO_ite | apply kept_ite | apply deviceReset_kept | split
    | extract_lets | apply kept_mk

theorem lrs_kept {s0 : State} {s : State} {cause : Nat} (hs : Kept s0 s) :
    Kept s0 (lrs s cause) := by
  unfold lrs
  repeat' with_reducible first
    | assumption | intro _ | apply kept_ite | apply kept_foldl | apply emit_kept | apply modLs_kept
    | apply ingressCut_kept | apply egCut_kept | apply modLk_kept | apply setFault_kept | split | extract_lets
    | apply kept_mk

theorem execLockstepMismatch_kept {s0 : State} {s : State} (hs : Kept s0 s) :
    KeptO s0 (execLockstepMismatch s) := by
  unfold execLockstepMismatch
  repeat' with_reducible first
    | assumption | intro _ | apply keptO_next | apply keptO_ite | apply kept_ite | apply lrs_kept | split
    | extract_lets | apply kept_mk

theorem execLkRefLoss_kept {s0 : State} {s : State} (hs : Kept s0 s) :
    KeptO s0 (execLkRefLoss s) := by
  unfold execLkRefLoss
  repeat' with_reducible first
    | assumption | intro _ | apply keptO_next | apply keptO_ite | apply kept_ite | apply lrs_kept | split
    | extract_lets | apply kept_mk

theorem execLkWatchdogExpire_kept {s0 : State} {sramError : Bool} {s : State} (hs : Kept s0 s) :
    KeptO s0 (execLkWatchdogExpire sramError s) := by
  unfold execLkWatchdogExpire
  repeat' with_reducible first
    | assumption | intro _ | apply keptO_next | apply keptO_ite | apply kept_ite | apply modLk_kept
    | apply lrs_kept | split | extract_lets | apply kept_mk

end Sys2Proof.Machine
end

