-- ==== Sys2Proof/Laws/KeptSpares.lean ====
section
/-! SUPPORT. What the operations of Machine/Spares.lean keep (Safety.lean). -/
namespace Sys2Proof.Machine

theorem ledgerFull_kept {s0 : State} {s : State} (hs : Kept s0 s) :
    Kept s0 (ledgerFull s) := by
  unfold ledgerFull
  repeat' with_reducible first
    | assumption | intro _ | apply kept_ite | apply raise_kept | apply modMd_kept | split | extract_lets
    | apply kept_mk

theorem coreOffline_kept {s0 : State} {s : State} {part : Nat} (hs : Kept s0 s) :
    Kept s0 (coreOffline s part) := by
  unfold coreOffline
  repeat' with_reducible first
    | assumption | intro _ | apply kept_ite | apply modCore_kept | apply haltClock_kept | apply clearCore_kept
    | split | extract_lets | apply kept_mk

theorem degrade_kept {s0 : State} {s : State} {k : Nat} {part : Nat} (hs : Kept s0 s) :
    Kept s0 (degrade s k part) := by
  unfold degrade
  repeat' with_reducible first
    | assumption | intro _ | apply kept_ite | apply modMd_kept | apply coreOffline_kept | split | extract_lets
    | apply kept_mk

theorem exhausted_kept {s0 : State} {s : State} {k : Nat} {part : Nat} (hs : Kept s0 s) :
    Kept s0 (exhausted s k part) := by
  unfold exhausted
  repeat' with_reducible first
    | assumption | intro _ | apply kept_ite | apply raise_kept | apply degrade_kept | split | extract_lets
    | apply kept_mk

theorem substitute_kept {s0 : State} {s : State} {w : Worn} {spare : Nat} (hs : Kept s0 s) :
    Kept s0 (substitute s w spare) := by
  unfold substitute
  repeat' with_reducible first
    | assumption | intro _ | apply kept_ite | apply raise_kept | apply modLs_kept | apply modMd_kept
    | apply ledgerFull_kept | split | extract_lets | apply kept_mk

theorem partWorn_kept {s0 : State} {s : State} {w : Worn} (hs : Kept s0 s) :
    Kept s0 (partWorn s w) := by
  unfold partWorn
  repeat' with_reducible first
    | assumption | intro _ | apply kept_ite | apply modMd_kept | apply exhausted_kept | split | extract_lets
    | apply kept_mk

theorem execKatRun_kept {s0 : State} {gf : Bool} {unit : Fin 68} {pass : Bool} {s : State} (hs : Kept s0 s) :
    KeptO s0 (execKatRun gf unit pass s) := by
  unfold execKatRun
  repeat' with_reducible first
    | assumption | intro _ | apply keptO_next | apply keptO_ite | apply kept_ite | apply modLs_kept
    | apply modMd_kept | split | extract_lets | apply kept_mk

theorem rowErrors_kept {s0 : State} {s : State} {mon : Monitor} {part : Nat} {count : Nat} (hs : Kept s0 s) :
    Kept s0 (rowErrors s mon part count) := by
  unfold rowErrors
  repeat' with_reducible first
    | assumption | intro _ | apply kept_ite | apply kept_foldl | apply wearNote_kept | split | extract_lets
    | apply kept_mk

theorem execWearThresholdCross_kept {s0 : State} {mon : Monitor} {part : Word} {count : Word} {s : State} (hs : Kept
    s0 s) :
    KeptO s0 (execWearThresholdCross mon part count s) := by
  unfold execWearThresholdCross
  repeat' with_reducible first
    | assumption | intro _ | apply keptO_next | apply keptO_ite | apply kept_ite | apply partWorn_kept
    | apply rowErrors_kept | split | extract_lets | apply kept_mk

theorem takeSpare_kept {s0 : State} {s : State} {w : Worn} (hs : Kept s0 s) :
    Kept s0 (takeSpare s w) := by
  unfold takeSpare
  repeat' with_reducible first
    | assumption | intro _ | apply kept_ite | apply modMd_kept | apply ledgerFull_kept | apply degrade_kept
    | apply exhausted_kept | apply substitute_kept | split | extract_lets | apply kept_mk

theorem serveWorn_kept {s0 : State} {s : State} {ks : List Nat} {ok : Worn → Bool} (hs : Kept s0 s) :
    Kept s0 (serveWorn s ks ok) := by
  unfold serveWorn
  repeat' with_reducible first
    | assumption | intro _ | apply kept_ite | apply takeSpare_kept | split | extract_lets | apply kept_mk

theorem execCoreSubstitute_kept {s0 : State} {s : State} (hs : Kept s0 s) :
    KeptO s0 (execCoreSubstitute s) := by
  unfold execCoreSubstitute
  repeat' with_reducible first
    | assumption | intro _ | apply keptO_next | apply keptO_ite | apply kept_ite | apply serveWorn_kept | split
    | extract_lets | apply kept_mk

theorem execLpmBankSubstitute_kept {s0 : State} {s : State} (hs : Kept s0 s) :
    KeptO s0 (execLpmBankSubstitute s) := by
  unfold execLpmBankSubstitute
  repeat' with_reducible first
    | assumption | intro _ | apply keptO_next | apply keptO_ite | apply kept_ite | apply serveWorn_kept | split
    | extract_lets | apply kept_mk

theorem execCipherUnitSubstitute_kept {s0 : State} {s : State} (hs : Kept s0 s) :
    KeptO s0 (execCipherUnitSubstitute s) := by
  unfold execCipherUnitSubstitute
  repeat' with_reducible first
    | assumption | intro _ | apply keptO_next | apply keptO_ite | apply kept_ite | apply serveWorn_kept | split
    | extract_lets | apply kept_mk

theorem rowFresh_kept {s0 : State} {s : State} {p : Nat} (hs : Kept s0 s) :
    Kept s0 (rowFresh s p) := by
  unfold rowFresh
  repeat' with_reducible first
    | assumption | intro _ | apply kept_ite | split | extract_lets | apply kept_mk

theorem execRowRemap_kept {s0 : State} {s : State} (hs : Kept s0 s) :
    KeptO s0 (execRowRemap s) := by
  unfold execRowRemap
  repeat' with_reducible first
    | assumption | intro _ | apply keptO_next | apply keptO_ite | apply kept_ite | apply serveWorn_kept
    | apply rowFresh_kept | split | extract_lets | apply kept_mk

theorem execLedgerWrite_kept {s0 : State} {s : State} (hs : Kept s0 s) :
    KeptO s0 (execLedgerWrite s) := by
  unfold execLedgerWrite
  repeat' with_reducible first
    | assumption | intro _ | apply keptO_next | apply keptO_ite | apply kept_ite | apply modMd_kept | split
    | extract_lets | apply kept_mk

end Sys2Proof.Machine
end

