-- ==== Sys2Proof/Laws/KeptHbm.lean ====
section
/-! SUPPORT. What the operations of Machine/Hbm.lean keep (Safety.lean). -/
namespace Sys2Proof.Machine

theorem modHbm_kept {s0 : State} {s : State} {f : Hbm → Hbm} (hs : Kept s0 s) :
    Kept s0 (modHbm s f) := by
  unfold modHbm
  repeat' with_reducible first
    | assumption | intro _ | apply kept_ite | split | extract_lets | apply kept_mk

theorem modStack_kept {s0 : State} {s : State} {k : Nat} {f : Stack → Stack} (hs : Kept s0 s) :
    Kept s0 (modStack s k f) := by
  unfold modStack
  repeat' with_reducible first
    | assumption | intro _ | apply kept_ite | apply modHbm_kept | split | extract_lets | apply kept_mk

theorem pcCount_kept {s0 : State} {s : State} {p : Nat} {i : Nat} {n : Nat} (hs : Kept s0 s) :
    Kept s0 (pcCount s p i n) := by
  unfold pcCount
  repeat' with_reducible first
    | assumption | intro _ | apply kept_ite | apply cadd_kept | split | extract_lets | apply kept_mk

theorem execStackTempSample_kept {s0 : State} {stack : Fin 4} {temp : Byte} {s : State} (hs : Kept s0 s) :
    KeptO s0 (execStackTempSample stack temp s) := by
  unfold execStackTempSample
  repeat' with_reducible first
    | assumption | intro _ | apply keptO_next | apply keptO_ite | apply kept_ite | apply raise_kept
    | apply thermStep_kept | apply modStack_kept | split | extract_lets | apply kept_mk

theorem execBankRefresh_kept {s0 : State} {pc : Fin 264} {bank : Fin 16} {s : State} (hs : Kept s0 s) :
    KeptO s0 (execBankRefresh pc bank s) := by
  unfold execBankRefresh
  repeat' with_reducible first
    | assumption | intro _ | apply keptO_next | apply keptO_ite | apply kept_ite | apply modHbm_kept
    | apply pcCount_kept | split | extract_lets | apply kept_mk

theorem execRefreshWindowStart_kept {s0 : State} {stack : Fin 4} {s : State} (hs : Kept s0 s) :
    KeptO s0 (execRefreshWindowStart stack s) := by
  unfold execRefreshWindowStart
  repeat' with_reducible first
    | assumption | intro _ | apply keptO_next | apply keptO_ite | apply kept_ite | apply modHbm_kept
    | apply modStack_kept | split | extract_lets | apply kept_mk

theorem execNeighbourRefresh_kept {s0 : State} {pc : Fin 264} {group : Fin 4} {row : Nat} {n : Nat} {s : State} (hs :
    Kept s0 s) :
    KeptO s0 (execNeighbourRefresh pc group row n s) := by
  unfold execNeighbourRefresh
  repeat' with_reducible first
    | assumption | intro _ | apply keptO_next | apply keptO_ite | apply kept_ite | apply raise_kept
    | apply modHbm_kept | apply pcCount_kept | split | extract_lets | apply kept_mk

theorem execScrubVisit_kept {s0 : State} {pc : Fin 264} {found : Fin 3} {onDie : Bool} {s : State} (hs : Kept s0 s) :
    KeptO s0 (execScrubVisit pc found onDie s) := by
  unfold execScrubVisit
  repeat' with_reducible first
    | assumption | intro _ | apply keptO_next | apply keptO_ite | apply kept_ite | apply cadd_kept
    | apply raise_kept | apply wearNote_kept | apply modHbm_kept | apply pcCount_kept | split | extract_lets
    | apply kept_mk

theorem execTrainPatternRun_kept {s0 : State} {pc : Fin 264} {lanes : Fin 16} {pattern : Word} {mismatch : Word} {s :
    State} (hs : Kept s0 s) :
    KeptO s0 (execTrainPatternRun pc lanes pattern mismatch s) := by
  unfold execTrainPatternRun
  repeat' with_reducible first
    | assumption | intro _ | apply keptO_next | apply keptO_ite | apply kept_ite | apply rset_kept | split
    | extract_lets | apply kept_mk

theorem execMigStart_kept {s0 : State} {s : State} (hs : Kept s0 s) :
    KeptO s0 (execMigStart s) := by
  unfold execMigStart
  repeat' with_reducible first
    | assumption | intro _ | apply keptO_next | apply keptO_ite | apply kept_ite | apply raise_kept
    | apply modMd_kept | apply ledgerFull_kept | apply degrade_kept | apply exhausted_kept | apply modHbm_kept
    | split | extract_lets | apply kept_mk

theorem execMigOpenEnd_kept {s0 : State} {s : State} (hs : Kept s0 s) :
    KeptO s0 (execMigOpenEnd s) := by
  unfold execMigOpenEnd
  repeat' with_reducible first
    | assumption | intro _ | apply keptO_next | apply keptO_ite | apply kept_ite | apply modMd_kept
    | apply modHbm_kept | split | extract_lets | apply kept_mk

theorem execMigCopyUnit_kept {s0 : State} {s : State} (hs : Kept s0 s) :
    KeptO s0 (execMigCopyUnit s) := by
  unfold execMigCopyUnit
  repeat' with_reducible first
    | assumption | intro _ | apply keptO_next | apply keptO_ite | apply kept_ite | apply modHbm_kept | split
    | extract_lets | apply kept_mk

theorem execMigCommitEnd_kept {s0 : State} {s : State} (hs : Kept s0 s) :
    KeptO s0 (execMigCommitEnd s) := by
  unfold execMigCommitEnd
  repeat' with_reducible first
    | assumption | intro _ | apply keptO_next | apply keptO_ite | apply kept_ite | apply modMd_kept
    | apply modHbm_kept | split | extract_lets | apply kept_mk

theorem execMcMigDone_kept {s0 : State} {s : State} (hs : Kept s0 s) :
    KeptO s0 (execMcMigDone s) := by
  unfold execMcMigDone
  repeat' with_reducible first
    | assumption | intro _ | apply keptO_next | apply keptO_ite | apply kept_ite | apply raise_kept
    | apply modHbm_kept | split | extract_lets | apply kept_mk

theorem remapAborted_kept {s0 : State} {s : State} {e : LEntry} (hs : Kept s0 s) :
    Kept s0 (remapAborted s e) := by
  unfold remapAborted
  repeat' with_reducible first
    | assumption | intro _ | apply kept_ite | apply raise_kept | apply modMd_kept | apply ledgerFull_kept
    | apply modHbm_kept | split | extract_lets | apply kept_mk

theorem applyLedger_kept {s0 : State} {s : State} (hs : Kept s0 s) :
    Kept s0 (applyLedger s) := by
  unfold applyLedger
  repeat' with_reducible first
    | assumption | intro _ | apply kept_ite | apply kept_foldl | apply modMd_kept | apply coreOffline_kept
    | apply modHbm_kept | apply remapAborted_kept | split | extract_lets | apply kept_foldl_fst
    | apply kept_foldl_snd | apply kept_mk

end Sys2Proof.Machine
end

