-- ==== Sys2Proof/Laws/KeptMailbox.lean ====
section
/-! SUPPORT. What the operations of Machine/Mailbox.lean keep (Safety.lean). -/
namespace Sys2Proof.Machine

theorem noteInUse_kept {s0 : State} {s : State} {typ rb : Nat} (hs : Kept s0 s) : Kept s0 (noteInUse s typ rb) := by
  unfold noteInUse
  exact kept_fuses_mk hs

theorem imgStore_kept {s0 : State} {s : State} {k : Nat} {i : SignedImg} (hs : Kept s0 s) :
    Kept s0 (imgStore s k i) := by
  unfold imgStore
  exact noteInUse_kept (wr_kept (wr_kept (kept_fwmem hs fun h => memWf_writeMem _ _ _ (memWf_mfilter _ _ h))))

theorem modMb_kept {s0 : State} {s : State} {p : Nat} {f : Mailbox → Mailbox} (hs : Kept s0 s) :
    Kept s0 (modMb s p f) := by
  unfold modMb
  repeat' with_reducible first
    | assumption | intro _ | apply kept_ite | apply modLk_kept | split | extract_lets | apply kept_mk

theorem mbFinish_kept {s0 : State} {s : State} {p : Nat} {res : Nat} {payload : List Byte} (hs : Kept s0 s) :
    Kept s0 (mbFinish s p res payload) := by
  unfold mbFinish
  repeat' with_reducible first
    | assumption | intro _ | apply kept_ite | apply raiseOnce_kept | apply wdService_kept | apply modMb_kept
    | split | extract_lets | apply kept_mk

theorem mbServed_kept {s0 : State} {s : State} {p : Nat} (hs : Kept s0 s) :
    Kept s0 (mbServed s p) := by
  unfold mbServed
  repeat' with_reducible first
    | assumption | intro _ | apply kept_ite | apply modLk_kept | split | extract_lets | apply kept_mk

theorem mbServe_kept {s0 : State} {s : State} {e0 : Nat} (hs : Kept s0 s) :
    Kept s0 (mbServe s e0) := by
  induction e0 generalizing s hs with
  | zero =>
    unfold mbServe
    repeat' with_reducible first
      | assumption | intro _ | apply kept_ite | apply mbFinish_kept | apply mbServed_kept | split | extract_lets
      | apply kept_mk
  | succ k ih =>
    unfold mbServe
    repeat' with_reducible first
      | assumption | intro _ | apply kept_ite | apply ih | apply mbFinish_kept | apply mbServed_kept | split
      | extract_lets | apply kept_mk

theorem mbCtrl_kept {s0 : State} {s : State} {p : Nat} {value : Nat} (hs : Kept s0 s) :
    Kept s0 (mbCtrl s p value) := by
  unfold mbCtrl
  repeat' with_reducible first
    | assumption | intro _ | apply kept_ite | apply wr_kept | apply raiseOnce_kept | apply modMb_kept
    | apply mbServe_kept | split | extract_lets | apply kept_mk

theorem mbGate_kept {s0 : State} {s : State} {p : HostPort} {eff : State → State} (hs : Kept s0 s) (heff : ∀ x, Kept
    s0 x → Kept s0 (eff x)) :
    Kept s0 (mbGate s p eff) := by
  unfold mbGate
  repeat' with_reducible first
    | assumption | intro _ | apply kept_ite | apply heff | apply barGate_kept | split | extract_lets
    | apply kept_mk

theorem execMbGo_kept {s0 : State} {port : HostPort} {value : Word} {s : State} (hs : Kept s0 s) :
    KeptO s0 (execMbGo port value s) := by
  unfold execMbGo
  repeat' with_reducible first
    | assumption | intro _ | apply keptO_next | apply keptO_ite | apply kept_ite | apply mbCtrl_kept
    | apply mbGate_kept | split | extract_lets | apply kept_mk

theorem execMbAck_kept {s0 : State} {port : HostPort} {s : State} (hs : Kept s0 s) :
    KeptO s0 (execMbAck port s) := by
  unfold execMbAck
  repeat' with_reducible first
    | assumption | intro _ | apply keptO_next | apply keptO_ite | apply kept_ite | apply mbCtrl_kept
    | apply mbGate_kept | split | extract_lets | apply kept_mk

theorem mbRun_kept {s0 : State} {s : State} {p op : Nat} {mgmt : Bool} {body : State → Nat → MbOut} (hs : Kept s0 s)
    (hbody : ∀ x a0, Kept s0 x → Kept s0 (body x a0).1) : Kept s0 (mbRun s p op mgmt body) := by
  have hgo : ∀ x d, Kept s0 x → Kept s0 (if mgmt && decide (p ≠ mgmtPort x) then ((x, 3, []) : MbOut) else body x d).1 := by
    intro x d hx
    split
    · exact hx
    · exact hbody x d hx
  unfold mbRun
  extract_lets m go
  split
  · exact hs
  · split
    · exact mbServe_kept (hgo _ _ (modMb_kept (mbServed_kept hs)))
    · exact mbServe_kept (mbFinish_kept (hgo _ _ (mbServed_kept hs)))

theorem execVersion_kept {s0 : State} {port : HostPort} {s : State} (hs : Kept s0 s) :
    KeptO s0 (execVersion port s) := by
  unfold execVersion
  repeat' with_reducible first
    | assumption | intro _ | apply keptO_next | apply keptO_ite | apply kept_ite | apply modMb_kept
    | apply mbRun_kept | split | extract_lets | apply kept_mk

theorem execInfo_kept {s0 : State} {port : HostPort} {s : State} (hs : Kept s0 s) :
    KeptO s0 (execInfo port s) := by
  unfold execInfo
  repeat' with_reducible first
    | assumption | intro _ | apply keptO_next | apply keptO_ite | apply kept_ite | apply mbRun_kept | split
    | extract_lets | apply kept_mk

theorem execLedgerRead_kept {s0 : State} {port : HostPort} {s : State} (hs : Kept s0 s) :
    KeptO s0 (execLedgerRead port s) := by
  unfold execLedgerRead
  repeat' with_reducible first
    | assumption | intro _ | apply keptO_next | apply keptO_ite | apply kept_ite | apply mbRun_kept | split
    | extract_lets | apply kept_mk

theorem imgReject_kept {s0 : State} {s : State} {res : Nat} (hs : Kept s0 s) :
    Kept s0 (imgReject s res).1 := by
  unfold imgReject
  repeat' with_reducible first
    | assumption | intro _ | apply kept_ite | apply raise_kept | split | extract_lets | apply kept_mk

theorem imageLoaded_kept {s0 : State} {s : State} {img : Option SignedImg} (hs : Kept s0 s) :
    Kept s0 (imageLoaded s img).1 := by
  unfold imageLoaded
  repeat' with_reducible first
    | assumption | intro _ | apply kept_ite | apply imgStore_kept | apply imgReject_kept
    | refine kept_of_fst (by assumption) ?_ | split | extract_lets | apply kept_mk

theorem execImageLoad_kept {s0 : State} {port : HostPort} {img : Option SignedImg} {s : State} (hs : Kept s0 s) :
    KeptO s0 (execImageLoad port img s) := by
  unfold execImageLoad
  repeat' with_reducible first
    | assumption | intro _ | apply keptO_next | apply keptO_ite | apply kept_ite | apply hostRead_kept
    | apply mbRun_kept | apply imageLoaded_kept | refine kept_of_fst (by assumption) ?_ | split | extract_lets
    | apply kept_mk

theorem execConfigLoad_kept {s0 : State} {port : HostPort} {img : SignedImg} {s : State} (hs : Kept s0 s) :
    KeptO s0 (execConfigLoad port img s) := by
  unfold execConfigLoad
  repeat' with_reducible first
    | assumption | intro _ | apply keptO_next | apply keptO_ite | apply kept_ite | apply mbRun_kept
    | apply imgReject_kept | refine kept_of_fst (by assumption) ?_ | split | extract_lets | apply kept_fuses_mk
    | apply kept_mk

theorem execDeviceReset_kept {s0 : State} {port : HostPort} {s : State} (hs : Kept s0 s) :
    KeptO s0 (execDeviceReset port s) := by
  unfold execDeviceReset
  repeat' with_reducible first
    | assumption | intro _ | apply keptO_next | apply keptO_ite | apply kept_ite | apply modLk_kept
    | apply wantReset_kept | apply mbRun_kept | split | extract_lets | apply kept_mk

theorem execPolicySet_kept {s0 : State} {port : HostPort} {value : Word} {s : State} (hs : Kept s0 s) :
    KeptO s0 (execPolicySet port value s) := by
  unfold execPolicySet
  repeat' with_reducible first
    | assumption | intro _ | apply keptO_next | apply keptO_ite | apply kept_ite | apply rset_kept
    | apply mbRun_kept | split | extract_lets | apply kept_mk

theorem execAlertFilter_kept {s0 : State} {port : HostPort} {groups : DWord} {s : State} (hs : Kept s0 s) :
    KeptO s0 (execAlertFilter port groups s) := by
  unfold execAlertFilter
  repeat' with_reducible first
    | assumption | intro _ | apply keptO_next | apply keptO_ite | apply kept_ite | apply modMb_kept
    | apply mbRun_kept | split | extract_lets | apply kept_mk

theorem getD_set_max (l : List Nat) (i v k : Nat) : l.getD k 0 ≤ (l.set i (max (l.getD i 0) v)).getD k 0 := by
  simp only [List.getD_eq_getElem?_getD, List.getElem?_set]
  split
  · rename_i e
    subst e
    split
    · exact Nat.le_max_left _ _
    · rename_i h
      simp [List.getElem?_eq_none (Nat.le_of_not_lt h)]
  · exact Nat.le_refl _

theorem execRollbackCommit_kept {s0 : State} {port : HostPort} {s : State} (hs : Kept s0 s) :
    KeptO s0 (execRollbackCommit port s) := by
  unfold execRollbackCommit
  refine keptO_next (mbRun_kept hs fun x d hx => ?_)
  dsimp only
  split
  · exact hx
  · exact kept_fuses hx fun k => getD_set_max _ _ _ _

theorem execFlashWrite_kept {s0 : State} {port : HostPort} {img : SignedImg} {s : State} (hs : Kept s0 s) :
    KeptO s0 (execFlashWrite port img s) := by
  unfold execFlashWrite
  repeat' with_reducible first
    | assumption | intro _ | apply keptO_next | apply keptO_ite | apply kept_ite | apply emit_kept
    | apply modBoot_kept | apply mbRun_kept | apply imgReject_kept | split | extract_lets | apply kept_mk

theorem execFlashSelect_kept {s0 : State} {port : HostPort} {typ : Fin 8} {bankB : Bool} {s : State} (hs : Kept s0 s)
    :
    KeptO s0 (execFlashSelect port typ bankB s) := by
  unfold execFlashSelect
  repeat' with_reducible first
    | assumption | intro _ | apply keptO_next | apply keptO_ite | apply kept_ite | apply mbRun_kept | split
    | extract_lets | apply kept_fuses_mk | apply kept_mk

theorem execBootReport_kept {s0 : State} {port : HostPort} {s : State} (hs : Kept s0 s) :
    KeptO s0 (execBootReport port s) := by
  unfold execBootReport
  repeat' with_reducible first
    | assumption | intro _ | apply keptO_next | apply keptO_ite | apply kept_ite | apply mbRun_kept | split
    | extract_lets | apply kept_mk

end Sys2Proof.Machine
end

