-- ==== Sys2Proof/Laws/KeptBoot.lean ====
section
/-! SUPPORT. What the operations of Machine/Boot.lean keep (Safety.lean). -/
namespace Sys2Proof.Machine

theorem execPorNAssert_kept {s0 : State} {s : State} (hs : Kept s0 s) :
    KeptO s0 (execPorNAssert s) := by
  unfold execPorNAssert
  repeat' with_reducible first
    | assumption | intro _ | apply keptO_next | apply keptO_ite | apply kept_ite | apply setFault_kept
    | apply resetBase_kept | split | extract_lets | apply kept_mk

theorem execPorNRelease_kept {s0 : State} {railsOk : Bool} {s : State} (hs : Kept s0 s) :
    KeptO s0 (execPorNRelease railsOk s) := by
  unfold execPorNRelease
  repeat' with_reducible first
    | assumption | intro _ | apply keptO_next | apply keptO_ite | apply kept_ite | apply modLk_kept
    | apply modBoot_kept | split | extract_lets | apply kept_mk

theorem reject_kept {s0 : State} {s : State} {t : Nat} {bank : Nat} {why : Nat} (hs : Kept s0 s) :
    Kept s0 (reject s t bank why) := by
  unfold reject
  repeat' with_reducible first
    | assumption | intro _ | apply kept_ite | apply modBoot_kept | split | extract_lets | apply kept_mk

theorem tryBanks_kept {s0 : State} {s : State} {t : Nat} {e0 : List Nat} (hs : Kept s0 s) :
    Kept s0 (tryBanks s t e0).1 := by
  induction e0 generalizing s t hs with
  | nil =>
    unfold tryBanks
    repeat' with_reducible first
      | assumption | intro _ | apply kept_ite | apply raise_kept | apply reject_kept | split | extract_lets
      | apply kept_mk
  | cons hd tl ih =>
    unfold tryBanks
    repeat' with_reducible first
      | assumption | intro _ | apply kept_ite | apply ih | apply raise_kept | apply reject_kept | split
      | extract_lets | apply kept_mk

theorem pick_kept {s0 : State} {s : State} {t : Nat} (hs : Kept s0 s) :
    Kept s0 (pick s t).1 := by
  unfold pick
  repeat' with_reducible first
    | assumption | intro _ | apply kept_ite | apply modBoot_kept | apply noteInUse_kept | apply tryBanks_kept
    | refine kept_of_fst (by assumption) ?_ | split | extract_lets | apply kept_mk

theorem recovery_kept {s0 : State} {s : State} {err : Nat} (hs : Kept s0 s) :
    Kept s0 (recovery s err) := by
  unfold recovery
  repeat' with_reducible first
    | assumption | intro _ | apply kept_ite | apply modBoot_kept | apply takeEvent_kept | split | extract_lets
    | apply kept_mk

theorem nextStage_kept {s0 : State} {s : State} (hs : Kept s0 s) :
    Kept s0 (nextStage s) := by
  unfold nextStage
  repeat' with_reducible first
    | assumption | intro _ | apply kept_ite | apply modBoot_kept | split | extract_lets | apply kept_mk

theorem romStage_kept {s0 : State} {s : State} {a b : Option FlashDir} (hs : Kept s0 s) : Kept s0 (romStage s a b) := by
  unfold romStage
  refine nextStage_kept (modBoot_kept ?_)
  exact kept_fuses_mk hs

theorem fwStage_kept {s0 : State} {s : State} (hs : Kept s0 s) :
    Kept s0 (fwStage s) := by
  unfold fwStage
  repeat' with_reducible first
    | assumption | intro _ | apply kept_ite | apply modBoot_kept | apply pick_kept | apply nextStage_kept
    | refine kept_of_fst (by assumption) ?_ | split | extract_lets | apply kept_mk

theorem applyBootCfg_kept {s0 : State} {s : State} {c0 : BootCfg} (hs : Kept s0 s) :
    Kept s0 (applyBootCfg s c0) := by
  unfold applyBootCfg
  repeat' with_reducible first
    | assumption | intro _ | apply kept_ite | apply kept_foldl | apply rset_kept | apply wr_kept
    | apply modBoot_kept | split | extract_lets | apply kept_mk

theorem applySignedCfg_kept {s0 : State} {s : State} {c : SignedCfg} (hs : Kept s0 s) :
    Kept s0 (applySignedCfg s c) := by
  unfold applySignedCfg
  repeat' with_reducible first
    | assumption | intro _ | apply kept_ite | apply rset_kept | apply modBoot_kept | split | extract_lets
    | apply kept_mk

theorem fromFlash_kept {s0 : State} {s : State} (hs : Kept s0 s) : Kept s0 (cfgStage.fromFlash s) := by
  unfold cfgStage.fromFlash
  repeat' with_reducible first
    | assumption | apply nextStage_kept | apply recovery_kept | apply applySignedCfg_kept | apply pick_kept
    | refine kept_of_fst (by assumption) ?_ | split

theorem cfgStage_kept {s0 : State} {s : State} (hs : Kept s0 s) : Kept s0 (cfgStage s) := by
  unfold cfgStage
  split
  · rename_i e
    exact recovery_kept (kept_of_fst e (pick_kept hs))
  · rename_i t i e
    have ht : Kept s0 t := kept_of_fst e (pick_kept hs)
    have h2 : Kept s0 (match i.body with | .bootCfg c => applyBootCfg t c | _ => t) := by
      split
      · exact applyBootCfg_kept ht
      · exact ht
    extract_lets s2
    have h3 : Kept s0 s2 := h2
    clear_value s2
    repeat' with_reducible first
      | assumption | apply nextStage_kept | apply fromFlash_kept | apply applySignedCfg_kept | apply noteInUse_kept | split

theorem portsStage_kept {s0 : State} {s : State} (hs : Kept s0 s) :
    Kept s0 (portsStage s) := by
  unfold portsStage
  repeat' with_reducible first
    | assumption | intro _ | apply kept_ite | apply kept_foldl | apply emit_kept | apply modHp_kept
    | apply modBoot_kept | apply nextStage_kept | split | extract_lets | apply kept_mk

theorem ledgerStage_kept {s0 : State} {s : State} (hs : Kept s0 s) :
    Kept s0 (ledgerStage s) := by
  unfold ledgerStage
  repeat' with_reducible first
    | assumption | intro _ | apply kept_ite | apply modBoot_kept | apply applyLedger_kept | apply nextStage_kept
    | split | extract_lets | apply kept_mk

theorem trainStage_kept {s0 : State} {s : State} {first : Nat} {retry : Nat} (hs : Kept s0 s) :
    Kept s0 (trainStage s first retry) := by
  unfold trainStage
  repeat' with_reducible first
    | assumption | intro _ | apply kept_ite | apply kept_foldl | apply raise_kept | apply modStack_kept
    | apply recovery_kept | apply nextStage_kept | split | extract_lets | apply kept_mk

theorem selfTestFail_kept {s0 : State} {s : State} {x : Nat × Nat} (hs : Kept s0 s) :
    Kept s0 (selfTestFail s x) := by
  unfold selfTestFail
  repeat' with_reducible first
    | assumption | intro _ | apply kept_ite | apply modMd_kept | apply partWorn_kept | apply takeSpare_kept | split
    | extract_lets | apply kept_mk

theorem loadStage_kept {s0 : State} {s : State} (hs : Kept s0 s) :
    Kept s0 (loadStage s) := by
  unfold loadStage
  repeat' with_reducible first
    | assumption | intro _ | apply kept_ite | apply kept_foldl | apply modLs_kept | apply modLk_kept
    | apply modBoot_kept | apply takeEvent_kept | apply setFault_kept | split | extract_lets | apply kept_foldl_fst
    | apply kept_foldl_snd | apply kept_mk

theorem execBootStageEnd_kept {s0 : State} {inp : StageIn} {s : State} (hs : Kept s0 s) :
    KeptO s0 (execBootStageEnd inp s) := by
  unfold execBootStageEnd
  repeat' with_reducible first
    | assumption | intro _ | apply keptO_next | apply keptO_ite | apply kept_ite | apply kept_foldl
    | apply wdService_kept | apply nextStage_kept | apply romStage_kept | apply fwStage_kept | apply cfgStage_kept
    | apply portsStage_kept | apply ledgerStage_kept | apply trainStage_kept | apply selfTestFail_kept
    | apply loadStage_kept | split | extract_lets | apply kept_mk

theorem execFcImageVerify_kept {s0 : State} {s : State} (hs : Kept s0 s) :
    KeptO s0 (execFcImageVerify s) := by
  unfold execFcImageVerify
  repeat' with_reducible first
    | assumption | intro _ | apply keptO_next | apply keptO_ite | apply kept_ite | apply modBoot_kept
    | apply imgStore_kept | apply reject_kept | split | extract_lets | apply kept_mk

theorem execClusterPowerOff_kept {s0 : State} {cluster : Fin 16} {s : State} (hs : Kept s0 s) :
    KeptO s0 (execClusterPowerOff cluster s) := by
  unfold execClusterPowerOff
  repeat' with_reducible first
    | assumption | intro _ | apply keptO_next | apply keptO_ite | apply kept_ite | split | extract_lets
    | apply kept_mk

end Sys2Proof.Machine
end

