-- ==== Sys2Proof/Laws/KeptDrover.lean ====
section
/-! SUPPORT. What the operations of Machine/Drover.lean keep (Safety.lean). -/
namespace Sys2Proof.Machine

theorem rttSample_kept {s0 : State} {s : State} {i : Nat} {n : Nat} (hs : Kept s0 s) :
    Kept s0 (rttSample s i n) := by
  unfold rttSample
  repeat' with_reducible first
    | assumption | intro _ | apply kept_ite | apply modConn_kept | split | extract_lets | apply kept_mk

theorem qSample_kept {s0 : State} {s : State} {i : Nat} {q : Int} (hs : Kept s0 s) :
    Kept s0 (qSample s i q) := by
  unfold qSample
  repeat' with_reducible first
    | assumption | intro _ | apply kept_ite | apply modConn_kept | split | extract_lets | apply kept_mk

theorem ackSample_kept {s0 : State} {s : State} {i echo rx : Nat} {rtt : Option Nat} (hs : Kept s0 s) :
    Kept s0 (ackSample s i echo rx rtt) := by
  unfold ackSample
  extract_lets s1
  have h1 : Kept s0 s1 := by
    show Kept s0 (match rtt with | some n => rttSample s i n | none => s)
    cases rtt
    · exact hs
    · exact rttSample_kept hs
  clear_value s1
  repeat' with_reducible first
    | assumption | apply qSample_kept | apply modConn_kept | split | extract_lets

theorem execDroverUpdate_kept {s0 : State} {conn : Fin 1048576} {s : State} (hs : Kept s0 s) :
    KeptO s0 (execDroverUpdate conn s) := by
  unfold execDroverUpdate
  repeat' with_reducible first
    | assumption | intro _ | apply keptO_next | apply keptO_ite | apply kept_ite | apply modConn_kept
    | apply plan_kept | split | extract_lets | apply kept_mk

theorem paceEdge_kept {s0 : State} {s : State} {i : Nat} (hs : Kept s0 s) :
    Kept s0 (paceEdge s i) := by
  unfold paceEdge
  repeat' with_reducible first
    | assumption | intro _ | apply kept_ite | apply plan_kept | apply release_kept | split | extract_lets
    | apply kept_mk

theorem execPacingInstant_kept {s0 : State} {conn : Fin 1048576} {s : State} (hs : Kept s0 s) :
    KeptO s0 (execPacingInstant conn s) := by
  unfold execPacingInstant
  repeat' with_reducible first
    | assumption | intro _ | apply keptO_next | apply keptO_ite | apply kept_ite | apply plan_kept
    | apply paceEdge_kept | split | extract_lets | apply kept_mk

theorem execUnscheduledTransmission_kept {s0 : State} {conn : Fin 1048576} {s : State} (hs : Kept s0 s) :
    KeptO s0 (execUnscheduledTransmission conn s) := by
  unfold execUnscheduledTransmission
  repeat' with_reducible first
    | assumption | intro _ | apply keptO_next | apply keptO_ite | apply kept_ite | apply modConn_kept
    | apply plan_kept | apply release_kept | split | extract_lets | apply kept_mk

theorem ackRx_kept {s0 : State} {s : State} {i : Nat} {c : Conn} {x : RxHdr} (hs : Kept s0 s) :
    Kept s0 (ackRx s i c x) := by
  unfold ackRx
  repeat' with_reducible first
    | assumption | intro _ | apply kept_ite | apply kept_foldl | apply cadd_kept | apply modConn_kept
    | apply plan_kept | apply markLost_kept | apply finishSends_kept | apply ackPkts_kept | apply ackSample_kept
    | split | extract_lets | apply kept_mk

theorem mftRx_kept {s0 : State} {s : State} {buf : Nat} {off : Nat} {len : Nat} {key : Nat} {auth : Nat} {ecc : Ecc}
    (hs : Kept s0 s) :
    Kept s0 (mftRx s buf off len key auth ecc).2 := by
  unfold mftRx
  repeat' with_reducible first
    | assumption | intro _ | apply kept_ite | apply cadd_kept | apply raiseOnce_kept | apply storeMeet_kept
    | apply dataRx_kept | apply openRx_kept | apply acceptRx_kept | apply rejectRx_kept | apply closeRx_kept
    | apply unknownRx_kept | apply rttSample_kept | apply ackRx_kept | refine kept_of_snd (by assumption) ?_
    | split | extract_lets | apply kept_mk

theorem txSealed_kept {s0 : State} {s : State} {m : Msg} (hs : Kept s0 s) : Kept s0 (txSealed s m) := by
  unfold txSealed
  dsimp only
  split
  · rename_i k _
    have h1 : Kept s0 { s with seals := s.seals.filter (·.buf ≠ m.buf) } := kept_mk hs
    split
    · split
      · exact plan_kept (modConn_kept h1)
      · exact kept_mk h1
    · split
      · exact sealFail_kept (devFree_kept h1)
      · exact devFree_kept h1
  · split
    · exact devFree_kept hs
    · split
      · exact plan_kept (modConn_kept hs)
      · exact sealFail_kept (devFree_kept hs)

theorem coreSend_kept {s0 : State} {s : State} {m : Msg} (hs : Kept s0 s) :
    Kept s0 (coreSend s m) := by
  unfold coreSend
  repeat' with_reducible first
    | assumption | intro _ | apply kept_ite | apply devFree_kept | apply msgAnswer_kept | apply addSend_kept
    | split | extract_lets | apply kept_mk

theorem connQuery_kept {s0 : State} {s : State} {m : Msg} (hs : Kept s0 s) :
    Kept s0 (connQuery s m) := by
  unfold connQuery
  repeat' with_reducible first
    | assumption | intro _ | apply kept_ite | apply msgAnswer_kept | split | extract_lets | apply kept_mk

theorem execTxSealed_kept {s0 : State} {core : CoreId} {thread : ThreadId} {s : State} (hs : Kept s0 s) :
    KeptO s0 (execTxSealed core thread s) := by
  unfold execTxSealed
  repeat' with_reducible first
    | assumption | intro _ | apply keptO_next | apply keptO_ite | apply kept_ite | apply msgAnswer_kept
    | apply msgRun_kept | apply txSealed_kept | split | extract_lets | apply kept_mk

theorem execSend_kept {s0 : State} {core : CoreId} {thread : ThreadId} {s : State} (hs : Kept s0 s) :
    KeptO s0 (execSend core thread s) := by
  unfold execSend
  repeat' with_reducible first
    | assumption | intro _ | apply keptO_next | apply keptO_ite | apply kept_ite | apply msgRun_kept
    | apply coreSend_kept | split | extract_lets | apply kept_mk

theorem execQuery_kept {s0 : State} {core : CoreId} {thread : ThreadId} {s : State} (hs : Kept s0 s) :
    KeptO s0 (execQuery core thread s) := by
  unfold execQuery
  repeat' with_reducible first
    | assumption | intro _ | apply keptO_next | apply keptO_ite | apply kept_ite | apply msgRun_kept
    | apply connQuery_kept | split | extract_lets | apply kept_mk

theorem execAckDelayExpire_kept {s0 : State} {conn : Fin 1048576} {s : State} (hs : Kept s0 s) :
    KeptO s0 (execAckDelayExpire conn s) := by
  unfold execAckDelayExpire
  repeat' with_reducible first
    | assumption | intro _ | apply keptO_next | apply keptO_ite | apply kept_ite | apply sendAck_kept | split
    | extract_lets | apply kept_mk

theorem execOpenRetry_kept {s0 : State} {conn : Fin 1048576} {s : State} (hs : Kept s0 s) :
    KeptO s0 (execOpenRetry conn s) := by
  unfold execOpenRetry
  repeat' with_reducible first
    | assumption | intro _ | apply keptO_next | apply keptO_ite | apply kept_ite | apply sendOpen_kept | split
    | extract_lets | apply kept_mk

theorem execOpenTimeout_kept {s0 : State} {conn : Fin 1048576} {s : State} (hs : Kept s0 s) :
    KeptO s0 (execOpenTimeout conn s) := by
  unfold execOpenTimeout
  repeat' with_reducible first
    | assumption | intro _ | apply keptO_next | apply keptO_ite | apply kept_ite | apply raise_kept
    | apply connFail_kept | split | extract_lets | apply kept_mk

theorem execRtoExpire_kept {s0 : State} {conn : Fin 1048576} {s : State} (hs : Kept s0 s) :
    KeptO s0 (execRtoExpire conn s) := by
  unfold execRtoExpire
  repeat' with_reducible first
    | assumption | intro _ | apply keptO_next | apply keptO_ite | apply kept_ite | apply cadd_kept
    | apply modConn_kept | apply connGiveUp_kept | apply plan_kept | apply markLost_kept | split | extract_lets
    | apply kept_mk

theorem execRnrWaitEnd_kept {s0 : State} {conn : Fin 1048576} {s : State} (hs : Kept s0 s) :
    KeptO s0 (execRnrWaitEnd conn s) := by
  unfold execRnrWaitEnd
  repeat' with_reducible first
    | assumption | intro _ | apply keptO_next | apply keptO_ite | apply kept_ite | apply modConn_kept
    | apply plan_kept | split | extract_lets | apply kept_mk

theorem execPathHoldEnd_kept {s0 : State} {conn : Fin 1048576} {path : Fin 32} {s : State} (hs : Kept s0 s) :
    KeptO s0 (execPathHoldEnd conn path s) := by
  unfold execPathHoldEnd
  repeat' with_reducible first
    | assumption | intro _ | apply keptO_next | apply keptO_ite | apply kept_ite | apply modConn_kept
    | apply plan_kept | split | extract_lets | apply kept_mk

theorem connOpen_kept {s0 : State} {s : State} {p : Nat} {e : Entry} (hs : Kept s0 s) : Kept s0 (connOpen s p e) := by
  unfold connOpen
  extract_lets t cls node paths hi lo key keyBad
  clear_value keyBad
  repeat' with_reducible first
    | assumption | apply finishAdmin_kept | apply sendOpen_kept | apply bumpFree_kept | split | extract_lets
    | apply kept_mk

theorem execMftConnOpen_kept {s0 : State} {port : HostPort} {s : State} (hs : Kept s0 s) :
    KeptO s0 (execMftConnOpen port s) := by
  unfold execMftConnOpen
  repeat' with_reducible first
    | assumption | intro _ | apply keptO_next | apply keptO_ite | apply kept_ite | apply adminRun_kept
    | apply connOpen_kept | split | extract_lets | apply kept_mk

theorem closerDone_kept {s0 : State} {s : State} {c : Conn} (hs : Kept s0 s) :
    Kept s0 (closerDone s c) := by
  unfold closerDone
  repeat' with_reducible first
    | assumption | intro _ | apply kept_ite | apply finishAdmin_kept | split | extract_lets | apply kept_mk

theorem execMftConnClose_kept {s0 : State} {port : HostPort} {s : State} (hs : Kept s0 s) :
    KeptO s0 (execMftConnClose port s) := by
  unfold execMftConnClose
  repeat' with_reducible first
    | assumption | intro _ | apply keptO_next | apply keptO_ite | apply kept_ite | apply finishAdmin_kept
    | apply adminRun_kept | apply adminWait_kept | apply modConn_kept | apply connFree_kept | split | extract_lets
    | apply kept_mk

theorem closeEnd_kept {s0 : State} {s : State} {i : Nat} {c : Conn} (hs : Kept s0 s) :
    Kept s0 (closeEnd s i c) := by
  unfold closeEnd
  repeat' with_reducible first
    | assumption | intro _ | apply kept_ite | apply sendClose_kept | apply connFree_kept | apply closerDone_kept
    | split | extract_lets | apply kept_mk

theorem execConnCloseDrainEnd_kept {s0 : State} {conn : Fin 1048576} {s : State} (hs : Kept s0 s) :
    KeptO s0 (execConnCloseDrainEnd conn s) := by
  unfold execConnCloseDrainEnd
  repeat' with_reducible first
    | assumption | intro _ | apply keptO_next | apply keptO_ite | apply kept_ite | apply closeEnd_kept | split
    | extract_lets | apply kept_mk

theorem execConnCloseTimeout_kept {s0 : State} {conn : Fin 1048576} {s : State} (hs : Kept s0 s) :
    KeptO s0 (execConnCloseTimeout conn s) := by
  unfold execConnCloseTimeout
  repeat' with_reducible first
    | assumption | intro _ | apply keptO_next | apply keptO_ite | apply kept_ite | apply closeEnd_kept | split
    | extract_lets | apply kept_mk

theorem connEnd_kept {s0 : State} {s : State} {i : Nat} (hs : Kept s0 s) :
    Kept s0 (connEnd s i) := by
  unfold connEnd
  repeat' with_reducible first
    | assumption | intro _ | apply kept_ite | apply sendClose_kept | apply connFree_kept | apply closerDone_kept
    | split | extract_lets | apply kept_mk

theorem nodeWrite_kept {s0 : State} {s : State} {w : Nat} (hs : Kept s0 s) :
    Kept s0 (nodeWrite s w) := by
  unfold nodeWrite
  repeat' with_reducible first
    | assumption | intro _ | apply kept_ite | apply kept_foldl | apply wr_kept | apply regStore_kept
    | apply connEnd_kept | split | extract_lets | apply kept_foldl_fst | apply kept_foldl_snd | apply kept_mk

theorem execTpNodeDisable_kept {s0 : State} {port : HostPort} {value : Word} {s : State} (hs : Kept s0 s) :
    KeptO s0 (execTpNodeDisable port value s) := by
  unfold execTpNodeDisable
  repeat' with_reducible first
    | assumption | intro _ | apply keptO_next | apply keptO_ite | apply kept_ite | apply regGate_kept
    | apply nodeWrite_kept | split | extract_lets | apply kept_mk

theorem execMftSend_kept {s0 : State} {uid : Nat} {s : State} (hs : Kept s0 s) :
    KeptO s0 (execMftSend uid s) := by
  unfold execMftSend
  repeat' with_reducible first
    | assumption | intro _ | apply keptO_next | apply keptO_ite | apply kept_ite | apply finishJob_kept
    | apply jobRun_kept | apply addSend_kept | split | extract_lets | apply kept_mk

theorem execMftRecvPost_kept {s0 : State} {uid : Nat} {s : State} (hs : Kept s0 s) :
    KeptO s0 (execMftRecvPost uid s) := by
  unfold execMftRecvPost
  repeat' with_reducible first
    | assumption | intro _ | apply keptO_next | apply keptO_ite | apply kept_ite | apply finishJob_kept
    | apply jobRun_kept | apply modConn_kept | apply deliverAll_kept | split | extract_lets | apply kept_mk

theorem execKeyCtxDestroy_kept {s0 : State} {port : HostPort} {s : State} (hs : Kept s0 s) :
    KeptO s0 (execKeyCtxDestroy port s) := by
  unfold execKeyCtxDestroy
  repeat' with_reducible first
    | assumption | intro _ | apply keptO_next | apply keptO_ite | apply kept_ite | apply finishAdmin_kept
    | apply adminRun_kept | apply adminWait_kept | apply freeCtx_kept | apply keyDestroyCheck_kept | split
    | extract_lets | apply kept_mk

end Sys2Proof.Machine
end

