-- ==== Sys2Proof/Laws/KeptFabricTime.lean ====
section
/-! SUPPORT. What the operations of Machine/FabricTime.lean keep (Safety.lean). -/
namespace Sys2Proof.Machine

theorem modFt_kept {s0 : State} {s : State} {f : Ft → Ft} (hs : Kept s0 s) :
    Kept s0 (modFt s f) := by
  unfold modFt
  repeat' with_reducible first
    | assumption | intro _ | apply kept_ite | split | extract_lets | apply kept_mk

theorem takeServoCfg_kept {s0 : State} {s : State} (hs : Kept s0 s) :
    Kept s0 (takeServoCfg s) := by
  unfold takeServoCfg
  repeat' with_reducible first
    | assumption | intro _ | apply kept_ite | apply modFt_kept | split | extract_lets | apply kept_mk

theorem holdover_kept {s0 : State} {s : State} (hs : Kept s0 s) :
    Kept s0 (holdover s) := by
  unfold holdover
  repeat' with_reducible first
    | assumption | intro _ | apply kept_ite | apply modFt_kept | split | extract_lets | apply kept_mk

theorem evalSrc_kept {s0 : State} {s : State} (hs : Kept s0 s) :
    Kept s0 (evalSrc s) := by
  unfold evalSrc
  repeat' with_reducible first
    | assumption | intro _ | apply kept_ite | apply raise_kept | apply modFt_kept | apply holdover_kept | split
    | extract_lets | apply kept_mk

theorem ftToUnset_kept {s0 : State} {s : State} (hs : Kept s0 s) :
    Kept s0 (ftToUnset s) := by
  unfold ftToUnset
  repeat' with_reducible first
    | assumption | intro _ | apply kept_ite | apply raise_kept | apply modFt_kept | split | extract_lets
    | apply kept_mk

theorem lockSample_kept {s0 : State} {s : State} {off : Int} (hs : Kept s0 s) :
    Kept s0 (lockSample s off) := by
  unfold lockSample
  repeat' with_reducible first
    | assumption | intro _ | apply kept_ite | apply raise_kept | apply modFt_kept | split | extract_lets
    | apply kept_mk

theorem modPath_kept {s0 : State} {s : State} {p : Nat} {f : PathDelay → PathDelay} (hs : Kept s0 s) :
    Kept s0 (modPath s p f) := by
  unfold modPath
  repeat' with_reducible first
    | assumption | intro _ | apply kept_ite | apply modFt_kept | split | extract_lets | apply kept_mk

theorem stepCount_kept {s0 : State} {s : State} {dst : Nat} (hs : Kept s0 s) :
    Kept s0 (stepCount s dst) := by
  unfold stepCount
  repeat' with_reducible first
    | assumption | intro _ | apply kept_ite | apply modFt_kept | split | extract_lets | apply kept_mk

theorem servoSample_kept {s0 : State} {s : State} {off : Int} {stepTo : Nat} (hs : Kept s0 s) :
    Kept s0 (servoSample s off stepTo) := by
  unfold servoSample
  repeat' with_reducible first
    | assumption | intro _ | apply kept_ite | apply bumpFree_kept | apply modFt_kept | apply lockSample_kept
    | apply stepCount_kept | split | extract_lets | apply kept_mk

theorem ppsSample_kept {s0 : State} {s : State} (hs : Kept s0 s) :
    Kept s0 (ppsSample s) := by
  unfold ppsSample
  repeat' with_reducible first
    | assumption | intro _ | apply kept_ite | apply modFt_kept | apply stepCount_kept | apply servoSample_kept
    | split | extract_lets | apply kept_mk

theorem execPpsEdge_kept {s0 : State} {refOk : Bool} {s : State} (hs : Kept s0 s) :
    KeptO s0 (execPpsEdge refOk s) := by
  unfold execPpsEdge
  repeat' with_reducible first
    | assumption | intro _ | apply keptO_next | apply keptO_ite | apply kept_ite | apply modFt_kept
    | apply takeServoCfg_kept | apply evalSrc_kept | apply ppsSample_kept | split | extract_lets | apply kept_mk

theorem beaconSample_kept {s0 : State} {s : State} {p : Nat} {domain : Nat} {b : Beacon} {rx : Int} (hs : Kept s0 s) :
    Kept s0 (beaconSample s p domain b rx) := by
  unfold beaconSample
  repeat' with_reducible first
    | assumption | intro _ | apply kept_ite | apply modFt_kept | apply takeServoCfg_kept | apply evalSrc_kept
    | apply modPath_kept | apply servoSample_kept | split | extract_lets | apply kept_mk

theorem sendPtp_kept {s0 : State} {s : State} {p : NetPort} {kind : String} {domain : Nat} {fields : List Nat} {tlv :
    List Byte} (hs : Kept s0 s) :
    Kept s0 (sendPtp s p kind domain fields tlv) := by
  unfold sendPtp
  repeat' with_reducible first
    | assumption | intro _ | apply kept_ite | apply cadd_kept | apply emit_kept | split | extract_lets
    | apply kept_mk

theorem delayReq_kept {s0 : State} {s : State} {p : NetPort} {domain : Nat} {seq : Nat} (hs : Kept s0 s) :
    Kept s0 (delayReq s p domain seq) := by
  unfold delayReq
  repeat' with_reducible first
    | assumption | intro _ | apply kept_ite | apply modPath_kept | apply sendPtp_kept | split | extract_lets
    | apply kept_mk

theorem execSyncRx_kept {s0 : State} {port : NetPort} {domain : Nat} {seq : Nat} {age : Nat} {tlv : Option Beacon} {s
    : State} (hs : Kept s0 s) :
    KeptO s0 (execSyncRx port domain seq age tlv s) := by
  unfold execSyncRx
  repeat' with_reducible first
    | assumption | intro _ | apply keptO_next | apply keptO_ite | apply kept_ite | apply modFt_kept
    | apply beaconSample_kept | apply delayReq_kept | split | extract_lets | apply kept_mk

theorem execFollowUpRx_kept {s0 : State} {port : NetPort} {domain : Nat} {seq : Nat} {tlv : Beacon} {s : State} (hs :
    Kept s0 s) :
    KeptO s0 (execFollowUpRx port domain seq tlv s) := by
  unfold execFollowUpRx
  repeat' with_reducible first
    | assumption | intro _ | apply keptO_next | apply keptO_ite | apply kept_ite | apply modFt_kept
    | apply beaconSample_kept | split | extract_lets | apply kept_mk

theorem execDelayReqRx_kept {s0 : State} {port : NetPort} {domain : Nat} {seq : Nat} {age : Nat} {s : State} (hs :
    Kept s0 s) :
    KeptO s0 (execDelayReqRx port domain seq age s) := by
  unfold execDelayReqRx
  repeat' with_reducible first
    | assumption | intro _ | apply keptO_next | apply keptO_ite | apply kept_ite | apply sendPtp_kept | split
    | extract_lets | apply kept_mk

theorem execDelayRespRx_kept {s0 : State} {port : NetPort} {domain : Nat} {seq : Nat} {t4 : Nat} {s : State} (hs :
    Kept s0 s) :
    KeptO s0 (execDelayRespRx port domain seq t4 s) := by
  unfold execDelayRespRx
  repeat' with_reducible first
    | assumption | intro _ | apply keptO_next | apply keptO_ite | apply kept_ite | apply modPath_kept | split
    | extract_lets | apply kept_mk

theorem execPdelayReqRx_kept {s0 : State} {port : NetPort} {domain : Nat} {seq : Nat} {age : Nat} {s : State} (hs :
    Kept s0 s) :
    KeptO s0 (execPdelayReqRx port domain seq age s) := by
  unfold execPdelayReqRx
  repeat' with_reducible first
    | assumption | intro _ | apply keptO_next | apply keptO_ite | apply kept_ite | apply sendPtp_kept | split
    | extract_lets | apply kept_mk

theorem execPdelayRespRx_kept {s0 : State} {port : NetPort} {domain : Nat} {seq : Nat} {age : Nat} {t2 : Nat} {turn :
    Option Nat} {s : State} (hs : Kept s0 s) :
    KeptO s0 (execPdelayRespRx port domain seq age t2 turn s) := by
  unfold execPdelayRespRx
  repeat' with_reducible first
    | assumption | intro _ | apply keptO_next | apply keptO_ite | apply kept_ite | apply modPath_kept | split
    | extract_lets | apply kept_mk

theorem execPdelayRespFollowUpRx_kept {s0 : State} {port : NetPort} {domain : Nat} {seq : Nat} {t3 : Nat} {s : State}
    (hs : Kept s0 s) :
    KeptO s0 (execPdelayRespFollowUpRx port domain seq t3 s) := by
  unfold execPdelayRespFollowUpRx
  repeat' with_reducible first
    | assumption | intro _ | apply keptO_next | apply keptO_ite | apply kept_ite | apply modPath_kept | split
    | extract_lets | apply kept_mk

theorem execSignalingRx_kept {s0 : State} {port : NetPort} {domain : Nat} {age : Nat} {tlv : Beacon} {s : State} (hs :
    Kept s0 s) :
    KeptO s0 (execSignalingRx port domain age tlv s) := by
  unfold execSignalingRx
  repeat' with_reducible first
    | assumption | intro _ | apply keptO_next | apply keptO_ite | apply kept_ite | apply beaconSample_kept | split
    | extract_lets | apply kept_mk

theorem extLost_kept {s0 : State} {s : State} {f : Ft → Ft} (hs : Kept s0 s) :
    Kept s0 (extLost s f) := by
  unfold extLost
  repeat' with_reducible first
    | assumption | intro _ | apply kept_ite | apply raise_kept | apply modFt_kept | apply evalSrc_kept | split
    | extract_lets | apply kept_mk

theorem execRefLossExpire_kept {s0 : State} {s : State} (hs : Kept s0 s) :
    KeptO s0 (execRefLossExpire s) := by
  unfold execRefLossExpire
  repeat' with_reducible first
    | assumption | intro _ | apply keptO_next | apply keptO_ite | apply kept_ite | apply extLost_kept | split
    | extract_lets | apply kept_mk

theorem execPpsLossExpire_kept {s0 : State} {s : State} (hs : Kept s0 s) :
    KeptO s0 (execPpsLossExpire s) := by
  unfold execPpsLossExpire
  repeat' with_reducible first
    | assumption | intro _ | apply keptO_next | apply keptO_ite | apply kept_ite | apply extLost_kept | split
    | extract_lets | apply kept_mk

theorem execBeaconLossExpire_kept {s0 : State} {s : State} (hs : Kept s0 s) :
    KeptO s0 (execBeaconLossExpire s) := by
  unfold execBeaconLossExpire
  repeat' with_reducible first
    | assumption | intro _ | apply keptO_next | apply keptO_ite | apply kept_ite | apply raise_kept
    | apply modFt_kept | apply evalSrc_kept | split | extract_lets | apply kept_mk

theorem execFtHoldoverLong_kept {s0 : State} {s : State} (hs : Kept s0 s) :
    KeptO s0 (execFtHoldoverLong s) := by
  unfold execFtHoldoverLong
  repeat' with_reducible first
    | assumption | intro _ | apply keptO_next | apply keptO_ite | apply kept_ite | apply raise_kept
    | apply modFt_kept | split | extract_lets | apply kept_mk

theorem ftEnable_kept {s0 : State} {s : State} (hs : Kept s0 s) :
    Kept s0 (ftEnable s) := by
  unfold ftEnable
  repeat' with_reducible first
    | assumption | intro _ | apply kept_ite | apply wr_kept | apply evalSrc_kept | split | extract_lets
    | apply kept_mk

theorem ftDisable_kept {s0 : State} {s : State} (hs : Kept s0 s) :
    Kept s0 (ftDisable s) := by
  unfold ftDisable
  repeat' with_reducible first
    | assumption | intro _ | apply kept_ite | apply wr_kept | apply ftToUnset_kept | split | extract_lets
    | apply kept_mk

theorem ftRestart_kept {s0 : State} {s : State} (hs : Kept s0 s) :
    Kept s0 (ftRestart s) := by
  unfold ftRestart
  repeat' with_reducible first
    | assumption | intro _ | apply kept_ite | apply evalSrc_kept | apply ftToUnset_kept | split | extract_lets
    | apply kept_mk

theorem ftTodArm_kept {s0 : State} {s : State} (hs : Kept s0 s) :
    Kept s0 (ftTodArm s) := by
  unfold ftTodArm
  repeat' with_reducible first
    | assumption | intro _ | apply kept_ite | apply wr_kept | apply modFt_kept | split | extract_lets
    | apply kept_mk

theorem execFtEnable_kept {s0 : State} {port : HostPort} {s : State} (hs : Kept s0 s) :
    KeptO s0 (execFtEnable port s) := by
  unfold execFtEnable
  repeat' with_reducible first
    | assumption | intro _ | apply keptO_next | apply keptO_ite | apply kept_ite | apply regGate_kept
    | apply ftEnable_kept | split | extract_lets | apply kept_mk

theorem execFtEnableClear_kept {s0 : State} {port : HostPort} {s : State} (hs : Kept s0 s) :
    KeptO s0 (execFtEnableClear port s) := by
  unfold execFtEnableClear
  repeat' with_reducible first
    | assumption | intro _ | apply keptO_next | apply keptO_ite | apply kept_ite | apply regGate_kept
    | apply ftDisable_kept | split | extract_lets | apply kept_mk

theorem execRestart_kept {s0 : State} {port : HostPort} {s : State} (hs : Kept s0 s) :
    KeptO s0 (execRestart port s) := by
  unfold execRestart
  repeat' with_reducible first
    | assumption | intro _ | apply keptO_next | apply keptO_ite | apply kept_ite | apply regGate_kept
    | apply ftRestart_kept | split | extract_lets | apply kept_mk

theorem execTodArm_kept {s0 : State} {port : HostPort} {s : State} (hs : Kept s0 s) :
    KeptO s0 (execTodArm port s) := by
  unfold execTodArm
  repeat' with_reducible first
    | assumption | intro _ | apply keptO_next | apply keptO_ite | apply kept_ite | apply regGate_kept
    | apply ftTodArm_kept | split | extract_lets | apply kept_mk

theorem execFtNowRead_kept {s0 : State} {port : HostPort} {s : State} (hs : Kept s0 s) :
    KeptO s0 (execFtNowRead port s) := by
  unfold execFtNowRead
  repeat' with_reducible first
    | assumption | intro _ | apply keptO_next | apply keptO_ite | apply kept_ite | apply emit_kept
    | apply readGate_kept | apply modFt_kept | split | extract_lets | apply kept_mk

theorem execFtEpochRead_kept {s0 : State} {port : HostPort} {s : State} (hs : Kept s0 s) :
    KeptO s0 (execFtEpochRead port s) := by
  unfold execFtEpochRead
  repeat' with_reducible first
    | assumption | intro _ | apply keptO_next | apply keptO_ite | apply kept_ite | apply emit_kept
    | apply readGate_kept | apply modFt_kept | split | extract_lets | apply kept_mk

theorem execPtmDialogueEnd_kept {s0 : State} {port : HostPort} {result : Option (Nat × Nat)} {s : State} (hs : Kept s0
    s) :
    KeptO s0 (execPtmDialogueEnd port result s) := by
  unfold execPtmDialogueEnd
  repeat' with_reducible first
    | assumption | intro _ | apply keptO_next | apply keptO_ite | apply kept_ite | apply raise_kept
    | apply hostWrite_kept | apply modFt_kept | split | extract_lets | apply kept_mk

/-- Time moves by one PCLK: of the fields of the state only the time, Fabric Time and the free values change. -/
theorem advanceTime_kept {s0 : State} {s : State} (hs : Kept s0 s) :
    Kept { s0 with clk := s0.clk + 625 } (advanceTime s) := by
  obtain ⟨p, c, m, g, f⟩ := hs
  unfold advanceTime
  simp only []
  split
  · exact ⟨p, congrArg (· + 625) c, m, g, f⟩
  · exact ⟨p, congrArg (· + 625) c, m, g, f⟩

end Sys2Proof.Machine
end

