-- ==== Sys2Proof/Laws/KeptRegisters.lean ====
section
/-! SUPPORT. What the operations of Machine/Registers.lean keep (Safety.lean). -/
namespace Sys2Proof.Machine

theorem latchRead_kept {s0 : State} {s : State} {p : Nat} {f : Fn} {low : Nat} {off : Nat} {w : State → Nat → Nat} (hs
    : Kept s0 s) :
    Kept s0 (latchRead s p f low off w).1 := by
  unfold latchRead
  repeat' with_reducible first
    | assumption | intro _ | apply kept_ite | split | extract_lets | apply kept_mk

theorem readUnit_kept {s0 : State} {s : State} {p : Nat} {off : Nat} (hs : Kept s0 s) :
    Kept s0 (readUnit s p off).1 := by
  unfold readUnit
  repeat' with_reducible first
    | assumption | intro _ | apply kept_ite | apply modFt_kept | apply latchRead_kept
    | refine kept_of_fst (by assumption) ?_ | split | extract_lets | apply kept_mk

theorem readPage_kept {s0 : State} {s : State} {p : Nat} {off : Nat} (hs : Kept s0 s) :
    Kept s0 (readPage s p off).1 := by
  unfold readPage
  repeat' with_reducible first
    | assumption | intro _ | apply kept_ite | apply latchRead_kept | split | extract_lets | apply kept_mk

theorem readWords_kept {s0 : State} {s : State} {rd1 : State → Nat → State × Nat} {off : Nat} {wide : Bool} (hs : Kept
    s0 s) (hrd1 : ∀ x a0, Kept s0 x → Kept s0 (rd1 x a0).1) :
    Kept s0 (readWords s rd1 off wide).1 := by
  unfold readWords
  repeat' with_reducible first
    | assumption | intro _ | apply kept_ite | apply hrd1 | refine kept_of_fst (by assumption) ?_ | split
    | extract_lets | apply kept_mk

theorem regRead_kept {s0 : State} {s : State} {port : HostPort} {sp : Space} {off : Nat} {wide : Bool} (hs : Kept s0
    s) :
    Kept s0 (regRead s port sp off wide) := by
  unfold regRead
  repeat' with_reducible first
    | assumption | intro _ | apply kept_ite | apply emit_kept | apply aer_kept | apply readUnit_kept
    | apply readPage_kept | apply readWords_kept | refine kept_of_fst (by assumption) ?_ | split | extract_lets
    | apply kept_mk

theorem plainWord_kept {s0 : State} {s : State} {p : Nat} {off : Nat} {v : Nat} (hs : Kept s0 s) :
    Kept s0 (plainWord s p off v) := by
  unfold plainWord
  repeat' with_reducible first
    | assumption | intro _ | apply kept_ite | apply regStore_kept | refine kept_of_fst (by assumption) ?_ | split
    | extract_lets | apply kept_mk

theorem latchWrite_kept {s0 : State} {s : State} {p : Nat} {off : Nat} {v : Nat} (hs : Kept s0 s) :
    Kept s0 (latchWrite s p off v) := by
  unfold latchWrite
  repeat' with_reducible first
    | assumption | intro _ | apply kept_ite | split | extract_lets | apply kept_mk

theorem plain_kept {s0 : State} {s : State} {p : Nat} {off : Nat} {v : Nat} (hs : Kept s0 s) :
    Kept s0 (plain s p off v) := by
  unfold plain
  repeat' with_reducible first
    | assumption | intro _ | apply kept_ite | apply plainWord_kept | apply latchWrite_kept | split | extract_lets
    | apply kept_mk

theorem storeIfFree_kept {s0 : State} {s : State} {busy : Bool} {flag : Fd} {inst : Nat} {p : Nat} {off : Nat} {v :
    Nat} (hs : Kept s0 s) :
    Kept s0 (storeIfFree s busy flag inst p off v) := by
  unfold storeIfFree
  repeat' with_reducible first
    | assumption | intro _ | apply kept_ite | apply wr_kept | apply plain_kept | split | extract_lets
    | apply kept_mk

theorem ftCtrl_kept {s0 : State} {s : State} {v : Nat} (hs : Kept s0 s) :
    Kept s0 (ftCtrl s v) := by
  unfold ftCtrl
  repeat' with_reducible first
    | assumption | intro _ | apply kept_ite | apply wr_kept | apply ftEnable_kept | apply ftDisable_kept
    | apply ftRestart_kept | apply ftTodArm_kept | split | extract_lets | apply kept_mk

theorem effFT_kept {s0 : State} {s : State} {p : Nat} {off : Nat} {v : Nat} (hs : Kept s0 s) :
    Kept s0 (effFT s p off v) := by
  unfold effFT
  repeat' with_reducible first
    | assumption | intro _ | apply kept_ite | apply modFt_kept | apply plain_kept | apply ftCtrl_kept | split
    | extract_lets | apply kept_mk

theorem effGL_kept {s0 : State} {s : State} {p : Nat} {off : Nat} {v : Nat} (hs : Kept s0 s) :
    Kept s0 (effGL s p off v) := by
  unfold effGL
  repeat' with_reducible first
    | assumption | intro _ | apply kept_ite | apply modHp_kept | apply plain_kept | split | extract_lets
    | apply kept_mk

theorem effHL_kept {s0 : State} {s : State} {p : Nat} {off : Nat} {v : Nat} (hs : Kept s0 s) :
    Kept s0 (effHL s p off v) := by
  unfold effHL
  repeat' with_reducible first
    | assumption | intro _ | apply kept_ite | apply winCommit_kept | apply plain_kept | apply storeIfFree_kept
    | split | extract_lets | apply kept_mk

theorem effQM_kept {s0 : State} {s : State} {p : Nat} {off : Nat} {v : Nat} (hs : Kept s0 s) :
    Kept s0 (effQM s p off v) := by
  unfold effQM
  repeat' with_reducible first
    | assumption | intro _ | apply kept_ite | apply aqEnable_kept | apply aqDisable_kept | apply plain_kept | split
    | extract_lets | apply kept_mk

theorem fcWrite_kept {s0 : State} {s : State} {p : Nat} {off : Nat} {n : Nat} {v : Nat} (hs : Kept s0 s) :
    Kept s0 (fcWrite s p off n v) := by
  unfold fcWrite
  repeat' with_reducible first
    | assumption | intro _ | apply kept_ite | apply kept_foldl | apply modMac_kept | apply fcRecheck_kept
    | apply plain_kept | split | extract_lets | apply kept_mk

theorem effMA_kept {s0 : State} {s : State} {p : Nat} {off : Nat} {v : Nat} (hs : Kept s0 s) :
    Kept s0 (effMA s p off v) := by
  unfold effMA
  repeat' with_reducible first
    | assumption | intro _ | apply kept_ite | apply fcRecheck_kept | apply pcfgWrite_kept | apply pauseWdWrite_kept
    | apply preemptWrite_kept | apply plain_kept | apply fcWrite_kept | split | extract_lets | apply kept_mk

theorem effPA_kept {s0 : State} {s : State} {p : Nat} {off : Nat} {v : Nat} (hs : Kept s0 s) :
    Kept s0 (effPA s p off v) := by
  unfold effPA
  repeat' with_reducible first
    | assumption | intro _ | apply kept_ite | apply rset_kept | apply latchWrite_kept | apply plain_kept | split
    | extract_lets | apply kept_mk

theorem effFW_kept {s0 : State} {s : State} {p : Nat} {off : Nat} {v : Nat} (hs : Kept s0 s) :
    Kept s0 (effFW s p off v) := by
  unfold effFW
  repeat' with_reducible first
    | assumption | intro _ | apply kept_ite | apply fwCmdWrite_kept | apply plain_kept | apply storeIfFree_kept
    | split | extract_lets | apply kept_mk

theorem effMS_kept {s0 : State} {s : State} {p : Nat} {off : Nat} {v : Nat} (hs : Kept s0 s) :
    Kept s0 (effMS s p off v) := by
  unfold effMS
  repeat' with_reducible first
    | assumption | intro _ | apply kept_ite | apply cacheCfgWrite_kept | apply plain_kept | split | extract_lets
    | apply kept_mk

theorem effMC_kept {s0 : State} {s : State} {p : Nat} {off : Nat} {v : Nat} (hs : Kept s0 s) :
    Kept s0 (effMC s p off v) := by
  unfold effMC
  repeat' with_reducible first
    | assumption | intro _ | apply kept_ite | apply plain_kept | split | extract_lets | apply kept_mk

theorem effFC_kept {s0 : State} {s : State} {p : Nat} {off : Nat} {v : Nat} (hs : Kept s0 s) :
    Kept s0 (effFC s p off v) := by
  unfold effFC
  repeat' with_reducible first
    | assumption | intro _ | apply kept_ite | apply modCore_kept | apply coreStart_kept | apply coreStop_kept
    | apply ringCfgWrite_kept | apply plain_kept | apply storeIfFree_kept | split | extract_lets | apply kept_mk

theorem effTP_kept {s0 : State} {s : State} {p : Nat} {off : Nat} {v : Nat} (hs : Kept s0 s) :
    Kept s0 (effTP s p off v) := by
  unfold effTP
  repeat' with_reducible first
    | assumption | intro _ | apply kept_ite | apply nodeWrite_kept | apply plain_kept | apply storeIfFree_kept
    | split | extract_lets | apply kept_mk

theorem settle_kept {s0 : State} {s : State} {n : Nat} {c : Nat} (hs : Kept s0 s) :
    Kept s0 (settle s n c) := by
  unfold settle
  repeat' with_reducible first
    | assumption | intro _ | apply kept_ite | apply modCls_kept | split | extract_lets | apply kept_mk

theorem effEG_kept {s0 : State} {s : State} {p : Nat} {off : Nat} {v : Nat} (hs : Kept s0 s) :
    Kept s0 (effEG s p off v) := by
  unfold effEG
  repeat' with_reducible first
    | assumption | intro _ | apply kept_ite | apply wr_kept | apply withGates_kept | apply calArm_kept
    | apply latchWrite_kept | apply plain_kept | apply storeIfFree_kept | apply settle_kept | split | extract_lets
    | apply kept_mk

theorem effSL_kept {s0 : State} {s : State} {p : Nat} {off : Nat} {v : Nat} (hs : Kept s0 s) :
    Kept s0 (effSL s p off v) := by
  unfold effSL
  repeat' with_reducible first
    | assumption | intro _ | apply kept_ite | apply slCmdWrite_kept | apply plain_kept | split | extract_lets
    | apply kept_mk

theorem effSX_kept {s0 : State} {s : State} {p : Nat} {off : Nat} {v : Nat} (hs : Kept s0 s) :
    Kept s0 (effSX s p off v) := by
  unfold effSX
  repeat' with_reducible first
    | assumption | intro _ | apply kept_ite | apply plain_kept | apply storeIfFree_kept | split | extract_lets
    | apply kept_mk

theorem effDX_kept {s0 : State} {s : State} {p : Nat} {off : Nat} {v : Nat} (hs : Kept s0 s) :
    Kept s0 (effDX s p off v) := by
  unfold effDX
  repeat' with_reducible first
    | assumption | intro _ | apply kept_ite | apply engStop_kept | apply engResume_kept | apply plain_kept | split
    | extract_lets | apply kept_mk

theorem effTL_kept {s0 : State} {s : State} {p : Nat} {off : Nat} {v : Nat} (hs : Kept s0 s) :
    Kept s0 (effTL s p off v) := by
  unfold effTL
  repeat' with_reducible first
    | assumption | intro _ | apply kept_ite | apply plain_kept | split | extract_lets | apply kept_mk

theorem effMb_kept {s0 : State} {s : State} {p : Nat} {off : Nat} {v : Nat} (hs : Kept s0 s) :
    Kept s0 (effMb s p off v) := by
  unfold effMb
  repeat' with_reducible first
    | assumption | intro _ | apply kept_ite | apply wr_kept | apply raiseOnce_kept | apply alertClear_kept
    | apply modMb_kept | apply mbCtrl_kept | apply plain_kept | split | extract_lets | apply kept_mk

theorem msixWrite_kept {s0 : State} {s : State} {p : Nat} {f : Fn} {vecs : Nat} {off : Nat} {v : Nat} (hs : Kept s0 s)
    :
    Kept s0 (msixWrite s p f vecs off v) := by
  unfold msixWrite
  repeat' with_reducible first
    | assumption | intro _ | apply kept_ite | apply modFn_kept | apply msixFlush_kept | split | extract_lets
    | apply kept_mk

theorem unitWrite_kept {s0 : State} {s : State} {p : Nat} {off : Nat} {v : Nat} (hs : Kept s0 s) :
    Kept s0 (unitWrite s p off v) := by
  unfold unitWrite
  repeat' with_reducible first
    | assumption | intro _ | apply kept_ite | apply plain_kept | apply effFT_kept | apply effGL_kept
    | apply effHL_kept | apply effQM_kept | apply effMA_kept | apply effPA_kept | apply effFW_kept
    | apply effMS_kept | apply effMC_kept | apply effFC_kept | apply effTP_kept | apply effEG_kept
    | apply effSL_kept | apply effSX_kept | apply effDX_kept | apply effTL_kept | apply effMb_kept
    | apply msixWrite_kept | split | extract_lets | apply kept_mk

theorem writeUnit_kept {s0 : State} {s : State} {p : HostPort} {off : Nat} {full : Bool} {v : Nat} (hs : Kept s0 s) :
    Kept s0 (writeUnit s p off full v) := by
  unfold writeUnit
  repeat' with_reducible first
    | assumption | intro _ | apply kept_ite | apply wr_kept | apply aer_kept | apply denied_kept
    | apply unitWrite_kept | split | extract_lets | apply kept_mk

theorem writePage_kept {s0 : State} {s : State} {p : Nat} {off : Nat} {v : Nat} (hs : Kept s0 s) :
    Kept s0 (writePage s p off v) := by
  unfold writePage
  repeat' with_reducible first
    | assumption | intro _ | apply kept_ite | apply modTen_kept | apply slotWrite_kept | split | extract_lets
    | apply kept_mk

theorem regWrite_kept {s0 : State} {s : State} {port : HostPort} {sp : Space} {off : Nat} {wide : Bool} {lowFull :
    Bool} {highFull : Bool} {v : Nat} (hs : Kept s0 s) :
    Kept s0 (regWrite s port sp off wide lowFull highFull v) := by
  unfold regWrite
  repeat' with_reducible first
    | assumption | intro _ | apply kept_ite | apply barGate_kept | apply msixWrite_kept | apply writeUnit_kept
    | apply writePage_kept | split | extract_lets | apply kept_mk

theorem execRegWrite_kept {s0 : State} {port : HostPort} {sp : Space} {off : Fin 268435456} {wide : Bool} {lowFull :
    Bool} {highFull : Bool} {value : DWord} {s : State} (hs : Kept s0 s) :
    KeptO s0 (execRegWrite port sp off wide lowFull highFull value s) := by
  unfold execRegWrite
  repeat' with_reducible first
    | assumption | intro _ | apply keptO_next | apply keptO_ite | apply kept_ite | apply regWrite_kept | split
    | extract_lets | apply kept_mk

theorem execRegAccessOversize_kept {s0 : State} {port : HostPort} {write : Bool} {s : State} (hs : Kept s0 s) :
    KeptO s0 (execRegAccessOversize port write s) := by
  unfold execRegAccessOversize
  repeat' with_reducible first
    | assumption | intro _ | apply keptO_next | apply keptO_ite | apply kept_ite | apply emit_kept | apply aer_kept
    | split | extract_lets | apply kept_mk

theorem execReg64LowRead_kept {s0 : State} {port : HostPort} {sp : Space} {off : Fin 268435456} {wide : Bool} {s :
    State} (hs : Kept s0 s) :
    KeptO s0 (execReg64LowRead port sp off wide s) := by
  unfold execReg64LowRead
  repeat' with_reducible first
    | assumption | intro _ | apply keptO_next | apply keptO_ite | apply kept_ite | apply regRead_kept | split
    | extract_lets | apply kept_mk

theorem execReg64HighRead_kept {s0 : State} {port : HostPort} {sp : Space} {off : Fin 268435456} {s : State} (hs :
    Kept s0 s) :
    KeptO s0 (execReg64HighRead port sp off s) := by
  unfold execReg64HighRead
  repeat' with_reducible first
    | assumption | intro _ | apply keptO_next | apply keptO_ite | apply kept_ite | apply regRead_kept | split
    | extract_lets | apply kept_mk

end Sys2Proof.Machine
end

