-- ==== Sys2Proof/Laws/KeptDebug.lean ====
section
/-! SUPPORT. What the operations of Machine/Debug.lean keep (Safety.lean). -/
namespace Sys2Proof.Machine

theorem modDb_kept {s0 : State} {s : State} {f : Dbg → Dbg} (hs : Kept s0 s) :
    Kept s0 (modDb s f) := by
  unfold modDb
  repeat' with_reducible first
    | assumption | intro _ | apply kept_ite | split | extract_lets | apply kept_mk

theorem resumeMask_kept {s0 : State} {s : State} {c : Nat} {mask : Nat} (hs : Kept s0 s) :
    Kept s0 (resumeMask s c mask) := by
  unfold resumeMask
  repeat' with_reducible first
    | assumption | intro _ | apply kept_ite | apply kept_foldl | apply modThr_kept | split | extract_lets
    | apply kept_mk

theorem closeCore_kept {s0 : State} {s : State} {c : Nat} (hs : Kept s0 s) :
    Kept s0 (closeCore s c) := by
  unfold closeCore
  repeat' with_reducible first
    | assumption | intro _ | apply kept_ite | apply kept_foldl | apply modThr_kept | split | extract_lets
    | apply kept_mk

theorem closeSession_kept {s0 : State} {s : State} (hs : Kept s0 s) :
    Kept s0 (closeSession s) := by
  unfold closeSession
  repeat' with_reducible first
    | assumption | intro _ | apply kept_ite | apply kept_foldl | apply modDb_kept | apply closeCore_kept | split
    | extract_lets | apply kept_foldl_fst | apply kept_foldl_snd | apply kept_mk

theorem execTapReset_kept {s0 : State} {s : State} (hs : Kept s0 s) :
    KeptO s0 (execTapReset s) := by
  unfold execTapReset
  repeat' with_reducible first
    | assumption | intro _ | apply keptO_next | apply keptO_ite | apply kept_ite | apply modDb_kept
    | apply closeSession_kept | split | extract_lets | apply kept_mk

theorem execBypass_kept {s0 : State} {s : State} (hs : Kept s0 s) :
    KeptO s0 (execBypass s) := by
  unfold execBypass
  repeat' with_reducible first
    | assumption | intro _ | apply keptO_next | apply keptO_ite | apply kept_ite | apply emit_kept
    | apply modDb_kept | split | extract_lets | apply kept_mk

theorem execIdcode_kept {s0 : State} {s : State} (hs : Kept s0 s) :
    KeptO s0 (execIdcode s) := by
  unfold execIdcode
  repeat' with_reducible first
    | assumption | intro _ | apply keptO_next | apply keptO_ite | apply kept_ite | apply emit_kept
    | apply modDb_kept | split | extract_lets | apply kept_mk

theorem execSamplePreload_kept {s0 : State} {preload : DWord} {s : State} (hs : Kept s0 s) :
    KeptO s0 (execSamplePreload preload s) := by
  unfold execSamplePreload
  repeat' with_reducible first
    | assumption | intro _ | apply keptO_next | apply keptO_ite | apply kept_ite | apply bumpFree_kept
    | apply emit_kept | apply boundary_kept | apply modDb_kept | split | extract_lets | apply kept_mk

theorem execExtest_kept {s0 : State} {s : State} (hs : Kept s0 s) :
    KeptO s0 (execExtest s) := by
  unfold execExtest
  repeat' with_reducible first
    | assumption | intro _ | apply keptO_next | apply keptO_ite | apply kept_ite | apply emit_kept
    | apply modDb_kept | split | extract_lets | apply kept_mk

theorem respond_kept {s0 : State} {s : State} {op : Nat} {seq : Nat} {want : Bool} {status : Nat} {res : List Nat} (hs
    : Kept s0 s) :
    Kept s0 (respond s op seq want status res) := by
  unfold respond
  repeat' with_reducible first
    | assumption | intro _ | apply kept_ite | apply modDb_kept | split | extract_lets | apply kept_mk

theorem frameEnd__kept {s0 : State} {s : State} {ws : List Nat} (hs : Kept s0 s) :
    Kept s0 (frameEnd_ s ws) := by
  unfold frameEnd_
  repeat' with_reducible first
    | assumption | intro _ | apply kept_ite | apply modDb_kept | apply respond_kept | split | extract_lets
    | apply kept_mk

theorem frameStart_kept {s0 : State} {s : State} {w : Nat} (hs : Kept s0 s) :
    Kept s0 (frameStart s w) := by
  unfold frameStart
  repeat' with_reducible first
    | assumption | intro _ | apply kept_ite | apply modDb_kept | apply respond_kept | split | extract_lets
    | apply kept_mk

theorem wordIn_kept {s0 : State} {s : State} {v : Nat} (hs : Kept s0 s) :
    Kept s0 (wordIn s v) := by
  unfold wordIn
  repeat' with_reducible first
    | assumption | intro _ | apply kept_ite | apply modDb_kept | apply frameEnd__kept | apply frameStart_kept
    | split | extract_lets | apply kept_mk

theorem waitDone_kept {s0 : State} {s : State} (hs : Kept s0 s) :
    Kept s0 (waitDone s) := by
  unfold waitDone
  repeat' with_reducible first
    | assumption | intro _ | apply kept_ite | apply modDb_kept | apply respond_kept | split | extract_lets
    | apply kept_mk

theorem wordOut_kept {s0 : State} {s : State} (hs : Kept s0 s) :
    Kept s0 (wordOut s) := by
  unfold wordOut
  repeat' with_reducible first
    | assumption | intro _ | apply kept_ite | apply emit_kept | apply modDb_kept | split | extract_lets
    | apply kept_mk

theorem execGygarWord_kept {s0 : State} {word : BitVec 36} {s : State} (hs : Kept s0 s) :
    KeptO s0 (execGygarWord word s) := by
  unfold execGygarWord
  repeat' with_reducible first
    | assumption | intro _ | apply keptO_next | apply keptO_ite | apply kept_ite | apply emit_kept
    | apply modDb_kept | apply wordIn_kept | apply waitDone_kept | apply wordOut_kept | split | extract_lets
    | apply kept_mk

theorem dbRun_kept {s0 : State} {s : State} {op : Nat} {free : Bool} {right : List Nat → Option Nat} {lenOk : List Nat
    → Bool} {body : State → Nat → List Nat → State × Option (Nat × List Nat)} (hs : Kept s0 s) (hbody : ∀ x a0 a1, Kept s0
    x → Kept s0 (body x a0 a1).1) :
    Kept s0 (dbRun s op free right lenOk body) := by
  unfold dbRun
  repeat' with_reducible first
    | assumption | intro _ | apply kept_ite | apply hbody | apply modDb_kept | apply respond_kept
    | refine kept_of_fst (by assumption) ?_ | split | extract_lets | apply kept_mk

theorem execChallenge_kept {s0 : State} {s : State} (hs : Kept s0 s) :
    KeptO s0 (execChallenge s) := by
  unfold execChallenge
  repeat' with_reducible first
    | assumption | intro _ | apply keptO_next | apply keptO_ite | apply kept_ite | apply modDb_kept
    | apply dbRun_kept | split | extract_lets | apply kept_mk

theorem authFail_kept {s0 : State} {s : State} (hs : Kept s0 s) :
    Kept s0 (authFail s) := by
  unfold authFail
  repeat' with_reducible first
    | assumption | intro _ | apply kept_ite | apply raise_kept | apply modDb_kept | split | extract_lets
    | apply kept_mk

theorem execAuth_kept {s0 : State} {sigOk : Bool} {s : State} (hs : Kept s0 s) :
    KeptO s0 (execAuth sigOk s) := by
  unfold execAuth
  repeat' with_reducible first
    | assumption | intro _ | apply keptO_next | apply keptO_ite | apply kept_ite | apply raise_kept
    | apply modDb_kept | apply dbRun_kept | apply authFail_kept | split | extract_lets | apply kept_mk

theorem execClose_kept {s0 : State} {s : State} (hs : Kept s0 s) :
    KeptO s0 (execClose s) := by
  unfold execClose
  repeat' with_reducible first
    | assumption | intro _ | apply keptO_next | apply keptO_ite | apply kept_ite | apply closeSession_kept
    | apply dbRun_kept | split | extract_lets | apply kept_mk

theorem execStatus_kept {s0 : State} {s : State} (hs : Kept s0 s) :
    KeptO s0 (execStatus s) := by
  unfold execStatus
  repeat' with_reducible first
    | assumption | intro _ | apply keptO_next | apply keptO_ite | apply kept_ite | apply dbRun_kept | split
    | extract_lets | apply kept_mk

theorem execSessionIdleTimeout_kept {s0 : State} {s : State} (hs : Kept s0 s) :
    KeptO s0 (execSessionIdleTimeout s) := by
  unfold execSessionIdleTimeout
  repeat' with_reducible first
    | assumption | intro _ | apply keptO_next | apply keptO_ite | apply kept_ite | apply closeSession_kept | split
    | extract_lets | apply kept_mk

theorem execLockoutEnd_kept {s0 : State} {s : State} (hs : Kept s0 s) :
    KeptO s0 (execLockoutEnd s) := by
  unfold execLockoutEnd
  repeat' with_reducible first
    | assumption | intro _ | apply keptO_next | apply keptO_ite | apply kept_ite | apply modDb_kept | split
    | extract_lets | apply kept_mk

theorem runControl_kept {s0 : State} {s : State} {op : Nat} {body : State → Nat → Nat → Nat → State × Option (Nat ×
    List Nat)} (hs : Kept s0 s) (hbody : ∀ x a0 a1 a2, Kept s0 x → Kept s0 (body x a0 a1 a2).1) :
    Kept s0 (runControl s op body) := by
  unfold runControl
  repeat' with_reducible first
    | assumption | intro _ | apply kept_ite | apply hbody | apply dbRun_kept | split | extract_lets | apply kept_mk

theorem execHalt_kept {s0 : State} {s : State} (hs : Kept s0 s) :
    KeptO s0 (execHalt s) := by
  unfold execHalt
  repeat' with_reducible first
    | assumption | intro _ | apply keptO_next | apply keptO_ite | apply kept_ite | apply haltMask_kept
    | apply modDb_kept | apply runControl_kept | split | extract_lets | apply kept_mk

theorem execResume_kept {s0 : State} {s : State} (hs : Kept s0 s) :
    KeptO s0 (execResume s) := by
  unfold execResume
  repeat' with_reducible first
    | assumption | intro _ | apply keptO_next | apply keptO_ite | apply kept_ite | apply resumeMask_kept
    | apply runControl_kept | split | extract_lets | apply kept_mk

theorem execStep_kept {s0 : State} {s : State} (hs : Kept s0 s) :
    KeptO s0 (execStep s) := by
  unfold execStep
  repeat' with_reducible first
    | assumption | intro _ | apply keptO_next | apply keptO_ite | apply kept_ite | apply modThr_kept
    | apply modDb_kept | apply runControl_kept | split | extract_lets | apply kept_mk

theorem execThreadReset_kept {s0 : State} {s : State} (hs : Kept s0 s) :
    KeptO s0 (execThreadReset s) := by
  unfold execThreadReset
  repeat' with_reducible first
    | assumption | intro _ | apply keptO_next | apply keptO_ite | apply kept_ite | apply kept_foldl
    | apply restartThr_kept | apply runControl_kept | split | extract_lets | apply kept_mk

theorem execBpSet_kept {s0 : State} {s : State} (hs : Kept s0 s) :
    KeptO s0 (execBpSet s) := by
  unfold execBpSet
  repeat' with_reducible first
    | assumption | intro _ | apply keptO_next | apply keptO_ite | apply kept_ite | apply modDb_kept
    | apply dbRun_kept | split | extract_lets | apply kept_mk

theorem execWpSet_kept {s0 : State} {s : State} (hs : Kept s0 s) :
    KeptO s0 (execWpSet s) := by
  unfold execWpSet
  repeat' with_reducible first
    | assumption | intro _ | apply keptO_next | apply keptO_ite | apply kept_ite | apply wr_kept | apply modDb_kept
    | apply dbRun_kept | split | extract_lets | apply kept_mk

theorem dbRead_kept {s0 : State} {s : State} {sp : Nat} {a : Nat} {b : Nat} {n : Nat} (hs : Kept s0 s) :
    Kept s0 (dbRead s sp a b n).1 := by
  unfold dbRead
  repeat' with_reducible first
    | assumption | intro _ | apply kept_ite | apply kept_foldl | apply storeTouch_kept | apply tableOp_kept
    | apply readUnit_kept | refine kept_of_fst (by assumption) ?_ | refine kept_of_snd (by assumption) ?_
    | refine kept_of_fourth (by assumption) ?_ | split | extract_lets | apply kept_foldl_fst | apply kept_foldl_snd
    | apply kept_mk

theorem dbWrite_kept {s0 : State} {s : State} {sp : Nat} {a : Nat} {b : Nat} {ws : List Nat} (hs : Kept s0 s) :
    Kept s0 (dbWrite s sp a b ws).1 := by
  unfold dbWrite
  repeat' with_reducible first
    | assumption | intro _ | apply kept_ite | apply kept_foldl | apply storeWrite_kept | apply modThr_kept
    | apply tableOp_kept | apply flushAll_kept | apply writeUnit_kept | refine kept_lmem ?_ (memWf_writeMem _ _ _)
    | refine kept_of_fst (by assumption) ?_ | refine kept_of_snd (by assumption) ?_
    | refine kept_of_fourth (by assumption) ?_ | split | extract_lets | apply kept_foldl_fst | apply kept_foldl_snd
    | apply kept_mk

theorem execRead_kept {s0 : State} {s : State} (hs : Kept s0 s) :
    KeptO s0 (execRead s) := by
  unfold execRead
  repeat' with_reducible first
    | assumption | intro _ | apply keptO_next | apply keptO_ite | apply kept_ite | apply dbRun_kept
    | apply dbRead_kept | split | extract_lets | apply kept_mk

theorem execWrite_kept {s0 : State} {s : State} (hs : Kept s0 s) :
    KeptO s0 (execWrite s) := by
  unfold execWrite
  repeat' with_reducible first
    | assumption | intro _ | apply keptO_next | apply keptO_ite | apply kept_ite | apply dbRun_kept
    | apply dbWrite_kept | split | extract_lets | apply kept_mk

end Sys2Proof.Machine
end

