-- ==== Sys2Proof/Laws/KeptJobExec.lean ====
section
/-! SUPPORT. What the operations of Machine/JobExec.lean keep (Safety.lean). -/
namespace Sys2Proof.Machine

theorem failJob_kept {s0 : State} {s : State} {uid : Nat} {st : Status} (hs : Kept s0 s) :
    Kept s0 (failJob s uid st) := by
  unfold failJob
  repeat' with_reducible first
    | assumption | intro _ | apply kept_ite | apply kept_foldl | apply finishJob_kept | apply devFree_kept | split
    | extract_lets | apply kept_mk

theorem jobGather_ok_kept {s0 : State} {s : State} {uid : Nat} {j : Job} {gs : List Seg} {b : Bool} {t u : State}
    (e : jobGather s uid j gs = (.ok (b, t), u)) (hs : Kept s0 s) : Kept s0 t := by
  unfold jobGather at e
  split at e
  · cases e
  · split at e
    · cases e
    · split at e
      · cases e
      · rename_i h t' ha
        have hk : Kept s0 t' := kept_of_snd ha (allocWork_kept hs)
        simp only [Prod.mk.injEq, Except.ok.injEq] at e
        refine kept_of_snd e.1 (moveSegs_kept ?_)
        exact kept_mk hk

theorem jobGather_error_kept {s0 : State} {s : State} {uid : Nat} {j : Job} {gs : List Seg} {st : Status} {u : State}
    (e : jobGather s uid j gs = (.error st, u)) (hs : Kept s0 s) : Kept s0 u := by
  unfold jobGather at e
  split at e
  · cases e; exact hs
  · split at e
    · cases e; exact hs
    · split at e
      · rename_i st' t' ha
        cases e
        exact kept_of_snd ha (allocWork_kept hs)
      · cases e

theorem txRead_kept {s0 : State} {s : State} {uid : Nat} {j : Job} (hs : Kept s0 s) :
    Kept s0 (txRead s uid j) := by
  unfold txRead
  repeat' with_reducible first
    | assumption | intro _ | apply kept_ite | apply storeTouch_kept | apply txPipe_kept | apply txDirect_kept
    | apply failJob_kept | split | extract_lets | apply kept_mk

theorem execTx_kept {s0 : State} {uid : Nat} {upset : Upset} {s : State} (hs : Kept s0 s) :
    KeptO s0 (execTx uid upset s) := by
  unfold execTx
  refine keptO_next (jobRun_kept hs fun x a hx => ?_)
  dsimp only
  split
  · exact finishJob_kept hx
  · split
    · rename_i e; exact finishJob_kept (jobGather_error_kept e hx)
    · rename_i e; exact jobGather_ok_kept e hx
    · rename_i e
      split
      · exact txRead_kept (jobGather_ok_kept e hx)
      · exact jobGather_ok_kept e hx

theorem execRxPost_kept {s0 : State} {uid : Nat} {s : State} (hs : Kept s0 s) :
    KeptO s0 (execRxPost uid s) := by
  unfold execRxPost
  repeat' with_reducible first
    | assumption | intro _ | apply keptO_next | apply keptO_ite | apply kept_ite | apply finishJob_kept
    | apply jobRun_kept | split | extract_lets | apply kept_mk

theorem coreRead_kept {s0 : State} {s : State} {uid : Nat} {j : Job} (hs : Kept s0 s) :
    Kept s0 (coreRead s uid j) := by
  unfold coreRead
  repeat' with_reducible first
    | assumption | intro _ | apply kept_ite | apply ringArrive_kept | split | extract_lets | apply kept_mk

theorem execCoreJob_kept {s0 : State} {uid : Nat} {s : State} (hs : Kept s0 s) :
    KeptO s0 (execCoreJob uid s) := by
  unfold execCoreJob
  refine keptO_next (jobRun_kept hs fun x a hx => ?_)
  dsimp only
  split
  · exact finishJob_kept hx
  · split
    · rename_i e; exact finishJob_kept (jobGather_error_kept e hx)
    · rename_i e; exact jobGather_ok_kept e hx
    · rename_i e
      split
      · exact coreRead_kept (jobGather_ok_kept e hx)
      · exact jobGather_ok_kept e hx

theorem copyMove_kept {s0 : State} {s : State} {uid : Nat} {j : Job} {ds : List Desc} (hs : Kept s0 s) :
    Kept s0 (copyMove s uid j ds) := by
  unfold copyMove
  repeat' with_reducible first
    | assumption | intro _ | apply kept_ite | apply startXfer_kept | apply failJob_kept | split | extract_lets
    | apply kept_mk

theorem copyDone_kept {s0 : State} {s : State} {uid : Nat} {j : Job} (hs : Kept s0 s) :
    Kept s0 (copyDone s uid j) := by
  unfold copyDone
  repeat' with_reducible first
    | assumption | intro _ | apply kept_ite | apply kept_foldl | apply finishJob_kept | apply devFree_kept | split
    | extract_lets | apply kept_mk

theorem copyFill_kept {s0 : State} {s : State} {uid : Nat} {j : Job} (hs : Kept s0 s) :
    Kept s0 (copyFill s uid j) := by
  unfold copyFill
  repeat' with_reducible first
    | assumption | intro _ | apply kept_ite | apply copyMove_kept | split | extract_lets | apply kept_mk

theorem copyNext_kept {s0 : State} {s : State} {uid : Nat} {j : Job} (hs : Kept s0 s) :
    Kept s0 (copyNext s uid j) := by
  unfold copyNext
  repeat' with_reducible first
    | assumption | intro _ | apply kept_ite | apply copyMove_kept | apply copyDone_kept | apply copyFill_kept
    | split | extract_lets | apply kept_mk

theorem execCopy_kept {s0 : State} {uid : Nat} {s : State} (hs : Kept s0 s) :
    KeptO s0 (execCopy uid s) := by
  unfold execCopy
  repeat' with_reducible first
    | assumption | intro _ | apply keptO_next | apply keptO_ite | apply kept_ite | apply kept_foldl
    | apply finishJob_kept | apply jobRun_kept | apply allocWork_kept | apply copyMove_kept | apply copyDone_kept
    | apply copyFill_kept | refine kept_of_snd (by assumption) ?_ | split | extract_lets | apply kept_foldl_fst
    | apply kept_foldl_snd | refine jobGather_ok_kept (by assumption) ?_
    | refine jobGather_error_kept (by assumption) ?_ | apply kept_mk

end Sys2Proof.Machine
end

