-- ==== Sys2Proof/Laws/KeptStorage.lean ====
section
/-! SUPPORT. What the operations of Machine/Storage.lean keep (Safety.lean). -/
namespace Sys2Proof.Machine

theorem modTcp_kept {s0 : State} {s : State} {a : Nat} {f : Tcp → Tcp} (hs : Kept s0 s) :
    Kept s0 (modTcp s a f) := by
  unfold modTcp
  repeat' with_reducible first
    | assumption | intro _ | apply kept_ite | apply modAtt_kept | split | extract_lets | apply kept_mk

theorem segSend_kept {s0 : State} {s : State} {a : Nat} {seq : Nat} {flags : Nat} {data : List Byte} (hs : Kept s0 s)
    :
    Kept s0 (segSend s a seq flags data) := by
  unfold segSend
  repeat' with_reducible first
    | assumption | intro _ | apply kept_ite | apply portFor_kept | apply sendFrame_kept
    | refine kept_of_snd (by assumption) ?_ | split | extract_lets | apply kept_mk

theorem tcpPush_kept {s0 : State} {s : State} {a : Nat} {e0 : Nat} (hs : Kept s0 s) :
    Kept s0 (tcpPush s a e0) := by
  induction e0 generalizing s a hs with
  | zero =>
    unfold tcpPush
    repeat' with_reducible first
      | assumption | intro _ | apply kept_ite | apply modTcp_kept | apply segSend_kept | split | extract_lets
      | apply kept_mk
  | succ k ih =>
    unfold tcpPush
    repeat' with_reducible first
      | assumption | intro _ | apply kept_ite | apply ih | apply modTcp_kept | apply segSend_kept | split
      | extract_lets | apply kept_mk

theorem tcpPushAll_kept {s0 : State} {s : State} {a : Nat} (hs : Kept s0 s) :
    Kept s0 (tcpPushAll s a) := by
  unfold tcpPushAll
  repeat' with_reducible first
    | assumption | intro _ | apply kept_ite | apply tcpPush_kept | split | extract_lets | apply kept_mk

theorem tcpWrite_kept {s0 : State} {s : State} {a : Nat} {b : List Byte} (hs : Kept s0 s) :
    Kept s0 (tcpWrite s a b) := by
  unfold tcpWrite
  repeat' with_reducible first
    | assumption | intro _ | apply kept_ite | apply modTcp_kept | apply tcpPushAll_kept | split | extract_lets
    | apply kept_mk

theorem tcpAgain_kept {s0 : State} {s : State} {a : Nat} (hs : Kept s0 s) :
    Kept s0 (tcpAgain s a) := by
  unfold tcpAgain
  repeat' with_reducible first
    | assumption | intro _ | apply kept_ite | apply modTcp_kept | apply segSend_kept | split | extract_lets
    | apply kept_mk

theorem sessDown_kept {s0 : State} {s : State} {a : Nat} (hs : Kept s0 s) :
    Kept s0 (sessDown s a) := by
  unfold sessDown
  repeat' with_reducible first
    | assumption | intro _ | apply kept_ite | apply kept_foldl | apply cadd_kept | apply raise_kept
    | apply dropJob_kept | apply modAtt_kept | apply cmdEnd_kept | apply sxDropRx_kept | apply segSend_kept | split
    | extract_lets | apply kept_foldl_fst | apply kept_foldl_snd | apply kept_mk

theorem protoErr_kept {s0 : State} {s : State} {a : Nat} {dig : Bool} {pdu : List Byte} (hs : Kept s0 s) :
    Kept s0 (protoErr s a dig pdu) := by
  unfold protoErr
  repeat' with_reducible first
    | assumption | intro _ | apply kept_ite | apply cadd_kept | apply raise_kept | apply tcpWrite_kept
    | apply sessDown_kept | split | extract_lets | apply kept_mk

theorem stageTouch_kept {s0 : State} {s : State} {c : SxCmd} {o : Nat} {n : Nat} (hs : Kept s0 s) :
    Kept s0 (stageTouch s c o n) := by
  unfold stageTouch
  repeat' with_reducible first
    | assumption | intro _ | apply kept_ite | apply storeTouch_kept | split | extract_lets | apply kept_mk

theorem capsule_kept {s0 : State} {s : State} {t : Att} {uid : Nat} {typ : Nat} {tag : Nat} {b : List Byte} (hs : Kept
    s0 s) :
    Kept s0 (capsule s t uid typ tag b).2 := by
  unfold capsule
  repeat' with_reducible first
    | assumption | intro _ | apply kept_ite | apply kept_foldl | apply storeWrite_kept | apply copyBufs_kept
    | apply addSend_kept | refine kept_of_snd (by assumption) ?_ | split | extract_lets | apply kept_foldl_fst
    | apply kept_foldl_snd | apply kept_mk

theorem sendCmd_kept {s0 : State} {s : State} {uid : Nat} {c : SxCmd} {t : Att} {j : Job} {tag : Nat} (hs : Kept s0 s)
    :
    Kept s0 (sendCmd s uid c t j tag) := by
  unfold sendCmd
  repeat' with_reducible first
    | assumption | intro _ | apply kept_ite | apply cadd_kept | apply modCmd_kept | apply tcpWrite_kept
    | apply stageTouch_kept | apply capsule_kept | refine kept_of_snd (by assumption) ?_ | split | extract_lets
    | apply kept_mk

theorem startCmds_kept {s0 : State} {s : State} (hs : Kept s0 s) :
    Kept s0 (startCmds s) := by
  unfold startCmds
  repeat' with_reducible first
    | assumption | intro _ | apply kept_ite | apply kept_foldl | apply sendCmd_kept | split | extract_lets
    | apply kept_foldl_fst | apply kept_foldl_snd | apply kept_mk

theorem xtsStart_kept {s0 : State} {s : State} {uid : Nat} (hs : Kept s0 s) :
    Kept s0 (xtsStart s uid) := by
  unfold xtsStart
  repeat' with_reducible first
    | assumption | intro _ | apply kept_ite | apply bumpFree_kept | apply storeWrite_kept | apply ringArrive_kept
    | apply modCmd_kept | split | extract_lets | apply kept_mk

theorem unsent_kept {s0 : State} {s : State} {uid : Nat} (hs : Kept s0 s) :
    Kept s0 (unsent s uid) := by
  unfold unsent
  repeat' with_reducible first
    | assumption | intro _ | apply kept_ite | apply modCmd_kept | apply startCmds_kept | split | extract_lets
    | apply kept_mk

theorem storEnd_kept {s0 : State} {s : State} {uid : Nat} {err : Option Status} (hs : Kept s0 s) :
    Kept s0 (storEnd s uid err) := by
  unfold storEnd
  repeat' with_reducible first
    | assumption | intro _ | apply kept_ite | apply cadd_kept | apply cmdEnd_kept | apply startCmds_kept
    | apply xtsStart_kept | apply unsent_kept | split | extract_lets | apply kept_mk

theorem stageMove_kept {s0 : State} {s : State} {uid : Nat} {c : SxCmd} {st : CmdSt} (hs : Kept s0 s) :
    Kept s0 (stageMove s uid c st) := by
  unfold stageMove
  repeat' with_reducible first
    | assumption | intro _ | apply kept_ite | apply moveSegs_kept | apply modCmd_kept | apply storEnd_kept
    | refine kept_of_snd (by assumption) ?_ | split | extract_lets | apply kept_mk

theorem stageTry_kept {s0 : State} {s : State} {uid : Nat} (hs : Kept s0 s) :
    Kept s0 (stageTry s uid) := by
  unfold stageTry
  repeat' with_reducible first
    | assumption | intro _ | apply kept_ite | apply allocFrom_kept | apply bufHand_kept | apply modCmd_kept
    | apply unsent_kept | apply stageMove_kept | refine kept_of_snd (by assumption) ?_ | split | extract_lets
    | apply kept_mk

theorem cmdStart_kept {s0 : State} {s : State} {uid : Nat} (hs : Kept s0 s) :
    Kept s0 (cmdStart s uid) := by
  unfold cmdStart
  repeat' with_reducible first
    | assumption | intro _ | apply kept_ite | apply modCmd_kept | apply unsent_kept | apply stageTry_kept | split
    | extract_lets | apply kept_mk

theorem readBack_kept {s0 : State} {s : State} {uid : Nat} (hs : Kept s0 s) :
    Kept s0 (readBack s uid) := by
  unfold readBack
  repeat' with_reducible first
    | assumption | intro _ | apply kept_ite | apply modCmd_kept | apply xtsStart_kept | apply stageMove_kept
    | split | extract_lets | apply kept_mk

theorem cqeIn_kept {s0 : State} {s : State} {a : Nat} {t : Att} {tag : Nat} {st : Nat} {d0 : Nat} {raw : List Byte}
    (hs : Kept s0 s) :
    Kept s0 (cqeIn s a t tag st d0 raw) := by
  unfold cqeIn
  repeat' with_reducible first
    | assumption | intro _ | apply kept_ite | apply kept_foldl | apply cadd_kept | apply dropJob_kept
    | apply modAtt_kept | apply modCmd_kept | apply cmdEnd_kept | apply protoErr_kept | apply startCmds_kept
    | apply readBack_kept | split | extract_lets | apply kept_foldl_fst | apply kept_foldl_snd | apply kept_mk

theorem c2hData_kept {s0 : State} {s : State} {a : Nat} {t : Att} {tag : Nat} {off : Nat} {data : List Byte} {last :
    Bool} {raw : List Byte} (hs : Kept s0 s) :
    Kept s0 (c2hData s a t tag off data last raw) := by
  unfold c2hData
  repeat' with_reducible first
    | assumption | intro _ | apply kept_ite | apply storeWrite_kept | apply modCmd_kept | apply protoErr_kept
    | apply readBack_kept | apply cqeIn_kept | split | extract_lets | apply kept_mk

theorem r2tIn_kept {s0 : State} {s : State} {a : Nat} {t : Att} {tag : Nat} {ttag : Nat} {off : Nat} {n : Nat} {raw :
    List Byte} (hs : Kept s0 s) :
    Kept s0 (r2tIn s a t tag ttag off n raw) := by
  unfold r2tIn
  repeat' with_reducible first
    | assumption | intro _ | apply kept_ite | apply tcpWrite_kept | apply protoErr_kept | apply stageTouch_kept
    | split | extract_lets | apply kept_mk

theorem pduIn_kept {s0 : State} {s : State} {a : Nat} {t : Att} {b : List Byte} (hs : Kept s0 s) :
    Kept s0 (pduIn s a t b) := by
  unfold pduIn
  repeat' with_reducible first
    | assumption | intro _ | apply kept_ite | apply sessDown_kept | apply protoErr_kept | apply cqeIn_kept
    | apply c2hData_kept | apply r2tIn_kept | split | extract_lets | apply kept_mk

theorem pdusIn_kept {s0 : State} {s : State} {a : Nat} {e0 : Nat} (hs : Kept s0 s) :
    Kept s0 (pdusIn s a e0) := by
  induction e0 generalizing s a hs with
  | zero =>
    unfold pdusIn
    repeat' with_reducible first
      | assumption | intro _ | apply kept_ite | apply modTcp_kept | apply protoErr_kept | apply pduIn_kept | split
      | extract_lets | apply kept_mk
  | succ k ih =>
    unfold pdusIn
    repeat' with_reducible first
      | assumption | intro _ | apply kept_ite | apply ih | apply modTcp_kept | apply protoErr_kept
      | apply pduIn_kept | split | extract_lets | apply kept_mk

theorem tcpAcked_kept {s0 : State} {s : State} {a : Nat} {c : Tcp} {g : Seg4} {n : Nat} {wnd : Nat} {sk : List (Nat ×
    Nat)} (hs : Kept s0 s) :
    Kept s0 (tcpAcked s a c g n wnd sk) := by
  unfold tcpAcked
  repeat' with_reducible first
    | assumption | intro _ | apply kept_ite | apply modTcp_kept | apply tcpPushAll_kept | apply tcpAgain_kept
    | split | extract_lets | apply kept_mk

theorem tcpDup_kept {s0 : State} {s : State} {a : Nat} {c : Tcp} {g : Seg4} {wnd : Nat} {sk : List (Nat × Nat)} (hs :
    Kept s0 s) :
    Kept s0 (tcpDup s a c g wnd sk) := by
  unfold tcpDup
  repeat' with_reducible first
    | assumption | intro _ | apply kept_ite | apply modTcp_kept | apply tcpPushAll_kept | apply tcpAgain_kept
    | split | extract_lets | apply kept_mk

theorem tcpAck_kept {s0 : State} {s : State} {a : Nat} {c : Tcp} {g : Seg4} (hs : Kept s0 s) :
    Kept s0 (tcpAck s a c g) := by
  unfold tcpAck
  repeat' with_reducible first
    | assumption | intro _ | apply kept_ite | apply tcpAcked_kept | apply tcpDup_kept | split | extract_lets
    | apply kept_mk

theorem tcpData_kept {s0 : State} {s : State} {a : Nat} {c : Tcp} {g : Seg4} (hs : Kept s0 s) :
    Kept s0 (tcpData s a c g) := by
  unfold tcpData
  repeat' with_reducible first
    | assumption | intro _ | apply kept_ite | apply modTcp_kept | apply segSend_kept | apply pdusIn_kept | split
    | extract_lets | apply kept_mk

theorem tcpSeg_kept {s0 : State} {s : State} {a : Nat} {c : Tcp} {g : Seg4} (hs : Kept s0 s) :
    Kept s0 (tcpSeg s a c g) := by
  unfold tcpSeg
  repeat' with_reducible first
    | assumption | intro _ | apply kept_ite | apply sessDown_kept | apply tcpAck_kept | apply tcpData_kept | split
    | extract_lets | apply kept_mk

theorem execRxSeg_kept {s0 : State} {core : CoreId} {thread : ThreadId} {ecc : Ecc} {s : State} (hs : Kept s0 s) :
    KeptO s0 (execRxSeg core thread ecc s) := by
  unfold execRxSeg
  repeat' with_reducible first
    | assumption | intro _ | apply keptO_next | apply keptO_ite | apply kept_ite | apply cadd_kept
    | apply storeMeet_kept | apply devFree_kept | apply msgAnswer_kept | apply msgRun_kept | apply tcpSeg_kept
    | split | extract_lets | apply kept_mk

theorem execXtsDone_kept {s0 : State} {core : CoreId} {thread : ThreadId} {s : State} (hs : Kept s0 s) :
    KeptO s0 (execXtsDone core thread s) := by
  unfold execXtsDone
  repeat' with_reducible first
    | assumption | intro _ | apply keptO_next | apply keptO_ite | apply kept_ite | apply setBuf_kept
    | apply dropJob_kept | apply msgAnswer_kept | apply msgRun_kept | apply modCmd_kept | apply cmdEnd_kept
    | apply startCmds_kept | apply unsent_kept | apply stageMove_kept | split | extract_lets | apply kept_mk

theorem sxEdge_kept {s0 : State} {s : State} (hs : Kept s0 s) :
    Kept s0 (sxEdge s) := by
  unfold sxEdge
  repeat' with_reducible first
    | assumption | intro _ | apply kept_ite | apply kept_foldl | apply dropJob_kept | apply startCmds_kept | split
    | extract_lets | apply kept_foldl_fst | apply kept_foldl_snd | apply kept_mk

theorem takeMsgs_kept {s0 : State} {s : State} (hs : Kept s0 s) :
    Kept s0 (takeMsgs s) := by
  unfold takeMsgs
  repeat' with_reducible first
    | assumption | intro _ | apply kept_ite | apply kept_foldl | apply storeWrite_kept | apply modSx_kept
    | apply modCmd_kept | apply protoErr_kept | apply cqeIn_kept | split | extract_lets | apply kept_foldl_fst
    | apply kept_foldl_snd | apply kept_mk

theorem execRxPkt_kept {s0 : State} {core : CoreId} {thread : ThreadId} {ecc : Ecc} {s : State} (hs : Kept s0 s) :
    KeptO s0 (execRxPkt core thread ecc s) := by
  unfold execRxPkt
  repeat' with_reducible first
    | assumption | intro _ | apply keptO_next | apply keptO_ite | apply kept_ite | apply devFree_kept
    | apply msgAnswer_kept | apply msgRun_kept | apply mftRx_kept | apply takeMsgs_kept
    | refine kept_of_snd (by assumption) ?_ | split | extract_lets | apply kept_mk

theorem execNsAttach_kept {s0 : State} {port : HostPort} {s : State} (hs : Kept s0 s) :
    KeptO s0 (execNsAttach port s) := by
  unfold execNsAttach
  repeat' with_reducible first
    | assumption | intro _ | apply keptO_next | apply keptO_ite | apply kept_ite | apply hostRead_kept
    | apply finishAdmin_kept | apply adminRun_kept | apply adminWait_kept | split | extract_lets | apply kept_mk

theorem connectStart_kept {s0 : State} {s : State} {a : Nat} (hs : Kept s0 s) :
    Kept s0 (connectStart s a) := by
  unfold connectStart
  repeat' with_reducible first
    | assumption | intro _ | apply kept_ite | apply bumpFree_kept | apply modAtt_kept | apply postRx_kept
    | apply segSend_kept | split | extract_lets | apply kept_mk

theorem attach_kept {s0 : State} {s : State} {p : Nat} {e : Entry} {b : List Byte} (hs : Kept s0 s) :
    Kept s0 (attach s p e b) := by
  unfold attach
  repeat' with_reducible first
    | assumption | intro _ | apply kept_ite | apply finishAdmin_kept | apply modSx_kept | apply attFail_kept
    | apply modConn_kept | apply connectStart_kept | split | extract_lets | apply kept_mk

theorem attachRead_kept {s0 : State} {s : State} {p : Nat} {data : HostData} (hs : Kept s0 s) :
    Kept s0 (attachRead s p data) := by
  unfold attachRead
  repeat' with_reducible first
    | assumption | intro _ | apply kept_ite | apply finishAdmin_kept | apply attach_kept | split | extract_lets
    | apply kept_mk

theorem execAttachRecordRead_kept {s0 : State} {port : HostPort} {data : HostData} {s : State} (hs : Kept s0 s) :
    KeptO s0 (execAttachRecordRead port data s) := by
  unfold execAttachRecordRead
  repeat' with_reducible first
    | assumption | intro _ | apply keptO_next | apply keptO_ite | apply kept_ite | apply takeRead_kept
    | apply attachRead_kept | split | extract_lets | apply kept_mk

theorem attFree_kept {s0 : State} {s : State} {a : Nat} (hs : Kept s0 s) :
    Kept s0 (attFree s a) := by
  unfold attFree
  repeat' with_reducible first
    | assumption | intro _ | apply kept_ite | apply finishAdmin_kept | apply modSx_kept | apply sxDropRx_kept
    | apply modConn_kept | apply segSend_kept | apply tcpWrite_kept | split | extract_lets | apply kept_mk

theorem execNsDetach_kept {s0 : State} {port : HostPort} {s : State} (hs : Kept s0 s) :
    KeptO s0 (execNsDetach port s) := by
  unfold execNsDetach
  repeat' with_reducible first
    | assumption | intro _ | apply keptO_next | apply keptO_ite | apply kept_ite | apply kept_foldl
    | apply finishAdmin_kept | apply adminRun_kept | apply adminWait_kept | apply sxLate_kept | apply dropJob_kept
    | apply modAtt_kept | apply startCmds_kept | apply attFree_kept | split | extract_lets | apply kept_foldl_fst
    | apply kept_foldl_snd | apply kept_mk

theorem execNsDetachTimeout_kept {s0 : State} {att : Fin 65536} {s : State} (hs : Kept s0 s) :
    KeptO s0 (execNsDetachTimeout att s) := by
  unfold execNsDetachTimeout
  repeat' with_reducible first
    | assumption | intro _ | apply keptO_next | apply keptO_ite | apply kept_ite | apply kept_foldl
    | apply dropJob_kept | apply startCmds_kept | apply attFree_kept | split | extract_lets | apply kept_foldl_fst
    | apply kept_foldl_snd | apply kept_mk

theorem setupSend_kept {s0 : State} {s : State} {a : Nat} {ans : Nat} {e0 : Nat} {e1 : List Byte} (hs : Kept s0 s) :
    Kept s0 (setupSend s a ans e0 e1) := by
  induction e0 generalizing s a ans e1 hs with
  | zero =>
    unfold setupSend
    repeat' with_reducible first
      | assumption | intro _ | apply kept_ite | apply modTcp_kept | apply segSend_kept | split | extract_lets
      | apply kept_mk
  | succ k ih =>
    unfold setupSend
    repeat' with_reducible first
      | assumption | intro _ | apply kept_ite | apply ih | apply modTcp_kept | apply segSend_kept | split
      | extract_lets | apply kept_mk

theorem setupRun_kept {s0 : State} {s : State} {a : Nat} {t : Att} {x : SessUp} (hs : Kept s0 s) :
    Kept s0 (setupRun s a t x) := by
  unfold setupRun
  repeat' with_reducible first
    | assumption | intro _ | apply kept_ite | apply kept_foldl | apply modTcp_kept | apply segSend_kept
    | apply capsule_kept | apply setupSend_kept | refine kept_of_snd (by assumption) ?_ | split | extract_lets
    | apply kept_foldl_fst | apply kept_foldl_snd | apply kept_mk

theorem execSessionUp_kept {s0 : State} {att : Fin 65536} {result : SessEnd} {s : State} (hs : Kept s0 s) :
    KeptO s0 (execSessionUp att result s) := by
  unfold execSessionUp
  repeat' with_reducible first
    | assumption | intro _ | apply keptO_next | apply keptO_ite | apply kept_ite | apply kept_foldl
    | apply raise_kept | apply modAtt_kept | apply attFail_kept | apply modTcp_kept | apply segSend_kept
    | apply startCmds_kept | apply cmdStart_kept | apply setupRun_kept | split | extract_lets
    | apply kept_foldl_fst | apply kept_foldl_snd | apply kept_mk

theorem execConnectTimeout_kept {s0 : State} {att : Fin 65536} {s : State} (hs : Kept s0 s) :
    KeptO s0 (execConnectTimeout att s) := by
  unfold execConnectTimeout
  repeat' with_reducible first
    | assumption | intro _ | apply keptO_next | apply keptO_ite | apply kept_ite | apply modAtt_kept | split
    | extract_lets | apply kept_mk

theorem execReconnect_kept {s0 : State} {att : Fin 65536} {s : State} (hs : Kept s0 s) :
    KeptO s0 (execReconnect att s) := by
  unfold execReconnect
  repeat' with_reducible first
    | assumption | intro _ | apply keptO_next | apply keptO_ite | apply kept_ite | apply modAtt_kept
    | apply connectStart_kept | split | extract_lets | apply kept_mk

theorem execKeepAliveSend_kept {s0 : State} {att : Fin 65536} {s : State} (hs : Kept s0 s) :
    KeptO s0 (execKeepAliveSend att s) := by
  unfold execKeepAliveSend
  repeat' with_reducible first
    | assumption | intro _ | apply keptO_next | apply keptO_ite | apply kept_ite | apply modAtt_kept
    | apply tcpWrite_kept | apply capsule_kept | refine kept_of_snd (by assumption) ?_ | split | extract_lets
    | apply kept_mk

theorem execKatoExpire_kept {s0 : State} {att : Fin 65536} {s : State} (hs : Kept s0 s) :
    KeptO s0 (execKatoExpire att s) := by
  unfold execKatoExpire
  repeat' with_reducible first
    | assumption | intro _ | apply keptO_next | apply keptO_ite | apply kept_ite | apply sessDown_kept | split
    | extract_lets | apply kept_mk

theorem execTcpRetransmissionTimeout_kept {s0 : State} {att : Fin 65536} {s : State} (hs : Kept s0 s) :
    KeptO s0 (execTcpRetransmissionTimeout att s) := by
  unfold execTcpRetransmissionTimeout
  repeat' with_reducible first
    | assumption | intro _ | apply keptO_next | apply keptO_ite | apply kept_ite | apply modTcp_kept
    | apply tcpAgain_kept | apply sessDown_kept | split | extract_lets | apply kept_mk

theorem execNvme_kept {s0 : State} {uid : Nat} {s : State} (hs : Kept s0 s) :
    KeptO s0 (execNvme uid s) := by
  unfold execNvme
  repeat' with_reducible first
    | assumption | intro _ | apply keptO_next | apply keptO_ite | apply kept_ite | apply finishJob_kept
    | apply jobRun_kept | apply modSx_kept | apply cmdStart_kept | split | extract_lets | apply kept_mk

theorem execStageAlloc_kept {s0 : State} {uid : Nat} {s : State} (hs : Kept s0 s) :
    KeptO s0 (execStageAlloc uid s) := by
  unfold execStageAlloc
  repeat' with_reducible first
    | assumption | intro _ | apply keptO_next | apply keptO_ite | apply kept_ite | apply stageTry_kept | split
    | extract_lets | apply kept_mk

theorem execStageWaitExpire_kept {s0 : State} {uid : Nat} {s : State} (hs : Kept s0 s) :
    KeptO s0 (execStageWaitExpire uid s) := by
  unfold execStageWaitExpire
  repeat' with_reducible first
    | assumption | intro _ | apply keptO_next | apply keptO_ite | apply kept_ite | apply cadd_kept
    | apply cmdEnd_kept | apply startCmds_kept | split | extract_lets | apply kept_mk

theorem cmdTimeoutEv_kept {s0 : State} {s : State} {a : Nat} (hs : Kept s0 s) :
    Kept s0 (cmdTimeoutEv s a) := by
  unfold cmdTimeoutEv
  repeat' with_reducible first
    | assumption | intro _ | apply kept_ite | apply raise_kept | split | extract_lets | apply kept_mk

theorem execIoTimeout_kept {s0 : State} {uid : Nat} {s : State} (hs : Kept s0 s) :
    KeptO s0 (execIoTimeout uid s) := by
  unfold execIoTimeout
  repeat' with_reducible first
    | assumption | intro _ | apply keptO_next | apply keptO_ite | apply kept_ite | apply cadd_kept
    | apply modAtt_kept | apply cmdEnd_kept | apply sessDown_kept | apply startCmds_kept | apply cmdTimeoutEv_kept
    | split | extract_lets | apply kept_mk

end Sys2Proof.Machine
end

