-- ==== Sys2Proof/Laws/KeptTallyman.lean ====
section
/-! SUPPORT. What the operations of Machine/Tallyman.lean keep (Safety.lean). -/
namespace Sys2Proof.Machine

theorem modTl_kept {s0 : State} {s : State} {f : Tally → Tally} (hs : Kept s0 s) :
    Kept s0 (modTl s f) := by
  unfold modTl
  repeat' with_reducible first
    | assumption | intro _ | apply kept_ite | split | extract_lets | apply kept_mk

theorem modRingD_kept {s0 : State} {s : State} {r : Nat} {f : DumpRing → DumpRing} (hs : Kept s0 s) :
    Kept s0 (modRingD s r f) := by
  unfold modRingD
  repeat' with_reducible first
    | assumption | intro _ | apply kept_ite | apply modTl_kept | split | extract_lets | apply kept_mk

theorem latchAll_kept {s0 : State} {s : State} (hs : Kept s0 s) :
    Kept s0 (latchAll s) := by
  unfold latchAll
  repeat' with_reducible first
    | assumption | intro _ | apply kept_ite | apply kept_foldl | split | extract_lets | apply kept_foldl_fst
    | apply kept_foldl_snd | apply kept_mk

theorem dumpSkip_kept {s0 : State} {s : State} {r : Nat} {recs : List DRec} (hs : Kept s0 s) :
    Kept s0 (dumpSkip s r recs) := by
  unfold dumpSkip
  repeat' with_reducible first
    | assumption | intro _ | apply kept_ite | apply kept_foldl | apply cadd_kept | apply raiseOnce_kept
    | apply modTl_kept | split | extract_lets | apply kept_mk

theorem dumpGive_kept {s0 : State} {s : State} {n : Nat} {r : Nat} {d : DumpRing} (hs : Kept s0 s) :
    Kept s0 (dumpGive s n r d) := by
  unfold dumpGive
  repeat' with_reducible first
    | assumption | intro _ | apply kept_ite | apply kept_foldl | apply cadd_kept | apply raise_kept
    | apply modTl_kept | apply modRingD_kept | apply dumpSkip_kept | split | extract_lets | apply kept_mk

theorem pmcLoad_kept {s0 : State} {s : State} (hs : Kept s0 s) :
    Kept s0 (pmcLoad s) := by
  unfold pmcLoad
  repeat' with_reducible first
    | assumption | intro _ | apply kept_ite | apply kept_foldl | apply modCore_kept | apply pmc_kept | split
    | extract_lets | apply kept_foldl_fst | apply kept_foldl_snd | apply kept_mk

theorem snapshot_kept {s0 : State} {s : State} {n : Nat} (hs : Kept s0 s) :
    Kept s0 (snapshot s n) := by
  unfold snapshot
  repeat' with_reducible first
    | assumption | intro _ | apply kept_ite | apply kept_foldl | apply cadd_kept | apply modTl_kept
    | apply latchAll_kept | apply dumpGive_kept | apply pmcLoad_kept | split | extract_lets | apply kept_foldl_fst
    | apply kept_foldl_snd | apply kept_mk

theorem execSnapshotArm_kept {s0 : State} {port : HostPort} {s : State} (hs : Kept s0 s) :
    KeptO s0 (execSnapshotArm port s) := by
  unfold execSnapshotArm
  repeat' with_reducible first
    | assumption | intro _ | apply keptO_next | apply keptO_ite | apply kept_ite | apply finishAdmin_kept
    | apply adminRun_kept | apply modTl_kept | split | extract_lets | apply kept_mk

theorem snapEdge_kept {s0 : State} {s : State} (hs : Kept s0 s) :
    Kept s0 (snapEdge s) := by
  unfold snapEdge
  repeat' with_reducible first
    | assumption | intro _ | apply kept_ite | apply modTl_kept | apply snapshot_kept | split | extract_lets
    | apply kept_mk

theorem execDumpRingCreate_kept {s0 : State} {port : HostPort} {s : State} (hs : Kept s0 s) :
    KeptO s0 (execDumpRingCreate port s) := by
  unfold execDumpRingCreate
  repeat' with_reducible first
    | assumption | intro _ | apply keptO_next | apply keptO_ite | apply kept_ite | apply finishAdmin_kept
    | apply adminRun_kept | apply modTl_kept | split | extract_lets | apply kept_mk

theorem dumpEnd_kept {s0 : State} {s : State} {r : Nat} (hs : Kept s0 s) :
    Kept s0 (dumpEnd s r) := by
  unfold dumpEnd
  repeat' with_reducible first
    | assumption | intro _ | apply kept_ite | apply dropSys_kept | apply modTl_kept | apply dumpSkip_kept | split
    | extract_lets | apply kept_mk

theorem execDumpRingDestroy_kept {s0 : State} {port : HostPort} {s : State} (hs : Kept s0 s) :
    KeptO s0 (execDumpRingDestroy port s) := by
  unfold execDumpRingDestroy
  repeat' with_reducible first
    | assumption | intro _ | apply keptO_next | apply keptO_ite | apply kept_ite | apply finishAdmin_kept
    | apply adminRun_kept | apply adminWait_kept | apply modRingD_kept | apply dumpEnd_kept | split | extract_lets
    | apply kept_mk

theorem dumpRecords_kept {s0 : State} {s : State} {r : Nat} {d : DumpRing} {x : Snap} {n : Nat} {e0 : Nat} {e1 : List
    DRec} (hs : Kept s0 s) :
    Kept s0 (dumpRecords s r d x n e0 e1) := by
  induction e1 generalizing s r d x n e0 hs with
  | nil =>
    unfold dumpRecords
    repeat' with_reducible first
      | assumption | intro _ | apply kept_ite | apply hostWrite_kept | split | extract_lets | apply kept_mk
  | cons hd tl ih =>
    unfold dumpRecords
    repeat' with_reducible first
      | assumption | intro _ | apply kept_ite | apply ih | apply hostWrite_kept | split | extract_lets
      | apply kept_mk

theorem dumpDone_kept {s0 : State} {s : State} {r : Nat} (hs : Kept s0 s) :
    Kept s0 (dumpDone s r) := by
  unfold dumpDone
  repeat' with_reducible first
    | assumption | intro _ | apply kept_ite | apply dropSys_kept | apply finishAdmin_kept | apply modRingD_kept
    | apply dumpEnd_kept | split | extract_lets | apply kept_mk

theorem dumpHead_kept {s0 : State} {s : State} {r : Nat} {d : DumpRing} {b : List Byte} (hs : Kept s0 s) :
    Kept s0 (dumpHead s r d b) := by
  unfold dumpHead
  repeat' with_reducible first
    | assumption | intro _ | apply kept_ite | apply raise_kept | apply headBad_kept | apply modRingD_kept | split
    | extract_lets | apply kept_mk

theorem dumpPut_kept {s0 : State} {s : State} {r : Nat} {x : Snap} (hs : Kept s0 s) :
    Kept s0 (dumpPut s r x) := by
  unfold dumpPut
  repeat' with_reducible first
    | assumption | intro _ | apply kept_ite | apply cadd_kept | apply leaveL1_kept | apply modTl_kept
    | apply modRingD_kept | apply dumpSkip_kept | apply dumpRecords_kept | apply dumpDone_kept | split
    | extract_lets | apply kept_mk

theorem execDumpWrite_kept {s0 : State} {ring : Fin 4097} {head : HostData} {s : State} (hs : Kept s0 s) :
    KeptO s0 (execDumpWrite ring head s) := by
  unfold execDumpWrite
  repeat' with_reducible first
    | assumption | intro _ | apply keptO_next | apply keptO_ite | apply kept_ite | apply hostRead_kept
    | apply takeRead_kept | apply leaveL1_kept | apply dumpSkip_kept | apply dumpDone_kept | apply dumpHead_kept
    | apply dumpPut_kept | split | extract_lets | apply kept_mk

end Sys2Proof.Machine
end

