-- ==== Sys2Proof/Laws/KeptDmaEnd.lean ====
section
/-! SUPPORT. What the operations of Machine/DmaEnd.lean keep (Safety.lean). -/
namespace Sys2Proof.Machine

theorem jobEnd_kept {s0 : State} {s : State} {uid : Nat} {err : Option Status} (hs : Kept s0 s) :
    Kept s0 (jobEnd s uid err) := by
  unfold jobEnd
  repeat' with_reducible first
    | assumption | intro _ | apply kept_ite | apply sendRead_kept | apply failJob_kept | apply txRead_kept
    | apply coreRead_kept | apply copyNext_kept | split | extract_lets | apply kept_mk

theorem rxFail_kept {s0 : State} {s : State} {uid : Nat} {st : Status} (hs : Kept s0 s) :
    Kept s0 (rxFail s uid st) := by
  unfold rxFail
  repeat' with_reducible first
    | assumption | intro _ | apply kept_ite | apply failJob_kept | split | extract_lets | apply kept_mk

theorem tellUnit_kept {s0 : State} {s : State} {k : XKind} {moved : Nat} {err : Option Status} (hs : Kept s0 s) :
    Kept s0 (tellUnit s k moved err) := by
  unfold tellUnit
  repeat' with_reducible first
    | assumption | intro _ | apply kept_ite | apply rxDone_kept | apply chReply_kept | apply packetWritten_kept
    | apply storEnd_kept | apply jobEnd_kept | apply rxFail_kept | split | extract_lets | apply kept_mk

theorem xferEnd_kept {s0 : State} {s : State} {x : Nat} {err : Option Status} (hs : Kept s0 s) :
    Kept s0 (xferEnd s x err) := by
  unfold xferEnd
  repeat' with_reducible first
    | assumption | intro _ | apply kept_ite | apply withdraw_kept | apply tellUnit_kept | split | extract_lets
    | apply kept_mk

theorem execDmaBurst_kept {s0 : State} {eng : Fin 16} {ch : Fin 64} {ecc : Ecc} {s : State} (hs : Kept s0 s) :
    KeptO s0 (execDmaBurst eng ch ecc s) := by
  unfold execDmaBurst
  repeat' with_reducible first
    | assumption | intro _ | apply keptI_done | apply keptI_wait | exact keptI_fault | exact keptI_lmLost
    | exact keptI_hold | apply keptO_next | apply keptO_ite | apply kept_ite | apply burst_kept
    | apply xferEnd_kept | refine kept_of_fst (by assumption) ?_ | split | extract_lets | apply kept_mk

theorem dropUnplaced_kept {s0 : State} {s : State} {p : Nat} (hs : Kept s0 s) :
    Kept s0 (dropUnplaced s p) := by
  unfold dropUnplaced
  repeat' with_reducible first
    | assumption | intro _ | apply kept_ite | apply kept_foldl | apply xferEnd_kept | split | extract_lets
    | apply kept_foldl_fst | apply kept_foldl_snd | apply kept_mk

theorem busError_kept {s0 : State} {s : State} {e : Nat} (hs : Kept s0 s) :
    Kept s0 (busError s e) := by
  unfold busError
  repeat' with_reducible first
    | assumption | intro _ | apply kept_ite | apply kept_foldl | apply cadd_kept | apply raise_kept
    | apply modEng_kept | apply offCheck_kept | apply xferEnd_kept | apply dropUnplaced_kept | split | extract_lets
    | apply kept_mk

theorem execDxBusErr_kept {s0 : State} {eng : Fin 16} {s : State} (hs : Kept s0 s) :
    KeptO s0 (execDxBusErr eng s) := by
  unfold execDxBusErr
  repeat' with_reducible first
    | assumption | intro _ | apply keptO_next | apply keptO_ite | apply kept_ite | apply busError_kept | split
    | extract_lets | apply kept_mk

theorem readFail_kept {s0 : State} {s : State} {r : RdReq} {st : Status} (hs : Kept s0 s) :
    Kept s0 (readFail s r st) := by
  unfold readFail
  repeat' with_reducible first
    | assumption | intro _ | apply kept_ite | apply cadd_kept | apply xferEnd_kept | split | extract_lets
    | apply kept_mk

theorem readData_kept {s0 : State} {s : State} {r : RdReq} {b : List Byte} (hs : Kept s0 s) :
    Kept s0 (readData s r b) := by
  unfold readData
  repeat' with_reducible first
    | assumption | intro _ | apply kept_ite | apply cadd_kept | apply storeWrite_kept | apply xferEnd_kept | split
    | extract_lets | apply kept_mk

theorem execDmaReadCompletion_kept {s0 : State} {port : HostPort} {tag : Fin 16384} {data : HostData} {astray : Bool}
    {s : State} (hs : Kept s0 s) :
    KeptO s0 (execDmaReadCompletion port tag data astray s) := by
  unfold execDmaReadCompletion
  repeat' with_reducible first
    | assumption | intro _ | apply keptO_next | apply keptO_ite | apply kept_ite | apply cadd_kept | apply aer_kept
    | apply busError_kept | apply readFail_kept | apply readData_kept | split | extract_lets | apply kept_mk

theorem after_kept {s0 : State} {o : Host.Outcome State Fault Refusal} {s : State} (ho : KeptO s0 o) (hs : Kept s0 s) :
    Kept s0 (after o s) := by
  unfold after
  split
  · exact ho
  · exact hs

theorem readLost_kept {s0 : State} {s : State} {w : ReadRef} (hs : Kept s0 s) :
    Kept s0 (readLost s w) := by
  unfold readLost
  repeat' with_reducible first
    | assumption | intro _ | apply kept_ite | apply headRead_kept | apply doorbellRead_kept | apply ringRead_kept
    | apply imageRead_kept | apply attachRead_kept | apply mbRun_kept | apply dumpSkip_kept | apply dumpDone_kept
    | split | extract_lets | apply kept_mk

theorem readGone_kept {s0 : State} {s : State} {p : Nat} {tag : Nat} {w : ReadRef} (hs : Kept s0 s) :
    Kept s0 (readGone s p tag w) := by
  unfold readGone
  repeat' with_reducible first
    | assumption | intro _ | apply kept_ite | apply readFail_kept | apply readLost_kept | split | extract_lets
    | apply kept_mk

theorem execCplTimeout_kept {s0 : State} {port : HostPort} {tag : Fin 16384} {what : ReadRef} {s : State} (hs : Kept
    s0 s) :
    KeptO s0 (execCplTimeout port tag what s) := by
  unfold execCplTimeout
  repeat' with_reducible first
    | assumption | intro _ | apply keptO_next | apply keptO_ite | apply kept_ite | apply raise_kept
    | apply modHp_kept | apply aer_kept | apply readGone_kept | split | extract_lets | apply kept_mk

theorem coreMove_kept {s0 : State} {s : State} {m : Msg} {toHost : Bool} (hs : Kept s0 s) :
    Kept s0 (coreMove s m toHost) := by
  unfold coreMove
  repeat' with_reducible first
    | assumption | intro _ | apply kept_ite | apply startXfer_kept | apply msgAnswer_kept | split | extract_lets
    | apply kept_mk

theorem execWriteHost_kept {s0 : State} {core : CoreId} {thread : ThreadId} {s : State} (hs : Kept s0 s) :
    KeptO s0 (execWriteHost core thread s) := by
  unfold execWriteHost
  repeat' with_reducible first
    | assumption | intro _ | apply keptO_next | apply keptO_ite | apply kept_ite | apply msgRun_kept
    | apply coreMove_kept | split | extract_lets | apply kept_mk

theorem execReadHost_kept {s0 : State} {core : CoreId} {thread : ThreadId} {s : State} (hs : Kept s0 s) :
    KeptO s0 (execReadHost core thread s) := by
  unfold execReadHost
  repeat' with_reducible first
    | assumption | intro _ | apply keptO_next | apply keptO_ite | apply kept_ite | apply msgRun_kept
    | apply coreMove_kept | split | extract_lets | apply kept_mk

theorem staleCore_kept {s0 : State} {s : State} {x : Nat} (hs : Kept s0 s) :
    Kept s0 (staleCore s x) := by
  unfold staleCore
  repeat' with_reducible first
    | assumption | intro _ | apply kept_ite | apply xferEnd_kept | split | extract_lets | apply kept_mk

theorem execFrameTxStart_kept {s0 : State} {port : NetPort} {ecc : Ecc} {s : State} (hs : Kept s0 s) :
    KeptO s0 (execFrameTxStart port ecc s) := by
  unfold execFrameTxStart
  repeat' with_reducible first
    | assumption | intro _ | apply keptO_next | apply keptO_ite | apply kept_ite | apply kept_foldl
    | apply txStart_kept | apply plan_kept | split | extract_lets | apply kept_foldl_fst | apply kept_foldl_snd
    | apply kept_mk

theorem execFrameTxEnd_kept {s0 : State} {port : NetPort} {s : State} (hs : Kept s0 s) :
    KeptO s0 (execFrameTxEnd port s) := by
  unfold execFrameTxEnd
  repeat' with_reducible first
    | assumption | intro _ | apply keptO_next | apply keptO_ite | apply kept_ite | apply txEnd_kept | split
    | extract_lets | apply kept_mk

end Sys2Proof.Machine
end

