-- ==== Sys2Proof/Laws/KeptEpoch.lean ====
section
/-! SUPPORT. What the operations of Machine/Epoch.lean keep (Safety.lean). -/
namespace Sys2Proof.Machine

theorem beaconOn_kept {s0 : State} {s : State} {seq : Nat} {p : Nat} (hs : Kept s0 s) :
    Kept s0 (beaconOn s seq p) := by
  unfold beaconOn
  repeat' with_reducible first
    | assumption | intro _ | apply kept_ite | apply sendPtp_kept | split | extract_lets | apply kept_mk

theorem beacons_kept {s0 : State} {s : State} {n : Nat} (hs : Kept s0 s) :
    Kept s0 (beacons s n) := by
  unfold beacons
  repeat' with_reducible first
    | assumption | intro _ | apply kept_ite | apply kept_foldl | apply modFt_kept | apply beaconOn_kept | split
    | extract_lets | apply kept_mk

theorem ptmStart_kept {s0 : State} {s : State} {n : Nat} (hs : Kept s0 s) :
    Kept s0 (ptmStart s n) := by
  unfold ptmStart
  repeat' with_reducible first
    | assumption | intro _ | apply kept_ite | apply kept_foldl | apply modFt_kept | split | extract_lets
    | apply kept_mk

theorem slotStep_kept {s0 : State} {s : State} {n : Nat} (hs : Kept s0 s) :
    Kept s0 (slotStep s n) := by
  unfold slotStep
  repeat' with_reducible first
    | assumption | intro _ | apply kept_ite | apply kept_foldl | apply modSlot_kept | apply freeSlot_kept | split
    | extract_lets | apply kept_foldl_fst | apply kept_foldl_snd | apply kept_mk

theorem rebuild_kept {s0 : State} {s : State} {c : Nat} {k : Core} (hs : Kept s0 s) :
    Kept s0 (rebuild s c k) := by
  unfold rebuild
  repeat' with_reducible first
    | assumption | intro _ | apply kept_ite | apply bumpFree_kept | apply modCore_kept | split | extract_lets
    | apply kept_mk

theorem rebuildAll_kept {s0 : State} {s : State} (hs : Kept s0 s) :
    Kept s0 (rebuildAll s) := by
  unfold rebuildAll
  repeat' with_reducible first
    | assumption | intro _ | apply kept_ite | apply kept_foldl | apply rebuild_kept | split | extract_lets
    | apply kept_foldl_fst | apply kept_foldl_snd | apply kept_mk

theorem freshEpoch_kept {s0 : State} {s : State} (hs : Kept s0 s) :
    Kept s0 (freshEpoch s) := by
  unfold freshEpoch
  repeat' with_reducible first
    | assumption | intro _ | apply kept_ite | apply modCoop_kept | apply modLk_kept | split | extract_lets
    | apply kept_mk

theorem pulseLatch_kept {s0 : State} {s : State} {n : Nat} (hs : Kept s0 s) :
    Kept s0 (pulseLatch s n) := by
  unfold pulseLatch
  repeat' with_reducible first
    | assumption | intro _ | apply kept_ite | apply snapshot_kept | apply snapEdge_kept | split | extract_lets
    | apply kept_mk

theorem pulseWork_kept {s0 : State} {s : State} {n : Nat} (hs : Kept s0 s) :
    Kept s0 (pulseWork s n) := by
  unfold pulseWork
  repeat' with_reducible first
    | assumption | intro _ | apply kept_ite | apply beacons_kept | apply ptmStart_kept | apply slotStep_kept
    | apply rebuildAll_kept | split | extract_lets | apply kept_mk

theorem pulseEdge_kept {s0 : State} {s : State} {distFault : Bool} (hs : Kept s0 s) :
    Kept s0 (pulseEdge s distFault) := by
  unfold pulseEdge
  repeat' with_reducible first
    | assumption | intro _ | apply kept_ite | apply contain_kept | apply modFt_kept | apply freshEpoch_kept
    | apply pulseLatch_kept | apply pulseWork_kept | split | extract_lets | apply kept_mk

theorem slotCharge_kept {s0 : State} {s : State} {n : Nat} {c : Nat} (hs : Kept s0 s) :
    Kept s0 (slotCharge s n c) := by
  unfold slotCharge
  repeat' with_reducible first
    | assumption | intro _ | apply kept_ite | apply cadd_kept | apply modCore_kept | apply pmc_kept | split
    | extract_lets | apply kept_mk

theorem slotAccount_kept {s0 : State} {s : State} (hs : Kept s0 s) :
    Kept s0 (slotAccount s) := by
  unfold slotAccount
  repeat' with_reducible first
    | assumption | intro _ | apply kept_ite | apply kept_foldl | apply slotCharge_kept | split | extract_lets
    | apply kept_foldl_fst | apply kept_foldl_snd | apply kept_mk

theorem runArmed_kept {s0 : State} {s : State} {a : ArmKind × Nat} (hs : Kept s0 s) :
    Kept s0 (runArmed s a) := by
  unfold runArmed
  repeat' with_reducible first
    | assumption | intro _ | apply kept_ite | apply keyEdge_kept | apply calEdge_kept | apply rsEdge_kept
    | apply snapEdge_kept | split | extract_lets | apply kept_mk

theorem edgeWork_kept {s0 : State} {s : State} {distFault : Bool} (hs : Kept s0 s) :
    Kept s0 (edgeWork s distFault) := by
  unfold edgeWork
  repeat' with_reducible first
    | assumption | intro _ | apply kept_ite | apply kept_foldl | apply fwTick_kept | apply gateEdge_kept
    | apply slEdge_kept | apply sealEdge_kept | apply paceEdge_kept | apply sxEdge_kept | apply mbServe_kept
    | apply pulseEdge_kept | apply slotAccount_kept | apply runArmed_kept | split | extract_lets
    | apply kept_foldl_fst | apply kept_foldl_snd | apply kept_mk

/-- A tick moves the time by one PCLK, and keeps the queue, the memories, the generations and the fuses. -/
theorem tick_kept {s0 : State} {s : State} (hs : Kept s0 s) : Kept { s0 with clk := s0.clk + 625 } (tick s) := by
  unfold tick
  split
  · exact advanceTime_kept hs
  · exact edgeWork_kept (advanceTime_kept hs)

/-- The command of an edge does its work, or lets the PCLK pass, or leaves the state. -/
theorem edgeCommand_keptE {s0 : State} {s : State} {due : State → Bool} {work : State → State} {distFault : Bool}
    (hs : Kept s0 s) (hwork : ∀ x, Kept s0 x → Kept s0 (work x)) : KeptE s0 (edgeCommand s due work distFault) := by
  unfold edgeCommand
  split
  · exact .inl hs
  · split
    · exact .inl (hwork s hs)
    · split
      · exact .inr (edgeWork_kept (advanceTime_kept hs))
      · exact .inl hs

theorem execEpochPulse_keptE {s0 : State} {distFault : Bool} {s : State} (hs : Kept s0 s) :
    KeptEO s0 (execEpochPulse distFault s) :=
  edgeCommand_keptE hs fun _ hx => pulseEdge_kept hx

theorem execRulesetActivationEdge_keptE {s0 : State} {slot : Fin 4} {s : State} (hs : Kept s0 s) :
    KeptEO s0 (execRulesetActivationEdge slot s) :=
  edgeCommand_keptE hs fun _ hx => rsEdge_kept hx

theorem execCalSwap_keptE {s0 : State} {port : NetPort} {s : State} (hs : Kept s0 s) :
    KeptEO s0 (execCalSwap port s) :=
  edgeCommand_keptE hs fun _ hx => calEdge_kept hx

theorem execKeyRolloverEdge_keptE {s0 : State} {ctx : Fin 4194304} {s : State} (hs : Kept s0 s) :
    KeptEO s0 (execKeyRolloverEdge ctx s) :=
  edgeCommand_keptE hs fun _ hx => keyEdge_kept hx

theorem execSnapshotScheduleEdge_keptE {s0 : State} {s : State} (hs : Kept s0 s) :
    KeptEO s0 (execSnapshotScheduleEdge s) :=
  edgeCommand_keptE hs fun _ hx => snapEdge_kept hx

end Sys2Proof.Machine
end

