-- ==== Sys2Proof/Laws/KeptJobStart.lean ====
section
/-! SUPPORT. What the operations of Machine/JobStart.lean keep (Safety.lean). -/
namespace Sys2Proof.Machine

theorem startAdmin_kept {s0 : State} {s : State} {p : Nat} {q : Sq} (hs : Kept s0 s) :
    Kept s0 (startAdmin s p q) := by
  unfold startAdmin
  repeat' with_reducible first
    | assumption | intro _ | apply kept_ite | apply modHp_kept | apply finishAdmin_kept | apply modSq_kept | split
    | extract_lets | apply kept_mk

theorem startJob_kept {s0 : State} {s : State} {i : Nat} {q : Sq} (hs : Kept s0 s) :
    Kept s0 (startJob s i q) := by
  unfold startJob
  repeat' with_reducible first
    | assumption | intro _ | apply kept_ite | apply finishJob_kept | apply modSq_kept | apply settleSq_kept | split
    | extract_lets | apply kept_mk

theorem execJobStart_kept {s0 : State} {sq : Nat} {s : State} (hs : Kept s0 s) :
    KeptO s0 (execJobStart sq s) := by
  unfold execJobStart
  repeat' with_reducible first
    | assumption | intro _ | apply keptO_next | apply keptO_ite | apply kept_ite | apply startAdmin_kept
    | apply startJob_kept | split | extract_lets | apply kept_mk

end Sys2Proof.Machine
end

