-- ==== Sys2Proof/Laws/KeptTeardown.lean ====
section
/-! SUPPORT. What the operations of Machine/Teardown.lean keep (Safety.lean). -/
namespace Sys2Proof.Machine

theorem endQueues_kept {s0 : State} {s : State} {p : Nat} {owner : Option Nat} (hs : Kept s0 s) :
    Kept s0 (endQueues s p owner) := by
  unfold endQueues
  repeat' with_reducible first
    | assumption | intro _ | apply kept_ite | apply kept_foldl | apply endSq_kept | apply endCq_kept
    | apply endEq_kept | split | extract_lets | apply kept_foldl_fst | apply kept_foldl_snd | apply kept_mk

theorem endWindows_kept {s0 : State} {s : State} {p : Nat} {t : Nat} (hs : Kept s0 s) :
    Kept s0 (endWindows s p t) := by
  unfold endWindows
  repeat' with_reducible first
    | assumption | intro _ | apply kept_ite | apply kept_foldl | apply advGen_kept | apply modHp_kept | split
    | extract_lets | apply kept_mk

theorem endCtx_kept {s0 : State} {s : State} {i : Nat} (hs : Kept s0 s) :
    Kept s0 (endCtx s i) := by
  unfold endCtx
  repeat' with_reducible first
    | assumption | intro _ | apply kept_ite | apply kept_foldl | apply finishAdmin_kept | apply freeCtx_kept
    | split | extract_lets | apply kept_mk

theorem endCtxs_kept {s0 : State} {s : State} {mine : Ctx → Bool} (hs : Kept s0 s) :
    Kept s0 (endCtxs s mine) := by
  unfold endCtxs
  repeat' with_reducible first
    | assumption | intro _ | apply kept_ite | apply kept_foldl | apply endCtx_kept | split | extract_lets
    | apply kept_foldl_fst | apply kept_foldl_snd | apply kept_mk

theorem endFrames_kept {s0 : State} {s : State} {t : Nat} (hs : Kept s0 s) :
    Kept s0 (endFrames s t) := by
  unfold endFrames
  repeat' with_reducible first
    | assumption | intro _ | apply kept_ite | apply kept_foldl | apply devFree_kept | split | extract_lets
    | apply kept_mk

theorem tenantEnd_kept {s0 : State} {s : State} {t : Nat} {x : Tenant} (hs : Kept s0 s) :
    Kept s0 (tenantEnd s t x) := by
  unfold tenantEnd
  repeat' with_reducible first
    | assumption | intro _ | apply kept_ite | apply kept_foldl | apply advGen_kept | apply connEnd_kept
    | apply staleCore_kept | apply endQueues_kept | apply endWindows_kept | apply endFrames_kept | split
    | extract_lets | apply kept_foldl_fst | apply kept_foldl_snd | apply kept_mk

theorem tenantStop_kept {s0 : State} {s : State} {t : Nat} {disable : Bool} {waiter : Option Nat} (hs : Kept s0 s) :
    Kept s0 (tenantStop s t disable waiter) := by
  unfold tenantStop
  repeat' with_reducible first
    | assumption | intro _ | apply kept_ite | apply modTen_kept | apply endCtxs_kept | apply tenantEnd_kept | split
    | extract_lets | apply kept_mk

theorem idleEnds_kept {s0 : State} {s : State} {p : Nat} {disable : Bool} (hs : Kept s0 s) :
    Kept s0 (idleEnds s p disable) := by
  unfold idleEnds
  repeat' with_reducible first
    | assumption | intro _ | apply kept_ite | apply kept_foldl | apply connEnd_kept | apply endQueues_kept
    | apply endWindows_kept | apply endCtxs_kept | split | extract_lets | apply kept_foldl_fst
    | apply kept_foldl_snd | apply kept_mk

theorem tenantsStop_kept {s0 : State} {s : State} {p : Nat} {disable : Bool} (hs : Kept s0 s) :
    Kept s0 (tenantsStop s p disable) := by
  unfold tenantsStop
  repeat' with_reducible first
    | assumption | intro _ | apply kept_ite | apply kept_foldl | apply raise_kept | apply tenantStop_kept | split
    | extract_lets | apply kept_foldl_fst | apply kept_foldl_snd | apply kept_mk

theorem fenceEnd_kept {s0 : State} {s : State} {t : Nat} {x : Tenant} {cancelled : Nat} (hs : Kept s0 s) :
    Kept s0 (fenceEnd s t x cancelled) := by
  unfold fenceEnd
  repeat' with_reducible first
    | assumption | intro _ | apply kept_ite | apply finishAdmin_kept | apply modTen_kept | split | extract_lets
    | apply kept_mk

theorem fenceTimeout_kept {s0 : State} {s : State} {t : Nat} (hs : Kept s0 s) :
    Kept s0 (fenceTimeout s t) := by
  unfold fenceTimeout
  repeat' with_reducible first
    | assumption | intro _ | apply kept_ite | apply kept_foldl | apply cadd_kept | apply raise_kept
    | apply cancelJob_kept | apply cancelReqs_kept | apply fenceEnd_kept | split | extract_lets | apply kept_mk

theorem execTenantFenceEnd_kept {s0 : State} {tenant : TenantId} {s : State} (hs : Kept s0 s) :
    KeptO s0 (execTenantFenceEnd tenant s) := by
  unfold execTenantFenceEnd
  repeat' with_reducible first
    | assumption | intro _ | apply keptO_next | apply keptO_ite | apply kept_ite | apply fenceEnd_kept | split
    | extract_lets | apply kept_mk

theorem execTnFenceTimeout_kept {s0 : State} {tenant : TenantId} {s : State} (hs : Kept s0 s) :
    KeptO s0 (execTnFenceTimeout tenant s) := by
  unfold execTnFenceTimeout
  repeat' with_reducible first
    | assumption | intro _ | apply keptO_next | apply keptO_ite | apply kept_ite | apply fenceTimeout_kept | split
    | extract_lets | apply kept_mk

theorem tenantCmd_kept {s0 : State} {s : State} {p : Nat} {e : Entry} {disable : Bool} (hs : Kept s0 s) :
    Kept s0 (tenantCmd s p e disable) := by
  unfold tenantCmd
  repeat' with_reducible first
    | assumption | intro _ | apply kept_ite | apply finishAdmin_kept | apply adminWait_kept | apply tenantStop_kept
    | split | extract_lets | apply kept_mk

theorem execTenantDisable_kept {s0 : State} {port : HostPort} {s : State} (hs : Kept s0 s) :
    KeptO s0 (execTenantDisable port s) := by
  unfold execTenantDisable
  repeat' with_reducible first
    | assumption | intro _ | apply keptO_next | apply keptO_ite | apply kept_ite | apply adminRun_kept
    | apply tenantCmd_kept | split | extract_lets | apply kept_mk

theorem execTenantReset_kept {s0 : State} {port : HostPort} {s : State} (hs : Kept s0 s) :
    KeptO s0 (execTenantReset port s) := by
  unfold execTenantReset
  repeat' with_reducible first
    | assumption | intro _ | apply keptO_next | apply keptO_ite | apply kept_ite | apply adminRun_kept
    | apply tenantCmd_kept | split | extract_lets | apply kept_mk

theorem tenantFree_kept {s0 : State} {s : State} {t : Nat} {x : Tenant} (hs : Kept s0 s) :
    Kept s0 (tenantFree s t x) := by
  unfold tenantFree
  repeat' with_reducible first
    | assumption | intro _ | apply kept_ite | apply kept_foldl | apply modCoop_kept | apply devFree_kept
    | apply cacheReturn_kept | apply attFree_kept | apply dumpEnd_kept | apply endCtxs_kept | apply tenantEnd_kept
    | split | extract_lets | apply kept_foldl_fst | apply kept_foldl_snd | apply kept_mk

theorem execTenantDestroy_kept {s0 : State} {port : HostPort} {s : State} (hs : Kept s0 s) :
    KeptO s0 (execTenantDestroy port s) := by
  unfold execTenantDestroy
  repeat' with_reducible first
    | assumption | intro _ | apply keptO_next | apply keptO_ite | apply kept_ite | apply finishAdmin_kept
    | apply adminRun_kept | apply tenantFree_kept | split | extract_lets | apply kept_mk

theorem endAdmin_kept {s0 : State} {s : State} {p : Nat} (hs : Kept s0 s) :
    Kept s0 (endAdmin s p) := by
  unfold endAdmin
  repeat' with_reducible first
    | assumption | intro _ | apply kept_ite | apply wr_kept | apply modHp_kept | apply finishAdmin_kept
    | apply freeSlot_kept | apply attach_kept | split | extract_lets | apply kept_mk

theorem endDeviceRing_kept {s0 : State} {s : State} (hs : Kept s0 s) :
    Kept s0 (endDeviceRing s) := by
  unfold endDeviceRing
  repeat' with_reducible first
    | assumption | intro _ | apply kept_ite | apply finishAdmin_kept | apply dumpEnd_kept | split | extract_lets
    | apply kept_mk

theorem dropRequests_kept {s0 : State} {s : State} {p : Nat} {f : Fn} (hs : Kept s0 s) :
    Kept s0 (dropRequests s p f) := by
  unfold dropRequests
  repeat' with_reducible first
    | assumption | intro _ | apply kept_ite | apply kept_foldl | apply dropSys_kept | apply readLost_kept | split
    | extract_lets | apply kept_foldl_fst | apply kept_foldl_snd | apply kept_mk

theorem endPf0Xfers_kept {s0 : State} {s : State} {p : Nat} (hs : Kept s0 s) :
    Kept s0 (endPf0Xfers s p) := by
  unfold endPf0Xfers
  repeat' with_reducible first
    | assumption | intro _ | apply kept_ite | apply kept_foldl | apply xferEnd_kept | split | extract_lets
    | apply kept_foldl_fst | apply kept_foldl_snd | apply kept_mk

theorem endPf0_kept {s0 : State} {s : State} {p : Nat} (hs : Kept s0 s) :
    Kept s0 (endPf0 s p) := by
  unfold endPf0
  repeat' with_reducible first
    | assumption | intro _ | apply kept_ite | apply endQueues_kept | apply endCtxs_kept | apply endAdmin_kept
    | apply endDeviceRing_kept | apply dropRequests_kept | apply endPf0Xfers_kept | split | extract_lets
    | apply kept_mk

theorem mbReset_kept {s0 : State} {s : State} {p : Nat} (hs : Kept s0 s) :
    Kept s0 (mbReset s p) := by
  unfold mbReset
  repeat' with_reducible first
    | assumption | intro _ | apply kept_ite | apply raiseOnce_kept | apply modMb_kept | split | extract_lets
    | apply kept_mk

theorem dropLatches_kept {s0 : State} {s : State} {p : Nat} {f : Fn} (hs : Kept s0 s) :
    Kept s0 (dropLatches s p f) := by
  unfold dropLatches
  repeat' with_reducible first
    | assumption | intro _ | apply kept_ite | split | extract_lets | apply kept_mk

theorem resetOwn_kept {s0 : State} {s : State} {p : Nat} (hs : Kept s0 s) :
    Kept s0 (resetOwn s p) := by
  unfold resetOwn
  repeat' with_reducible first
    | assumption | intro _ | apply kept_ite | apply kept_foldl | apply advGen_kept | apply modHp_kept
    | apply engReset_kept | apply mbReset_kept | split | extract_lets | apply kept_mk

theorem startDrain_kept {s0 : State} {s : State} {p : Nat} {f : Fn} (hs : Kept s0 s) :
    Kept s0 (startDrain s p f) := by
  unfold startDrain
  repeat' with_reducible first
    | assumption | intro _ | apply kept_ite | apply modFn_kept | split | extract_lets | apply kept_mk

theorem portReset_kept {s0 : State} {s : State} {p : Nat} (hs : Kept s0 s) :
    Kept s0 (portReset s p) := by
  unfold portReset
  repeat' with_reducible first
    | assumption | intro _ | apply kept_ite | apply modHp_kept | apply idleEnds_kept | apply tenantsStop_kept
    | apply dropRequests_kept | apply endPf0_kept | apply dropLatches_kept | apply resetOwn_kept
    | apply startDrain_kept | split | extract_lets | apply kept_mk

theorem execPerstAssert_kept {s0 : State} {port : HostPort} {s : State} (hs : Kept s0 s) :
    KeptO s0 (execPerstAssert port s) := by
  unfold execPerstAssert
  repeat' with_reducible first
    | assumption | intro _ | apply keptO_next | apply keptO_ite | apply kept_ite | apply wr_kept | apply modHp_kept
    | apply portReset_kept | split | extract_lets | apply kept_mk

theorem execHotReset_kept {s0 : State} {port : HostPort} {s : State} (hs : Kept s0 s) :
    KeptO s0 (execHotReset port s) := by
  unfold execHotReset
  repeat' with_reducible first
    | assumption | intro _ | apply keptO_next | apply keptO_ite | apply kept_ite | apply wr_kept | apply modHp_kept
    | apply portReset_kept | split | extract_lets | apply kept_mk

theorem execLinkDown_kept {s0 : State} {port : HostPort} {s : State} (hs : Kept s0 s) :
    KeptO s0 (execLinkDown port s) := by
  unfold execLinkDown
  repeat' with_reducible first
    | assumption | intro _ | apply keptO_next | apply keptO_ite | apply kept_ite | apply wr_kept | apply raise_kept
    | apply modHp_kept | apply portReset_kept | split | extract_lets | apply kept_mk

theorem execFlrPf0_kept {s0 : State} {port : HostPort} {s : State} (hs : Kept s0 s) :
    KeptO s0 (execFlrPf0 port s) := by
  unfold execFlrPf0
  repeat' with_reducible first
    | assumption | intro _ | apply keptO_next | apply keptO_ite | apply kept_ite | apply wr_kept | apply modFn_kept
    | apply cfgGate_kept | apply intaUpdate_kept | apply idleEnds_kept | apply tenantsStop_kept | apply endPf0_kept
    | apply dropLatches_kept | apply resetOwn_kept | apply startDrain_kept | split | extract_lets | apply kept_mk

theorem endPf1_kept {s0 : State} {s : State} {p : Nat} (hs : Kept s0 s) :
    Kept s0 (endPf1 s p) := by
  unfold endPf1
  repeat' with_reducible first
    | assumption | intro _ | apply kept_ite | apply idleEnds_kept | apply tenantsStop_kept
    | apply dropRequests_kept | split | extract_lets | apply kept_mk

theorem execFlrPf1_kept {s0 : State} {port : HostPort} {s : State} (hs : Kept s0 s) :
    KeptO s0 (execFlrPf1 port s) := by
  unfold execFlrPf1
  repeat' with_reducible first
    | assumption | intro _ | apply keptO_next | apply keptO_ite | apply kept_ite | apply wr_kept | apply modFn_kept
    | apply cfgGate_kept | apply dropLatches_kept | apply startDrain_kept | apply endPf1_kept | split
    | extract_lets | apply kept_mk

theorem execBmeClear_kept {s0 : State} {port : HostPort} {fn : Fn} {s : State} (hs : Kept s0 s) :
    KeptO s0 (execBmeClear port fn s) := by
  unfold execBmeClear
  repeat' with_reducible first
    | assumption | intro _ | apply keptO_next | apply keptO_ite | apply kept_ite | apply wr_kept | apply modFn_kept
    | apply cfgGate_kept | apply endPf0_kept | apply startDrain_kept | apply endPf1_kept | split | extract_lets
    | apply kept_mk

theorem execPasidEnableClear_kept {s0 : State} {port : HostPort} {s : State} (hs : Kept s0 s) :
    KeptO s0 (execPasidEnableClear port s) := by
  unfold execPasidEnableClear
  repeat' with_reducible first
    | assumption | intro _ | apply keptO_next | apply keptO_ite | apply kept_ite | apply modFn_kept
    | apply cfgGate_kept | apply tenantsStop_kept | split | extract_lets | apply kept_mk

theorem execFunctionDrainTimeout_kept {s0 : State} {port : HostPort} {fn : Fn} {s : State} (hs : Kept s0 s) :
    KeptO s0 (execFunctionDrainTimeout port fn s) := by
  unfold execFunctionDrainTimeout
  repeat' with_reducible first
    | assumption | intro _ | apply keptO_next | apply keptO_ite | apply kept_ite | apply kept_foldl
    | apply modFn_kept | apply cancelJob_kept | apply fenceTimeout_kept | split | extract_lets
    | apply kept_foldl_fst | apply kept_foldl_snd | apply kept_mk

end Sys2Proof.Machine
end

