-- ==== Sys2Proof/Laws/KeptTenants.lean ====
section
/-! SUPPORT. What the operations of Machine/Tenants.lean keep (Safety.lean). -/
namespace Sys2Proof.Machine

theorem zeroTenantCounters_kept {s0 : State} {s : State} {t : Nat} (hs : Kept s0 s) :
    Kept s0 (zeroTenantCounters s t) := by
  unfold zeroTenantCounters
  repeat' with_reducible first
    | assumption | intro _ | apply kept_ite | split | extract_lets | apply kept_mk

theorem tenantCreate_kept {s0 : State} {s : State} {p : Nat} {e : Entry} (hs : Kept s0 s) :
    Kept s0 (tenantCreate s p e) := by
  unfold tenantCreate
  repeat' with_reducible first
    | assumption | intro _ | apply kept_ite | apply finishAdmin_kept | apply zeroTenantCounters_kept | split
    | extract_lets | apply kept_mk

theorem execTenantCreate_kept {s0 : State} {port : HostPort} {s : State} (hs : Kept s0 s) :
    KeptO s0 (execTenantCreate port s) := by
  unfold execTenantCreate
  repeat' with_reducible first
    | assumption | intro _ | apply keptO_next | apply keptO_ite | apply kept_ite | apply adminRun_kept
    | apply tenantCreate_kept | split | extract_lets | apply kept_mk

theorem execTenantConfig_kept {s0 : State} {port : HostPort} {s : State} (hs : Kept s0 s) :
    KeptO s0 (execTenantConfig port s) := by
  unfold execTenantConfig
  repeat' with_reducible first
    | assumption | intro _ | apply keptO_next | apply keptO_ite | apply kept_ite | apply finishAdmin_kept
    | apply adminRun_kept | apply modTen_kept | split | extract_lets | apply kept_mk

theorem execTenantEnable_kept {s0 : State} {port : HostPort} {s : State} (hs : Kept s0 s) :
    KeptO s0 (execTenantEnable port s) := by
  unfold execTenantEnable
  repeat' with_reducible first
    | assumption | intro _ | apply keptO_next | apply keptO_ite | apply kept_ite | apply finishAdmin_kept
    | apply adminRun_kept | apply modTen_kept | split | extract_lets | apply kept_mk

end Sys2Proof.Machine
end

