-- ==== Sys2Proof/Laws/Commands.lean ====
section
/-! SUPPORT. What every command keeps, said of exec: the queue, the time, the canonical memories, the generations and
the anti-rollback counters; and that it answers a next state. -/
namespace Sys2Proof.Machine

/-- What a command keeps, that of an edge or another. -/
def KeptX (s : State) (o : Host.Outcome State Fault Refusal) : Bool → Prop
  | true => KeptEO s o
  | false => KeptO s o

/-- Every command answers a next state that keeps the queue, the time (one PCLK may pass at an edge), the canonical memories,
the generations and the anti-rollback counters. -/
theorem exec_keptX (i : Instr) {s0 s : State} (hs : Kept s0 s) : KeptX s0 (exec i s) (isEdge i) :=
  match i with
  | .regWrite _ _ _ _ _ _ _ => execRegWrite_kept hs
  | .regAccessOversize _ _ => execRegAccessOversize_kept hs
  | .reg64LowRead _ _ _ _ => execReg64LowRead_kept hs
  | .ftNowRead _ => execFtNowRead_kept hs
  | .ftEpochRead _ => execFtEpochRead_kept hs
  | .ftEnable _ => execFtEnable_kept hs
  | .ftEnableClear _ => execFtEnableClear_kept hs
  | .restart _ => execRestart_kept hs
  | .todArm _ => execTodArm_kept hs
  | .ppsEdge _ => execPpsEdge_kept hs
  | .syncRx _ _ _ _ _ => execSyncRx_kept hs
  | .followUpRx _ _ _ _ => execFollowUpRx_kept hs
  | .delayReqRx _ _ _ _ => execDelayReqRx_kept hs
  | .delayRespRx _ _ _ _ => execDelayRespRx_kept hs
  | .pdelayReqRx _ _ _ _ => execPdelayReqRx_kept hs
  | .pdelayRespRx _ _ _ _ _ _ => execPdelayRespRx_kept hs
  | .pdelayRespFollowUpRx _ _ _ _ => execPdelayRespFollowUpRx_kept hs
  | .signalingRx _ _ _ _ => execSignalingRx_kept hs
  | .refLossExpire => execRefLossExpire_kept hs
  | .ppsLossExpire => execPpsLossExpire_kept hs
  | .beaconLossExpire => execBeaconLossExpire_kept hs
  | .ftHoldoverLong => execFtHoldoverLong_kept hs
  | .epochPulse _ => execEpochPulse_keptE hs
  | .ptmDialogueEnd _ _ => execPtmDialogueEnd_kept hs
  | .peerWrite _ _ _ _ _ => execPeerWrite_kept hs
  | .peerRead _ _ _ _ _ => execPeerRead_kept hs
  | .winCommit _ => execWinCommit_kept hs
  | .winCheckEnd _ => execWinCheckEnd_kept hs
  | .winSwap _ => execWinSwap_kept hs
  | .winCopyEnd _ => execWinCopyEnd_kept hs
  | .tenantWindowsClear _ => execTenantWindowsClear_kept hs
  | .perstAssert _ => execPerstAssert_kept hs
  | .perstRelease _ => execPerstRelease_kept hs
  | .hotReset _ => execHotReset_kept hs
  | .linkDown _ => execLinkDown_kept hs
  | .hostLinkTrained _ _ _ _ => execHostLinkTrained_kept hs
  | .noFlitRetry _ => execNoFlitRetry_kept hs
  | .portReady _ => execPortReady_kept hs
  | .flrPf0 _ => execFlrPf0_kept hs
  | .flrPf1 _ => execFlrPf1_kept hs
  | .flrComplete _ _ => execFlrComplete_kept hs
  | .bmeClear _ _ => execBmeClear_kept hs
  | .pasidEnableClear _ => execPasidEnableClear_kept hs
  | .functionDrainEnd _ _ => execFunctionDrainEnd_kept hs
  | .functionDrainTimeout _ _ => execFunctionDrainTimeout_kept hs
  | .d3hotEntry _ _ => execD3hotEntry_kept hs
  | .d0Return _ _ => execD0Return_kept hs
  | .cplTimeout _ _ _ => execCplTimeout_kept hs
  | .lateCpl _ _ => execLateCpl_kept hs
  | .tagRelease _ _ => execTagRelease_kept hs
  | .msixUnmask _ _ _ => execMsixUnmask_kept hs
  | .interruptControlWrite _ _ _ => execInterruptControlWrite_kept hs
  | .lkAlertClear _ _ => execLkAlertClear_kept hs
  | .aqEnable _ => execAqEnable_kept hs
  | .aqDisable _ => execAqDisable_kept hs
  | .nop _ => execNop_kept hs
  | .createSq _ => execCreateSq_kept hs
  | .destroySq _ => execDestroySq_kept hs
  | .createCq _ => execCreateCq_kept hs
  | .destroyCq _ => execDestroyCq_kept hs
  | .createEq _ => execCreateEq_kept hs
  | .destroyEq _ => execDestroyEq_kept hs
  | .queueQuery _ => execQueueQuery_kept hs
  | .setScan _ => execSetScan_kept hs
  | .aqBindEq _ => execAqBindEq_kept hs
  | .tenantCreate _ => execTenantCreate_kept hs
  | .tenantConfig _ => execTenantConfig_kept hs
  | .tenantEnable _ => execTenantEnable_kept hs
  | .tenantDisable _ => execTenantDisable_kept hs
  | .tenantReset _ => execTenantReset_kept hs
  | .tenantDestroy _ => execTenantDestroy_kept hs
  | .tenantFenceEnd _ => execTenantFenceEnd_kept hs
  | .tnFenceTimeout _ => execTnFenceTimeout_kept hs
  | .poolQuotaSet _ => execPoolQuotaSet_kept hs
  | .peerBufAlloc _ => execPeerBufAlloc_kept hs
  | .peerBufFree _ => execPeerBufFree_kept hs
  | .keyCtxCreate _ => execKeyCtxCreate_kept hs
  | .keyRollover _ => execKeyRollover_kept hs
  | .keyCtxDestroy _ => execKeyCtxDestroy_kept hs
  | .rulesetLoad _ => execRulesetLoad_kept hs
  | .rulesetImageReadEnd _ _ => execRulesetImageReadEnd_kept hs
  | .rulesetActivate _ => execRulesetActivate_kept hs
  | .rulesetRelease _ => execRulesetRelease_kept hs
  | .mftConnOpen _ => execMftConnOpen_kept hs
  | .mftConnClose _ => execMftConnClose_kept hs
  | .dumpRingCreate _ => execDumpRingCreate_kept hs
  | .dumpRingDestroy _ => execDumpRingDestroy_kept hs
  | .snapshotArm _ => execSnapshotArm_kept hs
  | .nsAttach _ => execNsAttach_kept hs
  | .nsDetach _ => execNsDetach_kept hs
  | .dnop _ => execDnop_kept hs
  | .tx _ _ => execTx_kept hs
  | .rxPost _ => execRxPost_kept hs
  | .mftSend _ => execMftSend_kept hs
  | .mftRecvPost _ => execMftRecvPost_kept hs
  | .nvme _ => execNvme_kept hs
  | .coreJob _ => execCoreJob_kept hs
  | .copy _ => execCopy_kept hs
  | .doorbellScanDue _ => execDoorbellScanDue_kept hs
  | .doorbellRecordRead _ _ => execDoorbellRecordRead_kept hs
  | .hotIdleExpire _ => execHotIdleExpire_kept hs
  | .warmIdleExpire _ => execWarmIdleExpire_kept hs
  | .stretchCompute _ => execStretchCompute_kept hs
  | .sqFetch _ => execSqFetch_kept hs
  | .sqRingReadEnd _ _ => execSqRingReadEnd_kept hs
  | .jobStart _ => execJobStart_kept hs
  | .pushSlotWrite _ _ _ _ _ => execPushSlotWrite_kept hs
  | .pushValidate _ _ => execPushValidate_kept hs
  | .pushAsmTimeout _ _ => execPushAsmTimeout_kept hs
  | .pushRefusedTimeout _ _ => execPushRefusedTimeout_kept hs
  | .creditWordWrite _ => execCreditWordWrite_kept hs
  | .completionWrite _ => execCompletionWrite_kept hs
  | .headRecordRead _ _ _ => execHeadRecordRead_kept hs
  | .headPollTick _ _ => execHeadPollTick_kept hs
  | .cqOverflowTimeout _ => execCqOverflowTimeout_kept hs
  | .eqModTimerExpire _ => execEqModTimerExpire_kept hs
  | .eqHoldExpire _ => execEqHoldExpire_kept hs
  | .eqMessageSend _ => execEqMessageSend_kept hs
  | .queueDrainEnd _ => execQueueDrainEnd_kept hs
  | .queueDrainTimeout _ => execQueueDrainTimeout_kept hs
  | .portEnable _ _ _ => execPortEnable_kept hs
  | .portDisable _ _ _ => execPortDisable_kept hs
  | .netLinkLock _ => execNetLinkLock_kept hs
  | .trainingTimeout _ => execTrainingTimeout_kept hs
  | .netLinkFault _ _ => execNetLinkFault_kept hs
  | .netLinkFaultClear _ => execNetLinkFaultClear_kept hs
  | .downHoldExpire _ => execDownHoldExpire_kept hs
  | .frameRx _ _ _ => execFrameRx_kept hs
  | .pauseEffect _ => execPauseEffect_kept hs
  | .pauseExpire _ _ => execPauseExpire_kept hs
  | .xoffRefresh _ _ => execXoffRefresh_kept hs
  | .pauseWdTimeout _ _ _ => execPauseWdTimeout_kept hs
  | .pauseWdRecoverEnd _ _ _ => execPauseWdRecoverEnd_kept hs
  | .pauseWdEnable _ _ _ => execPauseWdEnable_kept hs
  | .preemptVerifyEnd _ _ => execPreemptVerifyEnd_kept hs
  | .fwLookupDone _ _ => execFwLookupDone_kept hs
  | .hostRxDeliver _ _ => execHostRxDeliver_kept hs
  | .rulesetActivationEdge _ => execRulesetActivationEdge_keptE hs
  | .paRsDrainTimeout _ => execPaRsDrainTimeout_kept hs
  | .tcamSweep _ => execTcamSweep_kept hs
  | .tcamEntryRewrite _ _ => execTcamEntryRewrite_kept hs
  | .fwLookup _ _ _ => execFwLookup_kept hs
  | .fwInsert _ _ _ => execFwInsert_kept hs
  | .fwUpdate _ _ _ => execFwUpdate_kept hs
  | .fwDelete _ _ _ => execFwDelete_kept hs
  | .fwWalk _ _ _ => execFwWalk_kept hs
  | .fwFlush _ _ => execFwFlush_kept hs
  | .fwCmdEnd => execFwCmdEnd_kept hs
  | .learnEvent _ _ => execLearnEvent_kept hs
  | .ageVisit _ => execAgeVisit_kept hs
  | .fwEntryRewrite _ _ => execFwEntryRewrite_kept hs
  | .cacheRefill _ _ => execCacheRefill_kept hs
  | .cacheCfgWrite _ _ => execCacheCfgWrite_kept hs
  | .stackTempSample _ _ => execStackTempSample_kept hs
  | .bankRefresh _ _ => execBankRefresh_kept hs
  | .refreshWindowStart _ => execRefreshWindowStart_kept hs
  | .neighbourRefresh _ _ _ _ => execNeighbourRefresh_kept hs
  | .scrubVisit _ _ _ => execScrubVisit_kept hs
  | .trainPatternRun _ _ _ _ => execTrainPatternRun_kept hs
  | .migStart => execMigStart_kept hs
  | .migOpenEnd => execMigOpenEnd_kept hs
  | .migCopyUnit => execMigCopyUnit_kept hs
  | .migCommitEnd => execMigCommitEnd_kept hs
  | .mcMigDone => execMcMigDone_kept hs
  | .coreSubstitute => execCoreSubstitute_kept hs
  | .coreStart _ _ _ => execCoreStart_kept hs
  | .coreStop _ _ => execCoreStop_kept hs
  | .coreDrainEnd _ => execCoreDrainEnd_kept hs
  | .fcStopTimeout _ => execFcStopTimeout_kept hs
  | .coreReloadEnd _ _ => execCoreReloadEnd_kept hs
  | .ringEnable _ _ => execRingEnable_kept hs
  | .ringDisable _ _ => execRingDisable_kept hs
  | .inboxDeliver _ => execInboxDeliver_kept hs
  | .mutualWait _ => execMutualWait_kept hs
  | .watchdog _ _ => execWatchdog_kept hs
  | .timerExpire _ _ => execTimerExpire_kept hs
  | .threadRestart _ _ => execThreadRestart_kept hs
  | .add _ _ => execAdd_kept hs
  | .sub _ _ => execSub_kept hs
  | .and _ _ => execAnd_kept hs
  | .or _ _ => execOr_kept hs
  | .xor _ _ => execXor_kept hs
  | .sll _ _ => execSll_kept hs
  | .srl _ _ => execSrl_kept hs
  | .sra _ _ => execSra_kept hs
  | .slt _ _ => execSlt_kept hs
  | .sltu _ _ => execSltu_kept hs
  | .mul _ _ => execMul_kept hs
  | .mulhu _ _ => execMulhu_kept hs
  | .divu _ _ => execDivu_kept hs
  | .remu _ _ => execRemu_kept hs
  | .clz _ _ => execClz_kept hs
  | .popc _ _ => execPopc_kept hs
  | .addi _ _ => execAddi_kept hs
  | .extu _ _ => execExtu_kept hs
  | .andi _ _ => execAndi_kept hs
  | .ori _ _ => execOri_kept hs
  | .xori _ _ => execXori_kept hs
  | .shi _ _ => execShi_kept hs
  | .hwset _ _ => execHwset_kept hs
  | .hwins _ _ => execHwins_kept hs
  | .beq _ _ => execBeq_kept hs
  | .bne _ _ => execBne_kept hs
  | .blt _ _ => execBlt_kept hs
  | .bge _ _ => execBge_kept hs
  | .bltu _ _ => execBltu_kept hs
  | .bgeu _ _ => execBgeu_kept hs
  | .j _ _ => execJ_kept hs
  | .jal _ _ => execJal_kept hs
  | .jalr _ _ => execJalr_kept hs
  | .mfsr _ _ => execMfsr_kept hs
  | .ftread _ _ => execFtread_kept hs
  | .ldb _ _ _ => execLdb_kept hs
  | .ldh _ _ _ => execLdh_kept hs
  | .ldw _ _ _ => execLdw_kept hs
  | .ldd _ _ _ => execLdd_kept hs
  | .ldhs _ _ _ => execLdhs_kept hs
  | .ldws _ _ _ => execLdws_kept hs
  | .ldds _ _ _ => execLdds_kept hs
  | .stb _ _ _ => execStb_kept hs
  | .sth _ _ _ => execSth_kept hs
  | .stw _ _ _ => execStw_kept hs
  | .std _ _ _ => execStd_kept hs
  | .sths _ _ _ => execSths_kept hs
  | .stws _ _ _ => execStws_kept hs
  | .evwait _ _ => execEvwait_kept hs
  | .evsend _ _ => execEvsend_kept hs
  | .tmset _ _ => execTmset_kept hs
  | .hmap _ _ => execHmap_kept hs
  | .hput _ _ => execHput_kept hs
  | .crypt _ _ => execCrypt_kept hs
  | .gfmul _ _ => execGfmul_kept hs
  | .tbl _ _ => execTbl_kept hs
  | .balloc _ _ => execBalloc_kept hs
  | .bfree _ _ => execBfree_kept hs
  | .bxfer _ _ => execBxfer_kept hs
  | .csum _ _ _ => execCsum_kept hs
  | .chw _ _ => execChw_kept hs
  | .post _ _ _ => execPost_kept hs
  | .locksmithRequestTake _ => execLocksmithRequestTake_kept hs
  | .locksmithReply _ _ _ => execLocksmithReply_kept hs
  | .tblReply _ _ _ => execTblReply_kept hs
  | .enqueue _ _ => execEnqueue_kept hs
  | .recirc _ _ _ => execRecirc_kept hs
  | .coreJobCompletion _ _ => execCoreJobCompletion_kept hs
  | .rxPkt _ _ _ => execRxPkt_kept hs
  | .txSealed _ _ => execTxSealed_kept hs
  | .send _ _ => execSend_kept hs
  | .query _ _ => execQuery_kept hs
  | .xtsDone _ _ => execXtsDone_kept hs
  | .rxSeg _ _ _ => execRxSeg_kept hs
  | .writeHost _ _ => execWriteHost_kept hs
  | .readHost _ _ => execReadHost_kept hs
  | .ackDelayExpire _ => execAckDelayExpire_kept hs
  | .openRetry _ => execOpenRetry_kept hs
  | .openTimeout _ => execOpenTimeout_kept hs
  | .rtoExpire _ => execRtoExpire_kept hs
  | .rnrWaitEnd _ => execRnrWaitEnd_kept hs
  | .pathHoldEnd _ _ => execPathHoldEnd_kept hs
  | .pacingInstant _ => execPacingInstant_kept hs
  | .droverUpdate _ => execDroverUpdate_kept hs
  | .connCloseDrainEnd _ => execConnCloseDrainEnd_kept hs
  | .connCloseTimeout _ => execConnCloseTimeout_kept hs
  | .tpNodeDisable _ _ => execTpNodeDisable_kept hs
  | .gateChange _ => execGateChange_kept hs
  | .calArm _ _ => execCalArm_kept hs
  | .calSwap _ => execCalSwap_keptE hs
  | .calCopyEnd _ => execCalCopyEnd_kept hs
  | .frameTxStart _ _ => execFrameTxStart_kept hs
  | .frameTxEnd _ => execFrameTxEnd_kept hs
  | .sluiceCandidate _ _ _ _ _ => execSluiceCandidate_kept hs
  | .sluiceStart _ _ => execSluiceStart_kept hs
  | .slRead _ _ => execSlRead_kept hs
  | .slWrite _ _ => execSlWrite_kept hs
  | .slClear _ _ => execSlClear_kept hs
  | .slEntryRewrite _ => execSlEntryRewrite_kept hs
  | .keyRolloverEdge _ => execKeyRolloverEdge_keptE hs
  | .rolloverGraceEnd _ => execRolloverGraceEnd_kept hs
  | .katRun _ _ _ => execKatRun_kept hs
  | .lsEntropyFail => execLsEntropyFail_kept hs
  | .entropyRestore => execEntropyRestore_kept hs
  | .attachRecordRead _ _ => execAttachRecordRead_kept hs
  | .sessionUp _ _ => execSessionUp_kept hs
  | .connectTimeout _ => execConnectTimeout_kept hs
  | .reconnect _ => execReconnect_kept hs
  | .keepAliveSend _ => execKeepAliveSend_kept hs
  | .katoExpire _ => execKatoExpire_kept hs
  | .stageAlloc _ => execStageAlloc_kept hs
  | .stageWaitExpire _ => execStageWaitExpire_kept hs
  | .ioTimeout _ => execIoTimeout_kept hs
  | .nsDetachTimeout _ => execNsDetachTimeout_kept hs
  | .dmaBurst _ _ _ => execDmaBurst_kept hs
  | .dmaReadCompletion _ _ _ _ => execDmaReadCompletion_kept hs
  | .dmaWriteLeave => execDmaWriteLeave_kept hs
  | .dxBusErr _ => execDxBusErr_kept hs
  | .engineRecover _ => execEngineRecover_kept hs
  | .dxEngineStop _ => execDxEngineStop_kept hs
  | .dxEngineResume _ => execDxEngineResume_kept hs
  | .snapshotScheduleEdge => execSnapshotScheduleEdge_keptE hs
  | .dumpWrite _ _ => execDumpWrite_kept hs
  | .eventRaise _ _ => execEventRaise_kept hs
  | .eventLog => execEventLog_kept hs
  | .fatalEvent _ => execFatalEvent_kept hs
  | .fatalTimerExpire => execFatalTimerExpire_kept hs
  | .resetProceed => execResetProceed_kept hs
  | .lockstepMismatch => execLockstepMismatch_kept hs
  | .lkWatchdogExpire _ => execLkWatchdogExpire_kept hs
  | .lkRefLoss => execLkRefLoss_kept hs
  | .mbGo _ _ => execMbGo_kept hs
  | .mbAck _ => execMbAck_kept hs
  | .version _ => execVersion_kept hs
  | .info _ => execInfo_kept hs
  | .ledgerRead _ => execLedgerRead_kept hs
  | .imageLoad _ _ => execImageLoad_kept hs
  | .configLoad _ _ => execConfigLoad_kept hs
  | .deviceReset _ => execDeviceReset_kept hs
  | .policySet _ _ => execPolicySet_kept hs
  | .alertFilter _ _ => execAlertFilter_kept hs
  | .rollbackCommit _ => execRollbackCommit_kept hs
  | .flashWrite _ _ => execFlashWrite_kept hs
  | .flashSelect _ _ _ => execFlashSelect_kept hs
  | .bootReport _ => execBootReport_kept hs
  | .porNAssert => execPorNAssert_kept hs
  | .porNRelease _ => execPorNRelease_kept hs
  | .bootStageEnd _ => execBootStageEnd_kept hs
  | .fcImageVerify => execFcImageVerify_kept hs
  | .railFault => execRailFault_kept hs
  | .clockFault => execClockFault_kept hs
  | .clusterPowerOff _ => execClusterPowerOff_kept hs
  | .junctionSample _ => execJunctionSample_kept hs
  | .tripPowerOff => execTripPowerOff_kept hs
  | .wearThresholdCross _ _ _ => execWearThresholdCross_kept hs
  | .lpmBankSubstitute => execLpmBankSubstitute_kept hs
  | .cipherUnitSubstitute => execCipherUnitSubstitute_kept hs
  | .rowRemap => execRowRemap_kept hs
  | .ledgerWrite => execLedgerWrite_kept hs
  | .tapReset => execTapReset_kept hs
  | .bypass => execBypass_kept hs
  | .idcode => execIdcode_kept hs
  | .samplePreload _ => execSamplePreload_kept hs
  | .extest => execExtest_kept hs
  | .gygarWord _ => execGygarWord_kept hs
  | .challenge => execChallenge_kept hs
  | .auth _ => execAuth_kept hs
  | .close => execClose_kept hs
  | .status => execStatus_kept hs
  | .halt => execHalt_kept hs
  | .resume => execResume_kept hs
  | .step => execStep_kept hs
  | .threadReset => execThreadReset_kept hs
  | .bpSet => execBpSet_kept hs
  | .wpSet => execWpSet_kept hs
  | .read => execRead_kept hs
  | .write => execWrite_kept hs
  | .sessionIdleTimeout => execSessionIdleTimeout_kept hs
  | .lockoutEnd => execLockoutEnd_kept hs
  | .reg64HighRead _ _ _ => execReg64HighRead_kept hs
  | .configurationWrite _ _ _ => execConfigurationWrite_kept hs
  | .linkPowerStateChange _ _ => execLinkPowerStateChange_kept hs
  | .stalledInstructionEnd _ _ _ _ => execStalledInstructionEnd_kept hs
  | .tcpRetransmissionTimeout _ => execTcpRetransmissionTimeout_kept hs
  | .unscheduledTransmission _ => execUnscheduledTransmission_kept hs

/-- The next state of a command, and what it keeps. -/
theorem exec_next (i : Instr) (s : State) : ∃ t, exec i s = .next t ∧ (Kept s t ∨ isEdge i = true ∧ KeptE s t) := by
  have h := exec_keptX i (Kept.refl s)
  cases b : isEdge i <;> rw [b] at h <;> cases e : exec i s <;> rw [e] at h
  · exact ⟨_, rfl, .inl h⟩
  · exact h.elim
  · exact h.elim
  · exact ⟨_, rfl, .inr ⟨rfl, h⟩⟩
  · exact h.elim
  · exact h.elim

end Sys2Proof.Machine
end

