-- ==== Sys2Proof/Laws/FlowIssue.lean ====
section
/-! SUPPORT. What the issue of a flow-core instruction does, by the word at the PC of the thread. -/
namespace Sys2Proof.Machine

theorem notStopped {s : State} {c n : Nat} (h : (thrOf s c n).stepping = true ∨ bpHit s c n = none) :
    (if (thrOf s c n).stepping then none else bpHit s c n) = none := by
  split
  · rfl
  · rename_i k
    exact h.resolve_left k

/-- A word that is the command's instruction does what the instruction does. -/
theorem issue_runs {s : State} {c n : Nat} {op : FcOp} {th : Thr} {i : FcI} {body : State → Thr → FcI → Iss}
    (h : Issues s c n op th i) :
    issue s c n op body =
      match body s th i with
      | .done s' acc => wpApply (retired s' c n) c n acc
      | .fault code => thrFault (issued s c n) c n code
      | .lmLost => thrFault (issued (coreWear s .coreUncorr c) c n) c n 4
      | .hold => s
      | .wait s' => s' := by
  obtain ⟨may, rfl, bp, fetch, read, word, rfl⟩ := h
  simp only [issue, may, Bool.not_true, Bool.false_eq_true, if_false, notStopped bp, read, word, ne_eq, not_true]
  refine (if_neg (by omega)).trans ?_
  cases body s (thrOf s c n) i <;> rfl

/-- A word that is no instruction faults ILLEGAL. -/
theorem issue_illegal {s : State} {c n : Nat} {op : FcOp} {body : State → Thr → FcI → Iss} (may : mayIssue s c n = true)
    (bp : (thrOf s c n).stepping = true ∨ bpHit s c n = none)
    (fetch : 4 * (thrOf s c n).pc + 4 ≤ codeLen s (coreOf s c).image)
    (read : badFetch s c (thrOf s c n).pc = false)
    (word : fcDecode (codeWord s (coreOf s c).image (thrOf s c n).pc) = none) :
    issue s c n op body = thrFault (issued s c n) c n 2 := by
  simp only [issue, may, Bool.not_true, Bool.false_eq_true, if_false, notStopped bp, read, word]
  rw [if_neg (by omega)]

/-- A PC beyond the code faults FETCH. -/
theorem issue_beyond {s : State} {c n : Nat} {op : FcOp} {body : State → Thr → FcI → Iss} (may : mayIssue s c n = true)
    (bp : (thrOf s c n).stepping = true ∨ bpHit s c n = none)
    (fetch : codeLen s (coreOf s c).image < 4 * (thrOf s c n).pc + 4) :
    issue s c n op body = thrFault s c n 6 := by
  simp only [issue, may, Bool.not_true, Bool.false_eq_true, if_false, notStopped bp]
  rw [if_pos (by omega)]

end Sys2Proof.Machine
end

