-- ==== Sys2Proof/Laws/Ops.lean ====
section
/-! SUPPORT. What the shared operations of Machine/Ops.lean do, said once: fields and registers read back, the gates of a
register access open, and the end of a job or an admin command. -/
namespace Sys2Proof.Machine

/-! ### Bit fields -/

theorem bitsOf_lt (w hi lo : Nat) : bitsOf w hi lo < 2 ^ (hi + 1 - lo) := Nat.mod_lt _ (Nat.two_pow_pos _)

/-- A field reads back what was put into it. -/
theorem bitsOf_setBits_same (w hi lo v : Nat) : bitsOf (setBits w hi lo v) hi lo = v % 2 ^ (hi + 1 - lo) := by
  unfold setBits bitsOf
  have hp : 0 < 2 ^ lo := Nat.two_pow_pos _
  generalize 2 ^ lo = P at *
  generalize 2 ^ (hi + 1 - lo) = K
  have e : w - w / P % K * P + v % K * P = w % P + P * (K * (w / P / K) + v % K) := by
    have a := Nat.div_add_mod w P
    have b := Nat.div_add_mod (w / P) K
    have c : P * (w / P) = P * (K * (w / P / K)) + w / P % K * P := by
      rw [Nat.mul_comm (w / P % K) P, ← Nat.mul_add, b]
    have d : v % K * P = P * (v % K) := Nat.mul_comm _ _
    rw [Nat.mul_add]
    omega
  rw [e, Nat.add_mul_div_left _ _ hp, Nat.div_eq_of_lt (Nat.mod_lt _ hp), Nat.zero_add, Nat.mul_add_mod, Nat.mod_mod]

/-! ### Registers -/

theorem rset_regs (s : State) (off inst v : Nat) :
    (rset s off inst v).regs = mset s.regs (rkey off inst) (BitVec.ofNat 32 v) := rfl

/-- A stored word reads back. -/
theorem rget_rset_same (s : State) (off inst v : Nat) : rget (rset s off inst v) off inst = v % 2 ^ 32 := by
  simp [rget, rset_regs]

/-- A store to another register leaves the word; the likeness level too is as before. -/
theorem rget_rset_ne (s : State) (off inst v o i : Nat) (h : rkey o i ≠ rkey off inst)
    (hl : likenessKey ≠ rkey off inst) : rget (rset s off inst v) o i = rget s o i := by
  simp only [rget, rset_regs, level, mget?_mset_ne _ _ _ _ h, mget?_mset_ne _ _ _ _ hl]

theorem bitsOf_mod (w hi lo n : Nat) (h : lo + (hi + 1 - lo) ≤ n) : bitsOf (w % 2 ^ n) hi lo = bitsOf w hi lo := by
  obtain ⟨d, rfl⟩ := Nat.exists_eq_add_of_le h
  unfold bitsOf
  rw [Nat.add_assoc, Nat.pow_add, Nat.mod_mul_right_div_self, Nat.pow_add, Nat.mod_mul_right_mod]

/-- A field reads back what was written to it. -/
theorem rd_wr_same (s : State) (f : Fd) (i inst v : Nat) (h : f.lo + (f.hi + 1 - f.lo) ≤ 32) :
    rd (wr s f i inst v) f i inst = v % 2 ^ (f.hi + 1 - f.lo) := by
  unfold rd wr
  rw [rget_rset_same, bitsOf_mod _ _ _ _ h, bitsOf_setBits_same]

/-- A write to a field of another register leaves a field. -/
theorem rd_wr_ne (s : State) (f g : Fd) (i inst v j k : Nat)
    (h : rkey (g.off + j * g.stride) k ≠ rkey (f.off + i * f.stride) inst)
    (hl : likenessKey ≠ rkey (f.off + i * f.stride) inst) : rd (wr s f i inst v) g j k = rd s g j k := by
  unfold rd wr
  rw [rget_rset_ne _ _ _ _ _ _ h hl]

/-! ### Gates -/

theorem regGate_open {s : State} {p : HostPort} {m : Bool} {eff : State → State} (h : RegOpen s p m) :
    regGate s p m eff = eff s := by
  obtain ⟨link, mse, fatal, lrs, recov, mg⟩ := h
  unfold regGate barGate
  have hm : (m && decide (p.val ≠ mgmtPort s)) = false := by
    cases m
    · rfl
    · simp [mg rfl]
  rw [if_neg (by simp [link]), if_neg (by simp [mse])]
  dsimp only
  rw [if_neg (by simp [fatal, lrs]), if_neg (by simp [recov]),
    if_neg (by simp only [hm, Bool.false_eq_true, not_false_eq_true])]

/-- A port that R50 excludes is denied: GL_ACC_STATUS notes it, and the register does not change (R51). -/
theorem regGate_denied {s : State} {p : HostPort} {eff : State → State} (h : RegOpen s p false)
    (hp : p.val ≠ mgmtPort s) : regGate s p true eff = denied s p := by
  obtain ⟨link, mse, fatal, lrs, recov, -⟩ := h
  simp [regGate, barGate, link, mse, fatal, lrs, recov, hp]

theorem readGate_open {s : State} {p : HostPort} {b : Bool} {eff : State → State} (h : ReadOpen s p) :
    readGate s p b eff = eff s := by
  obtain ⟨link, mse, lrs, recov⟩ := h
  simp [readGate, barGate, link, mse, lrs, recov]

/-- Without the link nothing reaches a register. -/
theorem regGate_noLink {s : State} {p : HostPort} {m : Bool} {eff : State → State} (h : linkUp s p = false) :
    regGate s p m eff = s := by
  simp [regGate, barGate, h]

/-! ### Admin commands and jobs -/

theorem adminRun_run {s : State} {p op : Nat} {e : Entry} {body : State → Entry → State} (h : AdminCmd s p op e) :
    adminRun s p op body = body s e := by
  obtain ⟨cur, code, free, run, stale, fence⟩ := h
  simp [adminRun, cur, code, free, run, stale, fence]

theorem jobRun_run {s : State} {uid op : Nat} {j : Job} {body : State → Job → State} (h : JobReady s uid op j) :
    jobRun s uid op body =
      body { s with jobs := mset s.jobs uid { j with fresh := false } } { j with fresh := false } := by
  obtain ⟨job, code, fresh, run⟩ := h
  simp [jobRun, job, code, fresh, run]

/-- The record of the port whose record was changed. -/
@[simp] theorem hpOf_modHp_same (s : State) (p : Nat) (f : Hp → Hp) : hpOf (modHp s p f) p = f (hpOf s p) := by
  simp [hpOf, modHp]

theorem hpOf_modHp_ne (s : State) (p q : Nat) (f : Hp → Hp) (h : q ≠ p) : hpOf (modHp s p f) q = hpOf s q := by
  simp [hpOf, modHp, mget_mset_ne _ _ _ _ _ h]

/-- finishAdmin ends the command of the port: it changes the port's record and the completion queues, and nothing else. -/
theorem finishAdmin_frame (s : State) (p : Nat) (st : Status) (r : Nat) :
    ∃ h c, finishAdmin s p st r = { s with hp := h, cqs := c } := by
  unfold finishAdmin
  dsimp only
  split
  · exact ⟨s.hp, s.cqs, rfl⟩
  · split
    · exact ⟨_, s.cqs, rfl⟩
    · split
      · exact ⟨_, s.cqs, rfl⟩
      · exact ⟨_, _, rfl⟩

/-- finishJob takes the job out, may add a completion, and changes nothing else. -/
theorem finishJob_frame (s : State) (uid : Nat) (st : Status) (r : Nat) :
    ∃ j c, finishJob s uid st r = { s with jobs := j, cqs := c } := by
  unfold finishJob
  split
  · exact ⟨s.jobs, s.cqs, rfl⟩
  · split
    · exact ⟨mdel s.jobs uid, s.cqs, rfl⟩
    · split
      · exact ⟨mdel s.jobs uid, _, rfl⟩
      · exact ⟨mdel s.jobs uid, s.cqs, rfl⟩

/-- An event raised while the intake queue has room is its last entry, unless the sequencer has run (R418, R433). -/
theorem raise_intake (s : State) (e : Ev) (i : Nat) (h : s.lk.intake.length < 256) (hl : s.lk.st ≠ .lrs) :
    (raise s e i).lk.intake = s.lk.intake ++ [mkEvent s e i] := by
  simp [raise, h, hl]

/-- Raising an event changes the Lockkeeper's queue alone. -/
theorem raise_frame (s : State) (e : Ev) (i : Nat) : raise s e i = { s with lk := (raise s e i).lk } := by
  unfold raise
  (repeat' split) <;> rfl

end Sys2Proof.Machine
end

