-- ==== Sys2Proof/Laws/State.lean ====
section
/-! SUPPORT. What each primitive update of State leaves: one lemma per field, so that no proof unfolds an update. -/
namespace Sys2Proof.Machine

@[simp] theorem emit_clk (s : State) (o : Out) : (emit s o).clk = s.clk := rfl
@[simp] theorem emit_free (s : State) (o : Out) : (emit s o).free = s.free := rfl
@[simp] theorem emit_uid (s : State) (o : Out) : (emit s o).uid = s.uid := rfl
@[simp] theorem emit_pending (s : State) (o : Out) : (emit s o).pending = s.pending := rfl
@[simp] theorem emit_regs (s : State) (o : Out) : (emit s o).regs = s.regs := rfl
@[simp] theorem emit_cnt (s : State) (o : Out) : (emit s o).cnt = s.cnt := rfl
@[simp] theorem emit_gens (s : State) (o : Out) : (emit s o).gens = s.gens := rfl
@[simp] theorem emit_wlatch (s : State) (o : Out) : (emit s o).wlatch = s.wlatch := rfl
@[simp] theorem emit_rlatch (s : State) (o : Out) : (emit s o).rlatch = s.rlatch := rfl
@[simp] theorem emit_ft (s : State) (o : Out) : (emit s o).ft = s.ft := rfl
@[simp] theorem emit_armed (s : State) (o : Out) : (emit s o).armed = s.armed := rfl
@[simp] theorem emit_lk (s : State) (o : Out) : (emit s o).lk = s.lk := rfl
@[simp] theorem emit_hbm (s : State) (o : Out) : (emit s o).hbm = s.hbm := rfl
@[simp] theorem emit_md (s : State) (o : Out) : (emit s o).md = s.md := rfl
@[simp] theorem emit_boot (s : State) (o : Out) : (emit s o).boot = s.boot := rfl
@[simp] theorem emit_fuses (s : State) (o : Out) : (emit s o).fuses = s.fuses := rfl
@[simp] theorem emit_coop (s : State) (o : Out) : (emit s o).coop = s.coop := rfl
@[simp] theorem emit_mere (s : State) (o : Out) : (emit s o).mere = s.mere := rfl
@[simp] theorem emit_sysmem (s : State) (o : Out) : (emit s o).sysmem = s.sysmem := rfl
@[simp] theorem emit_hp (s : State) (o : Out) : (emit s o).hp = s.hp := rfl
@[simp] theorem emit_sreads (s : State) (o : Out) : (emit s o).sreads = s.sreads := rfl
@[simp] theorem emit_sqs (s : State) (o : Out) : (emit s o).sqs = s.sqs := rfl
@[simp] theorem emit_cqs (s : State) (o : Out) : (emit s o).cqs = s.cqs := rfl
@[simp] theorem emit_eqs (s : State) (o : Out) : (emit s o).eqs = s.eqs := rfl
@[simp] theorem emit_jobs (s : State) (o : Out) : (emit s o).jobs = s.jobs := rfl
@[simp] theorem emit_tens (s : State) (o : Out) : (emit s o).tens = s.tens := rfl
@[simp] theorem emit_slots (s : State) (o : Out) : (emit s o).slots = s.slots := rfl
@[simp] theorem emit_engs (s : State) (o : Out) : (emit s o).engs = s.engs := rfl
@[simp] theorem emit_xfers (s : State) (o : Out) : (emit s o).xfers = s.xfers := rfl
@[simp] theorem emit_reads (s : State) (o : Out) : (emit s o).reads = s.reads := rfl
@[simp] theorem emit_wreqs (s : State) (o : Out) : (emit s o).wreqs = s.wreqs := rfl
@[simp] theorem emit_macs (s : State) (o : Out) : (emit s o).macs = s.macs := rfl
@[simp] theorem emit_pkts (s : State) (o : Out) : (emit s o).pkts = s.pkts := rfl
@[simp] theorem emit_eg (s : State) (o : Out) : (emit s o).eg = s.eg := rfl
@[simp] theorem emit_sl (s : State) (o : Out) : (emit s o).sl = s.sl := rfl
@[simp] theorem emit_pa (s : State) (o : Out) : (emit s o).pa = s.pa := rfl
@[simp] theorem emit_fw (s : State) (o : Out) : (emit s o).fw = s.fw := rfl
@[simp] theorem emit_hostq (s : State) (o : Out) : (emit s o).hostq = s.hostq := rfl
@[simp] theorem emit_cores (s : State) (o : Out) : (emit s o).cores = s.cores := rfl
@[simp] theorem emit_fcPulse (s : State) (o : Out) : (emit s o).fcPulse = s.fcPulse := rfl
@[simp] theorem emit_rings (s : State) (o : Out) : (emit s o).rings = s.rings := rfl
@[simp] theorem emit_lmem (s : State) (o : Out) : (emit s o).lmem = s.lmem := rfl
@[simp] theorem emit_fwmem (s : State) (o : Out) : (emit s o).fwmem = s.fwmem := rfl
@[simp] theorem emit_msgs (s : State) (o : Out) : (emit s o).msgs = s.msgs := rfl
@[simp] theorem emit_clOff (s : State) (o : Out) : (emit s o).clOff = s.clOff := rfl
@[simp] theorem emit_ls (s : State) (o : Out) : (emit s o).ls = s.ls := rfl
@[simp] theorem emit_tblq (s : State) (o : Out) : (emit s o).tblq = s.tblq := rfl
@[simp] theorem emit_dbg (s : State) (o : Out) : (emit s o).dbg = s.dbg := rfl
@[simp] theorem emit_conns (s : State) (o : Out) : (emit s o).conns = s.conns := rfl
@[simp] theorem emit_unk (s : State) (o : Out) : (emit s o).unk = s.unk := rfl
@[simp] theorem emit_seals (s : State) (o : Out) : (emit s o).seals = s.seals := rfl
@[simp] theorem emit_sx (s : State) (o : Out) : (emit s o).sx = s.sx := rfl
@[simp] theorem emit_tl (s : State) (o : Out) : (emit s o).tl = s.tl := rfl

@[simp] theorem bumpFree_clk (s : State) : (bumpFree s).clk = s.clk := rfl
@[simp] theorem bumpFree_uid (s : State) : (bumpFree s).uid = s.uid := rfl
@[simp] theorem bumpFree_out (s : State) : (bumpFree s).out = s.out := rfl
@[simp] theorem bumpFree_pending (s : State) : (bumpFree s).pending = s.pending := rfl
@[simp] theorem bumpFree_regs (s : State) : (bumpFree s).regs = s.regs := rfl
@[simp] theorem bumpFree_cnt (s : State) : (bumpFree s).cnt = s.cnt := rfl
@[simp] theorem bumpFree_gens (s : State) : (bumpFree s).gens = s.gens := rfl
@[simp] theorem bumpFree_wlatch (s : State) : (bumpFree s).wlatch = s.wlatch := rfl
@[simp] theorem bumpFree_rlatch (s : State) : (bumpFree s).rlatch = s.rlatch := rfl
@[simp] theorem bumpFree_ft (s : State) : (bumpFree s).ft = s.ft := rfl
@[simp] theorem bumpFree_armed (s : State) : (bumpFree s).armed = s.armed := rfl
@[simp] theorem bumpFree_lk (s : State) : (bumpFree s).lk = s.lk := rfl
@[simp] theorem bumpFree_hbm (s : State) : (bumpFree s).hbm = s.hbm := rfl
@[simp] theorem bumpFree_md (s : State) : (bumpFree s).md = s.md := rfl
@[simp] theorem bumpFree_boot (s : State) : (bumpFree s).boot = s.boot := rfl
@[simp] theorem bumpFree_fuses (s : State) : (bumpFree s).fuses = s.fuses := rfl
@[simp] theorem bumpFree_coop (s : State) : (bumpFree s).coop = s.coop := rfl
@[simp] theorem bumpFree_mere (s : State) : (bumpFree s).mere = s.mere := rfl
@[simp] theorem bumpFree_sysmem (s : State) : (bumpFree s).sysmem = s.sysmem := rfl
@[simp] theorem bumpFree_hp (s : State) : (bumpFree s).hp = s.hp := rfl
@[simp] theorem bumpFree_sreads (s : State) : (bumpFree s).sreads = s.sreads := rfl
@[simp] theorem bumpFree_sqs (s : State) : (bumpFree s).sqs = s.sqs := rfl
@[simp] theorem bumpFree_cqs (s : State) : (bumpFree s).cqs = s.cqs := rfl
@[simp] theorem bumpFree_eqs (s : State) : (bumpFree s).eqs = s.eqs := rfl
@[simp] theorem bumpFree_jobs (s : State) : (bumpFree s).jobs = s.jobs := rfl
@[simp] theorem bumpFree_tens (s : State) : (bumpFree s).tens = s.tens := rfl
@[simp] theorem bumpFree_slots (s : State) : (bumpFree s).slots = s.slots := rfl
@[simp] theorem bumpFree_engs (s : State) : (bumpFree s).engs = s.engs := rfl
@[simp] theorem bumpFree_xfers (s : State) : (bumpFree s).xfers = s.xfers := rfl
@[simp] theorem bumpFree_reads (s : State) : (bumpFree s).reads = s.reads := rfl
@[simp] theorem bumpFree_wreqs (s : State) : (bumpFree s).wreqs = s.wreqs := rfl
@[simp] theorem bumpFree_macs (s : State) : (bumpFree s).macs = s.macs := rfl
@[simp] theorem bumpFree_pkts (s : State) : (bumpFree s).pkts = s.pkts := rfl
@[simp] theorem bumpFree_eg (s : State) : (bumpFree s).eg = s.eg := rfl
@[simp] theorem bumpFree_sl (s : State) : (bumpFree s).sl = s.sl := rfl
@[simp] theorem bumpFree_pa (s : State) : (bumpFree s).pa = s.pa := rfl
@[simp] theorem bumpFree_fw (s : State) : (bumpFree s).fw = s.fw := rfl
@[simp] theorem bumpFree_hostq (s : State) : (bumpFree s).hostq = s.hostq := rfl
@[simp] theorem bumpFree_cores (s : State) : (bumpFree s).cores = s.cores := rfl
@[simp] theorem bumpFree_fcPulse (s : State) : (bumpFree s).fcPulse = s.fcPulse := rfl
@[simp] theorem bumpFree_rings (s : State) : (bumpFree s).rings = s.rings := rfl
@[simp] theorem bumpFree_lmem (s : State) : (bumpFree s).lmem = s.lmem := rfl
@[simp] theorem bumpFree_fwmem (s : State) : (bumpFree s).fwmem = s.fwmem := rfl
@[simp] theorem bumpFree_msgs (s : State) : (bumpFree s).msgs = s.msgs := rfl
@[simp] theorem bumpFree_clOff (s : State) : (bumpFree s).clOff = s.clOff := rfl
@[simp] theorem bumpFree_ls (s : State) : (bumpFree s).ls = s.ls := rfl
@[simp] theorem bumpFree_tblq (s : State) : (bumpFree s).tblq = s.tblq := rfl
@[simp] theorem bumpFree_dbg (s : State) : (bumpFree s).dbg = s.dbg := rfl
@[simp] theorem bumpFree_conns (s : State) : (bumpFree s).conns = s.conns := rfl
@[simp] theorem bumpFree_unk (s : State) : (bumpFree s).unk = s.unk := rfl
@[simp] theorem bumpFree_seals (s : State) : (bumpFree s).seals = s.seals := rfl
@[simp] theorem bumpFree_sx (s : State) : (bumpFree s).sx = s.sx := rfl
@[simp] theorem bumpFree_tl (s : State) : (bumpFree s).tl = s.tl := rfl

@[simp] theorem rset_clk (s : State) (off inst v : Nat) : (rset s off inst v).clk = s.clk := rfl
@[simp] theorem rset_free (s : State) (off inst v : Nat) : (rset s off inst v).free = s.free := rfl
@[simp] theorem rset_uid (s : State) (off inst v : Nat) : (rset s off inst v).uid = s.uid := rfl
@[simp] theorem rset_out (s : State) (off inst v : Nat) : (rset s off inst v).out = s.out := rfl
@[simp] theorem rset_pending (s : State) (off inst v : Nat) : (rset s off inst v).pending = s.pending := rfl
@[simp] theorem rset_cnt (s : State) (off inst v : Nat) : (rset s off inst v).cnt = s.cnt := rfl
@[simp] theorem rset_gens (s : State) (off inst v : Nat) : (rset s off inst v).gens = s.gens := rfl
@[simp] theorem rset_wlatch (s : State) (off inst v : Nat) : (rset s off inst v).wlatch = s.wlatch := rfl
@[simp] theorem rset_rlatch (s : State) (off inst v : Nat) : (rset s off inst v).rlatch = s.rlatch := rfl
@[simp] theorem rset_ft (s : State) (off inst v : Nat) : (rset s off inst v).ft = s.ft := rfl
@[simp] theorem rset_armed (s : State) (off inst v : Nat) : (rset s off inst v).armed = s.armed := rfl
@[simp] theorem rset_lk (s : State) (off inst v : Nat) : (rset s off inst v).lk = s.lk := rfl
@[simp] theorem rset_hbm (s : State) (off inst v : Nat) : (rset s off inst v).hbm = s.hbm := rfl
@[simp] theorem rset_md (s : State) (off inst v : Nat) : (rset s off inst v).md = s.md := rfl
@[simp] theorem rset_boot (s : State) (off inst v : Nat) : (rset s off inst v).boot = s.boot := rfl
@[simp] theorem rset_fuses (s : State) (off inst v : Nat) : (rset s off inst v).fuses = s.fuses := rfl
@[simp] theorem rset_coop (s : State) (off inst v : Nat) : (rset s off inst v).coop = s.coop := rfl
@[simp] theorem rset_mere (s : State) (off inst v : Nat) : (rset s off inst v).mere = s.mere := rfl
@[simp] theorem rset_sysmem (s : State) (off inst v : Nat) : (rset s off inst v).sysmem = s.sysmem := rfl
@[simp] theorem rset_hp (s : State) (off inst v : Nat) : (rset s off inst v).hp = s.hp := rfl
@[simp] theorem rset_sreads (s : State) (off inst v : Nat) : (rset s off inst v).sreads = s.sreads := rfl
@[simp] theorem rset_sqs (s : State) (off inst v : Nat) : (rset s off inst v).sqs = s.sqs := rfl
@[simp] theorem rset_cqs (s : State) (off inst v : Nat) : (rset s off inst v).cqs = s.cqs := rfl
@[simp] theorem rset_eqs (s : State) (off inst v : Nat) : (rset s off inst v).eqs = s.eqs := rfl
@[simp] theorem rset_jobs (s : State) (off inst v : Nat) : (rset s off inst v).jobs = s.jobs := rfl
@[simp] theorem rset_tens (s : State) (off inst v : Nat) : (rset s off inst v).tens = s.tens := rfl
@[simp] theorem rset_slots (s : State) (off inst v : Nat) : (rset s off inst v).slots = s.slots := rfl
@[simp] theorem rset_engs (s : State) (off inst v : Nat) : (rset s off inst v).engs = s.engs := rfl
@[simp] theorem rset_xfers (s : State) (off inst v : Nat) : (rset s off inst v).xfers = s.xfers := rfl
@[simp] theorem rset_reads (s : State) (off inst v : Nat) : (rset s off inst v).reads = s.reads := rfl
@[simp] theorem rset_wreqs (s : State) (off inst v : Nat) : (rset s off inst v).wreqs = s.wreqs := rfl
@[simp] theorem rset_macs (s : State) (off inst v : Nat) : (rset s off inst v).macs = s.macs := rfl
@[simp] theorem rset_pkts (s : State) (off inst v : Nat) : (rset s off inst v).pkts = s.pkts := rfl
@[simp] theorem rset_eg (s : State) (off inst v : Nat) : (rset s off inst v).eg = s.eg := rfl
@[simp] theorem rset_sl (s : State) (off inst v : Nat) : (rset s off inst v).sl = s.sl := rfl
@[simp] theorem rset_pa (s : State) (off inst v : Nat) : (rset s off inst v).pa = s.pa := rfl
@[simp] theorem rset_fw (s : State) (off inst v : Nat) : (rset s off inst v).fw = s.fw := rfl
@[simp] theorem rset_hostq (s : State) (off inst v : Nat) : (rset s off inst v).hostq = s.hostq := rfl
@[simp] theorem rset_cores (s : State) (off inst v : Nat) : (rset s off inst v).cores = s.cores := rfl
@[simp] theorem rset_fcPulse (s : State) (off inst v : Nat) : (rset s off inst v).fcPulse = s.fcPulse := rfl
@[simp] theorem rset_rings (s : State) (off inst v : Nat) : (rset s off inst v).rings = s.rings := rfl
@[simp] theorem rset_lmem (s : State) (off inst v : Nat) : (rset s off inst v).lmem = s.lmem := rfl
@[simp] theorem rset_fwmem (s : State) (off inst v : Nat) : (rset s off inst v).fwmem = s.fwmem := rfl
@[simp] theorem rset_msgs (s : State) (off inst v : Nat) : (rset s off inst v).msgs = s.msgs := rfl
@[simp] theorem rset_clOff (s : State) (off inst v : Nat) : (rset s off inst v).clOff = s.clOff := rfl
@[simp] theorem rset_ls (s : State) (off inst v : Nat) : (rset s off inst v).ls = s.ls := rfl
@[simp] theorem rset_tblq (s : State) (off inst v : Nat) : (rset s off inst v).tblq = s.tblq := rfl
@[simp] theorem rset_dbg (s : State) (off inst v : Nat) : (rset s off inst v).dbg = s.dbg := rfl
@[simp] theorem rset_conns (s : State) (off inst v : Nat) : (rset s off inst v).conns = s.conns := rfl
@[simp] theorem rset_unk (s : State) (off inst v : Nat) : (rset s off inst v).unk = s.unk := rfl
@[simp] theorem rset_seals (s : State) (off inst v : Nat) : (rset s off inst v).seals = s.seals := rfl
@[simp] theorem rset_sx (s : State) (off inst v : Nat) : (rset s off inst v).sx = s.sx := rfl
@[simp] theorem rset_tl (s : State) (off inst v : Nat) : (rset s off inst v).tl = s.tl := rfl

@[simp] theorem wr_clk (s : State) (f : Fd) (i inst v : Nat) : (wr s f i inst v).clk = s.clk := rfl
@[simp] theorem wr_free (s : State) (f : Fd) (i inst v : Nat) : (wr s f i inst v).free = s.free := rfl
@[simp] theorem wr_uid (s : State) (f : Fd) (i inst v : Nat) : (wr s f i inst v).uid = s.uid := rfl
@[simp] theorem wr_out (s : State) (f : Fd) (i inst v : Nat) : (wr s f i inst v).out = s.out := rfl
@[simp] theorem wr_pending (s : State) (f : Fd) (i inst v : Nat) : (wr s f i inst v).pending = s.pending := rfl
@[simp] theorem wr_cnt (s : State) (f : Fd) (i inst v : Nat) : (wr s f i inst v).cnt = s.cnt := rfl
@[simp] theorem wr_gens (s : State) (f : Fd) (i inst v : Nat) : (wr s f i inst v).gens = s.gens := rfl
@[simp] theorem wr_wlatch (s : State) (f : Fd) (i inst v : Nat) : (wr s f i inst v).wlatch = s.wlatch := rfl
@[simp] theorem wr_rlatch (s : State) (f : Fd) (i inst v : Nat) : (wr s f i inst v).rlatch = s.rlatch := rfl
@[simp] theorem wr_ft (s : State) (f : Fd) (i inst v : Nat) : (wr s f i inst v).ft = s.ft := rfl
@[simp] theorem wr_armed (s : State) (f : Fd) (i inst v : Nat) : (wr s f i inst v).armed = s.armed := rfl
@[simp] theorem wr_lk (s : State) (f : Fd) (i inst v : Nat) : (wr s f i inst v).lk = s.lk := rfl
@[simp] theorem wr_hbm (s : State) (f : Fd) (i inst v : Nat) : (wr s f i inst v).hbm = s.hbm := rfl
@[simp] theorem wr_md (s : State) (f : Fd) (i inst v : Nat) : (wr s f i inst v).md = s.md := rfl
@[simp] theorem wr_boot (s : State) (f : Fd) (i inst v : Nat) : (wr s f i inst v).boot = s.boot := rfl
@[simp] theorem wr_fuses (s : State) (f : Fd) (i inst v : Nat) : (wr s f i inst v).fuses = s.fuses := rfl
@[simp] theorem wr_coop (s : State) (f : Fd) (i inst v : Nat) : (wr s f i inst v).coop = s.coop := rfl
@[simp] theorem wr_mere (s : State) (f : Fd) (i inst v : Nat) : (wr s f i inst v).mere = s.mere := rfl
@[simp] theorem wr_sysmem (s : State) (f : Fd) (i inst v : Nat) : (wr s f i inst v).sysmem = s.sysmem := rfl
@[simp] theorem wr_hp (s : State) (f : Fd) (i inst v : Nat) : (wr s f i inst v).hp = s.hp := rfl
@[simp] theorem wr_sreads (s : State) (f : Fd) (i inst v : Nat) : (wr s f i inst v).sreads = s.sreads := rfl
@[simp] theorem wr_sqs (s : State) (f : Fd) (i inst v : Nat) : (wr s f i inst v).sqs = s.sqs := rfl
@[simp] theorem wr_cqs (s : State) (f : Fd) (i inst v : Nat) : (wr s f i inst v).cqs = s.cqs := rfl
@[simp] theorem wr_eqs (s : State) (f : Fd) (i inst v : Nat) : (wr s f i inst v).eqs = s.eqs := rfl
@[simp] theorem wr_jobs (s : State) (f : Fd) (i inst v : Nat) : (wr s f i inst v).jobs = s.jobs := rfl
@[simp] theorem wr_tens (s : State) (f : Fd) (i inst v : Nat) : (wr s f i inst v).tens = s.tens := rfl
@[simp] theorem wr_slots (s : State) (f : Fd) (i inst v : Nat) : (wr s f i inst v).slots = s.slots := rfl
@[simp] theorem wr_engs (s : State) (f : Fd) (i inst v : Nat) : (wr s f i inst v).engs = s.engs := rfl
@[simp] theorem wr_xfers (s : State) (f : Fd) (i inst v : Nat) : (wr s f i inst v).xfers = s.xfers := rfl
@[simp] theorem wr_reads (s : State) (f : Fd) (i inst v : Nat) : (wr s f i inst v).reads = s.reads := rfl
@[simp] theorem wr_wreqs (s : State) (f : Fd) (i inst v : Nat) : (wr s f i inst v).wreqs = s.wreqs := rfl
@[simp] theorem wr_macs (s : State) (f : Fd) (i inst v : Nat) : (wr s f i inst v).macs = s.macs := rfl
@[simp] theorem wr_pkts (s : State) (f : Fd) (i inst v : Nat) : (wr s f i inst v).pkts = s.pkts := rfl
@[simp] theorem wr_eg (s : State) (f : Fd) (i inst v : Nat) : (wr s f i inst v).eg = s.eg := rfl
@[simp] theorem wr_sl (s : State) (f : Fd) (i inst v : Nat) : (wr s f i inst v).sl = s.sl := rfl
@[simp] theorem wr_pa (s : State) (f : Fd) (i inst v : Nat) : (wr s f i inst v).pa = s.pa := rfl
@[simp] theorem wr_fw (s : State) (f : Fd) (i inst v : Nat) : (wr s f i inst v).fw = s.fw := rfl
@[simp] theorem wr_hostq (s : State) (f : Fd) (i inst v : Nat) : (wr s f i inst v).hostq = s.hostq := rfl
@[simp] theorem wr_cores (s : State) (f : Fd) (i inst v : Nat) : (wr s f i inst v).cores = s.cores := rfl
@[simp] theorem wr_fcPulse (s : State) (f : Fd) (i inst v : Nat) : (wr s f i inst v).fcPulse = s.fcPulse := rfl
@[simp] theorem wr_rings (s : State) (f : Fd) (i inst v : Nat) : (wr s f i inst v).rings = s.rings := rfl
@[simp] theorem wr_lmem (s : State) (f : Fd) (i inst v : Nat) : (wr s f i inst v).lmem = s.lmem := rfl
@[simp] theorem wr_fwmem (s : State) (f : Fd) (i inst v : Nat) : (wr s f i inst v).fwmem = s.fwmem := rfl
@[simp] theorem wr_msgs (s : State) (f : Fd) (i inst v : Nat) : (wr s f i inst v).msgs = s.msgs := rfl
@[simp] theorem wr_clOff (s : State) (f : Fd) (i inst v : Nat) : (wr s f i inst v).clOff = s.clOff := rfl
@[simp] theorem wr_ls (s : State) (f : Fd) (i inst v : Nat) : (wr s f i inst v).ls = s.ls := rfl
@[simp] theorem wr_tblq (s : State) (f : Fd) (i inst v : Nat) : (wr s f i inst v).tblq = s.tblq := rfl
@[simp] theorem wr_dbg (s : State) (f : Fd) (i inst v : Nat) : (wr s f i inst v).dbg = s.dbg := rfl
@[simp] theorem wr_conns (s : State) (f : Fd) (i inst v : Nat) : (wr s f i inst v).conns = s.conns := rfl
@[simp] theorem wr_unk (s : State) (f : Fd) (i inst v : Nat) : (wr s f i inst v).unk = s.unk := rfl
@[simp] theorem wr_seals (s : State) (f : Fd) (i inst v : Nat) : (wr s f i inst v).seals = s.seals := rfl
@[simp] theorem wr_sx (s : State) (f : Fd) (i inst v : Nat) : (wr s f i inst v).sx = s.sx := rfl
@[simp] theorem wr_tl (s : State) (f : Fd) (i inst v : Nat) : (wr s f i inst v).tl = s.tl := rfl

@[simp] theorem cadd_clk (s : State) (u i k n : Nat) : (cadd s u i k n).clk = s.clk := rfl
@[simp] theorem cadd_free (s : State) (u i k n : Nat) : (cadd s u i k n).free = s.free := rfl
@[simp] theorem cadd_uid (s : State) (u i k n : Nat) : (cadd s u i k n).uid = s.uid := rfl
@[simp] theorem cadd_out (s : State) (u i k n : Nat) : (cadd s u i k n).out = s.out := rfl
@[simp] theorem cadd_pending (s : State) (u i k n : Nat) : (cadd s u i k n).pending = s.pending := rfl
@[simp] theorem cadd_regs (s : State) (u i k n : Nat) : (cadd s u i k n).regs = s.regs := rfl
@[simp] theorem cadd_gens (s : State) (u i k n : Nat) : (cadd s u i k n).gens = s.gens := rfl
@[simp] theorem cadd_wlatch (s : State) (u i k n : Nat) : (cadd s u i k n).wlatch = s.wlatch := rfl
@[simp] theorem cadd_rlatch (s : State) (u i k n : Nat) : (cadd s u i k n).rlatch = s.rlatch := rfl
@[simp] theorem cadd_ft (s : State) (u i k n : Nat) : (cadd s u i k n).ft = s.ft := rfl
@[simp] theorem cadd_armed (s : State) (u i k n : Nat) : (cadd s u i k n).armed = s.armed := rfl
@[simp] theorem cadd_lk (s : State) (u i k n : Nat) : (cadd s u i k n).lk = s.lk := rfl
@[simp] theorem cadd_hbm (s : State) (u i k n : Nat) : (cadd s u i k n).hbm = s.hbm := rfl
@[simp] theorem cadd_md (s : State) (u i k n : Nat) : (cadd s u i k n).md = s.md := rfl
@[simp] theorem cadd_boot (s : State) (u i k n : Nat) : (cadd s u i k n).boot = s.boot := rfl
@[simp] theorem cadd_fuses (s : State) (u i k n : Nat) : (cadd s u i k n).fuses = s.fuses := rfl
@[simp] theorem cadd_coop (s : State) (u i k n : Nat) : (cadd s u i k n).coop = s.coop := rfl
@[simp] theorem cadd_mere (s : State) (u i k n : Nat) : (cadd s u i k n).mere = s.mere := rfl
@[simp] theorem cadd_sysmem (s : State) (u i k n : Nat) : (cadd s u i k n).sysmem = s.sysmem := rfl
@[simp] theorem cadd_hp (s : State) (u i k n : Nat) : (cadd s u i k n).hp = s.hp := rfl
@[simp] theorem cadd_sreads (s : State) (u i k n : Nat) : (cadd s u i k n).sreads = s.sreads := rfl
@[simp] theorem cadd_sqs (s : State) (u i k n : Nat) : (cadd s u i k n).sqs = s.sqs := rfl
@[simp] theorem cadd_cqs (s : State) (u i k n : Nat) : (cadd s u i k n).cqs = s.cqs := rfl
@[simp] theorem cadd_eqs (s : State) (u i k n : Nat) : (cadd s u i k n).eqs = s.eqs := rfl
@[simp] theorem cadd_jobs (s : State) (u i k n : Nat) : (cadd s u i k n).jobs = s.jobs := rfl
@[simp] theorem cadd_tens (s : State) (u i k n : Nat) : (cadd s u i k n).tens = s.tens := rfl
@[simp] theorem cadd_slots (s : State) (u i k n : Nat) : (cadd s u i k n).slots = s.slots := rfl
@[simp] theorem cadd_engs (s : State) (u i k n : Nat) : (cadd s u i k n).engs = s.engs := rfl
@[simp] theorem cadd_xfers (s : State) (u i k n : Nat) : (cadd s u i k n).xfers = s.xfers := rfl
@[simp] theorem cadd_reads (s : State) (u i k n : Nat) : (cadd s u i k n).reads = s.reads := rfl
@[simp] theorem cadd_wreqs (s : State) (u i k n : Nat) : (cadd s u i k n).wreqs = s.wreqs := rfl
@[simp] theorem cadd_macs (s : State) (u i k n : Nat) : (cadd s u i k n).macs = s.macs := rfl
@[simp] theorem cadd_pkts (s : State) (u i k n : Nat) : (cadd s u i k n).pkts = s.pkts := rfl
@[simp] theorem cadd_eg (s : State) (u i k n : Nat) : (cadd s u i k n).eg = s.eg := rfl
@[simp] theorem cadd_sl (s : State) (u i k n : Nat) : (cadd s u i k n).sl = s.sl := rfl
@[simp] theorem cadd_pa (s : State) (u i k n : Nat) : (cadd s u i k n).pa = s.pa := rfl
@[simp] theorem cadd_fw (s : State) (u i k n : Nat) : (cadd s u i k n).fw = s.fw := rfl
@[simp] theorem cadd_hostq (s : State) (u i k n : Nat) : (cadd s u i k n).hostq = s.hostq := rfl
@[simp] theorem cadd_cores (s : State) (u i k n : Nat) : (cadd s u i k n).cores = s.cores := rfl
@[simp] theorem cadd_fcPulse (s : State) (u i k n : Nat) : (cadd s u i k n).fcPulse = s.fcPulse := rfl
@[simp] theorem cadd_rings (s : State) (u i k n : Nat) : (cadd s u i k n).rings = s.rings := rfl
@[simp] theorem cadd_lmem (s : State) (u i k n : Nat) : (cadd s u i k n).lmem = s.lmem := rfl
@[simp] theorem cadd_fwmem (s : State) (u i k n : Nat) : (cadd s u i k n).fwmem = s.fwmem := rfl
@[simp] theorem cadd_msgs (s : State) (u i k n : Nat) : (cadd s u i k n).msgs = s.msgs := rfl
@[simp] theorem cadd_clOff (s : State) (u i k n : Nat) : (cadd s u i k n).clOff = s.clOff := rfl
@[simp] theorem cadd_ls (s : State) (u i k n : Nat) : (cadd s u i k n).ls = s.ls := rfl
@[simp] theorem cadd_tblq (s : State) (u i k n : Nat) : (cadd s u i k n).tblq = s.tblq := rfl
@[simp] theorem cadd_dbg (s : State) (u i k n : Nat) : (cadd s u i k n).dbg = s.dbg := rfl
@[simp] theorem cadd_conns (s : State) (u i k n : Nat) : (cadd s u i k n).conns = s.conns := rfl
@[simp] theorem cadd_unk (s : State) (u i k n : Nat) : (cadd s u i k n).unk = s.unk := rfl
@[simp] theorem cadd_seals (s : State) (u i k n : Nat) : (cadd s u i k n).seals = s.seals := rfl
@[simp] theorem cadd_sx (s : State) (u i k n : Nat) : (cadd s u i k n).sx = s.sx := rfl
@[simp] theorem cadd_tl (s : State) (u i k n : Nat) : (cadd s u i k n).tl = s.tl := rfl

@[simp] theorem advGen_clk (s : State) (c i : Nat) : (advGen s c i).clk = s.clk := rfl
@[simp] theorem advGen_free (s : State) (c i : Nat) : (advGen s c i).free = s.free := rfl
@[simp] theorem advGen_uid (s : State) (c i : Nat) : (advGen s c i).uid = s.uid := rfl
@[simp] theorem advGen_out (s : State) (c i : Nat) : (advGen s c i).out = s.out := rfl
@[simp] theorem advGen_pending (s : State) (c i : Nat) : (advGen s c i).pending = s.pending := rfl
@[simp] theorem advGen_regs (s : State) (c i : Nat) : (advGen s c i).regs = s.regs := rfl
@[simp] theorem advGen_cnt (s : State) (c i : Nat) : (advGen s c i).cnt = s.cnt := rfl
@[simp] theorem advGen_wlatch (s : State) (c i : Nat) : (advGen s c i).wlatch = s.wlatch := rfl
@[simp] theorem advGen_rlatch (s : State) (c i : Nat) : (advGen s c i).rlatch = s.rlatch := rfl
@[simp] theorem advGen_ft (s : State) (c i : Nat) : (advGen s c i).ft = s.ft := rfl
@[simp] theorem advGen_armed (s : State) (c i : Nat) : (advGen s c i).armed = s.armed := rfl
@[simp] theorem advGen_lk (s : State) (c i : Nat) : (advGen s c i).lk = s.lk := rfl
@[simp] theorem advGen_hbm (s : State) (c i : Nat) : (advGen s c i).hbm = s.hbm := rfl
@[simp] theorem advGen_md (s : State) (c i : Nat) : (advGen s c i).md = s.md := rfl
@[simp] theorem advGen_boot (s : State) (c i : Nat) : (advGen s c i).boot = s.boot := rfl
@[simp] theorem advGen_fuses (s : State) (c i : Nat) : (advGen s c i).fuses = s.fuses := rfl
@[simp] theorem advGen_coop (s : State) (c i : Nat) : (advGen s c i).coop = s.coop := rfl
@[simp] theorem advGen_mere (s : State) (c i : Nat) : (advGen s c i).mere = s.mere := rfl
@[simp] theorem advGen_sysmem (s : State) (c i : Nat) : (advGen s c i).sysmem = s.sysmem := rfl
@[simp] theorem advGen_hp (s : State) (c i : Nat) : (advGen s c i).hp = s.hp := rfl
@[simp] theorem advGen_sreads (s : State) (c i : Nat) : (advGen s c i).sreads = s.sreads := rfl
@[simp] theorem advGen_sqs (s : State) (c i : Nat) : (advGen s c i).sqs = s.sqs := rfl
@[simp] theorem advGen_cqs (s : State) (c i : Nat) : (advGen s c i).cqs = s.cqs := rfl
@[simp] theorem advGen_eqs (s : State) (c i : Nat) : (advGen s c i).eqs = s.eqs := rfl
@[simp] theorem advGen_jobs (s : State) (c i : Nat) : (advGen s c i).jobs = s.jobs := rfl
@[simp] theorem advGen_tens (s : State) (c i : Nat) : (advGen s c i).tens = s.tens := rfl
@[simp] theorem advGen_slots (s : State) (c i : Nat) : (advGen s c i).slots = s.slots := rfl
@[simp] theorem advGen_engs (s : State) (c i : Nat) : (advGen s c i).engs = s.engs := rfl
@[simp] theorem advGen_xfers (s : State) (c i : Nat) : (advGen s c i).xfers = s.xfers := rfl
@[simp] theorem advGen_reads (s : State) (c i : Nat) : (advGen s c i).reads = s.reads := rfl
@[simp] theorem advGen_wreqs (s : State) (c i : Nat) : (advGen s c i).wreqs = s.wreqs := rfl
@[simp] theorem advGen_macs (s : State) (c i : Nat) : (advGen s c i).macs = s.macs := rfl
@[simp] theorem advGen_pkts (s : State) (c i : Nat) : (advGen s c i).pkts = s.pkts := rfl
@[simp] theorem advGen_eg (s : State) (c i : Nat) : (advGen s c i).eg = s.eg := rfl
@[simp] theorem advGen_sl (s : State) (c i : Nat) : (advGen s c i).sl = s.sl := rfl
@[simp] theorem advGen_pa (s : State) (c i : Nat) : (advGen s c i).pa = s.pa := rfl
@[simp] theorem advGen_fw (s : State) (c i : Nat) : (advGen s c i).fw = s.fw := rfl
@[simp] theorem advGen_hostq (s : State) (c i : Nat) : (advGen s c i).hostq = s.hostq := rfl
@[simp] theorem advGen_cores (s : State) (c i : Nat) : (advGen s c i).cores = s.cores := rfl
@[simp] theorem advGen_fcPulse (s : State) (c i : Nat) : (advGen s c i).fcPulse = s.fcPulse := rfl
@[simp] theorem advGen_rings (s : State) (c i : Nat) : (advGen s c i).rings = s.rings := rfl
@[simp] theorem advGen_lmem (s : State) (c i : Nat) : (advGen s c i).lmem = s.lmem := rfl
@[simp] theorem advGen_fwmem (s : State) (c i : Nat) : (advGen s c i).fwmem = s.fwmem := rfl
@[simp] theorem advGen_msgs (s : State) (c i : Nat) : (advGen s c i).msgs = s.msgs := rfl
@[simp] theorem advGen_clOff (s : State) (c i : Nat) : (advGen s c i).clOff = s.clOff := rfl
@[simp] theorem advGen_ls (s : State) (c i : Nat) : (advGen s c i).ls = s.ls := rfl
@[simp] theorem advGen_tblq (s : State) (c i : Nat) : (advGen s c i).tblq = s.tblq := rfl
@[simp] theorem advGen_dbg (s : State) (c i : Nat) : (advGen s c i).dbg = s.dbg := rfl
@[simp] theorem advGen_conns (s : State) (c i : Nat) : (advGen s c i).conns = s.conns := rfl
@[simp] theorem advGen_unk (s : State) (c i : Nat) : (advGen s c i).unk = s.unk := rfl
@[simp] theorem advGen_seals (s : State) (c i : Nat) : (advGen s c i).seals = s.seals := rfl
@[simp] theorem advGen_sx (s : State) (c i : Nat) : (advGen s c i).sx = s.sx := rfl
@[simp] theorem advGen_tl (s : State) (c i : Nat) : (advGen s c i).tl = s.tl := rfl

@[simp] theorem modHp_clk (s : State) (p : Nat) (f : Hp → Hp) : (modHp s p f).clk = s.clk := rfl
@[simp] theorem modHp_free (s : State) (p : Nat) (f : Hp → Hp) : (modHp s p f).free = s.free := rfl
@[simp] theorem modHp_uid (s : State) (p : Nat) (f : Hp → Hp) : (modHp s p f).uid = s.uid := rfl
@[simp] theorem modHp_out (s : State) (p : Nat) (f : Hp → Hp) : (modHp s p f).out = s.out := rfl
@[simp] theorem modHp_pending (s : State) (p : Nat) (f : Hp → Hp) : (modHp s p f).pending = s.pending := rfl
@[simp] theorem modHp_regs (s : State) (p : Nat) (f : Hp → Hp) : (modHp s p f).regs = s.regs := rfl
@[simp] theorem modHp_cnt (s : State) (p : Nat) (f : Hp → Hp) : (modHp s p f).cnt = s.cnt := rfl
@[simp] theorem modHp_gens (s : State) (p : Nat) (f : Hp → Hp) : (modHp s p f).gens = s.gens := rfl
@[simp] theorem modHp_wlatch (s : State) (p : Nat) (f : Hp → Hp) : (modHp s p f).wlatch = s.wlatch := rfl
@[simp] theorem modHp_rlatch (s : State) (p : Nat) (f : Hp → Hp) : (modHp s p f).rlatch = s.rlatch := rfl
@[simp] theorem modHp_ft (s : State) (p : Nat) (f : Hp → Hp) : (modHp s p f).ft = s.ft := rfl
@[simp] theorem modHp_armed (s : State) (p : Nat) (f : Hp → Hp) : (modHp s p f).armed = s.armed := rfl
@[simp] theorem modHp_lk (s : State) (p : Nat) (f : Hp → Hp) : (modHp s p f).lk = s.lk := rfl
@[simp] theorem modHp_hbm (s : State) (p : Nat) (f : Hp → Hp) : (modHp s p f).hbm = s.hbm := rfl
@[simp] theorem modHp_md (s : State) (p : Nat) (f : Hp → Hp) : (modHp s p f).md = s.md := rfl
@[simp] theorem modHp_boot (s : State) (p : Nat) (f : Hp → Hp) : (modHp s p f).boot = s.boot := rfl
@[simp] theorem modHp_fuses (s : State) (p : Nat) (f : Hp → Hp) : (modHp s p f).fuses = s.fuses := rfl
@[simp] theorem modHp_coop (s : State) (p : Nat) (f : Hp → Hp) : (modHp s p f).coop = s.coop := rfl
@[simp] theorem modHp_mere (s : State) (p : Nat) (f : Hp → Hp) : (modHp s p f).mere = s.mere := rfl
@[simp] theorem modHp_sysmem (s : State) (p : Nat) (f : Hp → Hp) : (modHp s p f).sysmem = s.sysmem := rfl
@[simp] theorem modHp_sreads (s : State) (p : Nat) (f : Hp → Hp) : (modHp s p f).sreads = s.sreads := rfl
@[simp] theorem modHp_sqs (s : State) (p : Nat) (f : Hp → Hp) : (modHp s p f).sqs = s.sqs := rfl
@[simp] theorem modHp_cqs (s : State) (p : Nat) (f : Hp → Hp) : (modHp s p f).cqs = s.cqs := rfl
@[simp] theorem modHp_eqs (s : State) (p : Nat) (f : Hp → Hp) : (modHp s p f).eqs = s.eqs := rfl
@[simp] theorem modHp_jobs (s : State) (p : Nat) (f : Hp → Hp) : (modHp s p f).jobs = s.jobs := rfl
@[simp] theorem modHp_tens (s : State) (p : Nat) (f : Hp → Hp) : (modHp s p f).tens = s.tens := rfl
@[simp] theorem modHp_slots (s : State) (p : Nat) (f : Hp → Hp) : (modHp s p f).slots = s.slots := rfl
@[simp] theorem modHp_engs (s : State) (p : Nat) (f : Hp → Hp) : (modHp s p f).engs = s.engs := rfl
@[simp] theorem modHp_xfers (s : State) (p : Nat) (f : Hp → Hp) : (modHp s p f).xfers = s.xfers := rfl
@[simp] theorem modHp_reads (s : State) (p : Nat) (f : Hp → Hp) : (modHp s p f).reads = s.reads := rfl
@[simp] theorem modHp_wreqs (s : State) (p : Nat) (f : Hp → Hp) : (modHp s p f).wreqs = s.wreqs := rfl
@[simp] theorem modHp_macs (s : State) (p : Nat) (f : Hp → Hp) : (modHp s p f).macs = s.macs := rfl
@[simp] theorem modHp_pkts (s : State) (p : Nat) (f : Hp → Hp) : (modHp s p f).pkts = s.pkts := rfl
@[simp] theorem modHp_eg (s : State) (p : Nat) (f : Hp → Hp) : (modHp s p f).eg = s.eg := rfl
@[simp] theorem modHp_sl (s : State) (p : Nat) (f : Hp → Hp) : (modHp s p f).sl = s.sl := rfl
@[simp] theorem modHp_pa (s : State) (p : Nat) (f : Hp → Hp) : (modHp s p f).pa = s.pa := rfl
@[simp] theorem modHp_fw (s : State) (p : Nat) (f : Hp → Hp) : (modHp s p f).fw = s.fw := rfl
@[simp] theorem modHp_hostq (s : State) (p : Nat) (f : Hp → Hp) : (modHp s p f).hostq = s.hostq := rfl
@[simp] theorem modHp_cores (s : State) (p : Nat) (f : Hp → Hp) : (modHp s p f).cores = s.cores := rfl
@[simp] theorem modHp_fcPulse (s : State) (p : Nat) (f : Hp → Hp) : (modHp s p f).fcPulse = s.fcPulse := rfl
@[simp] theorem modHp_rings (s : State) (p : Nat) (f : Hp → Hp) : (modHp s p f).rings = s.rings := rfl
@[simp] theorem modHp_lmem (s : State) (p : Nat) (f : Hp → Hp) : (modHp s p f).lmem = s.lmem := rfl
@[simp] theorem modHp_fwmem (s : State) (p : Nat) (f : Hp → Hp) : (modHp s p f).fwmem = s.fwmem := rfl
@[simp] theorem modHp_msgs (s : State) (p : Nat) (f : Hp → Hp) : (modHp s p f).msgs = s.msgs := rfl
@[simp] theorem modHp_clOff (s : State) (p : Nat) (f : Hp → Hp) : (modHp s p f).clOff = s.clOff := rfl
@[simp] theorem modHp_ls (s : State) (p : Nat) (f : Hp → Hp) : (modHp s p f).ls = s.ls := rfl
@[simp] theorem modHp_tblq (s : State) (p : Nat) (f : Hp → Hp) : (modHp s p f).tblq = s.tblq := rfl
@[simp] theorem modHp_dbg (s : State) (p : Nat) (f : Hp → Hp) : (modHp s p f).dbg = s.dbg := rfl
@[simp] theorem modHp_conns (s : State) (p : Nat) (f : Hp → Hp) : (modHp s p f).conns = s.conns := rfl
@[simp] theorem modHp_unk (s : State) (p : Nat) (f : Hp → Hp) : (modHp s p f).unk = s.unk := rfl
@[simp] theorem modHp_seals (s : State) (p : Nat) (f : Hp → Hp) : (modHp s p f).seals = s.seals := rfl
@[simp] theorem modHp_sx (s : State) (p : Nat) (f : Hp → Hp) : (modHp s p f).sx = s.sx := rfl
@[simp] theorem modHp_tl (s : State) (p : Nat) (f : Hp → Hp) : (modHp s p f).tl = s.tl := rfl

@[simp] theorem modFn_clk (s : State) (p : Nat) (f : Fn) (g : FnState → FnState) : (modFn s p f g).clk = s.clk :=
  by cases f <;> rfl
@[simp] theorem modFn_free (s : State) (p : Nat) (f : Fn) (g : FnState → FnState) : (modFn s p f g).free = s.free :=
  by cases f <;> rfl
@[simp] theorem modFn_uid (s : State) (p : Nat) (f : Fn) (g : FnState → FnState) : (modFn s p f g).uid = s.uid :=
  by cases f <;> rfl
@[simp] theorem modFn_out (s : State) (p : Nat) (f : Fn) (g : FnState → FnState) : (modFn s p f g).out = s.out :=
  by cases f <;> rfl
@[simp] theorem modFn_pending (s : State) (p : Nat) (f : Fn) (g : FnState → FnState) : (modFn s p f g).pending = s.pending :=
  by cases f <;> rfl
@[simp] theorem modFn_regs (s : State) (p : Nat) (f : Fn) (g : FnState → FnState) : (modFn s p f g).regs = s.regs :=
  by cases f <;> rfl
@[simp] theorem modFn_cnt (s : State) (p : Nat) (f : Fn) (g : FnState → FnState) : (modFn s p f g).cnt = s.cnt :=
  by cases f <;> rfl
@[simp] theorem modFn_gens (s : State) (p : Nat) (f : Fn) (g : FnState → FnState) : (modFn s p f g).gens = s.gens :=
  by cases f <;> rfl
@[simp] theorem modFn_wlatch (s : State) (p : Nat) (f : Fn) (g : FnState → FnState) : (modFn s p f g).wlatch = s.wlatch :=
  by cases f <;> rfl
@[simp] theorem modFn_rlatch (s : State) (p : Nat) (f : Fn) (g : FnState → FnState) : (modFn s p f g).rlatch = s.rlatch :=
  by cases f <;> rfl
@[simp] theorem modFn_ft (s : State) (p : Nat) (f : Fn) (g : FnState → FnState) : (modFn s p f g).ft = s.ft :=
  by cases f <;> rfl
@[simp] theorem modFn_armed (s : State) (p : Nat) (f : Fn) (g : FnState → FnState) : (modFn s p f g).armed = s.armed :=
  by cases f <;> rfl
@[simp] theorem modFn_lk (s : State) (p : Nat) (f : Fn) (g : FnState → FnState) : (modFn s p f g).lk = s.lk :=
  by cases f <;> rfl
@[simp] theorem modFn_hbm (s : State) (p : Nat) (f : Fn) (g : FnState → FnState) : (modFn s p f g).hbm = s.hbm :=
  by cases f <;> rfl
@[simp] theorem modFn_md (s : State) (p : Nat) (f : Fn) (g : FnState → FnState) : (modFn s p f g).md = s.md :=
  by cases f <;> rfl
@[simp] theorem modFn_boot (s : State) (p : Nat) (f : Fn) (g : FnState → FnState) : (modFn s p f g).boot = s.boot :=
  by cases f <;> rfl
@[simp] theorem modFn_fuses (s : State) (p : Nat) (f : Fn) (g : FnState → FnState) : (modFn s p f g).fuses = s.fuses :=
  by cases f <;> rfl
@[simp] theorem modFn_coop (s : State) (p : Nat) (f : Fn) (g : FnState → FnState) : (modFn s p f g).coop = s.coop :=
  by cases f <;> rfl
@[simp] theorem modFn_mere (s : State) (p : Nat) (f : Fn) (g : FnState → FnState) : (modFn s p f g).mere = s.mere :=
  by cases f <;> rfl
@[simp] theorem modFn_sysmem (s : State) (p : Nat) (f : Fn) (g : FnState → FnState) : (modFn s p f g).sysmem = s.sysmem :=
  by cases f <;> rfl
@[simp] theorem modFn_sreads (s : State) (p : Nat) (f : Fn) (g : FnState → FnState) : (modFn s p f g).sreads = s.sreads :=
  by cases f <;> rfl
@[simp] theorem modFn_sqs (s : State) (p : Nat) (f : Fn) (g : FnState → FnState) : (modFn s p f g).sqs = s.sqs :=
  by cases f <;> rfl
@[simp] theorem modFn_cqs (s : State) (p : Nat) (f : Fn) (g : FnState → FnState) : (modFn s p f g).cqs = s.cqs :=
  by cases f <;> rfl
@[simp] theorem modFn_eqs (s : State) (p : Nat) (f : Fn) (g : FnState → FnState) : (modFn s p f g).eqs = s.eqs :=
  by cases f <;> rfl
@[simp] theorem modFn_jobs (s : State) (p : Nat) (f : Fn) (g : FnState → FnState) : (modFn s p f g).jobs = s.jobs :=
  by cases f <;> rfl
@[simp] theorem modFn_tens (s : State) (p : Nat) (f : Fn) (g : FnState → FnState) : (modFn s p f g).tens = s.tens :=
  by cases f <;> rfl
@[simp] theorem modFn_slots (s : State) (p : Nat) (f : Fn) (g : FnState → FnState) : (modFn s p f g).slots = s.slots :=
  by cases f <;> rfl
@[simp] theorem modFn_engs (s : State) (p : Nat) (f : Fn) (g : FnState → FnState) : (modFn s p f g).engs = s.engs :=
  by cases f <;> rfl
@[simp] theorem modFn_xfers (s : State) (p : Nat) (f : Fn) (g : FnState → FnState) : (modFn s p f g).xfers = s.xfers :=
  by cases f <;> rfl
@[simp] theorem modFn_reads (s : State) (p : Nat) (f : Fn) (g : FnState → FnState) : (modFn s p f g).reads = s.reads :=
  by cases f <;> rfl
@[simp] theorem modFn_wreqs (s : State) (p : Nat) (f : Fn) (g : FnState → FnState) : (modFn s p f g).wreqs = s.wreqs :=
  by cases f <;> rfl
@[simp] theorem modFn_macs (s : State) (p : Nat) (f : Fn) (g : FnState → FnState) : (modFn s p f g).macs = s.macs :=
  by cases f <;> rfl
@[simp] theorem modFn_pkts (s : State) (p : Nat) (f : Fn) (g : FnState → FnState) : (modFn s p f g).pkts = s.pkts :=
  by cases f <;> rfl
@[simp] theorem modFn_eg (s : State) (p : Nat) (f : Fn) (g : FnState → FnState) : (modFn s p f g).eg = s.eg :=
  by cases f <;> rfl
@[simp] theorem modFn_sl (s : State) (p : Nat) (f : Fn) (g : FnState → FnState) : (modFn s p f g).sl = s.sl :=
  by cases f <;> rfl
@[simp] theorem modFn_pa (s : State) (p : Nat) (f : Fn) (g : FnState → FnState) : (modFn s p f g).pa = s.pa :=
  by cases f <;> rfl
@[simp] theorem modFn_fw (s : State) (p : Nat) (f : Fn) (g : FnState → FnState) : (modFn s p f g).fw = s.fw :=
  by cases f <;> rfl
@[simp] theorem modFn_hostq (s : State) (p : Nat) (f : Fn) (g : FnState → FnState) : (modFn s p f g).hostq = s.hostq :=
  by cases f <;> rfl
@[simp] theorem modFn_cores (s : State) (p : Nat) (f : Fn) (g : FnState → FnState) : (modFn s p f g).cores = s.cores :=
  by cases f <;> rfl
@[simp] theorem modFn_fcPulse (s : State) (p : Nat) (f : Fn) (g : FnState → FnState) : (modFn s p f g).fcPulse = s.fcPulse :=
  by cases f <;> rfl
@[simp] theorem modFn_rings (s : State) (p : Nat) (f : Fn) (g : FnState → FnState) : (modFn s p f g).rings = s.rings :=
  by cases f <;> rfl
@[simp] theorem modFn_lmem (s : State) (p : Nat) (f : Fn) (g : FnState → FnState) : (modFn s p f g).lmem = s.lmem :=
  by cases f <;> rfl
@[simp] theorem modFn_fwmem (s : State) (p : Nat) (f : Fn) (g : FnState → FnState) : (modFn s p f g).fwmem = s.fwmem :=
  by cases f <;> rfl
@[simp] theorem modFn_msgs (s : State) (p : Nat) (f : Fn) (g : FnState → FnState) : (modFn s p f g).msgs = s.msgs :=
  by cases f <;> rfl
@[simp] theorem modFn_clOff (s : State) (p : Nat) (f : Fn) (g : FnState → FnState) : (modFn s p f g).clOff = s.clOff :=
  by cases f <;> rfl
@[simp] theorem modFn_ls (s : State) (p : Nat) (f : Fn) (g : FnState → FnState) : (modFn s p f g).ls = s.ls :=
  by cases f <;> rfl
@[simp] theorem modFn_tblq (s : State) (p : Nat) (f : Fn) (g : FnState → FnState) : (modFn s p f g).tblq = s.tblq :=
  by cases f <;> rfl
@[simp] theorem modFn_dbg (s : State) (p : Nat) (f : Fn) (g : FnState → FnState) : (modFn s p f g).dbg = s.dbg :=
  by cases f <;> rfl
@[simp] theorem modFn_conns (s : State) (p : Nat) (f : Fn) (g : FnState → FnState) : (modFn s p f g).conns = s.conns :=
  by cases f <;> rfl
@[simp] theorem modFn_unk (s : State) (p : Nat) (f : Fn) (g : FnState → FnState) : (modFn s p f g).unk = s.unk :=
  by cases f <;> rfl
@[simp] theorem modFn_seals (s : State) (p : Nat) (f : Fn) (g : FnState → FnState) : (modFn s p f g).seals = s.seals :=
  by cases f <;> rfl
@[simp] theorem modFn_sx (s : State) (p : Nat) (f : Fn) (g : FnState → FnState) : (modFn s p f g).sx = s.sx :=
  by cases f <;> rfl
@[simp] theorem modFn_tl (s : State) (p : Nat) (f : Fn) (g : FnState → FnState) : (modFn s p f g).tl = s.tl :=
  by cases f <;> rfl

@[simp] theorem modMac_clk (s : State) (p : Nat) (f : Mac → Mac) : (modMac s p f).clk = s.clk := rfl
@[simp] theorem modMac_free (s : State) (p : Nat) (f : Mac → Mac) : (modMac s p f).free = s.free := rfl
@[simp] theorem modMac_uid (s : State) (p : Nat) (f : Mac → Mac) : (modMac s p f).uid = s.uid := rfl
@[simp] theorem modMac_out (s : State) (p : Nat) (f : Mac → Mac) : (modMac s p f).out = s.out := rfl
@[simp] theorem modMac_pending (s : State) (p : Nat) (f : Mac → Mac) : (modMac s p f).pending = s.pending := rfl
@[simp] theorem modMac_regs (s : State) (p : Nat) (f : Mac → Mac) : (modMac s p f).regs = s.regs := rfl
@[simp] theorem modMac_cnt (s : State) (p : Nat) (f : Mac → Mac) : (modMac s p f).cnt = s.cnt := rfl
@[simp] theorem modMac_gens (s : State) (p : Nat) (f : Mac → Mac) : (modMac s p f).gens = s.gens := rfl
@[simp] theorem modMac_wlatch (s : State) (p : Nat) (f : Mac → Mac) : (modMac s p f).wlatch = s.wlatch := rfl
@[simp] theorem modMac_rlatch (s : State) (p : Nat) (f : Mac → Mac) : (modMac s p f).rlatch = s.rlatch := rfl
@[simp] theorem modMac_ft (s : State) (p : Nat) (f : Mac → Mac) : (modMac s p f).ft = s.ft := rfl
@[simp] theorem modMac_armed (s : State) (p : Nat) (f : Mac → Mac) : (modMac s p f).armed = s.armed := rfl
@[simp] theorem modMac_lk (s : State) (p : Nat) (f : Mac → Mac) : (modMac s p f).lk = s.lk := rfl
@[simp] theorem modMac_hbm (s : State) (p : Nat) (f : Mac → Mac) : (modMac s p f).hbm = s.hbm := rfl
@[simp] theorem modMac_md (s : State) (p : Nat) (f : Mac → Mac) : (modMac s p f).md = s.md := rfl
@[simp] theorem modMac_boot (s : State) (p : Nat) (f : Mac → Mac) : (modMac s p f).boot = s.boot := rfl
@[simp] theorem modMac_fuses (s : State) (p : Nat) (f : Mac → Mac) : (modMac s p f).fuses = s.fuses := rfl
@[simp] theorem modMac_coop (s : State) (p : Nat) (f : Mac → Mac) : (modMac s p f).coop = s.coop := rfl
@[simp] theorem modMac_mere (s : State) (p : Nat) (f : Mac → Mac) : (modMac s p f).mere = s.mere := rfl
@[simp] theorem modMac_sysmem (s : State) (p : Nat) (f : Mac → Mac) : (modMac s p f).sysmem = s.sysmem := rfl
@[simp] theorem modMac_hp (s : State) (p : Nat) (f : Mac → Mac) : (modMac s p f).hp = s.hp := rfl
@[simp] theorem modMac_sreads (s : State) (p : Nat) (f : Mac → Mac) : (modMac s p f).sreads = s.sreads := rfl
@[simp] theorem modMac_sqs (s : State) (p : Nat) (f : Mac → Mac) : (modMac s p f).sqs = s.sqs := rfl
@[simp] theorem modMac_cqs (s : State) (p : Nat) (f : Mac → Mac) : (modMac s p f).cqs = s.cqs := rfl
@[simp] theorem modMac_eqs (s : State) (p : Nat) (f : Mac → Mac) : (modMac s p f).eqs = s.eqs := rfl
@[simp] theorem modMac_jobs (s : State) (p : Nat) (f : Mac → Mac) : (modMac s p f).jobs = s.jobs := rfl
@[simp] theorem modMac_tens (s : State) (p : Nat) (f : Mac → Mac) : (modMac s p f).tens = s.tens := rfl
@[simp] theorem modMac_slots (s : State) (p : Nat) (f : Mac → Mac) : (modMac s p f).slots = s.slots := rfl
@[simp] theorem modMac_engs (s : State) (p : Nat) (f : Mac → Mac) : (modMac s p f).engs = s.engs := rfl
@[simp] theorem modMac_xfers (s : State) (p : Nat) (f : Mac → Mac) : (modMac s p f).xfers = s.xfers := rfl
@[simp] theorem modMac_reads (s : State) (p : Nat) (f : Mac → Mac) : (modMac s p f).reads = s.reads := rfl
@[simp] theorem modMac_wreqs (s : State) (p : Nat) (f : Mac → Mac) : (modMac s p f).wreqs = s.wreqs := rfl
@[simp] theorem modMac_pkts (s : State) (p : Nat) (f : Mac → Mac) : (modMac s p f).pkts = s.pkts := rfl
@[simp] theorem modMac_eg (s : State) (p : Nat) (f : Mac → Mac) : (modMac s p f).eg = s.eg := rfl
@[simp] theorem modMac_sl (s : State) (p : Nat) (f : Mac → Mac) : (modMac s p f).sl = s.sl := rfl
@[simp] theorem modMac_pa (s : State) (p : Nat) (f : Mac → Mac) : (modMac s p f).pa = s.pa := rfl
@[simp] theorem modMac_fw (s : State) (p : Nat) (f : Mac → Mac) : (modMac s p f).fw = s.fw := rfl
@[simp] theorem modMac_hostq (s : State) (p : Nat) (f : Mac → Mac) : (modMac s p f).hostq = s.hostq := rfl
@[simp] theorem modMac_cores (s : State) (p : Nat) (f : Mac → Mac) : (modMac s p f).cores = s.cores := rfl
@[simp] theorem modMac_fcPulse (s : State) (p : Nat) (f : Mac → Mac) : (modMac s p f).fcPulse = s.fcPulse := rfl
@[simp] theorem modMac_rings (s : State) (p : Nat) (f : Mac → Mac) : (modMac s p f).rings = s.rings := rfl
@[simp] theorem modMac_lmem (s : State) (p : Nat) (f : Mac → Mac) : (modMac s p f).lmem = s.lmem := rfl
@[simp] theorem modMac_fwmem (s : State) (p : Nat) (f : Mac → Mac) : (modMac s p f).fwmem = s.fwmem := rfl
@[simp] theorem modMac_msgs (s : State) (p : Nat) (f : Mac → Mac) : (modMac s p f).msgs = s.msgs := rfl
@[simp] theorem modMac_clOff (s : State) (p : Nat) (f : Mac → Mac) : (modMac s p f).clOff = s.clOff := rfl
@[simp] theorem modMac_ls (s : State) (p : Nat) (f : Mac → Mac) : (modMac s p f).ls = s.ls := rfl
@[simp] theorem modMac_tblq (s : State) (p : Nat) (f : Mac → Mac) : (modMac s p f).tblq = s.tblq := rfl
@[simp] theorem modMac_dbg (s : State) (p : Nat) (f : Mac → Mac) : (modMac s p f).dbg = s.dbg := rfl
@[simp] theorem modMac_conns (s : State) (p : Nat) (f : Mac → Mac) : (modMac s p f).conns = s.conns := rfl
@[simp] theorem modMac_unk (s : State) (p : Nat) (f : Mac → Mac) : (modMac s p f).unk = s.unk := rfl
@[simp] theorem modMac_seals (s : State) (p : Nat) (f : Mac → Mac) : (modMac s p f).seals = s.seals := rfl
@[simp] theorem modMac_sx (s : State) (p : Nat) (f : Mac → Mac) : (modMac s p f).sx = s.sx := rfl
@[simp] theorem modMac_tl (s : State) (p : Nat) (f : Mac → Mac) : (modMac s p f).tl = s.tl := rfl

@[simp] theorem pushCpl_clk (s : State) (q : Nat) (c : Cpl) : (pushCpl s q c).clk = s.clk := rfl
@[simp] theorem pushCpl_free (s : State) (q : Nat) (c : Cpl) : (pushCpl s q c).free = s.free := rfl
@[simp] theorem pushCpl_uid (s : State) (q : Nat) (c : Cpl) : (pushCpl s q c).uid = s.uid := rfl
@[simp] theorem pushCpl_out (s : State) (q : Nat) (c : Cpl) : (pushCpl s q c).out = s.out := rfl
@[simp] theorem pushCpl_pending (s : State) (q : Nat) (c : Cpl) : (pushCpl s q c).pending = s.pending := rfl
@[simp] theorem pushCpl_regs (s : State) (q : Nat) (c : Cpl) : (pushCpl s q c).regs = s.regs := rfl
@[simp] theorem pushCpl_cnt (s : State) (q : Nat) (c : Cpl) : (pushCpl s q c).cnt = s.cnt := rfl
@[simp] theorem pushCpl_gens (s : State) (q : Nat) (c : Cpl) : (pushCpl s q c).gens = s.gens := rfl
@[simp] theorem pushCpl_wlatch (s : State) (q : Nat) (c : Cpl) : (pushCpl s q c).wlatch = s.wlatch := rfl
@[simp] theorem pushCpl_rlatch (s : State) (q : Nat) (c : Cpl) : (pushCpl s q c).rlatch = s.rlatch := rfl
@[simp] theorem pushCpl_ft (s : State) (q : Nat) (c : Cpl) : (pushCpl s q c).ft = s.ft := rfl
@[simp] theorem pushCpl_armed (s : State) (q : Nat) (c : Cpl) : (pushCpl s q c).armed = s.armed := rfl
@[simp] theorem pushCpl_lk (s : State) (q : Nat) (c : Cpl) : (pushCpl s q c).lk = s.lk := rfl
@[simp] theorem pushCpl_hbm (s : State) (q : Nat) (c : Cpl) : (pushCpl s q c).hbm = s.hbm := rfl
@[simp] theorem pushCpl_md (s : State) (q : Nat) (c : Cpl) : (pushCpl s q c).md = s.md := rfl
@[simp] theorem pushCpl_boot (s : State) (q : Nat) (c : Cpl) : (pushCpl s q c).boot = s.boot := rfl
@[simp] theorem pushCpl_fuses (s : State) (q : Nat) (c : Cpl) : (pushCpl s q c).fuses = s.fuses := rfl
@[simp] theorem pushCpl_coop (s : State) (q : Nat) (c : Cpl) : (pushCpl s q c).coop = s.coop := rfl
@[simp] theorem pushCpl_mere (s : State) (q : Nat) (c : Cpl) : (pushCpl s q c).mere = s.mere := rfl
@[simp] theorem pushCpl_sysmem (s : State) (q : Nat) (c : Cpl) : (pushCpl s q c).sysmem = s.sysmem := rfl
@[simp] theorem pushCpl_hp (s : State) (q : Nat) (c : Cpl) : (pushCpl s q c).hp = s.hp := rfl
@[simp] theorem pushCpl_sreads (s : State) (q : Nat) (c : Cpl) : (pushCpl s q c).sreads = s.sreads := rfl
@[simp] theorem pushCpl_sqs (s : State) (q : Nat) (c : Cpl) : (pushCpl s q c).sqs = s.sqs := rfl
@[simp] theorem pushCpl_eqs (s : State) (q : Nat) (c : Cpl) : (pushCpl s q c).eqs = s.eqs := rfl
@[simp] theorem pushCpl_jobs (s : State) (q : Nat) (c : Cpl) : (pushCpl s q c).jobs = s.jobs := rfl
@[simp] theorem pushCpl_tens (s : State) (q : Nat) (c : Cpl) : (pushCpl s q c).tens = s.tens := rfl
@[simp] theorem pushCpl_slots (s : State) (q : Nat) (c : Cpl) : (pushCpl s q c).slots = s.slots := rfl
@[simp] theorem pushCpl_engs (s : State) (q : Nat) (c : Cpl) : (pushCpl s q c).engs = s.engs := rfl
@[simp] theorem pushCpl_xfers (s : State) (q : Nat) (c : Cpl) : (pushCpl s q c).xfers = s.xfers := rfl
@[simp] theorem pushCpl_reads (s : State) (q : Nat) (c : Cpl) : (pushCpl s q c).reads = s.reads := rfl
@[simp] theorem pushCpl_wreqs (s : State) (q : Nat) (c : Cpl) : (pushCpl s q c).wreqs = s.wreqs := rfl
@[simp] theorem pushCpl_macs (s : State) (q : Nat) (c : Cpl) : (pushCpl s q c).macs = s.macs := rfl
@[simp] theorem pushCpl_pkts (s : State) (q : Nat) (c : Cpl) : (pushCpl s q c).pkts = s.pkts := rfl
@[simp] theorem pushCpl_eg (s : State) (q : Nat) (c : Cpl) : (pushCpl s q c).eg = s.eg := rfl
@[simp] theorem pushCpl_sl (s : State) (q : Nat) (c : Cpl) : (pushCpl s q c).sl = s.sl := rfl
@[simp] theorem pushCpl_pa (s : State) (q : Nat) (c : Cpl) : (pushCpl s q c).pa = s.pa := rfl
@[simp] theorem pushCpl_fw (s : State) (q : Nat) (c : Cpl) : (pushCpl s q c).fw = s.fw := rfl
@[simp] theorem pushCpl_hostq (s : State) (q : Nat) (c : Cpl) : (pushCpl s q c).hostq = s.hostq := rfl
@[simp] theorem pushCpl_cores (s : State) (q : Nat) (c : Cpl) : (pushCpl s q c).cores = s.cores := rfl
@[simp] theorem pushCpl_fcPulse (s : State) (q : Nat) (c : Cpl) : (pushCpl s q c).fcPulse = s.fcPulse := rfl
@[simp] theorem pushCpl_rings (s : State) (q : Nat) (c : Cpl) : (pushCpl s q c).rings = s.rings := rfl
@[simp] theorem pushCpl_lmem (s : State) (q : Nat) (c : Cpl) : (pushCpl s q c).lmem = s.lmem := rfl
@[simp] theorem pushCpl_fwmem (s : State) (q : Nat) (c : Cpl) : (pushCpl s q c).fwmem = s.fwmem := rfl
@[simp] theorem pushCpl_msgs (s : State) (q : Nat) (c : Cpl) : (pushCpl s q c).msgs = s.msgs := rfl
@[simp] theorem pushCpl_clOff (s : State) (q : Nat) (c : Cpl) : (pushCpl s q c).clOff = s.clOff := rfl
@[simp] theorem pushCpl_ls (s : State) (q : Nat) (c : Cpl) : (pushCpl s q c).ls = s.ls := rfl
@[simp] theorem pushCpl_tblq (s : State) (q : Nat) (c : Cpl) : (pushCpl s q c).tblq = s.tblq := rfl
@[simp] theorem pushCpl_dbg (s : State) (q : Nat) (c : Cpl) : (pushCpl s q c).dbg = s.dbg := rfl
@[simp] theorem pushCpl_conns (s : State) (q : Nat) (c : Cpl) : (pushCpl s q c).conns = s.conns := rfl
@[simp] theorem pushCpl_unk (s : State) (q : Nat) (c : Cpl) : (pushCpl s q c).unk = s.unk := rfl
@[simp] theorem pushCpl_seals (s : State) (q : Nat) (c : Cpl) : (pushCpl s q c).seals = s.seals := rfl
@[simp] theorem pushCpl_sx (s : State) (q : Nat) (c : Cpl) : (pushCpl s q c).sx = s.sx := rfl
@[simp] theorem pushCpl_tl (s : State) (q : Nat) (c : Cpl) : (pushCpl s q c).tl = s.tl := rfl

@[simp] theorem raise_clk (s : State) (e : Ev) (i : Nat) : (raise s e i).clk = s.clk :=
  by unfold raise; (repeat' split) <;> rfl
@[simp] theorem raise_free (s : State) (e : Ev) (i : Nat) : (raise s e i).free = s.free :=
  by unfold raise; (repeat' split) <;> rfl
@[simp] theorem raise_uid (s : State) (e : Ev) (i : Nat) : (raise s e i).uid = s.uid :=
  by unfold raise; (repeat' split) <;> rfl
@[simp] theorem raise_out (s : State) (e : Ev) (i : Nat) : (raise s e i).out = s.out :=
  by unfold raise; (repeat' split) <;> rfl
@[simp] theorem raise_pending (s : State) (e : Ev) (i : Nat) : (raise s e i).pending = s.pending :=
  by unfold raise; (repeat' split) <;> rfl
@[simp] theorem raise_regs (s : State) (e : Ev) (i : Nat) : (raise s e i).regs = s.regs :=
  by unfold raise; (repeat' split) <;> rfl
@[simp] theorem raise_cnt (s : State) (e : Ev) (i : Nat) : (raise s e i).cnt = s.cnt :=
  by unfold raise; (repeat' split) <;> rfl
@[simp] theorem raise_gens (s : State) (e : Ev) (i : Nat) : (raise s e i).gens = s.gens :=
  by unfold raise; (repeat' split) <;> rfl
@[simp] theorem raise_wlatch (s : State) (e : Ev) (i : Nat) : (raise s e i).wlatch = s.wlatch :=
  by unfold raise; (repeat' split) <;> rfl
@[simp] theorem raise_rlatch (s : State) (e : Ev) (i : Nat) : (raise s e i).rlatch = s.rlatch :=
  by unfold raise; (repeat' split) <;> rfl
@[simp] theorem raise_ft (s : State) (e : Ev) (i : Nat) : (raise s e i).ft = s.ft :=
  by unfold raise; (repeat' split) <;> rfl
@[simp] theorem raise_armed (s : State) (e : Ev) (i : Nat) : (raise s e i).armed = s.armed :=
  by unfold raise; (repeat' split) <;> rfl
@[simp] theorem raise_hbm (s : State) (e : Ev) (i : Nat) : (raise s e i).hbm = s.hbm :=
  by unfold raise; (repeat' split) <;> rfl
@[simp] theorem raise_md (s : State) (e : Ev) (i : Nat) : (raise s e i).md = s.md :=
  by unfold raise; (repeat' split) <;> rfl
@[simp] theorem raise_boot (s : State) (e : Ev) (i : Nat) : (raise s e i).boot = s.boot :=
  by unfold raise; (repeat' split) <;> rfl
@[simp] theorem raise_fuses (s : State) (e : Ev) (i : Nat) : (raise s e i).fuses = s.fuses :=
  by unfold raise; (repeat' split) <;> rfl
@[simp] theorem raise_coop (s : State) (e : Ev) (i : Nat) : (raise s e i).coop = s.coop :=
  by unfold raise; (repeat' split) <;> rfl
@[simp] theorem raise_mere (s : State) (e : Ev) (i : Nat) : (raise s e i).mere = s.mere :=
  by unfold raise; (repeat' split) <;> rfl
@[simp] theorem raise_sysmem (s : State) (e : Ev) (i : Nat) : (raise s e i).sysmem = s.sysmem :=
  by unfold raise; (repeat' split) <;> rfl
@[simp] theorem raise_hp (s : State) (e : Ev) (i : Nat) : (raise s e i).hp = s.hp :=
  by unfold raise; (repeat' split) <;> rfl
@[simp] theorem raise_sreads (s : State) (e : Ev) (i : Nat) : (raise s e i).sreads = s.sreads :=
  by unfold raise; (repeat' split) <;> rfl
@[simp] theorem raise_sqs (s : State) (e : Ev) (i : Nat) : (raise s e i).sqs = s.sqs :=
  by unfold raise; (repeat' split) <;> rfl
@[simp] theorem raise_cqs (s : State) (e : Ev) (i : Nat) : (raise s e i).cqs = s.cqs :=
  by unfold raise; (repeat' split) <;> rfl
@[simp] theorem raise_eqs (s : State) (e : Ev) (i : Nat) : (raise s e i).eqs = s.eqs :=
  by unfold raise; (repeat' split) <;> rfl
@[simp] theorem raise_jobs (s : State) (e : Ev) (i : Nat) : (raise s e i).jobs = s.jobs :=
  by unfold raise; (repeat' split) <;> rfl
@[simp] theorem raise_tens (s : State) (e : Ev) (i : Nat) : (raise s e i).tens = s.tens :=
  by unfold raise; (repeat' split) <;> rfl
@[simp] theorem raise_slots (s : State) (e : Ev) (i : Nat) : (raise s e i).slots = s.slots :=
  by unfold raise; (repeat' split) <;> rfl
@[simp] theorem raise_engs (s : State) (e : Ev) (i : Nat) : (raise s e i).engs = s.engs :=
  by unfold raise; (repeat' split) <;> rfl
@[simp] theorem raise_xfers (s : State) (e : Ev) (i : Nat) : (raise s e i).xfers = s.xfers :=
  by unfold raise; (repeat' split) <;> rfl
@[simp] theorem raise_reads (s : State) (e : Ev) (i : Nat) : (raise s e i).reads = s.reads :=
  by unfold raise; (repeat' split) <;> rfl
@[simp] theorem raise_wreqs (s : State) (e : Ev) (i : Nat) : (raise s e i).wreqs = s.wreqs :=
  by unfold raise; (repeat' split) <;> rfl
@[simp] theorem raise_macs (s : State) (e : Ev) (i : Nat) : (raise s e i).macs = s.macs :=
  by unfold raise; (repeat' split) <;> rfl
@[simp] theorem raise_pkts (s : State) (e : Ev) (i : Nat) : (raise s e i).pkts = s.pkts :=
  by unfold raise; (repeat' split) <;> rfl
@[simp] theorem raise_eg (s : State) (e : Ev) (i : Nat) : (raise s e i).eg = s.eg :=
  by unfold raise; (repeat' split) <;> rfl
@[simp] theorem raise_sl (s : State) (e : Ev) (i : Nat) : (raise s e i).sl = s.sl :=
  by unfold raise; (repeat' split) <;> rfl
@[simp] theorem raise_pa (s : State) (e : Ev) (i : Nat) : (raise s e i).pa = s.pa :=
  by unfold raise; (repeat' split) <;> rfl
@[simp] theorem raise_fw (s : State) (e : Ev) (i : Nat) : (raise s e i).fw = s.fw :=
  by unfold raise; (repeat' split) <;> rfl
@[simp] theorem raise_hostq (s : State) (e : Ev) (i : Nat) : (raise s e i).hostq = s.hostq :=
  by unfold raise; (repeat' split) <;> rfl
@[simp] theorem raise_cores (s : State) (e : Ev) (i : Nat) : (raise s e i).cores = s.cores :=
  by unfold raise; (repeat' split) <;> rfl
@[simp] theorem raise_fcPulse (s : State) (e : Ev) (i : Nat) : (raise s e i).fcPulse = s.fcPulse :=
  by unfold raise; (repeat' split) <;> rfl
@[simp] theorem raise_rings (s : State) (e : Ev) (i : Nat) : (raise s e i).rings = s.rings :=
  by unfold raise; (repeat' split) <;> rfl
@[simp] theorem raise_lmem (s : State) (e : Ev) (i : Nat) : (raise s e i).lmem = s.lmem :=
  by unfold raise; (repeat' split) <;> rfl
@[simp] theorem raise_fwmem (s : State) (e : Ev) (i : Nat) : (raise s e i).fwmem = s.fwmem :=
  by unfold raise; (repeat' split) <;> rfl
@[simp] theorem raise_msgs (s : State) (e : Ev) (i : Nat) : (raise s e i).msgs = s.msgs :=
  by unfold raise; (repeat' split) <;> rfl
@[simp] theorem raise_clOff (s : State) (e : Ev) (i : Nat) : (raise s e i).clOff = s.clOff :=
  by unfold raise; (repeat' split) <;> rfl
@[simp] theorem raise_ls (s : State) (e : Ev) (i : Nat) : (raise s e i).ls = s.ls :=
  by unfold raise; (repeat' split) <;> rfl
@[simp] theorem raise_tblq (s : State) (e : Ev) (i : Nat) : (raise s e i).tblq = s.tblq :=
  by unfold raise; (repeat' split) <;> rfl
@[simp] theorem raise_dbg (s : State) (e : Ev) (i : Nat) : (raise s e i).dbg = s.dbg :=
  by unfold raise; (repeat' split) <;> rfl
@[simp] theorem raise_conns (s : State) (e : Ev) (i : Nat) : (raise s e i).conns = s.conns :=
  by unfold raise; (repeat' split) <;> rfl
@[simp] theorem raise_unk (s : State) (e : Ev) (i : Nat) : (raise s e i).unk = s.unk :=
  by unfold raise; (repeat' split) <;> rfl
@[simp] theorem raise_seals (s : State) (e : Ev) (i : Nat) : (raise s e i).seals = s.seals :=
  by unfold raise; (repeat' split) <;> rfl
@[simp] theorem raise_sx (s : State) (e : Ev) (i : Nat) : (raise s e i).sx = s.sx :=
  by unfold raise; (repeat' split) <;> rfl
@[simp] theorem raise_tl (s : State) (e : Ev) (i : Nat) : (raise s e i).tl = s.tl :=
  by unfold raise; (repeat' split) <;> rfl

@[simp] theorem modAer_clk (s : State) (p : Nat) (f : Fn) (g : Aer → Aer) : (modAer s p f g).clk = s.clk :=
  by cases f <;> rfl
@[simp] theorem modAer_free (s : State) (p : Nat) (f : Fn) (g : Aer → Aer) : (modAer s p f g).free = s.free :=
  by cases f <;> rfl
@[simp] theorem modAer_uid (s : State) (p : Nat) (f : Fn) (g : Aer → Aer) : (modAer s p f g).uid = s.uid :=
  by cases f <;> rfl
@[simp] theorem modAer_out (s : State) (p : Nat) (f : Fn) (g : Aer → Aer) : (modAer s p f g).out = s.out :=
  by cases f <;> rfl
@[simp] theorem modAer_pending (s : State) (p : Nat) (f : Fn) (g : Aer → Aer) : (modAer s p f g).pending = s.pending :=
  by cases f <;> rfl
@[simp] theorem modAer_regs (s : State) (p : Nat) (f : Fn) (g : Aer → Aer) : (modAer s p f g).regs = s.regs :=
  by cases f <;> rfl
@[simp] theorem modAer_cnt (s : State) (p : Nat) (f : Fn) (g : Aer → Aer) : (modAer s p f g).cnt = s.cnt :=
  by cases f <;> rfl
@[simp] theorem modAer_gens (s : State) (p : Nat) (f : Fn) (g : Aer → Aer) : (modAer s p f g).gens = s.gens :=
  by cases f <;> rfl
@[simp] theorem modAer_wlatch (s : State) (p : Nat) (f : Fn) (g : Aer → Aer) : (modAer s p f g).wlatch = s.wlatch :=
  by cases f <;> rfl
@[simp] theorem modAer_rlatch (s : State) (p : Nat) (f : Fn) (g : Aer → Aer) : (modAer s p f g).rlatch = s.rlatch :=
  by cases f <;> rfl
@[simp] theorem modAer_ft (s : State) (p : Nat) (f : Fn) (g : Aer → Aer) : (modAer s p f g).ft = s.ft :=
  by cases f <;> rfl
@[simp] theorem modAer_armed (s : State) (p : Nat) (f : Fn) (g : Aer → Aer) : (modAer s p f g).armed = s.armed :=
  by cases f <;> rfl
@[simp] theorem modAer_lk (s : State) (p : Nat) (f : Fn) (g : Aer → Aer) : (modAer s p f g).lk = s.lk :=
  by cases f <;> rfl
@[simp] theorem modAer_hbm (s : State) (p : Nat) (f : Fn) (g : Aer → Aer) : (modAer s p f g).hbm = s.hbm :=
  by cases f <;> rfl
@[simp] theorem modAer_md (s : State) (p : Nat) (f : Fn) (g : Aer → Aer) : (modAer s p f g).md = s.md :=
  by cases f <;> rfl
@[simp] theorem modAer_boot (s : State) (p : Nat) (f : Fn) (g : Aer → Aer) : (modAer s p f g).boot = s.boot :=
  by cases f <;> rfl
@[simp] theorem modAer_fuses (s : State) (p : Nat) (f : Fn) (g : Aer → Aer) : (modAer s p f g).fuses = s.fuses :=
  by cases f <;> rfl
@[simp] theorem modAer_coop (s : State) (p : Nat) (f : Fn) (g : Aer → Aer) : (modAer s p f g).coop = s.coop :=
  by cases f <;> rfl
@[simp] theorem modAer_mere (s : State) (p : Nat) (f : Fn) (g : Aer → Aer) : (modAer s p f g).mere = s.mere :=
  by cases f <;> rfl
@[simp] theorem modAer_sysmem (s : State) (p : Nat) (f : Fn) (g : Aer → Aer) : (modAer s p f g).sysmem = s.sysmem :=
  by cases f <;> rfl
@[simp] theorem modAer_sreads (s : State) (p : Nat) (f : Fn) (g : Aer → Aer) : (modAer s p f g).sreads = s.sreads :=
  by cases f <;> rfl
@[simp] theorem modAer_sqs (s : State) (p : Nat) (f : Fn) (g : Aer → Aer) : (modAer s p f g).sqs = s.sqs :=
  by cases f <;> rfl
@[simp] theorem modAer_cqs (s : State) (p : Nat) (f : Fn) (g : Aer → Aer) : (modAer s p f g).cqs = s.cqs :=
  by cases f <;> rfl
@[simp] theorem modAer_eqs (s : State) (p : Nat) (f : Fn) (g : Aer → Aer) : (modAer s p f g).eqs = s.eqs :=
  by cases f <;> rfl
@[simp] theorem modAer_jobs (s : State) (p : Nat) (f : Fn) (g : Aer → Aer) : (modAer s p f g).jobs = s.jobs :=
  by cases f <;> rfl
@[simp] theorem modAer_tens (s : State) (p : Nat) (f : Fn) (g : Aer → Aer) : (modAer s p f g).tens = s.tens :=
  by cases f <;> rfl
@[simp] theorem modAer_slots (s : State) (p : Nat) (f : Fn) (g : Aer → Aer) : (modAer s p f g).slots = s.slots :=
  by cases f <;> rfl
@[simp] theorem modAer_engs (s : State) (p : Nat) (f : Fn) (g : Aer → Aer) : (modAer s p f g).engs = s.engs :=
  by cases f <;> rfl
@[simp] theorem modAer_xfers (s : State) (p : Nat) (f : Fn) (g : Aer → Aer) : (modAer s p f g).xfers = s.xfers :=
  by cases f <;> rfl
@[simp] theorem modAer_reads (s : State) (p : Nat) (f : Fn) (g : Aer → Aer) : (modAer s p f g).reads = s.reads :=
  by cases f <;> rfl
@[simp] theorem modAer_wreqs (s : State) (p : Nat) (f : Fn) (g : Aer → Aer) : (modAer s p f g).wreqs = s.wreqs :=
  by cases f <;> rfl
@[simp] theorem modAer_macs (s : State) (p : Nat) (f : Fn) (g : Aer → Aer) : (modAer s p f g).macs = s.macs :=
  by cases f <;> rfl
@[simp] theorem modAer_pkts (s : State) (p : Nat) (f : Fn) (g : Aer → Aer) : (modAer s p f g).pkts = s.pkts :=
  by cases f <;> rfl
@[simp] theorem modAer_eg (s : State) (p : Nat) (f : Fn) (g : Aer → Aer) : (modAer s p f g).eg = s.eg :=
  by cases f <;> rfl
@[simp] theorem modAer_sl (s : State) (p : Nat) (f : Fn) (g : Aer → Aer) : (modAer s p f g).sl = s.sl :=
  by cases f <;> rfl
@[simp] theorem modAer_pa (s : State) (p : Nat) (f : Fn) (g : Aer → Aer) : (modAer s p f g).pa = s.pa :=
  by cases f <;> rfl
@[simp] theorem modAer_fw (s : State) (p : Nat) (f : Fn) (g : Aer → Aer) : (modAer s p f g).fw = s.fw :=
  by cases f <;> rfl
@[simp] theorem modAer_hostq (s : State) (p : Nat) (f : Fn) (g : Aer → Aer) : (modAer s p f g).hostq = s.hostq :=
  by cases f <;> rfl
@[simp] theorem modAer_cores (s : State) (p : Nat) (f : Fn) (g : Aer → Aer) : (modAer s p f g).cores = s.cores :=
  by cases f <;> rfl
@[simp] theorem modAer_fcPulse (s : State) (p : Nat) (f : Fn) (g : Aer → Aer) : (modAer s p f g).fcPulse = s.fcPulse :=
  by cases f <;> rfl
@[simp] theorem modAer_rings (s : State) (p : Nat) (f : Fn) (g : Aer → Aer) : (modAer s p f g).rings = s.rings :=
  by cases f <;> rfl
@[simp] theorem modAer_lmem (s : State) (p : Nat) (f : Fn) (g : Aer → Aer) : (modAer s p f g).lmem = s.lmem :=
  by cases f <;> rfl
@[simp] theorem modAer_fwmem (s : State) (p : Nat) (f : Fn) (g : Aer → Aer) : (modAer s p f g).fwmem = s.fwmem :=
  by cases f <;> rfl
@[simp] theorem modAer_msgs (s : State) (p : Nat) (f : Fn) (g : Aer → Aer) : (modAer s p f g).msgs = s.msgs :=
  by cases f <;> rfl
@[simp] theorem modAer_clOff (s : State) (p : Nat) (f : Fn) (g : Aer → Aer) : (modAer s p f g).clOff = s.clOff :=
  by cases f <;> rfl
@[simp] theorem modAer_ls (s : State) (p : Nat) (f : Fn) (g : Aer → Aer) : (modAer s p f g).ls = s.ls :=
  by cases f <;> rfl
@[simp] theorem modAer_tblq (s : State) (p : Nat) (f : Fn) (g : Aer → Aer) : (modAer s p f g).tblq = s.tblq :=
  by cases f <;> rfl
@[simp] theorem modAer_dbg (s : State) (p : Nat) (f : Fn) (g : Aer → Aer) : (modAer s p f g).dbg = s.dbg :=
  by cases f <;> rfl
@[simp] theorem modAer_conns (s : State) (p : Nat) (f : Fn) (g : Aer → Aer) : (modAer s p f g).conns = s.conns :=
  by cases f <;> rfl
@[simp] theorem modAer_unk (s : State) (p : Nat) (f : Fn) (g : Aer → Aer) : (modAer s p f g).unk = s.unk :=
  by cases f <;> rfl
@[simp] theorem modAer_seals (s : State) (p : Nat) (f : Fn) (g : Aer → Aer) : (modAer s p f g).seals = s.seals :=
  by cases f <;> rfl
@[simp] theorem modAer_sx (s : State) (p : Nat) (f : Fn) (g : Aer → Aer) : (modAer s p f g).sx = s.sx :=
  by cases f <;> rfl
@[simp] theorem modAer_tl (s : State) (p : Nat) (f : Fn) (g : Aer → Aer) : (modAer s p f g).tl = s.tl :=
  by cases f <;> rfl

@[simp] theorem hostWrite_clk (s : State) (p : Nat) (o : Option Nat) (a : Nat) (b : List Byte) (ns : Bool) : (hostWrite s p o a b ns).clk = s.clk :=
  rfl
@[simp] theorem hostWrite_free (s : State) (p : Nat) (o : Option Nat) (a : Nat) (b : List Byte) (ns : Bool) : (hostWrite s p o a b ns).free = s.free :=
  rfl
@[simp] theorem hostWrite_uid (s : State) (p : Nat) (o : Option Nat) (a : Nat) (b : List Byte) (ns : Bool) : (hostWrite s p o a b ns).uid = s.uid :=
  rfl
@[simp] theorem hostWrite_pending (s : State) (p : Nat) (o : Option Nat) (a : Nat) (b : List Byte) (ns : Bool) : (hostWrite s p o a b ns).pending = s.pending :=
  rfl
@[simp] theorem hostWrite_regs (s : State) (p : Nat) (o : Option Nat) (a : Nat) (b : List Byte) (ns : Bool) : (hostWrite s p o a b ns).regs = s.regs :=
  rfl
@[simp] theorem hostWrite_cnt (s : State) (p : Nat) (o : Option Nat) (a : Nat) (b : List Byte) (ns : Bool) : (hostWrite s p o a b ns).cnt = s.cnt :=
  rfl
@[simp] theorem hostWrite_gens (s : State) (p : Nat) (o : Option Nat) (a : Nat) (b : List Byte) (ns : Bool) : (hostWrite s p o a b ns).gens = s.gens :=
  rfl
@[simp] theorem hostWrite_wlatch (s : State) (p : Nat) (o : Option Nat) (a : Nat) (b : List Byte) (ns : Bool) : (hostWrite s p o a b ns).wlatch = s.wlatch :=
  rfl
@[simp] theorem hostWrite_rlatch (s : State) (p : Nat) (o : Option Nat) (a : Nat) (b : List Byte) (ns : Bool) : (hostWrite s p o a b ns).rlatch = s.rlatch :=
  rfl
@[simp] theorem hostWrite_ft (s : State) (p : Nat) (o : Option Nat) (a : Nat) (b : List Byte) (ns : Bool) : (hostWrite s p o a b ns).ft = s.ft :=
  rfl
@[simp] theorem hostWrite_armed (s : State) (p : Nat) (o : Option Nat) (a : Nat) (b : List Byte) (ns : Bool) : (hostWrite s p o a b ns).armed = s.armed :=
  rfl
@[simp] theorem hostWrite_lk (s : State) (p : Nat) (o : Option Nat) (a : Nat) (b : List Byte) (ns : Bool) : (hostWrite s p o a b ns).lk = s.lk :=
  rfl
@[simp] theorem hostWrite_hbm (s : State) (p : Nat) (o : Option Nat) (a : Nat) (b : List Byte) (ns : Bool) : (hostWrite s p o a b ns).hbm = s.hbm :=
  rfl
@[simp] theorem hostWrite_md (s : State) (p : Nat) (o : Option Nat) (a : Nat) (b : List Byte) (ns : Bool) : (hostWrite s p o a b ns).md = s.md :=
  rfl
@[simp] theorem hostWrite_boot (s : State) (p : Nat) (o : Option Nat) (a : Nat) (b : List Byte) (ns : Bool) : (hostWrite s p o a b ns).boot = s.boot :=
  rfl
@[simp] theorem hostWrite_fuses (s : State) (p : Nat) (o : Option Nat) (a : Nat) (b : List Byte) (ns : Bool) : (hostWrite s p o a b ns).fuses = s.fuses :=
  rfl
@[simp] theorem hostWrite_coop (s : State) (p : Nat) (o : Option Nat) (a : Nat) (b : List Byte) (ns : Bool) : (hostWrite s p o a b ns).coop = s.coop :=
  rfl
@[simp] theorem hostWrite_mere (s : State) (p : Nat) (o : Option Nat) (a : Nat) (b : List Byte) (ns : Bool) : (hostWrite s p o a b ns).mere = s.mere :=
  rfl
@[simp] theorem hostWrite_sysmem (s : State) (p : Nat) (o : Option Nat) (a : Nat) (b : List Byte) (ns : Bool) : (hostWrite s p o a b ns).sysmem = s.sysmem :=
  rfl
@[simp] theorem hostWrite_hp (s : State) (p : Nat) (o : Option Nat) (a : Nat) (b : List Byte) (ns : Bool) : (hostWrite s p o a b ns).hp = s.hp :=
  rfl
@[simp] theorem hostWrite_sreads (s : State) (p : Nat) (o : Option Nat) (a : Nat) (b : List Byte) (ns : Bool) : (hostWrite s p o a b ns).sreads = s.sreads :=
  rfl
@[simp] theorem hostWrite_sqs (s : State) (p : Nat) (o : Option Nat) (a : Nat) (b : List Byte) (ns : Bool) : (hostWrite s p o a b ns).sqs = s.sqs :=
  rfl
@[simp] theorem hostWrite_cqs (s : State) (p : Nat) (o : Option Nat) (a : Nat) (b : List Byte) (ns : Bool) : (hostWrite s p o a b ns).cqs = s.cqs :=
  rfl
@[simp] theorem hostWrite_eqs (s : State) (p : Nat) (o : Option Nat) (a : Nat) (b : List Byte) (ns : Bool) : (hostWrite s p o a b ns).eqs = s.eqs :=
  rfl
@[simp] theorem hostWrite_jobs (s : State) (p : Nat) (o : Option Nat) (a : Nat) (b : List Byte) (ns : Bool) : (hostWrite s p o a b ns).jobs = s.jobs :=
  rfl
@[simp] theorem hostWrite_tens (s : State) (p : Nat) (o : Option Nat) (a : Nat) (b : List Byte) (ns : Bool) : (hostWrite s p o a b ns).tens = s.tens :=
  rfl
@[simp] theorem hostWrite_slots (s : State) (p : Nat) (o : Option Nat) (a : Nat) (b : List Byte) (ns : Bool) : (hostWrite s p o a b ns).slots = s.slots :=
  rfl
@[simp] theorem hostWrite_engs (s : State) (p : Nat) (o : Option Nat) (a : Nat) (b : List Byte) (ns : Bool) : (hostWrite s p o a b ns).engs = s.engs :=
  rfl
@[simp] theorem hostWrite_xfers (s : State) (p : Nat) (o : Option Nat) (a : Nat) (b : List Byte) (ns : Bool) : (hostWrite s p o a b ns).xfers = s.xfers :=
  rfl
@[simp] theorem hostWrite_reads (s : State) (p : Nat) (o : Option Nat) (a : Nat) (b : List Byte) (ns : Bool) : (hostWrite s p o a b ns).reads = s.reads :=
  rfl
@[simp] theorem hostWrite_wreqs (s : State) (p : Nat) (o : Option Nat) (a : Nat) (b : List Byte) (ns : Bool) : (hostWrite s p o a b ns).wreqs = s.wreqs :=
  rfl
@[simp] theorem hostWrite_macs (s : State) (p : Nat) (o : Option Nat) (a : Nat) (b : List Byte) (ns : Bool) : (hostWrite s p o a b ns).macs = s.macs :=
  rfl
@[simp] theorem hostWrite_pkts (s : State) (p : Nat) (o : Option Nat) (a : Nat) (b : List Byte) (ns : Bool) : (hostWrite s p o a b ns).pkts = s.pkts :=
  rfl
@[simp] theorem hostWrite_eg (s : State) (p : Nat) (o : Option Nat) (a : Nat) (b : List Byte) (ns : Bool) : (hostWrite s p o a b ns).eg = s.eg :=
  rfl
@[simp] theorem hostWrite_sl (s : State) (p : Nat) (o : Option Nat) (a : Nat) (b : List Byte) (ns : Bool) : (hostWrite s p o a b ns).sl = s.sl :=
  rfl
@[simp] theorem hostWrite_pa (s : State) (p : Nat) (o : Option Nat) (a : Nat) (b : List Byte) (ns : Bool) : (hostWrite s p o a b ns).pa = s.pa :=
  rfl
@[simp] theorem hostWrite_fw (s : State) (p : Nat) (o : Option Nat) (a : Nat) (b : List Byte) (ns : Bool) : (hostWrite s p o a b ns).fw = s.fw :=
  rfl
@[simp] theorem hostWrite_hostq (s : State) (p : Nat) (o : Option Nat) (a : Nat) (b : List Byte) (ns : Bool) : (hostWrite s p o a b ns).hostq = s.hostq :=
  rfl
@[simp] theorem hostWrite_cores (s : State) (p : Nat) (o : Option Nat) (a : Nat) (b : List Byte) (ns : Bool) : (hostWrite s p o a b ns).cores = s.cores :=
  rfl
@[simp] theorem hostWrite_fcPulse (s : State) (p : Nat) (o : Option Nat) (a : Nat) (b : List Byte) (ns : Bool) : (hostWrite s p o a b ns).fcPulse = s.fcPulse :=
  rfl
@[simp] theorem hostWrite_rings (s : State) (p : Nat) (o : Option Nat) (a : Nat) (b : List Byte) (ns : Bool) : (hostWrite s p o a b ns).rings = s.rings :=
  rfl
@[simp] theorem hostWrite_lmem (s : State) (p : Nat) (o : Option Nat) (a : Nat) (b : List Byte) (ns : Bool) : (hostWrite s p o a b ns).lmem = s.lmem :=
  rfl
@[simp] theorem hostWrite_fwmem (s : State) (p : Nat) (o : Option Nat) (a : Nat) (b : List Byte) (ns : Bool) : (hostWrite s p o a b ns).fwmem = s.fwmem :=
  rfl
@[simp] theorem hostWrite_msgs (s : State) (p : Nat) (o : Option Nat) (a : Nat) (b : List Byte) (ns : Bool) : (hostWrite s p o a b ns).msgs = s.msgs :=
  rfl
@[simp] theorem hostWrite_clOff (s : State) (p : Nat) (o : Option Nat) (a : Nat) (b : List Byte) (ns : Bool) : (hostWrite s p o a b ns).clOff = s.clOff :=
  rfl
@[simp] theorem hostWrite_ls (s : State) (p : Nat) (o : Option Nat) (a : Nat) (b : List Byte) (ns : Bool) : (hostWrite s p o a b ns).ls = s.ls :=
  rfl
@[simp] theorem hostWrite_tblq (s : State) (p : Nat) (o : Option Nat) (a : Nat) (b : List Byte) (ns : Bool) : (hostWrite s p o a b ns).tblq = s.tblq :=
  rfl
@[simp] theorem hostWrite_dbg (s : State) (p : Nat) (o : Option Nat) (a : Nat) (b : List Byte) (ns : Bool) : (hostWrite s p o a b ns).dbg = s.dbg :=
  rfl
@[simp] theorem hostWrite_conns (s : State) (p : Nat) (o : Option Nat) (a : Nat) (b : List Byte) (ns : Bool) : (hostWrite s p o a b ns).conns = s.conns :=
  rfl
@[simp] theorem hostWrite_unk (s : State) (p : Nat) (o : Option Nat) (a : Nat) (b : List Byte) (ns : Bool) : (hostWrite s p o a b ns).unk = s.unk :=
  rfl
@[simp] theorem hostWrite_seals (s : State) (p : Nat) (o : Option Nat) (a : Nat) (b : List Byte) (ns : Bool) : (hostWrite s p o a b ns).seals = s.seals :=
  rfl
@[simp] theorem hostWrite_sx (s : State) (p : Nat) (o : Option Nat) (a : Nat) (b : List Byte) (ns : Bool) : (hostWrite s p o a b ns).sx = s.sx :=
  rfl
@[simp] theorem hostWrite_tl (s : State) (p : Nat) (o : Option Nat) (a : Nat) (b : List Byte) (ns : Bool) : (hostWrite s p o a b ns).tl = s.tl :=
  rfl

@[simp] theorem hostRead_clk (s : State) (w : ReadRef) (p : Nat) (o : Option Nat) (a n : Nat) (ns : Bool) : (hostRead s w p o a n ns).clk = s.clk :=
  by unfold hostRead; split <;> rfl
@[simp] theorem hostRead_free (s : State) (w : ReadRef) (p : Nat) (o : Option Nat) (a n : Nat) (ns : Bool) : (hostRead s w p o a n ns).free = s.free :=
  by unfold hostRead; split <;> rfl
@[simp] theorem hostRead_uid (s : State) (w : ReadRef) (p : Nat) (o : Option Nat) (a n : Nat) (ns : Bool) : (hostRead s w p o a n ns).uid = s.uid :=
  by unfold hostRead; split <;> rfl
@[simp] theorem hostRead_pending (s : State) (w : ReadRef) (p : Nat) (o : Option Nat) (a n : Nat) (ns : Bool) : (hostRead s w p o a n ns).pending = s.pending :=
  by unfold hostRead; split <;> rfl
@[simp] theorem hostRead_regs (s : State) (w : ReadRef) (p : Nat) (o : Option Nat) (a n : Nat) (ns : Bool) : (hostRead s w p o a n ns).regs = s.regs :=
  by unfold hostRead; split <;> rfl
@[simp] theorem hostRead_cnt (s : State) (w : ReadRef) (p : Nat) (o : Option Nat) (a n : Nat) (ns : Bool) : (hostRead s w p o a n ns).cnt = s.cnt :=
  by unfold hostRead; split <;> rfl
@[simp] theorem hostRead_gens (s : State) (w : ReadRef) (p : Nat) (o : Option Nat) (a n : Nat) (ns : Bool) : (hostRead s w p o a n ns).gens = s.gens :=
  by unfold hostRead; split <;> rfl
@[simp] theorem hostRead_wlatch (s : State) (w : ReadRef) (p : Nat) (o : Option Nat) (a n : Nat) (ns : Bool) : (hostRead s w p o a n ns).wlatch = s.wlatch :=
  by unfold hostRead; split <;> rfl
@[simp] theorem hostRead_rlatch (s : State) (w : ReadRef) (p : Nat) (o : Option Nat) (a n : Nat) (ns : Bool) : (hostRead s w p o a n ns).rlatch = s.rlatch :=
  by unfold hostRead; split <;> rfl
@[simp] theorem hostRead_ft (s : State) (w : ReadRef) (p : Nat) (o : Option Nat) (a n : Nat) (ns : Bool) : (hostRead s w p o a n ns).ft = s.ft :=
  by unfold hostRead; split <;> rfl
@[simp] theorem hostRead_armed (s : State) (w : ReadRef) (p : Nat) (o : Option Nat) (a n : Nat) (ns : Bool) : (hostRead s w p o a n ns).armed = s.armed :=
  by unfold hostRead; split <;> rfl
@[simp] theorem hostRead_lk (s : State) (w : ReadRef) (p : Nat) (o : Option Nat) (a n : Nat) (ns : Bool) : (hostRead s w p o a n ns).lk = s.lk :=
  by unfold hostRead; split <;> rfl
@[simp] theorem hostRead_hbm (s : State) (w : ReadRef) (p : Nat) (o : Option Nat) (a n : Nat) (ns : Bool) : (hostRead s w p o a n ns).hbm = s.hbm :=
  by unfold hostRead; split <;> rfl
@[simp] theorem hostRead_md (s : State) (w : ReadRef) (p : Nat) (o : Option Nat) (a n : Nat) (ns : Bool) : (hostRead s w p o a n ns).md = s.md :=
  by unfold hostRead; split <;> rfl
@[simp] theorem hostRead_boot (s : State) (w : ReadRef) (p : Nat) (o : Option Nat) (a n : Nat) (ns : Bool) : (hostRead s w p o a n ns).boot = s.boot :=
  by unfold hostRead; split <;> rfl
@[simp] theorem hostRead_fuses (s : State) (w : ReadRef) (p : Nat) (o : Option Nat) (a n : Nat) (ns : Bool) : (hostRead s w p o a n ns).fuses = s.fuses :=
  by unfold hostRead; split <;> rfl
@[simp] theorem hostRead_coop (s : State) (w : ReadRef) (p : Nat) (o : Option Nat) (a n : Nat) (ns : Bool) : (hostRead s w p o a n ns).coop = s.coop :=
  by unfold hostRead; split <;> rfl
@[simp] theorem hostRead_mere (s : State) (w : ReadRef) (p : Nat) (o : Option Nat) (a n : Nat) (ns : Bool) : (hostRead s w p o a n ns).mere = s.mere :=
  by unfold hostRead; split <;> rfl
@[simp] theorem hostRead_sysmem (s : State) (w : ReadRef) (p : Nat) (o : Option Nat) (a n : Nat) (ns : Bool) : (hostRead s w p o a n ns).sysmem = s.sysmem :=
  by unfold hostRead; split <;> rfl
@[simp] theorem hostRead_hp (s : State) (w : ReadRef) (p : Nat) (o : Option Nat) (a n : Nat) (ns : Bool) : (hostRead s w p o a n ns).hp = s.hp :=
  by unfold hostRead; split <;> rfl
@[simp] theorem hostRead_sqs (s : State) (w : ReadRef) (p : Nat) (o : Option Nat) (a n : Nat) (ns : Bool) : (hostRead s w p o a n ns).sqs = s.sqs :=
  by unfold hostRead; split <;> rfl
@[simp] theorem hostRead_cqs (s : State) (w : ReadRef) (p : Nat) (o : Option Nat) (a n : Nat) (ns : Bool) : (hostRead s w p o a n ns).cqs = s.cqs :=
  by unfold hostRead; split <;> rfl
@[simp] theorem hostRead_eqs (s : State) (w : ReadRef) (p : Nat) (o : Option Nat) (a n : Nat) (ns : Bool) : (hostRead s w p o a n ns).eqs = s.eqs :=
  by unfold hostRead; split <;> rfl
@[simp] theorem hostRead_jobs (s : State) (w : ReadRef) (p : Nat) (o : Option Nat) (a n : Nat) (ns : Bool) : (hostRead s w p o a n ns).jobs = s.jobs :=
  by unfold hostRead; split <;> rfl
@[simp] theorem hostRead_tens (s : State) (w : ReadRef) (p : Nat) (o : Option Nat) (a n : Nat) (ns : Bool) : (hostRead s w p o a n ns).tens = s.tens :=
  by unfold hostRead; split <;> rfl
@[simp] theorem hostRead_slots (s : State) (w : ReadRef) (p : Nat) (o : Option Nat) (a n : Nat) (ns : Bool) : (hostRead s w p o a n ns).slots = s.slots :=
  by unfold hostRead; split <;> rfl
@[simp] theorem hostRead_engs (s : State) (w : ReadRef) (p : Nat) (o : Option Nat) (a n : Nat) (ns : Bool) : (hostRead s w p o a n ns).engs = s.engs :=
  by unfold hostRead; split <;> rfl
@[simp] theorem hostRead_xfers (s : State) (w : ReadRef) (p : Nat) (o : Option Nat) (a n : Nat) (ns : Bool) : (hostRead s w p o a n ns).xfers = s.xfers :=
  by unfold hostRead; split <;> rfl
@[simp] theorem hostRead_reads (s : State) (w : ReadRef) (p : Nat) (o : Option Nat) (a n : Nat) (ns : Bool) : (hostRead s w p o a n ns).reads = s.reads :=
  by unfold hostRead; split <;> rfl
@[simp] theorem hostRead_wreqs (s : State) (w : ReadRef) (p : Nat) (o : Option Nat) (a n : Nat) (ns : Bool) : (hostRead s w p o a n ns).wreqs = s.wreqs :=
  by unfold hostRead; split <;> rfl
@[simp] theorem hostRead_macs (s : State) (w : ReadRef) (p : Nat) (o : Option Nat) (a n : Nat) (ns : Bool) : (hostRead s w p o a n ns).macs = s.macs :=
  by unfold hostRead; split <;> rfl
@[simp] theorem hostRead_pkts (s : State) (w : ReadRef) (p : Nat) (o : Option Nat) (a n : Nat) (ns : Bool) : (hostRead s w p o a n ns).pkts = s.pkts :=
  by unfold hostRead; split <;> rfl
@[simp] theorem hostRead_eg (s : State) (w : ReadRef) (p : Nat) (o : Option Nat) (a n : Nat) (ns : Bool) : (hostRead s w p o a n ns).eg = s.eg :=
  by unfold hostRead; split <;> rfl
@[simp] theorem hostRead_sl (s : State) (w : ReadRef) (p : Nat) (o : Option Nat) (a n : Nat) (ns : Bool) : (hostRead s w p o a n ns).sl = s.sl :=
  by unfold hostRead; split <;> rfl
@[simp] theorem hostRead_pa (s : State) (w : ReadRef) (p : Nat) (o : Option Nat) (a n : Nat) (ns : Bool) : (hostRead s w p o a n ns).pa = s.pa :=
  by unfold hostRead; split <;> rfl
@[simp] theorem hostRead_fw (s : State) (w : ReadRef) (p : Nat) (o : Option Nat) (a n : Nat) (ns : Bool) : (hostRead s w p o a n ns).fw = s.fw :=
  by unfold hostRead; split <;> rfl
@[simp] theorem hostRead_hostq (s : State) (w : ReadRef) (p : Nat) (o : Option Nat) (a n : Nat) (ns : Bool) : (hostRead s w p o a n ns).hostq = s.hostq :=
  by unfold hostRead; split <;> rfl
@[simp] theorem hostRead_cores (s : State) (w : ReadRef) (p : Nat) (o : Option Nat) (a n : Nat) (ns : Bool) : (hostRead s w p o a n ns).cores = s.cores :=
  by unfold hostRead; split <;> rfl
@[simp] theorem hostRead_fcPulse (s : State) (w : ReadRef) (p : Nat) (o : Option Nat) (a n : Nat) (ns : Bool) : (hostRead s w p o a n ns).fcPulse = s.fcPulse :=
  by unfold hostRead; split <;> rfl
@[simp] theorem hostRead_rings (s : State) (w : ReadRef) (p : Nat) (o : Option Nat) (a n : Nat) (ns : Bool) : (hostRead s w p o a n ns).rings = s.rings :=
  by unfold hostRead; split <;> rfl
@[simp] theorem hostRead_lmem (s : State) (w : ReadRef) (p : Nat) (o : Option Nat) (a n : Nat) (ns : Bool) : (hostRead s w p o a n ns).lmem = s.lmem :=
  by unfold hostRead; split <;> rfl
@[simp] theorem hostRead_fwmem (s : State) (w : ReadRef) (p : Nat) (o : Option Nat) (a n : Nat) (ns : Bool) : (hostRead s w p o a n ns).fwmem = s.fwmem :=
  by unfold hostRead; split <;> rfl
@[simp] theorem hostRead_msgs (s : State) (w : ReadRef) (p : Nat) (o : Option Nat) (a n : Nat) (ns : Bool) : (hostRead s w p o a n ns).msgs = s.msgs :=
  by unfold hostRead; split <;> rfl
@[simp] theorem hostRead_clOff (s : State) (w : ReadRef) (p : Nat) (o : Option Nat) (a n : Nat) (ns : Bool) : (hostRead s w p o a n ns).clOff = s.clOff :=
  by unfold hostRead; split <;> rfl
@[simp] theorem hostRead_ls (s : State) (w : ReadRef) (p : Nat) (o : Option Nat) (a n : Nat) (ns : Bool) : (hostRead s w p o a n ns).ls = s.ls :=
  by unfold hostRead; split <;> rfl
@[simp] theorem hostRead_tblq (s : State) (w : ReadRef) (p : Nat) (o : Option Nat) (a n : Nat) (ns : Bool) : (hostRead s w p o a n ns).tblq = s.tblq :=
  by unfold hostRead; split <;> rfl
@[simp] theorem hostRead_dbg (s : State) (w : ReadRef) (p : Nat) (o : Option Nat) (a n : Nat) (ns : Bool) : (hostRead s w p o a n ns).dbg = s.dbg :=
  by unfold hostRead; split <;> rfl
@[simp] theorem hostRead_conns (s : State) (w : ReadRef) (p : Nat) (o : Option Nat) (a n : Nat) (ns : Bool) : (hostRead s w p o a n ns).conns = s.conns :=
  by unfold hostRead; split <;> rfl
@[simp] theorem hostRead_unk (s : State) (w : ReadRef) (p : Nat) (o : Option Nat) (a n : Nat) (ns : Bool) : (hostRead s w p o a n ns).unk = s.unk :=
  by unfold hostRead; split <;> rfl
@[simp] theorem hostRead_seals (s : State) (w : ReadRef) (p : Nat) (o : Option Nat) (a n : Nat) (ns : Bool) : (hostRead s w p o a n ns).seals = s.seals :=
  by unfold hostRead; split <;> rfl
@[simp] theorem hostRead_sx (s : State) (w : ReadRef) (p : Nat) (o : Option Nat) (a n : Nat) (ns : Bool) : (hostRead s w p o a n ns).sx = s.sx :=
  by unfold hostRead; split <;> rfl
@[simp] theorem hostRead_tl (s : State) (w : ReadRef) (p : Nat) (o : Option Nat) (a n : Nat) (ns : Bool) : (hostRead s w p o a n ns).tl = s.tl :=
  by unfold hostRead; split <;> rfl

@[simp] theorem modFt_clk (s : State) (f : Ft → Ft) : (modFt s f).clk = s.clk := rfl
@[simp] theorem modFt_free (s : State) (f : Ft → Ft) : (modFt s f).free = s.free := rfl
@[simp] theorem modFt_uid (s : State) (f : Ft → Ft) : (modFt s f).uid = s.uid := rfl
@[simp] theorem modFt_out (s : State) (f : Ft → Ft) : (modFt s f).out = s.out := rfl
@[simp] theorem modFt_pending (s : State) (f : Ft → Ft) : (modFt s f).pending = s.pending := rfl
@[simp] theorem modFt_regs (s : State) (f : Ft → Ft) : (modFt s f).regs = s.regs := rfl
@[simp] theorem modFt_cnt (s : State) (f : Ft → Ft) : (modFt s f).cnt = s.cnt := rfl
@[simp] theorem modFt_gens (s : State) (f : Ft → Ft) : (modFt s f).gens = s.gens := rfl
@[simp] theorem modFt_wlatch (s : State) (f : Ft → Ft) : (modFt s f).wlatch = s.wlatch := rfl
@[simp] theorem modFt_rlatch (s : State) (f : Ft → Ft) : (modFt s f).rlatch = s.rlatch := rfl
@[simp] theorem modFt_armed (s : State) (f : Ft → Ft) : (modFt s f).armed = s.armed := rfl
@[simp] theorem modFt_lk (s : State) (f : Ft → Ft) : (modFt s f).lk = s.lk := rfl
@[simp] theorem modFt_hbm (s : State) (f : Ft → Ft) : (modFt s f).hbm = s.hbm := rfl
@[simp] theorem modFt_md (s : State) (f : Ft → Ft) : (modFt s f).md = s.md := rfl
@[simp] theorem modFt_boot (s : State) (f : Ft → Ft) : (modFt s f).boot = s.boot := rfl
@[simp] theorem modFt_fuses (s : State) (f : Ft → Ft) : (modFt s f).fuses = s.fuses := rfl
@[simp] theorem modFt_coop (s : State) (f : Ft → Ft) : (modFt s f).coop = s.coop := rfl
@[simp] theorem modFt_mere (s : State) (f : Ft → Ft) : (modFt s f).mere = s.mere := rfl
@[simp] theorem modFt_sysmem (s : State) (f : Ft → Ft) : (modFt s f).sysmem = s.sysmem := rfl
@[simp] theorem modFt_hp (s : State) (f : Ft → Ft) : (modFt s f).hp = s.hp := rfl
@[simp] theorem modFt_sreads (s : State) (f : Ft → Ft) : (modFt s f).sreads = s.sreads := rfl
@[simp] theorem modFt_sqs (s : State) (f : Ft → Ft) : (modFt s f).sqs = s.sqs := rfl
@[simp] theorem modFt_cqs (s : State) (f : Ft → Ft) : (modFt s f).cqs = s.cqs := rfl
@[simp] theorem modFt_eqs (s : State) (f : Ft → Ft) : (modFt s f).eqs = s.eqs := rfl
@[simp] theorem modFt_jobs (s : State) (f : Ft → Ft) : (modFt s f).jobs = s.jobs := rfl
@[simp] theorem modFt_tens (s : State) (f : Ft → Ft) : (modFt s f).tens = s.tens := rfl
@[simp] theorem modFt_slots (s : State) (f : Ft → Ft) : (modFt s f).slots = s.slots := rfl
@[simp] theorem modFt_engs (s : State) (f : Ft → Ft) : (modFt s f).engs = s.engs := rfl
@[simp] theorem modFt_xfers (s : State) (f : Ft → Ft) : (modFt s f).xfers = s.xfers := rfl
@[simp] theorem modFt_reads (s : State) (f : Ft → Ft) : (modFt s f).reads = s.reads := rfl
@[simp] theorem modFt_wreqs (s : State) (f : Ft → Ft) : (modFt s f).wreqs = s.wreqs := rfl
@[simp] theorem modFt_macs (s : State) (f : Ft → Ft) : (modFt s f).macs = s.macs := rfl
@[simp] theorem modFt_pkts (s : State) (f : Ft → Ft) : (modFt s f).pkts = s.pkts := rfl
@[simp] theorem modFt_eg (s : State) (f : Ft → Ft) : (modFt s f).eg = s.eg := rfl
@[simp] theorem modFt_sl (s : State) (f : Ft → Ft) : (modFt s f).sl = s.sl := rfl
@[simp] theorem modFt_pa (s : State) (f : Ft → Ft) : (modFt s f).pa = s.pa := rfl
@[simp] theorem modFt_fw (s : State) (f : Ft → Ft) : (modFt s f).fw = s.fw := rfl
@[simp] theorem modFt_hostq (s : State) (f : Ft → Ft) : (modFt s f).hostq = s.hostq := rfl
@[simp] theorem modFt_cores (s : State) (f : Ft → Ft) : (modFt s f).cores = s.cores := rfl
@[simp] theorem modFt_fcPulse (s : State) (f : Ft → Ft) : (modFt s f).fcPulse = s.fcPulse := rfl
@[simp] theorem modFt_rings (s : State) (f : Ft → Ft) : (modFt s f).rings = s.rings := rfl
@[simp] theorem modFt_lmem (s : State) (f : Ft → Ft) : (modFt s f).lmem = s.lmem := rfl
@[simp] theorem modFt_fwmem (s : State) (f : Ft → Ft) : (modFt s f).fwmem = s.fwmem := rfl
@[simp] theorem modFt_msgs (s : State) (f : Ft → Ft) : (modFt s f).msgs = s.msgs := rfl
@[simp] theorem modFt_clOff (s : State) (f : Ft → Ft) : (modFt s f).clOff = s.clOff := rfl
@[simp] theorem modFt_ls (s : State) (f : Ft → Ft) : (modFt s f).ls = s.ls := rfl
@[simp] theorem modFt_tblq (s : State) (f : Ft → Ft) : (modFt s f).tblq = s.tblq := rfl
@[simp] theorem modFt_dbg (s : State) (f : Ft → Ft) : (modFt s f).dbg = s.dbg := rfl
@[simp] theorem modFt_conns (s : State) (f : Ft → Ft) : (modFt s f).conns = s.conns := rfl
@[simp] theorem modFt_unk (s : State) (f : Ft → Ft) : (modFt s f).unk = s.unk := rfl
@[simp] theorem modFt_seals (s : State) (f : Ft → Ft) : (modFt s f).seals = s.seals := rfl
@[simp] theorem modFt_sx (s : State) (f : Ft → Ft) : (modFt s f).sx = s.sx := rfl
@[simp] theorem modFt_tl (s : State) (f : Ft → Ft) : (modFt s f).tl = s.tl := rfl

@[simp] theorem modLk_clk (s : State) (f : Lk → Lk) : (modLk s f).clk = s.clk := rfl
@[simp] theorem modLk_free (s : State) (f : Lk → Lk) : (modLk s f).free = s.free := rfl
@[simp] theorem modLk_uid (s : State) (f : Lk → Lk) : (modLk s f).uid = s.uid := rfl
@[simp] theorem modLk_out (s : State) (f : Lk → Lk) : (modLk s f).out = s.out := rfl
@[simp] theorem modLk_pending (s : State) (f : Lk → Lk) : (modLk s f).pending = s.pending := rfl
@[simp] theorem modLk_regs (s : State) (f : Lk → Lk) : (modLk s f).regs = s.regs := rfl
@[simp] theorem modLk_cnt (s : State) (f : Lk → Lk) : (modLk s f).cnt = s.cnt := rfl
@[simp] theorem modLk_gens (s : State) (f : Lk → Lk) : (modLk s f).gens = s.gens := rfl
@[simp] theorem modLk_wlatch (s : State) (f : Lk → Lk) : (modLk s f).wlatch = s.wlatch := rfl
@[simp] theorem modLk_rlatch (s : State) (f : Lk → Lk) : (modLk s f).rlatch = s.rlatch := rfl
@[simp] theorem modLk_ft (s : State) (f : Lk → Lk) : (modLk s f).ft = s.ft := rfl
@[simp] theorem modLk_armed (s : State) (f : Lk → Lk) : (modLk s f).armed = s.armed := rfl
@[simp] theorem modLk_hbm (s : State) (f : Lk → Lk) : (modLk s f).hbm = s.hbm := rfl
@[simp] theorem modLk_md (s : State) (f : Lk → Lk) : (modLk s f).md = s.md := rfl
@[simp] theorem modLk_boot (s : State) (f : Lk → Lk) : (modLk s f).boot = s.boot := rfl
@[simp] theorem modLk_fuses (s : State) (f : Lk → Lk) : (modLk s f).fuses = s.fuses := rfl
@[simp] theorem modLk_coop (s : State) (f : Lk → Lk) : (modLk s f).coop = s.coop := rfl
@[simp] theorem modLk_mere (s : State) (f : Lk → Lk) : (modLk s f).mere = s.mere := rfl
@[simp] theorem modLk_sysmem (s : State) (f : Lk → Lk) : (modLk s f).sysmem = s.sysmem := rfl
@[simp] theorem modLk_hp (s : State) (f : Lk → Lk) : (modLk s f).hp = s.hp := rfl
@[simp] theorem modLk_sreads (s : State) (f : Lk → Lk) : (modLk s f).sreads = s.sreads := rfl
@[simp] theorem modLk_sqs (s : State) (f : Lk → Lk) : (modLk s f).sqs = s.sqs := rfl
@[simp] theorem modLk_cqs (s : State) (f : Lk → Lk) : (modLk s f).cqs = s.cqs := rfl
@[simp] theorem modLk_eqs (s : State) (f : Lk → Lk) : (modLk s f).eqs = s.eqs := rfl
@[simp] theorem modLk_jobs (s : State) (f : Lk → Lk) : (modLk s f).jobs = s.jobs := rfl
@[simp] theorem modLk_tens (s : State) (f : Lk → Lk) : (modLk s f).tens = s.tens := rfl
@[simp] theorem modLk_slots (s : State) (f : Lk → Lk) : (modLk s f).slots = s.slots := rfl
@[simp] theorem modLk_engs (s : State) (f : Lk → Lk) : (modLk s f).engs = s.engs := rfl
@[simp] theorem modLk_xfers (s : State) (f : Lk → Lk) : (modLk s f).xfers = s.xfers := rfl
@[simp] theorem modLk_reads (s : State) (f : Lk → Lk) : (modLk s f).reads = s.reads := rfl
@[simp] theorem modLk_wreqs (s : State) (f : Lk → Lk) : (modLk s f).wreqs = s.wreqs := rfl
@[simp] theorem modLk_macs (s : State) (f : Lk → Lk) : (modLk s f).macs = s.macs := rfl
@[simp] theorem modLk_pkts (s : State) (f : Lk → Lk) : (modLk s f).pkts = s.pkts := rfl
@[simp] theorem modLk_eg (s : State) (f : Lk → Lk) : (modLk s f).eg = s.eg := rfl
@[simp] theorem modLk_sl (s : State) (f : Lk → Lk) : (modLk s f).sl = s.sl := rfl
@[simp] theorem modLk_pa (s : State) (f : Lk → Lk) : (modLk s f).pa = s.pa := rfl
@[simp] theorem modLk_fw (s : State) (f : Lk → Lk) : (modLk s f).fw = s.fw := rfl
@[simp] theorem modLk_hostq (s : State) (f : Lk → Lk) : (modLk s f).hostq = s.hostq := rfl
@[simp] theorem modLk_cores (s : State) (f : Lk → Lk) : (modLk s f).cores = s.cores := rfl
@[simp] theorem modLk_fcPulse (s : State) (f : Lk → Lk) : (modLk s f).fcPulse = s.fcPulse := rfl
@[simp] theorem modLk_rings (s : State) (f : Lk → Lk) : (modLk s f).rings = s.rings := rfl
@[simp] theorem modLk_lmem (s : State) (f : Lk → Lk) : (modLk s f).lmem = s.lmem := rfl
@[simp] theorem modLk_fwmem (s : State) (f : Lk → Lk) : (modLk s f).fwmem = s.fwmem := rfl
@[simp] theorem modLk_msgs (s : State) (f : Lk → Lk) : (modLk s f).msgs = s.msgs := rfl
@[simp] theorem modLk_clOff (s : State) (f : Lk → Lk) : (modLk s f).clOff = s.clOff := rfl
@[simp] theorem modLk_ls (s : State) (f : Lk → Lk) : (modLk s f).ls = s.ls := rfl
@[simp] theorem modLk_tblq (s : State) (f : Lk → Lk) : (modLk s f).tblq = s.tblq := rfl
@[simp] theorem modLk_dbg (s : State) (f : Lk → Lk) : (modLk s f).dbg = s.dbg := rfl
@[simp] theorem modLk_conns (s : State) (f : Lk → Lk) : (modLk s f).conns = s.conns := rfl
@[simp] theorem modLk_unk (s : State) (f : Lk → Lk) : (modLk s f).unk = s.unk := rfl
@[simp] theorem modLk_seals (s : State) (f : Lk → Lk) : (modLk s f).seals = s.seals := rfl
@[simp] theorem modLk_sx (s : State) (f : Lk → Lk) : (modLk s f).sx = s.sx := rfl
@[simp] theorem modLk_tl (s : State) (f : Lk → Lk) : (modLk s f).tl = s.tl := rfl

@[simp] theorem modBoot_clk (s : State) (f : Boot → Boot) : (modBoot s f).clk = s.clk := rfl
@[simp] theorem modBoot_free (s : State) (f : Boot → Boot) : (modBoot s f).free = s.free := rfl
@[simp] theorem modBoot_uid (s : State) (f : Boot → Boot) : (modBoot s f).uid = s.uid := rfl
@[simp] theorem modBoot_out (s : State) (f : Boot → Boot) : (modBoot s f).out = s.out := rfl
@[simp] theorem modBoot_pending (s : State) (f : Boot → Boot) : (modBoot s f).pending = s.pending := rfl
@[simp] theorem modBoot_regs (s : State) (f : Boot → Boot) : (modBoot s f).regs = s.regs := rfl
@[simp] theorem modBoot_cnt (s : State) (f : Boot → Boot) : (modBoot s f).cnt = s.cnt := rfl
@[simp] theorem modBoot_gens (s : State) (f : Boot → Boot) : (modBoot s f).gens = s.gens := rfl
@[simp] theorem modBoot_wlatch (s : State) (f : Boot → Boot) : (modBoot s f).wlatch = s.wlatch := rfl
@[simp] theorem modBoot_rlatch (s : State) (f : Boot → Boot) : (modBoot s f).rlatch = s.rlatch := rfl
@[simp] theorem modBoot_ft (s : State) (f : Boot → Boot) : (modBoot s f).ft = s.ft := rfl
@[simp] theorem modBoot_armed (s : State) (f : Boot → Boot) : (modBoot s f).armed = s.armed := rfl
@[simp] theorem modBoot_lk (s : State) (f : Boot → Boot) : (modBoot s f).lk = s.lk := rfl
@[simp] theorem modBoot_hbm (s : State) (f : Boot → Boot) : (modBoot s f).hbm = s.hbm := rfl
@[simp] theorem modBoot_md (s : State) (f : Boot → Boot) : (modBoot s f).md = s.md := rfl
@[simp] theorem modBoot_fuses (s : State) (f : Boot → Boot) : (modBoot s f).fuses = s.fuses := rfl
@[simp] theorem modBoot_coop (s : State) (f : Boot → Boot) : (modBoot s f).coop = s.coop := rfl
@[simp] theorem modBoot_mere (s : State) (f : Boot → Boot) : (modBoot s f).mere = s.mere := rfl
@[simp] theorem modBoot_sysmem (s : State) (f : Boot → Boot) : (modBoot s f).sysmem = s.sysmem := rfl
@[simp] theorem modBoot_hp (s : State) (f : Boot → Boot) : (modBoot s f).hp = s.hp := rfl
@[simp] theorem modBoot_sreads (s : State) (f : Boot → Boot) : (modBoot s f).sreads = s.sreads := rfl
@[simp] theorem modBoot_sqs (s : State) (f : Boot → Boot) : (modBoot s f).sqs = s.sqs := rfl
@[simp] theorem modBoot_cqs (s : State) (f : Boot → Boot) : (modBoot s f).cqs = s.cqs := rfl
@[simp] theorem modBoot_eqs (s : State) (f : Boot → Boot) : (modBoot s f).eqs = s.eqs := rfl
@[simp] theorem modBoot_jobs (s : State) (f : Boot → Boot) : (modBoot s f).jobs = s.jobs := rfl
@[simp] theorem modBoot_tens (s : State) (f : Boot → Boot) : (modBoot s f).tens = s.tens := rfl
@[simp] theorem modBoot_slots (s : State) (f : Boot → Boot) : (modBoot s f).slots = s.slots := rfl
@[simp] theorem modBoot_engs (s : State) (f : Boot → Boot) : (modBoot s f).engs = s.engs := rfl
@[simp] theorem modBoot_xfers (s : State) (f : Boot → Boot) : (modBoot s f).xfers = s.xfers := rfl
@[simp] theorem modBoot_reads (s : State) (f : Boot → Boot) : (modBoot s f).reads = s.reads := rfl
@[simp] theorem modBoot_wreqs (s : State) (f : Boot → Boot) : (modBoot s f).wreqs = s.wreqs := rfl
@[simp] theorem modBoot_macs (s : State) (f : Boot → Boot) : (modBoot s f).macs = s.macs := rfl
@[simp] theorem modBoot_pkts (s : State) (f : Boot → Boot) : (modBoot s f).pkts = s.pkts := rfl
@[simp] theorem modBoot_eg (s : State) (f : Boot → Boot) : (modBoot s f).eg = s.eg := rfl
@[simp] theorem modBoot_sl (s : State) (f : Boot → Boot) : (modBoot s f).sl = s.sl := rfl
@[simp] theorem modBoot_pa (s : State) (f : Boot → Boot) : (modBoot s f).pa = s.pa := rfl
@[simp] theorem modBoot_fw (s : State) (f : Boot → Boot) : (modBoot s f).fw = s.fw := rfl
@[simp] theorem modBoot_hostq (s : State) (f : Boot → Boot) : (modBoot s f).hostq = s.hostq := rfl
@[simp] theorem modBoot_cores (s : State) (f : Boot → Boot) : (modBoot s f).cores = s.cores := rfl
@[simp] theorem modBoot_fcPulse (s : State) (f : Boot → Boot) : (modBoot s f).fcPulse = s.fcPulse := rfl
@[simp] theorem modBoot_rings (s : State) (f : Boot → Boot) : (modBoot s f).rings = s.rings := rfl
@[simp] theorem modBoot_lmem (s : State) (f : Boot → Boot) : (modBoot s f).lmem = s.lmem := rfl
@[simp] theorem modBoot_fwmem (s : State) (f : Boot → Boot) : (modBoot s f).fwmem = s.fwmem := rfl
@[simp] theorem modBoot_msgs (s : State) (f : Boot → Boot) : (modBoot s f).msgs = s.msgs := rfl
@[simp] theorem modBoot_clOff (s : State) (f : Boot → Boot) : (modBoot s f).clOff = s.clOff := rfl
@[simp] theorem modBoot_ls (s : State) (f : Boot → Boot) : (modBoot s f).ls = s.ls := rfl
@[simp] theorem modBoot_tblq (s : State) (f : Boot → Boot) : (modBoot s f).tblq = s.tblq := rfl
@[simp] theorem modBoot_dbg (s : State) (f : Boot → Boot) : (modBoot s f).dbg = s.dbg := rfl
@[simp] theorem modBoot_conns (s : State) (f : Boot → Boot) : (modBoot s f).conns = s.conns := rfl
@[simp] theorem modBoot_unk (s : State) (f : Boot → Boot) : (modBoot s f).unk = s.unk := rfl
@[simp] theorem modBoot_seals (s : State) (f : Boot → Boot) : (modBoot s f).seals = s.seals := rfl
@[simp] theorem modBoot_sx (s : State) (f : Boot → Boot) : (modBoot s f).sx = s.sx := rfl
@[simp] theorem modBoot_tl (s : State) (f : Boot → Boot) : (modBoot s f).tl = s.tl := rfl

@[simp] theorem emit_out (s : State) (o : Out) : (emit s o).out = o :: s.out := rfl
@[simp] theorem bumpFree_free (s : State) : (bumpFree s).free = s.free + 1 := rfl
@[simp] theorem modHp_hp (s : State) (p : Nat) (f : Hp → Hp) : (modHp s p f).hp = mset s.hp p (f (hpOf s p)) := rfl
@[simp] theorem modFt_ft (s : State) (f : Ft → Ft) : (modFt s f).ft = f s.ft := rfl
@[simp] theorem modLk_lk (s : State) (f : Lk → Lk) : (modLk s f).lk = f s.lk := rfl
@[simp] theorem modBoot_boot (s : State) (f : Boot → Boot) : (modBoot s f).boot = f s.boot := rfl
@[simp] theorem modMac_macs (s : State) (p : Nat) (f : Mac → Mac) : (modMac s p f).macs = mset s.macs p (f (macOf s p)) := rfl

end Sys2Proof.Machine
end

