-- ==== Sys2Proof/WellFormed.lean ====
section
/-! DEFINITION. Well-formed commands: the bounds on operands that their types do not give. A command taken from outside
is well formed; the meanings are total all the same. -/
namespace Sys2Proof

/-- A time in 2^-16 ns fits the 80-bit count with the signed corrections of 1588 (R21, R28). -/
def Beacon.wf (b : Beacon) : Bool :=
  decide (b.origin < 2 ^ 96) && decide (b.quality < 4) && decide (b.node < 65536) && decide (b.err < 65536)

/-- A domain and a sequence number of a 1588 message, a time it carries, and how long ago it arrived, in 2^-16 ns (R28, R37). -/
def ptpOk (domain seq : Nat) : Bool := decide (domain < 256 ∧ seq < 65536)
def timeOk (t : Nat) : Bool := decide (t < 2 ^ 96)
def ageOk (a : Nat) : Bool := decide (a < 2 ^ 64)

/-- A queue number: an index of the shared space, or the admin pair of a host port at 2^20 on (R59, R96). -/
def queueOk (q : Nat) : Bool := decide (q < 2 ^ 20 + 8)

/-- A read returns at most the bytes of the largest read the block makes. -/
def HostData.wf : HostData → Bool
  | .ok b => decide (b.length ≤ 2 ^ 23)
  | .error => true
  | .timeout => true

/-- What a read is for names a queue or a dump ring (R407). -/
def ReadRef.wf : ReadRef → Bool
  | .dma => true
  | .doorbell q => queueOk q
  | .ring q => queueOk q
  | .head _ q => queueOk q
  | .image _ => true
  | .attach _ => true
  | .fcImage _ => true
  | .dump r => decide (r ≤ 4096)

/-- Payload and request sizes are 128 to 1,024 and 128 to 4,096 bytes by their types. -/
def CfgWrite.wf : CfgWrite → Bool
  | .cplTimeout v => decide (v.val ∈ [0, 1, 2, 5, 6, 9, 10, 13, 14])
  | .read off => decide (off.val % 4 = 0)
  | .bar _ _ => true
  | .relaxed _ => true
  | .snoop _ => true
  | .idOrder _ => true
  | .ltr _ => true
  | .l11 _ => true
  | .ltrMax _ => true
  | .uncStatus _ => true
  | .uncMask _ => true
  | .uncSeverity _ => true
  | .corStatus _ => true
  | .corMask _ => true
  | .busMaster => true
  | .memSpace _ => true
  | .pasid => true
  | .mps _ => true
  | .mrrs _ => true
  | .pmeEn _ => true
  | .ptm _ => true
  | .pmeClear => true
  | .severity _ => true
  | .msix _ => true
  | .funcMask => true
  | .vecMask _ => true

/-- A link width is a power of two of lanes up to 16. -/
def widthOk (w : Nat) : Bool := decide (w ∈ [1, 2, 4, 8, 16])

/-- The widths of a link change. -/
def LinkChange.wf : LinkChange → Bool
  | .error _ _ => true
  | .enterL0p w => widthOk w.val
  | .leaveL0p => true
  | .enterL1 _ => true
  | .leaveL1 => true
  | .retrain w _ => widthOk w.val

/-- A frame has bytes, and no more than fit a buffer of the largest pool (R219). -/
def WireFrame.wf (f : WireFrame) : Bool := decide (1 ≤ f.bytes.length ∧ f.bytes.length ≤ 2 ^ 20)

/-- The bounds of a session's setup (R375, R377). -/
def SessEnd.wf : SessEnd → Bool
  | .up x => decide (x.admin < 2 ^ 15 ∧ x.io < 2 ^ 15 ∧ x.idSt < 2 ^ 15 ∧ x.cntlid < 2 ^ 16) &&
      decide (x.nsze < 2 ^ 64 ∧ x.lba < 2 ^ 8 ∧ x.mdBytes < 2 ^ 16 ∧ x.ioccsz < 2 ^ 32 ∧ x.maxh2c < 2 ^ 32) &&
      decide (x.irs < 2 ^ 32 ∧ x.wnd < 2 ^ 16 ∧ x.scale ≤ 14) && decide (1 ≤ x.mss ∧ x.mss < 65536)
  | .refused => true

/-- A signed image has at least its header of 256 bytes (R453). -/
def SignedImg.wf (i : SignedImg) : Bool := decide (256 ≤ i.bytes.length)

/-- An entry of a flash directory (R452). -/
def FlashEnt.wf (e : FlashEnt) : Bool := decide (e.typ < 8) && decide (e.bank < 2) && e.img.wf

/-- What a boot stage finds names parts by a ledger kind of R441. -/
def StageIn.wf : StageIn → Bool
  | .flash a b =>
    (match a with | some d => d.ents.all FlashEnt.wf | none => true) &&
    (match b with | some d => d.ents.all FlashEnt.wf | none => true)
  | .train _ _ => true
  | .selfTest bad => bad.all fun x => decide (x.1 < 16)
  | .plain => true

/-- Well-formed commands. -/
def Instr.wf : Instr → Bool
  | .regWrite _ _ _ _ _ _ _ => true
  | .regAccessOversize _ _ => true
  | .reg64LowRead _ _ _ _ => true
  | .ftNowRead _ => true
  | .ftEpochRead _ => true
  | .ftEnable _ => true
  | .ftEnableClear _ => true
  | .restart _ => true
  | .todArm _ => true
  | .ppsEdge _ => true
  | .syncRx _ domain seq age tlv => ptpOk domain seq && ageOk age && tlv.all (·.wf)
  | .followUpRx _ domain seq tlv => ptpOk domain seq && tlv.wf
  | .delayReqRx _ domain seq age => ptpOk domain seq && ageOk age
  | .delayRespRx _ domain seq t4 => ptpOk domain seq && timeOk t4
  | .pdelayReqRx _ domain seq age => ptpOk domain seq && ageOk age
  | .pdelayRespRx _ domain seq age t2 turn => ptpOk domain seq && ageOk age && timeOk t2 && turn.all timeOk
  | .pdelayRespFollowUpRx _ domain seq t3 => ptpOk domain seq && timeOk t3
  | .signalingRx _ domain age tlv => decide (domain < 256) && ageOk age && tlv.wf
  | .refLossExpire => true
  | .ppsLossExpire => true
  | .beaconLossExpire => true
  | .ftHoldoverLong => true
  | .epochPulse _ => true
  | .ptmDialogueEnd _ result => result.all fun x => timeOk x.1 && timeOk x.2
  | .peerWrite _ _ _ _ bytes => decide (1 ≤ bytes.length ∧ bytes.length ≤ 4096)
  | .peerRead _ _ _ len _ => decide (1 ≤ len.val)
  | .winCommit _ => true
  | .winCheckEnd _ => true
  | .winSwap _ => true
  | .winCopyEnd _ => true
  | .tenantWindowsClear _ => true
  | .perstAssert _ => true
  | .perstRelease _ => true
  | .hotReset _ => true
  | .linkDown _ => true
  | .hostLinkTrained _ _ width _ => decide (width.val ∈ [1, 2, 4, 8, 16])
  | .noFlitRetry _ => true
  | .portReady _ => true
  | .flrPf0 _ => true
  | .flrPf1 _ => true
  | .flrComplete _ _ => true
  | .bmeClear _ _ => true
  | .pasidEnableClear _ => true
  | .functionDrainEnd _ _ => true
  | .functionDrainTimeout _ _ => true
  | .d3hotEntry _ _ => true
  | .d0Return _ _ => true
  | .cplTimeout _ _ what => what.wf
  | .lateCpl _ _ => true
  | .tagRelease _ _ => true
  | .msixUnmask _ _ _ => true
  | .interruptControlWrite _ _ _ => true
  | .lkAlertClear _ _ => true
  | .aqEnable _ => true
  | .aqDisable _ => true
  | .nop _ => true
  | .createSq _ => true
  | .destroySq _ => true
  | .createCq _ => true
  | .destroyCq _ => true
  | .createEq _ => true
  | .destroyEq _ => true
  | .queueQuery _ => true
  | .setScan _ => true
  | .aqBindEq _ => true
  | .tenantCreate _ => true
  | .tenantConfig _ => true
  | .tenantEnable _ => true
  | .tenantDisable _ => true
  | .tenantReset _ => true
  | .tenantDestroy _ => true
  | .tenantFenceEnd _ => true
  | .tnFenceTimeout _ => true
  | .poolQuotaSet _ => true
  | .peerBufAlloc _ => true
  | .peerBufFree _ => true
  | .keyCtxCreate _ => true
  | .keyRollover _ => true
  | .keyCtxDestroy _ => true
  | .rulesetLoad _ => true
  | .rulesetImageReadEnd _ data => data.wf
  | .rulesetActivate _ => true
  | .rulesetRelease _ => true
  | .mftConnOpen _ => true
  | .mftConnClose _ => true
  | .dumpRingCreate _ => true
  | .dumpRingDestroy _ => true
  | .snapshotArm _ => true
  | .nsAttach _ => true
  | .nsDetach _ => true
  | .dnop _ => true
  | .tx _ _ => true
  | .rxPost _ => true
  | .mftSend _ => true
  | .mftRecvPost _ => true
  | .nvme _ => true
  | .coreJob _ => true
  | .copy _ => true
  | .doorbellScanDue sq => queueOk sq
  | .doorbellRecordRead sq data => queueOk sq && data.wf
  | .hotIdleExpire sq => queueOk sq
  | .warmIdleExpire sq => queueOk sq
  | .stretchCompute _ => true
  | .sqFetch sq => queueOk sq
  | .sqRingReadEnd sq data => queueOk sq && data.wf
  | .jobStart sq => queueOk sq
  | .pushSlotWrite _ _ _ offset bytes => decide (1 ≤ bytes.length ∧ offset.val + bytes.length ≤ 512)
  | .pushValidate _ _ => true
  | .pushAsmTimeout _ _ => true
  | .pushRefusedTimeout _ _ => true
  | .creditWordWrite _ => true
  | .completionWrite cq => queueOk cq
  | .headRecordRead _ queue data => queueOk queue && data.wf
  | .headPollTick _ queue => queueOk queue
  | .cqOverflowTimeout cq => queueOk cq
  | .eqModTimerExpire eq => decide (eq < 2 ^ 20)
  | .eqHoldExpire eq => decide (eq < 2 ^ 20)
  | .eqMessageSend eq => decide (eq < 2 ^ 20)
  | .queueDrainEnd queue => queueOk queue
  | .queueDrainTimeout queue => queueOk queue
  | .portEnable _ _ _ => true
  | .portDisable _ _ _ => true
  | .netLinkLock _ => true
  | .trainingTimeout _ => true
  | .netLinkFault _ _ => true
  | .netLinkFaultClear _ => true
  | .downHoldExpire _ => true
  | .frameRx _ frame _ => frame.wf
  | .pauseEffect _ => true
  | .pauseExpire _ _ => true
  | .xoffRefresh _ _ => true
  | .pauseWdTimeout _ _ _ => true
  | .pauseWdRecoverEnd _ _ _ => true
  | .pauseWdEnable _ _ _ => true
  | .preemptVerifyEnd _ _ => true
  | .fwLookupDone _ _ => true
  | .hostRxDeliver _ _ => true
  | .rulesetActivationEdge _ => true
  | .paRsDrainTimeout _ => true
  | .tcamSweep bad => bad.all fun x => decide (x.1 < 4 ∧ x.2 < 65536)
  | .tcamEntryRewrite _ _ => true
  | .fwLookup _ _ _ => true
  | .fwInsert _ _ _ => true
  | .fwUpdate _ _ _ => true
  | .fwDelete _ _ _ => true
  | .fwWalk _ _ _ => true
  | .fwFlush _ _ => true
  | .fwCmdEnd => true
  | .learnEvent _ _ => true
  | .ageVisit _ => true
  | .fwEntryRewrite _ _ => true
  | .cacheRefill _ _ => true
  | .cacheCfgWrite _ _ => true
  | .stackTempSample _ _ => true
  | .bankRefresh _ _ => true
  | .refreshWindowStart _ => true
  | .neighbourRefresh _ _ _ n => decide (1 ≤ n)
  | .scrubVisit _ _ _ => true
  | .trainPatternRun _ _ _ _ => true
  | .migStart => true
  | .migOpenEnd => true
  | .migCopyUnit => true
  | .migCommitEnd => true
  | .mcMigDone => true
  | .coreSubstitute => true
  | .coreStart _ _ _ => true
  | .coreStop _ _ => true
  | .coreDrainEnd _ => true
  | .fcStopTimeout _ => true
  | .coreReloadEnd _ _ => true
  | .ringEnable _ _ => true
  | .ringDisable _ _ => true
  | .inboxDeliver _ => true
  | .mutualWait _ => true
  | .watchdog _ _ => true
  | .timerExpire _ _ => true
  | .threadRestart _ _ => true
  | .add _ _ => true
  | .sub _ _ => true
  | .and _ _ => true
  | .or _ _ => true
  | .xor _ _ => true
  | .sll _ _ => true
  | .srl _ _ => true
  | .sra _ _ => true
  | .slt _ _ => true
  | .sltu _ _ => true
  | .mul _ _ => true
  | .mulhu _ _ => true
  | .divu _ _ => true
  | .remu _ _ => true
  | .clz _ _ => true
  | .popc _ _ => true
  | .addi _ _ => true
  | .extu _ _ => true
  | .andi _ _ => true
  | .ori _ _ => true
  | .xori _ _ => true
  | .shi _ _ => true
  | .hwset _ _ => true
  | .hwins _ _ => true
  | .beq _ _ => true
  | .bne _ _ => true
  | .blt _ _ => true
  | .bge _ _ => true
  | .bltu _ _ => true
  | .bgeu _ _ => true
  | .j _ _ => true
  | .jal _ _ => true
  | .jalr _ _ => true
  | .mfsr _ _ => true
  | .ftread _ _ => true
  | .ldb _ _ _ => true
  | .ldh _ _ _ => true
  | .ldw _ _ _ => true
  | .ldd _ _ _ => true
  | .ldhs _ _ _ => true
  | .ldws _ _ _ => true
  | .ldds _ _ _ => true
  | .stb _ _ _ => true
  | .sth _ _ _ => true
  | .stw _ _ _ => true
  | .std _ _ _ => true
  | .sths _ _ _ => true
  | .stws _ _ _ => true
  | .evwait _ _ => true
  | .evsend _ _ => true
  | .tmset _ _ => true
  | .hmap _ _ => true
  | .hput _ _ => true
  | .crypt _ _ => true
  | .gfmul _ _ => true
  | .tbl _ _ => true
  | .balloc _ _ => true
  | .bfree _ _ => true
  | .bxfer _ _ => true
  | .csum _ _ _ => true
  | .chw _ _ => true
  | .post _ _ _ => true
  | .locksmithRequestTake _ => true
  | .locksmithReply _ _ _ => true
  | .tblReply _ _ _ => true
  | .enqueue _ _ => true
  | .recirc _ _ _ => true
  | .coreJobCompletion _ _ => true
  | .rxPkt _ _ _ => true
  | .txSealed _ _ => true
  | .send _ _ => true
  | .query _ _ => true
  | .xtsDone _ _ => true
  | .rxSeg _ _ _ => true
  | .writeHost _ _ => true
  | .readHost _ _ => true
  | .ackDelayExpire _ => true
  | .openRetry _ => true
  | .openTimeout _ => true
  | .rtoExpire _ => true
  | .rnrWaitEnd _ => true
  | .pathHoldEnd _ _ => true
  | .pacingInstant _ => true
  | .droverUpdate _ => true
  | .connCloseDrainEnd _ => true
  | .connCloseTimeout _ => true
  | .tpNodeDisable _ _ => true
  | .gateChange _ => true
  | .calArm _ _ => true
  | .calSwap _ => true
  | .calCopyEnd _ => true
  | .frameTxStart _ _ => true
  | .frameTxEnd _ => true
  | .sluiceCandidate _ head _ _ _ => decide (head.length = 64)
  | .sluiceStart _ arrived => decide (64 ≤ arrived.length)
  | .slRead _ _ => true
  | .slWrite _ _ => true
  | .slClear _ _ => true
  | .slEntryRewrite _ => true
  | .keyRolloverEdge _ => true
  | .rolloverGraceEnd _ => true
  | .katRun _ _ _ => true
  | .lsEntropyFail => true
  | .entropyRestore => true
  | .attachRecordRead _ data => data.wf
  | .sessionUp _ result => result.wf
  | .connectTimeout _ => true
  | .reconnect _ => true
  | .keepAliveSend _ => true
  | .katoExpire _ => true
  | .stageAlloc _ => true
  | .stageWaitExpire _ => true
  | .ioTimeout _ => true
  | .nsDetachTimeout _ => true
  | .dmaBurst _ _ _ => true
  | .dmaReadCompletion _ _ data _ => data.wf
  | .dmaWriteLeave => true
  | .dxBusErr _ => true
  | .engineRecover _ => true
  | .dxEngineStop _ => true
  | .dxEngineResume _ => true
  | .snapshotScheduleEdge => true
  | .dumpWrite _ head => head.wf
  | .eventRaise _ _ => true
  | .eventLog => true
  | .fatalEvent _ => true
  | .fatalTimerExpire => true
  | .resetProceed => true
  | .lockstepMismatch => true
  | .lkWatchdogExpire _ => true
  | .lkRefLoss => true
  | .mbGo _ _ => true
  | .mbAck _ => true
  | .version _ => true
  | .info _ => true
  | .ledgerRead _ => true
  | .imageLoad _ img => (match img with | some x => x.wf | none => true)
  | .configLoad _ img => img.wf
  | .deviceReset _ => true
  | .policySet _ _ => true
  | .alertFilter _ _ => true
  | .rollbackCommit _ => true
  | .flashWrite _ img => img.wf
  | .flashSelect _ _ _ => true
  | .bootReport _ => true
  | .porNAssert => true
  | .porNRelease _ => true
  | .bootStageEnd inp => inp.wf
  | .fcImageVerify => true
  | .railFault => true
  | .clockFault => true
  | .clusterPowerOff _ => true
  | .junctionSample temps => decide (temps.length = 16)
  | .tripPowerOff => true
  | .wearThresholdCross _ _ _ => true
  | .lpmBankSubstitute => true
  | .cipherUnitSubstitute => true
  | .rowRemap => true
  | .ledgerWrite => true
  | .tapReset => true
  | .bypass => true
  | .idcode => true
  | .samplePreload _ => true
  | .extest => true
  | .gygarWord _ => true
  | .challenge => true
  | .auth _ => true
  | .close => true
  | .status => true
  | .halt => true
  | .resume => true
  | .step => true
  | .threadReset => true
  | .bpSet => true
  | .wpSet => true
  | .read => true
  | .write => true
  | .sessionIdleTimeout => true
  | .lockoutEnd => true
  | .reg64HighRead _ _ _ => true
  | .configurationWrite _ _ what => what.wf
  | .linkPowerStateChange _ change => change.wf
  | .stalledInstructionEnd _ _ _ _ => true
  | .tcpRetransmissionTimeout _ => true
  | .unscheduledTransmission _ => true

end Sys2Proof
end

