-- ==== Sys2Proof/Tests/Slice0.lean ====
section
/-! SUPPORT. The model's own tests: ill-formed commands that WellFormed refuses, and a state and operands that meet the
hypotheses of every statement. -/
namespace Sys2Proof.Tests
set_option linter.unusedVariables false
set_option Elab.async false
open Sys2Proof Sys2Proof.Machine

/-- A host port that is up, with both functions enabled and its admin queue active. -/
def hpUp : Hp :=
  { ltssm := .l0, width := 16, speed := 6, perst := false, ready := true, f0 := { bme := true, mse := true }
    f1 := { bme := true, mse := true, pasidEn := true }, aq := { active := true, abi := 2 } }

/-- A running device whose host port 0 is up. -/
def live : State := { State.reset with lk := { st := .running }, hp := [(0, hpUp)], clk := 10 ^ 15 }

/-- A job of tenant 5 on port 0. -/
def job1 : Job :=
  { sq := 1, port := 0, owner := some 5, sqGen := 1, tenGen := 1, op := 2, cid := 7, noCpl := false, ents := [] }

/-- An admin entry. -/
def ent (ws : List Word) : Entry := ⟨ws⟩

/-- The device with its admin queue of port 0 executing an entry. -/
def adm (e : Entry) : State :=
  { live with hp := [(0, { hpUp with aq := { hpUp.aq with cur := some e } })] }

/-- The same with network port 0 up. -/
def net0 : State := { live with macs := [(0, { st := .up })] }

/-- A submission queue, a completion queue and an event queue of the PF0 of port 0, and a completion. -/
def sq1 : Sq := { port := 0, owner := none, ring := 0x1000, db := 0x2000, cq := 2, log2 := 4, inflMax := 4 }
def cq1 : Cq := { port := 0, owner := none, ring := 0x3000, log2 := 4, eq := none, allow := 4096 }
def eq1 : EvQ := { port := 0, owner := none, ring := 0x4000, log2 := 4, vec := 2, modCount := 4, modTimer := 0 }
def cpl1 : Cpl := { sq := 1, uid := 9, status := .success, cid := 7, op := 0x80, result := 0, sqGen := 1 }
def qlive : State := { live with sqs := [(1, sq1)], cqs := [(2, cq1)], eqs := [(3, eq1)] }

/-- An enabled tenant on port 0. -/
def ten5 : Tenant := { home := 0, st := .enabled, pasid := 9, credits := 4, creditAddr := 0x5000 }
def tlive : State := { live with tens := [(5, ten5)] }

/-- The record of a push of one entry of zeros into SQ 1. -/
def rec1 : Map Byte := (leBytes 4 0x10100001 ++ leBytes 4 0 ++ leBytes 4 1).zipIdx.map fun x => (x.2, x.1)

/-- Wherever the search for a free index starts, it finds one beside a queue at index 2. -/
theorem pick_cq (e : Entry) : (pickQueue { adm e with cqs := [(2, cq1)] }).isSome = true := by
  have q : ∀ y, ¬ queueFree { adm e with cqs := [(2, cq1)] } y = true → 2 = y := by
    intro y h
    refine Decidable.byContradiction fun n => h ?_
    show ((mget? ([] : Map Sq) y).isNone && (mget? [(2, cq1)] y).isNone && (mget? ([] : Map EvQ) y).isNone && true) = true
    simp [mget?, n]
  unfold pickQueue
  generalize (Config.queueStart _).toNat = x
  show (scanQueue _ x 2).isSome = true
  simp only [scanQueue]
  split
  · rfl
  · rename_i h
    split
    · rfl
    · rename_i g
      have a := q _ h
      have b := q _ g
      omega

/-- A device whose port 0 is configured as x8, and a posted receive job of tenant 5 with 2,048 bytes of host memory. -/
def portx : State := wr live F.GL_CONFIG_PORT_WIDTH 0 0 1
def rxJob : Job :=
  { sq := 1, port := 0, owner := some 5, sqGen := 1, tenGen := 1, op := 0x82, cid := 7, noCpl := false, fresh := false
    ents := [ent [0x7C082, 0, 0x1000000, 0, 0x8000, 0, 2048, 0]] }

/-- A rule-set image of one node, one table and no rule. -/
def image1 : List Byte :=
  leBytes 4 0x00010101 ++ leBytes 60 0 ++ leBytes 4 14 ++ leBytes 8 0 ++ leBytes 4 255 ++ leBytes 48 0 ++ leBytes 512 0

/-- An exact-match entry whose key is all zero. -/
def fent0 : FEnt := { key := List.replicate 9 0 }

/-- Port 0 up with the Sluice on for class 0, and an entry for frames of zeros: to port 1, or to SQ 1 of tenant 5. -/
def slon : State := wr (wr net0 F.SL_CFG_EN 0 0 1) F.SL_CFG_CLASS 0 0 0
def slnet : State := { slon with sl := { ents := [(5, [0x80000001, 0, 0, 1])] } }
def slhost : State :=
  { slon with
    sl := { ents := [(5, [0xC0000001, 0, 0, 0x500001])] }, tens := [(5, ten5)]
    sqs := [(1, { sq1 with owner := some 5 })]
    jobs := [(7, { rxJob with ents := [ent [0x7C082, 0, 0x1000000, 0, 0x8000, 0, 65536, 0]] })] }

def slbad : State := { slnet with sl := { slnet.sl with bad := [5] } }

/-- A running device with its HBM domains on and stack 0 trained. -/
def hbmlive : State := { live with boot := { pd := 2 ^ 32 - 1 }, hbm := { stks := [(0, { trained := true })] } }

/-- A mailbox of port 0 that is BUSY with a command of an opcode, with payload DW0. -/
def mbs (op d : Nat) : State :=
  { live with
    lk :=
      { st := .running
        mb := [(0, { st := if op = 0 ∧ d = 0 then .idle else .busy
                     version := 2
                     area := writeMem (writeMem [] 0x100 (leBytes 4 op)) 0x1000 (leBytes 4 d) })] } }

def mbp (op : Nat) (b : List Byte) : State :=
  { live with
    lk :=
      { st := .running
        mb := [(0, { st := .busy
                     version := 2
                     area := writeMem (writeMem [] 0x100 (leBytes 4 (op + 256 * b.length))) 0x1000 b })] } }

/-- Signed images that the checks accept: flow-core code, and a configuration. -/
def cfg3 : SignedCfg := { roots := [], level := none, sc := 0, wear := [], trip := 105, warn := 95, debugKey := none }
def img3 : SignedImg :=
  { bytes := [0x44, 0x4D, 0x5A, 0x54, 3] ++ List.replicate 251 0, sigOk := true, body := .signedCfg cfg3 }
def img4 : SignedImg := { bytes := [0x44, 0x4D, 0x5A, 0x54, 4] ++ List.replicate 259 0, sigOk := true, body := .other }

/-- Core 0 running, with thread 0 about to issue one instruction at PC 0 of image 0. -/
def fthr : Thr := { st := .running, regs := [(1, 0x20), (2, 0x103), (3, 7)] }
def fcw (w : Nat) (th : Thr) : State :=
  { live with
    cores := [(0, { st := .running, threads := [(0, th)], slices := [(0, 4096)] })]
    fwmem := writeMem (writeMem [] 4 (leBytes 4 64)) 128 (leBytes 4 w) }
def fcs (i : FcI) : State := fcw (fcEncode i).toNat fthr
def fcb (i : FcI) : State := { fcs i with coop := { ready := true, bufs := [(32, ⟨.owned, 4128⟩)] } }
def fcb2 (i : FcI) : State := { fcs i with coop := { ready := true } }

/-- Image 0 valid with one thread, whose slice has 4 KiB; and ring 0 enabled for thread 0 of core 0. -/
def imgst : State :=
  wr (wr { live with fwmem := writeMem (writeMem [] 4 (leBytes 4 64)) 20 (List.replicate 60 0xFF) } F.FC_IMG_VALID 0 0 1)
    F.FC_SLICE_SIZE 0 0 1
def ringst : State := rset live F.FC_RING_CFG_EN.off 0 0x86000001

/-- An OPEN connection 3 of tenant 5; an attachment 0 of tenant 5 over TCP with its session up. -/
def con1 : Conn :=
  { tenant := 5, node := 2, cls := 0, peerTenant := 5, paths := 1, verMin := 1, verMax := 3, key := 0, cfg := [], st := .open_
    version := 3, payload := 4096, rate := 100000 }
def cons (c : Conn) : State := { wr tlive F.TP_NODE_EN 0 0 1 with conns := [(3, c)] }
def rcd1 : List Byte :=
  [1, 0, 0, 9] ++ leBytes 4 1 ++ List.replicate 8 0 ++ leBytes 2 16 ++ leBytes 2 5 ++ List.replicate 16 0 ++ leBytes 2 4420 ++
    List.replicate 538 0
def tcp1 : Tcp := { port := 50000, una := 1, nxt := 1, rcv := 1, wnd := 65535, mss := 1460, cwnd := 14600, timer := some 0 }
def att1 : Att := { tenant := 5, slot := 1, rcd := rcd1, st := .ready, since := 0, sess := 0x30000, tmr := 0, tcp := some tcp1 }
def atts (a : Att) : State := { wr tlive F.SX_CFG_EN 0 0 1 with sx := { atts := [(0, a)] } }
def unp1 : TxPkt :=
  { psn := 9, buf := 32, off := 0, len := 64, first := true, last := true, msn := 0, msgLen := 64, imm := 0 }
def unc1 : Conn := { con1 with tx := [unp1], sndNxt := 10, isn := 9 }
def rxdata : Map Byte := writeMem [] (32 * 256) ([0x30, 0xC0, 0, 0, 0, 2, 0, 0, 0, 0, 0, 3] ++ beBytes 4 0 ++ List.replicate 48 0)
def segdata : Map Byte :=
  writeMem [] (32 * 256)
    ([0x45, 0, 0, 40, 0, 0, 0, 0, 64, 6] ++ List.replicate 10 0 ++
      (let h : List Byte := beBytes 2 4420 ++ beBytes 2 50000 ++ beBytes 4 1 ++ beBytes 4 1 ++ [0x50, 0x10] ++ beBytes 2 65535
       h ++ beBytes 2 (tcpSum false 0 0 (h ++ [0, 0, 0, 0])) ++ [0, 0]))

/-- Thread 0 of core 0 with one Locksmith request outstanding, whose block is at 0x180. -/
def lsst : State :=
  { live with
    cores := [(0, { st := .running, threads := [(0, { fthr with lsOut := 1, holds := [(4, 0x180, 32)] })]
                    slices := [(0, 4096)] })]
    lmem := writeMem [] 0x180 (leBytes 4 0x200 ++ leBytes 4 0x240 ++ leBytes 4 0 ++ leBytes 4 0x280 ++ leBytes 16 0) }
def crst : State :=
  { lsst with
    lmem := writeMem [] 0x180 (leBytes 4 0xC0100000 ++ leBytes 4 0x240 ++ leBytes 4 0 ++ leBytes 4 0x280 ++ leBytes 16 0) }

/-- Tenant 5 with a window of one 4 KiB buffer at offset 0 of the aperture of port 0. -/
def winst : State :=
  wr (rset { tlive with
      sysmem := writeMem [] 0 (leBytes 4 0x40000000)
      coop := { ready := true, bufs := [(0x40000000, ⟨.owned, 5⟩)] } } 0x200110 256 0xE2000005) F.HL_WIN_LEN_COUNT 0 256 1

/-- Without a list in the area there is room for one, wherever the search starts. -/
theorem pick_list (s : State) (n : Nat) (h : listRanges s = []) (k : n ≤ 2 ^ 26) : (pickList s n).isSome = true := by
  unfold pickList
  simp only [h, List.all_nil, Bool.and_true, List.map_nil, List.cons_append, List.nil_append, List.find?_cons,
    List.find?_nil]
  split
  · rfl
  · simp [show n ≤ 67108864 from k]

/-- A debug session that is open with every right, about to serve a request. -/
def dbst (op : Nat) (pl : List Nat) : State :=
  { live with dbg := { st := .open, rights := 15, reqs := [(op, 3, pl, true)] } }
def fch (i : FcI) : State :=
  { live with
    cores := [(0, { st := .running, threads := [(0, fthr)], slices := [(0, 4096)], held := [(32, 0)] })]
    fwmem := writeMem (writeMem [] 4 (leBytes 4 64)) 128 (leBytes 4 (fcEncode i).toNat) }
/-- The CLOSE of the peer of the connection, and a TCP reset. -/
def rxs : State :=
  { cons con1 with
    coop := { ready := true, bufs := [(32, ⟨.handed, 4144⟩)] }
    mere := writeMem [] (32 * 256) ([0x35, 0, 0, 0, 0, 2, 0, 0, 0, 0, 0, 3] ++ List.replicate 52 0)
    msgs := [{ core := 0, thread := 0, words := [0x401000000000000, 0x2000000028, 0, 0, 0, 0, 0, 0] }] }
def rstdata : Map Byte :=
  writeMem [] (32 * 256)
    ([0x45, 0, 0, 40, 0, 0, 0, 0, 64, 6] ++ List.replicate 10 0 ++
      (let h : List Byte := beBytes 2 4420 ++ beBytes 2 50000 ++ beBytes 4 1 ++ beBytes 4 1 ++ [0x50, 0x14] ++ beBytes 2 65535
       h ++ beBytes 2 (tcpSum false 0 0 (h ++ [0, 0, 0, 0])) ++ [0, 0]))

/-! ### States that meet the hypotheses of each statement -/

theorem witness_fabricTimeUnitCommands_1 : ∃ (p : HostPort) (s : State),
    (RegOpen s p true) ∧ (s.ft.st = .unset) ∧ (chooseSrc s ≠ 0) :=
  ⟨0, { live with ft := { ppsOk := true, refOk := true } }, by decide +kernel⟩

theorem witness_fabricTimeUnitCommands_2 : ∃ (p : HostPort) (s : State),
    (RegOpen s p true) ∧ (s.ft.st = .unset) ∧ (chooseSrc s = 0) :=
  ⟨0, live, by decide +kernel⟩

theorem witness_fabricTimeUnitCommands_3 : ∃ (p : HostPort) (s : State),
    (RegOpen s p true) ∧ (s.armed = []) :=
  ⟨0, live, by decide +kernel⟩

theorem witness_fabricTimeUnitCommands_4 : ∃ (p : HostPort) (s : State),
    (RegOpen s p true) ∧ (s.armed ≠ []) ∧ (s.lk.intake.length < 256) :=
  ⟨0, { live with armed := [(.snap, 5)] }, by decide +kernel⟩

theorem witness_fabricTimeUnitCommands_5 : ∃ (p : HostPort) (s : State),
    (RegOpen s p true) ∧ (s.armed = []) ∧ (rd s F.FT_CTRL_ENABLE = 1) ∧ (chooseSrc s ≠ 0) :=
  ⟨0, wr { live with ft := { st := .locked, src := 1, ppsOk := true, refOk := true } } F.FT_CTRL_ENABLE 0 0 1, by decide +kernel⟩

theorem witness_fabricTimeUnitCommands_6 : ∃ (p : HostPort) (s : State),
    (RegOpen s p true) ∧ (s.ft.st = .unset ∨ s.ft.st = .acquire) :=
  ⟨0, live, by decide +kernel⟩

theorem witness_fabricTimeUnitCommands_7 : ∃ (p : HostPort) (s : State),
    (RegOpen s p true) ∧ (s.ft.st = .locked ∨ s.ft.st = .holdover ∨ s.ft.st = .relock) :=
  ⟨0, { live with ft := { st := .locked } }, by decide +kernel⟩

theorem witness_fabricTimeUnitCommands_8 : ∃ (p : HostPort) (s : State),
    ReadOpen s p :=
  ⟨0, live, by decide +kernel⟩

theorem witness_fabricTimeUnitCommands_9 : ∃ (p : HostPort) (s : State),
    ReadOpen s p :=
  ⟨0, live, by decide +kernel⟩

theorem witness_fabricTimeMessages_1 : ∃ (p : NetPort) (d q a : Nat) (s : State),
    (ptpTaken s p.val d = true) ∧ (running s = true) ∧ (beaconPort s p.val = true) ∧
      (rd s F.FT_BEACON_DELAY_MECH = 1) :=
  ⟨0, 0, 5, 9, wr net0 F.FT_BEACON_DELAY_MECH 0 0 1, by decide +kernel⟩

theorem witness_fabricTimeMessages_2 : ∃ (p : NetPort) (d q rx : Nat) (b : Beacon) (s : State),
    (ptpTaken s p.val d = true) ∧ (mget? s.ft.syncWait p.val = some (q, rx)) ∧ (b.quality ≠ 0) :=
  ⟨0, 0, 5, 7, { origin := 1, org := 0, orgSub := 0, quality := 2 }, { net0 with ft := { syncWait := [(0, (5, 7))] } }, by decide +kernel⟩

theorem witness_fabricTimeMessages_3 : ∃ (p : NetPort) (d q a : Nat) (s : State),
    (ptpTaken s p.val d = true) ∧ (rd s F.FT_BEACON_TX_EN = 1) ∧
      (bitOf (rd s F.FT_BEACON_PORTS_PORTS) p.val = true) ∧ (rd s F.FT_BEACON_DELAY_MECH = 0) ∧ (running s = true) :=
  ⟨0, 0, 5, 3, wr (wr net0 F.FT_BEACON_TX_EN 0 0 1) F.FT_BEACON_PORTS_PORTS 0 0 1, by decide +kernel⟩

theorem witness_fabricTimeMessages_4 : ∃ (p : NetPort) (d q t4 : Nat) (t1 t2 t3 : Int) (s : State),
    (ptpTaken s p.val d = true) ∧ (beaconPort s p.val = true) ∧ (rd s F.FT_BEACON_DELAY_MECH = 0) ∧
      ((mget {} s.ft.paths p.val).sync = some (t1, t2)) ∧ ((mget {} s.ft.paths p.val).req = some (q, t3)) :=
  ⟨0, 0, 5, 60, 10, 30, 40, { net0 with ft := { paths := [(0, { sync := some (10, 30), req := some (5, 40) })] } }, by decide +kernel⟩

theorem witness_fabricTimeMessages_5 : ∃ (p : NetPort) (d q a : Nat) (s : State),
    (ptpTaken s p.val d = true) ∧ (running s = true) ∧ (rd s F.FT_BEACON_DELAY_MECH = 1) ∧
      (rd s F.FT_BEACON_ONE_STEP = 0) :=
  ⟨0, 0, 5, 3, wr (wr net0 F.FT_BEACON_DELAY_MECH 0 0 1) F.FT_BEACON_ONE_STEP 0 0 0, by decide +kernel⟩

theorem witness_fabricTimeMessages_6 : ∃ (p : NetPort) (d q a t2 : Nat) (t1 : Int) (s : State),
    (ptpTaken s p.val d = true) ∧ (beaconPort s p.val = true) ∧ (rd s F.FT_BEACON_DELAY_MECH = 1) ∧
      ((mget {} s.ft.paths p.val).preq = some (q, t1)) :=
  ⟨0, 0, 5, 3, 30, 10, wr { net0 with ft := { paths := [(0, { preq := some (5, 10) })] } } F.FT_BEACON_DELAY_MECH 0 0 1, by decide +kernel⟩

theorem witness_fabricTimeMessages_7 : ∃ (p : NetPort) (d q t3 : Nat) (t1 t2 t4 : Int) (s : State),
    (ptpTaken s p.val d = true) ∧ (beaconPort s p.val = true) ∧ (rd s F.FT_BEACON_DELAY_MECH = 1) ∧
      ((mget {} s.ft.paths p.val).preq = some (q, t1)) ∧ ((mget {} s.ft.paths p.val).presp = some (t2, t4)) :=
  ⟨0, 0, 5, 40, 10, 30, 60, wr { net0 with ft := { paths := [(0, { preq := some (5, 10), presp := some (30, 60) })] } } F.FT_BEACON_DELAY_MECH 0 0 1, by decide +kernel⟩

theorem witness_fabricTimeMessages_8 : ∃ (p : NetPort) (d a : Nat) (b : Beacon) (s : State),
    (ptpTaken s p.val d = true) ∧ (b.quality ≠ 0) :=
  ⟨0, 0, 3, { origin := 1, org := 0, orgSub := 0, quality := 2 }, net0, by decide +kernel⟩

theorem witness_fabricTimeMessages_9 : ∃ (p : NetPort) (d a : Nat) (b : Beacon) (s : State),
    (ptpTaken s p.val d = true) ∧ (beaconPort s p.val = true) ∧
      (b.org = Config.orgId ∧ b.orgSub = Config.orgSubtype ∧ b.quality = 0) ∧ (s.ft.st = .locked) ∧
      (rd s F.FT_CTRL_ENABLE = 1) ∧ (rd s F.FT_SRC_CTRL_MODE = 1) :=
  ⟨0, 0, 3, { origin := 70000, org := Config.orgId, orgSub := Config.orgSubtype, quality := 0 }, wr (wr { net0 with ft := { st := .locked, src := 2 } } F.FT_CTRL_ENABLE 0 0 1) F.FT_SRC_CTRL_MODE 0 0 1, by decide +kernel, by decide +kernel, ⟨rfl, rfl, rfl⟩, by decide +kernel, by decide +kernel, by decide +kernel⟩

theorem witness_fabricTimeMessages_10 : ∃ (p : HostPort) (ts : List Nat) (s : State),
    (mget? s.ft.ptmOpen p.val = some ts) ∧ (s.lk.intake.length < 256) ∧ (s.lk.st ≠ .lrs) :=
  ⟨0, [1, 2, 3, 4], { live with ft := { ptmOpen := [(0, [1, 2, 3, 4])] } }, by decide +kernel⟩

theorem witness_fabricTimeMessages_11 : ∃ (p : HostPort) (ts : List Nat) (m d : Nat) (s : State),
    (mget? s.ft.ptmOpen p.val = some ts) ∧ (mget 0 s.ft.ptmAddr p.val % 2 = 1) ∧ (canReq s p.val .pf0 = true) :=
  ⟨0, [1, 2, 3, 4], 9, 8, { live with ft := { ptmOpen := [(0, [1, 2, 3, 4])], ptmAddr := [(0, 0x1001)] } }, by decide +kernel⟩

theorem witness_fabricTimeMessages_12 : ∃ (p : NetPort) (d q rx : Nat) (b : Beacon) (s : State),
    (ptpTaken s p.val d = true) ∧ (mget? s.ft.syncWait p.val = some (q, rx)) ∧ (beaconPort s p.val = true) ∧
      (b.org = Config.orgId ∧ b.orgSub = Config.orgSubtype ∧ b.quality = 0) ∧ (s.ft.st = .locked) ∧
      (rd s F.FT_CTRL_ENABLE = 1) ∧ (rd s F.FT_SRC_CTRL_MODE = 1) :=
  ⟨0, 0, 5, 7, { origin := 70000, org := Config.orgId, orgSub := Config.orgSubtype, quality := 0 }, wr (wr { net0 with ft := { st := .locked, src := 2, syncWait := [(0, (5, 7))] } } F.FT_CTRL_ENABLE 0 0 1) F.FT_SRC_CTRL_MODE 0 0 1, by decide +kernel, by decide +kernel, by decide +kernel, ⟨rfl, rfl, rfl⟩, by decide +kernel, by decide +kernel, by decide +kernel⟩

theorem witness_fabricTimeSourcesLost_1 : ∃ (r : Bool) (s : State),
    (s.lk.st ≠ .lrs) ∧ (rd s F.FT_CTRL_ENABLE = 0) ∧ (s.ft.src = 0) :=
  ⟨true, live, by decide +kernel⟩

theorem witness_fabricTimeSourcesLost_2 : ∃ (s : State),
    (s.lk.st ≠ .lrs) ∧ (rd s F.FT_CTRL_ENABLE = 1) ∧ (s.ft.st = .acquire) ∧ (s.ft.todPending = true) ∧
      (rd s F.FT_SRC_CTRL_MODE = 0) ∧ (rget s F.FT_PPS_DELAY_DELAY.off = 0) :=
  ⟨wr { live with ft := { st := .acquire, todPending := true } } F.FT_CTRL_ENABLE 0 0 1, by decide +kernel⟩

theorem witness_fabricTimeSourcesLost_3 : ∃ (s : State),
    (s.lk.st ≠ .lrs) ∧ (s.ft.refOk = true) ∧ (s.ft.ppsOk = true) ∧ (s.ft.st = .locked) ∧
      (rd s F.FT_CTRL_ENABLE = 1) ∧ (s.ft.inbandOk = false) ∧ (s.lk.intake.length < 255) ∧
      (s.clk ≥ s.ft.lastRef + bitsOf s.ft.effLoss 7 0 * (if bitOf s.ft.effSrc 2 = true then 6400 else 100000)) :=
  ⟨wr { live with ft := { st := .locked, src := 1, ppsOk := true, refOk := true } } F.FT_CTRL_ENABLE 0 0 1, by decide +kernel⟩

theorem witness_fabricTimeSourcesLost_4 : ∃ (s : State),
    (s.lk.st ≠ .lrs) ∧ (s.ft.ppsOk = true) ∧ (s.ft.refOk = false) ∧ (rd s F.FT_CTRL_ENABLE = 0) ∧
      (s.clk ≥ s.ft.lastPps + msec (100 * bitsOf (s.ft.effLoss) 15 8)) :=
  ⟨{ live with ft := { ppsOk := true } }, by decide +kernel⟩

theorem witness_fabricTimeSourcesLost_5 : ∃ (s : State),
    (s.lk.st ≠ .lrs) ∧ (s.ft.inbandOk = true) ∧ (rd s F.FT_CTRL_ENABLE = 0) ∧
      (s.clk ≥ s.ft.lastBeacon + bitsOf (s.ft.effLoss) 25 16 * 1048576000) ∧ (s.lk.intake.length < 256) :=
  ⟨{ live with ft := { inbandOk := true } }, by decide +kernel⟩

theorem witness_fabricTimeSourcesLost_6 : ∃ (s : State),
    (s.ft.st = .holdover) ∧ (s.ft.longRaised = false) ∧
      ((s.clk - s.ft.lastSample) / 1000000000000 ≥ rd s F.FT_HOLD_POLICY_HOLD_LIMIT) ∧
      (s.lk.intake.length < 256) ∧ (s.lk.st ≠ .lrs) :=
  ⟨{ live with ft := { st := .holdover } }, by decide +kernel⟩

theorem witness_hostPortResetAndLink_1 : ∃ (p : HostPort) (s : State),
    ((hpOf s p.val).perst = true) ∧ (s.boot.stage > 3) ∧ (portWidth s p.val ≠ 0) :=
  ⟨0, { wr live F.GL_CONFIG_PORT_WIDTH 0 0 1 with hp := [], boot := { stage := 8 } }, by decide +kernel⟩

theorem witness_hostPortResetAndLink_2 : ∃ (p : HostPort) (w : Fin 17) (v : Fin 8) (s : State),
    (training s p.val = true) ∧ (Machine.widthOk s p.val w.val = true) ∧ (v.val ≠ 0) ∧ (NoInterrupt s p.val) :=
  ⟨0, 8, 6, { live with hp := [(0, { hpUp with ltssm := .polling })] }, by decide +kernel⟩

theorem witness_hostPortResetAndLink_3 : ∃ (p : HostPort) (w : Fin 17) (v : Fin 8) (s : State),
    (training s p.val = true) ∧ (s.lk.intake.length < 256) ∧ (s.lk.st ≠ .lrs) :=
  ⟨0, 8, 6, { live with hp := [(0, { hpUp with ltssm := .polling })] }, by decide +kernel⟩

theorem witness_hostPortResetAndLink_4 : ∃ (p : HostPort) (s : State),
    ((hpOf s p.val).noFlit = true) ∧ ((hpOf s p.val).ltssm = .detect) ∧ ((hpOf s p.val).perst = false) ∧
      (s.clk ≥ (hpOf s p.val).noFlitAt + msec 100) :=
  ⟨0, { live with hp := [(0, { hpUp with ltssm := .detect, noFlit := true })] }, by decide +kernel⟩

theorem witness_hostPortResetAndLink_5 : ∃ (p : HostPort) (s : State),
    ((hpOf s p.val).perst = false) ∧ ((hpOf s p.val).ltssm ≠ .hotReset) ∧ (running s = true) :=
  ⟨0, live, by decide +kernel⟩

theorem witness_hostPortResetAndLink_7 : ∃ (p : HostPort) (f : Fn) (s : State),
    ((fnOf s p.val f).drain.isSome = true) ∧ (fnDraining s p.val f = false) :=
  ⟨0, .pf0, { live with hp := [(0, { hpUp with f0 := { drain := some 5 } })] }, by decide +kernel⟩

theorem witness_hostPortResetAndLink_8 : ∃ (p : HostPort) (f : Fn) (s : State),
    (CfgOpen s p f) ∧ ((fnOf s p.val f).d3 = false) ∧ (s.cqs = []) ∧ (s.sqs = []) :=
  ⟨0, .pf1, live, by decide +kernel⟩

theorem witness_hostPortResetAndLink_9 : ∃ (p : HostPort) (b : Bool) (s : State),
    ((hpOf s p.val).ltssm = .l0) ∧ (b = true → (hpOf s p.val).f0.l11En = true) :=
  ⟨0, false, live, by decide +kernel⟩

theorem witness_hostPortResetAndLink_10 : ∃ (p : HostPort) (w : Fin 17) (s : State),
    ((hpOf s p.val).ltssm = .l0) ∧ (2 ≤ w.val ∧ w.val < (hpOf s p.val).width) ∧
      (w.val = 2 ∨ w.val = 4 ∨ w.val = 8) :=
  ⟨0, 4, live, by decide +kernel⟩

theorem witness_hostPortResetAndLink_11 : ∃ (p : HostPort) (g : Fin 16384) (till : Nat) (f : Fn) (s : State),
    ((hpOf s p.val).lateTags.find? (·.1 = g.val) = some (g.val, till, f)) ∧ (s.clk < till) ∧
      (s.lk.intake.length < 256) ∧ ((fnOf s p.val f).aer.uncSev.getLsbD 16 = false) ∧
      ((fnOf s p.val f).aer.uncMask.getLsbD 16 = false) ∧ ((fnOf s p.val f).aer.corMask.getLsbD 13 = false) ∧
      ((fnOf s p.val f).aer.first = none) ∧ (s.lk.st ≠ .lrs) :=
  ⟨0, 5, 10 ^ 16, .pf0, { live with hp := [(0, { hpUp with lateTags := [(5, 10 ^ 16, .pf0)], f0 := { hpUp.f0 with aer := { corMask := 0 } } })] }, by decide +kernel⟩

theorem witness_hostPortResetAndLink_12 : ∃ (p : HostPort) (g : Fin 16384) (till : Nat) (f : Fn) (s : State),
    ((hpOf s p.val).lateTags = [(g.val, till, f)]) ∧ (till ≤ s.clk) :=
  ⟨0, 5, 7, .pf0, { live with hp := [(0, { hpUp with lateTags := [(5, 7, .pf0)] })] }, by decide +kernel⟩

theorem witness_hostPortInterruptsAndConfiguration_1 : ∃ (p : HostPort) (v : Fin 2048) (s : State),
    (s.lk.st ≠ .lrs) ∧ (linkUp s p.val = true) ∧ ((fnOf s p.val .pf1).mse = true) ∧
      ((fnOf s p.val .pf1).vpend = [v.val]) ∧ ((fnOf s p.val .pf1).vopen = []) ∧
      ((fnOf s p.val .pf1).fmask = false) ∧ ((fnOf s p.val .pf1).msixEn = true) ∧
      ((fnOf s p.val .pf1).d3 = false) ∧ (running s = true) ∧ ((fnOf s p.val .pf1).bme = true) :=
  ⟨0, 3, { live with hp := [(0, { hpUp with f1 := { hpUp.f1 with vpend := [3], msixEn := true } })] }, by decide +kernel⟩

theorem witness_hostPortInterruptsAndConfiguration_2 : ∃ (p : HostPort) (a b : Bool) (s : State),
    (CfgOpen s p .pf0) ∧ ((fnOf s p.val .pf0).vpend = []) ∧ ((hpOf s p.val).alertHeld = false) :=
  ⟨0, true, false, live, by decide +kernel⟩

theorem witness_hostPortInterruptsAndConfiguration_3 : ∃ (p : HostPort) (v : Word) (s : State),
    (linkUp s p.val = true) ∧ ((fnOf s p.val .pf0).mse = true) ∧ (s.lk.st ≠ .lrs) ∧
      (rd s F.LK_MB_ALERT_PENDING 0 p.val - Nat.land (rd s F.LK_MB_ALERT_PENDING 0 p.val) (v.toNat % 8) ≠ 0) :=
  ⟨0, 1, wr live F.LK_MB_ALERT_PENDING 0 0 3, by decide +kernel⟩

theorem witness_hostPortInterruptsAndConfiguration_4 : ∃ (p : HostPort) (f : Fn) (s : State),
    (CfgOpen s p f) ∧ (NoInterrupt s p.val) :=
  ⟨0, .pf1, live, by decide +kernel⟩

theorem witness_hostPortInterruptsAndConfiguration_5 : ∃ (p : HostPort) (f : Fn) (b : Bool) (s : State),
    (CfgOpen s p f) ∧ (NoInterrupt s p.val) :=
  ⟨0, .pf1, false, live, by decide +kernel⟩

theorem witness_hostPortInterruptsAndConfiguration_6 : ∃ (p : HostPort) (f : Fn) (v : Fin 16) (s : State),
    (CfgOpen s p f) ∧ (NoInterrupt s p.val) ∧ (v.val ∈ [0, 1, 2, 5, 6, 9, 10, 13, 14]) :=
  ⟨0, .pf1, 6, live, by decide +kernel⟩

theorem witness_hostPortInterruptsAndConfiguration_7 : ∃ (p : HostPort) (f : Fn) (v : Fin 16) (s : State),
    (CfgOpen s p f) ∧ (NoInterrupt s p.val) ∧ (v.val ∉ [0, 1, 2, 5, 6, 9, 10, 13, 14]) :=
  ⟨0, .pf1, 3, live, by decide +kernel⟩

theorem witness_hostPortInterruptsAndConfiguration_8 : ∃ (p : HostPort) (f : Fn) (v : Fin 2048) (s : State),
    (linkUp s p.val = true) ∧ ((fnOf s p.val f).mse = true) ∧ (s.lk.st ≠ .lrs) :=
  ⟨0, .pf1, 3, live, by decide +kernel⟩

theorem witness_hostPortInterruptsAndConfiguration_9 : ∃ (p : HostPort) (f : Fn) (k : Fin 6) (v : Word) (s : State),
    (CfgOpen s p f) ∧ (NoInterrupt s p.val) :=
  ⟨0, .pf1, 2, 0xFFFFFFFF, live, by decide +kernel⟩

theorem witness_hostPortInterruptsAndConfiguration_10 : ∃ (p : HostPort) (f : Fn) (v : Word) (s : State),
    (CfgOpen s p f) ∧ (NoInterrupt s p.val) :=
  ⟨0, .pf1, 0xFFFFFFFF, live, by decide +kernel⟩

theorem witness_hostPortInterruptsAndConfiguration_11 : ∃ (p : HostPort) (f : Fn) (o : Fin 4096) (s : State),
    CfgOpen s p f :=
  ⟨0, .pf1, 0, live, by decide +kernel⟩

theorem witness_hostPortInterruptsAndConfiguration_12 : ∃ (p : HostPort) (f : Fn) (s : State),
    (linkUp s p.val = true) ∧ ((hpOf s p.val).ready = false) :=
  ⟨0, .pf1, { live with hp := [(0, { hpUp with ready := false })] }, by decide +kernel⟩

theorem witness_peerWindows_1 : ∃ (p : HostPort) (r : Fin 65536) (a : Fin 68719476736) (b : List Byte) (s : State),
    (linkUp s p.val = true) ∧ ((fnOf s p.val .pf1).mse = true) ∧ (s.lk.st ≠ .lrs) ∧ ((hpOf s p.val).winSt ≠ .hold) :=
  ⟨0, 0, 0, [1], live, by decide +kernel⟩

theorem witness_peerWindows_2 : ∃ (p : HostPort) (r : Fin 65536) (a : Fin 68719476736) (b : List Byte) (s : State),
    (linkUp s p.val = true) ∧ ((fnOf s p.val .pf1).mse = true) ∧ ((hpOf s p.val).winSt ≠ .hold) ∧
      (running s = true) ∧ (peerTranslate s p.val r.val a.val b.length true = none) :=
  ⟨0, 0, 0, [1], live, by decide +kernel⟩

theorem witness_peerWindows_3 : ∃ (p : HostPort) (r : Fin 65536) (a : Fin 68719476736) (b : List Byte) (x : Nat) (s : State),
    (linkUp s p.val = true) ∧ ((fnOf s p.val .pf1).mse = true) ∧ ((hpOf s p.val).winSt ≠ .hold) ∧
      (running s = true) ∧ (peerTranslate s p.val r.val a.val b.length true = some [(x, b.length)]) :=
  ⟨0, 0, 0, [1], bufAddr winst 0x40000000 0, winst, by decide +kernel⟩

theorem witness_peerWindows_4 : ∃ (p : HostPort) (r : Fin 65536) (a : Fin 68719476736) (n : Fin 4097) (e : Ecc) (s : State),
    (linkUp s p.val = true) ∧ ((fnOf s p.val .pf1).mse = true) ∧ (s.lk.st ≠ .lrs) ∧ ((hpOf s p.val).winSt = .hold) :=
  ⟨0, 0, 0, 4, {}, { live with hp := [(0, { hpUp with winSt := .hold })] }, by decide +kernel⟩

theorem witness_peerWindows_5 : ∃ (p : HostPort) (r : Fin 65536) (a : Fin 68719476736) (n : Fin 4097) (e : Ecc) (x : Nat) (s : State),
    (linkUp s p.val = true) ∧ ((fnOf s p.val .pf1).mse = true) ∧ ((hpOf s p.val).winSt ≠ .hold) ∧
      (running s = true) ∧ (peerTranslate s p.val r.val a.val n.val false = some [(x, n.val)]) :=
  ⟨0, 0, 0, 1, {}, bufAddr winst 0x40000000 0, winst, by decide +kernel⟩

theorem witness_peerWindows_6 : ∃ (p : HostPort) (s : State),
    (RegOpen s p false) ∧ ((hpOf s p.val).winSt = .idle) :=
  ⟨0, live, by decide +kernel⟩

theorem witness_peerWindows_7 : ∃ (p : HostPort) (s : State),
    (RegOpen s p false) ∧ ((hpOf s p.val).winSt ≠ .idle) :=
  ⟨0, { live with hp := [(0, { hpUp with winSt := .hold })] }, by decide +kernel⟩

theorem witness_peerWindows_8 : ∃ (p : HostPort) (s : State),
    ((hpOf s p.val).winSt = .check) ∧
      (∀ w ∈ enabledWins s p.val (1 - actSet s p.val), winFault s p.val (1 - actSet s p.val) w (enabledWins s p.val (1
          - actSet s p.val)) = 0) :=
  ⟨0, { live with hp := [(0, { hpUp with winSt := .check })] }, by decide +kernel⟩

theorem witness_peerWindows_9 : ∃ (p : HostPort) (s : State),
    ((hpOf s p.val).winSt = .hold) ∧ ((hpOf s p.val).held = []) :=
  ⟨0, { live with hp := [(0, { hpUp with winSt := .hold })] }, by decide +kernel⟩

theorem witness_peerWindows_10 : ∃ (p : HostPort) (s : State),
    ((hpOf s p.val).winSt = .copy) ∧ ((hpOf s p.val).winClear = []) :=
  ⟨0, { live with hp := [(0, { hpUp with winSt := .copy })] }, by decide +kernel⟩

theorem witness_peerWindows_11 : ∃ (p : HostPort) (s : State),
    (hpOf s p.val).winSt = .idle :=
  ⟨0, wr (wr ({ live with hp := [(0, { hpUp with winClear := [3] })] }) F.HL_WIN_CFG_EN 0 5 1) F.HL_WIN_CFG_TENANT 0 5 3, by decide +kernel⟩

theorem witness_portAndFunctionResets_1 : ∃ (p : HostPort) (s : State),
    (NoWork s) ∧ ((hpOf s p.val).aq.wait = none) ∧ ((hpOf s p.val).perst = false) :=
  ⟨0, live, by decide +kernel⟩

theorem witness_portAndFunctionResets_2 : ∃ (p : HostPort) (s : State),
    (NoWork s) ∧ ((hpOf s p.val).aq.wait = none) ∧ (linkLive s p.val = true) :=
  ⟨0, live, by decide +kernel⟩

theorem witness_portAndFunctionResets_3 : ∃ (p : HostPort) (s : State),
    (NoWork s) ∧ ((hpOf s p.val).aq.wait = none) ∧ ((hpOf s p.val).perst = false) ∧
      ((hpOf s p.val).ltssm = .l0) ∧ (s.lk.intake.length < 256) ∧ (s.lk.st ≠ .lrs) :=
  ⟨0, live, by decide +kernel⟩

theorem witness_portAndFunctionResets_4 : ∃ (p : HostPort) (s : State),
    (NoWork s) ∧ ((hpOf s p.val).aq.wait = none) ∧ (CfgOpen s p .pf0) ∧ ((hpOf s p.val).intaOn = false) :=
  ⟨0, live, by decide +kernel⟩

theorem witness_portAndFunctionResets_5 : ∃ (p : HostPort) (s : State),
    (NoWork s) ∧ (CfgOpen s p .pf1) :=
  ⟨0, live, by decide +kernel⟩

theorem witness_portAndFunctionResets_6 : ∃ (p : HostPort) (s : State),
    (NoWork s) ∧ (CfgOpen s p .pf1) ∧ ((fnOf s p.val .pf1).bme = true) :=
  ⟨0, live, by decide +kernel⟩

theorem witness_portAndFunctionResets_7 : ∃ (p : HostPort) (s : State),
    (NoWork s) ∧ ((hpOf s p.val).aq.wait = none) ∧ (CfgOpen s p .pf0) ∧ ((fnOf s p.val .pf0).bme = true) :=
  ⟨0, live, by decide +kernel⟩

theorem witness_portAndFunctionResets_8 : ∃ (p : HostPort) (s : State),
    (NoWork s) ∧ (CfgOpen s p .pf1) ∧ ((hpOf s p.val).f1.pasidEn = true) :=
  ⟨0, live, by decide +kernel⟩

theorem witness_portAndFunctionResets_9 : ∃ (p : HostPort) (f : Fn) (t0 : Nat) (s : State),
    (NoWork s) ∧ ((fnOf s p.val f).drain = some t0) ∧ (t0 + msec 10 ≤ s.clk) :=
  ⟨0, .pf1, 7, { live with hp := [(0, { hpUp with f1 := { drain := some 7 } })] }, by decide +kernel⟩

theorem witness_portAndFunctionResets_10 : ∃ (p : HostPort) (f : Fn) (s : State),
    (NoWork s) ∧ (CfgOpen s p f) ∧ ((fnOf s p.val f).d3 = true) ∧ (NoInterrupt s p.val) :=
  ⟨0, .pf1, { live with hp := [(0, { hpUp with f1 := { d3 := true } })] }, by decide +kernel⟩

theorem witness_registerAccesses_1 : ∃ (p : HostPort) (o : Fin 268435456) (v : DWord) (s : State),
    (RegOpen s p false) ∧ (excludedBy s p.val (o.val / 4 * 4) = false) :=
  ⟨0, 0x20, 77, live, by decide +kernel⟩

theorem witness_registerAccesses_2 : ∃ (p : HostPort) (v : DWord) (s : State),
    RegOpen s p false :=
  ⟨3, 77, { live with hp := [(3, hpUp)] }, by decide +kernel⟩

theorem witness_registerAccesses_3 : ∃ (p : HostPort) (o : Fin 268435456) (v : DWord) (s : State),
    (RegOpen s p false) ∧ (excludedBy s p.val (o.val / 4 * 4) = true) :=
  ⟨3, 0x100010, 77, { live with hp := [(3, hpUp)] }, by decide +kernel⟩

theorem witness_registerAccesses_4 : ∃ (p : HostPort) (o : Fin 268435456) (v : DWord) (s : State),
    RegOpen s p false :=
  ⟨0, 0x20, 77, live, by decide +kernel⟩

theorem witness_registerAccesses_5 : ∃ (p : HostPort) (o : Fin 268435456) (w a b : Bool) (v : DWord) (s : State),
    (linkUp s p.val = true) ∧ ((fnOf s p.val .pf0).mse = false) :=
  ⟨0, 0x20, false, true, true, 77, { live with hp := [(0, { hpUp with f0 := {} })] }, by decide +kernel⟩

theorem witness_registerAccesses_6 : ∃ (p : HostPort) (w : Bool) (s : State),
    linkUp s p.val = true :=
  ⟨0, false, live, by decide +kernel⟩

theorem witness_registerAccesses_7 : ∃ (p : HostPort) (k : Fin 20) (o : Fin 268435456) (s : State),
    (ReadOpen s p) ∧ (o.val = 0x700100 + 8 * k.val) :=
  ⟨0, 1, 0x700108, cadd live 7 0 1 5000000000, by decide +kernel⟩

theorem witness_registerAccesses_8 : ∃ (p : HostPort) (k : Fin 20) (o : Fin 268435456) (w : Word) (s : State),
    (ReadOpen s p) ∧ (o.val = 0x700104 + 8 * k.val) ∧ (mget? s.rlatch (latchKey p.val .pf0 (o.val - 4)) = some w) :=
  ⟨0, 1, 0x70010C, 9, { live with rlatch := [(latchKey 0 .pf0 0x700108, 9)] }, by decide +kernel⟩

theorem witness_registerAccesses_9 : ∃ (p : HostPort) (o : Fin 268435456) (s : State),
    (linkUp s p.val = true) ∧ ((fnOf s p.val .pf0).mse = true) ∧ (s.lk.st = .lrs) ∧ (o.val / 0x100000 ≠ 18) :=
  ⟨0, 0x20, { live with lk := { st := .lrs } }, by decide +kernel⟩

theorem witness_doorbellScannerAndRings_1 : ∃ (i g : Nat) (q : Sq) (s : State),
    (mget? s.sqs i = some q) ∧ (sqLive s i q = true) ∧ (scanPaused s q = false) ∧ (q.dbReading = false) ∧
      (q.lastScan + scanPeriod s q ≤ s.clk) ∧ (ownerCanReq s q.port q.owner = true) ∧ (sysTag s q.port = some g) ∧
      (((recentReads s q.port).length + 1) * 1000 * 64000 ≤ scanBudget s q.port) :=
  ⟨1, 8192, sq1, qlive, by decide +kernel⟩

theorem witness_doorbellScannerAndRings_2 : ∃ (i : Nat) (q : Sq) (d : HostData) (k : Nat) (r : SysRead) (s : State),
    (mget? s.sqs i = some q) ∧ (q.dbReading = true) ∧ (sqLive s i q = true) ∧ (running s = true) ∧
      (d = .error) ∧ (oldestRead s (.doorbell i) = some (k, r)) ∧ (r.drop = false) ∧
      (∀ x ∈ s.slots, x.2.st ≠ .validating ∨ pushSq x.2 ≠ i) :=
  ⟨1, { sq1 with dbReading := true }, .error, 9000, { port := 0, fn := .pf0, what := .doorbell 1, since := 1 }, { qlive with sqs := [(1, { sq1 with dbReading := true })], sreads := [(9000, { port := 0, fn := .pf0, what := .doorbell 1, since := 1 })] }, by decide +kernel⟩

theorem witness_doorbellScannerAndRings_3 : ∃ (i : Nat) (q : Sq) (b : List Byte) (k : Nat) (r : SysRead) (s : State),
    (mget? s.sqs i = some q) ∧ (q.dbReading = true) ∧ (sqLive s i q = true) ∧ (running s = true) ∧
      (q.scan = .hot) ∧ ((hpOf s q.port).aq.abi ≠ 2 ∨ 2 ^ 20 ≤ i ∨ leAt b 7 1 = gen s 1 i) ∧ (b.length = 8) ∧
      (0 < ringFill (leAt b 0 4) q.pdev) ∧ (ringFill (leAt b 0 4) q.pdev < 2 ^ 31) ∧
      (ringFill (leAt b 0 4) q.ci ≤ 2 ^ q.log2) ∧ (oldestRead s (.doorbell i) = some (k, r)) ∧ (r.drop = false) ∧
      (∀ x ∈ s.slots, x.2.st ≠ .validating ∨ pushSq x.2 ≠ i) :=
  ⟨1, { sq1 with dbReading := true, scan := .hot }, [3, 0, 0, 0, 9, 0, 0, 1], 9000, { port := 0, fn := .pf0, what := .doorbell 1, since := 1 }, { qlive with sqs := [(1, { sq1 with dbReading := true, scan := .hot })], sreads := [(9000, { port := 0, fn := .pf0, what := .doorbell 1, since := 1 })] }, by decide +kernel⟩

theorem witness_doorbellScannerAndRings_4 : ∃ (i : Nat) (q : Sq) (b : List Byte) (k : Nat) (r : SysRead) (s : State),
    (mget? s.sqs i = some q) ∧ (q.dbReading = true) ∧ (sqLive s i q = true) ∧ (running s = true) ∧
      ((hpOf s q.port).aq.abi ≠ 2) ∧ (i < 2 ^ 20) ∧ (0 < ringFill (leAt b 0 4) q.pdev) ∧
      (ringFill (leAt b 0 4) q.pdev < 2 ^ 31) ∧ (2 ^ q.log2 < ringFill (leAt b 0 4) q.ci) ∧
      (mget? s.cqs q.cq = none) ∧ (oldestRead s (.doorbell i) = some (k, r)) ∧ (r.drop = false) ∧
      (∀ x ∈ s.slots, x.2.st ≠ .validating ∨ pushSq x.2 ≠ i) :=
  ⟨1, { sq1 with dbReading := true, cq := 77 }, [100, 0, 0, 0], 9000, { port := 0, fn := .pf0, what := .doorbell 1, since := 1 }, { qlive with sqs := [(1, { sq1 with dbReading := true, cq := 77 })], hp := [(0, { hpUp with aq := { hpUp.aq with abi := 1 } })], sreads := [(9000, { port := 0, fn := .pf0, what := .doorbell 1, since := 1 })] }, by decide +kernel⟩

theorem witness_doorbellScannerAndRings_5 : ∃ (i : Nat) (q : Sq) (s : State),
    (mget? s.sqs i = some q) ∧ (q.scan = .hot) ∧ (q.pin = false) ∧ (i < 2 ^ 20) ∧
      (usec (16 * rd s F.QM_SCAN_IDLE_HOT_IDLE 0 q.port) ≤ idleNow s q) :=
  ⟨1, { sq1 with scan := .hot, idle := 10 ^ 15 }, { qlive with sqs := [(1, { sq1 with scan := .hot, idle := 10 ^ 15 })] }, by decide +kernel⟩

theorem witness_doorbellScannerAndRings_6 : ∃ (i : Nat) (q : Sq) (s : State),
    (mget? s.sqs i = some q) ∧ (q.scan = .warm) ∧ (msec (rd s F.QM_SCAN_IDLE_WARM_IDLE 0 q.port) ≤ idleNow s q) :=
  ⟨1, { sq1 with idle := 10 ^ 15 }, { qlive with sqs := [(1, { sq1 with idle := 10 ^ 15 })] }, by decide +kernel⟩

theorem witness_doorbellScannerAndRings_7 : ∃ (p : HostPort) (s : State),
    (running s = true) ∧ ((hpOf s p.val).stretchAt + usec 16 ≤ s.clk) ∧ (stretchOf s p.val ≤ 16 * 256) :=
  ⟨0, qlive, by decide +kernel⟩

theorem witness_doorbellScannerAndRings_8 : ∃ (i g : Nat) (q : Sq) (s : State),
    (mget? s.sqs i = some q) ∧ (sqLive s i q = true) ∧ (q.reading = none) ∧ (q.rd ≠ q.pdev) ∧
      (stalled s q = false) ∧ (ownerCanReq s q.port q.owner = true) ∧ (sysTag s q.port = some g) ∧
      (q.pushed = []) ∧ (q.ents = []) ∧ (fetchLen q ≠ 0) :=
  ⟨1, 8192, { sq1 with pdev := 3 }, { qlive with sqs := [(1, { sq1 with pdev := 3 })] }, by decide +kernel⟩

theorem witness_doorbellScannerAndRings_9 : ∃ (i : Nat) (q : Sq) (k0 n : Nat) (d : HostData) (k : Nat) (r : SysRead) (s : State),
    (mget? s.sqs i = some q) ∧ (q.reading = some (k0, n)) ∧ (running s = true) ∧ (sqLive s i q = true) ∧
      (i < 2 ^ 20) ∧ (d = .error) ∧ (mget? s.cqs q.cq = none) ∧ (oldestRead s (.ring i) = some (k, r)) ∧
      (r.drop = false) :=
  ⟨1, { sq1 with reading := some (0, 1), cq := 77 }, 0, 1, .error, 9000, { port := 0, fn := .pf0, what := .ring 1, since := 1 }, { qlive with sqs := [(1, { sq1 with reading := some (0, 1), cq := 77 })], sreads := [(9000, { port := 0, fn := .pf0, what := .ring 1, since := 1 })] }, by decide +kernel⟩

theorem witness_doorbellScannerAndRings_10 : ∃ (i : Nat) (q : Sq) (k0 : Nat) (b : List Byte) (e : Entry) (k : Nat) (r : SysRead) (s : State),
    (mget? s.sqs i = some q) ∧ (q.reading = some (k0, 1)) ∧ (running s = true) ∧ (sqLive s i q = true) ∧
      (i < 2 ^ 20) ∧ (q.ents = []) ∧ (q.skip = 0) ∧ (q.pushed = []) ∧ (bytesToEntries b 1 = [e]) ∧
      (eFirst e = true) ∧ (eLast e = true) ∧ (eCnt e = 1) ∧ (oldestRead s (.ring i) = some (k, r)) ∧
      (r.drop = false) :=
  ⟨1, { sq1 with reading := some (0, 1) }, 0, [0x80, 0xC0, 5, 0, 0, 0, 0, 0, 0, 0, 0, 1], ent [0x5C080, 0, 0x1000000, 0, 0, 0, 0, 0, 0, 0, 0, 0, 0, 0, 0, 0], 9000, { port := 0, fn := .pf0, what := .ring 1, since := 1 }, { qlive with sqs := [(1, { sq1 with reading := some (0, 1) })], sreads := [(9000, { port := 0, fn := .pf0, what := .ring 1, since := 1 })] }, by decide +kernel⟩

theorem witness_doorbellScannerAndRings_11 : ∃ (i : Nat) (q : Sq) (d : Decoded) (r : List Decoded) (s : State),
    (mget? s.sqs i = some q) ∧ (running s = true) ∧ (sqLive s i q = true) ∧ (stalled s q = false) ∧
      (i < 2 ^ 20) ∧ (q.decoded = d :: r) ∧ (q.started = []) ∧ (0 < q.inflMax) ∧
      (jobCheck s q.owner d (d.ents.getD 0 ⟨[]⟩) = none) ∧ ((fnOf s q.port (ownerFn q.owner)).d3 = false) :=
  ⟨1, { sq1 with decoded := [⟨[ent [0x5C080, 0, 0x1000000]], false⟩] }, ⟨[ent [0x5C080, 0, 0x1000000]], false⟩, [], { qlive with sqs := [(1, { sq1 with decoded := [⟨[ent [0x5C080, 0, 0x1000000]], false⟩] })] }, by decide +kernel⟩

theorem witness_doorbellScannerAndRings_12 : ∃ (p : HostPort) (q : Sq) (d : Decoded) (r : List Decoded) (e : Entry) (s : State),
    (mget? s.sqs (admKey p.val) = some q) ∧ (running s = true) ∧ (sqLive s (admKey p.val) q = true) ∧
      (stalled s q = false) ∧ (q.decoded = d :: r) ∧ (d.ents = [e]) ∧ ((hpOf s p.val).aq.cur = none) ∧
      ((mget? s.cqs (admKey p.val)).map (·.fin) = none) ∧ (d.bad = false) ∧ (headerOk d.ents = true) ∧
      (opOf e = 0) ∧ (bitOf (dw e 0) 13 = false) ∧ (dw e 1 = 0) ∧ ((fnOf s q.port (ownerFn q.owner)).d3 = false) :=
  ⟨0, { sq1 with decoded := [⟨[ent [0x5C000, 0, 0x1000000]], false⟩] }, ⟨[ent [0x5C000, 0, 0x1000000]], false⟩, [], ent [0x5C000, 0, 0x1000000], { live with sqs := [(admKey 0, { sq1 with decoded := [⟨[ent [0x5C000, 0, 0x1000000]], false⟩] })] }, by decide +kernel⟩

theorem witness_pushWindows_1 : ∃ (p : HostPort) (n : TenantId) (x : Tenant) (k : Fin 32) (o : Fin 512) (b : Byte) (s : State),
    (linkUp s p.val = true) ∧ ((fnOf s p.val .pf1).mse = true) ∧ (running s = true) ∧
      (pageLive s p.val n.val = true) ∧ (mget? s.tens n.val = some x) ∧
      (mget? s.slots (slotKey n.val k.val) = none) ∧ (busySlots s n.val < x.credits) :=
  ⟨0, 5, ten5, 2, 8, 7, tlive, by decide +kernel⟩

theorem witness_pushWindows_2 : ∃ (p : HostPort) (n : TenantId) (x : Tenant) (k : Fin 32) (o : Fin 512) (b : List Byte) (s : State),
    (linkUp s p.val = true) ∧ ((fnOf s p.val .pf1).mse = true) ∧ (running s = true) ∧
      (pageLive s p.val n.val = true) ∧ (mget? s.tens n.val = some x) ∧
      (mget? s.slots (slotKey n.val k.val) = none) ∧ (x.credits ≤ busySlots s n.val) :=
  ⟨0, 5, { ten5 with credits := 0 }, 2, 8, [7], { tlive with tens := [(5, { ten5 with credits := 0 })] }, by decide +kernel⟩

theorem witness_pushWindows_3 : ∃ (p : HostPort) (n : TenantId) (x : Tenant) (k : Fin 32) (o : Fin 512) (b : List Byte) (s : State),
    (linkUp s p.val = true) ∧ ((fnOf s p.val .pf1).mse = true) ∧ (running s = true) ∧
      (pageLive s p.val n.val = false) ∧ (mget? s.tens n.val = some x) :=
  ⟨0, 5, { ten5 with st := .disabled }, 2, 8, [7], { tlive with tens := [(5, { ten5 with st := .disabled })] }, by decide +kernel⟩

theorem witness_pushWindows_4 : ∃ (n : TenantId) (k : Fin 32) (l : PushSlot) (i m : Nat) (es : List Entry) (s : State),
    (mget? s.slots (slotKey n.val k.val) = some l) ∧ (l.st = .validating) ∧ (running s = true) ∧
      (pushCheck s n.val l.bytes = some (i, m, es)) ∧
      (∀ y ∈ s.slots, y.1 = slotKey n.val k.val ∨ y.2.st ≠ .validating ∨ pushSq y.2 ≠ pushSq l) :=
  ⟨5, 2, { st := .validating, bytes := rec1 }, 1, 1, [⟨List.replicate 16 0⟩], { tlive with sqs := [(1, { sq1 with owner := some 5, pushEn := true })], slots := [(162, { st := .validating, bytes := rec1 })] }, by decide +kernel⟩

theorem witness_pushWindows_5 : ∃ (n : TenantId) (k : Fin 32) (l : PushSlot) (x : Tenant) (s : State),
    (mget? s.slots (slotKey n.val k.val) = some l) ∧ (l.st = .validating) ∧ (running s = true) ∧
      (mget? s.tens n.val = some x) ∧ (pushCheck s n.val l.bytes = none) ∧
      (∀ y ∈ s.slots, y.1 = slotKey n.val k.val ∨ y.2.st ≠ .validating ∨ pushSq y.2 ≠ pushSq l) :=
  ⟨5, 2, { st := .validating }, ten5, { tlive with slots := [(162, { st := .validating })] }, by decide +kernel⟩

theorem witness_pushWindows_6 : ∃ (n : TenantId) (k : Fin 32) (l : PushSlot) (x : Tenant) (s : State),
    (mget? s.slots (slotKey n.val k.val) = some l) ∧ (l.st = .assembling) ∧
      (l.start + asmTimeout s n.val ≤ s.clk) ∧ (running s = true) ∧ (mget? s.tens n.val = some x) :=
  ⟨5, 2, { st := .assembling }, ten5, { tlive with slots := [(162, { st := .assembling })] }, by decide +kernel⟩

theorem witness_pushWindows_7 : ∃ (n : TenantId) (k : Fin 32) (l : PushSlot) (s : State),
    (mget? s.slots (slotKey n.val k.val) = some l) ∧ (l.st = .refused) ∧
      (l.start + asmTimeout s n.val ≤ s.clk) ∧ (running s = true) :=
  ⟨5, 2, { st := .refused }, { tlive with slots := [(162, { st := .refused })] }, by decide +kernel⟩

theorem witness_pushWindows_8 : ∃ (n : TenantId) (x : Tenant) (s : State),
    (mget? s.tens n.val = some x) ∧ (x.creditDirty = true) ∧ (x.creditAddr ≠ 0) ∧
      (ownerCanReq s x.home (some n.val) = true) :=
  ⟨5, { ten5 with creditDirty := true }, { tlive with tens := [(5, { ten5 with creditDirty := true })] }, by decide +kernel⟩

theorem witness_adminQueueCommands_1 : ∃ (p : HostPort) (a : Nat) (s : State),
    (RegOpen s p false) ∧ (running s = true) ∧ ((hpOf s p.val).aq.active = false) ∧
      ((hpOf s p.val).f0.bme = true) ∧ ((hpOf s p.val).aq.abi = 0) ∧
      (chooseAbi s (rd s F.QM_AQ_CFG_ABI_MIN 0 p.val) (rd s F.QM_AQ_CFG_ABI_MAX 0 p.val) = some a) :=
  ⟨0, 2, wr (wr { live with hp := [(0, { hpUp with aq := {} })] } F.QM_AQ_CFG_ABI_MIN 0 0 1) F.QM_AQ_CFG_ABI_MAX 0 0 2, by decide +kernel⟩

theorem witness_adminQueueCommands_2 : ∃ (p : HostPort) (s : State),
    (RegOpen s p false) ∧ (running s = true) ∧ ((hpOf s p.val).aq.active = false) ∧
      ((hpOf s p.val).f0.bme = false) :=
  ⟨0, { live with hp := [(0, { hpUp with f0 := { mse := true }, aq := {} })] }, by decide +kernel⟩

theorem witness_adminQueueCommands_3 : ∃ (p : HostPort) (q : Sq) (s : State),
    (RegOpen s p false) ∧ (mget? s.sqs (admKey p.val) = some q) :=
  ⟨0, sq1, { live with sqs := [(admKey 0, sq1)] }, by decide +kernel⟩

theorem witness_adminQueueCommands_4 : ∃ (p : HostPort) (e : Entry) (s : State),
    (AdminCmd s p.val 0x00 e) ∧ (dwZero e 4 15 = true) :=
  ⟨0, ent [0], adm (ent [0]), by decide +kernel⟩

theorem witness_adminQueueCommands_5 : ∃ (u : Nat) (j : Job) (s : State),
    (JobReady s u 0x80 j) ∧ (j.ents.all (fun e => dwZero e 4 15) = true) :=
  ⟨9, { job1 with op := 0x80, ents := [ent []] }, { live with jobs := [(9, { job1 with op := 0x80, ents := [ent []] })] }, by decide +kernel⟩

theorem witness_adminQueueCommands_6 : ∃ (p : HostPort) (e : Entry) (s : State),
    (AdminCmd s p.val 0x03 e) ∧ (dw e 1 = 0) ∧ (dw e 6 = 0) ∧ (dw2 e 4 % 64 = 0) ∧
      (4 ≤ bitsOf (dw e 7) 20 16 ∧ bitsOf (dw e 7) 20 16 ≤ 20) ∧ (bitsOf (dw e 7) 31 21 = 0) ∧
      (bitsOf (dw e 7) 15 0 = 0) ∧ (dw e 8 < 2) ∧ (dwZero e 9 15 = true) ∧
      (s.cqs.foldl (fun n x => n + x.2.allow) 4096 ≤ 33554432) ∧ ((pickQueue s).isSome = true) :=
  ⟨0, ent [3, 0, 0, 0, 64, 0, 0, 0x40000, 1], adm (ent [3, 0, 0, 0, 64, 0, 0, 0x40000, 1]), by decide +kernel⟩

theorem witness_adminQueueCommands_7 : ∃ (p : HostPort) (e : Entry) (s : State),
    (AdminCmd s p.val 0x05 e) ∧ (dw e 1 = 0) ∧ (dw2 e 4 % 64 = 0) ∧
      (4 ≤ bitsOf (dw e 6) 20 16 ∧ bitsOf (dw e 6) 20 16 ≤ 16) ∧ (bitsOf (dw e 6) 31 21 = 0) ∧
      (bitsOf (dw e 6) 15 11 = 0) ∧ (1 ≤ bitsOf (dw e 6) 10 0 ∧ bitsOf (dw e 6) 10 0 ≤ 7) ∧
      (1 ≤ dw e 7 ∧ dw e 7 ≤ 4096) ∧ (dw e 8 ≤ 2000) ∧ (dwZero e 9 15 = true) ∧ ((pickQueue s).isSome = true) :=
  ⟨0, ent [5, 0, 0, 0, 64, 0, 0x40002, 1, 5], adm (ent [5, 0, 0, 0, 64, 0, 0x40002, 1, 5]), by decide +kernel⟩

theorem witness_adminQueueCommands_8 : ∃ (p : HostPort) (e : Entry) (s : State),
    (AdminCmd s p.val 0x01 e) ∧ (dw e 1 = 0) ∧ (checkQueue s 2 (dw e 8) (cqUse s none p.val) = none) ∧
      (dw2 e 4 % 64 = 0) ∧ (dw2 e 6 % 8 = 0) ∧ (4 ≤ bitsOf (dw e 9) 20 16 ∧ bitsOf (dw e 9) 20 16 ≤ 16) ∧
      (1 ≤ bitsOf (dw e 9) 12 0 ∧ bitsOf (dw e 9) 12 0 ≤ 4096) ∧ (bitsOf (dw e 9) 31 21 = 0) ∧
      (bitsOf (dw e 9) 15 13 = 0) ∧ (dw e 10 = 0) ∧ (dwZero e 11 15 = true) ∧
      ((s.sqs.filter fun x => decide (x.2.cq = hIdx (dw e 8))).foldl (fun n x => n + x.2.inflMax) (bitsOf (dw e 9)
          12 0) ≤ ((mget? s.cqs (hIdx (dw e 8))).map (·.allow)).getD 0) ∧
      ((pickQueue s).isSome = true) :=
  ⟨0, ent [1, 0, 0, 0, 64, 0, 8, 0, 0x20100002, 0x40010], { adm (ent [1, 0, 0, 0, 64, 0, 8, 0, 0x20100002, 0x40010]) with cqs := [(2, cq1)] }, by
    repeat' apply And.intro
    all_goals first | decide +kernel | exact pick_cq _⟩

theorem witness_adminQueueCommands_9 : ∃ (p : HostPort) (e : Entry) (q : Sq) (s : State),
    (AdminCmd s p.val 0x02 e) ∧ (dwZero e 4 15 = true) ∧ (mget? s.sqs (hIdx (dw e 1)) = some q) ∧
      (q.drain = none) ∧ (jobsOfSq s (hIdx (dw e 1)) = []) :=
  ⟨0, ent [2, 0x10100001], sq1, { adm (ent [2, 0x10100001]) with sqs := [(1, sq1)] }, by decide +kernel⟩

theorem witness_adminQueueCommands_10 : ∃ (p : HostPort) (e : Entry) (s : State),
    (AdminCmd s p.val 0x04 e) ∧ (dwZero e 4 15 = true) ∧ (∀ x ∈ s.sqs, x.2.cq ≠ hIdx (dw e 1)) :=
  ⟨0, ent [4, 0x20100002], { adm (ent [4, 0x20100002]) with cqs := [(2, cq1)] }, by decide +kernel⟩

theorem witness_adminQueueCommands_11 : ∃ (p : HostPort) (e : Entry) (s : State),
    (AdminCmd s p.val 0x04 e) ∧ (dwZero e 4 15 = true) ∧ (∃ x ∈ s.sqs, x.2.cq = hIdx (dw e 1)) :=
  ⟨0, ent [4, 0x20100002], { adm (ent [4, 0x20100002]) with sqs := [(1, sq1)], cqs := [(2, cq1)] }, by decide +kernel⟩

theorem witness_adminQueueCommands_12 : ∃ (p : HostPort) (e : Entry) (s : State),
    (AdminCmd s p.val 0x06 e) ∧ (dwZero e 4 15 = true) ∧ (∀ x ∈ s.cqs, x.2.eq ≠ some (hIdx (dw e 1))) ∧
      ((hpOf s p.val).aq.eq ≠ some (hIdx (dw e 1))) :=
  ⟨0, ent [6, 0x30100003], { adm (ent [6, 0x30100003]) with eqs := [(3, eq1)] }, by decide +kernel⟩

theorem witness_adminQueueCommands_13 : ∃ (p : HostPort) (e : Entry) (s : State),
    (AdminCmd s p.val 0x07 e) ∧ (dwZero e 6 15 = true) ∧ (canReq s p.val .pf0 = true) :=
  ⟨0, ent [7, 0x10100001, 0, 0, 64], { adm (ent [7, 0x10100001, 0, 0, 64]) with sqs := [(1, sq1)] }, by decide +kernel⟩

theorem witness_adminQueueCommands_14 : ∃ (p : HostPort) (e : Entry) (q : Sq) (s : State),
    (AdminCmd s p.val 0x08 e) ∧ (mget? s.sqs (hIdx (dw e 1)) = some q) ∧ (dw e 4 = 0) ∧ (dwZero e 5 15 = true) :=
  ⟨0, ent [8, 0x10100001], sq1, { adm (ent [8, 0x10100001]) with sqs := [(1, sq1)] }, by decide +kernel⟩

theorem witness_adminQueueCommands_15 : ∃ (p : HostPort) (e : Entry) (s : State),
    (AdminCmd s p.val 0x09 e) ∧ (dwZero e 4 15 = true) :=
  ⟨0, ent [9, 0x30100003], { adm (ent [9, 0x30100003]) with cqs := [(admKey 0, cq1)] }, by decide +kernel⟩

theorem witness_adminQueueCommands_16 : ∃ (i : Nat) (q : Sq) (n : Nat) (s : State),
    (mget? s.sqs i = some q) ∧ (q.drain.isSome = true) ∧ (q.destroyer = some n) ∧ (queueBusy s i = false) :=
  ⟨1, { sq1 with drain := some 5, destroyer := some 0 }, 0, { qlive with sqs := [(1, { sq1 with drain := some 5, destroyer := some 0 })] }, by decide +kernel⟩

theorem witness_adminQueueCommands_17 : ∃ (i : Nat) (q : Sq) (d u : Nat) (s : State),
    (mget? s.sqs i = some q) ∧ (q.drain = some d) ∧ (d + msec 10 ≤ s.clk) ∧ (jobsOfSq s i = [u]) :=
  ⟨1, { sq1 with drain := some 5 }, 5, 9, { qlive with sqs := [(1, { sq1 with drain := some 5 })], jobs := [(9, job1)] }, by decide +kernel⟩

theorem witness_completionsAndEvents_1 : ∃ (i : Nat) (q : Cq) (c : Cpl) (r : List Cpl) (s : State),
    (mget? s.cqs i = some q) ∧ (q.fin = c :: r) ∧ (running s = true) ∧ (q.stopped = false) ∧
      (q.overrun = false) ∧ (cplCurrent s q c = true) ∧ (c.silent = false) ∧ (q.spill = []) ∧
      ((fnOf s q.port (ownerFn q.owner)).d3 = false) ∧ (ownerCanReq s q.port q.owner = true) ∧
      (ringFill q.tail q.hdev < 2 ^ q.log2) ∧ (cqEq s i q = none) ∧
      (writesStay s q.port (ownerPasid s q.owner) = false) :=
  ⟨2, { cq1 with fin := [cpl1] }, cpl1, [], { qlive with cqs := [(2, { cq1 with fin := [cpl1] })] }, by decide +kernel⟩

theorem witness_completionsAndEvents_2 : ∃ (i : Nat) (q : Cq) (c : Cpl) (r : List Cpl) (s : State),
    (mget? s.cqs i = some q) ∧ (q.fin = c :: r) ∧ (running s = true) ∧
      (q.stopped = true ∨ q.overrun = true ∨ cplCurrent s q c = false ∨ c.silent = true) :=
  ⟨2, { cq1 with fin := [cpl1], stopped := true }, cpl1, [], { qlive with cqs := [(2, { cq1 with fin := [cpl1], stopped := true })] }, by decide +kernel⟩

theorem witness_completionsAndEvents_3 : ∃ (i : Nat) (q : Cq) (c : Cpl) (r : List Cpl) (s : State),
    (mget? s.cqs i = some q) ∧ (q.fin = c :: r) ∧ (running s = true) ∧ (q.stopped = false) ∧
      (q.overrun = false) ∧ (cplCurrent s q c = true) ∧ (c.silent = false) ∧ (q.spill ≠ []) :=
  ⟨2, { cq1 with fin := [cpl1], spill := [cpl1] }, cpl1, [], { qlive with cqs := [(2, { cq1 with fin := [cpl1], spill := [cpl1] })] }, by decide +kernel⟩

theorem witness_completionsAndEvents_4 : ∃ (i : Nat) (q : Cq) (b : List Byte) (k : Nat) (r : SysRead) (s : State),
    (mget? s.cqs i = some q) ∧ (running s = true) ∧ (q.hdReading = true) ∧ (q.stopped = false) ∧
      (q.spill = []) ∧
      (headOk q.tail q.hdev q.log2 (leAt b 0 4) (decide (2 ^ 20 ≤ i) || decide ((hpOf s q.port).aq.abi ≠ 2) ||
          decide (leAt b 7 1 = gen s 1 i)) = true) ∧
      (oldestRead s (.head false i) = some (k, r)) ∧ (r.drop = false) ∧ (q.back = false) :=
  ⟨2, { cq1 with hdReading := true, tail := 5 }, [3, 0, 0, 0, 0, 0, 0, 1], 9000, { port := 0, fn := .pf0, what := .head false 2, since := 1 }, { qlive with cqs := [(2, { cq1 with hdReading := true, tail := 5 })], sreads := [(9000, { port := 0, fn := .pf0, what := .head false 2, since := 1 })] }, by decide +kernel⟩

theorem witness_completionsAndEvents_5 : ∃ (i : Nat) (q : Cq) (d : HostData) (k : Nat) (r : SysRead) (s : State),
    (mget? s.cqs i = some q) ∧ (running s = true) ∧ (q.hdReading = true) ∧ (q.stopped = false) ∧ (d = .error) ∧
      (oldestRead s (.head false i) = some (k, r)) ∧ (r.drop = false) ∧ (q.back = false) :=
  ⟨2, { cq1 with hdReading := true }, .error, 9000, { port := 0, fn := .pf0, what := .head false 2, since := 1 }, { qlive with cqs := [(2, { cq1 with hdReading := true })], sreads := [(9000, { port := 0, fn := .pf0, what := .head false 2, since := 1 })] }, by decide +kernel⟩

theorem witness_completionsAndEvents_6 : ∃ (i : Nat) (q : EvQ) (b : List Byte) (k : Nat) (r : SysRead) (s : State),
    (mget? s.eqs i = some q) ∧ (running s = true) ∧ (q.hdReading = true) ∧ (q.stopped = false) ∧ (q.pend = []) ∧
      (q.intx = false) ∧
      (headOk q.tail q.hdev q.log2 (leAt b 0 4) (decide ((hpOf s q.port).aq.abi ≠ 2) || decide (leAt b 7 1 = gen s 1
          i)) = true) ∧
      (oldestRead s (.head true i) = some (k, r)) ∧ (r.drop = false) ∧ (q.back = false) :=
  ⟨3, { eq1 with hdReading := true, tail := 5 }, [3, 0, 0, 0, 0, 0, 0, 1], 9000, { port := 0, fn := .pf0, what := .head true 3, since := 1 }, { qlive with eqs := [(3, { eq1 with hdReading := true, tail := 5 })], sreads := [(9000, { port := 0, fn := .pf0, what := .head true 3, since := 1 })] }, by decide +kernel⟩

theorem witness_completionsAndEvents_7 : ∃ (i g : Nat) (q : Cq) (s : State),
    (mget? s.cqs i = some q) ∧ (q.spill ≠ []) ∧ (q.hdReading = false) ∧ (q.stopped = false) ∧
      (q.overrun = false) ∧ (q.polled + headPoll s q.port ≤ s.clk) ∧ (ownerCanReq s q.port q.owner = true) ∧
      (sysTag s q.port = some g) :=
  ⟨2, 8192, { cq1 with spill := [cpl1] }, { qlive with cqs := [(2, { cq1 with spill := [cpl1] })] }, by decide +kernel⟩

theorem witness_completionsAndEvents_8 : ∃ (i g : Nat) (q : EvQ) (s : State),
    (mget? s.eqs i = some q) ∧ (q.pend ≠ [] ∨ q.intx = true) ∧ (q.hdReading = false) ∧ (q.stopped = false) ∧
      (q.polled + headPoll s q.port ≤ s.clk) ∧ (ownerCanReq s q.port q.owner = true) ∧ (sysTag s q.port = some g) :=
  ⟨3, 8192, { eq1 with intx := true }, { qlive with eqs := [(3, { eq1 with intx := true })] }, by decide +kernel⟩

theorem witness_completionsAndEvents_9 : ∃ (i : Nat) (q : Cq) (d : Nat) (s : State),
    (mget? s.cqs i = some q) ∧ (q.timer = some d) ∧ (q.spill ≠ []) ∧ (d ≤ s.clk) ∧ (i < 2 ^ 20) ∧
      (q.stopped = false) ∧ (running s = true) ∧ (s.sqs = []) ∧ (q.eq = none) :=
  ⟨2, { cq1 with spill := [cpl1], timer := some 5 }, 5, { qlive with sqs := [], cqs := [(2, { cq1 with spill := [cpl1], timer := some 5 })] }, by decide +kernel⟩

theorem witness_completionsAndEvents_10 : ∃ (i : Nat) (q : EvQ) (s : State),
    (mget? s.eqs i = some q) ∧ (q.st = .counting) ∧ (q.modTimer ≠ 0) ∧ (q.start + q.modTimer * 500000 ≤ s.clk) :=
  ⟨3, { eq1 with st := .counting, modTimer := 5 }, { qlive with eqs := [(3, { eq1 with st := .counting, modTimer := 5 })] }, by decide +kernel⟩

theorem witness_completionsAndEvents_11 : ∃ (i : Nat) (q : EvQ) (s : State),
    (mget? s.eqs i = some q) ∧ (q.st = .counting) ∧ (q.start + msec 2 ≤ s.clk) :=
  ⟨3, { eq1 with st := .counting }, { qlive with eqs := [(3, { eq1 with st := .counting })] }, by decide +kernel⟩

theorem witness_completionsAndEvents_12 : ∃ (i : Nat) (q : EvQ) (s : State),
    (mget? s.eqs i = some q) ∧ (q.st = .due) ∧ (q.intx = false) ∧ (q.stopped = false) ∧ (running s = true) ∧
      ((hpOf s q.port).perst = false) ∧ ((fnOf s q.port (ownerFn q.owner)).d3 = false) ∧
      (linkUp s q.port = true) ∧ ((fnOf s q.port (ownerFn q.owner)).bme = true) ∧
      ((fnOf s q.port (ownerFn q.owner)).msixEn = true) ∧ ((fnOf s q.port (ownerFn q.owner)).fmask = false) ∧
      (q.vec ∈ (fnOf s q.port (ownerFn q.owner)).vopen) ∧ (movesWait s i q = false) :=
  ⟨3, { eq1 with st := .due }, { qlive with hp := [(0, { hpUp with f0 := { hpUp.f0 with msixEn := true, vopen := [2] } })], eqs := [(3, { eq1 with st := .due })] }, by decide +kernel⟩

theorem witness_tenantCommands_1 : ∃ (p : HostPort) (e : Entry) (s : State),
    (AdminCmd s p.val 0x10 e) ∧ (hKind (dw e 1) = 4) ∧ (hGen (dw e 1) = 0) ∧ (hIdx (dw e 1) < 4096) ∧
      (mget? s.tens (hIdx (dw e 1)) = none) ∧ (dwZero e 4 15 = true) :=
  ⟨0, ent [0x10, 0x40000005], adm (ent [0x10, 0x40000005]), by decide +kernel⟩

theorem witness_tenantCommands_2 : ∃ (p : HostPort) (e : Entry) (x : Nat) (s : State),
    (AdminCmd s p.val 0x10 e) ∧ (hKind (dw e 1) = 4) ∧ (hGen (dw e 1) = 0) ∧ (hIdx (dw e 1) = 0xFFFFF) ∧
      (lowTenant s = some x) ∧ (dwZero e 4 15 = true) :=
  ⟨0, ent [0x10, 0x400FFFFF], 0, adm (ent [0x10, 0x400FFFFF]), by decide +kernel⟩

theorem witness_tenantCommands_3 : ∃ (p : HostPort) (e : Entry) (s : State),
    (AdminCmd s p.val 0x10 e) ∧ (hKind (dw e 1) = 4) ∧ (hGen (dw e 1) = 0) ∧ (hIdx (dw e 1) < 4096) ∧
      ((mget? s.tens (hIdx (dw e 1))).isSome = true) :=
  ⟨0, ent [0x10, 0x40000005], { adm (ent [0x10, 0x40000005]) with tens := [(5, { home := 0 })] }, by decide +kernel⟩

theorem witness_tenantCommands_4 : ∃ (p : HostPort) (e : Entry) (x : Tenant) (s : State),
    (AdminCmd s p.val 0x11 e) ∧ (mget? s.tens (hIdx (dw e 1)) = some x) ∧ (x.st ≠ .enabled) ∧
      (configRange e = true) :=
  ⟨0, ent [0x11, 0x40100005], { home := 0 }, { adm (ent [0x11, 0x40100005]) with tens := [(5, { home := 0 })] }, by decide +kernel⟩

theorem witness_tenantCommands_5 : ∃ (p : HostPort) (e : Entry) (x : Tenant) (s : State),
    (AdminCmd s p.val 0x11 e) ∧ (mget? s.tens (hIdx (dw e 1)) = some x) ∧ (x.st = .enabled) ∧
      (configRange e = true) ∧ (bitOf (dw e 12) 0 = true) :=
  ⟨0, ent [0x11, 0x40100005, 0, 0, 7, 0, 0, 0, 0, 0, 0, 0, 1], { home := 0, st := .enabled }, { adm (ent [0x11, 0x40100005, 0, 0, 7, 0, 0, 0, 0, 0, 0, 0, 1]) with tens := [(5, { home := 0, st := .enabled })] }, by decide +kernel⟩

theorem witness_tenantCommands_6 : ∃ (p : HostPort) (e : Entry) (x : Tenant) (s : State),
    (AdminCmd s p.val 0x12 e) ∧ (mget? s.tens (hIdx (dw e 1)) = some x) ∧ (x.st ≠ .enabled) ∧
      (dwZero e 4 15 = true) ∧ ((hpOf s p.val).f1.pasidEn = true) ∧ (x.credits = 0 ∨ x.creditAddr ≠ 0) :=
  ⟨0, ent [0x12, 0x40100005], { home := 0 }, { adm (ent [0x12, 0x40100005]) with tens := [(5, { home := 0 })] }, by decide +kernel⟩

theorem witness_tenantCommands_7 : ∃ (p : HostPort) (e : Entry) (x : Tenant) (s : State),
    (AdminCmd s p.val 0x13 e) ∧ (mget? s.tens (hIdx (dw e 1)) = some x) ∧ (x.st = .disabled) ∧
      (dwZero e 4 15 = true) :=
  ⟨0, ent [0x13, 0x40100005], { home := 0 }, { adm (ent [0x13, 0x40100005]) with tens := [(5, { home := 0 })] }, by decide +kernel⟩

theorem witness_tenantCommands_8 : ∃ (p : HostPort) (e : Entry) (x : Tenant) (s : State),
    (AdminCmd s p.val 0x13 e) ∧ (mget? s.tens (hIdx (dw e 1)) = some x) ∧ (x.st = .enabled) ∧ (x.home = p.val) ∧
      (dwZero e 4 15 = true) ∧
      (s.sqs = [] ∧ s.cqs = [] ∧ s.eqs = [] ∧ s.conns = [] ∧ s.xfers = [] ∧ s.hostq = [] ∧ s.ls.ctxs = []) :=
  ⟨0, ent [0x13, 0x40100005], { home := 0, st := .enabled }, { adm (ent [0x13, 0x40100005]) with tens := [(5, { home := 0, st := .enabled })] }, by decide +kernel⟩

theorem witness_tenantCommands_9 : ∃ (p : HostPort) (e : Entry) (x : Tenant) (s : State),
    (AdminCmd s p.val 0x14 e) ∧ (mget? s.tens (hIdx (dw e 1)) = some x) ∧ (x.st = .enabled) ∧ (x.home = p.val) ∧
      (dwZero e 4 15 = true) ∧
      (s.sqs = [] ∧ s.cqs = [] ∧ s.eqs = [] ∧ s.conns = [] ∧ s.xfers = [] ∧ s.hostq = [] ∧ s.ls.ctxs = []) :=
  ⟨0, ent [0x14, 0x40100005], { home := 0, st := .enabled }, { adm (ent [0x14, 0x40100005]) with tens := [(5, { home := 0, st := .enabled })] }, by decide +kernel⟩

theorem witness_tenantCommands_10 : ∃ (p : HostPort) (e : Entry) (x : Tenant) (s : State),
    (AdminCmd s p.val 0x15 e) ∧ (mget? s.tens (hIdx (dw e 1)) = some x) ∧ (x.st = .disabled) ∧
      (dwZero e 4 15 = true) :=
  ⟨0, ent [0x15, 0x40100005], { home := 0 }, { adm (ent [0x15, 0x40100005]) with tens := [(5, { home := 0 })] }, by decide +kernel⟩

theorem witness_tenantCommands_11 : ∃ (p : HostPort) (e : Entry) (x : Tenant) (s : State),
    (AdminCmd s p.val 0x15 e) ∧ (mget? s.tens (hIdx (dw e 1)) = some x) ∧ (x.st ≠ .disabled) ∧
      (dwZero e 4 15 = true) :=
  ⟨0, ent [0x15, 0x40100005], { home := 0, st := .enabled }, { adm (ent [0x15, 0x40100005]) with tens := [(5, { home := 0, st := .enabled })] }, by decide +kernel⟩

theorem witness_tenantCommands_12 : ∃ (n : TenantId) (x : Tenant) (s : State),
    (mget? s.tens n.val = some x) ∧ (x.st = .fencing) ∧ (fenceBusy s n.val = false) ∧ (x.waiter = none) :=
  ⟨5, { home := 0, st := .fencing, toDisabled := true }, { live with tens := [(5, { home := 0, st := .fencing, toDisabled := true })] }, by decide +kernel⟩

theorem witness_tenantCommands_13 : ∃ (n : TenantId) (x : Tenant) (u : Nat) (j : Job) (s : State),
    (mget? s.tens n.val = some x) ∧ (x.st = .fencing) ∧ (x.fenceStart + msec 10 ≤ s.clk) ∧ (x.waiter = none) ∧
      (s.jobs = [(u, j)]) ∧ (j.owner = some n.val) :=
  ⟨5, { home := 0, st := .fencing }, 9, job1, { live with tens := [(5, { home := 0, st := .fencing })], jobs := [(9, job1)] }, by decide +kernel⟩

theorem witness_bufferPoolCommands_1 : ∃ (p : HostPort) (e : Entry) (s : State),
    (AdminCmd s p.val 0x18 e) ∧ (bitsOf (dw e 4) 31 10 = 0) ∧ (bitsOf (dw e 4) 7 3 = 0) ∧
      (bitsOf (dw e 4) 2 0 ≤ 5) ∧ (dwZero e 5 15 = true) ∧ (bitOf (dw e 4) 9 = false) ∧ (bitOf (dw e 4) 8 = true) :=
  ⟨0, ent [0x18, 0x40100005, 0, 0, 0x101], { adm (ent [0x18, 0x40100005, 0, 0, 0x101]) with coop := { quar := [5, 7], err := [(5, 3)] } }, by decide +kernel⟩

theorem witness_bufferPoolCommands_2 : ∃ (p : HostPort) (e : Entry) (s : State),
    (AdminCmd s p.val 0x18 e) ∧ (bitOf (dw e 4) 9 = true) ∧ (poolCount s (bitsOf (dw e 4) 2 0) < dw e 5) :=
  ⟨0, ent [0x18, 0x40100005, 0, 0, 0x200, 0xFFFFFFFF], adm (ent [0x18, 0x40100005, 0, 0, 0x200, 0xFFFFFFFF]), by decide +kernel⟩

theorem witness_bufferPoolCommands_3 : ∃ (p : HostPort) (e : Entry) (s : State),
    (AdminCmd s p.val 0x18 e) ∧ (bitsOf (dw e 4) 31 10 = 0) ∧ (bitsOf (dw e 4) 7 3 = 0) ∧
      (bitsOf (dw e 4) 2 0 ≤ 5) ∧ (dwZero e 7 15 = true) ∧ (bitOf (dw e 4) 9 = true) ∧
      (bitOf (dw e 4) 8 = false) ∧ (dw e 5 ≤ poolCount s (bitsOf (dw e 4) 2 0)) ∧ (dw e 6 ≤ dw e 5) ∧
      (s.coop.rsv = []) ∧ (s.coop.cache = []) ∧ (cacheDepth s (bitsOf (dw e 4) 2 0) = 0) :=
  ⟨0, ent [0x18, 0x40100005, 0, 0, 0x200, 100, 10], rset (adm (ent [0x18, 0x40100005, 0, 0, 0x200, 100, 10])) F.MS_CACHE_CFG_DEPTH_0.off 0 0, by decide +kernel⟩

theorem witness_bufferPoolCommands_4 : ∃ (r : Fin 4146) (q : Fin 6) (s : State),
    (running s = true) ∧ (s.coop.ready = true) ∧ (2 * (cacheOf s r.val q.val).length < cacheDepth s q.val) ∧
      (r.val ∈ s.coop.quar) :=
  ⟨3, 2, { live with coop := { ready := true, quar := [3] } }, by decide +kernel⟩

theorem witness_bufferPoolCommands_5 : ∃ (r : Fin 4146) (q : Fin 6) (s : State),
    (running s = true) ∧ (s.coop.ready = true) ∧ (2 * (cacheOf s r.val q.val).length < cacheDepth s q.val) ∧
      (r.val ∉ s.coop.quar) :=
  ⟨3, 2, { live with coop := { ready := true } }, by decide +kernel⟩

theorem witness_bufferPoolCommands_6 : ∃ (p : HostPort) (v : Word) (q : Fin 6) (s : State),
    (RegOpen s p true) ∧ (16 < bitsOf v.toNat (5 * q.val + 4) (5 * q.val)) :=
  ⟨0, 0x1F, 0, live, by decide +kernel⟩

theorem witness_bufferPoolCommands_7 : ∃ (p : HostPort) (v : Word) (s : State),
    (RegOpen s p true) ∧ (∀ q : Fin 6, bitsOf v.toNat (5 * q.val + 4) (5 * q.val) ≤ 16) ∧ (s.coop.cache = []) :=
  ⟨0, 0x210, live, by decide +kernel⟩

theorem witness_epochPulse_1 : ∃ (n : Nat) (s : State),
    (s.ft.pulseDue = some n) ∧ (s.cores = []) ∧ (s.pa.slots = []) ∧ (s.armed = []) ∧ (snapDue s n = false) ∧
      (rd s F.FT_BEACON_TX_EN = 0) ∧ (rd s F.FT_CTRL_PTM_EN = 0) ∧ (s.lk.st ≠ .lrs) :=
  ⟨5, { live with tl := { period := 100 }, ft := { pulseDue := some 5 }, unk := [3] }, by decide +kernel⟩

theorem witness_epochPulse_2 : ∃ (n : Nat) (s : State),
    (s.ft.pulseDue = some n) ∧ (s.cores = []) ∧ (s.pa.slots = []) ∧ (s.armed = []) ∧ (snapDue s n = false) ∧
      (rd s F.FT_BEACON_TX_EN = 0) ∧ (rd s F.FT_CTRL_PTM_EN = 0) ∧ (s.lk.st = .running) ∧ (s.boot.por = true) ∧
      (bootHeld s = false) :=
  ⟨5, { live with tl := { period := 100 }, ft := { pulseDue := some 5 } }, by decide +kernel⟩

theorem witness_epochPulse_3 : ∃ (b : Bool) (s : State),
    s.ft.pulseDue = none :=
  ⟨true, live, by decide +kernel⟩

theorem witness_networkPortLinks_1 : ∃ (p : HostPort) (n : NetPort) (v : Word) (s : State),
    (RegOpen s p true) ∧ (netPortExists s n.val = true) ∧ (bitOf v.toNat 31 = true) ∧
      ((regStore s (F.MA_PCFG_EN.off + 256 * n.val) 0 v.toNat).2 = true) ∧ (rd s F.MA_PCFG_EN n.val = 0) :=
  ⟨0, 0, 0x80000000, live, by decide +kernel⟩

theorem witness_networkPortLinks_2 : ∃ (p : HostPort) (n : NetPort) (v : Word) (s : State),
    (RegOpen s p true) ∧ (netPortExists s n.val = true) ∧ (bitOf v.toNat 31 = false) ∧
      ((regStore s (F.MA_PCFG_EN.off + 256 * n.val) 0 v.toNat).2 = true) ∧ (rd s F.MA_PCFG_EN n.val = 1) :=
  ⟨0, 0, 0, wr net0 F.MA_PCFG_EN 0 0 1, by decide +kernel⟩

theorem witness_networkPortLinks_3 : ∃ (n : NetPort) (s : State),
    ((macOf s n.val).st = .training) ∧ (netPortExists s n.val = true) ∧ ((macOf s n.val).localFault = false) ∧
      ((macOf s n.val).remoteFault = false) ∧ (rd s F.MA_FC_TX_EN n.val = 0) ∧ ((macOf s n.val).xoff = []) ∧
      (s.lk.st ≠ .lrs) :=
  ⟨0, wr ({ live with macs := [(0, { st := .training })] }) F.MA_FC_TX_EN 0 0 0, by decide +kernel⟩

theorem witness_networkPortLinks_4 : ∃ (n : NetPort) (s : State),
    ((macOf s n.val).st = .training) ∧ ((macOf s n.val).trainAt + msec 500 ≤ s.clk) :=
  ⟨0, { live with macs := [(0, { st := .training })] }, by decide +kernel⟩

theorem witness_networkPortLinks_5 : ∃ (n : NetPort) (k : Fin 3) (s : State),
    (macOf s n.val).st ≠ .up :=
  ⟨0, 1, live, by decide +kernel⟩

theorem witness_networkPortLinks_6 : ∃ (n : NetPort) (k : Fin 3) (s : State),
    (macOf s n.val).st = .up :=
  ⟨0, 1, net0, by decide +kernel⟩

theorem witness_networkPortLinks_7 : ∃ (n : NetPort) (s : State),
    ((macOf s n.val).st = .fault) ∧ (bitOf (macOf s n.val).cfg 25 = false) ∧ (rd s F.MA_FC_TX_EN n.val = 0) ∧
      ((macOf s n.val).xoff = []) :=
  ⟨0, wr ({ live with macs := [(0, { st := .fault })] }) F.MA_FC_TX_EN 0 0 0, by decide +kernel⟩

theorem witness_networkPortLinks_8 : ∃ (n : NetPort) (s : State),
    ((macOf s n.val).st = .fault) ∧ (bitOf (macOf s n.val).cfg 25 = true) :=
  ⟨0, { live with macs := [(0, { st := .fault, cfg := 0x2000000 })] }, by decide +kernel⟩

theorem witness_networkPortLinks_9 : ∃ (n : NetPort) (d : Nat) (s : State),
    ((macOf s n.val).downAt = some d) ∧ ((macOf s n.val).st = .fault ∨ (macOf s n.val).st = .disabled) ∧
      ((macOf s n.val).flushing = false) ∧ (rd s F.MA_DOWN_DOWN_HOLD n.val ≠ 65535) ∧
      (d + msec (rd s F.MA_DOWN_DOWN_HOLD n.val) ≤ s.clk) :=
  ⟨0, 5, { live with clk := 10 ^ 17, macs := [(0, { st := .fault, downAt := some 5 })] }, by decide +kernel⟩

theorem witness_networkPortLinks_10 : ∃ (n : NetPort) (s : State),
    ((macOf s n.val).ver = .verifying) ∧
      ((macOf s n.val).verAt + msec (3 * rd s F.MA_PREEMPT_VERIFY_TIME n.val) ≤ s.clk) :=
  ⟨0, { live with macs := [(0, { ver := .verifying })] }, by decide +kernel⟩

theorem witness_networkPortLinks_11 : ∃ (n : NetPort) (s : State),
    ((macOf s n.val).ver = .verifying) ∧ (rd s F.EG_PORT_CFG_CAL_EN 0 n.val = 0) :=
  ⟨0, { live with macs := [(0, { ver := .verifying })] }, by decide +kernel⟩

theorem witness_networkPortPauses_1 : ∃ (n : NetPort) (c q d : Nat) (s : State),
    ((macOf s n.val).pauseWait = [(c, q, d)]) ∧ (d ≤ s.clk) ∧ (q ≠ 0) ∧
      (recovering s n.val (macOf s n.val).wdRx c = false) ∧ ((mget {} (macOf s n.val).wdRx c).st = .normal) :=
  ⟨0, 3, 100, 5, { net0 with macs := [(0, { st := .up, pauseWait := [(3, 100, 5)] })] }, by decide +kernel⟩

theorem witness_networkPortPauses_2 : ∃ (n : NetPort) (c d : Nat) (s : State),
    ((macOf s n.val).pauseWait = [(c, 0, d)]) ∧ (d ≤ s.clk) ∧ (recovering s n.val (macOf s n.val).wdRx c = false) :=
  ⟨0, 3, 5, { net0 with macs := [(0, { st := .up, pauseWait := [(3, 0, 5)] })] }, by decide +kernel⟩

theorem witness_networkPortPauses_3 : ∃ (n : NetPort) (c : ClassId) (d : Nat) (s : State),
    (mget? (macOf s n.val).pausedTill c.val = some d) ∧ (d ≤ s.clk) ∧
      ((mget {} (macOf s n.val).wdRx c.val).st = .paused) :=
  ⟨0, 3, 5, { net0 with macs := [(0, { st := .up, pausedTill := [(3, 5)], wdRx := [(3, ⟨.paused, 1⟩)] })] }, by decide +kernel⟩

theorem witness_networkPortPauses_4 : ∃ (n : NetPort) (c : ClassId) (d : Nat) (s : State),
    (mget? (macOf s n.val).xoff c.val = some d) ∧ (netUp s n.val = true) ∧
      (d + quantaPs s n.val (rd s F.MA_FC_QUANTA n.val) / 2 ≤ s.clk) ∧
      (rd s F.MA_FC_THRESH_XON n.val * 2 ^ 20 < heldCount s n.val c.val) ∧ (fcSends s n.val c.val = true) ∧
      (running s = true) :=
  ⟨0, 0, 5, wr (wr (rset { net0 with macs := [(0, { st := .up, xoff := [(0, 5)], held := [(9, 0, 2 ^ 27)] })] } F.MA_FC_THRESH_XON.off 0 0) F.MA_FC_TX_EN 0 0 1) F.MA_FC_MODE 0 0 1, by decide +kernel⟩

theorem witness_networkPortPauses_5 : ∃ (n : NetPort) (c : ClassId) (s : State),
    (rd s F.MA_PAUSE_WD_EN n.val = 1) ∧ (wdLate s n.val c.val false = true) :=
  ⟨0, 3, wr { net0 with clk := 10 ^ 17, macs := [(0, { st := .up, wdRx := [(3, ⟨.paused, 1⟩)] })] } F.MA_PAUSE_WD_EN 0 0 1, by decide +kernel⟩

theorem witness_networkPortPauses_6 : ∃ (n : NetPort) (c : ClassId) (s : State),
    ((wdOf s n.val c.val false).st = .recover) ∧
      ((wdOf s n.val c.val false).since + msec (rd s F.MA_PAUSE_WD_RECOVER n.val) ≤ s.clk) :=
  ⟨0, 3, { net0 with clk := 10 ^ 17, macs := [(0, { st := .up, wdRx := [(3, ⟨.recover, 1⟩)] })] }, by decide +kernel⟩

theorem witness_networkPortPauses_7 : ∃ (p : HostPort) (n : NetPort) (v : Word) (s : State),
    (RegOpen s p true) ∧ (netPortExists s n.val = true) ∧ (bitOf v.toNat 31 = true) ∧
      ((regStore s (F.MA_PAUSE_WD_EN.off + 256 * n.val) 0 v.toNat).2 = true) ∧
      (∀ c : Fin 8, ∀ x : Bool, wdLate (regStore s (F.MA_PAUSE_WD_EN.off + 256 * n.val) 0 v.toNat).1 n.val c.val x =
          false) :=
  ⟨0, 0, BitVec.ofNat 32 (2 ^ 31 + 100 * 2 ^ 14 + 100), net0, by decide +kernel⟩

theorem witness_frameReceptionAndRuleSets_1 : ∃ (n : NetPort) (f : WireFrame) (u : Upset) (s : State),
    (netUp s n.val = true) ∧ (running s = true) ∧ (f.mmErr = 0) ∧ (f.frags ≤ 1) ∧ (s.sl.commits = []) ∧
      (macCheck s n.val f = none) ∧ (beAt f.bytes 12 2 ≠ 0x8808) ∧ (mget [] s.sl.arr n.val = []) :=
  ⟨0, { bytes := List.replicate 60 1 }, {}, net0, by decide +kernel⟩

theorem witness_frameReceptionAndRuleSets_2 : ∃ (n : NetPort) (f : WireFrame) (u : Upset) (s : State),
    (netUp s n.val = true) ∧ (running s = true) ∧ (f.mmErr = 0) ∧ (f.frags ≤ 1) ∧ (s.sl.commits = []) ∧
      (f.pcsErr = false) ∧ (f.fcsOk = false) ∧ (mget [] s.sl.arr n.val = []) :=
  ⟨0, { bytes := List.replicate 60 1, fcsOk := false }, {}, net0, by decide +kernel⟩

theorem witness_frameReceptionAndRuleSets_3 : ∃ (n : NetPort) (f : WireFrame) (u : Upset) (s : State),
    (netUp s n.val = true) ∧ (running s = true) ∧ (f.mmErr = 0) ∧ (f.frags ≤ 1) ∧ (s.sl.commits = []) ∧
      (macCheck s n.val f = none) ∧ (beAt f.bytes 12 2 = 0x8808) ∧ (mget [] s.sl.arr n.val = []) :=
  ⟨0, { bytes := List.replicate 12 1 ++ [0x88, 8] ++ List.replicate 46 0 }, {}, net0, by decide +kernel⟩

theorem witness_frameReceptionAndRuleSets_4 : ∃ (n : TenantId) (q : Fin 1048576) (f : HostFrame) (s : State),
    (s.hostq = [f]) ∧ (f.tenant = n.val) ∧ (f.sq = q.val) ∧ (running s = true) ∧ (rxQueueOk s n.val q.val = false) :=
  ⟨5, 1, ⟨5, 1, 9, 0, 64, 0, 0, 0⟩, { live with hostq := [⟨5, 1, 9, 0, 64, 0, 0, 0⟩] }, by decide +kernel⟩

theorem witness_frameReceptionAndRuleSets_5 : ∃ (n : TenantId) (q : Fin 1048576) (f : HostFrame) (u : Nat) (j : Job) (s : State),
    (s.hostq = [f]) ∧ (f.tenant = n.val) ∧ (f.sq = q.val) ∧ (running s = true) ∧
      (rxQueueOk s n.val q.val = true) ∧ (oldestPost s q.val = some (u, j)) ∧
      (f.len + (if bitOf (dw (jobHead j) 8) 0 then 8 else 0) ≤ segBytes (segsOf j.ents)) ∧
      (xferPossible s j.port = true) :=
  ⟨5, 1, ⟨5, 1, 9, 0, 64, 0, 0, 0⟩, 7, rxJob, { portx with hostq := [⟨5, 1, 9, 0, 64, 0, 0, 0⟩], tens := [(5, ten5)], sqs := [(1, { sq1 with owner := some 5 })], jobs := [(7, rxJob)] }, by decide +kernel⟩

theorem witness_frameReceptionAndRuleSets_6 : ∃ (p : HostPort) (e : Entry) (g : Nat) (s : State),
    (AdminCmd s p.val 0x28 e) ∧ (hKind (dw e 1) = 8) ∧ (hGen (dw e 1) = 0) ∧ (hIdx (dw e 1) ≤ 3) ∧
      (dw e 4 % 64 = 0) ∧ (dwZero e 7 15 = true) ∧ (mget? s.pa.slots (hIdx (dw e 1)) = none) ∧
      (ownerCanReq s p.val none = true) ∧ (sysTag s p.val = some g) ∧ ((fnOf s p.val .pf0).d3 = false) ∧
      (oldestRead s (.image (Fin.ofNat 4 (hIdx (dw e 1)))) = none) :=
  ⟨0, ent [0x28, 0x80000001, 0, 0, 64, 0, 640], 8192, adm (ent [0x28, 0x80000001, 0, 0, 64, 0, 640]), by decide +kernel⟩

theorem witness_frameReceptionAndRuleSets_7 : ∃ (i : Fin 4) (r0 : RsSlot) (k : Nat) (r : SysRead) (s : State),
    (running s = true) ∧ (mget? s.pa.slots i.val = some r0) ∧ (r0.st = .loading) ∧
      (oldestRead s (.image i) = some (k, r)) ∧ (r.drop = false) :=
  ⟨1, { st := .loading }, 9000, { port := 0, fn := .pf0, what := .image 1, since := 1 }, { live with pa := { slots := [(1, { st := .loading })] }, sreads := [(9000, { port := 0, fn := .pf0, what := .image 1, since := 1 })] }, by decide +kernel⟩

theorem witness_frameReceptionAndRuleSets_8 : ∃ (i : Fin 4) (r0 : RsSlot) (b : List Byte) (k : Nat) (r : SysRead) (s : State),
    (running s = true) ∧ (mget? s.pa.slots i.val = some r0) ∧ (r0.st = .loading) ∧
      (imFail (b.take r0.want) r0.want = none) ∧ (imRules (b.take r0.want) ≤ tcamFree s) ∧
      (oldestRead s (.image i) = some (k, r)) ∧ (r.drop = false) :=
  ⟨1, { st := .loading, want := image1.length }, image1, 9000, { port := 0, fn := .pf0, what := .image 1, since := 1 }, { live with pa := { slots := [(1, { st := .loading, want := image1.length })] }, sreads := [(9000, { port := 0, fn := .pf0, what := .image 1, since := 1 })] }, by decide +kernel⟩

theorem witness_frameReceptionAndRuleSets_9 : ∃ (p : HostPort) (e : Entry) (r : RsSlot) (s : State),
    (AdminCmd s p.val 0x29 e) ∧ (dw e 6 = 1) ∧ (dwZero e 7 15 = true) ∧ (activeSlot s = none) ∧
      (∀ k : Fin 4, rsArmed s k.val = false) ∧ (mget? s.pa.slots (hIdx (dw e 1)) = some r) ∧ (r.st = .loaded) :=
  ⟨0, ent [0x29, 0x80100001, 0, 0, 0, 0, 1], { st := .loaded }, { adm (ent [0x29, 0x80100001, 0, 0, 0, 0, 1]) with pa := { slots := [(1, { st := .loaded })] } }, by decide +kernel⟩

theorem witness_frameReceptionAndRuleSets_10 : ∃ (p : HostPort) (e : Entry) (r : RsSlot) (s : State),
    (AdminCmd s p.val 0x29 e) ∧ (dw e 6 = 0) ∧ (dwZero e 7 15 = true) ∧ (∀ k : Fin 4, rsArmed s k.val = false) ∧
      (mget? s.pa.slots (hIdx (dw e 1)) = some r) ∧ (r.st = .loaded) ∧ (armCheck s (dw2 e 4 * 2 ^ 20) = none) :=
  ⟨0, ent [0x29, 0x80100001, 0, 0, 100], { st := .loaded }, { adm (ent [0x29, 0x80100001, 0, 0, 100]) with ft := { st := .locked }, pa := { slots := [(1, { st := .loaded })] } }, by decide +kernel⟩

theorem witness_frameReceptionAndRuleSets_11 : ∃ (p : HostPort) (e : Entry) (r : RsSlot) (s : State),
    (AdminCmd s p.val 0x2A e) ∧ (dwZero e 4 15 = true) ∧ (mget? s.pa.slots (hIdx (dw e 1)) = some r) ∧
      (r.st = .loaded) ∧ (rsArmed s (hIdx (dw e 1)) = false) :=
  ⟨0, ent [0x2A, 0x80100001], { st := .loaded }, { adm (ent [0x2A, 0x80100001]) with pa := { slots := [(1, { st := .loaded })] } }, by decide +kernel⟩

theorem witness_frameReceptionAndRuleSets_12 : ∃ (i : Fin 4) (r : RsSlot) (d : Nat) (s : State),
    (s.armed = [(.rs i.val, d)]) ∧ (d ≤ ftNs s) ∧ (activeSlot s = none) ∧ (mget? s.pa.slots i.val = some r) ∧
      (s.lk.st ≠ .lrs) :=
  ⟨1, { st := .loaded }, 0, { live with armed := [(.rs 1, 0)], pa := { slots := [(1, { st := .loaded })] } }, by decide +kernel⟩

theorem witness_frameReceptionAndRuleSets_13 : ∃ (i : Fin 4) (r : RsSlot) (s : State),
    (mget? s.pa.slots i.val = some r) ∧ (r.st = .draining) ∧ (r.late = true) :=
  ⟨1, { st := .draining, late := true }, { live with pa := { slots := [(1, { st := .draining, late := true })] }, pkts := [(9, { stamp := some (1, 1), ref := true })] }, by decide +kernel⟩

theorem witness_frameReceptionAndRuleSets_14 : ∃ (i : Fin 4) (n : Nat) (r : RsSlot) (s : State),
    (mget? s.pa.slots i.val = some r) ∧ (n < imRules r.img) ∧ ((i.val, n) ∉ s.pa.bad) :=
  ⟨1, 0, { st := .active, img := [0, 0, 0, 0, 5] }, { live with pa := { slots := [(1, { st := .active, img := [0, 0, 0, 0, 5] })] } }, by decide +kernel⟩

theorem witness_frameReceptionAndRuleSets_16 : ∃ (n : NetPort) (f : WireFrame) (u : Upset) (x : SlArr) (s : State),
    (netUp s n.val = true) ∧ (running s = true) ∧ (f.mmErr = 0) ∧ (f.frags ≤ 1) ∧ (s.sl.commits = []) ∧
      (macCheck s n.val f = none) ∧ (beAt f.bytes 12 2 ≠ 0x8808) ∧ (mget [] s.sl.arr n.val = [x]) ∧
      (x.got = none) ∧ (x.st = .fresh) :=
  ⟨0, { bytes := List.replicate 60 1 }, {}, { id := 4, at_ := 0, pipe := 0 }, { net0 with sl := { arr := [(0, [{ id := 4, at_ := 0, pipe := 0 }])] } }, by decide +kernel⟩

theorem witness_forwardingTables_1 : ∃ (p : HostPort) (v : Word) (s : State),
    (RegOpen s p true) ∧ (s.fw.busy = none) ∧ (bitOf v.toNat 31 = true) ∧
      ((regStore s F.FW_CMD_OP.off 0 v.toNat).2 = true) ∧ (bitsOf v.toNat 3 0 = 0) ∧ (s.fw.banks = []) :=
  ⟨0, 2147483648, live, by decide +kernel⟩

theorem witness_forwardingTables_2 : ∃ (p : HostPort) (v : Word) (s : State),
    (RegOpen s p true) ∧ (s.fw.busy = none) ∧ (bitOf v.toNat 31 = true) ∧
      ((regStore s F.FW_CMD_OP.off 0 v.toNat).2 = true) ∧ (bitsOf v.toNat 3 0 = 1) ∧ (s.fw.banks = []) :=
  ⟨0, 2147483649, live, by decide +kernel⟩

theorem witness_forwardingTables_3 : ∃ (p : HostPort) (v : Word) (s : State),
    (RegOpen s p true) ∧ (s.fw.busy = none) ∧ (bitOf v.toNat 31 = true) ∧
      ((regStore s F.FW_CMD_OP.off 0 v.toNat).2 = true) ∧ (bitsOf v.toNat 3 0 = 2) ∧ (s.fw.banks = []) :=
  ⟨0, 2147483650, live, by decide +kernel⟩

theorem witness_forwardingTables_4 : ∃ (p : HostPort) (v : Word) (s : State),
    (RegOpen s p true) ∧ (s.fw.busy = none) ∧ (bitOf v.toNat 31 = true) ∧
      ((regStore s F.FW_CMD_OP.off 0 v.toNat).2 = true) ∧ (bitsOf v.toNat 3 0 = 3) ∧ (s.fw.banks = []) :=
  ⟨0, 2147483651, live, by decide +kernel⟩

theorem witness_forwardingTables_5 : ∃ (p : HostPort) (v : Word) (s : State),
    (RegOpen s p true) ∧ (s.fw.busy = none) ∧ (bitOf v.toNat 31 = true) ∧
      ((regStore s F.FW_CMD_OP.off 0 v.toNat).2 = true) ∧ (bitsOf v.toNat 3 0 = 4) ∧ (s.fw.banks = []) :=
  ⟨0, 2147483652, live, by decide +kernel⟩

theorem witness_forwardingTables_7 : ∃ (b : Fin 16) (v : LearnEv) (r : List LearnEv) (n : Nat) (e : FEnt) (s : State),
    (mget [] s.fw.banks b.val = v :: r) ∧ (findEnt s.fw.l2 [v.bd, v.mac] = some (n, e)) ∧
      (e.dest = portDest v.port) ∧ (s.fw.busy = none) ∧ (s.tblq = []) :=
  ⟨2, ⟨1, 7, 3, 0, 0, 0⟩, [], 9, { key := [1, 7], dest := portDest 3 }, { live with fw := { banks := [(2, [⟨1, 7, 3, 0, 0, 0⟩])], l2 := [(9, { key := [1, 7], dest := portDest 3 })] } }, by decide +kernel⟩

theorem witness_forwardingTables_8 : ∃ (b : Fin 16) (v : LearnEv) (r : List LearnEv) (s : State),
    (mget [] s.fw.banks b.val = v :: r) ∧ (s.fw.busy = none) ∧ (s.tblq = []) :=
  ⟨2, ⟨1, 7, 3, 0, 0, 0⟩, [], { live with fw := { banks := [(2, [⟨1, 7, 3, 0, 0, 0⟩])] } }, by decide +kernel⟩

theorem witness_forwardingTables_9 : ∃ (n a per : Nat) (e : FEnt) (s : State),
    (s.fw.ageL2 = (n, a, per)) ∧ (0 < n) ∧ (n + 1 < tabSize true) ∧ (0 < per) ∧
      (a + msec (10 * per) * n / tabSize true ≤ s.clk) ∧ (mget? s.fw.l2 n = some e) ∧ (e.stat = false) ∧
      (e.hit = false) ∧ (e.idle = true) ∧ (mget [] s.fw.banks (n / 262144) = []) :=
  ⟨9, 0, 1, { key := [1, 7], idle := true }, { live with fw := { ageL2 := (9, 0, 1), l2 := [(9, { key := [1, 7], idle := true })] } }, by decide +kernel⟩

theorem witness_forwardingTables_10 : ∃ (n a per : Nat) (e : FEnt) (s : State),
    (s.fw.ageEm = (n, a, per)) ∧ (0 < n) ∧ (n + 1 < tabSize false) ∧ (0 < per) ∧
      (a + msec (10 * per) * n / tabSize false ≤ s.clk) ∧ (mget? s.fw.em n = some e) ∧ (e.stat = false) ∧
      (e.hit = true) :=
  ⟨9, 0, 1, { key := [1, 7], hit := true }, { live with fw := { ageEm := (9, 0, 1), em := [(9, { key := [1, 7], hit := true })] } }, by decide +kernel⟩

theorem witness_forwardingTables_11 : ∃ (p : HostPort) (v : Word) (n : Nat) (e : FEnt) (s : State),
    (RegOpen s p true) ∧ (s.fw.busy = none) ∧ (bitOf v.toNat 31 = true) ∧
      ((regStore s F.FW_CMD_OP.off 0 v.toNat).2 = true) ∧ (bitsOf v.toNat 3 0 = 0 ∧ bitsOf v.toNat 10 8 = 0) ∧
      (fwReserved 0 (fwW s) = false) ∧
      (findEnt s.fw.em (bitsOf (fwW s 0) 11 0 :: (List.range 8).map fun i => fwW s (2 + i)) = some (n, e)) :=
  ⟨0, 0x80000000, 5, fent0, { live with fw := { em := [(5, fent0)] } }, by decide +kernel⟩

theorem witness_forwardingTables_12 : ∃ (p : HostPort) (v : Word) (s : State),
    (RegOpen s p true) ∧ (s.fw.busy = none) ∧ (bitOf v.toNat 31 = true) ∧
      ((regStore s F.FW_CMD_OP.off 0 v.toNat).2 = true) ∧ (bitsOf v.toNat 3 0 = 0 ∧ bitsOf v.toNat 10 8 = 0) ∧
      (fwReserved 0 (fwW s) = false) ∧
      (findEnt s.fw.em (bitsOf (fwW s 0) 11 0 :: (List.range 8).map fun i => fwW s (2 + i)) = none) :=
  ⟨0, 0x80000000, live, by decide +kernel⟩

theorem witness_forwardingTables_13 : ∃ (p : HostPort) (v : Word) (s : State),
    (RegOpen s p true) ∧ (s.fw.busy = none) ∧ (bitOf v.toNat 31 = true) ∧
      ((regStore s F.FW_CMD_OP.off 0 v.toNat).2 = true) ∧ (bitsOf v.toNat 3 0 = 0 ∧ bitsOf v.toNat 10 8 = 4) ∧
      (fwReserved 4 (fwW s) = false) ∧ ((rd s F.FW_INDEX_INDEX) < 4096) :=
  ⟨0, 0x80000400, live, by decide +kernel⟩

theorem witness_forwardingTables_14 : ∃ (p : HostPort) (v : Word) (n : Nat) (e : FEnt) (s : State),
    (RegOpen s p true) ∧ (s.fw.busy = none) ∧ (bitOf v.toNat 31 = true) ∧
      ((regStore s F.FW_CMD_OP.off 0 v.toNat).2 = true) ∧ (bitsOf v.toNat 3 0 = 1 ∧ bitsOf v.toNat 10 8 = 0) ∧
      (fwReserved 0 (fwW s) = false) ∧ (destOk s (destAt (fwW s) 10) = true) ∧
      (findEnt s.fw.em (bitsOf (fwW s 0) 11 0 :: (List.range 8).map fun i => fwW s (2 + i)) = some (n, e)) :=
  ⟨0, 0x80000001, 5, fent0, { live with fw := { em := [(5, fent0)] } }, by decide +kernel⟩

theorem witness_forwardingTables_15 : ∃ (p : HostPort) (v : Word) (s : State),
    (RegOpen s p true) ∧ (s.fw.busy = none) ∧ (bitOf v.toNat 31 = true) ∧
      ((regStore s F.FW_CMD_OP.off 0 v.toNat).2 = true) ∧ (bitsOf v.toNat 3 0 = 1 ∧ bitsOf v.toNat 10 8 = 0) ∧
      (fwReserved 0 (fwW s) = false) ∧ (destOk s (destAt (fwW s) 10) = false) :=
  ⟨0, 0x80000001, wr live F.FW_DATA_W 10 0 1, by decide +kernel⟩

theorem witness_forwardingTables_16 : ∃ (p : HostPort) (v : Word) (s : State),
    (RegOpen s p true) ∧ (s.fw.busy = none) ∧ (bitOf v.toNat 31 = true) ∧
      ((regStore s F.FW_CMD_OP.off 0 v.toNat).2 = true) ∧ (bitsOf v.toNat 3 0 = 1 ∧ bitsOf v.toNat 10 8 = 2) ∧
      (fwReserved 2 (fwW s) = false) ∧
      ((lpmEnt (fwW s)).len ≤ addrBits (lpmEnt (fwW s)).v6 ∧ (lpmEnt (fwW s)).pfx < 2 ^ addrBits (lpmEnt (fwW s)).v6
          ∧ (lpmEnt (fwW s)).pfx % 2 ^ (addrBits (lpmEnt (fwW s)).v6 - (lpmEnt (fwW s)).len) = 0) ∧
      (s.fw.lpm.find? (lpmSame (lpmEnt (fwW s))) = none) ∧ (lpmUsed s + lpmSlots (lpmEnt (fwW s)) ≤ 262144) ∧
      (mget 0 s.fw.vers (lpmEnt (fwW s)).vrf ≠ 65535) :=
  ⟨0, 0x80000201, live, by decide +kernel⟩

theorem witness_forwardingTables_17 : ∃ (p : HostPort) (v : Word) (n : Nat) (e : FEnt) (s : State),
    (RegOpen s p true) ∧ (s.fw.busy = none) ∧ (bitOf v.toNat 31 = true) ∧
      ((regStore s F.FW_CMD_OP.off 0 v.toNat).2 = true) ∧ (bitsOf v.toNat 3 0 = 2 ∧ bitsOf v.toNat 10 8 = 0) ∧
      (fwReserved 0 (fwW s) = false) ∧ (destOk s (destAt (fwW s) 10) = true) ∧
      (findEnt s.fw.em (bitsOf (fwW s 0) 11 0 :: (List.range 8).map fun i => fwW s (2 + i)) = some (n, e)) :=
  ⟨0, 0x80000002, 5, fent0, { live with fw := { em := [(5, fent0)] } }, by decide +kernel⟩

theorem witness_forwardingTables_18 : ∃ (p : HostPort) (v : Word) (s : State),
    (RegOpen s p true) ∧ (s.fw.busy = none) ∧ (bitOf v.toNat 31 = true) ∧
      ((regStore s F.FW_CMD_OP.off 0 v.toNat).2 = true) ∧ (bitsOf v.toNat 3 0 = 2 ∧ bitsOf v.toNat 10 8 = 3) ∧
      (fwReserved 3 (fwW s) = false) ∧ ((rd s F.FW_INDEX_INDEX) < 65536) ∧ (destOk s (destAt (fwW s) 2) = true) :=
  ⟨0, 0x80000302, live, by decide +kernel⟩

theorem witness_forwardingTables_19 : ∃ (p : HostPort) (v : Word) (n : Nat) (e : FEnt) (s : State),
    (RegOpen s p true) ∧ (s.fw.busy = none) ∧ (bitOf v.toNat 31 = true) ∧
      ((regStore s F.FW_CMD_OP.off 0 v.toNat).2 = true) ∧ (bitsOf v.toNat 3 0 = 3 ∧ bitsOf v.toNat 10 8 = 0) ∧
      (fwReserved 0 (fwW s) = false) ∧
      (findEnt s.fw.em (bitsOf (fwW s 0) 11 0 :: (List.range 8).map fun i => fwW s (2 + i)) = some (n, e)) :=
  ⟨0, 0x80000003, 5, fent0, { live with fw := { em := [(5, fent0)] } }, by decide +kernel⟩

theorem witness_forwardingTables_20 : ∃ (p : HostPort) (v : Word) (s : State),
    (RegOpen s p true) ∧ (s.fw.busy = none) ∧ (bitOf v.toNat 31 = true) ∧
      ((regStore s F.FW_CMD_OP.off 0 v.toNat).2 = true) ∧ (bitsOf v.toNat 3 0 = 3 ∧ bitsOf v.toNat 10 8 = 0) ∧
      (fwReserved 0 (fwW s) = false) ∧
      (findEnt s.fw.em (bitsOf (fwW s 0) 11 0 :: (List.range 8).map fun i => fwW s (2 + i)) = none) :=
  ⟨0, 0x80000003, live, by decide +kernel⟩

theorem witness_forwardingTables_21 : ∃ (p : HostPort) (v : Word) (e : FEnt) (s : State),
    (RegOpen s p true) ∧ (s.fw.busy = none) ∧ (bitOf v.toNat 31 = true) ∧
      ((regStore s F.FW_CMD_OP.off 0 v.toNat).2 = true) ∧ (bitsOf v.toNat 3 0 = 4 ∧ bitsOf v.toNat 10 8 = 0) ∧
      (fwReserved 0 (fwW s) = false) ∧ (mget? s.fw.em (rd s F.FW_INDEX_INDEX) = some e) :=
  ⟨0, 0x80000004, fent0, { live with fw := { em := [(0, fent0)] } }, by decide +kernel⟩

theorem witness_forwardingTables_22 : ∃ (p : HostPort) (v : Word) (s : State),
    (RegOpen s p true) ∧ (s.fw.busy = none) ∧ (bitOf v.toNat 31 = true) ∧
      ((regStore s F.FW_CMD_OP.off 0 v.toNat).2 = true) ∧ (bitsOf v.toNat 3 0 = 4 ∧ bitsOf v.toNat 10 8 = 0) ∧
      (fwReserved 0 (fwW s) = false) ∧ (mget? s.fw.em (rd s F.FW_INDEX_INDEX) = none) :=
  ⟨0, 0x80000004, live, by decide +kernel⟩

theorem witness_forwardingTables_23 : ∃ (p : HostPort) (v : Word) (s : State),
    (RegOpen s p true) ∧ (s.fw.busy = none) ∧ (bitOf v.toNat 31 = true) ∧
      ((regStore s F.FW_CMD_OP.off 0 v.toNat).2 = true) ∧ (bitsOf v.toNat 3 0 = 5 ∧ bitsOf v.toNat 10 8 = 0) ∧
      (fwReserved 0 (fwW s) = false) :=
  ⟨0, 0x80000005, live, by decide +kernel⟩

theorem witness_forwardingTables_24 : ∃ (c : FwCmd) (n : Nat) (s : State),
    (s.fw.busy = some c) ∧ (c.op = 5 ∧ c.table = 0 ∧ c.done = false ∧ c.ahead = []) ∧ (s.tblq = []) ∧
      (flushNext s 0 (fwW s) c.cursor = some n) :=
  ⟨{ table := 0, op := 5, evict := false }, 5, { live with fw := { em := [(5, fent0)], busy := some { table := 0, op := 5, evict := false } } }, by decide +kernel⟩

theorem witness_forwardingTables_25 : ∃ (c : FwCmd) (n : Nat) (e : FEnt) (s : State),
    (s.fw.busy = some c) ∧ (c.done = true ∧ c.op = 0 ∧ c.table = 0) ∧ (s.fw.res.1 = 0) ∧
      (findEnt s.fw.em (bitsOf (fwW s 0) 11 0 :: (List.range 8).map fun i => fwW s (2 + i)) = some (n, e)) :=
  ⟨{ table := 0, op := 0, evict := false, done := true }, 5, fent0, { live with fw := { em := [(5, fent0)], busy := some { table := 0, op := 0, evict := false, done := true }, res := (0, 5, [3, 4]) } }, by decide +kernel⟩

theorem witness_forwardingTables_26 : ∃ (c : FwCmd) (n : Nat) (e : FEnt) (s : State),
    (s.fw.busy = some c) ∧ (c.done = true ∧ c.op = 1 ∧ c.table = 0) ∧ (s.fw.res.1 = 2) ∧
      (findEnt s.fw.em (bitsOf (fwW s 0) 11 0 :: (List.range 8).map fun i => fwW s (2 + i)) = some (n, e)) :=
  ⟨{ table := 0, op := 1, evict := false, done := true }, 5, fent0, { live with fw := { em := [(5, fent0)], busy := some { table := 0, op := 1, evict := false, done := true }, res := (2, 5, [3, 4]) } }, by decide +kernel⟩

theorem witness_forwardingTables_27 : ∃ (c : FwCmd) (s : State),
    (s.fw.busy = some c) ∧ (c.done = true) ∧ (s.fw.res.1 ≠ 0 ∧ s.fw.res.1 ≠ 2) :=
  ⟨{ table := 0, op := 0, evict := false, done := true }, { live with fw := { busy := some { table := 0, op := 0, evict := false, done := true }, res := (1, 7, [3, 4]) } }, by decide +kernel⟩

theorem witness_forwardingTables_28 : ∃ (c : FwCmd) (s : State),
    (s.fw.busy = some c) ∧ (c.op = 5 ∧ c.table = 0 ∧ c.done = false ∧ c.ahead = []) ∧ (s.fw.res.1 = 0) ∧
      (flushNext s 0 (fwW s) c.cursor = none) :=
  ⟨{ table := 0, op := 5, evict := false }, { live with fw := { busy := some { table := 0, op := 5, evict := false }, res := (0, 7, [3, 4]) } }, by decide +kernel⟩

theorem witness_forwardingTables_29 : ∃ (b : Fin 16) (v : LearnEv) (r : List LearnEv) (n : Nat) (e : FEnt) (s : State),
    (mget [] s.fw.banks b.val = v :: r) ∧ (findEnt s.fw.l2 [v.bd, v.mac] = some (n, e)) ∧
      (e.dest ≠ portDest v.port) ∧ (e.stat = false) ∧ (rd s F.FW_L2_CFG_HOLD * 1000 ≤ v.ns - e.stamp * 1024) ∧
      (s.fw.busy = none) ∧ (s.tblq = []) :=
  ⟨2, ⟨1, 7, 3, 10 ^ 12, 0, 0⟩, [], 9, { key := [1, 7], dest := portDest 4 }, { live with fw := { banks := [(2, [⟨1, 7, 3, 10 ^ 12, 0, 0⟩])], l2 := [(9, { key := [1, 7], dest := portDest 4 })] } }, by decide +kernel⟩

theorem witness_forwardingTables_30 : ∃ (n : Nat) (x : PendFw) (q : Nat) (key : List Nat) (e : FEnt) (s : State),
    (s.fw.pend = [x]) ∧ (x.id = n ∧ x.dest = none) ∧ (instMode s x.key.inst = 3) ∧ (emKey s x.key = some key) ∧
      (findEnt s.fw.em key = some (q, e)) ∧ (fwSeen s = s) :=
  ⟨3, ⟨3, 0, { len := 64 }, ⟨0, 0, 0⟩, none⟩, 5, List.replicate 9 0, fent0, { live with fw := { pend := [⟨3, 0, { len := 64 }, ⟨0, 0, 0⟩, none⟩], em := [(5, fent0)], insts := [(0, [0xC0000000, 0, 0, 0x7FFFFFFF])] } }, by decide +kernel⟩

theorem witness_forwardingTables_31 : ∃ (n : Nat) (x : PendFw) (key : List Nat) (s : State),
    (s.fw.pend = [x]) ∧ (x.id = n ∧ x.dest = none) ∧ (instMode s x.key.inst = 3) ∧ (emKey s x.key = some key) ∧
      (findEnt s.fw.em key = none) ∧ (fwSeen s = s) :=
  ⟨3, ⟨3, 0, { len := 64 }, ⟨0, 0, 0⟩, none⟩, List.replicate 9 0, { live with fw := { pend := [⟨3, 0, { len := 64 }, ⟨0, 0, 0⟩, none⟩], insts := [(0, [0xC0000000, 0, 0, 0x7FFFFFFF])] } }, by decide +kernel⟩

theorem witness_forwardingTables_32 : ∃ (n : Nat) (x : PendFw) (m q : Nat) (e : FEnt) (s : State),
    (s.fw.pend = [x]) ∧ (x.id = n ∧ x.dest = none) ∧
      (instMode s x.key.inst = 2 ∧ bitOf (instW s x.key.inst 0) 29 = false) ∧
      (macAt x.key (bitsOf (instW s x.key.inst 1) 15 12) = some m) ∧
      (findEnt s.fw.l2 [instScope s x.key.inst, m] = some (q, e)) ∧ (fwSeen s = s) :=
  ⟨3, ⟨3, 0, { len := 64 }, ⟨0, 7, 3⟩, none⟩, 7 * 2 ^ 32, 5, { key := [0, 7 * 2 ^ 32], dest := 0x7FFFFFFF00000000 }, { live with fw := { pend := [⟨3, 0, { len := 64 }, ⟨0, 7, 3⟩, none⟩], l2 := [(5, { key := [0, 7 * 2 ^ 32], dest := 0x7FFFFFFF00000000 })], insts := [(0, [0x80000000, 0, 0, 0x7FFFFFFF])] } }, by decide +kernel⟩

theorem witness_forwardingTables_33 : ∃ (n : Nat) (x : PendFw) (q : Nat) (key : List Nat) (e : FEnt) (s : State),
    (s.fw.pend = [x]) ∧ (x.id = n ∧ x.dest = none) ∧ (instMode s x.key.inst = 3) ∧ (emKey s x.key = some key) ∧
      (findEnt s.fw.em key = some (q, e)) ∧ (e.dest = 0x7FFFFFFF00000000) ∧ (x.a.buf = none) ∧ (fwSeen s = s) :=
  ⟨3, ⟨3, 0, { len := 64 }, ⟨0, 0, 0⟩, none⟩, 5, List.replicate 9 0, { fent0 with dest := 0x7FFFFFFF00000000 }, { live with fw := { pend := [⟨3, 0, { len := 64 }, ⟨0, 0, 0⟩, none⟩], em := [(5, { fent0 with dest := 0x7FFFFFFF00000000 })], insts := [(0, [0xC0000000, 0, 0, 0x7FFFFFFF])] } }, by decide +kernel⟩

theorem witness_forwardingTables_34 : ∃ (n : Nat) (x : PendFw) (q : Nat) (key : List Nat) (e : FEnt) (v : FwSeen) (s : State),
    (s.fw.pend = [x]) ∧ (x.id = n ∧ x.dest = none) ∧ (s.fw.seen = some v) ∧ (v.at_ = s.clk) ∧ (v.aged = []) ∧
      (instMode (fwSeen s) x.key.inst = 3) ∧ (emKey (fwSeen s) x.key = some key) ∧
      (findEnt v.em key = some (q, e)) ∧ (s.fw.em = []) :=
  ⟨3, ⟨3, 0, { len := 64 }, ⟨0, 0, 0⟩, none⟩, 5, List.replicate 9 0, fent0, { at_ := live.clk, insts := [(0, [0xC0000000, 0, 0, 0x7FFFFFFF])], em := [(5, fent0)], l2 := [], lpm := [], nhs := [], vers := [] }, { live with fw := { pend := [⟨3, 0, { len := 64 }, ⟨0, 0, 0⟩, none⟩], seen := some { at_ := live.clk, insts := [(0, [0xC0000000, 0, 0, 0x7FFFFFFF])], em := [(5, fent0)], l2 := [], lpm := [], nhs := [], vers := [] }, insts := [(0, [0xC0000000, 0, 0, 0x7FFFFFFF])] } }, by decide +kernel⟩

theorem witness_peerBufferLists_1 : ∃ (p : HostPort) (e : Entry) (l : List Nat) (u s : State),
    (AdminCmd s p.val 0x19 e) ∧ (2 ≤ dw e 4 ∧ dw e 4 ≤ 5 ∧ 1 ≤ dw e 5 ∧ dw e 5 ≤ 65536 ∧ dwZero e 6 15 = true) ∧
      ((allocMany s (hIdx (dw e 1)) (dw e 4) (dw e 5) []).toOption = some (l, u)) ∧
      ((pickList s (4 * dw e 5)).isSome = true) :=
  ⟨0, ent [0x19, 0x40100005, 0, 0, 2, 1, 0, 0, 0, 0, 0, 0, 0, 0, 0, 0], [0x40000000], (((allocMany ({ adm (ent [0x19, 0x40100005, 0, 0, 2, 1, 0, 0, 0, 0, 0, 0, 0, 0, 0, 0]) with tens := [(5, ten5)], coop := { ready := true, bufs := [(0x40000000, ⟨.cached, 5⟩)], cache := [(42, [0x40000000])] } }) 5 2 1 []).toOption).getD ([], live)).2, { adm (ent [0x19, 0x40100005, 0, 0, 2, 1, 0, 0, 0, 0, 0, 0, 0, 0, 0, 0]) with tens := [(5, ten5)], coop := { ready := true, bufs := [(0x40000000, ⟨.cached, 5⟩)], cache := [(42, [0x40000000])] } }, by decide +kernel, by decide +kernel, by decide +kernel, pick_list _ _ (by decide +kernel) (by decide +kernel)⟩

theorem witness_peerBufferLists_2 : ∃ (p : HostPort) (e : Entry) (x : Tenant) (l : Nat × List Nat) (s : State),
    (AdminCmd s p.val 0x1A e) ∧ (mget? s.tens (hIdx (dw e 1)) = some x) ∧
      (x.lists.find? (·.1 = dw2 e 4) = some l) ∧ (dwZero e 6 15 = true) ∧ (listNamed s p.val (dw2 e 4) = false) :=
  ⟨0, ent [0x1A, 0x40100005, 0, 0, 0x1000, 0, 0, 0, 0, 0, 0, 0, 0, 0, 0, 0], { ten5 with lists := [(0x1000, [0x40000000])] }, (0x1000, [0x40000000]), { adm (ent [0x1A, 0x40100005, 0, 0, 0x1000, 0, 0, 0, 0, 0, 0, 0, 0, 0, 0, 0]) with tens := [(5, { ten5 with lists := [(0x1000, [0x40000000])] })], coop := { ready := true, bufs := [(0x40000000, ⟨.owned, 5⟩)] } }, by decide +kernel⟩

theorem witness_hbmControllerCommands_1 : ∃ (k : Fin 4) (b : Byte) (s : State),
    (msec 1 + (stackOf s k.val).sampled ≤ s.clk) ∧ (lkAlive s = true) ∧ (82 ≤ b.toNat) ∧ (b.toNat ≤ 85) :=
  ⟨0, 84, live, by decide +kernel⟩

theorem witness_hbmControllerCommands_2 : ∃ (k : Fin 4) (b : Byte) (s : State),
    (msec 1 + (stackOf s k.val).sampled ≤ s.clk) ∧ (lkAlive s = true) ∧ (85 < b.toNat) ∧ (b.toNat ≤ 95) ∧
      ((stackOf s k.val).twoX = false) :=
  ⟨0, 90, live, by decide +kernel⟩

theorem witness_hbmControllerCommands_3 : ∃ (c : Fin 264) (b : Fin 16) (l : Nat) (s : State),
    (pcLive s c.val = true) ∧
      (mget 0 s.hbm.refAt (c.val * 16 + b.val) + refPs (stackOf s (pcStack c.val)) ≤ s.clk) ∧
      (logPc s c.val = some l) :=
  ⟨3, 2, 3, hbmlive, by decide +kernel⟩

theorem witness_hbmControllerCommands_4 : ∃ (k : Fin 4) (s : State),
    (hbmOn s = true) ∧ ((stackOf s k.val).winAt + winPs (stackOf s k.val) ≤ s.clk) :=
  ⟨0, hbmlive, by decide +kernel⟩

theorem witness_hbmControllerCommands_5 : ∃ (c : Fin 264) (g : Fin 4) (r n l : Nat) (s : State),
    (pcLive s c.val = true) ∧ (0 < n) ∧ (mget? s.hbm.acts (c.val * 4 + g.val) = none) ∧
      (n / (max 1 (actThresh s (pcStack c.val))) ≤ 1024) ∧ (logPc s c.val = some l) :=
  ⟨3, 1, 77, 5000, 3, hbmlive, by decide +kernel⟩

theorem witness_hbmControllerCommands_6 : ∃ (c : Fin 264) (s : State),
    (pcLive s c.val = true) ∧ (s.md.degraded = []) ∧ ((mget {} s.hbm.scrub c.val).block ≠ 0) ∧
      ((mget {} s.hbm.scrub c.val).period ≠ 0) ∧
      ((mget {} s.hbm.scrub c.val).at_ + (mget {} s.hbm.scrub c.val).period * 3600 * 10 ^ 12 / pcBlocks c.val ≤
          s.clk) :=
  ⟨3, { hbmlive with hbm := { hbmlive.hbm with scrub := [(3, { block := 5 })] } }, by decide +kernel⟩

theorem witness_hbmControllerCommands_7 : ∃ (c : Fin 264) (l : Nat) (s : State),
    (pcLive s c.val = true) ∧ (s.md.degraded = []) ∧ ((mget {} s.hbm.scrub c.val).block ≠ 0) ∧
      ((mget {} s.hbm.scrub c.val).period ≠ 0) ∧
      ((mget {} s.hbm.scrub c.val).at_ + (mget {} s.hbm.scrub c.val).period * 3600 * 10 ^ 12 / pcBlocks c.val ≤
          s.clk) ∧
      (logPc s c.val = some l) :=
  ⟨3, 3, { hbmlive with hbm := { hbmlive.hbm with scrub := [(3, { block := 5 })] } }, by decide +kernel⟩

theorem witness_hbmControllerCommands_8 : ∃ (c : Fin 264) (l : Fin 16) (a b : Word) (s : State),
    (lkRuns s = true) ∧ (s.boot.stage = 5) :=
  ⟨3, 1, 7, 9, { State.reset with boot := { stage := 5 } }, by decide +kernel⟩

theorem witness_hbmControllerCommands_9 : ∃ (w : Worn) (p n : Nat) (r : List Nat) (s : State),
    (s.md.queue = [w]) ∧ (w.kind = 2) ∧ (s.hbm.mig = .idle) ∧ (hbmOn s = true) ∧
      (freeSpares s 2 (pcStack w.part) = p :: r) ∧ (logPc s w.part = some n) ∧ (2 ≤ fuseFree s) ∧
      (lkRuns s = true) :=
  ⟨⟨2, 3, 1, 0⟩, 256, 3, [257], { hbmlive with md := { queue := [⟨2, 3, 1, 0⟩] } }, by decide +kernel⟩

theorem witness_hbmControllerCommands_10 : ∃ (s : State),
    (s.hbm.mig = .open_) ∧ (hbmOn s = true) ∧ (lkRuns s = true) :=
  ⟨{ hbmlive with hbm := { hbmlive.hbm with mig := .open_ } }, by decide +kernel⟩

theorem witness_hbmControllerCommands_11 : ∃ (s : State),
    (s.hbm.mig = .copy) ∧ (hbmOn s = true) ∧ (s.hbm.since + 64000 * (s.hbm.units + 1) ≤ s.clk) ∧
      (s.hbm.units + 1 ≠ pcUnits) :=
  ⟨{ hbmlive with hbm := { hbmlive.hbm with mig := .copy } }, by decide +kernel⟩

theorem witness_hbmControllerCommands_12 : ∃ (s : State),
    (s.hbm.mig = .copy) ∧ (hbmOn s = true) ∧ (s.hbm.since + 64000 * (s.hbm.units + 1) ≤ s.clk) ∧
      (s.hbm.units + 1 = pcUnits) :=
  ⟨{ hbmlive with hbm := { hbmlive.hbm with mig := .copy, units := 557055 } }, by decide +kernel⟩

theorem witness_hbmControllerCommands_13 : ∃ (l : List LEntry) (e : LEntry) (s : State),
    (s.hbm.mig = .commit) ∧ (lkRuns s = true) ∧ (s.md.ledger = l ++ [e]) ∧
      (e.kind = 2 ∧ e.frm = s.hbm.old ∧ e.to_ = s.hbm.spare ∧ e.void = false ∧ e.committed = false) ∧
      (∀ x ∈ l, x.committed = true ∨ x.void = true) :=
  ⟨[], { committed := false, kind := 2, reason := 1, frm := 3, to_ := 256, sec := 0 }, { hbmlive with md := { ledger := [{ committed := false, kind := 2, reason := 1, frm := 3, to_ := 256, sec := 0 }] }, hbm := { hbmlive.hbm with mig := .commit, old := 3, spare := 256 } }, by decide +kernel⟩

theorem witness_hbmControllerCommands_14 : ∃ (s : State),
    (s.hbm.mig = .done) ∧ (lkRuns s = true) :=
  ⟨{ hbmlive with hbm := { hbmlive.hbm with mig := .done } }, by decide +kernel⟩

theorem witness_menderCommands_1 : ∃ (u : Fin 68) (s : State),
    (lkRuns s = true) ∧ (inService s 4 u.val = true) ∧ (replaced s 4 u.val = false) ∧ (lsHeld s false u.val = 0) :=
  ⟨3, live, by decide +kernel⟩

theorem witness_menderCommands_2 : ∃ (p c : Word) (s : State),
    (lkRuns s = true) ∧ (rd s F.LK_WEAR_0_CORE_UNCORR ≤ wearCount s .coreUncorr p.toNat) ∧
      (inService s 1 p.toNat = true) ∧ (s.md.degraded = []) ∧ (s.md.queue = []) ∧
      (freeSpares s 1 (wearGroup 1 p.toNat) ≠ []) ∧ (fuseFree s ≠ 0) :=
  ⟨3, 0, { live with md := { wear := [(monCode .coreUncorr * 2 ^ 32 + 3, List.replicate 300 live.clk)] } }, by decide +kernel⟩

theorem witness_menderCommands_3 : ∃ (w : Worn) (p : Nat) (r : List Nat) (s : State),
    (s.md.queue = [w]) ∧ (w.kind = 1) ∧ (lkRuns s = true) ∧
      (freeSpares s w.kind (wearGroup w.kind w.part) = p :: r) ∧ (s.clOff = []) ∧ (fuseFree s ≠ 0) :=
  ⟨⟨1, 3, 1, 0⟩, 12, [], { live with md := { queue := [⟨1, 3, 1, 0⟩] } }, by decide +kernel⟩

theorem witness_menderCommands_4 : ∃ (w : Worn) (p : Nat) (r : List Nat) (s : State),
    (s.md.queue = [w]) ∧ (w.kind = 3) ∧ (lkRuns s = true) ∧
      (freeSpares s w.kind (wearGroup w.kind w.part) = p :: r) ∧ (fuseFree s ≠ 0) :=
  ⟨⟨3, 3, 1, 0⟩, 32, [33], { live with md := { queue := [⟨3, 3, 1, 0⟩] } }, by decide +kernel⟩

theorem witness_menderCommands_5 : ∃ (w : Worn) (p : Nat) (r : List Nat) (s : State),
    (s.md.queue = [w]) ∧ (w.kind = 4) ∧ (lkRuns s = true) ∧
      (freeSpares s w.kind (wearGroup w.kind w.part) = p :: r) ∧ (fuseFree s ≠ 0) ∧ (lsHeld s false w.part = 0) :=
  ⟨⟨4, 3, 3, 0⟩, 16, [], { live with md := { queue := [⟨4, 3, 3, 0⟩] } }, by decide +kernel⟩

theorem witness_menderCommands_6 : ∃ (w : Worn) (s : State),
    (s.md.queue = [w]) ∧ (w.kind = 6 ∨ w.kind = 7) ∧ (lkRuns s = true) ∧ (fuseFree s ≠ 0) :=
  ⟨⟨6, 3, 1, 0⟩, { live with md := { queue := [⟨6, 3, 1, 0⟩] } }, by decide +kernel⟩

theorem witness_menderCommands_7 : ∃ (e : LEntry) (n : Nat) (r : List (LEntry × Nat)) (s : State),
    (s.md.unwritten = (e, n) :: r) ∧ (lkRuns s = true) ∧ (e.committed = true) :=
  ⟨{ committed := true, kind := 1, reason := 1, frm := 3, to_ := 12, sec := 0 }, 0, [], { live with md := { unwritten := [({ committed := true, kind := 1, reason := 1, frm := 3, to_ := 12, sec := 0 }, 0)] } }, by decide +kernel⟩

theorem witness_menderCommands_8 : ∃ (e : LEntry) (n : Nat) (r : List (LEntry × Nat)) (s : State),
    (s.md.unwritten = (e, n) :: r) ∧ (lkRuns s = true) ∧ (e.committed = false) :=
  ⟨{ committed := false, kind := 1, reason := 1, frm := 3, to_ := 12, sec := 0 }, 0, [], { live with md := { unwritten := [({ committed := false, kind := 1, reason := 1, frm := 3, to_ := 12, sec := 0 }, 0)] } }, by decide +kernel⟩

theorem witness_menderCommands_9 : ∃ (w : Worn) (p : Nat) (r : List Nat) (s : State),
    (s.md.queue = [w]) ∧ (w.kind = 1) ∧ (lkRuns s = true) ∧
      (freeSpares s w.kind (wearGroup w.kind w.part) = p :: r) ∧ (s.clOff = []) ∧ (fuseFree s = 0) ∧
      (volatRoom s = true) ∧ (s.md.full = false) :=
  ⟨⟨1, 3, 1, 0⟩, 12, [], { live with md := { queue := [⟨1, 3, 1, 0⟩], ledger := List.replicate 512 { committed := true, kind := 1, reason := 1, frm := 3, to_ := 12, sec := 0 } } }, by decide +kernel⟩

theorem witness_menderCommands_10 : ∃ (w : Worn) (p : Nat) (r : List Nat) (s : State),
    (s.md.queue = [w]) ∧ (w.kind = 1) ∧ (lkRuns s = true) ∧
      (freeSpares s w.kind (wearGroup w.kind w.part) = p :: r) ∧ (s.clOff = []) ∧ (fuseFree s = 0) ∧
      (volatRoom s = false) ∧ (s.md.full = true) :=
  ⟨⟨1, 3, 1, 0⟩, 12, [], { live with md := { queue := [⟨1, 3, 1, 0⟩], full := true, ledger := List.replicate 512 { committed := true, kind := 1, reason := 1, frm := 3, to_ := 13, sec := 0 }, volat := List.replicate 255 { committed := false, kind := 1, reason := 1, frm := 3, to_ := 13, sec := 0 } } }, by decide +kernel⟩

theorem witness_menderCommands_11 : ∃ (w : Worn) (s : State),
    (s.md.queue = [w]) ∧ (w.kind = 4) ∧ (lsHeld s false w.part ≠ 0) :=
  ⟨⟨4, 3, 3, 0⟩, { live with md := { queue := [⟨4, 3, 3, 0⟩] }, ls := { busy := [{ req := { id := 4, core := 0, thread := 0, gf := false, addr := 0x180 }, fail := none, unit := 3 }] } }, by decide +kernel⟩

theorem witness_menderCommands_12 : ∃ (u : Fin 68) (s : State),
    lsHeld s false u.val = 1 :=
  ⟨3, { live with ls := { busy := [{ req := { id := 4, core := 0, thread := 0, gf := false, addr := 0x180 }, fail := none, unit := 3 }] } }, by decide +kernel⟩

theorem witness_flowArithmetic_1 : ∃ (c : CoreId) (n : ThreadId) (th : Thr) (i : FcI) (s : State),
    Issues s c.val n.val .add th i :=
  ⟨0, 0, fthr, ⟨.add, 4, 2, 1, 0⟩, fcs ⟨.add, 4, 2, 1, 0⟩, by decide +kernel⟩

theorem witness_flowArithmetic_2 : ∃ (c : CoreId) (n : ThreadId) (th : Thr) (i : FcI) (s : State),
    Issues s c.val n.val .sub th i :=
  ⟨0, 0, fthr, ⟨.sub, 4, 2, 1, 1⟩, fcs ⟨.sub, 4, 2, 1, 1⟩, by decide +kernel⟩

theorem witness_flowArithmetic_3 : ∃ (c : CoreId) (n : ThreadId) (th : Thr) (i : FcI) (s : State),
    Issues s c.val n.val .and th i :=
  ⟨0, 0, fthr, ⟨.and, 4, 2, 1, 2⟩, fcs ⟨.and, 4, 2, 1, 2⟩, by decide +kernel⟩

theorem witness_flowArithmetic_4 : ∃ (c : CoreId) (n : ThreadId) (th : Thr) (i : FcI) (s : State),
    Issues s c.val n.val .or th i :=
  ⟨0, 0, fthr, ⟨.or, 4, 2, 1, 3⟩, fcs ⟨.or, 4, 2, 1, 3⟩, by decide +kernel⟩

theorem witness_flowArithmetic_5 : ∃ (c : CoreId) (n : ThreadId) (th : Thr) (i : FcI) (s : State),
    Issues s c.val n.val .xor th i :=
  ⟨0, 0, fthr, ⟨.xor, 4, 2, 1, 4⟩, fcs ⟨.xor, 4, 2, 1, 4⟩, by decide +kernel⟩

theorem witness_flowArithmetic_6 : ∃ (c : CoreId) (n : ThreadId) (th : Thr) (i : FcI) (s : State),
    Issues s c.val n.val .sll th i :=
  ⟨0, 0, fthr, ⟨.sll, 4, 2, 1, 5⟩, fcs ⟨.sll, 4, 2, 1, 5⟩, by decide +kernel⟩

theorem witness_flowArithmetic_7 : ∃ (c : CoreId) (n : ThreadId) (th : Thr) (i : FcI) (s : State),
    Issues s c.val n.val .srl th i :=
  ⟨0, 0, fthr, ⟨.srl, 4, 2, 1, 6⟩, fcs ⟨.srl, 4, 2, 1, 6⟩, by decide +kernel⟩

theorem witness_flowArithmetic_8 : ∃ (c : CoreId) (n : ThreadId) (th : Thr) (i : FcI) (s : State),
    Issues s c.val n.val .sra th i :=
  ⟨0, 0, fthr, ⟨.sra, 4, 2, 1, 7⟩, fcs ⟨.sra, 4, 2, 1, 7⟩, by decide +kernel⟩

theorem witness_flowArithmetic_9 : ∃ (c : CoreId) (n : ThreadId) (th : Thr) (i : FcI) (s : State),
    Issues s c.val n.val .slt th i :=
  ⟨0, 0, fthr, ⟨.slt, 4, 2, 1, 8⟩, fcs ⟨.slt, 4, 2, 1, 8⟩, by decide +kernel⟩

theorem witness_flowArithmetic_10 : ∃ (c : CoreId) (n : ThreadId) (th : Thr) (i : FcI) (s : State),
    Issues s c.val n.val .sltu th i :=
  ⟨0, 0, fthr, ⟨.sltu, 4, 2, 1, 9⟩, fcs ⟨.sltu, 4, 2, 1, 9⟩, by decide +kernel⟩

theorem witness_flowArithmetic_11 : ∃ (c : CoreId) (n : ThreadId) (th : Thr) (i : FcI) (s : State),
    Issues s c.val n.val .mul th i :=
  ⟨0, 0, fthr, ⟨.mul, 4, 2, 1, 10⟩, fcs ⟨.mul, 4, 2, 1, 10⟩, by decide +kernel⟩

theorem witness_flowArithmetic_12 : ∃ (c : CoreId) (n : ThreadId) (th : Thr) (i : FcI) (s : State),
    Issues s c.val n.val .mulhu th i :=
  ⟨0, 0, fthr, ⟨.mulhu, 4, 2, 1, 11⟩, fcs ⟨.mulhu, 4, 2, 1, 11⟩, by decide +kernel⟩

theorem witness_flowArithmetic_13 : ∃ (c : CoreId) (n : ThreadId) (th : Thr) (i : FcI) (s : State),
    Issues s c.val n.val .divu th i :=
  ⟨0, 0, fthr, ⟨.divu, 4, 2, 1, 12⟩, fcs ⟨.divu, 4, 2, 1, 12⟩, by decide +kernel⟩

theorem witness_flowArithmetic_14 : ∃ (c : CoreId) (n : ThreadId) (th : Thr) (i : FcI) (s : State),
    Issues s c.val n.val .remu th i :=
  ⟨0, 0, fthr, ⟨.remu, 4, 2, 1, 13⟩, fcs ⟨.remu, 4, 2, 1, 13⟩, by decide +kernel⟩

theorem witness_flowArithmetic_15 : ∃ (c : CoreId) (n : ThreadId) (th : Thr) (i : FcI) (k : Nat) (s : State),
    (Issues s c.val n.val .clz th i) ∧ (k < 64) ∧ ((wget th i.b.val).toNat < 2 ^ (64 - k)) ∧
      (2 ^ (63 - k) ≤ (wget th i.b.val).toNat) :=
  ⟨0, 0, fthr, ⟨.clz, 4, 2, 0, 14⟩, 55, fcs ⟨.clz, 4, 2, 0, 14⟩, by decide +kernel⟩

theorem witness_flowArithmetic_16 : ∃ (c : CoreId) (n : ThreadId) (th : Thr) (i : FcI) (s : State),
    (Issues s c.val n.val .clz th i) ∧ ((wget th i.b.val) = 0) :=
  ⟨0, 0, fthr, ⟨.clz, 4, 5, 0, 14⟩, fcs ⟨.clz, 4, 5, 0, 14⟩, by decide +kernel⟩

theorem witness_flowArithmetic_17 : ∃ (c : CoreId) (n : ThreadId) (th : Thr) (i : FcI) (s : State),
    Issues s c.val n.val .popc th i :=
  ⟨0, 0, fthr, ⟨.popc, 4, 2, 0, 15⟩, fcs ⟨.popc, 4, 2, 0, 15⟩, by decide +kernel⟩

theorem witness_flowArithmetic_18 : ∃ (c : CoreId) (n : ThreadId) (th : Thr) (i : FcI) (s : State),
    Issues s c.val n.val .addi th i :=
  ⟨0, 0, fthr, ⟨.addi, 4, 2, 1, 67⟩, fcs ⟨.addi, 4, 2, 1, 67⟩, by decide +kernel⟩

theorem witness_flowArithmetic_19 : ∃ (c : CoreId) (n : ThreadId) (th : Thr) (i : FcI) (s : State),
    Issues s c.val n.val .andi th i :=
  ⟨0, 0, fthr, ⟨.andi, 4, 2, 1, 67⟩, fcs ⟨.andi, 4, 2, 1, 67⟩, by decide +kernel⟩

theorem witness_flowArithmetic_20 : ∃ (c : CoreId) (n : ThreadId) (th : Thr) (i : FcI) (s : State),
    Issues s c.val n.val .ori th i :=
  ⟨0, 0, fthr, ⟨.ori, 4, 2, 1, 67⟩, fcs ⟨.ori, 4, 2, 1, 67⟩, by decide +kernel⟩

theorem witness_flowArithmetic_21 : ∃ (c : CoreId) (n : ThreadId) (th : Thr) (i : FcI) (s : State),
    Issues s c.val n.val .xori th i :=
  ⟨0, 0, fthr, ⟨.xori, 4, 2, 1, 67⟩, fcs ⟨.xori, 4, 2, 1, 67⟩, by decide +kernel⟩

theorem witness_flowArithmetic_22 : ∃ (c : CoreId) (n : ThreadId) (th : Thr) (i : FcI) (s : State),
    Issues s c.val n.val .extu th i :=
  ⟨0, 0, fthr, ⟨.extu, 4, 2, 0, 67⟩, fcs ⟨.extu, 4, 2, 0, 67⟩, by decide +kernel⟩

theorem witness_flowArithmetic_23 : ∃ (c : CoreId) (n : ThreadId) (th : Thr) (i : FcI) (s : State),
    (Issues s c.val n.val .shi th i) ∧ (i.imm / 64 = 0) :=
  ⟨0, 0, fthr, ⟨.shi, 4, 2, 0, 5⟩, fcs ⟨.shi, 4, 2, 0, 5⟩, by decide +kernel⟩

theorem witness_flowArithmetic_24 : ∃ (c : CoreId) (n : ThreadId) (th : Thr) (i : FcI) (s : State),
    (Issues s c.val n.val .shi th i) ∧ (i.imm / 64 = 1) :=
  ⟨0, 0, fthr, ⟨.shi, 4, 2, 0, 69⟩, fcs ⟨.shi, 4, 2, 0, 69⟩, by decide +kernel⟩

theorem witness_flowArithmetic_25 : ∃ (c : CoreId) (n : ThreadId) (th : Thr) (i : FcI) (s : State),
    (Issues s c.val n.val .shi th i) ∧ (i.imm / 64 = 2) :=
  ⟨0, 0, fthr, ⟨.shi, 4, 2, 0, 133⟩, fcs ⟨.shi, 4, 2, 0, 133⟩, by decide +kernel⟩

theorem witness_flowArithmetic_26 : ∃ (c : CoreId) (n : ThreadId) (th : Thr) (i : FcI) (s : State),
    (Issues s c.val n.val .hwset th i) ∧ (i.b.val < 4) :=
  ⟨0, 0, fthr, ⟨.hwset, 4, 2, 20, 5⟩, fcs ⟨.hwset, 4, 2, 20, 5⟩, by decide +kernel⟩

theorem witness_flowArithmetic_27 : ∃ (c : CoreId) (n : ThreadId) (th : Thr) (i : FcI) (s : State),
    (Issues s c.val n.val .hwset th i) ∧ (4 ≤ i.b.val) :=
  ⟨0, 0, fthr, ⟨.hwset, 4, 6, 20, 5⟩, fcs ⟨.hwset, 4, 6, 20, 5⟩, by decide +kernel⟩

theorem witness_flowArithmetic_28 : ∃ (c : CoreId) (n : ThreadId) (th : Thr) (i : FcI) (s : State),
    Issues s c.val n.val .hwins th i :=
  ⟨0, 0, fthr, ⟨.hwins, 2, 1, 20, 5⟩, fcs ⟨.hwins, 2, 1, 20, 5⟩, by decide +kernel⟩

theorem witness_flowControlTransfer_1 : ∃ (c : CoreId) (n : ThreadId) (th : Thr) (i : FcI) (s : State),
    Issues s c.val n.val .beq th i :=
  ⟨0, 0, fthr, ⟨.beq, 1, 2, 0, 7⟩, fcs ⟨.beq, 1, 2, 0, 7⟩, by decide +kernel⟩

theorem witness_flowControlTransfer_2 : ∃ (c : CoreId) (n : ThreadId) (th : Thr) (i : FcI) (s : State),
    Issues s c.val n.val .bne th i :=
  ⟨0, 0, fthr, ⟨.bne, 1, 2, 0, 7⟩, fcs ⟨.bne, 1, 2, 0, 7⟩, by decide +kernel⟩

theorem witness_flowControlTransfer_3 : ∃ (c : CoreId) (n : ThreadId) (th : Thr) (i : FcI) (s : State),
    Issues s c.val n.val .blt th i :=
  ⟨0, 0, fthr, ⟨.blt, 1, 2, 0, 7⟩, fcs ⟨.blt, 1, 2, 0, 7⟩, by decide +kernel⟩

theorem witness_flowControlTransfer_4 : ∃ (c : CoreId) (n : ThreadId) (th : Thr) (i : FcI) (s : State),
    Issues s c.val n.val .bge th i :=
  ⟨0, 0, fthr, ⟨.bge, 1, 2, 0, 7⟩, fcs ⟨.bge, 1, 2, 0, 7⟩, by decide +kernel⟩

theorem witness_flowControlTransfer_5 : ∃ (c : CoreId) (n : ThreadId) (th : Thr) (i : FcI) (s : State),
    Issues s c.val n.val .bltu th i :=
  ⟨0, 0, fthr, ⟨.bltu, 1, 2, 0, 7⟩, fcs ⟨.bltu, 1, 2, 0, 7⟩, by decide +kernel⟩

theorem witness_flowControlTransfer_6 : ∃ (c : CoreId) (n : ThreadId) (th : Thr) (i : FcI) (s : State),
    Issues s c.val n.val .bgeu th i :=
  ⟨0, 0, fthr, ⟨.bgeu, 1, 2, 0, 7⟩, fcs ⟨.bgeu, 1, 2, 0, 7⟩, by decide +kernel⟩

theorem witness_flowControlTransfer_7 : ∃ (c : CoreId) (n : ThreadId) (th : Thr) (i : FcI) (s : State),
    Issues s c.val n.val .j th i :=
  ⟨0, 0, fthr, ⟨.j, 0, 0, 0, 7⟩, fcs ⟨.j, 0, 0, 0, 7⟩, by decide +kernel⟩

theorem witness_flowControlTransfer_8 : ∃ (c : CoreId) (n : ThreadId) (th : Thr) (i : FcI) (s : State),
    Issues s c.val n.val .jal th i :=
  ⟨0, 0, fthr, ⟨.jal, 0, 0, 0, 7⟩, fcs ⟨.jal, 0, 0, 0, 7⟩, by decide +kernel⟩

theorem witness_flowControlTransfer_9 : ∃ (c : CoreId) (n : ThreadId) (th : Thr) (i : FcI) (s : State),
    Issues s c.val n.val .jalr th i :=
  ⟨0, 0, fthr, ⟨.jalr, 4, 1, 0, 7⟩, fcs ⟨.jalr, 4, 1, 0, 7⟩, by decide +kernel⟩

theorem witness_flowControlTransfer_10 : ∃ (c : CoreId) (n : ThreadId) (th : Thr) (i : FcI) (s : State),
    Issues s c.val n.val .mfsr th i :=
  ⟨0, 0, fthr, ⟨.mfsr, 4, 0, 0, 1⟩, fcs ⟨.mfsr, 4, 0, 0, 1⟩, by decide +kernel⟩

theorem witness_flowControlTransfer_11 : ∃ (c : CoreId) (n : ThreadId) (th : Thr) (i : FcI) (s : State),
    Issues s c.val n.val .ftread th i :=
  ⟨0, 0, fthr, ⟨.ftread, 4, 0, 0, 0⟩, fcs ⟨.ftread, 4, 0, 0, 0⟩, by decide +kernel⟩

theorem witness_flowControlTransfer_12 : ∃ (c : CoreId) (n : ThreadId) (th : Thr) (i : FcI) (s : State),
    (Issues s c.val n.val .csum th i) ∧ ((wget th i.c.val).toNat ≤ 4096) ∧
      ((wget th i.c.val).toNat = 0 ∨ inSlice s c.val n.val (wget th i.b.val).toNat (wget th i.c.val).toNat = true) ∧
      (heldBytes th (wget th i.b.val).toNat (wget th i.c.val).toNat = false) ∧ (i.lo.val = 0) :=
  ⟨0, 0, fthr, ⟨.csum, 4, 1, 3, 0⟩, fcs ⟨.csum, 4, 1, 3, 0⟩, by decide +kernel⟩

theorem witness_flowControlTransfer_13 : ∃ (c : CoreId) (n : ThreadId) (th : Thr) (i : FcI) (s : State),
    Issues s c.val n.val .chw th i :=
  ⟨0, 0, fthr, ⟨.chw, 0, 2, 0, 3⟩, fcs ⟨.chw, 0, 2, 0, 3⟩, by decide +kernel⟩

theorem witness_flowLoadsAndStores_1 : ∃ (c : CoreId) (n : ThreadId) (th : Thr) (i : FcI) (s : State),
    (Issues s c.val n.val .ldb th i) ∧
      (inSlice s c.val n.val ((wget th i.b.val) + (BitVec.signExtend 64 (BitVec.ofNat 16 i.imm))).toNat 1 = true) ∧
      (heldBytes th ((wget th i.b.val) + (BitVec.signExtend 64 (BitVec.ofNat 16 i.imm))).toNat 1 = false) :=
  ⟨0, 0, fthr, ⟨.ldb, 4, 1, 0, 8⟩, fcs ⟨.ldb, 4, 1, 0, 8⟩, by decide +kernel⟩

theorem witness_flowLoadsAndStores_2 : ∃ (c : CoreId) (n : ThreadId) (th : Thr) (i : FcI) (e : LmErr) (s : State),
    (Issues s c.val n.val .ldb th i) ∧
      (inSlice s c.val n.val ((wget th i.b.val) + (BitVec.signExtend 64 (BitVec.ofNat 16 i.imm))).toNat 1 = false) :=
  ⟨0, 0, fthr, ⟨.ldb, 4, 1, 4, 0⟩, .lost, fcs ⟨.ldb, 4, 1, 4, 0⟩, by decide +kernel⟩

theorem witness_flowLoadsAndStores_3 : ∃ (c : CoreId) (n : ThreadId) (th : Thr) (i : FcI) (s : State),
    (Issues s c.val n.val .ldh th i) ∧
      (inSlice s c.val n.val ((wget th i.b.val) + (BitVec.signExtend 64 (BitVec.ofNat 16 i.imm))).toNat 2 = true) ∧
      (heldBytes th ((wget th i.b.val) + (BitVec.signExtend 64 (BitVec.ofNat 16 i.imm))).toNat 2 = false) :=
  ⟨0, 0, fthr, ⟨.ldh, 4, 1, 0, 8⟩, fcs ⟨.ldh, 4, 1, 0, 8⟩, by decide +kernel⟩

theorem witness_flowLoadsAndStores_4 : ∃ (c : CoreId) (n : ThreadId) (th : Thr) (i : FcI) (e : LmErr) (s : State),
    (Issues s c.val n.val .ldh th i) ∧
      (inSlice s c.val n.val ((wget th i.b.val) + (BitVec.signExtend 64 (BitVec.ofNat 16 i.imm))).toNat 2 = false) :=
  ⟨0, 0, fthr, ⟨.ldh, 4, 1, 4, 0⟩, .lost, fcs ⟨.ldh, 4, 1, 4, 0⟩, by decide +kernel⟩

theorem witness_flowLoadsAndStores_5 : ∃ (c : CoreId) (n : ThreadId) (th : Thr) (i : FcI) (s : State),
    (Issues s c.val n.val .ldw th i) ∧
      (inSlice s c.val n.val ((wget th i.b.val) + (BitVec.signExtend 64 (BitVec.ofNat 16 i.imm))).toNat 4 = true) ∧
      (heldBytes th ((wget th i.b.val) + (BitVec.signExtend 64 (BitVec.ofNat 16 i.imm))).toNat 4 = false) :=
  ⟨0, 0, fthr, ⟨.ldw, 4, 1, 0, 8⟩, fcs ⟨.ldw, 4, 1, 0, 8⟩, by decide +kernel⟩

theorem witness_flowLoadsAndStores_6 : ∃ (c : CoreId) (n : ThreadId) (th : Thr) (i : FcI) (e : LmErr) (s : State),
    (Issues s c.val n.val .ldw th i) ∧
      (inSlice s c.val n.val ((wget th i.b.val) + (BitVec.signExtend 64 (BitVec.ofNat 16 i.imm))).toNat 4 = false) :=
  ⟨0, 0, fthr, ⟨.ldw, 4, 1, 4, 0⟩, .lost, fcs ⟨.ldw, 4, 1, 4, 0⟩, by decide +kernel⟩

theorem witness_flowLoadsAndStores_7 : ∃ (c : CoreId) (n : ThreadId) (th : Thr) (i : FcI) (s : State),
    (Issues s c.val n.val .ldd th i) ∧
      (inSlice s c.val n.val ((wget th i.b.val) + (BitVec.signExtend 64 (BitVec.ofNat 16 i.imm))).toNat 8 = true) ∧
      (heldBytes th ((wget th i.b.val) + (BitVec.signExtend 64 (BitVec.ofNat 16 i.imm))).toNat 8 = false) :=
  ⟨0, 0, fthr, ⟨.ldd, 4, 1, 0, 8⟩, fcs ⟨.ldd, 4, 1, 0, 8⟩, by decide +kernel⟩

theorem witness_flowLoadsAndStores_8 : ∃ (c : CoreId) (n : ThreadId) (th : Thr) (i : FcI) (e : LmErr) (s : State),
    (Issues s c.val n.val .ldd th i) ∧
      (inSlice s c.val n.val ((wget th i.b.val) + (BitVec.signExtend 64 (BitVec.ofNat 16 i.imm))).toNat 8 = false) :=
  ⟨0, 0, fthr, ⟨.ldd, 4, 1, 4, 0⟩, .lost, fcs ⟨.ldd, 4, 1, 4, 0⟩, by decide +kernel⟩

theorem witness_flowLoadsAndStores_9 : ∃ (c : CoreId) (n : ThreadId) (th : Thr) (i : FcI) (s : State),
    (Issues s c.val n.val .ldhs th i) ∧
      (inSlice s c.val n.val ((wget th i.b.val) + (BitVec.signExtend 64 (BitVec.ofNat 16 i.imm))).toNat 2 = true) ∧
      (heldBytes th ((wget th i.b.val) + (BitVec.signExtend 64 (BitVec.ofNat 16 i.imm))).toNat 2 = false) :=
  ⟨0, 0, fthr, ⟨.ldhs, 4, 1, 0, 8⟩, fcs ⟨.ldhs, 4, 1, 0, 8⟩, by decide +kernel⟩

theorem witness_flowLoadsAndStores_10 : ∃ (c : CoreId) (n : ThreadId) (th : Thr) (i : FcI) (e : LmErr) (s : State),
    (Issues s c.val n.val .ldhs th i) ∧
      (inSlice s c.val n.val ((wget th i.b.val) + (BitVec.signExtend 64 (BitVec.ofNat 16 i.imm))).toNat 2 = false) :=
  ⟨0, 0, fthr, ⟨.ldhs, 4, 1, 4, 0⟩, .lost, fcs ⟨.ldhs, 4, 1, 4, 0⟩, by decide +kernel⟩

theorem witness_flowLoadsAndStores_11 : ∃ (c : CoreId) (n : ThreadId) (th : Thr) (i : FcI) (s : State),
    (Issues s c.val n.val .ldws th i) ∧
      (inSlice s c.val n.val ((wget th i.b.val) + (BitVec.signExtend 64 (BitVec.ofNat 16 i.imm))).toNat 4 = true) ∧
      (heldBytes th ((wget th i.b.val) + (BitVec.signExtend 64 (BitVec.ofNat 16 i.imm))).toNat 4 = false) :=
  ⟨0, 0, fthr, ⟨.ldws, 4, 1, 0, 8⟩, fcs ⟨.ldws, 4, 1, 0, 8⟩, by decide +kernel⟩

theorem witness_flowLoadsAndStores_12 : ∃ (c : CoreId) (n : ThreadId) (th : Thr) (i : FcI) (e : LmErr) (s : State),
    (Issues s c.val n.val .ldws th i) ∧
      (inSlice s c.val n.val ((wget th i.b.val) + (BitVec.signExtend 64 (BitVec.ofNat 16 i.imm))).toNat 4 = false) :=
  ⟨0, 0, fthr, ⟨.ldws, 4, 1, 4, 0⟩, .lost, fcs ⟨.ldws, 4, 1, 4, 0⟩, by decide +kernel⟩

theorem witness_flowLoadsAndStores_13 : ∃ (c : CoreId) (n : ThreadId) (th : Thr) (i : FcI) (s : State),
    (Issues s c.val n.val .ldds th i) ∧
      (inSlice s c.val n.val ((wget th i.b.val) + (BitVec.signExtend 64 (BitVec.ofNat 16 i.imm))).toNat 8 = true) ∧
      (heldBytes th ((wget th i.b.val) + (BitVec.signExtend 64 (BitVec.ofNat 16 i.imm))).toNat 8 = false) :=
  ⟨0, 0, fthr, ⟨.ldds, 4, 1, 0, 8⟩, fcs ⟨.ldds, 4, 1, 0, 8⟩, by decide +kernel⟩

theorem witness_flowLoadsAndStores_14 : ∃ (c : CoreId) (n : ThreadId) (th : Thr) (i : FcI) (e : LmErr) (s : State),
    (Issues s c.val n.val .ldds th i) ∧
      (inSlice s c.val n.val ((wget th i.b.val) + (BitVec.signExtend 64 (BitVec.ofNat 16 i.imm))).toNat 8 = false) :=
  ⟨0, 0, fthr, ⟨.ldds, 4, 1, 4, 0⟩, .lost, fcs ⟨.ldds, 4, 1, 4, 0⟩, by decide +kernel⟩

theorem witness_flowLoadsAndStores_15 : ∃ (c : CoreId) (n : ThreadId) (th : Thr) (i : FcI) (s : State),
    (Issues s c.val n.val .ldw th i) ∧
      (inSlice s c.val n.val ((wget th i.b.val) + (BitVec.signExtend 64 (BitVec.ofNat 16 i.imm))).toNat 4 = true) ∧
      (heldBytes th ((wget th i.b.val) + (BitVec.signExtend 64 (BitVec.ofNat 16 i.imm))).toNat 4 = false) :=
  ⟨0, 0, fthr, ⟨.ldw, 4, 1, 0, 8⟩, fcs ⟨.ldw, 4, 1, 0, 8⟩, by decide +kernel⟩

theorem witness_flowLoadsAndStores_16 : ∃ (c : CoreId) (n : ThreadId) (th : Thr) (i : FcI) (s : State),
    (Issues s c.val n.val .stb th i) ∧
      (inSlice s c.val n.val ((wget th i.b.val) + (BitVec.signExtend 64 (BitVec.ofNat 16 i.imm))).toNat 1 = true) ∧
      (heldBytes th ((wget th i.b.val) + (BitVec.signExtend 64 (BitVec.ofNat 16 i.imm))).toNat 1 = false) :=
  ⟨0, 0, fthr, ⟨.stb, 2, 1, 0, 8⟩, fcs ⟨.stb, 2, 1, 0, 8⟩, by decide +kernel⟩

theorem witness_flowLoadsAndStores_17 : ∃ (c : CoreId) (n : ThreadId) (th : Thr) (i : FcI) (e : LmErr) (s : State),
    (Issues s c.val n.val .stb th i) ∧
      (inSlice s c.val n.val ((wget th i.b.val) + (BitVec.signExtend 64 (BitVec.ofNat 16 i.imm))).toNat 1 = false) :=
  ⟨0, 0, fthr, ⟨.stb, 4, 1, 4, 0⟩, .lost, fcs ⟨.stb, 4, 1, 4, 0⟩, by decide +kernel⟩

theorem witness_flowLoadsAndStores_18 : ∃ (c : CoreId) (n : ThreadId) (th : Thr) (i : FcI) (s : State),
    (Issues s c.val n.val .sth th i) ∧
      (inSlice s c.val n.val ((wget th i.b.val) + (BitVec.signExtend 64 (BitVec.ofNat 16 i.imm))).toNat 2 = true) ∧
      (heldBytes th ((wget th i.b.val) + (BitVec.signExtend 64 (BitVec.ofNat 16 i.imm))).toNat 2 = false) :=
  ⟨0, 0, fthr, ⟨.sth, 2, 1, 0, 8⟩, fcs ⟨.sth, 2, 1, 0, 8⟩, by decide +kernel⟩

theorem witness_flowLoadsAndStores_19 : ∃ (c : CoreId) (n : ThreadId) (th : Thr) (i : FcI) (e : LmErr) (s : State),
    (Issues s c.val n.val .sth th i) ∧
      (inSlice s c.val n.val ((wget th i.b.val) + (BitVec.signExtend 64 (BitVec.ofNat 16 i.imm))).toNat 2 = false) :=
  ⟨0, 0, fthr, ⟨.sth, 4, 1, 4, 0⟩, .lost, fcs ⟨.sth, 4, 1, 4, 0⟩, by decide +kernel⟩

theorem witness_flowLoadsAndStores_20 : ∃ (c : CoreId) (n : ThreadId) (th : Thr) (i : FcI) (s : State),
    (Issues s c.val n.val .stw th i) ∧
      (inSlice s c.val n.val ((wget th i.b.val) + (BitVec.signExtend 64 (BitVec.ofNat 16 i.imm))).toNat 4 = true) ∧
      (heldBytes th ((wget th i.b.val) + (BitVec.signExtend 64 (BitVec.ofNat 16 i.imm))).toNat 4 = false) :=
  ⟨0, 0, fthr, ⟨.stw, 2, 1, 0, 8⟩, fcs ⟨.stw, 2, 1, 0, 8⟩, by decide +kernel⟩

theorem witness_flowLoadsAndStores_21 : ∃ (c : CoreId) (n : ThreadId) (th : Thr) (i : FcI) (e : LmErr) (s : State),
    (Issues s c.val n.val .stw th i) ∧
      (inSlice s c.val n.val ((wget th i.b.val) + (BitVec.signExtend 64 (BitVec.ofNat 16 i.imm))).toNat 4 = false) :=
  ⟨0, 0, fthr, ⟨.stw, 4, 1, 4, 0⟩, .lost, fcs ⟨.stw, 4, 1, 4, 0⟩, by decide +kernel⟩

theorem witness_flowLoadsAndStores_22 : ∃ (c : CoreId) (n : ThreadId) (th : Thr) (i : FcI) (s : State),
    (Issues s c.val n.val .std th i) ∧
      (inSlice s c.val n.val ((wget th i.b.val) + (BitVec.signExtend 64 (BitVec.ofNat 16 i.imm))).toNat 8 = true) ∧
      (heldBytes th ((wget th i.b.val) + (BitVec.signExtend 64 (BitVec.ofNat 16 i.imm))).toNat 8 = false) :=
  ⟨0, 0, fthr, ⟨.std, 2, 1, 0, 8⟩, fcs ⟨.std, 2, 1, 0, 8⟩, by decide +kernel⟩

theorem witness_flowLoadsAndStores_23 : ∃ (c : CoreId) (n : ThreadId) (th : Thr) (i : FcI) (e : LmErr) (s : State),
    (Issues s c.val n.val .std th i) ∧
      (inSlice s c.val n.val ((wget th i.b.val) + (BitVec.signExtend 64 (BitVec.ofNat 16 i.imm))).toNat 8 = false) :=
  ⟨0, 0, fthr, ⟨.std, 4, 1, 4, 0⟩, .lost, fcs ⟨.std, 4, 1, 4, 0⟩, by decide +kernel⟩

theorem witness_flowLoadsAndStores_24 : ∃ (c : CoreId) (n : ThreadId) (th : Thr) (i : FcI) (s : State),
    (Issues s c.val n.val .sths th i) ∧
      (inSlice s c.val n.val ((wget th i.b.val) + (BitVec.signExtend 64 (BitVec.ofNat 16 i.imm))).toNat 2 = true) ∧
      (heldBytes th ((wget th i.b.val) + (BitVec.signExtend 64 (BitVec.ofNat 16 i.imm))).toNat 2 = false) :=
  ⟨0, 0, fthr, ⟨.sths, 2, 1, 0, 8⟩, fcs ⟨.sths, 2, 1, 0, 8⟩, by decide +kernel⟩

theorem witness_flowLoadsAndStores_25 : ∃ (c : CoreId) (n : ThreadId) (th : Thr) (i : FcI) (e : LmErr) (s : State),
    (Issues s c.val n.val .sths th i) ∧
      (inSlice s c.val n.val ((wget th i.b.val) + (BitVec.signExtend 64 (BitVec.ofNat 16 i.imm))).toNat 2 = false) :=
  ⟨0, 0, fthr, ⟨.sths, 4, 1, 4, 0⟩, .lost, fcs ⟨.sths, 4, 1, 4, 0⟩, by decide +kernel⟩

theorem witness_flowLoadsAndStores_26 : ∃ (c : CoreId) (n : ThreadId) (th : Thr) (i : FcI) (s : State),
    (Issues s c.val n.val .stws th i) ∧
      (inSlice s c.val n.val ((wget th i.b.val) + (BitVec.signExtend 64 (BitVec.ofNat 16 i.imm))).toNat 4 = true) ∧
      (heldBytes th ((wget th i.b.val) + (BitVec.signExtend 64 (BitVec.ofNat 16 i.imm))).toNat 4 = false) :=
  ⟨0, 0, fthr, ⟨.stws, 2, 1, 0, 8⟩, fcs ⟨.stws, 2, 1, 0, 8⟩, by decide +kernel⟩

theorem witness_flowLoadsAndStores_27 : ∃ (c : CoreId) (n : ThreadId) (th : Thr) (i : FcI) (e : LmErr) (s : State),
    (Issues s c.val n.val .stws th i) ∧
      (inSlice s c.val n.val ((wget th i.b.val) + (BitVec.signExtend 64 (BitVec.ofNat 16 i.imm))).toNat 4 = false) :=
  ⟨0, 0, fthr, ⟨.stws, 4, 1, 4, 0⟩, .lost, fcs ⟨.stws, 4, 1, 4, 0⟩, by decide +kernel⟩

theorem witness_flowLoadsAndStores_28 : ∃ (c : CoreId) (n : ThreadId) (th : Thr) (i : FcI) (s : State),
    (Issues s c.val n.val .stw th i) ∧
      (inSlice s c.val n.val ((wget th i.b.val) + (BitVec.signExtend 64 (BitVec.ofNat 16 i.imm))).toNat 4 = true) ∧
      (heldBytes th ((wget th i.b.val) + (BitVec.signExtend 64 (BitVec.ofNat 16 i.imm))).toNat 4 = false) :=
  ⟨0, 0, fthr, ⟨.stw, 2, 1, 0, 8⟩, fcs ⟨.stw, 2, 1, 0, 8⟩, by decide +kernel⟩

theorem witness_flowEventsAndTimer_1 : ∃ (c : CoreId) (n : ThreadId) (th : Thr) (i : FcI) (s : State),
    (Issues s c.val n.val .evwait th i) ∧ (Nat.land th.ev ((wget th i.b.val).toNat % 2 ^ 32) ≠ 0) :=
  ⟨0, 0, { fthr with ev := 3 }, ⟨.evwait, 4, 2, 0, 0⟩, fcw (fcEncode ⟨.evwait, 4, 2, 0, 0⟩).toNat { fthr with ev := 3 }, by decide +kernel⟩

theorem witness_flowEventsAndTimer_2 : ∃ (c : CoreId) (n : ThreadId) (th : Thr) (i : FcI) (s : State),
    (Issues s c.val n.val .evwait th i) ∧ (Nat.land th.ev ((wget th i.b.val).toNat % 2 ^ 32) = 0) ∧
      ((wget th i.b.val).toNat % 2 ^ 32 ≠ 0) ∧ (th.stepping = false) ∧
      (bitOf ((wget th i.b.val).toNat % 2 ^ 32) 16 = true ∨ bitOf ((wget th i.b.val).toNat % 2 ^ 32) 17 = true) :=
  ⟨0, 0, { fthr with regs := [(2, 0x10000)] }, ⟨.evwait, 4, 2, 0, 0⟩, fcw (fcEncode ⟨.evwait, 4, 2, 0, 0⟩).toNat { fthr with regs := [(2, 0x10000)] }, by decide +kernel⟩

theorem witness_flowEventsAndTimer_3 : ∃ (c : CoreId) (n : ThreadId) (th : Thr) (i : FcI) (s : State),
    (Issues s c.val n.val .evwait th i) ∧ (Nat.land th.ev ((wget th i.b.val).toNat % 2 ^ 32) = 0) ∧
      ((wget th i.b.val).toNat % 2 ^ 32 ≠ 0) ∧ (th.stepping = false) ∧ (th.wd = none) ∧
      (bitOf ((wget th i.b.val).toNat % 2 ^ 32) 16 = false ∧ bitOf ((wget th i.b.val).toNat % 2 ^ 32) 17 = false) :=
  ⟨0, 0, fthr, ⟨.evwait, 4, 2, 0, 0⟩, fcs ⟨.evwait, 4, 2, 0, 0⟩, by decide +kernel⟩

theorem witness_flowEventsAndTimer_4 : ∃ (c : CoreId) (n : ThreadId) (th : Thr) (i : FcI) (s : State),
    (Issues s c.val n.val .evsend th i) ∧ (bitsOf (wget th i.b.val).toNat 23 16 = 255) ∧ (i.imm % 32 < 16) ∧
      ((coreOf s c.val).st = .running) ∧
      ((thrOf (next1 s c.val n.val th) c.val ((wget th i.b.val).toNat % 16)).st = .running ∨ (thrOf (next1 s c.val
          n.val th) c.val ((wget th i.b.val).toNat % 16)).st = .waiting) :=
  ⟨0, 0, { fthr with regs := [(2, 0xFF0000)] }, ⟨.evsend, 0, 2, 0, 5⟩, fcw (fcEncode ⟨.evsend, 0, 2, 0, 5⟩).toNat { fthr with regs := [(2, 0xFF0000)] }, by decide +kernel⟩

theorem witness_flowEventsAndTimer_5 : ∃ (c : CoreId) (n : ThreadId) (th : Thr) (i : FcI) (s : State),
    (Issues s c.val n.val .tmset th i) ∧ ((wget th i.b.val).toNat % 2 ^ 32 ≠ 0) :=
  ⟨0, 0, fthr, ⟨.tmset, 0, 2, 0, 0⟩, fcs ⟨.tmset, 0, 2, 0, 0⟩, by decide +kernel⟩

theorem witness_flowEventsAndTimer_6 : ∃ (c : CoreId) (n : ThreadId) (th : Thr) (i : FcI) (s : State),
    (Issues s c.val n.val .tmset th i) ∧ ((wget th i.b.val).toNat % 2 ^ 32 = 0) :=
  ⟨0, 0, fthr, ⟨.tmset, 0, 5, 0, 0⟩, fcs ⟨.tmset, 0, 5, 0, 0⟩, by decide +kernel⟩

theorem witness_flowEventsAndTimer_7 : ∃ (c : CoreId) (n : ThreadId) (d : Nat) (s : State),
    ((thrOf s c.val n.val).timer = some d) ∧ (d ≤ s.clk) ∧ ((thrOf s c.val n.val).st ≠ .empty) :=
  ⟨0, 0, 5, { live with cores := [(0, { st := .running, threads := [(0, { fthr with timer := some 5 })] })] }, by decide +kernel⟩

theorem witness_flowEventsAndTimer_8 : ∃ (c : CoreId) (n : ThreadId) (w : Nat) (s : State),
    ((thrOf s c.val n.val).wd = some w) ∧ (rd s F.FC_WDOG_EN 0 c.val = 1) ∧
      (watched (thrOf s c.val n.val) = true) ∧ (w + usec (rd s F.FC_WDOG_LIMIT 0 c.val) ≤ wdClock s) :=
  ⟨0, 0, 5, { live with cores := [(0, { st := .running, threads := [(0, { fthr with wd := some 5, postWait := true })] })] }, by decide +kernel⟩

theorem witness_flowEventsAndTimer_9 : ∃ (c : CoreId) (s : State),
    ((coreOf s c.val).st = .running) ∧ (mutualWait (coreOf s c.val) = true) ∧
      ((coreOf s c.val).lastAct + 512000 ≤ s.clk) ∧ ((coreOf s c.val).restarts = []) ∧
      ((coreOf s c.val).held = []) ∧ (ringsOf s c.val = []) ∧ (∀ x ∈ (coreOf s c.val).threads, x.2.inbox = []) ∧
      (1 ≤ rd s F.FC_FAULT_POLICY_RESTART_MAX 0 c.val) ∧ (anyHalted s = false) ∧ (s.dbg.haltSince = none) :=
  ⟨0, { live with cores := [(0, { st := .running, threads := [(0, { st := .waiting, wait := some (3, 1) })] })] }, by decide +kernel⟩

theorem witness_flowEventsAndTimer_10 : ∃ (c : CoreId) (n : ThreadId) (w : Nat) (s : State),
    ((thrOf s c.val n.val).wd = some w) ∧ (rd s F.FC_WDOG_EN 0 c.val = 1) ∧
      (watched (thrOf s c.val n.val) = true) ∧ (w + usec (rd s F.FC_WDOG_LIMIT 0 c.val) ≤ wdClock s) ∧
      (2 ≤ rd s F.FC_FAULT_POLICY_POLICY 0 c.val) :=
  ⟨0, 0, 5, wr ({ live with cores := [(0, { st := .running, threads := [(0, { fthr with wd := some 5, postWait := true })] })] }) F.FC_FAULT_POLICY_POLICY 0 0 2, by decide +kernel⟩

theorem witness_flowUnitRequests_1 : ∃ (c : CoreId) (n : ThreadId) (th : Thr) (i : FcI) (s : State),
    Issues s c.val n.val .hmap th i :=
  ⟨0, 0, fthr, ⟨.hmap, 4, 1, 2, 0⟩, fcs ⟨.hmap, 4, 1, 2, 0⟩, by decide +kernel⟩

theorem witness_flowUnitRequests_2 : ∃ (c : CoreId) (n : ThreadId) (th : Thr) (i : FcI) (s : State),
    Issues s c.val n.val .hput th i :=
  ⟨0, 0, fthr, ⟨.hput, 4, 1, 2, 0⟩, fcs ⟨.hput, 4, 1, 2, 0⟩, by decide +kernel⟩

theorem witness_flowUnitRequests_3 : ∃ (c : CoreId) (n : ThreadId) (th : Thr) (i : FcI) (s : State),
    Issues s c.val n.val .balloc th i :=
  ⟨0, 0, fthr, ⟨.balloc, 4, 1, 0, 0⟩, fcs ⟨.balloc, 4, 1, 0, 0⟩, by decide +kernel⟩

theorem witness_flowUnitRequests_4 : ∃ (c : CoreId) (n : ThreadId) (th : Thr) (i : FcI) (e : Ecc) (lm : LmErr) (s : State),
    (thrOf s c.val n.val = th) ∧ (th.stall = some (fcEncode i).toNat) ∧ (i.wf = true) ∧ (i.op = .hmap) ∧
      (running s = true) ∧ (holds s c.val (wget th i.b.val).toNat = false) :=
  ⟨0, 0, { fthr with stall := some (fcEncode ⟨.hmap, 4, 1, 2, 0⟩).toNat }, ⟨.hmap, 4, 1, 2, 0⟩, {}, .ok, { live with cores := [(0, { st := .running, threads := [(0, { fthr with stall := some (fcEncode ⟨.hmap, 4, 1, 2, 0⟩).toNat })] })] }, by decide +kernel⟩

theorem witness_flowUnitRequests_5 : ∃ (c : CoreId) (n : ThreadId) (th : Thr) (i : FcI) (e : Ecc) (lm : LmErr) (s : State),
    (thrOf s c.val n.val = th) ∧ (th.stall = some (fcEncode i).toNat) ∧ (i.wf = true) ∧ (i.op = .hput) ∧
      (running s = true) ∧ (holds s c.val (wget th i.b.val).toNat = true) ∧
      ((wget th i.c.val).toNat + i.lo.val / 2 + 1 ≤ poolSize (bPool (wget th i.b.val).toNat)) ∧ (lm = .ok) ∧
      (e = {}) :=
  ⟨0, 0, { fthr with stall := some (fcEncode ⟨.hput, 4, 1, 3, 2⟩).toNat }, ⟨.hput, 4, 1, 3, 2⟩, {}, .ok, { live with cores := [(0, { st := .running, threads := [(0, { fthr with stall := some (fcEncode ⟨.hput, 4, 1, 3, 2⟩).toNat })], held := [(32, 0)], slices := [(0, 4096)] })] }, by decide +kernel⟩

theorem witness_flowUnitRequests_6 : ∃ (c : CoreId) (n : ThreadId) (th : Thr) (i : FcI) (e : Ecc) (lm : LmErr) (s : State),
    (thrOf s c.val n.val = th) ∧ (th.stall = some (fcEncode i).toNat) ∧ (i.wf = true) ∧ (i.op = .balloc) ∧
      (running s = true) ∧ (64 ≤ ((coreOf s c.val).held.filter (·.2 = n.val)).length) :=
  ⟨0, 0, { fthr with stall := some (fcEncode ⟨.balloc, 4, 1, 0, 0⟩).toNat }, ⟨.balloc, 4, 1, 0, 0⟩, {}, .ok, { live with cores := [(0, { st := .running, threads := [(0, { fthr with stall := some (fcEncode ⟨.balloc, 4, 1, 0, 0⟩).toNat })], held := List.replicate 64 (32, 0) })] }, by decide +kernel⟩

theorem witness_flowUnitRequests_7 : ∃ (c : CoreId) (n : ThreadId) (th : Thr) (i : FcI) (s : State),
    (Issues s c.val n.val .bfree th i) ∧ ((bufFree s (regHandle (wget th i.b.val)) (clusterReq c.val)).1 = none) :=
  ⟨0, 0, fthr, ⟨.bfree, 4, 1, 0, 0⟩, fcb ⟨.bfree, 4, 1, 0, 0⟩, by decide +kernel⟩

theorem witness_flowUnitRequests_8 : ∃ (c : CoreId) (n : ThreadId) (th : Thr) (i : FcI) (e : Status) (s : State),
    (Issues s c.val n.val .bfree th i) ∧ ((bufFree s (regHandle (wget th i.b.val)) (clusterReq c.val)).1 = some e) :=
  ⟨0, 0, fthr, ⟨.bfree, 4, 1, 0, 0⟩, .bufDoubleFree, fcb2 ⟨.bfree, 4, 1, 0, 0⟩, by decide +kernel⟩

theorem witness_flowUnitRequests_9 : ∃ (c : CoreId) (n : ThreadId) (th : Thr) (i : FcI) (s : State),
    (Issues s c.val n.val .bxfer th i) ∧ (4145 < (wget th i.c.val).toNat) :=
  ⟨0, 0, { fthr with regs := [(6, 5000)] }, ⟨.bxfer, 4, 1, 6, 1⟩, fcw (fcEncode ⟨.bxfer, 4, 1, 6, 1⟩).toNat { fthr with regs := [(6, 5000)] }, by decide +kernel⟩

theorem witness_flowUnitRequests_10 : ∃ (c : CoreId) (n : ThreadId) (th : Thr) (i : FcI) (s : State),
    (Issues s c.val n.val .bxfer th i) ∧ ((wget th i.c.val).toNat ≤ 4145) ∧
      ((wget th i.c.val).toNat ≠ clusterReq c.val) ∧
      ((bufTransfer s (regHandle (wget th i.b.val)) (clusterReq c.val) (wget th i.c.val).toNat).1 = none) :=
  ⟨0, 0, { fthr with regs := [(1, 0x20), (3, 4129)] }, ⟨.bxfer, 4, 1, 3, 1⟩, { fcw (fcEncode ⟨.bxfer, 4, 1, 3, 1⟩).toNat { fthr with regs := [(1, 0x20), (3, 4129)] } with coop := { ready := true, bufs := [(32, ⟨.owned, 4128⟩)] } }, by decide +kernel⟩

theorem witness_flowUnitRequests_11 : ∃ (c : CoreId) (n : ThreadId) (th : Thr) (i : FcI) (s : State),
    (Issues s c.val n.val .crypt th i) ∧ (inSlice s c.val n.val (wget th i.b.val).toNat 32 = true) ∧
      ((wget th i.b.val).toNat % 16 = 0) ∧ (th.lsOut < 8) :=
  ⟨0, 0, fthr, ⟨.crypt, 0, 1, 0, 0⟩, fcs ⟨.crypt, 0, 1, 0, 0⟩, by decide +kernel⟩

theorem witness_flowUnitRequests_12 : ∃ (c : CoreId) (n : ThreadId) (th : Thr) (i : FcI) (s : State),
    (Issues s c.val n.val .crypt th i) ∧ (inSlice s c.val n.val (wget th i.b.val).toNat 32 = true) ∧
      ((wget th i.b.val).toNat % 16 ≠ 0) :=
  ⟨0, 0, fthr, ⟨.crypt, 0, 2, 0, 0⟩, fcs ⟨.crypt, 0, 2, 0, 0⟩, by decide +kernel⟩

theorem witness_flowUnitRequests_13 : ∃ (c : CoreId) (n : ThreadId) (th : Thr) (i : FcI) (s : State),
    (Issues s c.val n.val .gfmul th i) ∧ (inSlice s c.val n.val (wget th i.b.val).toNat 32 = true) ∧
      ((wget th i.b.val).toNat % 16 = 0) ∧ (th.lsOut < 8) :=
  ⟨0, 0, fthr, ⟨.gfmul, 0, 1, 0, 0⟩, fcs ⟨.gfmul, 0, 1, 0, 0⟩, by decide +kernel⟩

theorem witness_flowUnitRequests_14 : ∃ (c : CoreId) (n : ThreadId) (th : Thr) (i : FcI) (s : State),
    (Issues s c.val n.val .gfmul th i) ∧ (inSlice s c.val n.val (wget th i.b.val).toNat 32 = true) ∧
      ((wget th i.b.val).toNat % 16 ≠ 0) :=
  ⟨0, 0, fthr, ⟨.gfmul, 0, 2, 0, 0⟩, fcs ⟨.gfmul, 0, 2, 0, 0⟩, by decide +kernel⟩

theorem witness_flowUnitRequests_15 : ∃ (c : CoreId) (n : ThreadId) (th : Thr) (i : FcI) (s : State),
    (Issues s c.val n.val .tbl th i) ∧ (inSlice s c.val n.val (wget th i.b.val).toNat 64 = true) ∧
      ((wget th i.b.val).toNat % 64 = 0) ∧ (th.tblOut = false) :=
  ⟨0, 0, fthr, ⟨.tbl, 0, 5, 1, 0⟩, fcs ⟨.tbl, 0, 5, 1, 0⟩, by decide +kernel⟩

theorem witness_flowUnitRequests_16 : ∃ (c : CoreId) (n : ThreadId) (x : List Nat) (q : TblReq) (s : State),
    (s.tblq = [q]) ∧ (q.core = c.val ∧ q.thread = n.val) ∧ (running s = true) ∧
      ((thrOf s c.val n.val).holds = [(q.id, q.addr, 64)]) ∧ (q.fixed = true) :=
  ⟨0, 0, [], { id := 1, core := 0, thread := 0, table := 0, op := 0, evict := false, index := 0, addr := 64, fixed := true }, { live with tblq := [{ id := 1, core := 0, thread := 0, table := 0, op := 0, evict := false, index := 0, addr := 64, fixed := true }], cores := [(0, { st := .running, threads := [(0, { fthr with holds := [(1, 64, 64)] })], slices := [(0, 4096)] })] }, by decide +kernel⟩

theorem witness_flowUnitRequests_17 : ∃ (c : CoreId) (n : ThreadId) (x : List Nat) (q : TblReq) (s : State),
    (s.tblq = [q]) ∧ (q.core = c.val ∧ q.thread = n.val) ∧ (running s = true) ∧
      ((thrOf s c.val n.val).holds = [(q.id, q.addr, 64)]) ∧ (q.fixed = false) ∧ (q.op ≠ 5) ∧ (q.ahead = []) ∧
      (x = []) :=
  ⟨0, 0, [], { id := 1, core := 0, thread := 0, table := 0, op := 0, evict := false, index := 0, addr := 0x180, ws := List.replicate 16 0 }, { live with tblq := [{ id := 1, core := 0, thread := 0, table := 0, op := 0, evict := false, index := 0, addr := 0x180, ws := List.replicate 16 0 }], cores := [(0, { st := .running, threads := [(0, { fthr with holds := [(1, 0x180, 64)] })], slices := [(0, 4096)] })] }, by decide +kernel⟩

theorem witness_flowUnitRequests_18 : ∃ (c : CoreId) (n : ThreadId) (th : Thr) (i : FcI) (s : State),
    (Issues s c.val n.val .hmap th i) ∧ (holds s c.val (wget th i.b.val).toNat = true) ∧
      ((wget th i.c.val).toNat ≤ (poolSize (bPool (wget th i.b.val).toNat))) ∧ (running s = true) :=
  ⟨0, 0, fthr, ⟨.hmap, 4, 1, 3, 0⟩, fch ⟨.hmap, 4, 1, 3, 0⟩, by decide +kernel⟩

theorem witness_flowUnitRequests_19 : ∃ (c : CoreId) (n : ThreadId) (th : Thr) (i : FcI) (s : State),
    (Issues s c.val n.val .hput th i) ∧ (holds s c.val (wget th i.b.val).toNat = true) ∧
      ((wget th i.c.val).toNat + (i.lo.val / 2 + 1) ≤ (poolSize (bPool (wget th i.b.val).toNat))) ∧
      (running s = true) :=
  ⟨0, 0, fthr, ⟨.hput, 4, 1, 3, 2⟩, fch ⟨.hput, 4, 1, 3, 2⟩, by decide +kernel⟩

theorem witness_flowUnitRequests_20 : ∃ (c : CoreId) (n : ThreadId) (th : Thr) (i : FcI) (b : Nat) (s : State),
    (Issues s c.val n.val .balloc th i) ∧
      (((coreOf s c.val).held.filter (·.2 = n.val)).length < 64 ∧ (coreOf s c.val).held.length < 1024) ∧
      (i.imm / 2 ^ 14 ≠ 1) ∧ (1 ≤ (wget th i.b.val).toNat ∧ (wget th i.b.val).toNat ≤ 65536) ∧
      ((alloc s (clusterReq c.val) (wget th i.b.val).toNat).1.toOption = some b) ∧ (running s = true) :=
  ⟨0, 0, fthr, ⟨.balloc, 4, 1, 0, 0⟩, 32, { fcs ⟨.balloc, 4, 1, 0, 0⟩ with coop := { ready := true, bufs := [(32, ⟨.cached, 4128⟩)], cache := [(33024, [32])] } }, by decide +kernel⟩

theorem witness_flowCoreControl_1 : ∃ (p : HostPort) (v : Word) (bad : List Nat) (s : State),
    (RegOpen s p true) ∧ ((coreOf s (selCore s)).st = .stopped) ∧
      (startErr (wr s F.FC_CTRL_IMAGE 0 (selCore s) (v.toNat % 16)) (selCore s) (v.toNat % 16) = 0) :=
  ⟨0, 0, [3], imgst, by decide +kernel⟩

theorem witness_flowCoreControl_2 : ∃ (p : HostPort) (v : Word) (bad : List Nat) (s : State),
    (RegOpen s p true) ∧ ((coreOf s (selCore s)).st = .stopped) ∧
      (startErr (wr s F.FC_CTRL_IMAGE 0 (selCore s) (v.toNat % 16)) (selCore s) (v.toNat % 16) ≠ 0) :=
  ⟨0, 0, [], live, by decide +kernel⟩

theorem witness_flowCoreControl_3 : ∃ (p : HostPort) (v : Word) (s : State),
    (RegOpen s p true) ∧ ((coreOf s (selCore s)).st = .running) :=
  ⟨0, 0, fcs ⟨.j, 0, 0, 0, 0⟩, by decide +kernel⟩

theorem witness_flowCoreControl_4 : ∃ (p : HostPort) (v : Word) (s : State),
    (RegOpen s p true) ∧ ((coreOf s (selCore s)).st = .offline) :=
  ⟨0, 0, { live with cores := [(0, { st := .offline })] }, by decide +kernel⟩

theorem witness_flowCoreControl_5 : ∃ (c : CoreId) (s : State),
    ((coreOf s c.val).st = .draining) ∧ ((coreOf s c.val).threads.all (fun x => idleThr x.2) = true) :=
  ⟨0, { live with cores := [(0, { st := .draining, threads := [(0, { st := .waiting, wait := some (65536, 1) })] })] }, by decide +kernel⟩

theorem witness_flowCoreControl_6 : ∃ (c : CoreId) (s : State),
    ((coreOf s c.val).st = .draining) ∧
      ((coreOf s c.val).drainAt + usec (rd s F.FC_STOP_TIMEOUT_TIMEOUT 0 c.val) ≤ s.clk) ∧
      ((coreOf s c.val).held = []) ∧ (∀ x ∈ (coreOf s c.val).threads, x.2.inbox = []) :=
  ⟨0, { live with cores := [(0, { st := .draining, threads := [(0, fthr)] })] }, by decide +kernel⟩

theorem witness_flowCoreControl_7 : ∃ (c : CoreId) (bad : List Nat) (s : State),
    ((coreOf s c.val).st = .restarting) ∧ (running s = true) ∧ (startErr s c.val (coreOf s c.val).image = 0) :=
  ⟨0, [3], { imgst with cores := [(0, { st := .restarting })] }, by decide +kernel⟩

theorem witness_flowCoreControl_8 : ∃ (c : CoreId) (n : ThreadId) (s : State),
    ((thrOf s c.val n.val).st = .faulted) ∧ ((thrOf s c.val n.val).restart = true) ∧
      ((thrOf s c.val n.val).inbox = []) ∧ ((coreOf s c.val).held = []) :=
  ⟨0, 0, { fcs ⟨.j, 0, 0, 0, 0⟩ with cores := [(0, { st := .running, threads := [(0, { fthr with st := .faulted, restart := true })], slices := [(0, 4096)] })] }, by decide +kernel⟩

theorem witness_flowRingsAndMessages_1 : ∃ (p : HostPort) (v : Word) (s : State),
    (RegOpen s p true) ∧ (bitOf v.toNat 31 = true) ∧ (ringEn s (selRing s) = false) ∧
      (bitsOf v.toNat 30 29 ≠ 3 ∧ 6 ≤ bitsOf v.toNat 28 24 ∧ bitsOf v.toNat 28 24 ≤ 16 ∧ bitsOf v.toNat 23 16 ≤ 191)
          ∧
      (totalDepth s + 2 ^ bitsOf v.toNat 28 24 ≤ 4194304) :=
  ⟨0, 0x86000001, live, by decide +kernel⟩

theorem witness_flowRingsAndMessages_2 : ∃ (p : HostPort) (v : Word) (s : State),
    (RegOpen s p true) ∧ (bitOf v.toNat 31 = false) ∧ (ringEn s (selRing s) = true) ∧
      (bitsOf v.toNat 30 29 ≠ 3 ∧ 6 ≤ bitsOf v.toNat 28 24 ∧ bitsOf v.toNat 28 24 ≤ 16 ∧ bitsOf v.toNat 23 16 ≤ 191)
          ∧
      ((ringOf s (selRing s)).q = []) :=
  ⟨0, 0x06000001, ringst, by decide +kernel⟩

theorem witness_flowRingsAndMessages_3 : ∃ (r : Fin 4096) (d : FDesc) (l : List FDesc) (n e : Nat) (s : State),
    ((ringOf s r.val).q = d :: l) ∧ (running s = true) ∧ ((coreOf s (ringCore s r.val)).st = .running) ∧
      (ringEn s r.val = true) ∧
      ((((List.range 16).map fun k => ((ringOf s r.val).last + 1 + k) % 16).find? fun k => bitOf (rd s
          F.FC_RING_CFG_THREADS 0 r.val) k && canReceive s (ringCore s r.val) k) = some n) ∧
      (freeBox (thrOf s (ringCore s r.val) n) = some e) :=
  ⟨0, { buf := 32, len := 64 }, [], 0, 0, { ringst with rings := [(0, { q := [{ buf := 32, len := 64 }] })], cores := [(0, { st := .running, threads := [(0, fthr)], slices := [(0, 4096)] })] }, by decide +kernel⟩

theorem witness_flowRingsAndMessages_4 : ∃ (c : CoreId) (n : ThreadId) (th : Thr) (i : FcI) (m : Msg) (s : State),
    (Issues s c.val n.val .post th i) ∧
      (m = { core := c.val, thread := n.val, words := (List.range 8).map fun k => (mget 0 th.slot k).toNat }) ∧
      (msgOk s m = true) ∧ (msgReply (m.w 0) = false) ∧ (msgHands m = true) :=
  ⟨0, 0, { fthr with slot := [(0, 0x502000000000000), (1, 0x2000000000)] }, ⟨.post, 0, 0, 0, 0⟩, { core := 0, thread := 0, words := [0x502000000000000, 0x2000000000, 0, 0, 0, 0, 0, 0] }, { fcw (fcEncode ⟨.post, 0, 0, 0, 0⟩).toNat { fthr with slot := [(0, 0x502000000000000), (1, 0x2000000000)] } with cores := [(0, { st := .running, threads := [(0, { fthr with slot := [(0, 0x502000000000000), (1, 0x2000000000)] })], slices := [(0, 4096)], held := [(32, 0)] })] }, by decide +kernel⟩

theorem witness_flowRingsAndMessages_5 : ∃ (c : CoreId) (n : ThreadId) (th : Thr) (i : FcI) (m : Msg) (s : State),
    (Issues s c.val n.val .post th i) ∧
      (m = { core := c.val, thread := n.val, words := (List.range 8).map fun k => (mget 0 th.slot k).toNat }) ∧
      (msgOk s m = true) ∧ (msgReply (m.w 0) = false) ∧ (th.stepping = false) ∧ (th.wd = none) :=
  ⟨0, 0, { fthr with slot := [(0, 0x502000000000000), (1, 0x2000000000)] }, ⟨.post, 0, 0, 0, 0⟩, { core := 0, thread := 0, words := [0x502000000000000, 0x2000000000, 0, 0, 0, 0, 0, 0] }, { fcw (fcEncode ⟨.post, 0, 0, 0, 0⟩).toNat { fthr with slot := [(0, 0x502000000000000), (1, 0x2000000000)] } with cores := [(0, { st := .running, threads := [(0, { fthr with slot := [(0, 0x502000000000000), (1, 0x2000000000)] })], slices := [(0, 4096)], held := [(32, 0)] })] }, by decide +kernel⟩

theorem witness_flowRingsAndMessages_6 : ∃ (c : CoreId) (n : ThreadId) (th : Thr) (i : FcI) (b : Bool) (m : Msg) (s : State),
    (Issues s c.val n.val .post th i) ∧
      (m = { core := c.val, thread := n.val, words := (List.range 8).map fun k => (mget 0 th.slot k).toNat }) ∧
      (msgOk s m = false) :=
  ⟨0, 0, fthr, ⟨.post, 0, 0, 0, 0⟩, true, { core := 0, thread := 0, words := [0, 0, 0, 0, 0, 0, 0, 0] }, fcs ⟨.post, 0, 0, 0, 0⟩, by decide +kernel⟩

theorem witness_flowRingsAndMessages_7 : ∃ (c : CoreId) (n : ThreadId) (m : Msg) (l : List Msg) (s : State),
    (s.msgs = m :: l) ∧ (m.core = c.val ∧ m.thread = n.val) ∧ (msgDest (m.w 0) = 0x02 ∧ msgType (m.w 0) = 0) ∧
      (running s = true) ∧ (actKind (m.w 2) ≠ 2) :=
  ⟨0, 0, { core := 0, thread := 0, words := [0x200000000000000, 0x2000000040, 0x7FFFFFFF00000000, 0, 0, 0, 0, 0] }, [], { live with msgs := [{ core := 0, thread := 0, words := [0x200000000000000, 0x2000000040, 0x7FFFFFFF00000000, 0, 0, 0, 0, 0] }] }, by decide +kernel⟩

theorem witness_flowRingsAndMessages_8 : ∃ (c : CoreId) (n : ThreadId) (m : Msg) (l : List Msg) (s : State),
    (s.msgs = m :: l) ∧ (m.core = c.val ∧ m.thread = n.val) ∧ (msgDest (m.w 0) = 0x02 ∧ msgType (m.w 0) = 0) ∧
      (running s = true) ∧ (actKind (m.w 2) = 2) :=
  ⟨0, 0, { core := 0, thread := 0, words := [0x200000000000000, 0x2000000040, 0x40, 0, 0, 0, 0, 0] }, [], { live with msgs := [{ core := 0, thread := 0, words := [0x200000000000000, 0x2000000040, 0x40, 0, 0, 0, 0, 0] }] }, by decide +kernel⟩

theorem witness_flowRingsAndMessages_9 : ∃ (c : CoreId) (n : ThreadId) (u : Upset) (m : Msg) (l : List Msg) (s : State),
    (s.msgs = m :: l) ∧ (m.core = c.val ∧ m.thread = n.val) ∧ (msgDest (m.w 0) = 0x01 ∧ msgType (m.w 0) = 0) ∧
      (running s = true) :=
  ⟨0, 0, {}, { core := 0, thread := 0, words := [0x100000000000000, 0x2000000040, 0, 0, 0, 0, 0, 0] }, [], { live with msgs := [{ core := 0, thread := 0, words := [0x100000000000000, 0x2000000040, 0, 0, 0, 0, 0, 0] }] }, by decide +kernel⟩

theorem witness_flowRingsAndMessages_10 : ∃ (c : CoreId) (n : ThreadId) (uid : Nat) (j : Job) (st : Status) (m : Msg) (l : List Msg) (s : State),
    (s.msgs = m :: l) ∧ (m.core = c.val ∧ m.thread = n.val) ∧ (msgDest (m.w 0) = 0x03 ∧ msgType (m.w 0) = 0) ∧
      (running s = true) ∧ (qmJob s m.buf (bitsOf (m.w 3) 31 0) = some (uid, j)) ∧
      (∀ x ∈ s.cores, ∀ y ∈ x.2.held, y.1 ≠ bitsOf (m.w 3) 31 0) ∧ (coreJobStatus (bitsOf (m.w 1) 7 0) = some st) :=
  ⟨0, 0, 9, { sq := 1, port := 0, owner := none, sqGen := 1, tenGen := 1, op := 0x86, cid := 7, noCpl := false, ents := [], bufs := [32] }, .success, { core := 0, thread := 0, words := [0x300000000000000, 0x1010000100000000, 5, 32, 0, 0, 0, 0] }, [], { { qlive with jobs := [(9, { sq := 1, port := 0, owner := none, sqGen := 1, tenGen := 1, op := 0x86, cid := 7, noCpl := false, ents := [], bufs := [32] })] } with msgs := [{ core := 0, thread := 0, words := [0x300000000000000, 0x1010000100000000, 5, 32, 0, 0, 0, 0] }] }, by decide +kernel⟩

theorem witness_flowRingsAndMessages_11 : ∃ (c : CoreId) (n : ThreadId) (uid : Nat) (j : Job) (st : Status) (m : Msg) (l : List Msg) (s : State),
    (s.msgs = m :: l) ∧ (m.core = c.val ∧ m.thread = n.val) ∧ (msgDest (m.w 0) = 0x03 ∧ msgType (m.w 0) = 0) ∧
      (running s = true) ∧ (qmJob s m.buf (bitsOf (m.w 3) 31 0) = some (uid, j)) ∧
      (ownedBy s (bitsOf (m.w 3) 31 0) (ownerReq j.owner) = true) ∧
      ((s.cores.any fun k => k.2.held.any (·.1 = bitsOf (m.w 3) 31 0)) = true) ∧
      (coreJobStatus (bitsOf (m.w 1) 7 0) = some st) :=
  ⟨0, 0, 9, { sq := 1, port := 0, owner := none, sqGen := 1, tenGen := 1, op := 0x86, cid := 7, noCpl := false, ents := [], bufs := [32] }, .success, { core := 0, thread := 0, words := [0x300000000000000, 0x1010000100000000, 5, 32, 0, 0, 0, 0] }, [], { { qlive with jobs := [(9, { sq := 1, port := 0, owner := none, sqGen := 1, tenGen := 1, op := 0x86, cid := 7, noCpl := false, ents := [], bufs := [32] })], coop := { ready := true, bufs := [(32, ⟨.owned, 4144⟩)] }, cores := [(0, { st := .running, held := [(32, 0)] })] } with msgs := [{ core := 0, thread := 0, words := [0x300000000000000, 0x1010000100000000, 5, 32, 0, 0, 0, 0] }] }, by decide +kernel⟩

theorem witness_flowRingsAndMessages_12 : ∃ (c : CoreId) (n : ThreadId) (m : Msg) (l : List Msg) (s : State),
    (s.msgs = m :: l) ∧ (m.core = c.val ∧ m.thread = n.val) ∧
      (msgDest (m.w 0) = 0x06 ∧ msgType (m.w 0) = 0x01) ∧ (running s = true) ∧ (m.w 3 / 2 ^ 32 = 0) ∧
      (portWidth s (bitsOf (m.w 4) 2 0) ≠ 0) ∧ (xferPossible s (bitsOf (m.w 4) 2 0) = true) :=
  ⟨0, 0, { core := 0, thread := 0, words := [0x601800000000007, 0x2000000040, 0x9000, 0, 0, 0, 0, 0] }, [], { portx with msgs := [{ core := 0, thread := 0, words := [0x601800000000007, 0x2000000040, 0x9000, 0, 0, 0, 0, 0] }] }, by decide +kernel⟩

theorem witness_flowRingsAndMessages_13 : ∃ (c : CoreId) (n : ThreadId) (m : Msg) (l : List Msg) (s : State),
    (s.msgs = m :: l) ∧ (m.core = c.val ∧ m.thread = n.val) ∧
      (msgDest (m.w 0) = 0x06 ∧ msgType (m.w 0) = 0x02) ∧ (running s = true) ∧ (m.w 3 / 2 ^ 32 = 0) ∧
      (portWidth s (bitsOf (m.w 4) 2 0) ≠ 0) ∧ (xferPossible s (bitsOf (m.w 4) 2 0) = true) :=
  ⟨0, 0, { core := 0, thread := 0, words := [0x602800000000007, 0x2000000040, 0x9000, 0, 0, 0, 0, 0] }, [], { portx with msgs := [{ core := 0, thread := 0, words := [0x602800000000007, 0x2000000040, 0x9000, 0, 0, 0, 0, 0] }] }, by decide +kernel⟩

theorem witness_flowRingsAndMessages_14 : ∃ (c : CoreId) (n : ThreadId) (m : Msg) (l : List Msg) (s : State),
    (s.msgs = m :: l) ∧ (m.core = c.val ∧ m.thread = n.val) ∧ (msgDest (m.w 0) = 0x02 ∧ msgType (m.w 0) = 0) ∧
      (running s = true) ∧ (actKind (m.w 2) = 0) ∧ ((actTarget (m.w 2)) < 32) ∧
      (netPortExists s (actTarget (m.w 2)) = true) ∧
      ((egAdmit s (actTarget (m.w 2)) (actClass (m.w 2)) (actColour (m.w 2)) m.len).1 = true) ∧
      ((macOf s (actTarget (m.w 2))).flushing = false) ∧
      (longestOpen (egOf s (actTarget (m.w 2))) (actClass (m.w 2)) = none) :=
  ⟨0, 0, { core := 0, thread := 0, words := [0x200000000000000, 0x2000000028, 0, 0, 0, 0, 0, 0] }, [], { wr live F.EG_ADM_GY_GREEN 0 0 100 with msgs := [{ core := 0, thread := 0, words := [0x200000000000000, 0x2000000028, 0, 0, 0, 0, 0, 0] }] }, by decide +kernel⟩

theorem witness_transportConnections_1 : ∃ (p : HostPort) (e : Entry) (i : Nat) (s : State),
    (AdminCmd s p.val 0x30 e) ∧
      (bitOf (dw e 4) 31 = false ∧ dw e 5 / 2 ^ 14 = 0 ∧ dwZero e 7 15 = true ∧ dw e 6 = 0) ∧
      (bitsOf (dw e 4) 15 0 ≠ myNode s ∧ tpOn s = true) ∧
      (1 ≤ bitsOf (dw e 5) 13 8 ∧ bitsOf (dw e 5) 13 8 ≤ 32 ∧ 1 ≤ bitsOf (dw e 5) 3 0 ∧ bitsOf (dw e 5) 3 0 ≤ bitsOf (dw
          e 5) 7 4 ∧ bitsOf (dw e 5) 3 0 ≤ mftMax s) ∧
      ((s.conns.any fun c => decide (c.2.tenant = hIdx (dw e 1) ∧ c.2.node = bitsOf (dw e 4) 15 0 ∧ c.2.cls = bitsOf (dw
          e 4) 30 28)) = false) ∧
      (lowConn s = some i) ∧ (i < 1048576) ∧
      ((s.conns.filter fun c => decide (c.2.tenant = hIdx (dw e 1))).length < ((mget? s.tens (hIdx (dw e 1))).map (·.connMax)).getD
          0) :=
  ⟨0, ent [0x30, 0x40100005, 0, 0, 0x5002, 0x131, 0, 0, 0, 0, 0, 0, 0, 0, 0, 0], 0, wr { adm (ent [0x30, 0x40100005, 0, 0, 0x5002, 0x131, 0, 0, 0, 0, 0, 0, 0, 0, 0, 0]) with tens := [(5, { ten5 with connMax := 4 })] } F.TP_NODE_EN 0 0 1, by decide +kernel⟩

theorem witness_transportConnections_2 : ∃ (p : HostPort) (e : Entry) (c : Conn) (s : State),
    (AdminCmd s p.val 0x31 e) ∧ (mget? s.conns (hIdx (dw e 1)) = some c) ∧ (dwZero e 4 15 = true) ∧
      (c.st ≠ .failed) :=
  ⟨0, ent [0x31, 0x70100003, 0, 0, 0, 0, 0, 0, 0, 0, 0, 0, 0, 0, 0, 0], con1, { adm (ent [0x31, 0x70100003, 0, 0, 0, 0, 0, 0, 0, 0, 0, 0, 0, 0, 0, 0]) with tens := [(5, ten5)], conns := [(3, con1)] }, by decide +kernel⟩

theorem witness_transportConnections_3 : ∃ (p : HostPort) (e : Entry) (c : Conn) (s : State),
    (AdminCmd s p.val 0x31 e) ∧ (mget? s.conns (hIdx (dw e 1)) = some c) ∧ (dwZero e 4 15 = true) ∧
      (c.st = .failed) :=
  ⟨0, ent [0x31, 0x70100003, 0, 0, 0, 0, 0, 0, 0, 0, 0, 0, 0, 0, 0, 0], { con1 with st := .failed }, { adm (ent [0x31, 0x70100003, 0, 0, 0, 0, 0, 0, 0, 0, 0, 0, 0, 0, 0, 0]) with tens := [(5, ten5)], conns := [(3, { con1 with st := .failed })] }, by decide +kernel⟩

theorem witness_transportConnections_4 : ∃ (i : Fin 1048576) (c : Conn) (s : State),
    (mget? s.conns i.val = some c) ∧ (c.st = .opening) ∧ (c.lastOpen + usec (cfgF c.cfg 1 15 0) ≤ s.clk) ∧
      (running s = true) :=
  ⟨3, { con1 with st := .opening }, cons ({ con1 with st := .opening }), by decide +kernel⟩

theorem witness_transportConnections_5 : ∃ (i : Fin 1048576) (c : Conn) (s : State),
    (mget? s.conns i.val = some c) ∧ (c.st = .opening) ∧ (c.openedAt + msec (cfgF c.cfg 1 31 16) ≤ s.clk) ∧
      (running s = true) :=
  ⟨3, { con1 with st := .opening }, cons ({ con1 with st := .opening }), by decide +kernel⟩

theorem witness_transportConnections_6 : ∃ (i : Fin 1048576) (c : Conn) (s : State),
    (mget? s.conns i.val = some c) ∧ (c.st = .closing) ∧
      (∀ d ∈ c.sends, d.cut = false ∧ d.ready = false ∧ d.bufs = []) ∧ (running s = true) :=
  ⟨3, { con1 with st := .closing }, cons ({ con1 with st := .closing }), by decide +kernel⟩

theorem witness_transportConnections_7 : ∃ (i : Fin 1048576) (c : Conn) (s : State),
    (mget? s.conns i.val = some c) ∧ (c.st = .closing) ∧ (c.closeAt + msec 10 ≤ s.clk) ∧ (running s = true) :=
  ⟨3, { con1 with st := .closing }, cons ({ con1 with st := .closing }), by decide +kernel⟩

theorem witness_transportConnections_8 : ∃ (p : HostPort) (v : Word) (s : State),
    (RegOpen s p true) ∧ (tpOn s = true) ∧ (bitOf v.toNat 31 = false) :=
  ⟨0, 0, cons con1, by decide +kernel⟩

theorem witness_transportConnections_9 : ∃ (uid i : Nat) (j : Job) (c : Conn) (s : State),
    (JobReady s uid 0x83 j) ∧
      ((jobConn ({ s with jobs := mset s.jobs uid { j with fresh := false } }) ({ j with fresh := false })).toOption
          = some (i, c)) ∧
      (c.st = .opening) ∧ (1 ≤ segBytes (segsOf j.ents) ∧ segBytes (segsOf j.ents) ≤ 16777215) ∧
      (dwZero (jobHead j) 9 15 = true) ∧
      (segsOwned ({ s with jobs := mset s.jobs uid { j with fresh := false } }) (ownerReq j.owner) (segsOf j.ents) =
          true) :=
  ⟨9, 3, { sq := 1, port := 0, owner := some 5, sqGen := 1, tenGen := 1, op := 0x83, cid := 7, noCpl := false, ents := [ent [0x83, 0x70100003, 0, 0, 0x8000, 0, 100, 0]] }, { con1 with st := .opening }, { cons ({ con1 with st := .opening }) with jobs := [(9, { sq := 1, port := 0, owner := some 5, sqGen := 1, tenGen := 1, op := 0x83, cid := 7, noCpl := false, ents := [ent [0x83, 0x70100003, 0, 0, 0x8000, 0, 100, 0]] })] }, by decide +kernel⟩

theorem witness_transportConnections_10 : ∃ (uid i : Nat) (j : Job) (c : Conn) (s : State),
    (JobReady s uid 0x84 j) ∧
      ((jobConn ({ s with jobs := mset s.jobs uid { j with fresh := false } }) ({ j with fresh := false })).toOption
          = some (i, c)) ∧
      (c.rxq = []) ∧ (dwZero (jobHead j) 8 15 = true) ∧
      (segsOwned ({ s with jobs := mset s.jobs uid { j with fresh := false } }) (ownerReq j.owner) (segsOf j.ents) =
          true) :=
  ⟨9, 3, { sq := 1, port := 0, owner := some 5, sqGen := 1, tenGen := 1, op := 0x84, cid := 7, noCpl := false, ents := [ent [0x84, 0x70100003, 0, 0, 0x8000, 0, 100, 0]] }, { con1 with st := .opening }, { cons ({ con1 with st := .opening }) with jobs := [(9, { sq := 1, port := 0, owner := some 5, sqGen := 1, tenGen := 1, op := 0x84, cid := 7, noCpl := false, ents := [ent [0x84, 0x70100003, 0, 0, 0x8000, 0, 100, 0]] })] }, by decide +kernel⟩

theorem witness_transportConnections_11 : ∃ (i : Fin 1048576) (p : Nat) (c : Conn) (s : State),
    (mget? s.conns i.val = some c) ∧ (c.st = .opening) ∧ (c.lastOpen + usec (cfgF c.cfg 1 15 0) ≤ s.clk) ∧
      (running s = true) ∧ ((mftRoute s c.cfg c.node).1 = some p) ∧ ((macOf s p).flushing = false) ∧
      (longestOpen (egOf s p) (cfgAckClass c.cfg) = none) :=
  ⟨3, 0, { con1 with st := .opening }, { cons ({ con1 with st := .opening }) with fw := { insts := [(0, [0x48000000, 0, 0, 0])], nhs := [(0, 0)], rc := [{ vrf := 0, v6 := true, addr := 2, nh := 0, ver := 0 }] } }, by decide +kernel⟩

theorem witness_transportConnections_12 : ∃ (i : Fin 1048576) (c : Conn) (s : State),
    (mget? s.conns i.val = some c) ∧ (c.st = .opening) ∧ (c.openedAt + msec (cfgF c.cfg 1 31 16) ≤ s.clk) ∧
      (running s = true) ∧ (c.att = 0) :=
  ⟨3, { con1 with st := .opening }, cons ({ con1 with st := .opening }), by decide +kernel⟩

theorem witness_transportConnections_13 : ∃ (i : Fin 1048576) (q : Nat) (c : Conn) (s : State),
    (mget? s.conns i.val = some c) ∧ (c.st = .closing) ∧
      (∀ d ∈ c.sends, d.cut = false ∧ d.ready = false ∧ d.bufs = []) ∧ (running s = true) ∧ (c.att = 0) ∧
      (c.closer = some q) :=
  ⟨3, 0, { con1 with st := .closing, closer := some 0 }, cons ({ con1 with st := .closing, closer := some 0 }), by decide +kernel⟩

theorem witness_transportConnections_14 : ∃ (i : Fin 1048576) (q : Nat) (c : Conn) (s : State),
    (mget? s.conns i.val = some c) ∧ (c.st = .closing) ∧ (c.closeAt + msec 10 ≤ s.clk) ∧ (running s = true) ∧
      (c.att = 0) ∧ (c.closer = some q) :=
  ⟨3, 0, { con1 with st := .closing, closer := some 0 }, cons ({ con1 with st := .closing, closer := some 0 }), by decide +kernel⟩

theorem witness_transportConnections_15 : ∃ (p : HostPort) (v : Word) (i : Nat) (c : Conn) (s : State),
    (RegOpen s p true) ∧ (tpOn s = true) ∧ (bitOf v.toNat 31 = false) ∧ (s.conns = [(i, c)]) ∧ (c.att = 0) :=
  ⟨0, 0, 3, con1, cons con1, by decide +kernel⟩

theorem witness_transportPackets_1 : ∃ (c : CoreId) (n : ThreadId) (e : Ecc) (m : Msg) (l : List Msg) (s : State),
    (s.msgs = m :: l) ∧ (m.core = c.val ∧ m.thread = n.val) ∧
      (msgDest (m.w 0) = 0x04 ∧ msgType (m.w 0) = 0x01) ∧ (running s = true) ∧
      ((mftRx ({ s with msgs := l }) m.buf (bitsOf (m.w 2) 23 0) m.len (bitsOf (m.w 3) 31 0) (bitsOf (m.w 3) 32 32)
          e).1 = true) :=
  ⟨0, 0, {}, { core := 0, thread := 0, words := [0x401000000000000, 0x2000000040, 0, 0, 0, 0, 0, 0] }, [], { { cons con1 with coop := { ready := true, bufs := [(32, ⟨.handed, 4144⟩)] }, mere := rxdata } with msgs := [{ core := 0, thread := 0, words := [0x401000000000000, 0x2000000040, 0, 0, 0, 0, 0, 0] }] }, by decide +kernel⟩

theorem witness_transportPackets_2 : ∃ (c : CoreId) (n : ThreadId) (e : Ecc) (m : Msg) (l : List Msg) (s : State),
    (s.msgs = m :: l) ∧ (m.core = c.val ∧ m.thread = n.val) ∧
      (msgDest (m.w 0) = 0x04 ∧ msgType (m.w 0) = 0x01) ∧ (running s = true) ∧
      ((mftRx ({ s with msgs := l }) m.buf (bitsOf (m.w 2) 23 0) m.len (bitsOf (m.w 3) 31 0) (bitsOf (m.w 3) 32 32)
          e).1 = false) :=
  ⟨0, 0, {}, { core := 0, thread := 0, words := [0x401000000000000, 0x2000000010, 0, 0, 0, 0, 0, 0] }, [], { live with msgs := [{ core := 0, thread := 0, words := [0x401000000000000, 0x2000000010, 0, 0, 0, 0, 0, 0] }] }, by decide +kernel⟩

theorem witness_transportPackets_3 : ∃ (c : CoreId) (n : ThreadId) (a : Nat) (x : Att) (y : Tcp) (e : Ecc) (m : Msg) (l : List Msg) (s : State),
    (s.msgs = m :: l) ∧ (m.core = c.val ∧ m.thread = n.val) ∧
      (msgDest (m.w 0) = 0x05 ∧ msgType (m.w 0) = 0x02) ∧ (running s = true) ∧
      (bitsOf (m.w 2) 23 0 + m.len ≤ poolSize (bPool m.buf)) ∧
      (s.sx.atts = [(a, x)] ∧ (msgAnswer (devFree (storeMeet ({ s with msgs := l }) (bufAddr s m.buf (bitsOf (m.w 2)
          23 0)) m.len e) m.buf) m .success []).sx = s.sx) ∧
      (x.tcp = some y) ∧
      (y.port = (parseSeg (storeRead s (bufAddr s m.buf (bitsOf (m.w 2) 23 0)) m.len)).dport ∧ attV6 x = (parseSeg (storeRead
          s (bufAddr s m.buf (bitsOf (m.w 2) 23 0)) m.len)).v6 ∧ attAddr x = (parseSeg (storeRead s (bufAddr s m.buf (bitsOf (m.w
          2) 23 0)) m.len)).src ∧ sxAddr (msgAnswer (devFree (storeMeet ({ s with msgs := l }) (bufAddr s m.buf (bitsOf (m.w
          2) 23 0)) m.len e) m.buf) m .success []) (parseSeg (storeRead s (bufAddr s m.buf (bitsOf (m.w 2) 23 0))
          m.len)).v6 = (parseSeg (storeRead s (bufAddr s m.buf (bitsOf (m.w 2) 23 0)) m.len)).dst ∧ rcdN x 36 2 = (parseSeg (storeRead
          s (bufAddr s m.buf (bitsOf (m.w 2) 23 0)) m.len)).sport) ∧
      ((parseSeg (storeRead s (bufAddr s m.buf (bitsOf (m.w 2) 23 0)) m.len)).ok = true) :=
  ⟨0, 0, 0, att1, tcp1, {}, { core := 0, thread := 0, words := [0x502000000000000, 0x2000000028, 0, 0, 0, 0, 0, 0] }, [], { { atts att1 with coop := { ready := true, bufs := [(32, ⟨.handed, 4145⟩)] }, mere := segdata } with msgs := [{ core := 0, thread := 0, words := [0x502000000000000, 0x2000000028, 0, 0, 0, 0, 0, 0] }] }, by decide +kernel⟩

theorem witness_transportPackets_4 : ∃ (c : CoreId) (n : ThreadId) (e : Ecc) (m : Msg) (l : List Msg) (s : State),
    (s.msgs = m :: l) ∧ (m.core = c.val ∧ m.thread = n.val) ∧
      (msgDest (m.w 0) = 0x05 ∧ msgType (m.w 0) = 0x02) ∧ (running s = true) ∧ (s.sx.atts = []) ∧
      ((msgAnswer (devFree (storeMeet ({ s with msgs := l }) (bufAddr s m.buf (bitsOf (m.w 2) 23 0)) m.len e) m.buf)
          m .success []).sx = s.sx) ∧
      (bitsOf (m.w 2) 23 0 + m.len ≤ poolSize (bPool m.buf)) :=
  ⟨0, 0, {}, { core := 0, thread := 0, words := [0x502000000000000, 0x2000000028, 0, 0, 0, 0, 0, 0] }, [], { live with msgs := [{ core := 0, thread := 0, words := [0x502000000000000, 0x2000000028, 0, 0, 0, 0, 0, 0] }] }, by decide +kernel⟩

theorem witness_transportPackets_5 : ∃ (c : CoreId) (n : ThreadId) (m : Msg) (l : List Msg) (s : State),
    (s.msgs = m :: l) ∧ (m.core = c.val ∧ m.thread = n.val) ∧
      (msgDest (m.w 0) = 0x04 ∧ msgType (m.w 0) = 0x02) ∧ (running s = true) :=
  ⟨0, 0, { core := 0, thread := 0, words := [0x402000000000000, 0x2000000028, 0, 0, 0, 0, 0, 0] }, [], { live with msgs := [{ core := 0, thread := 0, words := [0x402000000000000, 0x2000000028, 0, 0, 0, 0, 0, 0] }] }, by decide +kernel⟩

theorem witness_transportPackets_6 : ∃ (c : CoreId) (n : ThreadId) (x : Conn) (m : Msg) (l : List Msg) (s : State),
    (s.msgs = m :: l) ∧ (m.core = c.val ∧ m.thread = n.val) ∧
      (msgDest (m.w 0) = 0x04 ∧ msgType (m.w 0) = 0x03) ∧ (running s = true) ∧
      (connCheck ({ s with msgs := l }) (bitsOf (m.w 2) 31 0) = none) ∧
      (mget? s.conns (hIdx (bitsOf (m.w 2) 31 0)) = some x) ∧ (x.att = 0) ∧ (x.st = .opening) ∧
      (m.len ≤ poolSize (bPool m.buf)) :=
  ⟨0, 0, { con1 with st := .opening }, { core := 0, thread := 0, words := [0x403000000000000, 0x2000000028, 0x70100003, 0, 0, 0, 0, 0] }, [], { cons { con1 with st := .opening } with msgs := [{ core := 0, thread := 0, words := [0x403000000000000, 0x2000000028, 0x70100003, 0, 0, 0, 0, 0] }] }, by decide +kernel⟩

theorem witness_transportPackets_7 : ∃ (c : CoreId) (n : ThreadId) (x : Conn) (m : Msg) (l : List Msg) (s : State),
    (s.msgs = m :: l) ∧ (m.core = c.val ∧ m.thread = n.val) ∧
      (msgDest (m.w 0) = 0x04 ∧ msgType (m.w 0) = 0x04) ∧ (running s = true) ∧
      (connCheck ({ s with msgs := l }) (bitsOf (m.w 2) 31 0) = none) ∧
      (mget? s.conns (hIdx (bitsOf (m.w 2) 31 0)) = some x) :=
  ⟨0, 0, con1, { core := 0, thread := 0, words := [0x404800000000001, 0, 0x70100003, 0, 0, 0, 0, 0] }, [], { cons con1 with msgs := [{ core := 0, thread := 0, words := [0x404800000000001, 0, 0x70100003, 0, 0, 0, 0, 0] }] }, by decide +kernel⟩

theorem witness_transportPackets_8 : ∃ (i : Fin 1048576) (k : Nat) (c : Conn) (s : State),
    (mget? s.conns i.val = some c) ∧ (c.ackFrom = some k) ∧ (k + rd s F.TP_ACK_ACK_DELAY * 1000 ≤ s.clk) ∧
      (running s = true) :=
  ⟨3, 0, { con1 with ackFrom := some 0 }, cons ({ con1 with ackFrom := some 0 }), by decide +kernel⟩

theorem witness_transportPackets_9 : ∃ (i : Fin 1048576) (k : Nat) (x : TxPkt) (c : Conn) (s : State),
    (mget? s.conns i.val = some c) ∧ (c.timer = some k) ∧ (k + rtoPs c < s.clk) ∧ (c.rnrTill = none) ∧
      (running s = true) ∧ (c.st = .closing ∨ c.expiries + 1 < cfgF c.cfg 2 31 28) ∧
      ((c.tx.find? fun k => decide (k.ord ≠ 0) && !k.acked) = some x) ∧ (x.lost = false) :=
  ⟨3, 0, { psn := 9, buf := 32, off := 0, len := 64, first := true, last := true, msn := 0, msgLen := 64, imm := 0, ord := 1 }, { con1 with st := .closing, timer := some 0, tx := [{ psn := 9, buf := 32, off := 0, len := 64, first := true, last := true, msn := 0, msgLen := 64, imm := 0, ord := 1 }] }, cons ({ con1 with st := .closing, timer := some 0, tx := [{ psn := 9, buf := 32, off := 0, len := 64, first := true, last := true, msn := 0, msgLen := 64, imm := 0, ord := 1 }] }), by decide +kernel⟩

theorem witness_transportPackets_10 : ∃ (i : Fin 1048576) (k : Nat) (c : Conn) (s : State),
    (mget? s.conns i.val = some c) ∧ (c.timer = some k) ∧ (k + rtoPs c < s.clk) ∧ (c.rnrTill = none) ∧
      (running s = true) ∧ (c.st = .open_) ∧ (cfgF c.cfg 2 31 28 ≤ c.expiries + 1) :=
  ⟨3, 0, { con1 with timer := some 0 }, cons ({ con1 with timer := some 0 }), by decide +kernel⟩

theorem witness_transportPackets_11 : ∃ (i : Fin 1048576) (k : Nat) (c : Conn) (s : State),
    (mget? s.conns i.val = some c) ∧ (c.rnrTill = some k) ∧ (k ≤ s.clk) :=
  ⟨3, 0, { con1 with rnrTill := some 0 }, cons ({ con1 with rnrTill := some 0 }), by decide +kernel⟩

theorem witness_transportPackets_12 : ∃ (i : Fin 1048576) (h : Fin 32) (k : Nat) (c : Conn) (s : State),
    (mget? s.conns i.val = some c) ∧ (c.susp.find? (·.1 = h.val) = some (h.val, k)) ∧ (k ≤ epochNo s) :=
  ⟨3, 2, 0, { con1 with susp := [(2, 0)] }, { cons ({ con1 with susp := [(2, 0)] }) with ft := { count := 2 ^ 80 } }, by decide +kernel⟩

theorem witness_transportPackets_13 : ∃ (i : Fin 1048576) (k : Nat) (c : Conn) (s : State),
    (mget? s.conns i.val = some c) ∧ (running s = true) ∧ (unscheduled s = false) ∧ (c.tNext = some k) ∧
      (k ≤ s.ft.count) :=
  ⟨3, 0, { con1 with tNext := some 0 }, cons ({ con1 with tNext := some 0 }), by decide +kernel⟩

theorem witness_transportPackets_14 : ∃ (i : Fin 1048576) (d : Conn) (x : TxPkt) (c : Conn) (s : State),
    (mget? s.conns i.val = some c) ∧ (running s = true) ∧ (unscheduled s = true) ∧
      (
          let u := plan ({ s with conns := mset s.conns i.val { c with tNext := none, waitStart := false } }) i.val
          mget? u.conns i.val = some d ∧ d.ctl = [] ∧ nextPkt u d = some x ∧ pktBits d x * 1000000 ≤ tokNow u d) :=
  ⟨3, unc1, unp1, unc1, { wr (cons unc1) F.FT_HOLD_POLICY_MFT_DEMOTE 0 0 1 with ft := { st := .holdover } }, by decide +kernel⟩

theorem witness_transportPackets_15 : ∃ (i : Fin 1048576) (c : Conn) (s : State),
    (mget? s.conns i.val = some c) ∧ (c.st = .open_ ∨ c.st = .closing) ∧
      (c.updAt + max ((c.rtt.map (·.1)).getD 0) 1000 * 1000 ≤ s.clk) :=
  ⟨3, con1, cons (con1), by decide +kernel⟩

theorem witness_transportPackets_16 : ∃ (i : Fin 1048576) (k p : Nat) (c : Conn) (s : State),
    (mget? s.conns i.val = some c) ∧ (c.ackFrom = some k) ∧ (k + rd s F.TP_ACK_ACK_DELAY * 1000 ≤ s.clk) ∧
      (running s = true) ∧ ((mftRoute s c.cfg c.node).1 = some p) ∧ (c.key = 0) ∧ ((macOf s p).flushing = false) ∧
      (longestOpen (egOf s p) (cfgAckClass c.cfg) = none) :=
  ⟨3, 0, 0, { con1 with ackFrom := some 0 }, { cons ({ con1 with ackFrom := some 0 }) with fw := { insts := [(0, [0x48000000, 0, 0, 0])], nhs := [(0, 0)], rc := [{ vrf := 0, v6 := true, addr := 2, nh := 0, ver := 0 }] } }, by decide +kernel⟩

theorem witness_transportPackets_17 : ∃ (i : Fin 1048576) (k : Nat) (x : TxPkt) (c : Conn) (s : State),
    (mget? s.conns i.val = some c) ∧ (c.timer = some k) ∧ (k + rtoPs c < s.clk) ∧ (c.rnrTill = none) ∧
      (running s = true) ∧ (c.st = .closing ∨ c.expiries + 1 < cfgF c.cfg 2 31 28) ∧
      ((c.tx.find? fun k => decide (k.ord ≠ 0) && !k.acked) = some x) ∧ (x.lost = false) ∧ (c.key = 0) ∧
      (c.sends = []) :=
  ⟨3, 0, { psn := 9, buf := 32, off := 0, len := 64, first := true, last := true, msn := 0, msgLen := 64, imm := 0, ord := 1 }, { con1 with st := .closing, timer := some 0, tx := [{ psn := 9, buf := 32, off := 0, len := 64, first := true, last := true, msn := 0, msgLen := 64, imm := 0, ord := 1 }] }, cons ({ con1 with st := .closing, timer := some 0, tx := [{ psn := 9, buf := 32, off := 0, len := 64, first := true, last := true, msn := 0, msgLen := 64, imm := 0, ord := 1 }] }), by decide +kernel⟩

theorem witness_transportPackets_18 : ∃ (i : Fin 1048576) (k : Nat) (c : Conn) (s : State),
    (mget? s.conns i.val = some c) ∧ (c.timer = some k) ∧ (k + rtoPs c < s.clk) ∧ (c.rnrTill = none) ∧
      (running s = true) ∧ (c.st = .open_) ∧ (cfgF c.cfg 2 31 28 ≤ c.expiries + 1) ∧ (c.att = 0) :=
  ⟨3, 0, { con1 with timer := some 0 }, cons ({ con1 with timer := some 0 }), by decide +kernel⟩

theorem witness_transportPackets_19 : ∃ (i : Fin 1048576) (k : Nat) (c : Conn) (s : State),
    (mget? s.conns i.val = some c) ∧ (c.rnrTill = some k) ∧ (k ≤ s.clk) ∧ (c.key = 0) ∧ (c.sends = []) :=
  ⟨3, 0, { con1 with rnrTill := some 0 }, cons ({ con1 with rnrTill := some 0 }), by decide +kernel⟩

theorem witness_transportPackets_20 : ∃ (i : Fin 1048576) (h : Fin 32) (k : Nat) (c : Conn) (s : State),
    (mget? s.conns i.val = some c) ∧ (c.susp.find? (·.1 = h.val) = some (h.val, k)) ∧ (k ≤ epochNo s) ∧
      (c.key = 0) ∧ (c.sends = []) :=
  ⟨3, 2, 0, { con1 with susp := [(2, 0)] }, { cons ({ con1 with susp := [(2, 0)] }) with ft := { count := 2 ^ 80 } }, by decide +kernel⟩

theorem witness_transportPackets_21 : ∃ (i : Fin 1048576) (k p : Nat) (x : TxPkt) (c : Conn) (s : State),
    (mget? s.conns i.val = some c) ∧ (running s = true) ∧ (unscheduled s = false) ∧ (c.tNext = some k) ∧
      (k ≤ s.ft.count) ∧ (nextPkt s c = some x) ∧ (x.ord = 0 ∧ x.sealed = .plain) ∧ (c.sends = []) ∧
      ((mftRoute s c.cfg c.node).1 = some p) ∧ (c.key = 0) ∧ ((macOf s p).flushing = false) ∧
      (longestOpen (egOf s p) c.cls = none) :=
  ⟨3, 0, 0, unp1, { unc1 with tNext := some 0 }, { cons ({ unc1 with tNext := some 0 }) with fw := { insts := [(0, [0x48000000, 0, 0, 0])], nhs := [(0, 0)], rc := [{ vrf := 0, v6 := true, addr := 2, nh := 0, ver := 0 }] } }, by decide +kernel⟩

theorem witness_transportPackets_22 : ∃ (i : Fin 1048576) (c : Conn) (s : State),
    (mget? s.conns i.val = some c) ∧ (c.st = .open_ ∨ c.st = .closing) ∧
      (c.updAt + max ((c.rtt.map (·.1)).getD 0) 1000 * 1000 ≤ s.clk) ∧ (c.key = 0) ∧ (c.sends = []) :=
  ⟨3, con1, cons (con1), by decide +kernel⟩

theorem witness_transportPackets_23 : ∃ (c : CoreId) (n : ThreadId) (i p : Nat) (x : Conn) (k : TxPkt) (m : Msg) (l : List Msg) (s : State),
    (s.msgs = m :: l) ∧ (m.core = c.val ∧ m.thread = n.val) ∧
      (msgDest (m.w 0) = 0x04 ∧ msgType (m.w 0) = 0x02) ∧ (running s = true) ∧ (s.seals = []) ∧
      (s.conns = [(i, x)]) ∧ (x.tx = [k]) ∧ (x.sends = []) ∧ (x.key ≠ 0) ∧ (k.sealed = .sealing p m.buf) ∧
      (bitsOf (m.w 3) 7 0 = 0) ∧ (msgReply (m.w 0) = false) :=
  ⟨0, 0, 3, 0, { unc1 with key := 7, tx := [{ unp1 with sealed := .sealing 0 32 }] }, { unp1 with sealed := .sealing 0 32 }, { core := 0, thread := 0, words := [0x402000000000000, 0x2000000028, 0, 0, 0, 0, 0, 0] }, [], { cons { unc1 with key := 7, tx := [{ unp1 with sealed := .sealing 0 32 }] } with msgs := [{ core := 0, thread := 0, words := [0x402000000000000, 0x2000000028, 0, 0, 0, 0, 0, 0] }] }, by decide +kernel⟩

theorem witness_transportPackets_24 : ∃ (c : CoreId) (n : ThreadId) (i : Nat) (x : RxHdr) (d : Conn) (e : Ecc) (m : Msg) (l : List Msg) (s : State),
    (s.msgs = m :: l) ∧ (m.core = c.val ∧ m.thread = n.val) ∧
      (msgDest (m.w 0) = 0x04 ∧ msgType (m.w 0) = 0x01) ∧ (running s = true) ∧
      (40 ≤ m.len ∧ bitsOf (m.w 2) 23 0 + m.len ≤ poolSize (bPool m.buf)) ∧ (tpOn s = true) ∧ (s.sx.inbox = []) ∧
      (x = parseMft (storeRead s (bufAddr s m.buf (bitsOf (m.w 2) 23 0)) m.len)) ∧ (x.h.typ = 5) ∧
      (x.dstNode = myNode s) ∧ (s.conns = [(i, d)]) ∧
      (d.st = .open_ ∧ d.node = x.srcNode ∧ d.peerConn = beAt x.body 8 4 % 2 ^ 20) ∧ (d.key = 0 ∧ d.att = 0) ∧
      (msgReply (m.w 0) = false) :=
  ⟨0, 0, 3, parseMft (storeRead rxs (bufAddr rxs 32 0) 40), con1, {}, { core := 0, thread := 0, words := [0x401000000000000, 0x2000000028, 0, 0, 0, 0, 0, 0] }, [], rxs, by decide +kernel⟩

theorem witness_transportPackets_25 : ∃ (c : CoreId) (n : ThreadId) (a : Nat) (x : Att) (y : Tcp) (e : Ecc) (m : Msg) (l : List Msg) (s : State),
    (s.msgs = m :: l) ∧ (m.core = c.val ∧ m.thread = n.val) ∧
      (msgDest (m.w 0) = 0x05 ∧ msgType (m.w 0) = 0x02) ∧ (running s = true) ∧
      (bitsOf (m.w 2) 23 0 + m.len ≤ poolSize (bPool m.buf)) ∧
      (s.sx.atts = [(a, x)] ∧ (msgAnswer (devFree (storeMeet ({ s with msgs := l }) (bufAddr s m.buf (bitsOf (m.w 2)
          23 0)) m.len e) m.buf) m .success []).sx = s.sx) ∧
      (x.tcp = some y) ∧
      (y.port = (parseSeg (storeRead s (bufAddr s m.buf (bitsOf (m.w 2) 23 0)) m.len)).dport ∧ attV6 x = (parseSeg (storeRead
          s (bufAddr s m.buf (bitsOf (m.w 2) 23 0)) m.len)).v6 ∧ attAddr x = (parseSeg (storeRead s (bufAddr s m.buf (bitsOf (m.w
          2) 23 0)) m.len)).src ∧ sxAddr (msgAnswer (devFree (storeMeet ({ s with msgs := l }) (bufAddr s m.buf (bitsOf (m.w
          2) 23 0)) m.len e) m.buf) m .success []) (parseSeg (storeRead s (bufAddr s m.buf (bitsOf (m.w 2) 23 0))
          m.len)).v6 = (parseSeg (storeRead s (bufAddr s m.buf (bitsOf (m.w 2) 23 0)) m.len)).dst ∧ rcdN x 36 2 = (parseSeg (storeRead
          s (bufAddr s m.buf (bitsOf (m.w 2) 23 0)) m.len)).sport) ∧
      ((parseSeg (storeRead s (bufAddr s m.buf (bitsOf (m.w 2) 23 0)) m.len)).ok = true) ∧
      (x.st = .ready ∧ s.sx.cmds = []) ∧
      (bitOf (parseSeg (storeRead s (bufAddr s m.buf (bitsOf (m.w 2) 23 0)) m.len)).flags 2 = true) ∧
      ((parseSeg (storeRead s (bufAddr s m.buf (bitsOf (m.w 2) 23 0)) m.len)).seq = y.rcv) :=
  ⟨0, 0, 0, att1, tcp1, {}, { core := 0, thread := 0, words := [0x502000000000000, 0x2000000028, 0, 0, 0, 0, 0, 0] }, [], { { atts att1 with coop := { ready := true, bufs := [(32, ⟨.handed, 4145⟩)] }, mere := rstdata } with msgs := [{ core := 0, thread := 0, words := [0x502000000000000, 0x2000000028, 0, 0, 0, 0, 0, 0] }] }, by decide +kernel⟩

theorem witness_egressTransmission_1 : ∃ (n : NetPort) (c : Nat) (f : EFrame) (r : List EFrame) (s : State),
    (s.conns = []) ∧ (rd s F.EG_PORT_CFG_CAL_EN 0 n.val = 0) ∧ (rd s F.MA_PREEMPT_EN n.val = 0) ∧
      (schedule s n.val = some (c, s)) ∧ ((clsOf s n.val c).q = f :: r) ∧ (f.kind = .plain) ∧
      (rd s F.EG_SHAPE_RATE_EN 0 (egInst n.val c) = 0) ∧
      (lostAt s (bufAddr s f.buf f.off) (f.len - f.hdr.length) {} = none) :=
  ⟨0, 7, { len := 64, own := false }, [], wr { net0 with eg := [(0, { cls := [(7, { q := [{ len := 64, own := false }] })] })] } F.EG_SCHED_STRICT 0 0 255, by decide +kernel⟩

theorem witness_egressTransmission_2 : ∃ (n : NetPort) (r : TxRun) (s : State),
    ((egOf s n.val).run = some r) ∧ (runOver s r = true) ∧ (r.f.kind = .plain) :=
  ⟨0, { f := { len := 64, own := false }, cls := 0, left := 5, since := some 0, frag := 0 }, { net0 with eg := [(0, { run := some { f := { len := 64, own := false }, cls := 0, left := 5, since := some 0, frag := 0 } })] }, by decide +kernel⟩

theorem witness_egressTransmission_3 : ∃ (n : NetPort) (s : State),
    rd s F.EG_PORT_CFG_CAL_EN 0 n.val = 0 ∨ ((egOf s n.val).run = none ∧ (egOf s n.val).runP = none ∧ rd s
        F.MA_PREEMPT_EN n.val = 0) :=
  ⟨0, net0, by decide +kernel⟩

theorem witness_egressTransmission_4 : ∃ (p : HostPort) (v : Word) (s : State),
    (RegOpen s p true) ∧ (rd s F.EG_SEL_SET = 0) ∧ (calState s (rd s F.EG_SEL_PORT) = 0) ∧
      (calValid (shadowCal s (rd s F.EG_SEL_PORT)) = true) ∧
      (armCheck s (((latchGet s.wlatch p.val .pf0 F.EG_CAL_ARM_LO_EPOCH_LO.off) + v.toNat * 2 ^ 32) * 2 ^ 20) = none) :=
  ⟨0, 0, { live with ft := { st := .locked }, wlatch := [(latchKey 0 .pf0 F.EG_CAL_ARM_LO_EPOCH_LO.off, 5000)] }, by decide +kernel⟩

theorem witness_egressTransmission_5 : ∃ (p : HostPort) (v : Word) (s : State),
    (RegOpen s p true) ∧ (calState s (rd s F.EG_SEL_PORT) ≠ 0) :=
  ⟨0, 0, { live with armed := [(.cal 0, 5)] }, by decide +kernel⟩

theorem witness_egressTransmission_6 : ∃ (n : NetPort) (d : Nat) (s : State),
    (s.armed = [(.cal n.val, d)]) ∧ (d ≤ ftNs s) ∧ (rd s F.EG_PORT_CFG_CAL_EN 0 n.val = 0) ∧ (s.lk.st ≠ .lrs) :=
  ⟨0, 0, { net0 with armed := [(.cal 0, 0)] }, by decide +kernel⟩

theorem witness_egressTransmission_7 : ∃ (n : NetPort) (s : State),
    (egOf s n.val).copying = true :=
  ⟨0, { net0 with eg := [(0, { copying := true })] }, by decide +kernel⟩

theorem witness_sluiceCommands_1 : ∃ (p : HostPort) (v : Word) (s : State),
    (RegOpen s p true) ∧ (bitOf v.toNat 31 = true) ∧ ((regStore s F.SL_CMD_OP.off 0 v.toNat).2 = true) ∧
      (bitsOf v.toNat 1 0 = 0) :=
  ⟨0, 0x80000000, live, by decide +kernel⟩

theorem witness_sluiceCommands_2 : ∃ (p : HostPort) (v : Word) (s : State),
    (RegOpen s p true) ∧ (bitOf v.toNat 31 = true) ∧ ((regStore s F.SL_CMD_OP.off 0 v.toNat).2 = true) ∧
      (bitsOf v.toNat 1 0 = 1) ∧ (slInvalid (regStore s F.SL_CMD_OP.off 0 v.toNat).1 = false) ∧
      (slFind (regStore s F.SL_CMD_OP.off 0 v.toNat).1 (slKey (slEnt (regStore s F.SL_CMD_OP.off 0 v.toNat).1)) =
          none) :=
  ⟨0, 0x80000001, live, by decide +kernel⟩

theorem witness_sluiceCommands_3 : ∃ (p : HostPort) (v : Word) (s : State),
    (RegOpen s p true) ∧ (bitOf v.toNat 31 = true) ∧ ((regStore s F.SL_CMD_OP.off 0 v.toNat).2 = true) ∧
      (bitsOf v.toNat 1 0 = 2) :=
  ⟨0, 0x80000002, { live with sl := { ents := [(0, [0x80000000, 1, 2, 3])] } }, by decide +kernel⟩

theorem witness_sluiceCommands_5 : ∃ (n : NetPort) (b : List Byte) (i : Nat) (k : Commit) (q : Nat) (s : State),
    (s.sl.commits = [(i, k)]) ∧ (k.ing = n.val) ∧ (k.at_ ≤ s.clk) ∧ (k.started = false) ∧ (k.dead = false) ∧
      (k.egress = some q) ∧ (k.done = none) ∧ (sluiceMayStart s q = true) ∧ (rd s F.MA_PREEMPT_EN q = 0) ∧
      (paused s q k.cls = false) :=
  ⟨0, [], 4, { ing := 0, pipe := 0, since := 0, head := [], cls := 3, guard := 0, entry := 5, egress := some 1, at_ := 0, time := 0 }, 1, { net0 with sl := { commits := [(4, { ing := 0, pipe := 0, since := 0, head := [], cls := 3, guard := 0, entry := 5, egress := some 1, at_ := 0, time := 0 })] } }, by decide +kernel⟩

theorem witness_sluiceCommands_6 : ∃ (n : NetPort) (b : List Byte) (x y : Bool) (a : Nat) (s : State),
    (running s = true) ∧ (netUp s n.val = true) ∧ (slInFlight s n.val = false) :=
  ⟨0, List.replicate 64 0, false, false, 0, slon, by decide +kernel⟩

theorem witness_sluiceCommands_7 : ∃ (n : NetPort) (b : List Byte) (x y : Bool) (a : Nat) (s : State),
    (running s = true) ∧ (netUp s n.val = true) ∧ (slInFlight s n.val = true) :=
  ⟨0, List.replicate 64 0, false, false, 0, { slon with sl := { arr := [(0, [{ id := 4, at_ := 0, pipe := 0 }])] } }, by decide +kernel⟩

theorem witness_sluiceCommands_8 : ∃ (n : NetPort) (x : SlArr) (s : State),
    (s.sl.arr = [(n.val, [x])]) ∧ (x.got = none) ∧ (x.st = .fresh) ∧ (x.at_ + pclkPs ≤ s.clk) ∧
      (rd s F.SL_CFG_EN = 1) ∧ ((tciOf s n.val x.head).1 / 2 ^ 13 = rd s F.SL_CFG_CLASS) ∧
      (preemptActive s n.val = false ∨ x.viaExpress = true) ∧ (beAt x.head 12 2 ≠ 0x8808) ∧
      (acceptFails s n.val x.head = false) :=
  ⟨0, { id := 4, at_ := 10 ^ 15 - 12500, pipe := 0, head := List.replicate 64 0, st := .fresh }, { slon with sl := { slon.sl with arr := [(0, [{ id := 4, at_ := 10 ^ 15 - 12500, pipe := 0, head := List.replicate 64 0, st := .fresh }])] } }, by decide +kernel⟩

theorem witness_sluiceCommands_9 : ∃ (n : NetPort) (x : SlArr) (s : State),
    (s.sl.arr = [(n.val, [x])]) ∧ (x.got = none) ∧ (x.st = .fresh) ∧ (x.at_ + pclkPs ≤ s.clk) ∧
      (rd s F.SL_CFG_EN = 0 ∨ (tciOf s n.val x.head).1 / 2 ^ 13 ≠ rd s F.SL_CFG_CLASS ∨ (preemptActive s n.val =
          true ∧ x.viaExpress = false)) :=
  ⟨0, { id := 4, at_ := 10 ^ 15 - 12500, pipe := 0, head := List.replicate 64 0, st := .fresh }, { live with sl := { live.sl with arr := [(0, [{ id := 4, at_ := 10 ^ 15 - 12500, pipe := 0, head := List.replicate 64 0, st := .fresh }])] } }, by decide +kernel⟩

theorem witness_sluiceCommands_10 : ∃ (n : NetPort) (x : SlArr) (c wt g : Nat) (s : State),
    (s.sl.arr = [(n.val, [x])]) ∧ (x.got = none) ∧ (x.st = .cand c wt g) ∧ (x.at_ + 2 * pclkPs ≤ s.clk) ∧
      (slFind s (n.val, (tciOf s n.val (stripped s n.val x.head)).1 % 4096, beAt x.head 0 6) = none) :=
  ⟨0, { id := 4, at_ := 10 ^ 15 - 12500, pipe := 0, head := List.replicate 64 0, st := .cand 0 0 0 }, 0, 0, 0, { slon with sl := { slon.sl with arr := [(0, [{ id := 4, at_ := 10 ^ 15 - 12500, pipe := 0, head := List.replicate 64 0, st := .cand 0 0 0 }])] } }, by decide +kernel⟩

theorem witness_sluiceCommands_11 : ∃ (n : NetPort) (x : SlArr) (c wt g i : Nat) (s : State),
    (s.sl.arr = [(n.val, [x])]) ∧ (x.got = none) ∧ (x.st = .cand c wt g) ∧ (x.at_ + 2 * pclkPs ≤ s.clk) ∧
      (slFind s (n.val, (tciOf s n.val (stripped s n.val x.head)).1 % 4096, beAt x.head 0 6) = some i) ∧
      (x.parity = false) ∧ (i ∉ s.sl.bad) :=
  ⟨0, { id := 4, at_ := 10 ^ 15 - 12500, pipe := 0, head := List.replicate 64 0, st := .cand 0 0 0 }, 0, 0, 0, 5, { slnet with sl := { slnet.sl with arr := [(0, [{ id := 4, at_ := 10 ^ 15 - 12500, pipe := 0, head := List.replicate 64 0, st := .cand 0 0 0 }])] } }, by decide +kernel⟩

theorem witness_sluiceCommands_12 : ∃ (n : NetPort) (x : SlArr) (c wt g i : Nat) (s : State),
    (s.sl.arr = [(n.val, [x])]) ∧ (x.got = none) ∧ (x.st = .cand c wt g) ∧ (x.at_ + 2 * pclkPs ≤ s.clk) ∧
      (slFind s (n.val, (tciOf s n.val (stripped s n.val x.head)).1 % 4096, beAt x.head 0 6) = some i) ∧
      (i ∈ s.sl.bad) :=
  ⟨0, { id := 4, at_ := 10 ^ 15 - 12500, pipe := 0, head := List.replicate 64 0, st := .cand 0 0 0 }, 0, 0, 0, 5, { slbad with sl := { slbad.sl with arr := [(0, [{ id := 4, at_ := 10 ^ 15 - 12500, pipe := 0, head := List.replicate 64 0, st := .cand 0 0 0 }])] } }, by decide +kernel⟩

theorem witness_sluiceCommands_13 : ∃ (n : NetPort) (x : SlArr) (c wt g i k : Nat) (ws : List Nat) (s : State),
    (s.sl.arr = [(n.val, [x])]) ∧ (x.got = none) ∧ (x.st = .hit c wt g i ws) ∧ (x.at_ + 6 * pclkPs ≤ s.clk) ∧
      (slFails s n.val x.at_ c wt g i (fun k => ws.getD k 0) = some k) :=
  ⟨0, { id := 4, at_ := 10 ^ 15 - 12500, pipe := 0, head := List.replicate 64 0, st := .hit 0 0 0 5 [0x80000001, 0, 0, 1] }, 0, 0, 0, 5, 3, [0x80000001, 0, 0, 1], { slnet with sl := { slnet.sl with arr := [(0, [{ id := 4, at_ := 10 ^ 15 - 12500, pipe := 0, head := List.replicate 64 0, st := .hit 0 0 0 5 [0x80000001, 0, 0, 1] }])] } }, by decide +kernel⟩

theorem witness_sluiceCommands_14 : ∃ (n : NetPort) (x : SlArr) (c wt g i : Nat) (ws : List Nat) (s : State),
    (s.sl.arr = [(n.val, [x])]) ∧ (x.got = none) ∧ (x.st = .hit c wt g i ws) ∧ (x.at_ + 6 * pclkPs ≤ s.clk) ∧
      (slFails s n.val x.at_ c wt g i (fun k => ws.getD k 0) = none) ∧ (mget? s.sl.commits s.uid = none) :=
  ⟨0, { id := 4, at_ := 10 ^ 15 - 12500, pipe := 0, head := List.replicate 64 0, st := .hit 0 0 0 5 [0xC0000001, 0, 0, 0x500001] }, 0, 0, 0, 5, [0xC0000001, 0, 0, 0x500001], { slhost with sl := { slhost.sl with arr := [(0, [{ id := 4, at_ := 10 ^ 15 - 12500, pipe := 0, head := List.replicate 64 0, st := .hit 0 0 0 5 [0xC0000001, 0, 0, 0x500001] }])] } }, by decide +kernel⟩

theorem witness_locksmithCommands_1 : ∃ (p : HostPort) (e : Entry) (s : State),
    (AdminCmd s p.val 0x20 e) ∧ (ownerOf e = none) ∧
      (bitsOf (dw e 14) 31 24 = 0 ∧ bitsOf (dw e 14) 19 11 = 0 ∧ bitsOf (dw e 14) 7 2 = 0 ∧ bitsOf (dw e 14) 10 8 ≤
          4 ∧ (dw e 14) % 4 ≠ 0 ∧ dw e 15 ≠ 0) ∧
      ((mget? s.ls.roots (bitsOf (dw e 14) 23 20)).isSome = true) ∧ (lowCtx s s.ls.busy.length 0 < 4194304) :=
  ⟨0, ent [0x20, 0, 0, 0, 1, 2, 3, 4, 5, 6, 7, 8, 9, 10, 0x00000003, 100], { adm (ent [0x20, 0, 0, 0, 1, 2, 3, 4, 5, 6, 7, 8, 9, 10, 0x00000003, 100]) with ls := { roots := [(0, [1, 2])] } }, by decide +kernel⟩

theorem witness_locksmithCommands_2 : ∃ (p : HostPort) (e : Entry) (s : State),
    (AdminCmd s p.val 0x22 e) ∧ (dwZero e 4 15 = true) ∧ (s.conns = []) ∧ (s.ls.busy = []) ∧
      (∀ q : Fin 8, q ≠ p → (hpOf s q.val).aq.wait ≠ some ("keyctx", (ctxIdx (dw e 1)))) :=
  ⟨0, ent [0x22, 0xC0100000, 0, 0, 0, 0, 0, 0, 0, 0, 0, 0, 0, 0, 0, 0], { adm (ent [0x22, 0xC0100000, 0, 0, 0, 0, 0, 0, 0, 0, 0, 0, 0, 0, 0, 0]) with ls := { ctxs := [(0, { owner := none, port := 0, label := [1], root := 0, ktype := 0, encOk := true, decOk := true, limit := 100 })] } }, by decide +kernel⟩

theorem witness_locksmithCommands_3 : ∃ (p : HostPort) (e : Entry) (s : State),
    (AdminCmd s p.val 0x21 e) ∧ (keyArmed s (ctxIdx (dw e 1)) = false) ∧ (dw2 e 14 = 0) :=
  ⟨0, ent [0x21, 0xC0100000, 0, 0, 1, 2, 3, 4, 5, 6, 7, 8, 9, 10, 0, 0], { adm (ent [0x21, 0xC0100000, 0, 0, 1, 2, 3, 4, 5, 6, 7, 8, 9, 10, 0, 0]) with ls := { ctxs := [(0, { owner := none, port := 0, label := [1], root := 0, ktype := 0, encOk := true, decOk := true, limit := 100 })] } }, by decide +kernel⟩

theorem witness_locksmithCommands_4 : ∃ (p : HostPort) (e : Entry) (x : Ctx) (s : State),
    (AdminCmd s p.val 0x21 e) ∧ (keyArmed s (ctxIdx (dw e 1)) = false) ∧ (dw2 e 14 ≠ 0) ∧
      (armCheck s (dw2 e 14 * 2 ^ 20) = none) ∧ (mget? s.ls.ctxs (ctxIdx (dw e 1)) = some x) :=
  ⟨0, ent [0x21, 0xC0100000, 0, 0, 1, 2, 3, 4, 5, 6, 7, 8, 9, 10, 10, 0], { owner := none, port := 0, label := [1], root := 0, ktype := 0, encOk := true, decOk := true, limit := 100 }, { { adm (ent [0x21, 0xC0100000, 0, 0, 1, 2, 3, 4, 5, 6, 7, 8, 9, 10, 10, 0]) with ls := { ctxs := [(0, { owner := none, port := 0, label := [1], root := 0, ktype := 0, encOk := true, decOk := true, limit := 100 })] } } with ft := { st := .locked } }, by decide +kernel⟩

theorem witness_locksmithCommands_5 : ∃ (i : Fin 4194304) (x : Ctx) (b : List Byte) (g k : Nat) (s : State),
    (s.armed.find? (·.1 = .key i.val) = some (.key i.val, k)) ∧ (k ≤ ftNs s) ∧
      (mget? s.ls.ctxs i.val = some x) ∧ (x.armed = some (b, g)) ∧ (s.lk.st ≠ .lrs) :=
  ⟨0, { owner := none, port := 0, label := [1], root := 0, ktype := 0, encOk := true, decOk := true, limit := 100, armed := some ([7], 10) }, [7], 10, 0, { live with armed := [(.key 0, 0)], ls := { ctxs := [(0, { owner := none, port := 0, label := [1], root := 0, ktype := 0, encOk := true, decOk := true, limit := 100, armed := some ([7], 10) })] } }, by decide +kernel⟩

theorem witness_locksmithCommands_6 : ∃ (i : Fin 4194304) (x : Ctx) (s : State),
    mget? s.ls.ctxs i.val = some x :=
  ⟨0, { owner := none, port := 0, label := [1], root := 0, ktype := 0, encOk := true, decOk := true, limit := 100, olds := [{ kid := 0, label := [1], used := 0, limit := 100, graceEnd := 0 }, { kid := 0, label := [1], used := 0, limit := 100, graceEnd := 10 ^ 12 }] }, { live with ls := { ctxs := [(0, { owner := none, port := 0, label := [1], root := 0, ktype := 0, encOk := true, decOk := true, limit := 100, olds := [{ kid := 0, label := [1], used := 0, limit := 100, graceEnd := 0 }, { kid := 0, label := [1], used := 0, limit := 100, graceEnd := 10 ^ 12 }] })] } }, by decide +kernel⟩

theorem witness_locksmithCommands_7 : ∃ (r : LsReq) (l : List LsReq) (k : Nat) (s : State),
    (s.ls.queue = r :: l) ∧ (r.gf = true) ∧ (running s = true) ∧ (s.ls.entropyOk = true) ∧
      (lsFree s true = some k) ∧ (gfCheck s r = none) :=
  ⟨{ id := 4, core := 0, thread := 0, gf := true, addr := 0x180 }, [], 0, { lsst with ls := { queue := [{ id := 4, core := 0, thread := 0, gf := true, addr := 0x180 }] } }, by decide +kernel⟩

theorem witness_locksmithCommands_8 : ∃ (r : LsReq) (l : List LsReq) (k : Nat) (s : State),
    (s.ls.queue = r :: l) ∧ (r.gf = false) ∧ (running s = true) ∧ (s.ls.entropyOk = true) ∧
      (lsFree s false = some k) ∧
      (cryptCheck (cadd { s with ls := { s.ls with queue := s.ls.queue.filter (·.id ≠ r.id) } } 14 0 0 1) r = none) :=
  ⟨{ id := 4, core := 0, thread := 0, gf := false, addr := 0x180 }, [], 0, { crst with ls := { ctxs := [(0, { owner := none, port := 0, label := [1], root := 0, ktype := 0, encOk := true, decOk := true, limit := 100 })], queue := [{ id := 4, core := 0, thread := 0, gf := false, addr := 0x180 }] } }, by decide +kernel⟩

theorem witness_locksmithCommands_9 : ∃ (c : CoreId) (n : ThreadId) (e : Ecc) (b : LsBusy) (s : State),
    (s.ls.busy = [b]) ∧ (b.req.core = c.val ∧ b.req.thread = n.val) ∧ (running s = true) ∧ (b.fail = none) ∧
      (b.req.gf = true) ∧ ((thrOf s c.val n.val).lsOut = 1) ∧ ((thrOf s c.val n.val).lsFail = none) ∧
      (∀ q : Fin 8, (hpOf s q.val).aq.wait ≠ some ("keyctx", b.ctx)) ∧
      ((thrOf s c.val n.val).holds.any (·.1 = b.req.id) = true) :=
  ⟨0, 0, {}, { req := { id := 4, core := 0, thread := 0, gf := true, addr := 0x180 }, fail := none }, { lsst with ls := { busy := [{ req := { id := 4, core := 0, thread := 0, gf := true, addr := 0x180 }, fail := none }] } }, by decide +kernel⟩

theorem witness_locksmithCommands_10 : ∃ (s : State),
    s.ls.entropyOk = true :=
  ⟨live, by decide +kernel⟩

theorem witness_locksmithCommands_12 : ∃ (g : Bool) (s : State),
    lsFree s g = none :=
  ⟨true, { lsst with ls := { badGf := List.range 32, queue := [{ id := 4, core := 0, thread := 0, gf := true, addr := 0x180 }] } }, by decide +kernel⟩

theorem witness_storageAttachments_1 : ∃ (p : HostPort) (e : Entry) (g : Nat) (s : State),
    (AdminCmd s p.val 0x40 e) ∧ (dw2 e 4 % 64 = 0) ∧ (ownerCanReq s p.val none = true) ∧ (sysTag s p.val = some g) :=
  ⟨0, ent [0x40, 0x40100005, 0, 0, 0x8000, 0, 1, 0, 0, 0, 0, 0, 0, 0, 0, 0], 8192, adm (ent [0x40, 0x40100005, 0, 0, 0x8000, 0, 1, 0, 0, 0, 0, 0, 0, 0, 0, 0]), by decide +kernel⟩

theorem witness_storageAttachments_2 : ∃ (p : HostPort) (e : Entry) (b : List Byte) (k : Nat) (r : SysRead) (s : State),
    (running s = true) ∧ ((hpOf s p.val).aq.wait = some ("attach", 0)) ∧ ((hpOf s p.val).aq.cur = some e) ∧
      (b.length = 576) ∧ (leAt b 1 1 = 0) ∧ (1 ≤ dw e 6 ∧ dw e 6 ≤ 256) ∧ (dwZero e 7 15 = true) ∧
      (rcdOk b = true) ∧ (rd s F.SX_CFG_EN = 1) ∧ (attKeyOk s (hIdx (dw e 1)) (leAt b 8 4) = true) ∧
      (attOf s (hIdx (dw e 1)) (dw e 6) = none) ∧ (s.sx.atts.length < 65536) ∧
      (oldestRead s (.attach p) = some (k, r)) ∧ (r.drop = false) ∧ (objStale s e = false) :=
  ⟨0, ent [0x40, 0x40100005, 0, 0, 0x8000, 0, 1, 0, 0, 0, 0, 0, 0, 0, 0, 0], rcd1, 9000, { port := 0, fn := .pf0, what := .attach 0, since := 1 }, { wr tlive F.SX_CFG_EN 0 0 1 with hp := [(0, { hpUp with aq := { hpUp.aq with cur := some (ent [0x40, 0x40100005, 0, 0, 0x8000, 0, 1, 0, 0, 0, 0, 0, 0, 0, 0, 0]), wait := some ("attach", 0) } })], sreads := [(9000, { port := 0, fn := .pf0, what := .attach 0, since := 1 })] }, by decide +kernel⟩

theorem witness_storageAttachments_3 : ∃ (p : HostPort) (e : Entry) (a : Nat) (x : Att) (s : State),
    (AdminCmd s p.val 0x41 e) ∧ (attOf s (hIdx (dw e 1)) (dw e 4) = some (a, x)) ∧
      (mget? s.sx.atts a = some x) ∧ (dwZero e 5 15 = true) ∧ (x.detach = none) ∧ (s.sx.cmds = []) ∧
      (x.tcp = none) ∧ (overMft x = false) :=
  ⟨0, ent [0x41, 0x40100005, 0, 0, 1, 0, 0, 0, 0, 0, 0, 0, 0, 0, 0, 0], 0, { att1 with tcp := none }, { adm (ent [0x41, 0x40100005, 0, 0, 1, 0, 0, 0, 0, 0, 0, 0, 0, 0, 0, 0]) with sx := { atts := [(0, { att1 with tcp := none })] } }, by decide +kernel⟩

theorem witness_storageAttachments_4 : ∃ (a : Fin 65536) (k : Nat) (p : Nat) (x : Att) (s : State),
    (mget? s.sx.atts a.val = some x) ∧ (x.detach = some (k, p)) ∧ (k + msec 10 ≤ s.clk) ∧ (running s = true) :=
  ⟨0, 0, 0, { att1 with detach := some (0, 0) }, atts ({ att1 with detach := some (0, 0) }), by decide +kernel⟩

theorem witness_storageAttachments_5 : ∃ (a : Fin 65536) (x : Att) (s : State),
    (mget? s.sx.atts a.val = some x) ∧ (x.st = .connecting) ∧ (running s = true) ∧ (overMft x = false) :=
  ⟨0, { att1 with st := .connecting }, atts ({ att1 with st := .connecting }), by decide +kernel⟩

theorem witness_storageAttachments_6 : ∃ (a : Fin 65536) (x : Att) (s : State),
    (mget? s.sx.atts a.val = some x) ∧ (x.st = .connecting) ∧ (x.since + msec (bitsOf x.sess 15 0) ≤ s.clk) ∧
      (running s = true) :=
  ⟨0, { att1 with st := .connecting }, atts ({ att1 with st := .connecting }), by decide +kernel⟩

theorem witness_storageAttachments_7 : ∃ (a : Fin 65536) (x : Att) (s : State),
    (mget? s.sx.atts a.val = some x) ∧ (x.st = .reconnecting) ∧ (x.since + msec (bitsOf x.tmr 15 0) ≤ s.clk) ∧
      (running s = true) :=
  ⟨0, { att1 with st := .reconnecting }, atts ({ att1 with st := .reconnecting }), by decide +kernel⟩

theorem witness_storageAttachments_8 : ∃ (a : Fin 65536) (x : Att) (s : State),
    (mget? s.sx.atts a.val = some x) ∧ (x.st = .ready) ∧ (x.kaAt + attKato x / 2 ≤ s.clk) ∧ (running s = true) ∧
      (overMft x = false) :=
  ⟨0, att1, atts (att1), by decide +kernel⟩

theorem witness_storageAttachments_9 : ∃ (a : Fin 65536) (k : Nat) (x : Att) (s : State),
    (mget? s.sx.atts a.val = some x) ∧ (x.kaFrom = some k) ∧ (x.st = .ready) ∧ (k + attKato x ≤ s.clk) ∧
      (running s = true) :=
  ⟨0, 0, { att1 with kaFrom := some 0 }, atts ({ att1 with kaFrom := some 0 }), by decide +kernel⟩

theorem witness_storageAttachments_10 : ∃ (a : Fin 65536) (c : Tcp) (k : Nat) (x : Att) (s : State),
    (mget? s.sx.atts a.val = some x) ∧ (x.tcp = some c) ∧ (c.timer = some k) ∧ (k + tcpRto c ≤ s.clk) ∧
      (running s = true) ∧ (c.tries < 15) :=
  ⟨0, tcp1, 0, att1, atts (att1), by decide +kernel⟩

theorem witness_storageAttachments_11 : ∃ (a : Fin 65536) (c : Tcp) (k : Nat) (x : Att) (s : State),
    (mget? s.sx.atts a.val = some x) ∧ (x.tcp = some c) ∧ (c.timer = some k) ∧ (k + tcpRto c ≤ s.clk) ∧
      (running s = true) ∧ (15 ≤ c.tries) :=
  ⟨0, { tcp1 with tries := 15 }, 0, { att1 with tcp := some { tcp1 with tries := 15 } }, atts ({ att1 with tcp := some { tcp1 with tries := 15 } }), by decide +kernel⟩

theorem witness_storageAttachments_12 : ∃ (a : Fin 65536) (k : Nat) (x : Att) (s : State),
    (mget? s.sx.atts a.val = some x) ∧ (x.kaFrom = some k) ∧ (x.st = .ready) ∧ (k + attKato x ≤ s.clk) ∧
      (running s = true) ∧ (s.sx.cmds = []) :=
  ⟨0, 0, { att1 with kaFrom := some 0 }, atts ({ att1 with kaFrom := some 0 }), by decide +kernel⟩

theorem witness_storageAttachments_13 : ∃ (a : Fin 65536) (k : Nat) (p : Nat) (x : Att) (s : State),
    (mget? s.sx.atts a.val = some x) ∧ (x.detach = some (k, p)) ∧ (k + msec 10 ≤ s.clk) ∧ (running s = true) :=
  ⟨0, 0, 0, { att1 with detach := some (0, 0) }, atts ({ att1 with detach := some (0, 0) }), by decide +kernel⟩

theorem witness_storageAttachments_14 : ∃ (a : Fin 65536) (u : SessUp) (r : Nat) (x : Att) (s : State),
    (mget? s.sx.atts a.val = some x) ∧ (x.st = .connecting) ∧ (running s = true) ∧ (overMft x = false) ∧
      (setupBad x u = some r) :=
  ⟨0, { admin := 1, io := 0, cntlid := 1, ioccsz := 4, maxh2c := 4096, idSt := 0, nsze := 1, lba := 9, mdBytes := 0, irs := 1, wnd := 1, scale := 0, mss := 1460, ts := false, sack := false, success := true }, 2, { att1 with st := .connecting }, atts ({ att1 with st := .connecting }), by decide +kernel⟩

theorem witness_storageAttachments_15 : ∃ (a : Fin 65536) (u : SessUp) (x : Att) (s : State),
    (mget? s.sx.atts a.val = some x) ∧ (x.st = .connecting) ∧ (running s = true) ∧ (overMft x = false) ∧
      (setupBad x u = none) ∧ (s.sx.cmds = []) :=
  ⟨0, { admin := 0, io := 0, cntlid := 1, ioccsz := 4, maxh2c := 4096, idSt := 0, nsze := 1, lba := 9, mdBytes := 0, irs := 1, wnd := 1, scale := 0, mss := 1460, ts := false, sack := false, success := true }, { att1 with st := .connecting }, atts ({ att1 with st := .connecting }), by decide +kernel⟩

theorem witness_storageCommands_1 : ∃ (uid k a : Nat) (j : Job) (x : Att) (s : State),
    (JobReady s uid 0x85 j) ∧ (j.owner = some k) ∧ (attOf s k (dw (jobHead j) 9) = some (a, x)) ∧
      (x.detach = none) ∧ (nvmeOk x j = true) ∧
      (segsOwned ({ s with jobs := mset s.jobs uid { j with fresh := false } }) k (segsOf j.ents) = true) ∧
      ((segsOf j.ents).all (·.inMere) = true) ∧ (x.st = .connecting ∨ x.st = .reconnecting) :=
  ⟨9, 5, 0, { sq := 1, port := 0, owner := some 5, sqGen := 1, tenGen := 1, op := 0x85, cid := 7, noCpl := false, ents := [ent [0x85, 0, 0, 0, 0, 0, 0, 0, 0, 1, 0, 0, 0, 0, 0, 0]] }, { att1 with st := .connecting }, { atts { att1 with st := .connecting } with jobs := [(9, { sq := 1, port := 0, owner := some 5, sqGen := 1, tenGen := 1, op := 0x85, cid := 7, noCpl := false, ents := [ent [0x85, 0, 0, 0, 0, 0, 0, 0, 0, 1, 0, 0, 0, 0, 0, 0]] })] }, by decide +kernel⟩

theorem witness_storageCommands_2 : ∃ (uid k a : Nat) (j : Job) (x : Att) (s : State),
    (JobReady s uid 0x85 j) ∧ (j.owner = some k) ∧ (attOf s k (dw (jobHead j) 9) = some (a, x)) ∧
      (x.detach = none) ∧ (nvmeOk x j = true) ∧
      (segsOwned ({ s with jobs := mset s.jobs uid { j with fresh := false } }) k (segsOf j.ents) = true) ∧
      ((segsOf j.ents).all (·.inMere) = true) ∧ (x.st = .ready) :=
  ⟨9, 5, 0, { sq := 1, port := 0, owner := some 5, sqGen := 1, tenGen := 1, op := 0x85, cid := 7, noCpl := false, ents := [ent [0x85, 0, 0, 0, 0, 0, 0, 0, 0, 1, 0, 0, 0, 0, 0, 0]] }, att1, { atts att1 with jobs := [(9, { sq := 1, port := 0, owner := some 5, sqGen := 1, tenGen := 1, op := 0x85, cid := 7, noCpl := false, ents := [ent [0x85, 0, 0, 0, 0, 0, 0, 0, 0, 1, 0, 0, 0, 0, 0, 0]] })] }, by decide +kernel⟩

theorem witness_storageCommands_3 : ∃ (uid b : Nat) (c : SxCmd) (j : Job) (s : State),
    (mget? s.sx.cmds uid = some c) ∧ (mget? s.jobs uid = some j) ∧ (running s = true) ∧
      (c.st = .staging ∧ c.buf = none ∧ c.read = true) ∧ (s.sx.cmds.length = 1) ∧
      ((allocFrom s reqSx [5]).1.toOption = some b) :=
  ⟨9, 2684354560, { att := 0, opc := 1, len := 512, read := true, since := 0, tmo := 0, st := .staging }, { sq := 1, port := 0, owner := some 5, sqGen := 1, tenGen := 1, op := 0x85, cid := 7, noCpl := false, ents := [] }, { atts att1 with sx := { atts := [(0, att1)], cmds := [(9, { att := 0, opc := 1, len := 512, read := true, since := 0, tmo := 0, st := .staging })] }, jobs := [(9, { sq := 1, port := 0, owner := some 5, sqGen := 1, tenGen := 1, op := 0x85, cid := 7, noCpl := false, ents := [] })], coop := { ready := true, bufs := [(2684354560, ⟨.cached, 4145⟩)], cache := [(33165, [2684354560])] } }, by decide +kernel⟩

theorem witness_storageCommands_4 : ∃ (uid : Nat) (c : SxCmd) (s : State),
    (mget? s.sx.cmds uid = some c) ∧ (c.st = .staging ∧ c.buf = none) ∧ (c.stageAt + usec c.stageMax ≤ s.clk) ∧
      (running s = true) :=
  ⟨9, { att := 0, opc := 1, len := 512, read := true, since := 0, tmo := 0, st := .staging }, { atts att1 with sx := { atts := [(0, att1)], cmds := [(9, { att := 0, opc := 1, len := 512, read := true, since := 0, tmo := 0, st := .staging })] } }, by decide +kernel⟩

theorem witness_storageCommands_5 : ∃ (uid : Nat) (c : SxCmd) (x : Att) (s : State),
    (mget? s.sx.cmds uid = some c) ∧ (mget? s.sx.atts c.att = some x) ∧ (c.since + msec c.tmo < s.clk) ∧
      (running s = true) ∧ (c.st = .target) :=
  ⟨9, { att := 0, opc := 1, len := 512, read := true, since := 0, tmo := 0, st := .target }, att1, { atts att1 with sx := { atts := [(0, att1)], cmds := [(9, { att := 0, opc := 1, len := 512, read := true, since := 0, tmo := 0, st := .target })] } }, by decide +kernel⟩

theorem witness_storageCommands_6 : ∃ (c : CoreId) (n : ThreadId) (uid : Nat) (k : SxCmd) (m : Msg) (l : List Msg) (s : State),
    (s.msgs = m :: l) ∧ (m.core = c.val ∧ m.thread = n.val) ∧
      (msgDest (m.w 0) = 0x05 ∧ msgType (m.w 0) = 0x01) ∧ (running s = true) ∧ (msgReply (m.w 0) = false) ∧
      (s.sx.cmds = [(uid, k)]) ∧ (k.buf = some m.buf ∧ k.xts = true) ∧ (bitsOf (m.w 3) 7 0 ≠ 0) ∧ (k.st ≠ .dead) :=
  ⟨0, 0, 9, { att := 0, opc := 1, len := 512, read := true, since := 0, tmo := 0, st := .xts, buf := some 32, xts := true }, { core := 0, thread := 0, words := [0x501000000000000, 0x2000000028, 0, 3, 0, 0, 0, 0] }, [], { { atts att1 with sx := { atts := [(0, att1)], cmds := [(9, { att := 0, opc := 1, len := 512, read := true, since := 0, tmo := 0, st := .xts, buf := some 32, xts := true })] } } with msgs := [{ core := 0, thread := 0, words := [0x501000000000000, 0x2000000028, 0, 3, 0, 0, 0, 0] }] }, by decide +kernel⟩

theorem witness_storageCommands_7 : ∃ (c : CoreId) (n : ThreadId) (uid : Nat) (k : SxCmd) (m : Msg) (l : List Msg) (s : State),
    (s.msgs = m :: l) ∧ (m.core = c.val ∧ m.thread = n.val) ∧
      (msgDest (m.w 0) = 0x05 ∧ msgType (m.w 0) = 0x01) ∧ (running s = true) ∧ (msgReply (m.w 0) = false) ∧
      (s.sx.cmds = [(uid, k)]) ∧ (k.buf = some m.buf ∧ k.xts = true ∧ k.read = false) ∧ (bitsOf (m.w 3) 7 0 = 0) ∧
      (k.st ≠ .dead) :=
  ⟨0, 0, 9, { att := 0, opc := 1, len := 512, read := false, since := 0, tmo := 0, st := .xts, buf := some 32, xts := true }, { core := 0, thread := 0, words := [0x501000000000000, 0x2000000028, 0, 0, 0, 0, 0, 0] }, [], { { atts att1 with sx := { atts := [(0, att1)], cmds := [(9, { att := 0, opc := 1, len := 512, read := false, since := 0, tmo := 0, st := .xts, buf := some 32, xts := true })] } } with msgs := [{ core := 0, thread := 0, words := [0x501000000000000, 0x2000000028, 0, 0, 0, 0, 0, 0] }] }, by decide +kernel⟩

theorem witness_storageCommands_8 : ∃ (uid : Nat) (c : SxCmd) (s : State),
    (mget? s.sx.cmds uid = some c) ∧ (c.st = .staging ∧ c.buf = none) ∧ (c.stageAt + usec c.stageMax ≤ s.clk) ∧
      (running s = true) :=
  ⟨9, { att := 0, opc := 1, len := 512, read := true, since := 0, tmo := 0, st := .staging }, { atts att1 with sx := { atts := [(0, att1)], cmds := [(9, { att := 0, opc := 1, len := 512, read := true, since := 0, tmo := 0, st := .staging })] } }, by decide +kernel⟩

theorem witness_storageCommands_9 : ∃ (uid : Nat) (c : SxCmd) (x : Att) (s : State),
    (mget? s.sx.cmds uid = some c) ∧ (mget? s.sx.atts c.att = some x) ∧ (c.since + msec c.tmo < s.clk) ∧
      (running s = true) ∧ (c.st = .target) :=
  ⟨9, { att := 0, opc := 1, len := 512, read := true, since := 0, tmo := 0, st := .target }, att1, { atts att1 with sx := { atts := [(0, att1)], cmds := [(9, { att := 0, opc := 1, len := 512, read := true, since := 0, tmo := 0, st := .target })] } }, by decide +kernel⟩

theorem witness_carterTransfers_1 : ∃ (e : Fin 16) (c : Fin 64) (d : Desc) (x : Xfer) (k : Nat) (s : State),
    ((chanOf s e.val c.val).st = .active) ∧ ((chanOf s e.val c.val).act = some d) ∧
      (mget? s.xfers d.xid = some x) ∧ ((engOf s e.val).st = .running) ∧ (ownerCanReq s x.port x.tenant = true) ∧
      (k = min (burstBytes s x.port) (d.len - d.handed)) ∧ (d.handed + k < d.len) ∧ (d.toHost = true) ∧
      (k < x.left) ∧ (running s = true) ∧ (d.inside = false) ∧ (lostAt s (d.mere + d.handed) k {} = none) :=
  ⟨0, 0, { xid := 7, host := 0x1000, mere := 0, len := 10000, toHost := true }, { kind := .job 9, port := 0, unit := 0, left := 10000, chan := some 0 }, 4096, { portx with xfers := [(7, { kind := .job 9, port := 0, unit := 0, left := 10000, chan := some 0 })], engs := [(0, { chans := [(0, { st := .active, act := some { xid := 7, host := 0x1000, mere := 0, len := 10000, toHost := true } })] })] }, by decide +kernel⟩

theorem witness_carterTransfers_2 : ∃ (e : Fin 16) (c : Fin 64) (d : Desc) (x : Xfer) (k g : Nat) (s : State),
    ((chanOf s e.val c.val).st = .active) ∧ ((chanOf s e.val c.val).act = some d) ∧
      (mget? s.xfers d.xid = some x) ∧ ((engOf s e.val).st = .running) ∧ (ownerCanReq s x.port x.tenant = true) ∧
      (k = min (burstBytes s x.port) (d.len - d.handed)) ∧ (d.handed + k < d.len) ∧ (d.toHost = false) ∧
      (cutReqs d.host (fnOf s x.port (ownerFn x.tenant)).mrrs k d.handed k = [(d.handed, k)]) ∧
      (freeTag s x.port e.val = some g) ∧ (1 ≤ freeTags s x.port e.val) ∧ (running s = true) ∧ (d.inside = false) :=
  ⟨0, 0, { xid := 7, host := 0x1000, mere := 0, len := 10000, toHost := false }, { kind := .job 9, port := 0, unit := 0, left := 10000, chan := some 0 }, 512, 0, wr ({ portx with xfers := [(7, { kind := .job 9, port := 0, unit := 0, left := 10000, chan := some 0 })], engs := [(0, { chans := [(0, { st := .active, act := some { xid := 7, host := 0x1000, mere := 0, len := 10000, toHost := false } })] })] }) F.DX_CFG_BURST 0 0 0, by decide +kernel⟩

theorem witness_carterTransfers_3 : ∃ (w : WrReq) (l : List WrReq) (s : State),
    (s.wreqs = w :: l) ∧ (w.drop = false) ∧ (gensOk s w.gens = true) ∧
      (canReq s w.port (if w.pasid.isSome then .pf1 else .pf0) = true) :=
  ⟨{ port := 0, eng := 0, xid := 7, host := 0x1000, bytes := [1, 2], pasid := none }, [], { portx with wreqs := [{ port := 0, eng := 0, xid := 7, host := 0x1000, bytes := [1, 2], pasid := none }] }, by decide +kernel⟩

theorem witness_carterTransfers_4 : ∃ (w : WrReq) (l : List WrReq) (s : State),
    (s.wreqs = w :: l) ∧ (w.drop = true ∨ gensOk s w.gens = false) :=
  ⟨{ port := 0, eng := 0, xid := 7, host := 0x1000, bytes := [1, 2], pasid := none, drop := true }, [], { portx with wreqs := [{ port := 0, eng := 0, xid := 7, host := 0x1000, bytes := [1, 2], pasid := none, drop := true }] }, by decide +kernel⟩

theorem witness_carterTransfers_5 : ∃ (p : HostPort) (g : Fin 16384) (r : RdReq) (x : Xfer) (b : List Byte) (s : State),
    (mget? s.reads (p.val * 16384 + g.val) = some r) ∧ (r.drop = false) ∧ (b.length = r.len) ∧
      (mget? s.xfers r.xid = some x) ∧ (r.len < x.left) :=
  ⟨0, 3, { port := 0, fn := .pf0, eng := 0, ch := 0, xid := 7, host := 0x1000, mere := 64, len := 2, since := 0 }, { kind := .job 9, port := 0, unit := 0, left := 10000, chan := some 0 }, [1, 2], { portx with reads := [(3, { port := 0, fn := .pf0, eng := 0, ch := 0, xid := 7, host := 0x1000, mere := 64, len := 2, since := 0 })], xfers := [(7, { kind := .job 9, port := 0, unit := 0, left := 10000, chan := some 0 })] }, by decide +kernel⟩

theorem witness_carterTransfers_6 : ∃ (p : HostPort) (g : Fin 16384) (r : RdReq) (b : List Byte) (s : State),
    (mget? s.reads (p.val * 16384 + g.val) = some r) ∧ (r.drop = true) ∧ (b.length = r.len) :=
  ⟨0, 3, { port := 0, fn := .pf0, eng := 0, ch := 0, xid := 7, host := 0x1000, mere := 64, len := 2, since := 0, drop := true }, [1, 2], { portx with reads := [(3, { port := 0, fn := .pf0, eng := 0, ch := 0, xid := 7, host := 0x1000, mere := 64, len := 2, since := 0, drop := true })] }, by decide +kernel⟩

theorem witness_carterTransfers_7 : ∃ (p : HostPort) (g : Fin 16384) (r : RdReq) (s : State),
    (mget? s.reads (p.val * 16384 + g.val) = some r) ∧ (r.drop = true) ∧
      (r.since + timeoutOf (fnOf s p.val r.fn).cplTo ≤ s.clk) ∧ (running s = true) ∧ (s.lk.intake.length < 256) :=
  ⟨0, 3, { port := 0, fn := .pf0, eng := 0, ch := 0, xid := 7, host := 0x1000, mere := 64, len := 2, since := 0, drop := true }, { portx with reads := [(3, { port := 0, fn := .pf0, eng := 0, ch := 0, xid := 7, host := 0x1000, mere := 64, len := 2, since := 0, drop := true })] }, by decide +kernel⟩

theorem witness_carterTransfers_8 : ∃ (p : HostPort) (e : Nat) (s : State),
    (RegOpen s p false) ∧ (selEngine s p.val = some e) ∧ ((engOf s e).st = .running) ∧ ((engOf s e).chans = []) :=
  ⟨0, 0, portx, by decide +kernel⟩

theorem witness_carterTransfers_9 : ∃ (p : HostPort) (e c : Nat) (s : State),
    (RegOpen s p false) ∧ (selEngine s p.val = some e) ∧ ((engOf s e).st = .running) ∧
      (∃ k, (c, k) ∈ (engOf s e).chans ∧ k.st = .active) :=
  ⟨0, 0, 0, { portx with xfers := [(7, { kind := .job 9, port := 0, unit := 0, left := 10000, chan := some 0 })], engs := [(0, { chans := [(0, { st := .active, act := some { xid := 7, host := 0x1000, mere := 0, len := 10000, toHost := true } })] })] }, ⟨by decide +kernel, by decide +kernel, by decide +kernel, { st := .active, act := some { xid := 7, host := 0x1000, mere := 0, len := 10000, toHost := true } }, by decide +kernel⟩⟩

theorem witness_carterTransfers_10 : ∃ (p : HostPort) (e : Nat) (s : State),
    (RegOpen s p false) ∧ (selEngine s p.val = some e) ∧
      ((engOf s e).st = .stopped ∨ (engOf s e).st = .stopping) ∧ ((engOf s e).chans = []) ∧ (s.xfers = []) :=
  ⟨0, 0, { portx with engs := [(0, { st := .stopped })] }, by decide +kernel⟩

theorem witness_carterTransfers_11 : ∃ (e : Fin 16) (s : State),
    (running s = true) ∧ (portWidth s (engPort s e.val) ≠ 0) ∧
      ((engOf s e.val).st ≠ .halted ∧ (engOf s e.val).st ≠ .offline) ∧ ((engOf s e.val).chans = []) ∧
      (s.xfers = []) ∧ (s.wreqs = []) ∧ (s.reads = []) :=
  ⟨0, portx, by decide +kernel⟩

theorem witness_carterTransfers_12 : ∃ (e : Fin 16) (s : State),
    ((engOf s e.val).st = .halted) ∧ (s.reads = []) ∧ (s.xfers = []) ∧ ((engOf s e.val).chans = []) ∧
      (((engOf s e.val).halts.filter fun h => decide (s.clk - h < 1000000000000)).length ≤ rd s F.DX_CFG_HALT_MAX 0 (engPort
          s e.val)) :=
  ⟨0, { portx with engs := [(0, { st := .halted })] }, by decide +kernel⟩

theorem witness_carterTransfers_13 : ∃ (e : Fin 16) (s : State),
    ((engOf s e.val).st = .halted) ∧ (s.reads = []) ∧
      (rd s F.DX_CFG_HALT_MAX 0 (engPort s e.val) < ((engOf s e.val).halts.filter fun h => decide (s.clk - h <
          1000000000000)).length) :=
  ⟨0, { portx with engs := [(0, { st := .halted, halts := List.replicate 20 (10 ^ 15) })] }, by decide +kernel⟩

theorem witness_carterTransfers_14 : ∃ (p : HostPort) (g : Fin 16384) (r : RdReq) (b : List Byte) (s : State),
    mget? s.reads (p.val * 16384 + g.val) = some r :=
  ⟨0, 3, { port := 0, fn := .pf0, eng := 0, ch := 0, xid := 7, host := 0x1000, mere := 64, len := 2, since := 0, drop := true }, [1, 2], { portx with reads := [(3, { port := 0, fn := .pf0, eng := 0, ch := 0, xid := 7, host := 0x1000, mere := 64, len := 2, since := 0, drop := true })] }, by decide +kernel⟩

theorem witness_queueEngineJobs_1 : ∃ (uid : Nat) (j : Job) (a : Upset) (b : Nat) (s : State),
    (JobReady s uid 0x81 j) ∧ (txOk s j (segBytes (segsOf j.ents)) = true) ∧
      (segsOwned ({ s with jobs := mset s.jobs uid { j with fresh := false } }) (ownerReq j.owner) (segsOf j.ents) =
          true) ∧
      (xferPossible s j.port = true) ∧
      ((allocWork ({ s with jobs := mset s.jobs uid { j with fresh := false } }) (ownerReq j.owner) (max 1 (segBytes (segsOf
          j.ents)))).1.toOption = some b) ∧
      ((segsOf j.ents).any (fun g => !g.inMere) = true) :=
  ⟨9, { sq := 1, port := 0, owner := none, sqGen := 1, tenGen := 1, op := 0x81, cid := 7, noCpl := false, ents := [ent [0x81, 0, 0, 0, 0x8000, 0, 100, 0, 0x40000000, 0x000]] }, {}, 32, { portx with jobs := [(9, { sq := 1, port := 0, owner := none, sqGen := 1, tenGen := 1, op := 0x81, cid := 7, noCpl := false, ents := [ent [0x81, 0, 0, 0, 0x8000, 0, 100, 0, 0x40000000, 0x000]] })], coop := { ready := true, bufs := [(32, ⟨.cached, 4144⟩)], cache := [(33152, [32])] } }, by decide +kernel⟩

theorem witness_queueEngineJobs_2 : ∃ (uid : Nat) (j : Job) (b : Nat) (s : State),
    (JobReady s uid 0x86 j) ∧ ((segBytes (segsOf j.ents)) ≤ 65536) ∧
      (ringTakes s (dw (jobHead j) 8 % 4096) j.owner = true) ∧
      (segsOwned ({ s with jobs := mset s.jobs uid { j with fresh := false } }) (ownerReq j.owner) (segsOf j.ents) =
          true) ∧
      (xferPossible s j.port = true) ∧
      ((allocWork ({ s with jobs := mset s.jobs uid { j with fresh := false } }) (ownerReq j.owner) (max 1 (segBytes (segsOf
          j.ents)))).1.toOption = some b) ∧
      ((segsOf j.ents).any (fun g => !g.inMere) = true) :=
  ⟨9, { sq := 1, port := 0, owner := none, sqGen := 1, tenGen := 1, op := 0x86, cid := 7, noCpl := false, ents := [ent [0x86, 0, 0, 0, 0x8000, 0, 100, 0, 0, 0]] }, 32, wr ({ portx with jobs := [(9, { sq := 1, port := 0, owner := none, sqGen := 1, tenGen := 1, op := 0x86, cid := 7, noCpl := false, ents := [ent [0x86, 0, 0, 0, 0x8000, 0, 100, 0, 0, 0]] })], coop := { ready := true, bufs := [(32, ⟨.cached, 4144⟩)], cache := [(33152, [32])] } }) F.FC_RING_CFG_JOB 0 0 1, by decide +kernel⟩

theorem witness_queueEngineJobs_3 : ∃ (uid : Nat) (j : Job) (s : State),
    (JobReady s uid 0x82 j) ∧
      (segsOwned ({ s with jobs := mset s.jobs uid { j with fresh := false } }) (ownerReq j.owner) (segsOf j.ents) =
          true) :=
  ⟨9, { rxJob with fresh := true }, { portx with jobs := [(9, { rxJob with fresh := true })] }, by decide +kernel⟩

theorem witness_queueEngineJobs_4 : ∃ (uid : Nat) (j : Job) (s : State),
    (JobReady s uid 0x87 j) ∧
      (copyOk ({ s with jobs := mset s.jobs uid { j with fresh := false } }) ({ j with fresh := false }) (segBytes (segsOf
          j.ents)) = true) ∧
      (segsOwned ({ s with jobs := mset s.jobs uid { j with fresh := false } }) (ownerReq j.owner) (segsOf j.ents) =
          true) ∧
      ((segBytes (segsOf j.ents)) ≠ 0) ∧ (xferPossible s (cpPort j) = true) ∧
      (cpMere j = false ∧ cpWin j = false) ∧ ((segsOf j.ents).all (·.inMere) = true) :=
  ⟨9, { sq := 1, port := 0, owner := none, sqGen := 1, tenGen := 1, op := 0x87, cid := 7, noCpl := false, ents := [ent [0x87, 0, 0, 0, 32, 0, 100, 0x80000000, 0x9000, 0, 0, 0]] }, { portx with jobs := [(9, { sq := 1, port := 0, owner := none, sqGen := 1, tenGen := 1, op := 0x87, cid := 7, noCpl := false, ents := [ent [0x87, 0, 0, 0, 32, 0, 100, 0x80000000, 0x9000, 0, 0, 0]] })], coop := { ready := true, bufs := [(32, ⟨.owned, 4144⟩)] } }, by decide +kernel⟩

theorem witness_queueEngineJobs_5 : ∃ (uid : Nat) (j : Job) (s : State),
    (JobReady s uid 0x87 j) ∧
      (copyOk ({ s with jobs := mset s.jobs uid { j with fresh := false } }) ({ j with fresh := false }) (segBytes (segsOf
          j.ents)) = true) ∧
      (segsOwned ({ s with jobs := mset s.jobs uid { j with fresh := false } }) (ownerReq j.owner) (segsOf j.ents) =
          true) ∧
      ((segBytes (segsOf j.ents)) ≠ 0) ∧ (xferPossible s (cpPort j) = true) ∧ (cpMere j = true) ∧
      ((pairMove ({ s with jobs := mset s.jobs uid { j with fresh := false } }) false (ownerPasid s j.owner) (segsOf
          j.ents) [⟨cpBuf j, dw (jobHead j) 8, (segBytes (segsOf j.ents)), true⟩]) ≠ []) ∧
      (cpDir j = false) ∧ ((segsOf j.ents).all (·.inMere) = false) :=
  ⟨9, { sq := 1, port := 0, owner := none, sqGen := 1, tenGen := 1, op := 0x87, cid := 7, noCpl := false, ents := [ent [0x87, 0, 0, 0, 0x8000, 0, 100, 0, 0, 0, 32, 1]] }, { portx with jobs := [(9, { sq := 1, port := 0, owner := none, sqGen := 1, tenGen := 1, op := 0x87, cid := 7, noCpl := false, ents := [ent [0x87, 0, 0, 0, 0x8000, 0, 100, 0, 0, 0, 32, 1]] })], coop := { ready := true, bufs := [(32, ⟨.owned, 4144⟩)] } }, by decide +kernel⟩

theorem witness_queueEngineJobs_6 : ∃ (uid : Nat) (j : Job) (s : State),
    (JobReady s uid 0x87 j) ∧
      (copyOk ({ s with jobs := mset s.jobs uid { j with fresh := false } }) ({ j with fresh := false }) (segBytes (segsOf
          j.ents)) = true) ∧
      (segsOwned ({ s with jobs := mset s.jobs uid { j with fresh := false } }) (ownerReq j.owner) (segsOf j.ents) =
          true) ∧
      ((segBytes (segsOf j.ents)) = 0) :=
  ⟨9, { sq := 1, port := 0, owner := none, sqGen := 1, tenGen := 1, op := 0x87, cid := 7, noCpl := false, ents := [ent [0x87, 0, 0, 0, 0, 0, 0, 0, 0x9000, 0, 0, 0]] }, { portx with jobs := [(9, { sq := 1, port := 0, owner := none, sqGen := 1, tenGen := 1, op := 0x87, cid := 7, noCpl := false, ents := [ent [0x87, 0, 0, 0, 0, 0, 0, 0, 0x9000, 0, 0, 0]] })], coop := { ready := true, bufs := [(32, ⟨.owned, 4144⟩)] } }, by decide +kernel⟩

theorem witness_eventsAndFatalContainment_1 : ∃ (v : Ev) (i : Word) (s : State),
    (evClass v ≠ 2) ∧ (s.lk.st ≠ .lrs) ∧ (s.boot.por = true) :=
  ⟨.maLinkUp, 3, live, by decide +kernel⟩

theorem witness_eventsAndFatalContainment_2 : ∃ (e : Event) (r : List Event) (s : State),
    (s.lk.intake = e :: r) ∧ (lkRuns s = true) ∧ (s.lk.st ≠ .resetting ∨ s.boot.recovery = true) :=
  ⟨{ code := 5, cls := 1, inst := 0, time := 0 }, [], { live with lk := { st := .running, intake := [{ code := 5, cls := 1, inst := 0, time := 0 }] } }, by decide +kernel⟩

theorem witness_eventsAndFatalContainment_3 : ∃ (s : State),
    (s.boot.por = true) ∧ (s.lk.st = .running) ∧ (bootHeld s = false) ∧ (bootHeld s = false) ∧
      (bootHeld s = false) ∧ (bootHeld s = false) :=
  ⟨live, by decide +kernel⟩

theorem witness_eventsAndFatalContainment_4 : ∃ (s : State),
    (s.boot.por = true) ∧ (s.lk.st = .running) ∧ (bootHeld s = false) ∧ (bootHeld s = false) ∧
      (bootHeld s = false) ∧ (bootHeld s = false) :=
  ⟨live, by decide +kernel⟩

theorem witness_eventsAndFatalContainment_5 : ∃ (s : State),
    (s.boot.por = true) ∧ (s.lk.st = .running) ∧ (bootHeld s = false) ∧ (bootHeld s = false) ∧
      (bootHeld s = false) ∧ (bootHeld s = false) :=
  ⟨live, by decide +kernel⟩

theorem witness_eventsAndFatalContainment_6 : ∃ (s : State),
    (s.boot.por = true) ∧ (s.lk.st = .running) ∧ (bootHeld s = false) ∧ (bootHeld s = false) ∧
      (bootHeld s = false) ∧ (bootHeld s = false) :=
  ⟨live, by decide +kernel⟩

theorem witness_eventsAndFatalContainment_7 : ∃ (s : State),
    (s.boot.por = true) ∧ (s.lk.st = .fatal) ∧ (bootHeld s = false) :=
  ⟨{ live with lk := { st := .fatal } }, by decide +kernel⟩

theorem witness_eventsAndFatalContainment_8 : ∃ (l : List Byte) (s : State),
    (s.boot.sampled + msec 1 ≤ s.clk) ∧ (lkRuns s = true) ∧ (l.length = 16) :=
  ⟨List.replicate 16 60, live, by decide +kernel⟩

theorem witness_eventsAndFatalContainment_9 : ∃ (l : List Byte) (s : State),
    (s.boot.sampled + msec 1 ≤ s.clk) ∧ (lkRuns s = true) ∧ (l.length = 16) ∧ (s.boot.therm = .normal) ∧
      (s.hbm.stks = []) ∧ (rd s F.LK_THERMAL_WARN_C ≤ ((l.map (·.toNat)).foldl max 0)) ∧
      (((l.map (·.toNat)).foldl max 0) < rd s F.LK_THERMAL_TRIP_C) :=
  ⟨List.replicate 16 100, live, by decide +kernel⟩

theorem witness_eventsAndFatalContainment_10 : ∃ (d : Nat) (s : State),
    (s.boot.tripAt = some d) ∧ (d + msec 1 ≤ s.clk) ∧ (s.lk.st ≠ .lrs) ∧ (s.boot.por = true) :=
  ⟨5, { live with boot := { tripAt := some 5 }, hbm := { mig := .copy } }, by decide +kernel⟩

theorem witness_eventsAndFatalContainment_11 : ∃ (d : Nat) (s : State),
    (s.lk.fatalStart = some d) ∧ (s.lk.st = .fatal) ∧ (d + msec (rd s F.LK_POLICY_FATAL_DELAY) ≤ s.clk) ∧
      (rd s F.LK_POLICY_ACTION = 1) ∧ (lkRuns s = true) :=
  ⟨5, wr { live with lk := { st := .fatal, fatalStart := some 5 } } F.LK_POLICY_ACTION 0 0 1, by decide +kernel⟩

theorem witness_eventsAndFatalContainment_12 : ∃ (d : Nat) (s : State),
    (s.lk.fatalStart = some d) ∧ (s.lk.st = .fatal) ∧ (d + msec (rd s F.LK_POLICY_FATAL_DELAY) ≤ s.clk) ∧
      (rd s F.LK_POLICY_ACTION = 0) ∧ (resetHeld s = false) ∧ (lkRuns s = true) :=
  ⟨5, { live with lk := { st := .fatal, fatalStart := some 5 } }, by decide +kernel⟩

theorem witness_eventsAndFatalContainment_13 : ∃ (c : Nat) (s : State),
    (s.lk.resetWait = some c) ∧ (lkRuns s = true) ∧ (resetHeld s = false) :=
  ⟨2, { live with lk := { st := .running, resetWait := some 2 } }, by decide +kernel⟩

theorem witness_eventsAndFatalContainment_14 : ∃ (s : State),
    (s.lk.st ≠ .lrs) ∧ (s.boot.por = true) :=
  ⟨live, by decide +kernel⟩

theorem witness_eventsAndFatalContainment_15 : ∃ (s : State),
    (s.lk.st ≠ .lrs) ∧ (s.boot.por = true) ∧ (s.lk.wdAt + wdPs ≤ s.clk) :=
  ⟨live, by decide +kernel, by decide +kernel, by show 0 + wdPs ≤ 10 ^ 15; unfold wdPs oscPs; omega⟩

theorem witness_eventsAndFatalContainment_16 : ∃ (s : State),
    (s.lk.st ≠ .lrs) ∧ (s.boot.por = true) :=
  ⟨live, by decide +kernel⟩

theorem witness_eventsAndFatalContainment_17 : ∃ (c : Nat) (s : State),
    (s.lk.resetWait = some c) ∧ (lkRuns s = true) ∧ (resetHeld s = false) :=
  ⟨2, { live with lk := { st := .running, resetWait := some 2 } }, by decide +kernel⟩

theorem witness_eventsAndFatalContainment_18 : ∃ (e : Event) (r : List Event) (s : State),
    (s.lk.intake = e :: r) ∧ (lkRuns s = true) ∧ (s.lk.st ≠ .resetting ∨ s.boot.recovery = true) ∧
      (excluded s e.code = false) ∧ (mget? s.lk.log ((s.lk.tail + 1023) % 1024) = none) :=
  ⟨{ code := 5, cls := 1, inst := 0, time := 0 }, [], { live with lk := { st := .running, intake := [{ code := 5, cls := 1, inst := 0, time := 0 }] } }, by decide +kernel⟩

theorem witness_eventsAndFatalContainment_19 : ∃ (s : State),
    s.clk < s.lk.wdAt + wdPs :=
  ⟨{ live with lk := { live.lk with wdAt := 10 ^ 15 } }, by show 10 ^ 15 < 10 ^ 15 + wdPs; unfold wdPs oscPs; omega⟩

theorem witness_eventsAndFatalContainment_20 : ∃ (s : State),
    lkAlive s = true :=
  ⟨live, by decide +kernel⟩

theorem witness_mailboxCommands_1 : ∃ (p : HostPort) (v : Word) (s : State),
    (linkUp s p.val = true) ∧ ((fnOf s p.val .pf0).mse = true) ∧ (s.lk.st ≠ .lrs) ∧ (bitOf v.toNat 0 = true) ∧
      ((mbOf s p.val).st ≠ .busy) ∧ (mbRefuse s (mbOf s p.val) = none) :=
  ⟨0, 1, mbs 0 0, by decide +kernel⟩

theorem witness_mailboxCommands_2 : ∃ (p : HostPort) (v : Word) (s : State),
    (linkUp s p.val = true) ∧ ((fnOf s p.val .pf0).mse = true) ∧ (s.lk.st ≠ .lrs) ∧ (bitOf v.toNat 0 = true) ∧
      ((mbOf s p.val).st = .busy) :=
  ⟨0, 1, mbs 1 0, by decide +kernel⟩

theorem witness_mailboxCommands_3 : ∃ (p : HostPort) (s : State),
    (linkUp s p.val = true) ∧ ((fnOf s p.val .pf0).mse = true) ∧ (s.lk.st ≠ .lrs) ∧ ((mbOf s p.val).st = .done) :=
  ⟨0, { live with lk := { st := .running, mb := [(0, { st := .done })] } }, by decide +kernel⟩

theorem witness_mailboxCommands_4 : ∃ (p : HostPort) (s : State),
    (MbReady s p.val 0x00 false) ∧ (level s ≠ 1) ∧ (0 < min (bitsOf (mbWord (mbOf s p.val) 0x1000) 7 4) 2) ∧
      (bitsOf (mbWord (mbOf s p.val) 0x1000) 3 0 ≤ min (bitsOf (mbWord (mbOf s p.val) 0x1000) 7 4) 2) ∧
      ((mbOf s p.val).version = 0) :=
  ⟨0, modMb (mbs 0 0x21) 0 fun m => { m with version := 0 }, by decide +kernel⟩

theorem witness_mailboxCommands_5 : ∃ (p : HostPort) (s : State),
    MbReady s p.val 0x01 false :=
  ⟨0, mbs 1 0, by decide +kernel⟩

theorem witness_mailboxCommands_6 : ∃ (p : HostPort) (s : State),
    MbReady s p.val 0x02 false :=
  ⟨0, mbs 2 0, by decide +kernel⟩

theorem witness_mailboxCommands_7 : ∃ (p : HostPort) (i : SignedImg) (k : Nat) (r : SysRead) (s : State),
    (MbReady s p.val 0x03 true) ∧ (oldestRead s (.fcImage p) = some (k, r)) ∧ (imgCheck s 4 i = 0) ∧
      (imgSlot i < 16) ∧ (imgInUse s (imgSlot i) = false) ∧ (r.drop = false) :=
  ⟨0, img4, 9000, { port := 0, fn := .pf0, what := .fcImage 0, since := 1 }, { mbs 3 0 with sreads := [(9000, { port := 0, fn := .pf0, what := .fcImage 0, since := 1 })] }, by decide +kernel⟩

theorem witness_mailboxCommands_8 : ∃ (p : HostPort) (i : SignedImg) (k : Nat) (r : SysRead) (s : State),
    (MbReady s p.val 0x03 true) ∧ (oldestRead s (.fcImage p) = some (k, r)) ∧ (imgCheck s 4 i = 0) ∧
      (imgSlot i < 16) ∧ (imgInUse s (imgSlot i) = true) ∧ (r.drop = false) :=
  ⟨0, img4, 9000, { port := 0, fn := .pf0, what := .fcImage 0, since := 1 }, { mbs 3 0 with cores := [(0, { st := .running, image := 0 })], sreads := [(9000, { port := 0, fn := .pf0, what := .fcImage 0, since := 1 })] }, by decide +kernel⟩

theorem witness_mailboxCommands_9 : ∃ (p : HostPort) (i : SignedImg) (c : SignedCfg) (s : State),
    (MbReady s p.val 0x04 true) ∧ (imgCheck s 3 i = 0) ∧ (i.body = .signedCfg c) ∧ (i.bytes = mbPayload s p.val) :=
  ⟨0, img3, cfg3, mbp 4 img3.bytes, by decide +kernel⟩

theorem witness_mailboxCommands_10 : ∃ (p : HostPort) (s : State),
    (MbReady s p.val 0x05 true) ∧ (s.lk.resetWait = none) ∧ (resetHeld s = false) :=
  ⟨0, mbs 5 0, by decide +kernel⟩

theorem witness_mailboxCommands_11 : ∃ (p : HostPort) (v : Word) (s : State),
    (MbReady s p.val 0x10 true) ∧ (1 ≤ bitsOf v.toNat 9 0 ∧ bitsOf v.toNat 9 0 ≤ 1000) ∧
      (bitsOf v.toNat 30 10 = 0) :=
  ⟨0, 100, mbs 0x10 0, by decide +kernel⟩

theorem witness_mailboxCommands_12 : ∃ (p : HostPort) (g : DWord) (s : State),
    MbReady s p.val 0x11 false :=
  ⟨0, 12, mbs 0x11 0, by decide +kernel⟩

theorem witness_mailboxCommands_13 : ∃ (p : HostPort) (k : Nat) (s : State),
    (MbReady s p.val 0x20 true) ∧ (bitsOf (mbWord (mbOf s p.val) 0x1000) 2 0 = k + 1) ∧ (k < 4) :=
  ⟨0, 1, { mbs 0x20 2 with fuses := { inUse := [0, 7, 0, 0] } }, by decide +kernel⟩

theorem witness_mailboxCommands_14 : ∃ (p : HostPort) (i : SignedImg) (s : State),
    (MbReady s p.val 0x21 true) ∧ (1 ≤ imgType i ∧ imgType i ≤ 3) ∧ (imgCheck s (imgType i) i = 0) ∧
      (i.bytes = mbPayload s p.val) :=
  ⟨0, img3, mbp 0x21 img3.bytes, by decide +kernel⟩

theorem witness_mailboxCommands_15 : ∃ (p : HostPort) (k : Fin 8) (b : Bool) (s : State),
    (MbReady s p.val 0x22 true) ∧ (1 ≤ k.val ∧ k.val ≤ 3) :=
  ⟨0, 2, true, mbs 0x22 0, by decide +kernel⟩

theorem witness_mailboxCommands_16 : ∃ (p : HostPort) (s : State),
    MbReady s p.val 0x23 true :=
  ⟨0, mbs 0x23 0, by decide +kernel⟩

theorem witness_mailboxCommands_17 : ∃ (p : HostPort) (s : State),
    (mbReady s p.val 0x03 = true) ∧ (oldestRead s (.fcImage p) = none) ∧ (p.val = mgmtPort s) ∧
      (canReq s p.val .pf0 = true) ∧ ((fnOf s p.val .pf0).d3 = false) :=
  ⟨0, mbs 3 0, by decide +kernel⟩

theorem witness_mailboxCommands_18 : ∃ (p : HostPort) (s : State),
    (mbReady s p.val 0x03 = true) ∧ ((mbOf s p.val).orphans = []) ∧ (oldestRead s (.fcImage p) = none) ∧
      (p.val ≠ mgmtPort s) :=
  ⟨3, { mbs 3 0 with lk := { (mbs 3 0).lk with mb := [(3, mbOf (mbs 3 0) 0)] } }, by decide +kernel⟩

theorem witness_mailboxCommands_19 : ∃ (k : Nat) (s : State),
    mbNow s = none :=
  ⟨8, live, by decide +kernel⟩

theorem witness_mailboxCommands_20 : ∃ (p k : Nat) (r : Nat) (s : State),
    (mbNow s = some p) ∧ (mbOpen s = true) ∧ ((mbOf s p).orphans = []) ∧ (mbRefuse s (mbOf s p) = some r) :=
  ⟨0, 7, 2, { live with lk := { st := .running, mb := [(0, { st := .busy, version := 2, area := writeMem [] 0x100 (leBytes 4 0x7F) })] } }, by decide +kernel⟩

theorem witness_bootAndPower_2 : ∃ (b : Bool) (s : State),
    s.boot.por = false :=
  ⟨true, { State.reset with boot := { por := false } }, by decide +kernel⟩

theorem witness_bootAndPower_3 : ∃ (a b : FlashDir) (s : State),
    (s.boot.por = true) ∧ (s.lk.st = .boot ∨ s.lk.st = .resetting) ∧ (s.boot.err = 0) ∧ (s.boot.stage = 0) ∧
      (s.lk.halted = false) :=
  ⟨⟨5, []⟩, ⟨6, []⟩, State.reset, by decide +kernel⟩

theorem witness_bootAndPower_4 : ∃ (s : State),
    (s.boot.por = true) ∧ (s.lk.st = .boot ∨ s.lk.st = .resetting) ∧ (s.boot.err = 0) ∧ (s.boot.stage = 4) ∧
      (s.lk.halted = false) :=
  ⟨{ State.reset with boot := { stage := 4 } }, by decide +kernel⟩

theorem witness_bootAndPower_5 : ∃ (a b : Fin 16) (s : State),
    (s.boot.por = true) ∧ (s.lk.st = .boot ∨ s.lk.st = .resetting) ∧ (s.boot.err = 0) ∧ (s.boot.stage = 5) ∧
      (Nat.lor a.val b.val = 15) ∧ (s.lk.halted = false) :=
  ⟨15, 0, { State.reset with boot := { stage := 5 } }, by decide +kernel⟩

theorem witness_bootAndPower_6 : ∃ (s : State),
    (s.boot.por = true) ∧ (s.lk.st = .boot ∨ s.lk.st = .resetting) ∧ (s.boot.err = 0) ∧ (s.boot.stage = 6) ∧
      (s.lk.halted = false) :=
  ⟨{ State.reset with boot := { stage := 6 } }, by decide +kernel⟩

theorem witness_bootAndPower_7 : ∃ (s : State),
    (s.boot.por = true) ∧ (s.lk.st = .boot) ∧ (s.boot.err = 0) ∧ (s.boot.stage = 7) ∧ (s.boot.cfg = none) ∧
      (s.boot.dir = []) ∧ (s.lk.halted = false) :=
  ⟨{ State.reset with boot := { stage := 7 } }, by decide +kernel⟩

theorem witness_bootAndPower_8 : ∃ (e : FlashEnt) (r : List FlashEnt) (s : State),
    (s.boot.fcLeft = e :: r) ∧ (s.lk.st = .running) ∧ (imgCheck s 4 e.img = 0) ∧ (e.slot < 16) ∧
      (imgInUse s e.slot = false) ∧ (s.lk.halted = false) :=
  ⟨{ typ := 4, bank := 0, slot := 0, img := img4 }, [], { live with boot := { fcLeft := [{ typ := 4, bank := 0, slot := 0, img := img4 }] } }, by decide +kernel⟩

theorem witness_bootAndPower_9 : ∃ (e : FlashEnt) (r : List FlashEnt) (s : State),
    (s.boot.fcLeft = e :: r) ∧ (s.lk.st = .running) ∧ (imgCheck s 4 e.img ≠ 0) ∧ (s.lk.halted = false) :=
  ⟨{ typ := 4, bank := 0, slot := 0, img := { img4 with sigOk := false } }, [], { live with boot := { fcLeft := [{ typ := 4, bank := 0, slot := 0, img := { img4 with sigOk := false } }] } }, by decide +kernel⟩

theorem witness_bootAndPower_10 : ∃ (c : Fin 16) (s : State),
    (running s = true) ∧ (s.boot.clGate = true) ∧ (c.val ∉ s.clOff) ∧
      (∀ i : Fin 12, ((coreOf s (c.val * 12 + i.val)).st = .stopped ∨ (coreOf s (c.val * 12 + i.val)).st = .offline)
          ∧ (coreOf s (c.val * 12 + i.val)).stopAt + msec 1 ≤ s.clk) :=
  ⟨3, { live with boot := { clGate := true } }, by decide +kernel⟩

theorem witness_tallymanCommands_1 : ∃ (p : HostPort) (e : Entry) (s : State),
    (AdminCmd s p.val 0x3A e) ∧ (dw e 1 = 0 ∧ dw e 6 ≠ 0 ∧ dw e 6 < 65536 ∧ dwZero e 7 15 = true) ∧
      (snapArmed s = none) ∧ (armCheck s (dw2 e 4 * 2 ^ 20) = none) :=
  ⟨0, ent [0x3A, 0, 0, 0, 10, 0, 4, 0, 0, 0, 0, 0, 0, 0, 0, 0], { adm (ent [0x3A, 0, 0, 0, 10, 0, 4, 0, 0, 0, 0, 0, 0, 0, 0, 0]) with ft := { st := .locked } }, by decide +kernel⟩

theorem witness_tallymanCommands_2 : ∃ (k : Nat) (s : State),
    (snapArmed s = some k) ∧ (k ≤ ftNs s) ∧ (s.lk.st ≠ .lrs) ∧ (rd s F.TL_CTRL_EN = 0) :=
  ⟨0, wr { live with armed := [(.snap, 0)] } F.TL_CTRL_EN 0 0 0, by decide +kernel⟩

theorem witness_tallymanCommands_3 : ∃ (k : Nat) (s : State),
    (snapArmed s = some k) ∧ (k ≤ ftNs s) ∧ (s.lk.st ≠ .lrs) ∧ (rd s F.TL_CTRL_EN = 1) :=
  ⟨0, wr { live with armed := [(.snap, 0)] } F.TL_CTRL_EN 0 0 1, by decide +kernel⟩

theorem witness_tallymanCommands_4 : ∃ (p : HostPort) (e : Entry) (s : State),
    (AdminCmd s p.val 0x38 e) ∧
      (dw e 4 % 64 = 0 ∧ 4 ≤ (bitsOf (dw e 6) 20 16) ∧ (bitsOf (dw e 6) 20 16) ≤ 20 ∧ dw e 6 < 2 ^ 21 ∧ bitsOf (dw e
          6) 15 1 = 0 ∧ dwZero e 7 15 = true) ∧
      ((if (dumpRingOf e) = 0 then devRecords s else 2) ≤ 2 ^ (bitsOf (dw e 6) 20 16)) ∧
      (mget? s.tl.rings (dumpRingOf e) = none) :=
  ⟨0, ent [0x38, 0x40100005, 0, 0, 0x8000, 0, 0x50001, 0, 0, 0, 0, 0, 0, 0, 0, 0], adm (ent [0x38, 0x40100005, 0, 0, 0x8000, 0, 0x50001, 0, 0, 0, 0, 0, 0, 0, 0, 0]), by decide +kernel⟩

theorem witness_tallymanCommands_5 : ∃ (p : HostPort) (e : Entry) (d : DumpRing) (s : State),
    (AdminCmd s p.val 0x39 e) ∧ (dwZero e 4 15 = true) ∧ (mget? s.tl.rings (dumpRingOf e) = some d) ∧
      (d.pend = none) :=
  ⟨0, ent [0x39, 0x40100005, 0, 0, 0, 0, 0, 0, 0, 0, 0, 0, 0, 0, 0, 0], { port := 0, ring := 0x8000, log2 := 5, noSnoop := false }, { adm (ent [0x39, 0x40100005, 0, 0, 0, 0, 0, 0, 0, 0, 0, 0, 0, 0, 0, 0]) with tl := { rings := [(6, { port := 0, ring := 0x8000, log2 := 5, noSnoop := false })] } }, by decide +kernel⟩

theorem witness_tallymanCommands_6 : ∃ (r : Fin 4097) (d : DumpRing) (x : Snap) (h : HostData) (s : State),
    (mget? s.tl.rings r.val = some d) ∧ (d.pend = some x) ∧ (s.lk.st ≠ .lrs ∧ s.lk.st ≠ .resetting) ∧ (r ≠ 0) ∧
      (dumpAllowed s r.val d = true) ∧ (ringFill d.tail d.hdev + x.recs.length ≤ 2 ^ d.log2) ∧
      (d.destroyer = none) ∧ (dumpLive s r.val = true) ∧ ((hpOf s d.port).ltssm ≠ .l1) ∧
      (∀ x ∈ s.sreads, x.2.what ≠ .dump r.val) :=
  ⟨6, { port := 0, ring := 0x8000, log2 := 5, noSnoop := false, pend := some { epoch := 4, time := 0, span := 1, recs := [{ unit := 4, inst := 5, first := 0, vals := [1, 2, 3, 4] }] } }, { epoch := 4, time := 0, span := 1, recs := [{ unit := 4, inst := 5, first := 0, vals := [1, 2, 3, 4] }] }, .timeout, { tlive with tl := { rings := [(6, { port := 0, ring := 0x8000, log2 := 5, noSnoop := false, pend := some { epoch := 4, time := 0, span := 1, recs := [{ unit := 4, inst := 5, first := 0, vals := [1, 2, 3, 4] }] } })] } }, by decide +kernel⟩

theorem witness_tallymanCommands_7 : ∃ (r : Fin 4097) (d : DumpRing) (x : Snap) (h : HostData) (s : State),
    (mget? s.tl.rings r.val = some d) ∧ (d.pend = some x) ∧ (s.lk.st ≠ .lrs ∧ s.lk.st ≠ .resetting) ∧ (r ≠ 0) ∧
      (dumpAllowed s r.val d = false) ∧ (d.destroyer = none) ∧ (dumpLive s r.val = true) ∧
      (∀ x ∈ s.sreads, x.2.what ≠ .dump r.val) :=
  ⟨6, { port := 0, ring := 0x8000, log2 := 5, noSnoop := false, pend := some { epoch := 4, time := 0, span := 1, recs := [{ unit := 4, inst := 5, first := 0, vals := [1, 2, 3, 4] }] } }, { epoch := 4, time := 0, span := 1, recs := [{ unit := 4, inst := 5, first := 0, vals := [1, 2, 3, 4] }] }, .timeout, { tlive with hp := [], tl := { rings := [(6, { port := 0, ring := 0x8000, log2 := 5, noSnoop := false, pend := some { epoch := 4, time := 0, span := 1, recs := [{ unit := 4, inst := 5, first := 0, vals := [1, 2, 3, 4] }] } })] } }, by decide +kernel⟩

theorem witness_tallymanCommands_8 : ∃ (r : Fin 4097) (d : DumpRing) (x : Snap) (h : HostData) (s : State),
    (mget? s.tl.rings r.val = some d) ∧ (d.pend = some x) ∧ (s.lk.st ≠ .lrs ∧ s.lk.st ≠ .resetting) ∧ (r ≠ 0) ∧
      (d.destroyer = none) ∧ (∀ x ∈ s.sreads, x.2.what ≠ .dump r.val) ∧ (dumpLive s r.val = false) :=
  ⟨6, { port := 0, ring := 0x8000, log2 := 5, noSnoop := false, pend := some { epoch := 4, time := 0, span := 1, recs := [{ unit := 4, inst := 5, first := 0, vals := [1, 2, 3, 4] }] } }, { epoch := 4, time := 0, span := 1, recs := [{ unit := 4, inst := 5, first := 0, vals := [1, 2, 3, 4] }] }, .timeout, { tlive with tens := [], tl := { rings := [(6, { port := 0, ring := 0x8000, log2 := 5, noSnoop := false, pend := some { epoch := 4, time := 0, span := 1, recs := [{ unit := 4, inst := 5, first := 0, vals := [1, 2, 3, 4] }] } })] } }, by decide +kernel⟩

theorem witness_testAccessPort_4 : ∃ (s : State),
    s.boot.por = false :=
  ⟨{ live with boot := { por := false } }, by decide +kernel⟩

theorem witness_testAccessPort_5 : ∃ (s : State),
    s.boot.por = true :=
  ⟨live, by decide +kernel⟩

theorem witness_testAccessPort_6 : ∃ (s : State),
    (s.dbg.st ≠ .open) ∧ (s.dbg.reqs = []) :=
  ⟨live, by decide +kernel⟩

theorem witness_testAccessPort_7 : ∃ (s : State),
    s.dbg.st = .open :=
  ⟨dbst 4 [], by decide +kernel⟩

theorem witness_testAccessPort_8 : ∃ (w : BitVec 36) (s : State),
    (s.boot.por = true) ∧ (s.dbg.waiting = none) ∧ (s.dbg.frameOut = []) ∧ (bitOf w.toNat 35 = false) :=
  ⟨0, live, by decide +kernel⟩

theorem witness_testAccessPort_9 : ∃ (w : BitVec 36) (h : Nat) (x : List Nat) (s : State),
    (s.boot.por = true) ∧ (s.dbg.waiting = none) ∧ (s.dbg.frameOut = []) ∧
      (bitOf w.toNat 35 = true ∧ bitOf w.toNat 34 = false) ∧ (s.dbg.frameIn = h :: x) ∧
      (x.length + 2 < h % 65536 + 2) :=
  ⟨0x800000007, 2, [], { live with dbg := { frameIn := [2] } }, by decide +kernel⟩

theorem witness_testAccessPort_10 : ∃ (q : Nat) (y : List Nat) (l : List (Nat × Nat × List Nat × Bool)) (s : State),
    (s.dbg.reqs = (0x01, q, y, true) :: l) ∧ (s.lk.st ≠ .lrs) ∧ (y = []) ∧
      (s.dbg.st = .closed ∨ s.dbg.st = .challenged) ∧ ((debugKey s).isSome = true) :=
  ⟨3, [], [], { live with boot := { cfg := some { cfg3 with debugKey := some [1] } }, dbg := { reqs := [(0x01, 3, [], true)] } }, by decide +kernel⟩

theorem witness_testAccessPort_11 : ∃ (q : Nat) (y : List Nat) (l : List (Nat × Nat × List Nat × Bool)) (s : State),
    (s.dbg.reqs = (0x02, q, y, true) :: l) ∧ (s.lk.st ≠ .lrs) ∧ (y.length = 49 ∧ y.getD 0 0 < 16) ∧
      (s.dbg.st = .challenged) ∧ (s.dbg.nonce.isSome = true) ∧ ((debugKey s).isSome = true) :=
  ⟨3, 15 :: List.replicate 48 0, [], { live with boot := { cfg := some { cfg3 with debugKey := some [1] } }, dbg := { st := .challenged, nonce := some [1], reqs := [(0x02, 3, 15 :: List.replicate 48 0, true)] } }, by decide +kernel⟩

theorem witness_testAccessPort_12 : ∃ (q : Nat) (y : List Nat) (l : List (Nat × Nat × List Nat × Bool)) (s : State),
    (s.dbg.reqs = (0x02, q, y, true) :: l) ∧ (s.lk.st ≠ .lrs) ∧ (y.length = 49 ∧ y.getD 0 0 < 16) ∧
      (s.dbg.st = .challenged) ∧ (s.dbg.row < 3) :=
  ⟨3, 15 :: List.replicate 48 0, [], { live with boot := { cfg := some { cfg3 with debugKey := some [1] } }, dbg := { st := .challenged, nonce := some [1], reqs := [(0x02, 3, 15 :: List.replicate 48 0, true)] } }, by decide +kernel⟩

theorem witness_testAccessPort_13 : ∃ (q : Nat) (y : List Nat) (l : List (Nat × Nat × List Nat × Bool)) (s : State),
    (s.dbg.reqs = (0x02, q, y, true) :: l) ∧ (s.lk.st ≠ .lrs) ∧ (y.length = 49 ∧ y.getD 0 0 < 16) ∧
      (s.dbg.st = .challenged) ∧ (s.dbg.row = 3) :=
  ⟨3, 15 :: List.replicate 48 0, [], { live with boot := { cfg := some { cfg3 with debugKey := some [1] } }, dbg := { st := .challenged, nonce := some [1], row := 3, reqs := [(0x02, 3, 15 :: List.replicate 48 0, true)] } }, by decide +kernel⟩

theorem witness_testAccessPort_14 : ∃ (q : Nat) (y : List Nat) (l : List (Nat × Nat × List Nat × Bool)) (s : State),
    (s.dbg.reqs = (0x03, q, y, true) :: l) ∧ (s.lk.st ≠ .lrs) ∧ (s.dbg.st = .open) ∧ (y = []) :=
  ⟨3, [], [], dbst 0x03 [], by decide +kernel⟩

theorem witness_testAccessPort_15 : ∃ (q : Nat) (y : List Nat) (l : List (Nat × Nat × List Nat × Bool)) (s : State),
    (s.dbg.reqs = (0x04, q, y, true) :: l) ∧ (s.lk.st ≠ .lrs) ∧ (s.dbg.st = .open) ∧
      (bitOf s.dbg.rights 0 = true) ∧ (y = []) :=
  ⟨3, [], [], dbst 0x04 [], by decide +kernel⟩

theorem witness_testAccessPort_16 : ∃ (s : State),
    (s.dbg.st = .open) ∧ (s.dbg.lastFrame + 60 * 10 ^ 12 ≤ s.clk) :=
  ⟨dbst 4 [], by decide +kernel⟩

theorem witness_testAccessPort_17 : ∃ (s : State),
    (s.dbg.st = .lockedOut) ∧ (s.dbg.lockTill ≤ s.clk) :=
  ⟨{ live with dbg := { st := .lockedOut } }, by decide +kernel⟩

theorem witness_testAccessPort_18 : ∃ (q : Nat) (y : List Nat) (l : List (Nat × Nat × List Nat × Bool)) (s : State),
    (s.dbg.reqs = (0x03, q, y, true) :: l) ∧ (s.lk.st ≠ .lrs) ∧ (s.dbg.st = .open) ∧ (y = []) :=
  ⟨3, [], [], dbst 0x03 [], by decide +kernel⟩

theorem witness_debugCommands_1 : ∃ (q : Nat) (y : List Nat) (l : List (Nat × Nat × List Nat × Bool)) (s : State),
    (s.dbg.reqs = (0x10, q, y, true) :: l) ∧ (s.lk.st ≠ .lrs) ∧ (s.dbg.st = .open) ∧
      (bitOf s.dbg.rights 1 = true) ∧ (y.length = 2 ∧ y.getD 0 0 % 256 < 192) ∧
      (anyThr (haltMask { s with dbg := { s.dbg with reqs := l } } (y.getD 0 0 % 256) (y.getD 1 0 % 65536)) (y.getD
          0 0 % 256) (y.getD 1 0 % 65536) (·.haltPend) = false) :=
  ⟨3, [0, 1], [], { dbst 0x10 [0, 1] with cores := [(0, { st := .running, threads := [(0, { fthr with st := .running })] })] }, by decide +kernel⟩

theorem witness_debugCommands_2 : ∃ (q : Nat) (y : List Nat) (l : List (Nat × Nat × List Nat × Bool)) (s : State),
    (s.dbg.reqs = (0x11, q, y, true) :: l) ∧ (s.lk.st ≠ .lrs) ∧ (s.dbg.st = .open) ∧
      (bitOf s.dbg.rights 1 = true) ∧ (y.length = 2 ∧ y.getD 0 0 % 256 < 192) :=
  ⟨3, [0, 1], [], { dbst 0x11 [0, 1] with cores := [(0, { st := .running, threads := [(0, { fthr with st := .halted })] })] }, by decide +kernel⟩

theorem witness_debugCommands_3 : ∃ (q : Nat) (y : List Nat) (l : List (Nat × Nat × List Nat × Bool)) (n : Nat) (s : State),
    (s.dbg.reqs = (0x12, q, y, true) :: l) ∧ (s.lk.st ≠ .lrs) ∧ (s.dbg.st = .open) ∧
      (bitOf s.dbg.rights 1 = true) ∧ (y.length = 2 ∧ y.getD 0 0 % 256 < 192) ∧
      (((List.range 16).filter fun k => bitOf (y.getD 1 0 % 65536) k) = [n]) ∧
      ((thrOf s (y.getD 0 0 % 256) n).st = .halted) ∧ (weight s (y.getD 0 0 % 256) n ≠ 0) :=
  ⟨3, [0, 1], [], 0, { dbst 0x12 [0, 1] with cores := [(0, { st := .running, threads := [(0, { fthr with st := .halted })] })] }, by decide +kernel⟩

theorem witness_debugCommands_4 : ∃ (q : Nat) (y : List Nat) (l : List (Nat × Nat × List Nat × Bool)) (s : State),
    (s.dbg.reqs = (0x13, q, y, true) :: l) ∧ (s.lk.st ≠ .lrs) ∧ (s.dbg.st = .open) ∧
      (bitOf s.dbg.rights 1 = true) ∧ (y.length = 2 ∧ y.getD 0 0 % 256 < 192) :=
  ⟨3, [0, 1], [], { dbst 0x13 [0, 1] with cores := [(0, { st := .running, threads := [(0, { fthr with st := .halted })] })] }, by decide +kernel⟩

theorem witness_debugCommands_5 : ∃ (q : Nat) (y : List Nat) (l : List (Nat × Nat × List Nat × Bool)) (s : State),
    (s.dbg.reqs = (0x18, q, y, true) :: l) ∧ (s.lk.st ≠ .lrs) ∧ (s.dbg.st = .open) ∧
      (bitOf s.dbg.rights 1 = true) ∧ (y.length = 3 ∧ (y.getD 0 0) % 256 < 192) ∧ (bitOf (y.getD 0 0) 31 = true) :=
  ⟨3, [0x80000000, 5, 1], [], dbst 0x18 [0x80000000, 5, 1], by decide +kernel⟩

theorem witness_debugCommands_6 : ∃ (q : Nat) (y : List Nat) (l : List (Nat × Nat × List Nat × Bool)) (s : State),
    (s.dbg.reqs = (0x18, q, y, true) :: l) ∧ (s.lk.st ≠ .lrs) ∧ (s.dbg.st = .open) ∧
      (bitOf s.dbg.rights 1 = true) ∧ (y.length = 3 ∧ (y.getD 0 0) % 256 < 192) ∧ (bitOf (y.getD 0 0) 31 = false) :=
  ⟨3, [0, 5, 1], [], dbst 0x18 [0, 5, 1], by decide +kernel⟩

theorem witness_debugCommands_7 : ∃ (q : Nat) (y : List Nat) (l : List (Nat × Nat × List Nat × Bool)) (s : State),
    (s.dbg.reqs = (0x19, q, y, true) :: l) ∧ (s.lk.st ≠ .lrs) ∧ (s.dbg.st = .open) ∧
      (bitOf s.dbg.rights 1 = true) ∧ (y.length = 4 ∧ (y.getD 0 0) % 256 < 192) ∧
      (1 ≤ y.getD 2 0 % 2 ^ 13 ∧ y.getD 2 0 % 2 ^ 13 ≤ 4096 ∧ y.getD 1 0 % 2 ^ 18 + y.getD 2 0 % 2 ^ 13 ≤ 2 ^ 18) ∧
      (bitOf (y.getD 0 0) 31 = true) :=
  ⟨3, [0x80030000, 64, 8, 1], [], dbst 0x19 [0x80030000, 64, 8, 1], by decide +kernel⟩

theorem witness_debugCommands_8 : ∃ (q : Nat) (y : List Nat) (l : List (Nat × Nat × List Nat × Bool)) (s : State),
    (s.dbg.reqs = (0x19, q, y, true) :: l) ∧ (s.lk.st ≠ .lrs) ∧ (s.dbg.st = .open) ∧
      (bitOf s.dbg.rights 1 = true) ∧ (y.length = 4 ∧ (y.getD 0 0) % 256 < 192) ∧
      (1 ≤ y.getD 2 0 % 2 ^ 13 ∧ y.getD 2 0 % 2 ^ 13 ≤ 4096 ∧ y.getD 1 0 % 2 ^ 18 + y.getD 2 0 % 2 ^ 13 ≤ 2 ^ 18) ∧
      (bitOf (y.getD 0 0) 31 = false) :=
  ⟨3, [0, 64, 8, 1], [], dbst 0x19 [0, 64, 8, 1], by decide +kernel⟩

theorem witness_debugCommands_9 : ∃ (q : Nat) (y : List Nat) (l : List (Nat × Nat × List Nat × Bool)) (s : State),
    (s.dbg.reqs = (0x20, q, y, true) :: l) ∧ (s.lk.st ≠ .lrs) ∧ (s.dbg.st = .open) ∧
      (bitOf s.dbg.rights 0 = true) ∧ (y.length = 4 ∧ (y.getD 0 0) % 8 = 0) ∧
      (1 ≤ (y.getD 3 0 % 512) ∧ (y.getD 3 0 % 512) ≤ 256) ∧ (s.lk.st ≠ .fatal) ∧
      (y.getD 1 0 % 256 < 192 ∧ y.getD 2 0 % 4 = 0 ∧ y.getD 2 0 + 4 * (y.getD 3 0 % 512) ≤ 2 ^ 18) :=
  ⟨3, [0, 0, 64, 2], [], dbst 0x20 [0, 0, 64, 2], by decide +kernel⟩

theorem witness_debugCommands_10 : ∃ (q : Nat) (y : List Nat) (l : List (Nat × Nat × List Nat × Bool)) (s : State),
    (s.dbg.reqs = (0x20, q, y, true) :: l) ∧ (s.lk.st ≠ .lrs) ∧ (s.dbg.st = .open) ∧
      (bitOf s.dbg.rights 0 = true) ∧ (y.length = 4 ∧ (y.getD 0 0) % 8 = 1) ∧
      (1 ≤ (y.getD 3 0 % 512) ∧ (y.getD 3 0 % 512) ≤ 256) ∧ (s.lk.st ≠ .fatal) ∧
      (y.getD 1 0 % 256 < 192 ∧ y.getD 2 0 + (y.getD 3 0 % 512) ≤ 82) ∧
      ((thrOf s (y.getD 1 0 % 256) (bitsOf (y.getD 1 0) 11 8)).st = .halted) :=
  ⟨3, [1, 0, 64, 2], [], { dbst 0x20 [1, 0, 64, 2] with cores := [(0, { st := .running, threads := [(0, { fthr with st := .halted })] })] }, by decide +kernel⟩

theorem witness_debugCommands_11 : ∃ (q : Nat) (y : List Nat) (l : List (Nat × Nat × List Nat × Bool)) (s : State),
    (s.dbg.reqs = (0x21, q, y, true) :: l) ∧ (s.lk.st ≠ .lrs) ∧ (s.dbg.st = .open) ∧
      (bitOf s.dbg.rights 2 = true) ∧
      (1 ≤ (y.getD 3 0 % 512) ∧ (y.getD 3 0 % 512) ≤ 256 ∧ y.length = 4 + (y.getD 3 0 % 512) ∧ (y.getD 0 0) % 8 = 0)
          ∧
      (s.lk.st ≠ .fatal) ∧
      (y.getD 1 0 % 256 < 192 ∧ y.getD 2 0 % 4 = 0 ∧ y.getD 2 0 + 4 * (y.drop 4).length ≤ 2 ^ 18) :=
  ⟨3, [0, 0, 64, 1, 7], [], dbst 0x21 [0, 0, 64, 1, 7], by decide +kernel⟩

theorem witness_debugCommands_12 : ∃ (q : Nat) (y : List Nat) (l : List (Nat × Nat × List Nat × Bool)) (s : State),
    (s.dbg.reqs = (0x21, q, y, true) :: l) ∧ (s.lk.st ≠ .lrs) ∧ (s.dbg.st = .open) ∧
      (bitOf s.dbg.rights 2 = true) ∧
      (1 ≤ (y.getD 3 0 % 512) ∧ (y.getD 3 0 % 512) ≤ 256 ∧ y.length = 4 + (y.getD 3 0 % 512)) ∧
      ((y.getD 0 0) % 8 = 3 ∨ (y.getD 0 0) % 8 = 6 ∨ (y.getD 0 0) % 8 = 7) ∧ (s.lk.st ≠ .fatal) :=
  ⟨3, [3, 0, 64, 1, 7], [], dbst 0x21 [3, 0, 64, 1, 7], by decide +kernel⟩

theorem witness_debugCommands_13 : ∃ (q : Nat) (y : List Nat) (l : List (Nat × Nat × List Nat × Bool)) (s : State),
    (s.dbg.reqs = (0x10, q, y, true) :: l) ∧ (s.lk.st ≠ .lrs) ∧ (s.dbg.st ≠ .open) :=
  ⟨3, [], [], { live with dbg := { reqs := [(0x10, 3, [], true)] } }, by decide +kernel⟩

theorem witness_debugCommands_14 : ∃ (q : Nat) (y : List Nat) (l : List (Nat × Nat × List Nat × Bool)) (s : State),
    (s.dbg.reqs = (0x20, q, y, true) :: l) ∧ (s.lk.st ≠ .lrs) ∧ (s.dbg.st ≠ .open) :=
  ⟨3, [], [], { live with dbg := { reqs := [(0x20, 3, [], true)] } }, by decide +kernel⟩

theorem witness_debugCommands_15 : ∃ (q : Nat) (y : List Nat) (l : List (Nat × Nat × List Nat × Bool)) (s : State),
    (s.dbg.reqs = (0x21, q, y, true) :: l) ∧ (s.lk.st ≠ .lrs) ∧ (s.dbg.st ≠ .open) :=
  ⟨3, [], [], { live with dbg := { reqs := [(0x21, 3, [], true)] } }, by decide +kernel⟩

theorem witness_debugCommands_16 : ∃ (q : Nat) (y : List Nat) (l : List (Nat × Nat × List Nat × Bool)) (s : State),
    (s.dbg.reqs = (0x10, q, y, true) :: l) ∧ (s.lk.st ≠ .lrs) ∧ (s.dbg.st = .open) ∧
      (bitOf s.dbg.rights 1 = false) :=
  ⟨3, [0, 1], [], { live with dbg := { st := .open, rights := 1, reqs := [(0x10, 3, [0, 1], true)] } }, by decide +kernel⟩

theorem witness_debugCommands_17 : ∃ (q : Nat) (y : List Nat) (l : List (Nat × Nat × List Nat × Bool)) (s : State),
    (s.dbg.reqs = (0x10, q, y, true) :: l) ∧ (s.lk.st ≠ .lrs) ∧ (s.dbg.st = .open) ∧
      (bitOf s.dbg.rights 1 = true) ∧ (y.length = 2 ∧ y.getD 0 0 % 256 < 192) ∧
      (anyThr (haltMask { s with dbg := { s.dbg with reqs := l } } (y.getD 0 0 % 256) (y.getD 1 0 % 65536)) (y.getD
          0 0 % 256) (y.getD 1 0 % 65536) (·.haltPend) = false) :=
  ⟨3, [0, 1], [], { dbst 0x10 [0, 1] with cores := [(0, { st := .running, threads := [(0, { fthr with st := .running })] })] }, by decide +kernel⟩

theorem witness_debugCommands_18 : ∃ (q : Nat) (y : List Nat) (l : List (Nat × Nat × List Nat × Bool)) (s : State),
    (s.dbg.reqs = (0x11, q, y, true) :: l) ∧ (s.lk.st ≠ .lrs) ∧ (s.dbg.st = .open) ∧
      (bitOf s.dbg.rights 1 = true) ∧ (y.length = 2 ∧ y.getD 0 0 % 256 < 192) :=
  ⟨3, [0, 1], [], { dbst 0x11 [0, 1] with cores := [(0, { st := .running, threads := [(0, { fthr with st := .halted })] })] }, by decide +kernel⟩

theorem witness_debugCommands_19 : ∃ (q : Nat) (y : List Nat) (l : List (Nat × Nat × List Nat × Bool)) (s : State),
    (s.dbg.reqs = (0x13, q, y, true) :: l) ∧ (s.lk.st ≠ .lrs) ∧ (s.dbg.st = .open) ∧
      (bitOf s.dbg.rights 1 = true) ∧ (y.length = 2 ∧ y.getD 0 0 % 256 < 192) :=
  ⟨3, [0, 1], [], { dbst 0x13 [0, 1] with cores := [(0, { st := .running, threads := [(0, { fthr with st := .halted })] })] }, by decide +kernel⟩

theorem witness_stepRunsTheFrontCommand_2 : ∃ (s : State),
    s.pending = [] :=
  ⟨live, by decide +kernel⟩

theorem witness_everyStepKeepsTheInvariant_1 : ∃ (s : State),
    s.Inv :=
  ⟨live, by unfold State.Inv State.memOk State.gensOk; decide +kernel⟩

theorem witness_everyStepKeepsTheInvariant_2 : ∃ (n : Nat) (s : State),
    s.Inv :=
  ⟨2, live, by unfold State.Inv State.memOk State.gensOk; decide +kernel⟩

theorem witness_flowCoreCodesRoundTrip_1 : ∃ (i : FcI),
    i.wf = true :=
  ⟨⟨.add, 3, 1, 2, 0⟩, by decide +kernel⟩

theorem witness_flowCoreCodesRoundTrip_2 : ∃ (w : BitVec 32) (i : FcI),
    fcDecode w = some i :=
  ⟨0x04620014, ⟨.addi, 3, 2, 0, 20⟩, by decide +kernel⟩

theorem witness_flowCoreCodesRoundTrip_3 : ∃ (w v : BitVec 32) (i : FcI),
    (fcDecode w = some i) ∧ (fcDecode v = some i) :=
  ⟨0x04620014, 0x04620014, ⟨.addi, 3, 2, 0, 20⟩, by decide +kernel⟩

theorem witness_undefinedWordsFault_1 : ∃ (x : Instr) (c : CoreId) (n : ThreadId) (b : Bool) (e : LmErr) (s : State),
    (x ∈ ([.add c n, .sub c n, .and c n, .or c n, .xor c n, .sll c n, .srl c n, .sra c n, .slt c n, .sltu c n, .mul
        c n, .mulhu c n, .divu c n, .remu c n, .clz c n, .popc c n, .addi c n, .extu c n, .andi c n, .ori c n, .xori
        c n, .shi c n, .hwset c n, .hwins c n, .beq c n, .bne c n, .blt c n, .bge c n, .bltu c n, .bgeu c n, .j c n,
        .jal c n, .jalr c n, .mfsr c n, .ftread c n, .evwait c n, .evsend c n, .tmset c n, .hmap c n, .hput c n,
        .crypt c n, .gfmul c n, .tbl c n, .balloc c n, .bfree c n, .bxfer c n, .chw c n, .ldb c n e, .ldh c n e,
        .ldw c n e, .ldd c n e, .ldhs c n e, .ldws c n e, .ldds c n e, .stb c n e, .sth c n e, .stw c n e, .std c n
        e, .sths c n e, .stws c n e, .csum c n e, .post c n b] : List Instr)) ∧
      (mayIssue s c.val n.val = true) ∧ ((thrOf s c.val n.val).stepping = true ∨ bpHit s c.val n.val = none) ∧
      (4 * (thrOf s c.val n.val).pc + 4 ≤ codeLen s (coreOf s c.val).image) ∧
      (badFetch s c.val (thrOf s c.val n.val).pc = false) ∧
      (fcDecode (codeWord s (coreOf s c.val).image (thrOf s c.val n.val).pc) = none) :=
  ⟨.add 0 0, 0, 0, false, .ok, fcw 0xFC000000 fthr, by simp, by decide +kernel, by decide +kernel, by decide +kernel, by decide +kernel, by decide +kernel⟩

theorem witness_undefinedWordsFault_2 : ∃ (x : Instr) (c : CoreId) (n : ThreadId) (b : Bool) (e : LmErr) (s : State),
    (x ∈ ([.add c n, .sub c n, .and c n, .or c n, .xor c n, .sll c n, .srl c n, .sra c n, .slt c n, .sltu c n, .mul
        c n, .mulhu c n, .divu c n, .remu c n, .clz c n, .popc c n, .addi c n, .extu c n, .andi c n, .ori c n, .xori
        c n, .shi c n, .hwset c n, .hwins c n, .beq c n, .bne c n, .blt c n, .bge c n, .bltu c n, .bgeu c n, .j c n,
        .jal c n, .jalr c n, .mfsr c n, .ftread c n, .evwait c n, .evsend c n, .tmset c n, .hmap c n, .hput c n,
        .crypt c n, .gfmul c n, .tbl c n, .balloc c n, .bfree c n, .bxfer c n, .chw c n, .ldb c n e, .ldh c n e,
        .ldw c n e, .ldd c n e, .ldhs c n e, .ldws c n e, .ldds c n e, .stb c n e, .sth c n e, .stw c n e, .std c n
        e, .sths c n e, .stws c n e, .csum c n e, .post c n b] : List Instr)) ∧
      (mayIssue s c.val n.val = true) ∧ ((thrOf s c.val n.val).stepping = true ∨ bpHit s c.val n.val = none) ∧
      (codeLen s (coreOf s c.val).image < 4 * (thrOf s c.val n.val).pc + 4) :=
  ⟨.add 0 0, 0, 0, false, .ok, fcw 0 { fthr with pc := 10 ^ 7 }, by simp, by decide +kernel, by decide +kernel, by decide +kernel⟩

theorem witness_undefinedWordsFault_3 : ∃ (x : Instr) (c : CoreId) (n : ThreadId) (b : Bool) (e : LmErr) (s : State),
    (x ∈ ([.add c n, .sub c n, .and c n, .or c n, .xor c n, .sll c n, .srl c n, .sra c n, .slt c n, .sltu c n, .mul
        c n, .mulhu c n, .divu c n, .remu c n, .clz c n, .popc c n, .addi c n, .extu c n, .andi c n, .ori c n, .xori
        c n, .shi c n, .hwset c n, .hwins c n, .beq c n, .bne c n, .blt c n, .bge c n, .bltu c n, .bgeu c n, .j c n,
        .jal c n, .jalr c n, .mfsr c n, .ftread c n, .evwait c n, .evsend c n, .tmset c n, .hmap c n, .hput c n,
        .crypt c n, .gfmul c n, .tbl c n, .balloc c n, .bfree c n, .bxfer c n, .chw c n, .ldb c n e, .ldh c n e,
        .ldw c n e, .ldd c n e, .ldhs c n e, .ldws c n e, .ldds c n e, .stb c n e, .sth c n e, .stw c n e, .std c n
        e, .sths c n e, .stws c n e, .csum c n e, .post c n b] : List Instr)) ∧
      (mayIssue s c.val n.val = true) ∧ ((thrOf s c.val n.val).stepping = true ∨ bpHit s c.val n.val = none) ∧
      (4 * (thrOf s c.val n.val).pc + 4 ≤ codeLen s (coreOf s c.val).image) ∧
      (badFetch s c.val (thrOf s c.val n.val).pc = true) :=
  ⟨.add 0 0, 0, 0, false, .ok, { fcw 0 fthr with cores := [(0, { st := .running, threads := [(0, fthr)], slices := [(0, 4096)], badCode := [0] })] }, by simp, by decide +kernel, by decide +kernel, by decide +kernel, by decide +kernel⟩

theorem witness_retireFrame_3 : ∃ (c n m : Nat) (th : Thr) (s : State),
    m ≠ n :=
  ⟨0, 0, 1, fthr, live, by decide +kernel⟩

theorem witness_retireFrame_4 : ∃ (c n d : Nat) (th : Thr) (s : State),
    d ≠ c :=
  ⟨0, 0, 1, fthr, live, by decide +kernel⟩

theorem witness_storeFrame_1 : ∃ (c : CoreId) (n : ThreadId) (th : Thr) (i : FcI) (s : State),
    (Issues s c.val n.val .stb th i) ∧ (inSlice s c.val n.val (wget th i.b.val + i.simm).toNat 1 = true) ∧
      (heldBytes th (wget th i.b.val + i.simm).toNat 1 = false) :=
  ⟨0, 0, fthr, ⟨.stb, 2, 1, 0, 8⟩, fcs ⟨.stb, 2, 1, 0, 8⟩, by decide +kernel⟩

theorem witness_storeFrame_2 : ∃ (c : CoreId) (n : ThreadId) (th : Thr) (i : FcI) (s : State),
    (Issues s c.val n.val .sth th i) ∧ (inSlice s c.val n.val (wget th i.b.val + i.simm).toNat 2 = true) ∧
      (heldBytes th (wget th i.b.val + i.simm).toNat 2 = false) :=
  ⟨0, 0, fthr, ⟨.sth, 2, 1, 0, 8⟩, fcs ⟨.sth, 2, 1, 0, 8⟩, by decide +kernel⟩

theorem witness_storeFrame_3 : ∃ (c : CoreId) (n : ThreadId) (th : Thr) (i : FcI) (s : State),
    (Issues s c.val n.val .stw th i) ∧ (inSlice s c.val n.val (wget th i.b.val + i.simm).toNat 4 = true) ∧
      (heldBytes th (wget th i.b.val + i.simm).toNat 4 = false) :=
  ⟨0, 0, fthr, ⟨.stw, 2, 1, 0, 8⟩, fcs ⟨.stw, 2, 1, 0, 8⟩, by decide +kernel⟩

theorem witness_storeFrame_4 : ∃ (c : CoreId) (n : ThreadId) (th : Thr) (i : FcI) (s : State),
    (Issues s c.val n.val .std th i) ∧ (inSlice s c.val n.val (wget th i.b.val + i.simm).toNat 8 = true) ∧
      (heldBytes th (wget th i.b.val + i.simm).toNat 8 = false) :=
  ⟨0, 0, fthr, ⟨.std, 2, 1, 0, 8⟩, fcs ⟨.std, 2, 1, 0, 8⟩, by decide +kernel⟩

theorem witness_storeFrame_5 : ∃ (c : CoreId) (n : ThreadId) (th : Thr) (i : FcI) (s : State),
    (Issues s c.val n.val .sths th i) ∧ (inSlice s c.val n.val (wget th i.b.val + i.simm).toNat 2 = true) ∧
      (heldBytes th (wget th i.b.val + i.simm).toNat 2 = false) :=
  ⟨0, 0, fthr, ⟨.sths, 2, 1, 0, 8⟩, fcs ⟨.sths, 2, 1, 0, 8⟩, by decide +kernel⟩

theorem witness_storeFrame_6 : ∃ (c : CoreId) (n : ThreadId) (th : Thr) (i : FcI) (s : State),
    (Issues s c.val n.val .stws th i) ∧ (inSlice s c.val n.val (wget th i.b.val + i.simm).toNat 4 = true) ∧
      (heldBytes th (wget th i.b.val + i.simm).toNat 4 = false) :=
  ⟨0, 0, fthr, ⟨.stws, 2, 1, 0, 8⟩, fcs ⟨.stws, 2, 1, 0, 8⟩, by decide +kernel⟩

theorem witness_handleWords_1 : ∃ (k g i : Nat),
    (k < 16) ∧ (g < 256) ∧ (i < 2 ^ 20) :=
  ⟨15, 255, 1048575, by decide +kernel⟩

theorem witness_handleWords_2 : ∃ (w : Nat),
    w < 2 ^ 32 :=
  ⟨0x30500012, by decide +kernel⟩

theorem witness_handleWords_3 : ∃ (cls idx : Nat) (s : State),
    s.gensOk :=
  ⟨1, 3, live, by unfold State.gensOk; decide +kernel⟩

theorem witness_fabricTimeCount_1 : ∃ (s : State),
    ftNs s < 2 ^ 64 :=
  ⟨live, by decide +kernel⟩

theorem witness_handleChecksAndGenerations_2 : ∃ (cls idx : Nat) (s : State),
    gen s cls idx ≠ 0 :=
  ⟨1, 3, live, by decide +kernel⟩

theorem witness_handleChecksAndGenerations_3 : ∃ (cls idx j : Nat) (s : State),
    j ≠ idx :=
  ⟨1, 3, 4, live, by decide +kernel⟩

theorem witness_memoryReadAfterWrite_2 : ∃ (m : Map Byte) (a x : Nat) (b : List Byte),
    x < a ∨ a + b.length ≤ x :=
  ⟨[], 4, 6, [1, 2], by decide +kernel⟩

theorem witness_memoryReadAfterWrite_3 : ∃ (m : Map Byte) (a : Nat) (b : List Byte),
    memWf m = true :=
  ⟨[], 4, [1, 2], by decide +kernel⟩

theorem witness_memoryReadAfterWrite_4 : ∃ (m k : Map Byte),
    (memWf m = true) ∧ (memWf k = true) ∧ (∀ x, readByte m x = readByte k x) :=
  ⟨[], [], rfl, rfl, fun _ => rfl⟩

theorem witness_rateBounds_2 : ∃ (s : State) (x : Conn),
    (x.expired = false) ∧ (x.qmin = none) ∧ (rd s F.TP_DROVER_2_R_MIN ≤ x.rate) ∧ (x.rate ≤ rateCap s x) :=
  ⟨live, { con1 with rate := 20000 }, by decide +kernel⟩

theorem witness_rateBounds_3 : ∃ (s : State) (x : Conn) (q : Int),
    (x.expired = false) ∧ (x.qmin = some q) ∧ (q ≤ rd s F.TP_DROVER_0_TARGET) ∧
      (rd s F.TP_DROVER_2_R_MIN ≤ x.rate) ∧ (x.rate + rd s F.TP_DROVER_1_AI ≤ rateCap s x) :=
  ⟨live, { con1 with rate := 20000, qmin := some 0 }, 0, by decide +kernel⟩

theorem witness_rateBounds_4 : ∃ (s : State) (x : Conn),
    (x.expired = true) ∧ (max (rd s F.TP_DROVER_2_R_MIN) (x.rate / 4) ≤ rateCap s x) :=
  ⟨live, { con1 with rate := 20000, expired := true }, by decide +kernel⟩

theorem witness_pushesStayWithTheirTenant : ∃ (p : HostPort) (n : TenantId) (k : Fin 32) (o : Fin 512) (b : List Byte) (m : Nat) (s : State),
    m ≠ n.val :=
  ⟨0, 5, 3, 0, [1, 2], 6, tlive, by decide +kernel⟩

/-! ### Words of flow-core instructions, written out from R274, R275, R278 to R288 -/

/-- ADDI w3, w2, 20. -/
theorem test_decode_addi : fcDecode 0x04620014 = some ⟨.addi, 3, 2, 0, 20⟩ := by decide

/-- LDB w6, 0x16(w10). -/
theorem test_decode_ldb : fcDecode 0x40CA0016 = some ⟨.ldb, 6, 10, 0, 0x16⟩ := by decide

/-- ADD w5, w6, w7. -/
theorem test_decode_add : fcDecode 0b00000000101001100011100000000000 = some ⟨.add, 5, 6, 7, 0⟩ := by decide

/-- BEQ w1, w2, 3. -/
theorem test_decode_beq : fcDecode 0b10000000001000100000000000000011 = some ⟨.beq, 1, 2, 0, 3⟩ := by decide

/-- POST. -/
theorem test_decode_post : fcDecode 0b11100100000000000000000000000000 = some ⟨.post, 0, 0, 0, 0⟩ := by decide

/-- BFREE w4, w5 and BXFER w4, w5, w6. -/
theorem test_decode_pools : fcDecode 0b11111000100001010000000000000000 = some ⟨.bfree, 4, 5, 0, 0⟩ ∧
    fcDecode 0b11111000100001010011000000000001 = some ⟨.bxfer, 4, 5, 6, 1⟩ := by decide

/-- OP 0x3F, FUNC 16 of OP 0 and a reserved bit of POST. -/
theorem test_decode_refused : fcDecode 0xFC000000 = none ∧
    fcDecode 0x00000010 = none ∧
    fcDecode 0xE4000001 = none := by decide

/-! ### Ill-formed commands, one for each check of WellFormed -/

theorem test_illFormed_beacon_origin :
    (Instr.wf (.signalingRx 0 0 0 { origin := 2 ^ 96, org := 0, orgSub := 0, quality := 0 })) = false := by decide

theorem test_illFormed_beacon_quality :
    (Instr.wf (.followUpRx 0 0 0 { origin := 0, org := 0, orgSub := 0, quality := 4 })) = false := by decide

theorem test_illFormed_beacon_node :
    (Instr.wf (.syncRx 0 0 0 0 (some { origin := 0, org := 0, orgSub := 0, quality := 0, node := 65536 }))) = false := by decide

theorem test_illFormed_beacon_err :
    (Instr.wf (.signalingRx 0 0 0 { origin := 0, org := 0, orgSub := 0, quality := 0, err := 65536 })) = false := by decide

theorem test_illFormed_domain_sync :
    (Instr.wf (.syncRx 0 256 0 0 none)) = false := by decide

theorem test_illFormed_sequence_sync :
    (Instr.wf (.syncRx 0 0 65536 0 none)) = false := by decide

theorem test_illFormed_domain_followUp :
    (Instr.wf (.followUpRx 0 256 0 { origin := 0, org := 0, orgSub := 0, quality := 0 })) = false := by decide

theorem test_illFormed_sequence_delayReq :
    (Instr.wf (.delayReqRx 0 0 65536 0)) = false := by decide

theorem test_illFormed_time_delayResp :
    (Instr.wf (.delayRespRx 0 0 0 (2 ^ 96))) = false := by decide

theorem test_illFormed_sequence_pdelayReq :
    (Instr.wf (.pdelayReqRx 0 0 65536 0)) = false := by decide

theorem test_illFormed_time_pdelayResp :
    (Instr.wf (.pdelayRespRx 0 0 0 0 (2 ^ 96) none)) = false := by decide

theorem test_illFormed_time_pdelayFollowUp :
    (Instr.wf (.pdelayRespFollowUpRx 0 0 0 (2 ^ 96))) = false := by decide

theorem test_illFormed_domain_signaling :
    (Instr.wf (.signalingRx 0 256 0 { origin := 0, org := 0, orgSub := 0, quality := 0 })) = false := by decide

theorem test_illFormed_age_sync :
    (Instr.wf (.syncRx 0 0 0 (2 ^ 64) none)) = false := by decide

theorem test_illFormed_turnaround :
    (Instr.wf (.pdelayRespRx 0 0 0 0 0 (some (2 ^ 96)))) = false := by decide

theorem test_illFormed_configurationRead :
    (Instr.wf (.configurationWrite 0 .pf0 (.read 2))) = false := by decide

theorem test_illFormed_ptm :
    (Instr.wf (.ptmDialogueEnd 0 (some (2 ^ 96, 0)))) = false := by decide

theorem test_illFormed_peerWrite_empty :
    (Instr.wf (.peerWrite 0 0 0 false [])) = false := by decide

theorem test_illFormed_peerRead_empty :
    (Instr.wf (.peerRead 0 0 0 0 {})) = false := by decide

theorem test_illFormed_linkWidth :
    (Instr.wf (.hostLinkTrained 0 true 3 5)) = false := by decide

theorem test_illFormed_reducedWidth :
    (Instr.wf (.linkPowerStateChange 0 (.enterL0p 3))) = false := by decide

theorem test_illFormed_retrainWidth :
    (Instr.wf (.linkPowerStateChange 0 (.retrain 0 5))) = false := by decide

theorem test_illFormed_readRef_queue :
    (Instr.wf (.cplTimeout 0 0 (.doorbell (2 ^ 21)))) = false := by decide

theorem test_illFormed_readRef_ring :
    (Instr.wf (.cplTimeout 0 0 (.ring (2 ^ 20 + 8)))) = false := by decide

theorem test_illFormed_readRef_head :
    (Instr.wf (.cplTimeout 0 0 (.head true (2 ^ 21)))) = false := by decide

theorem test_illFormed_readRef_dump :
    (Instr.wf (.cplTimeout 0 0 (.dump 4097))) = false := by decide

theorem test_illFormed_completionTimeout :
    (Instr.wf (.configurationWrite 0 .pf0 (.cplTimeout 3))) = false := by decide

theorem test_illFormed_queue_scan :
    (Instr.wf (.doorbellScanDue (2 ^ 21))) = false := by decide

theorem test_illFormed_queue_record :
    (Instr.wf (.doorbellRecordRead (2 ^ 21) .error)) = false := by decide

theorem test_illFormed_queue_hot :
    (Instr.wf (.hotIdleExpire (2 ^ 21))) = false := by decide

theorem test_illFormed_queue_warm :
    (Instr.wf (.warmIdleExpire (2 ^ 21))) = false := by decide

theorem test_illFormed_queue_fetch :
    (Instr.wf (.sqFetch (2 ^ 21))) = false := by decide

theorem test_illFormed_queue_ring :
    (Instr.wf (.sqRingReadEnd (2 ^ 21) .error)) = false := by decide

theorem test_illFormed_queue_job :
    (Instr.wf (.jobStart (2 ^ 21))) = false := by decide

theorem test_illFormed_queue_completion :
    (Instr.wf (.completionWrite (2 ^ 21))) = false := by decide

theorem test_illFormed_queue_headRecord :
    (Instr.wf (.headRecordRead false (2 ^ 21) .error)) = false := by decide

theorem test_illFormed_queue_headPoll :
    (Instr.wf (.headPollTick false (2 ^ 21))) = false := by decide

theorem test_illFormed_queue_overflow :
    (Instr.wf (.cqOverflowTimeout (2 ^ 21))) = false := by decide

theorem test_illFormed_queue_modTimer :
    (Instr.wf (.eqModTimerExpire (2 ^ 20))) = false := by decide

theorem test_illFormed_queue_hold :
    (Instr.wf (.eqHoldExpire (2 ^ 20))) = false := by decide

theorem test_illFormed_queue_message :
    (Instr.wf (.eqMessageSend (2 ^ 20))) = false := by decide

theorem test_illFormed_queue_drain :
    (Instr.wf (.queueDrainEnd (2 ^ 21))) = false := by decide

theorem test_illFormed_queue_drainTimeout :
    (Instr.wf (.queueDrainTimeout (2 ^ 21))) = false := by decide

theorem test_illFormed_push_empty :
    (Instr.wf (.pushSlotWrite 0 0 0 0 [])) = false := by decide

theorem test_illFormed_push_long :
    (Instr.wf (.pushSlotWrite 0 0 0 511 [0, 0])) = false := by decide

theorem test_illFormed_frame_empty :
    (Instr.wf (.frameRx 0 { bytes := [] } {})) = false := by decide

theorem test_illFormed_tcam :
    (Instr.wf (.tcamSweep [(4, 0)])) = false := by decide

theorem test_illFormed_refresh :
    (Instr.wf (.neighbourRefresh 0 0 0 0)) = false := by decide

theorem test_illFormed_sluiceHead :
    (Instr.wf (.sluiceCandidate 0 [0] true false 0)) = false := by decide

theorem test_illFormed_sluiceStart :
    (Instr.wf (.sluiceStart 0 [0])) = false := by decide

theorem test_illFormed_session :
    (Instr.wf (.sessionUp 0 (.up {
      admin := 0, io := 0, cntlid := 1, ioccsz := 4, maxh2c := 4096, idSt := 0, nsze := 1, lba := 9, mdBytes := 0
      irs := 1, wnd := 1, scale := 15, mss := 1460, ts := false, sack := false, success := true }))) = false := by decide

theorem test_illFormed_image_short :
    (Instr.wf (.configLoad 0 { bytes := [], body := .other, sigOk := true })) = false := by decide

theorem test_illFormed_flash_short :
    (Instr.wf (.flashWrite 0 { bytes := [], body := .other, sigOk := true })) = false := by decide

theorem test_illFormed_flash_bank :
    (Instr.wf (.bootStageEnd (.flash (some { seq := 0, ents := [{ typ := 1, bank := 2, slot := 0, img := { bytes := List.replicate 256 0, body := .other, sigOk := true } }] }) none))) = false := by decide

theorem test_illFormed_selfTest :
    (Instr.wf (.bootStageEnd (.selfTest [(16, 0)]))) = false := by decide

theorem test_illFormed_sensors :
    (Instr.wf (.junctionSample [0])) = false := by decide

theorem test_illFormed_longRead : (HostData.wf (.ok (List.replicate (2 ^ 23 + 1) 0))) = false := by
  simp only [HostData.wf, List.length_replicate, decide_eq_false_iff_not]; omega

theorem test_wellFormed_push : (Instr.wf (.pushSlotWrite 0 0 0 508 [1, 2, 3, 4])) = true := by decide

/-! ### The spec's worked examples -/

/-- The example of 00_scope.md: epoch 1,000 and 640 ns is 1 s and 48,576,640 ns, on a calendar-slot boundary. -/
theorem test_epoch_1000 :
    let s : State := { State.reset with ft := { State.reset.ft with count := (1048576000 + 640) * 65536 } }
    epochNo s = 1000 ∧ (fullTs s).take 2 = [48576640, 1] ∧ ftNs s % 64 = 0 := by decide +kernel

/-- The example of R58: handle 0x30500012; its successor carries generation 0x06. -/
theorem test_handle_parts :
    (hKind 0x30500012, hGen 0x30500012, hIdx 0x30500012) = (3, 5, 18) ∧
      mkHandle 3 (nextGen 5) 18 = 0x30600012 := by decide +kernel

/-- The example of R62: the SQ's handle 0x10703C01 becomes 0x10803C01. -/
theorem test_handle_recreated :
    let s := { State.reset with gens := [(gkey 1 0x3C01, 7)] }
    sqHandle s 0x3C01 = 0x10703C01 ∧ sqHandle (advGen s 1 0x3C01) 0x3C01 = 0x10803C01 := by decide +kernel

/-- The example of R317: R is 300 Gb/s, TARGET 2,000 ns, BETA 80, MD_MAX 50 and q 3,000 ns give 220 Gb/s. -/
theorem test_drover_cut :
    let s := wr (wr (wr live F.TP_DROVER_0_TARGET 0 0 2000) F.TP_DROVER_1_BETA 0 0 80) F.TP_DROVER_1_MD_MAX 0 0 50
    newRate s { con1 with rate := 300000, qmin := some 3000 } = 220000 := by decide +kernel

/-- The example of R333: 10,485,760 ns after its origin the old calendar is in entry 1 with class 5 closed, and class 2
stays open for 2,240 ns more. -/
theorem test_calendar_place :
    let e : EgPort := { origin := 0, cal := [0x20000028, 0xDF000055] }
    entAt e.cal (calPos e (10485760 * 65536)) 0 = (1, 2240 * 65536) ∧ openIn e 5 (10485760 * 65536) = some 0 ∧
      openIn e 2 (10485760 * 65536) = some (2240 * 65536) := by decide +kernel

end Sys2Proof.Tests
end

/-! PROOFS. The scope of the model: a step of the machine always answers a next state, and so does a run. -/
namespace Sys2Proof.Machine

/-- On an empty queue the step is the tick of one PCLK (log entry 2). -/
theorem step_of_pending_nil {s : State} (h : s.pending = []) : step s = .next (tick s) := by
  simp only [step, h]

/-- The command at the front of the queue runs on the state with the queue's rest. -/
theorem step_of_pending_cons {s : State} {c : Instr} {rest : List Instr} (h : s.pending = c :: rest) :
    step s = exec c { s with pending := rest } := by
  simp only [step, h]

/-- A step answers a next state: a tick by its definition, a command by what `exec_next` says of every command. -/
theorem step_next (s : State) : ∃ t, step s = .next t := by
  cases h : s.pending with
  | nil => exact ⟨tick s, step_of_pending_nil h⟩
  | cons c rest =>
    obtain ⟨t, ht, -⟩ := exec_next c { s with pending := rest }
    exact ⟨t, (step_of_pending_cons h).trans ht⟩

/-- A run of one step more goes on from the state that the first step answers. -/
theorem run_succ_of_step_next {s t : State} (n : Nat) (h : step s = .next t) :
    Sys2Proof.core.run (n + 1) s = Sys2Proof.core.run n t := by
  have hc : Sys2Proof.core.step s = .next t := h
  simp only [Host.Core.run, hc]

/-- A run of any number of steps answers a next state. -/
theorem run_next (n : Nat) (s : State) : ∃ t, Sys2Proof.core.run n s = .next t := by
  induction n generalizing s with
  | zero => exact ⟨s, rfl⟩
  | succ n ih =>
    obtain ⟨t, ht⟩ := step_next s
    obtain ⟨u, hu⟩ := ih t
    exact ⟨u, (run_succ_of_step_next n ht).trans hu⟩

/-- Settles O47: every step answers a next state, and a run by induction on the number of its steps. -/
theorem everyStepAnswersAState : Obligations.EveryStepAnswersAState :=
  ⟨step_next, run_next⟩

end Sys2Proof.Machine

/-! PROOFS. Time of the block: a step on an empty queue is one PCLK, and what the FT count says of seconds, epochs and
calendar slots. -/
namespace Sys2Proof.Machine

/-- Settles O45: by what a step is on a queue with a front command, and by what a tick keeps on an empty one. -/
theorem stepRunsTheFrontCommand : Obligations.StepRunsTheFrontCommand := by
  refine ⟨fun x q s => step_of_pending_cons (s := { s with pending := x :: q }) rfl, fun s h => ?_⟩
  have ht := tick_kept (Kept.refl s)
  exact ⟨tick s, step_of_pending_nil h, ht.clk, ht.pending.trans h⟩

/-! ### The FT count (R21, R23) -/

/-- A number of seconds that fits 48 bits is put together again from its low word and its high half-word. -/
theorem sec_split (sec frac : Nat) (h : sec < 2 ^ 48) :
    sec % 2 ^ 32 + (frac * 2 ^ 16 + sec / 2 ^ 32 % 2 ^ 16) % 2 ^ 16 * 2 ^ 32 = sec := by
  omega

/-- The full timestamp carries the FT count as seconds and nanoseconds (R21, R23). -/
theorem fullTs_ftNs (s : State) (h : ftNs s < 2 ^ 64) :
    ((fullTs s).getD 1 0 + (fullTs s).getD 2 0 % 2 ^ 16 * 2 ^ 32) * 1000000000 + (fullTs s).getD 0 0 = ftNs s := by
  have hsec : ftNs s / 1000000000 < 2 ^ 48 := by omega
  calc ((fullTs s).getD 1 0 + (fullTs s).getD 2 0 % 2 ^ 16 * 2 ^ 32) * 1000000000 + (fullTs s).getD 0 0
      = ftNs s / 1000000000 * 1000000000 + ftNs s % 1000000000 := by
        simp only [fullTs, List.getD_cons_zero, List.getD_cons_succ, sec_split _ _ hsec]
    _ = ftNs s := Nat.div_add_mod' _ _

/-- The epoch number is n from the start of epoch n to that of epoch n + 1 (R21). -/
theorem epochNo_eq_iff (s : State) (n : Nat) :
    epochNo s = n ↔ n * 1048576 ≤ ftNs s ∧ ftNs s < (n + 1) * 1048576 := by
  unfold epochNo
  omega

/-- Settles O56: the four facts of the count, each by the arithmetic of its words. -/
theorem fabricTimeCount : Obligations.FabricTimeCount := by
  refine ⟨fun s h => ⟨fullTs_ftNs s h, Nat.mod_lt _ (by decide)⟩, fun s => ?_, fun n s => epochNo_eq_iff s n,
    fun s => ?_⟩
  · exact (Nat.shiftRight_eq_div_pow _ _).symm
  · unfold ftNs
    omega

end Sys2Proof.Machine

/-! PROOFS. The Fabric Time unit: what its shared operations do, the register commands, and the messages. -/
namespace Sys2Proof.Machine

/-! ### The states of R33 -/

/-- A valid source takes an enabled unit from UNSET to ACQUIRE (R33). -/
theorem evalSrc_unset_valid {s : State} (he : rd s F.FT_CTRL_ENABLE = 1) (hu : s.ft.st = .unset)
    (hc : chooseSrc s ≠ 0) :
    evalSrc s =
      modFt s fun f => { f with st := .acquire, src := chooseSrc s, good := 0, todDone := false, slew := 0 } := by
  simp [evalSrc, he, hu, hc]

/-- Without a valid source a unit stays in UNSET (R33). -/
theorem evalSrc_unset_none {s : State} (hu : s.ft.st = .unset) (hc : chooseSrc s = 0) : evalSrc s = s := by
  simp [evalSrc, hu, hc]

/-- The unit in UNSET, with the rollovers that key contexts have armed withdrawn (R33, R360). -/
def ftUnset (s : State) : State :=
  { s with
    ft := { s.ft with st := .unset, src := 0, good := 0, slew := 0, todDone := false }
    ls := { s.ls with ctxs := mmap (fun _ x => { x with armed := none }) s.ls.ctxs } }

/-- The return to UNSET where nothing is armed. -/
theorem ftToUnset_idle {s : State} (h : s.armed = []) : ftToUnset s = ftUnset s := by
  simp [ftToUnset, modFt, ftUnset, h]

/-- The return to UNSET where events are armed: all are cancelled, with one FT_EVENT_CANCELLED. -/
theorem ftToUnset_armed {s : State} (h : s.armed ≠ []) :
    ftToUnset s = raise { ftUnset s with armed := [] } .ftEventCancelled 0 := by
  simp [ftToUnset, modFt, ftUnset, h]

/-- An event raised while the intake queue has room and the sequencer has not run adds its entry and changes nothing else
(R418, R433). -/
theorem raise_of_room {s : State} (e : Ev) (i : Nat) (h : s.lk.intake.length < 256) (hl : s.lk.st ≠ .lrs) :
    raise s e i = { s with lk := { s.lk with intake := s.lk.intake ++ [mkEvent s e i] } } := by
  simp [raise, h, hl]

/-- ENABLE reads back the bit written. -/
theorem rd_wr_ftEnable (s : State) (v : Nat) :
    rd (wr s F.FT_CTRL_ENABLE 0 0 v) F.FT_CTRL_ENABLE = v % 2 :=
  rd_wr_same s F.FT_CTRL_ENABLE 0 0 v (by decide)

/-- TOD_ARM where no PPS edge can take it sets TOD_IGN (R46). -/
theorem ftTodArm_ignored {s : State} (h : s.ft.st = .locked ∨ s.ft.st = .holdover ∨ s.ft.st = .relock) :
    ftTodArm s = wr s F.FT_STATUS_TOD_IGN 0 0 1 := by
  rcases h with h | h | h <;> simp [ftTodArm, h]

/-! ### The commands -/

theorem exec_ftEnable {s : State} {p : HostPort} (h : RegOpen s p true) : exec (.ftEnable p) s = .next (ftEnable s) :=
  congrArg Host.Outcome.next (regGate_open h)

theorem exec_ftEnableClear {s : State} {p : HostPort} (h : RegOpen s p true) :
    exec (.ftEnableClear p) s = .next (ftDisable s) :=
  congrArg Host.Outcome.next (regGate_open h)

theorem exec_restart {s : State} {p : HostPort} (h : RegOpen s p true) : exec (.restart p) s = .next (ftRestart s) :=
  congrArg Host.Outcome.next (regGate_open h)

theorem exec_todArm {s : State} {p : HostPort} (h : RegOpen s p true) : exec (.todArm p) s = .next (ftTodArm s) :=
  congrArg Host.Outcome.next (regGate_open h)

/-- Settles O1: each command is its operation on the unit, once its gate is open. -/
theorem fabricTimeUnitCommands : Obligations.FabricTimeUnitCommands := by
  refine ⟨fun p s hr hu hc => ?enable, fun p s hr hu hc => ?enableNone, fun p s hr ha => ?clearIdle,
    fun p s hr ha hi => ?clearArmed, fun p s hr ha he hc => ?restart, fun p s hr hst => ?todArm,
    fun p s hr hst => ?todIgn, fun p s hr => ?now, fun p s hr => ?epoch⟩
  case enable =>
    refine ⟨_, exec_ftEnable hr, ?_⟩
    rw [ftEnable, evalSrc_unset_valid (rd_wr_ftEnable s 1) hu hc]
    exact ⟨rfl, rd_wr_ftEnable s 1, rfl⟩
  case enableNone =>
    refine ⟨_, exec_ftEnable hr, ?_⟩
    rw [ftEnable, evalSrc_unset_none (s := wr s F.FT_CTRL_ENABLE 0 0 1) hu hc]
    exact ⟨rd_wr_ftEnable s 1, rfl⟩
  case clearIdle =>
    refine ⟨_, exec_ftEnableClear hr, ?_⟩
    rw [ftDisable, ftToUnset_idle (s := wr s F.FT_CTRL_ENABLE 0 0 0) ha]
    exact ⟨rfl, rd_wr_ftEnable s 0, rfl⟩
  case clearArmed =>
    have ⟨_, _, _, hl, _, _⟩ := hr
    refine ⟨_, exec_ftEnableClear hr, ?_⟩
    rw [ftDisable, ftToUnset_armed (s := wr s F.FT_CTRL_ENABLE 0 0 0) ha,
      raise_of_room (s := { ftUnset (wr s F.FT_CTRL_ENABLE 0 0 0) with armed := [] }) _ _ hi hl]
    exact ⟨rfl, rfl, List.map_append, rfl⟩
  case restart =>
    refine ⟨_, exec_restart hr, ?_⟩
    rw [ftRestart, ftToUnset_idle ha, evalSrc_unset_valid (s := ftUnset s) he rfl hc]
    exact ⟨rfl, rfl⟩
  case todArm =>
    rw [exec_todArm hr, ftTodArm, if_pos hst]
    rfl
  case todIgn =>
    refine ⟨_, exec_todArm hr, ?_⟩
    rw [ftTodArm_ignored hst]
    exact ⟨rd_wr_same s F.FT_STATUS_TOD_IGN 0 0 1 (by decide), rfl⟩
  case now => exact congrArg Host.Outcome.next (readGate_open hr)
  case epoch => exact congrArg Host.Outcome.next (readGate_open hr)

/-! ### A Follow_Up of a port that carries no beacons -/

/-- A Follow_Up on a port or domain that neither the FT_SRC_CTRL in force nor the one written selects leaves the state
(R26, R47): the Sync noted there stays noted. -/
theorem exec_followUpRx_of_not_sample {s : State} {p : NetPort} {d : Nat} (q : Nat) (b : Beacon)
    (h : ptpSample s p.val d = false) : exec (.followUpRx p d q b) s = .next s := by
  show execFollowUpRx p d q b s = .next s
  rw [execFollowUpRx, h]
  rfl

/-- The device after reset, with port 8 UP. -/
def portEightUp : State := { State.reset with macs := [(8, { st := .up })] }

/-- There a Sync has been noted at port 8, which FT_SRC_CTRL, at its reset value, does not select for beacons. -/
def unselectedSync : State := { portEightUp with ft := { portEightUp.ft with syncWait := [(8, (0, 0))] } }

/-- A two-step Sync in the configured domain leads to that state: it is noted, and no request follows it (R28, R29). -/
theorem exec_syncRx_portEightUp : exec (.syncRx 8 0 0 0 none) portEightUp = .next unselectedSync := rfl

/-- A beacon of QUALITY 1, which is not LOCKED. -/
def holdoverBeacon : Beacon := { origin := 0, org := 0, orgSub := 0, quality := 1 }

/-- Refutes O2: the clause of FOLLOW_UP_RX of the Sync that waits lacks the hypothesis that the port carries beacons. On
port 8, which is UP and in the configured domain but not selected, the Follow_Up is ignored, and the Sync is still noted
where the clause takes it out. -/
theorem not_fabricTimeMessages : ¬ Obligations.FabricTimeMessages := by
  intro h
  obtain ⟨-, followUp, -⟩ := h
  have claimed := followUp 8 0 0 0 holdoverBeacon unselectedSync (by decide) rfl (by decide)
  have ignored := exec_followUpRx_of_not_sample (s := unselectedSync) (p := 8) (d := 0) 0 holdoverBeacon (by decide)
  have noted : mget? unselectedSync.ft.syncWait 8 = mget? (mdel unselectedSync.ft.syncWait 8) 8 :=
    congrArg (fun o => match o with | .next t => mget? t.ft.syncWait 8 | _ => none) (ignored.symm.trans claimed)
  exact absurd noted (by decide)

end Sys2Proof.Machine

/-! PROOFS. Egress on a port without a calendar and without preemption: heads, starts and ends of frames, gates, and the
swap of calendars. -/
namespace Sys2Proof.Machine

/-! ### Maps and the record of a port -/

/-- Of two writes under one key the second stands. -/
theorem mset_mset {α : Type} (m : Map α) (k : Nat) (v w : α) : mset (mset m k v) k w = mset m k w := by
  induction m with
  | nil => simp [mset]
  | cons x t ih =>
    obtain ⟨a, y⟩ := x
    rcases Nat.lt_trichotomy k a with h | h | h
    · simp [mset, h, Nat.ne_of_lt h]
    · simp [mset, h]
    · simp [mset, Nat.ne_of_gt h, Nat.not_lt_of_gt h, ih]

@[simp] theorem egOf_modEg_same (s : State) (p : Nat) (f : EgPort → EgPort) : egOf (modEg s p f) p = f (egOf s p) := by
  simp [egOf, modEg]

theorem egOf_cadd (s : State) (u i x n p : Nat) : egOf (cadd s u i x n) p = egOf s p := rfl

/-- Two changes of a port's record are one. -/
theorem modEg_modEg (s : State) (p : Nat) (f g : EgPort → EgPort) :
    modEg (modEg s p f) p g = modEg s p fun e => g (f e) := by
  simp only [modEg, egOf, mget_mset_same, mset_mset]

/-! ### A port without a calendar and without preemption -/

theorem calOn_eq_false {s : State} {p : Nat} (h : rd s F.EG_PORT_CFG_CAL_EN 0 p = 0) : calOn s p = false := by
  simp [calOn, h]

theorem preemptActive_eq_false {s : State} {p : Nat} (h : rd s F.MA_PREEMPT_EN p = 0) : preemptActive s p = false := by
  simp [preemptActive, h]

/-- Without a calendar no head is too long for its open interval (R327). -/
theorem headCheck_of_calOff {s : State} {p : Nat} (h : calOn s p = false) (c n : Nat) : headCheck s p c n = s := by
  have hg : guarded s p c = false := by simp [guarded, h]
  cases n with
  | zero => rfl
  | succ n =>
    rw [headCheck]
    split
    · rfl
    · split
      · rw [if_neg (by simp [hg])]
      · rfl

/-- Where no gate closes, no frame overruns its gate (R327). -/
theorem overrunMark_zero (s : State) (p : Nat) : overrunMark s p 0 = s := by
  have hb (c : Nat) : bitOf 0 c = false := by simp [bitOf, bitsOf]
  simp only [overrunMark, hb, Bool.false_eq_true, false_and, if_false]
  split <;> split <;> rfl

/-- Where nothing is on the wire, no frame overruns its gate (R327). -/
theorem overrunMark_idle {s : State} {p : Nat} (hr : (egOf s p).run = none) (hp : (egOf s p).runP = none) (g : Nat) :
    overrunMark s p g = s := by
  simp [overrunMark, hr, hp]

/-- Without a calendar a change of the port's record has no effect on its gates, which are all open (R326). -/
theorem withGates_of_calOff {s : State} {p : Nat} {f : State → State} (h : calOn s p = false)
    (hf : calOn (f s) p = false) : withGates s p f = f s := by
  simp [withGates, gateEffects, gatesNow, holdNow, h, hf, overrunMark_zero]

/-- With nothing on the wire and without preemption a change of the gates alone has no further effect (R326, R328). -/
theorem withGates_of_idle {s : State} {p : Nat} {f : State → State} (hr : (egOf (f s) p).run = none)
    (hp : (egOf (f s) p).runP = none) (h : preemptActive s p = false) (hf : preemptActive (f s) p = false) :
    withGates s p f = f s := by
  simp [withGates, gateEffects, holdNow, h, hf, overrunMark_idle hr hp]

/-! ### The data of a frame is read from the store -/

/-- The counts of the head cache's hits and misses after a read of cells. -/
def touchCnt (hc : Nat → Bool) (m : Map Nat) (cells : List Nat) : Map Nat :=
  cells.foldl (fun m c =>
    let k := ckey 8 0 (if hc c then 11 else 12)
    mset m k ((mget 0 m k + 1) % 2 ^ 64)) m

/-- A read that meets no block known to be uncorrectable, and in which the codes find nothing, changes counters alone. -/
theorem storeMeet_clean {s : State} {a n : Nat} (h : lostIn s a n = []) :
    storeMeet s a n {} = { s with cnt := touchCnt (fun c => s.coop.hc.any (·.1 = c)) s.cnt (cellsIn a n) } := by
  have hcells (l : List Nat) (t : State) :
      l.foldl (fun t c => cadd t 8 0 (if t.coop.hc.any (·.1 = c) then 11 else 12) 1) t =
        { t with cnt := touchCnt (fun c => t.coop.hc.any (·.1 = c)) t.cnt l } := by
    induction l generalizing t with
    | nil => rfl
    | cons c l ih => rw [List.foldl_cons, ih]; rfl
  have ht : lostIn { s with cnt := touchCnt (fun c => s.coop.hc.any (·.1 = c)) s.cnt (cellsIn a n) } a n = [] := h
  simp only [storeMeet, storeTouch, hcells, ht]
  rfl

/-- A read of which no byte is lost meets no block known to be uncorrectable. -/
theorem lostIn_of_lostAt {s : State} {a n : Nat} (h : lostAt s a n {} = none) : lostIn s a n = [] := by
  cases hl : lostIn s a n with
  | nil => rfl
  | cons b l =>
    have hsome : (lostAt s a n {}).isSome = true := by
      simp only [lostAt, hl, Option.isSome_map]
      exact List.foldlRecOn (b := some (b - a / 64)) (motive := fun m : Option Nat => m.isSome = true)
        (l.map (· - a / 64)) _ rfl fun m _ b _ => by cases m <;> rfl
    simp [h] at hsome

/-- A clean read and a change of a port's record may change places. -/
theorem storeMeet_modEg {s : State} {a n : Nat} (h : lostIn s a n = []) (p : Nat) (g : EgPort → EgPort) :
    storeMeet (modEg s p g) a n {} = modEg (storeMeet s a n {}) p g := by
  rw [storeMeet_clean h, storeMeet_clean (s := modEg s p g) h]
  rfl

/-! ### The start of a frame (R323) -/

/-- Class `c` of a port has sent its head `f` to the express MAC, and `r` still waits (R323, R325). -/
def frameStarted (s : State) (p c : Nat) (f : EFrame) (r : List EFrame) : State :=
  creditCheck (modEg (storeMeet s (bufAddr s f.buf f.off) (f.len - f.hdr.length) {}) p fun e => { e with
    cls := mset e.cls c { clsOf s p c with q := r }
    run := some {
      f := f, cls := c, left := wirePs s p (frameBits s p f), since := some s.clk, frag := s.clk, ts := txStamp s p }
    runP := e.runP.map fun x => preemptAt x s.clk }) p c

/-- Without preemption every class starts on the express MAC (R165, R323). -/
theorem startFrame_express {s : State} {p : Nat} (h : preemptActive s p = false) (c : Nat) (f : EFrame) (bits : Nat) :
    startFrame s p c f bits false = modEg s p fun e => { e with
      run := some {
        f := f, cls := c, left := wirePs s p bits, since := some s.clk, frag := s.clk, ts := txStamp s p }
      runP := e.runP.map fun x => preemptAt x s.clk } := by
  simp [startFrame, express, h]

/-- A class without a shaper gives up its head, and keeps its tokens (R325). -/
theorem modCls_unshaped {s : State} {p c : Nat} (h : rd s F.EG_SHAPE_RATE_EN 0 (egInst p c) = 0) (r : List EFrame)
    (tok : Option (Int × Nat)) :
    modCls s p c (fun k => { k with q := r, tok := if rd s F.EG_SHAPE_RATE_EN 0 (egInst p c) = 1 then tok else k.tok }) =
      modEg s p fun e => { e with cls := mset e.cls c { clsOf s p c with q := r } } := by
  simp [modCls, modEg, clsOf, h]

/-- The class that the scheduler chooses sends its head; where every read is clean, counters and the port's record alone
change (R323). -/
theorem txStart_plain {s : State} {p c : Nat} {f : EFrame} {r : List EFrame} (hcal : calOn s p = false)
    (hpre : preemptActive s p = false) (hsched : schedule s p = some (c, s)) (hq : (clsOf s p c).q = f :: r)
    (hk : f.kind = .plain) (hrate : rd s F.EG_SHAPE_RATE_EN 0 (egInst p c) = 0)
    (hlost : lostAt s (bufAddr s f.buf f.off) (f.len - f.hdr.length) {} = none) :
    txStart s p {} = frameStarted s p c f r := by
  have hheads : (List.range 8).foldl (fun s c => headCheck s p c (clsOf s p c).q.length) s = s :=
    List.foldlRecOn (motive := fun t => t = s) _ _ rfl fun t ht c _ => by
      rw [ht]
      exact headCheck_of_calOff hcal c _
  have hclean := lostIn_of_lostAt hlost
  unfold txStart frameStarted
  rw [hheads]
  dsimp only
  rw [hsched]
  dsimp only
  rw [hq]
  dsimp only
  have hbuf (g : EgPort → EgPort) : bufAddr (modEg s p g) f.buf f.off = bufAddr s f.buf f.off := rfl
  rw [modCls_unshaped hrate, hbuf, storeMeet_modEg hclean, storeMeet_clean hclean]
  generalize touchCnt _ _ _ = m
  have hl (g : EgPort → EgPort) :
      lostAt (modEg { s with cnt := m } p g) (bufAddr s f.buf f.off) (f.len - f.hdr.length) {} = none := hlost
  rw [hl, Option.isSome_none, startFrame_express (s := modEg { s with cnt := m } p _) hpre, modEg_modEg, hk]
  exact headCheck_of_calOff (s := creditCheck (modEg { s with cnt := m } p _) p c) hcal _ _

/-! ### The end of a frame (R321) -/

/-- Between two states nothing that was sent is taken back, and no port's egress record changes. -/
structure SendsOn (s t : State) : Prop where
  eg : t.eg = s.eg
  out : s.out <:+ t.out

theorem SendsOn.refl (s : State) : SendsOn s s := ⟨rfl, List.suffix_rfl⟩

theorem SendsOn.trans {s t u : State} (h : SendsOn s t) (k : SendsOn t u) : SendsOn s u :=
  ⟨k.eg.trans h.eg, h.out.trans k.out⟩

/-- A change of fields other than the output log and the egress records. -/
theorem SendsOn.of_eq {s t u : State} (h : SendsOn s t) (he : u.eg = t.eg) (ho : u.out = t.out) : SendsOn s u :=
  ⟨he.trans h.eg, ho ▸ h.out⟩

theorem SendsOn.ite {s t u : State} {c : Prop} [Decidable c] (ht : SendsOn s t) (hu : SendsOn s u) :
    SendsOn s (if c then t else u) := by
  split
  · exact ht
  · exact hu

theorem SendsOn.emit {s t : State} (h : SendsOn s t) (o : Out) : SendsOn s (emit t o) :=
  h.trans ⟨rfl, List.suffix_cons o t.out⟩

theorem SendsOn.cadd {s t : State} (h : SendsOn s t) (u i x n : Nat) : SendsOn s (cadd t u i x n) := h.of_eq rfl rfl

theorem SendsOn.sendPause {s t : State} (h : SendsOn s t) (p c time : Nat) : SendsOn s (sendPause t p c time) := by
  unfold Machine.sendPause
  refine SendsOn.ite h (SendsOn.ite ?_ ?_)
  · exact (h.emit _).of_eq rfl rfl
  · exact (h.emit _).of_eq rfl rfl

theorem SendsOn.xonCheck {s t : State} (h : SendsOn s t) (p c : Nat) : SendsOn s (xonCheck t p c) := by
  unfold Machine.xonCheck
  dsimp only
  split
  · refine SendsOn.sendPause ?_ p c 0
    exact h.of_eq rfl rfl
  · exact h

theorem SendsOn.unheld {s t : State} (h : SendsOn s t) (b : Nat) : SendsOn s (unheld t b) := by
  unfold Machine.unheld
  dsimp only
  split
  · refine SendsOn.xonCheck ?_ _ _
    exact h.of_eq rfl rfl
  · exact h

theorem SendsOn.forget {s t : State} (h : SendsOn s t) (b : Nat) : SendsOn s (forget t b) := h.of_eq rfl rfl

theorem SendsOn.hcDrop {s t : State} (h : SendsOn s t) (b : Nat) : SendsOn s (hcDrop t b) := h.of_eq rfl rfl

theorem SendsOn.setFree {s t : State} (h : SendsOn s t) (b : Nat) : SendsOn s (setFree t b) := by
  unfold Machine.setFree
  refine SendsOn.unheld (SendsOn.hcDrop (SendsOn.forget ?_ b) b) b
  exact h.of_eq rfl rfl

theorem SendsOn.devFree {s t : State} (h : SendsOn s t) (b : Nat) : SendsOn s (devFree t b) := by
  unfold Machine.devFree
  split
  · exact (h.setFree b).cadd ..
  · exact h

theorem SendsOn.devFreeIf {s t : State} (h : SendsOn s t) (own : Bool) (b : Nat) :
    SendsOn s (if own then Machine.devFree t b else t) :=
  SendsOn.ite (h.devFree b) h

theorem SendsOn.countTx {s t : State} (h : SendsOn s t) (p : Nat) (b : List Byte) : SendsOn s (countTx t p b) := by
  unfold Machine.countTx
  have hlen : SendsOn s (Machine.cadd (Machine.cadd t 5 p 12 1) 5 p 13 (b.length + 4)) := (h.cadd ..).cadd ..
  exact SendsOn.ite (hlen.cadd ..) (SendsOn.ite (hlen.cadd ..) hlen)

/-- The end of a frame of no job and not of the Sluice: it is sent, with its tag, and then it is counted and its buffer freed
(R160, R168, R321). -/
theorem sendsOn_frameEnd_plain (s : State) (p : Nat) (r : TxRun) (hk : r.f.kind = .plain) :
    SendsOn (emit s (.frame (Fin.ofNat 32 p) r.cls (tagged s p (frameBytes s r.f) r.f.tag) r.bad)) (frameEnd s p r) := by
  unfold frameEnd
  dsimp only
  rw [hk]
  dsimp only
  generalize emit s _ = t
  have hcount : SendsOn t (egCount (egCount
      (if r.bad then cadd t 5 p 18 1 else countTx t p (tagged s p (frameBytes s r.f) r.f.tag)) p r.cls 7 1) p r.cls 8
      r.f.len) := by
    refine SendsOn.cadd (SendsOn.cadd ?_ ..) ..
    split
    · exact (SendsOn.refl t).cadd ..
    · exact (SendsOn.refl t).countTx ..
  generalize egCount _ p r.cls 8 r.f.len = u at hcount ⊢
  refine SendsOn.devFreeIf ?_ _ _
  split
  · split
    · exact (hcount.cadd ..).cadd ..
    · exact hcount
  · exact hcount

/-- A preempted frame that goes on leaves the express MAC and the outputs as they are (R166). -/
theorem resumeP_run (s : State) (p : Nat) : (egOf (resumeP s p) p).run = (egOf s p).run := by
  unfold resumeP
  dsimp only
  split
  · split
    · rw [egOf_cadd, egOf_modEg_same]
    · rfl
  · rfl

theorem resumeP_out (s : State) (p : Nat) : (resumeP s p).out = s.out := by
  unfold resumeP
  dsimp only
  split
  · split <;> rfl
  · rfl

/-- The express MAC has ended its frame (R321). -/
theorem txEnd_express {s : State} {p : Nat} {r : TxRun} (hr : (egOf s p).run = some r) (ho : runOver s r = true) :
    txEnd s p = resumeP (frameEnd (modEg s p fun e => { e with run := none }) p r) p := by
  simp [txEnd, hr, ho]

/-! ### Calendars (R329) -/

/-- The registers between EG_CAL_LEN and the entries are none of the shadow calendar. -/
theorem shadowCal_rset {off : Nat} (h : 0xC00044 < off ∧ off < 0xC00400) (s : State) (p v : Nat) :
    shadowCal (rset s off p v) p = shadowCal s p := by
  have hl : likenessKey ≠ rkey off p := by unfold likenessKey rkey; omega
  have hlen : rd (rset s off p v) F.EG_CAL_LEN_LEN 0 p = rd s F.EG_CAL_LEN_LEN 0 p := by
    unfold rd
    rw [rget_rset_ne _ _ _ _ _ _ (by simp only [rkey]; omega) hl]
  have hent (i : Nat) : rget (rset s off p v) (F.EG_CAL_ENT_GATES.off + 4 * i) p =
      rget s (F.EG_CAL_ENT_GATES.off + 4 * i) p :=
    rget_rset_ne _ _ _ _ _ _ (by simp only [rkey]; omega) hl
  simp only [shadowCal, hlen, hent]

/-- Nor do they bear on the arming check, of whose registers only FT_ARM_LEAD is read (R43). -/
theorem armCheck_rset {off : Nat} (h : 0xC00044 < off) (s : State) (p v target : Nat) :
    armCheck (rset s off p v) target = armCheck s target := by
  have hlead : rd (rset s off p v) F.FT_ARM_LEAD_LEAD = rd s F.FT_ARM_LEAD_LEAD := by
    unfold rd
    rw [rget_rset_ne _ _ _ _ _ _ (by simp only [rkey]; omega) (by unfold likenessKey rkey; omega)]
  unfold armCheck
  rw [hlead]
  rfl

/-- The write of EG_CAL_ARM_HI with a valid shadow set and a target that may be armed (R43, R329). -/
theorem calArm_ok {s : State} {lo w : Nat} (hsel : rd s F.EG_SEL_SET = 0) (hidle : calState s (rd s F.EG_SEL_PORT) = 0)
    (hv : calValid (shadowCal s (rd s F.EG_SEL_PORT)) = true)
    (ha : armCheck s ((lo + w * 2 ^ 32) * 2 ^ 20) = none) :
    calArm s lo w = modEg { rset (rset s F.EG_CAL_ARM_LO_EPOCH_LO.off (rd s F.EG_SEL_PORT) lo)
        F.EG_CAL_ARM_HI_EPOCH_HI.off (rd s F.EG_SEL_PORT) w with
      armed := s.armed ++ [(.cal (rd s F.EG_SEL_PORT), (lo + w * 2 ^ 32) * 2 ^ 20)] } (rd s F.EG_SEL_PORT)
      fun e => { e with armErr := 0 } := by
  have hv' : calValid (shadowCal (rset (rset s F.EG_CAL_ARM_LO_EPOCH_LO.off (rd s F.EG_SEL_PORT) lo)
      F.EG_CAL_ARM_HI_EPOCH_HI.off (rd s F.EG_SEL_PORT) w) (rd s F.EG_SEL_PORT)) = true := by
    rw [shadowCal_rset (by decide), shadowCal_rset (by decide), hv]
  have ha' : armCheck (rset (rset s F.EG_CAL_ARM_LO_EPOCH_LO.off (rd s F.EG_SEL_PORT) lo)
      F.EG_CAL_ARM_HI_EPOCH_HI.off (rd s F.EG_SEL_PORT) w) ((lo + w * 2 ^ 32) * 2 ^ 20) = none := by
    rw [armCheck_rset (by decide), armCheck_rset (by decide), ha]
  unfold calArm
  dsimp only
  rw [if_neg (by simp [hsel, hidle]), if_neg (by simp [hv']), ha']
  rfl

/-- The swap that is armed alone and due, on a port whose gates no calendar drives (R329, R330). -/
theorem calEdge_due {s : State} {p d : Nat} (ha : s.armed = [(.cal p, d)]) (hd : d ≤ ftNs s) (hcal : calOn s p = false) :
    calEdge s p = raise (putShadow (modEg { s with armed := [] } p fun e =>
        let e := { e with
          cal := (shadowSet s p).take (rd s F.EG_CAL_LEN_LEN 0 p), rest := (shadowSet s p).drop (rd s F.EG_CAL_LEN_LEN 0 p)
          origin := d * 65536, copying := true }
        { e with entry := (entAt e.cal (calPos e s.ft.count) 0).1 }) p (egOf s p).cal.length (activeSet (egOf s p)))
      .egCalSwapped (egInst p 0) := by
  have hfound : s.armed.find? (fun a => decide (a.1 = .cal p)) = some (.cal p, d) := by simp [ha]
  have hrest : s.armed.filter (fun a => decide (a.1 ≠ .cal p)) = [] := by simp [ha]
  unfold calEdge
  rw [hfound]
  dsimp only
  rw [if_pos hd, hrest, withGates_of_calOff (s := { s with armed := [] }) hcal hcal]
  rfl

/-! ### The statement -/

/-- Settles O32: each clause is one of the rules above, on the state that its command finds. -/
theorem egressTransmission : Obligations.EgressTransmission := by
  refine ⟨fun n c f r s hconns hcal hpre hsched hq hk hrate hlost => ?start, fun n r s hr ho hk => ?end_,
    fun n s h => ?gate, fun p v s hopen hsel hidle hv ha => ?arm, fun p v s hopen hbusy => ?armBusy,
    fun n d s ha hd hcal hl => ?swap, fun n s hc => ?copyEnd⟩
  case start =>
    have ht := txStart_plain (calOn_eq_false hcal) (preemptActive_eq_false hpre) hsched hq hk hrate hlost
    have hnone : (frameStarted s n.val c f r).conns = [] := by
      rw [frameStarted, storeMeet_clean (lostIn_of_lostAt hlost)]
      exact hconns
    show Host.Outcome.next ((txStart s n.val {}).conns.foldl (fun s x => plan s x.1) (txStart s n.val {})) = _
    rw [ht, hnone]
    rfl
  case end_ =>
    have hsent := sendsOn_frameEnd_plain (modEg s n.val fun e => { e with run := none }) n.val r hk
    refine ⟨txEnd s n.val, rfl, ?_, ?_, txEnd_express hr ho⟩
    · rw [txEnd_express hr ho, resumeP_run, egOf, hsent.eg]
      exact congrArg EgPort.run (egOf_modEg_same s n.val fun e => { e with run := none })
    · rw [txEnd_express hr ho, resumeP_out]
      exact hsent.out.subset (List.mem_cons_self ..)
  case gate =>
    refine congrArg Host.Outcome.next ?_
    rcases h with hcal | ⟨hrun, hrunP, hpre⟩
    · exact withGates_of_calOff (calOn_eq_false hcal) (calOn_eq_false hcal)
    · refine withGates_of_idle ?_ ?_ (preemptActive_eq_false hpre) (preemptActive_eq_false hpre)
      · rw [egOf_modEg_same]; exact hrun
      · rw [egOf_modEg_same]; exact hrunP
  case arm => exact congrArg Host.Outcome.next ((regGate_open hopen).trans (calArm_ok hsel hidle hv ha))
  case armBusy =>
    refine congrArg Host.Outcome.next ((regGate_open hopen).trans ?_)
    exact if_pos (.inr hbusy)
  case swap =>
    have hdue : armedDue s (.cal n.val) = true := by simp [armedDue, ha, hd]
    have hwork : edgeCommand s (fun s => armedDue s (.cal n.val)) (fun s => calEdge s n.val) = calEdge s n.val := by
      simp [edgeCommand, hl, hdue]
    refine ⟨_, congrArg Host.Outcome.next (hwork.trans (calEdge_due ha hd (calOn_eq_false hcal))), ?_, ?_, ?_, rfl⟩ <;>
      rw [egOf_modEg_same]
  case copyEnd => exact if_pos hc

end Sys2Proof.Machine

/-! PROOFS. The invariant of every step, and the generations that handles carry. -/
namespace Sys2Proof.Machine

/-! ### The invariant -/

/-- What a command keeps includes the invariant. -/
theorem Kept.inv {s t : State} (h : Kept s t) (hi : s.Inv) : t.Inv := by
  obtain ⟨hmem, hgens⟩ := hi
  exact ⟨h.mem hmem, h.gens hgens⟩

/-- The invariant says nothing of the time. -/
theorem inv_withClk {s : State} (n : Nat) (hi : s.Inv) : { s with clk := n }.Inv := hi

/-- The command of an edge keeps the invariant, whether or not its PCLK passes with it. -/
theorem KeptE.inv {s t : State} (h : KeptE s t) (hi : s.Inv) : t.Inv :=
  h.elim (fun k => k.inv hi) fun k => k.inv (inv_withClk _ hi)

/-- Every command keeps the invariant. -/
theorem exec_inv {s t : State} (i : Instr) (hi : s.Inv) (h : exec i s = .next t) : t.Inv := by
  obtain ⟨u, hu, hk⟩ := exec_next i s
  cases hu.symm.trans h
  rcases hk with hk | ⟨-, hk⟩
  · exact hk.inv hi
  · exact hk.inv hi

/-- The tick keeps the invariant. -/
theorem tick_inv {s : State} (hi : s.Inv) : (tick s).Inv := (tick_kept (Kept.refl s)).inv (inv_withClk _ hi)

/-- Every step keeps the invariant: a tick, or the command at the front of the queue. -/
theorem step_inv {s t : State} (hi : s.Inv) (h : step s = .next t) : t.Inv := by
  cases hp : s.pending with
  | nil =>
    cases (step_of_pending_nil hp).symm.trans h
    exact tick_inv hi
  | cons c rest =>
    have hrest : State.Inv { s with pending := rest } := hi
    exact exec_inv c hrest ((step_of_pending_cons hp).symm.trans h)

/-- So does a run, by induction on the number of its steps. -/
theorem run_inv (n : Nat) {s t : State} (hi : s.Inv) (h : Sys2Proof.core.run n s = .next t) : t.Inv := by
  induction n generalizing s with
  | zero =>
    cases h
    exact hi
  | succ n ih =>
    obtain ⟨u, hu⟩ := step_next s
    exact ih (step_inv hi hu) ((run_succ_of_step_next n hu).symm.trans h)

/-- Settles O48: the invariant along one step, and along a run by induction on its length. -/
theorem everyStepKeepsTheInvariant : Obligations.EveryStepKeepsTheInvariant :=
  ⟨fun _ hi _ h => step_inv hi h, fun n _ hi _ h => run_inv n hi h⟩

/-! ### Generations (R60) -/

/-- What a map answers is one of its entries. -/
theorem mem_of_mget? {α : Type} {m : Map α} {k : Nat} {v : α} (h : mget? m k = some v) : (k, v) ∈ m := by
  induction m with
  | nil => cases h
  | cons x t ih =>
    obtain ⟨a, w⟩ := x
    rw [mget?] at h
    split at h
    next hk =>
      cases h
      exact hk ▸ List.mem_cons_self ..
    next => exact List.mem_cons_of_mem _ (ih h)

theorem gen_lt (s : State) (cls idx : Nat) : gen s cls idx < 256 := (mget (1 : Byte) s.gens (gkey cls idx)).isLt

/-- Where no generation is 0x00, none reads 0x00: an absent one is 0x01. -/
theorem gen_ne_zero {s : State} (h : s.gensOk) (cls idx : Nat) : gen s cls idx ≠ 0 := by
  unfold gen mget
  cases hg : mget? s.gens (gkey cls idx) with
  | none => decide
  | some b =>
    have hb : b ≠ 0 := h _ (mem_of_mget? hg)
    exact fun h0 => hb (BitVec.eq_of_toNat_eq h0)

/-- A generation of a byte advances to one of a byte. -/
theorem nextGen_lt {g : Nat} (h : g < 256) : nextGen g < 256 := by
  unfold nextGen
  split <;> omega

/-- The end of an incarnation advances the generation of its index. -/
theorem gen_advGen_same (s : State) (cls idx : Nat) : gen (advGen s cls idx) cls idx = nextGen (gen s cls idx) := by
  have hlt := nextGen_lt (gen_lt s cls idx)
  rw [gen, advGen, mget_mset_same, BitVec.toNat_ofNat]
  exact Nat.mod_eq_of_lt hlt

/-- It leaves the generation of every other index of its class. -/
theorem gen_advGen_ne (s : State) {cls idx j : Nat} (h : j ≠ idx) : gen (advGen s cls idx) cls j = gen s cls j := by
  have hk : gkey cls j ≠ gkey cls idx := by
    unfold gkey
    omega
  rw [gen, advGen, mget_mset_ne _ _ _ _ _ hk]
  rfl

/-- Settles O57: the checks by the four answers, the advance by the two rules above. -/
theorem handleChecksAndGenerations : Obligations.HandleChecksAndGenerations := by
  refine ⟨fun kindOk idxOk genOk inUse => ?checks, fun cls idx s _ => gen_advGen_same s cls idx,
    fun cls idx j s h => gen_advGen_ne s h⟩
  case checks =>
    cases kindOk
    · rfl
    · cases idxOk
      · rfl
      · cases genOk
        · rfl
        · cases inUse <;> rfl

/-! ### Handles (R58) -/

theorem hKind_eq (w : Nat) : hKind w = w / 2 ^ 28 % 16 := rfl
theorem hGen_eq (w : Nat) : hGen w = w / 2 ^ 20 % 256 := rfl
theorem hIdx_eq (w : Nat) : hIdx w = w % 2 ^ 20 := by simp [hIdx, bitsOf]

/-- Settles O55: the fields of a handle are digits of its word, to the bases 2^20, 2^8 and 2^4. -/
theorem handleWords : Obligations.HandleWords := by
  refine ⟨fun k g i hk hg hi => ?fields, fun w hw => ?word, fun cls idx s h => ?genRange⟩
  case fields =>
    rw [hKind_eq, hGen_eq, hIdx_eq]
    unfold mkHandle
    omega
  case word =>
    rw [hKind_eq, hGen_eq, hIdx_eq]
    unfold mkHandle
    omega
  case genRange =>
    exact ⟨Nat.one_le_iff_ne_zero.mpr (gen_ne_zero h cls idx), Nat.le_of_lt_succ (gen_lt s cls idx)⟩

end Sys2Proof.Machine

/-! PROOFS. Push windows: what a write to a slot, the end of a validation and the time-outs of a slot do. -/
namespace Sys2Proof.Machine

/-! ### Maps and the record of a tenant -/

theorem mmod_some {α : Type} {m : Map α} {k : Nat} {v : α} (h : mget? m k = some v) (f : α → α) :
    mmod m k f = mset m k (f v) := by
  simp [mmod, h]

theorem mget?_mmod_ne {α : Type} (m : Map α) {k j : Nat} (f : α → α) (h : j ≠ k) :
    mget? (mmod m k f) j = mget? m j := by
  unfold mmod
  split
  · exact mget?_mset_ne _ _ _ _ h
  · rfl

theorem modTen_some {s : State} {t : Nat} {x : Tenant} (h : mget? s.tens t = some x) (f : Tenant → Tenant) :
    modTen s t f = { s with tens := mset s.tens t (f x) } := by
  rw [modTen, mmod_some h]

/-- Two changes of a tenant's record are one. -/
theorem modTen_modTen {s : State} {t : Nat} {x : Tenant} (h : mget? s.tens t = some x) (f g : Tenant → Tenant) :
    modTen (modTen s t f) t g = { s with tens := mset s.tens t (g (f x)) } := by
  have hx : mget? (modTen s t f).tens t = some (f x) := by
    rw [modTen_some h]
    exact mget?_mset_same _ _ _
  rw [modTen_some hx, modTen_some h, mset_mset]

/-- A record is discarded: its tenant counts it, and the event goes out once (R120). -/
theorem pushDiscard_some {s : State} {t : Nat} {x : Tenant} (h : mget? s.tens t = some x) (f : Tenant → Tenant) :
    pushDiscard (modTen s t f) t =
      raiseOnceFor { s with
        tens := mset s.tens t { f x with discarded := ((f x).discarded + 1) % 2 ^ 32, creditDirty := true } }
        .qmPushDiscard (tenHandle s t) t := by
  rw [pushDiscard, modTen_modTen h]
  rfl

/-! ### Slots that become IDLE -/

theorem slotKey_div {n k : Nat} (hk : k < 32) : slotKey n k / 32 = n := by
  unfold slotKey
  omega

/-- Slots of different tenants have different keys. -/
theorem slotKey_ne {n m k j : Nat} (hn : m ≠ n) (hk : k < 32) (hj : j < 32) : slotKey m j ≠ slotKey n k := by
  unfold slotKey
  omega

theorem raiseOnceFor_slots (s : State) (e : Ev) (i k : Nat) : (raiseOnceFor s e i k).slots = s.slots := by
  unfold raiseOnceFor
  split
  · rfl
  · exact raise_slots s e i

theorem pushDiscard_slots (s : State) (t : Nat) : (pushDiscard s t).slots = s.slots := raiseOnceFor_slots ..

theorem creditBack_slots (s : State) (t : Nat) (f : Tenant → Tenant) : (creditBack s t f).slots = s.slots := rfl

theorem demoteHot_slots {s t : State} {p : Nat} (h : demoteHot s p = some t) : t.slots = s.slots := by
  unfold demoteHot at h
  split at h
  · cases h
    exact raise_slots ..
  · cases h

theorem makeRoom_slots (s : State) (p n : Nat) : (makeRoom s p n).1.slots = s.slots := by
  induction n generalizing s with
  | zero => rfl
  | succ n ih =>
    unfold makeRoom
    split
    · rfl
    · split
      next t ht => exact (ih t).trans (demoteHot_slots ht)
      next => rfl

theorem promote_slots (s : State) (i : Nat) : (promote s i).slots = s.slots := by
  unfold promote
  split
  · rfl
  · dsimp only
    split
    · rfl
    · exact makeRoom_slots ..

/-- The end of the validation of an IDLE slot is nothing. -/
theorem pushEnd_idle {s : State} {k : Nat} (h : mget? s.slots k = none) : pushEnd s k = s := by
  simp [pushEnd, h]

/-- The slot of a record that passes: the record is taken and its credit comes back (R121). -/
theorem pushEnd_passed {s : State} {k n i m : Nat} {l : PushSlot} {es : List Entry} (hn : k / 32 = n)
    (h : mget? s.slots k = some l) (hc : pushCheck s n l.bytes = some (i, m, es)) :
    pushEnd s k = creditBack (promote (pushTake { s with slots := mdel s.slots k } i es) i) n id := by
  have hc' : pushCheck { s with slots := mdel s.slots k } n l.bytes = some (i, m, es) := hc
  simp only [pushEnd, hn, h, hc']

/-- The slot of a record that fails: the record is discarded and its credit comes back (R121). -/
theorem pushEnd_failed {s : State} {k n : Nat} {l : PushSlot} (hn : k / 32 = n) (h : mget? s.slots k = some l)
    (hc : pushCheck s n l.bytes = none) :
    pushEnd s k = pushDiscard (creditBack { s with slots := mdel s.slots k } n
      fun x => { x with invalid := (x.invalid + 1) % 2 ^ 32 }) n := by
  have hc' : pushCheck { s with slots := mdel s.slots k } n l.bytes = none := hc
  simp only [pushEnd, hn, h, hc']

/-- After the end of its validation a slot is IDLE. -/
theorem pushEnd_slot_idle (s : State) (k : Nat) : mget? (pushEnd s k).slots k = none := by
  cases hs : mget? s.slots k with
  | none => rw [pushEnd_idle hs, hs]
  | some l =>
    have hdel : mget? (mdel s.slots k) k = none := mget?_mdel_same _ _
    cases hc : pushCheck s (k / 32) l.bytes with
    | none =>
      rw [pushEnd_failed rfl hs hc, pushDiscard_slots]
      exact hdel
    | some r =>
      obtain ⟨i, m, es⟩ := r
      rw [pushEnd_passed rfl hs hc, creditBack_slots, promote_slots]
      exact hdel

theorem pushEnd_pushEnd (s : State) (k : Nat) : pushEnd (pushEnd s k) k = pushEnd s k :=
  pushEnd_idle (pushEnd_slot_idle s k)

/-! ### The order of the pushes of an SQ (R123) -/

theorem mem_insertBy {α : Type} {le : α → α → Bool} {x y : α} {l : List α} (h : y ∈ insertBy le x l) :
    y = x ∨ y ∈ l := by
  induction l with
  | nil => exact .inl (List.mem_singleton.mp h)
  | cons z t ih =>
    unfold insertBy at h
    split at h
    · exact List.mem_cons.mp h
    · rcases List.mem_cons.mp h with rfl | h
      · exact .inr (List.mem_cons_self ..)
      · exact (ih h).imp_right (List.mem_cons_of_mem _)

theorem mem_of_mem_sorted {α : Type} {le : α → α → Bool} {y : α} {l : List α}
    (h : y ∈ l.foldr (insertBy le) []) : y ∈ l := by
  induction l with
  | nil => exact h
  | cons x t ih =>
    rcases mem_insertBy h with rfl | h
    · exact List.mem_cons_self ..
    · exact List.mem_cons_of_mem _ (ih h)

/-- Ends of the validation of one slot are one end. -/
theorem pushEnd_foldl {k : Nat} {l : List (Nat × PushSlot)} (h : ∀ x ∈ l, x.1 = k) (s : State) :
    pushEnd (l.foldl (fun s x => pushEnd s x.1) s) k = pushEnd s k := by
  induction l generalizing s with
  | nil => rfl
  | cons x t ih =>
    have hx : x.1 = k := h x (List.mem_cons_self ..)
    rw [List.foldl_cons, ih fun y hy => h y (List.mem_cons_of_mem _ hy), hx, pushEnd_pushEnd]

/-- Where no other slot holds a complete record for the SQ, no push comes before this one. -/
theorem pushEnd_pushesTaken {s : State} {k i : Nat} (mine : Nat × PushSlot → Bool)
    (h : ∀ y ∈ s.slots, y.1 = k ∨ y.2.st ≠ .validating ∨ pushSq y.2 ≠ i) :
    pushEnd (pushesTaken s i mine) k = pushEnd s k := by
  refine pushEnd_foldl (fun x hx => ?_) s
  have hmem := List.mem_filter.mp (mem_of_mem_sorted hx)
  obtain ⟨hin, htest⟩ := hmem
  obtain ⟨hval, hsq⟩ := of_decide_eq_true (Bool.and_eq_true_iff.mp htest).1
  rcases h x hin with hk | hst | hne
  · exact hk
  · exact absurd hval hst
  · exact absurd hsq hne

/-- PUSH_VALIDATE of the only complete record for its SQ ends the validation of its slot (R121, R123). -/
theorem execPushValidate_only {s : State} {n : TenantId} {k : Fin 32} {l : PushSlot}
    (hl : mget? s.slots (slotKey n.val k.val) = some l) (hst : l.st = .validating) (hrun : running s = true)
    (honly : ∀ y ∈ s.slots, y.1 = slotKey n.val k.val ∨ y.2.st ≠ .validating ∨ pushSq y.2 ≠ pushSq l) :
    execPushValidate n k s = .next (pushEnd s (slotKey n.val k.val)) := by
  simp only [execPushValidate, hl]
  rw [if_neg (by simp [hst, hrun]), pushEnd_pushesTaken _ honly]

/-! ### A write to a slot (R120) -/

/-- A write to the page of a tenant whose port is up, on a running device: it reaches the slot where the page is live, and
is counted where it is not (R56, R120). -/
theorem execPushSlotWrite_open {s : State} {p : HostPort} (n : TenantId) (k : Fin 32) (o : Fin 512) (b : List Byte)
    (hlink : linkUp s p.val = true) (hmse : (fnOf s p.val .pf1).mse = true) (hrun : running s = true) :
    execPushSlotWrite p n k o b s = .next (if pageLive s p.val n.val then slotWrite s n.val k.val o.val b
      else modTen s n.val fun x => { x with notLive := (x.notLive + 1) % 2 ^ 32 }) := by
  simp [execPushSlotWrite, barGate, hlink, hmse, hrun]

/-- One byte is no complete record: its header alone has 64. -/
theorem pushComplete_single (o : Nat) (b : Byte) : pushComplete [(o, b)] = false := by
  have hmiss : (mget? [(o, b)] 0).isSome = false ∨ (mget? [(o, b)] 1).isSome = false := by
    by_cases h : o = 0
    · exact .inr (by simp [mget?, h])
    · exact .inl (by simp [mget?, h])
  unfold pushComplete
  refine Bool.and_eq_false_imp.mpr fun hall => absurd (List.all_eq_true.mp hall) fun hpres => ?_
  have h0 := hpres 0 (by decide)
  have h1 := hpres 1 (by decide)
  rcases hmiss with h | h
  · exact absurd h0 (by simp [h])
  · exact absurd h1 (by simp [h])

/-- The first byte into an IDLE slot opens its assembly (R120). -/
theorem pushAssemble_first (s : State) (t k : Nat) {o : Nat} (b : Byte) (ho : o < 512) :
    pushAssemble s t k o [b] { st := .assembling, start := s.clk } = { s with
      slots := mset s.slots (slotKey t k) { st := .assembling, start := s.clk, since := s.clk, bytes := [(o, b)] } } := by
  have hstore : pushStore [] o [b] = some [(o, b)] := by
    simp [pushStore, Nat.not_le.mpr ho, mget?, mset]
  simp only [pushAssemble, hstore, pushComplete_single, Bool.false_eq_true, if_false]

/-! ### The statement of the push windows -/

/-- Settles O10: each clause is one of the rules above. -/
theorem pushWindows : Obligations.PushWindows := by
  refine ⟨fun p n x k o b s hlink hmse hrun hlive hten hslot hcredit => ?first,
    fun p n x k o b s hlink hmse hrun hlive hten hslot hcredit => ?beyond,
    fun p n x k o b s hlink hmse hrun hlive hten => ?notLive,
    fun n k l i m es s hl hst hrun hcheck honly => ?passed,
    fun n k l x s hl hst hrun hten hcheck honly => ?failed,
    fun n k l x s hl hst hdue hrun hten => ?torn,
    fun n k l s hl hst hdue hrun => ?refused,
    fun n x s hten hdirty haddr hreq => ?credit⟩
  case first =>
    refine (execPushSlotWrite_open n k o [b] hlink hmse hrun).trans (congrArg Host.Outcome.next ?_)
    have hroom : busySlots s n.val < ((mget? s.tens n.val).map (·.credits)).getD 0 := by simpa [hten] using hcredit
    simp only [hlive, if_true, slotWrite, hslot, if_pos hroom]
    exact pushAssemble_first s n.val k.val b o.isLt
  case beyond =>
    refine (execPushSlotWrite_open n k o b hlink hmse hrun).trans (congrArg Host.Outcome.next ?_)
    have hfull : ¬ busySlots s n.val < ((mget? s.tens n.val).map (·.credits)).getD 0 := by simpa [hten] using hcredit
    simp only [hlive, if_true, slotWrite, hslot, if_neg hfull]
    exact pushDiscard_some
      (s := { s with slots := mset s.slots (slotKey n.val k.val) { st := .refused, start := s.clk } }) hten _
  case notLive =>
    refine (execPushSlotWrite_open n k o b hlink hmse hrun).trans (congrArg Host.Outcome.next ?_)
    simp only [hlive, Bool.false_eq_true, if_false]
    exact modTen_some hten _
  case passed =>
    exact (execPushValidate_only hl hst hrun honly).trans
      (congrArg Host.Outcome.next (pushEnd_passed (slotKey_div k.isLt) hl hcheck))
  case failed =>
    refine (execPushValidate_only hl hst hrun honly).trans (congrArg Host.Outcome.next ?_)
    rw [pushEnd_failed (slotKey_div k.isLt) hl hcheck]
    exact pushDiscard_some (s := { s with slots := mdel s.slots (slotKey n.val k.val) }) hten _
  case torn =>
    show execPushAsmTimeout n k s = _
    simp only [execPushAsmTimeout, hl]
    rw [if_pos ⟨hst, hdue, hrun⟩]
    exact congrArg Host.Outcome.next
      (pushDiscard_some (s := { s with slots := mdel s.slots (slotKey n.val k.val) }) hten _)
  case refused =>
    show execPushRefusedTimeout n k s = _
    simp only [execPushRefusedTimeout, hl]
    exact if_pos ⟨hst, hdue, hrun⟩
  case credit =>
    show execCreditWordWrite n s = _
    simp only [execCreditWordWrite, hten]
    rw [if_pos ⟨hdirty, haddr, hreq⟩]
    have howner : ownerPasid s (some n.val) = some x.pasid := by simp [ownerPasid, hten]
    refine congrArg Host.Outcome.next ((modTen_some (s := hostWrite s _ _ _ _) hten _).trans ?_)
    rw [hostWrite, howner]
    rfl

end Sys2Proof.Machine

/-! PROOFS. Errors logged on a function, and what a write to the push window of a tenant leaves. -/
namespace Sys2Proof.Machine

/-! ### The record of a function -/

@[simp] theorem fnOf_modFn_same (s : State) (p : Nat) (f : Fn) (g : FnState → FnState) :
    fnOf (modFn s p f g) p f = g (fnOf s p f) := by
  cases f <;> simp [fnOf, modFn]

@[simp] theorem fnOf_emit (s : State) (o : Out) (p : Nat) (f : Fn) : fnOf (emit s o) p f = fnOf s p f := rfl

/-- A change of a function is one of its port's record. -/
theorem modFn_eq_modHp (s : State) (p : Nat) (f : Fn) (g : FnState → FnState) : ∃ h, modFn s p f g = modHp s p h := by
  cases f
  · exact ⟨fun h => { h with f0 := g h.f0 }, rfl⟩
  · exact ⟨fun h => { h with f1 := g h.f1 }, rfl⟩

/-! ### Errors (R84) -/

/-- An uncorrectable error of bit `b` is logged on a function of a port: its status is set, and nothing but the port's record
and the outputs has changed since `s`. -/
structure Logged (s t : State) (p : Nat) (f : Fn) (b : Nat) : Prop where
  sta : (fnOf t p f).aer.uncSta.getLsbD b = true
  rest : ∃ h o, t = { s with hp := mset s.hp p h, out := o }

/-- The record and the outputs are those of the later state. -/
theorem Logged.eq_with {s t : State} {p b : Nat} {f : Fn} (h : Logged s t p f b) :
    t = { s with hp := mset s.hp p (hpOf t p), out := t.out } := by
  obtain ⟨r, o, rfl⟩ := h.rest
  have hr : hpOf { s with hp := mset s.hp p r, out := o } p = r := mget_mset_same ..
  rw [hr]

/-- One more output. -/
theorem Logged.emit {s t : State} {p b : Nat} {f : Fn} (h : Logged s t p f b) (o : Out) :
    Logged s (emit t o) p f b := by
  obtain ⟨r, os, rfl⟩ := h.rest
  exact ⟨h.sta, r, o :: os, rfl⟩

/-- A change of the registers of AER that keeps the status of uncorrectable errors. -/
theorem Logged.modAer {s t : State} {p b : Nat} {f : Fn} (h : Logged s t p f b) {g : Aer → Aer}
    (hg : ∀ a, (g a).uncSta = a.uncSta) : Logged s (modAer t p f g) p f b := by
  obtain ⟨k, hk⟩ := modFn_eq_modHp t p f fun x => { x with aer := g x.aer }
  refine ⟨?_, ?_⟩
  · rw [Machine.modAer, fnOf_modFn_same]
    exact (congrArg (fun w : Word => w.getLsbD b) (hg _)).trans h.sta
  · rw [Machine.modAer, hk]
    obtain ⟨r, o, rfl⟩ := h.rest
    exact ⟨_, o, by rw [modHp, mset_mset]⟩

theorem getLsbD_setBit (w : Word) {b : Nat} (h : b < 32) : (setBit w b).getLsbD b = true := by
  rw [setBit, BitVec.getLsbD_or, BitVec.getLsbD_ofNat, Nat.testBit_two_pow_self]
  simp [h]

/-- The status of an uncorrectable error is set. -/
theorem logged_uncSta (s : State) (p : Nat) (f : Fn) {b : Nat} (hb : b < 32) :
    Logged s (modAer s p f fun a => { a with uncSta := setBit a.uncSta b }) p f b := by
  obtain ⟨k, hk⟩ := modFn_eq_modHp s p f fun x => { x with aer := { x.aer with uncSta := setBit x.aer.uncSta b } }
  refine ⟨?_, ?_⟩
  · rw [Machine.modAer, fnOf_modFn_same]
    exact getLsbD_setBit _ hb
  · rw [Machine.modAer, hk]
    exact ⟨_, s.out, rfl⟩

/-- A correctable error beside it changes no status of an uncorrectable one. -/
theorem Logged.aerCorrectable {s t : State} {p b : Nat} {f : Fn} (h : Logged s t p f b) (e : AerErr) :
    Logged s (aerCorrectable t p f e) p f b := by
  have hcor := h.modAer (g := fun a => { a with corSta := setBit a.corSta (aerBit e) }) fun _ => rfl
  unfold Machine.aerCorrectable
  dsimp only
  split
  · exact hcor
  · exact hcor.emit _

/-- The record of an uncorrectable error, with or without a header (R84). -/
theorem logged_aerRecord (s : State) (p : Nat) (f : Fn) {e : AerErr} (he : aerBit e < 32) (masked : Bool)
    (hdr : Option (List Word)) : Logged s (aerRecord s p f e masked hdr) p f (aerBit e) := by
  have hsta := logged_uncSta s p f he
  unfold aerRecord
  dsimp only
  split
  · exact hsta
  · split
    · exact hsta.modAer fun _ => rfl
    · split
      · exact hsta.aerCorrectable _
      · exact hsta

/-- An uncorrectable error other than an Unexpected Completion is recorded, and signalled unless masked (R84). -/
theorem logged_aerLog (s : State) (p : Nat) (f : Fn) {e : AerErr} (he : aerBit e < 32) (hcor : aerCor e = false)
    (hint : e ≠ .correctedInternal) (hunx : e ≠ .unexpectedCpl) (hdr : Option (List Word)) :
    Logged s (aerLog s p f e hdr) p f (aerBit e) := by
  have hrec := logged_aerRecord s p f he ((fnOf s p f).aer.uncMask.getLsbD (aerBit e)) hdr
  unfold aerLog
  dsimp only
  rw [if_neg hint, if_neg (by simp [hcor]), if_neg (fun h => hunx h.1)]
  split
  · exact hrec
  · exact hrec.emit _

/-- An Unsupported Request uses one free value for the header of its TLP. -/
theorem logged_unsupportedRequest (s : State) (p : HostPort) (f : Fn) :
    Logged (bumpFree s) (aer s p f .unsupportedRequest) p.val f 20 := by
  rw [aer, if_pos (by decide)]
  exact logged_aerLog (bumpFree s) p.val f (by decide) rfl (by decide) (by decide) _

/-! ### What a push reaches (R56, R120) -/

/-- Between two states no tenant but `n`, no slot of another tenant, no queue, no job, no buffer, no memory, no flow core and
no register has changed. -/
structure PushFrame (n : Nat) (s t : State) : Prop where
  tens : ∀ m, m ≠ n → mget? t.tens m = mget? s.tens m
  slots : ∀ m, m ≠ n → ∀ j, j < 32 → mget? t.slots (slotKey m j) = mget? s.slots (slotKey m j)
  sqs : t.sqs = s.sqs
  cqs : t.cqs = s.cqs
  jobs : t.jobs = s.jobs
  coop : t.coop = s.coop
  mere : t.mere = s.mere
  sysmem : t.sysmem = s.sysmem
  lmem : t.lmem = s.lmem
  cores : t.cores = s.cores
  regs : t.regs = s.regs

theorem PushFrame.refl (n : Nat) (s : State) : PushFrame n s s :=
  ⟨fun _ _ => rfl, fun _ _ _ _ => rfl, rfl, rfl, rfl, rfl, rfl, rfl, rfl, rfl, rfl⟩

theorem PushFrame.trans {n : Nat} {s t u : State} (h : PushFrame n s t) (k : PushFrame n t u) : PushFrame n s u where
  tens m hm := (k.tens m hm).trans (h.tens m hm)
  slots m hm j hj := (k.slots m hm j hj).trans (h.slots m hm j hj)
  sqs := k.sqs.trans h.sqs
  cqs := k.cqs.trans h.cqs
  jobs := k.jobs.trans h.jobs
  coop := k.coop.trans h.coop
  mere := k.mere.trans h.mere
  sysmem := k.sysmem.trans h.sysmem
  lmem := k.lmem.trans h.lmem
  cores := k.cores.trans h.cores
  regs := k.regs.trans h.regs

/-- The tenant's own record changes. -/
theorem pushFrame_modTen (n : Nat) (s : State) (f : Tenant → Tenant) : PushFrame n s (modTen s n f) :=
  { PushFrame.refl n s with tens := fun _ hm => mget?_mmod_ne _ f hm }

/-- A slot of the tenant takes another state. -/
theorem pushFrame_slot (n : Nat) (s : State) {k : Nat} (hk : k < 32) (l : PushSlot) :
    PushFrame n s { s with slots := mset s.slots (slotKey n k) l } :=
  { PushFrame.refl n s with slots := fun _ hm _ hj => mget?_mset_ne _ _ _ _ (slotKey_ne hm hk hj) }

/-- A slot of the tenant becomes IDLE. -/
theorem pushFrame_slotIdle (n : Nat) (s : State) {k : Nat} (hk : k < 32) :
    PushFrame n s { s with slots := mdel s.slots (slotKey n k) } :=
  { PushFrame.refl n s with slots := fun _ hm _ hj => mget?_mdel_ne _ _ _ (slotKey_ne hm hk hj) }

/-- An event reaches the Lockkeeper alone. -/
theorem pushFrame_raiseOnceFor (n : Nat) (s : State) (e : Ev) (i k : Nat) : PushFrame n s (raiseOnceFor s e i k) := by
  unfold raiseOnceFor
  split
  · exact .refl n s
  · rw [raise_frame]
    exact ⟨fun _ _ => rfl, fun _ _ _ _ => rfl, rfl, rfl, rfl, rfl, rfl, rfl, rfl, rfl, rfl⟩

theorem pushFrame_pushDiscard (n : Nat) (s : State) : PushFrame n s (pushDiscard s n) :=
  (pushFrame_modTen n s _).trans (pushFrame_raiseOnceFor n _ _ _ _)

theorem pushFrame_pushAssemble (n : Nat) (s : State) {k : Nat} (hk : k < 32) (o : Nat) (b : List Byte) (l : PushSlot) :
    PushFrame n s (pushAssemble s n k o b l) := by
  unfold pushAssemble
  split
  · exact ((pushFrame_slotIdle n s hk).trans (pushFrame_modTen n _ _)).trans (pushFrame_pushDiscard n _)
  · exact pushFrame_slot n s hk _

/-- A write to a slot, by the state the slot is in (R120). -/
theorem pushFrame_slotWrite (n : Nat) (s : State) {k : Nat} (hk : k < 32) (o : Nat) (b : List Byte) :
    PushFrame n s (slotWrite s n k o b) := by
  unfold slotWrite
  split
  · split
    · exact pushFrame_pushAssemble n s hk o b _
    · exact ((pushFrame_slot n s hk _).trans (pushFrame_modTen n _ _)).trans (pushFrame_pushDiscard n _)
  · split
    · exact pushFrame_pushAssemble n s hk o b _
    · exact pushFrame_modTen n s _
    · exact pushFrame_slot n s hk _
    · exact .refl n s

/-- An error logged reaches the port's record and the outputs alone. -/
theorem pushFrame_logged {n : Nat} {s t : State} {p b : Nat} {f : Fn} (h : Logged (bumpFree s) t p f b) :
    PushFrame n s t := by
  obtain ⟨r, o, rfl⟩ := h.rest
  exact ⟨fun _ _ => rfl, fun _ _ _ _ => rfl, rfl, rfl, rfl, rfl, rfl, rfl, rfl, rfl, rfl⟩

/-- PUSH_SLOT_WRITE, whatever the port, the page and the slot are (R56, R120). -/
theorem execPushSlotWrite_frame (p : HostPort) (n : TenantId) (k : Fin 32) (o : Fin 512) (b : List Byte) (s : State) :
    ∃ t, execPushSlotWrite p n k o b s = .next t ∧ PushFrame n.val s t := by
  refine ⟨_, rfl, ?_⟩
  unfold barGate
  split
  · exact .refl _ s
  · split
    · exact pushFrame_logged (logged_unsupportedRequest s p .pf1)
    · dsimp only
      split
      · exact .refl _ s
      · split
        · exact pushFrame_slotWrite n.val s k.isLt o.val b
        · exact pushFrame_modTen n.val s _

/-- Settles O60: what a push reaches, read for a tenant other than the one it is written to. -/
theorem pushesStayWithTheirTenant : Obligations.PushesStayWithTheirTenant := by
  intro p n k o b m s hm
  obtain ⟨t, ht, h⟩ := execPushSlotWrite_frame p n k o b s
  exact ⟨t, ht, h.tens m hm, h.slots m hm, h.sqs, h.cqs, h.jobs, h.coop, h.mere, h.sysmem, h.lmem, h.cores, h.regs⟩

end Sys2Proof.Machine

/-! PROOFS. Accesses to the register space: the gates of a write and a read, the scratch register and the latches of the
counters in registers. -/
namespace Sys2Proof.Machine

/-! ### The gate of a BAR (R87) -/

theorem barGate_open {s : State} {p : HostPort} {f : Fn} (hlink : linkUp s p = true) (hmse : (fnOf s p f).mse = true)
    (eff : State → State) (read : Bool) : barGate s p f eff read = eff s := by
  simp [barGate, hlink, hmse]

/-- A write while Memory Space Enable is clear is an Unsupported Request. -/
theorem barGate_mseClear {s : State} {p : HostPort} {f : Fn} (hlink : linkUp s p = true)
    (hmse : (fnOf s p f).mse = false) (eff : State → State) : barGate s p f eff = aer s p f .unsupportedRequest := by
  simp [barGate, hlink, hmse]

/-! ### Writes (R50, R51) -/

/-- A write of one word to PF0 BAR0 of an open port takes effect when it is full and its port is admitted (R50, R51). -/
theorem regWrite_unit {s : State} {p : HostPort} (h : RegOpen s p false) (o : Nat) (full : Bool) (v : Nat) :
    regWrite s p .unit o false full true v =
      if !full then wr s F.GL_ACC_STATUS_PARTIAL 0 p.val 1
      else if excludedBy s p.val (o / 4 * 4) then denied s p
      else unitWrite s p.val (o / 4 * 4) (v % 2 ^ 32) := by
  obtain ⟨hlink, hmse, hfatal, hlrs, hrec, -⟩ := h
  unfold regWrite
  dsimp only
  rw [if_pos rfl, barGate_open hlink hmse, if_neg Bool.false_ne_true]
  simp only [writeUnit, hfatal, hlrs, hrec, false_or, false_and, if_false, Bool.false_eq_true]
  rfl

/-- While Memory Space Enable is clear a write of any form is an Unsupported Request (R87). -/
theorem regWrite_unit_mseClear {s : State} {p : HostPort} (hlink : linkUp s p.val = true)
    (hmse : (fnOf s p.val .pf0).mse = false) (o : Nat) (wide lowFull highFull : Bool) (v : Nat) :
    regWrite s p .unit o wide lowFull highFull v = aer s p .pf0 .unsupportedRequest := by
  unfold regWrite
  dsimp only
  rw [if_pos rfl, barGate_mseClear hlink hmse]

/-- GL_SCRATCH is one field of 32 bits, one register a port (R64). -/
theorem findReg_glScratch :
    findReg (blockRegs 0x20) 0x20 = some (⟨0x20, 1, 0, .port, [⟨31, 0, .rw, 0, 0, 4294967295, 1⟩]⟩, 0) := by
  decide

/-- Storing a word counts modulo 2^32. -/
theorem rset_congr (s : State) (off inst : Nat) {v w : Nat} (h : v % 2 ^ 32 = w % 2 ^ 32) :
    rset s off inst v = rset s off inst w := by
  have hw : BitVec.ofNat 32 v = BitVec.ofNat 32 w := BitVec.eq_of_toNat_eq (by simpa using h)
  rw [rset, hw, rset]

/-- A field of all 32 bits takes the word written. -/
theorem setBits_word (w v : Nat) : setBits w 31 0 v % 2 ^ 32 = v % 2 ^ 32 := by
  unfold setBits bitsOf
  omega

/-- A write of GL_SCRATCH stores the word (R64). -/
theorem unitWrite_glScratch (s : State) (p v : Nat) :
    unitWrite s p 0x20 v = rset s F.GL_SCRATCH_VALUE.off p v := by
  have hplain : unitWrite s p 0x20 v = plainWord s p 0x20 v := rfl
  have hok : fieldOk ⟨31, 0, .rw, 0, 0, 4294967295, 1⟩ v = true := by
    have : bitsOf v 31 0 ≤ 4294967295 := by
      unfold bitsOf
      omega
    simp [fieldOk, this, Nat.mod_one]
  rw [hplain, plainWord, findReg_glScratch]
  dsimp only
  rw [regStore, findReg_glScratch]
  simp only [List.all_cons, List.all_nil, hok, Bool.and_true, if_true]
  refine rset_congr s 0x20 p ?_
  have hw := setBits_word (rget s 0x20 p) (bitsOf v 31 0)
  refine hw.trans ?_
  unfold bitsOf
  omega

/-- GL_SCRATCH may be written from every port (R50). -/
theorem excludedBy_glScratch (s : State) (p : Nat) : excludedBy s p 0x20 = false := by
  simp [excludedBy]

/-! ### Reads (R51, R53) -/

/-- A read of one word of PF0 BAR0 of an open port answers the word, and leaves what it latches (R53). -/
theorem regRead_unit {s : State} {p : HostPort} (h : ReadOpen s p) {o : Nat} (ho : o % 4 = 0) :
    regRead s p .unit o false = emit (readUnit s p.val o).1 (.readData p [(readUnit s p.val o).2]) := by
  obtain ⟨hlink, hmse, hlrs, hrec⟩ := h
  have ho' : o / 4 * 4 = o := by omega
  unfold regRead
  dsimp only
  rw [ho', if_neg (by simp [hlink]), if_pos rfl, if_neg (by simp [hmse]), if_neg (fun h => hlrs h.1)]
  rw [if_neg (by simp [hrec])]
  rfl

/-- Once the sequencer has run a read of another block than LK is a Completer Abort (R433). -/
theorem regRead_afterSequencer {s : State} {p : HostPort} (hlink : linkUp s p.val = true)
    (hmse : (fnOf s p.val .pf0).mse = true) (hlrs : s.lk.st = .lrs) {o : Nat} (ho : o / 0x100000 ≠ 18) (wide : Bool) :
    regRead s p .unit o wide = emit s (.cplErr p false) := by
  have hblock : ¬ o / 4 * 4 / 0x100000 = 18 := by omega
  unfold regRead
  dsimp only
  rw [if_neg (by simp [hlink]), if_pos rfl, if_neg (by simp [hmse]), if_pos ⟨hlrs, fun h => hblock h.2⟩]

/-- The counters of the forwarding stage lie from 0x700100 on (R218). -/
theorem counterAt_fw (s : State) (p : Nat) {off : Nat} (h : 0x700100 ≤ off ∧ off < 0x7001A0) :
    counterAt s p off = some (7, 0, (off - 0x700100) / 8) := by
  have hfind : counterAreas.find? (fun a => decide (a.1 ≤ off ∧ off < a.1 + 8 * a.2.1)) = some (0x700100, 20, 7, 0) := by
    unfold counterAreas
    simp only [List.find?_cons]
    rw [show decide ((0x600300 : Nat) ≤ off ∧ off < 0x600300 + 8 * 1) = false from decide_eq_false (by omega),
      show decide ((0x600408 : Nat) ≤ off ∧ off < 0x600408 + 8 * 6) = false from decide_eq_false (by omega),
      show decide ((0x600440 : Nat) ≤ off ∧ off < 0x600440 + 8 * 4) = false from decide_eq_false (by omega),
      show decide ((0x700100 : Nat) ≤ off ∧ off < 0x700100 + 8 * 20) = true from decide_eq_true (by omega)]
  rw [counterAt, if_neg (by omega), hfind]
  simp [counterInst]

/-- Such an offset shows the low or the high word of its counter (R53). -/
theorem unitWord_fw (s : State) (p : Nat) {off : Nat} (h : 0x700100 ≤ off ∧ off < 0x7001A0) :
    unitWord s p off =
      if off % 8 = 0 then lo32 (cget s 7 0 ((off - 0x700100) / 8)) else hi32 (cget s 7 0 ((off - 0x700100) / 8)) := by
  have hmb : mbArea off = false := by
    simp only [mbArea, Bool.or_eq_false_iff, decide_eq_false_iff_not]
    omega
  unfold unitWord
  rw [if_neg (by omega), hmb, if_neg Bool.false_ne_true, if_neg (by omega), if_neg (by omega), if_neg (by omega),
    if_neg (by omega), if_neg (by omega), counterAt_fw s p h]

/-- A read of one of its words goes through the latch of its low word (R53). -/
theorem readUnit_fw (s : State) (p : Nat) {off : Nat} (h : 0x700100 ≤ off ∧ off < 0x7001A0) :
    readUnit s p off = latchRead s p .pf0 (off - off % 8) off fun s o => unitWord s p o := by
  unfold readUnit
  dsimp only
  rw [if_neg (by omega), if_neg (by omega), lowOf, counterAt_fw s p h]
  rfl

/-- Settles O8: each clause is one of the rules above; the two latching reads by the latch of R53. -/
theorem registerAccesses : Obligations.RegisterAccesses := by
  refine ⟨fun p o v s hopen hex => ?full, fun p v s hopen => ?scratch, fun p o v s hopen hex => ?excluded,
    fun p o v s hopen => ?partWord, fun p o w a b v s hlink hmse => ?mseClear, fun p w s hlink => ?oversize,
    fun p k o s hopen ho => ?low, fun p k o w s hopen ho hlatch => ?high,
    fun p o s hlink hmse hlrs ho => ?sequencer⟩
  case full =>
    refine congrArg Host.Outcome.next ((regWrite_unit hopen o.val true v.toNat).trans ?_)
    simp [hex]
  case scratch =>
    refine congrArg Host.Outcome.next ((regWrite_unit hopen 0x20 true v.toNat).trans ?_)
    simp only [Bool.not_true, Bool.false_eq_true, if_false, Nat.reduceDiv, Nat.reduceMul, excludedBy_glScratch]
    exact unitWrite_glScratch s p.val _
  case excluded =>
    refine congrArg Host.Outcome.next ((regWrite_unit hopen o.val true v.toNat).trans ?_)
    simp [hex]
  case partWord =>
    exact congrArg Host.Outcome.next ((regWrite_unit hopen o.val false v.toNat).trans (if_pos rfl))
  case mseClear =>
    have hlog := logged_unsupportedRequest s p .pf0
    exact ⟨_, congrArg Host.Outcome.next (regWrite_unit_mseClear hlink hmse o.val w a b v.toNat), hlog.sta, hlog.eq_with⟩
  case oversize =>
    have hlog := logged_unsupportedRequest s p .pf0
    cases w
    · exact ⟨_, if_pos hlink, (hlog.emit _).sta, fun _ => rfl, (hlog.emit _).eq_with⟩
    · exact ⟨_, if_pos hlink, hlog.sta, fun h => absurd h (by decide), hlog.eq_with⟩
  case low =>
    have hk := k.isLt
    have hlow : o.val - o.val % 8 = o.val := by omega
    refine congrArg Host.Outcome.next ((regRead_unit hopen (by omega)).trans ?_)
    rw [readUnit_fw s p.val (by omega), hlow, latchRead, if_pos rfl]
    dsimp only
    rw [unitWord_fw s p.val (by omega), unitWord_fw s p.val (by omega), if_neg (by omega), if_pos (by omega),
      show (o.val + 4 - 0x700100) / 8 = k.val by omega, show (o.val - 0x700100) / 8 = k.val by omega]
    have hhi : BitVec.ofNat 32 (hi32 (cget s 7 0 k.val)) = BitVec.ofNat 32 (cget s 7 0 k.val / 2 ^ 32) :=
      BitVec.eq_of_toNat_eq (by simp [hi32])
    rw [hhi]
    rfl
  case high =>
    have hk := k.isLt
    have hlow : o.val - o.val % 8 = o.val - 4 := by omega
    refine congrArg Host.Outcome.next ((regRead_unit hopen (by omega)).trans ?_)
    rw [readUnit_fw s p.val (by omega), hlow, latchRead, if_neg (by omega), hlatch]
    rfl
  case sequencer =>
    exact congrArg Host.Outcome.next (regRead_afterSequencer hlink hmse hlrs ho false)

end Sys2Proof.Machine

/-! PROOFS. Peer windows: a peer write that meets a full head cache counts an eviction. -/
namespace Sys2Proof.Machine

/-! ### The head cache (R221) -/

/-- A write of a cell that a full head cache does not hold evicts its oldest line, which MS counts (R221, R235). -/
theorem hcWrite_full {s : State} {c : Nat} (hcap : hcLines s ≠ 0) (hmiss : s.coop.hc.any (·.1 = c) = false)
    (hfull : hcLines s ≤ s.coop.hc.length) :
    hcWrite s c = cadd (modCoop s fun k => { k with hc := k.hc.drop 1 ++ [(c, s.clk)] }) 8 0 13 1 := by
  unfold hcWrite
  dsimp only
  rw [if_neg hcap, if_neg (by simp [hmiss]), if_neg (Nat.not_lt.mpr hfull)]

/-- A byte lies in one cell. -/
theorem cellsIn_one (a : Nat) : cellsIn a 1 = [a / 256] := by
  simp [cellsIn]

/-- So a byte written there moves the counter of evictions. -/
theorem storeWrite_full_cnt {s : State} {a : Nat} (b : Byte) (hcap : hcLines s ≠ 0)
    (hmiss : s.coop.hc.any (·.1 = a / 256) = false) (hfull : hcLines s ≤ s.coop.hc.length) :
    (storeWrite s a [b]).cnt = mset s.cnt (ckey 8 0 13) ((cget s 8 0 13 + 1) % 2 ^ 64) := by
  have hcells : cellsIn a [b].length = [a / 256] := cellsIn_one a
  unfold storeWrite
  rw [hcells, List.foldl_cons, hcWrite_full hcap hmiss hfull]
  rfl

/-! ### A peer write into the store (R57, R75) -/

/-- A peer write that one window allows into one range of the store writes there (R75). -/
theorem execPeerWrite_one {s : State} {p : HostPort} {r : Fin 65536} {a : Fin 68719476736} {b : List Byte} {x : Nat}
    (hlink : linkUp s p.val = true) (hmse : (fnOf s p.val .pf1).mse = true) (hwin : (hpOf s p.val).winSt ≠ .hold)
    (hrun : running s = true) (htr : peerTranslate s p.val r.val a.val b.length true = some [(x, b.length)]) :
    execPeerWrite p r a false b s = .next (storeWrite s x b) := by
  have hlrs : s.lk.st ≠ .lrs := fun h => by simp [running, h] at hrun
  refine congrArg Host.Outcome.next ?_
  unfold peerArrive
  rw [barGate_open hlink hmse, if_neg hlrs, if_neg hwin]
  simp only [peerServe, hrun, htr, Bool.false_eq_true, and_false, if_false, Bool.not_true, if_true, List.foldl_cons,
    List.foldl_nil, List.take_length]

/-- The lines of a full head cache: the first 393,216 cells, which lie in pool 0 (R222, R223). -/
def fullCache : List (Nat × Nat) := (List.range 393216).map fun c => (c, 0)

theorem fullCache_length : fullCache.length = 393216 := by simp [fullCache]

/-- It does not hold a cell behind them. -/
theorem fullCache_misses {c : Nat} (h : 393216 ≤ c) : fullCache.any (·.1 = c) = false := by
  refine List.any_eq_false.mpr fun x hx => ?_
  rw [fullCache] at hx
  obtain ⟨d, hd, rfl⟩ := List.mem_map.mp hx
  have hlt := List.mem_range.mp hd
  have hne : ¬ d = c := by omega
  exact fun h => hne (of_decide_eq_true h)

/-- A state that differs from another in the store and its buffers alone has the same counters. -/
theorem cnt_of_store_rest {s t u : State} (h : t = { s with mere := u.mere, coop := u.coop }) : t.cnt = s.cnt := by
  rw [h]

/-- A running device with host port 0 up. Window 0 of its active set gives tenant 5's buffer, the first of pool 2, to its
peers; the head cache is full (R74, R221 to R223). -/
def fullCachePeer : State where
  lk := { st := .running }
  hp := [(0, { ltssm := .l0, perst := false, f1 := { mse := true } })]
  regs := [(256 * 2 ^ 26 + 0x20010C, 1), (256 * 2 ^ 26 + 0x200110, 0xE2000005)]
  sysmem := [(3, 0x40)]
  coop := {
    ready := true, bufs := [(0x40000000, ⟨.owned, 5⟩)], hc := fullCache }

/-- The buffer of the window begins behind pools 0 and 1, at 24 GiB. -/
theorem fullCachePeer_translates :
    peerTranslate fullCachePeer 0 0 0 1 true = some [(25769803776, 1)] := by decide +kernel

theorem fullCachePeer_hcLines : hcLines fullCachePeer = 393216 := by decide +kernel

theorem fullCachePeer_hc : fullCachePeer.coop.hc = fullCache := by simp only [fullCachePeer]

/-- Refutes O6: a peer write of a byte into a store whose head cache is full evicts a line, and MS counts it, where the
statement lets only the store and the buffers change. -/
theorem not_peerWindows : ¬ Obligations.PeerWindows := by
  rintro ⟨-, -, hwrite, -⟩
  have htr : peerTranslate fullCachePeer (0 : HostPort).val (0 : Fin 65536).val (0 : Fin 68719476736).val
      [(1 : Byte)].length true = some [(25769803776, [(1 : Byte)].length)] := fullCachePeer_translates
  obtain ⟨t, ht, -, -, hrest⟩ :=
    hwrite 0 0 0 [1] 25769803776 fullCachePeer (by decide +kernel) (by decide +kernel) (by decide +kernel)
      (by decide +kernel) htr
  have ht' : execPeerWrite 0 0 0 false [1] fullCachePeer = .next t := ht
  have hrun := execPeerWrite_one (s := fullCachePeer) (p := 0) (r := 0) (a := 0) (b := [1]) (by decide +kernel)
    (by decide +kernel) (by decide +kernel) (by decide +kernel) htr
  have hst : t = storeWrite fullCachePeer 25769803776 [1] := Host.Outcome.next.inj (ht'.symm.trans hrun)
  rw [hst] at hrest
  have hcap : hcLines fullCachePeer ≠ 0 := by simp [fullCachePeer_hcLines]
  have hlen : fullCachePeer.coop.hc.length = 393216 := by rw [fullCachePeer_hc, fullCache_length]
  have hfull : hcLines fullCachePeer ≤ fullCachePeer.coop.hc.length :=
    Nat.le_of_eq (fullCachePeer_hcLines.trans hlen.symm)
  have hmiss : fullCachePeer.coop.hc.any (·.1 = 25769803776 / 256) = false := by
    rw [fullCachePeer_hc]
    exact fullCache_misses (by decide)
  have hcnt := storeWrite_full_cnt 1 hcap hmiss hfull
  exact absurd (hcnt.symm.trans (cnt_of_store_rest hrest)) (by decide +kernel)

end Sys2Proof.Machine

/-! PROOFS. Resets of a port: a mailbox whose command is refused raises its own event. -/
namespace Sys2Proof.Machine

/-- LINK_DOWN from L0 resets the port, notes its cause and raises HL_LINK_DOWN (R87). -/
theorem execLinkDown_l0 {s : State} {p : HostPort} (hperst : (hpOf s p.val).perst = false)
    (hl0 : (hpOf s p.val).ltssm = .l0) :
    execLinkDown p s = .next (raise (wr (portReset (modHp s p.val fun h => { h with ltssm := .polling }) p.val)
      F.HL_RESET_CAUSE_LINK_DOWN 0 p.val 1) .hlLinkDown p.val) := by
  simp [execLinkDown, hperst, hl0]

/-- A running device with the link of host port 0 up and no work. The mailbox of the port is BUSY with a command that no
version has been chosen for, which the Lockkeeper refuses (R425). -/
def refusedMailbox : State where
  lk := { st := .running, mb := [(0, { st := .busy, area := [(0x100, 1)] })] }
  hp := [(0, { ltssm := .l0, perst := false })]

/-- The reset of the port raises LK_MB_PROTOCOL for the refused command before HL_LINK_DOWN (R87, R423). -/
theorem refusedMailbox_linkDown_codes :
    (raise (wr (portReset (modHp refusedMailbox 0 fun h => { h with ltssm := .polling }) 0)
      F.HL_RESET_CAUSE_LINK_DOWN 0 0 1) .hlLinkDown 0).lk.intake.map (·.code) =
      [evCode .lkMbProtocol, evCode .hlLinkDown] := by
  decide +kernel

/-- Refutes O7: a link that goes down while the mailbox of its port holds a refused command raises two events, where the
statement lets HL_LINK_DOWN alone follow what the intake queue held. -/
theorem not_portAndFunctionResets : ¬ Obligations.PortAndFunctionResets := by
  rintro ⟨-, -, hdown, -⟩
  obtain ⟨t, ht, -, -, -, -, -, hcodes, -⟩ :=
    hdown 0 refusedMailbox (by decide +kernel) rfl rfl rfl (by decide +kernel) (by decide +kernel)
  have ht' : execLinkDown 0 refusedMailbox = .next t := ht
  have hst := Host.Outcome.next.inj (ht'.symm.trans (execLinkDown_l0 (p := 0) rfl rfl))
  rw [hst] at hcodes
  exact absurd (refusedMailbox_linkDown_codes.symm.trans hcodes) (by decide +kernel)

end Sys2Proof.Machine

/-! PROOFS. Carters: the bus error that brings an engine beyond HALT_MAX leaves it OFFLINE. -/
namespace Sys2Proof.Machine

/-! ### Bus errors of an idle engine (R394, R396) -/

/-- The record of the engine whose record was changed. -/
theorem engOf_modEng_same (s : State) (e : Nat) (f : Eng → Eng) : engOf (modEng s e f) e = f (engOf s e) := by
  simp [engOf, modEng]

/-- An engine without a channel, halted by a bus error that is counted and raised. -/
def haltIdle (s : State) (e : Nat) : State :=
  raise (cadd { s with engs := mset s.engs e { engOf s e with
    st := .halted, prev := (engOf s e).st, halts := s.clk :: (engOf s e).halts } } 16 e 7 1) .dxBusErr e

theorem haltIdle_st (s : State) (e : Nat) : (engOf (haltIdle s e) e).st = .halted := by
  rw [engOf, haltIdle, raise_engs, cadd_engs, mget_mset_same]

/-- The check of HALT_MAX leaves the transfers. -/
@[simp] theorem offCheck_xfers (s : State) (e : Nat) : (offCheck s e).xfers = s.xfers := by
  unfold offCheck
  split
  · exact raise_xfers ..
  · rfl

/-- Where no transfer is left, none waits for the port. -/
theorem dropUnplaced_none {s : State} (p : Nat) (h : s.xfers = []) : dropUnplaced s p = s := by
  simp [dropUnplaced, h]

/-- HALT_MAX is judged at the error itself, by the halts with the new one among them (R394, log entry 67). -/
theorem busError_idle {s : State} {e : Nat} (hst : (engOf s e).st ≠ .halted ∧ (engOf s e).st ≠ .offline)
    (hchans : (engOf s e).chans = []) (hxfers : s.xfers = []) (hwreqs : s.wreqs = []) (hreads : s.reads = []) :
    busError s e = offCheck (haltIdle s e) e := by
  unfold engOf at hchans
  unfold busError
  dsimp only
  rw [if_neg (not_or.mpr hst)]
  simp [haltIdle, modEng, engOf, engXfers, mset_mset, mmap, dropUnplaced_none, hchans, hxfers, hwreqs, hreads]

/-- Beyond HALT_MAX the engine is OFFLINE (R394). -/
theorem offCheck_over {s : State} {e : Nat} (h : haltsOver s e = true) : (engOf (offCheck s e) e).st = .offline := by
  rw [offCheck, if_pos h, engOf, raise_engs]
  exact congrArg Eng.st (engOf_modEng_same s e _)

/-- A running device with host port 0 in use. Its first engine runs and has no work; it has halted four times within the
last millisecond, which the reset value of HALT_MAX still allows (R394, R400). -/
def fourHalts : State :=
  wr { clk := 10 ^ 12, lk := { st := .running }, engs := [(0, { halts := List.replicate 4 (10 ^ 12 - 10 ^ 9) })] }
    F.GL_CONFIG_PORT_WIDTH 0 0 1

/-- The next halt exceeds it. -/
theorem haltIdle_fourHalts_over : haltsOver (haltIdle fourHalts 0) 0 = true := by decide +kernel

/-- Refutes O37: the fifth bus error within a second leaves an engine without a transfer OFFLINE, where the statement
leaves it HALTED whatever HALT_MAX is. -/
theorem not_carterTransfers : ¬ Obligations.CarterTransfers := by
  rintro ⟨-, -, -, -, -, -, -, -, -, -, hbus, -⟩
  have hrun : running fourHalts = true ∧ portWidth fourHalts (engPort fourHalts 0) ≠ 0 := by decide +kernel
  have hst : (engOf fourHalts 0).st ≠ .halted ∧ (engOf fourHalts 0).st ≠ .offline := by decide +kernel
  have hstated : execDxBusErr 0 fourHalts = .next (haltIdle fourHalts 0) :=
    hbus 0 fourHalts hrun.1 hrun.2 hst rfl rfl rfl rfl
  have hdone : execDxBusErr 0 fourHalts = .next (busError fourHalts 0) := if_pos hrun
  rw [busError_idle hst rfl rfl rfl rfl] at hdone
  have heq : offCheck (haltIdle fourHalts 0) 0 = haltIdle fourHalts 0 :=
    Host.Outcome.next.inj (hdone.symm.trans hstated)
  have hoff := offCheck_over haltIdle_fourHalts_over
  rw [heq, haltIdle_st] at hoff
  exact absurd hoff (by decide)

end Sys2Proof.Machine

/-! PROOFS. The admin queue: clearing its ENABLE marks its outstanding reads, whose data will be discarded. -/
namespace Sys2Proof.Machine

/-- AQ_DISABLE marks the outstanding doorbell and ring reads of the admin queue, and no other (R88, R97). -/
theorem aqDisable_sreads (s : State) (p : Nat) :
    (aqDisable s p).sreads = mmap (fun _ r =>
      if decide (r.what = .doorbell (admKey p) ∨ r.what = .ring (admKey p)) then { r with drop := true } else r)
      s.sreads := rfl

/-- A running device with the link of host port 0 up. Its admin queue is ACTIVE and reads its doorbell record, for which
one request is outstanding (R98, R114). -/
def adminDoorbellRead : State where
  lk := { st := .running }
  hp := [(0, { ltssm := .l0, perst := false, f0 := { mse := true, bme := true }, aq := { active := true, abi := 2 } })]
  sqs := [(admKey 0, {
    port := 0, owner := none, ring := 0x1000, db := 0x2000, cq := admKey 0, log2 := 4, inflMax := 1, scan := .hot,
    dbReading := true })]
  sreads := [(8192, { port := 0, fn := .pf0, what := .doorbell (admKey 0), since := 0 })]

/-- Refutes O11: AQ_DISABLE with a read of the doorbell record outstanding marks that read, so that its data will be
discarded, where the statement leaves every outstanding read as it was. -/
theorem not_adminQueueCommands : ¬ Obligations.AdminQueueCommands := by
  rintro ⟨-, -, hdisable, -⟩
  have hopen : RegOpen adminDoorbellRead 0 false := by decide +kernel
  have hstated : execAqDisable 0 adminDoorbellRead = .next _ := hdisable 0 _ adminDoorbellRead hopen rfl
  have hdone : execAqDisable 0 adminDoorbellRead = .next (aqDisable adminDoorbellRead 0) :=
    congrArg Host.Outcome.next (regGate_open hopen)
  have heq := Host.Outcome.next.inj (hdone.symm.trans hstated)
  have hkept : (aqDisable adminDoorbellRead 0).sreads = adminDoorbellRead.sreads :=
    (congrArg State.sreads heq).trans rfl
  rw [aqDisable_sreads] at hkept
  exact absurd hkept (by decide)

end Sys2Proof.Machine

/-! PROOFS. Peer buffer lists: what PEER_BUF_ALLOC and PEER_BUF_FREE do when they pass their checks. -/
namespace Sys2Proof.Machine

/-- PEER_BUF_ALLOC with room in the area and its buffers at hand (R109, R220). -/
theorem execPeerBufAlloc_ok {s u : State} {p : HostPort} {e : Entry} {l : List Nat} {o : Nat}
    (h : AdminCmd s p.val 0x19 e)
    (hfields : 2 ≤ dw e 4 ∧ dw e 4 ≤ 5 ∧ 1 ≤ dw e 5 ∧ dw e 5 ≤ 65536 ∧ dwZero e 6 15 = true)
    (hroom : pickList s (4 * dw e 5) = some o)
    (hbufs : allocMany s (hIdx (dw e 1)) (dw e 4) (dw e 5) [] = .ok (l, u)) :
    execPeerBufAlloc p s = .next (finishAdmin (modTen
      (bumpFree { u with sysmem := writeMem u.sysmem (listBase + o) (l.flatMap fun h => leBytes 4 h) })
      (hIdx (dw e 1)) fun x => { x with lists := (listBase + o, l) :: x.lists }) p.val .success (listBase + o)) := by
  obtain ⟨hpoolLo, hpoolHi, hcountLo, hcountHi, hzero⟩ := hfields
  refine congrArg Host.Outcome.next ((adminRun_run h).trans ?_)
  dsimp only
  rw [if_neg (by simp [hzero]; omega)]
  simp only [hroom, hbufs]

/-- PEER_BUF_FREE of a list of the tenant that no enabled window names (R109). -/
theorem execPeerBufFree_ok {s : State} {p : HostPort} {e : Entry} {x : Tenant} {l : Nat × List Nat}
    (h : AdminCmd s p.val 0x1A e) (hten : mget? s.tens (hIdx (dw e 1)) = some x)
    (hlist : x.lists.find? (·.1 = dw2 e 4) = some l) (hzero : dwZero e 6 15 = true)
    (hfree : listNamed s p.val (dw2 e 4) = false) :
    execPeerBufFree p s = .next (finishAdmin (modTen (l.2.foldl devFree s) (hIdx (dw e 1)) fun x =>
      { x with lists := x.lists.filter (·.1 ≠ dw2 e 4) }) p.val .success 0) := by
  refine congrArg Host.Outcome.next ((adminRun_run h).trans ?_)
  simp only [hten, Option.map_some, Option.getD_some, hlist, hzero, hfree, Bool.not_true, Bool.false_eq_true, if_false]

theorem toOption_eq_some {ε α : Type} {x : Except ε α} {a : α} (h : x.toOption = some a) : x = .ok a := by
  cases x with
  | error => cases h
  | ok b => exact congrArg Except.ok (Option.some.inj h)

/-- Settles O20: where the list lies is what `pickList` answers. -/
theorem peerBufferLists : Obligations.PeerBufferLists := by
  refine ⟨fun p e l u s h hfields hbufs hroom => ?alloc, fun p e x l s h hten hlist hzero hfree => ?free⟩
  case alloc =>
    obtain ⟨o, ho⟩ := Option.isSome_iff_exists.mp hroom
    exact ⟨o, ho, execPeerBufAlloc_ok h hfields ho (toOption_eq_some hbufs)⟩
  case free => exact execPeerBufFree_ok h hten hlist hzero hfree

end Sys2Proof.Machine

/-! PROOFS. The jobs of the queue engine: the buffer of a TX or CORE_JOB job and the transfer that fills it, and what a
COPY moves. -/
namespace Sys2Proof.Machine

/-- A fold that meets an element after which a property holds, and that keeps the property, ends with it. -/
theorem foldl_reaches {α β : Type} {f : β → α → β} {P : β → Prop} {Q : α → Prop} (hreach : ∀ b a, Q a → P (f b a))
    (hkeep : ∀ b a, P b → P (f b a)) {l : List α} (h : ∃ a ∈ l, Q a) (b : β) : P (l.foldl f b) := by
  obtain ⟨a, ha, hq⟩ := h
  obtain ⟨l₁, l₂, rfl⟩ := List.append_of_mem ha
  rw [List.foldl_append, List.foldl_cons]
  exact List.foldlRecOn l₂ f (hreach _ _ hq) fun b hb a _ => hkeep b a hb

/-! ### Segments (R103) -/

/-- A used segment has bytes. -/
theorem len_ne_zero_of_mem_segsOf {es : List Entry} {g : Seg} (h : g ∈ segsOf es) : g.len ≠ 0 :=
  of_decide_eq_true (List.mem_filter.mp h).2

theorem segBytes_eq_sum (gs : List Seg) : segBytes gs = (gs.map (·.len)).sum := by
  rw [List.sum_eq_foldl, List.foldl_map, segBytes]

theorem segBytes_cons (g : Seg) (gs : List Seg) : segBytes (g :: gs) = g.len + segBytes gs := by
  simp [segBytes_eq_sum]

/-- A part of a segment lies where the segment lies. -/
@[simp] theorem adv_inMere (g : Seg) (o n : Nat) : (g.adv o n).inMere = g.inMere := by
  unfold Seg.adv
  split <;> rfl

/-- Cutting all bytes out of used segments leaves no host segment out. -/
theorem segCut_host {gs : List Seg} (hlen : ∀ g ∈ gs, g.len ≠ 0) (hhost : ∃ g ∈ gs, g.inMere = false) {n : Nat}
    (hn : segBytes gs ≤ n) : ∃ g ∈ segCut gs 0 n, g.inMere = false := by
  induction gs generalizing n with
  | nil => simp at hhost
  | cons g t ih =>
    have hg : g.len ≠ 0 := hlen g (List.mem_cons_self ..)
    rw [segBytes_cons] at hn
    have hcut : segCut (g :: t) 0 n = g.adv 0 (min n g.len) :: segCut t 0 (n - min n g.len) := by
      rw [segCut, if_neg (by omega), if_neg (by omega), Nat.sub_zero]
    rw [hcut]
    by_cases hmere : g.inMere = false
    · exact ⟨_, List.mem_cons_self .., (adv_inMere ..).trans hmere⟩
    · have htail : ∃ x ∈ t, x.inMere = false := by simpa [hmere] using hhost
      obtain ⟨x, hx, hxm⟩ := ih (fun x hx => hlen x (List.mem_cons_of_mem _ hx)) htail (n := n - min n g.len) (by omega)
      exact ⟨x, List.mem_cons_of_mem _ hx, hxm⟩

/-! ### The data of a job goes into one buffer (R225, R390) -/

/-- With a host segment there is a transfer to wait for. -/
theorem moveSegs_host (s : State) (x : Xfer) (toSegs : Bool) {gs : List Seg} (mere : Nat)
    (h : ∃ g ∈ gs, g.inMere = false) : (moveSegs s x toSegs gs mere).1 = true := by
  unfold moveSegs
  dsimp only
  rw [if_neg]
  refine foldl_reaches (P := fun a : State × List Desc × Nat => a.2.1 ≠ []) (fun a g hg => ?_) (fun a g ha => ?_) h _
  · simp [hg]
  · split
    · exact ha
    · simp

/-- The job holds the one buffer that has been allocated for its data. -/
def holdBuf (s : State) (uid : Nat) (j : Job) (b : Nat) : State :=
  { s with jobs := mset s.jobs uid { j with bufs := [b] } }

/-- The transfer of a job's segments into its buffer starts. -/
def fillBuf (s : State) (uid : Nat) (j : Job) (b : Nat) : State :=
  (moveSegs (holdBuf s uid j b) (jobXfer (holdBuf s uid j b) { j with bufs := [b] } (.job uid) 0) false (segsOf j.ents)
    (bufAddr (holdBuf s uid j b) b 0)).2

/-- Valid segments, a host segment among them, with an engine to read it and a buffer at hand (R225, R228). -/
theorem jobGather_host {s : State} {uid b : Nat} {j : Job}
    (howned : segsOwned s (ownerReq j.owner) (segsOf j.ents) = true)
    (heng : xferPossible s j.port = true)
    (hbuf : (allocWork s (ownerReq j.owner) (max 1 (segBytes (segsOf j.ents)))).1.toOption = some b)
    (hhost : (segsOf j.ents).any (fun g => !g.inMere) = true) :
    jobGather s uid j (segsOf j.ents) =
      (.ok (true, fillBuf (allocWork s (ownerReq j.owner) (max 1 (segBytes (segsOf j.ents)))).2 uid j b),
        holdBuf (allocWork s (ownerReq j.owner) (max 1 (segBytes (segsOf j.ents)))).2 uid j b) := by
  have hex : ∃ g ∈ segsOf j.ents, g.inMere = false := by simpa using hhost
  unfold jobGather
  rw [if_neg (by simp [howned]), if_neg (by simp [heng])]
  have hres := toOption_eq_some hbuf
  generalize allocWork s (ownerReq j.owner) (max 1 (segBytes (segsOf j.ents))) = r at hres ⊢
  obtain ⟨x, u⟩ := r
  cases hres
  exact congrArg (fun m => (Except.ok m, holdBuf u uid j b)) (Prod.ext (moveSegs_host _ _ _ _ hex) rfl)

/-! ### What a COPY moves (R399) -/

/-- A list with a descriptor of a host range goes through the port that the COPY names. -/
theorem copyMove_host {s : State} {uid : Nat} {j : Job} {ds : List Desc} (hhost : ∃ d ∈ ds, d.inside = false)
    (heng : xferPossible s (cpPort j) = true) : copyMove s uid j ds = startXfer s (copyXfer s j uid ds) := by
  have hport : (copyXfer s j uid ds).port = cpPort j := if_neg (by simpa using hhost)
  unfold copyMove
  dsimp only
  rw [hport, if_pos heng]

/-- Host segments paired with one Mere range give a descriptor of a host range. -/
theorem pairMove_host (s : State) (toSegs : Bool) (pasid : Option Nat) {gs : List Seg} (h o : Nat)
    (hlen : ∀ g ∈ gs, g.len ≠ 0) (hhost : ∃ g ∈ gs, g.inMere = false) :
    ∃ d ∈ pairMove s toSegs pasid gs [⟨h, o, segBytes gs, true⟩], d.inside = false := by
  refine foldl_reaches (P := fun a : List Desc × Nat => ∃ d ∈ a.1, d.inside = false) (fun a g hg => ?_)
    (fun a g ha => ?_) (segCut_host hlen hhost (Nat.le_refl _)) _
  · exact ⟨mkDesc toSegs g.addr a.2 g.len pasid, by simp [hg], rfl⟩
  · obtain ⟨d, hd, hdi⟩ := ha
    exact ⟨d, List.mem_append_left _ hd, hdi⟩

/-! ### The commands -/

/-- The job has been handed to its opcode's command (R104). -/
def started (s : State) (uid : Nat) (j : Job) : State :=
  { s with jobs := mset s.jobs uid { j with fresh := false } }

theorem jobRun_started {s : State} {uid op : Nat} {j : Job} {body : State → Job → State} (h : JobReady s uid op j) :
    jobRun s uid op body = body (started s uid j) { j with fresh := false } := jobRun_run h

/-- TX with data to wait for is the gathering of its data (R334). -/
theorem execTx_waits {s t w : State} {uid : Nat} {j : Job} {a : Upset} (h : JobReady s uid 0x81 j)
    (hok : txOk s j (segBytes (segsOf j.ents)) = true)
    (hgather : jobGather (started s uid j) uid { j with fresh := false, upset := a } (segsOf j.ents) =
      (.ok (true, t), w)) :
    execTx uid a s = .next t := by
  have hcheck : txOk (started s uid j) { j with fresh := false, upset := a } (segBytes (segsOf j.ents)) = true := hok
  refine congrArg Host.Outcome.next ((jobRun_started h).trans ?_)
  simp only [hcheck, hgather, Bool.not_true, Bool.false_eq_true, if_false]

/-- CORE_JOB with data to wait for is the gathering of its data (R259). -/
theorem execCoreJob_waits {s t w : State} {uid : Nat} {j : Job} (h : JobReady s uid 0x86 j)
    (hlen : segBytes (segsOf j.ents) ≤ 65536) (hring : ringTakes s (dw (jobHead j) 8 % 4096) j.owner = true)
    (hgather : jobGather (started s uid j) uid { j with fresh := false } (segsOf j.ents) = (.ok (true, t), w)) :
    execCoreJob uid s = .next t := by
  have hcheck : ringTakes (started s uid j) (dw (jobHead { j with fresh := false }) 8 % 4096) j.owner = true := hring
  refine congrArg Host.Outcome.next ((jobRun_started h).trans ?_)
  simp only [hcheck, hgather, Nat.not_lt.mpr hlen, Bool.not_true, Bool.false_eq_true, or_self, if_false]

/-- A COPY that passes the checks of R399, with segments that are the owner's. -/
abbrev CopyReady (s : State) (uid : Nat) (j : Job) : Prop :=
  JobReady s uid 0x87 j ∧ copyOk (started s uid j) { j with fresh := false } (segBytes (segsOf j.ents)) = true ∧
    segsOwned (started s uid j) (ownerReq j.owner) (segsOf j.ents) = true

/-- A COPY of no bytes completes (R399). -/
theorem execCopy_empty {s : State} {uid : Nat} {j : Job} (h : CopyReady s uid j) (hn : segBytes (segsOf j.ents) = 0) :
    execCopy uid s = .next (copyDone (started s uid j) uid { j with fresh := false }) := by
  obtain ⟨hjob, hok, howned⟩ := h
  rw [hn] at hok
  refine congrArg Host.Outcome.next ((jobRun_started hjob).trans ?_)
  simp only [hok, howned, hn, Bool.not_true, Bool.false_eq_true, or_self, if_false, if_true]

/-- A COPY into a buffer moves the segments against its range (R399). -/
theorem execCopy_toBuffer {s : State} {uid : Nat} {j : Job} (h : CopyReady s uid j) (hn : segBytes (segsOf j.ents) ≠ 0)
    (hdst : cpMere j = true) (hdir : cpDir j = false) {ds : List Desc}
    (hds : pairMove (started s uid j) false (ownerPasid s j.owner) (segsOf j.ents)
      [⟨cpBuf j, dw (jobHead j) 8, segBytes (segsOf j.ents), true⟩] = ds) (hne : ds ≠ []) :
    execCopy uid s = .next (copyMove (started s uid j) uid { j with fresh := false } ds) := by
  obtain ⟨hjob, hok, howned⟩ := h
  have hmere : cpMere { j with fresh := false } = true := hdst
  have hmove : pairMove (started s uid j) (cpDir { j with fresh := false }) (ownerPasid (started s uid j) j.owner)
      (segsOf j.ents) (copyMere (started s uid j) { j with fresh := false } (segBytes (segsOf j.ents))) = ds := by
    rw [copyMere, if_pos hmere]
    rw [← hdir] at hds
    exact hds
  refine congrArg Host.Outcome.next ((jobRun_started hjob).trans ?_)
  simp only [hok, howned, hn, hmere, hmove, hne, Bool.not_true, Bool.false_eq_true, or_self, true_or, if_false, if_true]

/-- The descriptors of a COPY of Mere segments to a host address: one for each segment, one behind the other (R399). -/
def toHostDescs (s : State) (j : Job) : List Desc :=
  ((segsOf j.ents).foldl (fun (a : List Desc × Nat) g =>
    (a.1 ++ [mkDesc true (cpDst j + a.2) (bufAddr s g.lo g.hi) g.len (ownerPasid s j.owner)], a.2 + g.len)) ([], 0)).1

theorem toHostDescs_host {s : State} {j : Job} (h : segsOf j.ents ≠ []) : ∃ d ∈ toHostDescs s j, d.inside = false := by
  obtain ⟨g, hg⟩ := List.exists_mem_of_ne_nil _ h
  refine foldl_reaches (P := fun a : List Desc × Nat => ∃ d ∈ a.1, d.inside = false) (Q := fun _ => True)
    (fun a g _ => ⟨_, List.mem_append_right _ (List.mem_singleton_self _), rfl⟩) (fun a g ha => ?_) ⟨g, hg, trivial⟩ _
  obtain ⟨d, hd, hdi⟩ := ha
  exact ⟨d, List.mem_append_left _ hd, hdi⟩

/-- A COPY of Mere segments to a host address moves them through its port (R399). -/
theorem execCopy_toHost {s : State} {uid : Nat} {j : Job} (h : CopyReady s uid j) (hn : segBytes (segsOf j.ents) ≠ 0)
    (hdst : cpMere j = false ∧ cpWin j = false) (hmere : (segsOf j.ents).all (·.inMere) = true) :
    execCopy uid s = .next (copyMove (started s uid j) uid { j with fresh := false } (toHostDescs s j)) := by
  obtain ⟨hjob, hok, howned⟩ := h
  have hcpMere : cpMere { j with fresh := false } = false := hdst.1
  have hcpWin : cpWin { j with fresh := false } = false := hdst.2
  refine congrArg Host.Outcome.next ((jobRun_started hjob).trans ?_)
  simp only [hok, howned, hn, hcpMere, hcpWin, hmere, Bool.not_true, Bool.false_eq_true, or_self, if_false, if_true]
  rfl

/-! ### The statement -/

/-- Settles O38: the host segments of a TX, CORE_JOB or COPY job give a transfer to wait for, and the one of a COPY goes
through the port that it names. -/
theorem queueEngineJobs : Obligations.QueueEngineJobs := by
  refine ⟨fun uid j a b s h hok howned heng hbuf hhost => ?tx,
    fun uid j b s h hlen hring howned heng hbuf hhost => ?coreJob, fun uid j s h howned => ?rxPost,
    fun uid j s h hok howned hn heng hdst hmere => ?copyToHost,
    fun uid j s h hok howned hn heng hdst hne hdir hmere => ?copyToBuffer,
    fun uid j s h hok howned hn => ?copyNothing⟩
  case tx =>
    exact execTx_waits h hok (jobGather_host (s := started s uid j) (j := { j with fresh := false, upset := a })
      howned heng hbuf hhost)
  case coreJob =>
    exact execCoreJob_waits h hlen hring (jobGather_host (s := started s uid j) (j := { j with fresh := false })
      howned heng hbuf hhost)
  case rxPost =>
    exact congrArg Host.Outcome.next ((jobRun_started h).trans (if_pos howned))
  case copyToHost =>
    have hsegs : segsOf j.ents ≠ [] := fun hnil => hn (by rw [hnil]; rfl)
    exact (execCopy_toHost ⟨h, hok, howned⟩ hn hdst hmere).trans
      (congrArg Host.Outcome.next (copyMove_host (toHostDescs_host hsegs) heng))
  case copyToBuffer =>
    have hhost : ∃ g ∈ segsOf j.ents, g.inMere = false := by simpa using List.all_eq_false.mp hmere
    exact (execCopy_toBuffer ⟨h, hok, howned⟩ hn hdst hdir rfl hne).trans (congrArg Host.Outcome.next
      (copyMove_host (pairMove_host _ _ _ _ _ (fun g hg => len_ne_zero_of_mem_segsOf hg) hhost) heng))
  case copyNothing =>
    refine (execCopy_empty ⟨h, hok, howned⟩ hn).trans (congrArg Host.Outcome.next ?_)
    rw [copyDone, hn]
    rfl

end Sys2Proof.Machine

/-! PROOFS. Network ports: the link state machine of a port and its preemption verification. -/
namespace Sys2Proof.Machine

/-! ### The record of a port -/

@[simp] theorem macOf_modMac_same (s : State) (p : Nat) (f : Mac → Mac) : macOf (modMac s p f) p = f (macOf s p) := by
  simp [macOf]

/-- Two changes of a port's record are one. -/
theorem modMac_modMac (s : State) (p : Nat) (f g : Mac → Mac) :
    modMac (modMac s p f) p g = modMac s p fun m => g (f m) := by
  simp only [modMac, macOf, mget_mset_same, mset_mset]

@[simp] theorem macOf_raise (s : State) (e : Ev) (i p : Nat) : macOf (raise s e i) p = macOf s p := by
  simp [macOf]

/-- An event writes no register. -/
@[simp] theorem rd_raise (s : State) (e : Ev) (i : Nat) (g : Fd) (j k : Nat) : rd (raise s e i) g j k = rd s g j k := by
  rw [raise_frame]
  rfl

/-- A register write takes no time. -/
theorem regStore_clk (s : State) (off inst w : Nat) : (regStore s off inst w).1.clk = s.clk := by
  unfold regStore
  (repeat' split) <;> rfl

/-! ### Pauses (R163) -/

/-- Without TX_EN a port sends no XOFF. -/
theorem xoffCheck_of_txOff {s : State} {p : Nat} (h : rd s F.MA_FC_TX_EN p = 0) (c : Nat) : xoffCheck s p c = s := by
  simp [xoffCheck, fcSends, h]

/-- Where no XOFF stands, none ends. -/
theorem xonCheck_of_noXoff {s : State} {p : Nat} (h : (macOf s p).xoff = []) (c : Nat) : xonCheck s p c = s := by
  simp [xonCheck, h, mget?]

/-- Without TX_EN and with no XOFF standing, nothing is sent or ended. -/
theorem fcRecheck_of_txOff {s : State} {p : Nat} (htx : rd s F.MA_FC_TX_EN p = 0) (hxoff : (macOf s p).xoff = []) :
    fcRecheck s p = s :=
  List.foldlRecOn (motive := fun t => t = s) _ _ rfl fun t ht c _ => by
    rw [ht, xoffCheck_of_txOff htx, xonCheck_of_noXoff hxoff]

/-! ### The states of R157 -/

/-- Entry into TRAINING from TRAINING starts its time anew, with the media settings written since. -/
theorem enterTraining_of_training {s : State} {p : Nat} (h : (macOf s p).st = .training) :
    enterTraining s p = modMac s p fun m => { m with trainAt := s.clk, cfg := pcfgWord s p } := by
  rw [enterTraining, ← h]
  rfl

/-- Entry into UP on a port without TX_EN and with no XOFF standing: the record changes, and the event tells of it. -/
theorem enterUp_of_txOff {s : State} {p : Nat} (htx : rd s F.MA_FC_TX_EN p = 0) (hxoff : (macOf s p).xoff = []) :
    enterUp s p = raise (modMac s p fun m => { m with
      st := .up, localFault := false, remoteFault := false, downAt := none, verAt := s.clk, flushing := false,
      ver := if rd s F.MA_PREEMPT_EN p = 0 ∨ rd s F.MA_PREEMPT_VERIFY_DIS p = 1 then .disabled else .verifying })
      .maLinkUp p := by
  rw [enterUp, verifyStart, modMac_modMac]
  exact fcRecheck_of_txOff ((rd_raise ..).trans htx) (by simpa using hxoff)

/-- A port that goes down is in the state it goes to. -/
theorem macOf_goDown_st (s : State) (p : Nat) (st : MacSt) : (macOf (goDown s p st) p).st = st := by
  simp [goDown, verifyStart]

/-- What a taken write of MA_PCFG does by the change of EN (R157). -/
theorem pcfgWrite_of_taken {s : State} {p w : Nat} (hport : netPortExists s p = true)
    (htaken : (regStore s (F.MA_PCFG_EN.off + 256 * p) 0 w).2 = true) :
    pcfgWrite s p w =
      if rd s F.MA_PCFG_EN p = 0 ∧ bitOf w 31 then
        enterTraining (regStore s (F.MA_PCFG_EN.off + 256 * p) 0 w).1 p
      else if rd s F.MA_PCFG_EN p = 1 ∧ !bitOf w 31 then
        goDown (regStore s (F.MA_PCFG_EN.off + 256 * p) 0 w).1 p .disabled
      else (regStore s (F.MA_PCFG_EN.off + 256 * p) 0 w).1 := by
  unfold pcfgWrite
  rw [if_neg (by simp [hport])]
  generalize regStore s (F.MA_PCFG_EN.off + 256 * p) 0 w = r at htaken ⊢
  obtain ⟨t, b⟩ := r
  cases htaken
  rfl

/-- A taken write that sets EN anew enters TRAINING. -/
theorem pcfgWrite_enable {s : State} {p w : Nat} (hport : netPortExists s p = true)
    (htaken : (regStore s (F.MA_PCFG_EN.off + 256 * p) 0 w).2 = true) (hwas : rd s F.MA_PCFG_EN p = 0)
    (hnew : bitOf w 31 = true) :
    pcfgWrite s p w = enterTraining (regStore s (F.MA_PCFG_EN.off + 256 * p) 0 w).1 p :=
  (pcfgWrite_of_taken hport htaken).trans (if_pos ⟨hwas, hnew⟩)

/-- A taken write that clears EN takes the port to DISABLED. -/
theorem pcfgWrite_disable {s : State} {p w : Nat} (hport : netPortExists s p = true)
    (htaken : (regStore s (F.MA_PCFG_EN.off + 256 * p) 0 w).2 = true) (hwas : rd s F.MA_PCFG_EN p = 1)
    (hnew : bitOf w 31 = false) :
    pcfgWrite s p w = goDown (regStore s (F.MA_PCFG_EN.off + 256 * p) 0 w).1 p .disabled := by
  rw [pcfgWrite_of_taken hport htaken, if_neg (by simp [hnew]), if_pos (by simp [hwas, hnew])]

/-! ### The commands -/

theorem exec_portEnable {s : State} {p : HostPort} {n : NetPort} {v : Word} (h : RegOpen s p true)
    (hbit : bitOf v.toNat 31 = true) : exec (.portEnable p n v) s = .next (pcfgWrite s n.val v.toNat) :=
  congrArg Host.Outcome.next ((regGate_open h).trans (if_pos hbit))

theorem exec_portDisable {s : State} {p : HostPort} {n : NetPort} {v : Word} (h : RegOpen s p true)
    (hbit : bitOf v.toNat 31 = false) : exec (.portDisable p n v) s = .next (pcfgWrite s n.val v.toNat) :=
  congrArg Host.Outcome.next ((regGate_open h).trans (if_neg (by simp [hbit])))

/-- Lock without a fault takes a port in TRAINING to UP. -/
theorem exec_netLinkLock {s : State} {n : NetPort} (hst : (macOf s n.val).st = .training)
    (hport : netPortExists s n.val = true) (hlocal : (macOf s n.val).localFault = false)
    (hremote : (macOf s n.val).remoteFault = false) (hlrs : s.lk.st ≠ .lrs) :
    exec (.netLinkLock n) s = .next (enterUp s n.val) :=
  if_pos ⟨hst, by simp [hlocal], by simp [hremote], hport, hlrs⟩

/-- Training without lock for 500 ms starts again. -/
theorem exec_trainingTimeout {s : State} {n : NetPort} (hst : (macOf s n.val).st = .training)
    (hdue : (macOf s n.val).trainAt + msec 500 ≤ s.clk) :
    exec (.trainingTimeout n) s = .next (enterTraining s n.val) :=
  if_pos ⟨hst, hdue⟩

/-- A fault of a port that is UP sets its flag and stops the port. -/
theorem exec_netLinkFault_up {s : State} {n : NetPort} {k : Fin 3} (hst : (macOf s n.val).st = .up) :
    exec (.netLinkFault n k) s =
      .next (raise (goDown (modMac s n.val fun m => { m with
        localFault := m.localFault || decide (k = 0), remoteFault := m.remoteFault || decide (k = 1) }) n.val .fault)
        .maLinkDown n.val) :=
  if_pos hst

/-- A port in FAULT whose faults clear, without AN_LT, is UP again. -/
theorem exec_netLinkFaultClear_up {s : State} {n : NetPort} (hst : (macOf s n.val).st = .fault)
    (hanlt : bitOf (macOf s n.val).cfg 25 = false) :
    exec (.netLinkFaultClear n) s =
      .next (enterUp (modMac s n.val fun m => { m with localFault := false, remoteFault := false }) n.val) :=
  (if_pos hst).trans (congrArg Host.Outcome.next (if_neg (by simp [hanlt])))

/-- With AN_LT it trains again. -/
theorem exec_netLinkFaultClear_training {s : State} {n : NetPort} (hst : (macOf s n.val).st = .fault)
    (hanlt : bitOf (macOf s n.val).cfg 25 = true) :
    exec (.netLinkFaultClear n) s =
      .next (enterTraining (modMac s n.val fun m => { m with localFault := false, remoteFault := false }) n.val) :=
  (if_pos hst).trans (congrArg Host.Outcome.next (if_pos hanlt))

/-- The down timer at DOWN_HOLD flushes the queues of a port that is not UP. -/
theorem exec_downHoldExpire {s : State} {n : NetPort} {d : Nat} (hdown : (macOf s n.val).downAt = some d)
    (hst : (macOf s n.val).st = .fault ∨ (macOf s n.val).st = .disabled) (hflush : (macOf s n.val).flushing = false)
    (hhold : rd s F.MA_DOWN_DOWN_HOLD n.val ≠ 65535) (hdue : d + msec (rd s F.MA_DOWN_DOWN_HOLD n.val) ≤ s.clk) :
    exec (.downHoldExpire n) s =
      .next (raise (modMac (egFlush s n.val) n.val fun m => { m with flushing := true }) .maEgFlush n.val) := by
  change execDownHoldExpire n s = _
  unfold execDownHoldExpire
  simp only [hdown]
  exact if_pos ⟨hst, by simp [hflush], hhold, hdue⟩

/-- Verification without an answer fails once its three frames have had their time (R165, log entry 104). -/
theorem exec_preemptVerifyEnd_fail {s : State} {n : NetPort} (hver : (macOf s n.val).ver = .verifying)
    (hdue : (macOf s n.val).verAt + msec (3 * rd s F.MA_PREEMPT_VERIFY_TIME n.val) ≤ s.clk) :
    exec (.preemptVerifyEnd n false) s =
      .next (raise (modMac s n.val fun m => { m with ver := .failed }) .maPreemptVerifyFail n.val) :=
  (if_pos hver).trans ((if_neg Bool.false_ne_true).trans (if_neg (Nat.not_lt.mpr hdue)))

/-- An answer ends verification; without a calendar no gate depends on it (R326). -/
theorem exec_preemptVerifyEnd_pass {s : State} {n : NetPort} (hver : (macOf s n.val).ver = .verifying)
    (hcal : rd s F.EG_PORT_CFG_CAL_EN 0 n.val = 0) :
    exec (.preemptVerifyEnd n true) s = .next (modMac s n.val fun m => { m with ver := .succeeded }) :=
  ((if_pos hver).trans (if_pos rfl)).trans
    (congrArg Host.Outcome.next (withGates_of_calOff (calOn_eq_false hcal) (calOn_eq_false hcal)))

/-! ### The statement -/

/-- Settles O16: each clause is one of the rules above; the changes that a command makes to the record one after the
other are one change. -/
theorem networkPortLinks : Obligations.NetworkPortLinks := by
  refine ⟨fun p n v s hopen hport hbit htaken hwas => ?enable, fun p n v s hopen hport hbit htaken hwas => ?disable,
    fun n s hst hport hlocal hremote htx hxoff hlrs => ?lock, fun n s hst hdue => ?timeout, fun n k s hst => ?faultNotUp,
    fun n k s hst => ?faultUp, fun n s hst hanlt htx hxoff => ?clearUp, fun n s hst hanlt => ?clearTraining,
    fun n d s hdown hst hflush hhold hdue => exec_downHoldExpire hdown hst hflush hhold hdue,
    fun n s hver hdue => exec_preemptVerifyEnd_fail hver hdue,
    fun n s hver hcal => exec_preemptVerifyEnd_pass hver hcal⟩
  case enable =>
    rw [exec_portEnable hopen hbit, pcfgWrite_enable hport htaken hwas hbit, enterTraining, regStore_clk]
  case disable =>
    exact ⟨_, (exec_portDisable hopen hbit).trans
      (congrArg Host.Outcome.next (pcfgWrite_disable hport htaken hwas hbit)), macOf_goDown_st .., rfl⟩
  case lock =>
    exact (exec_netLinkLock hst hport hlocal hremote hlrs).trans
      (congrArg Host.Outcome.next (enterUp_of_txOff htx hxoff))
  case timeout =>
    exact (exec_trainingTimeout hst hdue).trans (congrArg Host.Outcome.next (enterTraining_of_training hst))
  case faultNotUp =>
    exact if_neg hst
  case faultUp =>
    exact ⟨_, exec_netLinkFault_up hst, macOf_goDown_st .., rfl⟩
  case clearUp =>
    refine (exec_netLinkFaultClear_up hst hanlt).trans (congrArg Host.Outcome.next ?_)
    rw [enterUp_of_txOff, modMac_modMac]
    · rfl
    · exact htx
    · simpa using hxoff
  case clearTraining =>
    rw [exec_netLinkFaultClear_training hst hanlt, enterTraining, modMac_modMac]
    rfl

end Sys2Proof.Machine

/-! PROOFS. The byte memories: what was written reads back, and the canonical form decides a memory by its bytes. -/
namespace Sys2Proof.Machine

/-! ### Reading back -/

/-- Bytes written read back (R216). -/
theorem readMem_writeMem (l : List Byte) (m : Map Byte) (a : Nat) : readMem (writeMem m a l) a l.length = l := by
  induction l generalizing m a with
  | nil => rfl
  | cons b t ih =>
    have hhead : readByte (writeMem (writeByte m a b) (a + 1) t) a = b := by
      rw [readByte_writeMem_outside t _ (a + 1) a (.inl (Nat.lt_succ_self a)), readByte_writeByte_same]
    exact (congrArg (· :: _) hhead).trans (congrArg (b :: ·) (ih (writeByte m a b) (a + 1)))

/-! ### Equal bytes, equal memories -/

theorem readByte_cons_same (a : Nat) (b : Byte) (t : Map Byte) : readByte ((a, b) :: t) a = b := by
  simp [readByte, mget, mget?]

theorem readByte_cons_ne (b : Byte) (t : Map Byte) {a x : Nat} (h : a ≠ x) : readByte ((a, b) :: t) x = readByte t x := by
  simp [readByte, mget, mget?, h]

theorem memWfFrom_cons {lo a : Nat} {b : Byte} {t : Map Byte} :
    memWfFrom lo ((a, b) :: t) = true ↔ lo ≤ a ∧ b ≠ 0 ∧ memWfFrom (a + 1) t = true := by
  simp [memWfFrom, and_assoc]

/-- Below its first address a canonical memory lists nothing. -/
theorem readByte_below {m : Map Byte} {lo x : Nat} (w : memWfFrom lo m = true) (hx : x < lo) : readByte m x = 0 := by
  induction m generalizing lo with
  | nil => rfl
  | cons y t ih =>
    obtain ⟨a, b⟩ := y
    obtain ⟨ha, -, ht⟩ := memWfFrom_cons.mp w
    rw [readByte_cons_ne b t (by omega), ih ht (by omega)]

/-- A canonical memory whose bytes are all 0 lists none. -/
theorem eq_nil_of_readByte_zero {m : Map Byte} {lo : Nat} (w : memWfFrom lo m = true) (h : ∀ x, readByte m x = 0) :
    m = [] := by
  cases m with
  | nil => rfl
  | cons y t =>
    obtain ⟨a, b⟩ := y
    obtain ⟨-, hb, -⟩ := memWfFrom_cons.mp w
    exact absurd ((readByte_cons_same a b t).symm.trans (h a)) hb

/-- Of two canonical memories that read alike, neither begins at a lower address: the other reads 0 there. -/
theorem head_le_of_readByte_eq {t u : Map Byte} {lo a c : Nat} {b d : Byte} (w : memWfFrom lo ((a, b) :: t) = true)
    (v : memWfFrom lo ((c, d) :: u) = true) (h : ∀ x, readByte ((a, b) :: t) x = readByte ((c, d) :: u) x) : c ≤ a := by
  obtain ⟨-, hb, -⟩ := memWfFrom_cons.mp w
  obtain ⟨-, hd, hu⟩ := memWfFrom_cons.mp v
  refine Nat.le_of_not_lt fun hlt => ?_
  have hzero : readByte ((c, d) :: u) a = 0 := readByte_below (memWfFrom_cons.mpr ⟨Nat.le_refl c, hd, hu⟩) hlt
  exact hb ((readByte_cons_same a b t).symm.trans ((h a).trans hzero))

/-- Two canonical memories that read alike everywhere are equal (log entry 4). -/
theorem memWfFrom_ext {m k : Map Byte} {lo : Nat} (w : memWfFrom lo m = true) (v : memWfFrom lo k = true)
    (h : ∀ x, readByte m x = readByte k x) : m = k := by
  induction m generalizing k lo with
  | nil => exact (eq_nil_of_readByte_zero v fun x => (h x).symm).symm
  | cons y t ih =>
    obtain ⟨a, b⟩ := y
    cases k with
    | nil => exact eq_nil_of_readByte_zero w h
    | cons z u =>
      obtain ⟨c, d⟩ := z
      obtain rfl : c = a := Nat.le_antisymm (head_le_of_readByte_eq w v h) (head_le_of_readByte_eq v w fun x => (h x).symm)
      obtain ⟨-, -, ht⟩ := memWfFrom_cons.mp w
      obtain ⟨-, -, hu⟩ := memWfFrom_cons.mp v
      obtain rfl : b = d := by simpa only [readByte_cons_same] using h c
      refine congrArg _ (ih ht hu fun x => ?_)
      by_cases hx : c = x
      · subst hx
        rw [readByte_below ht (Nat.lt_succ_self c), readByte_below hu (Nat.lt_succ_self c)]
      · simpa only [readByte_cons_ne _ _ hx] using h x

/-- Settles O58: reading back by induction on the bytes written, equality by induction on the entries listed. -/
theorem memoryReadAfterWrite : Obligations.MemoryReadAfterWrite :=
  ⟨fun m a b => readMem_writeMem b m a, fun m a x b hx => readByte_writeMem_outside b m a x hx,
    fun m a b hm => memWf_writeMem b m a hm, fun _ _ hm hk h => memWfFrom_ext hm hk h⟩

end Sys2Proof.Machine

/-! PROOFS. Forwarding: a lookup in the PCLK of an age visit to a static entry leaves its HIT clear. -/
namespace Sys2Proof.Machine

/-! ### A frame for the null egress queue (R178) -/

theorem sendPause_fw (s : State) (p c time : Nat) : (sendPause s p c time).fw = s.fw := by
  unfold sendPause
  split
  · rfl
  · exact (apply_ite State.fw ..).trans (ite_self _)

theorem xonCheck_fw (s : State) (p c : Nat) : (xonCheck s p c).fw = s.fw := by
  unfold xonCheck
  split
  · exact sendPause_fw ..
  · rfl

theorem unheld_fw (s : State) (h : Nat) : (unheld s h).fw = s.fw := by
  unfold unheld
  split
  · exact xonCheck_fw ..
  · rfl

theorem devFree_fw (s : State) (h : Nat) : (devFree s h).fw = s.fw := by
  unfold devFree
  split
  · exact unheld_fw ..
  · rfl

/-- A frame that is stored already is counted there and its buffer freed. -/
theorem place_null_stored {s : State} {a : Arr} {h : Nat} (hbuf : a.buf = some h) :
    place s a nullDest = devFree (cadd s 6 0 0 1) h := by
  have hkind : actKind nullDest = 0 := by decide
  have htarget : actTarget nullDest ≥ 32 := by decide
  simp [place, hkind, htarget, toNull, storeArr, hbuf]

theorem place_null_stored_fw {s : State} {a : Arr} {h : Nat} (hbuf : a.buf = some h) :
    (place s a nullDest).fw = s.fw := by
  rw [place_null_stored hbuf, devFree_fw, cadd_fw]

/-! ### An exact-match search that hits (R198, R201, R202) -/

theorem emSearch_hit {s : State} {k : FwKey} {key : List Nat} {q : Nat} {e : FEnt} (hseen : fwSeen s = s)
    (hkey : emKey s k = some key) (hfind : findEnt s.fw.em key = some (q, e)) :
    emSearch s k {} = (some e.dest, cadd (hitEnt s false q e) 7 0 0 1) := by
  simp [emSearch, eccLoss, fwParity, b2n, hseen, hkey, hfind]

theorem fwLookup_em_hit {s : State} {k : FwKey} {key : List Nat} {q : Nat} {e : FEnt} (hseen : fwSeen s = s)
    (hmode : instMode s k.inst = 3) (hkey : emKey s k = some key) (hfind : findEnt s.fw.em key = some (q, e)) :
    fwLookup s k {} = (e.dest, cadd (hitEnt s false q e) 7 0 0 1) := by
  have hecc : sysEcc s {} = s := rfl
  simp [fwLookup, hseen, hmode, hecc, emSearch_hit hseen hkey hfind]

/-- The one lookup under way is placed once its destination is known (R201). -/
theorem drainPend_single {s : State} {x : PendFw} {d : Nat} (hpend : s.fw.pend = [x]) (hdest : x.dest = some d) :
    drainPend s = place { s with fw := { s.fw with pend := [] } } x.a d := by
  simp [drainPend, hpend, hdest, modFw]

/-! ### A lookup behind the age visit of its PCLK (R199, R210) -/

/-- Where the ager has visited the position in this PCLK, the hit leaves HIT and IDLE clear. -/
theorem hitEnt_visited {s : State} {q : Nat} {e y old : FEnt} {v : FwSeen} {k : Bool × Nat} (hseen : s.fw.seen = some v)
    (hat : v.at_ = s.clk) (haged : v.aged.find? (fun z => decide (z.1 = (false, q))) = some (k, old))
    (hnow : mget? s.fw.em q = some y) (hkey : y.key = old.key) :
    hitEnt s false q e = modFw s fun f => { f with em := mset f.em q { y with hit := false, idle := false } } := by
  simp [hitEnt, hseen, hat, haged, tabOf, hnow, hkey, setTab, modFw]

/-- FW_LOOKUP_DONE of an exact-match search that hits an entry which the ager has visited in the same PCLK. -/
theorem execFwLookupDone_visited {s : State} {x : PendFw} {q : Nat} {key : List Nat} {e old : FEnt} {v : FwSeen}
    {k : Bool × Nat} (hpend : s.fw.pend = [x]) (hdest : x.dest = none) (hmode : instMode s x.key.inst = 3)
    (hkey : emKey s x.key = some key) (hfind : findEnt s.fw.em key = some (q, e)) (hsame : fwSeen s = s)
    (hseen : s.fw.seen = some v) (hat : v.at_ = s.clk)
    (haged : v.aged.find? (fun z => decide (z.1 = (false, q))) = some (k, old)) (hnow : mget? s.fw.em q = some e)
    (hold : e.key = old.key) :
    execFwLookupDone x.id {} s = .next (place (cadd { s with
      fw := { s.fw with pend := [], em := mset s.fw.em q { e with hit := false, idle := false } } } 7 0 0 1) x.a
        e.dest) := by
  unfold execFwLookupDone
  rw [hpend, List.find?_cons_of_pos (by simp [hdest])]
  dsimp only
  rw [fwLookup_em_hit hsame hmode hkey hfind, hitEnt_visited hseen hat haged hnow hold]
  refine congrArg Host.Outcome.next (drainPend_single (x := { x with dest := some e.dest }) ?_ rfl)
  simp [modFw, hpend]

/-- A static exact-match entry of INST 0, whose EM_SLOTS is empty, with HIT clear. Its destination is the null egress
queue. -/
def staticEnt : FEnt := { key := List.replicate 9 0, stat := true, dest := nullDest }

/-- A stored packet that a flow core has sent through an ingress pipe again (R182) and that waits for its lookup in
INST 0. -/
def storedFrame : PendFw :=
  { id := 3, pipe := 0, a := { buf := some 0x40000000, len := 64, pass := 1 }, key := ⟨0, 0, 0⟩ }

/-- A running device whose INST 0 has MODE EXACT and whose exact-match table holds the static entry at position 5, where
the ager's sweep stands. -/
def beforeVisit : State where
  clk := 10 ^ 12
  uid := 4
  lk := { st := .running }
  coop := { ready := true, bufs := [(0x40000000, ⟨.handed, reqCluster 0⟩)] }
  fw := {
    insts := [(0, [0xC0000000, 0, 0, 0x7FFFFFFF])], em := [(5, staticEnt)], ageEm := (5, 0, 1), pend := [storedFrame] }

/-- The tables as a lookup of this PCLK sees them: the visit has changed none. -/
def visitSeen : FwSeen where
  at_ := 10 ^ 12
  insts := [(0, [0xC0000000, 0, 0, 0x7FFFFFFF])]
  em := [(5, staticEnt)]
  l2 := []
  lpm := []
  nhs := []
  vers := []
  aged := [((false, 5), staticEnt)]

/-- The device after the visit. -/
def afterVisit : State :=
  { beforeVisit with fw := { beforeVisit.fw with ageEm := (6, 0, 1), seen := some visitSeen } }

/-- AGE_VISIT leads from the one to the other: the sweep passes over the static entry (R210). -/
theorem exec_ageVisit_beforeVisit : exec (.ageVisit false) beforeVisit = .next afterVisit := rfl

/-- Refutes O19: the clause of FW_LOOKUP_DONE of an exact-match search that hits has HIT set (R202). Where the ager's sweep
has passed over a static entry in the same PCLK the model clears HIT instead, as if the sweep tested the entry, although it
skips STATIC entries (R210). -/
theorem not_forwardingTables : ¬ Obligations.ForwardingTables := by
  rintro ⟨-, -, -, -, -, -, -, -, -, -, -, -, -, -, -, -, -, -, -, -, -, -, -, -, -, -, -, -, -, hhit, -⟩
  have hmode : instMode afterVisit storedFrame.key.inst = 3 := by decide
  have hkey : emKey afterVisit storedFrame.key = some staticEnt.key := by decide
  have hfind : findEnt afterVisit.fw.em staticEnt.key = some (5, staticEnt) := by decide
  have hstated : execFwLookupDone storedFrame.id {} afterVisit = .next _ :=
    hhit 3 storedFrame 5 _ staticEnt afterVisit rfl ⟨rfl, rfl⟩ hmode hkey hfind rfl
  have hdone := execFwLookupDone_visited (s := afterVisit) (x := storedFrame) rfl rfl hmode hkey hfind rfl
    (v := visitSeen) rfl rfl (old := staticEnt) (k := (false, 5)) (by decide) rfl rfl
  have hfw := congrArg State.fw (Host.Outcome.next.inj (hdone.symm.trans hstated))
  have hplace := fun s => place_null_stored_fw (s := s) (a := storedFrame.a) rfl
  have hem := congrArg Fwd.em (((hplace _).symm.trans hfw).trans (hplace _))
  exact absurd hem (by decide)

end Sys2Proof.Machine

/-! PROOFS. The HBM controller: the rule of each of its commands where the command has its effect. -/
namespace Sys2Proof.Machine

/-! ### Temperature, refresh and activates (R238, R239) -/

/-- Between 82 and 85 C a stack keeps its refresh. -/
theorem execStackTempSample_mild {s : State} {k : Fin 4} {b : Byte} (hdue : msec 1 + (stackOf s k.val).sampled ≤ s.clk)
    (halive : lkAlive s = true) (hlo : 82 ≤ b.toNat) (hhi : b.toNat ≤ 85) :
    execStackTempSample k b s = .next (thermStep (modStack s k.val fun x => { x with
      temp := b.toNat, maxC := max x.maxC b.toNat, sampled := s.clk })) := by
  have hgate : ¬(s.clk < (stackOf s k.val).sampled + msec 1 ∨ !lkAlive s) := by
    rintro (h | h)
    · omega
    · simp [halive] at h
  have hnotHot : ¬b.toNat > 85 := by omega
  have hnotVeryHot : ¬b.toNat > 95 := by omega
  have hnotCool : ¬b.toNat < 82 := by omega
  unfold execStackTempSample
  simp only [if_neg hgate, hnotHot, hnotVeryHot, hnotCool, false_and, if_false]

/-- Above 85 C a stack in normal refresh begins to refresh twice as often, with MC_TEMP_2X. -/
theorem execStackTempSample_hot {s : State} {k : Fin 4} {b : Byte} (hdue : msec 1 + (stackOf s k.val).sampled ≤ s.clk)
    (halive : lkAlive s = true) (hlo : 85 < b.toNat) (hhi : b.toNat ≤ 95) (hnormal : (stackOf s k.val).twoX = false) :
    execStackTempSample k b s = .next (thermStep (raise (modStack s k.val fun x => { x with
      temp := b.toNat, maxC := max x.maxC b.toNat, sampled := s.clk, twoX := true }) .mcTemp2x 0)) := by
  have hgate : ¬(s.clk < (stackOf s k.val).sampled + msec 1 ∨ !lkAlive s) := by
    rintro (h | h)
    · omega
    · simp [halive] at h
  have hnotVeryHot : ¬b.toNat > 95 := by omega
  unfold execStackTempSample
  simp only [if_neg hgate, hlo, hnotVeryHot, hnormal, Bool.not_false, and_self, if_true, if_false]

/-- A pseudo-channel that carries a logical one counts for it (R246). -/
theorem pcCount_some {s : State} {p l : Nat} (h : logPc s p = some l) (i n : Nat) :
    pcCount s p i n = cadd s 9 l i n := by
  rw [pcCount, h]

/-- A refresh that is due is noted and counted. -/
theorem execBankRefresh_due {s : State} {c : Fin 264} {b : Fin 16} {l : Nat} (hlive : pcLive s c.val = true)
    (hdue : mget 0 s.hbm.refAt (c.val * 16 + b.val) + refPs (stackOf s (pcStack c.val)) ≤ s.clk)
    (hlog : logPc s c.val = some l) :
    execBankRefresh c b s = .next (cadd { s with
      hbm := { s.hbm with refAt := mset s.hbm.refAt (c.val * 16 + b.val) s.clk } } 9 l 6 1) :=
  (if_pos ⟨hlive, hdue⟩).trans (congrArg Host.Outcome.next (pcCount_some (s := { s with
    hbm := { s.hbm with refAt := mset s.hbm.refAt (c.val * 16 + b.val) s.clk } }) hlog 6 1))

/-- The next window of a stack. -/
theorem execRefreshWindowStart_due {s : State} {k : Fin 4} (hon : hbmOn s = true)
    (hdue : (stackOf s k.val).winAt + winPs (stackOf s k.val) ≤ s.clk) :
    execRefreshWindowStart k s = .next { s with hbm := { s.hbm with
      acts := mfilter (fun a _ => decide (pcStack (a / 4) ≠ k.val)) s.hbm.acts
      stks := mset s.hbm.stks k.val { stackOf s k.val with
        winAt := s.clk, sched := rget s F.MC_SCHED_HIT_CAP.off, act := rget s F.MC_ACT_CFG_THRESH.off } } } :=
  if_pos ⟨hon, hdue⟩

/-- The first activates of a row in a table that lists nothing: the count is cut by THRESH, and each THRESH of them has
refreshed the neighbours (R239). -/
def firstActs (s : State) (p g r n : Nat) : State :=
  let thr := max 1 (actThresh s (pcStack p))
  { s with hbm := { s.hbm with acts := mset s.hbm.acts (p * 4 + g) {
      rows := [(r, n % thr)], refs := n / thr
      near := if n / thr = 0 then [] else nearRows r (actRadius s (pcStack p)) } } }

/-- They are counted, with the refreshes, which are too few for a storm. -/
theorem execNeighbourRefresh_first {s : State} {c : Fin 264} {g : Fin 4} {r n l : Nat} (hlive : pcLive s c.val = true)
    (hn : 0 < n) (hempty : mget? s.hbm.acts (c.val * 4 + g.val) = none)
    (hcalm : n / max 1 (actThresh s (pcStack c.val)) ≤ 1024) (hlog : logPc s c.val = some l) :
    execNeighbourRefresh c g r n s = .next (cadd (cadd (firstActs s c.val g.val r n) 9 l 0 n) 9 l 1
      (n / max 1 (actThresh s (pcStack c.val)))) := by
  have hgate : ¬(!pcLive s c.val ∨ n = 0) := by
    rintro (h | h)
    · simp [hlive] at h
    · omega
  have htab : mget {} s.hbm.acts (c.val * 4 + g.val) = ({} : ActTab) := by rw [mget, hempty]; rfl
  have hstorm : ¬n / max 1 (actThresh s (pcStack c.val)) > 1024 := by omega
  rw [← pcCount_some (s := cadd (firstActs s c.val g.val r n) 9 l 0 n) hlog,
    ← pcCount_some (s := firstActs s c.val g.val r n) hlog]
  unfold execNeighbourRefresh
  dsimp only
  rw [if_neg hgate, htab]
  simp [actCount, hstorm, modHbm, firstActs]

/-! ### Scrub (R241) -/

/-- The position of a pseudo-channel's scrub after a visit in the middle of a pass. -/
def scrubbed (s : State) (p : Nat) : State :=
  { s with hbm := { s.hbm with scrub := mset s.hbm.scrub p {
      block := ((mget {} s.hbm.scrub p).block + 1) % pcBlocks p, at_ := s.clk
      period := (mget {} s.hbm.scrub p).period } } }

/-- A scrub visit of a part that is not degraded is due, in the middle of a pass (R241). -/
structure ScrubDue (s : State) (p : Nat) : Prop where
  live : pcLive s p = true
  sound : s.md.degraded = []
  inPass : (mget {} s.hbm.scrub p).block ≠ 0
  on : (mget {} s.hbm.scrub p).period ≠ 0
  due : (mget {} s.hbm.scrub p).at_ + (mget {} s.hbm.scrub p).period * 3600 * 10 ^ 12 / pcBlocks p ≤ s.clk

theorem execScrubVisit_good {s : State} {c : Fin 264} (h : ScrubDue s c.val) :
    execScrubVisit c 0 false s = .next (scrubbed s c.val) := by
  obtain ⟨hlive, hsound, hpass, hon, hdue⟩ := h
  unfold execScrubVisit
  simp only [hlive, hsound, hpass, hon, Nat.not_lt.mpr hdue, List.any_nil, Bool.not_true, Bool.false_eq_true, or_false,
    if_false]
  rfl

/-- A block that cannot be corrected is counted, raised and noted as wear (R241, R435). -/
theorem execScrubVisit_uncorrectable {s : State} {c : Fin 264} {l : Nat} (h : ScrubDue s c.val)
    (hlog : logPc s c.val = some l) :
    execScrubVisit c 2 false s =
      .next (wearNote (raise (cadd (cadd (scrubbed s c.val) 9 l 4 1) 8 0 16 1) .msEccUncorr 0) .pcUncorr c.val) := by
  obtain ⟨hlive, hsound, hpass, hon, hdue⟩ := h
  rw [← pcCount_some (s := scrubbed s c.val) hlog]
  unfold execScrubVisit
  simp only [hlive, hsound, hpass, hon, Nat.not_lt.mpr hdue, List.any_nil, Bool.not_true, Bool.false_eq_true, or_false,
    if_false]
  rfl

/-! ### Migration (R242) -/

/-- The first free spare takes the data of the one worn pseudo-channel. -/
theorem execMigStart_first {s : State} {w : Worn} {p n : Nat} {r : List Nat} (hq : s.md.queue = [w])
    (hkind : w.kind = 2) (hidle : s.hbm.mig = .idle) (hon : hbmOn s = true) (hspare : freeSpares s 2 (pcStack w.part) = p :: r)
    (hlog : logPc s w.part = some n) (hfuses : 2 ≤ fuseFree s) (hruns : lkRuns s = true) :
    execMigStart s = .next (raise { s with
      md := { s.md with queue := [] }
      hbm := { s.hbm with
        mig := .open_, pc := n, old := w.part, spare := p, units := 0, since := s.clk, reason := w.reason
        sec := ledgerSec s } } .mcMigStart n) := by
  have hworn : s.md.queue.find? (fun w => decide (w.kind = 2)) = some w := by simp [hq, hkind]
  have hgate : ¬(s.hbm.mig ≠ .idle ∨ !hbmOn s ∨ !lkRuns s) := by simp [hidle, hon, hruns]
  have htaken : (modMd s fun m => { m with queue := m.queue.erase w }) =
      { s with md := { s.md with queue := [] } } := by
    simp [modMd, hq]
  have hspare' : freeSpares { s with md := { s.md with queue := [] } } 2 (pcStack w.part) = p :: r := hspare
  have hlog' : logPc { s with md := { s.md with queue := [] } } w.part = some n := hlog
  have hfuses' : ¬fuseFree { s with md := { s.md with queue := [] } } < 2 := Nat.not_lt.mpr hfuses
  unfold execMigStart
  rw [hworn]
  dsimp only
  rw [if_neg hgate, htaken, hspare', hlog']
  dsimp only
  rw [if_neg hfuses']
  rfl

theorem execMigOpenEnd_open {s : State} (hmig : s.hbm.mig = .open_) (hon : hbmOn s = true) (hruns : lkRuns s = true) :
    execMigOpenEnd s = .next { s with
      md := { s.md with ledger := s.md.ledger ++ [{
        committed := false, kind := 2, reason := s.hbm.reason, frm := s.hbm.old, to_ := s.hbm.spare
        sec := s.hbm.sec }] }
      hbm := { s.hbm with mig := .copy, units := 0, since := s.clk } } :=
  if_pos ⟨hmig, hon, hruns⟩

/-- The next unit of a copy is due: one every 64 ns (R242). -/
def UnitDue (s : State) : Prop :=
  s.hbm.mig = .copy ∧ hbmOn s = true ∧ s.hbm.since + 64000 * (s.hbm.units + 1) ≤ s.clk

theorem execMigCopyUnit_unit {s : State} (h : UnitDue s) (hmore : s.hbm.units + 1 ≠ pcUnits) :
    execMigCopyUnit s = .next { s with hbm := { s.hbm with units := s.hbm.units + 1 } } :=
  (if_pos h).trans (if_neg hmore)

theorem execMigCopyUnit_last {s : State} (h : UnitDue s) (hlast : s.hbm.units + 1 = pcUnits) :
    execMigCopyUnit s = .next { s with hbm := { s.hbm with
      mig := .commit, units := pcUnits, since := s.clk, map := mset s.hbm.map s.hbm.pc s.hbm.spare } } :=
  (if_pos h).trans (if_pos hlast)

/-- The entry of the migration under way, whose commit fuse is not blown (R242). -/
def openEntry (s : State) (e : LEntry) : Bool :=
  decide (e.kind = 2 ∧ e.frm = s.hbm.old ∧ e.to_ = s.hbm.spare) && !e.committed && !e.void

/-- Only the last entry of the ledger is open: its fuse alone is blown. -/
theorem commit_openEntry_last {s : State} {l : List LEntry} {e : LEntry} (he : openEntry s e = true)
    (hl : ∀ x ∈ l, x.committed = true ∨ x.void = true) :
    ((l ++ [e]).map fun x => if openEntry s x then { x with committed := true } else x) =
      l ++ [{ e with committed := true }] := by
  have hkeep : (l.map fun x => if openEntry s x then { x with committed := true } else x) = l :=
    (List.map_congr_left fun x hx => if_neg fun ho => by
      rcases hl x hx with h | h <;> simp [openEntry, h] at ho).trans (List.map_id l)
  rw [List.map_append, hkeep, List.map_singleton, if_pos he]

theorem execMigCommitEnd_last {s : State} {l : List LEntry} {e : LEntry} (hmig : s.hbm.mig = .commit)
    (hruns : lkRuns s = true) (hledger : s.md.ledger = l ++ [e]) (he : openEntry s e = true)
    (hl : ∀ x ∈ l, x.committed = true ∨ x.void = true) :
    execMigCommitEnd s = .next { s with
      md := { s.md with ledger := l ++ [{ e with committed := true }] }
      hbm := { s.hbm with mig := .done, since := s.clk } } := by
  rw [← commit_openEntry_last he hl, ← hledger]
  exact if_pos ⟨hmig, hruns⟩

theorem execMcMigDone_done {s : State} (hmig : s.hbm.mig = .done) (hruns : lkRuns s = true) :
    execMcMigDone s =
      .next (raise { s with hbm := { s.hbm with mig := .idle, out := s.hbm.old :: s.hbm.out } } .mcMigDone s.hbm.pc) :=
  if_pos ⟨hmig, hruns⟩

/-- Settles O21: each clause is the rule of its command. -/
theorem hbmControllerCommands : Obligations.HbmControllerCommands :=
  ⟨fun _ _ _ hdue halive hlo hhi => execStackTempSample_mild hdue halive hlo hhi,
    fun _ _ _ hdue halive hlo hhi hnormal => execStackTempSample_hot hdue halive hlo hhi hnormal,
    fun _ _ _ _ hlive hdue hlog => execBankRefresh_due hlive hdue hlog,
    fun _ _ hon hdue => execRefreshWindowStart_due hon hdue,
    fun _ _ _ _ _ _ hlive hn hempty hcalm hlog => execNeighbourRefresh_first hlive hn hempty hcalm hlog,
    fun _ _ hlive hsound hpass hon hdue => execScrubVisit_good ⟨hlive, hsound, hpass, hon, hdue⟩,
    fun _ _ _ hlive hsound hpass hon hdue hlog => execScrubVisit_uncorrectable ⟨hlive, hsound, hpass, hon, hdue⟩ hlog,
    fun _ _ _ _ _ hruns hstage => if_pos ⟨hruns, hstage⟩,
    fun _ _ _ _ _ hq hkind hidle hon hspare hlog hfuses hruns =>
      execMigStart_first hq hkind hidle hon hspare hlog hfuses hruns,
    fun _ hmig hon hruns => execMigOpenEnd_open hmig hon hruns,
    fun _ hmig hon hdue hmore => execMigCopyUnit_unit ⟨hmig, hon, hdue⟩ hmore,
    fun _ hmig hon hdue hlast => execMigCopyUnit_last ⟨hmig, hon, hdue⟩ hlast,
    fun _ _ _ hmig hruns hledger he hl => execMigCommitEnd_last hmig hruns hledger (by simp [openEntry, he]) hl,
    fun _ hmig hruns => execMcMigDone_done hmig hruns⟩

end Sys2Proof.Machine

/-! PROOFS. What the units lose to a fatal event: to stop them adds no write request, push slot, message or seal. -/
namespace Sys2Proof.Machine

/-! ### Work that is only taken away -/

/-- What is under way towards the hosts and between the units: write requests handed, push slots, messages for the units,
and packets with the flow cores for sealing. -/
def workOf (s : State) : List WrReq × Map PushSlot × List Msg × List SealCtl := (s.wreqs, s.slots, s.msgs, s.seals)

/-- Between two states none of it is added. -/
structure NoNewWork (s t : State) : Prop where
  wreqs : t.wreqs.length ≤ s.wreqs.length
  slots : t.slots.length ≤ s.slots.length
  msgs : t.msgs.length ≤ s.msgs.length
  seals : t.seals.length ≤ s.seals.length

namespace NoNewWork

theorem refl (s : State) : NoNewWork s s := ⟨Nat.le_refl _, Nat.le_refl _, Nat.le_refl _, Nat.le_refl _⟩

theorem trans {s t u : State} (h : NoNewWork s t) (k : NoNewWork t u) : NoNewWork s u :=
  ⟨Nat.le_trans k.wreqs h.wreqs, Nat.le_trans k.slots h.slots, Nat.le_trans k.msgs h.msgs,
    Nat.le_trans k.seals h.seals⟩

/-- A change of other fields. -/
theorem of_eq {s t u : State} (h : NoNewWork s t) (e : workOf u = workOf t) : NoNewWork s u := by
  obtain ⟨hw, hs, hm, hl⟩ := by simpa only [workOf, Prod.mk.injEq] using e
  exact h.trans ⟨hw ▸ Nat.le_refl _, hs ▸ Nat.le_refl _, hm ▸ Nat.le_refl _, hl ▸ Nat.le_refl _⟩

theorem ite {s t u : State} {c : Prop} [Decidable c] (ht : NoNewWork s t) (hu : NoNewWork s u) :
    NoNewWork s (if c then t else u) := by
  split
  · exact ht
  · exact hu

theorem foldl {α : Type} {s t : State} {f : State → α → State} (h : NoNewWork s t) (l : List α)
    (hf : ∀ u a, NoNewWork s u → NoNewWork s (f u a)) : NoNewWork s (l.foldl f t) :=
  List.foldlRecOn (motive := fun u => NoNewWork s u) l f h fun u hu a _ => hf u a hu

/-! ### Events, counters and buffers -/

variable {s t : State}

theorem cadd (h : NoNewWork s t) (u i x n : Nat) : NoNewWork s (cadd t u i x n) := h.of_eq (by rfl)

theorem raise (h : NoNewWork s t) (e : Ev) (i : Nat) : NoNewWork s (raise t e i) :=
  h.of_eq (by rw [raise_frame]; rfl)

theorem raiseOnce (h : NoNewWork s t) (e : Ev) (i : Nat) : NoNewWork s (raiseOnce t e i) :=
  ite h ((h.raise e i).of_eq (by rfl))

theorem finishJob (h : NoNewWork s t) (uid : Nat) (st : Status) (r : Nat) : NoNewWork s (finishJob t uid st r) := by
  obtain ⟨j, c, e⟩ := finishJob_frame t uid st r
  rw [e]
  exact h.of_eq (by rfl)

theorem sendPause (h : NoNewWork s t) (p c time : Nat) : NoNewWork s (sendPause t p c time) :=
  ite h (ite (h.of_eq (by rfl)) (h.of_eq (by rfl)))

theorem xonCheck (h : NoNewWork s t) (p c : Nat) : NoNewWork s (xonCheck t p c) :=
  ite (sendPause (h.of_eq (by rfl)) p c 0) h

theorem unheld (h : NoNewWork s t) (b : Nat) : NoNewWork s (unheld t b) := by
  unfold Machine.unheld
  split
  · exact xonCheck (h.of_eq (by rfl)) _ _
  · exact h

theorem forget (h : NoNewWork s t) (b : Nat) : NoNewWork s (forget t b) :=
  h.trans ⟨Nat.le_refl _, Nat.le_refl _, Nat.le_refl _, List.length_filter_le ..⟩

theorem setFree (h : NoNewWork s t) (b : Nat) : NoNewWork s (setFree t b) :=
  unheld ((forget (h.of_eq (by rfl)) b).of_eq (by rfl)) b

theorem devFree (h : NoNewWork s t) (b : Nat) : NoNewWork s (devFree t b) :=
  ite ((h.setFree b).cadd ..) h

theorem devFrees (h : NoNewWork s t) (l : List Nat) : NoNewWork s (l.foldl Machine.devFree t) :=
  h.foldl l fun _ b hu => hu.devFree b

theorem cacheReturn (h : NoNewWork s t) (r p : Nat) : NoNewWork s (cacheReturn t r p) :=
  of_eq (h.foldl _ fun _ b hu => hu.setFree b) (by rfl)

theorem refuseFree (h : NoNewWork s t) (r : Nat) : NoNewWork s (refuseFree t r) :=
  ite (raise (foldl (h.of_eq (by rfl)) _ fun _ p hu => hu.cacheReturn r p) _ _) (h.of_eq (by rfl))

theorem bufFree (h : NoNewWork s t) (b r : Nat) : NoNewWork s (bufFree t b r).2 := by
  unfold Machine.bufFree
  split
  · exact (h.cadd ..).refuseFree r
  · split
    · exact ((h.cadd ..).raiseOnce _ _).refuseFree r
    · split
      · exact ((h.cadd ..).raiseOnce _ _).refuseFree r
      · split
        · exact (h.setFree b).cadd ..
        · exact ((h.cadd ..).raiseOnce _ _).refuseFree r

/-! ### Transfers and jobs -/

theorem loadShadow (h : NoNewWork s t) (e c x : Nat) : NoNewWork s (loadShadow t e c x) := by
  unfold Machine.loadShadow
  split
  · split
    · exact ite (h.of_eq (by rfl)) h
    · exact h
  · exact h

theorem startOn (h : NoNewWork s t) (e c x : Nat) : NoNewWork s (startOn t e c x) := by
  unfold Machine.startOn
  split
  · split
    · exact loadShadow (h.of_eq (by rfl)) e c x
    · exact h
  · exact h

theorem placeXfer (h : NoNewWork s t) (x : Nat) : NoNewWork s (placeXfer t x) := by
  unfold Machine.placeXfer
  split
  · split
    · exact h
    · split
      · exact ite (h.startOn ..) h
      · split
        · dsimp only
          split
          · exact h.startOn ..
          · exact h
        · exact h
  · exact h

theorem placeWaiting (h : NoNewWork s t) (p : Nat) : NoNewWork s (placeWaiting t p) :=
  List.foldlRecOn (motive := fun a : State × List Nat => NoNewWork s a.1) _ _ h fun a ha x _ => by
    dsimp only
    split
    · exact ha
    · exact ha.placeXfer x.1

theorem boundary (h : NoNewWork s t) (e c : Nat) : NoNewWork s (boundary t e c) := by
  unfold Machine.boundary
  dsimp only
  split
  · exact ite (h.of_eq (by rfl)) (h.of_eq (by rfl))
  · split
    · exact loadShadow (h.of_eq (by rfl)) ..
    · exact placeWaiting (h.of_eq (by rfl)) _

theorem stopCheck (h : NoNewWork s t) (e : Nat) : NoNewWork s (stopCheck t e) := ite (h.of_eq (by rfl)) h

/-- The write requests of a withdrawn transfer are marked, not taken out (R397). -/
theorem withdraw (h : NoNewWork s t) (x : Nat) : NoNewWork s (withdraw t x) := by
  unfold Machine.withdraw
  split
  · exact h
  · dsimp only
    have hmark (m : Map Xfer) (r : Map RdReq) (f : WrReq → WrReq) :
        NoNewWork s { t with xfers := m, reads := r, wreqs := t.wreqs.map f } :=
      h.trans ⟨Nat.le_of_eq (List.length_map _), Nat.le_refl _, Nat.le_refl _, Nat.le_refl _⟩
    split
    · exact hmark ..
    · refine ite ((boundary ?_ _ _).stopCheck _) ?_
      · exact of_eq (ite ((hmark ..).cadd ..) (hmark ..)) (by rfl)
      · exact of_eq (ite ((hmark ..).cadd ..) (hmark ..)) (by rfl)

theorem withdrawX (h : NoNewWork s t) (x : Nat) : NoNewWork s (withdrawX t x) := by
  unfold Machine.withdrawX
  split
  · split
    · exact (h.withdraw x).devFree _
    · exact h.withdraw x
  · exact h

theorem withdrawJob (h : NoNewWork s t) (uid : Nat) : NoNewWork s (withdrawJob t uid) :=
  h.foldl _ fun _ x hu => hu.withdrawX x

theorem sxDrop (h : NoNewWork s t) (uid : Nat) : NoNewWork s (sxDrop t uid) := by
  unfold Machine.sxDrop
  split
  · exact h
  · dsimp only
    split
    · exact devFree (h.of_eq (by rfl)) _
    · exact h.of_eq (by rfl)

theorem tpDrop (h : NoNewWork s t) (uid : Nat) : NoNewWork s (tpDrop t uid) :=
  h.foldl _ fun _ _ hu => foldl (hu.of_eq (by rfl)) _ fun _ _ hv => hv.devFrees _

theorem cancelJob (h : NoNewWork s t) (uid : Nat) : NoNewWork s (cancelJob t uid) := by
  unfold Machine.cancelJob
  split
  · exact h
  · exact devFrees (of_eq (((h.withdrawJob uid).sxDrop uid).tpDrop uid) (by rfl)) _

theorem dropJob (h : NoNewWork s t) (uid : Nat) : NoNewWork s (dropJob t uid) := by
  unfold Machine.dropJob
  split
  · exact (h.cancelJob uid).of_eq (by rfl)
  · exact h

/-! ### Flow cores and connections -/

theorem discardDesc (h : NoNewWork s t) (r : Nat) (d : FDesc) (st : Status) (gone : Bool) :
    NoNewWork s (discardDesc t r d st gone) :=
  ite (ite (finishJob (ite h (h.devFree _)) _ _ _) h) ((h.devFree _).cadd ..)

theorem discardTaken (h : NoNewWork s t) (x : Inbox) : NoNewWork s (discardTaken t x) := ite (h.discardDesc ..) h

theorem heldFree (h : NoNewWork s t) (c b : Nat) : NoNewWork s (heldFree t c b) := by
  unfold Machine.heldFree
  split
  · exact ite h (h.bufFree ..)
  · exact h

theorem releaseHeld (h : NoNewWork s t) (c : Nat) (p : Nat → Bool) : NoNewWork s (releaseHeld t c p) :=
  foldl (h.of_eq (by rfl)) _ fun _ b hu => hu.heldFree c b.1

theorem clearCore (h : NoNewWork s t) (c : Nat) (st : Status) : NoNewWork s (clearCore t c st) := by
  unfold Machine.clearCore
  dsimp only
  refine releaseHeld (foldl (foldl (h.of_eq (by rfl)) _ fun _ x hu => ?_) _ fun _ r hu => ?_) c _
  · exact ite (hu.discardTaken x) (hu.discardDesc ..)
  · exact foldl (hu.of_eq (by rfl)) _ fun _ d hv => hv.discardDesc ..

theorem haltClock (h : NoNewWork s t) : NoNewWork s (haltClock t) := by
  unfold Machine.haltClock
  split
  · exact h.of_eq (by rfl)
  · exact h.of_eq (by rfl)
  · exact h

theorem coreStopped (h : NoNewWork s t) (c : Nat) : NoNewWork s (coreStopped t c) := haltClock (h.of_eq (by rfl))

theorem modThr (h : NoNewWork s t) (c th : Nat) (f : Thr → Thr) : NoNewWork s (modThr t c th f) :=
  ite (h.of_eq (by rfl)) (haltClock (h.of_eq (by rfl)))

theorem replyRec (h : NoNewWork s t) (c th u : Nat) (st : Status) (tag : Nat) (ds : List Nat) :
    NoNewWork s (replyRec t c th u st tag ds) := by
  unfold Machine.replyRec setEvent
  exact modThr (h.of_eq (by rfl)) ..

theorem chReply (h : NoNewWork s t) (c th u tag : Nat) (st : Status) (ds : List Nat) :
    NoNewWork s (chReply t c th u tag st ds) :=
  ite ((h.modThr c th _).replyRec ..) h

theorem sendEnd (h : NoNewWork s t) (d : Snd) (st : Status) : NoNewWork s (sendEnd t d st) := by
  unfold Machine.sendEnd
  split
  · exact (h.withdrawJob _).finishJob ..
  · exact h.chReply ..
  · exact h

theorem copyFree (h : NoNewWork s t) (b : Nat) : NoNewWork s (copyFree t b) := by
  unfold Machine.copyFree
  dsimp only
  split
  · exact h.devFree b
  · split
    · exact h.of_eq (by rfl)
    · exact h.of_eq (by rfl)

theorem connClear (h : NoNewWork s t) (i : Nat) (c : Conn) (st : Option Status) : NoNewWork s (connClear t i c st) := by
  have hbufs := devFrees (h.foldl (copiesOf c ++ sealBufs c ++ (c.held ++ c.rxq).map (·.buf)) fun _ b hu => hu.copyFree b)
  refine foldl (foldl (of_eq (hbufs _) (by rfl)) _ fun _ d hu => ?_) _ fun _ u hu => ?_
  · split
    · exact hu.sendEnd ..
    · split
      · exact hu.dropJob _
      · exact hu.sendEnd ..
  · split
    · exact (hu.withdrawJob u).finishJob ..
    · exact hu.dropJob u

/-! ### Network ports -/

theorem frameGone (h : NoNewWork s t) (f : EFrame) : NoNewWork s (frameGone t f) := by
  have hfree : NoNewWork s (if f.own then Machine.devFree t f.buf else t) := ite (h.devFree _) h
  have hstart : NoNewWork s (mftStart (if f.own then Machine.devFree t f.buf else t) f.kind none) := by
    unfold mftStart
    split
    · exact hfree.of_eq (by rfl)
    · exact hfree
  unfold Machine.frameGone
  dsimp only
  split
  · exact hstart.finishJob ..
  · exact hstart

theorem egDrop (h : NoNewWork s t) (p : Nat) : NoNewWork s (egDrop t p) :=
  h.foldl _ fun _ _ hu => foldl (hu.of_eq (by rfl)) _ fun _ f hv => hv.frameGone f

theorem commitDead (h : NoNewWork s t) (i : Nat) : NoNewWork s (commitDead t i) := by
  unfold Machine.commitDead
  split
  · exact h.of_eq (by rfl)
  · exact h

theorem sluiceBad (h : NoNewWork s t) (i : Nat) (k : Commit) (b : List Byte) : NoNewWork s (sluiceBad t i k b) := by
  unfold Machine.sluiceBad
  split
  · exact h.of_eq (by rfl)
  · exact raiseOnce (h.of_eq (by rfl)) _ _

theorem ingressCut (h : NoNewWork s t) (p : Nat) : NoNewWork s (ingressCut t p) :=
  foldl (h.of_eq (by rfl)) _ fun _ k hu => ite (hu.of_eq (by rfl)) (hu.sluiceBad ..)

theorem egCut (h : NoNewWork s t) (p : Nat) : NoNewWork s (egCut t p) := by
  refine foldl (foldl (h.of_eq (by rfl)) _ fun _ r hu => ?_) _ fun _ k hu => (hu.commitDead _).cadd ..
  dsimp only
  split
  · exact (hu.cadd ..).commitDead _
  · exact (hu.cadd ..).frameGone _

theorem arrGone (h : NoNewWork s t) (a : Arr) : NoNewWork s (arrGone t a) := by
  unfold Machine.arrGone
  split
  · exact h.devFree _
  · exact h

/-! ### The stops of a fatal event (R428) -/

theorem stopDma (h : NoNewWork s t) : NoNewWork s (stopDma t) := by
  obtain ⟨-, hs, hm, hl⟩ := h.foldl (t.xfers.map (·.1)) fun _ x hu => hu.withdrawX x
  exact ⟨Nat.zero_le _, hs, hm, hl⟩

theorem stopCores (h : NoNewWork s t) : NoNewWork s (stopCores t) := by
  obtain ⟨hw, hs, -, hl⟩ := h.foldl (t.cores.map (·.1)) fun _ c hu => (hu.clearCore c .workDiscarded).coreStopped c
  exact ⟨hw, hs, Nat.zero_le _, hl⟩

theorem stopEngines (h : NoNewWork s t) : NoNewWork s (stopEngines t) := by
  have hconns : NoNewWork s (t.conns.foldl (fun s c => modConn ((c.2.ctl.map (·.buf)).foldl Machine.devFree
      (Machine.connClear s c.1 c.2 none)) c.1 fun c => { c with ctl := [] }) t) :=
    h.foldl _ fun _ c hu => of_eq (devFrees (hu.connClear c.1 c.2 none) _) (by rfl)
  obtain ⟨hw, hs, hm, -⟩ := hconns.foldl _ fun _ (k : SealCtl) hu => hu.devFree k.buf
  exact ⟨hw, hs, hm, Nat.zero_le _⟩

theorem stopPorts (h : NoNewWork s t) : NoNewWork s (stopPorts t) := by
  have hports := h.foldl (List.range 32) fun _ p hu => ((hu.ingressCut p).egCut p).egDrop p
  have hfwd (u : State) (hu : NoNewWork s u) : NoNewWork s (u.hostq.foldl (fun s f => Machine.devFree s f.buf)
      (u.fw.pend.foldl (fun s x => Machine.arrGone s x.a) u)) :=
    foldl (hu.foldl _ fun _ x hv => hv.arrGone x.a) _ fun _ f hv => hv.devFree f.buf
  have hlast (u : State) (hu : NoNewWork s u) (f : Fwd → Fwd) (sl : Sluice) :
      NoNewWork s { modFw u f with sl := sl, hostq := [] } := hu.of_eq (by rfl)
  exact hlast _ (hfwd _ hports) _ _

end NoNewWork

end Sys2Proof.Machine

/-! PROOFS. Events, fatal containment, temperature, device reset and the last-resort sequencer. -/
namespace Sys2Proof.Machine

/-! ### The log, AER and the alerts (R85, R418, R424) -/

/-- To report an event changes host-port records and registers, and sends. -/
def Signalled (s t : State) : Prop := ∃ h r o, t = { s with hp := h, regs := r, out := o }

namespace Signalled

theorem refl (s : State) : Signalled s s := ⟨s.hp, s.regs, s.out, rfl⟩

theorem ite {s t u : State} {c : Prop} [Decidable c] (ht : Signalled s t) (hu : Signalled s u) :
    Signalled s (if c then t else u) := by
  split
  · exact ht
  · exact hu

theorem foldl {α : Type} {s t : State} {f : State → α → State} (h : Signalled s t) (l : List α)
    (hf : ∀ u a, Signalled s u → Signalled s (f u a)) : Signalled s (l.foldl f t) :=
  List.foldlRecOn (motive := fun u => Signalled s u) l f h fun u hu a _ => hf u a hu

variable {s t : State}

theorem lk (h : Signalled s t) : t.lk = s.lk := by
  obtain ⟨_, _, _, rfl⟩ := h
  rfl

theorem workOf (h : Signalled s t) : workOf t = workOf s := by
  obtain ⟨_, _, _, rfl⟩ := h
  rfl

theorem emit (h : Signalled s t) (o : Out) : Signalled s (emit t o) := by
  obtain ⟨_, _, _, rfl⟩ := h
  exact ⟨_, _, _, rfl⟩

theorem wr (h : Signalled s t) (f : Fd) (i inst v : Nat) : Signalled s (wr t f i inst v) := by
  obtain ⟨_, _, _, rfl⟩ := h
  exact ⟨_, _, _, rfl⟩

theorem modHp (h : Signalled s t) (p : Nat) (f : Hp → Hp) : Signalled s (modHp t p f) := by
  obtain ⟨_, _, _, rfl⟩ := h
  exact ⟨_, _, _, rfl⟩

theorem modFn (h : Signalled s t) (p : Nat) (f : Fn) (g : FnState → FnState) : Signalled s (modFn t p f g) := by
  cases f
  · exact h.modHp p fun x => { x with f0 := g x.f0 }
  · exact h.modHp p fun x => { x with f1 := g x.f1 }

theorem modAer (h : Signalled s t) (p : Nat) (f : Fn) (g : Aer → Aer) : Signalled s (modAer t p f g) := h.modFn p f _

theorem aerCorrectable (h : Signalled s t) (p : Nat) (f : Fn) (e : AerErr) : Signalled s (aerCorrectable t p f e) :=
  ite (h.modAer p f _) ((h.modAer p f _).emit _)

theorem aerRecord (h : Signalled s t) (p : Nat) (f : Fn) (e : AerErr) (m : Bool) (hdr : Option (List Word)) :
    Signalled s (aerRecord t p f e m hdr) :=
  have hsta := h.modAer p f _
  ite hsta (ite (hsta.modAer p f _) (ite (hsta.aerCorrectable p f _) hsta))

theorem corHeader (h : Signalled s t) (p : Nat) (f : Fn) (hdr : Option (List Word)) :
    Signalled s (corHeader t p f hdr) := by
  unfold Machine.corHeader
  dsimp only
  split
  · exact ite (h.modAer p f _) h
  · exact h

theorem aerLog (h : Signalled s t) (p : Nat) (f : Fn) (e : AerErr) (hdr : Option (List Word)) :
    Signalled s (aerLog t p f e hdr) := by
  unfold Machine.aerLog
  dsimp only
  refine ite ((h.corHeader p f hdr).aerCorrectable p f e) (ite (h.aerCorrectable p f e) (ite ?_ ?_))
  · exact ite (h.aerCorrectable p f _) ((h.aerCorrectable p f _).aerRecord ..)
  · exact ite (h.aerRecord ..) ((h.aerRecord ..).emit _)

theorem aerEvent (h : Signalled s t) (p : Nat) (f : Fn) (e : Event) : Signalled s (aerEvent t p f e) :=
  ite (h.aerLog ..) (ite (h.aerLog ..) h)

theorem aerReport (h : Signalled s t) (e : Event) : Signalled s (aerReport t e) :=
  h.foldl _ fun _ p hu => ite hu (ite ((hu.aerRecord ..).emit _) ((hu.aerEvent p .pf0 e).aerEvent p .pf1 e))

theorem sendPme (h : Signalled s t) (p : Nat) (f : Fn) : Signalled s (sendPme t p f) :=
  ite ((h.modFn p f _).emit _) (h.modFn p f _)

theorem leaveL1 (h : Signalled s t) (p : Nat) : Signalled s (leaveL1 t p) := (h.modHp p _).emit _

/-- A link in L1 is woken first. -/
theorem woken (h : Signalled s t) (p : Nat) (c : Prop) [Decidable c] :
    Signalled s (if c then Machine.leaveL1 t p else t) := ite (h.leaveL1 p) h

theorem sendMsix (h : Signalled s t) (p : Nat) (f : Fn) (v : Nat) : Signalled s (sendMsix t p f v) :=
  ite (h.modFn p f _) (h.emit _)

theorem alertSend (h : Signalled s t) (p : Nat) : Signalled s (alertSend t p) :=
  have hl1 := h.woken p ((hpOf t p).ltssm = .l1)
  ite ((h.modHp p _).sendPme p .pf0) (ite (hl1.sendMsix p .pf0 0) (hl1.modHp p _))

theorem intaUpdate (h : Signalled s t) (p : Nat) : Signalled s (intaUpdate t p) :=
  have hst := h.modFn p .pf0 _
  have hl1 := hst.woken p ((hpOf t p).ltssm = .l1)
  ite hst (ite (hst.sendPme p .pf0) (ite ((hl1.modHp p _).emit _) hl1))

theorem pendAlert (h : Signalled s t) (p cls : Nat) : Signalled s (pendAlert t p cls) :=
  have hpend := h.wr F.LK_MB_ALERT_PENDING 0 p _
  ite h (ite hpend (ite ((hpend.modHp p _).alertSend p) ((hpend.modHp p _).intaUpdate p)))

theorem alertAll (h : Signalled s t) (e : Event) : Signalled s (alertAll t e) :=
  h.foldl _ fun _ p hu => ite (hu.pendAlert p e.cls) hu

end Signalled

/-- What logging changes of the Lockkeeper: the log and its tail (R419). -/
theorem logEvent_frame (s : State) (e : Event) :
    ∃ log tail, logEvent s e = modLk s fun l => { l with log := log, tail := tail } := by
  unfold logEvent
  dsimp only
  split
  · split
    · exact ⟨_, s.lk.tail, rfl⟩
    · exact ⟨_, _, rfl⟩
  · exact ⟨_, _, rfl⟩

/-- An event that does not follow another in the log opens a new entry (R419). -/
theorem logEvent_new {s : State} (e : Event) (h : mget? s.lk.log ((s.lk.tail + 1023) % 1024) = none) :
    logEvent s e =
      modLk s fun l => { l with log := mset l.log (l.tail % 1024) e, tail := (l.tail + 1) % 2 ^ 32 } := by
  simp only [logEvent, h]

theorem signalled_takeEvent {s : State} {e : Event} (h : excluded s e.code = false) :
    Signalled (logEvent s e) (takeEvent s e) := by
  rw [takeEvent, h]
  exact ((Signalled.refl _).aerReport e).alertAll e

/-- To take an event changes the log, host-port records and registers, and sends. -/
theorem takeEvent_frame (s : State) (e : Event) :
    ∃ log tail, Signalled (modLk s fun l => { l with log := log, tail := tail }) (takeEvent s e) := by
  cases h : excluded s e.code with
  | true =>
    rw [takeEvent, h]
    exact ⟨s.lk.log, s.lk.tail, .refl _⟩
  | false =>
    obtain ⟨log, tail, hlog⟩ := logEvent_frame s e
    exact ⟨log, tail, hlog ▸ signalled_takeEvent h⟩

theorem setFault_frame (s : State) (b : Bool) :
    ∃ o, setFault s b = { s with lk := { s.lk with fault := b }, out := o } := by
  unfold setFault
  split
  · next h => exact ⟨s.out, h ▸ rfl⟩
  · exact ⟨_, rfl⟩

/-! ### Containment (R428) -/

/-- The device is contained: FATAL, with the event as the first, FAULT_N asserted, and none of its work under way. -/
def Contained (s : State) (e : Event) (t : State) : Prop :=
  t.lk.st = .fatal ∧ t.lk.first = some e ∧ t.lk.fatalCount = 1 ∧ t.lk.fatalStart = some s.clk ∧ t.lk.fault = true ∧
    t.wreqs = [] ∧ t.slots = [] ∧ t.msgs = [] ∧ t.seals = []

/-- Each stop empties its part of the work, and the stops behind it add none to it. -/
theorem workOf_stopWork (s : State) : workOf (stopWork s) = ([], [], [], []) := by
  unfold stopWork
  dsimp only
  generalize List.foldl writeLeave s _ = u
  have hports := (NoNewWork.refl (stopEngines (stopCores (stopDma (stopQueues u))))).stopPorts
  have hengines := (NoNewWork.refl (stopCores (stopDma (stopQueues u)))).stopEngines.trans hports
  have hcores := (NoNewWork.refl (stopDma (stopQueues u))).stopCores.trans hengines
  have hdma := (NoNewWork.refl (stopQueues u)).stopDma.trans hcores
  have hwreqs := List.eq_nil_of_length_eq_zero (Nat.le_zero.mp hcores.wreqs)
  have hslots := List.eq_nil_of_length_eq_zero (Nat.le_zero.mp hdma.slots)
  have hmsgs := List.eq_nil_of_length_eq_zero (Nat.le_zero.mp hengines.msgs)
  have hseals := List.eq_nil_of_length_eq_zero (Nat.le_zero.mp hports.seals)
  rw [workOf, hwreqs, hslots, hmsgs, hseals]

theorem workOf_modLk (s : State) (f : Lk → Lk) : workOf (modLk s f) = workOf s := rfl

/-- The device with its work stopped, at the entry into FATAL (R428). -/
def stoppedFatal (s : State) (e : Event) : State :=
  modLk (stopWork s) fun l => { l with st := .fatal, first := some e, fatalCount := 1, fatalStart := some s.clk }

/-- A fatal event of a running device. -/
theorem contain_running {s : State} (ev : Ev) (i : Nat) (hpor : s.boot.por = true) (hrun : s.lk.st = .running)
    (hheld : bootHeld s = false) :
    contain s ev i = setFault (takeEvent (stoppedFatal s (mkEvent s ev i)) (mkEvent s ev i)) true := by
  have hgate : ¬(!s.boot.por ∨ bootHeld s) := by simp [hpor, hheld]
  unfold contain
  rw [if_neg hgate, hrun]
  rfl

theorem contained_contain {s : State} (ev : Ev) (i : Nat) (hpor : s.boot.por = true) (hrun : s.lk.st = .running)
    (hheld : bootHeld s = false) : Contained s (mkEvent s ev i) (contain s ev i) := by
  rw [contain_running ev i hpor hrun hheld]
  generalize mkEvent s ev i = e
  obtain ⟨log, tail, htake⟩ := takeEvent_frame (stoppedFatal s e) e
  have hwork : workOf (takeEvent (stoppedFatal s e) e) = ([], [], [], []) := by
    rw [htake.workOf, stoppedFatal, workOf_modLk, workOf_modLk, workOf_stopWork]
  have hlk := htake.lk
  generalize takeEvent (stoppedFatal s e) e = t at hwork hlk ⊢
  obtain ⟨hwreqs, hslots, hmsgs, hseals⟩ := by simpa only [workOf, Prod.mk.injEq] using hwork
  obtain ⟨o, hfault⟩ := setFault_frame t true
  rw [hfault, Contained, hlk]
  exact ⟨rfl, rfl, rfl, rfl, rfl, hwreqs, hslots, hmsgs, hseals⟩

/-- One more fatal event is logged and counted (R429). -/
theorem contain_fatal {s : State} (ev : Ev) (i : Nat) (hpor : s.boot.por = true) (hfatal : s.lk.st = .fatal)
    (hheld : bootHeld s = false) :
    contain s ev i =
      logEvent { s with lk := { s.lk with fatalCount := min 65535 (s.lk.fatalCount + 1) } } (mkEvent s ev i) := by
  have hgate : ¬(!s.boot.por ∨ bootHeld s) := by simp [hpor, hheld]
  unfold contain
  rw [if_neg hgate, hfatal]
  rfl

/-! ### Events (R418) -/

theorem execEventRaise_raise {s : State} {v : Ev} {i : Word} (hclass : evClass v ≠ 2) (hlrs : s.lk.st ≠ .lrs)
    (hpor : s.boot.por = true) : execEventRaise v i s = .next (raise s v i.toNat) :=
  if_neg (by simp [hclass, hlrs, hpor])

/-- Firmware takes the oldest event of the intake queue, and services the watchdog (R416; log entry 122). -/
def intakeTaken (s : State) (r : List Event) : State := { s with lk := { s.lk with intake := r, wdAt := s.clk } }

theorem execEventLog_cons {s : State} {e : Event} {r : List Event} (hq : s.lk.intake = e :: r) (hruns : lkRuns s = true)
    (hturn : s.lk.st ≠ .resetting ∨ s.boot.recovery = true) :
    execEventLog s = .next (takeEvent (intakeTaken s r) e) := by
  have hgate : ¬(!lkRuns s ∨ (s.lk.st = .resetting ∧ !s.boot.recovery)) := by
    rcases hturn with h | h <;> simp [hruns, h]
  rw [execEventLog, hq]
  exact if_neg hgate

/-- A new entry is the newest of the log, and the event has left the queue. -/
theorem takeEvent_new_lk {s : State} {e : Event} (hlogged : excluded s e.code = false)
    (hnew : mget? s.lk.log ((s.lk.tail + 1023) % 1024) = none) :
    (takeEvent s e).lk =
      { s.lk with log := mset s.lk.log (s.lk.tail % 1024) e, tail := (s.lk.tail + 1) % 2 ^ 32 } := by
  rw [(signalled_takeEvent hlogged).lk, logEvent_new e hnew]
  rfl

/-! ### Temperature (R465) -/

/-- The junction readings of a sample: the highest, its sensor, and the maximum so far. -/
def sampled (s : State) (l : List Byte) : State :=
  let hi := (l.map (·.toNat)).foldl max 0
  { s with
    lk := { s.lk with wdAt := s.clk }
    boot := { s.boot with
      temp := hi, hottest := (l.map (·.toNat)).idxOf hi, maxC := max s.boot.maxC hi, sampled := s.clk } }

theorem execJunctionSample_due {s : State} {l : List Byte} (hdue : s.boot.sampled + msec 1 ≤ s.clk)
    (hruns : lkRuns s = true) (hlen : l.length = 16) : execJunctionSample l s = .next (thermStep (sampled s l)) := by
  have htake : l.take 16 = l := List.take_of_length_le (Nat.le_of_eq hlen)
  have hsome : l.map (·.toNat) ≠ [] := by
    intro h
    simp [List.map_eq_nil_iff.mp h] at hlen
  have hgate : ¬(s.clk < s.boot.sampled + msec 1 ∨ !lkRuns s ∨ l.map (·.toNat) = []) := by
    rintro (h | h | h)
    · omega
    · simp [hruns] at h
    · exact hsome h
  unfold execJunctionSample
  rw [htake]
  exact if_neg hgate

/-- At WARN_C and below TRIP_C a device in its normal thermal state throttles, with LK_THERMAL_WARN. -/
theorem thermStep_warn {s : State} (hnormal : s.boot.therm = .normal) (hstacks : s.hbm.stks = [])
    (hwarn : rd s F.LK_THERMAL_WARN_C ≤ s.boot.temp) (hno : s.boot.temp < rd s F.LK_THERMAL_TRIP_C) :
    thermStep s = raise (modBoot s fun b => { b with therm := .throttled }) .lkThermalWarn 0 := by
  have htrip : thermTrip s = false := by simp [thermTrip, stackTemps, hstacks, hno]
  have hwarm : thermWarn s = true := by simp [thermWarn, hwarn]
  simp [thermStep, hnormal, htrip, hwarm]

theorem execTripPowerOff_due {s : State} {d : Nat} (htrip : s.boot.tripAt = some d) (hdue : d + msec 1 ≤ s.clk)
    (hlrs : s.lk.st ≠ .lrs) (hpor : s.boot.por = true) :
    execTripPowerOff s = .next { s with
      boot := { s.boot with tripAt := none, pd := 1 }
      hbm := { s.hbm with mig := if s.hbm.mig = .open_ ∨ s.hbm.mig = .copy then .idle else s.hbm.mig } } := by
  rw [execTripPowerOff, htrip]
  refine (if_pos ⟨hdue, hlrs, hpor⟩).trans (congrArg Host.Outcome.next ?_)
  by_cases hmig : s.hbm.mig = .open_ ∨ s.hbm.mig = .copy
  · rw [if_pos hmig]
    exact if_pos hmig
  · rw [if_neg hmig]
    exact if_neg hmig

/-! ### Device reset (R430, R431) -/

theorem execFatalTimerExpire_due {s : State} {d : Nat} (hstart : s.lk.fatalStart = some d) (hfatal : s.lk.st = .fatal)
    (hdue : d + msec (rd s F.LK_POLICY_FATAL_DELAY) ≤ s.clk) (hruns : lkRuns s = true) :
    execFatalTimerExpire s = .next (
      if rd s F.LK_POLICY_ACTION = 1 then { s with lk := { s.lk with fatalStart := none } }
      else wantReset { s with lk := { s.lk with fatalStart := none } } 1) := by
  rw [execFatalTimerExpire, hstart]
  exact if_pos ⟨hfatal, hruns, hdue⟩

theorem execResetProceed_free {s : State} {c : Nat} (hwait : s.lk.resetWait = some c) (hruns : lkRuns s = true)
    (hfree : resetHeld s = false) : execResetProceed s = .next (deviceReset s c) := by
  rw [execResetProceed, hwait]
  exact if_pos ⟨hruns, by rw [hfree]; rfl⟩

/-! ### The last-resort sequencer (R416, R432) -/

/-- A value is changed in every entry of a map; an absent one reads as the default. -/
theorem mget_mmap_of {α : Type} {P : α → Prop} {d : α} {f : Nat → α → α} (hd : P d) (hf : ∀ k v, P (f k v)) (m : Map α)
    (k : Nat) : P (mget d (mmap f m) k) := by
  induction m with
  | nil => exact hd
  | cons x t ih =>
    by_cases h : x.1 = k
    · simpa [mmap, mget, mget?, h] using hf x.1 x.2
    · simpa [mmap, mget, mget?, h] using ih

/-- Messages sent one after the other, each if the state asks for it. -/
theorem foldl_emit_frame {c : State → Nat → Prop} [∀ s p, Decidable (c s p)] (o : Nat → Out) (l : List Nat)
    (s : State) : ∃ out, l.foldl (fun s p => if c s p then emit s (o p) else s) s = { s with out := out } :=
  List.foldlRecOn (motive := fun t : State => ∃ out : List Out, t = { s with out := out }) l _ ⟨s.out, rfl⟩
    fun t ht p _ => by
    obtain ⟨out, rfl⟩ := ht
    split
    · exact ⟨_, rfl⟩
    · exact ⟨_, rfl⟩

/-- Bus Master Enable of both functions of every port is clear (R432). -/
def NoBusMaster (s : State) : Prop := ∀ q : Fin 8, (hpOf s q.val).f0.bme = false ∧ (hpOf s q.val).f1.bme = false

/-- The sequencer has run: it cut the outputs off and took the root keys. -/
def LastResort (t : State) (cause : Nat) : Prop :=
  t.lk.st = .lrs ∧ t.lk.lrsCause = cause ∧ t.lk.fault = true ∧ t.ls.roots = [] ∧ t.wreqs = [] ∧ NoBusMaster t

/-- The ports are cut off: MACs that carry traffic train again, no port may issue requests, and write requests are lost
(R432). -/
def mastersOff (u : State) : State :=
  { u with
    macs := mmap (fun _ m => if m.st = .up ∨ m.st = .fault then { m with st := .training } else m) u.macs
    hp := mmap (fun _ h => { h with f0 := { h.f0 with bme := false }, f1 := { h.f1 with bme := false } }) u.hp
    wreqs := [] }

theorem noBusMaster_mastersOff (u : State) : NoBusMaster (mastersOff u) := fun q =>
  mget_mmap_of (P := fun h : Hp => h.f0.bme = false ∧ h.f1.bme = false) ⟨rfl, rfl⟩ (fun _ _ => ⟨rfl, rfl⟩) u.hp q.val

theorem lastResort_lrs {s : State} (cause : Nat) (hlrs : s.lk.st ≠ .lrs) (hpor : s.boot.por = true) :
    LastResort (lrs s cause) cause := by
  have hgate : ¬(s.lk.st = .lrs ∨ !s.boot.por) := by simp [hlrs, hpor]
  unfold lrs
  rw [if_neg hgate]
  dsimp only
  generalize List.foldl _ s (List.range 32) = u
  obtain ⟨out, hsent⟩ := foldl_emit_frame (c := fun s p => (hpOf s p).ltssm = .l0)
    (fun p => .errMsg (asPort p) .pf0 .fatal .uncorrectableInternal) (List.range 8) (mastersOff u)
  unfold mastersOff at hsent
  rw [hsent]
  obtain ⟨out', hfault⟩ := setFault_frame (modLs { mastersOff u with out := out } fun l => { l with roots := [] }) true
  unfold mastersOff at hfault
  rw [hfault]
  exact ⟨rfl, rfl, rfl, rfl, rfl, noBusMaster_mastersOff u⟩

/-- Settles O39: each clause is one of the rules above. The four fatal events are containment of a running device, and
the three causes of the sequencer one run of it. -/
theorem eventsAndFatalContainment : Obligations.EventsAndFatalContainment := by
  refine ⟨fun _ _ _ hclass hlrs hpor => execEventRaise_raise hclass hlrs hpor,
    fun _ _ _ hq hruns hturn => execEventLog_cons hq hruns hturn,
    fun _ hpor hrun hheld _ _ _ => ⟨_, rfl, contained_contain .lkNocFault 0 hpor hrun hheld⟩,
    fun _ hpor hrun hheld _ _ _ => ⟨_, rfl, contained_contain .lkCtrlEcc 0 hpor hrun hheld⟩,
    fun _ hpor hrun hheld _ _ _ => ⟨_, rfl, contained_contain .lkRailFault 0 hpor hrun hheld⟩,
    fun _ hpor hrun hheld _ _ _ => ⟨_, rfl, contained_contain .lkClockFault 0 hpor hrun hheld⟩,
    fun _ hpor hfatal hheld => congrArg Host.Outcome.next (contain_fatal .lkClockFault 0 hpor hfatal hheld),
    fun _ _ hdue hruns hlen => execJunctionSample_due hdue hruns hlen,
    fun l s hdue hruns hlen hnormal hstacks hwarn hno => ?warn,
    fun _ _ htrip hdue hlrs hpor => execTripPowerOff_due htrip hdue hlrs hpor,
    fun d s hstart hfatal hdue haction hruns => ?timerKeeps,
    fun d s hstart hfatal hdue haction hfree hruns => ?timerResets,
    fun _ _ hwait hruns hfree => execResetProceed_free hwait hruns hfree,
    fun _ hlrs hpor => ⟨_, rfl, lastResort_lrs 1 hlrs hpor⟩,
    fun _ hlrs hpor hdue => ⟨_, if_pos hdue, lastResort_lrs 2 hlrs hpor⟩,
    fun _ hlrs hpor => ⟨_, rfl, lastResort_lrs 3 hlrs hpor⟩,
    fun c s hwait hruns hfree => ?proceed,
    fun e r s hq hruns hturn hlogged hnew => ?newEntry,
    fun s hearly => if_neg (Nat.not_le.mpr hearly),
    fun s halive => congrArg Host.Outcome.next (if_pos halive)⟩
  case warn =>
    exact (execJunctionSample_due hdue hruns hlen).trans (congrArg Host.Outcome.next
      (thermStep_warn (s := sampled s l) hnormal hstacks hwarn hno))
  case timerKeeps =>
    exact (execFatalTimerExpire_due hstart hfatal hdue hruns).trans (congrArg Host.Outcome.next (if_pos haction))
  case timerResets =>
    have haction1 : rd s F.LK_POLICY_ACTION ≠ 1 := by omega
    have hwant : wantReset { s with lk := { s.lk with fatalStart := none } } 1 =
        deviceReset { s with lk := { s.lk with fatalStart := none } } 1 := if_neg (ne_true_of_eq_false hfree)
    refine ⟨_, execFatalTimerExpire_due hstart hfatal hdue hruns, ?_⟩
    rw [if_neg haction1, hwant]
    exact ⟨rfl, rfl, rfl, rfl, rfl, rfl, rfl, rfl, rfl, rfl, rfl, rfl, rfl⟩
  case proceed =>
    exact ⟨_, execResetProceed_free hwait hruns hfree, rfl, rfl, rfl, rfl, rfl, rfl, rfl, rfl, rfl, rfl, rfl, rfl, rfl⟩
  case newEntry =>
    refine ⟨_, execEventLog_cons hq hruns hturn, ?_⟩
    rw [takeEvent_new_lk (s := intakeTaken s r) hlogged hnew]
    exact ⟨rfl, rfl, mget?_mset_same ..⟩

end Sys2Proof.Machine

/-! PROOFS. The queue and the time under a command and under a step. -/
namespace Sys2Proof.Machine

/-- A command leaves the queue, and the time too unless the PCLK of an edge passes with it (log entries 2, 7). -/
theorem exec_pending_clk (x : Instr) (s : State) :
    ∃ t, exec x s = .next t ∧ t.pending = s.pending ∧ (t.clk = s.clk ∨ isEdge x = true ∧ t.clk = s.clk + 625) := by
  obtain ⟨t, ht, hkept | ⟨hedge, hkept | hpclk⟩⟩ := exec_next x s
  · exact ⟨t, ht, hkept.pending, .inl hkept.clk⟩
  · exact ⟨t, ht, hkept.pending, .inl hkept.clk⟩
  · exact ⟨t, ht, hpclk.pending, .inr ⟨hedge, hpclk.clk⟩⟩

/-- A step takes the command at the front of the queue, if there is one, and the time does not run back. -/
theorem step_clk_pending {s t : State} (h : step s = .next t) : s.clk ≤ t.clk ∧ t.pending = s.pending.tail := by
  cases hp : s.pending with
  | nil =>
    cases (step_of_pending_nil hp).symm.trans h
    have ht := tick_kept (Kept.refl s)
    exact ⟨ht.clk ▸ Nat.le_add_right .., ht.pending.trans hp⟩
  | cons x rest =>
    obtain ⟨u, hu, hpending, hclk⟩ := exec_pending_clk x { s with pending := rest }
    cases hu.symm.trans ((step_of_pending_cons hp).symm.trans h)
    refine ⟨?_, hpending⟩
    rcases hclk with hclk | ⟨-, hclk⟩
    · exact Nat.le_of_eq hclk.symm
    · exact hclk ▸ Nat.le_add_right ..

/-- Settles O50: by what every command keeps, and for a step by that and by what the tick keeps. -/
theorem commandsTakeNoTime : Obligations.CommandsTakeNoTime :=
  ⟨exec_pending_clk, fun _ _ h => step_clk_pending h⟩

end Sys2Proof.Machine

/-! PROOFS. Flow cores: every command of the instruction set issues the word at the PC, and words that fault. -/
namespace Sys2Proof.Machine

/-- A word of a block that cannot be corrected faults FETCH, and the block is counted and reported (R234, R266). -/
theorem issue_unreadable {s : State} {c n : Nat} {op : FcOp} {body : State → Thr → FcI → Iss}
    (may : mayIssue s c n = true) (bp : (thrOf s c n).stepping = true ∨ bpHit s c n = none)
    (fetch : 4 * (thrOf s c n).pc + 4 ≤ codeLen s (coreOf s c).image)
    (lost : badFetch s c (thrOf s c n).pc = true) :
    issue s c n op body = thrFault (coreWear (raise (cadd s 8 0 16 1) .msEccUncorr 0) .coreUncorr c) c n 6 := by
  simp only [issue, may, Bool.not_true, Bool.false_eq_true, if_false, notStopped bp, lost, if_true]
  rw [if_neg (Nat.not_lt.mpr fetch)]

/-- The commands of the flow-core instruction set, for one thread of one core. -/
def flowCommands (c : CoreId) (n : ThreadId) (b : Bool) (e : LmErr) : List Instr :=
  [.add c n, .sub c n, .and c n, .or c n, .xor c n, .sll c n, .srl c n, .sra c n, .slt c n, .sltu c n, .mul c n,
    .mulhu c n, .divu c n, .remu c n, .clz c n, .popc c n, .addi c n, .extu c n, .andi c n, .ori c n, .xori c n,
    .shi c n, .hwset c n, .hwins c n, .beq c n, .bne c n, .blt c n, .bge c n, .bltu c n, .bgeu c n, .j c n, .jal c n,
    .jalr c n, .mfsr c n, .ftread c n, .evwait c n, .evsend c n, .tmset c n, .hmap c n, .hput c n, .crypt c n,
    .gfmul c n, .tbl c n, .balloc c n, .bfree c n, .bxfer c n, .chw c n, .ldb c n e, .ldh c n e, .ldw c n e,
    .ldd c n e, .ldhs c n e, .ldws c n e, .ldds c n e, .stb c n e, .sth c n e, .stw c n e, .std c n e, .sths c n e,
    .stws c n e, .csum c n e, .post c n b]

/-- CRYPT and GFMUL are issued as every instruction is (R281). -/
theorem lsIssue_issues (s : State) (c : CoreId) (n : ThreadId) (op : FcOp) (gf : Bool) :
    ∃ body, lsIssue s c n op gf = issue s c.val n.val op body := by
  unfold lsIssue
  exact ⟨_, rfl⟩

/-- Each of them lets the thread issue the word at its PC: the forty before CRYPT and the twenty after GFMUL by their
definitions. -/
theorem exec_flowCommand (c : CoreId) (n : ThreadId) (b : Bool) (e : LmErr) (s : State) :
    ∀ x ∈ flowCommands c n b e, ∃ op body, exec x s = .next (issue s c.val n.val op body) := by
  obtain ⟨crypt, hcrypt⟩ := lsIssue_issues s c n .crypt false
  obtain ⟨gfmul, hgfmul⟩ := lsIssue_issues s c n .gfmul true
  unfold flowCommands
  iterate 40 refine List.forall_mem_cons.mpr ⟨⟨_, _, rfl⟩, ?_⟩
  refine List.forall_mem_cons.mpr ⟨⟨_, crypt, congrArg Host.Outcome.next hcrypt⟩, ?_⟩
  refine List.forall_mem_cons.mpr ⟨⟨_, gfmul, congrArg Host.Outcome.next hgfmul⟩, ?_⟩
  iterate 20 refine List.forall_mem_cons.mpr ⟨⟨_, _, rfl⟩, ?_⟩
  exact List.forall_mem_nil _

/-- Settles O52: whichever command issues, its word decides. -/
theorem undefinedWordsFault : Obligations.UndefinedWordsFault := by
  refine ⟨fun x c n b e s hx may bp fetch read word => ?illegal, fun x c n b e s hx may bp fetch => ?beyond,
    fun x c n b e s hx may bp fetch lost => ?unreadable⟩
  all_goals obtain ⟨op, body, h⟩ := exec_flowCommand c n b e s x hx
  case illegal => exact h.trans (congrArg _ (issue_illegal may bp fetch read word))
  case beyond => exact h.trans (congrArg _ (issue_beyond may bp fetch))
  case unreadable => exact h.trans (congrArg _ (issue_unreadable may bp fetch lost))

end Sys2Proof.Machine

/-! PROOFS. Flow cores: what the operations on cores and threads change, and what an instruction that retires leaves. -/
namespace Sys2Proof.Machine

/-! ### The record of a core -/

@[simp] theorem coreOf_modCore_same (s : State) (c : Nat) (f : Core → Core) :
    coreOf (modCore s c f) c = f (coreOf s c) := by
  simp [coreOf, modCore]

theorem coreOf_modCore_ne (s : State) {c d : Nat} (f : Core → Core) (h : d ≠ c) :
    coreOf (modCore s c f) d = coreOf s d := by
  simp [coreOf, modCore, mget_mset_ne _ _ _ _ _ h]

/-- Two changes of a core are one. -/
theorem modCore_modCore (s : State) (c : Nat) (f g : Core → Core) :
    modCore (modCore s c f) c g = modCore s c fun k => g (f k) := by
  simp only [modCore, coreOf, mget_mset_same, mset_mset]

/-- A change of a core beside its threads leaves every thread. -/
theorem thrOf_modCore (s : State) (c d m : Nat) {f : Core → Core} (hf : ∀ k, (f k).threads = k.threads) :
    thrOf (modCore s c f) d m = thrOf s d m := by
  by_cases h : d = c
  · subst h
    rw [thrOf, coreOf_modCore_same, hf]
    rfl
  · rw [thrOf, coreOf_modCore_ne s f h]
    rfl

@[simp] theorem haltClock_cores (s : State) : (haltClock s).cores = s.cores := by
  unfold haltClock
  split <;> rfl

@[simp] theorem coreOf_haltClock (s : State) (c : Nat) : coreOf (haltClock s) c = coreOf s c := by
  rw [coreOf, haltClock_cores]
  rfl

/-- The selectable counters of a core are counters. -/
theorem pmc_frame (s : State) (c t code n : Nat) : ∃ cnt, pmc s c t code n = { s with cnt := cnt } := by
  unfold pmc
  refine List.foldlRecOn (motive := fun u : State => ∃ cnt : Map Nat, u = { s with cnt := cnt }) _ _ ⟨s.cnt, rfl⟩ ?_
  rintro u ⟨cnt, rfl⟩ k -
  dsimp only
  split
  · exact ⟨_, rfl⟩
  · exact ⟨cnt, rfl⟩

@[simp] theorem pmc_cores (s : State) (c t code n : Nat) : (pmc s c t code n).cores = s.cores := by
  obtain ⟨cnt, h⟩ := pmc_frame s c t code n
  rw [h]

@[simp] theorem coreOf_pmc (s : State) (c t code n d : Nat) : coreOf (pmc s c t code n) d = coreOf s d := by
  rw [coreOf, pmc_cores]
  rfl

/-! ### The record of a thread (R251, R252) -/

/-- A thread as it is stored in place of `old`: its run time is kept (R252). -/
def timedThr (s : State) (old th : Thr) : Thr :=
  if old.st = .running ∧ th.st ≠ .running then { th with runAcc := th.runAcc + (s.clk - th.runAt) }
  else if old.st ≠ .running ∧ th.st = .running then { th with runAt := s.clk }
  else th

theorem timedThr_eq (s : State) (old th : Thr) :
    ∃ acc at', timedThr s old th = { th with runAcc := acc, runAt := at' } := by
  unfold timedThr
  (repeat' split) <;> exact ⟨_, _, rfl⟩

/-- A core with a thread stored: `lastAct` stays while the core is in mutual wait throughout (R261). -/
def Core.withThr (s : State) (t : Nat) (th : Thr) (k : Core) : Core :=
  { k with
    threads := mset k.threads t th
    lastAct := if mutualWait k ∧ mutualWait { k with threads := mset k.threads t th } then k.lastAct else s.clk }

/-- A thread is stored in its core, and the clock of halted time is kept where it enters or leaves HALTED. -/
theorem putThr_eq (s : State) (c t : Nat) (th : Thr) :
    putThr s c t th =
      if decide ((thrOf s c t).st = .halted) = decide ((timedThr s (thrOf s c t) th).st = .halted) then
        modCore s c (Core.withThr s t (timedThr s (thrOf s c t) th))
      else haltClock (modCore s c (Core.withThr s t (timedThr s (thrOf s c t) th))) := rfl

/-- A core with a thread stored: the thread, and the last time that the core was not in mutual wait. -/
theorem coreOf_putThr_same (s : State) (c t : Nat) (th : Thr) :
    ∃ act, coreOf (putThr s c t th) c = { coreOf s c with
      threads := mset (coreOf s c).threads t (timedThr s (thrOf s c t) th), lastAct := act } := by
  rw [putThr_eq]
  split
  · exact ⟨_, coreOf_modCore_same ..⟩
  · exact ⟨_, (coreOf_haltClock ..).trans (coreOf_modCore_same ..)⟩

theorem coreOf_putThr_ne (s : State) {c d : Nat} (t : Nat) (th : Thr) (h : d ≠ c) :
    coreOf (putThr s c t th) d = coreOf s d := by
  rw [putThr_eq]
  split
  · exact coreOf_modCore_ne s _ h
  · exact (coreOf_haltClock ..).trans (coreOf_modCore_ne s _ h)

@[simp] theorem thrOf_putThr_same (s : State) (c t : Nat) (th : Thr) :
    thrOf (putThr s c t th) c t = timedThr s (thrOf s c t) th := by
  obtain ⟨act, h⟩ := coreOf_putThr_same s c t th
  rw [thrOf, h]
  exact mget_mset_same ..

theorem thrOf_putThr_ne (s : State) (c : Nat) {t m : Nat} (th : Thr) (h : m ≠ t) :
    thrOf (putThr s c t th) c m = thrOf s c m := by
  obtain ⟨act, hc⟩ := coreOf_putThr_same s c t th
  rw [thrOf, hc]
  exact mget_mset_ne _ _ _ _ _ h

/-- A thread keeps its registers when another is stored, or it itself with the same ones. -/
theorem regs_putThr (s : State) (c t d m : Nat) {th : Thr} (h : th.regs = (thrOf s c t).regs) :
    (thrOf (putThr s c t th) d m).regs = (thrOf s d m).regs := by
  by_cases hd : d = c
  · subst hd
    by_cases hm : m = t
    · subst hm
      obtain ⟨acc, at', ht⟩ := timedThr_eq s (thrOf s d m) th
      rw [thrOf_putThr_same, ht]
      exact h
    · rw [thrOf_putThr_ne s d th hm]
  · rw [thrOf, coreOf_putThr_ne s t th hd]
    rfl

theorem regs_modThr (s : State) (c t d m : Nat) {f : Thr → Thr} (hf : ∀ th, (f th).regs = th.regs) :
    (thrOf (modThr s c t f) d m).regs = (thrOf s d m).regs :=
  regs_putThr s c t d m (hf _)

/-! ### Changes of the cores alone -/

/-- `t` is `s` but for the cores, the counters and the record of the halted time. -/
def CoresOnly (s t : State) : Prop :=
  ∃ cores cnt since acc,
    t = { s with cores := cores, cnt := cnt, dbg := { s.dbg with haltSince := since, haltAcc := acc } }

namespace CoresOnly

variable {s t : State}

theorem refl (s : State) : CoresOnly s s := ⟨_, _, _, _, rfl⟩

theorem trans {u : State} (h : CoresOnly s t) (k : CoresOnly t u) : CoresOnly s u := by
  obtain ⟨_, _, _, _, rfl⟩ := h
  obtain ⟨_, _, _, _, rfl⟩ := k
  exact ⟨_, _, _, _, rfl⟩

theorem modCore (h : CoresOnly s t) (c : Nat) (f : Core → Core) : CoresOnly s (modCore t c f) :=
  h.trans ⟨_, _, _, _, rfl⟩

theorem cadd (h : CoresOnly s t) (u i x n : Nat) : CoresOnly s (cadd t u i x n) := h.trans ⟨_, _, _, _, rfl⟩

theorem haltClock (h : CoresOnly s t) : CoresOnly s (haltClock t) := by
  refine h.trans ?_
  unfold Machine.haltClock
  split <;> exact ⟨_, _, _, _, rfl⟩

theorem putThr (h : CoresOnly s t) (c n : Nat) (th : Thr) : CoresOnly s (putThr t c n th) := by
  rw [putThr_eq]
  split
  · exact h.modCore ..
  · exact (h.modCore ..).haltClock

theorem modThr (h : CoresOnly s t) (c n : Nat) (f : Thr → Thr) : CoresOnly s (modThr t c n f) := h.putThr ..

theorem pmc (h : CoresOnly s t) (c n code k : Nat) : CoresOnly s (pmc t c n code k) := by
  obtain ⟨cnt, e⟩ := pmc_frame t c n code k
  exact h.trans ⟨_, cnt, _, _, e⟩

theorem issued (h : CoresOnly s t) (c n : Nat) : CoresOnly s (issued t c n) := ((h.cadd ..).modCore ..).pmc ..

theorem retired (h : CoresOnly s t) (c n : Nat) : CoresOnly s (retired t c n) := (h.modThr ..).issued ..

theorem takeInbox (h : CoresOnly s t) (c n : Nat) : CoresOnly s (takeInbox t c n) := by
  unfold Machine.takeInbox
  dsimp only
  split
  · exact h.modThr ..
  · exact h

theorem haltMask (h : CoresOnly s t) (c mask : Nat) : CoresOnly s (haltMask t c mask) :=
  List.foldlRecOn (motive := CoresOnly s) _ _ h fun u hu m _ => by
    split
    · exact hu.modThr ..
    · exact hu

theorem wpApply (h : CoresOnly s t) (c n : Nat) (acc : List (Nat × Nat × Bool)) :
    CoresOnly s (wpApply t c n acc) := by
  unfold Machine.wpApply
  dsimp only
  split
  · exact h
  · split
    · exact h.haltMask ..
    · exact h.modThr ..

end CoresOnly

/-! ### Retiring (R250, R263, R472) -/

/-- What retiring makes of the thread: its watchdog ends, and a STEP or a pending halt ends in HALTED. -/
def Thr.retire (th : Thr) : Thr :=
  if th.stepping ∨ th.haltPend then
    { th with wd := none, postWait := false, st := .halted, prev := .running, stepping := false, haltPend := false }
  else { th with wd := none, postWait := false }

theorem retired_eq (s : State) (c n : Nat) : retired s c n = issued (modThr s c n Thr.retire) c n := rfl

theorem Thr.retire_timed (th : Thr) (acc at' : Nat) :
    Thr.retire { th with runAcc := acc, runAt := at' } = { th.retire with runAcc := acc, runAt := at' } := by
  unfold Thr.retire
  split <;> rfl

theorem Thr.retire_kept (th : Thr) :
    th.retire.regs = th.regs ∧ th.retire.pc = th.pc ∧ th.retire.wd = none ∧ th.retire.ev = th.ev ∧
      th.retire.timer = th.timer ∧ th.retire.slot = th.slot ∧ th.retire.inbox = th.inbox := by
  unfold Thr.retire
  split <;> exact ⟨rfl, rfl, rfl, rfl, rfl, rfl, rfl⟩

theorem Thr.retire_st (th : Thr) :
    th.retire.st = if th.stepping = true ∨ th.haltPend = true then .halted else th.st := by
  unfold Thr.retire
  split <;> rfl

theorem coreOf_issued_ne (s : State) {c d : Nat} (n : Nat) (h : d ≠ c) : coreOf (issued s c n) d = coreOf s d :=
  (coreOf_pmc ..).trans (coreOf_modCore_ne _ _ h)

/-- An instruction that issues is charged to its slot; no thread changes. -/
@[simp] theorem thrOf_issued (s : State) (c n d m : Nat) : thrOf (issued s c n) d m = thrOf s d m := by
  rw [thrOf, issued, coreOf_pmc]
  exact thrOf_modCore _ c d m fun _ => rfl

/-- The thread whose instruction has retired with `th`: the PC is that of the next word. -/
theorem thrOf_retired_next1 (s : State) (c n : Nat) (th : Thr) :
    ∃ acc at', thrOf (retired (next1 s c n th) c n) c n =
      { Thr.retire { th with pc := th.pc + 1 } with runAcc := acc, runAt := at' } := by
  obtain ⟨acc, at', hput⟩ := timedThr_eq s (thrOf s c n) { th with pc := th.pc + 1 }
  rw [retired_eq, thrOf_issued, modThr, thrOf_putThr_same, next1, thrOf_putThr_same, hput, Thr.retire_timed]
  obtain ⟨acc', at'', hret⟩ := timedThr_eq (putThr s c n { th with pc := th.pc + 1 })
    { th with pc := th.pc + 1, runAcc := acc, runAt := at' }
    { Thr.retire { th with pc := th.pc + 1 } with runAcc := acc, runAt := at' }
  exact ⟨acc', at'', hret⟩

/-- Settles O53: the thread by what retiring makes of it, the other threads and cores by the rules of the operations,
and the rest because they change the cores alone. -/
theorem retireFrame : Obligations.RetireFrame := by
  refine ⟨fun c n th s => ?_, fun c n th s => ?_, fun c n m th s hm => ?_, fun c n d th s hd => ?_,
    fun c n th s => ?_⟩
  · obtain ⟨acc, at', h⟩ := thrOf_retired_next1 s c n th
    rw [h]
    exact Thr.retire_kept _
  · obtain ⟨acc, at', h⟩ := thrOf_retired_next1 s c n th
    rw [h]
    exact Thr.retire_st _
  · rw [retired_eq, thrOf_issued, modThr, thrOf_putThr_ne _ _ _ hm, next1, thrOf_putThr_ne _ _ _ hm]
  · rw [retired_eq, coreOf_issued_ne _ _ hd, modThr, coreOf_putThr_ne _ _ _ hd, next1, coreOf_putThr_ne _ _ _ hd]
  · obtain ⟨cores, cnt, since, acc, h⟩ := (((CoresOnly.refl s).putThr c n { th with pc := th.pc + 1 }).retired c n)
    exact ⟨_, h, rfl, rfl⟩

end Sys2Proof.Machine

/-! PROOFS. Flow-core instructions: what the issue of each kind of instruction comes to, and arithmetic. -/
namespace Sys2Proof.Machine

/-! ### Issue, by what the instruction does (R249, R250) -/

section
variable {s u : State} {c n : Nat} {op : FcOp} {th : Thr} {i : FcI} {body : State → Thr → FcI → Iss}

/-- An instruction that touches no local memory meets no watchpoint. -/
@[simp] theorem wpApply_nil (s : State) (c n : Nat) : wpApply s c n [] = s := by
  simp [wpApply]

theorem issue_of_done {acc : List (Nat × Nat × Bool)} (h : Issues s c n op th i) (hb : body s th i = .done u acc) :
    issue s c n op body = wpApply (retired u c n) c n acc := by
  rw [issue_runs h, hb]

theorem issue_of_retire (h : Issues s c n op th i) (hb : body s th i = .done u []) :
    issue s c n op body = retired u c n := by
  rw [issue_of_done h hb, wpApply_nil]

theorem issue_of_fault {code : Nat} (h : Issues s c n op th i) (hb : body s th i = .fault code) :
    issue s c n op body = thrFault (issued s c n) c n code := by
  rw [issue_runs h, hb]

theorem issue_of_lost (h : Issues s c n op th i) (hb : body s th i = .lmLost) :
    issue s c n op body = thrFault (issued (coreWear s .coreUncorr c) c n) c n 4 := by
  rw [issue_runs h, hb]

theorem issue_of_wait (h : Issues s c n op th i) (hb : body s th i = .wait u) : issue s c n op body = u := by
  rw [issue_runs h, hb]

/-- The fields of an instruction that is read from a word are those that its table allows (R274). -/
theorem fcFieldsOk_of_fcDecode {w : BitVec 32} (h : fcDecode w = some i) : fcFieldsOk i = true := by
  unfold fcDecode at h
  dsimp only at h
  split at h
  · cases h
  · split at h
    next hok =>
      cases h
      exact hok
    · cases h

theorem fcFieldsOk_of_issues (h : Issues s c n op th i) : fcFieldsOk i = true ∧ i.op = op := by
  obtain ⟨-, -, -, -, -, hword, hop⟩ := h
  exact ⟨fcFieldsOk_of_fcDecode hword, hop⟩

end

/-! ### Arithmetic (R275) -/

section
variable {s : State} {c : CoreId} {n : ThreadId} {op : FcOp} {th : Thr} {i : FcI} {v : DWord}

/-- An instruction of format A retires with its result in rd. -/
theorem alu_next {f : DWord → DWord → DWord} (h : Issues s c.val n.val op th i)
    (hv : f (wget th i.b.val) (wget th i.c.val) = v) :
    (.next (alu s c n op f) : Host.Outcome State Fault Refusal) =
      .next (retired (next1 s c.val n.val (wset th i.a.val v)) c.val n.val) :=
  congrArg _ (hv ▸ issue_of_retire h rfl)

/-- So does one of format B. -/
theorem aluB_next {f : DWord → FcI → DWord} (h : Issues s c.val n.val op th i) (hv : f (wget th i.b.val) i = v) :
    (.next (aluB s c n op f) : Host.Outcome State Fault Refusal) =
      .next (retired (next1 s c.val n.val (wset th i.a.val v)) c.val n.val) :=
  congrArg _ (hv ▸ issue_of_retire h rfl)

end

theorem boolW_decide (P : Prop) [Decidable P] : boolW (decide P) = if P then 1 else 0 := by
  simp [boolW]

theorem udiv_eq_ofNat (a b : DWord) : a.udiv b = BitVec.ofNat 64 (a.toNat / b.toNat) :=
  BitVec.eq_of_toNat_eq (by
    rw [BitVec.toNat_ofNat, Nat.mod_eq_of_lt (Nat.lt_of_le_of_lt (Nat.div_le_self ..) a.isLt)]
    exact BitVec.toNat_udiv)

theorem umod_eq_ofNat (a b : DWord) : a.umod b = BitVec.ofNat 64 (a.toNat % b.toNat) :=
  BitVec.eq_of_toNat_eq (by
    rw [BitVec.toNat_ofNat, Nat.mod_eq_of_lt (Nat.lt_of_le_of_lt (Nat.mod_le ..) a.isLt)]
    exact BitVec.toNat_umod)

/-- The highest set bit of a number decides its leading zeros. -/
theorem clz64_of_bounds {v : DWord} {k : Nat} (hk : k < 64) (hlt : v.toNat < 2 ^ (64 - k))
    (hle : 2 ^ (63 - k) ≤ v.toNat) : clz64 v = BitVec.ofNat 64 k := by
  have hset : v.getLsbD (63 - k) = true := by
    rw [← BitVec.testBit_toNat]
    exact Nat.testBit_of_two_pow_le_and_two_pow_add_one_gt hle (by rwa [show 63 - k + 1 = 64 - k by omega])
  have hclear : ∀ j < k, (!v.getLsbD (63 - j)) = true := by
    intro j hj
    rw [← BitVec.testBit_toNat, Nat.testBit_lt_two_pow
      (Nat.lt_of_lt_of_le hlt (Nat.pow_le_pow_right Nat.two_pos (by omega : 64 - k ≤ 63 - j)))]
    rfl
  have hfind : (List.range 64).find? (fun i => v.getLsbD (63 - i)) = some k :=
    List.find?_range_eq_some.mpr ⟨hset, List.mem_range.mpr hk, hclear⟩
  rw [clz64, hfind]
  rfl

theorem clz64_zero : clz64 0 = 64 := by decide

/-- The shift of EXTU lies in 12 bits, its distance in six of them. -/
theorem extu_distance {i : FcI} (hok : fcFieldsOk i = true) (hop : i.op = .extu) : i.imm / 64 % 64 = i.imm / 64 := by
  have h : i.imm / 2 ^ 12 = 0 := by simpa [fcFieldsOk, hop] using hok
  omega

/-- HWSET writes the halfword that B names, without SX below 4. -/
theorem hwset_of_lt {i : FcI} (h : i.b.val < 4) : hwset i = (BitVec.ofNat 64 i.imm) <<< (16 * i.b.val) := by
  have hsx : i.b.val / 4 % 2 ≠ 1 := by omega
  rw [hwset, Nat.mod_eq_of_lt h]
  exact if_neg hsx

/-- And with SX from 4 on. -/
theorem hwset_of_ge {i : FcI} (hok : fcFieldsOk i = true) (hop : i.op = .hwset) (h : 4 ≤ i.b.val) :
    hwset i = i.simm <<< (16 * (i.b.val - 4)) := by
  have hb : i.b.val / 8 = 0 := by simpa [fcFieldsOk, hop] using hok
  have hsx : i.b.val / 4 % 2 = 1 := by omega
  rw [hwset, show i.b.val % 4 = i.b.val - 4 by omega]
  exact if_pos hsx

theorem hwins_halfword {i : FcI} (hok : fcFieldsOk i = true) (hop : i.op = .hwins) : i.b.val % 4 = i.b.val := by
  have hb : i.b.val / 4 = 0 := by simpa [fcFieldsOk, hop] using hok
  omega

/-- HWINS retires with the halfword of rd that B names replaced. -/
theorem execHwins_next {s : State} {c : CoreId} {n : ThreadId} {th : Thr} {i : FcI}
    (h : Issues s c.val n.val .hwins th i) :
    execHwins c n s = .next (retired (next1 s c.val n.val (wset th i.a.val
      (BitVec.ofNat 64 (setBits (wget th i.a.val).toNat (16 * i.b.val + 15) (16 * i.b.val) i.imm)))) c.val n.val) := by
  obtain ⟨hok, hop⟩ := fcFieldsOk_of_issues h
  unfold execHwins
  rw [issue_of_retire h rfl, hwins_halfword hok hop]

/-- Settles O23: each instruction retires with the value that its row of R275 gives. -/
theorem flowArithmetic : Obligations.FlowArithmetic := by
  refine ⟨fun _ _ _ _ _ h => alu_next h rfl, fun _ _ _ _ _ h => alu_next h rfl, fun _ _ _ _ _ h => alu_next h rfl,
    fun _ _ _ _ _ h => alu_next h rfl, fun _ _ _ _ _ h => alu_next h rfl, fun _ _ _ _ _ h => alu_next h rfl,
    fun _ _ _ _ _ h => alu_next h rfl, fun _ _ _ _ _ h => alu_next h rfl,
    fun _ _ _ _ _ h => alu_next h (boolW_decide _), fun _ _ _ _ _ h => alu_next h (boolW_decide _),
    fun _ _ _ _ _ h => alu_next h rfl, fun _ _ _ _ _ h => alu_next h rfl,
    fun _ _ _ _ _ h => alu_next h (by rw [udiv_eq_ofNat]), fun _ _ _ _ _ h => alu_next h (by rw [umod_eq_ofNat]),
    fun _ _ _ _ _ _ h hk hlt hle => alu_next h (clz64_of_bounds hk hlt hle),
    fun _ _ _ _ _ h hzero => alu_next h (hzero ▸ clz64_zero), fun _ _ _ _ _ h => alu_next h rfl,
    fun _ _ _ _ _ h => aluB_next h rfl, fun _ _ _ _ _ h => aluB_next h rfl, fun _ _ _ _ _ h => aluB_next h rfl,
    fun _ _ _ _ _ h => aluB_next h rfl, fun _ _ _ i _ h => aluB_next h ?extu,
    fun _ _ _ _ _ h hmode => aluB_next h (by rw [hmode]; rfl),
    fun _ _ _ _ _ h hmode => aluB_next h (by rw [hmode]; rfl),
    fun _ _ _ _ _ h hmode => aluB_next h (by rw [hmode]; rfl), fun _ _ _ _ _ h hb => aluB_next h (hwset_of_lt hb),
    fun _ _ _ _ _ h hb => aluB_next h ?hwset, fun _ _ _ _ _ h => execHwins_next h⟩
  case extu =>
    obtain ⟨hok, hop⟩ := fcFieldsOk_of_issues h
    rw [extu_distance hok hop]
  case hwset =>
    obtain ⟨hok, hop⟩ := fcFieldsOk_of_issues h
    exact hwset_of_ge hok hop hb

end Sys2Proof.Machine

/-! PROOFS. Flow-core instructions: branches, jumps, special registers, loads and stores. -/
namespace Sys2Proof.Machine

/-! ### Branches, jumps and special registers (R271, R275, R279) -/

section
variable {s : State} {c : CoreId} {n : ThreadId} {op : FcOp} {th : Thr} {i : FcI}

/-- A branch goes to its target where its condition holds, else to the next word. -/
theorem branch_next {p : DWord → DWord → Bool} {P : Prop} [Decidable P] (h : Issues s c.val n.val op th i)
    (hp : p (wget th i.a.val) (wget th i.b.val) = true ↔ P) :
    (.next (branch s c n op p) : Host.Outcome State Fault Refusal) =
      .next (retired (putThr s c.val n.val { th with pc := if P then pcPlus th.pc 16 i.imm else th.pc + 1 })
        c.val n.val) := by
  unfold branch
  rw [issue_of_retire h rfl]
  simp only [hp]

theorem sge_iff (a b : DWord) : (!a.slt b) = true ↔ b.toInt ≤ a.toInt := by
  simp [BitVec.slt]

theorem uge_iff (a b : DWord) : (!a.ult b) = true ↔ b.toNat ≤ a.toNat := by
  simp [BitVec.ult]

/-- An instruction that touches no local memory answers the state in which it has retired. -/
theorem next_of_retire {u : State} {body : State → Thr → FcI → Iss} (h : Issues s c.val n.val op th i)
    (hb : body s th i = .done u []) :
    (.next (issue s c.val n.val op body) : Host.Outcome State Fault Refusal) = .next (retired u c.val n.val) :=
  congrArg _ (issue_of_retire h hb)

/-- CSUM of at most 4,096 bytes without a seed retires with their checksum (R286). -/
theorem execCsum_next (h : Issues s c.val n.val .csum th i) (hlen : (wget th i.c.val).toNat ≤ 4096)
    (hin : (wget th i.c.val).toNat = 0 ∨ inSlice s c.val n.val (wget th i.b.val).toNat (wget th i.c.val).toNat = true)
    (hheld : heldBytes th (wget th i.b.val).toNat (wget th i.c.val).toNat = false) (hseed : i.lo.val = 0) :
    execCsum c n .ok s = .next (wpApply (retired (next1 s c.val n.val (wset th i.a.val (BitVec.ofNat 64
      (foldSum (onesSum (lmRead s c.val (wget th i.b.val).toNat (wget th i.c.val).toNat) 0))))) c.val n.val)
      c.val n.val [((wget th i.b.val).toNat, (wget th i.c.val).toNat, false)]) := by
  have hslice : ¬((wget th i.c.val).toNat ≠ 0 ∧
      (!inSlice s c.val n.val (wget th i.b.val).toNat (wget th i.c.val).toNat) = true) := by
    rintro ⟨hne, hout⟩
    simp [hin.resolve_left hne] at hout
  refine congrArg Host.Outcome.next (issue_of_done h ?_)
  dsimp only
  rw [if_neg hslice, if_neg (by simp [hheld]), ite_self]
  dsimp only [lmCheck]
  rw [if_neg (Nat.not_lt.mpr hlen), hseed]
  rfl

end

/-- Settles O24: a branch by its condition, the others by what they store of the thread. -/
theorem flowControlTransfer : Obligations.FlowControlTransfer :=
  ⟨fun _ _ _ _ _ h => branch_next h beq_iff_eq, fun _ _ _ _ _ h => branch_next h bne_iff_ne,
    fun _ _ _ _ _ h => branch_next h decide_eq_true_iff, fun _ _ _ _ _ h => branch_next h (sge_iff _ _),
    fun _ _ _ _ _ h => branch_next h decide_eq_true_iff, fun _ _ _ _ _ h => branch_next h (uge_iff _ _),
    fun _ _ _ _ _ h => next_of_retire h rfl, fun _ _ _ _ _ h => next_of_retire h rfl,
    fun _ _ _ _ _ h => next_of_retire h rfl, fun _ _ _ _ _ h => next_of_retire h rfl,
    fun _ _ _ _ _ h => next_of_retire h rfl,
    fun _ _ _ _ _ h hlen hin hheld hseed => execCsum_next h hlen hin hheld hseed,
    fun _ _ _ _ _ h => next_of_retire h rfl⟩

/-! ### Loads and stores (R253, R266, R276) -/

section
variable {s : State} {c : CoreId} {n : ThreadId} {op : FcOp} {th : Thr} {i : FcI} {k : Nat} {be : Bool} {e : LmErr}

/-- Local address of a load or store. -/
def FcI.lmAt (i : FcI) (th : Thr) : Nat := (wget th i.b.val + i.simm).toNat

/-- The low bytes of rd, in the order of the store. -/
def FcI.stBytes (i : FcI) (th : Thr) (be : Bool) (k : Nat) : List Byte :=
  if be then beBytes k (wget th i.a.val).toNat else leBytes k (wget th i.a.val).toNat

/-- An access in the slice to bytes that no request holds comes to what its check of the memory makes of it (R253,
R282). -/
theorem access_inside {a : Nat} {f : State → Iss} (hin : inSlice s c.val n.val a k = true)
    (hheld : heldBytes th a k = false) :
    (if !inSlice s c.val n.val a k then .fault 1 else if heldBytes th a k then .hold else lmCheck s c.val e f) =
      lmCheck s c.val e f := by
  simp only [hin, hheld, Bool.not_true, Bool.false_eq_true, if_false]

/-- Outside the slice it faults SLICE (R253). -/
theorem access_outside {a : Nat} {x : Iss} (hout : inSlice s c.val n.val a k = false) :
    (if !inSlice s c.val n.val a k then .fault 1 else x) = .fault 1 := by
  simp only [hout, Bool.not_false, if_true]

/-- A load in the slice of bytes that no request holds retires with them in rd. -/
theorem load_next (h : Issues s c.val n.val op th i) (hin : inSlice s c.val n.val (i.lmAt th) k = true)
    (hheld : heldBytes th (i.lmAt th) k = false) :
    (.next (load s c n op k be .ok) : Host.Outcome State Fault Refusal) =
      .next (wpApply (retired (next1 s c.val n.val (wset th i.a.val (BitVec.ofNat 64
        (if be then beNat (lmRead s c.val (i.lmAt th) k) else leNat (lmRead s c.val (i.lmAt th) k)))))
        c.val n.val) c.val n.val [(i.lmAt th, k, false)]) :=
  congrArg Host.Outcome.next (issue_of_done h (access_inside hin hheld))

/-- Outside the slice it faults SLICE. -/
theorem load_outside (h : Issues s c.val n.val op th i) (hout : inSlice s c.val n.val (i.lmAt th) k = false) :
    (.next (load s c n op k be e) : Host.Outcome State Fault Refusal) =
      .next (thrFault (issued s c.val n.val) c.val n.val 1) :=
  congrArg Host.Outcome.next (issue_of_fault h (access_outside hout))

/-- A load that meets bytes that cannot be corrected faults LM_ECC, and the error comes to its monitor. -/
theorem load_lost (h : Issues s c.val n.val op th i) (hin : inSlice s c.val n.val (i.lmAt th) k = true)
    (hheld : heldBytes th (i.lmAt th) k = false) :
    (.next (load s c n op k be .lost) : Host.Outcome State Fault Refusal) =
      .next (thrFault (issued (coreWear s .coreUncorr c.val) c.val n.val) c.val n.val 4) :=
  congrArg Host.Outcome.next (issue_of_lost h (access_inside hin hheld))

/-- A store in the slice of bytes that no request holds writes the low bytes of rd and retires. -/
theorem store_next (h : Issues s c.val n.val op th i) (hin : inSlice s c.val n.val (i.lmAt th) k = true)
    (hheld : heldBytes th (i.lmAt th) k = false) :
    (.next (store s c n op k be .ok) : Host.Outcome State Fault Refusal) =
      .next (wpApply (retired (takeInbox (lmWrite (next1 s c.val n.val th) c.val (i.lmAt th) (i.stBytes th be k))
        c.val n.val) c.val n.val) c.val n.val [(i.lmAt th, k, true)]) :=
  congrArg Host.Outcome.next (issue_of_done h (access_inside hin hheld))

theorem store_outside (h : Issues s c.val n.val op th i) (hout : inSlice s c.val n.val (i.lmAt th) k = false) :
    (.next (store s c n op k be e) : Host.Outcome State Fault Refusal) =
      .next (thrFault (issued s c.val n.val) c.val n.val 1) :=
  congrArg Host.Outcome.next (issue_of_fault h (access_outside hout))

theorem store_lost (h : Issues s c.val n.val op th i) (hin : inSlice s c.val n.val (i.lmAt th) k = true)
    (hheld : heldBytes th (i.lmAt th) k = false) :
    (.next (store s c n op k be .lost) : Host.Outcome State Fault Refusal) =
      .next (thrFault (issued (coreWear s .coreUncorr c.val) c.val n.val) c.val n.val 4) :=
  congrArg Host.Outcome.next (issue_of_lost h (access_inside hin hheld))

end

/-- Settles O25: the seven loads, one that meets an error, the six stores and one that meets an error. -/
theorem flowLoadsAndStores : Obligations.FlowLoadsAndStores :=
  ⟨fun _ _ _ _ _ h hin hheld => load_next h hin hheld, fun _ _ _ _ _ _ h hout => load_outside h hout,
    fun _ _ _ _ _ h hin hheld => load_next h hin hheld, fun _ _ _ _ _ _ h hout => load_outside h hout,
    fun _ _ _ _ _ h hin hheld => load_next h hin hheld, fun _ _ _ _ _ _ h hout => load_outside h hout,
    fun _ _ _ _ _ h hin hheld => load_next h hin hheld, fun _ _ _ _ _ _ h hout => load_outside h hout,
    fun _ _ _ _ _ h hin hheld => load_next h hin hheld, fun _ _ _ _ _ _ h hout => load_outside h hout,
    fun _ _ _ _ _ h hin hheld => load_next h hin hheld, fun _ _ _ _ _ _ h hout => load_outside h hout,
    fun _ _ _ _ _ h hin hheld => load_next h hin hheld, fun _ _ _ _ _ _ h hout => load_outside h hout,
    fun _ _ _ _ _ h hin hheld => load_lost h hin hheld,
    fun _ _ _ _ _ h hin hheld => store_next h hin hheld, fun _ _ _ _ _ _ h hout => store_outside h hout,
    fun _ _ _ _ _ h hin hheld => store_next h hin hheld, fun _ _ _ _ _ _ h hout => store_outside h hout,
    fun _ _ _ _ _ h hin hheld => store_next h hin hheld, fun _ _ _ _ _ _ h hout => store_outside h hout,
    fun _ _ _ _ _ h hin hheld => store_next h hin hheld, fun _ _ _ _ _ _ h hout => store_outside h hout,
    fun _ _ _ _ _ h hin hheld => store_next h hin hheld, fun _ _ _ _ _ _ h hout => store_outside h hout,
    fun _ _ _ _ _ h hin hheld => store_next h hin hheld, fun _ _ _ _ _ _ h hout => store_outside h hout,
    fun _ _ _ _ _ h hin hheld => store_lost h hin hheld⟩

/-! ### What a store leaves (R253, R272) -/

/-- Taking inbox entries leaves the registers of every thread. -/
theorem regs_takeInbox (s : State) (c t d m : Nat) : (thrOf (takeInbox s c t) d m).regs = (thrOf s d m).regs := by
  unfold takeInbox
  dsimp only
  split
  · exact regs_modThr s c t d m fun _ => rfl
  · rfl

theorem haltThr_regs (th : Thr) : (haltThr th).regs = th.regs := by
  unfold haltThr
  (repeat' split) <;> rfl

theorem regs_haltMask (s : State) (c mask d m : Nat) : (thrOf (haltMask s c mask) d m).regs = (thrOf s d m).regs :=
  List.foldlRecOn (motive := fun u => (thrOf u d m).regs = (thrOf s d m).regs) _ _ rfl fun u hu t _ => by
    split
    · exact (regs_modThr u c t d m haltThr_regs).trans hu
    · exact hu

/-- Watchpoints halt threads and leave their registers. -/
theorem regs_wpApply (s : State) (c t d m : Nat) (acc : List (Nat × Nat × Bool)) :
    (thrOf (wpApply s c t acc) d m).regs = (thrOf s d m).regs := by
  unfold wpApply
  dsimp only
  split
  · rfl
  · split
    · exact regs_haltMask ..
    · exact regs_modThr s c t d m haltThr_regs

theorem regs_retired (s : State) (c t d m : Nat) : (thrOf (retired s c t) d m).regs = (thrOf s d m).regs := by
  rw [retired_eq, thrOf_issued]
  refine regs_modThr s c t d m fun th => ?_
  obtain ⟨hregs, -⟩ := Thr.retire_kept th
  exact hregs

/-- The registers of a stored thread are those it is stored with. -/
theorem regs_next1 (s : State) (c t : Nat) (th : Thr) : (thrOf (next1 s c t th) c t).regs = th.regs := by
  obtain ⟨acc, at', h⟩ := timedThr_eq s (thrOf s c t) { th with pc := th.pc + 1 }
  rw [next1, thrOf_putThr_same, h]

/-- A change of the cores leaves the memories and the register file. -/
theorem CoresOnly.memories {s t : State} (h : CoresOnly s t) :
    t.lmem = s.lmem ∧ t.mere = s.mere ∧ t.sysmem = s.sysmem ∧ t.fwmem = s.fwmem ∧ t.regs = s.regs := by
  obtain ⟨cores, cnt, since, acc, rfl⟩ := h
  exact ⟨rfl, rfl, rfl, rfl, rfl⟩

theorem leBytes_length (n v : Nat) : (leBytes n v).length = n := by
  induction n generalizing v with
  | zero => rfl
  | succ n ih => exact congrArg (· + 1) (ih _)

theorem FcI.stBytes_length (i : FcI) (th : Thr) (be : Bool) (k : Nat) : (i.stBytes th be k).length = k := by
  cases be
  · exact leBytes_length ..
  · exact (List.length_reverse ..).trans (leBytes_length ..)

section
variable {s : State} {c : CoreId} {n : ThreadId} {op : FcOp} {th : Thr} {i : FcI} {k : Nat} {be : Bool}

/-- A store puts its bytes into the local memory, and leaves the other bytes, the other memories, the register file and
the general registers of the thread. -/
theorem store_frame (h : Issues s c.val n.val op th i) (hin : inSlice s c.val n.val (i.lmAt th) k = true)
    (hheld : heldBytes th (i.lmAt th) k = false) :
    ∃ t, (.next (store s c n op k be .ok) : Host.Outcome State Fault Refusal) = .next t ∧
      readMem t.lmem (lmAddr c.val (i.lmAt th)) k = i.stBytes th be k ∧
      (∀ x, x < lmAddr c.val (i.lmAt th) ∨ lmAddr c.val (i.lmAt th) + k ≤ x →
        readByte t.lmem x = readByte s.lmem x) ∧
      t.mere = s.mere ∧ t.sysmem = s.sysmem ∧ t.fwmem = s.fwmem ∧ t.regs = s.regs ∧
      (thrOf t c.val n.val).regs = th.regs := by
  have hstored := (CoresOnly.refl s).putThr c.val n.val { th with pc := th.pc + 1 }
  obtain ⟨hlmem, hmere, hsysmem, hfwmem, hreg⟩ := hstored.memories
  have hwritten := (((CoresOnly.refl (lmWrite (next1 s c.val n.val th) c.val (i.lmAt th) (i.stBytes th be k))).takeInbox
    c.val n.val).retired c.val n.val).wpApply c.val n.val [(i.lmAt th, k, true)]
  obtain ⟨hlmem', hmere', hsysmem', hfwmem', hreg'⟩ := hwritten.memories
  have hbytes := hlmem'.trans (congrArg (writeMem · (lmAddr c.val (i.lmAt th)) (i.stBytes th be k)) hlmem)
  refine ⟨_, store_next h hin hheld, ?_, fun x hx => ?_, hmere'.trans hmere, hsysmem'.trans hsysmem,
    hfwmem'.trans hfwmem, hreg'.trans hreg, ?_⟩
  · have hread := readMem_writeMem (i.stBytes th be k) s.lmem (lmAddr c.val (i.lmAt th))
    rw [hbytes]
    rwa [FcI.stBytes_length] at hread
  · rw [hbytes]
    exact readByte_writeMem_outside _ _ _ _ (by rwa [FcI.stBytes_length])
  · rw [regs_wpApply, regs_retired, regs_takeInbox]
    exact regs_next1 s c.val n.val th

end

/-- Settles O54: each of the six stores is one. -/
theorem storeFrame : Obligations.StoreFrame :=
  ⟨fun _ _ _ _ _ h hin hheld => store_frame h hin hheld, fun _ _ _ _ _ h hin hheld => store_frame h hin hheld,
    fun _ _ _ _ _ h hin hheld => store_frame h hin hheld, fun _ _ _ _ _ h hin hheld => store_frame h hin hheld,
    fun _ _ _ _ _ h hin hheld => store_frame h hin hheld, fun _ _ _ _ _ h hin hheld => store_frame h hin hheld⟩

end Sys2Proof.Machine

/-! PROOFS. Flow cores: events, the timer, the watchdog, mutual wait, and faults of a thread. -/
namespace Sys2Proof.Machine

/-! ### EVWAIT, EVSEND and TMSET (R278) -/

section
variable {s : State} {c : CoreId} {n : ThreadId} {th : Thr} {i : FcI}

/-- EVWAIT with a pending bit of its mask takes the bits. -/
theorem execEvwait_takes (h : Issues s c.val n.val .evwait th i)
    (hhit : Nat.land th.ev ((wget th i.b.val).toNat % 2 ^ 32) ≠ 0) :
    execEvwait c n s = .next (retired (next1 s c.val n.val
      { wset th i.a.val (BitVec.ofNat 64 (Nat.land th.ev ((wget th i.b.val).toNat % 2 ^ 32))) with
        ev := th.ev - Nat.land th.ev ((wget th i.b.val).toNat % 2 ^ 32) }) c.val n.val) := by
  have hmask : (wget th i.b.val).toNat % 2 ^ 32 ≠ 0 := fun hm => hhit (by rw [hm]; exact Nat.and_zero _)
  exact next_of_retire h ((if_neg hmask).trans (if_pos hhit))

/-- EVWAIT with none waits; a wait on neither bit 16 nor bit 17 is watched (R263). -/
theorem execEvwait_waits (h : Issues s c.val n.val .evwait th i)
    (hhit : Nat.land th.ev ((wget th i.b.val).toNat % 2 ^ 32) = 0) (hmask : (wget th i.b.val).toNat % 2 ^ 32 ≠ 0)
    (hstep : th.stepping = false) :
    execEvwait c n s = .next (putThr (issued s c.val n.val) c.val n.val { th with
      st := .waiting, wait := some ((wget th i.b.val).toNat % 2 ^ 32, i.a.val)
      wd := if bitOf ((wget th i.b.val).toNat % 2 ^ 32) 16 ∨ bitOf ((wget th i.b.val).toNat % 2 ^ 32) 17 then none
        else some (th.wd.getD (wdClock s)) }) :=
  congrArg Host.Outcome.next (issue_of_wait h ((if_neg hmask).trans
    ((if_neg fun hne => hne hhit).trans (if_neg (ne_true_of_eq_false hstep)))))

/-- EVSEND to a thread of the own core that takes it makes the bit pending there. -/
theorem execEvsend_own (h : Issues s c.val n.val .evsend th i) (hown : bitsOf (wget th i.b.val).toNat 23 16 = 255)
    (hbit : i.imm % 32 < 16) (hcore : (coreOf s c.val).st = .running)
    (htake : (thrOf (next1 s c.val n.val th) c.val ((wget th i.b.val).toNat % 16)).st = .running ∨
      (thrOf (next1 s c.val n.val th) c.val ((wget th i.b.val).toNat % 16)).st = .waiting) :
    execEvsend c n s = .next (retired (setEvent (next1 s c.val n.val th) c.val ((wget th i.b.val).toNat % 16)
      (2 ^ (i.imm % 32))) c.val n.val) := by
  have hallowed : ¬(c.val = c.val ∧ i.imm % 32 > 15 ∨ c.val ≠ c.val ∧ i.imm % 32 < 24) := by omega
  have htaken : ¬((coreOf (next1 s c.val n.val th) c.val).st ≠ .running ∨
      (thrOf (next1 s c.val n.val th) c.val ((wget th i.b.val).toNat % 16)).st = .empty ∨
      (thrOf (next1 s c.val n.val th) c.val ((wget th i.b.val).toNat % 16)).st = .faulted) := by
    obtain ⟨act, hput⟩ := coreOf_putThr_same s c.val n.val { th with pc := th.pc + 1 }
    rw [next1, hput] at *
    rcases htake with ht | ht <;> simp [ht, hcore]
  refine next_of_retire h ?_
  dsimp only
  rw [if_pos hown, if_neg hallowed, if_neg htaken]

end

/-! ### Cores that hold nothing (R265) -/

/-- A change of a core that leaves its record puts that record into the map. -/
theorem modCore_of_eq {s : State} {c : Nat} {f : Core → Core} {k : Core} (h : f (coreOf s c) = k) :
    modCore s c f = { s with cores := mset s.cores c k } := by
  rw [modCore, h]

/-- A core that holds no buffer releases none. -/
theorem releaseHeld_none {s : State} {c : Nat} (p : Nat → Bool) (h : (coreOf s c).held = []) :
    releaseHeld s c p = modCore s c id := by
  unfold releaseHeld
  dsimp only
  rw [h, modCore_of_eq (k := coreOf s c) (by rw [h]; exact congrArg (fun l => { coreOf s c with held := l }) h.symm)]
  rfl

/-! ### Mutual wait (R261, R270) -/

/-- A core that holds nothing, cleared: its inboxes and staging slots are gone. -/
def Core.cleared (k : Core) : Core :=
  { k with threads := mmap (fun _ th => { th with inbox := [], slot := [] }) k.threads }

/-- Clearing a core that holds nothing discards its inboxes and staging slots (R270). -/
theorem clearCore_idle {s : State} {c : Nat} (st : Status) (hheld : (coreOf s c).held = [])
    (hrings : ringsOf s c = []) (hboxes : ∀ x ∈ (coreOf s c).threads, x.2.inbox = []) :
    clearCore s c st = modCore s c Core.cleared := by
  have hnone : ((coreOf s c).threads.flatMap fun t => t.2.inbox.map (·.2)) = [] :=
    List.flatMap_eq_nil_iff.mpr fun x hx => by rw [hboxes x hx]; rfl
  have hrings' : ringsOf (modCore s c Core.cleared) c = [] := hrings
  have hheld' : (coreOf (modCore s c Core.cleared) c).held = [] := by rw [coreOf_modCore_same]; exact hheld
  unfold clearCore
  dsimp only
  rw [hnone]
  exact (congrArg (releaseHeld · c fun _ => true) (congrArg (List.foldl _ _) hrings')).trans
    ((releaseHeld_none _ hheld').trans (modCore_modCore ..))

/-- Clearing leaves what the threads have run (R252). -/
theorem dropThreads_cleared (s : State) (k : Core) : (dropThreads s k.cleared).accs = (dropThreads s k).accs := by
  have hfold (l : Map Thr) : ∀ m : Map Nat,
      (mmap (fun _ th => { th with inbox := [], slot := [] }) l).foldl
          (fun m x => mset m x.1 (mget 0 m x.1 + runTime s x.2)) m =
        l.foldl (fun m x => mset m x.1 (mget 0 m x.1 + runTime s x.2)) m := by
    induction l with
    | nil => exact fun _ => rfl
    | cons x l ih => exact fun m => ih _
  exact hfold k.threads k.accs

/-- With no thread HALTED and no halted time running, the clock of halted time stays. -/
theorem haltClock_of_none {s : State} (hany : anyHalted s = false) (hsince : s.dbg.haltSince = none) :
    haltClock s = s := by
  simp [haltClock, hany, hsince]

/-- A core without threads brings no HALTED one. -/
theorem anyHalted_mset {s : State} {c : Nat} {k : Core} (hany : anyHalted s = false) (hk : k.threads = []) :
    anyHalted { s with cores := mset s.cores c k } = false := by
  unfold anyHalted at *
  rw [List.any_eq_false] at hany ⊢
  exact forall_mset s.cores c k (fun k => ¬(k.threads.any fun t => decide (t.2.st = .halted)) = true)
    (by simp [hk]) hany

/-- A field reads alike where the register file is the same. -/
theorem rd_of_regs {s t : State} (h : t.regs = s.regs) (f : Fd) (i j : Nat) : rd t f i j = rd s f i j := by
  simp only [rd, rget, level, h]

/-- A core that restarts for the first time: what its threads ran is kept (R252, R269). -/
def Core.restarted (s : State) (k : Core) : Core :=
  { k with
    st := .restarting, threads := [], accs := (dropThreads s k).accs, restarts := [s.clk], lastAct := s.clk
    stopAt := s.clk }

/-- The restart of a cleared core, the first within 1 s and below the limit (R269). -/
theorem restartCore_of_clear {s u : State} {c : Nat} (hu : clearCore s c .workDiscarded = u)
    (hfirst : (coreOf u c).restarts = []) (hmax : 1 ≤ rd u F.FC_FAULT_POLICY_RESTART_MAX 0 c) :
    restartCore s c true =
      raise (raise (haltClock (modCore u c (Core.restarted u))) .fcCoreRestart c) .mutualWait c := by
  have hoff : ¬[u.clk].length > rd u F.FC_FAULT_POLICY_RESTART_MAX 0 c := Nat.not_lt.mpr hmax
  unfold restartCore
  rw [hu]
  dsimp only
  rw [hfirst, List.filter_nil]
  simp only [if_neg hoff, if_true]
  rfl

/-- The fault code of mutual wait (R266). -/
def Core.mutual (k : Core) : Core := { k with fCode := 9 }

/-- MUTUAL_WAIT of a core that holds nothing restarts it with code 9 (R261). -/
theorem execMutualWait_idle {s : State} {c : CoreId} (hrun : (coreOf s c.val).st = .running)
    (hwait : mutualWait (coreOf s c.val) = true) (hdue : (coreOf s c.val).lastAct + 512000 ≤ s.clk)
    (hfirst : (coreOf s c.val).restarts = []) (hheld : (coreOf s c.val).held = []) (hrings : ringsOf s c.val = [])
    (hboxes : ∀ x ∈ (coreOf s c.val).threads, x.2.inbox = [])
    (hmax : 1 ≤ rd s F.FC_FAULT_POLICY_RESTART_MAX 0 c.val) (hany : anyHalted s = false)
    (hsince : s.dbg.haltSince = none) :
    execMutualWait c s = .next (raise (raise { s with
      cores := mset s.cores c.val (Core.restarted s (coreOf s c.val)).mutual } .fcCoreRestart c.val)
      .mutualWait c.val) := by
  have hcoreOf : coreOf (modCore s c.val Core.mutual) c.val = (coreOf s c.val).mutual := coreOf_modCore_same ..
  have hclear : clearCore (modCore s c.val Core.mutual) c.val .workDiscarded =
      modCore s c.val fun k => k.mutual.cleared :=
    (clearCore_idle (s := modCore s c.val Core.mutual) _ (by rw [hcoreOf]; exact hheld) hrings
      (by rw [hcoreOf]; exact hboxes)).trans (modCore_modCore ..)
  have hfirst' : (coreOf (modCore s c.val fun k => k.mutual.cleared) c.val).restarts = [] := by
    rw [coreOf_modCore_same]
    exact hfirst
  have hcore : Core.restarted (modCore s c.val fun k => k.mutual.cleared) (coreOf s c.val).mutual.cleared =
      (Core.restarted s (coreOf s c.val)).mutual :=
    congrArg (fun accs => { (Core.restarted s (coreOf s c.val)).mutual with accs := accs })
      (dropThreads_cleared s (coreOf s c.val).mutual)
  refine (if_pos ⟨.inl hrun, hwait, hdue⟩).trans (congrArg Host.Outcome.next ?_)
  refine (restartCore_of_clear hclear hfirst' hmax).trans ?_
  rw [modCore_modCore, modCore_of_eq hcore, haltClock_of_none (anyHalted_mset hany rfl) hsince]

/-! ### Faults of a thread (R266, R267) -/

/-- Where a thread faults the core notes it. -/
def faultNoted (s : State) (c t code : Nat) : State :=
  modCore s c fun k => { k with fCode := code, fThread := t, fPc := (thrOf s c t).pc % 2 ^ 24 }

/-- A faulted thread: it waits for nothing, and its staging slot is gone. -/
def Thr.faultedThr (th : Thr) : Thr :=
  { th with
    st := .faulted, slot := [], stall := none, postWait := false, haltPend := false, stepping := false, wait := none
    wd := none }

/-- The thread is faulted and its event raised. -/
def faultRaised (s : State) (c t code : Nat) : State :=
  raise (modThr (faultNoted s c t code) c t Thr.faultedThr) .fcThreadFault c

/-- Under POLICY 2 or more a fault leaves the thread faulted, and the event is raised and counted. -/
theorem thrFault_stays {s : State} {c t code : Nat} (h : 2 ≤ rd s F.FC_FAULT_POLICY_POLICY 0 c) :
    thrFault s c t code =
      pmc (faultRaised s c t code) c t 16 1 := by
  obtain ⟨cnt, hpmc⟩ := pmc_frame (faultRaised s c t code) c t 16 1
  have hstored := (((CoresOnly.refl s).modCore c fun k =>
    { k with fCode := code, fThread := t, fPc := (thrOf s c t).pc % 2 ^ 24 }).modThr c t Thr.faultedThr)
  obtain ⟨-, -, -, -, hregs⟩ := hstored.memories
  have hpolicy : rd (pmc (faultRaised s c t code) c t 16 1)
      F.FC_FAULT_POLICY_POLICY 0 c = rd s F.FC_FAULT_POLICY_POLICY 0 c :=
    rd_of_regs (by rw [hpmc]; exact (raise_regs ..).trans hregs) ..
  unfold thrFault
  dsimp only
  split
  next h0 => exact absurd (hpolicy.symm.trans h0) (by omega)
  next h1 => exact absurd (hpolicy.symm.trans h1) (by omega)
  next => rfl

/-- The queue of events after a raise, by the Lockkeeper's state and the time. -/
theorem raise_lk_of_cores {s t : State} (h : CoresOnly s t) (e : Ev) (i : Nat) :
    (raise t e i).lk = (raise s e i).lk := by
  obtain ⟨cores, cnt, since, acc, rfl⟩ := h
  unfold raise
  split
  · rfl
  · dsimp only
    split <;> rfl

/-- WATCHDOG of a watched wait beyond the limit (R263). -/
theorem execWatchdog_due {s : State} {c : CoreId} {n : ThreadId} {w : Nat} (hwd : (thrOf s c.val n.val).wd = some w)
    (hen : rd s F.FC_WDOG_EN 0 c.val = 1) (hwatched : watched (thrOf s c.val n.val) = true)
    (hdue : w + usec (rd s F.FC_WDOG_LIMIT 0 c.val) ≤ wdClock s) :
    execWatchdog c n s = .next (thrFault s c.val n.val 7) := by
  unfold execWatchdog
  dsimp only
  rw [hwd]
  exact if_pos ⟨hen, hwatched, hdue⟩

/-- What a fault under POLICY 2 or more leaves of the thread, its core and the queue of events. -/
theorem thrFault_stays_faulted {s : State} {c t code : Nat} (h : 2 ≤ rd s F.FC_FAULT_POLICY_POLICY 0 c) :
    (thrOf (thrFault s c t code) c t).st = .faulted ∧ (thrOf (thrFault s c t code) c t).wd = none ∧
      (coreOf (thrFault s c t code) c).fCode = code ∧ (coreOf (thrFault s c t code) c).fThread = t ∧
      (thrFault s c t code).lk = (raise s .fcThreadFault c).lk := by
  have hnoted := (CoresOnly.refl s).modCore c fun k =>
    { k with fCode := code, fThread := t, fPc := (thrOf s c t).pc % 2 ^ 24 }
  obtain ⟨cnt, hpmc⟩ := pmc_frame (faultRaised s c t code) c t 16 1
  obtain ⟨act, hcore⟩ := coreOf_putThr_same (faultNoted s c t code) c t
    (Thr.faultedThr (thrOf (faultNoted s c t code) c t))
  obtain ⟨acc, at', hthr⟩ := timedThr_eq (faultNoted s c t code) (thrOf (faultNoted s c t code) c t)
    (Thr.faultedThr (thrOf (faultNoted s c t code) c t))
  have hcoreOf : coreOf (thrFault s c t code) c =
      coreOf (modThr (faultNoted s c t code) c t Thr.faultedThr) c := by
    rw [thrFault_stays h, coreOf_pmc, coreOf, faultRaised, raise_cores]
    rfl
  have hthrOf : thrOf (thrFault s c t code) c t =
      { Thr.faultedThr (thrOf (faultNoted s c t code) c t) with runAcc := acc, runAt := at' } := by
    rw [thrOf, hcoreOf]
    exact (thrOf_putThr_same ..).trans hthr
  refine ⟨by rw [hthrOf]; rfl, by rw [hthrOf]; rfl, ?_, ?_, ?_⟩
  · rw [hcoreOf, modThr, hcore, faultNoted, coreOf_modCore_same]
  · rw [hcoreOf, modThr, hcore, faultNoted, coreOf_modCore_same]
  · rw [thrFault_stays h, hpmc]
    exact raise_lk_of_cores (hnoted.modThr c t _) _ _

/-- Settles O26: the rules of EVWAIT, EVSEND and TMSET, of the timer and the watchdog, and of mutual wait. -/
theorem flowEventsAndTimer : Obligations.FlowEventsAndTimer := by
  refine ⟨fun _ _ _ _ _ h hhit => execEvwait_takes h hhit,
    fun c n th i s h hhit hmask hstep hbits => (execEvwait_waits h hhit hmask hstep).trans (by rw [if_pos hbits]),
    fun c n th i s h hhit hmask hstep hwd hbits => ?watched,
    fun _ _ _ _ _ h hown hbit hcore htake => execEvsend_own h hown hbit hcore htake,
    fun c n th i s h hset => next_of_retire h (by dsimp only; rw [if_neg hset]),
    fun c n th i s h hset => next_of_retire h (by dsimp only; rw [if_pos hset]),
    fun c n d s htimer hdue hlive => ?timer,
    fun _ _ _ _ hwd hen hwatched hdue => execWatchdog_due hwd hen hwatched hdue,
    fun _ _ hrun hwait hdue hfirst hheld hrings hboxes hmax hany hsince =>
      execMutualWait_idle hrun hwait hdue hfirst hheld hrings hboxes hmax hany hsince,
    fun c n w s hwd hen hwatched hdue hpolicy =>
      ⟨_, execWatchdog_due hwd hen hwatched hdue, thrFault_stays_faulted hpolicy⟩⟩
  case watched =>
    obtain ⟨h16, h17⟩ := hbits
    refine (execEvwait_waits h hhit hmask hstep).trans ?_
    rw [if_neg (not_or.mpr ⟨ne_true_of_eq_false h16, ne_true_of_eq_false h17⟩), hwd]
    rfl
  case timer =>
    unfold exec execTimerExpire
    dsimp only
    rw [htimer]
    exact if_pos ⟨hdue, hlive⟩

end Sys2Proof.Machine

/-! PROOFS. Flow cores: start, stop, drain, reload, and the restart of a thread. -/
namespace Sys2Proof.Machine

/-! ### What becomes of the record of a core -/

/-- The clock of halted time changes nothing else (R264). -/
theorem haltClock_frame (s : State) : haltClock s = { s with dbg := (haltClock s).dbg } := by
  unfold haltClock
  split <;> rfl

/-- A thread is stored in its core; the record of the halted time may change with it. -/
theorem putThr_frame (s : State) (c t : Nat) (th : Thr) :
    ∃ cores dbg, putThr s c t th = { s with cores := cores, dbg := dbg } := by
  rw [putThr_eq]
  split
  · exact ⟨_, s.dbg, rfl⟩
  · exact ⟨_, _, haltClock_frame _⟩

/-- A core that is STOPPED: its threads are EMPTY (R251, R269). -/
def Core.stopped (s : State) (k : Core) : Core :=
  { k with
    st := .stopped, threads := [], accs := (dropThreads s k).accs, stopAt := s.clk, lastAct := s.clk }

theorem coreStopped_frame (s : State) (c : Nat) :
    coreStopped s c =
      { s with cores := mset s.cores c (Core.stopped s (coreOf s c)), dbg := (coreStopped s c).dbg } :=
  haltClock_frame _

/-- The same of a core whose record has been written back. -/
theorem coreStopped_modCore_id (s : State) (c : Nat) :
    ∃ dbg, coreStopped (modCore s c id) c =
      { s with cores := mset s.cores c (Core.stopped s (coreOf s c)), dbg := dbg } := by
  have hcores : (modCore s c id).cores = mset s.cores c (coreOf s c) := rfl
  refine ⟨(coreStopped (modCore s c id) c).dbg, (coreStopped_frame (modCore s c id) c).trans ?_⟩
  rw [coreOf_modCore_same, hcores, mset_mset]
  rfl

/-- A core that holds no buffer takes no descriptor back to a ring. -/
theorem returnDescs_nil {s : State} {c : Nat} (h : (coreOf s c).held = []) :
    returnDescs s c [] = modCore s c id := by
  unfold returnDescs
  exact modCore_of_eq (k := coreOf s c) (by rw [h]; exact congrArg (fun l => { coreOf s c with held := l }) h.symm)

/-- Threads of an image: those with an ENTRY are RUNNING there (R251, R268). -/
def entryThreads (s : State) (i : Nat) : Map Thr :=
  (List.range 16).filterMap fun t => (imgEntry s i t).map fun e => (t, freshThr s e 0)

/-- A core that is loaded from an image (R251, R269). -/
def Core.loaded (s : State) (c i : Nat) (bad : List Nat) : Core :=
  { dropThreads s (coreOf s c) with
    st := .running, image := i, threads := entryThreads s i, slices := sliceRegs s c, lastAct := s.clk, badCode := bad }

/-- Memory writes one after the other change the local memories alone. -/
theorem foldl_lmem_frame {α : Type} (l : List α) (p : α → Prop) [DecidablePred p] (a : α → Nat)
    (b : α → List Byte) (s : State) :
    ∃ lmem, l.foldl (fun s x => if p x then { s with lmem := writeMem s.lmem (a x) (b x) } else s) s =
      { s with lmem := lmem } :=
  List.foldlRecOn (motive := fun t : State => ∃ lmem : Map Byte, t = { s with lmem := lmem }) l _ ⟨s.lmem, rfl⟩
    fun t ht x _ => by
    obtain ⟨lmem, rfl⟩ := ht
    split
    · exact ⟨_, rfl⟩
    · exact ⟨lmem, rfl⟩

/-- Loading a core changes its record, the local memories and the record of the halted time. -/
theorem loadCore_frame (s : State) (c i : Nat) (bad : List Nat) :
    ∃ lmem dbg, loadCore s c i bad =
      { s with cores := mset s.cores c (Core.loaded s c i bad), lmem := lmem, dbg := dbg } := by
  obtain ⟨lmem, hmem⟩ := foldl_lmem_frame (List.range 16) (fun t => ((sliceRegs s c).getD t (0, 0)).2 ≠ 0)
    (fun t => lmAddr c ((sliceRegs s c).getD t (0, 0)).1) (fun _ => List.replicate 128 0)
    { s with lmem := writeMem s.lmem (lmAddr c 0) (imgData s i 0 (dataLen s i)) }
  unfold loadCore
  dsimp only
  rw [hmem]
  exact ⟨lmem, _, haltClock_frame _⟩

/-! ### Start and stop (R269, R464) -/

theorem rd_fcCtrlImage (s : State) (c v : Nat) : rd (wr s F.FC_CTRL_IMAGE 0 c (v % 16)) F.FC_CTRL_IMAGE 0 c = v % 16 :=
  (rd_wr_same s F.FC_CTRL_IMAGE 0 c (v % 16) (by decide)).trans (Nat.mod_mod ..)

/-- A START of a STOPPED core switches its cluster on and judges the image that IMAGE names (R269, R464). -/
theorem coreStart_stopped {s : State} {c i : Nat} {bad : List Nat} (hst : (coreOf s c).st = .stopped)
    (himage : rd s F.FC_CTRL_IMAGE 0 c = i) :
    coreStart s c bad =
      if startErr s c i = 0 then loadCore { s with clOff := s.clOff.filter (· ≠ c / 12) } c i bad
      else modCore { s with clOff := s.clOff.filter (· ≠ c / 12) } c fun k => { k with err := startErr s c i } := by
  subst himage
  exact if_neg fun hne => hne hst

section
variable {s : State} {p : HostPort} {v : Word} {bad : List Nat}

theorem execCoreStart_stopped (hopen : RegOpen s p true) (hst : (coreOf s (selCore s)).st = .stopped) :
    execCoreStart p v bad s = .next (
      if startErr (wr s F.FC_CTRL_IMAGE 0 (selCore s) (v.toNat % 16)) (selCore s) (v.toNat % 16) = 0 then
        loadCore { wr s F.FC_CTRL_IMAGE 0 (selCore s) (v.toNat % 16) with
          clOff := s.clOff.filter (· ≠ selCore s / 12) } (selCore s) (v.toNat % 16) bad
      else modCore { wr s F.FC_CTRL_IMAGE 0 (selCore s) (v.toNat % 16) with
          clOff := s.clOff.filter (· ≠ selCore s / 12) } (selCore s) fun k => { k with
            err := startErr (wr s F.FC_CTRL_IMAGE 0 (selCore s) (v.toNat % 16)) (selCore s) (v.toNat % 16) }) :=
  congrArg Host.Outcome.next ((regGate_open hopen).trans (coreStart_stopped hst (rd_fcCtrlImage ..)))

/-- A START that passes the checks. -/
theorem execCoreStart_loads (hopen : RegOpen s p true) (hst : (coreOf s (selCore s)).st = .stopped)
    (hok : startErr (wr s F.FC_CTRL_IMAGE 0 (selCore s) (v.toNat % 16)) (selCore s) (v.toNat % 16) = 0) :
    ∃ lmem dbg, execCoreStart p v bad s = .next { wr s F.FC_CTRL_IMAGE 0 (selCore s) (v.toNat % 16) with
      clOff := s.clOff.filter (· ≠ selCore s / 12), lmem := lmem, dbg := dbg
      cores := mset s.cores (selCore s) (Core.loaded (wr s F.FC_CTRL_IMAGE 0 (selCore s) (v.toNat % 16)) (selCore s)
        (v.toNat % 16) bad) } := by
  obtain ⟨lmem, dbg, hload⟩ := loadCore_frame { wr s F.FC_CTRL_IMAGE 0 (selCore s) (v.toNat % 16) with
    clOff := s.clOff.filter (· ≠ selCore s / 12) } (selCore s) (v.toNat % 16) bad
  refine ⟨lmem, dbg, (execCoreStart_stopped hopen hst).trans ?_⟩
  rw [if_pos hok, hload]
  rfl

/-- A STOP, by the state of the core. -/
theorem execCoreStop_open (hopen : RegOpen s p true) :
    execCoreStop p v s = .next (coreStop (wr s F.FC_CTRL_IMAGE 0 (selCore s) (v.toNat % 16)) (selCore s)) :=
  congrArg Host.Outcome.next (regGate_open hopen)

theorem coreStop_running {c : Nat} (h : (coreOf s c).st = .running) :
    coreStop s c = modCore s c fun k => { k with st := .draining, drainAt := s.clk } := by
  simp only [coreStop, h]

theorem coreStop_offline {c : Nat} (h : (coreOf s c).st = .offline) : coreStop s c = coreStopped s c := by
  simp only [coreStop, h]

end

/-! ### Drain, reload and restart (R267, R269) -/

section
variable {s : State} {c : CoreId} {n : ThreadId} {bad : List Nat}

/-- A core that holds nothing and drains beyond STOP_TIMEOUT is STOPPED, and FC_STOP_TIMEOUT is raised. -/
theorem execFcStopTimeout_due (hst : (coreOf s c.val).st = .draining)
    (hdue : (coreOf s c.val).drainAt + usec (rd s F.FC_STOP_TIMEOUT_TIMEOUT 0 c.val) ≤ s.clk)
    (hheld : (coreOf s c.val).held = []) (hboxes : ∀ x ∈ (coreOf s c.val).threads, x.2.inbox = []) :
    execFcStopTimeout c s = .next (raise (coreStopped (modCore s c.val id) c.val) .fcStopTimeout c.val) := by
  have htaken : ((coreOf s c.val).threads.flatMap fun t => t.2.inbox.filter (·.2.taken)) = [] :=
    List.flatMap_eq_nil_iff.mpr fun x hx => by rw [hboxes x hx]; rfl
  have huntaken : untaken ((coreOf s c.val).threads.map (·.2)) = [] := by
    have hnone : (((coreOf s c.val).threads.map (·.2)).flatMap fun t =>
        (t.inbox.filter fun x => !x.2.taken).map (·.2)) = [] := by
      rw [List.flatMap_map]
      exact List.flatMap_eq_nil_iff.mpr fun x hx => by rw [hboxes x hx]; rfl
    rw [untaken, hnone, List.mergeSort_nil]
  have hheld' : (coreOf (modCore s c.val id) c.val).held = [] := by rw [coreOf_modCore_same]; exact hheld
  refine (if_pos ⟨hst, hdue⟩).trans (congrArg Host.Outcome.next ?_)
  rw [htaken, huntaken]
  simp only [List.foldl_nil, returnDescs_nil hheld, releaseHeld_none _ hheld', modCore_modCore]
  rfl

/-- A thread that comes to run is stored with the time of that (R252). -/
theorem timedThr_started {old th : Thr} (hold : old.st ≠ .running) (hrun : th.st = .running) :
    timedThr s old th = { th with runAt := s.clk } := by
  rw [timedThr, if_neg fun h => hold h.1, if_pos ⟨hold, hrun⟩]

/-- The restart of a thread that holds nothing begins at its entry (R267). -/
theorem restartThr_idle (hbox : (thrOf s c.val n.val).inbox = [])
    (hheld : (coreOf s c.val).held = []) :
    ∃ lmem, restartThr s c.val n.val false = putThr { modCore s c.val id with lmem := lmem } c.val n.val
      (freshThr s ((imgEntry s (coreOf s c.val).image n.val).getD 0) (runTime s (thrOf s c.val n.val))) := by
  have huntaken : untaken [thrOf s c.val n.val] = [] := by simp [untaken, hbox]
  have hheld' : (coreOf (modCore s c.val id) c.val).held = [] := by rw [coreOf_modCore_same]; exact hheld
  unfold restartThr
  simp only [hbox, List.filter_nil, List.foldl_nil, huntaken, returnDescs_nil hheld, releaseHeld_none _ hheld',
    modCore_modCore]
  exact ⟨_, rfl⟩

/-- THREAD_RESTART of a faulted thread that holds nothing: it runs from its entry, and what it had run counts on. -/
theorem execThreadRestart_idle (hst : (thrOf s c.val n.val).st = .faulted)
    (hrestart : (thrOf s c.val n.val).restart = true) (hbox : (thrOf s c.val n.val).inbox = [])
    (hheld : (coreOf s c.val).held = []) :
    ∃ t, execThreadRestart c n s = .next t ∧
      thrOf t c.val n.val = { st := .running, pc := (imgEntry s (coreOf s c.val).image n.val).getD 0
                              runAcc := (thrOf s c.val n.val).runAcc, runAt := s.clk } ∧
      t = { s with cores := t.cores, lmem := t.lmem, dbg := t.dbg } := by
  have hran : runTime s (thrOf s c.val n.val) = (thrOf s c.val n.val).runAcc := by simp [runTime, hst]
  obtain ⟨lmem, hrestarted⟩ := restartThr_idle hbox hheld
  rw [hran] at hrestarted
  have hold : thrOf { modCore s c.val id with lmem := lmem } c.val n.val = thrOf s c.val n.val :=
    thrOf_modCore s c.val c.val n.val fun _ => rfl
  refine ⟨_, (if_pos ⟨hst, hrestart⟩).trans (congrArg Host.Outcome.next hrestarted), ?_, ?_⟩
  · rw [thrOf_putThr_same, hold, timedThr_started (by rw [hst]; decide) rfl]
    rfl
  · obtain ⟨cores, dbg, hput⟩ := putThr_frame { modCore s c.val id with lmem := lmem } c.val n.val
      (freshThr s ((imgEntry s (coreOf s c.val).image n.val).getD 0) (thrOf s c.val n.val).runAcc)
    rw [hput]
    rfl

end

/-- Settles O28: START and STOP by the state of the core, the others by what is left of a core or thread. -/
theorem flowCoreControl : Obligations.FlowCoreControl := by
  refine ⟨fun p v bad s hopen hst hok => ?start, fun p v bad s hopen hst hbad => ?startErr,
    fun p v s hopen hst => (execCoreStop_open hopen).trans (congrArg Host.Outcome.next (coreStop_running hst)),
    fun p v s hopen hst => ?stopOffline, fun c s hst hidle => ?drainEnd, fun c s hst hdue hheld hboxes => ?timeout,
    fun c bad s hst hrun hok => ?reload,
    fun _ _ _ hst hrestart hbox hheld => execThreadRestart_idle hst hrestart hbox hheld⟩
  case start =>
    obtain ⟨lmem, dbg, h⟩ := execCoreStart_loads (bad := bad) hopen hst hok
    have hcore := mget_mset_same {} s.cores (selCore s)
      (Core.loaded (wr s F.FC_CTRL_IMAGE 0 (selCore s) (v.toNat % 16)) (selCore s) (v.toNat % 16) bad)
    exact ⟨_, h, congrArg Core.st hcore, congrArg Core.image hcore, congrArg Core.badCode hcore,
      congrArg Core.threads hcore, rfl, rfl⟩
  case startErr =>
    exact (execCoreStart_stopped hopen hst).trans (congrArg Host.Outcome.next (if_neg hbad))
  case stopOffline =>
    refine ⟨_, (execCoreStop_open hopen).trans (congrArg Host.Outcome.next (coreStop_offline hst)), ?_⟩
    exact coreStopped_frame ..
  case drainEnd =>
    exact ⟨_, if_pos ⟨hst, hidle⟩, coreStopped_frame ..⟩
  case timeout =>
    have hlk := raise_lk_of_cores ((((CoresOnly.refl s).modCore c.val id).modCore c.val
      (Core.stopped (modCore s c.val id))).haltClock) .fcStopTimeout c.val
    obtain ⟨dbg, hstopped⟩ := coreStopped_modCore_id s c.val
    refine ⟨_, execFcStopTimeout_due hst hdue hheld hboxes, hlk, ?_⟩
    rw [hstopped]
    exact (raise_frame ..).trans (by rw [raise_dbg]; rfl)
  case reload =>
    obtain ⟨lmem, dbg, h⟩ := loadCore_frame s c.val (coreOf s c.val).image bad
    have hexec : exec (.coreReloadEnd c bad) s = .next (loadCore s c.val (coreOf s c.val).image bad) :=
      (if_pos ⟨hst, hrun⟩).trans (if_pos hok)
    have hcore := mget_mset_same {} s.cores c.val (Core.loaded s c.val (coreOf s c.val).image bad)
    exact ⟨_, hexec.trans (congrArg _ h), congrArg Core.st hcore, congrArg Core.badCode hcore,
      (congrArg Core.image hcore).trans rfl, congrArg Core.threads hcore, rfl⟩

end Sys2Proof.Machine


/-! PROOFS. A CORE_JOB_COMPLETION of a held buffer marks the inbox entries of that buffer gone (R265). -/
namespace Sys2Proof.Machine

/-- The oldest message of all is taken by a unit whose row it is for. -/
theorem msgTake_head {s : State} {c t dest typ : Nat} {m : Msg} {l : List Msg} (hmsgs : s.msgs = m :: l)
    (hfrom : m.core = c ∧ m.thread = t) (hto : msgDest (m.w 0) = dest ∧ msgType (m.w 0) = typ)
    (hrun : running s = true) : msgTake s c t dest typ = some (m, { s with msgs := l }) := by
  obtain ⟨rfl, rfl⟩ := hfrom
  obtain ⟨rfl, rfl⟩ := hto
  simp [msgTake, hmsgs, hrun]

/-- The cores once a buffer has left the held-buffer tables: with it go its entries in the inboxes (R265). -/
def coresWithout (s : State) (h : Nat) : Map Core :=
  mmap (fun _ k => if k.held.any (·.1 = h) then k.drop h else k) s.cores

/-- CORE_JOB_COMPLETION of a job whose buffer a core holds (R259, R291). -/
theorem execCoreJobCompletion_held {s : State} {c : CoreId} {n : ThreadId} {uid : Nat} {j : Job} {st : Status} {m : Msg}
    {l : List Msg} (hmsgs : s.msgs = m :: l) (hfrom : m.core = c.val ∧ m.thread = n.val)
    (hto : msgDest (m.w 0) = 0x03 ∧ msgType (m.w 0) = 0) (hrun : running s = true)
    (hjob : qmJob s m.buf (bitsOf (m.w 3) 31 0) = some (uid, j))
    (hheld : (s.cores.any fun k => k.2.held.any (·.1 = bitsOf (m.w 3) 31 0)) = true)
    (hst : coreJobStatus (bitsOf (m.w 1) 7 0) = some st) :
    execCoreJobCompletion c n s = .next (finishJob (devFree { s with
      msgs := l, cores := coresWithout s (bitsOf (m.w 3) 31 0) } (bitsOf (m.w 3) 31 0)) uid st (m.w 2)) := by
  have hjob' : qmJob { s with msgs := l } m.buf (bitsOf (m.w 3) 31 0) = some (uid, j) := hjob
  rw [execCoreJobCompletion, msgRun, msgTake_head hmsgs hfrom hto hrun]
  simp only [hjob', hheld, hst, if_true]
  rfl

/-- A CORE_JOB that has given buffer 32 to a core. -/
def givenJob : Job := { sq := 1, port := 0, owner := none, sqGen := 1, tenGen := 1, op := 0x86, cid := 7, noCpl := false
                        ents := [], bufs := [32] }

/-- The CORE_JOB_COMPLETION, from thread 0 of core 0, of that job with SUCCESS. -/
def givenJobDone : Msg where
  core := 0
  thread := 0
  words := [0x300000000000000, 0x1010000100000000, 5, 32, 0, 0, 0, 0]

/-- A running device whose core 0 holds buffer 32, which stands in entry 0 of the inbox of its thread 0. -/
def givenJobHeld : State where
  lk := { st := .running }
  jobs := [(9, givenJob)]
  coop := { ready := true, bufs := [(32, ⟨.owned, 4144⟩)] }
  cores := [(0, { st := .running, held := [(32, 0)]
                  threads := [(0, { st := .running
                                    inbox := [(0, { ring := 0, d := { buf := 32, len := 64, kind := 2 } })] })] })]
  msgs := [givenJobDone]

/-- The entries of the inbox of thread 0 of core 0 whose buffer has left it. -/
def goneEntries (s : State) : List Nat := ((thrOf s 0 0).inbox.filter (·.2.gone)).map (·.1)

/-- The completion takes buffer 32 from entry 0. -/
theorem givenJobHeld_completion_gone :
    goneEntries (finishJob (devFree { givenJobHeld with msgs := [], cores := coresWithout givenJobHeld 32 } 32)
      9 .success 5) = [0] := by
  decide +kernel

/-- Refutes O29: the completion of a CORE_JOB whose buffer a core holds notes in the inbox entry of that buffer that the
buffer has left the held-buffer table (R265), where the statement changes the held-buffer tables alone. -/
theorem not_flowRingsAndMessages : ¬ Obligations.FlowRingsAndMessages := by
  rintro ⟨-, -, -, -, -, -, -, -, -, -, hcompletion, -⟩
  have hclaimed : execCoreJobCompletion 0 0 givenJobHeld = _ :=
    hcompletion 0 0 9 givenJob .success givenJobDone [] givenJobHeld rfl ⟨rfl, rfl⟩ (by decide +kernel) rfl
      (by decide +kernel) (by decide +kernel) (by decide +kernel) (by decide +kernel)
  have hmodel := execCoreJobCompletion_held (s := givenJobHeld) (c := 0) (n := 0) (uid := 9) (j := givenJob)
    (st := .success) (m := givenJobDone) (l := []) rfl ⟨rfl, rfl⟩ (by decide +kernel) rfl (by decide +kernel)
    (by decide +kernel) (by decide +kernel)
  have hnext := congrArg goneEntries (Host.Outcome.next.inj (hmodel.symm.trans hclaimed))
  exact absurd (givenJobHeld_completion_gone.symm.trans hnext) (by decide +kernel)

end Sys2Proof.Machine

/-! PROOFS. Flow cores: instruction words and the instructions they hold. -/
namespace Sys2Proof.Machine

/-- OP has six bits. -/
theorem fcCode_lt (op : FcOp) : fcCode op < 64 := by
  cases op <;> decide

/-- OP and FUNC select the instruction that has this OP and, where one value of FUNC selects it, this FUNC: by the rows
of the tables one way, by the instructions the other. -/
theorem fcSelect_eq_some_iff {o f : Nat} {op : FcOp} :
    fcSelect o f = some op ↔ fcCode op = o ∧ ∀ k, fcFunc op = some k → f = k := by
  constructor
  · intro hrow
    unfold fcSelect at hrow
    split at hrow
    -- OP 0x00 and OP 0x3E, whose rows FUNC tells apart
    case h_1 | h_46 => split at hrow <;> cases hrow <;> exact ⟨rfl, fun _ hk => Option.some.inj hk⟩
    all_goals cases hrow
    all_goals exact ⟨rfl, nofun⟩
  · rintro ⟨rfl, hfunc⟩
    cases hk : fcFunc op with
    | none => cases op <;> cases hk <;> rfl
    | some k =>
      obtain rfl := hfunc k hk
      cases op <;> cases hk <;> rfl

/-- What it is for an instruction to be well formed (R274). -/
theorem FcI.wf_iff {i : FcI} :
    i.wf = true ↔ fcFieldsOk i = true ∧ ∀ k, fcFunc i.op = some k → i.lo.val = k := by
  cases hk : fcFunc i.op <;> simp [FcI.wf, hk]

/-- The instruction with this mnemonic whose fields are the digits of the word (R274). -/
def fcRaw (op : FcOp) (w : BitVec 32) : FcI where
  op := op
  a := Fin.ofNat 32 (w.toNat / 2 ^ 21)
  b := Fin.ofNat 32 (w.toNat / 2 ^ 16)
  c := Fin.ofNat 32 (w.toNat / 2 ^ 11)
  lo := Fin.ofNat 2048 w.toNat

theorem eq_fcRaw_iff {w : BitVec 32} {i : FcI} :
    i = fcRaw i.op w ↔ i.a.val = w.toNat / 2 ^ 21 % 32 ∧ i.b.val = w.toNat / 2 ^ 16 % 32 ∧
      i.c.val = w.toNat / 2 ^ 11 % 32 ∧ i.lo.val = w.toNat % 2048 := by
  obtain ⟨op, a, b, c, lo⟩ := i
  simp only [fcRaw, FcI.mk.injEq, true_and, Fin.ext_iff, Fin.val_ofNat]

/-- A word is undefined where OP and FUNC select nothing or the tables forbid its fields (R274). -/
theorem fcDecode_eq_bind (w : BitVec 32) :
    fcDecode w = (fcSelect (w.toNat / 2 ^ 26) (w.toNat % 2048)).bind fun op =>
      if fcFieldsOk (fcRaw op w) then some (fcRaw op w) else none := by
  rw [fcDecode]
  cases fcSelect (w.toNat / 2 ^ 26) (w.toNat % 2048) with
  | none => rfl
  | some op => rfl

/-- A word holds an instruction when its OP and FUNC select it, its digits are the fields, and the tables allow them. -/
theorem fcDecode_eq_some_iff {w : BitVec 32} {i : FcI} :
    fcDecode w = some i ↔
      fcSelect (w.toNat / 2 ^ 26) (w.toNat % 2048) = some i.op ∧ i = fcRaw i.op w ∧ fcFieldsOk i = true := by
  simp only [fcDecode_eq_bind, Option.bind_eq_some_iff, Option.ite_none_right_eq_some, Option.some.injEq]
  constructor
  · rintro ⟨op, hop, hok, rfl⟩
    exact ⟨hop, rfl, hok⟩
  · rintro ⟨hop, hi, hok⟩
    exact ⟨i.op, hop, hi ▸ hok, hi.symm⟩

/-- OP, the three register fields and FUNC fill the 32 bits of the word. -/
theorem fcEncode_toNat (i : FcI) : (fcEncode i).toNat =
    fcCode i.op * 2 ^ 26 + i.a.val * 2 ^ 21 + i.b.val * 2 ^ 16 + i.c.val * 2 ^ 11 + i.lo.val := by
  have hop := fcCode_lt i.op
  rw [fcEncode, BitVec.toNat_ofNat, Nat.mod_eq_of_lt]
  omega

/-- The word of an instruction is the one with its OP and its fields as digits. -/
theorem fcEncode_eq_iff {w : BitVec 32} {i : FcI} :
    fcEncode i = w ↔ fcCode i.op = w.toNat / 2 ^ 26 ∧ i = fcRaw i.op w := by
  rw [← BitVec.toNat_inj, fcEncode_toNat, eq_fcRaw_iff]
  omega

/-- Decoding is the inverse of encoding: a word holds the well-formed instruction whose word it is, and no other. -/
theorem fcDecode_eq_some_iff_fcEncode {w : BitVec 32} {i : FcI} :
    fcDecode w = some i ↔ i.wf = true ∧ fcEncode i = w := by
  rw [fcDecode_eq_some_iff, fcSelect_eq_some_iff, FcI.wf_iff, fcEncode_eq_iff]
  have hlo (h : i = fcRaw i.op w) : i.lo.val = w.toNat % 2048 := (eq_fcRaw_iff.mp h).2.2.2
  constructor
  · rintro ⟨⟨hop, hfunc⟩, hi, hok⟩
    exact ⟨⟨hok, hlo hi ▸ hfunc⟩, hop, hi⟩
  · rintro ⟨⟨hok, hfunc⟩, hop, hi⟩
    exact ⟨⟨hop, hlo hi ▸ hfunc⟩, hi, hok⟩

/-- Settles O51: a word decodes to an instruction just where it is the word of a well-formed one. -/
theorem flowCoreCodesRoundTrip : Obligations.FlowCoreCodesRoundTrip :=
  ⟨fun _ hwf => fcDecode_eq_some_iff_fcEncode.mpr ⟨hwf, rfl⟩,
    fun _ _ hword => fcDecode_eq_some_iff_fcEncode.mp hword,
    fun _ _ _ hw hv =>
      (fcDecode_eq_some_iff_fcEncode.mp hw).2.symm.trans (fcDecode_eq_some_iff_fcEncode.mp hv).2⟩

end Sys2Proof.Machine

/-! PROOFS. Drover: each row of R317 gives a rate that is then held within R_MIN and the line rate. -/
namespace Sys2Proof.Machine

/-- The line rate bounds a rate, whatever R_MIN is (R317, log entry 51). -/
theorem heldRate_le_rateCap (s : State) (c : Conn) (r : Nat) : heldRate s c r ≤ rateCap s c :=
  Nat.min_le_right ..

/-- R_MIN bounds a rate from below where the line rate allows it (R317). -/
theorem rMin_le_heldRate {s : State} {c : Conn} (r : Nat) (h : rd s F.TP_DROVER_2_R_MIN ≤ rateCap s c) :
    rd s F.TP_DROVER_2_R_MIN ≤ heldRate s c r :=
  Nat.le_min.mpr ⟨Nat.le_max_left .., h⟩

/-- A rate within the bounds stays as it is. -/
theorem heldRate_of_within {s : State} {c : Conn} {r : Nat} (hmin : rd s F.TP_DROVER_2_R_MIN ≤ r)
    (hcap : r ≤ rateCap s c) : heldRate s c r = r := by
  rw [heldRate, Nat.max_eq_right hmin, Nat.min_eq_left hcap]

/-- Every row of R317 gives a rate that is held within the bounds. -/
theorem newRate_eq_heldRate (s : State) (c : Conn) : ∃ r, newRate s c = heldRate s c r :=
  ⟨_, rfl⟩

/-- After an expiry a quarter, but no less than R_MIN. -/
theorem newRate_expired {s : State} {c : Conn} (h : c.expired = true) :
    newRate s c = heldRate s c (max (rd s F.TP_DROVER_2_R_MIN) (c.rate / 4)) := by
  simp only [newRate, h, if_true]

/-- Without a sample the rate as it was. -/
theorem newRate_noSample {s : State} {c : Conn} (hexp : c.expired = false) (hq : c.qmin = none) :
    newRate s c = heldRate s c c.rate := by
  simp only [newRate, hexp, hq, Bool.false_eq_true, if_false]

/-- With q at most TARGET an additive increase. -/
theorem newRate_atTarget {s : State} {c : Conn} {q : Int} (hexp : c.expired = false) (hq : c.qmin = some q)
    (hle : q ≤ rd s F.TP_DROVER_0_TARGET) : newRate s c = heldRate s c (c.rate + rd s F.TP_DROVER_1_AI) := by
  simp only [newRate, hexp, hq, hle, Bool.false_eq_true, if_false, if_true]

/-- Settles O59: the bounds are those of `heldRate`, and a rate within them is that of its row. -/
theorem rateBounds : Obligations.RateBounds := by
  refine ⟨fun s c => ?bounds, fun s c hexp hq hmin hcap => ?noSample, fun s c q hexp hq hle hmin hcap => ?atTarget,
    fun s c hexp hcap => ?expired⟩
  case bounds =>
    obtain ⟨r, hr⟩ := newRate_eq_heldRate s c
    rw [hr]
    exact ⟨heldRate_le_rateCap s c r, rMin_le_heldRate r⟩
  case noSample => rw [newRate_noSample hexp hq, heldRate_of_within hmin hcap]
  case atTarget =>
    rw [newRate_atTarget hexp hq hle, heldRate_of_within (Nat.le_add_right_of_le hmin) hcap]
  case expired => rw [newRate_expired hexp, heldRate_of_within (Nat.le_max_left ..) hcap]

end Sys2Proof.Machine

/-! PROOFS. The transport engine: a connection that is closed before it was OPEN sends a CLOSE when it ends (R303). -/
namespace Sys2Proof.Machine

/-- A CLOSING connection that has started no send ends, whatever its version (R303). -/
theorem execConnCloseDrainEnd_nothingStarted {s : State} {i : Fin 1048576} {c : Conn}
    (hconn : mget? s.conns i.val = some c) (hst : c.st = .closing)
    (hidle : ∀ d ∈ c.sends, d.cut = false ∧ d.ready = false ∧ d.bufs = []) (hrun : running s = true) :
    execConnCloseDrainEnd i s = .next (closeEnd s i.val c) := by
  have hnone : (c.sends.any fun d => d.cut || d.ready || d.bufs != []) = false :=
    List.any_eq_false.mpr fun d hd => by
      obtain ⟨hcut, hready, hbufs⟩ := hidle d hd
      simp [hcut, hready, hbufs]
  unfold execConnCloseDrainEnd
  simp only [hconn]
  exact if_pos ⟨hst, by simp [hnone], hrun⟩

/-- An MFT_CONN_CLOSE of host port 0 took this connection to CLOSING while it was OPENING: it has no version yet. The
registers that it took over had their reset values. -/
def closedWhileOpening : Conn where
  tenant := 5
  node := 7
  cls := 0
  peerTenant := 5
  paths := 1
  verMin := 1
  verMax := 3
  key := 0
  cfg := tpCfg {}
  st := .closing
  closer := some 0

/-- A running device with that connection. The forwarding of TP_CFG.FWD_INST 0 is of MODE L3 for IPv6, and the route cache
holds the route to the peer, through next hop 0, which is network port 0 (R195, R206, R295). -/
def closingRouted : State where
  lk := { st := .running }
  conns := [(0, closedWhileOpening)]
  fw := { insts := [(0, [0x48000000, 0, 0, 0x7FFFFFFF])], nhs := [(0, 0)]
          rc := [{ vrf := 0, v6 := true, addr := 7, nh := 0, ver := 0 }] }

/-- The frames in the class of ACKs and control packets of network port 0. -/
def controlFrames (s : State) : Nat := (clsOf s 0 (cfgAckClass closedWhileOpening.cfg)).q.length

/-- The end of the connection puts its CLOSE there (R303, log entry 49). -/
theorem closingRouted_closeEnd_sends :
    controlFrames (closeEnd closingRouted 0 closedWhileOpening) = 1 := by
  decide +kernel

/-- To free it without a CLOSE sends nothing. -/
theorem closingRouted_connFree_sendsNothing :
    controlFrames (closerDone (connFree closingRouted 0 closedWhileOpening (some .mftPeerUnreachable))
      closedWhileOpening) = 0 := by
  decide +kernel

/-- Refutes O30: a connection that was closed before it had a version sends a CLOSE when it ends, where the statement
frees it without one. -/
theorem not_transportConnections : ¬ Obligations.TransportConnections := by
  rintro ⟨-, -, -, -, -, hdrainEnd, -⟩
  have hrun : running closingRouted = true := rfl
  have hclaimed : execConnCloseDrainEnd 0 closingRouted =
      .next (closerDone (connFree closingRouted 0 closedWhileOpening (some .mftPeerUnreachable)) closedWhileOpening) :=
    hdrainEnd 0 closedWhileOpening closingRouted rfl rfl nofun hrun
  have hmodel : execConnCloseDrainEnd 0 closingRouted = .next (closeEnd closingRouted 0 closedWhileOpening) :=
    execConnCloseDrainEnd_nothingStarted rfl rfl nofun hrun
  have hframes := congrArg controlFrames (Host.Outcome.next.inj (hmodel.symm.trans hclaimed))
  rw [closingRouted_closeEnd_sends, closingRouted_connFree_sendsNothing] at hframes
  exact absurd hframes (by decide)

end Sys2Proof.Machine

/-! PROOFS. The transport engine: the time until an ACK is that of TP_ACK as the connection last took it over (R308,
R319). -/
namespace Sys2Proof.Machine

/-- Before the delay that the connection took over has passed, no ACK leaves (R308, R319). -/
theorem execAckDelayExpire_early {s : State} {i : Fin 1048576} {c : Conn} {k : Nat}
    (hconn : mget? s.conns i.val = some c) (hfrom : c.ackFrom = some k)
    (hearly : s.clk < k + bitsOf c.ackCfg 15 0 * 1000) : execAckDelayExpire i s = .next s := by
  unfold execAckDelayExpire
  simp only [hconn, Option.bind_some, hfrom, Option.map_some, Option.getD_some]
  exact if_neg fun h => Nat.not_le.mpr hearly h.1

/-- An OPEN connection whose last ACK left under an ACK_COUNT of 8 and an ACK_DELAY of 50,000 ns. A packet came at 0 that
is not acknowledged yet. -/
def slowAcks : Conn where
  tenant := 5
  node := 7
  cls := 0
  peerTenant := 5
  paths := 1
  verMin := 1
  verMax := 3
  key := 0
  cfg := tpCfg {}
  st := .open_
  version := 3
  ackCfg := 8 * 2 ^ 16 + 50000
  ackCnt := 1
  ackFrom := some 0

/-- A running device with that connection at 2,000 ns, when the ACK_DELAY that TP_ACK now holds has passed. -/
def slowAcksDelay : State where
  clk := 2000 * 1000
  lk := { st := .running }
  conns := [(0, slowAcks)]

/-- An ACK would be counted in ACK_TX. -/
theorem slowAcksDelay_sendAck_counts : cget (sendAck slowAcksDelay 0) 11 0 6 = 1 := by decide +kernel

theorem slowAcksDelay_counts : cget slowAcksDelay 11 0 6 = 0 := by decide +kernel

/-- Refutes O31: a write of TP_ACK applies to a connection from its next ACK (R319). Until then its ACKs wait for the
ACK_DELAY taken over at the last one, where the statement takes the one that the register holds. -/
theorem not_transportPackets : ¬ Obligations.TransportPackets := by
  rintro ⟨-, -, -, -, -, -, -, hackDelay, -⟩
  have hclaimed : execAckDelayExpire 0 slowAcksDelay = .next (sendAck slowAcksDelay 0) :=
    hackDelay 0 0 slowAcks slowAcksDelay rfl rfl (by decide +kernel) rfl
  have hmodel : execAckDelayExpire 0 slowAcksDelay = .next slowAcksDelay :=
    execAckDelayExpire_early (c := slowAcks) (k := 0) rfl rfl (by decide +kernel)
  have hacks := congrArg (cget · 11 0 6) (Host.Outcome.next.inj (hmodel.symm.trans hclaimed))
  exact absurd (slowAcksDelay_counts.symm.trans (hacks.trans slowAcksDelay_sendAck_counts)) (by decide)

end Sys2Proof.Machine

/-! PROOFS. Lowering an anti-rollback counter is impossible (R454, R456). -/
namespace Sys2Proof.Machine

/-- No command lowers a counter, whether or not the PCLK of an edge passes with it. -/
theorem exec_rollbackLe {s t : State} (x : Instr) (h : exec x s = .next t) : rollbackLe s t := by
  obtain ⟨u, hu, hkept⟩ := exec_next x s
  cases hu.symm.trans h
  rcases hkept with hkept | ⟨-, hkept | hpclk⟩
  · exact hkept.rollback
  · exact hkept.rollback
  · exact hpclk.rollback

/-- No step lowers a counter: it is a tick, or the command at the front of the queue. -/
theorem step_rollbackLe {s t : State} (h : step s = .next t) : rollbackLe s t := by
  cases hp : s.pending with
  | nil =>
    cases (step_of_pending_nil hp).symm.trans h
    exact (tick_kept (Kept.refl s)).rollback
  | cons x rest =>
    exact exec_rollbackLe (s := { s with pending := rest }) x ((step_of_pending_cons hp).symm.trans h)

/-- Nor does a run, by induction on the number of its steps. -/
theorem run_rollbackLe (n : Nat) {s t : State} (h : Sys2Proof.core.run n s = .next t) : rollbackLe s t := by
  induction n generalizing s with
  | zero =>
    cases h
    exact fun _ => Nat.le_refl _
  | succ n ih =>
    obtain ⟨u, hu⟩ := step_next s
    have hrest : rollbackLe u t := ih ((run_succ_of_step_next n hu).symm.trans h)
    exact fun k => Nat.le_trans (step_rollbackLe hu k) (hrest k)

/-- Settles O49: no command and no tick lowers a counter, and so no run does. -/
theorem rollbackCountersNeverFall : Obligations.RollbackCountersNeverFall :=
  ⟨fun _ _ h => step_rollbackLe h, fun n _ _ h => run_rollbackLe n h⟩

end Sys2Proof.Machine

/-! PROOFS. The Sluice: its table commands, what the edge of a PCLK does with the one frame in it, and a start. -/
namespace Sys2Proof.Machine

/-! ### Table commands (R347, R348) -/

/-- A register write leaves the Sluice. -/
theorem regStore_sl (s : State) (off inst w : Nat) : (regStore s off inst w).1.sl = s.sl := by
  unfold regStore
  (repeat' split) <;> rfl

/-- The words of an entry are those of the Sluice. -/
theorem slDw_of_sl_eq {s t : State} (h : t.sl = s.sl) (i k : Nat) : slDw t i k = slDw s i k := by
  rw [slDw, slDw, h]

/-- A command whose OP is its own runs on the registers as written, and leaves its RESULT. -/
theorem slCmd_open {s : State} {p : HostPort} {v : Word} {op : Nat} (hopen : RegOpen s p true)
    (hgo : bitOf v.toNat 31 = true) (htaken : (regStore s F.SL_CMD_OP.off 0 v.toNat).2 = true)
    (hop : bitsOf v.toNat 1 0 = op) (hlt : op < 3) :
    slCmd s p v op = modSl (slOp (regStore s F.SL_CMD_OP.off 0 v.toNat).1 op).2 fun l => { l with
      result := (slOp (regStore s F.SL_CMD_OP.off 0 v.toNat).1 op).1 } := by
  refine (regGate_open hopen).trans ((if_pos ⟨hop, hgo⟩).trans ?_)
  unfold slCmdWrite
  generalize regStore s F.SL_CMD_OP.off 0 v.toNat = r at htaken
  obtain ⟨t, taken⟩ := r
  cases htaken
  rw [hop]
  exact if_pos ⟨hgo, hlt⟩

/-- SL_READ leaves the words of the selected entry in SL_ENT. -/
theorem slOp_read (s : State) : slOp s 0 =
    (0, (List.range 4).foldl (fun x k => wr x F.SL_ENT_W k 0 (slDw s (rd s F.SL_SEL_INDEX) k)) s) := rfl

/-- SL_WRITE of a valid entry whose key no other has stores it. -/
theorem slOp_write {s : State} (hvalid : slInvalid s = false) (hkey : slFind s (slKey (slEnt s)) = none) :
    slOp s 1 = (0, modSl s fun l => { l with
      ents := msetD [0, 0, 0, 0] l.ents (rd s F.SL_SEL_INDEX) ((List.range 4).map (slEnt s))
      bad := l.bad.filter (· ≠ rd s F.SL_SEL_INDEX) }) := by
  simp [slOp, hvalid, hkey]

/-- SL_CLEAR clears the VALID bit of the selected entry. -/
theorem slOp_clear (s : State) : slOp s 2 = (0, modSl s fun l => { l with
    ents := msetD [0, 0, 0, 0] l.ents (rd s F.SL_SEL_INDEX) [setBits (slDw s (rd s F.SL_SEL_INDEX) 0) 31 31 0,
      slDw s (rd s F.SL_SEL_INDEX) 1, slDw s (rd s F.SL_SEL_INDEX) 2, slDw s (rd s F.SL_SEL_INDEX) 3] }) := rfl

/-! ### One frame in the Sluice -/

/-- The state where frame `x` is the only one in the Sluice, received on port `p`. -/
def oneArr (s : State) (p : Nat) (x : SlArr) : State := { s with sl := { s.sl with arr := [(p, [x])] } }

section
variable {s : State} {p : Nat} {x : SlArr}

/-- How far the only frame has come. -/
theorem slSt_one (harr : s.sl.arr = [(p, [x])]) (st : SlSt) : slSt s p x.id st = oneArr s p { x with st := st } := by
  simp [slSt, modArr, modSl, oneArr, harr, mget, mget?, mset]

/-- A frame that is not complete is not taken out. -/
theorem slDrain_one (harr : s.sl.arr = [(p, [x])]) (hgot : x.got = none) (n : Nat) : slDrain s p n = s := by
  cases n with
  | zero => rfl
  | succ n =>
    simp only [slDrain, harr, mget, mget?, if_true, Option.getD_some, hgot]
    split <;> simp_all

/-- The edge brings the only frame its stage, and then takes out what is decided and complete. -/
theorem slEdge_one (harr : s.sl.arr = [(p, [x])]) :
    slEdge s = ((slStage s p x).sl.arr.map (·.1)).foldl
      (fun s p => slDrain s p (mget [] s.sl.arr p).length) (slStage s p x) := by
  simp [slEdge, slFrames, harr, insertBy]

/-- Where the frame stays in the Sluice, the stage is all that the edge brings. -/
theorem slEdge_stays {t : State} {y : SlArr} (harr : s.sl.arr = [(p, [x])]) (hstage : slStage s p x = t)
    (ht : t.sl.arr = [(p, [y])]) (hgot : y.got = none) : slEdge s = t := by
  rw [slEdge_one harr, hstage, ht]
  exact slDrain_one ht hgot _

/-- By an instant this many PCLK after another, as many have passed. -/
theorem le_pclks {n t : Nat} (h : x.at_ + n * pclkPs ≤ t) : n ≤ (t - x.at_) / pclkPs :=
  (Nat.le_div_iff_mul_le (by decide)).mpr (by omega)

/-! ### The stages (R337 to R343) -/

/-- PCLK 1 (R337). -/
theorem slEdge_fresh (harr : s.sl.arr = [(p, [x])]) (hgot : x.got = none) (hst : x.st = .fresh)
    (hdue : x.at_ + pclkPs ≤ s.clk) : slEdge s = oneArr s p { x with st := slTest s p x } := by
  have hn : 1 ≤ (s.clk - x.at_) / pclkPs := le_pclks (by omega)
  refine slEdge_stays harr ?_ rfl hgot
  simp only [slStage, hst, hn, if_true, slSt_one harr]

/-- PCLK 2 (R338). -/
theorem slEdge_cand {c wt g : Nat} {y : SlArr} {t : State} (harr : s.sl.arr = [(p, [x])]) (hst : x.st = .cand c wt g)
    (hdue : x.at_ + 2 * pclkPs ≤ s.clk) (hlook : slLookup s p x c wt g = t) (ht : t.sl.arr = [(p, [y])])
    (hgot : y.got = none) : slEdge s = t := by
  refine slEdge_stays harr ?_ ht hgot
  simp only [slStage, hst, le_pclks hdue, if_true, hlook]

/-- PCLK 6 (R339, R342). -/
theorem slStage_hit {c wt g i : Nat} {ws : List Nat} (hst : x.st = .hit c wt g i ws)
    (hdue : x.at_ + 6 * pclkPs ≤ s.clk) : slStage s p x = slDecide s p x c wt g i ws := by
  simp only [slStage, hst, le_pclks hdue, if_true]

/-- The candidate test is passed (R337). -/
theorem slTest_passed (hen : rd s F.SL_CFG_EN = 1) (hclass : (tciOf s p x.head).1 / 2 ^ 13 = rd s F.SL_CFG_CLASS)
    (hexpress : preemptActive s p = false ∨ x.viaExpress = true) (htype : beAt x.head 12 2 ≠ 0x8808)
    (htag : acceptFails s p x.head = false) :
    slTest s p x = .cand (rd s F.SL_CFG_CLASS) (rd s F.SL_CFG_WAIT_MAX) (rd s F.SL_GUARD_GUARD_LEN) := by
  refine if_neg ?_
  rintro (h | h | ⟨h, h'⟩ | h | h)
  · simp [hen] at h
  · exact h hclass
  · rcases hexpress with hexpress | hexpress <;> simp_all
  · exact htype h
  · simp [htag] at h

/-- The candidate test fails for the enable, the class or the MAC (R337). -/
theorem slTest_failed (h : rd s F.SL_CFG_EN = 0 ∨ (tciOf s p x.head).1 / 2 ^ 13 ≠ rd s F.SL_CFG_CLASS ∨
    (preemptActive s p = true ∧ x.viaExpress = false)) : slTest s p x = .plain := by
  refine if_pos ?_
  rcases h with h | h | ⟨h, h'⟩
  · exact .inl h
  · exact .inr (.inl h)
  · exact .inr (.inr (.inl ⟨h, by simp [h']⟩))

/-- No entry has the key of the frame (R338). -/
theorem slLookup_miss {c wt g : Nat} (harr : s.sl.arr = [(p, [x])])
    (hmiss : slFind s (p, (tciOf s p (stripped s p x.head)).1 % 4096, beAt x.head 0 6) = none) :
    slLookup s p x c wt g = oneArr (cadd s 13 0 2 1) p { x with st := .plain } := by
  rw [slLookup, hmiss]
  exact slSt_one (s := cadd s 13 0 2 1) harr .plain

/-- The entry with the key of the frame has good parity: its words are held (R338). -/
theorem slLookup_hit {c wt g i : Nat} (harr : s.sl.arr = [(p, [x])])
    (hfind : slFind s (p, (tciOf s p (stripped s p x.head)).1 % 4096, beAt x.head 0 6) = some i)
    (hparity : x.parity = false) (hgood : i ∉ s.sl.bad) :
    slLookup s p x c wt g = oneArr s p { x with st := .hit c wt g i ((List.range 4).map (slDw s i)) } := by
  rw [slLookup, hfind]
  exact (if_neg (by simp [hparity, hgood])).trans (slSt_one harr _)

/-- The entry's parity had failed already (R348). -/
theorem slLookup_bad {c wt g i : Nat} (harr : s.sl.arr = [(p, [x])])
    (hfind : slFind s (p, (tciOf s p (stripped s p x.head)).1 % 4096, beAt x.head 0 6) = some i) (hbad : i ∈ s.sl.bad) :
    slLookup s p x c wt g =
      raise (cadd (cadd (oneArr s p { x with st := .plain }) 13 0 2 1) 13 0 13 1) .slParity 0 := by
  have hmark : (modSl s fun l => { l with bad := if i ∈ l.bad then l.bad else i :: l.bad }) = s := by
    simp [modSl, hbad]
  rw [slLookup, hfind]
  refine (if_pos (.inr hbad)).trans ?_
  dsimp only
  rw [hmark, slSt_one harr]

/-- A condition of R339 fails. -/
theorem slDecide_diverted {c wt g i k : Nat} {ws : List Nat} (harr : s.sl.arr = [(p, [x])])
    (hfails : slFails s p x.at_ c wt g i (fun k => ws.getD k 0) = some k) :
    slDecide s p x c wt g i ws = oneArr (cadd s 13 0 k 1) p { x with st := .diverted i } := by
  simp only [slDecide, hfails]
  exact slSt_one (s := cadd s 13 0 k 1) harr _

/-- No condition of R339 fails, and the frame is not complete yet: it is committed and leaves the Sluice's queue. -/
theorem slDecide_committed {c wt g i : Nat} {ws : List Nat} (harr : s.sl.arr = [(p, [x])]) (hgot : x.got = none)
    (hfails : slFails s p x.at_ c wt g i (fun k => ws.getD k 0) = none) :
    slDecide s p x c wt g i ws = modSl (commitFrame s p x c g i fun k => ws.getD k 0) fun l => { l with arr := [] } := by
  have harr' : (commitFrame s p x c g i fun k => ws.getD k 0).sl.arr = [(p, [x])] := harr
  simp only [slDecide, hfails, hgot]
  simp only [modArr, modSl, harr', mget, mget?, mdel, if_true, Option.getD_some, List.filter_cons]
  simp

end

/-! ### A start at the egress MAC (R342) -/

/-- The frame of a commitment that is at its start. -/
theorem execSluiceStart_starts {s : State} {n : NetPort} {b : List Byte} {i q : Nat} {k : Commit}
    (hcommits : s.sl.commits = [(i, k)]) (hing : k.ing = n.val) (hdue : k.at_ ≤ s.clk) (hnew : k.started = false)
    (hlive : k.dead = false) (hegress : k.egress = some q) (hdone : k.done = none)
    (hfree : sluiceMayStart s q = true) (hpause : paused s q k.cls = false) :
    execSluiceStart n b s = .next (modSl (startFrame s q k.cls { kind := .sluice i, len := 0, own := false } 0 false)
      fun l => { l with commits := mset l.commits i { k with started := true } }) := by
  have hturn : sluiceTurn s n.val = some (i, k) := by simp [sluiceTurn, hcommits, hing, hdue, hnew, hlive]
  unfold execSluiceStart
  rw [hturn]
  simp only [hegress, hfree, hpause, hdone]
  rfl

/-! ### The statement -/

/-- Settles O33: the table commands by what each operation does, an edge by the stage that it brings the frame. -/
theorem sluiceCommands : Obligations.SluiceCommands := by
  refine ⟨fun p v s hopen hgo htaken hop => ?read, fun p v s hopen hgo htaken hop hvalid hkey => ?write,
    fun p v s hopen hgo htaken hop => ?clear, fun i s => rfl,
    fun n b i k q s hcommits hing hdue hnew hlive hegress hdone hfree hpre hpause => ?start,
    fun n b x y a s hrun hup hidle => ?candidate, fun n b x y a s hrun hup hbusy => ?busy,
    fun n x s harr hgot hst hdue hen hclass hexpress htype htag => ?passed,
    fun n x s harr hgot hst hdue hfail => ?failed, fun n x c wt g s harr hgot hst hdue hmiss => ?miss,
    fun n x c wt g i s harr hgot hst hdue hfind hparity hgood => ?hit,
    fun n x c wt g i s harr hgot hst hdue hfind hbad => ?parity,
    fun n x c wt g i k ws s harr hgot hst hdue hfails => ?diverted,
    fun n x c wt g i ws s harr hgot hst hdue hfails hnew => ?committed⟩
  case read =>
    have hwords := slDw_of_sl_eq (regStore_sl s F.SL_CMD_OP.off 0 v.toNat)
    refine congrArg Host.Outcome.next ((slCmd_open hopen hgo htaken hop (by decide)).trans ?_)
    simp only [slOp_read, hwords]
  case write =>
    refine congrArg Host.Outcome.next ((slCmd_open hopen hgo htaken hop (by decide)).trans ?_)
    rw [slOp_write hvalid hkey, ← regStore_sl s F.SL_CMD_OP.off 0 v.toNat]
    rfl
  case clear =>
    have hwords := slDw_of_sl_eq (regStore_sl s F.SL_CMD_OP.off 0 v.toNat)
    refine congrArg Host.Outcome.next ((slCmd_open hopen hgo htaken hop (by decide)).trans ?_)
    simp only [slOp_clear, hwords, modSl, regStore_sl]
  case start =>
    refine (execSluiceStart_starts hcommits hing hdue hnew hlive hegress hdone hfree hpause).trans ?_
    rw [startFrame_express (preemptActive_eq_false hpre)]
    simp [modSl, modEg, hcommits, mset]
  case candidate => exact if_neg (by simp [hrun, hup, hidle])
  case busy => exact if_pos (.inr (.inr hbusy))
  case passed =>
    rw [slEdge_fresh harr hgot hst hdue, slTest_passed hen hclass hexpress htype htag]
    rfl
  case failed =>
    rw [slEdge_fresh harr hgot hst hdue, slTest_failed hfail]
    rfl
  case miss => exact slEdge_cand harr hst hdue (slLookup_miss harr hmiss) rfl hgot
  case hit => exact slEdge_cand harr hst hdue (slLookup_hit harr hfind hparity hgood) rfl hgot
  case parity =>
    refine slEdge_cand harr hst hdue (slLookup_bad harr hfind hbad) (y := { x with st := .plain }) ?_ hgot
    rw [raise_sl]
    rfl
  case diverted =>
    exact slEdge_stays harr ((slStage_hit hst hdue).trans (slDecide_diverted harr hfails)) rfl hgot
  case committed =>
    have hedge : slEdge s = modSl (commitFrame s n.val x c g i fun k => ws.getD k 0) fun l => { l with arr := [] } := by
      rw [slEdge_one harr, slStage_hit hst hdue, slDecide_committed harr hgot hfails]
      rfl
    rw [hedge]
    refine ⟨rfl, rfl, ?_, ?_, ?_⟩ <;> simp only [modSl, commitFrame, mget?_mset_same, Option.map_some]
    cases bitOf (ws.getD 0 0) 30 <;> rfl

end Sys2Proof.Machine

/-! PROOFS. Locksmith: the reply record of a request lies in the local memory of the core that made it (R253, R287). -/
namespace Sys2Proof.Machine

/-- A reply record is written to the local memory of its core. -/
theorem replyRec_lmem (s : State) (c t u : Nat) (st : Status) (tag : Nat) (ds : List Nat) :
    (replyRec s c t u st tag ds).lmem = writeMem s.lmem (lmAddr c (recAddr s c t u))
      (leBytes 4 (2 ^ 31 + statusCode st * 2 ^ 16) ++ leBytes 4 tag ++
        (List.range 6).flatMap fun k => leBytes 4 (ds.getD k 0)) := by
  obtain ⟨_, _, _, _, h⟩ := (CoresOnly.refl (lmWrite s c (recAddr s c t u)
    (leBytes 4 (2 ^ 31 + statusCode st * 2 ^ 16) ++ leBytes 4 tag ++
      (List.range 6).flatMap fun k => leBytes 4 (ds.getD k 0)))).modThr c t
        fun th => wake { th with ev := Nat.lor th.ev (2 ^ (18 + u)) }
  exact congrArg State.lmem h

/-- A GFMUL request of thread 0 of core 1, which unit 0 has taken. -/
def coreOneBusy : LsBusy := { req := { id := 4, core := 1, thread := 0, gf := true, addr := 0x180 }, fail := none }

/-- A running device where its thread also waits for a TBL request. -/
def coreOneRequest : State where
  lk := { st := .running }
  cores := [(1, { st := .running, slices := [(0, 4096)]
                  threads := [(0, { st := .running, lsOut := 1, holds := [(4, 0x180, 32), (5, 0x1C0, 32)] })] })]
  tblq := [{ id := 5, core := 1, thread := 0, table := 0, op := 0, evict := false, index := 0, addr := 0x1C0 }]
  ls := { busy := [coreOneBusy] }

/-- The byte of the local memory of core 1 with bit 31, DONE, of word 0 of that thread's record 0 (R287). -/
def coreOneDone (m : Map Byte) : Byte := readByte m (lmAddr 1 (0x80 + 3))

/-- That byte, and the ranges that the thread's requests hold, after a step. -/
def coreOneAfter : Host.Outcome State Fault Refusal → Option (Byte × List (Nat × Nat × Nat))
  | .next t => some (coreOneDone t.lmem, (thrOf t 1 0).holds)
  | _ => none

/-- The reply sets DONE there, and the block of the TBL request is still held. -/
theorem coreOneRequest_reply :
    coreOneAfter (exec (.locksmithReply 1 0 {}) coreOneRequest) = some (0x80, [(5, 0x1C0, 32)]) := by
  decide +kernel

/-- Refutes O34: the statement writes the reply record at its address within the slice, which is that of the local memory
of core 0, where the request is one of core 1. It says so of a thread whose other requests still hold a range: the clauses
after that of the ranges stand under its `filter`. -/
theorem not_locksmithCommands : ¬ Obligations.LocksmithCommands := by
  rintro ⟨-, -, -, -, -, -, -, -, hreply, -⟩
  obtain ⟨t, ht, -, -, hholds⟩ := hreply 1 0 {} coreOneBusy coreOneRequest rfl ⟨rfl, rfl⟩ rfl rfl rfl
    (by decide +kernel) (by decide +kernel) (by decide +kernel) (by decide +kernel)
  have hmodel := coreOneRequest_reply
  rw [ht] at hmodel
  obtain ⟨hdone, hheld⟩ := Prod.mk.inj (Option.some.inj hmodel)
  have hin : (5, 0x1C0, 32) ∈ (thrOf t 1 0).holds := hheld ▸ List.mem_singleton_self _
  have hkept := List.of_mem_filter (hholds ▸ hin)
  obtain ⟨q, -, hq⟩ := List.any_eq_true.mp hkept
  obtain ⟨-, -, hmem, -⟩ := of_decide_eq_true hq
  rw [hmem] at hdone
  exact absurd hdone (by decide +kernel)

end Sys2Proof.Machine

/-! PROOFS. Storage attachments: after the time of a detach, the commands of other attachments that may start do (R376,
R380). -/
namespace Sys2Proof.Machine

/-- NS_DETACH_TIMEOUT once its 10 ms have passed: what is left is dropped, the attachment is freed, and then the commands that
may start do (R376, R380). -/
theorem execNsDetachTimeout_due {s : State} {a : Fin 65536} {x : Att} {k p : Nat} (hatt : mget? s.sx.atts a.val = some x)
    (hdetach : x.detach = some (k, p)) (hdue : k + msec 10 ≤ s.clk) (hrun : running s = true) :
    execNsDetachTimeout a s =
      .next (startCmds (attFree ((cmdsOf s a.val).foldl (fun s c => dropJob s c.1) s) a.val)) := by
  simp only [execNsDetachTimeout, hatt, Option.bind_some, hdetach]
  exact if_pos ⟨.inl hdue, hrun⟩

/-- An attachment over TCP with a queue depth of 2 that is being detached since 0 for port 0, and has no session. -/
def detaching : Att where
  tenant := 5
  slot := 1
  rcd := leBytes 16 0 ++ leBytes 2 2
  since := 0
  sess := 0
  tmr := 0
  detach := some (0, 0)

/-- An NVME job of tenant 5. -/
def flushJob : Job := { sq := 1, port := 0, owner := some 5, sqGen := 1, tenGen := 1, op := 0x85, cid := 7, noCpl := false
                        ents := [], bufs := [] }

/-- A running device 10 ms later, with a second attachment, READY, whose one command may start. -/
def detachDue : State where
  clk := msec 10
  lk := { st := .running }
  jobs := [(9, flushJob)]
  sx := { atts := [(0, detaching), (1, { detaching with slot := 2, st := .ready, detach := none })]
          cmds := [(9, { att := 1, opc := 0, len := 0, read := false, st := .unsent, since := 0, tmo := 0 })] }

/-- Counter 0 of the storage engine: the commands sent to a target. -/
def cmdsSent (s : State) : Nat := cget s 15 0 0

/-- What is freed first sends none. -/
theorem detachDue_attFree_sent :
    cmdsSent (attFree ((cmdsOf detachDue 0).foldl (fun s c => dropJob s c.1) detachDue) 0) = 0 := by
  decide +kernel

/-- The command of the other attachment starts. -/
theorem detachDue_startCmds_sent :
    cmdsSent (startCmds (attFree ((cmdsOf detachDue 0).foldl (fun s c => dropJob s c.1) detachDue) 0)) = 1 := by
  decide +kernel

/-- Refutes O35: the statement leaves out that, after the detach whose 10 ms have passed, the commands that may start do. -/
theorem not_storageAttachments : ¬ Obligations.StorageAttachments := by
  rintro ⟨-, -, -, htimeout, -⟩
  have hrun : running detachDue = true := rfl
  have hclaimed : execNsDetachTimeout 0 detachDue =
      .next (attFree ((cmdsOf detachDue 0).foldl (fun s c => dropJob s c.1) detachDue) 0) :=
    htimeout 0 0 0 detaching detachDue rfl rfl (Nat.le_of_eq (Nat.zero_add _)) hrun
  have hmodel := execNsDetachTimeout_due (s := detachDue) (a := 0) (x := detaching) (k := 0) (p := 0) rfl rfl
    (Nat.le_of_eq (Nat.zero_add _)) hrun
  have hsent := congrArg cmdsSent (Host.Outcome.next.inj (hmodel.symm.trans hclaimed))
  exact absurd (detachDue_startCmds_sent.symm.trans (hsent.trans detachDue_attFree_sent)) (by decide)

end Sys2Proof.Machine

/-! PROOFS. Tallyman: a dump ring that ends marks the outstanding read of its head record (R88, R408). -/
namespace Sys2Proof.Machine

/-- DUMP_RING_DESTROY of a ring without a snapshot being written ends the ring at once (R408). -/
theorem execDumpRingDestroy_idle {s : State} {p : HostPort} {e : Entry} {d : DumpRing} (h : AdminCmd s p.val 0x39 e)
    (hzero : dwZero e 4 15 = true) (hring : mget? s.tl.rings (dumpRingOf e) = some d) (hidle : d.pend = none) :
    execDumpRingDestroy p s = .next (finishAdmin (dumpEnd s (dumpRingOf e)) p.val .success 0) := by
  refine congrArg Host.Outcome.next ((adminRun_run h).trans ?_)
  simp [hzero, hring, hidle]

/-- The end of such a ring marks the outstanding reads of its head record, and no other (R88). -/
theorem dumpEnd_sreads {s : State} {r : Nat} {d : DumpRing} (hring : mget? s.tl.rings r = some d)
    (hidle : d.pend = none) : (dumpEnd s r).sreads =
      mmap (fun _ x => if decide (x.what = .dump r) then { x with drop := true } else x) s.sreads := by
  simp only [dumpEnd, hring, hidle]
  rfl

/-- The end of an admin command leaves the outstanding reads. -/
theorem finishAdmin_sreads (s : State) (p : Nat) (st : Status) (r : Nat) : (finishAdmin s p st r).sreads = s.sreads := by
  obtain ⟨_, _, h⟩ := finishAdmin_frame s p st r
  rw [h]

/-- DUMP_RING_DESTROY of the device ring. -/
def destroyDeviceRing : Entry := ⟨[0x39]⟩

/-- The device ring, of port 0. -/
def deviceRing : DumpRing := { port := 0, ring := 0x8000, log2 := 5, noSnoop := false }

/-- A running device whose admin queue of port 0 executes that entry while a read of the ring's head record is
outstanding. -/
def headReadOutstanding : State where
  lk := { st := .running }
  hp := [(0, { aq := { active := true, cur := some destroyDeviceRing } })]
  sreads := [(8192, { port := 0, fn := .pf0, what := .dump 0, since := 0 })]
  tl := { rings := [(0, deviceRing)] }

/-- Refutes O42: DUMP_RING_DESTROY with a read of the ring's head record outstanding marks that read, so that its data will
be discarded, where the statement leaves every outstanding read as it was. -/
theorem not_tallymanCommands : ¬ Obligations.TallymanCommands := by
  rintro ⟨-, -, -, -, hdestroy, -⟩
  have hcmd : AdminCmd headReadOutstanding 0 0x39 destroyDeviceRing := by decide +kernel
  have hclaimed : execDumpRingDestroy 0 headReadOutstanding = .next _ :=
    hdestroy 0 destroyDeviceRing deviceRing headReadOutstanding hcmd (by decide) rfl rfl
  have hmodel : execDumpRingDestroy 0 headReadOutstanding =
      .next (finishAdmin (dumpEnd headReadOutstanding 0) 0 .success 0) :=
    execDumpRingDestroy_idle (p := 0) (d := deviceRing) hcmd (by decide) rfl rfl
  have hreads := congrArg State.sreads (Host.Outcome.next.inj (hmodel.symm.trans hclaimed))
  rw [finishAdmin_sreads, finishAdmin_sreads, dumpEnd_sreads (d := deviceRing) rfl rfl] at hreads
  exact absurd hreads (by decide)

end Sys2Proof.Machine

/-! PROOFS. Mailboxes: a GO lets the Lockkeeper come to the requests of other ports that it refuses (R423, R425). -/
namespace Sys2Proof.Machine

/-- MB_GO of a mailbox that is not BUSY makes it BUSY, and the refused requests whose turns have come are finished (R423). -/
theorem execMbGo_notBusy {s : State} {p : HostPort} {v : Word} (hlink : linkUp s p.val = true)
    (hmse : (fnOf s p.val .pf0).mse = true) (hlk : s.lk.st ≠ .lrs) (hgo : bitOf v.toNat 0 = true)
    (hidle : (mbOf s p.val).st ≠ .busy) :
    execMbGo p v s = .next (mbServe (modMb s p.val fun m => { m with st := .busy }) 8) := by
  refine congrArg Host.Outcome.next ((barGate_open hlink hmse _ _).trans ?_)
  dsimp only
  rw [if_neg hlk, if_pos hgo]
  simp only [mbCtrl, hgo, if_true, hidle, if_false]

/-- A running device with the link of host port 0 up. Its mailbox is IDLE and holds the header of a VERSION. It is the turn of
port 1, whose mailbox is BUSY with a command that no version has been chosen for, which the Lockkeeper refuses (R425). -/
def refusedBeforeGo : State where
  lk := { st := .running, mb := [(1, { st := .busy, area := [(0x100, 1)] })], mbNext := 1 }
  hp := [(0, { ltssm := .l0, perst := false, f0 := { mse := true } })]

/-- There the GO of port 0 finishes the command of port 1. -/
theorem refusedBeforeGo_mbServe_done :
    (mbOf (mbServe (modMb refusedBeforeGo 0 fun m => { m with st := .busy }) 8) 1).st = .done := by
  decide +kernel

/-- Refutes O40: where it is the turn of another port, whose command is refused, MB_GO finishes that command too, and the
statement leaves the other mailbox BUSY. -/
theorem not_mailboxCommands : ¬ Obligations.MailboxCommands := by
  rintro ⟨hgo, -⟩
  have hclaimed : execMbGo 0 1 refusedBeforeGo = .next (modMb refusedBeforeGo 0 fun m => { m with st := .busy }) :=
    hgo 0 1 refusedBeforeGo rfl rfl (by decide) (by decide) (by decide) (by decide +kernel)
  have hmodel := execMbGo_notBusy (s := refusedBeforeGo) (p := 0) (v := 1) rfl rfl (by decide) (by decide) (by decide)
  have hst := congrArg (fun t => (mbOf t 1).st) (Host.Outcome.next.inj (hmodel.symm.trans hclaimed))
  exact absurd (refusedBeforeGo_mbServe_done.symm.trans hst) (by decide)

end Sys2Proof.Machine

/-! PROOFS. Mender: the queue of worn parts, what a part that leaves it takes or becomes, and the ledger. -/
namespace Sys2Proof.Machine

/-! ### The queue of worn parts (R435, R439) -/

/-- The queue is empty. -/
def unqueued (s : State) : State := { s with md := { s.md with queue := [] } }

section
variable {s : State} {w : Worn} {ks : List Nat} {ok : Worn → Bool}

/-- The only part in the queue is the next of its kind, if it may be served. -/
theorem nextWorn_single (hq : s.md.queue = [w]) (hk : w.kind ∈ ks) (hok : ok w = true) : nextWorn s ks ok = some w := by
  simp [nextWorn, hq, hk, hok]

theorem nextWorn_refused (hq : s.md.queue = [w]) (hok : ok w = false) : nextWorn s ks ok = none := by
  simp [nextWorn, hq, hok]

/-- It leaves the queue. -/
theorem serveWorn_single (hq : s.md.queue = [w]) (hk : w.kind ∈ ks) (hok : ok w = true) (hrun : lkRuns s = true) :
    serveWorn s ks ok = takeSpare s w := by
  simp [serveWorn, nextWorn_single hq hk hok, hrun]

theorem serveWorn_refused (hq : s.md.queue = [w]) (hok : ok w = false) : serveWorn s ks ok = s := by
  rw [serveWorn, nextWorn_refused hq hok]

/-- A part worn while none waits has its spare kept for it (R439). -/
theorem partWorn_first (hq : s.md.queue = []) (hfree : freeSpares s w.kind (wearGroup w.kind w.part) ≠ []) :
    partWorn s w = { s with md := { s.md with queue := [w] } } := by
  have hlen : 1 ≤ (freeSpares s w.kind (wearGroup w.kind w.part)).length := List.length_pos_of_ne_nil hfree
  have hsame : freeSpares { s with md := { s.md with queue := [w] } } w.kind (wearGroup w.kind w.part) =
      freeSpares s w.kind (wearGroup w.kind w.part) := rfl
  simp only [partWorn, modMd, hq, queueWorn, queuedIn]
  rw [hsame, if_neg (by simp; omega)]

/-! ### Spares (R438, R443, R444) -/

/-- The part that leaves the queue takes the lowest free spare of its group, if the substitution can be entered. -/
theorem takeSpare_free {p : Nat} {r : List Nat} (hq : s.md.queue = [w])
    (hfree : freeSpares s w.kind (wearGroup w.kind w.part) = p :: r) (hroom : fuseFree s ≠ 0 ∨ volatRoom s = true) :
    takeSpare s w = substitute (unqueued s) w p := by
  have hfree' : freeSpares (unqueued s) w.kind (wearGroup w.kind w.part) = p :: r := hfree
  have hempty : (modMd s fun m => { m with queue := m.queue.erase w }) = unqueued s := by simp [modMd, unqueued, hq]
  have hroom' : ¬(fuseFree (unqueued s) = 0 ∧ !volatRoom (unqueued s)) := by
    rintro ⟨hfuse, hvolat⟩
    exact hroom.elim (fun h => h hfuse) fun h => by simp [show volatRoom (unqueued s) = true from h] at hvolat
  simp only [takeSpare, hempty, hfree']
  exact if_neg hroom'

/-- It runs degraded where neither a fuse entry is free nor the volatile table has room. -/
theorem takeSpare_noEntry {p : Nat} {r : List Nat} (hq : s.md.queue = [w])
    (hfree : freeSpares s w.kind (wearGroup w.kind w.part) = p :: r) (hfuse : fuseFree s = 0)
    (hroom : volatRoom s = false) : takeSpare s w = degrade (ledgerFull (unqueued s)) w.kind w.part := by
  have hfree' : freeSpares (unqueued s) w.kind (wearGroup w.kind w.part) = p :: r := hfree
  have hempty : (modMd s fun m => { m with queue := m.queue.erase w }) = unqueued s := by simp [modMd, unqueued, hq]
  have hroom' : fuseFree (unqueued s) = 0 ∧ !volatRoom (unqueued s) :=
    ⟨hfuse, by rw [show volatRoom (unqueued s) = false from hroom]; rfl⟩
  simp only [takeSpare, hempty, hfree']
  exact if_pos hroom'

/-- It runs degraded, and MD_SPARE_EXHAUSTED is raised, where its group has no spare left. -/
theorem takeSpare_exhausted (hq : s.md.queue = [w]) (hfree : freeSpares s w.kind (wearGroup w.kind w.part) = []) :
    takeSpare s w = exhausted (unqueued s) w.kind w.part := by
  have hfree' : freeSpares (unqueued s) w.kind (wearGroup w.kind w.part) = [] := hfree
  have hempty : (modMd s fun m => { m with queue := m.queue.erase w }) = unqueued s := by simp [modMd, unqueued, hq]
  simp only [takeSpare, hempty, hfree']

/-- Spare `p` stands in for a worn part, and the entry of that, in fuses or not, is to be written (R440, R441). -/
def spareTaken (s : State) (w : Worn) (p : Nat) (fuse : Bool) : State :=
  { s with
    md := { s.md with
      subs := s.md.subs ++ [(w.kind, w.part, p)]
      unwritten := s.md.unwritten ++ [({
        committed := fuse, kind := w.kind, reason := w.reason, frm := w.part, to_ := p, sec := ledgerSec s }, s.clk)] } }

/-- A substitution with a fuse entry free, of a part that is no cipher unit. -/
theorem substitute_fuse (hfuse : fuseFree s ≠ 0) (hk : w.kind ≠ 4 ∧ w.kind ≠ 5) (p : Nat) :
    substitute s w p = raise (spareTaken s w p true) .mdSubstituted 0 := by
  simp [substitute, hfuse, hk, modMd, spareTaken]

/-- A substitution with a fuse entry free, of an AES unit: its failed test is forgotten (R436). -/
theorem substitute_aes (hfuse : fuseFree s ≠ 0) (hk : w.kind = 4) (p : Nat) :
    substitute s w p =
      raise (modLs (spareTaken s w p true) fun l => { l with badAes := l.badAes.filter (· ≠ w.part) }) .mdSubstituted 0 := by
  simp [substitute, hfuse, hk, modMd, spareTaken]

/-- A substitution with no fuse entry free: MD_LEDGER_FULL is raised, the first time in this boot (R443). -/
theorem substitute_volatile (hfuse : fuseFree s = 0) (hk : w.kind ≠ 4 ∧ w.kind ≠ 5) (p : Nat) :
    substitute s w p = raise (ledgerFull (spareTaken s w p false)) .mdSubstituted 0 := by
  simp [substitute, hfuse, hk, modMd, spareTaken]

/-- A substitution adds an entry to the table of substitutions. -/
theorem spareTaken_subs_ne (s : State) (w : Worn) (p : Nat) (fuse : Bool) : (spareTaken s w p fuse).md.subs ≠ s.md.subs :=
  fun h => List.cons_ne_nil _ _ (List.append_right_eq_self.mp h)

/-! ### The commands -/

/-- ROW_REMAP without a spare row (R444). -/
theorem execRowRemap_exhausted (hq : s.md.queue = [w]) (hk : w.kind = 6 ∨ w.kind = 7) (hrun : lkRuns s = true)
    (hfree : freeSpares s w.kind (wearGroup w.kind w.part) = []) :
    execRowRemap s = .next (exhausted (unqueued s) w.kind w.part) := by
  have hkind : w.kind ∈ [6, 7] := by simpa using hk
  have hone : w.kind ≠ 1 := by omega
  have hserved := (serveWorn_single (ok := fun _ => true) hq hkind rfl hrun).trans (takeSpare_exhausted hq hfree)
  have hsubs : (exhausted (unqueued s) w.kind w.part).md.subs = s.md.subs := by
    simp only [exhausted, raise_md, degrade, if_neg hone]
    rfl
  simp only [execRowRemap, nextWorn_single (ok := fun _ => true) hq hkind rfl, hserved]
  rw [if_neg (not_not.mpr hsubs)]

/-- ROW_REMAP with a spare row: the entries of the row are written anew (R438). -/
theorem execRowRemap_free {p : Nat} {r : List Nat} (hq : s.md.queue = [w]) (hk : w.kind = 6 ∨ w.kind = 7)
    (hrun : lkRuns s = true) (hfree : freeSpares s w.kind (wearGroup w.kind w.part) = p :: r) (hfuse : fuseFree s ≠ 0) :
    execRowRemap s = .next (rowFresh (raise (spareTaken (unqueued s) w p true) .mdSubstituted 0) w.part) := by
  have hkind : w.kind ∈ [6, 7] := by simpa using hk
  have hserved := (serveWorn_single (ok := fun _ => true) hq hkind rfl hrun).trans
    ((takeSpare_free hq hfree (.inl hfuse)).trans (substitute_fuse (s := unqueued s) hfuse (by omega) p))
  have hsubs : (raise (spareTaken (unqueued s) w p true) .mdSubstituted 0).md.subs ≠ s.md.subs := by
    rw [raise_md]
    exact spareTaken_subs_ne (unqueued s) w p true
  simp only [execRowRemap, nextWorn_single (ok := fun _ => true) hq hkind rfl, hserved]
  rw [if_pos hsubs]

end

/-- Settles O22: a worn part is entered in the queue, leaves it for its spare or to run degraded, and its entry is written;
what may not be served yet changes nothing. -/
theorem menderCommands : Obligations.MenderCommands := by
  refine ⟨fun u s hrun hin hnew hidle => ?kat, fun p c s hrun hthr hin hwell hq hfree _ => ?wear,
    fun w p r s hq hk hrun hfree hoff hfuse => ?core, fun w p r s hq hk hrun hfree hfuse => ?lpm,
    fun w p r s hq hk hrun hfree hfuse hidle => ?cipher, fun w s hq hk hrun hfuse => ?row,
    fun e n r s hfirst hrun hfuse => ?fuses, fun e n r s hfirst hrun hfuse => ?volatile,
    fun w p r s hq hk hrun hfree hoff hfuse hroom hfull => ?full,
    fun w p r s hq hk hrun hfree hoff hfuse hroom hfull => ?degraded,
    fun w s hq hk hbusy => ?cipherBusy, fun u s hbusy => ?katBusy⟩
  case kat =>
    have hpart : ¬partCount 4 ≤ u.val := Nat.not_le.mpr u.isLt
    refine (if_neg ?_).trans (if_pos hin)
    simp [hrun, hnew, hidle, hpart, lsRoom]
  case wear =>
    have hrows : rowErrors s .coreUncorr p.toNat c.toNat = s := rfl
    refine (if_neg (by simp [hrun])).trans ((if_pos ?_).trans (congrArg Host.Outcome.next (partWorn_first hq hfree)))
    exact ⟨hthr, hin, by simp [hrows, hwell], by simp [hrows, hq], rfl⟩
  case core =>
    refine congrArg Host.Outcome.next ((serveWorn_single hq (by simp [hk]) (by simp [hoff]) hrun).trans ?_)
    exact (takeSpare_free hq hfree (.inl hfuse)).trans (substitute_fuse (s := unqueued s) hfuse (by omega) p)
  case lpm =>
    refine congrArg Host.Outcome.next ((serveWorn_single hq (by simp [hk]) rfl hrun).trans ?_)
    exact (takeSpare_free hq hfree (.inl hfuse)).trans (substitute_fuse (s := unqueued s) hfuse (by omega) p)
  case cipher =>
    refine congrArg Host.Outcome.next ((serveWorn_single hq (by simp [hk]) (by simp [hk, hidle]) hrun).trans ?_)
    exact (takeSpare_free hq hfree (.inl hfuse)).trans (substitute_aes (s := unqueued s) hfuse hk p)
  case row =>
    cases hfree : freeSpares s w.kind (wearGroup w.kind w.part) with
    | nil =>
      have hone : w.kind ≠ 1 := by omega
      refine (execRowRemap_exhausted hq hk hrun hfree).trans (congrArg Host.Outcome.next ?_)
      simp only [exhausted, degrade, if_neg hone]
      rfl
    | cons p r => exact execRowRemap_free hq hk hrun hfree hfuse
  case fuses =>
    show execLedgerWrite s = _
    simp [execLedgerWrite, hfirst, hrun, hfuse, modMd]
  case volatile =>
    show execLedgerWrite s = _
    simp [execLedgerWrite, hfirst, hrun, hfuse, modMd]
  case full =>
    refine congrArg Host.Outcome.next ((serveWorn_single hq (by simp [hk]) (by simp [hoff]) hrun).trans ?_)
    refine (takeSpare_free hq hfree (.inr hroom)).trans ((substitute_volatile (s := unqueued s) hfuse (by omega) p).trans ?_)
    have hnot : ¬(spareTaken (unqueued s) w p false).md.full = true := ne_true_of_eq_false hfull
    exact congrArg (raise · .mdSubstituted 0) (if_neg hnot)
  case degraded =>
    refine congrArg Host.Outcome.next ((serveWorn_single hq (by simp [hk]) (by simp [hoff]) hrun).trans ?_)
    rw [takeSpare_noEntry hq hfree hfuse hroom, show ledgerFull (unqueued s) = unqueued s from if_pos hfull, degrade, if_pos hk]
    rfl
  case cipherBusy => exact congrArg Host.Outcome.next (serveWorn_refused hq (by simp [hk, hbusy]))
  case katBusy => exact if_pos (.inr (.inr (.inr (.inr (Nat.le_of_eq hbusy.symm)))))

end Sys2Proof.Machine


/-! PROOFS. The debug port: the requests that it serves, and the end of a session. -/
namespace Sys2Proof.Machine

/-! ### Serving a request (R470, R471, R477) -/

/-- The debug port with a request taken from the front of its line. -/
def dbTaken (s : State) (l : List (Nat × Nat × List Nat × Bool)) : State := modDb s fun d => { d with reqs := l }

/-- A request whose body has run: its answer takes its place in line, or is still to come. -/
def dbAnswer (op q : Nat) : State × Option (Nat × List Nat) → State
  | (t, some (n, res)) => respond t op q true n res
  | (t, none) => t

section
variable {s : State} {op q : Nat} {y : List Nat} {l : List (Nat × Nat × List Nat × Bool)} {free : Bool}
  {right : List Nat → Option Nat} {lenOk : List Nat → Bool}
  {body : State → Nat → List Nat → State × Option (Nat × List Nat)}

/-- What a request has to meet before its body runs: the session and the right that it needs, and its length. -/
structure DbAllowed (s : State) (y : List Nat) (free : Bool) (right : List Nat → Option Nat) (lenOk : List Nat → Bool) :
    Prop where
  session : s.dbg.st = .open ∨ free = true
  granted : s.dbg.st = .open → (right y).all (fun b => bitOf s.dbg.rights b) = true
  length : lenOk y = true

/-- In an open session, a request that needs one right and has it. -/
theorem dbAllowed_of_right {b : Nat} (hopen : s.dbg.st = .open) (hneeds : right y = some b)
    (hright : bitOf s.dbg.rights b = true) (hlen : lenOk y = true) : DbAllowed s y free right lenOk where
  session := .inl hopen
  granted _ := by rw [hneeds]; exact hright
  length := hlen

/-- A request that is served outside a session too, and needs no right. -/
theorem dbAllowed_free (hlen : lenOk y = true) : DbAllowed s y true noRight lenOk where
  session := .inr rfl
  granted _ := rfl
  length := hlen

variable (hreq : s.dbg.reqs = (op, q, y, true) :: l) (hlive : s.lk.st ≠ .lrs)
include hreq hlive

/-- The checks of a request in their order. -/
theorem dbRun_front :
    dbRun s op free right lenOk body =
      if (!decide (s.dbg.st = .open)) ∧ !free then respond (dbTaken s l) op q true 2 []
      else if decide (s.dbg.st = .open) && (right y).any (fun b => !bitOf s.dbg.rights b) then
        respond (dbTaken s l) op q true 3 []
      else if !lenOk y then respond (dbTaken s l) op q true 4 []
      else dbAnswer op q (body (dbTaken s l) q y) := by
  unfold dbRun
  simp only [hreq]
  rw [if_neg (not_not_intro rfl)]
  refine (if_neg fun h => hlive h.1).trans (if_congr Iff.rfl rfl (if_congr Iff.rfl rfl (if_congr Iff.rfl rfl ?_)))
  rcases hbody : body (dbTaken s l) q y with ⟨t, - | ⟨n, res⟩⟩
  all_goals
    unfold dbTaken at hbody
    rw [hbody]
    rfl

/-- The body of a request that is allowed answers it. -/
theorem dbRun_allowed (hallow : DbAllowed s y free right lenOk) :
    dbRun s op free right lenOk body = dbAnswer op q (body (dbTaken s l) q y) := by
  obtain ⟨hsession, hgranted, hlen⟩ := hallow
  have hopen : ¬((!decide (s.dbg.st = .open)) = true ∧ (!free) = true) := by
    rcases hsession with h | h <;> simp [h]
  have hright : ¬(decide (s.dbg.st = .open) && (right y).any fun b => !bitOf s.dbg.rights b) = true := by
    by_cases h : s.dbg.st = .open
    · cases hy : right y <;> simp_all
    · simp [h]
  rw [dbRun_front hreq hlive, if_neg hopen, if_neg hright, if_neg (by simp [hlen])]

/-- A request that needs a session answers NOT_AUTHORISED without one. -/
theorem dbRun_notAuthorised (hclosed : s.dbg.st ≠ .open) :
    dbRun s op false right lenOk body = respond (dbTaken s l) op q true 2 [] := by
  rw [dbRun_front hreq hlive, if_pos (by simp [hclosed])]

/-- A request answers NO_RIGHT where the session does not have the right that it needs. -/
theorem dbRun_noRight {b : Nat} (hopen : s.dbg.st = .open) (hneeds : right y = some b)
    (hright : bitOf s.dbg.rights b = false) :
    dbRun s op free right lenOk body = respond (dbTaken s l) op q true 3 [] := by
  rw [dbRun_front hreq hlive, if_neg (by simp [hopen]), if_pos (by simp [hopen, hneeds, hright])]

end

/-! ### The end of a session (R474) -/

/-- `t` is `s` but for the cores and the record of the halted time. -/
def ThreadsOnly (s t : State) : Prop :=
  ∃ cores since acc, t = { s with cores := cores, dbg := { s.dbg with haltSince := since, haltAcc := acc } }

namespace ThreadsOnly

variable {s t u : State}

theorem refl (s : State) : ThreadsOnly s s := ⟨_, _, _, rfl⟩

theorem trans (h : ThreadsOnly s t) (k : ThreadsOnly t u) : ThreadsOnly s u := by
  obtain ⟨_, _, _, rfl⟩ := h
  obtain ⟨_, _, _, rfl⟩ := k
  exact ⟨_, _, _, rfl⟩

theorem modThr (h : ThreadsOnly s t) (c n : Nat) (f : Thr → Thr) : ThreadsOnly s (modThr t c n f) := by
  obtain ⟨_, dbg, hput⟩ := putThr_frame t c n (f (thrOf t c n))
  obtain ⟨cores, cnt, since, acc, hcores⟩ := (CoresOnly.refl t).modThr c n f
  have hcnt : cnt = t.cnt := (congrArg State.cnt hcores).symm.trans (congrArg State.cnt hput :)
  subst hcnt
  exact h.trans ⟨cores, since, acc, hcores⟩

/-- Threads of a core changed where a test says so. -/
theorem threads (h : ThreadsOnly s t) (c : Nat) (f : Thr → Thr) (p : State → Nat → Prop) [∀ u n, Decidable (p u n)] :
    ThreadsOnly s ((List.range 16).foldl (fun u n => if p u n then Machine.modThr u c n f else u) t) :=
  List.foldlRecOn (motive := ThreadsOnly s) _ _ h fun u hu n _ => by
    split
    · exact hu.modThr ..
    · exact hu

theorem closeCore (h : ThreadsOnly s t) (c : Nat) : ThreadsOnly s (closeCore t c) := h.threads ..

theorem resumeMask (h : ThreadsOnly s t) (c mask : Nat) : ThreadsOnly s (resumeMask t c mask) := h.threads ..

end ThreadsOnly

/-- A session that closes: no session, no right and no point is left, and the threads are resumed. -/
theorem closeSession_open {s : State} (hopen : s.dbg.st = .open) :
    ∃ cores since acc, closeSession s = { s with
      cores := cores
      dbg := { s.dbg with st := .closed, rights := 0, bps := [], wps := [], haltSince := since, haltAcc := acc } } := by
  obtain ⟨cores, since, acc, h⟩ :=
    List.foldlRecOn (motive := ThreadsOnly (modDb s fun d => { d with st := .closed, rights := 0, bps := [], wps := [] }))
      (s.cores.map (·.1)) closeCore (.refl _) fun u hu c _ => hu.closeCore c
  exact ⟨cores, since, acc, (if_pos hopen).trans h⟩

theorem closeSession_closed {s : State} (hclosed : s.dbg.st ≠ .open) : closeSession s = s := if_neg hclosed

/-! ### The test access port (R467, R468) -/

theorem execTapReset_closed {s : State} (hclosed : s.dbg.st ≠ .open) (hreqs : s.dbg.reqs = []) :
    execTapReset s = .next { s with
      dbg := { s.dbg with ir := 0x01, frameIn := [], frameOut := [], outFirst := false, waiting := none } } := by
  unfold execTapReset
  rw [closeSession_closed hclosed]
  simp only [modDb, hreqs, List.map_nil]

theorem execTapReset_open {s : State} (hopen : s.dbg.st = .open) :
    ∃ t, execTapReset s = .next t ∧ t.dbg.st = .closed ∧ t.dbg.rights = 0 ∧ t.dbg.bps = [] ∧ t.dbg.wps = [] ∧
      t.dbg.ir = 1 ∧ t = { s with dbg := t.dbg, cores := t.cores } := by
  obtain ⟨cores, since, acc, hclose⟩ := closeSession_open hopen
  refine ⟨_, rfl, ?_⟩
  rw [hclose]
  exact ⟨rfl, rfl, rfl, rfl, rfl, rfl⟩

section
variable {s : State} {w : BitVec 36} (hpor : s.boot.por = true) (hwait : s.dbg.waiting = none)
  (hout : s.dbg.frameOut = [])
include hpor hwait hout

/-- With nothing to answer an empty word goes out, and the word comes in after it. -/
theorem execGygarWord_silent :
    execGygarWord w s =
      .next (wordIn { s with dbg := { s.dbg with ir := 0x20 }, out := .tap 36 (2 ^ 33) :: s.out } w.toNat) := by
  have hidle : waitDone (modDb s fun d => { d with ir := 0x20 }) = modDb s fun d => { d with ir := 0x20 } := by
    simp only [waitDone, modDb, hwait]
  have hempty : wordOut (modDb s fun d => { d with ir := 0x20 }) =
      { s with dbg := { s.dbg with ir := 0x20 }, out := .tap 36 (2 ^ 33) :: s.out } := by
    simp only [wordOut, modDb, hout, emit]
  refine (if_pos hpor).trans ?_
  rw [hidle, hempty]

theorem execGygarWord_invalid (hv : bitOf w.toNat 35 = false) :
    execGygarWord w s = .next { s with dbg := { s.dbg with ir := 0x20 }, out := .tap 36 (2 ^ 33) :: s.out } := by
  rw [execGygarWord_silent hpor hwait hout, wordIn, if_pos (by simp [hv])]

theorem execGygarWord_inFrame {h : Nat} {x : List Nat} (hv : bitOf w.toNat 35 = true) (hfirst : bitOf w.toNat 34 = false)
    (hin : s.dbg.frameIn = h :: x) (hmore : x.length + 2 < h % 65536 + 2) :
    execGygarWord w s = .next { s with
      dbg := { s.dbg with ir := 0x20, frameIn := h :: x ++ [w.toNat % 2 ^ 32] }
      out := .tap 36 (2 ^ 33) :: s.out } := by
  have hlen : (h :: x ++ [w.toNat % 2 ^ 32]).length ≠ h % 65536 + 2 := by simp; omega
  rw [execGygarWord_silent hpor hwait hout, wordIn, if_neg (by simp [hv]), if_neg (by simp [hfirst])]
  simp only [hin, lo32, if_neg hlen, modDb]

end

/-! ### Authorisation and the end of a session (R470, R474) -/

section
variable {s : State} {q : Nat} {y : List Nat} {l : List (Nat × Nat × List Nat × Bool)}

/-- The length of an AUTH and its RIGHTS. -/
theorem dbAllowed_auth (hlen : y.length = 49) (hrights : y.getD 0 0 < 16) :
    DbAllowed s y true noRight fun pl => lenIs 49 pl && decide (pl.getD 0 0 < 16) :=
  dbAllowed_free (by simp only [lenIs, hlen, decide_true, Bool.true_and, decide_eq_true hrights])

/-- Up to the third failure in a row the port is CLOSED again. -/
theorem authFail_row (hst : s.dbg.st = .challenged) (hrow : s.dbg.row < 3) :
    authFail s = raise { s with dbg := { s.dbg with
      st := .closed, nonce := none, fails := satInc 65535 s.dbg.fails, row := s.dbg.row + 1 } } .dbAuthFail 0 := by
  have hfew : ¬s.dbg.row + 1 ≥ 4 := by omega
  simp only [authFail, modDb, hst, reduceCtorEq, if_false, if_neg hfew]

/-- The fourth failure in a row locks out for 60 s. -/
theorem authFail_locks (hst : s.dbg.st = .challenged) (hrow : s.dbg.row = 3) :
    authFail s = raise { s with dbg := { s.dbg with
      st := .lockedOut, nonce := none, fails := satInc 65535 s.dbg.fails, row := 0
      lockTill := s.clk + 60 * 10 ^ 12 } } .dbAuthFail 0 := by
  simp [authFail, modDb, hst, hrow]

variable (hlive : s.lk.st ≠ .lrs)
include hlive

theorem execChallenge_answers (hreq : s.dbg.reqs = (0x01, q, y, true) :: l) (hlen : y = [])
    (hst : s.dbg.st = .closed ∨ s.dbg.st = .challenged) (hkey : (debugKey s).isSome = true) :
    execChallenge s = .next (
      let n := (List.range 4).flatMap fun k =>
        [(Config.entropy (s.free + k)).toNat % 2 ^ 32, (Config.entropy (s.free + k)).toNat / 2 ^ 32 % 2 ^ 32]
      respond { s with free := s.free + 4, dbg := { s.dbg with reqs := l, st := .challenged, nonce := some n } }
        0x01 q true 0 n) := by
  have hkey' : ¬(debugKey (dbTaken s l)).isNone = true := by
    rw [show debugKey (dbTaken s l) = debugKey s from rfl, Option.isNone_iff_eq_none]
    exact Option.isSome_iff_ne_none.mp hkey
  unfold execChallenge
  rw [dbRun_allowed hreq hlive (dbAllowed_free (by rw [hlen]; rfl))]
  have hlock : ¬(dbTaken s l).dbg.st = .lockedOut := fun h => by
    have h' : s.dbg.st = .lockedOut := h
    simp [h'] at hst
  have hopen : ¬((dbTaken s l).dbg.st = .open ∨ (debugKey (dbTaken s l)).isNone = true) := by
    rintro (h | h)
    · have h' : s.dbg.st = .open := h
      simp [h'] at hst
    · exact hkey' h
  rw [if_neg hlock, if_neg hopen]
  rfl

theorem execAuth_verified (hreq : s.dbg.reqs = (0x02, q, y, true) :: l) (hlen : y.length = 49)
    (hrights : y.getD 0 0 < 16) (hst : s.dbg.st = .challenged) (hnonce : s.dbg.nonce.isSome = true)
    (hkey : (debugKey s).isSome = true) :
    execAuth true s = .next (respond (raise { s with
      dbg := { s.dbg with
        reqs := l, st := .open, rights := y.getD 0 0, nonce := none, row := 0
        sessions := satInc 65535 s.dbg.sessions } } .dbSessionOpen 0) 0x02 q true 0 []) := by
  have hnew : ¬(dbTaken s l).dbg.st = .open := by simp [dbTaken, modDb, hst]
  unfold execAuth
  rw [dbRun_allowed hreq hlive (dbAllowed_auth hlen hrights), if_neg hnew, if_pos ⟨hnonce, hst, hkey, rfl⟩]
  rfl

/-- An AUTH whose signature does not verify. -/
theorem execAuth_fails (hreq : s.dbg.reqs = (0x02, q, y, true) :: l) (hlen : y.length = 49)
    (hrights : y.getD 0 0 < 16) (hst : s.dbg.st = .challenged) :
    execAuth false s = .next (respond (authFail (dbTaken s l)) 0x02 q true 2 []) := by
  have hnew : ¬(dbTaken s l).dbg.st = .open := by simp [dbTaken, modDb, hst]
  unfold execAuth
  rw [dbRun_allowed hreq hlive (dbAllowed_auth hlen hrights), if_neg hnew, if_neg fun h => Bool.false_ne_true h.2.2.2]
  rfl

theorem execClose_open (hreq : s.dbg.reqs = (0x03, q, y, true) :: l) (hopen : s.dbg.st = .open) (hlen : y = []) :
    execClose s = .next (respond (closeSession (dbTaken s l)) 0x03 q true 0 []) := by
  unfold execClose
  rw [dbRun_allowed hreq hlive ⟨.inl hopen, fun _ => rfl, by rw [hlen]; rfl⟩]
  rfl

/-- After a CLOSE there is no session, no right and no point, and the answer is in line. -/
theorem execClose_ends (hreq : s.dbg.reqs = (0x03, q, y, true) :: l) (hopen : s.dbg.st = .open) (hlen : y = []) :
    ∃ t, execClose s = .next t ∧ t.dbg.st = .closed ∧ t.dbg.rights = 0 ∧ t.dbg.bps = [] ∧ t.dbg.wps = [] ∧
      t.dbg.reqs = l ∧ t.dbg.frameOut.take 2 = [word [(24, 0x03), (16, q), (0, 1)], 0] := by
  obtain ⟨cores, since, acc, hclose⟩ := closeSession_open (s := dbTaken s l) hopen
  refine ⟨_, execClose_open hlive hreq hopen hlen, ?_⟩
  rw [hclose]
  exact ⟨rfl, rfl, rfl, rfl, rfl, rfl⟩

theorem execStatus_open (hreq : s.dbg.reqs = (0x04, q, y, true) :: l) (hopen : s.dbg.st = .open)
    (hright : bitOf s.dbg.rights 0 = true) (hlen : y = []) :
    execStatus s = .next (respond (dbTaken s l) 0x04 q true 0 (statusWords (dbTaken s l))) := by
  unfold execStatus
  rw [dbRun_allowed hreq hlive (dbAllowed_of_right hopen rfl hright (by rw [hlen]; rfl))]
  rfl

end

/-- 60 s without a frame end the session. -/
theorem execSessionIdleTimeout_due {s : State} (hopen : s.dbg.st = .open)
    (hdue : s.dbg.lastFrame + 60 * 10 ^ 12 ≤ s.clk) :
    ∃ t, execSessionIdleTimeout s = .next t ∧ t.dbg.st = .closed ∧ t.dbg.rights = 0 ∧ t.dbg.bps = [] ∧
      t.dbg.wps = [] ∧ t = { s with dbg := t.dbg, cores := t.cores } := by
  obtain ⟨cores, since, acc, hclose⟩ := closeSession_open hopen
  refine ⟨_, (if_pos ⟨hopen, hdue⟩).trans (congrArg Host.Outcome.next hclose), ?_⟩
  exact ⟨rfl, rfl, rfl, rfl, rfl⟩

/-- Settles O43: each clause is the rule of its command. -/
theorem testAccessPort : Obligations.TestAccessPort :=
  ⟨fun _ => rfl, fun _ => rfl, fun _ _ => rfl, fun _ hpor => if_neg (by rw [hpor]; decide), fun _ hpor => if_pos hpor,
    fun _ hclosed hreqs => execTapReset_closed hclosed hreqs, fun _ hopen => execTapReset_open hopen,
    fun _ _ hpor hwait hout hv => execGygarWord_invalid hpor hwait hout hv,
    fun _ _ _ _ hpor hwait hout hv hin hmore => execGygarWord_inFrame hpor hwait hout hv.1 hv.2 hin hmore,
    fun _ _ _ _ hreq hlive hlen hst hkey => execChallenge_answers hlive hreq hlen hst hkey,
    fun _ _ _ _ hreq hlive hy hst hnonce hkey => execAuth_verified hlive hreq hy.1 hy.2 hst hnonce hkey,
    fun _ _ l s hreq hlive hy hst hrow => by
      refine (execAuth_fails hlive hreq hy.1 hy.2 hst).trans ?_
      rw [authFail_row (s := dbTaken s l) hst hrow]
      rfl,
    fun _ _ l s hreq hlive hy hst hrow => by
      refine (execAuth_fails hlive hreq hy.1 hy.2 hst).trans ?_
      rw [authFail_locks (s := dbTaken s l) hst hrow]
      rfl,
    fun _ _ _ _ hreq hlive hopen hlen => execClose_open hlive hreq hopen hlen,
    fun _ _ _ _ hreq hlive hopen hright hlen => execStatus_open hlive hreq hopen hright hlen,
    fun _ hopen hdue => execSessionIdleTimeout_due hopen hdue,
    fun _ hst hdue => if_pos ⟨hst, hdue⟩,
    fun _ _ _ _ hreq hlive hopen hlen => execClose_ends hlive hreq hopen hlen⟩

end Sys2Proof.Machine


/-! PROOFS. Gygar's commands: run control, points, reads and writes. -/
namespace Sys2Proof.Machine

/-! ### One thread after another -/

/-- A fold visits one place once: what holds up to it, what its visit makes, and what the later visits keep. -/
theorem foldl_visits {α β : Type} {f : β → α → β} {K Q : β → Prop} {a : α} {l : List α} (hl : l.Nodup) (ha : a ∈ l)
    (hbefore : ∀ u x, x ≠ a → K u → K (f u x)) (hat : ∀ u, K u → Q (f u a))
    (hafter : ∀ u x, x ≠ a → Q u → Q (f u x)) {b : β} (hb : K b) : Q (l.foldl f b) := by
  obtain ⟨before, after, rfl⟩ := List.append_of_mem ha
  have hnot : a ∉ before ∧ a ∉ after := by
    simp only [List.nodup_append, List.nodup_cons] at hl
    exact ⟨fun h => hl.2.2 a h a (List.mem_cons_self ..) rfl, hl.2.1.1⟩
  rw [List.foldl_append, List.foldl_cons]
  refine List.foldlRecOn (motive := Q) _ _ (hat _ ?_) fun u hu x hx => hafter u x (fun h => hnot.2 (h ▸ hx)) hu
  exact List.foldlRecOn (motive := K) _ _ hb fun u hu x hx => hbefore u x (fun h => hnot.1 (h ▸ hx)) hu

/-- A thread's place in its core is left when another is stored. -/
theorem place_putThr_ne (s : State) (c : Nat) {t m : Nat} (th : Thr) (h : m ≠ t) :
    mget? (coreOf (putThr s c t th) c).threads m = mget? (coreOf s c).threads m := by
  obtain ⟨act, hc⟩ := coreOf_putThr_same s c t th
  rw [hc]
  exact mget?_mset_ne _ _ _ _ h

theorem thrOf_of_place {s u : State} {c m : Nat} (h : mget? (coreOf u c).threads m = mget? (coreOf s c).threads m) :
    thrOf u c m = thrOf s c m := by
  unfold thrOf mget
  rw [h]

/-- Threads of a core changed where a test says so: one for which it says so as long as the thread is as it was is
changed, and its run time is kept. -/
theorem thrOf_foldThreads {s : State} {c i : Nat} {f : Thr → Thr} {p : State → Nat → Prop} [∀ u n, Decidable (p u n)]
    (hi : i < 16) (hp : ∀ u, mget? (coreOf u c).threads i = mget? (coreOf s c).threads i → p u i) :
    ∃ acc at', thrOf ((List.range 16).foldl (fun u n => if p u n then modThr u c n f else u) s) c i =
      { f (thrOf s c i) with runAcc := acc, runAt := at' } := by
  refine foldl_visits (K := fun u => mget? (coreOf u c).threads i = mget? (coreOf s c).threads i)
    (Q := fun u => ∃ acc at', thrOf u c i = { f (thrOf s c i) with runAcc := acc, runAt := at' })
    List.nodup_range (List.mem_range.mpr hi) ?before ?visit ?after rfl
  case before =>
    intro u n hn hu
    split
    · exact (place_putThr_ne u c _ hn.symm).trans hu
    · exact hu
  case visit =>
    intro u hu
    rw [if_pos (hp u hu), modThr, thrOf_putThr_same, thrOf_of_place hu]
    exact timedThr_eq ..
  case after =>
    rintro u n hn ⟨acc, at', hu⟩
    split
    · exact ⟨acc, at', (thrOf_putThr_ne u c _ hn.symm).trans hu⟩
    · exact ⟨acc, at', hu⟩

/-! ### Halting and resuming threads (R472) -/

section
variable {s : State} {c mask i : Nat} (hi : i < 16) (hbit : bitOf mask i = true)
include hi hbit

theorem thrOf_haltMask (hthr : (mget? (coreOf s c).threads i).isSome = true) :
    ∃ acc at', thrOf (haltMask s c mask) c i = { haltThr (thrOf s c i) with runAcc := acc, runAt := at' } :=
  thrOf_foldThreads hi fun _ hu => ⟨hbit, hu ▸ hthr⟩

theorem thrOf_resumeMask (hst : (thrOf s c i).st = .halted) :
    ∃ acc at', thrOf (resumeMask s c mask) c i = { resumeThr (thrOf s c i) with runAcc := acc, runAt := at' } :=
  thrOf_foldThreads hi fun _ hu => ⟨hbit, (congrArg Thr.st (thrOf_of_place hu)).trans hst⟩

/-- Where no halt is still to come, a thread of the mask that ran or waited is HALTED where it was. -/
theorem haltMask_halts (hthr : (mget? (coreOf s c).threads i).isSome = true)
    (hst : (thrOf s c i).st = .running ∨ (thrOf s c i).st = .waiting)
    (hnone : anyThr (haltMask s c mask) c mask (·.haltPend) = false) :
    (thrOf (haltMask s c mask) c i).st = .halted ∧ (thrOf (haltMask s c mask) c i).pc = (thrOf s c i).pc ∧
      (thrOf (haltMask s c mask) c i).regs = (thrOf s c i).regs := by
  obtain ⟨acc, at', hhalt⟩ := thrOf_haltMask hi hbit hthr
  have hpend : (thrOf (haltMask s c mask) c i).haltPend = false := by
    have hall := List.any_eq_false.mp hnone i (List.mem_range.mpr hi)
    simpa [hbit] using hall
  rw [hhalt] at hpend ⊢
  unfold haltThr at hpend ⊢
  by_cases hstall : (thrOf s c i).stall.isSome
  · rw [if_pos hstall] at hpend
    exact absurd hpend.symm Bool.false_ne_true
  · rw [if_neg hstall, if_pos hst]
    exact ⟨rfl, rfl, rfl⟩

/-- A HALTED thread of the mask that does not wait is in its previous state where it was. -/
theorem resumeMask_resumes (hst : (thrOf s c i).st = .halted) (hwait : (thrOf s c i).wait = none) :
    (thrOf (resumeMask s c mask) c i).st = (thrOf s c i).prev ∧
      (thrOf (resumeMask s c mask) c i).pc = (thrOf s c i).pc := by
  obtain ⟨acc, at', hresume⟩ := thrOf_resumeMask hi hbit hst
  have hthr : resumeThr (thrOf s c i) = { thrOf s c i with st := (thrOf s c i).prev } := by
    rw [resumeThr, if_pos hst]
    simp only [wake, hwait]
  rw [hresume, hthr]
  exact ⟨rfl, rfl⟩

end

/-! ### What the freeing of buffers and the end of jobs leave of the flow cores -/

/-- The cores, the image slots and the debug port. -/
def flowOf (s : State) : Map Core × Map Byte × Dbg := (s.cores, s.fwmem, s.dbg)

theorem flowOf_raise (s : State) (e : Ev) (i : Nat) : flowOf (raise s e i) = flowOf s := by rw [raise_frame]; rfl

theorem flowOf_raiseOnce (s : State) (e : Ev) (i : Nat) : flowOf (raiseOnce s e i) = flowOf s := by
  unfold raiseOnce
  split
  · rfl
  · exact flowOf_raise s e i

theorem flowOf_sendPause (s : State) (p c time : Nat) : flowOf (sendPause s p c time) = flowOf s := by
  unfold sendPause
  split
  · rfl
  · exact (apply_ite flowOf ..).trans (ite_self _)

theorem flowOf_xonCheck (s : State) (p c : Nat) : flowOf (xonCheck s p c) = flowOf s := by
  unfold xonCheck
  split
  · exact flowOf_sendPause ..
  · rfl

theorem flowOf_unheld (s : State) (b : Nat) : flowOf (unheld s b) = flowOf s := by
  unfold unheld
  split
  · exact flowOf_xonCheck ..
  · rfl

theorem flowOf_setFree (s : State) (b : Nat) : flowOf (setFree s b) = flowOf s := by
  unfold setFree hcDrop forget
  exact flowOf_unheld ..

theorem flowOf_devFree (s : State) (b : Nat) : flowOf (devFree s b) = flowOf s := by
  unfold devFree
  split
  · exact flowOf_setFree s b
  · rfl

/-- A fold of steps that leave it. -/
theorem flowOf_foldl {α : Type} {f : State → α → State} (l : List α) (s : State)
    (hf : ∀ u a, flowOf (f u a) = flowOf u) : flowOf (l.foldl f s) = flowOf s :=
  List.foldlRecOn (motive := fun u => flowOf u = flowOf s) _ _ rfl fun u hu a _ => (hf u a).trans hu

theorem flowOf_cacheReturn (s : State) (r p : Nat) : flowOf (cacheReturn s r p) = flowOf s :=
  flowOf_foldl _ s flowOf_setFree

theorem flowOf_refuseFree (s : State) (r : Nat) : flowOf (refuseFree s r) = flowOf s := by
  unfold refuseFree
  dsimp only
  split
  · exact (flowOf_raise ..).trans (flowOf_foldl _ _ fun u p => flowOf_cacheReturn u r p)
  · rfl

theorem flowOf_bufFree (s : State) (b r : Nat) : flowOf (bufFree s b r).2 = flowOf s := by
  unfold bufFree
  split
  · exact flowOf_refuseFree ..
  · split
    · exact (flowOf_refuseFree ..).trans (flowOf_raiseOnce ..)
    · split
      · exact (flowOf_refuseFree ..).trans (flowOf_raiseOnce ..)
      · split
        · exact flowOf_setFree s b
        · exact (flowOf_refuseFree ..).trans (flowOf_raiseOnce ..)

theorem flowOf_heldFree (s : State) (c b : Nat) : flowOf (heldFree s c b) = flowOf s := by
  unfold heldFree
  split
  · split
    · rfl
    · exact flowOf_bufFree ..
  · rfl

theorem flowOf_finishJob (s : State) (uid : Nat) (st : Status) (r : Nat) : flowOf (finishJob s uid st r) = flowOf s := by
  obtain ⟨j, c, h⟩ := finishJob_frame s uid st r
  rw [h]
  rfl

theorem flowOf_discardDesc (s : State) (r : Nat) (d : FDesc) (st : Status) (gone : Bool) :
    flowOf (discardDesc s r d st gone) = flowOf s := by
  unfold discardDesc
  split
  · split
    · refine (flowOf_finishJob ..).trans ?_
      split
      · rfl
      · exact flowOf_devFree s d.buf
    · rfl
  · exact flowOf_devFree s d.buf

theorem flowOf_discardTaken (s : State) (x : Inbox) : flowOf (discardTaken s x) = flowOf s := by
  unfold discardTaken
  split
  · exact flowOf_discardDesc ..
  · rfl

/-! ### The restart of a thread (R267, R472) -/

/-- Between two states a core keeps its threads and its image, the image slots keep their bytes, and the debug port
keeps its requests. -/
structure KeepsThreads (c : Nat) (s t : State) : Prop where
  threads : (coreOf t c).threads = (coreOf s c).threads
  image : (coreOf t c).image = (coreOf s c).image
  fwmem : t.fwmem = s.fwmem
  reqs : t.dbg.reqs = s.dbg.reqs

namespace KeepsThreads

variable {c : Nat} {s t u : State}

theorem trans (h : KeepsThreads c s t) (k : KeepsThreads c t u) : KeepsThreads c s u :=
  ⟨k.threads.trans h.threads, k.image.trans h.image, k.fwmem.trans h.fwmem, k.reqs.trans h.reqs⟩

theorem of_flow (h : flowOf t = flowOf s) : KeepsThreads c s t := by
  obtain ⟨hcores, hfwmem, hdbg⟩ := by simpa only [flowOf, Prod.mk.injEq] using h
  exact ⟨by rw [coreOf, hcores]; rfl, by rw [coreOf, hcores]; rfl, hfwmem, by rw [hdbg]⟩

/-- A change of what the core holds. -/
theorem held (s : State) (f : Core → List (Nat × Nat)) :
    KeepsThreads c s (modCore s c fun k => { k with held := f k }) :=
  ⟨by rw [coreOf_modCore_same], by rw [coreOf_modCore_same], rfl, rfl⟩

theorem returnDescs (s : State) (xs : List Inbox) : KeepsThreads c s (returnDescs s c xs) := by
  refine (KeepsThreads.held s _).trans (.of_flow (flowOf_foldl _ _ fun _ _ => ?_))
  rfl

theorem releaseHeld (s : State) (p : Nat → Bool) : KeepsThreads c s (releaseHeld s c p) := by
  refine (KeepsThreads.held s _).trans (.of_flow (flowOf_foldl _ _ fun u h => ?_))
  exact flowOf_heldFree u c h.1

theorem thrOf (h : KeepsThreads c s t) (m : Nat) : thrOf t c m = thrOf s c m := by
  unfold Machine.thrOf
  rw [h.threads]

theorem imgEntry (h : KeepsThreads c s t) (i m : Nat) : imgEntry t i m = imgEntry s i m := by
  unfold Machine.imgEntry imgWord
  rw [h.fwmem]

end KeepsThreads

/-- What a thread that is restarted has given up is freed, and then it is stored at its entry. -/
theorem restartThr_put (s : State) (c m : Nat) :
    ∃ u ran, KeepsThreads c s u ∧ restartThr s c m true =
      putThr u c m { freshThr u ((imgEntry u (coreOf s c).image m).getD 0) ran with st := .halted, prev := .running } := by
  unfold restartThr
  refine ⟨_, _, ?_, rfl⟩
  refine .trans (.of_flow (flowOf_foldl _ s fun u x => ?_)) <|
    (KeepsThreads.returnDescs _ _).trans <| (KeepsThreads.releaseHeld _ _).trans (.of_flow rfl)
  exact flowOf_discardTaken u x.2

/-- HALTED at the entry that the image of the core has, with registers of zero. -/
def AtEntry (s : State) (c m : Nat) (th : Thr) : Prop :=
  th.st = .halted ∧ th.pc = (imgEntry s (coreOf s c).image m).getD 0 ∧ th.regs = []

theorem restartThr_atEntry (s : State) (c m : Nat) : AtEntry s c m (thrOf (restartThr s c m true) c m) := by
  obtain ⟨u, ran, hkeep, hput⟩ := restartThr_put s c m
  rw [hput, thrOf_putThr_same]
  obtain ⟨acc, at', htimed⟩ := timedThr_eq u (thrOf u c m)
    { freshThr u ((imgEntry u (coreOf s c).image m).getD 0) ran with st := .halted, prev := .running }
  rw [htimed]
  exact ⟨rfl, by rw [← hkeep.imgEntry]; rfl, rfl⟩

/-- A restart leaves the other threads, the image and the requests of the debug port. -/
theorem restartThr_leaves (s : State) (c m : Nat) :
    (∀ n, n ≠ m → thrOf (restartThr s c m true) c n = thrOf s c n) ∧
      (coreOf (restartThr s c m true) c).image = (coreOf s c).image ∧ (restartThr s c m true).fwmem = s.fwmem ∧
      (restartThr s c m true).dbg.reqs = s.dbg.reqs := by
  obtain ⟨u, ran, hkeep, hput⟩ := restartThr_put s c m
  rw [hput]
  obtain ⟨act, hcore⟩ := coreOf_putThr_same u c m
    { freshThr u ((imgEntry u (coreOf s c).image m).getD 0) ran with st := .halted, prev := .running }
  obtain ⟨cores, cnt, since, acc, hframe⟩ := (CoresOnly.refl u).putThr c m
    { freshThr u ((imgEntry u (coreOf s c).image m).getD 0) ran with st := .halted, prev := .running }
  refine ⟨fun n hn => (thrOf_putThr_ne u c _ hn).trans (hkeep.thrOf n), ?_, ?_, ?_⟩
  · rw [hcore]
    exact hkeep.image
  · rw [hframe]
    exact hkeep.fwmem
  · rw [hframe]
    exact hkeep.reqs

/-- The THREAD_RESET of a mask of a core. -/
def resetMask (s : State) (c mask : Nat) : State :=
  (List.range 16).foldl
    (fun s n => if bitOf mask n ∧ (thrOf s c n).st = .halted then restartThr s c n true else s) s

theorem resetMask_reqs (s : State) (c mask : Nat) : (resetMask s c mask).dbg.reqs = s.dbg.reqs :=
  List.foldlRecOn (motive := fun u : State => u.dbg.reqs = s.dbg.reqs) _ _ rfl fun u hu n _ => by
    split
    · exact (restartThr_leaves u c n).2.2.2.trans hu
    · exact hu

/-- The image and the entries of a core as they were. -/
def SameEntries (s u : State) (c : Nat) : Prop := (coreOf u c).image = (coreOf s c).image ∧ u.fwmem = s.fwmem

theorem SameEntries.restartThr {s u : State} {c : Nat} (h : SameEntries s u c) (n : Nat) :
    SameEntries s (restartThr u c n true) c := by
  obtain ⟨-, himage, hfwmem, -⟩ := restartThr_leaves u c n
  exact ⟨himage.trans h.1, hfwmem.trans h.2⟩

theorem SameEntries.atEntry {s u : State} {c n : Nat} {th : Thr} (h : SameEntries s u c) (ha : AtEntry u c n th) :
    AtEntry s c n th := by
  obtain ⟨himage, hfwmem⟩ := h
  unfold AtEntry imgEntry imgWord at ha ⊢
  rwa [himage, hfwmem] at ha

/-- Each HALTED thread of the mask is HALTED at its entry. -/
theorem resetMask_atEntry {s : State} {c mask i : Nat} (hi : i < 16) (hbit : bitOf mask i = true)
    (hst : (thrOf s c i).st = .halted) : AtEntry s c i (thrOf (resetMask s c mask) c i) := by
  refine foldl_visits (K := fun u => SameEntries s u c ∧ thrOf u c i = thrOf s c i)
    (Q := fun u => AtEntry s c i (thrOf u c i)) List.nodup_range (List.mem_range.mpr hi) ?before ?visit ?after
    ⟨⟨rfl, rfl⟩, rfl⟩
  case before =>
    rintro u n hn ⟨hsame, hthr⟩
    split
    · exact ⟨hsame.restartThr n, ((restartThr_leaves u c n).1 i hn.symm).trans hthr⟩
    · exact ⟨hsame, hthr⟩
  case visit =>
    rintro u ⟨hsame, hthr⟩
    rw [if_pos ⟨hbit, hthr ▸ hst⟩]
    exact hsame.atEntry (restartThr_atEntry u c i)
  case after =>
    intro u n hn hu
    split
    · rwa [(restartThr_leaves u c n).1 i hn.symm]
    · exact hu

/-! ### Run control (R472) -/

theorem coreOf_dbTaken (s : State) (l : List (Nat × Nat × List Nat × Bool)) (c : Nat) :
    coreOf (dbTaken s l) c = coreOf s c := rfl

theorem thrOf_dbTaken (s : State) (l : List (Nat × Nat × List Nat × Bool)) (c m : Nat) :
    thrOf (dbTaken s l) c m = thrOf s c m := rfl

theorem thrOf_respond (s : State) (op q : Nat) (want : Bool) (n : Nat) (res : List Nat) (c m : Nat) :
    thrOf (respond s op q want n res) c m = thrOf s c m := by
  unfold respond
  split <;> rfl

section
variable {s : State} {q : Nat} {y : List Nat} {l : List (Nat × Nat × List Nat × Bool)}

/-- What a run-control request has to meet: an open session with CONTROL, and a payload of two words that names a
core. -/
structure RunAllowed (s : State) (y : List Nat) : Prop where
  session : s.dbg.st = .open
  right : bitOf s.dbg.rights 1 = true
  payload : y.length = 2 ∧ y.getD 0 0 % 256 < 192

theorem runControl_allowed {op : Nat} {body : State → Nat → Nat → Nat → State × Option (Nat × List Nat)}
    (hreq : s.dbg.reqs = (op, q, y, true) :: l) (hlive : s.lk.st ≠ .lrs) (hrun : RunAllowed s y) :
    runControl s op body = dbAnswer op q (body (dbTaken s l) q (y.getD 0 0 % 256) (y.getD 1 0 % 65536)) := by
  obtain ⟨hopen, hright, hlen, hcore⟩ := hrun
  exact dbRun_allowed hreq hlive <| dbAllowed_of_right hopen rfl hright <| by
    simp only [lenIs, hlen, decide_true, Bool.true_and, decide_eq_true hcore]

variable (hlive : s.lk.st ≠ .lrs)
include hlive

theorem execHalt_answers (hreq : s.dbg.reqs = (0x10, q, y, true) :: l) (hrun : RunAllowed s y)
    (hnone : anyThr (haltMask (dbTaken s l) (y.getD 0 0 % 256) (y.getD 1 0 % 65536)) (y.getD 0 0 % 256)
      (y.getD 1 0 % 65536) (·.haltPend) = false) :
    execHalt s =
      .next (respond (haltMask (dbTaken s l) (y.getD 0 0 % 256) (y.getD 1 0 % 65536)) 0x10 q true 0 []) := by
  unfold execHalt
  rw [runControl_allowed hreq hlive hrun]
  dsimp only
  rw [if_neg (by rw [hnone]; exact Bool.false_ne_true)]
  rfl

theorem execHalt_halts (hreq : s.dbg.reqs = (0x10, q, y, true) :: l) (hrun : RunAllowed s y)
    (hnone : anyThr (haltMask (dbTaken s l) (y.getD 0 0 % 256) (y.getD 1 0 % 65536)) (y.getD 0 0 % 256)
      (y.getD 1 0 % 65536) (·.haltPend) = false) :
    ∃ t, execHalt s = .next t ∧
      (∀ i : Fin 16, bitOf (y.getD 1 0 % 65536) i.val = true →
        (mget? (coreOf s (y.getD 0 0 % 256)).threads i.val).isSome = true →
        (thrOf s (y.getD 0 0 % 256) i.val).st = .running ∨ (thrOf s (y.getD 0 0 % 256) i.val).st = .waiting →
        (thrOf t (y.getD 0 0 % 256) i.val).st = .halted ∧
          (thrOf t (y.getD 0 0 % 256) i.val).pc = (thrOf s (y.getD 0 0 % 256) i.val).pc ∧
          (thrOf t (y.getD 0 0 % 256) i.val).regs = (thrOf s (y.getD 0 0 % 256) i.val).regs) ∧
      t.dbg.reqs = l ∧ t.dbg.frameOut.take 2 = [word [(24, 0x10), (16, q), (0, 1)], 0] := by
  obtain ⟨cores, cnt, since, acc, hframe⟩ :=
    (CoresOnly.refl (dbTaken s l)).haltMask (y.getD 0 0 % 256) (y.getD 1 0 % 65536)
  refine ⟨_, execHalt_answers hlive hreq hrun hnone, fun i hbit hthr hst => ?_, ?_, rfl⟩
  · rw [← coreOf_dbTaken s l] at hthr
    rw [← thrOf_dbTaken s l] at hst ⊢
    rw [thrOf_respond]
    exact haltMask_halts i.isLt hbit hthr hst hnone
  · rw [hframe]
    rfl

theorem execResume_answers (hreq : s.dbg.reqs = (0x11, q, y, true) :: l) (hrun : RunAllowed s y) :
    execResume s =
      .next (respond (resumeMask (dbTaken s l) (y.getD 0 0 % 256) (y.getD 1 0 % 65536)) 0x11 q true 0 []) := by
  unfold execResume
  rw [runControl_allowed hreq hlive hrun]
  rfl

theorem execResume_resumes (hreq : s.dbg.reqs = (0x11, q, y, true) :: l) (hrun : RunAllowed s y) :
    ∃ t, execResume s = .next t ∧
      (∀ i : Fin 16, bitOf (y.getD 1 0 % 65536) i.val = true → (thrOf s (y.getD 0 0 % 256) i.val).st = .halted →
        (thrOf s (y.getD 0 0 % 256) i.val).wait = none →
        (thrOf t (y.getD 0 0 % 256) i.val).st = (thrOf s (y.getD 0 0 % 256) i.val).prev ∧
          (thrOf t (y.getD 0 0 % 256) i.val).pc = (thrOf s (y.getD 0 0 % 256) i.val).pc) ∧
      t.dbg.reqs = l ∧ t.dbg.frameOut.take 2 = [word [(24, 0x11), (16, q), (0, 1)], 0] := by
  obtain ⟨cores, since, acc, hframe⟩ :=
    (ThreadsOnly.refl (dbTaken s l)).resumeMask (y.getD 0 0 % 256) (y.getD 1 0 % 65536)
  refine ⟨_, execResume_answers hlive hreq hrun, fun i hbit hst hwait => ?_, ?_, rfl⟩
  · rw [← thrOf_dbTaken s l] at hst hwait ⊢
    rw [thrOf_respond]
    exact resumeMask_resumes i.isLt hbit hst hwait
  · rw [hframe]
    rfl

theorem execStep_starts {n : Nat} (hreq : s.dbg.reqs = (0x12, q, y, true) :: l) (hrun : RunAllowed s y)
    (hone : ((List.range 16).filter fun k => bitOf (y.getD 1 0 % 65536) k) = [n])
    (hst : (thrOf s (y.getD 0 0 % 256) n).st = .halted) (hslot : weight s (y.getD 0 0 % 256) n ≠ 0) :
    execStep s = .next (
      modDb (modThr (dbTaken s l) (y.getD 0 0 % 256) n fun th => { th with st := .running, stepping := true }) fun d =>
        { d with stepRes := 0, waiting := some (0x12, q, y.getD 0 0 % 256, y.getD 1 0 % 65536) }) := by
  have hst' : (thrOf (dbTaken s l) (y.getD 0 0 % 256) n).st = .halted := hst
  have hslot' : weight (dbTaken s l) (y.getD 0 0 % 256) n ≠ 0 := hslot
  unfold execStep
  rw [runControl_allowed hreq hlive hrun]
  simp only [hone]
  rw [if_neg (not_not_intro hst'), if_neg hslot']
  rfl

theorem execThreadReset_answers (hreq : s.dbg.reqs = (0x13, q, y, true) :: l) (hrun : RunAllowed s y) :
    execThreadReset s =
      .next (respond (resetMask (dbTaken s l) (y.getD 0 0 % 256) (y.getD 1 0 % 65536)) 0x13 q true 0 []) := by
  unfold execThreadReset
  rw [runControl_allowed hreq hlive hrun]
  rfl

theorem execThreadReset_restarts (hreq : s.dbg.reqs = (0x13, q, y, true) :: l) (hrun : RunAllowed s y) :
    ∃ t, execThreadReset s = .next t ∧
      (∀ i : Fin 16, bitOf (y.getD 1 0 % 65536) i.val = true → (thrOf s (y.getD 0 0 % 256) i.val).st = .halted →
        AtEntry s (y.getD 0 0 % 256) i.val (thrOf t (y.getD 0 0 % 256) i.val)) ∧
      t.dbg.reqs = l ∧ t.dbg.frameOut.take 2 = [word [(24, 0x13), (16, q), (0, 1)], 0] := by
  refine ⟨_, execThreadReset_answers hlive hreq hrun, fun i hbit hst => ?_, resetMask_reqs .., rfl⟩
  rw [← thrOf_dbTaken s l] at hst
  rw [thrOf_respond]
  have hsame : SameEntries s (dbTaken s l) (y.getD 0 0 % 256) := ⟨by rw [coreOf_dbTaken], rfl⟩
  exact hsame.atEntry (resetMask_atEntry i.isLt hbit hst)

/-! ### Breakpoints and watchpoints (R475) -/

section
variable (hopen : s.dbg.st = .open) (hright : bitOf s.dbg.rights 1 = true)
include hopen hright

theorem execBpSet_sets (hreq : s.dbg.reqs = (0x18, q, y, true) :: l) (hlen : y.length = 3)
    (hcore : y.getD 0 0 % 256 < 192) (hset : bitOf (y.getD 0 0) 31 = true) :
    execBpSet s = .next (respond (modDb (dbTaken s l) fun d => { d with
      bps := mset d.bps (y.getD 0 0 % 256 * 8 + bitsOf (y.getD 0 0) 10 8)
        { pc := y.getD 1 0 % 2 ^ 24, mask := y.getD 2 0 % 65536, all := bitOf (y.getD 0 0) 16 } }) 0x18 q true 0 []) := by
  unfold execBpSet
  rw [dbRun_allowed hreq hlive (dbAllowed_of_right hopen rfl hright (decide_eq_true hlen))]
  dsimp only
  rw [if_neg (Nat.not_le.mpr hcore), if_pos hset]
  rfl

theorem execBpSet_clears (hreq : s.dbg.reqs = (0x18, q, y, true) :: l) (hlen : y.length = 3)
    (hcore : y.getD 0 0 % 256 < 192) (hclear : bitOf (y.getD 0 0) 31 = false) :
    execBpSet s = .next (respond (modDb (dbTaken s l) fun d => { d with
      bps := mdel d.bps (y.getD 0 0 % 256 * 8 + bitsOf (y.getD 0 0) 10 8) }) 0x18 q true 0 []) := by
  unfold execBpSet
  rw [dbRun_allowed hreq hlive (dbAllowed_of_right hopen rfl hright (decide_eq_true hlen))]
  dsimp only
  rw [if_neg (Nat.not_le.mpr hcore), if_neg (ne_true_of_eq_false hclear)]
  rfl

section
variable (hreq : s.dbg.reqs = (0x19, q, y, true) :: l) (hlen : y.length = 4) (hcore : y.getD 0 0 % 256 < 192)
  (hpos : 1 ≤ y.getD 2 0 % 2 ^ 13) (hmost : y.getD 2 0 % 2 ^ 13 ≤ 4096)
  (hend : y.getD 1 0 % 2 ^ 18 + y.getD 2 0 % 2 ^ 13 ≤ 2 ^ 18)
include hreq hlen hcore hpos hmost hend

theorem execWpSet_sets (hset : bitOf (y.getD 0 0) 31 = true) :
    execWpSet s = .next (respond (modDb (dbTaken s l) fun d => { d with
      wps := mset d.wps (y.getD 0 0 % 256 * 4 + bitsOf (y.getD 0 0) 9 8)
        { base := y.getD 1 0 % 2 ^ 18, len := y.getD 2 0 % 2 ^ 13, mask := y.getD 3 0 % 65536
          rd := bitOf (y.getD 0 0) 16, wr := bitOf (y.getD 0 0) 17, all := bitOf (y.getD 0 0) 18 } })
      0x19 q true 0 []) := by
  unfold execWpSet
  rw [dbRun_allowed hreq hlive (dbAllowed_of_right hopen rfl hright (decide_eq_true hlen))]
  dsimp only
  rw [if_neg (by omega), if_pos hset]
  rfl

theorem execWpSet_clears (hclear : bitOf (y.getD 0 0) 31 = false) :
    execWpSet s = .next (respond (modDb (dbTaken s l) fun d => { d with
      wps := mdel d.wps (y.getD 0 0 % 256 * 4 + bitsOf (y.getD 0 0) 9 8) }) 0x19 q true 0 []) := by
  unfold execWpSet
  rw [dbRun_allowed hreq hlive (dbAllowed_of_right hopen rfl hright (decide_eq_true hlen))]
  dsimp only
  rw [if_neg (by omega), if_neg (ne_true_of_eq_false hclear)]
  rfl

end
end

/-! ### Memory and state (R476, R477) -/

/-- A READ of spaces 0 and 1 needs OBSERVE, and answers what is read. -/
theorem execRead_answers {t : State} {n : Nat} {res : List Nat} (hreq : s.dbg.reqs = (0x20, q, y, true) :: l)
    (hopen : s.dbg.st = .open) (hright : bitOf s.dbg.rights 0 = true) (hlen : y.length = 4) (hspace : spaceOf y < 2)
    (hcount : 1 ≤ countOf y ∧ countOf y ≤ 256) (hrun : s.lk.st ≠ .fatal)
    (hread : dbRead (dbTaken s l) (spaceOf y) (y.getD 1 0) (y.getD 2 0) (countOf y) = (t, some (n, res))) :
    execRead s = .next (respond t 0x20 q true n res) := by
  have hheld : ¬spaceHeld (dbTaken s l) (spaceOf y) = true := by
    simp only [spaceHeld, decide_eq_true_eq]
    exact fun h => hrun h.1
  have hneeds : (if spaceOf y = 2 ∨ spaceOf y = 3 then some 3 else some 0) = some 0 := if_neg (by omega)
  have hpl : (lenIs 4 y && decide (1 ≤ countOf y ∧ countOf y ≤ 256)) = true := by
    rw [lenIs, decide_eq_true hlen, decide_eq_true hcount]
    rfl
  unfold execRead
  rw [dbRun_allowed hreq hlive (dbAllowed_of_right hopen hneeds hright hpl), if_neg hheld, hread]
  rfl

/-- A WRITE needs MODIFY, and its payload as many words as it says. -/
theorem execWrite_answers {t : State} {n : Nat} {res : List Nat} (hreq : s.dbg.reqs = (0x21, q, y, true) :: l)
    (hopen : s.dbg.st = .open) (hright : bitOf s.dbg.rights 2 = true) (hcount : 1 ≤ countOf y ∧ countOf y ≤ 256)
    (hlen : y.length = 4 + countOf y) (hrun : s.lk.st ≠ .fatal)
    (hwrite : dbWrite (dbTaken s l) (spaceOf y) (y.getD 1 0) (y.getD 2 0) (y.drop 4) = (t, some (n, res))) :
    execWrite s = .next (respond t 0x21 q true n res) := by
  have hheld : ¬spaceHeld (dbTaken s l) (spaceOf y) = true := by
    simp only [spaceHeld, decide_eq_true_eq]
    exact fun h => hrun h.1
  have hpl : (decide (1 ≤ countOf y ∧ countOf y ≤ 256) && lenIs (4 + countOf y) y) = true := by
    rw [lenIs, decide_eq_true hlen, decide_eq_true hcount]
    rfl
  unfold execWrite
  rw [dbRun_allowed hreq hlive (dbAllowed_of_right hopen rfl hright hpl), if_neg hheld, hwrite]
  rfl

end

section
variable {s : State} {sp a b n : Nat} {ws : List Nat}

/-- Words of a core's local memory are read. -/
theorem dbRead_lmem (hsp : sp = 0) (hcore : a % 256 < 192) (halign : b % 4 = 0) (hend : b + 4 * n ≤ 2 ^ 18) :
    dbRead s sp a b n = (s, some (0, wordsOf (readMem s.lmem (lmAddr (a % 256) b) (4 * n)) n)) := by
  subst hsp
  have hplace : placeBad s 0 a b n = none := if_neg (by omega)
  unfold dbRead
  rw [hplace]
  rfl

/-- Words of the state of a HALTED thread are read. -/
theorem dbRead_thread (hsp : sp = 1) (hcore : a % 256 < 192) (hend : b + n ≤ 82)
    (hst : (thrOf s (a % 256) (bitsOf a 11 8)).st = .halted) :
    dbRead s sp a b n =
      (s, some (0, (List.range n).map fun i => thrWord (thrOf s (a % 256) (bitsOf a 11 8)) (b + i))) := by
  subst hsp
  have hplace : placeBad s 1 a b n = none := (if_neg (by omega)).trans (if_neg (not_not_intro hst))
  unfold dbRead
  rw [hplace]
  rfl

/-- Words of a core's local memory are written. -/
theorem dbWrite_lmem (hsp : sp = 0) (hcore : a % 256 < 192) (halign : b % 4 = 0)
    (hend : b + 4 * ws.length ≤ 2 ^ 18) :
    dbWrite s sp a b ws =
      ({ s with lmem := writeMem s.lmem (lmAddr (a % 256) b) (ws.flatMap fun w => leBytes 4 w) }, some (0, [])) := by
  subst hsp
  have hplace : placeBad s 0 a b ws.length = none := if_neg (by omega)
  unfold dbWrite
  dsimp only
  rw [if_neg (by decide), hplace]
  rfl

/-- The read-only spaces are refused. -/
theorem dbWrite_readOnly (hsp : sp = 3 ∨ sp = 6 ∨ sp = 7) : dbWrite s sp a b ws = (s, some (6, [])) := if_pos hsp

end

/-- Settles O44: the clauses are the rules of their commands; what THREAD_RESET frees leaves the threads as they are. -/
theorem debugCommands : Obligations.DebugCommands :=
  ⟨fun _ _ _ _ hreq hlive hopen hright hy hnone => execHalt_answers hlive hreq ⟨hopen, hright, hy⟩ hnone,
    fun _ _ _ _ hreq hlive hopen hright hy => execResume_answers hlive hreq ⟨hopen, hright, hy⟩,
    fun _ _ _ _ _ hreq hlive hopen hright hy hone hst hslot =>
      execStep_starts hlive hreq ⟨hopen, hright, hy⟩ hone hst hslot,
    fun _ _ _ _ hreq hlive hopen hright hy => execThreadReset_answers hlive hreq ⟨hopen, hright, hy⟩,
    fun _ _ _ _ hreq hlive hopen hright hy hset => execBpSet_sets hlive hopen hright hreq hy.1 hy.2 hset,
    fun _ _ _ _ hreq hlive hopen hright hy hclear => execBpSet_clears hlive hopen hright hreq hy.1 hy.2 hclear,
    fun _ _ _ _ hreq hlive hopen hright hy hrange hset =>
      execWpSet_sets hlive hopen hright hreq hy.1 hy.2 hrange.1 hrange.2.1 hrange.2.2 hset,
    fun _ _ _ _ hreq hlive hopen hright hy hrange hclear =>
      execWpSet_clears hlive hopen hright hreq hy.1 hy.2 hrange.1 hrange.2.1 hrange.2.2 hclear,
    fun _ _ _ _ hreq hlive hopen hright ⟨hlen, hspace⟩ hcount hrun ⟨hcore, halign, hend⟩ =>
      execRead_answers hlive hreq hopen hright hlen (lt_of_eq_of_lt hspace (by decide)) hcount hrun
        (dbRead_lmem hspace hcore halign hend),
    fun _ _ _ _ hreq hlive hopen hright ⟨hlen, hspace⟩ hcount hrun ⟨hcore, hend⟩ hst =>
      execRead_answers hlive hreq hopen hright hlen (lt_of_eq_of_lt hspace (by decide)) hcount hrun
        (dbRead_thread hspace hcore hend hst),
    fun _ _ _ _ hreq hlive hopen hright ⟨hmin, hmax, hlen, hspace⟩ hrun ⟨hcore, halign, hend⟩ =>
      execWrite_answers hlive hreq hopen hright ⟨hmin, hmax⟩ hlen hrun (dbWrite_lmem hspace hcore halign hend),
    fun _ _ _ _ hreq hlive hopen hright ⟨hmin, hmax, hlen⟩ hspace hrun =>
      execWrite_answers hlive hreq hopen hright ⟨hmin, hmax⟩ hlen hrun (dbWrite_readOnly hspace),
    fun _ _ _ _ hreq hlive hclosed => congrArg Host.Outcome.next (dbRun_notAuthorised hreq hlive hclosed),
    fun _ _ _ _ hreq hlive hclosed => congrArg Host.Outcome.next (dbRun_notAuthorised hreq hlive hclosed),
    fun _ _ _ _ hreq hlive hclosed => congrArg Host.Outcome.next (dbRun_notAuthorised hreq hlive hclosed),
    fun _ _ _ _ hreq hlive hopen hright => congrArg Host.Outcome.next (dbRun_noRight hreq hlive hopen rfl hright),
    fun _ _ _ _ hreq hlive hopen hright hy hnone => execHalt_halts hlive hreq ⟨hopen, hright, hy⟩ hnone,
    fun _ _ _ _ hreq hlive hopen hright hy => execResume_resumes hlive hreq ⟨hopen, hright, hy⟩,
    fun _ _ _ _ hreq hlive hopen hright hy => execThreadReset_restarts hlive hreq ⟨hopen, hright, hy⟩⟩

end Sys2Proof.Machine
